-- ==== Sys2Proof/Word.lean ====
section
/-! DEFINITION. The word types of the device: 32-bit registers and slots (R45, R77) and bytes of memory (R36). -/

namespace Sys2Proof

/-- A register, slot value or Cadence register: 32 bits. -/
abbrev Word := BitVec 32

/-- A byte of memory. -/
abbrev Byte := BitVec 8

end Sys2Proof
end

