-- ==== Sys2Proof/Syntax.lean ====
section
/-! DEFINITION. The commands of the block: one constructor of `Instr` per row of the spec's operation table, with the row's operands,
and the plain types those operands use. -/

namespace Sys2Proof

/-- The masters that reach register pages (R43): host cores H0 to H3, the monitor and the SPI host port. -/
inductive Master where
  | h0 | h1 | h2 | h3 | mon | spi
  deriving DecidableEq, Repr

/-- The blocks of R39; each CAN port is a page instance of its own (R44). -/
inductive Blk where
  | sys | int | fab | xlt | mem | nfm | pfm | cad | lpe | slv | spk | net | tsu | mtr | fio
  | can (port : Fin 4)
  | tdm | evr | kst | pwr | rtc | pnl | bgs
  deriving DecidableEq, Repr

/-- The power domains of R39. -/
inductive Domain where
  | core | cad | slv | mem | net | fld | pnl | aon
  deriving DecidableEq, Repr

/-- The kinds of access of R37. -/
inductive Access where
  | read | write | amo | fetch
  deriving DecidableEq, Repr

/-- What a scheduled instance asks for during a cycle (R101 to R103). -/
inductive PostKind where
  | lsp (slot loop : Nat) (v : Word)
  | lmode (slot loop : Nat) (mode : Nat)
  | lman (slot loop : Nat) (v : Word)
  | slvq (template : Nat) (deadlineNs : Nat)
  | evt (code sev : Nat) (p0 p1 : Nat)
  deriving DecidableEq, Repr

/-- A force table entry that is not FREE (R131, R132): `orphan` or ACTIVE. -/
structure Force where
  sig : Nat
  value : Word
  qual : Nat
  orphan : Bool
  deriving DecidableEq, Repr

/-- Guard state of a signal (R216): previous guarded value, slew remainder, toggle tokens and the time (µs) since the last refill. -/
structure GuardState where
  prev : Word
  rem : Nat
  tokens : Nat
  since : Nat
  deriving DecidableEq, Repr

/-- A loop record as the working copy holds it (R197). -/
structure LoopRec where
  used : Bool := false
  pvSig : Nat := 0
  qlim : Nat := 0
  rev : Bool := false
  kp : Int := 0
  ki : Int := 0
  kd : Int := 0
  kf : Int := 0
  shP : Nat := 0
  shI : Nat := 0
  shD : Nat := 0
  shF : Nat := 0
  db : Nat := 0
  ramp : Nat := 0
  restartThr : Nat := 0
  spInit : Int := 0
  manInit : Int := 0
  modeInit : Nat := 0
  deriving DecidableEq, Repr

/-- A loop's state (R205 to R209): mode, target and previous target, manual output, effective setpoint, filter and error history,
and the marks that the history and the soft start begin anew. -/
structure LoopState where
  mode : Nat := 0
  target : Int := 0
  manual : Int := 0
  spEff : Int := 0
  pvf1 : Int := 0
  pvf2 : Int := 0
  e1 : Int := 0
  fresh : Bool := true
  restart : Bool := true
  deriving DecidableEq, Repr

/-- The working copy of a loop table entry (R196). -/
structure SlotEntry where
  lockTask : Nat := 0
  locked : Bool := false
  compChar : Bool := false
  compStic : Bool := false
  failOut : Bool := false
  period : Nat := 0
  phase : Nat := 0
  outSig : Nat := 0
  outMin : Int := 0
  outMax : Int := 0
  failVal : Int := 0
  fbSig : Nat := 0
  fbEn : Bool := false
  fbLo : Int := 0
  fbShift : Nat := 0
  sticN : Nat := 1
  sticDb : Nat := 0
  loops : List LoopRec := []
  chr : List Nat := []
  stic : List Int := []
  deriving DecidableEq, Repr

/-- A loop slot beside its registers: working copy, loop states, selected output history, compensation state, waiting command and
requests (R199 to R212). -/
structure LpeSlot where
  entry : SlotEntry := {}
  loops : List LoopState := []
  /-- The previous selected output u_fb (R205). -/
  uFb : Int := 0
  /-- Previous selected output before compensation and position command (R211). -/
  uSel1 : Int := 0
  p1 : Int := 0
  /-- Sign of the last nonzero ΔP (R212). -/
  lastSign : Int := 0
  /-- Feedback of the previous samples, newest first (R212). -/
  fbHist : List Int := []
  /-- The slot offered no output at the last sample (R207). -/
  holding : Bool := false
  /-- A command waiting for the sample instant: OP (R199); 0 none. -/
  cmd : Nat := 0
  /-- The entry read for a waiting ENABLE or RELOAD is read at the instant itself. -/
  posts : List PostKind := []
  /-- The selected output of the most recent evaluation, before compensation (R101, R208). -/
  lout : Word := 0
  /-- A publication of LOCK_TASK whose evaluation has not started (R203). -/
  due : Bool := false
  /-- Unlocked: number of the last due instant served or dropped (R200, R203). -/
  served : Nat := 0
  deriving DecidableEq, Repr

/-- What a join carries across a pair (R378): instance memory, STATE and last two starts (ns) of each task, HOLD and POISONED
instances, the force table, the loop slots with their STATE, the guard state, and the solver templates' status words and current window
halves with their contents. -/
structure JoinCopy where
  mem : List Byte := []
  tasks : List (Nat × Nat × Nat) := []
  hold : List Nat := []
  poisoned : List Nat := []
  forces : List (Nat × Force) := []
  loops : List (Nat × Nat × LpeSlot) := []
  guard : List (Nat × GuardState) := []
  halves : List (Nat × Word × Bool × List Byte) := []
  banks : List Nat := []
  deriving DecidableEq, Repr

/-- A Spoke frame on the wire (R157): destination and source addresses, EtherType, the bytes from the Spoke header to the end of the
area and tag (header at 0, area at 16, tag behind the area), and whether its FCS is correct. -/
structure SpokeFrame where
  da : BitVec 48
  sa : BitVec 48
  etype : BitVec 16
  body : List Byte
  fcs : Bool := true
  deriving DecidableEq, Repr

/-- What the solver's surroundings contribute to an iteration or a factor build: corrected tile errors, and an uncorrectable one with the
factor slots it touches (R251, R264); the durations of the six phases and of the iteration in µs (R253). -/
structure IterOut where
  corr : Nat := 0
  ue : Option (Fin 8 × BitVec 4) := none
  phases : List Nat := []
  us : Nat := 0
  deriving DecidableEq, Repr

/-- An Ethernet frame on a switch port (R316): destination and source addresses, the bytes behind them up to the FCS, and whether the
FCS is correct. -/
structure EthFrame where
  da : BitVec 48
  sa : BitVec 48
  rest : List Byte
  fcs : Bool := true
  deriving DecidableEq, Repr

/-- A CAN frame on a port's bus (R352, R353, R356): the identifier word (bits 28:0 ID, 29 IDE, 30 RTR, 31 FDF), DLC, BRS, ESI and the
data bytes. -/
structure CanFrame where
  idw : Word
  dlc : BitVec 4
  brs : Bool := false
  esi : Bool := false
  data : List Byte
  deriving DecidableEq, Repr

/-- What an error on the bus does to the counters by the rules of ISO 11898-1 (R362): the receiver's 1, the receiver's 8, the
transmitter's 8, or nothing. -/
inductive CanErrKind where
  | rx1 | rx8 | tx8 | none
  deriving DecidableEq, Repr

/-- The atomic memory operations of R36. -/
inductive Amo where
  | swap | add | xor | and | or | min | max | minu | maxu
  deriving DecidableEq, Repr

/-- What a fabric transaction asks (R36, R432): a read, a fetch or a write of bytes, LR of 4 or 8 bytes, SC, or an atomic operation on as
many bytes as its operand has. -/
inductive FabOp where
  | read (n : Nat)
  | fetch (n : Nat)
  | write (data : List Byte)
  | lr (double : Bool)
  | sc (data : List Byte)
  | amo (f : Amo) (data : List Byte)
  deriving DecidableEq, Repr

/-- What an access finds of a word (R440): nothing amiss, an error that is corrected, an uncorrectable one. -/
inductive EccFate where
  | clean | corr | uncorr
  deriving DecidableEq, Repr

/-- A step of a fabric transaction (R431 to R436). `issue`: a master asks for a tag and puts an item into its channel; `flush`: it is of the
power-fail flush path. `serve`: the fabric serves the next item, or its target gives no answer; `ecc`: what it finds of its 64-bit words, from the
first on, nothing amiss where the list ends; `lat`: the latency in fabric cycles. -/
inductive FabStep where
  | issue (port : Fin 16) (sub : Fin 4) (a : Nat) (op : FabOp) (flush : Bool)
  | serve (ecc : List EccFate) (answered : Bool) (lat : Nat)
  deriving DecidableEq, Repr

/-- What the NAND does with a host command (R449, R450): it succeeds, a page is uncorrectable, or a reserved page would be needed. -/
inductive NandFate where
  | ok | uncorr | busy
  deriving DecidableEq, Repr

/-- The commands: one constructor per row of the operation table. -/
inductive Instr where
  /-- REG_WRITE (R52): A register write with no row of its own is applied field by field, each field under its access class. -/
  | regWrite (m : Master) (a : BitVec 40) (v : Word)
  /-- RC_READ (R57): A read of an RC field with no row of its own returns the value to exactly one reader and clears it. -/
  | rcRead (m : Master) (a : BitVec 40)
  /-- UNMAPPED_ACCESS (R37): An access to an unmapped address, or one that breaks a host attribute, returns 0 or has no effect, with an error response. -/
  | unmappedAccess (m : Master) (a : BitVec 40) (k : Access)
  /-- REG_BAD_WIDTH (R40): A register-page access that is not a naturally aligned 32-bit access is answered with an error and changes nothing. -/
  | regBadWidth (m : Master) (a : BitVec 40) (width : Nat) (k : Access)
  /-- REG_ACCESS_POWERED_OFF (R41): An access to a page whose domain is off or isolated is answered by the fabric with an error response. -/
  | regAccessPoweredOff (m : Master) (a : BitVec 40) (k : Access)
  /-- BLK_ENABLE (R46): A write of BLK_CTRL.EN = 1 runs the block, or is discarded with code 0x04 while STOPPING is 1. -/
  | blkEnable (m : Master) (b : Blk)
  /-- BLK_STOP (R46): A write of EN = 0 while EN is 1 requests a stop and sets STOPPING. -/
  | blkStop (m : Master) (b : Blk)
  /-- STOP_BOUNDARY (R46): The block reaches its stop boundary, and EN and STOPPING change together. -/
  | stopBoundary (b : Blk)
  /-- SOFT_RST (R47): A soft reset returns the block's registers to their reset values, except locks, and empties its queues within 64 cycles. -/
  | softRst (m : Master) (b : Blk)
  /-- FREEZE (R48): A write of FREEZE halts the block at its next commit boundary if debug is enabled, else it is discarded with code 0x03. -/
  | freeze (m : Master) (b : Blk) (on : Bool)
  /-- CFG_LOCK (R50): Setting CFG_LOCK makes all RWL and RWS fields of the block unwritable. -/
  | cfgLock (m : Master) (b : Blk)
  /-- CTRL_LOCK (R50): Setting CTRL_LOCK makes BLK_CTRL.EN and SOFT_RST unwritable. -/
  | ctrlLock (m : Master) (b : Blk)
  /-- FORCE_LOCK (R133): Setting CAD FORCE_LOCK makes force SET and REARM end with LOCKED. -/
  | forceLock (m : Master)
  /-- CHG_LOCK (R151): Setting CAD CHG_LOCK makes ARM of an online change end discarded with code 0x02. -/
  | chgLock (m : Master)
  /-- CFGSUM_UPDATE (R51): Within 2 us of a change of an active value, BLK_CFGSUM takes the new CRC-32 and SUM_PEND clears. -/
  | cfgsumUpdate (b : Blk)
  /-- CLAIM (R63): A read of INT_TGT_CLAIMt returns the highest-priority eligible source and marks it in service. -/
  | claim (m : Master) (t : Fin 5)
  /-- COMPLETE (R64): A write of INT_TGT_COMPLETEt ends service of the source, or is discarded with code 0x80. -/
  | complete (m : Master) (t : Fin 5) (src : BitVec 7)
  /-- DB_SET (R59): Writing 1 to a doorbell bit of INT_DB_SET drives software source 120 + d. -/
  | dbSet (m : Master) (v : BitVec 8)
  /-- DB_CLR (R59): Writing 1 to a doorbell bit of INT_DB_CLR clears doorbell d. -/
  | dbClr (m : Master) (v : BitVec 8)
  /-- INT_SRC_CFG (R66): A write of INT_SRC_CFGn sets routing and priority, leaving TGT_M and the KST sources' priority unchanged for non-monitor masters. -/
  | intSrcCfg (m : Master) (n : BitVec 7) (v : Word)
  /-- LDS (R88): LDS loads a slot value from the task snapshot or the live image. -/
  | lds (c : Fin 16) (reg : BitVec 5) (slot : BitVec 16)
  /-- LDS_ST (R88): LDS.ST loads a slot's status word. -/
  | ldsSt (c : Fin 16) (reg : BitVec 5) (slot : BitVec 16)
  /-- STS (R88): STS writes a slot's value and quality into the live image. -/
  | sts (c : Fin 16) (reg : BitVec 5) (slot : BitVec 16) (q : BitVec 3)
  /-- QTST (R88): QTST sets a register to 1 when the slot quality is at most L. -/
  | qtst (c : Fin 16) (reg : BitVec 5) (slot : BitVec 16) (l : BitVec 3)
  /-- QTST_F (R88): QTST.F returns a slot's FORCED bit. -/
  | qtstF (c : Fin 16) (reg : BitVec 5) (slot : BitVec 16)
  /-- LDSX (R88): LDSX loads the value of the slot indexed by a register. -/
  | ldsx (c : Fin 16) (rd rs1 : BitVec 5)
  /-- LDSX_ST (R88): LDSX.ST loads the status word of the slot indexed by a register. -/
  | ldsxSt (c : Fin 16) (rd rs1 : BitVec 5)
  /-- STSX (R88): STSX writes the slot indexed by a register with a value and quality. -/
  | stsx (c : Fin 16) (rs1 rs2 : BitVec 5) (q : BitVec 3)
  /-- LDW (R89): LDW loads 32 bits of instance data. -/
  | ldw (c : Fin 16) (rd rs1 : BitVec 5) (imm : BitVec 16)
  /-- LDH (R89): LDH loads 16 bits of instance data, sign-extended. -/
  | ldh (c : Fin 16) (rd rs1 : BitVec 5) (imm : BitVec 16)
  /-- LDB (R89): LDB loads 8 bits of instance data, zero-extended. -/
  | ldb (c : Fin 16) (rd rs1 : BitVec 5) (imm : BitVec 16)
  /-- STW (R89): STW stores 32 bits into instance data. -/
  | stw (c : Fin 16) (rd rs1 : BitVec 5) (imm : BitVec 16)
  /-- STH (R89): STH stores 16 bits into instance data. -/
  | sth (c : Fin 16) (rd rs1 : BitVec 5) (imm : BitVec 16)
  /-- STB (R89): STB stores 8 bits into instance data. -/
  | stb (c : Fin 16) (rd rs1 : BitVec 5) (imm : BitVec 16)
  /-- LDK (R89): LDK loads a sign-extended 16-bit constant. -/
  | ldk (c : Fin 16) (rd : BitVec 5) (imm : BitVec 16)
  /-- LDKH (R89): LDKH loads the upper 16 bits of a register, keeping the lower half. -/
  | ldkh (c : Fin 16) (rd : BitVec 5) (imm : BitVec 16)
  /-- ADD (R90): ADD forms a wrapping sum. -/
  | add (c : Fin 16) (rd rs1 rs2 : BitVec 5)
  /-- SUB (R90): SUB forms a wrapping difference. -/
  | sub (c : Fin 16) (rd rs1 rs2 : BitVec 5)
  /-- ADDS (R90): ADDS forms a saturating sum and sets SAT on clipping. -/
  | adds (c : Fin 16) (rd rs1 rs2 : BitVec 5)
  /-- SUBS (R90): SUBS forms a saturating difference and sets SAT on clipping. -/
  | subs (c : Fin 16) (rd rs1 rs2 : BitVec 5)
  /-- AND (R90): AND forms a bitwise and. -/
  | and (c : Fin 16) (rd rs1 rs2 : BitVec 5)
  /-- OR (R90): OR forms a bitwise or. -/
  | or (c : Fin 16) (rd rs1 rs2 : BitVec 5)
  /-- XOR (R90): XOR forms a bitwise exclusive or. -/
  | xor (c : Fin 16) (rd rs1 rs2 : BitVec 5)
  /-- SLL (R90): SLL shifts left by a register amount. -/
  | sll (c : Fin 16) (rd rs1 rs2 : BitVec 5)
  /-- SRL (R90): SRL shifts right logically by a register amount. -/
  | srl (c : Fin 16) (rd rs1 rs2 : BitVec 5)
  /-- SRA (R90): SRA shifts right arithmetically by a register amount. -/
  | sra (c : Fin 16) (rd rs1 rs2 : BitVec 5)
  /-- MUL (R90): MUL gives the low 32 bits of a product. -/
  | mul (c : Fin 16) (rd rs1 rs2 : BitVec 5)
  /-- MULH (R90): MULH gives the high 32 bits of a signed product. -/
  | mulh (c : Fin 16) (rd rs1 rs2 : BitVec 5)
  /-- MULHU (R90): MULHU gives the high 32 bits of an unsigned product. -/
  | mulhu (c : Fin 16) (rd rs1 rs2 : BitVec 5)
  /-- DIV (R91): DIV divides signed without trapping, setting DZ or SAT in the special cases. -/
  | div (c : Fin 16) (rd rs1 rs2 : BitVec 5)
  /-- DIVU (R91): DIVU divides unsigned, giving 0xFFFF_FFFF and DZ for a zero divisor. -/
  | divu (c : Fin 16) (rd rs1 rs2 : BitVec 5)
  /-- REM (R91): REM gives the signed remainder with the sign of the dividend. -/
  | rem (c : Fin 16) (rd rs1 rs2 : BitVec 5)
  /-- REMU (R91): REMU gives the unsigned remainder. -/
  | remu (c : Fin 16) (rd rs1 rs2 : BitVec 5)
  /-- MIN (R90): MIN gives the signed minimum. -/
  | min (c : Fin 16) (rd rs1 rs2 : BitVec 5)
  /-- MAX (R90): MAX gives the signed maximum. -/
  | max (c : Fin 16) (rd rs1 rs2 : BitVec 5)
  /-- MINU (R90): MINU gives the unsigned minimum. -/
  | minu (c : Fin 16) (rd rs1 rs2 : BitVec 5)
  /-- MAXU (R90): MAXU gives the unsigned maximum. -/
  | maxu (c : Fin 16) (rd rs1 rs2 : BitVec 5)
  /-- ABS (R90): ABS gives the saturating absolute value. -/
  | abs (c : Fin 16) (rd rs1 : BitVec 5)
  /-- NEG (R90): NEG gives the saturating negation. -/
  | neg (c : Fin 16) (rd rs1 : BitVec 5)
  /-- ADDI (R90): ADDI adds a sign-extended immediate. -/
  | addi (c : Fin 16) (rd rs1 : BitVec 5) (imm : BitVec 16)
  /-- ANDI (R90): ANDI ands a zero-extended immediate. -/
  | andi (c : Fin 16) (rd rs1 : BitVec 5) (imm : BitVec 16)
  /-- ORI (R90): ORI ors a zero-extended immediate. -/
  | ori (c : Fin 16) (rd rs1 : BitVec 5) (imm : BitVec 16)
  /-- XORI (R90): XORI exclusive-ors a zero-extended immediate. -/
  | xori (c : Fin 16) (rd rs1 : BitVec 5) (imm : BitVec 16)
  /-- SHI_SLL (R90): SHI of kind SLL shifts left by an immediate amount. -/
  | shiSll (c : Fin 16) (rd rs1 : BitVec 5) (n : BitVec 5)
  /-- SHI_SRL (R90): SHI of kind SRL shifts right logically by an immediate amount. -/
  | shiSrl (c : Fin 16) (rd rs1 : BitVec 5) (n : BitVec 5)
  /-- SHI_SRA (R90): SHI of kind SRA shifts right arithmetically by an immediate amount. -/
  | shiSra (c : Fin 16) (rd rs1 : BitVec 5) (n : BitVec 5)
  /-- SLTI (R94): SLTI gives 1 when a register is below a signed immediate. -/
  | slti (c : Fin 16) (rd rs1 : BitVec 5) (imm : BitVec 16)
  /-- QMUL (R92): QMUL multiplies fixed-point values with rounding, shift and saturation. -/
  | qmul (c : Fin 16) (rd rs1 rs2 : BitVec 5) (n : BitVec 5)
  /-- QDIV (R92): QDIV divides fixed-point values, truncating, with saturation. -/
  | qdiv (c : Fin 16) (rd rs1 rs2 : BitVec 5) (n : BitVec 5)
  /-- QSHL (R92): QSHL shifts a fixed-point value left with saturation. -/
  | qshl (c : Fin 16) (rd rs1 : BitVec 5) (n : BitVec 5)
  /-- QSHR (R92): QSHR shifts a fixed-point value right with rounding. -/
  | qshr (c : Fin 16) (rd rs1 : BitVec 5) (n : BitVec 5)
  /-- QMAC (R92): QMAC accumulates a fixed-point product with one final saturation. -/
  | qmac (c : Fin 16) (rd rs1 rs2 : BitVec 5) (n : BitVec 5)
  /-- QLIM (R92): QLIM clamps a register between two limits. -/
  | qlim (c : Fin 16) (rd rs1 rs2 : BitVec 5)
  /-- FADD (R93): FADD adds binary32 values. -/
  | fadd (c : Fin 16) (rd rs1 rs2 : BitVec 5)
  /-- FSUB (R93): FSUB subtracts binary32 values. -/
  | fsub (c : Fin 16) (rd rs1 rs2 : BitVec 5)
  /-- FMUL (R93): FMUL multiplies binary32 values. -/
  | fmul (c : Fin 16) (rd rs1 rs2 : BitVec 5)
  /-- FDIV (R93): FDIV divides binary32 values. -/
  | fdiv (c : Fin 16) (rd rs1 rs2 : BitVec 5)
  /-- FSQRT (R93): FSQRT takes a binary32 square root. -/
  | fsqrt (c : Fin 16) (rd rs1 : BitVec 5)
  /-- FMIN (R93): FMIN gives IEEE minimumNumber. -/
  | fmin (c : Fin 16) (rd rs1 rs2 : BitVec 5)
  /-- FMAX (R93): FMAX gives IEEE maximumNumber. -/
  | fmax (c : Fin 16) (rd rs1 rs2 : BitVec 5)
  /-- FABS (R93): FABS clears the sign bit. -/
  | fabs (c : Fin 16) (rd rs1 : BitVec 5)
  /-- FNEG (R93): FNEG inverts the sign bit. -/
  | fneg (c : Fin 16) (rd rs1 : BitVec 5)
  /-- FCVT_S_W (R93): FCVT.S.W converts a signed integer to binary32. -/
  | fcvtSW (c : Fin 16) (rd rs1 : BitVec 5)
  /-- FCVT_W_S (R93): FCVT.W.S converts binary32 to a saturating signed integer. -/
  | fcvtWS (c : Fin 16) (rd rs1 : BitVec 5)
  /-- FCVT_S_Q (R93): FCVT.S.Q converts a fixed-point value to binary32. -/
  | fcvtSQ (c : Fin 16) (rd rs1 : BitVec 5) (n : BitVec 5)
  /-- FCVT_Q_S (R93): FCVT.Q.S converts binary32 to a saturating fixed-point value. -/
  | fcvtQS (c : Fin 16) (rd rs1 : BitVec 5) (n : BitVec 5)
  /-- EQ (R94): EQ compares integers for equality. -/
  | eq (c : Fin 16) (rd rs1 rs2 : BitVec 5)
  /-- NE (R94): NE compares integers for inequality. -/
  | ne (c : Fin 16) (rd rs1 rs2 : BitVec 5)
  /-- LT (R94): LT compares signed less than. -/
  | lt (c : Fin 16) (rd rs1 rs2 : BitVec 5)
  /-- LE (R94): LE compares signed less or equal. -/
  | le (c : Fin 16) (rd rs1 rs2 : BitVec 5)
  /-- LTU (R94): LTU compares unsigned less than. -/
  | ltu (c : Fin 16) (rd rs1 rs2 : BitVec 5)
  /-- LEU (R94): LEU compares unsigned less or equal. -/
  | leu (c : Fin 16) (rd rs1 rs2 : BitVec 5)
  /-- FEQ (R94): FEQ compares binary32 values for equality. -/
  | feq (c : Fin 16) (rd rs1 rs2 : BitVec 5)
  /-- FLT (R94): FLT compares binary32 less than, setting FINV on NaN. -/
  | flt (c : Fin 16) (rd rs1 rs2 : BitVec 5)
  /-- FLE (R94): FLE compares binary32 less or equal, setting FINV on NaN. -/
  | fle (c : Fin 16) (rd rs1 rs2 : BitVec 5)
  /-- FUN (R94): FUN gives 1 when either operand is NaN. -/
  | fun (c : Fin 16) (rd rs1 rs2 : BitVec 5)
  /-- BAND (R94): BAND forms a Boolean and. -/
  | band (c : Fin 16) (rd rs1 rs2 : BitVec 5)
  /-- BOR (R94): BOR forms a Boolean or. -/
  | bor (c : Fin 16) (rd rs1 rs2 : BitVec 5)
  /-- BXOR (R94): BXOR forms a Boolean exclusive or. -/
  | bxor (c : Fin 16) (rd rs1 rs2 : BitVec 5)
  /-- BNOT (R94): BNOT forms a Boolean not. -/
  | bnot (c : Fin 16) (rd rs1 : BitVec 5)
  /-- SEL (R94): SEL selects one of two registers by a third. -/
  | sel (c : Fin 16) (rd rs1 rs2 rs3 : BitVec 5)
  /-- TON (R95): TMR of kind TON updates an on-delay timer block. -/
  | ton (c : Fin 16) (rd rs1 : BitVec 5) (off : BitVec 14)
  /-- TOF (R95): TMR of kind TOF updates an off-delay timer block. -/
  | tof (c : Fin 16) (rd rs1 : BitVec 5) (off : BitVec 14)
  /-- TP (R95): TMR of kind TP updates a pulse timer block. -/
  | tp (c : Fin 16) (rd rs1 : BitVec 5) (off : BitVec 14)
  /-- EDGE_RISING (R96): EDGE of kind rising detects a rising edge and updates PREV. -/
  | edgeRising (c : Fin 16) (rd rs1 : BitVec 5) (off : BitVec 15)
  /-- EDGE_FALLING (R96): EDGE of kind falling detects a falling edge and updates PREV. -/
  | edgeFalling (c : Fin 16) (rd rs1 : BitVec 5) (off : BitVec 15)
  /-- BEQ (R97): BEQ branches forward when two registers are equal. -/
  | beq (c : Fin 16) (rs1 rs2 : BitVec 5) (off : BitVec 16)
  /-- BNE (R97): BNE branches forward when two registers differ. -/
  | bne (c : Fin 16) (rs1 rs2 : BitVec 5) (off : BitVec 16)
  /-- BLT (R97): BLT branches forward on signed less than. -/
  | blt (c : Fin 16) (rs1 rs2 : BitVec 5) (off : BitVec 16)
  /-- BGE (R97): BGE branches forward on signed greater or equal. -/
  | bge (c : Fin 16) (rs1 rs2 : BitVec 5) (off : BitVec 16)
  /-- JMP (R97): JMP continues forward at PC + 1 + off26. -/
  | jmp (c : Fin 16) (off : BitVec 26)
  /-- LOOP (R98): LOOP repeats the next len instructions W[rs1] times. -/
  | loop (c : Fin 16) (rs1 : BitVec 5) (bound : BitVec 11) (len : BitVec 10)
  /-- LIDX (R98): LIDX reads the innermost loop index. -/
  | lidx (c : Fin 16) (rd : BitVec 5)
  /-- CALL (R99): CALL enters an owned CALLED instance, checking address, target and depth in order. -/
  | call (c : Fin 16) (rs1 : BitVec 5) (imm : BitVec 16)
  /-- RET (R99): RET returns to the caller, or completes the scheduled instance at depth 0. -/
  | ret (c : Fin 16)
  /-- LSP (R100): REQ LSP requests a loop's target setpoint. -/
  | lsp (c : Fin 16) (rd rs1 : BitVec 5) (slot : BitVec 6) (loop : BitVec 2)
  /-- LMODE (R100): REQ LMODE requests a loop's mode, ignoring value 3 with REQ_DROP. -/
  | lmode (c : Fin 16) (rd rs1 : BitVec 5) (slot : BitVec 6) (loop : BitVec 2)
  /-- LMAN (R100): REQ LMAN requests a loop's manual output. -/
  | lman (c : Fin 16) (rd rs1 : BitVec 5) (slot : BitVec 6) (loop : BitVec 2)
  /-- LOUT (R101): REQ LOUT reads a slot's selected output as at cycle start. -/
  | lout (c : Fin 16) (rd : BitVec 5) (slot : BitVec 6)
  /-- LWIN (R101): REQ LWIN reads a slot's winning loop as at cycle start. -/
  | lwin (c : Fin 16) (rd : BitVec 5) (slot : BitVec 6)
  /-- SLVQ (R102): REQ SLVQ queues a solver job request with a deadline, posted at the end of the cycle. -/
  | slvq (c : Fin 16) (rd rs1 : BitVec 5) (tpl : BitVec 8)
  /-- SLVST (R102): REQ SLVST reads a template's status word as at cycle start. -/
  | slvst (c : Fin 16) (rd : BitVec 5) (tpl : BitVec 8)
  /-- SLVRD (R102): REQ SLVRD reads a word of a template's result window. -/
  | slvrd (c : Fin 16) (rd rs1 : BitVec 5) (tpl : BitVec 8)
  /-- TRAP (R103): TRAP raises the TRAP exception with its code. -/
  | trap (c : Fin 16) (imm : BitVec 16)
  /-- ASSERT (R103): ASSERT raises the ASSERT exception when its operand is zero. -/
  | assert (c : Fin 16) (rs1 : BitVec 5) (imm : BitVec 16)
  /-- EVT (R103): EVT posts a program event at the end of the cycle, up to EVT_LIMIT. -/
  | evt (c : Fin 16) (rd rs1 : BitVec 5) (imm : BitVec 16)
  /-- NOP (R103): NOP does nothing. -/
  | nop (c : Fin 16)
  /-- ILLEGAL (R104): An illegal encoding reached at run time aborts the instance. -/
  | illegal (c : Fin 16)
  /-- LOAD (R109): CAD_LOADCMD GO starts loading bank b, or is refused with BANK_BUSY. -/
  | load (m : Master) (b : Fin 2)
  /-- LOAD_CHECK_END (R110): The load check finishes, making the bank LOADED with LOAD_DONE or FAILED with LOAD_FAIL. -/
  | loadCheckEnd
  /-- BACKGROUND_REHASH (R111): A background re-hash of a LOADED or ACTIVE bank completes and reports an alteration or fault. -/
  | backgroundRehash (b : Fin 2)
  /-- INST_ENABLE (R112): CAD_INST_CMD ENABLE takes an instance out of HOLD at its task's next cycle start. -/
  | instEnable (m : Master) (inst : BitVec 16)
  /-- COLD_INIT (R112): CAD_INST_CMD COLD_INIT writes cold values and clears POISONED and HOLD at the next cycle start. -/
  | coldInit (m : Master) (inst : BitVec 16)
  /-- EXC_CNT_CLR (R112): CAD_EXC_FLAGSn.CNT_CLR clears the task's exception count. -/
  | excCntClr (m : Master) (n : Fin 8) (v : BitVec 31)
  /-- TASK_CYCLE_START (R115): A task cycle starts at its grid or ring instant: forces take effect, shadows commit and the snapshot is taken. -/
  | taskCycleStart (n : Fin 8)
  /-- TASK_PUBLICATION (R115): After its last wave the task publishes its OUTPUT slots and posts requests and events, completing the cycle. -/
  | taskPublication (n : Fin 8) (differs : Bool) (corr : Nat)
  /-- OVERRUN (R118): A grid instant falls while the task's previous cycle is in progress, incrementing OVR and raising OVERRUN. -/
  | overrun (n : Fin 8)
  /-- START (R121): CAD_TASK_CMD START makes a STOPPED task IDLE when a bank is ACTIVE. -/
  | start (m : Master) (n : Fin 8)
  /-- STOP (R121): CAD_TASK_CMD STOP stops a task at once or after its running cycle completes. -/
  | stop (m : Master) (n : Fin 8)
  /-- RESTART (R122): CAD_TASK_CMD RESTART makes a FAULTED task IDLE and ends its safe values. -/
  | restart (m : Master) (n : Fin 8)
  /-- RESTART_COLD (R122): CAD_TASK_CMD RESTART_COLD restarts a FAULTED task and cold-initialises its faulting instance. -/
  | restartCold (m : Master) (n : Fin 8)
  /-- CLR_OVR (R123): CAD_TASK_CMD CLR_OVR clears the task's overrun count. -/
  | clrOvr (m : Master) (n : Fin 8)
  /-- COLD_START (R126): CAD_START with MODE 0 activates the start bank with cold values and starts the named tasks. -/
  | coldStart (m : Master) (tasks : BitVec 8)
  /-- WARM_START (R128): CAD_START with MODE 1 checks the retained set and fills RETAIN fields by map or layout hash. -/
  | warmStart (m : Master) (tasks : BitVec 8)
  /-- RET_SAVE_WAIT (R129): CAD_RET_CMD with NOW = 0 makes a save wait for a window with every task between cycles. -/
  | retSaveWait (m : Master)
  /-- RET_SAVE_NOW (R129): CAD_RET_CMD with NOW = 1 starts a save at the next instance boundary of every lane, suspending tasks. -/
  | retSaveNow (m : Master)
  /-- RET_SAVE_BEGIN (R129): A waiting save finds its window, or all lanes reach an instance boundary, and writing begins. -/
  | retSaveBegin
  /-- RET_SAVE_END (R129): A retained-data save completes, writing the header last, and RET_DONE is raised. -/
  | retSaveEnd
  /-- RET_SAVE_TIMEOUT (R129): No save window comes within CAD_CHG_TIMEOUT and the save fails with NO_WINDOW. -/
  | retSaveTimeout
  /-- FORCE_SET (R133): Force SET creates or replaces an entry for a signal, or is refused. -/
  | forceSet (m : Master) (qual : BitVec 3)
  /-- FORCE_RELEASE (R133): Force RELEASE makes an entry FREE. -/
  | forceRelease (m : Master)
  /-- REARM (R133): Force REARM binds an ORPHAN entry again. -/
  | rearm (m : Master)
  /-- FORCE_READ (R133): Force READ loads an entry into the force registers. -/
  | forceRead (m : Master) (idx : BitVec 12)
  /-- RELEASE_ALL (R133): Force RELEASE_ALL makes every entry FREE. -/
  | releaseAll (m : Master)
  /-- NEXT_ORPHAN (R133): Force NEXT_ORPHAN loads the lowest ORPHAN entry at or above IDX. -/
  | nextOrphan (m : Master) (idx : BitVec 12)
  /-- ARM (R142): CAD_CHG_CMD ARM moves an online change to CHECKING, or is refused with BUSY. -/
  | arm (m : Master) (refuse : Bool)
  /-- CANCEL (R149): CAD_CHG_CMD CANCEL abandons a CHECKING or ARMED change with CANCELLED. -/
  | cancel (m : Master)
  /-- CHG_CHECK_END (R142): The change checks finish, arming the change or abandoning it. -/
  | chgCheckEnd
  /-- CHANGE_WINDOW (R144): The change window opens and migration starts, unless REFUSE_ORPHAN abandons it. -/
  | changeWindow
  /-- CHG_TIMEOUT (R144): No window comes within CAD_CHG_TIMEOUT and the change is abandoned with NO_WINDOW. -/
  | chgTimeout
  /-- MIGRATION_END (R147): Migration commits the new bank, re-binds forces and raises CHG_DONE, or is abandoned on a staging fault. -/
  | migrationEnd (bad : Option Nat)
  /-- RING_INSTANT (R155): A plant-role ring instant falls on the SPK_PERIOD grid and is supplied to the Cadence engine. -/
  | ringInstant
  /-- PASS_DEPARTURE (R155): A pass leaves on ports A and B after the guard pass or at the latest-start point, committing SPK shadows. -/
  | passDeparture
  /-- RING_FRAME_FORWARD (R153): A device forwards a ring frame cut-through, incrementing HOPS and recomputing the FCS. -/
  | ringFrameForward (port : Fin 2) (partner : Bool) (f : SpokeFrame)
  /-- FRAME_RETURN (R154): A frame the master sourced returns and is removed and kept for the input commit. -/
  | frameReturn (port : Fin 2) (f : SpokeFrame)
  /-- INPUT_COMMIT (R169): At the input deadline SPK delivers inputs, marks misses and updates every entry's state atomically. -/
  | inputCommit
  /-- STATION_SEGMENT (R165): A station processes an unlooped cyclic copy carrying its node, writing status and inputs and taking outputs. -/
  | stationSegment (port : Fin 2) (f : SpokeFrame)
  /-- RING_INSTANT_TIMEOUT (R156): No pass arrives within 2 periods and SPK stops supplying instants, so T0 runs free. -/
  | ringInstantTimeout
  /-- LOOPBACK_ENGAGE (R167): A station whose link fails on one port loops frames back on the other. -/
  | loopbackEngage (port : Fin 2)
  /-- LOOPBACK_EXIT (R167): After 100 ms of PCS synchronisation the station leaves loop-back between frames. -/
  | loopbackExit (port : Fin 2)
  /-- STATION_WATCHDOG (R166): A station with no intact output copy for WD_MS applies its substitute values. -/
  | stationWatchdog
  /-- TBL_RELOAD (R177): SPK_TBL_CMD RELOAD re-reads one spoke entry, applied from the next departure. -/
  | tblReload (m : Master) (node : BitVec 10)
  /-- REPACK (R162): SPK_TBL_CMD REPACK packs enabled entries into frames, applied from the next departure. -/
  | repack (m : Master)
  /-- MBX_TAIL (R189): A write of SPK_MBXq_IDX.TAIL hands mailbox descriptors to SPK. -/
  | mbxTail (m : Master) (q : Fin 2) (tail : BitVec 16)
  /-- MBX_RETRY (R186): RETRY passes pass without acknowledgement and the down message is resent, or ends NO_ACK after TRIES. -/
  | mbxRetry (node : BitVec 10)
  /-- IDENT (R188): A station answers the IDENT service with its identity and capabilities. -/
  | ident
  /-- PARAM_READ (R188): A station answers PARAM_READ with parameter data. -/
  | paramRead
  /-- PARAM_WRITE (R188): A station executes PARAM_WRITE and replies with its status. -/
  | paramWrite
  /-- POINT_BULK (R188): A POINT_BULK message carries point records in either direction. -/
  | pointBulk
  /-- SPK_RING_START (R194): SPK EN = 1 in plant role resets entries to INIT, repacks and sends the first pass. -/
  | spkRingStart (m : Master)
  /-- SLOT_ENABLE (R199): LPE slot ENABLE reads and checks the entry and starts the slot. -/
  | slotEnable (m : Master) (n : Fin 64)
  /-- SLOT_DISABLE (R199): LPE slot DISABLE stops the slot after its evaluation. -/
  | slotDisable (m : Master) (n : Fin 64)
  /-- SLOT_RELOAD (R199): LPE slot RELOAD replaces the working copy, keeping loop state. -/
  | slotReload (m : Master) (n : Fin 64)
  /-- SLOT_SAMPLE (R200): A slot's sample instant applies commands and requests, takes inputs and evaluates its loops. -/
  | slotSample (n : Fin 64)
  /-- SLOT_OVERRUN (R203): A slot's due instant arrives before its previous evaluation started and the earlier instant is dropped. -/
  | slotOverrun (n : Fin 64)
  /-- GUARD_PASS (R216): A guard pass clamps, slews and toggle-limits every entry after a T0 publication or at MAXGAP. -/
  | guardPass
  /-- GRD_LOAD (R215): The monitor's LPE_GRD_CMD LOAD copies and checks a guard table into the inactive bank. -/
  | grdLoad (m : Master)
  /-- GRD_CHECK_END (R215): The guard table check finishes; a good table waits for the next pass, and GRD_DONE is raised. -/
  | grdCheckEnd
  /-- SAFE_ALL (R218): A write of LPE_GRD_CFG.SAFE_ALL sends every guarded signal its SAFE value from the next pass. -/
  | safeAll (m : Master) (on : Bool)
  /-- SLV_SUBMIT (R267): A write of SLV_SUBMIT accepts, refuses or rejects a job request. -/
  | slvSubmit (m : Master) (tpl : BitVec 8) (dlRel : BitVec 23)
  /-- JOB_START (R270): At a selection point the solver starts the eligible job of the highest queue with the earliest deadline. -/
  | jobStart
  /-- EST_ITERATION (R238): An EST iteration completes its phases and accepts or rejects its step. -/
  | estIteration (o : IterOut)
  /-- LSQ_SOLVE (R245): An LSQ job completes its solve and refinement steps. -/
  | lsqSolve (o : IterOut) (n : BitVec 3)
  /-- DSP_ITERATION (R258): An ADMM iteration completes, with the convergence and infeasibility checks every CHECK_EVERY. -/
  | dspIteration (o : IterOut)
  /-- FACTORISATION_END (R263): A factor build completes and replaces the slot's factor, raising FAC_COMMIT. -/
  | factorisationEnd (o : IterOut)
  /-- PREEMPT_SAVE_END (R271): A pre-empted job's working-set save completes and the pre-empting job starts. -/
  | preemptSaveEnd
  /-- RESTORE_END (R271): A resumed job's restore completes and it continues at its boundary. -/
  | restoreEnd
  /-- JOB_END (R274): A job writes its outcome, updates the window and history, and changes its template state. -/
  | jobEnd
  /-- STOP_INSTANT (R273): TB2 reaches a job's stop instant and the job ends with STOP = DEADLINE. -/
  | stopInstant (tpl : BitVec 8)
  /-- ABORT (R275): SLV_CMD ABORT ends a template's queued or running job with ABORTED. -/
  | abort (m : Master) (tpl : BitVec 8)
  /-- RESUME (R276): SLV_CMD RESUME retries a stalled access. -/
  | resume (m : Master)
  /-- ABORT_STALLED (R276): SLV_CMD ABORT_STALLED ends the stalled job without retrying. -/
  | abortStalled (m : Master)
  /-- INVALIDATE (R264): SLV_CMD INVALIDATE invalidates a factor slot that no started job uses. -/
  | invalidate (m : Master) (slot : BitVec 8)
  /-- TPL_RELOAD (R266): SLV_TPL_CMD RELOAD reads and checks one template entry. -/
  | tplReload (m : Master) (tpl : BitVec 8)
  /-- RELOAD_ALL (R266): SLV_TPL_CMD RELOAD_ALL reloads every idle template. -/
  | reloadAll (m : Master)
  /-- TPL_DONE (R266): A template command ends and TPL_DONE is raised. -/
  | tplDone
  /-- TICK (R298): A metering tick evaluates heat, volume and pulse lanes in ascending order. -/
  | tick
  /-- WINDOW_END (R293): An electrical window ends and its active, reactive and apparent energies are added to the registers. -/
  | windowEnd (set : Fin 2)
  /-- ZERO_CROSSING (R291): A positive-going zero crossing is detected and counted, clearing NOZC at the second. -/
  | zeroCrossing (set : Fin 2) (p : Fin 3)
  /-- NOZC_TIMEOUT (R291): ZC_TMO ms pass without a counted crossing and the phase sets NOZC. -/
  | nozcTimeout (set : Fin 2) (p : Fin 3)
  /-- RTD_CONVERSION (R297): An RTD conversion completes and its temperature is delivered. -/
  | rtdConversion (c : Fin 8) (nohm : Option Nat)
  /-- VIEW_TABLE_WRITE (R284): At every whole TB2 second the engine writes the view table under its SEQ protocol. -/
  | viewTableWrite
  /-- BLOCK_STORE (R306): A sealed block is stored or dropped in the billing partition, raising SEALED for a whole interval. -/
  | blockStore
  /-- CHECKPOINT (R308): Every CHKPT seconds a checkpoint totals image is written to the other copy. -/
  | checkpoint
  /-- LANE_ENABLE (R287): MTR lane ENABLE reads and checks the entry and starts counting at the next tick. -/
  | laneEnable (m : Master) (lane : BitVec 11)
  /-- LANE_DISABLE (R287): MTR lane DISABLE stops counting with the registers kept. -/
  | laneDisable (m : Master) (lane : BitVec 11)
  /-- LANE_RELOAD (R287): MTR lane RELOAD replaces the working copy. -/
  | laneReload (m : Master) (lane : BitVec 11)
  /-- LANE_CLR (R287): The monitor's MTR_LANE_CLR zeroes a disabled lane's registers and records an event. -/
  | laneClr (m : Master) (lane : BitVec 11)
  /-- SNAP (R283): MTR_SNAPk_CTL with SNAP = 1 latches a lane's four registers. -/
  | snap (m : Master) (k : Fin 8) (lane : BitVec 11) (reg : BitVec 2)
  /-- TOTALS_COMMIT (R307): The totals image is committed with CLEAN = 1 on the flush path. -/
  | totalsCommit
  /-- SWITCH_FRAME_RX (R316): A switch port receives a frame, learns, forwards, floods or drops it, with a stamp. -/
  | switchFrameRx (port : Fin 5) (f : EthFrame)
  /-- CPU_TAIL (R319): A write of NET_CPUq_IDX.TAIL hands descriptors to NET. -/
  | cpuTail (m : Master) (q : Fin 2) (tail : BitVec 16)
  /-- FRAME_TX_DONE (R321): A transmitted frame completes with its egress stamp and its descriptor completes. -/
  | frameTxDone (port : Fin 5)
  /-- ADDRESS_AGEING (R316): A learned address ages out after AGE seconds. -/
  | addressAgeing
  /-- BR_FLUSH (R316): NET_BR_CFG.FLUSH removes every learned address. -/
  | brFlush (m : Master)
  /-- FOLLOWUP_EXPIRY (R326): A Follow_Up matching entry expires 100 ms after its Sync. -/
  | followupExpiry
  /-- PORT_LINK_CHANGE (R337): A port gains or loses PCS synchronisation and LINK_CHG is raised. -/
  | portLinkChange (port : Fin 5) (up an : Bool)
  /-- STEP (R329): TSU ADJ_CMD STEP adds a signed offset to TB0 or TB1. -/
  | step (m : Master) (n : Fin 4) (secHi : BitVec 16)
  /-- SET (R329): TSU ADJ_CMD SET loads an absolute time into TB0 or TB1. -/
  | set (m : Master) (n : Fin 4) (secHi : BitVec 16)
  /-- SLEW (R329): TSU ADJ_CMD SLEW applies an offset gradually at SLEW_PPM. -/
  | slew (m : Master) (n : Fin 4) (secHi : BitVec 16)
  /-- SLEW_DONE (R329): The whole slew offset has been applied and SLEWING clears. -/
  | slewDone (n : Fin 2)
  /-- TB_READ_LATCH (R328): A read of TSU_TBn_NS latches the seconds of the same instant. -/
  | tbReadLatch (m : Master) (n : Fin 4)
  /-- SYNCED_WRITE (R332): Firmware writes SYNCED, which drives TB3 VALID and holdover when TB0 is the source. -/
  | syncedWrite (m : Master) (n : Fin 4) (v : Bool)
  /-- TB3_OFS_COMMIT (R332): A new TB3 offset commits at the next whole second of TB0, stepping TB3. -/
  | tb3OfsCommit
  /-- TB3_SRC_CHANGE (R332): A change of TB3 source takes effect at the next whole second of the new source. -/
  | tb3SrcChange
  /-- HOLDOVER_EXPIRY (R332): HOLD_S seconds after SYNCED cleared, TB3 VALID clears. -/
  | holdoverExpiry
  /-- TP_PULSE (R334): A pulse output starts a pulse at START or a grid instant. -/
  | tpPulse (n : Fin 8)
  /-- TP_PULSE_END (R335): A pulse ends after WIDTH, raising TP_DONE for a one-shot and committing TP shadows. -/
  | tpPulseEnd (n : Fin 8)
  /-- TC_CAPTURE (R336): A selected edge on a capture input is stamped into its queue, or dropped with TC_OVF. -/
  | tcCapture (n : Fin 4) (falling : Bool)
  /-- TC_POP (R336): A read of TSU_TCn_NS takes the oldest capture and latches its seconds. -/
  | tcPop (m : Master) (n : Fin 4)
  /-- DI_EDGE (R341): A DI's raw level holds for DEB and the debounced state changes, counting and stamping the edge. -/
  | diEdge (n : Fin 24) (start : Nat)
  /-- EDGE_POP (R343): A read of FIO_EDGE_POP removes the oldest edge entry and latches its stamp. -/
  | edgePop (m : Master)
  /-- VFLD_MEASURE (R339): Every 10 ms VFLD1 and VFLD2 are measured and delivered. -/
  | vfldMeasure (v1 v2 : BitVec 16)
  /-- UV_CHG (R349): VFLD of a group crosses its under-voltage threshold, switching outputs off or on. -/
  | uvChg (g : Fin 2) (mv : BitVec 16)
  /-- DI_RESTART (R344): After VFLD1 holds above threshold for 10 ms, DI sampling restarts from raw levels. -/
  | diRestart (raw : BitVec 24)
  /-- DO_UPDATE (R346): FIO picks up a completed guard pass and drives the new output commands. -/
  | doUpdate
  /-- DO_CURRENT_LIMIT (R347): A channel's current limit holds for 200 us and contributes to its group's fault. -/
  | doCurrentLimit (n : Fin 16)
  /-- THERMAL_SHUTDOWN (R345): A channel reaches 170 C and shuts down. -/
  | thermalShutdown (n : Fin 16)
  /-- THERMAL_RESTART (R345): A channel cools to 155 C and switches on again if still commanded. -/
  | thermalRestart (n : Fin 16)
  /-- OFF_STATE_FAULT (R347): A driven-off output stays above half VFLD after blanking and contributes a fault. -/
  | offStateFault (n : Fin 16)
  /-- DO_INHIBIT (R348): A write of FIO_DO_INHIBIT switches channels off, refusing channels whose SAFE value is 1. -/
  | doInhibit (m : Master) (v : Word)
  /-- DO_DIAG (R348): A write of FIO_DO_DIAG sets which off channels contribute to the fault bit. -/
  | doDiag (m : Master) (v : Word)
  /-- TX_REQ (R357): Setting a CAN_TX_CMD.REQ bit copies a buffer into the transmit engine as PENDING. -/
  | txReq (m : Master) (p : Fin 4) (b : Fin 3)
  /-- TX_ABORT (R358): Setting a CAN_TX_CMD.ABORT bit ends a pending buffer ABORTED. -/
  | txAbort (m : Master) (p : Fin 4) (b : Fin 3)
  /-- TX_ATTEMPT (R357): A transmission attempt starts, choosing among PENDING buffers. -/
  | txAttempt (p : Fin 4)
  /-- TX_FRAME_END (R358): A transmitted frame ends valid (DONE) or not, retrying unless ONE_SHOT. -/
  | txFrameEnd (p : Fin 4) (ok : Bool) (tdcv : BitVec 7)
  /-- CAN_RX_FRAME (R359): A received frame becomes valid and is queued, delivered to the map, or dropped with RX_OVF. -/
  | canRxFrame (p : Fin 4) (f : CanFrame) (age : Nat)
  /-- RX_ACK (R360): A write of CAN_RX_ACK releases the oldest held entries. -/
  | rxAck (m : Master) (p : Fin 4) (k : BitVec 7)
  /-- CAN_BUS_ERROR (R362): A bus error updates the error counters, the state and possibly bus-off. -/
  | canBusError (p : Fin 4) (lec : Fin 7) (kind : CanErrKind)
  /-- BUS_OFF_RECOVERY (R362): After 128 occurrences of 11 recessive bits the port leaves bus-off. -/
  | busOffRecovery (p : Fin 4)
  /-- MAP_STALE (R364): An RX map entry receives no frame for TIME ms and goes STALE. -/
  | mapStale (p : Fin 4) (e : Fin 64)
  /-- MAP_TX_PERIOD (R365): A TX map frame falls due and is assembled from the guarded image and requested. -/
  | mapTxPeriod (p : Fin 4) (e : Fin 64)
  /-- CAN_WAKE_START (R366): A dominant level of 5 us on CAN0 starts the matcher's RC. -/
  | canWakeStart
  /-- CAN_WAKE_FRAME (R366): The wake matcher decodes a frame, signalling a wake on a match or at ERRCNT 32. -/
  | canWakeFrame (f : Option CanFrame)
  /-- CAN_WAKE_IDLE (R366): After 1 ms of recessive bus without a match the matcher's RC stops. -/
  | canWakeIdle
  /-- JOIN (R377): TDM_CMD JOIN starts a join to STEP, or is refused with a reason. -/
  | join (m : Master) (ahash ghash : BitVec 256) (cadSum lpeSum : Word)
  /-- LEAVE (R376): TDM_CMD LEAVE takes a standby out of step. -/
  | leave (m : Master)
  /-- TDM_FAULT (R379): TDM_CMD FAULT puts the member into FAULT. -/
  | tdmFault (m : Master)
  /-- CLR_FAULT (R371): TDM_CMD CLR_FAULT moves a FAULT member to OUT. -/
  | clrFault (m : Master)
  /-- JOIN_CUT (R378): The active finds a cut, copies its state into the buffer and sends it. -/
  | joinCut (copy : Option JoinCopy)
  /-- JOIN_CAUGHT_UP (R378): The standby's replay is within its lag limit and it enters STEP. -/
  | joinCaughtUp
  /-- JOIN_TIMEOUT (R377): A join not in STEP within TDM_JOIN_TMO is refused with TIMEOUT. -/
  | joinTimeout (overflow : Bool)
  /-- INSTANT (R372): The standby applies an INSTANT entry and compares CFGSUMs. -/
  | instant (pass : BitVec 48) (ring : Nat) (cadSum lpeSum : Word) (ofs : Int)
  /-- DELIV (R372): The standby applies a DELIV entry to its live image. -/
  | deliv (slot : BitVec 16) (value status : Word)
  /-- START_ENTRY (R372): The standby starts a task cycle at a START entry. -/
  | startEntry (n : Fin 8) (time : Nat)
  /-- LSAMPLE (R372): The standby evaluates an unlocked slot with the LSAMPLE values. -/
  | lsample (n : Fin 64) (vals : List (Word × Word))
  /-- GPASS (R372): The standby runs a guard pass at a GPASS entry, switching bank if flagged. -/
  | gpass (time : Nat) (switch : Bool) (hash : BitVec 256)
  /-- FORCE_ENTRY (R137): The standby applies a FORCE entry at the same cycle start. -/
  | forceEntry (sig : BitVec 23) (value : Word) (qual : BitVec 3) (st : Fin 3)
  /-- SOLVER_ENTRY (R372): The standby applies a SOLVER entry's template status and window half. -/
  | solverEntry (t : BitVec 8) (status : Word) (half : Bool) (data : List Byte)
  /-- CMD_ENTRY (R372): The standby applies a recorded CAD or LPE command at its boundary. -/
  | cmdEntry (reg : BitVec 40) (v : Word)
  /-- CHANGE_ENTRY (R150): The standby migrates at a CHANGE entry, or leaves step with HASH. -/
  | changeEntry (hash : BitVec 256)
  /-- DIGEST (R375): A period's output digest is compared between members, counting a match or a DISPUTE. -/
  | digest (pass : BitVec 48) (d : BitVec 256)
  /-- TDM_FRAME_RESEND (R374): The standby requests a missing TDM frame and the active resends it. -/
  | tdmFrameResend (seq : Word)
  /-- STEP_LAG (R376): A standby's lag exceeds half the ring period or a frame is still missing, so it leaves step. -/
  | stepLag
  /-- LANE_T_DOWN (R376): Lane T is down for 100 us and the standby leaves step with LINK. -/
  | laneTDown
  /-- ARB_CODE (R370): A receiver accepts a line code after two equal periods. -/
  | arbCode (line : Fin 2) (high : Nat)
  /-- ARB_DEAD (R370): A line without an edge for 100 us reads DEAD or ABSENT. -/
  | arbDead (line : Fin 2)
  /-- WITNESS_DECISION (R380): Once per grant period the witness decides the grant from the accepted member codes. -/
  | witnessDecision
  /-- GRANT_TO_PARTNER (R382): A member accepting a grant for its partner stops sending on the ring and goes to OUT. -/
  | grantToPartner
  /-- TAKEOVER (R383): A standby accepting a grant for itself takes over the handoff state and masters the ring. -/
  | takeover
  /-- SOLO_TIMEOUT (R381): Under SOLO, a member becomes ACTIVE after ABSENT grant or a dead partner. -/
  | soloTimeout
  /-- GOLDEN (R385): Every 60 s a built-in DSP vector runs and its result hash is checked. -/
  | golden (result : Option Bool)
  /-- LINK_TEST (R385): Each second lane T errors are counted and checked against the limit. -/
  | linkTest (errs : BitVec 32)
  /-- HEALTH_REPORT (R386): Every whole TB2 second a member writes and sends its health report. -/
  | healthReport
  /-- HEALTH_REPORT_RX (R386): A member stores its partner's health report. -/
  | healthReportRx (report : Vector Byte 64)
  /-- FEED_LOST (R387): A feed stays below 2.55 V for 20 us and becomes LOST. -/
  | feedLost (f : Fin 2) (mv ma : BitVec 16)
  /-- FEED_OK (R387): A feed stays above 2.65 V for 10 ms and becomes OK. -/
  | feedOk (f : Fin 2) (mv ma : BitVec 16)
  /-- FEED_OVERCURRENT (R387): A feed exceeds 13.0 A for 10 consecutive measurements. -/
  | feedOvercurrent (f : Fin 2) (mv ma : BitVec 16)
  /-- POST (R396): EVR_POSTc_CMD GO posts a record from a firmware channel, or refuses it. -/
  | post (m : Master) (c : Fin 8) (code : BitVec 16) (sev : BitVec 3) (cont : Bool)
  /-- EVENT_ACCEPT (R394): The recorder accepts a block's record, numbers it and places it in the AON buffer. -/
  | eventAccept
  /-- EVR_FLUSH (R398): EVR_CMD FLUSH starts a flush of the AON buffer. -/
  | evrFlush (m : Master)
  /-- FLUSH_PAGE_COMMIT (R398): A log page is committed, its records leave the buffer and FLUSHED is raised. -/
  | flushPageCommit (ok : Bool)
  /-- SEEK (R401): EVR_CMD SEEK loads the window from EVR_CUR. -/
  | seek (m : Master)
  /-- NEXT (R401): EVR_CMD NEXT loads the window from the next point. -/
  | next (m : Master)
  /-- WIN_DONE (R402): A window load completes and WIN_DONE is raised. -/
  | winDone
  /-- EVR_NONCE (R403): EVR_CMD NONCE places a fresh 256-bit nonce in EVR_NONCE. -/
  | evrNonce (m : Master)
  /-- EVR_NONCE_EXPIRY (R403): A clear nonce expires after 60 s. -/
  | evrNonceExpiry
  /-- CLEAR (R403): EVR_CMD CLEAR starts a clear, refused at once if disabled or busy. -/
  | clear (m : Master)
  /-- CLEAR_VERIFY_END (R403): The clear token checks end, accepting the clear's cut or refusing it. -/
  | clearVerifyEnd
  /-- CLEAR_COMMIT (R404): The LOG_CLEARED record is written as the first record of the new log and CLR_DONE is raised. -/
  | clearCommit
  /-- KST_NONCE (R424): KST NONCE makes a fresh nonce valid for 60 s and one command. -/
  | kstNonce (m : Master) (slot : Fin 32)
  /-- DERIVE (R414): KST DERIVE derives a key into a shadow or re-derives slot 0 or 1. -/
  | derive (m : Master) (slot : Fin 32)
  /-- GENERATE (R419): KST GENERATE generates a key into a slot's shadow. -/
  | generate (m : Master) (slot : Fin 32)
  /-- LOAD_PUB (R419): KST LOAD_PUB loads a public key from a token into a shadow. -/
  | loadPub (m : Master) (slot : Fin 32)
  /-- IMPORT_SYM (R419): KST IMPORT_SYM decrypts a symmetric key under the KEK into a shadow. -/
  | importSym (m : Master) (slot : Fin 32)
  /-- SELFTEST (R419): KST SELFTEST tests a loaded shadow, making it TESTED or discarding it. -/
  | selftest (m : Master) (slot : Fin 32)
  /-- COMMIT (R420): KST COMMIT persists the slot store and flips the halves. -/
  | commit (m : Master) (slot : Fin 32)
  /-- DISCARD (R419): KST DISCARD empties a slot's shadow. -/
  | discard (m : Master) (slot : Fin 32)
  /-- SIGN (R422): KST SIGN signs a hash with private slot 2 to 7. -/
  | sign (m : Master) (slot : Fin 32)
  /-- VERIFY (R422): KST VERIFY checks a signature against a public slot. -/
  | verify (m : Master) (slot : Fin 32)
  /-- ATTEST (R423): KST ATTEST writes a signed attestation report. -/
  | attest (m : Master) (slot : Fin 32)
  /-- EXPORT_PUB (R423): KST EXPORT_PUB writes a private slot's public key. -/
  | exportPub (m : Master) (slot : Fin 32)
  /-- EXTEND (R426): KST EXTEND extends measurement register 3. -/
  | extend (m : Master) (slot : Fin 32)
  /-- LC (R412): KST LC verifies a token and burns a life-cycle transition. -/
  | lc (m : Master) (slot : Fin 32)
  /-- DEBUG_UNLOCK (R413): KST DEBUG_UNLOCK enables debug in RETURNED against a factory token. -/
  | debugUnlock (m : Master) (slot : Fin 32)
  /-- ADVANCE (R427): KST ADVANCE burns rollback counter bits. -/
  | advance (m : Master) (slot : Fin 32)
  /-- ZEROISE (R418): KST ZEROISE clears a slot and persists the slot store. -/
  | zeroise (m : Master) (slot : Fin 32)
  /-- CMD_DONE (R409): A key store command completes and CMD_DONE is raised. -/
  | cmdDone (burn : Option Nat)
  /-- KST_NONCE_EXPIRY (R424): A key store nonce expires after 60 s. -/
  | kstNonceExpiry
  /-- SEAL_SIGN (R408): MTR's seal signature request is served under private slot 1. -/
  | sealSign
  /-- SLOT_CHECK (R418): Every 10 s each slot's check word is verified, marking failures BAD. -/
  | slotCheck
  /-- ENTROPY_FAIL (R407): An entropy health test fails and operations needing randomness are refused. -/
  | entropyFail
  /-- DBG_ATTACH (R413): The TAP leaves or enters Test-Logic-Reset, changing DBG_ATTACHED. -/
  | dbgAttach (attached : Bool)
  /-- FABRIC_TRANSACTION (R432): A master's transaction obtains a tag and is served in class order. -/
  | fabricTransaction (x : FabStep)
  /-- FAB_TIMEOUT (R436): A transaction unanswered for 100 us is ended with an error and TIMEOUT raised. -/
  | fabTimeout (port : Fin 16) (lat : Nat)
  /-- DRAM_REFRESH (R439): Each DRAM channel runs an all-bank refresh every 3,906 ns, or 1,953 ns when hot. -/
  | dramRefresh (ch : Fin 2)
  /-- HOT_CHG (R439): The die crosses 85 C and refresh rate changes. -/
  | hotChg (hot : Bool)
  /-- PIN_CFG (R447): A write of XLT_PIN_CFG commits a pinned range, or is refused touching ROM or registers. -/
  | pinCfg (m : Master) (v : Word)
  /-- PIN_SEL (R456): A write of XLT_PIN_SEL loads VA, PA and CFG with the range's active values. -/
  | pinSel (m : Master) (v : Word)
  /-- INVAL (R447): XLT_CMD INVAL discards a context's cached translations. -/
  | inval (m : Master) (ctx : BitVec 5)
  /-- FAULT_POP (R456): A read of XLT_FAULT removes the oldest fault log entry and latches its VA. -/
  | faultPop (m : Master)
  /-- NFM_READ (R448): NFM READ reads a logical page of a partition. -/
  | nfmRead (m : Master) (part : BitVec 4)
  /-- NFM_WRITE (R449): NFM WRITE writes a logical page atomically. -/
  | nfmWrite (m : Master) (part : BitVec 4)
  /-- TRIM (R448): NFM TRIM releases a logical page. -/
  | trim (m : Master) (part : BitVec 4)
  /-- READ_BILL (R448): NFM READ_BILL reads a billing block by SEQ. -/
  | readBill (m : Master) (part : BitVec 4)
  /-- NFM_CMD_DONE (R449): A flash manager command completes with its result and CMD_DONE. -/
  | nfmCmdDone (fate : NandFate) (spare : BitVec 16)
  /-- SCRUB_BURST (R451): A scrub burst reads and writes back DRAM and SRAM words. -/
  | scrubBurst (a words : Nat) (ce ue : List Nat)
  /-- SCRUB_SHORT (R451): At a whole TB2 hour with coverage below 1,000 per mille, SCRUB_SHORT is raised. -/
  | scrubShort
  /-- TRUING_STEP (R452): A truing step recalibrates a channel, or keeps old coefficients with TRUE_FAIL. -/
  | truingStep (ch : Fin 48) (off gain : Int)
  /-- NAND_CARE (R451): The flash manager performs wear levelling, refresh and retirement within its budget. -/
  | nandCare (spare : BitVec 16) (wear : BitVec 10)
  /-- TELEMETRY (R454): Every whole TB2 second a telemetry frame is written. -/
  | telemetry (temp util : BitVec 16)
  /-- RUN (R460): PWR_SLEEP_CMD RUN returns the device from NAP. -/
  | run (m : Master)
  /-- NAP (R462): PWR_SLEEP_CMD NAP enters NAP, optionally powering off SLV and PNL. -/
  | nap (m : Master)
  /-- STANDBY (R463): PWR_SLEEP_CMD STANDBY starts a STANDBY entry or is refused. -/
  | standby (m : Master)
  /-- HIBERNATE (R463): PWR_SLEEP_CMD HIBERNATE starts a HIBERNATE entry or is refused. -/
  | hibernate (m : Master)
  /-- OFF (R460): The monitor's PWR_SLEEP_CMD OFF turns the device off. -/
  | off (m : Master)
  /-- QUIESCE_END (R464): Quiesce completes with all cores in WFI and the save set is written. -/
  | quiesceEnd
  /-- IDLE_TIMEOUT (R463): Cores not all in WFI within IDLE_MS abort the entry with NOT_IDLE. -/
  | idleTimeout
  /-- COMMIT_POINT (R465): At an RTC tick edge TB2 is latched and isolation engages up to CORE, committing the sleep. -/
  | commitPoint
  /-- WAKE_LATCH (R466): An enabled wake source sets its latch, aborting an entry or ending a sleep. -/
  | wakeLatch (n : Fin 11)
  /-- PATTERN_A (R468): A frame on port A matching the wake pattern latches PATTERN_A. -/
  | patternA (f : EthFrame)
  /-- WAKE_DI (R467): A selected DI edge holding for four AON samples latches DI wake. -/
  | wakeDi (n : Fin 24) (rise : Bool)
  /-- WAKE_TC (R467): A selected TC edge at least 100 ns wide latches TC wake. -/
  | wakeTc (n : Fin 4) (rise : Bool)
  /-- WAKE_LINK (R467): A lane's energy detector sees signal for 10 us and latches LINK wake. -/
  | wakeLink (lane : Fin 4)
  /-- WAKE_ARB (R467): An edge on an arbiter input latches ARB wake. -/
  | wakeArb (line : Fin 2)
  /-- EXIT_RELEASE (R476): At an RTC tick edge after restore, TB2 is advanced by the freewheel ticks and isolation released. -/
  | exitRelease (ticks : BitVec 48) (entropy : Bool) (bad : List Blk)
  /-- RESUME_CHECK (R473): The boot ROM re-hashes measured stages and resumes the monitor or boots afresh. -/
  | resumeCheck (others : Bool)
  /-- RTC_SECOND (R480): The prescaler wraps and the calendar advances one second, firing a matching alarm. -/
  | rtcSecond
  /-- OSC_STOP (R481): No crystal edge for 1 ms sets TIME_INVALID and holds the calendar. -/
  | oscStop
  /-- BROWN_OUT (R491): The AON rail falls below 1.75 V for 1 us and the brown-out cell trips. -/
  | brownOut (lost : Bool)
  /-- HALT (R483): RTC_CTL HALT = 1 stops counting at the next tick edge. -/
  | halt (m : Master) (sub : BitVec 15)
  /-- HALT_RELEASE (R483): RTC_CTL HALT = 0 checks the date and resumes counting, making an adjustment. -/
  | haltRelease (m : Master)
  /-- RTC_SEC_WRITE (R484): A write of RTC_SEC while counting loads seconds and restarts the second whole. -/
  | rtcSecWrite (m : Master) (v : Word) (sub : BitVec 15)
  /-- RTC_SEC_READ (R486): A read of RTC_SEC with LIVE set freezes the reader's shadow set. -/
  | rtcSecRead (m : Master) (sub : BitVec 15)
  /-- RTC_YEAR_READ (R486): A read of RTC_YEAR with HELD set releases the reader's shadow set. -/
  | rtcYearRead (m : Master)
  /-- RTC_SET_RELEASE (R486): One second after freezing, the RTC releases a shadow set itself. -/
  | rtcSetRelease (m : Master)
  /-- PERIODIC (R489): The periodic counter fires every PER x 128 ticks. -/
  | periodic
  /-- RTC_PER_WRITE (R489): A write of RTC_PER restarts the periodic counter from that edge. -/
  | rtcPerWrite (m : Master) (v : Word)
  /-- VBAT_MEASURE (R490): Every 60 s VBAT is measured and VBAT_LOW updated. -/
  | vbatMeasure (mv : BitVec 16)
  /-- PNL_ON (R497): PNL_PWR_CMD ON asserts PNL_VDD_EN and starts the power-on sequence. -/
  | pnlOn (m : Master)
  /-- PNL_VDD_TIMER (R497): T_VDD ms after VDD, PNL_VA_EN is asserted. -/
  | pnlVddTimer
  /-- PNL_VA_TIMER (R497): T_VA ms after VA, CLEAR is sent and the panel becomes READY. -/
  | pnlVaTimer (bad : Bool)
  /-- PNL_OFF (R498): PNL_PWR_CMD OFF clears, parks and discharges the panel. -/
  | pnlOff (m : Master)
  /-- PNL_DISCHARGE_END (R498): After 20 ms of discharge, DSCH and VDD are released and the panel is OFF. -/
  | pnlDischargeEnd
  /-- UPD_CMD (R503): PNL_UPD_CMD requests updates for regions, refusing or replacing requests. -/
  | updCmd (m : Master) (regions : BitVec 8)
  /-- UPDATE_START (R504): The free driver starts the next pending region update. -/
  | updateStart
  /-- LINE_DONE (R495): A LINE transfer completes, ending the update after its last line. -/
  | lineDone
  /-- AON_LOAD (R505): PNL_AON_CMD LOAD copies the always-on image into AON memory. -/
  | aonLoad (m : Master)
  /-- AON_LOAD_DONE (R505): The always-on image copy completes with its CRC and AON_DONE is raised. -/
  | aonLoadDone
  /-- AON_REFRESH (R506): In sleep the AON sequencer resends the always-on lines every REFRESH_S seconds. -/
  | aonRefresh
  /-- PFM_WINDOW_END (R513): At a window end all port counts move to the register bank and the record buffer. -/
  | pfmWindowEnd
  /-- REC_DONE (R514): A window record is written to the ring and WR advances. -/
  | recDone
  /-- PFM_USER_ACCESS (R516): A user-mode access to the PFM page is served or refused by USER_OK. -/
  | pfmUserAccess (core : Fin 4) (off : BitVec 16) (mapped : Bool) (wr : Option Word)
  /-- POWER_ON (R518): The AON rail becomes valid or both feeds return after OFF, causing a POR device reset. -/
  | powerOn
  /-- DEVICE_RESET (R519): A device reset returns blocks outside AON to reset values and clamps outputs. -/
  | deviceReset (cause : Fin 7)
  /-- SYS_RST_CMD (R518): The monitor's SYS_RST_CMD GO performs a device reset with cause MONITOR. -/
  | sysRstCmd (m : Master)
  /-- LOCKSTEP (R518): M0 and M1 disagree and a device reset follows within 1 us. -/
  | lockstep
  /-- TAP_RESET (R518): A reset through the test port while debug is enabled. -/
  | tapReset
  /-- RESET_RELEASE (R520): A device reset is released with PFW deasserted and the boot sequence runs. -/
  | resetRelease (ticks : BitVec 48) (entropy : Bool) (bad : List Nat)
  /-- SYS_BOOT_CMD (R522): SYS_BOOT_CMD GO submits a recovery image for verification. -/
  | sysBootCmd (m : Master)
  /-- SYS_HOST_GO (R523): The monitor's SYS_HOST_GO releases host cores at SYS_HOST_ENTRY. -/
  | sysHostGo (m : Master) (v : BitVec 4)
  /-- PF_RET_SAVE_START (R529): The power-fail retained save starts at instance boundaries or 100 us after PFW. -/
  | pfRetSaveStart
  /-- RET_SET_COMMIT (R529): NFM commits the retained set into CFG pages, header last. -/
  | retSetCommit
  /-- HOLDUP_END (R531): With every power-fail save complete, PWR isolates all domains but AON and records SYS_PF_LAST. -/
  | holdupEnd
  /-- VHOLD_CUT (R532): VHOLD falls below 6.0 V and the hold-up ends at once with CUT. -/
  | vholdCut
  /-- HOLD_READY_CHANGE (R545): VHOLD crosses 14.0 V and HOLD_READY changes. -/
  | holdReadyChange (ready : Bool)
  /-- SAMPLE_BOUNDARY (R290): At each 32 kHz metering sample boundary the pending MTR RWS fields and new truing coefficients become active. -/
  | sampleBoundary (codes : List (BitVec 24))
  /-- COMMON_PERIOD_END (R496): At the end of each full period of the panel commons the pending PNL_COM HZ and STAGGER values commit. -/
  | commonPeriodEnd
  /-- DO_FAULT_END (R347): A DO channel stops meeting its fault condition because its load current or off-state voltage falls, and FAULT_Gg returns to 0 within 20 us when no channel of the group meets one. -/
  | doFaultEnd (n : Fin 16)
  /-- FEED_OVERCURRENT_END (R387): A feed that was OVERCURRENT measures at or below 13.0 A, leaves OVERCURRENT, raises FEED_CHG and records an event. -/
  | feedOvercurrentEnd (f : Fin 2) (mv ma : BitVec 16)
  /-- OSC_RESUME (R481): The XTAL_RTC crystal delivers an edge again after a stop, OSC_STOP clears and the held calendar resumes counting, with TIME_INVALID kept set. -/
  | oscResume
  deriving DecidableEq, Repr

end Sys2Proof
end

