-- ==== Sys2Proof/Decode.lean ====
section
/-! DEFINITION. The words that spell commands. The operation table gives no row any bits; the spec gives bits to the instructions of the
Cadence engine alone (R86, R87), and it is these that the decoder reads. -/

namespace Sys2Proof

/-! ## Fields of a Cadence word (R86) -/

/-- Bits `lo` to `lo + n - 1` of a word. -/
def wordField (w lo n : Nat) : BitVec n := BitVec.ofNat n (w / 2 ^ lo)

/-- The opcode, the three register fields of format A, and its func fields n and fn. -/
def wOp (w : Nat) : Nat := (wordField w 26 6).toNat
def wRd (w : Nat) : BitVec 5 := wordField w 21 5
def wR1 (w : Nat) : BitVec 5 := wordField w 16 5
def wR2 (w : Nat) : BitVec 5 := wordField w 11 5
def wN (w : Nat) : BitVec 5 := wordField w 6 5
def wFn (w : Nat) : Nat := (wordField w 0 6).toNat

/-- The 16-bit immediate, slot or offset of formats I, S and B. -/
def wImm (w : Nat) : BitVec 16 := wordField w 0 16

/-- A command, where a condition on the fields it leaves unused or reserved holds. -/
def given (p : Bool) (i : Instr) : Option Instr := if p then some i else none

/-! ## The classes of R87 -/

/-- LDS, STS and QTST (R88): format S, the sub field in bits 20:16. -/
def decodeSignal (c : Fin 16) (w : Nat) : Option Instr :=
  let r := wRd w
  let sub := (wR1 w).toNat
  let slot := wImm w
  match wOp w with
  | 0x01 => if sub = 0 then some (.lds c r slot) else given (sub == 1) (.ldsSt c r slot)
  | 0x02 => given (decide (sub ≤ 6)) (.sts c r slot (BitVec.ofNat 3 sub))
  | _ => if sub = 8 then some (.qtstF c r slot) else given (decide (sub < 8)) (.qtst c r slot (BitVec.ofNat 3 sub))

/-- SIGX (R88). -/
def decodeSigx (c : Fin 16) (w : Nat) : Option Instr :=
  match wFn w with
  | 0 => given (wR2 w == 0 && wN w == 0) (.ldsx c (wRd w) (wR1 w))
  | 1 => given (wR2 w == 0 && wN w == 0) (.ldsxSt c (wRd w) (wR1 w))
  | 2 => given (wRd w == 0 && decide ((wN w).toNat ≤ 6)) (.stsx c (wR1 w) (wR2 w) (BitVec.ofNat 3 (wN w).toNat))
  | _ => none

/-- INT (R90). -/
def decodeInt (c : Fin 16) (w : Nat) : Option Instr :=
  let d := wRd w
  let a := wR1 w
  let b := wR2 w
  if wN w ≠ 0 then none
  else
    match wFn w with
    | 0x00 => some (.add c d a b)
    | 0x01 => some (.sub c d a b)
    | 0x02 => some (.adds c d a b)
    | 0x03 => some (.subs c d a b)
    | 0x04 => some (.and c d a b)
    | 0x05 => some (.or c d a b)
    | 0x06 => some (.xor c d a b)
    | 0x07 => some (.sll c d a b)
    | 0x08 => some (.srl c d a b)
    | 0x09 => some (.sra c d a b)
    | 0x0A => some (.mul c d a b)
    | 0x0B => some (.mulh c d a b)
    | 0x0C => some (.mulhu c d a b)
    | 0x0D => some (.div c d a b)
    | 0x0E => some (.divu c d a b)
    | 0x0F => some (.rem c d a b)
    | 0x10 => some (.remu c d a b)
    | 0x11 => some (.min c d a b)
    | 0x12 => some (.max c d a b)
    | 0x13 => some (.minu c d a b)
    | 0x14 => some (.maxu c d a b)
    | 0x15 => given (b == 0) (.abs c d a)
    | 0x16 => given (b == 0) (.neg c d a)
    | _ => none

/-- SHI (R90): the amount in bits 4:0, the kind in bits 6:5, bits 15:7 zero. -/
def decodeShi (c : Fin 16) (w : Nat) : Option Instr :=
  let n : BitVec 5 := wordField w 0 5
  if wordField w 7 9 ≠ 0 then none
  else
    match (wordField w 5 2).toNat with
    | 0 => some (.shiSll c (wRd w) (wR1 w) n)
    | 1 => some (.shiSrl c (wRd w) (wR1 w) n)
    | 2 => some (.shiSra c (wRd w) (wR1 w) n)
    | _ => none

/-- QFX (R92). -/
def decodeQfx (c : Fin 16) (w : Nat) : Option Instr :=
  let d := wRd w
  let a := wR1 w
  let b := wR2 w
  let n := wN w
  match wFn w with
  | 0 => some (.qmul c d a b n)
  | 1 => some (.qdiv c d a b n)
  | 2 => given (b == 0) (.qshl c d a n)
  | 3 => given (b == 0) (.qshr c d a n)
  | 4 => some (.qmac c d a b n)
  | 5 => given (n == 0) (.qlim c d a b)
  | _ => none

/-- FPU (R93). -/
def decodeFpu (c : Fin 16) (w : Nat) : Option Instr :=
  let d := wRd w
  let a := wR1 w
  let b := wR2 w
  let n := wN w
  match wFn w with
  | 0x00 => given (n == 0) (.fadd c d a b)
  | 0x01 => given (n == 0) (.fsub c d a b)
  | 0x02 => given (n == 0) (.fmul c d a b)
  | 0x03 => given (n == 0) (.fdiv c d a b)
  | 0x04 => given (n == 0 && b == 0) (.fsqrt c d a)
  | 0x05 => given (n == 0) (.fmin c d a b)
  | 0x06 => given (n == 0) (.fmax c d a b)
  | 0x07 => given (n == 0 && b == 0) (.fabs c d a)
  | 0x08 => given (n == 0 && b == 0) (.fneg c d a)
  | 0x09 => given (n == 0 && b == 0) (.fcvtSW c d a)
  | 0x0A => given (n == 0 && b == 0) (.fcvtWS c d a)
  | 0x0B => given (b == 0) (.fcvtSQ c d a n)
  | 0x0C => given (b == 0) (.fcvtQS c d a n)
  | _ => none

/-- CMP (R94). -/
def decodeCmp (c : Fin 16) (w : Nat) : Option Instr :=
  let d := wRd w
  let a := wR1 w
  let b := wR2 w
  if wN w ≠ 0 then none
  else
    match wFn w with
    | 0 => some (.eq c d a b)
    | 1 => some (.ne c d a b)
    | 2 => some (.lt c d a b)
    | 3 => some (.le c d a b)
    | 4 => some (.ltu c d a b)
    | 5 => some (.leu c d a b)
    | 6 => some (.feq c d a b)
    | 7 => some (.flt c d a b)
    | 8 => some (.fle c d a b)
    | 9 => some (.fun c d a b)
    | _ => none

/-- BOOL (R94). -/
def decodeBool (c : Fin 16) (w : Nat) : Option Instr :=
  let d := wRd w
  let a := wR1 w
  let b := wR2 w
  let n := wN w
  match wFn w with
  | 0 => given (n == 0) (.band c d a b)
  | 1 => given (n == 0) (.bor c d a b)
  | 2 => given (n == 0) (.bxor c d a b)
  | 3 => given (n == 0 && b == 0) (.bnot c d a)
  | 4 => some (.sel c d a b n)
  | _ => none

/-- TMR and EDGE (R95, R96). -/
def decodeTmr (c : Fin 16) (w : Nat) : Option Instr :=
  let off : BitVec 14 := wordField w 0 14
  match (wordField w 14 2).toNat with
  | 0 => some (.ton c (wRd w) (wR1 w) off)
  | 1 => some (.tof c (wRd w) (wR1 w) off)
  | 2 => some (.tp c (wRd w) (wR1 w) off)
  | _ => none
def decodeEdge (c : Fin 16) (w : Nat) : Option Instr :=
  let off : BitVec 15 := wordField w 0 15
  if wordField w 15 1 = 0 then some (.edgeRising c (wRd w) (wR1 w) off) else some (.edgeFalling c (wRd w) (wR1 w) off)

/-- REQ (R100): FN in bits 15:12 and TARGET in bits 11:0 of the immediate. -/
def decodeReq (c : Fin 16) (w : Nat) : Option Instr :=
  let slot : BitVec 6 := wordField w 2 6
  let lp : BitVec 2 := wordField w 0 2
  let tpl : BitVec 8 := wordField w 0 8
  if wordField w 8 4 ≠ 0 then none
  else
    match (wordField w 12 4).toNat with
    | 0 => some (.lsp c (wRd w) (wR1 w) slot lp)
    | 1 => some (.lmode c (wRd w) (wR1 w) slot lp)
    | 2 => some (.lman c (wRd w) (wR1 w) slot lp)
    | 3 => given (lp == 0 && wR1 w == 0) (.lout c (wRd w) slot)
    | 4 => given (lp == 0 && wR1 w == 0) (.lwin c (wRd w) slot)
    | 5 => some (.slvq c (wRd w) (wR1 w) tpl)
    | 6 => given (wR1 w == 0) (.slvst c (wRd w) tpl)
    | 7 => some (.slvrd c (wRd w) (wR1 w) tpl)
    | _ => none

/-- The Cadence instruction that a word spells, run by lane context `c`; none for an illegal encoding (R87). -/
def decodeCad (c : Fin 16) (w : Nat) : Option Instr :=
  let d := wRd w
  let a := wR1 w
  let imm := wImm w
  match wOp w with
  | 0x01 | 0x02 | 0x03 => decodeSignal c w
  | 0x04 => decodeSigx c w
  | 0x08 => some (.ldw c d a imm)
  | 0x09 => some (.ldh c d a imm)
  | 0x0A => some (.ldb c d a imm)
  | 0x0B => some (.stw c d a imm)
  | 0x0C => some (.sth c d a imm)
  | 0x0D => some (.stb c d a imm)
  | 0x0E => given (a == 0) (.ldk c d imm)
  | 0x0F => given (a == 0) (.ldkh c d imm)
  | 0x10 => decodeInt c w
  | 0x11 => some (.addi c d a imm)
  | 0x12 => some (.andi c d a imm)
  | 0x13 => some (.ori c d a imm)
  | 0x14 => some (.xori c d a imm)
  | 0x15 => decodeShi c w
  | 0x16 => some (.slti c d a imm)
  | 0x18 => decodeQfx c w
  | 0x1C => decodeFpu c w
  | 0x20 => decodeCmp c w
  | 0x21 => decodeBool c w
  | 0x24 => decodeTmr c w
  | 0x25 => decodeEdge c w
  | 0x28 => some (.beq c d a imm)
  | 0x29 => some (.bne c d a imm)
  | 0x2A => some (.blt c d a imm)
  | 0x2B => some (.bge c d a imm)
  | 0x2D => some (.jmp c (wordField w 0 26))
  | 0x2E => some (.loop c d (wordField w 10 11) (wordField w 0 10))
  | 0x2F => given (wordField w 0 21 == 0) (.lidx c d)
  | 0x30 => given (d == 0) (.call c a imm)
  | 0x31 => given (wordField w 0 26 == 0) (.ret c)
  | 0x34 => decodeReq c w
  | 0x38 => given (d == 0 && a == 0) (.trap c imm)
  | 0x39 => given (d == 0) (.assert c a imm)
  | 0x3A => some (.evt c d a imm)
  | 0x3B => given (wordField w 0 26 == 0) (.nop c)
  | _ => none

/-- The command that a word spells: a 32-bit word, the Cadence instruction of R87, run by lane context 0; no other width spells one.
Log entry 10 (DESIGN CHOICE). -/
def decodeTableWord (nbits w : Nat) : Option Instr :=
  if nbits = 32 then decodeCad 0 w else none

end Sys2Proof
end

