-- ==== Sys2Proof/Config.lean ====
section
/-! DEFINITION. What the spec leaves open, as constants without a body: nothing can compute them, so a claim holds for every value. -/

namespace Sys2Proof.Config

/-- A fresh value the spec leaves open, by the count of free values taken before. Log entry 8 (DESIGN CHOICE). -/
opaque freeNat : Nat → Nat

/-- The RTC's prescaler at a TB2 instant (R480). Log entry 55 (DEDUCED). -/
opaque rtcSub : Nat → Nat

/-- The error of the solver's function unit in units of 2⁻⁶⁰ of the result, by function and argument; the model takes it within the bound of
R226. Log entry 28 (DESIGN CHOICE). -/
opaque unitErr : Nat → Rat → Int

/-- Whether the solver's inexact Q31.32 result goes to the upper neighbour, by the exact product or the argument.
Log entry 28 (DESIGN CHOICE). -/
opaque qUp : Int → Bool

/-- The Q31.32 number of a NaN. Log entry 28 (DESIGN CHOICE). -/
opaque nanQ : Word → Int

/-- κ of a valve whose C2 is neither 0 nor above 1, by C2 and the opening (R229). Log entry 28 (DESIGN CHOICE). -/
opaque kappa : Int → Int → Int

/-- A node's temperature before a horizon that has no history, by frame number and node (R233). Log entry 28 (DESIGN CHOICE). -/
opaque histNone : Int → Nat → Int

/-- The cost at an iterate 0 whose cost saturates, by the job's inputs. Log entry 28 (DESIGN CHOICE). -/
opaque cost0 : List (List Byte) → Nat

/-- A byte of the tile working set that a pre-empted job saves (R271): job inputs, complete iterations, byte number.
Log entry 28 (DESIGN CHOICE). -/
opaque slvSave : List (List Byte) → Nat → Nat → Byte

/-- KiB that a model image occupies when resident (R223). Log entry 28 (DESIGN CHOICE). -/
opaque modelKib : List Byte → Nat

/-- KiB of one frame's scratch (R223, SLV_MODEL_FSZ). Log entry 28 (DESIGN CHOICE). -/
opaque frameKib : List Byte → Nat

/-- Bytes of tile memory that an LSQ, DSP or FAC job works in, by its input blocks (R271). Log entry 28 (DESIGN CHOICE). -/
opaque slvWork : List (List Byte) → Nat

/-- The error of the factor k of EN 1434-1 in units of 10⁻¹² of it, by the supply and return temperature and the pressure; the model takes it
within the bound of R299. Log entry 82 (DESIGN CHOICE). -/
opaque heatErr : Rat → Rat → Nat → Int

/-- The window of the phase correction's interpolation (R290), at a distance in samples; the model takes it within the bounds of
`windowed`. Log entry 82 (DESIGN CHOICE). -/
opaque phcWindow : Rat → Rat

/-- The gain of the Hilbert transformer (R293) at a spectral line of a window of so many samples: its deviation from 1 in units of 10⁻³, which
the model takes within the bound of R293 in the band and from −1,000 to 1 outside it. Log entry 82 (DESIGN CHOICE). -/
opaque hilbertGain : Nat → Nat → Rat

/-- The window of the resampling (R294), at a distance in samples; the model takes it within the bounds of `windowed`.
Log entry 82 (DESIGN CHOICE). -/
opaque resampleWindow : Rat → Rat

/-- What a SCALE that is not finite gives (R290). Log entry 82 (DESIGN CHOICE). -/
opaque scaleOpen : Word → Rat

/-- The Choigard public key whose hash the boot ROM holds (R411, R426). Log entry 63 (DESIGN CHOICE). -/
opaque factoryKey : List Byte

/-- The 96-bit IV of IMPORT_SYM's AES-256-GCM, which the token layout of R424 does not carry: of the token's nonce.
Log entry 63 (DESIGN CHOICE). -/
opaque importIv : BitVec 256 → BitVec 96

/-- The addresses of the ring ports (R157): 0 port A, 1 port B. Log entry 63 (DESIGN CHOICE). -/
opaque portAddr : Nat → BitVec 48

/-- Bytes 0 to 11 of the module's IDENT reply: vendor, product, revision (R188). Log entry 63 (DESIGN CHOICE). -/
opaque identByte : Nat → Byte

/-- The entries that a standby's replay queue holds beyond one (R377). Log entry 39 (DEDUCED). -/
opaque replayRoom : Nat

/-- The bytes of the copy of a join beyond those of instance memory (R378), whose layout the manual does not give. Log entry 39 (DEDUCED). -/
opaque joinRest : Nat

end Sys2Proof.Config
end

