-- ==== Sys2Proof/Machine/RegTypes.lean ====
section
/-! DEFINITION. What a register table says of a field (R17, R45), and the name of a field. -/

namespace Sys2Proof.Machine

/-- The access classes of R17. -/
inductive Cls where
  | ro | rw | rwl | rws | wo | rc | w1c | w1s
  deriving DecidableEq, Repr

/-- A field of a register: bits `hi` to `lo`, class, monitor-only mark and reset value. -/
structure FieldSpec where
  hi : Nat
  lo : Nat
  cls : Cls
  mon : Bool
  reset : Nat
  deriving DecidableEq, Repr

/-- A field by address: register address, lowest bit and width. -/
structure Fld where
  addr : Nat
  lo : Nat
  w : Nat
  deriving DecidableEq, Repr

/-- A row of a register table: offset, stride and count of the first index, stride and count of the second, and the fields for
each pair of indices. -/
abbrev RegSpec := Nat × Nat × Nat × Nat × Nat × (Nat → Nat → List FieldSpec)

end Sys2Proof.Machine

namespace Sys2Proof

/-- BLK_ID.CODE of a block: bits 23:16 of its page base (R39, R45). -/
def Blk.code : Blk → Nat
  | .sys => 0x00 | .int => 0x01 | .fab => 0x02 | .xlt => 0x03 | .mem => 0x04 | .nfm => 0x05 | .pfm => 0x06
  | .cad => 0x08 | .lpe => 0x09 | .slv => 0x0A | .spk => 0x0B | .net => 0x0C | .tsu => 0x0D | .mtr => 0x0E | .fio => 0x0F
  | .can _ => 0x10 | .tdm => 0x11 | .evr => 0x12 | .kst => 0x13 | .pwr => 0x14 | .rtc => 0x15 | .pnl => 0x16 | .bgs => 0x17

/-- The page instance number of a block: 0 but for the CAN ports (R45). -/
def Blk.inst : Blk → Nat
  | .can p => p.val
  | _ => 0

/-- The first address of a block's register page (R39); CAN port n is at + n × 0x4000. -/
def Blk.base (b : Blk) : Nat := 0x10000000 + 0x10000 * b.code + 0x4000 * b.inst

/-- A number for each page instance: its code, and 24 + n for CAN port n. -/
def Blk.idx : Blk → Nat
  | .can p => 24 + p.val
  | b => b.code

/-- The power domain of a block (R39). -/
def Blk.domain : Blk → Domain
  | .cad | .lpe => .cad
  | .slv => .slv
  | .mem => .mem
  | .spk | .net | .tsu | .tdm => .net
  | .mtr | .fio | .can _ => .fld
  | .pwr | .rtc => .aon
  | .pnl => .pnl
  | _ => .core

/-- A number for each power domain. -/
def Domain.idx : Domain → Nat
  | .core => 0 | .cad => 1 | .slv => 2 | .mem => 3 | .net => 4 | .fld => 5 | .pnl => 6 | .aon => 7

/-- The block whose register page holds an address (R39); none for page 7 and outside the 24 pages. -/
def blkAt (a : Nat) : Option Blk :=
  if a < 0x10000000 || 0x10180000 ≤ a then none else
  match (a - 0x10000000) / 0x10000 with
  | 0 => some .sys | 1 => some .int | 2 => some .fab | 3 => some .xlt | 4 => some .mem | 5 => some .nfm | 6 => some .pfm
  | 8 => some .cad | 9 => some .lpe | 10 => some .slv | 11 => some .spk | 12 => some .net | 13 => some .tsu | 14 => some .mtr
  | 15 => some .fio
  | 16 => some (.can (Fin.ofNat 4 ((a % 0x10000) / 0x4000)))
  | 17 => some .tdm | 18 => some .evr | 19 => some .kst | 20 => some .pwr | 21 => some .rtc | 22 => some .pnl | 23 => some .bgs
  | _ => none

end Sys2Proof
end

