-- ==== Sys2Proof/Machine/State.lean ====
section
/-! DEFINITION. The state of the block: plain data, holding every register, queue, counter, mode and pin the spec gives the device,
and the queue of waiting commands. -/

namespace Sys2Proof.Machine

/-- Why a step of the model stops. No command of this device stops: every row of the operation table has an effect, so no meaning
raises it; it is here because the interface asks for a reason type. Safe: it stops the model where hardware would go on. -/
inductive Fault where
  /-- Raised by no meaning. Safe. -/
  | none
  deriving DecidableEq, Repr

/-- Why a command has no meaning. -/
inductive Refusal where
  /-- The command is not modelled: raised only by an arm of the dispatch. Safe: the model stops. -/
  | notModelled (mnemonic : String)
  deriving DecidableEq, Repr

/-- The response of the last access a command stands for: the data read and whether it was an error response (R37, R41, R42).
Log entry 9 (DESIGN CHOICE). -/
structure Resp where
  data : Word := 0
  err : Bool := false
  deriving DecidableEq, Repr

/-- An event a block has sent to the recorder and that the recorder has not yet accepted (R391, R392, R394, R438), the instant it
was posted (TB2 units), and the TIME and FLAGS that AON logic took with it while CORE was off (R399). -/
structure Event where
  at_ : Nat := 0
  src : Nat
  code : Nat
  sev : Nat
  cont : Bool := false
  p0 : Nat := 0
  p1 : Nat := 0
  p2 : Nat := 0
  p3 : Nat := 0
  aon : Option (Nat × Nat) := none
  deriving DecidableEq, Repr

/-- A pinned range of a translation context (R443, R447): first virtual and physical page, pages, permissions. -/
structure Pin where
  va : Nat := 0
  pa : Nat := 0
  pages : Nat := 0
  r : Bool := false
  w : Bool := false
  en : Bool := false
  deriving DecidableEq, Repr

/-- A cached table translation (R443). -/
structure XltEntry where
  ctx : Nat
  vpn : Nat
  ppn : Nat
  r : Bool
  w : Bool
  deriving DecidableEq, Repr

/-- A fault log entry (R446): context, cause, direction (true: write) and IOVA. -/
structure XltFault where
  ctx : Nat
  cause : Nat
  wr : Bool
  iova : Nat
  deriving DecidableEq, Repr

/-- The translation unit (R442 to R447): pinned ranges by 8 × context + range, cached translations, fault log. -/
structure Xlt where
  pins : List (Nat × Pin) := []
  cache : List XltEntry := []
  log : List XltFault := []
  deriving DecidableEq, Repr

/-- A loop in progress on a context (R98): first and end program counter of the body, index and count. -/
structure LoopFrame where
  start : Nat
  stop : Nat
  idx : Nat
  count : Nat
  deriving DecidableEq, Repr

/-- A saved caller (R98, R99): return program counter, calling instance and its open loops, innermost first. -/
structure CallFrame where
  ret : Nat
  inst : Nat
  loops : List LoopFrame
  deriving DecidableEq, Repr

/-- A slot written by a context in this invocation (R80): slot, value and status word. -/
structure SlotWrite where
  slot : Nat
  value : Word
  status : Word
  deriving DecidableEq, Repr

/-- An instance context of a lane (R83): the scheduled instance and its task, the instance now running and the program counter, the
working registers, the call and loop stacks, the instructions executed (BUDGET) and the slots written. -/
structure LaneCtx where
  busy : Bool := false
  task : Fin 8 := 0
  inst : Nat := 0
  cur : Nat := 0
  pc : Nat := 0
  w : Vector Word 32 := Vector.replicate 32 0
  calls : List CallFrame := []
  loops : List LoopFrame := []
  count : Nat := 0
  own : List SlotWrite := []
  deriving DecidableEq, Repr

/-- A slot changed while a task's wave runs (R80): the highest-numbered instance of the wave that wrote it (none: another task did),
and its value and status as the wave started. -/
structure WaveWrite where
  slot : Nat
  inst : Option Nat
  value : Word
  status : Word
  deriving DecidableEq, Repr

/-- A request or event of a scheduled instance, in the order executed. -/
structure Post where
  inst : Nat
  kind : PostKind
  deriving DecidableEq, Repr

/-- An exception of a cycle (R104, R108): scheduled instance, code, program counter, TRAP or ASSERT code, and whether it is a task fault. -/
structure Exc where
  inst : Nat
  code : Nat
  pc : Nat
  arg : Nat
  fault : Bool
  deriving DecidableEq, Repr

/-- A task's cycle in progress and its history (R113 to R122). Times are TB2 nanoseconds. -/
structure Task where
  /-- The current cycle's start and the previous one. -/
  start : Nat := 0
  prev : Nat := 0
  /-- Δ of R95 for the current cycle, in µs; and the mark that the next cycle's Δ is 0. -/
  delta : Nat := 0
  deltaZero : Bool := true
  /-- The wave in progress, its instances not yet started, and the waves still to come. -/
  wave : Nat := 0
  todo : List Nat := []
  waves : List Nat := []
  waveWrites : List WaveWrite := []
  /-- Contexts saved while a higher-ranking task runs, each with its lane (R114). -/
  saved : List (Nat × LaneCtx) := []
  posts : List Post := []
  excs : List Exc := []
  /-- Sticky flags of the cycle, set in CAD_EXC_FLAGSn at its end (R85). -/
  flags : Word := 0
  /-- A task fault arose in the cycle (R107). -/
  faulted : Bool := false
  /-- STOP written while RUNNING (R121). -/
  stopPend : Bool := false
  /-- Instances that left HOLD at the current cycle start, whose Δ is 0 (R95). -/
  leftHold : List Nat := []
  /-- Overruns since the last overrun event, whether one was recorded since the task started, and its TB2 second (R120). -/
  ovrSince : Nat := 0
  ovrSeen : Bool := false
  ovrSec : Nat := 0
  /-- The current cycle overran, and the last instant counted as an overrun (TB2 ns) (R118, R119). -/
  ovrThis : Bool := false
  ovrAt : Option Nat := none
  /-- A start that POLICY STRETCH owes (R118). -/
  owed : Bool := false
  /-- The grid counts from this base while T0 runs free (R117), and its first start lies at or after this instant (R113, R116), in ns. -/
  gridBase : Option Nat := none
  gridFrom : Nat := 0
  /-- T0: LOCK committed, first locked start still to come without LOCK_CHG (R116). -/
  quietLock : Bool := true
  /-- Selected outputs and winners of the 64 loop slots, and status words of the 256 templates, at the cycle start (R101, R102). -/
  louts : List (Nat × (Word × Nat)) := []
  tpls : List (Nat × Word) := []
  /-- The template results as at the cycle start: the RD_LEN words of the current half of the window, by template (R32, R102). -/
  wins : List (Nat × List Byte) := []
  deriving DecidableEq, Repr

/-- What a delivery to the live image brings (R26, R146). -/
structure Delivery where
  sig : Nat
  value : Word
  qual : Nat
  age : Nat
  deriving DecidableEq, Repr

/-- The Cadence engine beside its registers. -/
structure Cad where
  /-- The contexts: context j of lane k at 4 × k + j. -/
  ctx : Vector LaneCtx 16 := Vector.replicate 16 {}
  tasks : Vector Task 8 := Vector.replicate 8 {}
  /-- Instances in HOLD and POISONED (R105, R106), ascending. -/
  hold : List Nat := []
  poisoned : List Nat := []
  /-- Exceptions already recorded as events, by instance and code (R108). -/
  evOnce : List (Nat × Nat) := []
  /-- Instance commands waiting for their task's next cycle start (R112): instance, OP. -/
  instCmds : List (Nat × Nat) := []
  /-- The program hash held at load, per bank; and whether the ACTIVE bank's alteration was reported (R111). -/
  hash0 : Nat := 0
  hash1 : Nat := 0
  altReported : Bool := false
  /-- The verify bit as it was when the load in progress started (R110). -/
  loadVerified : Bool := false
  /-- The force table by index, and the entries as they took effect at the last cycle start of any task (R133). -/
  forces : List (Nat × Option Force) := []
  applied : List Force := []
  /-- Signals and table indices whose entry changed since the last cycle start of any task (R133, R137). -/
  forceChg : List Nat := []
  forcePend : List Nat := []
  /-- Online change: REFUSE_ORPHAN as armed, the instant it was armed (TB2 ns), deliveries held while MIGRATING (R142 to R149). -/
  chgRefuse : Bool := false
  chgArmed : Nat := 0
  held : List Delivery := []
  /-- Retained save: NOW, the instant it began to wait or save, execution suspended (R129); the set as the save found it, records and
  data, then header (none: uncorrectable data). -/
  retNow : Bool := false
  retSince : Nat := 0
  suspended : Bool := false
  retSet : Option (List Byte × List Byte) := none
  /-- The TB2 count at which SPK supplied its latest ring instant, and whether it supplies instants (R116, R117). -/
  ringAt : Option Nat := none
  ringSupplied : Bool := false
  deriving DecidableEq, Repr

/-- The part of a spoke entry that firmware writes, with its point map, as SPK last read it (R173, R174); `bad`: it failed its check. -/
structure SpkCfg where
  en : Bool := false
  tagged : Bool := false
  slot : Nat := 0
  outLen : Nat := 0
  inLen : Nat := 0
  missLimit : Nat := 1
  recover : Nat := 1
  substBad : Bool := false
  uncertBad : Bool := false
  upLen : Nat := 0
  map : List Nat := []
  bad : Bool := false
  deriving DecidableEq, Repr

/-- The part of a spoke entry that SPK writes (R173), the input data last taken, the quality last given to each input item, and
whether the last answer asked for the mailbox. -/
structure SpkStat where
  state : Nat := 0
  undelivered : Bool := false
  lastB : Bool := false
  cached : Bool := false
  frame : Nat := 0
  missRun : Nat := 0
  segOfs : Nat := 0
  recovRun : Nat := 0
  missTotal : Nat := 0
  undelivTotal : Nat := 0
  failCount : Nat := 0
  lastPass : Nat := 0
  lastStatus : Nat := 0
  downSeq : Nat := 0
  upSeq : Nat := 0
  data : List Byte := []
  quals : List Nat := []
  wantsMbx : Bool := false
  deriving DecidableEq, Repr

/-- A spoke entry; `mem`: bytes 0x1C to 0x3F as SPK last wrote them to memory (R176; none: not since ring start). -/
structure Spoke where
  cfg : SpkCfg := {}
  st : SpkStat := {}
  mem : Option (List Byte) := none
  deriving DecidableEq, Repr

/-- A cyclic frame as REPACK laid it out (R162): tagging, key slot, and node and offset of each segment. -/
structure PackFrame where
  tagged : Bool
  slot : Nat
  segs : List (Nat × Nat) := []
  area : Nat := 0
  deriving DecidableEq, Repr

/-- A copy of the pass in flight that returned before the deadline: DIR, FRAME, the body, and whether it is intact (R154, R170). -/
structure Copy where
  dir : Bool
  frame : Nat
  body : List Byte
  intact : Bool
  looped : Bool
  deriving DecidableEq, Repr

/-- The pass in flight (R154, R155): its number, ring instant and departure (ns), frames sent, copies returned and the latest return;
its number of cyclic frames; whether it is the last pass before a stop (R194). -/
structure Pass where
  num : Nat
  instant : Nat
  depart : Nat
  nframe : Nat
  sent : Nat
  copies : List Copy := []
  lastRet : Nat := 0
  late : Bool := false
  final : Bool := false
  /-- The epoch of each key slot its frames were tagged under (R420). -/
  epochs : List (Nat × Nat) := []
  deriving DecidableEq, Repr

/-- A down message that awaits its acknowledgement (R186): descriptor, node, SEQ, service, payload, sends, passes since the last send,
and whether it is to be sent again. -/
structure DownMsg where
  idx : Nat
  node : Nat
  seq : Nat
  service : Nat
  payload : List Byte
  sends : Nat := 0
  waited : Nat := 0
  due : Bool := true
  deriving DecidableEq, Repr

/-- A mailbox message at a station: SEQ, SERVICE, STATUS, payload. -/
structure MbxMsg where
  seq : Nat
  service : Nat
  status : Nat := 0
  payload : List Byte := []
  deriving DecidableEq, Repr

/-- The station side (R165, R166, R168, R186 to R188): the pass being seen and whether outputs were taken from it, the last pass taken
from, OUT_MISS, the pass whose frame 0 gave the last ring instant, substitution, the instant of the last taken copy (ns), the taken output
data, SEQ accepted, the requests to be answered, the up messages held and the next up SEQ, SUBST_DATA and SUBST_MODE. -/
structure Stn where
  pass : Option Nat := none
  took : Bool := false
  lastTaken : Option Nat := none
  outMiss : Bool := true
  instantOf : Option Nat := none
  subst : Bool := true
  takenAt : Nat := 0
  out : List Byte := []
  ackSeq : Nat := 0
  req : List MbxMsg := []
  up : List MbxMsg := []
  upSeq : Nat := 1
  substData : List Byte := []
  substMode : Nat := 0
  deriving DecidableEq, Repr

/-- The Spoke ring unit beside its registers. -/
structure Spk where
  ents : List (Nat × Spoke) := []
  frames : List PackFrame := []
  /-- A RELOAD (1) or REPACK (2) that waits for its departure, and its entry (R177). -/
  tbl : Option (Nat × Nat) := none
  /-- The ring instant (ns) whose pass has not left, and whether it is the first after ring start (R194). -/
  due : Option Nat := none
  first : Bool := false
  pass : Option Pass := none
  /-- The next pass number, the highest used (kept in AON, R191) and the highest seen in passing (R383). -/
  next : Nat := 0
  high : Option Nat := none
  seen : Nat := 0
  /-- The number of the last departed pass, as SPK_PASS_LO and SPK_PASS_HI show it (R195). -/
  departed : Nat := 0
  /-- The ring grid a takeover continues: an instant of it (ns) (R383). -/
  gridAt : Option Nat := none
  /-- Passes still to leave before the stop boundary (R194). -/
  stopLeft : Option Nat := none
  /-- Down messages outstanding, completed descriptors beyond HEAD, the next descriptor to take, the last node polled. -/
  down : List DownMsg := []
  done : List Nat := []
  take : Nat := 0
  polled : Nat := 0
  /-- Key slots whose failure was already reported (R193). -/
  tagBad : List Nat := []
  /-- The instant (ns) of the last pass seen in station role (R156). -/
  lastInstant : Nat := 0
  stn : Stn := {}
  /-- A STANDBY or HIBERNATE entry has passed the quiesce of SPK (R153). -/
  quiet : Bool := false
  /-- Ports whose frames are looped back, and since when (ns) a failed port holds synchronisation (R167). -/
  loopA : Bool := false
  loopB : Bool := false
  syncA : Option Nat := none
  syncB : Option Nat := none
  /-- The frames the last command sent on ports A (0) and B (1), and whether a member keeps copies of passing frames (R21). -/
  tx : List (Nat × SpokeFrame) := []
  kept : List SpokeFrame := []
  deriving DecidableEq, Repr

/-- A value of the output image: value, quality and writer, a task (0 to 7) or loop slot n (16 + n) (R213). -/
structure OutVal where
  value : Word
  qual : Nat
  writer : Nat
  deriving DecidableEq, Repr

/-- A value of the guarded output image (R213, R216). -/
structure Guarded where
  value : Word
  qual : Nat
  deriving DecidableEq, Repr

/-- An entry of a guard table (R214). -/
structure GuardEntry where
  sig : Nat
  typ : Nat
  min : Word
  max : Word
  safe : Word
  slew : Word
  refill : Nat
  togMax : Nat
  slewEn : Bool
  safeOnBad : Bool
  deriving DecidableEq, Repr

/-- A guard bank: its entries in ascending signal ID, version and hash (R214, R215). -/
structure GuardBank where
  entries : List GuardEntry := []
  version : Nat := 0
  hash : Nat := 0
  deriving DecidableEq, Repr

/-- The loop engine and the output guard beside their registers. -/
structure Lpe where
  slots : Vector LpeSlot 64 := Vector.replicate 64 {}
  /-- Evaluations in the running TB2 second, and that second (LPE_LOAD). -/
  evals : Nat := 0
  evalSec : Nat := 0
  /-- The output image by signal (R213), and the guarded image as the last completed pass left it (R217). -/
  out : List (Nat × Option OutVal) := []
  /-- Signals that a task fault holds at their guard safe value (R107). -/
  sof : List Nat := []
  guarded : List (Nat × Option Guarded) := []
  bank0 : GuardBank := {}
  bank1 : GuardBank := {}
  state : List (Nat × Option GuardState) := []
  /-- The guard load in progress has its image address and the bank it fills. -/
  loading : Bool := false
  /-- Signals that already raised UNGUARDED under the active table (R218). -/
  ungRaised : List Nat := []
  /-- Start of the previous pass, TB2 ns (R216, R217). -/
  lastPass : Nat := 0
  /-- A T0 publication is waiting for its guard pass; the latest T0 publication (TB2 ns) passed by the guard (R27, R28). -/
  t0Pending : Bool := false
  /-- A publication awaits its guard pass; a guard pass has completed over one since the last ring pass left (R160). -/
  pubNew : Bool := false
  fresh : Bool := false
  deriving DecidableEq, Repr

/-- A job template and its last job (R265 to R269, R279): the held copy, the status, the last rejection reason, STOP and ITER, the
last deadline (TB2 µs) and the current half of the readable window. -/
structure Tpl where
  kind : Nat := 0
  queue : Nat := 0
  en : Bool := false
  rdLen : Nat := 0
  rdOff : Nat := 0
  param : Nat := 0
  state : Nat := 0
  seq : Nat := 0
  reason : Nat := 0
  stop : Nat := 0
  iter : Nat := 0
  deadline : Nat := 0
  cur : Bool := false
  deriving DecidableEq, Repr

/-- A column of a factor (R238, R261): its pivot and its entries of L by position, exact. -/
structure LCol where
  d : Rat
  l : List (Nat × Rat)
  deriving DecidableEq, Repr

/-- A job that is queued, pre-empted or running (R267 to R273). -/
structure Job where
  tpl : Nat
  kind : Nat
  queue : Nat
  /-- The order of acceptance, the acceptance instant (TB2 ns) and the deadline (TB2 µs). -/
  ord : Nat
  accepted : Nat
  deadline : Nat
  /-- The start checks have passed; its working set is saved in SCRATCH; it started by pre-empting another job. -/
  started : Bool := false
  saved : Bool := false
  preempts : Bool := false
  /-- The phase as SLV_RUN.PHASE codes it. -/
  phase : Nat := 0
  /-- The input blocks as read at the start: parameter block, range plan, and the kind's arrays. -/
  ins : List (List Byte) := []
  /-- Complete iterations, and the iterate in the raw formats of the working plan: x (EST: the parameters, then every frame's unknowns), and
  z and y of a DSP job. -/
  iter : Nat := 0
  x : List Int := []
  z : List Int := []
  y : List Int := []
  /-- Range retries taken, and the bits by which formats of the working plan were lowered, by KIND and BLOCK (R249). -/
  retries : Nat := 0
  widened : List ((Nat × Nat) × Nat) := []
  pivfix : Nat := 0
  histShort : Bool := false
  costUp : Bool := false
  refactored : Bool := false
  /-- The damping exponent k_μ (R239). -/
  kmu : Int := 0
  cost0 : Rat := 0
  cost : Rat := 0
  step : Rat := 0
  priRes : Rat := 0
  duaRes : Rat := 0
  /-- The most magnitude bits written so far, by KIND and BLOCK (R250). -/
  mags : List ((Nat × Nat) × Nat) := []
  /-- The factor being built or used: slot, whether this job writes it, and its KEY, generation and entries. -/
  slot : Option Nat := none
  writes : Bool := false
  key : Nat := 0
  gen : Nat := 0
  lnnz : Nat := 0
  /-- Bytes of tile memory it needs. -/
  work : Nat := 0
  /-- A DEADLINE or ABORTED end that waits for the next pre-emption point, and a decided STOP whose outcome is to be written. -/
  stopReq : Option Nat := none
  out : Option Nat := none
  deriving DecidableEq, Repr

/-- The access at which the solver stalls (R276). -/
inductive StallAt where
  | start | iterate | save | restore | outcome
  deriving DecidableEq, Repr

/-- A stalled job: its template and where it stalled. -/
structure Stall where
  tpl : Nat
  at_ : StallAt
  deriving DecidableEq, Repr

/-- The solver beside its registers. -/
structure Slv where
  tpls : List (Nat × Tpl) := []
  /-- Jobs waiting in the four queues, fresh or pre-empted. -/
  waiting : List Job := []
  run : Option Job := none
  /-- The template whose job pre-empts the running job once its save ends. -/
  next : Option Nat := none
  stall : Option Stall := none
  /-- The resident model image (R235). -/
  model : Option (List Byte) := none
  /-- The factors of the slots (R261). -/
  factors : List (Nat × List LCol) := []
  /-- Jobs accepted so far. -/
  order : Nat := 0
  deriving DecidableEq, Repr

/-- Half of a key slot (R418): the key, the public key of a private slot, and the check word. -/
structure KeyHalf where
  key : List Byte
  pub : List Byte := []
  check : Nat
  deriving DecidableEq, Repr

/-- A persisted key (R421): slot, active half, EPOCH and origin. -/
structure StoredKey where
  slot : Nat
  half : Option KeyHalf
  epoch : Nat
  origin : Nat
  deriving DecidableEq, Repr

/-- A copy of the slot store (R421): sequence number, the SLOTSTORE key that wraps it, and what it holds. -/
structure SlotStore where
  seq : Nat
  key : List Byte
  keys : List StoredKey
  deriving DecidableEq, Repr

/-- An event record in the buffer or the log (R391): SEQ, severity and the 32 bytes. -/
structure LogRec where
  seq : Nat
  sev : Nat
  bytes : List Byte
  deriving DecidableEq, Repr

/-- A page of the event log (R400): first SEQ, tag, the tag of the page written before it, NOROOT and records. -/
structure LogPage where
  first : Nat
  tag : Nat
  prev : Nat
  noroot : Bool
  recs : List LogRec
  deriving DecidableEq, Repr

/-- The working copy of a lane table entry (R285). -/
structure LaneCfg where
  kind : Nat := 0
  flags : Nat := 0
  src : Nat := 0
  pulseDi : Nat := 0
  dirDi : Nat := 0
  qlim : Nat := 0
  flowFrac : Nat := 0
  tFrac : Nat := 0
  flowSig : Nat := 0
  tfSig : Nat := 0
  trSig : Nat := 0
  deadband : Nat := 0
  pulseWt : Nat := 0
  press : Nat := 0
  tag : Nat := 0
  deriving DecidableEq, Repr

/-- A lane's accumulators of the open interval (R304): counts of the four registers, reversals and ms to the first, ms of unusable
ticks, the EFLAGS gathered, and whether the lane was enabled at any time. -/
structure LaneAcc where
  d : Vector Nat 4 := Vector.replicate 4 0
  rev : Nat := 0
  firstRev : Option Nat := none
  errMs : Nat := 0
  flags : BitVec 8 := 0
  seen : Bool := false
  /-- The KIND counted in the interval (R304). -/
  kind : Nat := 0
  deriving DecidableEq, Repr

/-- A quantity lane (R280 to R287): working copy, enabled, the command that waits (OP and the entry read), the registers EF, ER, VF and
VR in 2⁻³² units (128 bits: register and residual), the KIND last counted, the last nonzero direction (true: forward), a run of
unusable ticks, the mark of a clear, the interval's accumulators. -/
structure Lane where
  cfg : LaneCfg := {}
  en : Bool := false
  cmd : Option (Nat × LaneCfg) := none
  regs : Vector Nat 4 := Vector.replicate 4 0
  kind : Option Nat := none
  dir : Option Bool := none
  errRun : Bool := false
  cleared : Bool := false
  acc : LaneAcc := {}
  deriving DecidableEq, Repr

/-- A phase's zero crossings (R291), instants in TB2 units: the last counted one, the instant from which ZC_TMO runs, whether the voltage has
been below its hysteresis since the last crossing, and a crossing placed and not yet taken. -/
structure ZcPhase where
  last : Option Nat := none
  since : Nat := 0
  armed : Bool := false
  seen : Option Nat := none
  deriving DecidableEq, Repr

/-- A sample of a set (R289, R290): its instant (TB2 units), the values of V0 to V3 and I0 to I3 in V and A before their delays, and the PHC
of the eight channels. -/
structure Sample where
  at_ : Nat
  v : List Rat
  phc : List Int
  deriving DecidableEq, Repr

/-- An electrical set (R291, R292), instants in TB2 units: its phases; the counted crossing at which the window began, later ones and the
latest; the first counted crossing while the samples before it still wait for their window; the end of the previous window; the samples from
then on, oldest first, and the last ones before; the instant up to which they have been searched for crossings; the NOZC bits that were set in
the window. -/
structure ElecSet where
  phases : Vector ZcPhase 3 := Vector.replicate 3 {}
  first : Option Nat := none
  count : Nat := 0
  last : Nat := 0
  lead : Option Nat := none
  prevEnd : Nat := 0
  samples : List Sample := []
  past : List Sample := []
  watched : Nat := 0
  nozc : Nat := 0
  deriving DecidableEq, Repr

/-- A block of a closed interval still to be built (R304, R305): entries, T_START and T_END (TB3), FLAGS, BLK, NBLK, OUTAGE_MS. -/
structure ClosedBlk where
  entries : List (List Byte)
  tStart : Nat
  tEnd : Nat
  flags : BitVec 8
  blk : Nat
  nblk : Nat
  outage : Nat
  deriving DecidableEq, Repr

/-- A block built and not yet stored or dropped (R306): SEQ, its bytes, the last of its interval. -/
structure BuiltBlk where
  seq : Nat
  bytes : List Byte
  last : Bool
  deriving DecidableEq, Repr

/-- A totals image (R308): its sequence number and CLEAN bit, the lanes, the blocks not yet built and not yet stored, next SEQ, the hash
of the last block built, T_START and FLAGS of the open interval, F in TB3, BILL_ACK, and the CRC-32 as stored. -/
structure Totals where
  seq : Nat
  clean : Bool
  lanes : List (Nat × Lane)
  closed : List ClosedBlk
  built : List BuiltBlk
  billSeq : Nat
  lastHash : Nat
  openAt : Option Nat
  openFlags : BitVec 8
  freezeAt : Nat
  ack : Nat
  crc : Word
  deriving DecidableEq, Repr

/-- The metering engine beside its registers. -/
structure Mtr where
  /-- The latest value and quality delivered, by signal (R288). -/
  inputs : List (Nat × Option (Word × Nat)) := []
  lanes : List (Nat × Lane) := []
  sets : Vector ElecSet 2 := Vector.replicate 2 {}
  /-- Temperatures of the RTD channels in µ°C (none: BAD or not yet converted) (R297). -/
  rtd : Vector (Option Int) 8 := Vector.replicate 8 none
  /-- What each snapshot channel latched (R283). -/
  snaps : Vector (Vector Nat 4) 8 := Vector.replicate 8 (Vector.replicate 4 0)
  /-- The previous tick (TB2) and the DI counters as it read them (R298, R342). -/
  lastTick : Nat := 0
  diCnt : List Nat := []
  /-- Start of the engine (TB2 ns). -/
  startNs : Nat := 0
  /-- The open interval: T_START (TB3), its TB2 (ns), FLAGS so far, OUTAGE_MS so far (R302, R303, R311). -/
  openAt : Option Nat := none
  openNs : Nat := 0
  openFlags : BitVec 8 := 0
  openOutage : Nat := 0
  /-- Blocks to be built, and built blocks to be stored; the hash of the last block built; a run of dropped blocks (R305, R306). -/
  closed : List ClosedBlk := []
  built : List BuiltBlk := []
  lastHash : Nat := 0
  dropRun : Bool := false
  /-- The first record after a restore that lost counts carries GAP (R309). -/
  gap : Bool := false
  /-- View table: SEQ and the TB2 second last served (R284). -/
  viewSeq : Nat := 0
  viewSec : Nat := 0
  /-- The last checkpoint (TB2 ns) (R308). -/
  chkAt : Nat := 0
  /-- Freeze instant F in TB2 (ns) and TB3, and whether its image is committed (R307). -/
  freezeNs : Nat := 0
  freezeTb3 : Nat := 0
  committed : Bool := false
  /-- TB3 at the stop boundary, while an open interval waits for the next start (R311). -/
  stoppedAt : Option Nat := none
  /-- What the stop boundary still waits for: the tick, the windows of the two sets (R311). -/
  stopLeft : BitVec 3 := 0
  /-- Steps of TB3 while FROZEN, oldest first: TB3 before and after, and the TB2 instant in ns (R303, R311). -/
  frozenSteps : List (Nat × Nat × Nat) := []
  deriving DecidableEq, Repr

/-- The NAND contents behind the flash manager (R448): host-visible logical pages by partition × 2²⁰ + page (unlisted: not written),
billing blocks by SEQ, the two copies of the totals image and which was written last, the two copies of the slot store, the event log's
pages in the order of their records, and the pre-erased pages of the power-fail reserve (R450). -/
structure Nand where
  pages : List (Nat × Option (List Byte)) := []
  bill : List BuiltBlk := []
  totalsA : Option Totals := none
  totalsB : Option Totals := none
  totalsLast : Bool := false
  slotsA : Option SlotStore := none
  slotsB : Option SlotStore := none
  log : List LogPage := []
  reserve : Nat := 288
  spare : Option Nat := none
  reads : List (Nat × Nat) := []
  deriving DecidableEq, Repr

/-- A pulse output (R334, R335): the instant (TB2 units) at which the pulse in progress ends, whether its one-shot has fired, and its time base
(units) at the last enable or step of it. -/
structure Tp where
  until_ : Option Nat := none
  fired : Bool := false
  from_ : Option Nat := none
  deriving DecidableEq, Repr

/-- The time bases before a change of what they count (R333, R343): the TB2 instant of the change, the four time bases, and what each gained in
a cycle of CLK_NET, all in units. -/
structure TbMark where
  at_ : Nat
  tbs : List Nat
  adv : List Int
  deriving DecidableEq, Repr

/-- A capture (R336): instant in units of its time base, and its edge (true: falling). -/
structure Capture where
  at_ : Nat
  falling : Bool
  deriving DecidableEq, Repr

/-- A capture input: its queue, oldest first, and the last edge (TB2 ns). -/
structure Tc where
  queue : List Capture := []
  last : Option Nat := none
  deriving DecidableEq, Repr

/-- The time unit beside its registers: outstanding slew offsets of TB0 and TB1 and of TB3 toward the RTC (time-base units) (R329,
R331), the source TB3 follows (true: RTC), whether TB3 has been loaded from it, the start of a holdover (TB2 ns) (R332), outputs and
inputs. -/
structure Tsu where
  slew0 : Int := 0
  slew1 : Int := 0
  slew3 : Int := 0
  srcRtc : Bool := true
  loaded : Bool := false
  holdAt : Nat := 0
  tp : Vector Tp 8 := Vector.replicate 8 {}
  tc : Vector Tc 4 := Vector.replicate 4 {}
  /-- The changes of the last 100 ms, oldest first. -/
  marks : List TbMark := []
  deriving DecidableEq, Repr

/-- A frame queued at an egress port (R316, R317): the frame, its queue, its ingress port (5: CPU), the four time bases at ingress
(units), the transmit descriptor it completes, and that descriptor's TB, TS_REQ and ONE_STEP. -/
structure QFrame where
  frame : EthFrame
  prio : Nat
  ingress : Nat
  stamps : List Nat
  desc : Option Nat := none
  tb : Nat := 0
  tsReq : Bool := false
  oneStep : Bool := false
  deriving DecidableEq, Repr

/-- A Follow_Up matching entry (R326): domain, sequenceId, sourcePortIdentity, egress port, the residence to add (2⁻¹⁶ ns), and its
Sync's instant (TB2 ns). -/
structure FollowUp where
  domain : Nat
  seq : Nat
  spid : Nat
  port : Nat
  residence : Int
  at_ : Nat
  deriving DecidableEq, Repr

/-- The switch beside its registers (R313 to R327): learned addresses (address, port, last seen in TB2 ns), egress queues in order of
arrival by port, matching entries oldest first, the next transmit descriptor to take, descriptors completed beyond HEAD, the
frames the last command sent by port, and the ports whose frame in transmission a stop still waits for (R337). -/
structure Net where
  addrs : List (Nat × Nat × Nat) := []
  queues : Vector (List QFrame) 5 := Vector.replicate 5 []
  fus : List FollowUp := []
  take : Nat := 0
  done : List Nat := []
  tx : List (Nat × EthFrame) := []
  txLeft : BitVec 5 := 0
  deriving DecidableEq, Repr

/-- An entry of the edge queue (R343): the edge's instant (TB2 ns), DI, direction, time base and stamp. -/
structure DiEdge where
  at_ : Nat
  di : Nat
  falling : Bool
  tb : Nat
  stamp : Nat
  deriving DecidableEq, Repr

/-- Field I/O beside its registers (R341 to R351): inputs sampled, when VFLD1 rose above its threshold (TB2 ns), the edge queue; the
outputs in thermal shutdown, in current limit for 200 µs, above half of VFLD while off, and the last off transition (TB2 ns); the earliest
first sample of a run of each input (TB2 ns), the 10 ns sample in which its counter last counted, and past the stop boundary. -/
structure Fio where
  sampling : Bool := true
  uvOkAt : Option Nat := none
  queue : List DiEdge := []
  shutdown : BitVec 16 := 0
  limited : BitVec 16 := 0
  high : BitVec 16 := 0
  offAt : Vector Nat 16 := Vector.replicate 16 0
  runFrom : Vector Nat 24 := Vector.replicate 24 0
  countedIn : Vector (Option Nat) 24 := Vector.replicate 24 none
  stopped : Bool := false
  deriving DecidableEq, Repr

/-- A frame as a transmit engine holds it (R356, R357): IDW, CTL and the 64 data bytes. -/
structure CanBuf where
  idw : Word := 0
  ctl : Word := 0
  data : List Byte := []
  deriving DecidableEq, Repr

/-- An entry of the signal map as read at EN = 1 (R363), with the last matching frame (TB2 ns), whether it is stale, the value its signal keeps,
and the last due instant of TIME taken (R364, R365). -/
structure CanMapEnt where
  frame : Nat
  ofs : Nat
  fmt : Nat
  time : Nat
  dlc : Nat
  flags : Nat
  lastRx : Nat := 0
  stale : Bool := false
  kept : Word := 0
  due : Nat := 0
  deriving DecidableEq, Repr

/-- A CAN port beside its registers (R357 to R365): the engine's copies, the buffer on the bus, buffers to be aborted when the frame on
the bus ends, recovery from bus-off allowed, the map, the mapped frame in buffer 2 and those that wait (lowest entry, frame). -/
structure CanPort where
  bufs : Vector CanBuf 3 := Vector.replicate 3 {}
  onBus : Option Nat := none
  aborts : BitVec 3 := 0
  recov : Bool := false
  map : List CanMapEnt := []
  mapCur : Option Nat := none
  mapDue : List (Nat × CanBuf) := []
  deriving DecidableEq, Repr

/-- An entry of the Tandem input stream (R372). -/
inductive TdmEntry where
  | instant (pass ring : Nat) (cadSum lpeSum : Word)
  | deliv (slot : Nat) (value status : Word)
  | start (task time : Nat)
  | lsample (slot : Nat) (vals : List (Word × Word))
  | gpass (time : Nat) (switch : Bool)
  | force (sig : Nat) (entry : Option (Word × Nat × Bool))
  | solver (tpl : Nat) (status : Word) (half : Bool) (data : List Byte)
  | cmd (reg : Nat) (value : Word)
  | change
  | digest (pass : Nat) (d : Nat)
  | cut
  deriving DecidableEq, Repr

/-- What a TDM frame carries (R372, R374, R375, R378, R386): an entry of the stream, a standby's acknowledgement with its own digest of a
period, its request of a missing frame, its join request, the active's copy, a health report. -/
inductive TdmBody where
  | entry (e : TdmEntry)
  | ack (pass digest : Nat)
  | resend (seq : Nat)
  | joinReq
  | copy (c : JoinCopy)
  | report (bytes : List Byte)
  deriving DecidableEq, Repr

/-- An entry of the stream as it reaches the standby (R372), with what the standby knows of it: the offset of TDM_OFS, the hash of the
active's guard table at a switch and of its image at a change. -/
inductive TdmIn where
  | instant (pass : BitVec 48) (ring : Nat) (cadSum lpeSum : Word) (ofs : Int)
  | deliv (slot : BitVec 16) (value status : Word)
  | start (n : Fin 8) (time : Nat)
  | lsample (n : Fin 64) (vals : List (Word × Word))
  | gpass (time : Nat) (switch : Bool) (hash : BitVec 256)
  | force (sig : BitVec 23) (value : Word) (qual : BitVec 3) (st : Fin 3)
  | solver (tpl : BitVec 8) (status : Word) (half : Bool) (data : List Byte)
  | cmd (reg : BitVec 40) (v : Word)
  | change (hash : BitVec 256)
  deriving DecidableEq, Repr

/-- A TDM frame on lane T (R372, R374): EtherType, frame sequence number, content. -/
structure TdmFrame where
  etype : Nat
  seq : Nat
  body : TdmBody
  deriving DecidableEq, Repr

/-- The Tandem unit beside its registers. Log entry 39 (DEDUCED). -/
structure Tdm where
  /-- The frames this member has sent on lane T in the present stream period, oldest first, the sequence number of its next one, and the
  frames of the two periods before, newer first (R372, R374). -/
  stream : List TdmFrame := []
  seq : Nat := 0
  hist : List (List TdmFrame) := []
  /-- Failed self-tests: bit 0 SCRUB, 1 GOLDEN, 2 LANE, 3 LINK (R385, R386). -/
  fails : BitVec 4 := 0
  goldenRun : Nat := 0
  goldenFail : Nat := 0
  laneRun : Nat := 0
  laneFail : Nat := 0
  /-- Lane T errors in the last second. -/
  linkErr : Nat := 0
  /-- A digest mismatch whose grant is not settled (R369, R375). -/
  dispute : Bool := false
  /-- Codes on the arbiter lines and edges: when ARB_IN_A and ARB_IN_B last lost their codes (ns) (R370, R381). -/
  absentAt : Option Nat := none
  deadAt : Option Nat := none
  /-- The last edges seen on ARB_IN_A and ARB_IN_B (ns) (R370). -/
  edges : Vector Nat 2 := Vector.replicate 2 0
  /-- Since when the condition of R380 for a move of the grant to this member has been met (ns); the instant from which the switchover that
  is not yet complete is measured (R384). -/
  condAt : Option Nat := none
  swFrom : Option Nat := none
  /-- When lane T lost synchronisation (ns; none: up) (R376, R381). -/
  linkDownAt : Option Nat := some 0
  /-- The template status words, window halves and their contents that the stream carried (R32, R269). -/
  views : List (Nat × Word × Bool × List Byte) := []
  /-- A join (R377, R378): when it began, whether the cut was marked in the stream and the copy loaded, and the replay queue: the entries
  after the cut that are not yet applied, oldest first. -/
  joinAt : Nat := 0
  cutSeen : Bool := false
  loaded : Bool := false
  replay : List TdmIn := []
  /-- The standby's current period: pass number and ring instant in its own TB2 and in the active's (ns); its guard pass has ended; its
  lag in ns once a period is replayed (R372, R376). -/
  pass : Nat := 0
  instantAt : Nat := 0
  ring : Nat := 0
  replayed : Bool := true
  lagNs : Option Nat := none
  /-- The end of the present stream period (ns) (R389). -/
  periodEnd : Nat := 0
  /-- Own TB2 less the partner's, in ns (TDM_OFS). -/
  ofs : Int := 0
  /-- Own digests of the last periods by pass number, newest first (R375). -/
  digests : List (Nat × Nat) := []
  /-- The frames a standby has asked to be sent again, each with the pass number of its period (R374). -/
  missing : List (Nat × Nat) := []
  /-- Health reports written, and the corrected and uncorrectable errors since the last one (R386). -/
  reports : Nat := 0
  eccC : Nat := 0
  eccU : Nat := 0
  /-- The TB2 second of the last report (R386), and when GOLDEN last ran or was left out (ns) (R385). -/
  reportSec : Nat := 0
  goldenAt : Nat := 0
  deriving DecidableEq, Repr

/-- The event recorder beside its registers (R394 to R404): the AON buffer in SEQ order, the next SEQ, drops not yet reported by
severity; the cut of a flush in progress, whether it moved anything, a trigger that waits, PFW's flush; the current nonce and its
instant (TB2 ns); the next point and the start of a SEEK or NEXT in progress; a clear whose token is being checked (with the nonce it
consumed), and an accepted clear (its cut and its LOG_CLEARED record); log pages whose failed tag was posted since the start (first
SEQ); the log has been full. -/
structure Evr where
  buf : List LogRec := []
  seq : Nat := 0
  undropped : Vector Nat 8 := Vector.replicate 8 0
  flush : Option Nat := none
  want : Bool := false
  pf : Bool := false
  nonce : Option Nat := none
  nonceAt : Nat := 0
  next : Nat := 0
  load : Option Nat := none
  check : Option (Option Nat) := none
  clear : Option (Nat × LogRec) := none
  tagFailed : List Nat := []
  wasFull : Bool := false
  deriving DecidableEq, Repr

/-- A key slot (R417 to R421): the halves; of the shadow its origin and what its SELFTEST compares with (proof of possession and nonce,
or check value); the epoch of a RETIRED half. -/
structure KeySlot where
  active : Option KeyHalf := none
  shadow : Option KeyHalf := none
  shOrigin : Nat := 0
  proof : List Byte := []
  oldEpoch : Nat := 0
  deriving DecidableEq, Repr

/-- A key store command queued or in service (R409): OP, slot, input and output address. -/
structure KstJob where
  op : Nat
  slot : Fin 32
  arg : Nat
  out : Nat
  deriving DecidableEq, Repr

/-- Who asks the key store's engine for a service (R408): MTR for a seal's signature, EVR for a nonce or the check of a clear token, the
monitor for its command. -/
inductive KstReq where
  | seal
  | nonce
  | verify
  | mon
  deriving DecidableEq, Repr

/-- The key store beside its registers. Log entry 6 (DESIGN CHOICE). -/
structure Kst where
  slots : Vector KeySlot 32 := Vector.replicate 32 {}
  job : Option KstJob := none
  /-- The engine's requests in the order of their service, the first in service: the instant of arrival (TB2 units) and who asks (R408). -/
  reqs : List (Nat × KstReq) := []
  /-- The valid nonce and the TB2 instant (ns) it was made. -/
  nonce : Option Nat := none
  nonceAt : Nat := 0
  /-- The SLOTSTORE and EVLOG keys derived at the start or the unlock; none without a root (R414, R416). -/
  storeKey : Option (List Byte) := none
  logKey : Option (List Byte) := none
  /-- OTP (R410, R412, R427): the three copies of each step bit, the roots' banks (2 × root + bank: bits, completion marker), BOOT_KEY_HASH,
  rollback bits. -/
  stepBits : Vector (BitVec 3) 5 := Vector.replicate 5 0
  banks : List (Nat × Option (Nat × Bool)) := []
  bootKey : Nat := 0
  rollback : Nat := 0
  /-- VERSION and entry address of the running first stage (R425, R427); the header hashes of the stages verified under public slot 3 and not
  yet measured (R426); debug is unlocked until the next device reset (R413). -/
  stage : Nat := 0
  entry : Nat := 0
  staged : List Nat := []
  unlocked : Bool := false
  deriving DecidableEq, Repr

/-- A host command of the flash manager in progress (R448): OP, partition, argument, buffer. -/
structure NfmJob where
  op : Nat
  part : Nat
  arg : Nat
  buf : Nat
  deriving DecidableEq, Repr

/-- A transaction on the fabric (R431, R433): port, sub-master, address, what it asks, and whether it is of the power-fail flush path. -/
structure FabItem where
  port : Fin 16
  sub : Fin 4
  at_ : Nat
  op : FabOp
  flush : Bool
  deriving DecidableEq, Repr

/-- A translation walk (R431, R434): the access it serves, which holds its own tag meanwhile, and the table reads left. Each is a REQ item on
one of XLT's 8 walk tags; `sent`: its response is on RSP. -/
structure FabWalk where
  item : FabItem
  reads : Nat
  sent : Bool
  deriving DecidableEq, Repr

/-- A response on its way to its master (R433): the port, what the master gets of it, the data bytes, and what PFM counts of it (R510);
`walk`: it goes to XLT, with the table entry read for this access. -/
structure FabRsp where
  port : Fin 16
  resp : Resp
  data : List Byte
  wr : Bool
  bytes : Nat
  lat : Nat
  walk : Option FabItem := none
  deriving DecidableEq, Repr

/-- A transaction that its target has not answered (R436): port, direction, TB2 ns. -/
structure FabWait where
  port : Fin 16
  wr : Bool
  at_ : Nat
  deriving DecidableEq, Repr

/-- The fabric (R431 to R433): the four channels, oldest first, the translation walks apart; transactions without an answer; the unfinished
parts that port 5 keeps of stalled bursts (R445); the data bytes delivered with the last response; the weighted round robin's remaining
shares; the most tags in flight since the last telemetry frame. -/
structure Fab where
  pf : List FabItem := []
  rsp : List FabRsp := []
  pw : List FabItem := []
  req : List FabItem := []
  walks : List FabWalk := []
  waits : List FabWait := []
  kept : List FabItem := []
  data : List Byte := []
  share : Vector Nat 16 := Vector.replicate 16 0
  peak : Nat := 0
  deriving DecidableEq, Repr

/-- A reservation of a core or the monitor: bytes from an address on (R36). -/
structure Resv where
  port : Fin 16
  sub : Fin 4
  at_ : Nat
  len : Nat
  deriving DecidableEq, Repr

/-- Background services beside their registers (R451 to R454): extents of memory by first and last address and the TB2 second in which scrub
last checked them, disjoint; the passes over DRAM and shared SRAM: the TB2 ns at which each began and the bytes it has checked; the TB2 ns until
which the bursts so far use the budget; channels trued in the present pass, the TB2 ns of each channel's last step, the TB2 second its
predecessor ended, the last telemetry second and frame number, and the second's errors, faults and timeouts. -/
structure Bgs where
  scrubs : List (Nat × Nat × Nat) := []
  passD : Nat × Nat := (0, 0)
  passS : Nat × Nat := (0, 0)
  paidTo : Nat := 0
  trued : BitVec 48 := 0
  truedAt : List (Nat × Option Nat) := []
  passAt : Option Nat := none
  telSec : Nat := 0
  telSeq : Nat := 0
  ce : Nat := 0
  ue : Nat := 0
  faults : Nat := 0
  timeouts : Nat := 0
  deriving DecidableEq, Repr

/-- A block's record in the AON save area (R470 to R472): the saved bits of its registers by address, and its pending shadows. -/
structure SaveRec where
  blk : Blk
  regs : List (Nat × Word)
  shadows : List (Fld × Nat)
  deriving DecidableEq, Repr

/-- Where a power-state entry or exit stands (R463, R473): none in progress, quiescing, save set written, asleep, exiting. -/
inductive PwrPhase where
  | none | quiesce | saved | asleep | exiting
  deriving DecidableEq, Repr

/-- The power manager beside its registers (R460 to R478): the phase, the target and the state the entry left, the instant of acceptance
(TB2 ns), TB2 as latched (units), whether the RTC was invalid since; the save area with the force table, the measurement registers,
the pinned ranges and the ACTIVE banks with their hashes; whether a resume check is due; the first stage measured since the device reset (load address, size, payload hash);
the residencies (TB2 units) and when the present state was last accounted; OFF; the ticks of the last sleep (R476); feeds that are LOST, and when a
feed last became LOST or OK and entered or left OVERCURRENT in this awake time (ns) (R387). -/
structure Pwr where
  phase : PwrPhase := .none
  tgt : Nat := 0
  from_ : Nat := 0
  at_ : Nat := 0
  latchTb2 : Nat := 0
  rtcBad : Bool := false
  save : List SaveRec := []
  forces : List (Nat × Option Force) := []
  meas : List (Nat × Word) := []
  pins : List (Nat × Pin) := []
  banks : List (Nat × Nat) := []
  resume : Bool := false
  stage : Option (Nat × Nat × Nat) := none
  res : Vector Nat 4 := Vector.replicate 4 0
  resAt : Nat := 0
  off : Bool := false
  fw : Nat := 0
  lost : BitVec 2 := 0
  feedAt : Vector (Option Nat) 2 := Vector.replicate 2 none
  ocAt : Vector (Option Nat) 2 := Vector.replicate 2 none
  deriving DecidableEq, Repr

/-- A shadow set of the RTC (R486): RTC_SEC.SEC, RTC_TIME, RTC_DATE, RTC_YEAR.YEAR and RTC_SUB as frozen, and the TB2 ns of the freeze. -/
structure RtcSet where
  sec : Nat
  time : Word
  date : Word
  year : Nat
  sub : Nat
  at_ : Nat
  deriving DecidableEq, Repr

/-- The real-time clock beside its registers (R480 to R491): the frozen sets of H0 to H3, the monitor and the SPI port (none: live);
the old instant of an adjustment in progress (seconds since 2000, ticks, weekday); the second up to which a backward adjustment holds
the alarm (R488); the brown-out cell; the TB2 instant (units) at which its last second began (R332); the TB2 ns from which the periodic counter
counts (R489), and that of the last measurement of VBAT (R490). -/
structure Rtc where
  sets : Vector (Option RtcSet) 6 := Vector.replicate 6 none
  old : Nat × Nat × Nat := (0, 0, 6)
  hold : Option Nat := none
  cell : Bool := true
  secAt : Option Nat := none
  perAt : Option Nat := none
  vbatAt : Option Nat := none
  deriving DecidableEq, Repr

/-- Where the pixels of a line come from (R504): 32-bit pixels of the framebuffer, the always-on image, all 0, or a line whose read met a
translation fault. -/
inductive LineSrc where
  | fb (pixels : List Byte)
  | aon
  | blank
  | fault
  deriving DecidableEq, Repr

/-- An update in progress (R504): its region (none: the always-on area's lines alone), and the lines still to be sent, the first of which
is on the interface (line number from 1, source). -/
structure PnlRun where
  region : Option Nat
  lines : List (Nat × LineSrc)
  deriving DecidableEq, Repr

/-- The panel driver beside its registers (R494 to R507): pending requests, the region last served, the update in progress, the
always-on lines due, power-off to follow the running LINE, the instant of the last power step (TB2 ns), the lands VDD_EN, VA_EN and
DSCH, commons toggling, the AON sequencer on the lines, the uniformity map in use (a nibble per pixel), the always-on image being
loaded, the power-off of a NAP, the transfers the last command sent (16-bit words), the TB2 ns at which the LINE on the interface started or
from which the next may start (R495), and that at which the common period started (R496). -/
structure Pnl where
  pend : BitVec 8 := 0
  last : Nat := 7
  run : Option PnlRun := none
  aonDue : Bool := false
  offPend : Bool := false
  at_ : Nat := 0
  vdd : Bool := false
  va : Bool := false
  dsch : Bool := false
  com : Bool := false
  seq : Bool := false
  unif : Option (List Byte) := none
  load : Option (List Byte) := none
  napOff : Bool := false
  tx : List (List Nat) := []
  lineAt : Nat := 0
  comAt : Nat := 0
  deriving DecidableEq, Repr

/-- The counts of a port in a window (R510). -/
structure PortCnt where
  bytes : Nat := 0
  rd : Nat := 0
  wr : Nat := 0
  hist : Vector Nat 16 := Vector.replicate 16 0
  deriving DecidableEq, Repr

/-- The performance monitor beside its registers (R509 to R515): the counts of the window in progress, whether one saturated, whether the
window is PARTIAL, its start (TB2 µs), the number of windows ended, a record being written, a drop since the last written record. -/
structure Pfm where
  cnt : Vector PortCnt 16 := Vector.replicate 16 {}
  sat : Bool := false
  partial_ : Bool := false
  start : Nat := 0
  seq : Nat := 0
  rec_ : Option (List Byte) := none
  gap : Bool := false
  deriving DecidableEq, Repr

/-- The power-fail timeline and the boot (R520 to R533): the instant of PFW while a timeline runs (TB2 ns), the hold-up has ended; whether
the retained set is saved in this timeline; the boot sequence has still to run, and the TB2 that a device reset carries (units; none:
after a power-on). -/
structure Boot where
  pf : Option Nat := none
  ended : Bool := false
  ret : Bool := false
  boot : Bool := true
  carry : Option Nat := none
  deriving DecidableEq, Repr

/-- The state of the device. -/
structure State where
  /-- Active register values by address, sparse over the reset values (R44, R45). -/
  regs : List (Nat × Word)
  /-- Shadow values of RWS fields not yet active, in the order first written (R54). -/
  shadows : List (Fld × Nat)
  /-- Memory of R36, sparse over zero bytes. -/
  mem : List Host.Cell
  /-- Addresses of 64-bit words that read uncorrectable (R440). -/
  ue : List Nat
  /-- The response of the last access (model's own). -/
  resp : Resp
  /-- How many free values have been taken (model's own). -/
  draws : Nat
  /-- The solver has used tile memory, whose contents are open from then on (R222). -/
  tileUsed : Bool
  /-- Tile bytes that another master has written since the solver last took tile memory into use (R222). -/
  tileKnown : List Nat
  /-- Time bases TB0 to TB3 in units of 2⁻⁴⁴/5 ns (R328). -/
  tb0 : Nat
  tb1 : Nat
  tb2 : Nat
  tb3 : Nat
  /-- Blocks halted by FREEZE at a commit boundary (R48), one bit per block. -/
  halted : BitVec 32
  /-- Blocks in soft reset (R47), one bit per block. -/
  softRst : BitVec 32
  /-- Power domains that are off, and that are isolated (R41), one bit per domain. -/
  domOff : BitVec 8
  domIso : BitVec 8
  /-- Interrupt sources in service with the claiming target (R63 to R65). -/
  inserv : List (Nat × Nat)
  /-- Doorbells (R59). -/
  doorbells : BitVec 8
  /-- Events sent to the recorder and not yet accepted (R438). -/
  evq : List Event
  /-- The translation unit. -/
  xlt : Xlt
  /-- The Cadence engine. -/
  cad : Cad
  /-- The Spoke ring unit. -/
  spk : Spk
  /-- The loop engine and the output guard. -/
  lpe : Lpe
  /-- The solver. -/
  slv : Slv
  /-- The metering engine. -/
  mtr : Mtr
  /-- The NAND. -/
  nand : Nand
  /-- PFW_N is asserted (R388). -/
  pfw : Bool
  /-- Channels whose truing step exceeded its limit: 0 to 15 metering, 16 to 23 RTD, 24 to 47 DI (R453). -/
  trueHeld : List Nat
  /-- New truing coefficients that wait for a sample boundary, and the active ones, by channel (R452). -/
  coefNew : List (Nat × (Int × Int))
  coef : List (Nat × (Int × Int))
  /-- The time unit. -/
  tsu : Tsu
  /-- The switch. -/
  net : Net
  /-- Field I/O. -/
  fio : Fio
  /-- The CAN ports. -/
  can : Vector CanPort 4
  /-- The 16 MHz RC of the CAN0 wake matcher runs (R366). -/
  canRc : Bool
  /-- The Tandem unit. -/
  tdm : Tdm
  /-- The event recorder. -/
  evr : Evr
  /-- The key store. -/
  kst : Kst
  /-- The fabric. -/
  fab : Fab
  /-- The reservations that LR has made (R36). -/
  resv : List Resv
  /-- The last refresh of each DRAM channel (TB2 ns) (R439). -/
  refreshAt : Vector Nat 2
  /-- The flash manager's host command, and whether the spare blocks are low (R448, R449). -/
  nfm : Option NfmJob
  spareLow : Bool
  /-- Background services. -/
  bgs : Bgs
  /-- The power manager. -/
  pwr : Pwr
  /-- The real-time clock. -/
  rtc : Rtc
  /-- The panel driver. -/
  pnl : Pnl
  /-- The performance monitor. -/
  pfm : Pfm
  /-- Start-up and power failure. -/
  sys : Boot
  /-- Commands waiting, first in first out. -/
  pending : List Instr
  deriving DecidableEq, Repr

/-- The device right after reset. Log entries 5 (DESIGN CHOICE), 6 (DESIGN CHOICE), 7 (DESIGN CHOICE), 8 (DESIGN CHOICE). -/
def State.reset : State where
  regs := []
  shadows := []
  mem := []
  ue := []
  resp := {}
  draws := 0
  tileUsed := false
  tileKnown := []
  tb0 := 0
  tb1 := 0
  tb2 := 0
  tb3 := 0
  halted := 0
  softRst := 0
  domOff := 0
  domIso := 0
  inserv := []
  doorbells := 0
  evq := []
  xlt := {}
  cad := {}
  spk := {}
  lpe := {}
  slv := {}
  mtr := {}
  nand := {}
  pfw := false
  trueHeld := []
  coefNew := []
  coef := []
  tsu := {}
  net := {}
  fio := {}
  can := Vector.replicate 4 {}
  canRc := false
  tdm := {}
  evr := {}
  kst := {}
  fab := {}
  resv := []
  refreshAt := Vector.replicate 2 0
  nfm := none
  spareLow := false
  bgs := {}
  pwr := {}
  rtc := {}
  pnl := {}
  pfm := {}
  sys := {}
  pending := []

/-- The outcome of a command. -/
abbrev Out := Host.Outcome State Fault Refusal

end Sys2Proof.Machine
end

