-- ==== Sys2Proof/Machine/Bits.lean ====
section
/-! DEFINITION. Bit fields of a word, sparse maps in one canonical form, and byte order: the helpers every block uses. -/

namespace Sys2Proof.Machine

/-- The mask of `w` bits starting at bit `lo`. -/
def maskBits (lo w : Nat) : Word := (BitVec.allOnes 32 >>> (32 - w)) <<< lo

/-- The field of `w` bits at bit `lo` of `x`, as a number. -/
def getBits (x : Word) (lo w : Nat) : Nat := (x.toNat >>> lo) % 2 ^ w

/-- `x` with the field of `w` bits at bit `lo` replaced by the low `w` bits of `v`. -/
def putBits (x : Word) (lo w v : Nat) : Word :=
  (x &&& ~~~ maskBits lo w) ||| ((BitVec.ofNat 32 v <<< lo) &&& maskBits lo w)

/-- Bit `n` of `x`. -/
def bitAt (x : Word) (n : Nat) : Bool := x.getLsbD n

/-- 1 for true, 0 for false. -/
def b2n (b : Bool) : Nat := if b then 1 else 0

/-- Bits `hi` down to `lo` of a number. -/
def nbits (x lo w : Nat) : Nat := (x >>> lo) % 2 ^ w

/-- The two's-complement reading of the low `w` bits of `x`. -/
def sext (w x : Nat) : Int :=
  if x % 2 ^ w < 2 ^ (w - 1) then (x % 2 ^ w : Nat) else ((x % 2 ^ w : Nat) : Int) - 2 ^ w

/-- The low 32 bits of an integer. -/
def ofI (x : Int) : Word := BitVec.ofInt 32 x

/-- `x` clipped into `lo`..`hi`. -/
def clampI (lo hi x : Int) : Int := if x < lo then lo else if hi < x then hi else x

/-- `n` counted up by one, stopping at `m`. -/
def satInc (m n : Nat) : Nat := if n < m then n + 1 else m

/-- `n` counted up by `k`, stopping at `m`. -/
def satAdd (m n k : Nat) : Nat := min m (n + k)

/-! ### Sparse maps: sorted by key, no entry equal to what an unlisted key reads as -/

/-- The value at key `k`; `d` where no entry lists it. -/
def Sparse.get {β : Type} (m : List (Nat × β)) (d : β) (k : Nat) : β :=
  match m with
  | [] => d
  | (a, b) :: t => if a = k then b else Sparse.get t d k

/-- The map without key `k`. -/
def Sparse.erase {β : Type} (m : List (Nat × β)) (k : Nat) : List (Nat × β) :=
  match m with
  | [] => []
  | (a, b) :: t => if a = k then Sparse.erase t k else (a, b) :: Sparse.erase t k

/-- The map with the entry `(k, v)` put before the first larger key. -/
def Sparse.ins {β : Type} (m : List (Nat × β)) (k : Nat) (v : β) : List (Nat × β) :=
  match m with
  | [] => [(k, v)]
  | (a, b) :: t => if k < a then (k, v) :: (a, b) :: t else (a, b) :: Sparse.ins t k v

/-- Write `v` at key `k`, where an unlisted `k` reads as `d`. -/
def Sparse.put {β : Type} [DecidableEq β] (m : List (Nat × β)) (d : β) (k : Nat) (v : β) : List (Nat × β) :=
  if v = d then Sparse.erase m k else Sparse.ins (Sparse.erase m k) k v

/-- Keys strictly rising from `lo`, and no entry equal to what its key reads as unlisted. -/
def Sparse.wfFrom {β : Type} [DecidableEq β] (d : Nat → β) (lo : Nat) : List (Nat × β) → Bool
  | [] => true
  | (a, b) :: t => decide (lo ≤ a) && decide (b ≠ d a) && Sparse.wfFrom d (a + 1) t

/-- The canonical form of a sparse map. -/
def Sparse.wf {β : Type} [DecidableEq β] (d : Nat → β) (m : List (Nat × β)) : Bool := Sparse.wfFrom d 0 m

/-! ### Byte order: every multi-byte quantity in memory is little-endian -/

/-- The number whose little-endian bytes are `bs`. -/
def leNat : List Byte → Nat
  | [] => 0
  | b :: t => b.toNat + 256 * leNat t

/-- The low `n` bytes of `v`, little-endian. -/
def leBytes : Nat → Nat → List Byte
  | 0, _ => []
  | n + 1, v => BitVec.ofNat 8 v :: leBytes n (v / 256)

/-- The little-endian number of `n` bytes at offset `o` of a byte list (missing bytes read 0). -/
def leAt (bs : List Byte) (o n : Nat) : Nat := leNat ((bs.drop o).take n)

/-- The signed little-endian number of `n` bytes at offset `o`. -/
def leAtS (bs : List Byte) (o n : Nat) : Int := sext (8 * n) (leAt bs o n)

/-- `l` with element `i` replaced by `f` of it (unchanged outside its length). -/
def updAt {α : Type} (l : List α) (i : Nat) (f : α → α) : List α :=
  match l, i with
  | [], _ => []
  | a :: t, 0 => f a :: t
  | a :: t, i + 1 => a :: updAt t i f

/-- The numbers from `0` to `n - 1`. -/
def upto (n : Nat) : List Nat := List.range n

end Sys2Proof.Machine
end

