-- ==== Sys2Proof/Machine/Flags.lean ====
section
/-! DEFINITION. The sticky arithmetic flags of R85, and integer and fixed-point results with the flags they set (R90 to R92). -/

namespace Sys2Proof.Machine

/-- The sticky flags an operation sets, placed as in CAD_EXC_FLAGSn (R85). -/
def flagSAT : Word := 0x1
def flagDZ : Word := 0x2
def flagFINV : Word := 0x4
def flagFDZ : Word := 0x8
def flagFOVF : Word := 0x10
def flagFUNF : Word := 0x20
def flagNAN : Word := 0x100
def flagREQ : Word := 0x200
def flagEVT : Word := 0x400

/-- A result and the sticky flags its operation sets. -/
abbrev Res := Word × Word

/-- The largest and smallest signed 32-bit values. -/
def i32Max : Int := 2147483647
def i32Min : Int := -2147483648

/-- Saturate an exact result to the signed 32-bit range; a clip sets SAT (R91, R92). -/
def satI (x : Int) : Res :=
  if x < i32Min then (ofI i32Min, flagSAT)
  else if i32Max < x then (ofI i32Max, flagSAT)
  else (ofI x, 0)

/-- A result that sets no flag. -/
def plain (x : Word) : Res := (x, 0)

/-- Signed quotient truncated toward zero with the corners of R91: `num` is the exact numerator. -/
def divTrunc (num : Int) (b : Word) : Res :=
  if b = 0 then (if 0 ≤ num then (ofI i32Max, flagDZ) else (ofI i32Min, flagDZ))
  else satI (Int.tdiv num b.toInt)

/-- DIV (R90, R91). -/
def divS (a b : Word) : Res := divTrunc a.toInt b

/-- DIVU (R90, R91). -/
def divU (a b : Word) : Res :=
  if b = 0 then (BitVec.allOnes 32, flagDZ) else (BitVec.ofNat 32 (a.toNat / b.toNat), 0)

/-- REM: the sign of the dividend (R90, R91). -/
def remS (a b : Word) : Res :=
  if b = 0 then (a, flagDZ) else (ofI (Int.tmod a.toInt b.toInt), 0)

/-- REMU (R90, R91). -/
def remU (a b : Word) : Res :=
  if b = 0 then (a, flagDZ) else (BitVec.ofNat 32 (a.toNat % b.toNat), 0)

/-- Shift right arithmetically by `n`, rounding to nearest with ties toward +∞ (R92). -/
def shrRound (x : Int) (n : Nat) : Int := if n = 0 then x else (x + 2 ^ (n - 1)) / 2 ^ n

/-- The exact QMUL result before saturation (R92). -/
def qmulExact (a b : Word) (n : Nat) : Int := shrRound (a.toInt * b.toInt) n

/-- QMUL (R92). -/
def qmul (a b : Word) (n : Nat) : Res := satI (qmulExact a b n)

/-- QDIV (R92): as DIV for a zero divisor. -/
def qdiv (a b : Word) (n : Nat) : Res := divTrunc (a.toInt * 2 ^ n) b

/-- QSHL (R92). -/
def qshl (a : Word) (n : Nat) : Res := satI (a.toInt * 2 ^ n)

/-- QSHR (R92). -/
def qshr (a : Word) (n : Nat) : Res := satI (shrRound a.toInt n)

/-- QMAC (R92): one saturation at the end. -/
def qmac (acc a b : Word) (n : Nat) : Res := satI (acc.toInt + qmulExact a b n)

/-- QLIM (R92): min(max(W[rd], W[rs1]), W[rs2]), signed. -/
def qlim (d a b : Word) : Res :=
  let m := if d.toInt < a.toInt then a else d
  plain (if b.toInt < m.toInt then b else m)

/-- 1 or 0. -/
def bool32 (b : Bool) : Word := if b then 1 else 0

end Sys2Proof.Machine
end

