-- ==== Sys2Proof/Machine/Crypto.lean ====
section
/-! DEFINITION. The algorithms that the spec takes from other standards by name: SHA3-256 and the SHAKE functions (FIPS 202), KMAC256
(SP 800-185), AES-256 (FIPS 197) and ML-DSA-44 (FIPS 204). -/

namespace Sys2Proof.Machine

/-! ## Keccak (FIPS 202): a state is the list of its 25 lanes, lane x + 5 × y -/

/-- A lane of a Keccak state. -/
def lane64 (a : List (BitVec 64)) (i : Nat) : BitVec 64 := a.getD i 0

/-- The rotation offsets of ρ by lane. -/
def keccakRot : List Nat :=
  [0, 1, 62, 28, 27, 36, 44, 6, 55, 20, 3, 10, 43, 25, 39, 41, 45, 15, 21, 8, 18, 2, 61, 56, 14]

/-- The round constants of ι. -/
def keccakRc : List (BitVec 64) :=
  [0x0000000000000001, 0x0000000000008082, 0x800000000000808A, 0x8000000080008000, 0x000000000000808B, 0x0000000080000001,
   0x8000000080008081, 0x8000000000008009, 0x000000000000008A, 0x0000000000000088, 0x0000000080008009, 0x000000008000000A] ++
  [0x000000008000808B, 0x800000000000008B, 0x8000000000008089, 0x8000000000008003, 0x8000000000008002, 0x8000000000000080,
   0x000000000000800A, 0x800000008000000A, 0x8000000080008081, 0x8000000000008080, 0x0000000080000001, 0x8000000080008008]

/-- One round of Keccak-f[1600]: θ, ρ, π, χ, ι. -/
def keccakRound (a : List (BitVec 64)) (rc : BitVec 64) : List (BitVec 64) :=
  let c := (upto 5).map fun x => lane64 a x ^^^ lane64 a (x + 5) ^^^ lane64 a (x + 10) ^^^ lane64 a (x + 15) ^^^ lane64 a (x + 20)
  let d := (upto 5).map fun x => lane64 c ((x + 4) % 5) ^^^ (lane64 c ((x + 1) % 5)).rotateLeft 1
  let b := (upto 25).map fun j =>
    let i := (j % 5 + 3 * (j / 5)) % 5 + 5 * (j % 5)
    (lane64 a i ^^^ lane64 d (i % 5)).rotateLeft (keccakRot.getD i 0)
  (upto 25).map fun j =>
    let y := 5 * (j / 5)
    let v := lane64 b j ^^^ (~~~ lane64 b ((j + 1) % 5 + y) &&& lane64 b ((j + 2) % 5 + y))
    if j = 0 then v ^^^ rc else v

/-- Keccak-f[1600]. -/
def keccakF (a : List (BitVec 64)) : List (BitVec 64) := keccakRc.foldl keccakRound a

/-- Add a block of bytes into the state. -/
def keccakXor (a : List (BitVec 64)) (block : List Byte) : List (BitVec 64) :=
  (upto 25).map fun i => lane64 a i ^^^ BitVec.ofNat 64 (leAt block (8 * i) 8)

/-- Absorb the blocks of a padded message. -/
def keccakAbsorb (rate : Nat) : Nat → List Byte → List (BitVec 64) → List (BitVec 64)
  | 0, _, a => a
  | n + 1, m, a => keccakAbsorb rate n (m.drop rate) (keccakF (keccakXor a (m.take rate)))

/-- Squeeze `n` blocks. -/
def keccakSqueeze (rate : Nat) : Nat → List (BitVec 64) → List Byte
  | 0, _ => []
  | n + 1, a => (a.flatMap fun x => leBytes 8 x.toNat).take rate ++ keccakSqueeze rate n (keccakF a)

/-- The sponge over a byte string: domain suffix with the first padding bit, and output length in bytes. Log entry 60 (PRESUMED). -/
def keccak (rate suffix : Nat) (m : List Byte) (len : Nat) : List Byte :=
  let z := rate - 1 - m.length % rate
  let p := if z = 0 then m ++ [BitVec.ofNat 8 (suffix + 128)] else m ++ [BitVec.ofNat 8 suffix] ++ List.replicate (z - 1) 0 ++ [128]
  (keccakSqueeze rate ((len + rate - 1) / rate) (keccakAbsorb rate (p.length / rate) p (List.replicate 25 0))).take len

/-- SHA3-256 of a byte string, as a number whose byte 0 is the least significant. -/
@[irreducible] def sha3 (m : List Byte) : BitVec 256 := BitVec.ofNat 256 (leNat (keccak 136 6 m 32))

/-- SHAKE128 and SHAKE256 of a byte string, to a length in bytes. -/
def shake128 (m : List Byte) (len : Nat) : List Byte := keccak 168 31 m len
def shake256 (m : List Byte) (len : Nat) : List Byte := keccak 136 31 m len

/-! ## KMAC256 (SP 800-185) -/

/-- The bytes of a number, most significant first, at least one. -/
def encBytes (x : Nat) : List Byte :=
  let n := max 1 ((x.log2 + 8) / 8)
  (leBytes (if x = 0 then 1 else n) x).reverse

/-- left_encode and right_encode. -/
def leftEncode (x : Nat) : List Byte := BitVec.ofNat 8 (encBytes x).length :: encBytes x
def rightEncode (x : Nat) : List Byte := encBytes x ++ [BitVec.ofNat 8 (encBytes x).length]

/-- encode_string of whole bytes. -/
def encodeString (m : List Byte) : List Byte := leftEncode (8 * m.length) ++ m

/-- bytepad. -/
def bytepad (m : List Byte) (w : Nat) : List Byte :=
  let p := leftEncode w ++ m
  p ++ List.replicate ((w - p.length % w) % w) 0

/-- KMAC256 with an output of `len` bytes: key, message, customisation string. Log entry 60 (PRESUMED). -/
def kmac (key m custom : List Byte) (len : Nat) : List Byte :=
  keccak 136 4 (bytepad (encodeString [75, 77, 65, 67] ++ encodeString custom) 136 ++ bytepad (encodeString key) 136 ++ m ++
    rightEncode (8 * len)) len

/-- KMAC256 with 256 and with 128 bits of output, as numbers whose byte 0 is the least significant (R414, R400). -/
@[irreducible] def kmac256 (key m custom : List Byte) : BitVec 256 := BitVec.ofNat 256 (leNat (kmac key m custom 32))
@[irreducible] def kmac256t (key m : List Byte) : BitVec 128 := BitVec.ofNat 128 (leNat (kmac key m [] 16))

/-! ## AES-256 (FIPS 197) -/

/-- The S-box: byte x of this number is S(x). -/
def aesSbox : Nat :=
  0x16bb54b00f2d99416842e6bf0d89a18cdf2855cee9871e9b948ed9691198f8e19e1dc186b95735610ef6034866b53e708a8bbd4b1f74dde8c6b4a61c2e2578ba08ae7a65eaf4566ca94ed58d6d37c8e779e4959162acd3c25c2406490a3a32e0db0b5ede14b8ee4688902a22dc4f816073195d643d7ea7c41744975fec130ccdd2f3ff1021dab6bcf5389d928f40a351a89f3c507f02f94585334d43fbaaefd0cf584c4a39becb6a5bb1fc20ed00d153842fe329b3d63b52a05a6e1b1a2c830975b227ebe28012079a059618c323c7041531d871f1e5a534ccf73f362693fdb7c072a49cafa2d4adf04759fa7dc982ca76abd7fe2b670130c56f6bf27b777c63

/-- SubBytes of one byte. -/
def aesSub (x : Byte) : Byte := BitVec.ofNat 8 (aesSbox >>> (8 * x.toNat))

/-- Multiplication by x in the field of FIPS 197. -/
def xtime (x : Byte) : Byte := if x.getLsbD 7 then (x <<< 1) ^^^ 0x1B else x <<< 1

/-- Byte i of a list. -/
def byteAt (l : List Byte) (i : Nat) : Byte := l.getD i 0

/-- Exclusive-or of two byte strings. -/
def xorBytes (a b : List Byte) : List Byte := (a.zip b).map fun (x, y) => x ^^^ y

/-- The key schedule: 15 round keys of 16 bytes, from words i down to 60; `w` holds the words so far, newest first. Log entry 60 (PRESUMED). -/
def aesExpand : Nat → Nat → Byte → List (List Byte) → List (List Byte)
  | 0, _, _, w => w
  | n + 1, i, rc, w =>
    let t := w.headD []
    let t1 := if i % 8 = 0 then xorBytes ((t.drop 1 ++ t.take 1).map aesSub) [rc, 0, 0, 0] else if i % 8 = 4 then t.map aesSub else t
    aesExpand n (i + 1) (if i % 8 = 0 then xtime rc else rc) (xorBytes (w.getD 7 []) t1 :: w)

/-- The words of the key schedule in their order. -/
def aesWords (key : List Byte) : List (List Byte) :=
  (aesExpand 52 8 1 ((upto 8).map fun i => (upto 4).map fun j => byteAt key (4 * i + j)).reverse).reverse

/-- SubBytes and ShiftRows; the state holds byte r + 4 × c of row r and column c. -/
def aesSubShift (st : List Byte) : List Byte := (upto 16).map fun i => aesSub (byteAt st ((i + 4 * (i % 4)) % 16))

/-- MixColumns. -/
def aesMix (st : List Byte) : List Byte :=
  (upto 16).map fun i =>
    let c := i / 4 * 4
    let b (k : Nat) := byteAt st (c + (i + k) % 4)
    xtime (b 0) ^^^ (xtime (b 1) ^^^ b 1) ^^^ b 2 ^^^ b 3

/-- The rounds after the first key addition. Log entry 60 (PRESUMED). -/
def aesRounds : List (List Byte) → List Byte → List Byte
  | [], st => st
  | [k], st => xorBytes (aesSubShift st) k
  | k :: l, st => aesRounds l (xorBytes (aesMix (aesSubShift st)) k)

/-- AES-256 of one block; byte 0 of the block is the most significant. -/
@[irreducible] def aes256 (key : List Byte) (block : BitVec 128) : BitVec 128 :=
  let w := aesWords key
  let rk (r : Nat) : List Byte := (upto 4).flatMap fun j => w.getD (4 * r + j) []
  let out := aesRounds ((upto 14).map fun r => rk (r + 1)) (xorBytes (leBytes 16 block.toNat).reverse (rk 0))
  BitVec.ofNat 128 (leNat out.reverse)

/-! ## ML-DSA-44 (FIPS 204): polynomials are lists of 256 coefficients modulo q -/

/-- The modulus, and the root of unity of order 512. -/
def mlQ : Nat := 8380417
def mlZeta : Nat := 1753

/-- Powers modulo q by the bits of the exponent. -/
def mlPow : Nat → Nat → Nat → Nat
  | 0, _, _ => 1
  | n + 1, x, e => (if e % 2 = 1 then x else 1) * mlPow n (x * x % mlQ) (e / 2) % mlQ

/-- The 8 bits of a number reversed. -/
def brv8 (x : Nat) : Nat := (upto 8).foldl (fun r i => 2 * r + x / 2 ^ i % 2) 0

/-- The value of a polynomial at a point. -/
def mlEval (p : List Nat) (z : Nat) : Nat := p.foldr (fun c a => (a * z + c) % mlQ) 0

/-- NTT: entry i is the value at ζ to the power 2 × brv(i) + 1. -/
def mlNtt (p : List Nat) : List Nat := (upto 256).map fun i => mlEval p (mlPow 9 mlZeta (2 * brv8 i + 1))

/-- The inverse NTT. -/
def mlInvNtt (p : List Nat) : List Nat :=
  let y := (upto 256).map fun k => p.getD (brv8 k) 0
  (upto 256).map fun j => mlEval y (mlPow 9 mlZeta ((512 - 2 * j) % 512)) * mlPow 9 mlZeta ((512 - j) % 512) % mlQ * 8347681 % mlQ

/-- Coefficientwise operations modulo q. -/
def mlAdd (a b : List Nat) : List Nat := (a.zip b).map fun (x, y) => (x + y) % mlQ
def mlSub (a b : List Nat) : List Nat := (a.zip b).map fun (x, y) => (x + mlQ - y) % mlQ
def mlMul (a b : List Nat) : List Nat := (a.zip b).map fun (x, y) => x * y % mlQ

/-- The zero polynomial. -/
def mlZero : List Nat := List.replicate 256 0

/-- Element (r, c) of a 4 × 4 matrix by a vector, all in the NTT domain. -/
def mlMatVec (a : List (List Nat)) (v : List (List Nat)) : List (List Nat) :=
  (upto 4).map fun r => (upto 4).foldl (fun acc c => mlAdd acc (mlMul (a.getD (4 * r + c) []) (v.getD c []))) mlZero

/-- The centred representative, as an integer. -/
def mlCentre (x : Nat) : Int := if x ≤ mlQ / 2 then x else (x : Int) - mlQ

/-- An integer modulo q. -/
def mlMod (x : Int) : Nat := (x % (mlQ : Int)).toNat

/-- The largest magnitude of a coefficient. -/
def mlNorm (p : List Nat) : Nat := p.foldl (fun m x => max m (mlCentre x).natAbs) 0

/-- Coefficients of `w` bits each into bytes, and back. -/
def packBits (w : Nat) (l : List Nat) : List Byte := leBytes (l.length * w / 8) (l.foldr (fun c a => a * 2 ^ w + c % 2 ^ w) 0)
def unpackBits (w n : Nat) (bs : List Byte) : List Nat := (upto n).map fun i => leNat (bs.take (n * w / 8)) / 2 ^ (w * i) % 2 ^ w

/-- BitPack and BitUnpack about an upper bound b: b less the coefficient. -/
def packFrom (w b : Nat) (p : List Nat) : List Byte := packBits w (p.map fun x => ((b : Int) - mlCentre x).toNat)
def unpackFrom (w b : Nat) (bs : List Byte) : List Nat := (unpackBits w 256 bs).map fun x => mlMod ((b : Int) - x)

/-- A polynomial of the matrix: 3-byte candidates below q. -/
def mlRejNtt (seed : List Byte) : List Nat :=
  let bs := shake128 seed 2016
  (((upto 672).map fun i => leAt bs (3 * i) 3 % 2 ^ 23).filter fun x => x < mlQ).take 256

/-- ExpandA: element (r, c) of the matrix from ρ. -/
def mlExpandA (rho : List Byte) : List (List Nat) :=
  (upto 16).map fun i => mlRejNtt (rho ++ [BitVec.ofNat 8 (i % 4), BitVec.ofNat 8 (i / 4)])

/-- A short polynomial: nibbles below 15, reduced to −2 … 2. -/
def mlRejBounded (seed : List Byte) : List Nat :=
  let bs := shake256 seed 544
  (((bs.flatMap fun b => [b.toNat % 16, b.toNat / 16]).filter fun x => x < 15).map fun x => mlMod (2 - (x % 5 : Nat))).take 256

/-- SampleInBall: 39 coefficients of ±1. `bs`: bytes left, `i`: the next index, `h`: sign bits left. -/
def mlBall : Nat → List Byte → Nat → Nat → List Nat → List Nat
  | 0, _, _, _, c => c
  | n + 1, bs, i, h, c =>
    match bs with
    | [] => c
    | b :: t =>
      if 256 ≤ i then c
      else if i < b.toNat then mlBall n t i h c
      else mlBall n t (i + 1) (h / 2) ((c.set i (c.getD b.toNat 0)).set b.toNat (if h % 2 = 1 then mlQ - 1 else 1))
def mlSampleInBall (seed : List Byte) : List Nat :=
  let bs := shake256 seed 1088
  mlBall 1080 (bs.drop 8) 217 (leAt bs 0 8) mlZero

/-- Power2Round: the high part, and the low part of 13 bits, centred. -/
def mlPower2 (r : Nat) : Nat × Int :=
  let r0 : Int := if r % 8192 ≤ 4096 then (r % 8192 : Nat) else ((r % 8192 : Nat) : Int) - 8192
  ((((r : Int) - r0) / 8192).toNat, r0)

/-- Decompose about 2 × γ₂ = 190464. -/
def mlDecompose (r : Nat) : Nat × Int :=
  let r0 : Int := if r % 190464 ≤ 95232 then (r % 190464 : Nat) else ((r % 190464 : Nat) : Int) - 190464
  if (r : Int) - r0 = (mlQ : Int) - 1 then (0, r0 - 1) else ((((r : Int) - r0) / 190464).toNat, r0)

/-- UseHint. -/
def mlUseHint (h : Bool) (r : Nat) : Nat :=
  let (r1, r0) := mlDecompose r
  if !h then r1 else if 0 < r0 then (r1 + 1) % 44 else (r1 + 43) % 44

/-- w1Encode. -/
def mlW1Encode (w : List (List Nat)) : List Byte := w.flatMap (packBits 6)

/-- The hint of a signature into 84 bytes, and back; none: malformed. -/
def mlPackHint (h : List (List Bool)) : List Byte :=
  let ones (p : List Bool) : List Nat := (upto 256).filter fun j => p.getD j false
  let idx := h.flatMap ones
  (idx ++ List.replicate (80 - idx.length) 0).map (BitVec.ofNat 8) ++
    (upto 4).map fun i => BitVec.ofNat 8 (((h.take (i + 1)).flatMap ones).length)
def mlUnpackHint (bs : List Byte) : Option (List (List Bool)) :=
  let cut (i : Nat) : Nat := if i = 0 then 0 else leAt bs (79 + i) 1
  let pos (i : Nat) : List Nat := (upto (cut (i + 1) - cut i)).map fun j => leAt bs (cut i + j) 1
  let ok := (upto 4).all (fun i => cut i ≤ cut (i + 1) && cut (i + 1) ≤ 80 &&
    (upto (cut (i + 1) - cut i - 1)).all fun j => (pos i).getD j 0 < (pos i).getD (j + 1) 0) &&
    (upto (80 - cut 4)).all fun j => leAt bs (cut 4 + j) 1 == 0
  if ok then some ((upto 4).map fun i => (upto 256).map fun j => (pos i).contains j) else none

/-- The expanded private key and the public key of a seed (ML-DSA.KeyGen_internal). Log entry 60 (PRESUMED). -/
def mlKeyGen (seed : List Byte) : List Byte × List Byte :=
  let x := shake256 (seed ++ [4, 4]) 128
  let rho := x.take 32
  let a := mlExpandA rho
  let s (i : Nat) : List Nat := mlRejBounded ((x.drop 32).take 64 ++ leBytes 2 i)
  let s1 := (upto 4).map s
  let s2 := (upto 4).map fun i => s (4 + i)
  let t := ((mlMatVec a (s1.map mlNtt)).map mlInvNtt).zip s2 |>.map fun (u, v) => mlAdd u v
  let pk := rho ++ t.flatMap fun p => packBits 10 (p.map fun r => (mlPower2 r).1)
  (rho ++ x.drop 96 ++ shake256 pk 64 ++ (s1 ++ s2).flatMap (packFrom 3 2) ++
    t.flatMap (fun p => packFrom 13 4096 (p.map fun r => mlMod (mlPower2 r).2)), pk)

/-- The private key and the public key of a 256-bit seed. -/
@[irreducible] def mldsaPrivate (seed : BitVec 256) : List Byte := (mlKeyGen (leBytes 32 seed.toNat)).1
@[irreducible] def mldsaPublic (seed : BitVec 256) : List Byte := (mlKeyGen (leBytes 32 seed.toNat)).2

/-- A part of a key: polynomial i of bytes at an offset. -/
def mlPart (bs : List Byte) (o n i : Nat) : List Byte := (bs.drop (o + n * i)).take n

/-- The signing loop: attempts from counter κ, at most `n`. Log entry 60 (PRESUMED). -/
def mlSignLoop (a s1 s2 t0 : List (List Nat)) (mu rho2 : List Byte) : Nat → Nat → List Byte
  | 0, _ => List.replicate 2420 0
  | n + 1, k =>
    let y := (upto 4).map fun r => unpackFrom 18 131072 (shake256 (rho2 ++ leBytes 2 (k + r)) 576)
    let w := (mlMatVec a (y.map mlNtt)).map mlInvNtt
    let ct := shake256 (mu ++ mlW1Encode (w.map fun p => p.map fun r => (mlDecompose r).1)) 32
    let c := mlNtt (mlSampleInBall ct)
    let by_ (v : List (List Nat)) : List (List Nat) := v.map fun p => mlInvNtt (mlMul c p)
    let z := (y.zip (by_ s1)).map fun (u, v) => mlAdd u v
    let r := (w.zip (by_ s2)).map fun (u, v) => mlSub u v
    let c0 := by_ t0
    let h := (r.zip c0).map fun (u, v) => (u.zip v).map fun (x, t) => (mlDecompose x).1 != (mlDecompose ((x + t) % mlQ)).1
    if z.any (fun p => 131072 - 78 ≤ mlNorm p) || r.any (fun p => p.any fun x => 95232 - 78 ≤ (mlDecompose x).2.natAbs) ||
        c0.any (fun p => 95232 ≤ mlNorm p) || 80 < (h.flatMap fun p => p.filter fun b => b).length then
      mlSignLoop a s1 s2 t0 mu rho2 n (k + 4)
    else ct ++ z.flatMap (packFrom 18 131072) ++ mlPackHint h

/-- The hedged signature of a 32-byte hash in the pure form with an empty context string (R406): expanded private key, hash, and the
32 bytes of fresh randomness as a number. Log entry 60 (PRESUMED). -/
@[irreducible] def mldsaSign (sk : List Byte) (hash : BitVec 256) (rnd : Nat) : List Byte :=
  let mu := shake256 ((sk.drop 64).take 64 ++ [0, 0] ++ leBytes 32 hash.toNat) 64
  let rho2 := shake256 ((sk.drop 32).take 32 ++ leBytes 32 rnd ++ mu) 64
  let s (i : Nat) : List Nat := mlNtt (unpackFrom 3 2 (mlPart sk 128 96 i))
  mlSignLoop (mlExpandA (sk.take 32)) ((upto 4).map s) ((upto 4).map fun i => s (4 + i))
    ((upto 4).map fun i => mlNtt (unpackFrom 13 4096 (mlPart sk 896 416 i))) mu rho2 1000 0

/-- The signature of a hash verifies under a public key. Log entry 60 (PRESUMED). -/
@[irreducible] def mldsaVerify (pk : List Byte) (hash : BitVec 256) (sig : List Byte) : Bool :=
  let mu := shake256 (shake256 pk 64 ++ [0, 0] ++ leBytes 32 hash.toNat) 64
  let ct := sig.take 32
  let z := (upto 4).map fun i => unpackFrom 18 131072 (mlPart sig 32 576 i)
  match mlUnpackHint (sig.drop 2336) with
  | none => false
  | some h =>
    let c := mlNtt (mlSampleInBall ct)
    let t1 := (upto 4).map fun i => mlNtt ((unpackBits 10 256 (mlPart pk 32 320 i)).map fun x => x * 8192 % mlQ)
    let w := ((mlMatVec (mlExpandA (pk.take 32)) (z.map mlNtt)).zip t1).map fun (u, t) => mlInvNtt (mlSub u (mlMul c t))
    let w1 := (w.zip h).map fun (p, g) => (p.zip g).map fun (x, b) => mlUseHint b x
    pk.length == 1312 && sig.length == 2420 && z.all (fun p => mlNorm p < 131072 - 78) && shake256 (mu ++ mlW1Encode w1) 32 == ct

end Sys2Proof.Machine
end

