-- ==== Sys2Proof/Machine/RegNames.lean ====
section
/-! DEFINITION. A name for every register (`R.<register>`, its address) and every field (`F.<register>_<field>`) of the spec's
register tables, spelt as the spec spells them; indexed registers take their index (CAN registers take the port first). -/

namespace Sys2Proof.Machine

/-! ## The common registers of every page (R44, R45) -/

/-- BLK_ID of block b (R45). -/
abbrev R.BLK_ID (b : Blk) : Nat := b.base + 0x0
/-- BLK_ID.CODE: bits 7:0 (R45). -/
abbrev F.BLK_ID_CODE (b : Blk) : Fld := ⟨R.BLK_ID b, 0, 8⟩
/-- BLK_ID.INST: bits 11:8 (R45). -/
abbrev F.BLK_ID_INST (b : Blk) : Fld := ⟨R.BLK_ID b, 8, 4⟩
/-- BLK_ID.MARK: bits 31:24 (R45). -/
abbrev F.BLK_ID_MARK (b : Blk) : Fld := ⟨R.BLK_ID b, 24, 8⟩
/-- BLK_VER of block b (R45). -/
abbrev R.BLK_VER (b : Blk) : Nat := b.base + 0x4
/-- BLK_VER.MINOR: bits 7:0 (R45). -/
abbrev F.BLK_VER_MINOR (b : Blk) : Fld := ⟨R.BLK_VER b, 0, 8⟩
/-- BLK_VER.MAJOR: bits 15:8 (R45). -/
abbrev F.BLK_VER_MAJOR (b : Blk) : Fld := ⟨R.BLK_VER b, 8, 8⟩
/-- BLK_CTRL of block b (R45). -/
abbrev R.BLK_CTRL (b : Blk) : Nat := b.base + 0x8
/-- BLK_CTRL.EN: bits 0:0 (R45). -/
abbrev F.BLK_CTRL_EN (b : Blk) : Fld := ⟨R.BLK_CTRL b, 0, 1⟩
/-- BLK_CTRL.SOFT_RST: bits 1:1 (R45). -/
abbrev F.BLK_CTRL_SOFT_RST (b : Blk) : Fld := ⟨R.BLK_CTRL b, 1, 1⟩
/-- BLK_CTRL.FREEZE: bits 2:2 (R45). -/
abbrev F.BLK_CTRL_FREEZE (b : Blk) : Fld := ⟨R.BLK_CTRL b, 2, 1⟩
/-- BLK_STAT of block b (R45). -/
abbrev R.BLK_STAT (b : Blk) : Nat := b.base + 0xc
/-- BLK_STAT.BUSY: bits 0:0 (R45). -/
abbrev F.BLK_STAT_BUSY (b : Blk) : Fld := ⟨R.BLK_STAT b, 0, 1⟩
/-- BLK_STAT.CFG_REJ: bits 1:1 (R45). -/
abbrev F.BLK_STAT_CFG_REJ (b : Blk) : Fld := ⟨R.BLK_STAT b, 1, 1⟩
/-- BLK_STAT.ERR: bits 2:2 (R45). -/
abbrev F.BLK_STAT_ERR (b : Blk) : Fld := ⟨R.BLK_STAT b, 2, 1⟩
/-- BLK_STAT.STOPPING: bits 3:3 (R45). -/
abbrev F.BLK_STAT_STOPPING (b : Blk) : Fld := ⟨R.BLK_STAT b, 3, 1⟩
/-- BLK_STAT.SUM_PEND: bits 4:4 (R45). -/
abbrev F.BLK_STAT_SUM_PEND (b : Blk) : Fld := ⟨R.BLK_STAT b, 4, 1⟩
/-- BLK_STAT.SHADOW_PEND: bits 5:5 (R45). -/
abbrev F.BLK_STAT_SHADOW_PEND (b : Blk) : Fld := ⟨R.BLK_STAT b, 5, 1⟩
/-- BLK_STAT.BLK_STATUS: bits 15:8 (R45). -/
abbrev F.BLK_STAT_BLK_STATUS (b : Blk) : Fld := ⟨R.BLK_STAT b, 8, 8⟩
/-- BLK_IRQ_RAW of block b (R45). -/
abbrev R.BLK_IRQ_RAW (b : Blk) : Nat := b.base + 0x10
/-- BLK_IRQ_RAW.CFG_REJ: bits 0:0 (R45). -/
abbrev F.BLK_IRQ_RAW_CFG_REJ (b : Blk) : Fld := ⟨R.BLK_IRQ_RAW b, 0, 1⟩
/-- BLK_IRQ_RAW.ERR: bits 1:1 (R45). -/
abbrev F.BLK_IRQ_RAW_ERR (b : Blk) : Fld := ⟨R.BLK_IRQ_RAW b, 1, 1⟩
/-- BLK_IRQ_RAW.CAUSE: bits 31:2 (R45). -/
abbrev F.BLK_IRQ_RAW_CAUSE (b : Blk) : Fld := ⟨R.BLK_IRQ_RAW b, 2, 30⟩
/-- BLK_IRQ_EN of block b (R45). -/
abbrev R.BLK_IRQ_EN (b : Blk) : Nat := b.base + 0x14
/-- BLK_IRQ_EN.EN: bits 31:0 (R45). -/
abbrev F.BLK_IRQ_EN_EN (b : Blk) : Fld := ⟨R.BLK_IRQ_EN b, 0, 32⟩
/-- BLK_IRQ_PEND of block b (R45). -/
abbrev R.BLK_IRQ_PEND (b : Blk) : Nat := b.base + 0x18
/-- BLK_IRQ_PEND.PEND: bits 31:0 (R45). -/
abbrev F.BLK_IRQ_PEND_PEND (b : Blk) : Fld := ⟨R.BLK_IRQ_PEND b, 0, 32⟩
/-- BLK_ERRINFO of block b (R45). -/
abbrev R.BLK_ERRINFO (b : Blk) : Nat := b.base + 0x1c
/-- BLK_ERRINFO.CODE: bits 7:0 (R45). -/
abbrev F.BLK_ERRINFO_CODE (b : Blk) : Fld := ⟨R.BLK_ERRINFO b, 0, 8⟩
/-- BLK_ERRINFO.COUNT: bits 15:8 (R45). -/
abbrev F.BLK_ERRINFO_COUNT (b : Blk) : Fld := ⟨R.BLK_ERRINFO b, 8, 8⟩
/-- BLK_ERRINFO.WOFF: bits 29:16 (R45). -/
abbrev F.BLK_ERRINFO_WOFF (b : Blk) : Fld := ⟨R.BLK_ERRINFO b, 16, 14⟩
/-- BLK_LOCK of block b (R45). -/
abbrev R.BLK_LOCK (b : Blk) : Nat := b.base + 0x20
/-- BLK_LOCK.CFG_LOCK: bits 0:0 (R45). -/
abbrev F.BLK_LOCK_CFG_LOCK (b : Blk) : Fld := ⟨R.BLK_LOCK b, 0, 1⟩
/-- BLK_LOCK.CTRL_LOCK: bits 1:1 (R45). -/
abbrev F.BLK_LOCK_CTRL_LOCK (b : Blk) : Fld := ⟨R.BLK_LOCK b, 1, 1⟩
/-- BLK_LOCK.BLK_LOCKS: bits 31:2 (R45). -/
abbrev F.BLK_LOCK_BLK_LOCKS (b : Blk) : Fld := ⟨R.BLK_LOCK b, 2, 30⟩
/-- BLK_CFGSUM of block b (R45). -/
abbrev R.BLK_CFGSUM (b : Blk) : Nat := b.base + 0x24
/-- BLK_CFGSUM.SUM: bits 31:0 (R45). -/
abbrev F.BLK_CFGSUM_SUM (b : Blk) : Fld := ⟨R.BLK_CFGSUM b, 0, 32⟩

/-! ## SYS -/

/-- The register SYS_ROLE. -/
abbrev R.SYS_ROLE : Nat := 0x10000040
/-- SYS_ROLE.ROLE: bits 1:0. -/
abbrev F.SYS_ROLE_ROLE : Fld := ⟨R.SYS_ROLE, 0, 2⟩
/-- SYS_ROLE.NODE: bits 17:8. -/
abbrev F.SYS_ROLE_NODE : Fld := ⟨R.SYS_ROLE, 8, 10⟩
/-- SYS_ROLE.TANDEM: bit 24. -/
abbrev F.SYS_ROLE_TANDEM : Fld := ⟨R.SYS_ROLE, 24, 1⟩
/-- SYS_ROLE.ACTIVE: bit 25. -/
abbrev F.SYS_ROLE_ACTIVE : Fld := ⟨R.SYS_ROLE, 25, 1⟩
/-- SYS_ROLE.DEFAULTED: bit 26. -/
abbrev F.SYS_ROLE_DEFAULTED : Fld := ⟨R.SYS_ROLE, 26, 1⟩

/-! ## INT -/

/-- The register INT_SRC_CFGn. -/
abbrev R.INT_SRC_CFGn (n : Nat) : Nat := 0x10010100 + 0x4 * n
/-- INT_SRC_CFGn.PRIO: bits 3:0. -/
abbrev F.INT_SRC_CFGn_PRIO (n : Nat) : Fld := ⟨R.INT_SRC_CFGn n, 0, 4⟩
/-- INT_SRC_CFGn.TGT_H: bits 11:8. -/
abbrev F.INT_SRC_CFGn_TGT_H (n : Nat) : Fld := ⟨R.INT_SRC_CFGn n, 8, 4⟩
/-- INT_SRC_CFGn.TGT_M: bit 12. -/
abbrev F.INT_SRC_CFGn_TGT_M (n : Nat) : Fld := ⟨R.INT_SRC_CFGn n, 12, 1⟩
/-- The register INT_LEVELk. -/
abbrev R.INT_LEVELk (k : Nat) : Nat := 0x10010300 + 0x4 * k
/-- INT_LEVELk.LEVEL: bits 31:0. -/
abbrev F.INT_LEVELk_LEVEL (k : Nat) : Fld := ⟨R.INT_LEVELk k, 0, 32⟩
/-- The register INT_INSERVk. -/
abbrev R.INT_INSERVk (k : Nat) : Nat := 0x10010310 + 0x4 * k
/-- INT_INSERVk.INSERV: bits 31:0. -/
abbrev F.INT_INSERVk_INSERV (k : Nat) : Fld := ⟨R.INT_INSERVk k, 0, 32⟩
/-- The register INT_DB_SET. -/
abbrev R.INT_DB_SET : Nat := 0x10010320
/-- INT_DB_SET.DB: bits 7:0. -/
abbrev F.INT_DB_SET_DB : Fld := ⟨R.INT_DB_SET, 0, 8⟩
/-- The register INT_DB_CLR. -/
abbrev R.INT_DB_CLR : Nat := 0x10010324
/-- INT_DB_CLR.DB: bits 7:0. -/
abbrev F.INT_DB_CLR_DB : Fld := ⟨R.INT_DB_CLR, 0, 8⟩
/-- The register INT_TGT_CTRLt. -/
abbrev R.INT_TGT_CTRLt (t : Nat) : Nat := 0x10010400 + 0x10 * t
/-- INT_TGT_CTRLt.THRESH: bits 3:0. -/
abbrev F.INT_TGT_CTRLt_THRESH (t : Nat) : Fld := ⟨R.INT_TGT_CTRLt t, 0, 4⟩
/-- INT_TGT_CTRLt.MODE: bit 8. -/
abbrev F.INT_TGT_CTRLt_MODE (t : Nat) : Fld := ⟨R.INT_TGT_CTRLt t, 8, 1⟩
/-- The register INT_TGT_CLAIMt. -/
abbrev R.INT_TGT_CLAIMt (t : Nat) : Nat := 0x10010404 + 0x10 * t
/-- INT_TGT_CLAIMt.SRC: bits 6:0. -/
abbrev F.INT_TGT_CLAIMt_SRC (t : Nat) : Fld := ⟨R.INT_TGT_CLAIMt t, 0, 7⟩
/-- INT_TGT_CLAIMt.VALID: bit 31. -/
abbrev F.INT_TGT_CLAIMt_VALID (t : Nat) : Fld := ⟨R.INT_TGT_CLAIMt t, 31, 1⟩
/-- The register INT_TGT_COMPLETEt. -/
abbrev R.INT_TGT_COMPLETEt (t : Nat) : Nat := 0x10010408 + 0x10 * t
/-- INT_TGT_COMPLETEt.SRC: bits 6:0. -/
abbrev F.INT_TGT_COMPLETEt_SRC (t : Nat) : Fld := ⟨R.INT_TGT_COMPLETEt t, 0, 7⟩

/-! ## CAD -/

/-- The register CAD_CFG. -/
abbrev R.CAD_CFG : Nat := 0x10080040
/-- CAD_CFG.START_BANK: bit 0. -/
abbrev F.CAD_CFG_START_BANK : Fld := ⟨R.CAD_CFG, 0, 1⟩
/-- CAD_CFG.EXC_EVENT: bit 1. -/
abbrev F.CAD_CFG_EXC_EVENT : Fld := ⟨R.CAD_CFG, 1, 1⟩
/-- CAD_CFG.EVT_LIMIT: bits 15:8. -/
abbrev F.CAD_CFG_EVT_LIMIT : Fld := ⟨R.CAD_CFG, 8, 8⟩
/-- The register CAD_LANE_STAT. -/
abbrev R.CAD_LANE_STAT : Nat := 0x10080044
/-- CAD_LANE_STAT.LANE_BUSY: bits 3:0. -/
abbrev F.CAD_LANE_STAT_LANE_BUSY : Fld := ⟨R.CAD_LANE_STAT, 0, 4⟩
/-- The register CAD_BANKb_BASE_LO. -/
abbrev R.CAD_BANKb_BASE_LO (b : Nat) : Nat := 0x10080050 + 0x8 * b
/-- CAD_BANKb_BASE_LO.BASE_LO: bits 31:16. -/
abbrev F.CAD_BANKb_BASE_LO_BASE_LO (b : Nat) : Fld := ⟨R.CAD_BANKb_BASE_LO b, 16, 16⟩
/-- The register CAD_BANKb_BASE_HI. -/
abbrev R.CAD_BANKb_BASE_HI (b : Nat) : Nat := 0x10080054 + 0x8 * b
/-- CAD_BANKb_BASE_HI.BASE_HI: bits 7:0. -/
abbrev F.CAD_BANKb_BASE_HI_BASE_HI (b : Nat) : Fld := ⟨R.CAD_BANKb_BASE_HI b, 0, 8⟩
/-- The register CAD_PHASHb_k. -/
abbrev R.CAD_PHASHb_k (b k : Nat) : Nat := 0x10080080 + 0x20 * b + 0x4 * k
/-- CAD_PHASHb_k.HASH: bits 31:0. -/
abbrev F.CAD_PHASHb_k_HASH (b k : Nat) : Fld := ⟨R.CAD_PHASHb_k b k, 0, 32⟩
/-- The register CAD_AHASHk. -/
abbrev R.CAD_AHASHk (k : Nat) : Nat := 0x100800c0 + 0x4 * k
/-- CAD_AHASHk.HASH: bits 31:0. -/
abbrev F.CAD_AHASHk_HASH (k : Nat) : Fld := ⟨R.CAD_AHASHk k, 0, 32⟩
/-- The register CAD_VERIFY. -/
abbrev R.CAD_VERIFY : Nat := 0x100800e0
/-- CAD_VERIFY.V0: bit 0. -/
abbrev F.CAD_VERIFY_V0 : Fld := ⟨R.CAD_VERIFY, 0, 1⟩
/-- CAD_VERIFY.V1: bit 1. -/
abbrev F.CAD_VERIFY_V1 : Fld := ⟨R.CAD_VERIFY, 1, 1⟩
/-- The register CAD_LOADCMD. -/
abbrev R.CAD_LOADCMD : Nat := 0x100800e4
/-- CAD_LOADCMD.BANK: bit 0. -/
abbrev F.CAD_LOADCMD_BANK : Fld := ⟨R.CAD_LOADCMD, 0, 1⟩
/-- CAD_LOADCMD.GO: bit 31. -/
abbrev F.CAD_LOADCMD_GO : Fld := ⟨R.CAD_LOADCMD, 31, 1⟩
/-- The register CAD_BANK_STAT. -/
abbrev R.CAD_BANK_STAT : Nat := 0x100800e8
/-- CAD_BANK_STAT.STATE0: bits 2:0. -/
abbrev F.CAD_BANK_STAT_STATE0 : Fld := ⟨R.CAD_BANK_STAT, 0, 3⟩
/-- CAD_BANK_STAT.STATE1: bits 6:4. -/
abbrev F.CAD_BANK_STAT_STATE1 : Fld := ⟨R.CAD_BANK_STAT, 4, 3⟩
/-- CAD_BANK_STAT.RESULT: bits 15:8. -/
abbrev F.CAD_BANK_STAT_RESULT : Fld := ⟨R.CAD_BANK_STAT, 8, 8⟩
/-- CAD_BANK_STAT.RBANK: bit 16. -/
abbrev F.CAD_BANK_STAT_RBANK : Fld := ⟨R.CAD_BANK_STAT, 16, 1⟩
/-- The register CAD_LOADOFF. -/
abbrev R.CAD_LOADOFF : Nat := 0x100800ec
/-- CAD_LOADOFF.OFFSET: bits 23:0. -/
abbrev F.CAD_LOADOFF_OFFSET : Fld := ⟨R.CAD_LOADOFF, 0, 24⟩
/-- The register CAD_REQ_DROP. -/
abbrev R.CAD_REQ_DROP : Nat := 0x100800f0
/-- CAD_REQ_DROP.COUNT: bits 15:0. -/
abbrev F.CAD_REQ_DROP_COUNT : Fld := ⟨R.CAD_REQ_DROP, 0, 16⟩
/-- The register CAD_ECC_CNT. -/
abbrev R.CAD_ECC_CNT : Nat := 0x100800f4
/-- CAD_ECC_CNT.CORR: bits 15:0. -/
abbrev F.CAD_ECC_CNT_CORR : Fld := ⟨R.CAD_ECC_CNT, 0, 16⟩
/-- The register CAD_INST_CMD. -/
abbrev R.CAD_INST_CMD : Nat := 0x100800f8
/-- CAD_INST_CMD.INST: bits 15:0. -/
abbrev F.CAD_INST_CMD_INST : Fld := ⟨R.CAD_INST_CMD, 0, 16⟩
/-- CAD_INST_CMD.OP: bits 18:16. -/
abbrev F.CAD_INST_CMD_OP : Fld := ⟨R.CAD_INST_CMD, 16, 3⟩
/-- CAD_INST_CMD.GO: bit 31. -/
abbrev F.CAD_INST_CMD_GO : Fld := ⟨R.CAD_INST_CMD, 31, 1⟩
/-- The register CAD_INST_STAT. -/
abbrev R.CAD_INST_STAT : Nat := 0x100800fc
/-- CAD_INST_STAT.HELD: bits 15:0. -/
abbrev F.CAD_INST_STAT_HELD : Fld := ⟨R.CAD_INST_STAT, 0, 16⟩
/-- CAD_INST_STAT.POISONED: bits 31:16. -/
abbrev F.CAD_INST_STAT_POISONED : Fld := ⟨R.CAD_INST_STAT, 16, 16⟩
/-- The register CAD_EXC_INFOn. -/
abbrev R.CAD_EXC_INFOn (n : Nat) : Nat := 0x10080200 + 0x10 * n
/-- CAD_EXC_INFOn.CODE: bits 7:0. -/
abbrev F.CAD_EXC_INFOn_CODE (n : Nat) : Fld := ⟨R.CAD_EXC_INFOn n, 0, 8⟩
/-- CAD_EXC_INFOn.INST: bits 23:8. -/
abbrev F.CAD_EXC_INFOn_INST (n : Nat) : Fld := ⟨R.CAD_EXC_INFOn n, 8, 16⟩
/-- The register CAD_EXC_PCn. -/
abbrev R.CAD_EXC_PCn (n : Nat) : Nat := 0x10080204 + 0x10 * n
/-- CAD_EXC_PCn.PC: bits 21:0. -/
abbrev F.CAD_EXC_PCn_PC (n : Nat) : Fld := ⟨R.CAD_EXC_PCn n, 0, 22⟩
/-- The register CAD_EXC_CNTn. -/
abbrev R.CAD_EXC_CNTn (n : Nat) : Nat := 0x10080208 + 0x10 * n
/-- CAD_EXC_CNTn.COUNT: bits 15:0. -/
abbrev F.CAD_EXC_CNTn_COUNT (n : Nat) : Fld := ⟨R.CAD_EXC_CNTn n, 0, 16⟩
/-- The register CAD_EXC_FLAGSn. -/
abbrev R.CAD_EXC_FLAGSn (n : Nat) : Nat := 0x1008020c + 0x10 * n
/-- CAD_EXC_FLAGSn.SAT: bit 0. -/
abbrev F.CAD_EXC_FLAGSn_SAT (n : Nat) : Fld := ⟨R.CAD_EXC_FLAGSn n, 0, 1⟩
/-- CAD_EXC_FLAGSn.DZ: bit 1. -/
abbrev F.CAD_EXC_FLAGSn_DZ (n : Nat) : Fld := ⟨R.CAD_EXC_FLAGSn n, 1, 1⟩
/-- CAD_EXC_FLAGSn.FINV: bit 2. -/
abbrev F.CAD_EXC_FLAGSn_FINV (n : Nat) : Fld := ⟨R.CAD_EXC_FLAGSn n, 2, 1⟩
/-- CAD_EXC_FLAGSn.FDZ: bit 3. -/
abbrev F.CAD_EXC_FLAGSn_FDZ (n : Nat) : Fld := ⟨R.CAD_EXC_FLAGSn n, 3, 1⟩
/-- CAD_EXC_FLAGSn.FOVF: bit 4. -/
abbrev F.CAD_EXC_FLAGSn_FOVF (n : Nat) : Fld := ⟨R.CAD_EXC_FLAGSn n, 4, 1⟩
/-- CAD_EXC_FLAGSn.FUNF: bit 5. -/
abbrev F.CAD_EXC_FLAGSn_FUNF (n : Nat) : Fld := ⟨R.CAD_EXC_FLAGSn n, 5, 1⟩
/-- CAD_EXC_FLAGSn.NAN_OUT: bit 8. -/
abbrev F.CAD_EXC_FLAGSn_NAN_OUT (n : Nat) : Fld := ⟨R.CAD_EXC_FLAGSn n, 8, 1⟩
/-- CAD_EXC_FLAGSn.REQ_DROP: bit 9. -/
abbrev F.CAD_EXC_FLAGSn_REQ_DROP (n : Nat) : Fld := ⟨R.CAD_EXC_FLAGSn n, 9, 1⟩
/-- CAD_EXC_FLAGSn.EVT_DROP: bit 10. -/
abbrev F.CAD_EXC_FLAGSn_EVT_DROP (n : Nat) : Fld := ⟨R.CAD_EXC_FLAGSn n, 10, 1⟩
/-- CAD_EXC_FLAGSn.CNT_CLR: bit 31. -/
abbrev F.CAD_EXC_FLAGSn_CNT_CLR (n : Nat) : Fld := ⟨R.CAD_EXC_FLAGSn n, 31, 1⟩
/-- The register CAD_TASKn_PERIOD. -/
abbrev R.CAD_TASKn_PERIOD (n : Nat) : Nat := 0x10080100 + 0x10 * n
/-- CAD_TASKn_PERIOD.PERIOD: bits 23:0. -/
abbrev F.CAD_TASKn_PERIOD_PERIOD (n : Nat) : Fld := ⟨R.CAD_TASKn_PERIOD n, 0, 24⟩
/-- The register CAD_TASKn_PHASE. -/
abbrev R.CAD_TASKn_PHASE (n : Nat) : Nat := 0x10080104 + 0x10 * n
/-- CAD_TASKn_PHASE.PHASE: bits 23:0. -/
abbrev F.CAD_TASKn_PHASE_PHASE (n : Nat) : Fld := ⟨R.CAD_TASKn_PHASE n, 0, 24⟩
/-- The register CAD_TASKn_CFG. -/
abbrev R.CAD_TASKn_CFG (n : Nat) : Nat := 0x10080108 + 0x10 * n
/-- CAD_TASKn_CFG.PRIO: bits 2:0. -/
abbrev F.CAD_TASKn_CFG_PRIO (n : Nat) : Fld := ⟨R.CAD_TASKn_CFG n, 0, 3⟩
/-- CAD_TASKn_CFG.POLICY: bit 3. -/
abbrev F.CAD_TASKn_CFG_POLICY (n : Nat) : Fld := ⟨R.CAD_TASKn_CFG n, 3, 1⟩
/-- CAD_TASKn_CFG.LOCK: bit 4. -/
abbrev F.CAD_TASKn_CFG_LOCK (n : Nat) : Fld := ⟨R.CAD_TASKn_CFG n, 4, 1⟩
/-- The register CAD_TASKn_STAT. -/
abbrev R.CAD_TASKn_STAT (n : Nat) : Nat := 0x1008010c + 0x10 * n
/-- CAD_TASKn_STAT.STATE: bits 2:0. -/
abbrev F.CAD_TASKn_STAT_STATE (n : Nat) : Fld := ⟨R.CAD_TASKn_STAT n, 0, 3⟩
/-- CAD_TASKn_STAT.LOCKED: bit 3. -/
abbrev F.CAD_TASKn_STAT_LOCKED (n : Nat) : Fld := ⟨R.CAD_TASKn_STAT n, 3, 1⟩
/-- CAD_TASKn_STAT.LATE: bit 4. -/
abbrev F.CAD_TASKn_STAT_LATE (n : Nat) : Fld := ⟨R.CAD_TASKn_STAT n, 4, 1⟩
/-- CAD_TASKn_STAT.OVR: bits 31:16. -/
abbrev F.CAD_TASKn_STAT_OVR (n : Nat) : Fld := ⟨R.CAD_TASKn_STAT n, 16, 16⟩
/-- The register CAD_TASKn_LAST. -/
abbrev R.CAD_TASKn_LAST (n : Nat) : Nat := 0x10080180 + 0x4 * n
/-- CAD_TASKn_LAST.LAST: bits 23:0. -/
abbrev F.CAD_TASKn_LAST_LAST (n : Nat) : Fld := ⟨R.CAD_TASKn_LAST n, 0, 24⟩
/-- The register CAD_TASKn_MAX. -/
abbrev R.CAD_TASKn_MAX (n : Nat) : Nat := 0x100801a0 + 0x4 * n
/-- CAD_TASKn_MAX.MAX: bits 23:0. -/
abbrev F.CAD_TASKn_MAX_MAX (n : Nat) : Fld := ⟨R.CAD_TASKn_MAX n, 0, 24⟩
/-- The register CAD_TASK_CMD. -/
abbrev R.CAD_TASK_CMD : Nat := 0x100801c0
/-- CAD_TASK_CMD.TASK: bits 2:0. -/
abbrev F.CAD_TASK_CMD_TASK : Fld := ⟨R.CAD_TASK_CMD, 0, 3⟩
/-- CAD_TASK_CMD.OP: bits 6:4. -/
abbrev F.CAD_TASK_CMD_OP : Fld := ⟨R.CAD_TASK_CMD, 4, 3⟩
/-- CAD_TASK_CMD.GO: bit 31. -/
abbrev F.CAD_TASK_CMD_GO : Fld := ⟨R.CAD_TASK_CMD, 31, 1⟩
/-- The register CAD_START. -/
abbrev R.CAD_START : Nat := 0x100801c4
/-- CAD_START.MODE: bit 0. -/
abbrev F.CAD_START_MODE : Fld := ⟨R.CAD_START, 0, 1⟩
/-- CAD_START.TASKS: bits 15:8. -/
abbrev F.CAD_START_TASKS : Fld := ⟨R.CAD_START, 8, 8⟩
/-- CAD_START.GO: bit 31. -/
abbrev F.CAD_START_GO : Fld := ⟨R.CAD_START, 31, 1⟩
/-- The register CAD_START_STAT. -/
abbrev R.CAD_START_STAT : Nat := 0x100801c8
/-- CAD_START_STAT.RESULT: bits 3:0. -/
abbrev F.CAD_START_STAT_RESULT : Fld := ⟨R.CAD_START_STAT, 0, 4⟩
/-- CAD_START_STAT.WARM: bit 8. -/
abbrev F.CAD_START_STAT_WARM : Fld := ⟨R.CAD_START_STAT, 8, 1⟩
/-- CAD_START_STAT.NCOLD: bits 31:16. -/
abbrev F.CAD_START_STAT_NCOLD : Fld := ⟨R.CAD_START_STAT, 16, 16⟩
/-- The register CAD_START_CNT. -/
abbrev R.CAD_START_CNT : Nat := 0x100801cc
/-- CAD_START_CNT.NKEEP: bits 15:0. -/
abbrev F.CAD_START_CNT_NKEEP : Fld := ⟨R.CAD_START_CNT, 0, 16⟩
/-- CAD_START_CNT.NCONV: bits 31:16. -/
abbrev F.CAD_START_CNT_NCONV : Fld := ⟨R.CAD_START_CNT, 16, 16⟩
/-- The register CAD_RET_BASE_LO. -/
abbrev R.CAD_RET_BASE_LO : Nat := 0x100801d0
/-- CAD_RET_BASE_LO.BASE_LO: bits 31:6. -/
abbrev F.CAD_RET_BASE_LO_BASE_LO : Fld := ⟨R.CAD_RET_BASE_LO, 6, 26⟩
/-- The register CAD_RET_BASE_HI. -/
abbrev R.CAD_RET_BASE_HI : Nat := 0x100801d4
/-- CAD_RET_BASE_HI.BASE_HI: bits 7:0. -/
abbrev F.CAD_RET_BASE_HI_BASE_HI : Fld := ⟨R.CAD_RET_BASE_HI, 0, 8⟩
/-- The register CAD_RET_CMD. -/
abbrev R.CAD_RET_CMD : Nat := 0x100801d8
/-- CAD_RET_CMD.NOW: bit 0. -/
abbrev F.CAD_RET_CMD_NOW : Fld := ⟨R.CAD_RET_CMD, 0, 1⟩
/-- CAD_RET_CMD.GO: bit 31. -/
abbrev F.CAD_RET_CMD_GO : Fld := ⟨R.CAD_RET_CMD, 31, 1⟩
/-- The register CAD_RET_STAT. -/
abbrev R.CAD_RET_STAT : Nat := 0x100801dc
/-- CAD_RET_STAT.STATE: bits 1:0. -/
abbrev F.CAD_RET_STAT_STATE : Fld := ⟨R.CAD_RET_STAT, 0, 2⟩
/-- CAD_RET_STAT.RESULT: bits 11:8. -/
abbrev F.CAD_RET_STAT_RESULT : Fld := ⟨R.CAD_RET_STAT, 8, 4⟩
/-- The register CAD_FORCE_SIG. -/
abbrev R.CAD_FORCE_SIG : Nat := 0x10080280
/-- CAD_FORCE_SIG.SIGID: bits 22:0. -/
abbrev F.CAD_FORCE_SIG_SIGID : Fld := ⟨R.CAD_FORCE_SIG, 0, 23⟩
/-- The register CAD_FORCE_VAL. -/
abbrev R.CAD_FORCE_VAL : Nat := 0x10080284
/-- CAD_FORCE_VAL.VALUE: bits 31:0. -/
abbrev F.CAD_FORCE_VAL_VALUE : Fld := ⟨R.CAD_FORCE_VAL, 0, 32⟩
/-- The register CAD_FORCE_CMD. -/
abbrev R.CAD_FORCE_CMD : Nat := 0x10080288
/-- CAD_FORCE_CMD.IDX: bits 11:0. -/
abbrev F.CAD_FORCE_CMD_IDX : Fld := ⟨R.CAD_FORCE_CMD, 0, 12⟩
/-- CAD_FORCE_CMD.QUAL: bits 14:12. -/
abbrev F.CAD_FORCE_CMD_QUAL : Fld := ⟨R.CAD_FORCE_CMD, 12, 3⟩
/-- CAD_FORCE_CMD.OP: bits 18:16. -/
abbrev F.CAD_FORCE_CMD_OP : Fld := ⟨R.CAD_FORCE_CMD, 16, 3⟩
/-- CAD_FORCE_CMD.GO: bit 31. -/
abbrev F.CAD_FORCE_CMD_GO : Fld := ⟨R.CAD_FORCE_CMD, 31, 1⟩
/-- The register CAD_FORCE_STAT. -/
abbrev R.CAD_FORCE_STAT : Nat := 0x1008028c
/-- CAD_FORCE_STAT.IDX: bits 11:0. -/
abbrev F.CAD_FORCE_STAT_IDX : Fld := ⟨R.CAD_FORCE_STAT, 0, 12⟩
/-- CAD_FORCE_STAT.RESULT: bits 15:12. -/
abbrev F.CAD_FORCE_STAT_RESULT : Fld := ⟨R.CAD_FORCE_STAT, 12, 4⟩
/-- CAD_FORCE_STAT.STATE: bits 18:16. -/
abbrev F.CAD_FORCE_STAT_STATE : Fld := ⟨R.CAD_FORCE_STAT, 16, 3⟩
/-- CAD_FORCE_STAT.PEND: bit 19. -/
abbrev F.CAD_FORCE_STAT_PEND : Fld := ⟨R.CAD_FORCE_STAT, 19, 1⟩
/-- CAD_FORCE_STAT.QUAL: bits 22:20. -/
abbrev F.CAD_FORCE_STAT_QUAL : Fld := ⟨R.CAD_FORCE_STAT, 20, 3⟩
/-- The register CAD_FORCE_CNT. -/
abbrev R.CAD_FORCE_CNT : Nat := 0x10080290
/-- CAD_FORCE_CNT.USED: bits 12:0. -/
abbrev F.CAD_FORCE_CNT_USED : Fld := ⟨R.CAD_FORCE_CNT, 0, 13⟩
/-- CAD_FORCE_CNT.ORPHAN: bits 28:16. -/
abbrev F.CAD_FORCE_CNT_ORPHAN : Fld := ⟨R.CAD_FORCE_CNT, 16, 13⟩
/-- The register CAD_CHG_CMD. -/
abbrev R.CAD_CHG_CMD : Nat := 0x100802a0
/-- CAD_CHG_CMD.OP: bits 1:0. -/
abbrev F.CAD_CHG_CMD_OP : Fld := ⟨R.CAD_CHG_CMD, 0, 2⟩
/-- CAD_CHG_CMD.REFUSE_ORPHAN: bit 4. -/
abbrev F.CAD_CHG_CMD_REFUSE_ORPHAN : Fld := ⟨R.CAD_CHG_CMD, 4, 1⟩
/-- CAD_CHG_CMD.GO: bit 31. -/
abbrev F.CAD_CHG_CMD_GO : Fld := ⟨R.CAD_CHG_CMD, 31, 1⟩
/-- The register CAD_CHG_STAT. -/
abbrev R.CAD_CHG_STAT : Nat := 0x100802a4
/-- CAD_CHG_STAT.STATE: bits 2:0. -/
abbrev F.CAD_CHG_STAT_STATE : Fld := ⟨R.CAD_CHG_STAT, 0, 3⟩
/-- CAD_CHG_STAT.RESULT: bits 15:8. -/
abbrev F.CAD_CHG_STAT_RESULT : Fld := ⟨R.CAD_CHG_STAT, 8, 8⟩
/-- The register CAD_CHG_TIMEOUT. -/
abbrev R.CAD_CHG_TIMEOUT : Nat := 0x100802a8
/-- CAD_CHG_TIMEOUT.MS: bits 23:0. -/
abbrev F.CAD_CHG_TIMEOUT_MS : Fld := ⟨R.CAD_CHG_TIMEOUT, 0, 24⟩
/-- The register CAD_CHG_DUR. -/
abbrev R.CAD_CHG_DUR : Nat := 0x100802ac
/-- CAD_CHG_DUR.D: bits 23:0. -/
abbrev F.CAD_CHG_DUR_D : Fld := ⟨R.CAD_CHG_DUR, 0, 24⟩
/-- The register CAD_CHG_STAGE_LO. -/
abbrev R.CAD_CHG_STAGE_LO : Nat := 0x100802b0
/-- CAD_CHG_STAGE_LO.BASE_LO: bits 31:16. -/
abbrev F.CAD_CHG_STAGE_LO_BASE_LO : Fld := ⟨R.CAD_CHG_STAGE_LO, 16, 16⟩
/-- The register CAD_CHG_STAGE_HI. -/
abbrev R.CAD_CHG_STAGE_HI : Nat := 0x100802b4
/-- CAD_CHG_STAGE_HI.BASE_HI: bits 7:0. -/
abbrev F.CAD_CHG_STAGE_HI_BASE_HI : Fld := ⟨R.CAD_CHG_STAGE_HI, 0, 8⟩
/-- The register CAD_CHG_CNT. -/
abbrev R.CAD_CHG_CNT : Nat := 0x100802b8
/-- CAD_CHG_CNT.NCONV: bits 15:0. -/
abbrev F.CAD_CHG_CNT_NCONV : Fld := ⟨R.CAD_CHG_CNT, 0, 16⟩
/-- CAD_CHG_CNT.NINIT: bits 31:16. -/
abbrev F.CAD_CHG_CNT_NINIT : Fld := ⟨R.CAD_CHG_CNT, 16, 16⟩

/-! ## SPK -/

/-- The register SPK_CFG. -/
abbrev R.SPK_CFG : Nat := 0x100b0040
/-- SPK_CFG.RATE: bit 0. -/
abbrev F.SPK_CFG_RATE : Fld := ⟨R.SPK_CFG, 0, 1⟩
/-- SPK_CFG.TAG_EN: bit 1. -/
abbrev F.SPK_CFG_TAG_EN : Fld := ⟨R.SPK_CFG, 1, 1⟩
/-- SPK_CFG.ETYPE: bits 31:16. -/
abbrev F.SPK_CFG_ETYPE : Fld := ⟨R.SPK_CFG, 16, 16⟩
/-- The register SPK_DAk. -/
abbrev R.SPK_DAk (k : Nat) : Nat := 0x100b0044 + 0x4 * k
/-- SPK_DAk.DA: bits 31:0, for k = 1 bits 15:0. -/
abbrev F.SPK_DAk_DA (k : Nat) : Fld := ⟨R.SPK_DAk k, 0, if k = 0 then 32 else 16⟩
/-- The register SPK_PERIOD. -/
abbrev R.SPK_PERIOD : Nat := 0x100b004c
/-- SPK_PERIOD.PERIOD: bits 19:0. -/
abbrev F.SPK_PERIOD_PERIOD : Fld := ⟨R.SPK_PERIOD, 0, 20⟩
/-- The register SPK_PHASE. -/
abbrev R.SPK_PHASE : Nat := 0x100b0050
/-- SPK_PHASE.PHASE: bits 19:0. -/
abbrev F.SPK_PHASE_PHASE : Fld := ⟨R.SPK_PHASE, 0, 20⟩
/-- The register SPK_TIMING. -/
abbrev R.SPK_TIMING : Nat := 0x100b0054
/-- SPK_TIMING.GUARD: bits 15:0. -/
abbrev F.SPK_TIMING_GUARD : Fld := ⟨R.SPK_TIMING, 0, 16⟩
/-- SPK_TIMING.BUDGET: bits 31:16. -/
abbrev F.SPK_TIMING_BUDGET : Fld := ⟨R.SPK_TIMING, 16, 16⟩
/-- The register SPK_MBX_CFG. -/
abbrev R.SPK_MBX_CFG : Nat := 0x100b0058
/-- SPK_MBX_CFG.FRAMES: bits 4:0. -/
abbrev F.SPK_MBX_CFG_FRAMES : Fld := ⟨R.SPK_MBX_CFG, 0, 5⟩
/-- SPK_MBX_CFG.RETRY: bits 15:8. -/
abbrev F.SPK_MBX_CFG_RETRY : Fld := ⟨R.SPK_MBX_CFG, 8, 8⟩
/-- SPK_MBX_CFG.TRIES: bits 20:16. -/
abbrev F.SPK_MBX_CFG_TRIES : Fld := ⟨R.SPK_MBX_CFG, 16, 5⟩
/-- The register SPK_TBL_BASE_LO. -/
abbrev R.SPK_TBL_BASE_LO : Nat := 0x100b005c
/-- SPK_TBL_BASE_LO.BASE_LO: bits 31:16. -/
abbrev F.SPK_TBL_BASE_LO_BASE_LO : Fld := ⟨R.SPK_TBL_BASE_LO, 16, 16⟩
/-- The register SPK_TBL_BASE_HI. -/
abbrev R.SPK_TBL_BASE_HI : Nat := 0x100b0060
/-- SPK_TBL_BASE_HI.BASE_HI: bits 7:0. -/
abbrev F.SPK_TBL_BASE_HI_BASE_HI : Fld := ⟨R.SPK_TBL_BASE_HI, 0, 8⟩
/-- The register SPK_TBL_CMD. -/
abbrev R.SPK_TBL_CMD : Nat := 0x100b0064
/-- SPK_TBL_CMD.NODE: bits 9:0. -/
abbrev F.SPK_TBL_CMD_NODE : Fld := ⟨R.SPK_TBL_CMD, 0, 10⟩
/-- SPK_TBL_CMD.OP: bits 13:12. -/
abbrev F.SPK_TBL_CMD_OP : Fld := ⟨R.SPK_TBL_CMD, 12, 2⟩
/-- SPK_TBL_CMD.GO: bit 31. -/
abbrev F.SPK_TBL_CMD_GO : Fld := ⟨R.SPK_TBL_CMD, 31, 1⟩
/-- The register SPK_TBL_STAT. -/
abbrev R.SPK_TBL_STAT : Nat := 0x100b0068
/-- SPK_TBL_STAT.PEND: bit 0. -/
abbrev F.SPK_TBL_STAT_PEND : Fld := ⟨R.SPK_TBL_STAT, 0, 1⟩
/-- SPK_TBL_STAT.RESULT: bits 7:4. -/
abbrev F.SPK_TBL_STAT_RESULT : Fld := ⟨R.SPK_TBL_STAT, 4, 4⟩
/-- SPK_TBL_STAT.NFRAME: bits 15:8. -/
abbrev F.SPK_TBL_STAT_NFRAME : Fld := ⟨R.SPK_TBL_STAT, 8, 8⟩
/-- SPK_TBL_STAT.CACHED: bits 22:16. -/
abbrev F.SPK_TBL_STAT_CACHED : Fld := ⟨R.SPK_TBL_STAT, 16, 7⟩
/-- The register SPK_RING_STAT. -/
abbrev R.SPK_RING_STAT : Nat := 0x100b006c
/-- SPK_RING_STAT.STATE: bits 1:0. -/
abbrev F.SPK_RING_STAT_STATE : Fld := ⟨R.SPK_RING_STAT, 0, 2⟩
/-- SPK_RING_STAT.BROKEN: bit 2. -/
abbrev F.SPK_RING_STAT_BROKEN : Fld := ⟨R.SPK_RING_STAT, 2, 1⟩
/-- SPK_RING_STAT.LINK_A: bit 3. -/
abbrev F.SPK_RING_STAT_LINK_A : Fld := ⟨R.SPK_RING_STAT, 3, 1⟩
/-- SPK_RING_STAT.LINK_B: bit 4. -/
abbrev F.SPK_RING_STAT_LINK_B : Fld := ⟨R.SPK_RING_STAT, 4, 1⟩
/-- SPK_RING_STAT.LATE: bit 5. -/
abbrev F.SPK_RING_STAT_LATE : Fld := ⟨R.SPK_RING_STAT, 5, 1⟩
/-- The register SPK_BREAK. -/
abbrev R.SPK_BREAK : Nat := 0x100b0070
/-- SPK_BREAK.SIDE_A: bits 10:0. -/
abbrev F.SPK_BREAK_SIDE_A : Fld := ⟨R.SPK_BREAK, 0, 11⟩
/-- SPK_BREAK.SIDE_B: bits 26:16. -/
abbrev F.SPK_BREAK_SIDE_B : Fld := ⟨R.SPK_BREAK, 16, 11⟩
/-- The register SPK_PASS_LO. -/
abbrev R.SPK_PASS_LO : Nat := 0x100b0074
/-- SPK_PASS_LO.PASS: bits 31:0. -/
abbrev F.SPK_PASS_LO_PASS : Fld := ⟨R.SPK_PASS_LO, 0, 32⟩
/-- The register SPK_PASS_HI. -/
abbrev R.SPK_PASS_HI : Nat := 0x100b0078
/-- SPK_PASS_HI.PASS_HI: bits 15:0. -/
abbrev F.SPK_PASS_HI_PASS_HI : Fld := ⟨R.SPK_PASS_HI, 0, 16⟩
/-- The register SPK_PASS_TIME. -/
abbrev R.SPK_PASS_TIME : Nat := 0x100b007c
/-- SPK_PASS_TIME.RET: bits 15:0. -/
abbrev F.SPK_PASS_TIME_RET : Fld := ⟨R.SPK_PASS_TIME, 0, 16⟩
/-- SPK_PASS_TIME.DEP: bits 31:16. -/
abbrev F.SPK_PASS_TIME_DEP : Fld := ⟨R.SPK_PASS_TIME, 16, 16⟩
/-- The register SPK_PASS_MAX. -/
abbrev R.SPK_PASS_MAX : Nat := 0x100b0080
/-- SPK_PASS_MAX.MAX: bits 15:0. -/
abbrev F.SPK_PASS_MAX_MAX : Fld := ⟨R.SPK_PASS_MAX, 0, 16⟩
/-- The register SPK_STN_CNT. -/
abbrev R.SPK_STN_CNT : Nat := 0x100b0084
/-- SPK_STN_CNT.MISSING: bits 10:0. -/
abbrev F.SPK_STN_CNT_MISSING : Fld := ⟨R.SPK_STN_CNT, 0, 11⟩
/-- SPK_STN_CNT.FAILED: bits 26:16. -/
abbrev F.SPK_STN_CNT_FAILED : Fld := ⟨R.SPK_STN_CNT, 16, 11⟩
/-- The register SPK_ERR_CNT. -/
abbrev R.SPK_ERR_CNT : Nat := 0x100b0088
/-- SPK_ERR_CNT.FCS: bits 15:0. -/
abbrev F.SPK_ERR_CNT_FCS : Fld := ⟨R.SPK_ERR_CNT, 0, 16⟩
/-- SPK_ERR_CNT.TAG: bits 31:16. -/
abbrev F.SPK_ERR_CNT_TAG : Fld := ⟨R.SPK_ERR_CNT, 16, 16⟩
/-- The register SPK_STN_WD. -/
abbrev R.SPK_STN_WD : Nat := 0x100b008c
/-- SPK_STN_WD.WD_MS: bits 15:0. -/
abbrev F.SPK_STN_WD_WD_MS : Fld := ⟨R.SPK_STN_WD, 0, 16⟩
/-- The register SPK_MBXq_BASE_LO. -/
abbrev R.SPK_MBXq_BASE_LO (q : Nat) : Nat := 0x100b00a0 + 0x8 * q
/-- SPK_MBXq_BASE_LO.LOG2N: bits 3:0. -/
abbrev F.SPK_MBXq_BASE_LO_LOG2N (q : Nat) : Fld := ⟨R.SPK_MBXq_BASE_LO q, 0, 4⟩
/-- SPK_MBXq_BASE_LO.BASE_LO: bits 31:12. -/
abbrev F.SPK_MBXq_BASE_LO_BASE_LO (q : Nat) : Fld := ⟨R.SPK_MBXq_BASE_LO q, 12, 20⟩
/-- The register SPK_MBXq_BASE_HI. -/
abbrev R.SPK_MBXq_BASE_HI (q : Nat) : Nat := 0x100b00a4 + 0x8 * q
/-- SPK_MBXq_BASE_HI.BASE_HI: bits 7:0. -/
abbrev F.SPK_MBXq_BASE_HI_BASE_HI (q : Nat) : Fld := ⟨R.SPK_MBXq_BASE_HI q, 0, 8⟩
/-- The register SPK_MBXq_IDX. -/
abbrev R.SPK_MBXq_IDX (q : Nat) : Nat := 0x100b00b0 + 0x4 * q
/-- SPK_MBXq_IDX.HEAD: bits 15:0. -/
abbrev F.SPK_MBXq_IDX_HEAD (q : Nat) : Fld := ⟨R.SPK_MBXq_IDX q, 0, 16⟩
/-- SPK_MBXq_IDX.TAIL: bits 31:16. -/
abbrev F.SPK_MBXq_IDX_TAIL (q : Nat) : Fld := ⟨R.SPK_MBXq_IDX q, 16, 16⟩

/-! ## LPE -/

/-- The register LPE_TBL_BASE_LO. -/
abbrev R.LPE_TBL_BASE_LO : Nat := 0x10090040
/-- LPE_TBL_BASE_LO.BASE_LO: bits 31:16. -/
abbrev F.LPE_TBL_BASE_LO_BASE_LO : Fld := ⟨R.LPE_TBL_BASE_LO, 16, 16⟩
/-- The register LPE_TBL_BASE_HI. -/
abbrev R.LPE_TBL_BASE_HI : Nat := 0x10090044
/-- LPE_TBL_BASE_HI.BASE_HI: bits 7:0. -/
abbrev F.LPE_TBL_BASE_HI_BASE_HI : Fld := ⟨R.LPE_TBL_BASE_HI, 0, 8⟩
/-- The register LPE_SLOT_CMD. -/
abbrev R.LPE_SLOT_CMD : Nat := 0x10090048
/-- LPE_SLOT_CMD.SLOT: bits 5:0. -/
abbrev F.LPE_SLOT_CMD_SLOT : Fld := ⟨R.LPE_SLOT_CMD, 0, 6⟩
/-- LPE_SLOT_CMD.OP: bits 10:8. -/
abbrev F.LPE_SLOT_CMD_OP : Fld := ⟨R.LPE_SLOT_CMD, 8, 3⟩
/-- LPE_SLOT_CMD.GO: bit 31. -/
abbrev F.LPE_SLOT_CMD_GO : Fld := ⟨R.LPE_SLOT_CMD, 31, 1⟩
/-- The register LPE_SLOT_RES. -/
abbrev R.LPE_SLOT_RES : Nat := 0x1009004c
/-- LPE_SLOT_RES.PEND: bit 0. -/
abbrev F.LPE_SLOT_RES_PEND : Fld := ⟨R.LPE_SLOT_RES, 0, 1⟩
/-- LPE_SLOT_RES.RESULT: bits 7:4. -/
abbrev F.LPE_SLOT_RES_RESULT : Fld := ⟨R.LPE_SLOT_RES, 4, 4⟩
/-- LPE_SLOT_RES.SLOT: bits 13:8. -/
abbrev F.LPE_SLOT_RES_SLOT : Fld := ⟨R.LPE_SLOT_RES, 8, 6⟩
/-- The register LPE_LOAD. -/
abbrev R.LPE_LOAD : Nat := 0x10090050
/-- LPE_LOAD.EVALS: bits 19:0. -/
abbrev F.LPE_LOAD_EVALS : Fld := ⟨R.LPE_LOAD, 0, 20⟩
/-- The register LPE_SLOTn_STAT. -/
abbrev R.LPE_SLOTn_STAT (n : Nat) : Nat := 0x10090100 + 0x8 * n
/-- LPE_SLOTn_STAT.STATE: bits 1:0. -/
abbrev F.LPE_SLOTn_STAT_STATE (n : Nat) : Fld := ⟨R.LPE_SLOTn_STAT n, 0, 2⟩
/-- LPE_SLOTn_STAT.WIN: bits 4:2. -/
abbrev F.LPE_SLOTn_STAT_WIN (n : Nat) : Fld := ⟨R.LPE_SLOTn_STAT n, 2, 3⟩
/-- LPE_SLOTn_STAT.COMP_OFF: bit 5. -/
abbrev F.LPE_SLOTn_STAT_COMP_OFF (n : Nat) : Fld := ⟨R.LPE_SLOTn_STAT n, 5, 1⟩
/-- LPE_SLOTn_STAT.SAT: bit 6. -/
abbrev F.LPE_SLOTn_STAT_SAT (n : Nat) : Fld := ⟨R.LPE_SLOTn_STAT n, 6, 1⟩
/-- LPE_SLOTn_STAT.MODES: bits 15:8. -/
abbrev F.LPE_SLOTn_STAT_MODES (n : Nat) : Fld := ⟨R.LPE_SLOTn_STAT n, 8, 8⟩
/-- LPE_SLOTn_STAT.OVR: bits 31:16. -/
abbrev F.LPE_SLOTn_STAT_OVR (n : Nat) : Fld := ⟨R.LPE_SLOTn_STAT n, 16, 16⟩
/-- The register LPE_SLOTn_OUT. -/
abbrev R.LPE_SLOTn_OUT (n : Nat) : Nat := 0x10090104 + 0x8 * n
/-- LPE_SLOTn_OUT.OUT: bits 31:0. -/
abbrev F.LPE_SLOTn_OUT_OUT (n : Nat) : Fld := ⟨R.LPE_SLOTn_OUT n, 0, 32⟩
/-- The register LPE_GRD_CFG. -/
abbrev R.LPE_GRD_CFG : Nat := 0x10090300
/-- LPE_GRD_CFG.MAXGAP: bits 23:0. -/
abbrev F.LPE_GRD_CFG_MAXGAP : Fld := ⟨R.LPE_GRD_CFG, 0, 24⟩
/-- LPE_GRD_CFG.SAFE_ALL: bit 31. -/
abbrev F.LPE_GRD_CFG_SAFE_ALL : Fld := ⟨R.LPE_GRD_CFG, 31, 1⟩
/-- The register LPE_GRD_BASE_LO. -/
abbrev R.LPE_GRD_BASE_LO : Nat := 0x10090304
/-- LPE_GRD_BASE_LO.BASE_LO: bits 31:6. -/
abbrev F.LPE_GRD_BASE_LO_BASE_LO : Fld := ⟨R.LPE_GRD_BASE_LO, 6, 26⟩
/-- The register LPE_GRD_BASE_HI. -/
abbrev R.LPE_GRD_BASE_HI : Nat := 0x10090308
/-- LPE_GRD_BASE_HI.BASE_HI: bits 7:0. -/
abbrev F.LPE_GRD_BASE_HI_BASE_HI : Fld := ⟨R.LPE_GRD_BASE_HI, 0, 8⟩
/-- The register LPE_GRD_CMD. -/
abbrev R.LPE_GRD_CMD : Nat := 0x1009030c
/-- LPE_GRD_CMD.OP: bits 1:0. -/
abbrev F.LPE_GRD_CMD_OP : Fld := ⟨R.LPE_GRD_CMD, 0, 2⟩
/-- LPE_GRD_CMD.GO: bit 31. -/
abbrev F.LPE_GRD_CMD_GO : Fld := ⟨R.LPE_GRD_CMD, 31, 1⟩
/-- The register LPE_GRD_STAT. -/
abbrev R.LPE_GRD_STAT : Nat := 0x10090310
/-- LPE_GRD_STAT.BANK: bit 0. -/
abbrev F.LPE_GRD_STAT_BANK : Fld := ⟨R.LPE_GRD_STAT, 0, 1⟩
/-- LPE_GRD_STAT.PEND: bit 1. -/
abbrev F.LPE_GRD_STAT_PEND : Fld := ⟨R.LPE_GRD_STAT, 1, 1⟩
/-- LPE_GRD_STAT.RESULT: bits 7:4. -/
abbrev F.LPE_GRD_STAT_RESULT : Fld := ⟨R.LPE_GRD_STAT, 4, 4⟩
/-- LPE_GRD_STAT.N_ENT: bits 21:8. -/
abbrev F.LPE_GRD_STAT_N_ENT : Fld := ⟨R.LPE_GRD_STAT, 8, 14⟩
/-- The register LPE_GRD_VER. -/
abbrev R.LPE_GRD_VER : Nat := 0x10090314
/-- LPE_GRD_VER.VERSION: bits 31:0. -/
abbrev F.LPE_GRD_VER_VERSION : Fld := ⟨R.LPE_GRD_VER, 0, 32⟩
/-- The register LPE_GRD_HASHk. -/
abbrev R.LPE_GRD_HASHk (k : Nat) : Nat := 0x10090320 + 0x4 * k
/-- LPE_GRD_HASHk.HASH: bits 31:0. -/
abbrev F.LPE_GRD_HASHk_HASH (k : Nat) : Fld := ⟨R.LPE_GRD_HASHk k, 0, 32⟩
/-- The register LPE_GRD_CNT0. -/
abbrev R.LPE_GRD_CNT0 : Nat := 0x10090340
/-- LPE_GRD_CNT0.CLIPPED: bits 15:0. -/
abbrev F.LPE_GRD_CNT0_CLIPPED : Fld := ⟨R.LPE_GRD_CNT0, 0, 16⟩
/-- LPE_GRD_CNT0.SLEWED: bits 31:16. -/
abbrev F.LPE_GRD_CNT0_SLEWED : Fld := ⟨R.LPE_GRD_CNT0, 16, 16⟩
/-- The register LPE_GRD_CNT1. -/
abbrev R.LPE_GRD_CNT1 : Nat := 0x10090344
/-- LPE_GRD_CNT1.HELD: bits 15:0. -/
abbrev F.LPE_GRD_CNT1_HELD : Fld := ⟨R.LPE_GRD_CNT1, 0, 16⟩
/-- LPE_GRD_CNT1.SAFE: bits 31:16. -/
abbrev F.LPE_GRD_CNT1_SAFE : Fld := ⟨R.LPE_GRD_CNT1, 16, 16⟩
/-- The register LPE_GRD_UNG. -/
abbrev R.LPE_GRD_UNG : Nat := 0x10090348
/-- LPE_GRD_UNG.COUNT: bits 13:0. -/
abbrev F.LPE_GRD_UNG_COUNT : Fld := ⟨R.LPE_GRD_UNG, 0, 14⟩
/-- The register LPE_GRD_PASS. -/
abbrev R.LPE_GRD_PASS : Nat := 0x1009034c
/-- LPE_GRD_PASS.DUR: bits 15:0. -/
abbrev F.LPE_GRD_PASS_DUR : Fld := ⟨R.LPE_GRD_PASS, 0, 16⟩
/-- LPE_GRD_PASS.COUNT: bits 31:16. -/
abbrev F.LPE_GRD_PASS_COUNT : Fld := ⟨R.LPE_GRD_PASS, 16, 16⟩

/-! ## SLV -/

/-- The register SLV_CFG. -/
abbrev R.SLV_CFG : Nat := 0x100a0040
/-- SLV_CFG.TILES_EN: bits 7:0. -/
abbrev F.SLV_CFG_TILES_EN : Fld := ⟨R.SLV_CFG, 0, 8⟩
/-- SLV_CFG.RANGE_EVENT: bit 8. -/
abbrev F.SLV_CFG_RANGE_EVENT : Fld := ⟨R.SLV_CFG, 8, 1⟩
/-- The register SLV_TILE_STAT. -/
abbrev R.SLV_TILE_STAT : Nat := 0x100a0044
/-- SLV_TILE_STAT.BUSY: bits 7:0. -/
abbrev F.SLV_TILE_STAT_BUSY : Fld := ⟨R.SLV_TILE_STAT, 0, 8⟩
/-- The register SLV_ECC. -/
abbrev R.SLV_ECC : Nat := 0x100a0048
/-- SLV_ECC.CORR: bits 15:0. -/
abbrev F.SLV_ECC_CORR : Fld := ⟨R.SLV_ECC, 0, 16⟩
/-- SLV_ECC.UNCORR: bits 23:16. -/
abbrev F.SLV_ECC_UNCORR : Fld := ⟨R.SLV_ECC, 16, 8⟩
/-- The register SLV_MODEL_STAT. -/
abbrev R.SLV_MODEL_STAT : Nat := 0x100a0050
/-- SLV_MODEL_STAT.STATE: bits 1:0. -/
abbrev F.SLV_MODEL_STAT_STATE : Fld := ⟨R.SLV_MODEL_STAT, 0, 2⟩
/-- SLV_MODEL_STAT.RESULT: bits 11:4. -/
abbrev F.SLV_MODEL_STAT_RESULT : Fld := ⟨R.SLV_MODEL_STAT, 4, 8⟩
/-- SLV_MODEL_STAT.RES_KIB: bits 31:16. -/
abbrev F.SLV_MODEL_STAT_RES_KIB : Fld := ⟨R.SLV_MODEL_STAT, 16, 16⟩
/-- The register SLV_MODEL_ERRPOS. -/
abbrev R.SLV_MODEL_ERRPOS : Nat := 0x100a0054
/-- SLV_MODEL_ERRPOS.OFFSET: bits 23:0. -/
abbrev F.SLV_MODEL_ERRPOS_OFFSET : Fld := ⟨R.SLV_MODEL_ERRPOS, 0, 24⟩
/-- The register SLV_MODEL_FSZ. -/
abbrev R.SLV_MODEL_FSZ : Nat := 0x100a0058
/-- SLV_MODEL_FSZ.KIB: bits 23:0. -/
abbrev F.SLV_MODEL_FSZ_KIB : Fld := ⟨R.SLV_MODEL_FSZ, 0, 24⟩
/-- The register SLV_MODEL_HASHk. -/
abbrev R.SLV_MODEL_HASHk (k : Nat) : Nat := 0x100a0060 + 0x4 * k
/-- SLV_MODEL_HASHk.HASH: bits 31:0. -/
abbrev F.SLV_MODEL_HASHk_HASH (k : Nat) : Fld := ⟨R.SLV_MODEL_HASHk k, 0, 32⟩
/-- The register SLV_RANGE_INFO. -/
abbrev R.SLV_RANGE_INFO : Nat := 0x100a0080
/-- SLV_RANGE_INFO.PHASE: bits 3:0. -/
abbrev F.SLV_RANGE_INFO_PHASE : Fld := ⟨R.SLV_RANGE_INFO, 0, 4⟩
/-- SLV_RANGE_INFO.KIND: bits 7:4. -/
abbrev F.SLV_RANGE_INFO_KIND : Fld := ⟨R.SLV_RANGE_INFO, 4, 4⟩
/-- SLV_RANGE_INFO.BLOCK: bits 23:8. -/
abbrev F.SLV_RANGE_INFO_BLOCK : Fld := ⟨R.SLV_RANGE_INFO, 8, 16⟩
/-- SLV_RANGE_INFO.NEED: bits 31:24. -/
abbrev F.SLV_RANGE_INFO_NEED : Fld := ⟨R.SLV_RANGE_INFO, 24, 8⟩
/-- The register SLV_RANGE_JOB. -/
abbrev R.SLV_RANGE_JOB : Nat := 0x100a0084
/-- SLV_RANGE_JOB.TEMPLATE: bits 7:0. -/
abbrev F.SLV_RANGE_JOB_TEMPLATE : Fld := ⟨R.SLV_RANGE_JOB, 0, 8⟩
/-- SLV_RANGE_JOB.SEQ: bits 31:16. -/
abbrev F.SLV_RANGE_JOB_SEQ : Fld := ⟨R.SLV_RANGE_JOB, 16, 16⟩
/-- The register SLV_RANGE_CNT. -/
abbrev R.SLV_RANGE_CNT : Nat := 0x100a0088
/-- SLV_RANGE_CNT.EXC: bits 15:0. -/
abbrev F.SLV_RANGE_CNT_EXC : Fld := ⟨R.SLV_RANGE_CNT, 0, 16⟩
/-- SLV_RANGE_CNT.RETRY: bits 31:16. -/
abbrev F.SLV_RANGE_CNT_RETRY : Fld := ⟨R.SLV_RANGE_CNT, 16, 16⟩
/-- The register SLV_PIVOT_CNT. -/
abbrev R.SLV_PIVOT_CNT : Nat := 0x100a008c
/-- SLV_PIVOT_CNT.FIXED: bits 15:0. -/
abbrev F.SLV_PIVOT_CNT_FIXED : Fld := ⟨R.SLV_PIVOT_CNT, 0, 16⟩
/-- The register SLV_PHASE_Tk. -/
abbrev R.SLV_PHASE_Tk (k : Nat) : Nat := 0x100a0090 + 0x4 * k
/-- SLV_PHASE_Tk.US: bits 23:0. -/
abbrev F.SLV_PHASE_Tk_US (k : Nat) : Fld := ⟨R.SLV_PHASE_Tk k, 0, 24⟩
/-- The register SLV_ITER_T. -/
abbrev R.SLV_ITER_T : Nat := 0x100a00a8
/-- SLV_ITER_T.US: bits 23:0. -/
abbrev F.SLV_ITER_T_US : Fld := ⟨R.SLV_ITER_T, 0, 24⟩
/-- The register SLV_ITER_MAX. -/
abbrev R.SLV_ITER_MAX : Nat := 0x100a00ac
/-- SLV_ITER_MAX.US: bits 23:0. -/
abbrev F.SLV_ITER_MAX_US : Fld := ⟨R.SLV_ITER_MAX, 0, 24⟩
/-- The register SLV_TPL_BASE_LO. -/
abbrev R.SLV_TPL_BASE_LO : Nat := 0x100a0100
/-- SLV_TPL_BASE_LO.BASE_LO: bits 31:12. -/
abbrev F.SLV_TPL_BASE_LO_BASE_LO : Fld := ⟨R.SLV_TPL_BASE_LO, 12, 20⟩
/-- The register SLV_TPL_BASE_HI. -/
abbrev R.SLV_TPL_BASE_HI : Nat := 0x100a0104
/-- SLV_TPL_BASE_HI.BASE_HI: bits 7:0. -/
abbrev F.SLV_TPL_BASE_HI_BASE_HI : Fld := ⟨R.SLV_TPL_BASE_HI, 0, 8⟩
/-- The register SLV_WIN_BASE_LO. -/
abbrev R.SLV_WIN_BASE_LO : Nat := 0x100a0108
/-- SLV_WIN_BASE_LO.BASE_LO: bits 31:16. -/
abbrev F.SLV_WIN_BASE_LO_BASE_LO : Fld := ⟨R.SLV_WIN_BASE_LO, 16, 16⟩
/-- The register SLV_WIN_BASE_HI. -/
abbrev R.SLV_WIN_BASE_HI : Nat := 0x100a010c
/-- SLV_WIN_BASE_HI.BASE_HI: bits 7:0. -/
abbrev F.SLV_WIN_BASE_HI_BASE_HI : Fld := ⟨R.SLV_WIN_BASE_HI, 0, 8⟩
/-- The register SLV_TPL_CMD. -/
abbrev R.SLV_TPL_CMD : Nat := 0x100a0110
/-- SLV_TPL_CMD.TEMPLATE: bits 7:0. -/
abbrev F.SLV_TPL_CMD_TEMPLATE : Fld := ⟨R.SLV_TPL_CMD, 0, 8⟩
/-- SLV_TPL_CMD.OP: bits 9:8. -/
abbrev F.SLV_TPL_CMD_OP : Fld := ⟨R.SLV_TPL_CMD, 8, 2⟩
/-- SLV_TPL_CMD.GO: bit 31. -/
abbrev F.SLV_TPL_CMD_GO : Fld := ⟨R.SLV_TPL_CMD, 31, 1⟩
/-- The register SLV_TPL_RES. -/
abbrev R.SLV_TPL_RES : Nat := 0x100a0114
/-- SLV_TPL_RES.PEND: bit 0. -/
abbrev F.SLV_TPL_RES_PEND : Fld := ⟨R.SLV_TPL_RES, 0, 1⟩
/-- SLV_TPL_RES.RESULT: bits 7:4. -/
abbrev F.SLV_TPL_RES_RESULT : Fld := ⟨R.SLV_TPL_RES, 4, 4⟩
/-- SLV_TPL_RES.TEMPLATE: bits 15:8. -/
abbrev F.SLV_TPL_RES_TEMPLATE : Fld := ⟨R.SLV_TPL_RES, 8, 8⟩
/-- SLV_TPL_RES.ENABLED: bits 24:16. -/
abbrev F.SLV_TPL_RES_ENABLED : Fld := ⟨R.SLV_TPL_RES, 16, 9⟩
/-- The register SLV_SUBMIT. -/
abbrev R.SLV_SUBMIT : Nat := 0x100a0120
/-- SLV_SUBMIT.TEMPLATE: bits 7:0. -/
abbrev F.SLV_SUBMIT_TEMPLATE : Fld := ⟨R.SLV_SUBMIT, 0, 8⟩
/-- SLV_SUBMIT.DL_REL: bits 30:8. -/
abbrev F.SLV_SUBMIT_DL_REL : Fld := ⟨R.SLV_SUBMIT, 8, 23⟩
/-- SLV_SUBMIT.GO: bit 31. -/
abbrev F.SLV_SUBMIT_GO : Fld := ⟨R.SLV_SUBMIT, 31, 1⟩
/-- The register SLV_SUB_RES. -/
abbrev R.SLV_SUB_RES : Nat := 0x100a0124
/-- SLV_SUB_RES.RESULT: bits 7:0. -/
abbrev F.SLV_SUB_RES_RESULT : Fld := ⟨R.SLV_SUB_RES, 0, 8⟩
/-- SLV_SUB_RES.TEMPLATE: bits 15:8. -/
abbrev F.SLV_SUB_RES_TEMPLATE : Fld := ⟨R.SLV_SUB_RES, 8, 8⟩
/-- SLV_SUB_RES.SEQ: bits 31:16. -/
abbrev F.SLV_SUB_RES_SEQ : Fld := ⟨R.SLV_SUB_RES, 16, 16⟩
/-- The register SLV_CMD. -/
abbrev R.SLV_CMD : Nat := 0x100a0128
/-- SLV_CMD.TARGET: bits 7:0. -/
abbrev F.SLV_CMD_TARGET : Fld := ⟨R.SLV_CMD, 0, 8⟩
/-- SLV_CMD.OP: bits 10:8. -/
abbrev F.SLV_CMD_OP : Fld := ⟨R.SLV_CMD, 8, 3⟩
/-- SLV_CMD.GO: bit 31. -/
abbrev F.SLV_CMD_GO : Fld := ⟨R.SLV_CMD, 31, 1⟩
/-- The register SLV_RUN. -/
abbrev R.SLV_RUN : Nat := 0x100a012c
/-- SLV_RUN.TEMPLATE: bits 7:0. -/
abbrev F.SLV_RUN_TEMPLATE : Fld := ⟨R.SLV_RUN, 0, 8⟩
/-- SLV_RUN.QUEUE: bits 9:8. -/
abbrev F.SLV_RUN_QUEUE : Fld := ⟨R.SLV_RUN, 8, 2⟩
/-- SLV_RUN.PHASE: bits 13:10. -/
abbrev F.SLV_RUN_PHASE : Fld := ⟨R.SLV_RUN, 10, 4⟩
/-- SLV_RUN.VALID: bit 31. -/
abbrev F.SLV_RUN_VALID : Fld := ⟨R.SLV_RUN, 31, 1⟩
/-- The register SLV_STALL_INFO. -/
abbrev R.SLV_STALL_INFO : Nat := 0x100a0130
/-- SLV_STALL_INFO.STALLED: bit 0. -/
abbrev F.SLV_STALL_INFO_STALLED : Fld := ⟨R.SLV_STALL_INFO, 0, 1⟩
/-- SLV_STALL_INFO.WRITE: bit 1. -/
abbrev F.SLV_STALL_INFO_WRITE : Fld := ⟨R.SLV_STALL_INFO, 1, 1⟩
/-- SLV_STALL_INFO.TEMPLATE: bits 15:8. -/
abbrev F.SLV_STALL_INFO_TEMPLATE : Fld := ⟨R.SLV_STALL_INFO, 8, 8⟩
/-- The register SLV_STALL_ADDR_LO. -/
abbrev R.SLV_STALL_ADDR_LO : Nat := 0x100a0134
/-- SLV_STALL_ADDR_LO.ADDR_LO: bits 31:0. -/
abbrev F.SLV_STALL_ADDR_LO_ADDR_LO : Fld := ⟨R.SLV_STALL_ADDR_LO, 0, 32⟩
/-- The register SLV_STALL_ADDR_HI. -/
abbrev R.SLV_STALL_ADDR_HI : Nat := 0x100a0138
/-- SLV_STALL_ADDR_HI.ADDR_HI: bits 7:0. -/
abbrev F.SLV_STALL_ADDR_HI_ADDR_HI : Fld := ⟨R.SLV_STALL_ADDR_HI, 0, 8⟩
/-- The register SLV_TPL_SEL. -/
abbrev R.SLV_TPL_SEL : Nat := 0x100a0140
/-- SLV_TPL_SEL.TEMPLATE: bits 7:0. -/
abbrev F.SLV_TPL_SEL_TEMPLATE : Fld := ⟨R.SLV_TPL_SEL, 0, 8⟩
/-- The register SLV_TPL_STATUS. -/
abbrev R.SLV_TPL_STATUS : Nat := 0x100a0144
/-- SLV_TPL_STATUS.STATE: bits 3:0. -/
abbrev F.SLV_TPL_STATUS_STATE : Fld := ⟨R.SLV_TPL_STATUS, 0, 4⟩
/-- SLV_TPL_STATUS.SEQ: bits 31:16. -/
abbrev F.SLV_TPL_STATUS_SEQ : Fld := ⟨R.SLV_TPL_STATUS, 16, 16⟩
/-- The register SLV_TPL_INFO. -/
abbrev R.SLV_TPL_INFO : Nat := 0x100a0148
/-- SLV_TPL_INFO.REASON: bits 7:0. -/
abbrev F.SLV_TPL_INFO_REASON : Fld := ⟨R.SLV_TPL_INFO, 0, 8⟩
/-- SLV_TPL_INFO.STOP: bits 11:8. -/
abbrev F.SLV_TPL_INFO_STOP : Fld := ⟨R.SLV_TPL_INFO, 8, 4⟩
/-- SLV_TPL_INFO.QUEUE: bits 13:12. -/
abbrev F.SLV_TPL_INFO_QUEUE : Fld := ⟨R.SLV_TPL_INFO, 12, 2⟩
/-- SLV_TPL_INFO.ENABLED: bit 14. -/
abbrev F.SLV_TPL_INFO_ENABLED : Fld := ⟨R.SLV_TPL_INFO, 14, 1⟩
/-- SLV_TPL_INFO.CUR: bit 15. -/
abbrev F.SLV_TPL_INFO_CUR : Fld := ⟨R.SLV_TPL_INFO, 15, 1⟩
/-- SLV_TPL_INFO.ITER: bits 31:16. -/
abbrev F.SLV_TPL_INFO_ITER : Fld := ⟨R.SLV_TPL_INFO, 16, 16⟩
/-- The register SLV_TPL_DL_LO. -/
abbrev R.SLV_TPL_DL_LO : Nat := 0x100a014c
/-- SLV_TPL_DL_LO.DL_LO: bits 31:0. -/
abbrev F.SLV_TPL_DL_LO_DL_LO : Fld := ⟨R.SLV_TPL_DL_LO, 0, 32⟩
/-- The register SLV_TPL_DL_HI. -/
abbrev R.SLV_TPL_DL_HI : Nat := 0x100a0150
/-- SLV_TPL_DL_HI.DL_HI: bits 15:0. -/
abbrev F.SLV_TPL_DL_HI_DL_HI : Fld := ⟨R.SLV_TPL_DL_HI, 0, 16⟩
/-- The register SLV_FACk_STAT. -/
abbrev R.SLV_FACk_STAT (k : Nat) : Nat := 0x100a0160 + 0x10 * k
/-- SLV_FACk_STAT.VALID: bit 0. -/
abbrev F.SLV_FACk_STAT_VALID (k : Nat) : Fld := ⟨R.SLV_FACk_STAT k, 0, 1⟩
/-- SLV_FACk_STAT.BUILDING: bit 1. -/
abbrev F.SLV_FACk_STAT_BUILDING (k : Nat) : Fld := ⟨R.SLV_FACk_STAT k, 1, 1⟩
/-- SLV_FACk_STAT.HELD: bit 2. -/
abbrev F.SLV_FACk_STAT_HELD (k : Nat) : Fld := ⟨R.SLV_FACk_STAT k, 2, 1⟩
/-- SLV_FACk_STAT.GEN: bits 31:16. -/
abbrev F.SLV_FACk_STAT_GEN (k : Nat) : Fld := ⟨R.SLV_FACk_STAT k, 16, 16⟩
/-- The register SLV_FACk_KEY_LO. -/
abbrev R.SLV_FACk_KEY_LO (k : Nat) : Nat := 0x100a0164 + 0x10 * k
/-- SLV_FACk_KEY_LO.KEY_LO: bits 31:0. -/
abbrev F.SLV_FACk_KEY_LO_KEY_LO (k : Nat) : Fld := ⟨R.SLV_FACk_KEY_LO k, 0, 32⟩
/-- The register SLV_FACk_KEY_HI. -/
abbrev R.SLV_FACk_KEY_HI (k : Nat) : Nat := 0x100a0168 + 0x10 * k
/-- SLV_FACk_KEY_HI.KEY_HI: bits 31:0. -/
abbrev F.SLV_FACk_KEY_HI_KEY_HI (k : Nat) : Fld := ⟨R.SLV_FACk_KEY_HI k, 0, 32⟩
/-- The register SLV_FACk_NNZ. -/
abbrev R.SLV_FACk_NNZ (k : Nat) : Nat := 0x100a016c + 0x10 * k
/-- SLV_FACk_NNZ.LNNZ: bits 31:0. -/
abbrev F.SLV_FACk_NNZ_LNNZ (k : Nat) : Fld := ⟨R.SLV_FACk_NNZ k, 0, 32⟩
/-- The register SLV_DL_CNT. -/
abbrev R.SLV_DL_CNT : Nat := 0x100a01a0
/-- SLV_DL_CNT.MISSED: bits 15:0. -/
abbrev F.SLV_DL_CNT_MISSED : Fld := ⟨R.SLV_DL_CNT, 0, 16⟩
/-- SLV_DL_CNT.ABORTED: bits 31:16. -/
abbrev F.SLV_DL_CNT_ABORTED : Fld := ⟨R.SLV_DL_CNT, 16, 16⟩
/-- The register SLV_PREEMPT. -/
abbrev R.SLV_PREEMPT : Nat := 0x100a01a4
/-- SLV_PREEMPT.COUNT: bits 15:0. -/
abbrev F.SLV_PREEMPT_COUNT : Fld := ⟨R.SLV_PREEMPT, 0, 16⟩
/-- SLV_PREEMPT.MAX_LAT: bits 31:16. -/
abbrev F.SLV_PREEMPT_MAX_LAT : Fld := ⟨R.SLV_PREEMPT, 16, 16⟩
/-- The register SLV_REJ. -/
abbrev R.SLV_REJ : Nat := 0x100a01a8
/-- SLV_REJ.REASON: bits 7:0. -/
abbrev F.SLV_REJ_REASON : Fld := ⟨R.SLV_REJ, 0, 8⟩
/-- SLV_REJ.TEMPLATE: bits 15:8. -/
abbrev F.SLV_REJ_TEMPLATE : Fld := ⟨R.SLV_REJ, 8, 8⟩
/-- SLV_REJ.COUNT: bits 31:16. -/
abbrev F.SLV_REJ_COUNT : Fld := ⟨R.SLV_REJ, 16, 16⟩

/-! ## MTR -/

/-- The register MTR_ELEC_CFG. -/
abbrev R.MTR_ELEC_CFG : Nat := 0x100e0040
/-- MTR_ELEC_CFG.NOMINAL: bit 0. -/
abbrev F.MTR_ELEC_CFG_NOMINAL : Fld := ⟨R.MTR_ELEC_CFG, 0, 1⟩
/-- MTR_ELEC_CFG.MODE0: bits 5:4. -/
abbrev F.MTR_ELEC_CFG_MODE0 : Fld := ⟨R.MTR_ELEC_CFG, 4, 2⟩
/-- MTR_ELEC_CFG.MODE1: bits 7:6. -/
abbrev F.MTR_ELEC_CFG_MODE1 : Fld := ⟨R.MTR_ELEC_CFG, 6, 2⟩
/-- MTR_ELEC_CFG.HSUB: bit 8. -/
abbrev F.MTR_ELEC_CFG_HSUB : Fld := ⟨R.MTR_ELEC_CFG, 8, 1⟩
/-- MTR_ELEC_CFG.ZC_TMO: bits 23:16. -/
abbrev F.MTR_ELEC_CFG_ZC_TMO : Fld := ⟨R.MTR_ELEC_CFG, 16, 8⟩
/-- The register MTR_RTD_CFG. -/
abbrev R.MTR_RTD_CFG : Nat := 0x100e0044
/-- MTR_RTD_CFG.TYPE: bits 3:0. -/
abbrev F.MTR_RTD_CFG_TYPE : Fld := ⟨R.MTR_RTD_CFG, 0, 4⟩
/-- MTR_RTD_CFG.EN: bits 11:8. -/
abbrev F.MTR_RTD_CFG_EN : Fld := ⟨R.MTR_RTD_CFG, 8, 4⟩
/-- The register MTR_LANE_CFG. -/
abbrev R.MTR_LANE_CFG : Nat := 0x100e0048
/-- MTR_LANE_CFG.TICK_MS: bits 9:0. -/
abbrev F.MTR_LANE_CFG_TICK_MS : Fld := ⟨R.MTR_LANE_CFG, 0, 10⟩
/-- MTR_LANE_CFG.INTERVAL: bits 15:10. -/
abbrev F.MTR_LANE_CFG_INTERVAL : Fld := ⟨R.MTR_LANE_CFG, 10, 6⟩
/-- MTR_LANE_CFG.CHKPT: bits 27:16. -/
abbrev F.MTR_LANE_CFG_CHKPT : Fld := ⟨R.MTR_LANE_CFG, 16, 12⟩
/-- MTR_LANE_CFG.SEAL_EN: bit 28. -/
abbrev F.MTR_LANE_CFG_SEAL_EN : Fld := ⟨R.MTR_LANE_CFG, 28, 1⟩
/-- The register MTR_LTBL_BASE. -/
abbrev R.MTR_LTBL_BASE : Nat := 0x100e004c
/-- MTR_LTBL_BASE.BASE: bits 23:0. -/
abbrev F.MTR_LTBL_BASE_BASE : Fld := ⟨R.MTR_LTBL_BASE, 0, 24⟩
/-- The register MTR_VIEW_BASE. -/
abbrev R.MTR_VIEW_BASE : Nat := 0x100e0050
/-- MTR_VIEW_BASE.BASE: bits 23:0. -/
abbrev F.MTR_VIEW_BASE_BASE : Fld := ⟨R.MTR_VIEW_BASE, 0, 24⟩
/-- MTR_VIEW_BASE.VEN: bit 31. -/
abbrev F.MTR_VIEW_BASE_VEN : Fld := ⟨R.MTR_VIEW_BASE, 31, 1⟩
/-- The register MTR_HARM_BASE. -/
abbrev R.MTR_HARM_BASE : Nat := 0x100e0054
/-- MTR_HARM_BASE.BASE: bits 23:0. -/
abbrev F.MTR_HARM_BASE_BASE : Fld := ⟨R.MTR_HARM_BASE, 0, 24⟩
/-- MTR_HARM_BASE.LOG2N: bits 27:24. -/
abbrev F.MTR_HARM_BASE_LOG2N : Fld := ⟨R.MTR_HARM_BASE, 24, 4⟩
/-- MTR_HARM_BASE.HEN: bit 31. -/
abbrev F.MTR_HARM_BASE_HEN : Fld := ⟨R.MTR_HARM_BASE, 31, 1⟩
/-- The register MTR_HARM_IDX. -/
abbrev R.MTR_HARM_IDX : Nat := 0x100e0058
/-- MTR_HARM_IDX.WR: bits 15:0. -/
abbrev F.MTR_HARM_IDX_WR : Fld := ⟨R.MTR_HARM_IDX, 0, 16⟩
/-- MTR_HARM_IDX.RD: bits 31:16. -/
abbrev F.MTR_HARM_IDX_RD : Fld := ⟨R.MTR_HARM_IDX, 16, 16⟩
/-- The register MTR_LANE_CMD. -/
abbrev R.MTR_LANE_CMD : Nat := 0x100e005c
/-- MTR_LANE_CMD.LANE: bits 10:0. -/
abbrev F.MTR_LANE_CMD_LANE : Fld := ⟨R.MTR_LANE_CMD, 0, 11⟩
/-- MTR_LANE_CMD.OP: bits 17:16. -/
abbrev F.MTR_LANE_CMD_OP : Fld := ⟨R.MTR_LANE_CMD, 16, 2⟩
/-- MTR_LANE_CMD.GO: bit 31. -/
abbrev F.MTR_LANE_CMD_GO : Fld := ⟨R.MTR_LANE_CMD, 31, 1⟩
/-- The register MTR_LANE_RES. -/
abbrev R.MTR_LANE_RES : Nat := 0x100e0060
/-- MTR_LANE_RES.PEND: bit 0. -/
abbrev F.MTR_LANE_RES_PEND : Fld := ⟨R.MTR_LANE_RES, 0, 1⟩
/-- MTR_LANE_RES.RESULT: bits 7:4. -/
abbrev F.MTR_LANE_RES_RESULT : Fld := ⟨R.MTR_LANE_RES, 4, 4⟩
/-- MTR_LANE_RES.LANE: bits 18:8. -/
abbrev F.MTR_LANE_RES_LANE : Fld := ⟨R.MTR_LANE_RES, 8, 11⟩
/-- MTR_LANE_RES.ENABLED: bits 31:20. -/
abbrev F.MTR_LANE_RES_ENABLED : Fld := ⟨R.MTR_LANE_RES, 20, 12⟩
/-- The register MTR_LANE_CLR. -/
abbrev R.MTR_LANE_CLR : Nat := 0x100e0064
/-- MTR_LANE_CLR.LANE: bits 10:0. -/
abbrev F.MTR_LANE_CLR_LANE : Fld := ⟨R.MTR_LANE_CLR, 0, 11⟩
/-- MTR_LANE_CLR.GO: bit 31. -/
abbrev F.MTR_LANE_CLR_GO : Fld := ⟨R.MTR_LANE_CLR, 31, 1⟩
/-- The register MTR_ZC_STAT. -/
abbrev R.MTR_ZC_STAT : Nat := 0x100e0068
/-- MTR_ZC_STAT.NOZC0: bits 2:0. -/
abbrev F.MTR_ZC_STAT_NOZC0 : Fld := ⟨R.MTR_ZC_STAT, 0, 3⟩
/-- MTR_ZC_STAT.NOZC1: bits 6:4. -/
abbrev F.MTR_ZC_STAT_NOZC1 : Fld := ⟨R.MTR_ZC_STAT, 4, 3⟩
/-- MTR_ZC_STAT.REF0: bits 9:8. -/
abbrev F.MTR_ZC_STAT_REF0 : Fld := ⟨R.MTR_ZC_STAT, 8, 2⟩
/-- MTR_ZC_STAT.REF1: bits 11:10. -/
abbrev F.MTR_ZC_STAT_REF1 : Fld := ⟨R.MTR_ZC_STAT, 10, 2⟩
/-- The register MTR_BILL_SEQ. -/
abbrev R.MTR_BILL_SEQ : Nat := 0x100e006c
/-- MTR_BILL_SEQ.SEQ: bits 31:0. -/
abbrev F.MTR_BILL_SEQ_SEQ : Fld := ⟨R.MTR_BILL_SEQ, 0, 32⟩
/-- The register MTR_BILL_ACK. -/
abbrev R.MTR_BILL_ACK : Nat := 0x100e0070
/-- MTR_BILL_ACK.ACK: bits 31:0. -/
abbrev F.MTR_BILL_ACK_ACK : Fld := ⟨R.MTR_BILL_ACK, 0, 32⟩
/-- The register MTR_BILL_STAT. -/
abbrev R.MTR_BILL_STAT : Nat := 0x100e0074
/-- MTR_BILL_STAT.FREE: bits 23:0. -/
abbrev F.MTR_BILL_STAT_FREE : Fld := ⟨R.MTR_BILL_STAT, 0, 24⟩
/-- MTR_BILL_STAT.DROP: bits 31:24. -/
abbrev F.MTR_BILL_STAT_DROP : Fld := ⟨R.MTR_BILL_STAT, 24, 8⟩
/-- The register MTR_PF_STAT. -/
abbrev R.MTR_PF_STAT : Nat := 0x100e0078
/-- MTR_PF_STAT.SRC: bits 1:0. -/
abbrev F.MTR_PF_STAT_SRC : Fld := ⟨R.MTR_PF_STAT, 0, 2⟩
/-- MTR_PF_STAT.CLEAN: bit 2. -/
abbrev F.MTR_PF_STAT_CLEAN : Fld := ⟨R.MTR_PF_STAT, 2, 1⟩
/-- MTR_PF_STAT.GAP: bit 3. -/
abbrev F.MTR_PF_STAT_GAP : Fld := ⟨R.MTR_PF_STAT, 3, 1⟩
/-- MTR_PF_STAT.ZERO: bit 4. -/
abbrev F.MTR_PF_STAT_ZERO : Fld := ⟨R.MTR_PF_STAT, 4, 1⟩
/-- MTR_PF_STAT.FROZEN: bit 5. -/
abbrev F.MTR_PF_STAT_FROZEN : Fld := ⟨R.MTR_PF_STAT, 5, 1⟩
/-- The register MTR_RTD_OFSn. -/
abbrev R.MTR_RTD_OFSn (n : Nat) : Nat := 0x100e0080 + 0x4 * n
/-- MTR_RTD_OFSn.OFS: bits 15:0. -/
abbrev F.MTR_RTD_OFSn_OFS (n : Nat) : Fld := ⟨R.MTR_RTD_OFSn n, 0, 16⟩
/-- The register MTR_SNAPk_CTL. -/
abbrev R.MTR_SNAPk_CTL (k : Nat) : Nat := 0x100e0100 + 0x10 * k
/-- MTR_SNAPk_CTL.LANE: bits 10:0. -/
abbrev F.MTR_SNAPk_CTL_LANE (k : Nat) : Fld := ⟨R.MTR_SNAPk_CTL k, 0, 11⟩
/-- MTR_SNAPk_CTL.REG: bits 13:12. -/
abbrev F.MTR_SNAPk_CTL_REG (k : Nat) : Fld := ⟨R.MTR_SNAPk_CTL k, 12, 2⟩
/-- MTR_SNAPk_CTL.SNAP: bit 31. -/
abbrev F.MTR_SNAPk_CTL_SNAP (k : Nat) : Fld := ⟨R.MTR_SNAPk_CTL k, 31, 1⟩
/-- The register MTR_SNAPk_Wj. -/
abbrev R.MTR_SNAPk_Wj (k j : Nat) : Nat := 0x100e0104 + 0x10 * k + 0x4 * j
/-- MTR_SNAPk_Wj.WORD: bits 31:0. -/
abbrev F.MTR_SNAPk_Wj_WORD (k j : Nat) : Fld := ⟨R.MTR_SNAPk_Wj k j, 0, 32⟩
/-- The register MTR_CHn_SCALE. -/
abbrev R.MTR_CHn_SCALE (n : Nat) : Nat := 0x100e0200 + 0x8 * n
/-- MTR_CHn_SCALE.SCALE: bits 31:0. -/
abbrev F.MTR_CHn_SCALE_SCALE (n : Nat) : Fld := ⟨R.MTR_CHn_SCALE n, 0, 32⟩
/-- The register MTR_CHn_PHC. -/
abbrev R.MTR_CHn_PHC (n : Nat) : Nat := 0x100e0204 + 0x8 * n
/-- MTR_CHn_PHC.PHC: bits 15:0. -/
abbrev F.MTR_CHn_PHC_PHC (n : Nat) : Fld := ⟨R.MTR_CHn_PHC n, 0, 16⟩

/-! ## NET -/

/-- The register NET_PORTn_CFG. -/
abbrev R.NET_PORTn_CFG (n : Nat) : Nat := 0x100c0040 + 0x10 * n
/-- NET_PORTn_CFG.MODE: bits 1:0. -/
abbrev F.NET_PORTn_CFG_MODE (n : Nat) : Fld := ⟨R.NET_PORTn_CFG n, 0, 2⟩
/-- NET_PORTn_CFG.RATE: bit 2. -/
abbrev F.NET_PORTn_CFG_RATE (n : Nat) : Fld := ⟨R.NET_PORTn_CFG n, 2, 1⟩
/-- NET_PORTn_CFG.AN_EN: bit 3. -/
abbrev F.NET_PORTn_CFG_AN_EN (n : Nat) : Fld := ⟨R.NET_PORTn_CFG n, 3, 1⟩
/-- NET_PORTn_CFG.STATE: bits 5:4. -/
abbrev F.NET_PORTn_CFG_STATE (n : Nat) : Fld := ⟨R.NET_PORTn_CFG n, 4, 2⟩
/-- The register NET_PORTn_STAT. -/
abbrev R.NET_PORTn_STAT (n : Nat) : Nat := 0x100c0044 + 0x10 * n
/-- NET_PORTn_STAT.LINK: bit 0. -/
abbrev F.NET_PORTn_STAT_LINK (n : Nat) : Fld := ⟨R.NET_PORTn_STAT n, 0, 1⟩
/-- NET_PORTn_STAT.AN_DONE: bit 1. -/
abbrev F.NET_PORTn_STAT_AN_DONE (n : Nat) : Fld := ⟨R.NET_PORTn_STAT n, 1, 1⟩
/-- NET_PORTn_STAT.DROP: bits 31:16. -/
abbrev F.NET_PORTn_STAT_DROP (n : Nat) : Fld := ⟨R.NET_PORTn_STAT n, 16, 16⟩
/-- The register NET_PORTn_PDELAY. -/
abbrev R.NET_PORTn_PDELAY (n : Nat) : Nat := 0x100c0048 + 0x10 * n
/-- NET_PORTn_PDELAY.DELAY: bits 23:0. -/
abbrev F.NET_PORTn_PDELAY_DELAY (n : Nat) : Fld := ⟨R.NET_PORTn_PDELAY n, 0, 24⟩
/-- The register NET_PTP_CFG. -/
abbrev R.NET_PTP_CFG : Nat := 0x100c00a0
/-- NET_PTP_CFG.DOMAIN_A: bits 7:0. -/
abbrev F.NET_PTP_CFG_DOMAIN_A : Fld := ⟨R.NET_PTP_CFG, 0, 8⟩
/-- NET_PTP_CFG.DOMAIN_B: bits 15:8. -/
abbrev F.NET_PTP_CFG_DOMAIN_B : Fld := ⟨R.NET_PTP_CFG, 8, 8⟩
/-- NET_PTP_CFG.MODE_A: bit 16. -/
abbrev F.NET_PTP_CFG_MODE_A : Fld := ⟨R.NET_PTP_CFG, 16, 1⟩
/-- NET_PTP_CFG.MODE_B: bit 17. -/
abbrev F.NET_PTP_CFG_MODE_B : Fld := ⟨R.NET_PTP_CFG, 17, 1⟩
/-- NET_PTP_CFG.OTHER: bits 19:18. -/
abbrev F.NET_PTP_CFG_OTHER : Fld := ⟨R.NET_PTP_CFG, 18, 2⟩
/-- NET_PTP_CFG.TC_TYPE: bit 20. -/
abbrev F.NET_PTP_CFG_TC_TYPE : Fld := ⟨R.NET_PTP_CFG, 20, 1⟩
/-- NET_PTP_CFG.RX_TB: bits 22:21. -/
abbrev F.NET_PTP_CFG_RX_TB : Fld := ⟨R.NET_PTP_CFG, 21, 2⟩
/-- The register NET_TC_CFG. -/
abbrev R.NET_TC_CFG : Nat := 0x100c00a4
/-- NET_TC_CFG.MAXRES: bits 15:0. -/
abbrev F.NET_TC_CFG_MAXRES : Fld := ⟨R.NET_TC_CFG, 0, 16⟩
/-- NET_TC_CFG.NOMATCH: bits 23:16. -/
abbrev F.NET_TC_CFG_NOMATCH : Fld := ⟨R.NET_TC_CFG, 16, 8⟩
/-- NET_TC_CFG.DROP: bits 31:24. -/
abbrev F.NET_TC_CFG_DROP : Fld := ⟨R.NET_TC_CFG, 24, 8⟩
/-- The register NET_BR_CFG. -/
abbrev R.NET_BR_CFG : Nat := 0x100c00a8
/-- NET_BR_CFG.AGE: bits 15:0. -/
abbrev F.NET_BR_CFG_AGE : Fld := ⟨R.NET_BR_CFG, 0, 16⟩
/-- NET_BR_CFG.FLUSH: bit 31. -/
abbrev F.NET_BR_CFG_FLUSH : Fld := ⟨R.NET_BR_CFG, 31, 1⟩
/-- The register NET_CPUq_BASE_LO. -/
abbrev R.NET_CPUq_BASE_LO (q : Nat) : Nat := 0x100c00c0 + 0x8 * q
/-- NET_CPUq_BASE_LO.LOG2N: bits 3:0. -/
abbrev F.NET_CPUq_BASE_LO_LOG2N (q : Nat) : Fld := ⟨R.NET_CPUq_BASE_LO q, 0, 4⟩
/-- NET_CPUq_BASE_LO.BASE_LO: bits 31:12. -/
abbrev F.NET_CPUq_BASE_LO_BASE_LO (q : Nat) : Fld := ⟨R.NET_CPUq_BASE_LO q, 12, 20⟩
/-- The register NET_CPUq_BASE_HI. -/
abbrev R.NET_CPUq_BASE_HI (q : Nat) : Nat := 0x100c00c4 + 0x8 * q
/-- NET_CPUq_BASE_HI.BASE_HI: bits 7:0. -/
abbrev F.NET_CPUq_BASE_HI_BASE_HI (q : Nat) : Fld := ⟨R.NET_CPUq_BASE_HI q, 0, 8⟩
/-- The register NET_CPUq_IDX. -/
abbrev R.NET_CPUq_IDX (q : Nat) : Nat := 0x100c00d0 + 0x4 * q
/-- NET_CPUq_IDX.HEAD: bits 15:0. -/
abbrev F.NET_CPUq_IDX_HEAD (q : Nat) : Fld := ⟨R.NET_CPUq_IDX q, 0, 16⟩
/-- NET_CPUq_IDX.TAIL: bits 31:16. -/
abbrev F.NET_CPUq_IDX_TAIL (q : Nat) : Fld := ⟨R.NET_CPUq_IDX q, 16, 16⟩

/-! ## TSU -/

/-- The register TSU_TBn_NS. -/
abbrev R.TSU_TBn_NS (n : Nat) : Nat := 0x100d0040 + 0x20 * n
/-- TSU_TBn_NS.NS: bits 29:0. -/
abbrev F.TSU_TBn_NS_NS (n : Nat) : Fld := ⟨R.TSU_TBn_NS n, 0, 30⟩
/-- The register TSU_TBn_SEC_LO. -/
abbrev R.TSU_TBn_SEC_LO (n : Nat) : Nat := 0x100d0044 + 0x20 * n
/-- TSU_TBn_SEC_LO.SEC_LO: bits 31:0. -/
abbrev F.TSU_TBn_SEC_LO_SEC_LO (n : Nat) : Fld := ⟨R.TSU_TBn_SEC_LO n, 0, 32⟩
/-- The register TSU_TBn_SEC_HI. -/
abbrev R.TSU_TBn_SEC_HI (n : Nat) : Nat := 0x100d0048 + 0x20 * n
/-- TSU_TBn_SEC_HI.SEC_HI: bits 15:0. -/
abbrev F.TSU_TBn_SEC_HI_SEC_HI (n : Nat) : Fld := ⟨R.TSU_TBn_SEC_HI n, 0, 16⟩
/-- The register TSU_TBn_RATE. -/
abbrev R.TSU_TBn_RATE (n : Nat) : Nat := 0x100d004c + 0x20 * n
/-- TSU_TBn_RATE.RATE: bits 31:0. -/
abbrev F.TSU_TBn_RATE_RATE (n : Nat) : Fld := ⟨R.TSU_TBn_RATE n, 0, 32⟩
/-- The register TSU_TBn_ADJ_NS. -/
abbrev R.TSU_TBn_ADJ_NS (n : Nat) : Nat := 0x100d0050 + 0x20 * n
/-- TSU_TBn_ADJ_NS.NS: bits 29:0. -/
abbrev F.TSU_TBn_ADJ_NS_NS (n : Nat) : Fld := ⟨R.TSU_TBn_ADJ_NS n, 0, 30⟩
/-- TSU_TBn_ADJ_NS.NEG: bit 31. -/
abbrev F.TSU_TBn_ADJ_NS_NEG (n : Nat) : Fld := ⟨R.TSU_TBn_ADJ_NS n, 31, 1⟩
/-- The register TSU_TBn_ADJ_SEC. -/
abbrev R.TSU_TBn_ADJ_SEC (n : Nat) : Nat := 0x100d0054 + 0x20 * n
/-- TSU_TBn_ADJ_SEC.SEC: bits 31:0. -/
abbrev F.TSU_TBn_ADJ_SEC_SEC (n : Nat) : Fld := ⟨R.TSU_TBn_ADJ_SEC n, 0, 32⟩
/-- The register TSU_TBn_ADJ_CMD. -/
abbrev R.TSU_TBn_ADJ_CMD (n : Nat) : Nat := 0x100d0058 + 0x20 * n
/-- TSU_TBn_ADJ_CMD.SEC_HI: bits 15:0. -/
abbrev F.TSU_TBn_ADJ_CMD_SEC_HI (n : Nat) : Fld := ⟨R.TSU_TBn_ADJ_CMD n, 0, 16⟩
/-- TSU_TBn_ADJ_CMD.OP: bits 18:16. -/
abbrev F.TSU_TBn_ADJ_CMD_OP (n : Nat) : Fld := ⟨R.TSU_TBn_ADJ_CMD n, 16, 3⟩
/-- TSU_TBn_ADJ_CMD.GO: bit 31. -/
abbrev F.TSU_TBn_ADJ_CMD_GO (n : Nat) : Fld := ⟨R.TSU_TBn_ADJ_CMD n, 31, 1⟩
/-- The register TSU_TBn_STAT. -/
abbrev R.TSU_TBn_STAT (n : Nat) : Nat := 0x100d005c + 0x20 * n
/-- TSU_TBn_STAT.SYNCED: bit 0. -/
abbrev F.TSU_TBn_STAT_SYNCED (n : Nat) : Fld := ⟨R.TSU_TBn_STAT n, 0, 1⟩
/-- TSU_TBn_STAT.SLEWING: bit 1. -/
abbrev F.TSU_TBn_STAT_SLEWING (n : Nat) : Fld := ⟨R.TSU_TBn_STAT n, 1, 1⟩
/-- TSU_TBn_STAT.VALID: bit 2. -/
abbrev F.TSU_TBn_STAT_VALID (n : Nat) : Fld := ⟨R.TSU_TBn_STAT n, 2, 1⟩
/-- TSU_TBn_STAT.HOLDOVER: bit 3. -/
abbrev F.TSU_TBn_STAT_HOLDOVER (n : Nat) : Fld := ⟨R.TSU_TBn_STAT n, 3, 1⟩
/-- TSU_TBn_STAT.STEPS: bits 31:16. -/
abbrev F.TSU_TBn_STAT_STEPS (n : Nat) : Fld := ⟨R.TSU_TBn_STAT n, 16, 16⟩
/-- The register TSU_CFG. -/
abbrev R.TSU_CFG : Nat := 0x100d00c0
/-- TSU_CFG.SLEW_PPM: bits 8:0. -/
abbrev F.TSU_CFG_SLEW_PPM : Fld := ⟨R.TSU_CFG, 0, 9⟩
/-- TSU_CFG.TB3_SRC: bit 9. -/
abbrev F.TSU_CFG_TB3_SRC : Fld := ⟨R.TSU_CFG, 9, 1⟩
/-- TSU_CFG.HOLD_S: bits 31:16. -/
abbrev F.TSU_CFG_HOLD_S : Fld := ⟨R.TSU_CFG, 16, 16⟩
/-- The register TSU_TB3_OFS. -/
abbrev R.TSU_TB3_OFS : Nat := 0x100d00c4
/-- TSU_TB3_OFS.OFS: bits 31:0. -/
abbrev F.TSU_TB3_OFS_OFS : Fld := ⟨R.TSU_TB3_OFS, 0, 32⟩
/-- The register TSU_TPn_CFG. -/
abbrev R.TSU_TPn_CFG (n : Nat) : Nat := 0x100d0100 + 0x20 * n
/-- TSU_TPn_CFG.EN: bit 0. -/
abbrev F.TSU_TPn_CFG_EN (n : Nat) : Fld := ⟨R.TSU_TPn_CFG n, 0, 1⟩
/-- TSU_TPn_CFG.MODE: bit 1. -/
abbrev F.TSU_TPn_CFG_MODE (n : Nat) : Fld := ⟨R.TSU_TPn_CFG n, 1, 1⟩
/-- TSU_TPn_CFG.POL: bit 2. -/
abbrev F.TSU_TPn_CFG_POL (n : Nat) : Fld := ⟨R.TSU_TPn_CFG n, 2, 1⟩
/-- TSU_TPn_CFG.TB: bits 4:3. -/
abbrev F.TSU_TPn_CFG_TB (n : Nat) : Fld := ⟨R.TSU_TPn_CFG n, 3, 2⟩
/-- TSU_TPn_CFG.START_SEC_HI: bits 31:16. -/
abbrev F.TSU_TPn_CFG_START_SEC_HI (n : Nat) : Fld := ⟨R.TSU_TPn_CFG n, 16, 16⟩
/-- The register TSU_TPn_START_NS. -/
abbrev R.TSU_TPn_START_NS (n : Nat) : Nat := 0x100d0104 + 0x20 * n
/-- TSU_TPn_START_NS.NS: bits 29:0. -/
abbrev F.TSU_TPn_START_NS_NS (n : Nat) : Fld := ⟨R.TSU_TPn_START_NS n, 0, 30⟩
/-- The register TSU_TPn_START_SEC. -/
abbrev R.TSU_TPn_START_SEC (n : Nat) : Nat := 0x100d0108 + 0x20 * n
/-- TSU_TPn_START_SEC.SEC: bits 31:0. -/
abbrev F.TSU_TPn_START_SEC_SEC (n : Nat) : Fld := ⟨R.TSU_TPn_START_SEC n, 0, 32⟩
/-- The register TSU_TPn_PERIOD. -/
abbrev R.TSU_TPn_PERIOD (n : Nat) : Nat := 0x100d010c + 0x20 * n
/-- TSU_TPn_PERIOD.PERIOD: bits 31:0. -/
abbrev F.TSU_TPn_PERIOD_PERIOD (n : Nat) : Fld := ⟨R.TSU_TPn_PERIOD n, 0, 32⟩
/-- The register TSU_TPn_WIDTH. -/
abbrev R.TSU_TPn_WIDTH (n : Nat) : Nat := 0x100d0110 + 0x20 * n
/-- TSU_TPn_WIDTH.WIDTH: bits 29:0. -/
abbrev F.TSU_TPn_WIDTH_WIDTH (n : Nat) : Fld := ⟨R.TSU_TPn_WIDTH n, 0, 30⟩
/-- The register TSU_TCn_CFG. -/
abbrev R.TSU_TCn_CFG (n : Nat) : Nat := 0x100d0200 + 0x10 * n
/-- TSU_TCn_CFG.EN: bit 0. -/
abbrev F.TSU_TCn_CFG_EN (n : Nat) : Fld := ⟨R.TSU_TCn_CFG n, 0, 1⟩
/-- TSU_TCn_CFG.EDGE: bits 2:1. -/
abbrev F.TSU_TCn_CFG_EDGE (n : Nat) : Fld := ⟨R.TSU_TCn_CFG n, 1, 2⟩
/-- TSU_TCn_CFG.TB: bits 4:3. -/
abbrev F.TSU_TCn_CFG_TB (n : Nat) : Fld := ⟨R.TSU_TCn_CFG n, 3, 2⟩
/-- TSU_TCn_CFG.COUNT: bits 11:8. -/
abbrev F.TSU_TCn_CFG_COUNT (n : Nat) : Fld := ⟨R.TSU_TCn_CFG n, 8, 4⟩
/-- TSU_TCn_CFG.OVF: bits 31:16. -/
abbrev F.TSU_TCn_CFG_OVF (n : Nat) : Fld := ⟨R.TSU_TCn_CFG n, 16, 16⟩
/-- The register TSU_TCn_NS. -/
abbrev R.TSU_TCn_NS (n : Nat) : Nat := 0x100d0204 + 0x10 * n
/-- TSU_TCn_NS.NS: bits 29:0. -/
abbrev F.TSU_TCn_NS_NS (n : Nat) : Fld := ⟨R.TSU_TCn_NS n, 0, 30⟩
/-- TSU_TCn_NS.EDGE: bit 30. -/
abbrev F.TSU_TCn_NS_EDGE (n : Nat) : Fld := ⟨R.TSU_TCn_NS n, 30, 1⟩
/-- TSU_TCn_NS.VALID: bit 31. -/
abbrev F.TSU_TCn_NS_VALID (n : Nat) : Fld := ⟨R.TSU_TCn_NS n, 31, 1⟩
/-- The register TSU_TCn_SEC. -/
abbrev R.TSU_TCn_SEC (n : Nat) : Nat := 0x100d0208 + 0x10 * n
/-- TSU_TCn_SEC.SEC: bits 31:0. -/
abbrev F.TSU_TCn_SEC_SEC (n : Nat) : Fld := ⟨R.TSU_TCn_SEC n, 0, 32⟩

/-! ## FIO -/

/-- The register FIO_DI_CFGn. -/
abbrev R.FIO_DI_CFGn (n : Nat) : Nat := 0x100f0040 + 0x4 * n
/-- FIO_DI_CFGn.DEB: bits 15:0. -/
abbrev F.FIO_DI_CFGn_DEB (n : Nat) : Fld := ⟨R.FIO_DI_CFGn n, 0, 16⟩
/-- FIO_DI_CFGn.TYPE: bit 16. -/
abbrev F.FIO_DI_CFGn_TYPE (n : Nat) : Fld := ⟨R.FIO_DI_CFGn n, 16, 1⟩
/-- FIO_DI_CFGn.STAMP: bits 18:17. -/
abbrev F.FIO_DI_CFGn_STAMP (n : Nat) : Fld := ⟨R.FIO_DI_CFGn n, 17, 2⟩
/-- FIO_DI_CFGn.TB: bits 20:19. -/
abbrev F.FIO_DI_CFGn_TB (n : Nat) : Fld := ⟨R.FIO_DI_CFGn n, 19, 2⟩
/-- FIO_DI_CFGn.CNT_EDGE: bits 22:21. -/
abbrev F.FIO_DI_CFGn_CNT_EDGE (n : Nat) : Fld := ⟨R.FIO_DI_CFGn n, 21, 2⟩
/-- The register FIO_DI_STATE. -/
abbrev R.FIO_DI_STATE : Nat := 0x100f00a0
/-- FIO_DI_STATE.STATE: bits 23:0. -/
abbrev F.FIO_DI_STATE_STATE : Fld := ⟨R.FIO_DI_STATE, 0, 24⟩
/-- The register FIO_DI_RAW. -/
abbrev R.FIO_DI_RAW : Nat := 0x100f00a4
/-- FIO_DI_RAW.RAW: bits 23:0. -/
abbrev F.FIO_DI_RAW_RAW : Fld := ⟨R.FIO_DI_RAW, 0, 24⟩
/-- The register FIO_EDGE_POP. -/
abbrev R.FIO_EDGE_POP : Nat := 0x100f00b0
/-- FIO_EDGE_POP.DI: bits 4:0. -/
abbrev F.FIO_EDGE_POP_DI : Fld := ⟨R.FIO_EDGE_POP, 0, 5⟩
/-- FIO_EDGE_POP.EDGE: bit 5. -/
abbrev F.FIO_EDGE_POP_EDGE : Fld := ⟨R.FIO_EDGE_POP, 5, 1⟩
/-- FIO_EDGE_POP.TB: bits 7:6. -/
abbrev F.FIO_EDGE_POP_TB : Fld := ⟨R.FIO_EDGE_POP, 6, 2⟩
/-- FIO_EDGE_POP.VALID: bit 31. -/
abbrev F.FIO_EDGE_POP_VALID : Fld := ⟨R.FIO_EDGE_POP, 31, 1⟩
/-- The register FIO_EDGE_NS. -/
abbrev R.FIO_EDGE_NS : Nat := 0x100f00b4
/-- FIO_EDGE_NS.STAMP: bits 31:0. -/
abbrev F.FIO_EDGE_NS_STAMP : Fld := ⟨R.FIO_EDGE_NS, 0, 32⟩
/-- The register FIO_EDGE_CNT. -/
abbrev R.FIO_EDGE_CNT : Nat := 0x100f00b8
/-- FIO_EDGE_CNT.COUNT: bits 8:0. -/
abbrev F.FIO_EDGE_CNT_COUNT : Fld := ⟨R.FIO_EDGE_CNT, 0, 9⟩
/-- FIO_EDGE_CNT.OVF: bits 31:16. -/
abbrev F.FIO_EDGE_CNT_OVF : Fld := ⟨R.FIO_EDGE_CNT, 16, 16⟩
/-- The register FIO_DO_STATE. -/
abbrev R.FIO_DO_STATE : Nat := 0x100f00c0
/-- FIO_DO_STATE.CMD: bits 15:0. -/
abbrev F.FIO_DO_STATE_CMD : Fld := ⟨R.FIO_DO_STATE, 0, 16⟩
/-- FIO_DO_STATE.DRIVEN: bits 31:16. -/
abbrev F.FIO_DO_STATE_DRIVEN : Fld := ⟨R.FIO_DO_STATE, 16, 16⟩
/-- The register FIO_DO_INHIBIT. -/
abbrev R.FIO_DO_INHIBIT : Nat := 0x100f00c4
/-- FIO_DO_INHIBIT.INH: bits 15:0. -/
abbrev F.FIO_DO_INHIBIT_INH : Fld := ⟨R.FIO_DO_INHIBIT, 0, 16⟩
/-- The register FIO_DO_DIAG. -/
abbrev R.FIO_DO_DIAG : Nat := 0x100f00c8
/-- FIO_DO_DIAG.DIAG: bits 15:0. -/
abbrev F.FIO_DO_DIAG_DIAG : Fld := ⟨R.FIO_DO_DIAG, 0, 16⟩
/-- The register FIO_FLD_V. -/
abbrev R.FIO_FLD_V : Nat := 0x100f00cc
/-- FIO_FLD_V.VFLD1: bits 15:0. -/
abbrev F.FIO_FLD_V_VFLD1 : Fld := ⟨R.FIO_FLD_V, 0, 16⟩
/-- FIO_FLD_V.VFLD2: bits 31:16. -/
abbrev F.FIO_FLD_V_VFLD2 : Fld := ⟨R.FIO_FLD_V, 16, 16⟩
/-- The register FIO_DI_CNTn. -/
abbrev R.FIO_DI_CNTn (n : Nat) : Nat := 0x100f0100 + 0x4 * n
/-- FIO_DI_CNTn.COUNT: bits 31:0. -/
abbrev F.FIO_DI_CNTn_COUNT (n : Nat) : Fld := ⟨R.FIO_DI_CNTn n, 0, 32⟩

/-! ## CAN -/

/-- The register CAN_CFG. -/
abbrev R.CAN_CFG (p : Nat) : Nat := 0x10100040 + 0x4000 * p
/-- CAN_CFG.FD_EN: bit 0. -/
abbrev F.CAN_CFG_FD_EN (p : Nat) : Fld := ⟨R.CAN_CFG p, 0, 1⟩
/-- CAN_CFG.LISTEN: bit 1. -/
abbrev F.CAN_CFG_LISTEN (p : Nat) : Fld := ⟨R.CAN_CFG p, 1, 1⟩
/-- CAN_CFG.TX_ORDER: bit 2. -/
abbrev F.CAN_CFG_TX_ORDER (p : Nat) : Fld := ⟨R.CAN_CFG p, 2, 1⟩
/-- CAN_CFG.ONE_SHOT: bit 3. -/
abbrev F.CAN_CFG_ONE_SHOT (p : Nat) : Fld := ⟨R.CAN_CFG p, 3, 1⟩
/-- CAN_CFG.AUTO_RECOV: bit 4. -/
abbrev F.CAN_CFG_AUTO_RECOV (p : Nat) : Fld := ⟨R.CAN_CFG p, 4, 1⟩
/-- CAN_CFG.TB: bits 6:5. -/
abbrev F.CAN_CFG_TB (p : Nat) : Fld := ⟨R.CAN_CFG p, 5, 2⟩
/-- CAN_CFG.MAP_EN: bit 7. -/
abbrev F.CAN_CFG_MAP_EN (p : Nat) : Fld := ⟨R.CAN_CFG p, 7, 1⟩
/-- The register CAN_NBT. -/
abbrev R.CAN_NBT (p : Nat) : Nat := 0x10100044 + 0x4000 * p
/-- CAN_NBT.BRPM1: bits 7:0. -/
abbrev F.CAN_NBT_BRPM1 (p : Nat) : Fld := ⟨R.CAN_NBT p, 0, 8⟩
/-- CAN_NBT.PROP: bits 14:8. -/
abbrev F.CAN_NBT_PROP (p : Nat) : Fld := ⟨R.CAN_NBT p, 8, 7⟩
/-- CAN_NBT.PH1: bits 20:15. -/
abbrev F.CAN_NBT_PH1 (p : Nat) : Fld := ⟨R.CAN_NBT p, 15, 6⟩
/-- CAN_NBT.PH2: bits 25:21. -/
abbrev F.CAN_NBT_PH2 (p : Nat) : Fld := ⟨R.CAN_NBT p, 21, 5⟩
/-- CAN_NBT.SJW: bits 30:26. -/
abbrev F.CAN_NBT_SJW (p : Nat) : Fld := ⟨R.CAN_NBT p, 26, 5⟩
/-- The register CAN_DBT. -/
abbrev R.CAN_DBT (p : Nat) : Nat := 0x10100048 + 0x4000 * p
/-- CAN_DBT.DBRPM1: bits 4:0. -/
abbrev F.CAN_DBT_DBRPM1 (p : Nat) : Fld := ⟨R.CAN_DBT p, 0, 5⟩
/-- CAN_DBT.DPROP: bits 9:5. -/
abbrev F.CAN_DBT_DPROP (p : Nat) : Fld := ⟨R.CAN_DBT p, 5, 5⟩
/-- CAN_DBT.DPH1: bits 14:10. -/
abbrev F.CAN_DBT_DPH1 (p : Nat) : Fld := ⟨R.CAN_DBT p, 10, 5⟩
/-- CAN_DBT.DPH2: bits 19:15. -/
abbrev F.CAN_DBT_DPH2 (p : Nat) : Fld := ⟨R.CAN_DBT p, 15, 5⟩
/-- CAN_DBT.DSJW: bits 24:20. -/
abbrev F.CAN_DBT_DSJW (p : Nat) : Fld := ⟨R.CAN_DBT p, 20, 5⟩
/-- The register CAN_TDC. -/
abbrev R.CAN_TDC (p : Nat) : Nat := 0x1010004c + 0x4000 * p
/-- CAN_TDC.TDCO: bits 6:0. -/
abbrev F.CAN_TDC_TDCO (p : Nat) : Fld := ⟨R.CAN_TDC p, 0, 7⟩
/-- CAN_TDC.TDC_EN: bit 7. -/
abbrev F.CAN_TDC_TDC_EN (p : Nat) : Fld := ⟨R.CAN_TDC p, 7, 1⟩
/-- CAN_TDC.TDCV: bits 22:16. -/
abbrev F.CAN_TDC_TDCV (p : Nat) : Fld := ⟨R.CAN_TDC p, 16, 7⟩
/-- The register CAN_ERR. -/
abbrev R.CAN_ERR (p : Nat) : Nat := 0x10100050 + 0x4000 * p
/-- CAN_ERR.TEC: bits 7:0. -/
abbrev F.CAN_ERR_TEC (p : Nat) : Fld := ⟨R.CAN_ERR p, 0, 8⟩
/-- CAN_ERR.REC: bits 15:8. -/
abbrev F.CAN_ERR_REC (p : Nat) : Fld := ⟨R.CAN_ERR p, 8, 8⟩
/-- CAN_ERR.STATE: bits 17:16. -/
abbrev F.CAN_ERR_STATE (p : Nat) : Fld := ⟨R.CAN_ERR p, 16, 2⟩
/-- CAN_ERR.LEC: bits 22:20. -/
abbrev F.CAN_ERR_LEC (p : Nat) : Fld := ⟨R.CAN_ERR p, 20, 3⟩
/-- CAN_ERR.BOFF_CNT: bits 31:24. -/
abbrev F.CAN_ERR_BOFF_CNT (p : Nat) : Fld := ⟨R.CAN_ERR p, 24, 8⟩
/-- The register CAN_TX_CMD. -/
abbrev R.CAN_TX_CMD (p : Nat) : Nat := 0x10100054 + 0x4000 * p
/-- CAN_TX_CMD.REQ: bits 2:0. -/
abbrev F.CAN_TX_CMD_REQ (p : Nat) : Fld := ⟨R.CAN_TX_CMD p, 0, 3⟩
/-- CAN_TX_CMD.ABORT: bits 6:4. -/
abbrev F.CAN_TX_CMD_ABORT (p : Nat) : Fld := ⟨R.CAN_TX_CMD p, 4, 3⟩
/-- The register CAN_TX_STAT. -/
abbrev R.CAN_TX_STAT (p : Nat) : Nat := 0x10100058 + 0x4000 * p
/-- CAN_TX_STAT.STATE: bits 5:0. -/
abbrev F.CAN_TX_STAT_STATE (p : Nat) : Fld := ⟨R.CAN_TX_STAT p, 0, 6⟩
/-- The register CAN_RX_IDX. -/
abbrev R.CAN_RX_IDX (p : Nat) : Nat := 0x1010005c + 0x4000 * p
/-- CAN_RX_IDX.RD: bits 5:0. -/
abbrev F.CAN_RX_IDX_RD (p : Nat) : Fld := ⟨R.CAN_RX_IDX p, 0, 6⟩
/-- CAN_RX_IDX.WR: bits 13:8. -/
abbrev F.CAN_RX_IDX_WR (p : Nat) : Fld := ⟨R.CAN_RX_IDX p, 8, 6⟩
/-- CAN_RX_IDX.HELD: bits 22:16. -/
abbrev F.CAN_RX_IDX_HELD (p : Nat) : Fld := ⟨R.CAN_RX_IDX p, 16, 7⟩
/-- The register CAN_RX_ACK. -/
abbrev R.CAN_RX_ACK (p : Nat) : Nat := 0x10100060 + 0x4000 * p
/-- CAN_RX_ACK.COUNT: bits 6:0. -/
abbrev F.CAN_RX_ACK_COUNT (p : Nat) : Fld := ⟨R.CAN_RX_ACK p, 0, 7⟩
/-- The register CAN_RX_OVF. -/
abbrev R.CAN_RX_OVF (p : Nat) : Nat := 0x10100064 + 0x4000 * p
/-- CAN_RX_OVF.OVF: bits 15:0. -/
abbrev F.CAN_RX_OVF_OVF (p : Nat) : Fld := ⟨R.CAN_RX_OVF p, 0, 16⟩
/-- The register CAN_MAP_BASE_LO. -/
abbrev R.CAN_MAP_BASE_LO (p : Nat) : Nat := 0x10100068 + 0x4000 * p
/-- CAN_MAP_BASE_LO.BASE_LO: bits 31:10. -/
abbrev F.CAN_MAP_BASE_LO_BASE_LO (p : Nat) : Fld := ⟨R.CAN_MAP_BASE_LO p, 10, 22⟩
/-- The register CAN_MAP_BASE_HI. -/
abbrev R.CAN_MAP_BASE_HI (p : Nat) : Nat := 0x1010006c + 0x4000 * p
/-- CAN_MAP_BASE_HI.BASE_HI: bits 7:0. -/
abbrev F.CAN_MAP_BASE_HI_BASE_HI (p : Nat) : Fld := ⟨R.CAN_MAP_BASE_HI p, 0, 8⟩
/-- CAN_MAP_BASE_HI.N_ENT: bits 22:16. -/
abbrev F.CAN_MAP_BASE_HI_N_ENT (p : Nat) : Fld := ⟨R.CAN_MAP_BASE_HI p, 16, 7⟩
/-- The register CAN_WK_CFG. -/
abbrev R.CAN_WK_CFG (p : Nat) : Nat := 0x10100080 + 0x4000 * p
/-- CAN_WK_CFG.EN: bit 0. -/
abbrev F.CAN_WK_CFG_EN (p : Nat) : Fld := ⟨R.CAN_WK_CFG p, 0, 1⟩
/-- CAN_WK_CFG.RATE: bits 2:1. -/
abbrev F.CAN_WK_CFG_RATE (p : Nat) : Fld := ⟨R.CAN_WK_CFG p, 1, 2⟩
/-- CAN_WK_CFG.IDE: bit 3. -/
abbrev F.CAN_WK_CFG_IDE (p : Nat) : Fld := ⟨R.CAN_WK_CFG p, 3, 1⟩
/-- CAN_WK_CFG.DLC: bits 7:4. -/
abbrev F.CAN_WK_CFG_DLC (p : Nat) : Fld := ⟨R.CAN_WK_CFG p, 4, 4⟩
/-- CAN_WK_CFG.DLC_MATCH: bit 8. -/
abbrev F.CAN_WK_CFG_DLC_MATCH (p : Nat) : Fld := ⟨R.CAN_WK_CFG p, 8, 1⟩
/-- The register CAN_WK_ID. -/
abbrev R.CAN_WK_ID (p : Nat) : Nat := 0x10100084 + 0x4000 * p
/-- CAN_WK_ID.ID: bits 28:0. -/
abbrev F.CAN_WK_ID_ID (p : Nat) : Fld := ⟨R.CAN_WK_ID p, 0, 29⟩
/-- The register CAN_WK_IDMASK. -/
abbrev R.CAN_WK_IDMASK (p : Nat) : Nat := 0x10100088 + 0x4000 * p
/-- CAN_WK_IDMASK.MASK: bits 28:0. -/
abbrev F.CAN_WK_IDMASK_MASK (p : Nat) : Fld := ⟨R.CAN_WK_IDMASK p, 0, 29⟩
/-- The register CAN_WK_DATAj. -/
abbrev R.CAN_WK_DATAj (p j : Nat) : Nat := 0x1010008c + 0x4000 * p + 0x4 * j
/-- CAN_WK_DATAj.DATA: bits 31:0. -/
abbrev F.CAN_WK_DATAj_DATA (p j : Nat) : Fld := ⟨R.CAN_WK_DATAj p j, 0, 32⟩
/-- The register CAN_WK_DMASKj. -/
abbrev R.CAN_WK_DMASKj (p j : Nat) : Nat := 0x10100094 + 0x4000 * p + 0x4 * j
/-- CAN_WK_DMASKj.DMASK: bits 31:0. -/
abbrev F.CAN_WK_DMASKj_DMASK (p j : Nat) : Fld := ⟨R.CAN_WK_DMASKj p j, 0, 32⟩
/-- The register CAN_WK_STAT. -/
abbrev R.CAN_WK_STAT (p : Nat) : Nat := 0x1010009c + 0x4000 * p
/-- CAN_WK_STAT.WOKE: bit 0. -/
abbrev F.CAN_WK_STAT_WOKE (p : Nat) : Fld := ⟨R.CAN_WK_STAT p, 0, 1⟩
/-- CAN_WK_STAT.BY_ERR: bit 1. -/
abbrev F.CAN_WK_STAT_BY_ERR (p : Nat) : Fld := ⟨R.CAN_WK_STAT p, 1, 1⟩
/-- CAN_WK_STAT.ERRCNT: bits 13:8. -/
abbrev F.CAN_WK_STAT_ERRCNT (p : Nat) : Fld := ⟨R.CAN_WK_STAT p, 8, 6⟩

/-! ## TDM -/

/-- The register TDM_CFG. -/
abbrev R.TDM_CFG : Nat := 0x10110040
/-- TDM_CFG.MEMBER: bit 0. -/
abbrev F.TDM_CFG_MEMBER : Fld := ⟨R.TDM_CFG, 0, 1⟩
/-- TDM_CFG.SOLO: bit 1. -/
abbrev F.TDM_CFG_SOLO : Fld := ⟨R.TDM_CFG, 1, 1⟩
/-- TDM_CFG.AUTO_FAULT: bit 2. -/
abbrev F.TDM_CFG_AUTO_FAULT : Fld := ⟨R.TDM_CFG, 2, 1⟩
/-- TDM_CFG.ETYPE: bits 31:16. -/
abbrev F.TDM_CFG_ETYPE : Fld := ⟨R.TDM_CFG, 16, 16⟩
/-- The register TDM_CMD. -/
abbrev R.TDM_CMD : Nat := 0x10110044
/-- TDM_CMD.OP: bits 2:0. -/
abbrev F.TDM_CMD_OP : Fld := ⟨R.TDM_CMD, 0, 3⟩
/-- TDM_CMD.GO: bit 31. -/
abbrev F.TDM_CMD_GO : Fld := ⟨R.TDM_CMD, 31, 1⟩
/-- The register TDM_STATE. -/
abbrev R.TDM_STATE : Nat := 0x10110048
/-- TDM_STATE.STATE: bits 2:0. -/
abbrev F.TDM_STATE_STATE : Fld := ⟨R.TDM_STATE, 0, 3⟩
/-- TDM_STATE.GRANT: bits 4:3. -/
abbrev F.TDM_STATE_GRANT : Fld := ⟨R.TDM_STATE, 3, 2⟩
/-- TDM_STATE.PCODE: bits 7:5. -/
abbrev F.TDM_STATE_PCODE : Fld := ⟨R.TDM_STATE, 5, 3⟩
/-- TDM_STATE.LINK_T: bit 8. -/
abbrev F.TDM_STATE_LINK_T : Fld := ⟨R.TDM_STATE, 8, 1⟩
/-- TDM_STATE.REASON: bits 23:16. -/
abbrev F.TDM_STATE_REASON : Fld := ⟨R.TDM_STATE, 16, 8⟩
/-- The register TDM_LAG. -/
abbrev R.TDM_LAG : Nat := 0x1011004c
/-- TDM_LAG.LAG: bits 15:0. -/
abbrev F.TDM_LAG_LAG : Fld := ⟨R.TDM_LAG, 0, 16⟩
/-- TDM_LAG.MAX: bits 31:16. -/
abbrev F.TDM_LAG_MAX : Fld := ⟨R.TDM_LAG, 16, 16⟩
/-- The register TDM_DIG_CNT. -/
abbrev R.TDM_DIG_CNT : Nat := 0x10110050
/-- TDM_DIG_CNT.MATCH: bits 15:0. -/
abbrev F.TDM_DIG_CNT_MATCH : Fld := ⟨R.TDM_DIG_CNT, 0, 16⟩
/-- TDM_DIG_CNT.DISPUTE: bits 31:16. -/
abbrev F.TDM_DIG_CNT_DISPUTE : Fld := ⟨R.TDM_DIG_CNT, 16, 16⟩
/-- The register TDM_SW. -/
abbrev R.TDM_SW : Nat := 0x10110054
/-- TDM_SW.COUNT: bits 15:0. -/
abbrev F.TDM_SW_COUNT : Fld := ⟨R.TDM_SW, 0, 16⟩
/-- TDM_SW.LAST: bits 31:16. -/
abbrev F.TDM_SW_LAST : Fld := ⟨R.TDM_SW, 16, 16⟩
/-- The register TDM_BUF_BASE_LO. -/
abbrev R.TDM_BUF_BASE_LO : Nat := 0x10110058
/-- TDM_BUF_BASE_LO.BASE_LO: bits 31:16. -/
abbrev F.TDM_BUF_BASE_LO_BASE_LO : Fld := ⟨R.TDM_BUF_BASE_LO, 16, 16⟩
/-- The register TDM_BUF_BASE_HI. -/
abbrev R.TDM_BUF_BASE_HI : Nat := 0x1011005c
/-- TDM_BUF_BASE_HI.BASE_HI: bits 7:0. -/
abbrev F.TDM_BUF_BASE_HI_BASE_HI : Fld := ⟨R.TDM_BUF_BASE_HI, 0, 8⟩
/-- The register TDM_OFS_LO. -/
abbrev R.TDM_OFS_LO : Nat := 0x10110060
/-- TDM_OFS_LO.OFS_LO: bits 31:0. -/
abbrev F.TDM_OFS_LO_OFS_LO : Fld := ⟨R.TDM_OFS_LO, 0, 32⟩
/-- The register TDM_OFS_HI. -/
abbrev R.TDM_OFS_HI : Nat := 0x10110064
/-- TDM_OFS_HI.OFS_HI: bits 31:0. -/
abbrev F.TDM_OFS_HI_OFS_HI : Fld := ⟨R.TDM_OFS_HI, 0, 32⟩
/-- The register TDM_JOIN_TMO. -/
abbrev R.TDM_JOIN_TMO : Nat := 0x10110068
/-- TDM_JOIN_TMO.MS: bits 15:0. -/
abbrev F.TDM_JOIN_TMO_MS : Fld := ⟨R.TDM_JOIN_TMO, 0, 16⟩
/-- The register TDM_WIT_CFG. -/
abbrev R.TDM_WIT_CFG : Nat := 0x10110080
/-- TDM_WIT_CFG.EN: bit 0. -/
abbrev F.TDM_WIT_CFG_EN : Fld := ⟨R.TDM_WIT_CFG, 0, 1⟩
/-- TDM_WIT_CFG.HB_MISS: bits 21:8. -/
abbrev F.TDM_WIT_CFG_HB_MISS : Fld := ⟨R.TDM_WIT_CFG, 8, 14⟩
/-- The register TDM_WIT_STAT. -/
abbrev R.TDM_WIT_STAT : Nat := 0x10110084
/-- TDM_WIT_STAT.CODE_A: bits 2:0. -/
abbrev F.TDM_WIT_STAT_CODE_A : Fld := ⟨R.TDM_WIT_STAT, 0, 3⟩
/-- TDM_WIT_STAT.CODE_B: bits 6:4. -/
abbrev F.TDM_WIT_STAT_CODE_B : Fld := ⟨R.TDM_WIT_STAT, 4, 3⟩
/-- TDM_WIT_STAT.GRANT: bits 9:8. -/
abbrev F.TDM_WIT_STAT_GRANT : Fld := ⟨R.TDM_WIT_STAT, 8, 2⟩
/-- TDM_WIT_STAT.MOVES: bits 31:16. -/
abbrev F.TDM_WIT_STAT_MOVES : Fld := ⟨R.TDM_WIT_STAT, 16, 16⟩

/-! ## PWR -/

/-- The register PWR_FEEDA. -/
abbrev R.PWR_FEEDA : Nat := 0x10140200
/-- PWR_FEEDA.MV: bits 15:0. -/
abbrev F.PWR_FEEDA_MV : Fld := ⟨R.PWR_FEEDA, 0, 16⟩
/-- PWR_FEEDA.MA: bits 31:16. -/
abbrev F.PWR_FEEDA_MA : Fld := ⟨R.PWR_FEEDA, 16, 16⟩
/-- The register PWR_FEEDB. -/
abbrev R.PWR_FEEDB : Nat := 0x10140204
/-- PWR_FEEDB.MV: bits 15:0. -/
abbrev F.PWR_FEEDB_MV : Fld := ⟨R.PWR_FEEDB, 0, 16⟩
/-- PWR_FEEDB.MA: bits 31:16. -/
abbrev F.PWR_FEEDB_MA : Fld := ⟨R.PWR_FEEDB, 16, 16⟩
/-- The register PWR_FEED_STAT. -/
abbrev R.PWR_FEED_STAT : Nat := 0x10140208
/-- PWR_FEED_STAT.A_OK: bit 0. -/
abbrev F.PWR_FEED_STAT_A_OK : Fld := ⟨R.PWR_FEED_STAT, 0, 1⟩
/-- PWR_FEED_STAT.B_OK: bit 1. -/
abbrev F.PWR_FEED_STAT_B_OK : Fld := ⟨R.PWR_FEED_STAT, 1, 1⟩
/-- PWR_FEED_STAT.A_OC: bit 2. -/
abbrev F.PWR_FEED_STAT_A_OC : Fld := ⟨R.PWR_FEED_STAT, 2, 1⟩
/-- PWR_FEED_STAT.B_OC: bit 3. -/
abbrev F.PWR_FEED_STAT_B_OC : Fld := ⟨R.PWR_FEED_STAT, 3, 1⟩
/-- PWR_FEED_STAT.A_LOSS: bits 23:16. -/
abbrev F.PWR_FEED_STAT_A_LOSS : Fld := ⟨R.PWR_FEED_STAT, 16, 8⟩
/-- PWR_FEED_STAT.B_LOSS: bits 31:24. -/
abbrev F.PWR_FEED_STAT_B_LOSS : Fld := ⟨R.PWR_FEED_STAT, 24, 8⟩

/-! ## EVR -/

/-- The register EVR_CFG. -/
abbrev R.EVR_CFG : Nat := 0x10120040
/-- EVR_CFG.FLUSH_SEV: bits 2:0. -/
abbrev F.EVR_CFG_FLUSH_SEV : Fld := ⟨R.EVR_CFG, 0, 3⟩
/-- EVR_CFG.HOST_SEV_MAX: bits 6:4. -/
abbrev F.EVR_CFG_HOST_SEV_MAX : Fld := ⟨R.EVR_CFG, 4, 3⟩
/-- EVR_CFG.RD_OPEN: bit 8. -/
abbrev F.EVR_CFG_RD_OPEN : Fld := ⟨R.EVR_CFG, 8, 1⟩
/-- EVR_CFG.CLR_EN: bit 9. -/
abbrev F.EVR_CFG_CLR_EN : Fld := ⟨R.EVR_CFG, 9, 1⟩
/-- EVR_CFG.CLR_SLOT: bits 12:10. -/
abbrev F.EVR_CFG_CLR_SLOT : Fld := ⟨R.EVR_CFG, 10, 3⟩
/-- The register EVR_SEQ_LO. -/
abbrev R.EVR_SEQ_LO : Nat := 0x10120044
/-- EVR_SEQ_LO.SEQ: bits 31:0. -/
abbrev F.EVR_SEQ_LO_SEQ : Fld := ⟨R.EVR_SEQ_LO, 0, 32⟩
/-- The register EVR_SEQ_HI. -/
abbrev R.EVR_SEQ_HI : Nat := 0x10120048
/-- EVR_SEQ_HI.SEQ: bits 15:0. -/
abbrev F.EVR_SEQ_HI_SEQ : Fld := ⟨R.EVR_SEQ_HI, 0, 16⟩
/-- The register EVR_BUF_STAT. -/
abbrev R.EVR_BUF_STAT : Nat := 0x1012004c
/-- EVR_BUF_STAT.UNFLUSHED: bits 12:0. -/
abbrev F.EVR_BUF_STAT_UNFLUSHED : Fld := ⟨R.EVR_BUF_STAT, 0, 13⟩
/-- The register EVR_LOG_STAT. -/
abbrev R.EVR_LOG_STAT : Nat := 0x10120050
/-- EVR_LOG_STAT.COUNT: bits 20:0. -/
abbrev F.EVR_LOG_STAT_COUNT : Fld := ⟨R.EVR_LOG_STAT, 0, 21⟩
/-- The register EVR_DROPs. -/
abbrev R.EVR_DROPs (s : Nat) : Nat := 0x10120060 + 0x4 * s
/-- EVR_DROPs.COUNT: bits 15:0. -/
abbrev F.EVR_DROPs_COUNT (s : Nat) : Fld := ⟨R.EVR_DROPs s, 0, 16⟩
/-- The register EVR_CMD. -/
abbrev R.EVR_CMD : Nat := 0x10120080
/-- EVR_CMD.OP: bits 2:0. -/
abbrev F.EVR_CMD_OP : Fld := ⟨R.EVR_CMD, 0, 3⟩
/-- EVR_CMD.GO: bit 31. -/
abbrev F.EVR_CMD_GO : Fld := ⟨R.EVR_CMD, 31, 1⟩
/-- The register EVR_CUR_LO. -/
abbrev R.EVR_CUR_LO : Nat := 0x10120084
/-- EVR_CUR_LO.SEQ: bits 31:0. -/
abbrev F.EVR_CUR_LO_SEQ : Fld := ⟨R.EVR_CUR_LO, 0, 32⟩
/-- The register EVR_CUR_HI. -/
abbrev R.EVR_CUR_HI : Nat := 0x10120088
/-- EVR_CUR_HI.SEQ: bits 15:0. -/
abbrev F.EVR_CUR_HI_SEQ : Fld := ⟨R.EVR_CUR_HI, 0, 16⟩
/-- The register EVR_WIN_STAT. -/
abbrev R.EVR_WIN_STAT : Nat := 0x1012008c
/-- EVR_WIN_STAT.COUNT: bits 3:0. -/
abbrev F.EVR_WIN_STAT_COUNT : Fld := ⟨R.EVR_WIN_STAT, 0, 4⟩
/-- EVR_WIN_STAT.BAD: bits 15:8. -/
abbrev F.EVR_WIN_STAT_BAD : Fld := ⟨R.EVR_WIN_STAT, 8, 8⟩
/-- EVR_WIN_STAT.END: bit 16. -/
abbrev F.EVR_WIN_STAT_END : Fld := ⟨R.EVR_WIN_STAT, 16, 1⟩
/-- EVR_WIN_STAT.PEND: bit 17. -/
abbrev F.EVR_WIN_STAT_PEND : Fld := ⟨R.EVR_WIN_STAT, 17, 1⟩
/-- EVR_WIN_STAT.NOROOT: bit 18. -/
abbrev F.EVR_WIN_STAT_NOROOT : Fld := ⟨R.EVR_WIN_STAT, 18, 1⟩
/-- The register EVR_TOK_LO. -/
abbrev R.EVR_TOK_LO : Nat := 0x10120090
/-- EVR_TOK_LO.ADDR: bits 31:0. -/
abbrev F.EVR_TOK_LO_ADDR : Fld := ⟨R.EVR_TOK_LO, 0, 32⟩
/-- The register EVR_TOK_HI. -/
abbrev R.EVR_TOK_HI : Nat := 0x10120094
/-- EVR_TOK_HI.ADDR: bits 7:0. -/
abbrev F.EVR_TOK_HI_ADDR : Fld := ⟨R.EVR_TOK_HI, 0, 8⟩
/-- The register EVR_CLR_STAT. -/
abbrev R.EVR_CLR_STAT : Nat := 0x10120098
/-- EVR_CLR_STAT.RESULT: bits 3:0. -/
abbrev F.EVR_CLR_STAT_RESULT : Fld := ⟨R.EVR_CLR_STAT, 0, 4⟩
/-- EVR_CLR_STAT.PEND: bit 4. -/
abbrev F.EVR_CLR_STAT_PEND : Fld := ⟨R.EVR_CLR_STAT, 4, 1⟩
/-- EVR_CLR_STAT.CLEARS: bits 31:16. -/
abbrev F.EVR_CLR_STAT_CLEARS : Fld := ⟨R.EVR_CLR_STAT, 16, 16⟩
/-- The register EVR_NONCEk. -/
abbrev R.EVR_NONCEk (k : Nat) : Nat := 0x101200a0 + 0x4 * k
/-- EVR_NONCEk.NONCE: bits 31:0. -/
abbrev F.EVR_NONCEk_NONCE (k : Nat) : Fld := ⟨R.EVR_NONCEk k, 0, 32⟩
/-- The register EVR_POSTc_Pk. -/
abbrev R.EVR_POSTc_Pk (c k : Nat) : Nat := 0x10120100 + 0x20 * c + 0x4 * k
/-- EVR_POSTc_Pk.P: bits 31:0. -/
abbrev F.EVR_POSTc_Pk_P (c k : Nat) : Fld := ⟨R.EVR_POSTc_Pk c k, 0, 32⟩
/-- The register EVR_POSTc_CMD. -/
abbrev R.EVR_POSTc_CMD (c : Nat) : Nat := 0x10120110 + 0x20 * c
/-- EVR_POSTc_CMD.CODE: bits 15:0. -/
abbrev F.EVR_POSTc_CMD_CODE (c : Nat) : Fld := ⟨R.EVR_POSTc_CMD c, 0, 16⟩
/-- EVR_POSTc_CMD.SEV: bits 18:16. -/
abbrev F.EVR_POSTc_CMD_SEV (c : Nat) : Fld := ⟨R.EVR_POSTc_CMD c, 16, 3⟩
/-- EVR_POSTc_CMD.CONT: bit 19. -/
abbrev F.EVR_POSTc_CMD_CONT (c : Nat) : Fld := ⟨R.EVR_POSTc_CMD c, 19, 1⟩
/-- EVR_POSTc_CMD.GO: bit 31. -/
abbrev F.EVR_POSTc_CMD_GO (c : Nat) : Fld := ⟨R.EVR_POSTc_CMD c, 31, 1⟩
/-- The register EVR_WINi. -/
abbrev R.EVR_WINi (i k : Nat) : Nat := 0x10120400 + 0x20 * i + 0x4 * k
/-- EVR_WINi.RECORD: bits 31:0. -/
abbrev F.EVR_WINi_RECORD (i k : Nat) : Fld := ⟨R.EVR_WINi i k, 0, 32⟩

/-! ## KST -/

/-- The register KST_CMD. -/
abbrev R.KST_CMD : Nat := 0x10130040
/-- KST_CMD.SLOT: bits 4:0. -/
abbrev F.KST_CMD_SLOT : Fld := ⟨R.KST_CMD, 0, 5⟩
/-- KST_CMD.OP: bits 12:8. -/
abbrev F.KST_CMD_OP : Fld := ⟨R.KST_CMD, 8, 5⟩
/-- KST_CMD.GO: bit 31. -/
abbrev F.KST_CMD_GO : Fld := ⟨R.KST_CMD, 31, 1⟩
/-- The register KST_ARG_LO. -/
abbrev R.KST_ARG_LO : Nat := 0x10130044
/-- KST_ARG_LO.ADDR: bits 31:0. -/
abbrev F.KST_ARG_LO_ADDR : Fld := ⟨R.KST_ARG_LO, 0, 32⟩
/-- The register KST_ARG_HI. -/
abbrev R.KST_ARG_HI : Nat := 0x10130048
/-- KST_ARG_HI.ADDR: bits 7:0. -/
abbrev F.KST_ARG_HI_ADDR : Fld := ⟨R.KST_ARG_HI, 0, 8⟩
/-- The register KST_OUT_LO. -/
abbrev R.KST_OUT_LO : Nat := 0x1013004c
/-- KST_OUT_LO.ADDR: bits 31:0. -/
abbrev F.KST_OUT_LO_ADDR : Fld := ⟨R.KST_OUT_LO, 0, 32⟩
/-- The register KST_OUT_HI. -/
abbrev R.KST_OUT_HI : Nat := 0x10130050
/-- KST_OUT_HI.ADDR: bits 7:0. -/
abbrev F.KST_OUT_HI_ADDR : Fld := ⟨R.KST_OUT_HI, 0, 8⟩
/-- The register KST_RES. -/
abbrev R.KST_RES : Nat := 0x10130054
/-- KST_RES.PEND: bit 0. -/
abbrev F.KST_RES_PEND : Fld := ⟨R.KST_RES, 0, 1⟩
/-- KST_RES.RESULT: bits 7:4. -/
abbrev F.KST_RES_RESULT : Fld := ⟨R.KST_RES, 4, 4⟩
/-- KST_RES.SLOT: bits 12:8. -/
abbrev F.KST_RES_SLOT : Fld := ⟨R.KST_RES, 8, 5⟩
/-- The register KST_LC. -/
abbrev R.KST_LC : Nat := 0x10130058
/-- KST_LC.STATE: bits 2:0. -/
abbrev F.KST_LC_STATE : Fld := ⟨R.KST_LC, 0, 3⟩
/-- KST_LC.DBG_EN: bit 4. -/
abbrev F.KST_LC_DBG_EN : Fld := ⟨R.KST_LC, 4, 1⟩
/-- KST_LC.DBG_ATTACHED: bit 5. -/
abbrev F.KST_LC_DBG_ATTACHED : Fld := ⟨R.KST_LC, 5, 1⟩
/-- KST_LC.ENTROPY_OK: bit 6. -/
abbrev F.KST_LC_ENTROPY_OK : Fld := ⟨R.KST_LC, 6, 1⟩
/-- KST_LC.RESET_PEND: bit 7. -/
abbrev F.KST_LC_RESET_PEND : Fld := ⟨R.KST_LC, 7, 1⟩
/-- KST_LC.ROOTS: bits 11:8. -/
abbrev F.KST_LC_ROOTS : Fld := ⟨R.KST_LC, 8, 4⟩
/-- The register KST_NONCEk. -/
abbrev R.KST_NONCEk (k : Nat) : Nat := 0x10130060 + 0x4 * k
/-- KST_NONCEk.NONCE: bits 31:0. -/
abbrev F.KST_NONCEk_NONCE (k : Nat) : Fld := ⟨R.KST_NONCEk k, 0, 32⟩
/-- The register KST_SERIALk. -/
abbrev R.KST_SERIALk (k : Nat) : Nat := 0x10130080 + 0x4 * k
/-- KST_SERIALk.SERIAL: bits 31:0. -/
abbrev F.KST_SERIALk_SERIAL (k : Nat) : Fld := ⟨R.KST_SERIALk k, 0, 32⟩
/-- The register KST_ROLLBACK. -/
abbrev R.KST_ROLLBACK : Nat := 0x10130090
/-- KST_ROLLBACK.COUNT: bits 6:0. -/
abbrev F.KST_ROLLBACK_COUNT : Fld := ⟨R.KST_ROLLBACK, 0, 7⟩
/-- The register KST_MEASr_k. -/
abbrev R.KST_MEASr_k (r k : Nat) : Nat := 0x10130100 + 0x20 * r + 0x4 * k
/-- KST_MEASr_k.MEAS: bits 31:0. -/
abbrev F.KST_MEASr_k_MEAS (r k : Nat) : Fld := ⟨R.KST_MEASr_k r k, 0, 32⟩
/-- The register KST_SLOTn_STAT. -/
abbrev R.KST_SLOTn_STAT (n : Nat) : Nat := 0x10130200 + 0x4 * n
/-- KST_SLOTn_STAT.STATE: bits 1:0. -/
abbrev F.KST_SLOTn_STAT_STATE (n : Nat) : Fld := ⟨R.KST_SLOTn_STAT n, 0, 2⟩
/-- KST_SLOTn_STAT.SHADOW: bits 3:2. -/
abbrev F.KST_SLOTn_STAT_SHADOW (n : Nat) : Fld := ⟨R.KST_SLOTn_STAT n, 2, 2⟩
/-- KST_SLOTn_STAT.ORIGIN: bits 6:4. -/
abbrev F.KST_SLOTn_STAT_ORIGIN (n : Nat) : Fld := ⟨R.KST_SLOTn_STAT n, 4, 3⟩
/-- KST_SLOTn_STAT.EPOCH: bits 31:16. -/
abbrev F.KST_SLOTn_STAT_EPOCH (n : Nat) : Fld := ⟨R.KST_SLOTn_STAT n, 16, 16⟩

/-! ## FAB -/

/-- The register FAB_QUOTAn. -/
abbrev R.FAB_QUOTAn (n : Nat) : Nat := 0x10020040 + 0x4 * n
/-- FAB_QUOTAn.RESV: bits 7:0. -/
abbrev F.FAB_QUOTAn_RESV (n : Nat) : Fld := ⟨R.FAB_QUOTAn n, 0, 8⟩
/-- FAB_QUOTAn.MAX: bits 15:8. -/
abbrev F.FAB_QUOTAn_MAX (n : Nat) : Fld := ⟨R.FAB_QUOTAn n, 8, 8⟩
/-- FAB_QUOTAn.WEIGHT: bits 19:16. -/
abbrev F.FAB_QUOTAn_WEIGHT (n : Nat) : Fld := ⟨R.FAB_QUOTAn n, 16, 4⟩
/-- The register FAB_USE. -/
abbrev R.FAB_USE : Nat := 0x10020080
/-- FAB_USE.NOW: bits 8:0. -/
abbrev F.FAB_USE_NOW : Fld := ⟨R.FAB_USE, 0, 9⟩
/-- FAB_USE.PEAK: bits 24:16. -/
abbrev F.FAB_USE_PEAK : Fld := ⟨R.FAB_USE, 16, 9⟩

/-! ## XLT -/

/-- The register XLT_CTXn_CFG. -/
abbrev R.XLT_CTXn_CFG (n : Nat) : Nat := 0x10030040 + 0x4 * n
/-- XLT_CTXn_CFG.ROOT: bits 27:0. -/
abbrev F.XLT_CTXn_CFG_ROOT (n : Nat) : Fld := ⟨R.XLT_CTXn_CFG n, 0, 28⟩
/-- XLT_CTXn_CFG.MODE: bits 29:28. -/
abbrev F.XLT_CTXn_CFG_MODE (n : Nat) : Fld := ⟨R.XLT_CTXn_CFG n, 28, 2⟩
/-- XLT_CTXn_CFG.STALL: bit 30. -/
abbrev F.XLT_CTXn_CFG_STALL (n : Nat) : Fld := ⟨R.XLT_CTXn_CFG n, 30, 1⟩
/-- XLT_CTXn_CFG.RT: bit 31. -/
abbrev F.XLT_CTXn_CFG_RT (n : Nat) : Fld := ⟨R.XLT_CTXn_CFG n, 31, 1⟩
/-- The register XLT_PIN_SEL. -/
abbrev R.XLT_PIN_SEL : Nat := 0x10030100
/-- XLT_PIN_SEL.CTX: bits 4:0. -/
abbrev F.XLT_PIN_SEL_CTX : Fld := ⟨R.XLT_PIN_SEL, 0, 5⟩
/-- XLT_PIN_SEL.RANGE: bits 10:8. -/
abbrev F.XLT_PIN_SEL_RANGE : Fld := ⟨R.XLT_PIN_SEL, 8, 3⟩
/-- The register XLT_PIN_VA. -/
abbrev R.XLT_PIN_VA : Nat := 0x10030104
/-- XLT_PIN_VA.VPN: bits 26:0. -/
abbrev F.XLT_PIN_VA_VPN : Fld := ⟨R.XLT_PIN_VA, 0, 27⟩
/-- The register XLT_PIN_PA. -/
abbrev R.XLT_PIN_PA : Nat := 0x10030108
/-- XLT_PIN_PA.PPN: bits 27:0. -/
abbrev F.XLT_PIN_PA_PPN : Fld := ⟨R.XLT_PIN_PA, 0, 28⟩
/-- The register XLT_PIN_CFG. -/
abbrev R.XLT_PIN_CFG : Nat := 0x1003010c
/-- XLT_PIN_CFG.PAGES: bits 26:0. -/
abbrev F.XLT_PIN_CFG_PAGES : Fld := ⟨R.XLT_PIN_CFG, 0, 27⟩
/-- XLT_PIN_CFG.R: bit 28. -/
abbrev F.XLT_PIN_CFG_R : Fld := ⟨R.XLT_PIN_CFG, 28, 1⟩
/-- XLT_PIN_CFG.W: bit 29. -/
abbrev F.XLT_PIN_CFG_W : Fld := ⟨R.XLT_PIN_CFG, 29, 1⟩
/-- XLT_PIN_CFG.EN: bit 31. -/
abbrev F.XLT_PIN_CFG_EN : Fld := ⟨R.XLT_PIN_CFG, 31, 1⟩
/-- The register XLT_CMD. -/
abbrev R.XLT_CMD : Nat := 0x10030110
/-- XLT_CMD.CTX: bits 4:0. -/
abbrev F.XLT_CMD_CTX : Fld := ⟨R.XLT_CMD, 0, 5⟩
/-- XLT_CMD.INVAL: bit 31. -/
abbrev F.XLT_CMD_INVAL : Fld := ⟨R.XLT_CMD, 31, 1⟩
/-- The register XLT_FAULT. -/
abbrev R.XLT_FAULT : Nat := 0x10030120
/-- XLT_FAULT.CTX: bits 4:0. -/
abbrev F.XLT_FAULT_CTX : Fld := ⟨R.XLT_FAULT, 0, 5⟩
/-- XLT_FAULT.CAUSE: bits 10:8. -/
abbrev F.XLT_FAULT_CAUSE : Fld := ⟨R.XLT_FAULT, 8, 3⟩
/-- XLT_FAULT.WRITE: bit 11. -/
abbrev F.XLT_FAULT_WRITE : Fld := ⟨R.XLT_FAULT, 11, 1⟩
/-- XLT_FAULT.VALID: bit 31. -/
abbrev F.XLT_FAULT_VALID : Fld := ⟨R.XLT_FAULT, 31, 1⟩
/-- The register XLT_FAULT_VA_LO. -/
abbrev R.XLT_FAULT_VA_LO : Nat := 0x10030124
/-- XLT_FAULT_VA_LO.VA: bits 31:0. -/
abbrev F.XLT_FAULT_VA_LO_VA : Fld := ⟨R.XLT_FAULT_VA_LO, 0, 32⟩
/-- The register XLT_FAULT_VA_HI. -/
abbrev R.XLT_FAULT_VA_HI : Nat := 0x10030128
/-- XLT_FAULT_VA_HI.VA: bits 7:0. -/
abbrev F.XLT_FAULT_VA_HI_VA : Fld := ⟨R.XLT_FAULT_VA_HI, 0, 8⟩
/-- The register XLT_FAULT_CNT. -/
abbrev R.XLT_FAULT_CNT : Nat := 0x1003012c
/-- XLT_FAULT_CNT.TOTAL: bits 15:0. -/
abbrev F.XLT_FAULT_CNT_TOTAL : Fld := ⟨R.XLT_FAULT_CNT, 0, 16⟩
/-- XLT_FAULT_CNT.DROPPED: bits 31:16. -/
abbrev F.XLT_FAULT_CNT_DROPPED : Fld := ⟨R.XLT_FAULT_CNT, 16, 16⟩

/-! ## MEM -/

/-- The register MEM_ECC_DRAM. -/
abbrev R.MEM_ECC_DRAM : Nat := 0x10040040
/-- MEM_ECC_DRAM.CORR: bits 15:0. -/
abbrev F.MEM_ECC_DRAM_CORR : Fld := ⟨R.MEM_ECC_DRAM, 0, 16⟩
/-- MEM_ECC_DRAM.UNCORR: bits 31:16. -/
abbrev F.MEM_ECC_DRAM_UNCORR : Fld := ⟨R.MEM_ECC_DRAM, 16, 16⟩
/-- The register MEM_ECC_SRAM. -/
abbrev R.MEM_ECC_SRAM : Nat := 0x10040044
/-- MEM_ECC_SRAM.CORR: bits 15:0. -/
abbrev F.MEM_ECC_SRAM_CORR : Fld := ⟨R.MEM_ECC_SRAM, 0, 16⟩
/-- MEM_ECC_SRAM.UNCORR: bits 31:16. -/
abbrev F.MEM_ECC_SRAM_UNCORR : Fld := ⟨R.MEM_ECC_SRAM, 16, 16⟩
/-- The register MEM_UE_ADDR_LO. -/
abbrev R.MEM_UE_ADDR_LO : Nat := 0x10040048
/-- MEM_UE_ADDR_LO.ADDR: bits 31:0. -/
abbrev F.MEM_UE_ADDR_LO_ADDR : Fld := ⟨R.MEM_UE_ADDR_LO, 0, 32⟩
/-- The register MEM_UE_ADDR_HI. -/
abbrev R.MEM_UE_ADDR_HI : Nat := 0x1004004c
/-- MEM_UE_ADDR_HI.ADDR: bits 7:0. -/
abbrev F.MEM_UE_ADDR_HI_ADDR : Fld := ⟨R.MEM_UE_ADDR_HI, 0, 8⟩

/-! ## NFM -/

/-- The register NFM_CMD. -/
abbrev R.NFM_CMD : Nat := 0x10050040
/-- NFM_CMD.PART: bits 3:0. -/
abbrev F.NFM_CMD_PART : Fld := ⟨R.NFM_CMD, 0, 4⟩
/-- NFM_CMD.OP: bits 6:4. -/
abbrev F.NFM_CMD_OP : Fld := ⟨R.NFM_CMD, 4, 3⟩
/-- NFM_CMD.GO: bit 31. -/
abbrev F.NFM_CMD_GO : Fld := ⟨R.NFM_CMD, 31, 1⟩
/-- The register NFM_ARG. -/
abbrev R.NFM_ARG : Nat := 0x10050044
/-- NFM_ARG.ARG: bits 31:0. -/
abbrev F.NFM_ARG_ARG : Fld := ⟨R.NFM_ARG, 0, 32⟩
/-- The register NFM_BUF_LO. -/
abbrev R.NFM_BUF_LO : Nat := 0x10050048
/-- NFM_BUF_LO.ADDR: bits 31:0. -/
abbrev F.NFM_BUF_LO_ADDR : Fld := ⟨R.NFM_BUF_LO, 0, 32⟩
/-- The register NFM_BUF_HI. -/
abbrev R.NFM_BUF_HI : Nat := 0x1005004c
/-- NFM_BUF_HI.ADDR: bits 7:0. -/
abbrev F.NFM_BUF_HI_ADDR : Fld := ⟨R.NFM_BUF_HI, 0, 8⟩
/-- The register NFM_RES. -/
abbrev R.NFM_RES : Nat := 0x10050050
/-- NFM_RES.PEND: bit 0. -/
abbrev F.NFM_RES_PEND : Fld := ⟨R.NFM_RES, 0, 1⟩
/-- NFM_RES.RESULT: bits 7:4. -/
abbrev F.NFM_RES_RESULT : Fld := ⟨R.NFM_RES, 4, 4⟩
/-- The register NFM_HEALTH. -/
abbrev R.NFM_HEALTH : Nat := 0x10050054
/-- NFM_HEALTH.SPARE: bits 15:0. -/
abbrev F.NFM_HEALTH_SPARE : Fld := ⟨R.NFM_HEALTH, 0, 16⟩
/-- NFM_HEALTH.WEAR: bits 25:16. -/
abbrev F.NFM_HEALTH_WEAR : Fld := ⟨R.NFM_HEALTH, 16, 10⟩

/-! ## BGS -/

/-- The register BGS_SCRUB_CFG. -/
abbrev R.BGS_SCRUB_CFG : Nat := 0x10170040
/-- BGS_SCRUB_CFG.HOURS: bits 7:0. -/
abbrev F.BGS_SCRUB_CFG_HOURS : Fld := ⟨R.BGS_SCRUB_CFG, 0, 8⟩
/-- BGS_SCRUB_CFG.SRAM_MIN: bits 15:8. -/
abbrev F.BGS_SCRUB_CFG_SRAM_MIN : Fld := ⟨R.BGS_SCRUB_CFG, 8, 8⟩
/-- The register BGS_BUDGET. -/
abbrev R.BGS_BUDGET : Nat := 0x10170044
/-- BGS_BUDGET.SCRUB_KBS: bits 15:0. -/
abbrev F.BGS_BUDGET_SCRUB_KBS : Fld := ⟨R.BGS_BUDGET, 0, 16⟩
/-- BGS_BUDGET.NAND_MBS: bits 23:16. -/
abbrev F.BGS_BUDGET_NAND_MBS : Fld := ⟨R.BGS_BUDGET, 16, 8⟩
/-- The register BGS_SCRUB_STAT. -/
abbrev R.BGS_SCRUB_STAT : Nat := 0x10170048
/-- BGS_SCRUB_STAT.COVER: bits 9:0. -/
abbrev F.BGS_SCRUB_STAT_COVER : Fld := ⟨R.BGS_SCRUB_STAT, 0, 10⟩
/-- The register BGS_TRUE_STAT. -/
abbrev R.BGS_TRUE_STAT : Nat := 0x1017004c
/-- BGS_TRUE_STAT.AGE: bits 15:0. -/
abbrev F.BGS_TRUE_STAT_AGE : Fld := ⟨R.BGS_TRUE_STAT, 0, 16⟩
/-- BGS_TRUE_STAT.METER: bit 16. -/
abbrev F.BGS_TRUE_STAT_METER : Fld := ⟨R.BGS_TRUE_STAT, 16, 1⟩
/-- BGS_TRUE_STAT.RTD: bit 17. -/
abbrev F.BGS_TRUE_STAT_RTD : Fld := ⟨R.BGS_TRUE_STAT, 17, 1⟩
/-- BGS_TRUE_STAT.DI: bit 18. -/
abbrev F.BGS_TRUE_STAT_DI : Fld := ⟨R.BGS_TRUE_STAT, 18, 1⟩
/-- The register BGS_TEL_BASE_LO. -/
abbrev R.BGS_TEL_BASE_LO : Nat := 0x10170050
/-- BGS_TEL_BASE_LO.LOG2N: bits 3:0. -/
abbrev F.BGS_TEL_BASE_LO_LOG2N : Fld := ⟨R.BGS_TEL_BASE_LO, 0, 4⟩
/-- BGS_TEL_BASE_LO.BASE: bits 31:12. -/
abbrev F.BGS_TEL_BASE_LO_BASE : Fld := ⟨R.BGS_TEL_BASE_LO, 12, 20⟩
/-- The register BGS_TEL_BASE_HI. -/
abbrev R.BGS_TEL_BASE_HI : Nat := 0x10170054
/-- BGS_TEL_BASE_HI.BASE: bits 7:0. -/
abbrev F.BGS_TEL_BASE_HI_BASE : Fld := ⟨R.BGS_TEL_BASE_HI, 0, 8⟩
/-- The register BGS_TEL_SEQ. -/
abbrev R.BGS_TEL_SEQ : Nat := 0x10170058
/-- BGS_TEL_SEQ.SEQ: bits 31:0. -/
abbrev F.BGS_TEL_SEQ_SEQ : Fld := ⟨R.BGS_TEL_SEQ, 0, 32⟩

/-! ## PWR -/

/-- The register PWR_SLEEP_CMD. -/
abbrev R.PWR_SLEEP_CMD : Nat := 0x10140040
/-- PWR_SLEEP_CMD.TARGET: bits 2:0. -/
abbrev F.PWR_SLEEP_CMD_TARGET : Fld := ⟨R.PWR_SLEEP_CMD, 0, 3⟩
/-- PWR_SLEEP_CMD.GO: bit 31. -/
abbrev F.PWR_SLEEP_CMD_GO : Fld := ⟨R.PWR_SLEEP_CMD, 31, 1⟩
/-- The register PWR_CFG. -/
abbrev R.PWR_CFG : Nat := 0x10140044
/-- PWR_CFG.NAP_SLV_OFF: bit 0. -/
abbrev F.PWR_CFG_NAP_SLV_OFF : Fld := ⟨R.PWR_CFG, 0, 1⟩
/-- PWR_CFG.NAP_PNL_OFF: bit 1. -/
abbrev F.PWR_CFG_NAP_PNL_OFF : Fld := ⟨R.PWR_CFG, 1, 1⟩
/-- PWR_CFG.IDLE_MS: bits 15:8. -/
abbrev F.PWR_CFG_IDLE_MS : Fld := ⟨R.PWR_CFG, 8, 8⟩
/-- The register PWR_WAKE_EN. -/
abbrev R.PWR_WAKE_EN : Nat := 0x10140048
/-- PWR_WAKE_EN.EN: bits 10:0. -/
abbrev F.PWR_WAKE_EN_EN : Fld := ⟨R.PWR_WAKE_EN, 0, 11⟩
/-- The register PWR_WAKE_LATCH. -/
abbrev R.PWR_WAKE_LATCH : Nat := 0x1014004c
/-- PWR_WAKE_LATCH.LATCH: bits 10:0. -/
abbrev F.PWR_WAKE_LATCH_LATCH : Fld := ⟨R.PWR_WAKE_LATCH, 0, 11⟩
/-- The register PWR_DI_WAKE. -/
abbrev R.PWR_DI_WAKE : Nat := 0x10140050
/-- PWR_DI_WAKE.MASK: bits 23:0. -/
abbrev F.PWR_DI_WAKE_MASK : Fld := ⟨R.PWR_DI_WAKE, 0, 24⟩
/-- PWR_DI_WAKE.RISE: bit 24. -/
abbrev F.PWR_DI_WAKE_RISE : Fld := ⟨R.PWR_DI_WAKE, 24, 1⟩
/-- PWR_DI_WAKE.FALL: bit 25. -/
abbrev F.PWR_DI_WAKE_FALL : Fld := ⟨R.PWR_DI_WAKE, 25, 1⟩
/-- The register PWR_TC_WAKE. -/
abbrev R.PWR_TC_WAKE : Nat := 0x10140054
/-- PWR_TC_WAKE.MASK: bits 3:0. -/
abbrev F.PWR_TC_WAKE_MASK : Fld := ⟨R.PWR_TC_WAKE, 0, 4⟩
/-- PWR_TC_WAKE.RISE: bit 4. -/
abbrev F.PWR_TC_WAKE_RISE : Fld := ⟨R.PWR_TC_WAKE, 4, 1⟩
/-- PWR_TC_WAKE.FALL: bit 5. -/
abbrev F.PWR_TC_WAKE_FALL : Fld := ⟨R.PWR_TC_WAKE, 5, 1⟩
/-- The register PWR_PAT_CFG. -/
abbrev R.PWR_PAT_CFG : Nat := 0x10140058
/-- PWR_PAT_CFG.RATE: bit 0. -/
abbrev F.PWR_PAT_CFG_RATE : Fld := ⟨R.PWR_PAT_CFG, 0, 1⟩
/-- The register PWR_PAT_MASK_LO. -/
abbrev R.PWR_PAT_MASK_LO : Nat := 0x1014005c
/-- PWR_PAT_MASK_LO.MASK: bits 31:0. -/
abbrev F.PWR_PAT_MASK_LO_MASK : Fld := ⟨R.PWR_PAT_MASK_LO, 0, 32⟩
/-- The register PWR_PAT_MASK_HI. -/
abbrev R.PWR_PAT_MASK_HI : Nat := 0x10140060
/-- PWR_PAT_MASK_HI.MASK: bits 31:0. -/
abbrev F.PWR_PAT_MASK_HI_MASK : Fld := ⟨R.PWR_PAT_MASK_HI, 0, 32⟩
/-- The register PWR_STATE. -/
abbrev R.PWR_STATE : Nat := 0x10140064
/-- PWR_STATE.CUR: bits 2:0. -/
abbrev F.PWR_STATE_CUR : Fld := ⟨R.PWR_STATE, 0, 3⟩
/-- PWR_STATE.LAST: bits 6:4. -/
abbrev F.PWR_STATE_LAST : Fld := ⟨R.PWR_STATE, 4, 3⟩
/-- PWR_STATE.TIME_GAP: bit 7. -/
abbrev F.PWR_STATE_TIME_GAP : Fld := ⟨R.PWR_STATE, 7, 1⟩
/-- PWR_STATE.REASON: bits 10:8. -/
abbrev F.PWR_STATE_REASON : Fld := ⟨R.PWR_STATE, 8, 3⟩
/-- PWR_STATE.WOKE_BY: bits 26:16. -/
abbrev F.PWR_STATE_WOKE_BY : Fld := ⟨R.PWR_STATE, 16, 11⟩
/-- The register PWR_FW_TICKS_LO. -/
abbrev R.PWR_FW_TICKS_LO : Nat := 0x10140068
/-- PWR_FW_TICKS_LO.TICKS: bits 31:0. -/
abbrev F.PWR_FW_TICKS_LO_TICKS : Fld := ⟨R.PWR_FW_TICKS_LO, 0, 32⟩
/-- The register PWR_FW_TICKS_HI. -/
abbrev R.PWR_FW_TICKS_HI : Nat := 0x1014006c
/-- PWR_FW_TICKS_HI.TICKS: bits 15:0. -/
abbrev F.PWR_FW_TICKS_HI_TICKS : Fld := ⟨R.PWR_FW_TICKS_HI, 0, 16⟩
/-- The register PWR_GAP_CNT. -/
abbrev R.PWR_GAP_CNT : Nat := 0x10140070
/-- PWR_GAP_CNT.COUNT: bits 15:0. -/
abbrev F.PWR_GAP_CNT_COUNT : Fld := ⟨R.PWR_GAP_CNT, 0, 16⟩
/-- The register PWR_RESUME_LO. -/
abbrev R.PWR_RESUME_LO : Nat := 0x10140074
/-- PWR_RESUME_LO.ADDR: bits 31:0. -/
abbrev F.PWR_RESUME_LO_ADDR : Fld := ⟨R.PWR_RESUME_LO, 0, 32⟩
/-- The register PWR_RESUME_HI. -/
abbrev R.PWR_RESUME_HI : Nat := 0x10140078
/-- PWR_RESUME_HI.ADDR: bits 7:0. -/
abbrev F.PWR_RESUME_HI_ADDR : Fld := ⟨R.PWR_RESUME_HI, 0, 8⟩
/-- The register PWR_PATk. -/
abbrev R.PWR_PATk (k : Nat) : Nat := 0x10140080 + 0x4 * k
/-- PWR_PATk.PAT: bits 31:0. -/
abbrev F.PWR_PATk_PAT (k : Nat) : Fld := ⟨R.PWR_PATk k, 0, 32⟩
/-- The register PWR_RESs_LO. -/
abbrev R.PWR_RESs_LO (s : Nat) : Nat := 0x10140100 + 0x8 * s
/-- PWR_RESs_LO.RES: bits 31:0. -/
abbrev F.PWR_RESs_LO_RES (s : Nat) : Fld := ⟨R.PWR_RESs_LO s, 0, 32⟩
/-- The register PWR_RESs_HI. -/
abbrev R.PWR_RESs_HI (s : Nat) : Nat := 0x10140104 + 0x8 * s
/-- PWR_RESs_HI.RES: bits 31:0. -/
abbrev F.PWR_RESs_HI_RES (s : Nat) : Fld := ⟨R.PWR_RESs_HI s, 0, 32⟩

/-! ## RTC -/

/-- The register RTC_CTL. -/
abbrev R.RTC_CTL : Nat := 0x10150040
/-- RTC_CTL.HALT: bit 0. -/
abbrev F.RTC_CTL_HALT : Fld := ⟨R.RTC_CTL, 0, 1⟩
/-- The register RTC_SEC. -/
abbrev R.RTC_SEC : Nat := 0x10150044
/-- RTC_SEC.SEC: bits 6:0. -/
abbrev F.RTC_SEC_SEC : Fld := ⟨R.RTC_SEC, 0, 7⟩
/-- RTC_SEC.LIVE: bit 7. -/
abbrev F.RTC_SEC_LIVE : Fld := ⟨R.RTC_SEC, 7, 1⟩
/-- The register RTC_TIME. -/
abbrev R.RTC_TIME : Nat := 0x10150048
/-- RTC_TIME.MIN: bits 6:0. -/
abbrev F.RTC_TIME_MIN : Fld := ⟨R.RTC_TIME, 0, 7⟩
/-- RTC_TIME.HOUR: bits 13:8. -/
abbrev F.RTC_TIME_HOUR : Fld := ⟨R.RTC_TIME, 8, 6⟩
/-- RTC_TIME.WDAY: bits 18:16. -/
abbrev F.RTC_TIME_WDAY : Fld := ⟨R.RTC_TIME, 16, 3⟩
/-- The register RTC_DATE. -/
abbrev R.RTC_DATE : Nat := 0x1015004c
/-- RTC_DATE.DAY: bits 5:0. -/
abbrev F.RTC_DATE_DAY : Fld := ⟨R.RTC_DATE, 0, 6⟩
/-- RTC_DATE.MON: bits 12:8. -/
abbrev F.RTC_DATE_MON : Fld := ⟨R.RTC_DATE, 8, 5⟩
/-- RTC_DATE.CENTURY: bit 15. -/
abbrev F.RTC_DATE_CENTURY : Fld := ⟨R.RTC_DATE, 15, 1⟩
/-- The register RTC_YEAR. -/
abbrev R.RTC_YEAR : Nat := 0x10150050
/-- RTC_YEAR.YEAR: bits 7:0. -/
abbrev F.RTC_YEAR_YEAR : Fld := ⟨R.RTC_YEAR, 0, 8⟩
/-- RTC_YEAR.HELD: bit 8. -/
abbrev F.RTC_YEAR_HELD : Fld := ⟨R.RTC_YEAR, 8, 1⟩
/-- The register RTC_SUB. -/
abbrev R.RTC_SUB : Nat := 0x10150054
/-- RTC_SUB.SUB: bits 14:0. -/
abbrev F.RTC_SUB_SUB : Fld := ⟨R.RTC_SUB, 0, 15⟩
/-- The register RTC_ALM_TIME. -/
abbrev R.RTC_ALM_TIME : Nat := 0x10150060
/-- RTC_ALM_TIME.SEC: bits 6:0. -/
abbrev F.RTC_ALM_TIME_SEC : Fld := ⟨R.RTC_ALM_TIME, 0, 7⟩
/-- RTC_ALM_TIME.MIN: bits 14:8. -/
abbrev F.RTC_ALM_TIME_MIN : Fld := ⟨R.RTC_ALM_TIME, 8, 7⟩
/-- RTC_ALM_TIME.HOUR: bits 21:16. -/
abbrev F.RTC_ALM_TIME_HOUR : Fld := ⟨R.RTC_ALM_TIME, 16, 6⟩
/-- The register RTC_ALM_DATE. -/
abbrev R.RTC_ALM_DATE : Nat := 0x10150064
/-- RTC_ALM_DATE.DAY: bits 5:0. -/
abbrev F.RTC_ALM_DATE_DAY : Fld := ⟨R.RTC_ALM_DATE, 0, 6⟩
/-- RTC_ALM_DATE.MON: bits 12:8. -/
abbrev F.RTC_ALM_DATE_MON : Fld := ⟨R.RTC_ALM_DATE, 8, 5⟩
/-- RTC_ALM_DATE.WDAY: bits 18:16. -/
abbrev F.RTC_ALM_DATE_WDAY : Fld := ⟨R.RTC_ALM_DATE, 16, 3⟩
/-- RTC_ALM_DATE.MASK: bits 29:24. -/
abbrev F.RTC_ALM_DATE_MASK : Fld := ⟨R.RTC_ALM_DATE, 24, 6⟩
/-- RTC_ALM_DATE.ARM: bit 31. -/
abbrev F.RTC_ALM_DATE_ARM : Fld := ⟨R.RTC_ALM_DATE, 31, 1⟩
/-- The register RTC_ALM_STAT. -/
abbrev R.RTC_ALM_STAT : Nat := 0x10150068
/-- RTC_ALM_STAT.FIRED: bit 0. -/
abbrev F.RTC_ALM_STAT_FIRED : Fld := ⟨R.RTC_ALM_STAT, 0, 1⟩
/-- RTC_ALM_STAT.ALM_SKIP: bit 1. -/
abbrev F.RTC_ALM_STAT_ALM_SKIP : Fld := ⟨R.RTC_ALM_STAT, 1, 1⟩
/-- RTC_ALM_STAT.PFIRED: bit 2. -/
abbrev F.RTC_ALM_STAT_PFIRED : Fld := ⟨R.RTC_ALM_STAT, 2, 1⟩
/-- The register RTC_PER. -/
abbrev R.RTC_PER : Nat := 0x1015006c
/-- RTC_PER.PER: bits 24:0. -/
abbrev F.RTC_PER_PER : Fld := ⟨R.RTC_PER, 0, 25⟩

/-! ## PNL -/

/-- The register PNL_CFG. -/
abbrev R.PNL_CFG : Nat := 0x10160040
/-- PNL_CFG.WIDTH: bits 9:0. -/
abbrev F.PNL_CFG_WIDTH : Fld := ⟨R.PNL_CFG, 0, 10⟩
/-- PNL_CFG.HEIGHT: bits 18:10. -/
abbrev F.PNL_CFG_HEIGHT : Fld := ⟨R.PNL_CFG, 10, 9⟩
/-- PNL_CFG.DIV: bits 27:20. -/
abbrev F.PNL_CFG_DIV : Fld := ⟨R.PNL_CFG, 20, 8⟩
/-- The register PNL_COM. -/
abbrev R.PNL_COM : Nat := 0x10160044
/-- PNL_COM.HZ: bits 5:0. -/
abbrev F.PNL_COM_HZ : Fld := ⟨R.PNL_COM, 0, 6⟩
/-- PNL_COM.STAGGER: bits 15:8. -/
abbrev F.PNL_COM_STAGGER : Fld := ⟨R.PNL_COM, 8, 8⟩
/-- The register PNL_PWR_CFG. -/
abbrev R.PNL_PWR_CFG : Nat := 0x10160048
/-- PNL_PWR_CFG.T_VDD: bits 7:0. -/
abbrev F.PNL_PWR_CFG_T_VDD : Fld := ⟨R.PNL_PWR_CFG, 0, 8⟩
/-- PNL_PWR_CFG.T_VA: bits 15:8. -/
abbrev F.PNL_PWR_CFG_T_VA : Fld := ⟨R.PNL_PWR_CFG, 8, 8⟩
/-- The register PNL_PWR_CMD. -/
abbrev R.PNL_PWR_CMD : Nat := 0x1016004c
/-- PNL_PWR_CMD.OP: bits 1:0. -/
abbrev F.PNL_PWR_CMD_OP : Fld := ⟨R.PNL_PWR_CMD, 0, 2⟩
/-- PNL_PWR_CMD.GO: bit 31. -/
abbrev F.PNL_PWR_CMD_GO : Fld := ⟨R.PNL_PWR_CMD, 31, 1⟩
/-- The register PNL_PWR_STAT. -/
abbrev R.PNL_PWR_STAT : Nat := 0x10160050
/-- PNL_PWR_STAT.STATE: bits 2:0. -/
abbrev F.PNL_PWR_STAT_STATE : Fld := ⟨R.PNL_PWR_STAT, 0, 3⟩
/-- PNL_PWR_STAT.FULL_PEND: bit 3. -/
abbrev F.PNL_PWR_STAT_FULL_PEND : Fld := ⟨R.PNL_PWR_STAT, 3, 1⟩
/-- PNL_PWR_STAT.UNIF_OFF: bit 4. -/
abbrev F.PNL_PWR_STAT_UNIF_OFF : Fld := ⟨R.PNL_PWR_STAT, 4, 1⟩
/-- PNL_PWR_STAT.AON_VALID: bit 5. -/
abbrev F.PNL_PWR_STAT_AON_VALID : Fld := ⟨R.PNL_PWR_STAT, 5, 1⟩
/-- The register PNL_REGr_CFG. -/
abbrev R.PNL_REGr_CFG (r : Nat) : Nat := 0x10160080 + 0x10 * r
/-- PNL_REGr_CFG.FIRST: bits 8:0. -/
abbrev F.PNL_REGr_CFG_FIRST (r : Nat) : Fld := ⟨R.PNL_REGr_CFG r, 0, 9⟩
/-- PNL_REGr_CFG.NLINES: bits 24:16. -/
abbrev F.PNL_REGr_CFG_NLINES (r : Nat) : Fld := ⟨R.PNL_REGr_CFG r, 16, 9⟩
/-- PNL_REGr_CFG.EN: bit 31. -/
abbrev F.PNL_REGr_CFG_EN (r : Nat) : Fld := ⟨R.PNL_REGr_CFG r, 31, 1⟩
/-- The register PNL_REGr_BASE_LO. -/
abbrev R.PNL_REGr_BASE_LO (r : Nat) : Nat := 0x10160084 + 0x10 * r
/-- PNL_REGr_BASE_LO.BASE: bits 31:6. -/
abbrev F.PNL_REGr_BASE_LO_BASE (r : Nat) : Fld := ⟨R.PNL_REGr_BASE_LO r, 6, 26⟩
/-- The register PNL_REGr_BASE_HI. -/
abbrev R.PNL_REGr_BASE_HI (r : Nat) : Nat := 0x10160088 + 0x10 * r
/-- PNL_REGr_BASE_HI.BASE: bits 7:0. -/
abbrev F.PNL_REGr_BASE_HI_BASE (r : Nat) : Fld := ⟨R.PNL_REGr_BASE_HI r, 0, 8⟩
/-- The register PNL_REGr_STRIDE. -/
abbrev R.PNL_REGr_STRIDE (r : Nat) : Nat := 0x1016008c + 0x10 * r
/-- PNL_REGr_STRIDE.STRIDE: bits 15:0. -/
abbrev F.PNL_REGr_STRIDE_STRIDE (r : Nat) : Fld := ⟨R.PNL_REGr_STRIDE r, 0, 16⟩
/-- The register PNL_UPD_CMD. -/
abbrev R.PNL_UPD_CMD : Nat := 0x10160100
/-- PNL_UPD_CMD.REGIONS: bits 7:0. -/
abbrev F.PNL_UPD_CMD_REGIONS : Fld := ⟨R.PNL_UPD_CMD, 0, 8⟩
/-- PNL_UPD_CMD.GO: bit 31. -/
abbrev F.PNL_UPD_CMD_GO : Fld := ⟨R.PNL_UPD_CMD, 31, 1⟩
/-- The register PNL_UPD_STAT. -/
abbrev R.PNL_UPD_STAT : Nat := 0x10160104
/-- PNL_UPD_STAT.RUN: bits 2:0. -/
abbrev F.PNL_UPD_STAT_RUN : Fld := ⟨R.PNL_UPD_STAT, 0, 3⟩
/-- PNL_UPD_STAT.RUNNING: bit 3. -/
abbrev F.PNL_UPD_STAT_RUNNING : Fld := ⟨R.PNL_UPD_STAT, 3, 1⟩
/-- PNL_UPD_STAT.PEND: bits 15:8. -/
abbrev F.PNL_UPD_STAT_PEND : Fld := ⟨R.PNL_UPD_STAT, 8, 8⟩
/-- PNL_UPD_STAT.LINE: bits 24:16. -/
abbrev F.PNL_UPD_STAT_LINE : Fld := ⟨R.PNL_UPD_STAT, 16, 9⟩
/-- The register PNL_UPD_CNT. -/
abbrev R.PNL_UPD_CNT : Nat := 0x10160108
/-- PNL_UPD_CNT.DONE: bits 15:0. -/
abbrev F.PNL_UPD_CNT_DONE : Fld := ⟨R.PNL_UPD_CNT, 0, 16⟩
/-- PNL_UPD_CNT.REPLACED: bits 31:16. -/
abbrev F.PNL_UPD_CNT_REPLACED : Fld := ⟨R.PNL_UPD_CNT, 16, 16⟩
/-- The register PNL_AON_CFG. -/
abbrev R.PNL_AON_CFG : Nat := 0x10160110
/-- PNL_AON_CFG.FIRST: bits 8:0. -/
abbrev F.PNL_AON_CFG_FIRST : Fld := ⟨R.PNL_AON_CFG, 0, 9⟩
/-- PNL_AON_CFG.LINES: bits 21:16. -/
abbrev F.PNL_AON_CFG_LINES : Fld := ⟨R.PNL_AON_CFG, 16, 6⟩
/-- PNL_AON_CFG.BPP: bit 24. -/
abbrev F.PNL_AON_CFG_BPP : Fld := ⟨R.PNL_AON_CFG, 24, 1⟩
/-- PNL_AON_CFG.EN: bit 31. -/
abbrev F.PNL_AON_CFG_EN : Fld := ⟨R.PNL_AON_CFG, 31, 1⟩
/-- The register PNL_AON_PAL. -/
abbrev R.PNL_AON_PAL : Nat := 0x10160114
/-- PNL_AON_PAL.PAL: bits 15:0. -/
abbrev F.PNL_AON_PAL_PAL : Fld := ⟨R.PNL_AON_PAL, 0, 16⟩
/-- The register PNL_AON_TIME. -/
abbrev R.PNL_AON_TIME : Nat := 0x10160118
/-- PNL_AON_TIME.AON_HZ: bits 5:0. -/
abbrev F.PNL_AON_TIME_AON_HZ : Fld := ⟨R.PNL_AON_TIME, 0, 6⟩
/-- PNL_AON_TIME.REFRESH_S: bits 15:8. -/
abbrev F.PNL_AON_TIME_REFRESH_S : Fld := ⟨R.PNL_AON_TIME, 8, 8⟩
/-- The register PNL_AON_SRC_LO. -/
abbrev R.PNL_AON_SRC_LO : Nat := 0x1016011c
/-- PNL_AON_SRC_LO.ADDR: bits 31:0. -/
abbrev F.PNL_AON_SRC_LO_ADDR : Fld := ⟨R.PNL_AON_SRC_LO, 0, 32⟩
/-- The register PNL_AON_SRC_HI. -/
abbrev R.PNL_AON_SRC_HI : Nat := 0x10160120
/-- PNL_AON_SRC_HI.ADDR: bits 7:0. -/
abbrev F.PNL_AON_SRC_HI_ADDR : Fld := ⟨R.PNL_AON_SRC_HI, 0, 8⟩
/-- The register PNL_AON_CMD. -/
abbrev R.PNL_AON_CMD : Nat := 0x10160124
/-- PNL_AON_CMD.LOAD: bit 31. -/
abbrev F.PNL_AON_CMD_LOAD : Fld := ⟨R.PNL_AON_CMD, 31, 1⟩

/-! ## PFM -/

/-- The register PFM_CFG. -/
abbrev R.PFM_CFG : Nat := 0x10060040
/-- PFM_CFG.WIN: bits 19:0. -/
abbrev F.PFM_CFG_WIN : Fld := ⟨R.PFM_CFG, 0, 20⟩
/-- PFM_CFG.DUMP_EN: bit 31. -/
abbrev F.PFM_CFG_DUMP_EN : Fld := ⟨R.PFM_CFG, 31, 1⟩
/-- The register PFM_USER_CTRL. -/
abbrev R.PFM_USER_CTRL : Nat := 0x10060044
/-- PFM_USER_CTRL.USER_OK: bit 0. -/
abbrev F.PFM_USER_CTRL_USER_OK : Fld := ⟨R.PFM_USER_CTRL, 0, 1⟩
/-- The register PFM_RING_BASE_LO. -/
abbrev R.PFM_RING_BASE_LO : Nat := 0x10060048
/-- PFM_RING_BASE_LO.LOG2N: bits 3:0. -/
abbrev F.PFM_RING_BASE_LO_LOG2N : Fld := ⟨R.PFM_RING_BASE_LO, 0, 4⟩
/-- PFM_RING_BASE_LO.BASE: bits 31:12. -/
abbrev F.PFM_RING_BASE_LO_BASE : Fld := ⟨R.PFM_RING_BASE_LO, 12, 20⟩
/-- The register PFM_RING_BASE_HI. -/
abbrev R.PFM_RING_BASE_HI : Nat := 0x1006004c
/-- PFM_RING_BASE_HI.BASE: bits 7:0. -/
abbrev F.PFM_RING_BASE_HI_BASE : Fld := ⟨R.PFM_RING_BASE_HI, 0, 8⟩
/-- The register PFM_RING_IDX. -/
abbrev R.PFM_RING_IDX : Nat := 0x10060050
/-- PFM_RING_IDX.WR: bits 15:0. -/
abbrev F.PFM_RING_IDX_WR : Fld := ⟨R.PFM_RING_IDX, 0, 16⟩
/-- PFM_RING_IDX.RD: bits 31:16. -/
abbrev F.PFM_RING_IDX_RD : Fld := ⟨R.PFM_RING_IDX, 16, 16⟩
/-- The register PFM_DROP. -/
abbrev R.PFM_DROP : Nat := 0x10060054
/-- PFM_DROP.COUNT: bits 15:0. -/
abbrev F.PFM_DROP_COUNT : Fld := ⟨R.PFM_DROP, 0, 16⟩
/-- The register PFM_WSEQ. -/
abbrev R.PFM_WSEQ : Nat := 0x10060058
/-- PFM_WSEQ.SEQ: bits 31:0. -/
abbrev F.PFM_WSEQ_SEQ : Fld := ⟨R.PFM_WSEQ, 0, 32⟩
/-- The register PFM_WEND_LO. -/
abbrev R.PFM_WEND_LO : Nat := 0x1006005c
/-- PFM_WEND_LO.T_END: bits 31:0. -/
abbrev F.PFM_WEND_LO_T_END : Fld := ⟨R.PFM_WEND_LO, 0, 32⟩
/-- The register PFM_WEND_HI. -/
abbrev R.PFM_WEND_HI : Nat := 0x10060060
/-- PFM_WEND_HI.T_END: bits 15:0. -/
abbrev F.PFM_WEND_HI_T_END : Fld := ⟨R.PFM_WEND_HI, 0, 16⟩
/-- The register PFM_Pn_BYTES_LO. -/
abbrev R.PFM_Pn_BYTES_LO (n : Nat) : Nat := 0x10060100 + 0x80 * n
/-- PFM_Pn_BYTES_LO.BYTES: bits 31:0. -/
abbrev F.PFM_Pn_BYTES_LO_BYTES (n : Nat) : Fld := ⟨R.PFM_Pn_BYTES_LO n, 0, 32⟩
/-- The register PFM_Pn_BYTES_HI. -/
abbrev R.PFM_Pn_BYTES_HI (n : Nat) : Nat := 0x10060104 + 0x80 * n
/-- PFM_Pn_BYTES_HI.BYTES: bits 31:0. -/
abbrev F.PFM_Pn_BYTES_HI_BYTES (n : Nat) : Fld := ⟨R.PFM_Pn_BYTES_HI n, 0, 32⟩
/-- The register PFM_Pn_RD. -/
abbrev R.PFM_Pn_RD (n : Nat) : Nat := 0x10060108 + 0x80 * n
/-- PFM_Pn_RD.TXN: bits 31:0. -/
abbrev F.PFM_Pn_RD_TXN (n : Nat) : Fld := ⟨R.PFM_Pn_RD n, 0, 32⟩
/-- The register PFM_Pn_WR. -/
abbrev R.PFM_Pn_WR (n : Nat) : Nat := 0x1006010c + 0x80 * n
/-- PFM_Pn_WR.TXN: bits 31:0. -/
abbrev F.PFM_Pn_WR_TXN (n : Nat) : Fld := ⟨R.PFM_Pn_WR n, 0, 32⟩
/-- The register PFM_Pn_HISTk. -/
abbrev R.PFM_Pn_HISTk (n k : Nat) : Nat := 0x10060110 + 0x80 * n + 0x4 * k
/-- PFM_Pn_HISTk.COUNT: bits 31:0. -/
abbrev F.PFM_Pn_HISTk_COUNT (n k : Nat) : Fld := ⟨R.PFM_Pn_HISTk n k, 0, 32⟩

/-! ## SYS -/

/-- The register SYS_RST_CAUSE. -/
abbrev R.SYS_RST_CAUSE : Nat := 0x10000044
/-- SYS_RST_CAUSE.CAUSE: bits 6:0. -/
abbrev F.SYS_RST_CAUSE_CAUSE : Fld := ⟨R.SYS_RST_CAUSE, 0, 7⟩
/-- The register SYS_RST_CMD. -/
abbrev R.SYS_RST_CMD : Nat := 0x10000048
/-- SYS_RST_CMD.GO: bit 31. -/
abbrev F.SYS_RST_CMD_GO : Fld := ⟨R.SYS_RST_CMD, 31, 1⟩
/-- The register SYS_BOOT_STAT. -/
abbrev R.SYS_BOOT_STAT : Nat := 0x1000004c
/-- SYS_BOOT_STAT.CFG_SRC: bits 1:0. -/
abbrev F.SYS_BOOT_STAT_CFG_SRC : Fld := ⟨R.SYS_BOOT_STAT, 0, 2⟩
/-- SYS_BOOT_STAT.RECOVERY: bit 2. -/
abbrev F.SYS_BOOT_STAT_RECOVERY : Fld := ⟨R.SYS_BOOT_STAT, 2, 1⟩
/-- SYS_BOOT_STAT.SLOT: bit 3. -/
abbrev F.SYS_BOOT_STAT_SLOT : Fld := ⟨R.SYS_BOOT_STAT, 3, 1⟩
/-- SYS_BOOT_STAT.RESULT0: bits 7:4. -/
abbrev F.SYS_BOOT_STAT_RESULT0 : Fld := ⟨R.SYS_BOOT_STAT, 4, 4⟩
/-- SYS_BOOT_STAT.RESULT1: bits 11:8. -/
abbrev F.SYS_BOOT_STAT_RESULT1 : Fld := ⟨R.SYS_BOOT_STAT, 8, 4⟩
/-- SYS_BOOT_STAT.RESULT_REC: bits 15:12. -/
abbrev F.SYS_BOOT_STAT_RESULT_REC : Fld := ⟨R.SYS_BOOT_STAT, 12, 4⟩
/-- SYS_BOOT_STAT.CFG_A: bits 17:16. -/
abbrev F.SYS_BOOT_STAT_CFG_A : Fld := ⟨R.SYS_BOOT_STAT, 16, 2⟩
/-- SYS_BOOT_STAT.CFG_B: bits 19:18. -/
abbrev F.SYS_BOOT_STAT_CFG_B : Fld := ⟨R.SYS_BOOT_STAT, 18, 2⟩
/-- The register SYS_CFG_SEQ. -/
abbrev R.SYS_CFG_SEQ : Nat := 0x10000050
/-- SYS_CFG_SEQ.SEQ: bits 31:0. -/
abbrev F.SYS_CFG_SEQ_SEQ : Fld := ⟨R.SYS_CFG_SEQ, 0, 32⟩
/-- The register SYS_BOOT_CMD. -/
abbrev R.SYS_BOOT_CMD : Nat := 0x10000054
/-- SYS_BOOT_CMD.GO: bit 31. -/
abbrev F.SYS_BOOT_CMD_GO : Fld := ⟨R.SYS_BOOT_CMD, 31, 1⟩
/-- The register SYS_PF_CFG. -/
abbrev R.SYS_PF_CFG : Nat := 0x10000058
/-- SYS_PF_CFG.RET_EN: bit 0. -/
abbrev F.SYS_PF_CFG_RET_EN : Fld := ⟨R.SYS_PF_CFG, 0, 1⟩
/-- The register SYS_PF_LAST. -/
abbrev R.SYS_PF_LAST : Nat := 0x1000005c
/-- SYS_PF_LAST.VALID: bit 0. -/
abbrev F.SYS_PF_LAST_VALID : Fld := ⟨R.SYS_PF_LAST, 0, 1⟩
/-- SYS_PF_LAST.MTR_OK: bit 1. -/
abbrev F.SYS_PF_LAST_MTR_OK : Fld := ⟨R.SYS_PF_LAST, 1, 1⟩
/-- SYS_PF_LAST.EVR_OK: bit 2. -/
abbrev F.SYS_PF_LAST_EVR_OK : Fld := ⟨R.SYS_PF_LAST, 2, 1⟩
/-- SYS_PF_LAST.RET: bits 4:3. -/
abbrev F.SYS_PF_LAST_RET : Fld := ⟨R.SYS_PF_LAST, 3, 2⟩
/-- SYS_PF_LAST.PNL_OK: bit 5. -/
abbrev F.SYS_PF_LAST_PNL_OK : Fld := ⟨R.SYS_PF_LAST, 5, 1⟩
/-- SYS_PF_LAST.CUT: bit 6. -/
abbrev F.SYS_PF_LAST_CUT : Fld := ⟨R.SYS_PF_LAST, 6, 1⟩
/-- SYS_PF_LAST.RECOVERED: bit 7. -/
abbrev F.SYS_PF_LAST_RECOVERED : Fld := ⟨R.SYS_PF_LAST, 7, 1⟩
/-- SYS_PF_LAST.HOLD: bits 31:16. -/
abbrev F.SYS_PF_LAST_HOLD : Fld := ⟨R.SYS_PF_LAST, 16, 16⟩
/-- The register SYS_HOST_GO. -/
abbrev R.SYS_HOST_GO : Nat := 0x10000060
/-- SYS_HOST_GO.RELEASE: bits 3:0. -/
abbrev F.SYS_HOST_GO_RELEASE : Fld := ⟨R.SYS_HOST_GO, 0, 4⟩
/-- The register SYS_HOST_ENTRY_LO. -/
abbrev R.SYS_HOST_ENTRY_LO : Nat := 0x10000064
/-- SYS_HOST_ENTRY_LO.ADDR: bits 31:0. -/
abbrev F.SYS_HOST_ENTRY_LO_ADDR : Fld := ⟨R.SYS_HOST_ENTRY_LO, 0, 32⟩
/-- The register SYS_HOST_ENTRY_HI. -/
abbrev R.SYS_HOST_ENTRY_HI : Nat := 0x10000068
/-- SYS_HOST_ENTRY_HI.ADDR: bits 7:0. -/
abbrev F.SYS_HOST_ENTRY_HI_ADDR : Fld := ⟨R.SYS_HOST_ENTRY_HI, 0, 8⟩

/-! ## PWR -/

/-- The register PWR_VBAT. -/
abbrev R.PWR_VBAT : Nat := 0x1014020c
/-- PWR_VBAT.MV: bits 15:0. -/
abbrev F.PWR_VBAT_MV : Fld := ⟨R.PWR_VBAT, 0, 16⟩
/-- PWR_VBAT.RET_HOLD: bit 16. -/
abbrev F.PWR_VBAT_RET_HOLD : Fld := ⟨R.PWR_VBAT, 16, 1⟩

end Sys2Proof.Machine
end

