-- ==== Sys2Proof/Machine/RegTable.lean ====
section
/-! DEFINITION. The register tables of the spec (chapters 2 to 22): for every register its offset, its index ranges, and for every
field its bits, access class, monitor-only mark and reset value; and a name for every register (`R.`) and field (`F.`), spelt as
the spec spells it. Reserved bits have no field: they read 0 and writes to them have no effect (R8). -/

namespace Sys2Proof.Machine

/-- The reset quotas RESV, MAX and WEIGHT of fabric port n (R430). RT ports have no weight. -/
def fabQuota (n : Nat) : Nat × Nat × Nat :=
  match n with
  | 0 => (16, 64, 8)
  | 1 => (4, 8, 4)
  | 2 => (2, 4, 1)
  | 3 => (32, 64, 0)
  | 4 => (8, 16, 0)
  | 5 => (32, 96, 8)
  | 6 => (16, 32, 0)
  | 7 => (16, 48, 4)
  | 8 => (16, 32, 0)
  | 9 => (8, 16, 0)
  | 10 => (4, 8, 0)
  | 11 => (4, 8, 2)
  | 12 => (4, 8, 2)
  | 13 => (16, 32, 4)
  | 14 => (4, 8, 1)
  | 15 => (4, 8, 1)
  | _ => (0, 0, 0)

/-- The RT ports of R430: CAD, LPE, SPK and TSU, TDM, MTR, CAN. -/
def fabRt (n : Nat) : Bool := n == 3 || n == 4 || n == 6 || n == 8 || n == 9 || n == 10

/-- SYS registers at offset 0x040 and above, in the order of the spec. -/
def regsSys : List RegSpec := [
  ⟨0x40, 0, 1, 0, 1, fun _ _ => [⟨1, 0, .ro, false, 3⟩, ⟨17, 8, .ro, false, 0x3FF⟩, ⟨24, 24, .ro, false, 0⟩, ⟨25, 25, .ro, false, 0⟩, ⟨26, 26, .ro, false, 0⟩]⟩,  -- SYS_ROLE
  ⟨0x44, 0, 1, 0, 1, fun _ _ => [⟨6, 0, .ro, false, 1⟩]⟩,  -- SYS_RST_CAUSE
  ⟨0x48, 0, 1, 0, 1, fun _ _ => [⟨31, 31, .wo, true, 0⟩]⟩,  -- SYS_RST_CMD
  ⟨0x4c, 0, 1, 0, 1, fun _ _ => [⟨1, 0, .ro, false, 2⟩, ⟨2, 2, .ro, false, 0⟩, ⟨3, 3, .ro, false, 0⟩, ⟨7, 4, .ro, false, 7⟩, ⟨11, 8, .ro, false, 7⟩, ⟨15, 12, .ro, false, 7⟩, ⟨17, 16, .ro, false, 0⟩, ⟨19, 18, .ro, false, 0⟩]⟩,  -- SYS_BOOT_STAT
  ⟨0x50, 0, 1, 0, 1, fun _ _ => [⟨31, 0, .ro, false, 0⟩]⟩,  -- SYS_CFG_SEQ
  ⟨0x54, 0, 1, 0, 1, fun _ _ => [⟨31, 31, .wo, false, 0⟩]⟩,  -- SYS_BOOT_CMD
  ⟨0x58, 0, 1, 0, 1, fun _ _ => [⟨0, 0, .rw, false, 0⟩]⟩,  -- SYS_PF_CFG
  ⟨0x5c, 0, 1, 0, 1, fun _ _ => [⟨0, 0, .ro, false, 0⟩, ⟨1, 1, .ro, false, 0⟩, ⟨2, 2, .ro, false, 0⟩, ⟨4, 3, .ro, false, 0⟩, ⟨5, 5, .ro, false, 0⟩, ⟨6, 6, .ro, false, 0⟩, ⟨7, 7, .ro, false, 0⟩, ⟨31, 16, .ro, false, 0⟩]⟩,  -- SYS_PF_LAST
  ⟨0x60, 0, 1, 0, 1, fun _ _ => [⟨3, 0, .w1s, true, 0⟩]⟩,  -- SYS_HOST_GO
  ⟨0x64, 0, 1, 0, 1, fun _ _ => [⟨31, 0, .rw, true, 0⟩]⟩,  -- SYS_HOST_ENTRY_LO
  ⟨0x68, 0, 1, 0, 1, fun _ _ => [⟨7, 0, .rw, true, 0⟩]⟩]  -- SYS_HOST_ENTRY_HI

/-- INT registers at offset 0x040 and above, in the order of the spec. -/
def regsInt : List RegSpec := [
  ⟨0x100, 0x4, 128, 0, 1, fun i _ => [⟨3, 0, .rw, (108 ≤ i && i ≤ 111), 0⟩, ⟨11, 8, (if 108 ≤ i && i ≤ 111 then .ro else .rw), false, 0⟩, ⟨12, 12, (if 108 ≤ i && i ≤ 111 then .ro else .rw), true, (if 108 ≤ i && i ≤ 111 then 1 else 0)⟩]⟩,  -- INT_SRC_CFGn
  ⟨0x300, 0x4, 4, 0, 1, fun _ _ => [⟨31, 0, .ro, false, 0⟩]⟩,  -- INT_LEVELk
  ⟨0x310, 0x4, 4, 0, 1, fun _ _ => [⟨31, 0, .ro, false, 0⟩]⟩,  -- INT_INSERVk
  ⟨0x320, 0, 1, 0, 1, fun _ _ => [⟨7, 0, .w1s, false, 0⟩]⟩,  -- INT_DB_SET
  ⟨0x324, 0, 1, 0, 1, fun _ _ => [⟨7, 0, .w1c, false, 0⟩]⟩,  -- INT_DB_CLR
  ⟨0x400, 0x10, 5, 0, 1, fun i _ => [⟨3, 0, .rw, (i == 4), 0⟩, ⟨8, 8, (if i == 4 then .ro else .rw), false, 1⟩]⟩,  -- INT_TGT_CTRLt
  ⟨0x404, 0x10, 5, 0, 1, fun i _ => [⟨6, 0, .rc, (i == 4), 0⟩, ⟨31, 31, .rc, false, 0⟩]⟩,  -- INT_TGT_CLAIMt
  ⟨0x408, 0x10, 5, 0, 1, fun i _ => [⟨6, 0, .wo, (i == 4), 0⟩]⟩]  -- INT_TGT_COMPLETEt

/-- FAB registers at offset 0x040 and above, in the order of the spec. -/
def regsFab : List RegSpec := [
  ⟨0x40, 0x4, 16, 0, 1, fun i _ => [⟨7, 0, .rw, true, (fabQuota i).1⟩, ⟨15, 8, .rw, true, (fabQuota i).2.1⟩, ⟨19, 16, (if fabRt i then .ro else .rw), true, (fabQuota i).2.2⟩]⟩,  -- FAB_QUOTAn
  ⟨0x80, 0, 1, 0, 1, fun _ _ => [⟨8, 0, .ro, false, 0⟩, ⟨24, 16, .rc, false, 0⟩]⟩]  -- FAB_USE

/-- XLT registers at offset 0x040 and above, in the order of the spec. -/
def regsXlt : List RegSpec := [
  ⟨0x40, 0x4, 17, 0, 1, fun i _ => [⟨27, 0, .rw, (i == 12 || i == 13), 0⟩, ⟨29, 28, .rw, (i == 12 || i == 13), 0⟩, ⟨30, 30, .ro, false, (if i == 2 then 1 else 0)⟩, ⟨31, 31, .ro, false, (if i ≤ 1 || i == 3 || i == 4 || (6 ≤ i && i ≤ 11) then 1 else 0)⟩]⟩,  -- XLT_CTXn_CFG
  ⟨0x100, 0, 1, 0, 1, fun _ _ => [⟨4, 0, .rw, false, 0⟩, ⟨10, 8, .rw, false, 0⟩]⟩,  -- XLT_PIN_SEL
  ⟨0x104, 0, 1, 0, 1, fun _ _ => [⟨26, 0, .rw, false, 0⟩]⟩,  -- XLT_PIN_VA
  ⟨0x108, 0, 1, 0, 1, fun _ _ => [⟨27, 0, .rw, false, 0⟩]⟩,  -- XLT_PIN_PA
  ⟨0x10c, 0, 1, 0, 1, fun _ _ => [⟨26, 0, .rw, false, 0⟩, ⟨28, 28, .rw, false, 0⟩, ⟨29, 29, .rw, false, 0⟩, ⟨31, 31, .rw, false, 0⟩]⟩,  -- XLT_PIN_CFG
  ⟨0x110, 0, 1, 0, 1, fun _ _ => [⟨4, 0, .wo, false, 0⟩, ⟨31, 31, .wo, false, 0⟩]⟩,  -- XLT_CMD
  ⟨0x120, 0, 1, 0, 1, fun _ _ => [⟨4, 0, .rc, false, 0⟩, ⟨10, 8, .rc, false, 0⟩, ⟨11, 11, .rc, false, 0⟩, ⟨31, 31, .rc, false, 0⟩]⟩,  -- XLT_FAULT
  ⟨0x124, 0, 1, 0, 1, fun _ _ => [⟨31, 0, .ro, false, 0⟩]⟩,  -- XLT_FAULT_VA_LO
  ⟨0x128, 0, 1, 0, 1, fun _ _ => [⟨7, 0, .ro, false, 0⟩]⟩,  -- XLT_FAULT_VA_HI
  ⟨0x12c, 0, 1, 0, 1, fun _ _ => [⟨15, 0, .rc, false, 0⟩, ⟨31, 16, .rc, false, 0⟩]⟩]  -- XLT_FAULT_CNT

/-- MEM registers at offset 0x040 and above, in the order of the spec. -/
def regsMem : List RegSpec := [
  ⟨0x40, 0, 1, 0, 1, fun _ _ => [⟨15, 0, .rc, false, 0⟩, ⟨31, 16, .rc, false, 0⟩]⟩,  -- MEM_ECC_DRAM
  ⟨0x44, 0, 1, 0, 1, fun _ _ => [⟨15, 0, .rc, false, 0⟩, ⟨31, 16, .rc, false, 0⟩]⟩,  -- MEM_ECC_SRAM
  ⟨0x48, 0, 1, 0, 1, fun _ _ => [⟨31, 0, .ro, false, 0⟩]⟩,  -- MEM_UE_ADDR_LO
  ⟨0x4c, 0, 1, 0, 1, fun _ _ => [⟨7, 0, .ro, false, 0⟩]⟩]  -- MEM_UE_ADDR_HI

/-- NFM registers at offset 0x040 and above, in the order of the spec. -/
def regsNfm : List RegSpec := [
  ⟨0x40, 0, 1, 0, 1, fun _ _ => [⟨3, 0, .wo, false, 0⟩, ⟨6, 4, .wo, false, 0⟩, ⟨31, 31, .wo, false, 0⟩]⟩,  -- NFM_CMD
  ⟨0x44, 0, 1, 0, 1, fun _ _ => [⟨31, 0, .rw, false, 0⟩]⟩,  -- NFM_ARG
  ⟨0x48, 0, 1, 0, 1, fun _ _ => [⟨31, 0, .rw, false, 0⟩]⟩,  -- NFM_BUF_LO
  ⟨0x4c, 0, 1, 0, 1, fun _ _ => [⟨7, 0, .rw, false, 0⟩]⟩,  -- NFM_BUF_HI
  ⟨0x50, 0, 1, 0, 1, fun _ _ => [⟨0, 0, .ro, false, 0⟩, ⟨7, 4, .ro, false, 0⟩]⟩,  -- NFM_RES
  ⟨0x54, 0, 1, 0, 1, fun _ _ => [⟨15, 0, .ro, false, 0⟩, ⟨25, 16, .ro, false, 0⟩]⟩]  -- NFM_HEALTH

/-- PFM registers at offset 0x040 and above, in the order of the spec. -/
def regsPfm0 : List RegSpec := [
  ⟨0x40, 0, 1, 0, 1, fun _ _ => [⟨19, 0, .rws, false, 1000⟩, ⟨31, 31, .rw, false, 0⟩]⟩,  -- PFM_CFG
  ⟨0x44, 0, 1, 0, 1, fun _ _ => [⟨0, 0, .rw, false, 0⟩]⟩,  -- PFM_USER_CTRL
  ⟨0x48, 0, 1, 0, 1, fun _ _ => [⟨3, 0, .rwl, false, 4⟩, ⟨31, 12, .rwl, false, 0⟩]⟩,  -- PFM_RING_BASE_LO
  ⟨0x4c, 0, 1, 0, 1, fun _ _ => [⟨7, 0, .rwl, false, 0⟩]⟩,  -- PFM_RING_BASE_HI
  ⟨0x50, 0, 1, 0, 1, fun _ _ => [⟨15, 0, .ro, false, 0⟩, ⟨31, 16, .rw, false, 0⟩]⟩,  -- PFM_RING_IDX
  ⟨0x54, 0, 1, 0, 1, fun _ _ => [⟨15, 0, .rc, false, 0⟩]⟩,  -- PFM_DROP
  ⟨0x58, 0, 1, 0, 1, fun _ _ => [⟨31, 0, .ro, false, 0⟩]⟩,  -- PFM_WSEQ
  ⟨0x5c, 0, 1, 0, 1, fun _ _ => [⟨31, 0, .ro, false, 0⟩]⟩,  -- PFM_WEND_LO
  ⟨0x60, 0, 1, 0, 1, fun _ _ => [⟨15, 0, .ro, false, 0⟩]⟩,  -- PFM_WEND_HI
  ⟨0x100, 0x80, 16, 0, 1, fun _ _ => [⟨31, 0, .ro, false, 0⟩]⟩,  -- PFM_Pn_BYTES_LO
  ⟨0x104, 0x80, 16, 0, 1, fun _ _ => [⟨31, 0, .ro, false, 0⟩]⟩,  -- PFM_Pn_BYTES_HI
  ⟨0x108, 0x80, 16, 0, 1, fun _ _ => [⟨31, 0, .ro, false, 0⟩]⟩]  -- PFM_Pn_RD

/-- PFM registers at offset 0x040 and above, in the order of the spec. -/
def regsPfm1 : List RegSpec := [
  ⟨0x10c, 0x80, 16, 0, 1, fun _ _ => [⟨31, 0, .ro, false, 0⟩]⟩,  -- PFM_Pn_WR
  ⟨0x110, 0x80, 16, 0x4, 16, fun _ _ => [⟨31, 0, .ro, false, 0⟩]⟩]  -- PFM_Pn_HISTk

/-- PFM registers at offset 0x040 and above, in the order of the spec. -/
def regsPfm : List RegSpec := regsPfm0 ++ regsPfm1

/-- CAD registers at offset 0x040 and above, in the order of the spec. -/
def regsCad0 : List RegSpec := [
  ⟨0x40, 0, 1, 0, 1, fun _ _ => [⟨0, 0, .rwl, false, 0⟩, ⟨1, 1, .rw, false, 1⟩, ⟨15, 8, .rw, false, 64⟩]⟩,  -- CAD_CFG
  ⟨0x44, 0, 1, 0, 1, fun _ _ => [⟨3, 0, .ro, false, 0⟩]⟩,  -- CAD_LANE_STAT
  ⟨0x50, 0x8, 2, 0, 1, fun _ _ => [⟨31, 16, .rws, false, 0⟩]⟩,  -- CAD_BANKb_BASE_LO
  ⟨0x54, 0x8, 2, 0, 1, fun _ _ => [⟨7, 0, .rws, false, 0⟩]⟩,  -- CAD_BANKb_BASE_HI
  ⟨0x80, 0x20, 2, 0x4, 8, fun _ _ => [⟨31, 0, .rw, true, 0⟩]⟩,  -- CAD_PHASHb_k
  ⟨0xc0, 0x4, 8, 0, 1, fun _ _ => [⟨31, 0, .ro, false, 0⟩]⟩,  -- CAD_AHASHk
  ⟨0xe0, 0, 1, 0, 1, fun _ _ => [⟨0, 0, .rw, true, 0⟩, ⟨1, 1, .rw, true, 0⟩]⟩,  -- CAD_VERIFY
  ⟨0xe4, 0, 1, 0, 1, fun _ _ => [⟨0, 0, .wo, false, 0⟩, ⟨31, 31, .wo, false, 0⟩]⟩,  -- CAD_LOADCMD
  ⟨0xe8, 0, 1, 0, 1, fun _ _ => [⟨2, 0, .ro, false, 0⟩, ⟨6, 4, .ro, false, 0⟩, ⟨15, 8, .ro, false, 0⟩, ⟨16, 16, .ro, false, 0⟩]⟩,  -- CAD_BANK_STAT
  ⟨0xec, 0, 1, 0, 1, fun _ _ => [⟨23, 0, .ro, false, 0⟩]⟩,  -- CAD_LOADOFF
  ⟨0xf0, 0, 1, 0, 1, fun _ _ => [⟨15, 0, .rc, false, 0⟩]⟩,  -- CAD_REQ_DROP
  ⟨0xf4, 0, 1, 0, 1, fun _ _ => [⟨15, 0, .rc, false, 0⟩]⟩]  -- CAD_ECC_CNT

/-- CAD registers at offset 0x040 and above, in the order of the spec. -/
def regsCad1 : List RegSpec := [
  ⟨0xf8, 0, 1, 0, 1, fun _ _ => [⟨15, 0, .wo, false, 0⟩, ⟨18, 16, .wo, false, 0⟩, ⟨31, 31, .wo, false, 0⟩]⟩,  -- CAD_INST_CMD
  ⟨0xfc, 0, 1, 0, 1, fun _ _ => [⟨15, 0, .ro, false, 0⟩, ⟨31, 16, .ro, false, 0⟩]⟩,  -- CAD_INST_STAT
  ⟨0x200, 0x10, 8, 0, 1, fun _ _ => [⟨7, 0, .ro, false, 0⟩, ⟨23, 8, .ro, false, 0⟩]⟩,  -- CAD_EXC_INFOn
  ⟨0x204, 0x10, 8, 0, 1, fun _ _ => [⟨21, 0, .ro, false, 0⟩]⟩,  -- CAD_EXC_PCn
  ⟨0x208, 0x10, 8, 0, 1, fun _ _ => [⟨15, 0, .ro, false, 0⟩]⟩,  -- CAD_EXC_CNTn
  ⟨0x20c, 0x10, 8, 0, 1, fun _ _ => [⟨0, 0, .w1c, false, 0⟩, ⟨1, 1, .w1c, false, 0⟩, ⟨2, 2, .w1c, false, 0⟩, ⟨3, 3, .w1c, false, 0⟩, ⟨4, 4, .w1c, false, 0⟩, ⟨5, 5, .w1c, false, 0⟩, ⟨8, 8, .w1c, false, 0⟩, ⟨9, 9, .w1c, false, 0⟩, ⟨10, 10, .w1c, false, 0⟩, ⟨31, 31, .wo, false, 0⟩]⟩,  -- CAD_EXC_FLAGSn
  ⟨0x100, 0x10, 8, 0, 1, fun _ _ => [⟨23, 0, .rws, false, 1000⟩]⟩,  -- CAD_TASKn_PERIOD
  ⟨0x104, 0x10, 8, 0, 1, fun _ _ => [⟨23, 0, .rws, false, 0⟩]⟩,  -- CAD_TASKn_PHASE
  ⟨0x108, 0x10, 8, 0, 1, fun i _ => [⟨2, 0, .rws, false, (7 - i)⟩, ⟨3, 3, .rws, false, 0⟩, ⟨4, 4, (if i == 0 then .rws else .ro), false, 0⟩]⟩,  -- CAD_TASKn_CFG
  ⟨0x10c, 0x10, 8, 0, 1, fun _ _ => [⟨2, 0, .ro, false, 0⟩, ⟨3, 3, .ro, false, 0⟩, ⟨4, 4, .ro, false, 0⟩, ⟨31, 16, .ro, false, 0⟩]⟩,  -- CAD_TASKn_STAT
  ⟨0x180, 0x4, 8, 0, 1, fun _ _ => [⟨23, 0, .ro, false, 0⟩]⟩,  -- CAD_TASKn_LAST
  ⟨0x1a0, 0x4, 8, 0, 1, fun _ _ => [⟨23, 0, .rc, false, 0⟩]⟩]  -- CAD_TASKn_MAX

/-- CAD registers at offset 0x040 and above, in the order of the spec. -/
def regsCad2 : List RegSpec := [
  ⟨0x1c0, 0, 1, 0, 1, fun _ _ => [⟨2, 0, .wo, false, 0⟩, ⟨6, 4, .wo, false, 0⟩, ⟨31, 31, .wo, false, 0⟩]⟩,  -- CAD_TASK_CMD
  ⟨0x1c4, 0, 1, 0, 1, fun _ _ => [⟨0, 0, .wo, false, 0⟩, ⟨15, 8, .wo, false, 0⟩, ⟨31, 31, .wo, false, 0⟩]⟩,  -- CAD_START
  ⟨0x1c8, 0, 1, 0, 1, fun _ _ => [⟨3, 0, .ro, false, 0⟩, ⟨8, 8, .ro, false, 0⟩, ⟨31, 16, .ro, false, 0⟩]⟩,  -- CAD_START_STAT
  ⟨0x1cc, 0, 1, 0, 1, fun _ _ => [⟨15, 0, .ro, false, 0⟩, ⟨31, 16, .ro, false, 0⟩]⟩,  -- CAD_START_CNT
  ⟨0x1d0, 0, 1, 0, 1, fun _ _ => [⟨31, 6, .rws, false, 0⟩]⟩,  -- CAD_RET_BASE_LO
  ⟨0x1d4, 0, 1, 0, 1, fun _ _ => [⟨7, 0, .rws, false, 0⟩]⟩,  -- CAD_RET_BASE_HI
  ⟨0x1d8, 0, 1, 0, 1, fun _ _ => [⟨0, 0, .wo, false, 0⟩, ⟨31, 31, .wo, false, 0⟩]⟩,  -- CAD_RET_CMD
  ⟨0x1dc, 0, 1, 0, 1, fun _ _ => [⟨1, 0, .ro, false, 0⟩, ⟨11, 8, .ro, false, 0⟩]⟩,  -- CAD_RET_STAT
  ⟨0x280, 0, 1, 0, 1, fun _ _ => [⟨22, 0, .rw, false, 0⟩]⟩,  -- CAD_FORCE_SIG
  ⟨0x284, 0, 1, 0, 1, fun _ _ => [⟨31, 0, .rw, false, 0⟩]⟩,  -- CAD_FORCE_VAL
  ⟨0x288, 0, 1, 0, 1, fun _ _ => [⟨11, 0, .wo, false, 0⟩, ⟨14, 12, .wo, false, 0⟩, ⟨18, 16, .wo, false, 0⟩, ⟨31, 31, .wo, false, 0⟩]⟩,  -- CAD_FORCE_CMD
  ⟨0x28c, 0, 1, 0, 1, fun _ _ => [⟨11, 0, .ro, false, 0⟩, ⟨15, 12, .ro, false, 0⟩, ⟨18, 16, .ro, false, 0⟩, ⟨19, 19, .ro, false, 0⟩, ⟨22, 20, .ro, false, 0⟩]⟩]  -- CAD_FORCE_STAT

/-- CAD registers at offset 0x040 and above, in the order of the spec. -/
def regsCad3 : List RegSpec := [
  ⟨0x290, 0, 1, 0, 1, fun _ _ => [⟨12, 0, .ro, false, 0⟩, ⟨28, 16, .ro, false, 0⟩]⟩,  -- CAD_FORCE_CNT
  ⟨0x2a0, 0, 1, 0, 1, fun _ _ => [⟨1, 0, .wo, false, 0⟩, ⟨4, 4, .wo, false, 0⟩, ⟨31, 31, .wo, false, 0⟩]⟩,  -- CAD_CHG_CMD
  ⟨0x2a4, 0, 1, 0, 1, fun _ _ => [⟨2, 0, .ro, false, 0⟩, ⟨15, 8, .ro, false, 0⟩]⟩,  -- CAD_CHG_STAT
  ⟨0x2a8, 0, 1, 0, 1, fun _ _ => [⟨23, 0, .rw, false, 10000⟩]⟩,  -- CAD_CHG_TIMEOUT
  ⟨0x2ac, 0, 1, 0, 1, fun _ _ => [⟨23, 0, .ro, false, 0⟩]⟩,  -- CAD_CHG_DUR
  ⟨0x2b0, 0, 1, 0, 1, fun _ _ => [⟨31, 16, .rws, false, 0⟩]⟩,  -- CAD_CHG_STAGE_LO
  ⟨0x2b4, 0, 1, 0, 1, fun _ _ => [⟨7, 0, .rws, false, 0⟩]⟩,  -- CAD_CHG_STAGE_HI
  ⟨0x2b8, 0, 1, 0, 1, fun _ _ => [⟨15, 0, .ro, false, 0⟩, ⟨31, 16, .ro, false, 0⟩]⟩]  -- CAD_CHG_CNT

/-- CAD registers at offset 0x040 and above, in the order of the spec. -/
def regsCad : List RegSpec := regsCad0 ++ regsCad1 ++ regsCad2 ++ regsCad3

/-- LPE registers at offset 0x040 and above, in the order of the spec. -/
def regsLpe0 : List RegSpec := [
  ⟨0x40, 0, 1, 0, 1, fun _ _ => [⟨31, 16, .rwl, false, 0⟩]⟩,  -- LPE_TBL_BASE_LO
  ⟨0x44, 0, 1, 0, 1, fun _ _ => [⟨7, 0, .rwl, false, 0⟩]⟩,  -- LPE_TBL_BASE_HI
  ⟨0x48, 0, 1, 0, 1, fun _ _ => [⟨5, 0, .wo, false, 0⟩, ⟨10, 8, .wo, false, 0⟩, ⟨31, 31, .wo, false, 0⟩]⟩,  -- LPE_SLOT_CMD
  ⟨0x4c, 0, 1, 0, 1, fun _ _ => [⟨0, 0, .ro, false, 0⟩, ⟨7, 4, .ro, false, 0⟩, ⟨13, 8, .ro, false, 0⟩]⟩,  -- LPE_SLOT_RES
  ⟨0x50, 0, 1, 0, 1, fun _ _ => [⟨19, 0, .ro, false, 0⟩]⟩,  -- LPE_LOAD
  ⟨0x100, 0x8, 64, 0, 1, fun _ _ => [⟨1, 0, .ro, false, 0⟩, ⟨4, 2, .ro, false, 4⟩, ⟨5, 5, .ro, false, 0⟩, ⟨6, 6, .w1c, false, 0⟩, ⟨15, 8, .ro, false, 0⟩, ⟨31, 16, .ro, false, 0⟩]⟩,  -- LPE_SLOTn_STAT
  ⟨0x104, 0x8, 64, 0, 1, fun _ _ => [⟨31, 0, .ro, false, 0⟩]⟩,  -- LPE_SLOTn_OUT
  ⟨0x300, 0, 1, 0, 1, fun _ _ => [⟨23, 0, .rws, false, 10000⟩, ⟨31, 31, .rw, false, 0⟩]⟩,  -- LPE_GRD_CFG
  ⟨0x304, 0, 1, 0, 1, fun _ _ => [⟨31, 6, .rw, true, 0⟩]⟩,  -- LPE_GRD_BASE_LO
  ⟨0x308, 0, 1, 0, 1, fun _ _ => [⟨7, 0, .rw, true, 0⟩]⟩,  -- LPE_GRD_BASE_HI
  ⟨0x30c, 0, 1, 0, 1, fun _ _ => [⟨1, 0, .wo, true, 0⟩, ⟨31, 31, .wo, true, 0⟩]⟩,  -- LPE_GRD_CMD
  ⟨0x310, 0, 1, 0, 1, fun _ _ => [⟨0, 0, .ro, false, 0⟩, ⟨1, 1, .ro, false, 0⟩, ⟨7, 4, .ro, false, 0⟩, ⟨21, 8, .ro, false, 0⟩]⟩]  -- LPE_GRD_STAT

/-- LPE registers at offset 0x040 and above, in the order of the spec. -/
def regsLpe1 : List RegSpec := [
  ⟨0x314, 0, 1, 0, 1, fun _ _ => [⟨31, 0, .ro, false, 0⟩]⟩,  -- LPE_GRD_VER
  ⟨0x320, 0x4, 8, 0, 1, fun _ _ => [⟨31, 0, .ro, false, 0⟩]⟩,  -- LPE_GRD_HASHk
  ⟨0x340, 0, 1, 0, 1, fun _ _ => [⟨15, 0, .rc, false, 0⟩, ⟨31, 16, .rc, false, 0⟩]⟩,  -- LPE_GRD_CNT0
  ⟨0x344, 0, 1, 0, 1, fun _ _ => [⟨15, 0, .rc, false, 0⟩, ⟨31, 16, .rc, false, 0⟩]⟩,  -- LPE_GRD_CNT1
  ⟨0x348, 0, 1, 0, 1, fun _ _ => [⟨13, 0, .ro, false, 0⟩]⟩,  -- LPE_GRD_UNG
  ⟨0x34c, 0, 1, 0, 1, fun _ _ => [⟨15, 0, .ro, false, 0⟩, ⟨31, 16, .ro, false, 0⟩]⟩]  -- LPE_GRD_PASS

/-- LPE registers at offset 0x040 and above, in the order of the spec. -/
def regsLpe : List RegSpec := regsLpe0 ++ regsLpe1

/-- SLV registers at offset 0x040 and above, in the order of the spec. -/
def regsSlv0 : List RegSpec := [
  ⟨0x40, 0, 1, 0, 1, fun _ _ => [⟨7, 0, .rwl, false, 0xFF⟩, ⟨8, 8, .rw, false, 1⟩]⟩,  -- SLV_CFG
  ⟨0x44, 0, 1, 0, 1, fun _ _ => [⟨7, 0, .ro, false, 0⟩]⟩,  -- SLV_TILE_STAT
  ⟨0x48, 0, 1, 0, 1, fun _ _ => [⟨15, 0, .rc, false, 0⟩, ⟨23, 16, .rc, false, 0⟩]⟩,  -- SLV_ECC
  ⟨0x50, 0, 1, 0, 1, fun _ _ => [⟨1, 0, .ro, false, 0⟩, ⟨11, 4, .ro, false, 0⟩, ⟨31, 16, .ro, false, 0⟩]⟩,  -- SLV_MODEL_STAT
  ⟨0x54, 0, 1, 0, 1, fun _ _ => [⟨23, 0, .ro, false, 0⟩]⟩,  -- SLV_MODEL_ERRPOS
  ⟨0x58, 0, 1, 0, 1, fun _ _ => [⟨23, 0, .ro, false, 0⟩]⟩,  -- SLV_MODEL_FSZ
  ⟨0x60, 0x4, 8, 0, 1, fun _ _ => [⟨31, 0, .ro, false, 0⟩]⟩,  -- SLV_MODEL_HASHk
  ⟨0x80, 0, 1, 0, 1, fun _ _ => [⟨3, 0, .ro, false, 0⟩, ⟨7, 4, .ro, false, 0⟩, ⟨23, 8, .ro, false, 0⟩, ⟨31, 24, .ro, false, 0⟩]⟩,  -- SLV_RANGE_INFO
  ⟨0x84, 0, 1, 0, 1, fun _ _ => [⟨7, 0, .ro, false, 0⟩, ⟨31, 16, .ro, false, 0⟩]⟩,  -- SLV_RANGE_JOB
  ⟨0x88, 0, 1, 0, 1, fun _ _ => [⟨15, 0, .rc, false, 0⟩, ⟨31, 16, .rc, false, 0⟩]⟩,  -- SLV_RANGE_CNT
  ⟨0x8c, 0, 1, 0, 1, fun _ _ => [⟨15, 0, .rc, false, 0⟩]⟩,  -- SLV_PIVOT_CNT
  ⟨0x90, 0x4, 6, 0, 1, fun _ _ => [⟨23, 0, .ro, false, 0⟩]⟩]  -- SLV_PHASE_Tk

/-- SLV registers at offset 0x040 and above, in the order of the spec. -/
def regsSlv1 : List RegSpec := [
  ⟨0xa8, 0, 1, 0, 1, fun _ _ => [⟨23, 0, .ro, false, 0⟩]⟩,  -- SLV_ITER_T
  ⟨0xac, 0, 1, 0, 1, fun _ _ => [⟨23, 0, .rc, false, 0⟩]⟩,  -- SLV_ITER_MAX
  ⟨0x100, 0, 1, 0, 1, fun _ _ => [⟨31, 12, .rwl, false, 0⟩]⟩,  -- SLV_TPL_BASE_LO
  ⟨0x104, 0, 1, 0, 1, fun _ _ => [⟨7, 0, .rwl, false, 0⟩]⟩,  -- SLV_TPL_BASE_HI
  ⟨0x108, 0, 1, 0, 1, fun _ _ => [⟨31, 16, .rwl, false, 0⟩]⟩,  -- SLV_WIN_BASE_LO
  ⟨0x10c, 0, 1, 0, 1, fun _ _ => [⟨7, 0, .rwl, false, 0⟩]⟩,  -- SLV_WIN_BASE_HI
  ⟨0x110, 0, 1, 0, 1, fun _ _ => [⟨7, 0, .wo, false, 0⟩, ⟨9, 8, .wo, false, 0⟩, ⟨31, 31, .wo, false, 0⟩]⟩,  -- SLV_TPL_CMD
  ⟨0x114, 0, 1, 0, 1, fun _ _ => [⟨0, 0, .ro, false, 0⟩, ⟨7, 4, .ro, false, 0⟩, ⟨15, 8, .ro, false, 0⟩, ⟨24, 16, .ro, false, 0⟩]⟩,  -- SLV_TPL_RES
  ⟨0x120, 0, 1, 0, 1, fun _ _ => [⟨7, 0, .wo, false, 0⟩, ⟨30, 8, .wo, false, 0⟩, ⟨31, 31, .wo, false, 0⟩]⟩,  -- SLV_SUBMIT
  ⟨0x124, 0, 1, 0, 1, fun _ _ => [⟨7, 0, .ro, false, 0⟩, ⟨15, 8, .ro, false, 0⟩, ⟨31, 16, .ro, false, 0⟩]⟩,  -- SLV_SUB_RES
  ⟨0x128, 0, 1, 0, 1, fun _ _ => [⟨7, 0, .wo, false, 0⟩, ⟨10, 8, .wo, false, 0⟩, ⟨31, 31, .wo, false, 0⟩]⟩,  -- SLV_CMD
  ⟨0x12c, 0, 1, 0, 1, fun _ _ => [⟨7, 0, .ro, false, 0⟩, ⟨9, 8, .ro, false, 0⟩, ⟨13, 10, .ro, false, 0⟩, ⟨31, 31, .ro, false, 0⟩]⟩]  -- SLV_RUN

/-- SLV registers at offset 0x040 and above, in the order of the spec. -/
def regsSlv2 : List RegSpec := [
  ⟨0x130, 0, 1, 0, 1, fun _ _ => [⟨0, 0, .ro, false, 0⟩, ⟨1, 1, .ro, false, 0⟩, ⟨15, 8, .ro, false, 0⟩]⟩,  -- SLV_STALL_INFO
  ⟨0x134, 0, 1, 0, 1, fun _ _ => [⟨31, 0, .ro, false, 0⟩]⟩,  -- SLV_STALL_ADDR_LO
  ⟨0x138, 0, 1, 0, 1, fun _ _ => [⟨7, 0, .ro, false, 0⟩]⟩,  -- SLV_STALL_ADDR_HI
  ⟨0x140, 0, 1, 0, 1, fun _ _ => [⟨7, 0, .rw, false, 0⟩]⟩,  -- SLV_TPL_SEL
  ⟨0x144, 0, 1, 0, 1, fun _ _ => [⟨3, 0, .ro, false, 0⟩, ⟨31, 16, .ro, false, 0⟩]⟩,  -- SLV_TPL_STATUS
  ⟨0x148, 0, 1, 0, 1, fun _ _ => [⟨7, 0, .ro, false, 0⟩, ⟨11, 8, .ro, false, 0⟩, ⟨13, 12, .ro, false, 0⟩, ⟨14, 14, .ro, false, 0⟩, ⟨15, 15, .ro, false, 0⟩, ⟨31, 16, .ro, false, 0⟩]⟩,  -- SLV_TPL_INFO
  ⟨0x14c, 0, 1, 0, 1, fun _ _ => [⟨31, 0, .ro, false, 0⟩]⟩,  -- SLV_TPL_DL_LO
  ⟨0x150, 0, 1, 0, 1, fun _ _ => [⟨15, 0, .ro, false, 0⟩]⟩,  -- SLV_TPL_DL_HI
  ⟨0x160, 0x10, 4, 0, 1, fun _ _ => [⟨0, 0, .ro, false, 0⟩, ⟨1, 1, .ro, false, 0⟩, ⟨2, 2, .ro, false, 0⟩, ⟨31, 16, .ro, false, 0⟩]⟩,  -- SLV_FACk_STAT
  ⟨0x164, 0x10, 4, 0, 1, fun _ _ => [⟨31, 0, .ro, false, 0⟩]⟩,  -- SLV_FACk_KEY_LO
  ⟨0x168, 0x10, 4, 0, 1, fun _ _ => [⟨31, 0, .ro, false, 0⟩]⟩,  -- SLV_FACk_KEY_HI
  ⟨0x16c, 0x10, 4, 0, 1, fun _ _ => [⟨31, 0, .ro, false, 0⟩]⟩]  -- SLV_FACk_NNZ

/-- SLV registers at offset 0x040 and above, in the order of the spec. -/
def regsSlv3 : List RegSpec := [
  ⟨0x1a0, 0, 1, 0, 1, fun _ _ => [⟨15, 0, .rc, false, 0⟩, ⟨31, 16, .rc, false, 0⟩]⟩,  -- SLV_DL_CNT
  ⟨0x1a4, 0, 1, 0, 1, fun _ _ => [⟨15, 0, .rc, false, 0⟩, ⟨31, 16, .rc, false, 0⟩]⟩,  -- SLV_PREEMPT
  ⟨0x1a8, 0, 1, 0, 1, fun _ _ => [⟨7, 0, .ro, false, 0⟩, ⟨15, 8, .ro, false, 0⟩, ⟨31, 16, .ro, false, 0⟩]⟩]  -- SLV_REJ

/-- SLV registers at offset 0x040 and above, in the order of the spec. -/
def regsSlv : List RegSpec := regsSlv0 ++ regsSlv1 ++ regsSlv2 ++ regsSlv3

/-- SPK registers at offset 0x040 and above, in the order of the spec. -/
def regsSpk0 : List RegSpec := [
  ⟨0x40, 0, 1, 0, 1, fun _ _ => [⟨0, 0, .rwl, false, 0⟩, ⟨1, 1, .rwl, false, 0⟩, ⟨31, 16, .rwl, false, 0x88B5⟩]⟩,  -- SPK_CFG
  ⟨0x44, 0x4, 2, 0, 1, fun i _ => [⟨(if i == 0 then 31 else 15), 0, .rwl, false, (if i == 0 then 0x0000C603 else 0x5B)⟩]⟩,  -- SPK_DAk
  ⟨0x4c, 0, 1, 0, 1, fun _ _ => [⟨19, 0, .rwl, false, 2000⟩]⟩,  -- SPK_PERIOD
  ⟨0x50, 0, 1, 0, 1, fun _ _ => [⟨19, 0, .rwl, false, 0⟩]⟩,  -- SPK_PHASE
  ⟨0x54, 0, 1, 0, 1, fun _ _ => [⟨15, 0, .rws, false, 100⟩, ⟨31, 16, .rws, false, 1000⟩]⟩,  -- SPK_TIMING
  ⟨0x58, 0, 1, 0, 1, fun _ _ => [⟨4, 0, .rws, false, 1⟩, ⟨15, 8, .rws, false, 4⟩, ⟨20, 16, .rws, false, 8⟩]⟩,  -- SPK_MBX_CFG
  ⟨0x5c, 0, 1, 0, 1, fun _ _ => [⟨31, 16, .rwl, false, 0⟩]⟩,  -- SPK_TBL_BASE_LO
  ⟨0x60, 0, 1, 0, 1, fun _ _ => [⟨7, 0, .rwl, false, 0⟩]⟩,  -- SPK_TBL_BASE_HI
  ⟨0x64, 0, 1, 0, 1, fun _ _ => [⟨9, 0, .wo, false, 0⟩, ⟨13, 12, .wo, false, 0⟩, ⟨31, 31, .wo, false, 0⟩]⟩,  -- SPK_TBL_CMD
  ⟨0x68, 0, 1, 0, 1, fun _ _ => [⟨0, 0, .ro, false, 0⟩, ⟨7, 4, .ro, false, 0⟩, ⟨15, 8, .ro, false, 0⟩, ⟨22, 16, .ro, false, 0⟩]⟩,  -- SPK_TBL_STAT
  ⟨0x6c, 0, 1, 0, 1, fun _ _ => [⟨1, 0, .ro, false, 0⟩, ⟨2, 2, .ro, false, 0⟩, ⟨3, 3, .ro, false, 0⟩, ⟨4, 4, .ro, false, 0⟩, ⟨5, 5, .ro, false, 0⟩]⟩,  -- SPK_RING_STAT
  ⟨0x70, 0, 1, 0, 1, fun _ _ => [⟨10, 0, .ro, false, 0⟩, ⟨26, 16, .ro, false, 0⟩]⟩]  -- SPK_BREAK

/-- SPK registers at offset 0x040 and above, in the order of the spec. -/
def regsSpk1 : List RegSpec := [
  ⟨0x74, 0, 1, 0, 1, fun _ _ => [⟨31, 0, .ro, false, 0⟩]⟩,  -- SPK_PASS_LO
  ⟨0x78, 0, 1, 0, 1, fun _ _ => [⟨15, 0, .ro, false, 0⟩]⟩,  -- SPK_PASS_HI
  ⟨0x7c, 0, 1, 0, 1, fun _ _ => [⟨15, 0, .ro, false, 0⟩, ⟨31, 16, .ro, false, 0⟩]⟩,  -- SPK_PASS_TIME
  ⟨0x80, 0, 1, 0, 1, fun _ _ => [⟨15, 0, .rc, false, 0⟩]⟩,  -- SPK_PASS_MAX
  ⟨0x84, 0, 1, 0, 1, fun _ _ => [⟨10, 0, .ro, false, 0⟩, ⟨26, 16, .ro, false, 0⟩]⟩,  -- SPK_STN_CNT
  ⟨0x88, 0, 1, 0, 1, fun _ _ => [⟨15, 0, .rc, false, 0⟩, ⟨31, 16, .rc, false, 0⟩]⟩,  -- SPK_ERR_CNT
  ⟨0x8c, 0, 1, 0, 1, fun _ _ => [⟨15, 0, .rwl, false, 100⟩]⟩,  -- SPK_STN_WD
  ⟨0xa0, 0x8, 2, 0, 1, fun _ _ => [⟨3, 0, .rwl, false, 4⟩, ⟨31, 12, .rwl, false, 0⟩]⟩,  -- SPK_MBXq_BASE_LO
  ⟨0xa4, 0x8, 2, 0, 1, fun _ _ => [⟨7, 0, .rwl, false, 0⟩]⟩,  -- SPK_MBXq_BASE_HI
  ⟨0xb0, 0x4, 2, 0, 1, fun _ _ => [⟨15, 0, .ro, false, 0⟩, ⟨31, 16, .rw, false, 0⟩]⟩]  -- SPK_MBXq_IDX

/-- SPK registers at offset 0x040 and above, in the order of the spec. -/
def regsSpk : List RegSpec := regsSpk0 ++ regsSpk1

/-- NET registers at offset 0x040 and above, in the order of the spec. -/
def regsNet : List RegSpec := [
  ⟨0x40, 0x10, 5, 0, 1, fun i _ => [⟨1, 0, (if i == 4 then .ro else .rwl), false, (if i ≤ 1 then 0 else if i == 4 then 1 else 2)⟩, ⟨2, 2, (if i == 4 then .ro else .rwl), false, (if i == 4 then 1 else 0)⟩, ⟨3, 3, .rwl, false, 0⟩, ⟨5, 4, .rw, false, 3⟩]⟩,  -- NET_PORTn_CFG
  ⟨0x44, 0x10, 6, 0, 1, fun i _ => [⟨0, 0, .ro, false, (if i = 5 then 1 else 0)⟩, ⟨1, 1, .ro, false, 0⟩, ⟨31, 16, .rc, false, 0⟩]⟩,  -- NET_PORTn_STAT
  ⟨0x48, 0x10, 5, 0, 1, fun _ _ => [⟨23, 0, .rw, false, 0⟩]⟩,  -- NET_PORTn_PDELAY
  ⟨0xa0, 0, 1, 0, 1, fun _ _ => [⟨7, 0, .rwl, false, 0⟩, ⟨15, 8, .rwl, false, 1⟩, ⟨16, 16, .rwl, false, 0⟩, ⟨17, 17, .rwl, false, 0⟩, ⟨19, 18, .rwl, false, 0⟩, ⟨20, 20, .rwl, false, 0⟩, ⟨22, 21, .rw, false, 2⟩]⟩,  -- NET_PTP_CFG
  ⟨0xa4, 0, 1, 0, 1, fun _ _ => [⟨15, 0, .rw, false, 1000⟩, ⟨23, 16, .rc, false, 0⟩, ⟨31, 24, .rc, false, 0⟩]⟩,  -- NET_TC_CFG
  ⟨0xa8, 0, 1, 0, 1, fun _ _ => [⟨15, 0, .rw, false, 300⟩, ⟨31, 31, .wo, false, 0⟩]⟩,  -- NET_BR_CFG
  ⟨0xc0, 0x8, 2, 0, 1, fun _ _ => [⟨3, 0, .rwl, false, 4⟩, ⟨31, 12, .rwl, false, 0⟩]⟩,  -- NET_CPUq_BASE_LO
  ⟨0xc4, 0x8, 2, 0, 1, fun _ _ => [⟨7, 0, .rwl, false, 0⟩]⟩,  -- NET_CPUq_BASE_HI
  ⟨0xd0, 0x4, 2, 0, 1, fun _ _ => [⟨15, 0, .ro, false, 0⟩, ⟨31, 16, .rw, false, 0⟩]⟩]  -- NET_CPUq_IDX

/-- TSU registers at offset 0x040 and above, in the order of the spec. -/
def regsTsu0 : List RegSpec := [
  ⟨0x40, 0x20, 4, 0, 1, fun _ _ => [⟨29, 0, .ro, false, 0⟩]⟩,  -- TSU_TBn_NS
  ⟨0x44, 0x20, 4, 0, 1, fun _ _ => [⟨31, 0, .ro, false, 0⟩]⟩,  -- TSU_TBn_SEC_LO
  ⟨0x48, 0x20, 4, 0, 1, fun _ _ => [⟨15, 0, .ro, false, 0⟩]⟩,  -- TSU_TBn_SEC_HI
  ⟨0x4c, 0x20, 4, 0, 1, fun i _ => [⟨31, 0, (if i ≤ 1 then .rw else .ro), false, 0⟩]⟩,  -- TSU_TBn_RATE
  ⟨0x50, 0x20, 4, 0, 1, fun i _ => [⟨29, 0, (if i ≤ 1 then .rw else .ro), false, 0⟩, ⟨31, 31, (if i ≤ 1 then .rw else .ro), false, 0⟩]⟩,  -- TSU_TBn_ADJ_NS
  ⟨0x54, 0x20, 4, 0, 1, fun i _ => [⟨31, 0, (if i ≤ 1 then .rw else .ro), false, 0⟩]⟩,  -- TSU_TBn_ADJ_SEC
  ⟨0x58, 0x20, 4, 0, 1, fun _ _ => [⟨15, 0, .wo, false, 0⟩, ⟨18, 16, .wo, false, 0⟩, ⟨31, 31, .wo, false, 0⟩]⟩,  -- TSU_TBn_ADJ_CMD
  ⟨0x5c, 0x20, 4, 0, 1, fun i _ => [⟨0, 0, (if i ≤ 1 then .rw else .ro), false, 0⟩, ⟨1, 1, .ro, false, 0⟩, ⟨2, 2, .ro, false, (if i = 2 then 1 else 0)⟩, ⟨3, 3, .ro, false, 0⟩, ⟨31, 16, .ro, false, 0⟩]⟩,  -- TSU_TBn_STAT
  ⟨0xc0, 0, 1, 0, 1, fun _ _ => [⟨8, 0, .rw, false, 100⟩, ⟨9, 9, .rw, true, 1⟩, ⟨31, 16, .rw, true, 3600⟩]⟩,  -- TSU_CFG
  ⟨0xc4, 0, 1, 0, 1, fun _ _ => [⟨31, 0, .rws, true, 946684837⟩]⟩,  -- TSU_TB3_OFS
  ⟨0x100, 0x20, 8, 0, 1, fun _ _ => [⟨0, 0, .rw, false, 0⟩, ⟨1, 1, .rws, false, 0⟩, ⟨2, 2, .rws, false, 0⟩, ⟨4, 3, .rws, false, 0⟩, ⟨31, 16, .rws, false, 0⟩]⟩,  -- TSU_TPn_CFG
  ⟨0x104, 0x20, 8, 0, 1, fun _ _ => [⟨29, 0, .rws, false, 0⟩]⟩]  -- TSU_TPn_START_NS

/-- TSU registers at offset 0x040 and above, in the order of the spec. -/
def regsTsu1 : List RegSpec := [
  ⟨0x108, 0x20, 8, 0, 1, fun _ _ => [⟨31, 0, .rws, false, 0⟩]⟩,  -- TSU_TPn_START_SEC
  ⟨0x10c, 0x20, 8, 0, 1, fun _ _ => [⟨31, 0, .rws, false, 1000000000⟩]⟩,  -- TSU_TPn_PERIOD
  ⟨0x110, 0x20, 8, 0, 1, fun _ _ => [⟨29, 0, .rws, false, 100000000⟩]⟩,  -- TSU_TPn_WIDTH
  ⟨0x200, 0x10, 4, 0, 1, fun _ _ => [⟨0, 0, .rw, false, 0⟩, ⟨2, 1, .rw, false, 1⟩, ⟨4, 3, .rw, false, 0⟩, ⟨11, 8, .ro, false, 0⟩, ⟨31, 16, .rc, false, 0⟩]⟩,  -- TSU_TCn_CFG
  ⟨0x204, 0x10, 4, 0, 1, fun _ _ => [⟨29, 0, .rc, false, 0⟩, ⟨30, 30, .rc, false, 0⟩, ⟨31, 31, .rc, false, 0⟩]⟩,  -- TSU_TCn_NS
  ⟨0x208, 0x10, 4, 0, 1, fun _ _ => [⟨31, 0, .ro, false, 0⟩]⟩]  -- TSU_TCn_SEC

/-- TSU registers at offset 0x040 and above, in the order of the spec. -/
def regsTsu : List RegSpec := regsTsu0 ++ regsTsu1

/-- MTR registers at offset 0x040 and above, in the order of the spec. -/
def regsMtr0 : List RegSpec := [
  ⟨0x40, 0, 1, 0, 1, fun _ _ => [⟨0, 0, .rwl, false, 0⟩, ⟨5, 4, .rwl, false, 0⟩, ⟨7, 6, .rwl, false, 0⟩, ⟨8, 8, .rws, false, 0⟩, ⟨23, 16, .rws, false, 40⟩]⟩,  -- MTR_ELEC_CFG
  ⟨0x44, 0, 1, 0, 1, fun _ _ => [⟨3, 0, .rwl, false, 0⟩, ⟨11, 8, .rwl, false, 0⟩]⟩,  -- MTR_RTD_CFG
  ⟨0x48, 0, 1, 0, 1, fun _ _ => [⟨9, 0, .rwl, false, 100⟩, ⟨15, 10, .rwl, false, 15⟩, ⟨27, 16, .rwl, false, 60⟩, ⟨28, 28, .rwl, false, 1⟩]⟩,  -- MTR_LANE_CFG
  ⟨0x4c, 0, 1, 0, 1, fun _ _ => [⟨23, 0, .rwl, false, 0⟩]⟩,  -- MTR_LTBL_BASE
  ⟨0x50, 0, 1, 0, 1, fun _ _ => [⟨23, 0, .rwl, false, 0⟩, ⟨31, 31, .rwl, false, 0⟩]⟩,  -- MTR_VIEW_BASE
  ⟨0x54, 0, 1, 0, 1, fun _ _ => [⟨23, 0, .rwl, false, 0⟩, ⟨27, 24, .rwl, false, 4⟩, ⟨31, 31, .rwl, false, 0⟩]⟩,  -- MTR_HARM_BASE
  ⟨0x58, 0, 1, 0, 1, fun _ _ => [⟨15, 0, .ro, false, 0⟩, ⟨31, 16, .rw, false, 0⟩]⟩,  -- MTR_HARM_IDX
  ⟨0x5c, 0, 1, 0, 1, fun _ _ => [⟨10, 0, .wo, false, 0⟩, ⟨17, 16, .wo, false, 0⟩, ⟨31, 31, .wo, false, 0⟩]⟩,  -- MTR_LANE_CMD
  ⟨0x60, 0, 1, 0, 1, fun _ _ => [⟨0, 0, .ro, false, 0⟩, ⟨7, 4, .ro, false, 0⟩, ⟨18, 8, .ro, false, 0⟩, ⟨31, 20, .ro, false, 0⟩]⟩,  -- MTR_LANE_RES
  ⟨0x64, 0, 1, 0, 1, fun _ _ => [⟨10, 0, .wo, true, 0⟩, ⟨31, 31, .wo, true, 0⟩]⟩,  -- MTR_LANE_CLR
  ⟨0x68, 0, 1, 0, 1, fun _ _ => [⟨2, 0, .ro, false, 0⟩, ⟨6, 4, .ro, false, 0⟩, ⟨9, 8, .ro, false, 0⟩, ⟨11, 10, .ro, false, 0⟩]⟩,  -- MTR_ZC_STAT
  ⟨0x6c, 0, 1, 0, 1, fun _ _ => [⟨31, 0, .ro, false, 0⟩]⟩]  -- MTR_BILL_SEQ

/-- MTR registers at offset 0x040 and above, in the order of the spec. -/
def regsMtr1 : List RegSpec := [
  ⟨0x70, 0, 1, 0, 1, fun _ _ => [⟨31, 0, .rw, false, 0⟩]⟩,  -- MTR_BILL_ACK
  ⟨0x74, 0, 1, 0, 1, fun _ _ => [⟨23, 0, .ro, false, 0⟩, ⟨31, 24, .ro, false, 0⟩]⟩,  -- MTR_BILL_STAT
  ⟨0x78, 0, 1, 0, 1, fun _ _ => [⟨1, 0, .ro, false, 0⟩, ⟨2, 2, .ro, false, 0⟩, ⟨3, 3, .ro, false, 0⟩, ⟨4, 4, .ro, false, 0⟩, ⟨5, 5, .ro, false, 0⟩]⟩,  -- MTR_PF_STAT
  ⟨0x80, 0x4, 8, 0, 1, fun _ _ => [⟨15, 0, .rws, false, 0⟩]⟩,  -- MTR_RTD_OFSn
  ⟨0x100, 0x10, 8, 0, 1, fun _ _ => [⟨10, 0, .rw, false, 0⟩, ⟨13, 12, .rw, false, 0⟩, ⟨31, 31, .wo, false, 0⟩]⟩,  -- MTR_SNAPk_CTL
  ⟨0x104, 0x10, 8, 0x4, 3, fun _ _ => [⟨31, 0, .ro, false, 0⟩]⟩,  -- MTR_SNAPk_Wj
  ⟨0x200, 0x8, 16, 0, 1, fun _ _ => [⟨31, 0, .rws, false, 0x3F800000⟩]⟩,  -- MTR_CHn_SCALE
  ⟨0x204, 0x8, 16, 0, 1, fun _ _ => [⟨15, 0, .rws, false, 0⟩]⟩]  -- MTR_CHn_PHC

/-- MTR registers at offset 0x040 and above, in the order of the spec. -/
def regsMtr : List RegSpec := regsMtr0 ++ regsMtr1

/-- FIO registers at offset 0x040 and above, in the order of the spec. -/
def regsFio : List RegSpec := [
  ⟨0x40, 0x4, 24, 0, 1, fun _ _ => [⟨15, 0, .rws, false, 1000⟩, ⟨16, 16, .rws, false, 0⟩, ⟨18, 17, .rw, false, 0⟩, ⟨20, 19, .rw, false, 2⟩, ⟨22, 21, .rw, false, 1⟩]⟩,  -- FIO_DI_CFGn
  ⟨0xa0, 0, 1, 0, 1, fun _ _ => [⟨23, 0, .ro, false, 0⟩]⟩,  -- FIO_DI_STATE
  ⟨0xa4, 0, 1, 0, 1, fun _ _ => [⟨23, 0, .ro, false, 0⟩]⟩,  -- FIO_DI_RAW
  ⟨0xb0, 0, 1, 0, 1, fun _ _ => [⟨4, 0, .rc, false, 0⟩, ⟨5, 5, .rc, false, 0⟩, ⟨7, 6, .rc, false, 0⟩, ⟨31, 31, .rc, false, 0⟩]⟩,  -- FIO_EDGE_POP
  ⟨0xb4, 0, 1, 0, 1, fun _ _ => [⟨31, 0, .ro, false, 0⟩]⟩,  -- FIO_EDGE_NS
  ⟨0xb8, 0, 1, 0, 1, fun _ _ => [⟨8, 0, .ro, false, 0⟩, ⟨31, 16, .rc, false, 0⟩]⟩,  -- FIO_EDGE_CNT
  ⟨0xc0, 0, 1, 0, 1, fun _ _ => [⟨15, 0, .ro, false, 0⟩, ⟨31, 16, .ro, false, 0⟩]⟩,  -- FIO_DO_STATE
  ⟨0xc4, 0, 1, 0, 1, fun _ _ => [⟨15, 0, .rw, false, 0⟩]⟩,  -- FIO_DO_INHIBIT
  ⟨0xc8, 0, 1, 0, 1, fun _ _ => [⟨15, 0, .rw, false, 0xFFFF⟩]⟩,  -- FIO_DO_DIAG
  ⟨0xcc, 0, 1, 0, 1, fun _ _ => [⟨15, 0, .ro, false, 0⟩, ⟨31, 16, .ro, false, 0⟩]⟩,  -- FIO_FLD_V
  ⟨0x100, 0x4, 24, 0, 1, fun _ _ => [⟨31, 0, .ro, false, 0⟩]⟩]  -- FIO_DI_CNTn

/-- CAN registers at offset 0x040 and above, in the order of the spec. -/
def regsCan0 : List RegSpec := [
  ⟨0x40, 0, 1, 0, 1, fun _ _ => [⟨0, 0, .rwl, false, 0⟩, ⟨1, 1, .rwl, false, 0⟩, ⟨2, 2, .rws, false, 0⟩, ⟨3, 3, .rws, false, 0⟩, ⟨4, 4, .rwl, false, 1⟩, ⟨6, 5, .rw, false, 2⟩, ⟨7, 7, .rwl, false, 0⟩]⟩,  -- CAN_CFG
  ⟨0x44, 0, 1, 0, 1, fun _ _ => [⟨7, 0, .rwl, false, 9⟩, ⟨14, 8, .rwl, false, 23⟩, ⟨20, 15, .rwl, false, 8⟩, ⟨25, 21, .rwl, false, 8⟩, ⟨30, 26, .rwl, false, 8⟩]⟩,  -- CAN_NBT
  ⟨0x48, 0, 1, 0, 1, fun _ _ => [⟨4, 0, .rwl, false, 3⟩, ⟨9, 5, .rwl, false, 4⟩, ⟨14, 10, .rwl, false, 15⟩, ⟨19, 15, .rwl, false, 5⟩, ⟨24, 20, .rwl, false, 5⟩]⟩,  -- CAN_DBT
  ⟨0x4c, 0, 1, 0, 1, fun _ _ => [⟨6, 0, .rwl, false, 0⟩, ⟨7, 7, .rwl, false, 0⟩, ⟨22, 16, .ro, false, 0⟩]⟩,  -- CAN_TDC
  ⟨0x50, 0, 1, 0, 1, fun _ _ => [⟨7, 0, .ro, false, 0⟩, ⟨15, 8, .ro, false, 0⟩, ⟨17, 16, .ro, false, 0⟩, ⟨22, 20, .ro, false, 0⟩, ⟨31, 24, .ro, false, 0⟩]⟩,  -- CAN_ERR
  ⟨0x54, 0, 1, 0, 1, fun _ _ => [⟨2, 0, .w1s, false, 0⟩, ⟨6, 4, .w1s, false, 0⟩]⟩,  -- CAN_TX_CMD
  ⟨0x58, 0, 1, 0, 1, fun _ _ => [⟨5, 0, .ro, false, 0⟩]⟩,  -- CAN_TX_STAT
  ⟨0x5c, 0, 1, 0, 1, fun _ _ => [⟨5, 0, .ro, false, 0⟩, ⟨13, 8, .ro, false, 0⟩, ⟨22, 16, .ro, false, 0⟩]⟩,  -- CAN_RX_IDX
  ⟨0x60, 0, 1, 0, 1, fun _ _ => [⟨6, 0, .wo, false, 0⟩]⟩,  -- CAN_RX_ACK
  ⟨0x64, 0, 1, 0, 1, fun _ _ => [⟨15, 0, .rc, false, 0⟩]⟩,  -- CAN_RX_OVF
  ⟨0x68, 0, 1, 0, 1, fun _ _ => [⟨31, 10, .rwl, false, 0⟩]⟩,  -- CAN_MAP_BASE_LO
  ⟨0x6c, 0, 1, 0, 1, fun _ _ => [⟨7, 0, .rwl, false, 0⟩, ⟨22, 16, .rwl, false, 0⟩]⟩]  -- CAN_MAP_BASE_HI

/-- CAN registers at offset 0x040 and above, in the order of the spec. -/
def regsCan1 : List RegSpec := [
  ⟨0x80, 0, 1, 0, 1, fun _ _ => [⟨0, 0, .rw, false, 0⟩, ⟨2, 1, .rw, false, 1⟩, ⟨3, 3, .rw, false, 0⟩, ⟨7, 4, .rw, false, 0⟩, ⟨8, 8, .rw, false, 1⟩]⟩,  -- CAN_WK_CFG
  ⟨0x84, 0, 1, 0, 1, fun _ _ => [⟨28, 0, .rw, false, 0⟩]⟩,  -- CAN_WK_ID
  ⟨0x88, 0, 1, 0, 1, fun _ _ => [⟨28, 0, .rw, false, 0⟩]⟩,  -- CAN_WK_IDMASK
  ⟨0x8c, 0x4, 2, 0, 1, fun _ _ => [⟨31, 0, .rw, false, 0⟩]⟩,  -- CAN_WK_DATAj
  ⟨0x94, 0x4, 2, 0, 1, fun _ _ => [⟨31, 0, .rw, false, 0⟩]⟩,  -- CAN_WK_DMASKj
  ⟨0x9c, 0, 1, 0, 1, fun _ _ => [⟨0, 0, .w1c, false, 0⟩, ⟨1, 1, .w1c, false, 0⟩, ⟨13, 8, .ro, false, 0⟩]⟩,  -- CAN_WK_STAT
  ⟨0x200, 0x50, 3, 0, 1, fun _ _ => [⟨31, 0, .rw, false, 0⟩]⟩,  -- transmit buffers: IDW (R356)
  ⟨0x204, 0x50, 3, 0, 1, fun _ _ => [⟨3, 0, .rw, false, 0⟩, ⟨4, 4, .rw, false, 0⟩, ⟨7, 6, .rw, false, 0⟩]⟩,  -- CTL
  ⟨0x210, 0x50, 3, 0x4, 16, fun _ _ => [⟨31, 0, .rw, false, 0⟩]⟩,  -- DATA
  ⟨0x1000, 0x50, 64, 0, 1, fun _ _ => [⟨31, 0, .ro, false, 0⟩]⟩,  -- receive entries: IDW (R356)
  ⟨0x1004, 0x50, 64, 0, 1, fun _ _ => [⟨3, 0, .ro, false, 0⟩, ⟨4, 4, .ro, false, 0⟩, ⟨5, 5, .ro, false, 0⟩, ⟨7, 6, .ro, false, 0⟩, ⟨14, 8, .ro, false, 0⟩]⟩,  -- CTL
  ⟨0x1008, 0x50, 64, 0, 1, fun _ _ => [⟨31, 0, .ro, false, 0⟩]⟩,  -- STAMP
  ⟨0x1010, 0x50, 64, 0x4, 16, fun _ _ => [⟨31, 0, .ro, false, 0⟩]⟩]  -- DATA

/-- CAN registers at offset 0x040 and above, in the order of the spec. -/
def regsCan : List RegSpec := regsCan0 ++ regsCan1

/-- TDM registers at offset 0x040 and above, in the order of the spec. -/
def regsTdm0 : List RegSpec := [
  ⟨0x40, 0, 1, 0, 1, fun _ _ => [⟨0, 0, .rwl, false, 0⟩, ⟨1, 1, .rwl, false, 0⟩, ⟨2, 2, .rw, false, 1⟩, ⟨31, 16, .rwl, false, 0x88B6⟩]⟩,  -- TDM_CFG
  ⟨0x44, 0, 1, 0, 1, fun _ _ => [⟨2, 0, .wo, false, 0⟩, ⟨31, 31, .wo, false, 0⟩]⟩,  -- TDM_CMD
  ⟨0x48, 0, 1, 0, 1, fun _ _ => [⟨2, 0, .ro, false, 0⟩, ⟨4, 3, .ro, false, 3⟩, ⟨7, 5, .ro, false, 0⟩, ⟨8, 8, .ro, false, 0⟩, ⟨23, 16, .ro, false, 0⟩]⟩,  -- TDM_STATE
  ⟨0x4c, 0, 1, 0, 1, fun _ _ => [⟨15, 0, .ro, false, 0⟩, ⟨31, 16, .rc, false, 0⟩]⟩,  -- TDM_LAG
  ⟨0x50, 0, 1, 0, 1, fun _ _ => [⟨15, 0, .rc, false, 0⟩, ⟨31, 16, .rc, false, 0⟩]⟩,  -- TDM_DIG_CNT
  ⟨0x54, 0, 1, 0, 1, fun _ _ => [⟨15, 0, .ro, false, 0⟩, ⟨31, 16, .ro, false, 0⟩]⟩,  -- TDM_SW
  ⟨0x58, 0, 1, 0, 1, fun _ _ => [⟨31, 16, .rwl, false, 0⟩]⟩,  -- TDM_BUF_BASE_LO
  ⟨0x5c, 0, 1, 0, 1, fun _ _ => [⟨7, 0, .rwl, false, 0⟩]⟩,  -- TDM_BUF_BASE_HI
  ⟨0x60, 0, 1, 0, 1, fun _ _ => [⟨31, 0, .ro, false, 0⟩]⟩,  -- TDM_OFS_LO
  ⟨0x64, 0, 1, 0, 1, fun _ _ => [⟨31, 0, .ro, false, 0⟩]⟩,  -- TDM_OFS_HI
  ⟨0x68, 0, 1, 0, 1, fun _ _ => [⟨15, 0, .rw, false, 10000⟩]⟩,  -- TDM_JOIN_TMO
  ⟨0x80, 0, 1, 0, 1, fun _ _ => [⟨0, 0, .rwl, false, 0⟩, ⟨21, 8, .rwl, false, 100⟩]⟩]  -- TDM_WIT_CFG

/-- TDM registers at offset 0x040 and above, in the order of the spec. -/
def regsTdm1 : List RegSpec := [
  ⟨0x84, 0, 1, 0, 1, fun _ _ => [⟨2, 0, .ro, false, 0⟩, ⟨6, 4, .ro, false, 0⟩, ⟨9, 8, .ro, false, 0⟩, ⟨31, 16, .ro, false, 0⟩]⟩]  -- TDM_WIT_STAT

/-- TDM registers at offset 0x040 and above, in the order of the spec. -/
def regsTdm : List RegSpec := regsTdm0 ++ regsTdm1

/-- EVR registers at offset 0x040 and above, in the order of the spec. -/
def regsEvr0 : List RegSpec := [
  ⟨0x40, 0, 1, 0, 1, fun _ _ => [⟨2, 0, .rw, false, 6⟩, ⟨6, 4, .rw, true, 5⟩, ⟨8, 8, .rw, true, 1⟩, ⟨9, 9, .rw, true, 0⟩, ⟨12, 10, .rw, true, 0⟩]⟩,  -- EVR_CFG
  ⟨0x44, 0, 1, 0, 1, fun _ _ => [⟨31, 0, .ro, false, 0⟩]⟩,  -- EVR_SEQ_LO
  ⟨0x48, 0, 1, 0, 1, fun _ _ => [⟨15, 0, .ro, false, 0⟩]⟩,  -- EVR_SEQ_HI
  ⟨0x4c, 0, 1, 0, 1, fun _ _ => [⟨12, 0, .ro, false, 0⟩]⟩,  -- EVR_BUF_STAT
  ⟨0x50, 0, 1, 0, 1, fun _ _ => [⟨20, 0, .ro, false, 0⟩]⟩,  -- EVR_LOG_STAT
  ⟨0x60, 0x4, 8, 0, 1, fun _ _ => [⟨15, 0, .ro, false, 0⟩]⟩,  -- EVR_DROPs
  ⟨0x80, 0, 1, 0, 1, fun _ _ => [⟨2, 0, .wo, false, 0⟩, ⟨31, 31, .wo, false, 0⟩]⟩,  -- EVR_CMD
  ⟨0x84, 0, 1, 0, 1, fun _ _ => [⟨31, 0, .rw, false, 0⟩]⟩,  -- EVR_CUR_LO
  ⟨0x88, 0, 1, 0, 1, fun _ _ => [⟨15, 0, .rw, false, 0⟩]⟩,  -- EVR_CUR_HI
  ⟨0x8c, 0, 1, 0, 1, fun _ _ => [⟨3, 0, .ro, false, 0⟩, ⟨15, 8, .ro, false, 0⟩, ⟨16, 16, .ro, false, 0⟩, ⟨17, 17, .ro, false, 0⟩, ⟨18, 18, .ro, false, 0⟩]⟩,  -- EVR_WIN_STAT
  ⟨0x90, 0, 1, 0, 1, fun _ _ => [⟨31, 0, .rw, false, 0⟩]⟩,  -- EVR_TOK_LO
  ⟨0x94, 0, 1, 0, 1, fun _ _ => [⟨7, 0, .rw, false, 0⟩]⟩]  -- EVR_TOK_HI

/-- EVR registers at offset 0x040 and above, in the order of the spec. -/
def regsEvr1 : List RegSpec := [
  ⟨0x98, 0, 1, 0, 1, fun _ _ => [⟨3, 0, .ro, false, 0⟩, ⟨4, 4, .ro, false, 0⟩, ⟨31, 16, .ro, false, 0⟩]⟩,  -- EVR_CLR_STAT
  ⟨0xa0, 0x4, 8, 0, 1, fun _ _ => [⟨31, 0, .ro, false, 0⟩]⟩,  -- EVR_NONCEk
  ⟨0x100, 0x20, 8, 0x4, 4, fun _ _ => [⟨31, 0, .rw, false, 0⟩]⟩,  -- EVR_POSTc_Pk
  ⟨0x110, 0x20, 8, 0, 1, fun _ _ => [⟨15, 0, .wo, false, 0⟩, ⟨18, 16, .wo, false, 0⟩, ⟨19, 19, .wo, false, 0⟩, ⟨31, 31, .wo, false, 0⟩]⟩,  -- EVR_POSTc_CMD
  ⟨0x400, 0x20, 8, 0x4, 8, fun _ _ => [⟨31, 0, .ro, false, 0⟩]⟩]  -- EVR_WINi

/-- EVR registers at offset 0x040 and above, in the order of the spec. -/
def regsEvr : List RegSpec := regsEvr0 ++ regsEvr1

/-- KST registers at offset 0x040 and above, in the order of the spec. -/
def regsKst : List RegSpec := [
  ⟨0x40, 0, 1, 0, 1, fun _ _ => [⟨4, 0, .wo, true, 0⟩, ⟨12, 8, .wo, true, 0⟩, ⟨31, 31, .wo, true, 0⟩]⟩,  -- KST_CMD
  ⟨0x44, 0, 1, 0, 1, fun _ _ => [⟨31, 0, .rw, true, 0⟩]⟩,  -- KST_ARG_LO
  ⟨0x48, 0, 1, 0, 1, fun _ _ => [⟨7, 0, .rw, true, 0⟩]⟩,  -- KST_ARG_HI
  ⟨0x4c, 0, 1, 0, 1, fun _ _ => [⟨31, 0, .rw, true, 0⟩]⟩,  -- KST_OUT_LO
  ⟨0x50, 0, 1, 0, 1, fun _ _ => [⟨7, 0, .rw, true, 0⟩]⟩,  -- KST_OUT_HI
  ⟨0x54, 0, 1, 0, 1, fun _ _ => [⟨0, 0, .ro, false, 0⟩, ⟨7, 4, .ro, false, 0⟩, ⟨12, 8, .ro, false, 0⟩]⟩,  -- KST_RES
  ⟨0x58, 0, 1, 0, 1, fun _ _ => [⟨2, 0, .ro, false, 0⟩, ⟨4, 4, .ro, false, 1⟩, ⟨5, 5, .ro, false, 0⟩, ⟨6, 6, .ro, false, 0⟩, ⟨7, 7, .ro, false, 0⟩, ⟨11, 8, .ro, false, 0⟩]⟩,  -- KST_LC: DBG_EN is 1 in BLANK (R413)
  ⟨0x60, 0x4, 8, 0, 1, fun _ _ => [⟨31, 0, .ro, false, 0⟩]⟩,  -- KST_NONCEk
  ⟨0x80, 0x4, 4, 0, 1, fun _ _ => [⟨31, 0, .ro, false, 0⟩]⟩,  -- KST_SERIALk
  ⟨0x90, 0, 1, 0, 1, fun _ _ => [⟨6, 0, .ro, false, 0⟩]⟩,  -- KST_ROLLBACK
  ⟨0x100, 0x20, 4, 0x4, 8, fun _ _ => [⟨31, 0, .ro, false, 0⟩]⟩,  -- KST_MEASr_k
  ⟨0x200, 0x4, 32, 0, 1, fun _ _ => [⟨1, 0, .ro, false, 0⟩, ⟨3, 2, .ro, false, 0⟩, ⟨6, 4, .ro, false, 0⟩, ⟨31, 16, .ro, false, 0⟩]⟩]  -- KST_SLOTn_STAT

/-- PWR registers at offset 0x040 and above, in the order of the spec. -/
def regsPwr0 : List RegSpec := [
  ⟨0x200, 0, 1, 0, 1, fun _ _ => [⟨15, 0, .ro, false, 0⟩, ⟨31, 16, .ro, false, 0⟩]⟩,  -- PWR_FEEDA
  ⟨0x204, 0, 1, 0, 1, fun _ _ => [⟨15, 0, .ro, false, 0⟩, ⟨31, 16, .ro, false, 0⟩]⟩,  -- PWR_FEEDB
  ⟨0x208, 0, 1, 0, 1, fun _ _ => [⟨0, 0, .ro, false, 0⟩, ⟨1, 1, .ro, false, 0⟩, ⟨2, 2, .ro, false, 0⟩, ⟨3, 3, .ro, false, 0⟩, ⟨23, 16, .ro, false, 0⟩, ⟨31, 24, .ro, false, 0⟩]⟩,  -- PWR_FEED_STAT
  ⟨0x40, 0, 1, 0, 1, fun _ _ => [⟨2, 0, .wo, false, 0⟩, ⟨31, 31, .wo, false, 0⟩]⟩,  -- PWR_SLEEP_CMD
  ⟨0x44, 0, 1, 0, 1, fun _ _ => [⟨0, 0, .rw, false, 0⟩, ⟨1, 1, .rw, false, 0⟩, ⟨15, 8, .rw, false, 100⟩]⟩,  -- PWR_CFG
  ⟨0x48, 0, 1, 0, 1, fun _ _ => [⟨10, 0, .rw, false, 0⟩]⟩,  -- PWR_WAKE_EN
  ⟨0x4c, 0, 1, 0, 1, fun _ _ => [⟨10, 0, .w1c, false, 0⟩]⟩,  -- PWR_WAKE_LATCH
  ⟨0x50, 0, 1, 0, 1, fun _ _ => [⟨23, 0, .rw, false, 0⟩, ⟨24, 24, .rw, false, 1⟩, ⟨25, 25, .rw, false, 0⟩]⟩,  -- PWR_DI_WAKE
  ⟨0x54, 0, 1, 0, 1, fun _ _ => [⟨3, 0, .rw, false, 0⟩, ⟨4, 4, .rw, false, 1⟩, ⟨5, 5, .rw, false, 0⟩]⟩,  -- PWR_TC_WAKE
  ⟨0x58, 0, 1, 0, 1, fun _ _ => [⟨0, 0, .rw, false, 0⟩]⟩,  -- PWR_PAT_CFG
  ⟨0x5c, 0, 1, 0, 1, fun _ _ => [⟨31, 0, .rw, false, 0⟩]⟩,  -- PWR_PAT_MASK_LO
  ⟨0x60, 0, 1, 0, 1, fun _ _ => [⟨31, 0, .rw, false, 0⟩]⟩]  -- PWR_PAT_MASK_HI

/-- PWR registers at offset 0x040 and above, in the order of the spec. -/
def regsPwr1 : List RegSpec := [
  ⟨0x64, 0, 1, 0, 1, fun _ _ => [⟨2, 0, .ro, false, 0⟩, ⟨6, 4, .ro, false, 0⟩, ⟨7, 7, .ro, false, 0⟩, ⟨10, 8, .ro, false, 0⟩, ⟨26, 16, .ro, false, 0⟩]⟩,  -- PWR_STATE
  ⟨0x68, 0, 1, 0, 1, fun _ _ => [⟨31, 0, .ro, false, 0⟩]⟩,  -- PWR_FW_TICKS_LO
  ⟨0x6c, 0, 1, 0, 1, fun _ _ => [⟨15, 0, .ro, false, 0⟩]⟩,  -- PWR_FW_TICKS_HI
  ⟨0x70, 0, 1, 0, 1, fun _ _ => [⟨15, 0, .ro, false, 0⟩]⟩,  -- PWR_GAP_CNT
  ⟨0x74, 0, 1, 0, 1, fun _ _ => [⟨31, 0, .rw, true, 0⟩]⟩,  -- PWR_RESUME_LO
  ⟨0x78, 0, 1, 0, 1, fun _ _ => [⟨7, 0, .rw, true, 0⟩]⟩,  -- PWR_RESUME_HI
  ⟨0x80, 0x4, 16, 0, 1, fun _ _ => [⟨31, 0, .rw, false, 0⟩]⟩,  -- PWR_PATk
  ⟨0x100, 0x8, 4, 0, 1, fun _ _ => [⟨31, 0, .ro, false, 0⟩]⟩,  -- PWR_RESs_LO
  ⟨0x104, 0x8, 4, 0, 1, fun _ _ => [⟨31, 0, .ro, false, 0⟩]⟩,  -- PWR_RESs_HI
  ⟨0x20c, 0, 1, 0, 1, fun _ _ => [⟨15, 0, .ro, false, 0⟩, ⟨16, 16, .rw, true, 1⟩]⟩]  -- PWR_VBAT

/-- PWR registers at offset 0x040 and above, in the order of the spec. -/
def regsPwr : List RegSpec := regsPwr0 ++ regsPwr1

/-- RTC registers at offset 0x040 and above, in the order of the spec. -/
def regsRtc : List RegSpec := [
  ⟨0x40, 0, 1, 0, 1, fun _ _ => [⟨0, 0, .rw, true, 0⟩]⟩,  -- RTC_CTL
  ⟨0x44, 0, 1, 0, 1, fun _ _ => [⟨6, 0, .rw, true, 0⟩, ⟨7, 7, .rc, false, 1⟩]⟩,  -- RTC_SEC
  ⟨0x48, 0, 1, 0, 1, fun _ _ => [⟨6, 0, .rw, true, 0⟩, ⟨13, 8, .rw, true, 0⟩, ⟨18, 16, .rw, true, 6⟩]⟩,  -- RTC_TIME
  ⟨0x4c, 0, 1, 0, 1, fun _ _ => [⟨5, 0, .rw, true, 1⟩, ⟨12, 8, .rw, true, 1⟩, ⟨15, 15, .rw, true, 0⟩]⟩,  -- RTC_DATE
  ⟨0x50, 0, 1, 0, 1, fun _ _ => [⟨7, 0, .rw, true, 0⟩, ⟨8, 8, .rc, false, 0⟩]⟩,  -- RTC_YEAR
  ⟨0x54, 0, 1, 0, 1, fun _ _ => [⟨14, 0, .ro, false, 0⟩]⟩,  -- RTC_SUB
  ⟨0x60, 0, 1, 0, 1, fun _ _ => [⟨6, 0, .rw, false, 0⟩, ⟨14, 8, .rw, false, 0⟩, ⟨21, 16, .rw, false, 0⟩]⟩,  -- RTC_ALM_TIME
  ⟨0x64, 0, 1, 0, 1, fun _ _ => [⟨5, 0, .rw, false, 0x01⟩, ⟨12, 8, .rw, false, 0x01⟩, ⟨18, 16, .rw, false, 1⟩, ⟨29, 24, .rw, false, 0⟩, ⟨31, 31, .rw, false, 0⟩]⟩,  -- RTC_ALM_DATE
  ⟨0x68, 0, 1, 0, 1, fun _ _ => [⟨0, 0, .w1c, false, 0⟩, ⟨1, 1, .w1c, false, 0⟩, ⟨2, 2, .w1c, false, 0⟩]⟩,  -- RTC_ALM_STAT
  ⟨0x6c, 0, 1, 0, 1, fun _ _ => [⟨24, 0, .rw, false, 0⟩]⟩]  -- RTC_PER

/-- PNL registers at offset 0x040 and above, in the order of the spec. -/
def regsPnl0 : List RegSpec := [
  ⟨0x40, 0, 1, 0, 1, fun _ _ => [⟨9, 0, .rwl, false, 640⟩, ⟨18, 10, .rwl, false, 480⟩, ⟨27, 20, .rwl, false, 0⟩]⟩,  -- PNL_CFG
  ⟨0x44, 0, 1, 0, 1, fun _ _ => [⟨5, 0, .rws, false, 1⟩, ⟨15, 8, .rws, false, 20⟩]⟩,  -- PNL_COM
  ⟨0x48, 0, 1, 0, 1, fun _ _ => [⟨7, 0, .rwl, false, 1⟩, ⟨15, 8, .rwl, false, 1⟩]⟩,  -- PNL_PWR_CFG
  ⟨0x4c, 0, 1, 0, 1, fun _ _ => [⟨1, 0, .wo, false, 0⟩, ⟨31, 31, .wo, false, 0⟩]⟩,  -- PNL_PWR_CMD
  ⟨0x50, 0, 1, 0, 1, fun _ _ => [⟨2, 0, .ro, false, 0⟩, ⟨3, 3, .ro, false, 0⟩, ⟨4, 4, .ro, false, 0⟩, ⟨5, 5, .ro, false, 0⟩]⟩,  -- PNL_PWR_STAT
  ⟨0x80, 0x10, 8, 0, 1, fun _ _ => [⟨8, 0, .rws, false, 1⟩, ⟨24, 16, .rws, false, 1⟩, ⟨31, 31, .rw, false, 0⟩]⟩,  -- PNL_REGr_CFG
  ⟨0x84, 0x10, 8, 0, 1, fun _ _ => [⟨31, 6, .rws, false, 0⟩]⟩,  -- PNL_REGr_BASE_LO
  ⟨0x88, 0x10, 8, 0, 1, fun _ _ => [⟨7, 0, .rws, false, 0⟩]⟩,  -- PNL_REGr_BASE_HI
  ⟨0x8c, 0x10, 8, 0, 1, fun _ _ => [⟨15, 0, .rws, false, 2560⟩]⟩,  -- PNL_REGr_STRIDE
  ⟨0x100, 0, 1, 0, 1, fun _ _ => [⟨7, 0, .wo, false, 0⟩, ⟨31, 31, .wo, false, 0⟩]⟩,  -- PNL_UPD_CMD
  ⟨0x104, 0, 1, 0, 1, fun _ _ => [⟨2, 0, .ro, false, 0⟩, ⟨3, 3, .ro, false, 0⟩, ⟨15, 8, .ro, false, 0⟩, ⟨24, 16, .ro, false, 0⟩]⟩,  -- PNL_UPD_STAT
  ⟨0x108, 0, 1, 0, 1, fun _ _ => [⟨15, 0, .rc, false, 0⟩, ⟨31, 16, .rc, false, 0⟩]⟩]  -- PNL_UPD_CNT

/-- PNL registers at offset 0x040 and above, in the order of the spec. -/
def regsPnl1 : List RegSpec := [
  ⟨0x110, 0, 1, 0, 1, fun _ _ => [⟨8, 0, .rwl, false, 1⟩, ⟨21, 16, .rwl, false, 0⟩, ⟨24, 24, .rwl, false, 0⟩, ⟨31, 31, .rwl, false, 0⟩]⟩,  -- PNL_AON_CFG
  ⟨0x114, 0, 1, 0, 1, fun _ _ => [⟨15, 0, .rw, false, 0x0070⟩]⟩,  -- PNL_AON_PAL
  ⟨0x118, 0, 1, 0, 1, fun _ _ => [⟨5, 0, .rw, false, 1⟩, ⟨15, 8, .rw, false, 60⟩]⟩,  -- PNL_AON_TIME
  ⟨0x11c, 0, 1, 0, 1, fun _ _ => [⟨31, 0, .rw, false, 0⟩]⟩,  -- PNL_AON_SRC_LO
  ⟨0x120, 0, 1, 0, 1, fun _ _ => [⟨7, 0, .rw, false, 0⟩]⟩,  -- PNL_AON_SRC_HI
  ⟨0x124, 0, 1, 0, 1, fun _ _ => [⟨31, 31, .wo, false, 0⟩]⟩]  -- PNL_AON_CMD

/-- PNL registers at offset 0x040 and above, in the order of the spec. -/
def regsPnl : List RegSpec := regsPnl0 ++ regsPnl1

/-- BGS registers at offset 0x040 and above, in the order of the spec. -/
def regsBgs : List RegSpec := [
  ⟨0x40, 0, 1, 0, 1, fun _ _ => [⟨7, 0, .rw, false, 24⟩, ⟨15, 8, .rw, false, 60⟩]⟩,  -- BGS_SCRUB_CFG
  ⟨0x44, 0, 1, 0, 1, fun _ _ => [⟨15, 0, .rw, false, 2048⟩, ⟨23, 16, .rw, false, 8⟩]⟩,  -- BGS_BUDGET
  ⟨0x48, 0, 1, 0, 1, fun _ _ => [⟨9, 0, .ro, false, 0⟩]⟩,  -- BGS_SCRUB_STAT
  ⟨0x4c, 0, 1, 0, 1, fun _ _ => [⟨15, 0, .ro, false, 0xFFFF⟩, ⟨16, 16, .ro, false, 0⟩, ⟨17, 17, .ro, false, 0⟩, ⟨18, 18, .ro, false, 0⟩]⟩,  -- BGS_TRUE_STAT
  ⟨0x50, 0, 1, 0, 1, fun _ _ => [⟨3, 0, .rw, false, 6⟩, ⟨31, 12, .rw, false, 0⟩]⟩,  -- BGS_TEL_BASE_LO
  ⟨0x54, 0, 1, 0, 1, fun _ _ => [⟨7, 0, .rw, false, 0⟩]⟩,  -- BGS_TEL_BASE_HI
  ⟨0x58, 0, 1, 0, 1, fun _ _ => [⟨31, 0, .ro, false, 0⟩]⟩]  -- BGS_TEL_SEQ

/-- The block-specific registers of a page. -/
def blkRegs : Blk → List RegSpec
  | .sys => regsSys
  | .int => regsInt
  | .fab => regsFab
  | .xlt => regsXlt
  | .mem => regsMem
  | .nfm => regsNfm
  | .pfm => regsPfm
  | .cad => regsCad
  | .lpe => regsLpe
  | .slv => regsSlv
  | .spk => regsSpk
  | .net => regsNet
  | .tsu => regsTsu
  | .mtr => regsMtr
  | .fio => regsFio
  | .can _ => regsCan
  | .tdm => regsTdm
  | .evr => regsEvr
  | .kst => regsKst
  | .pwr => regsPwr
  | .rtc => regsRtc
  | .pnl => regsPnl
  | .bgs => regsBgs

end Sys2Proof.Machine
end

