-- ==== Sys2Proof/Machine/RtcTime.lean ====
section
/-! DEFINITION. The calendar: binary-coded decimal, leap years, and seconds since 2000-01-01 (R480). -/

namespace Sys2Proof.Machine

/-- The number a BCD byte spells, and the BCD byte of a number below 100. -/
def ofBcd (x : Nat) : Nat := 10 * (x / 16) + x % 16
def toBcd (x : Nat) : Nat := 16 * (x / 10) + x % 10

/-- A calendar instant: year since 2000 (0 to 199), month, day, hour, minute, second, and weekday (R480). -/
structure Cal where
  year : Nat
  mon : Nat
  day : Nat
  hour : Nat
  min : Nat
  sec : Nat
  wday : Nat
  deriving DecidableEq, Repr

/-- A leap year: divisible by 4, except 2100. -/
def leapYear (y : Nat) : Bool := y % 4 == 0 && y != 100

/-- Days of a month. -/
def monthDays (y m : Nat) : Nat :=
  if m = 2 then (if leapYear y then 29 else 28) else if m = 4 || m = 6 || m = 9 || m = 11 then 30 else 31

/-- Days from 2000-01-01 to the first day of a year. -/
def yearDays (y : Nat) : Nat := 365 * y + (y + 3) / 4 - (if 100 < y then 1 else 0)

/-- Days from 2000-01-01. -/
def Cal.days (c : Cal) : Nat := yearDays c.year + ((upto (c.mon - 1)).map fun k => monthDays c.year (k + 1)).sum + (c.day - 1)

/-- Seconds from 2000-01-01 00:00:00. -/
def Cal.secs (c : Cal) : Nat := ((c.days * 24 + c.hour) * 60 + c.min) * 60 + c.sec

/-- The next second; after 2199-12-31 23:59:59 the calendar reads 2000-01-01 (true: it wrapped) (R480). -/
def Cal.next (c : Cal) : Cal × Bool :=
  if c.sec < 59 then ({ c with sec := c.sec + 1 }, false)
  else if c.min < 59 then ({ c with sec := 0, min := c.min + 1 }, false)
  else if c.hour < 23 then ({ c with sec := 0, min := 0, hour := c.hour + 1 }, false)
  else
    let d : Cal := { c with sec := 0, min := 0, hour := 0, wday := if 7 ≤ c.wday then 1 else c.wday + 1 }
    if c.day < monthDays c.year c.mon then ({ d with day := c.day + 1 }, false)
    else if c.mon < 12 then ({ d with day := 1, mon := c.mon + 1 }, false)
    else if c.year < 199 then ({ d with day := 1, mon := 1, year := c.year + 1 }, false)
    else ({ d with day := 1, mon := 1, year := 0 }, true)

end Sys2Proof.Machine
end

