-- ==== Sys2Proof/Machine/Ops.lean ====
section
/-! DEFINITION. The operations every block's commands use: register access, access classes, shadows, causes and errors, events,
responses, memory, translation, checksums and time. -/

namespace Sys2Proof.Machine

/-! ## The register file -/

/-- The fields of the common registers of a block at offset `o` (R45). The registers KST_CTRL, KST_IRQ_RAW, KST_IRQ_EN and KST_LOCK
are monitor only (R429). Log entry 84 (DESIGN CHOICE). -/
def commonFields (b : Blk) (o : Nat) : List FieldSpec :=
  let mo := decide (b = .kst)
  match o with
  | 0x000 => [⟨7, 0, .ro, false, b.code⟩, ⟨11, 8, .ro, false, b.inst⟩, ⟨31, 24, .ro, false, 0xC6⟩]
  | 0x004 => [⟨7, 0, .ro, false, 0⟩, ⟨15, 8, .ro, false, 1⟩]
  | 0x008 => [⟨0, 0, .rw, mo, 0⟩, ⟨1, 1, .w1s, mo, 0⟩, ⟨2, 2, .rw, mo, 0⟩]
  | 0x00C => [⟨0, 0, .ro, false, 0⟩, ⟨1, 1, .ro, false, 0⟩, ⟨2, 2, .ro, false, 0⟩, ⟨3, 3, .ro, false, 0⟩, ⟨4, 4, .ro, false, 0⟩,
      ⟨5, 5, .ro, false, 0⟩, ⟨15, 8, .ro, false, 0⟩]
  | 0x010 => [⟨0, 0, .w1c, mo, 0⟩, ⟨1, 1, .w1c, mo, 0⟩, ⟨31, 2, .w1c, mo, 0⟩]
  | 0x014 => [⟨31, 0, .rw, mo, 0⟩]
  | 0x018 => [⟨31, 0, .ro, false, 0⟩]
  | 0x01C => [⟨7, 0, .ro, false, 0⟩, ⟨15, 8, .ro, false, 0⟩, ⟨29, 16, .ro, false, 0⟩]
  | 0x020 => [⟨0, 0, .w1s, mo, 0⟩, ⟨1, 1, .w1s, mo, 0⟩]
  | 0x024 => [⟨31, 0, .ro, false, 0⟩]
  | _ => []

/-- The indices at which a table row holds offset `o`, if any. -/
def specIdx (r : RegSpec) (o : Nat) : Option (Nat × Nat) :=
  let (off, s1, n1, s2, n2, _) := r
  if o < off then none else
  let d := o - off
  let i := if s1 = 0 then 0 else d / s1
  let r1 := if s1 = 0 then d else d % s1
  let j := if s2 = 0 then 0 else r1 / s2
  let r2 := if s2 = 0 then r1 else r1 % s2
  if r2 = 0 && i < n1 && j < n2 then some (i, j) else none

/-- The fields of the table row that holds offset `o`. -/
def specFields : List RegSpec → Nat → List FieldSpec
  | [], _ => []
  | r :: t, o =>
    match specIdx r o with
    | some (i, j) => r.2.2.2.2.2 i j
    | none => specFields t o

/-- The fields of the register at an address: none where the register is reserved (R8). The wake registers exist in CAN0's page
only (R366), and each block's own locks are the bits of BLK_LOCK its chapter assigns (R133, R151). -/
def fieldsAt (a : Nat) : List FieldSpec :=
  match blkAt a with
  | none => []
  | some b =>
    let o := a - b.base
    if o < 0x40 then
      (if o = 0x20 && b = .cad then commonFields b o ++ [⟨2, 2, .w1s, false, 0⟩, ⟨3, 3, .w1s, false, 0⟩] else commonFields b o)
    else if b.inst ≠ 0 && 0x80 ≤ o && o < 0xA0 then []
    else specFields (blkRegs b) o

/-- The reset value that the fields of a register give. -/
def fieldsReset (fs : List FieldSpec) : Word :=
  fs.foldl (fun x f => putBits x f.lo (f.hi - f.lo + 1) f.reset) 0

/-- The polynomial step of the CRC-32 of IEEE 802.3, reflected (R51). -/
def crc32Bit (c : Word) : Word := if c.getLsbD 0 then (c >>> 1) ^^^ 0xEDB88320 else c >>> 1

/-- One byte into the CRC-32. -/
def crc32Byte (c : Word) (b : Byte) : Word :=
  let x := c ^^^ b.setWidth 32
  crc32Bit (crc32Bit (crc32Bit (crc32Bit (crc32Bit (crc32Bit (crc32Bit (crc32Bit x)))))))

/-- The CRC-32 of IEEE 802.3: initial value and final exclusive-or of all ones (R51). -/
def crc32 (bs : List Byte) : Word := (bs.foldl crc32Byte 0xFFFFFFFF) ^^^ 0xFFFFFFFF

/-- One bit of the CRC-16 with polynomial 0x1021, not reflected (R391). -/
def crc16Bit (c : BitVec 16) : BitVec 16 := if c.getLsbD 15 then (c <<< 1) ^^^ 0x1021 else c <<< 1

/-- One byte into the CRC-16. -/
def crc16Byte (c : BitVec 16) (b : Byte) : BitVec 16 :=
  let x := c ^^^ (b.setWidth 16 <<< 8)
  crc16Bit (crc16Bit (crc16Bit (crc16Bit (crc16Bit (crc16Bit (crc16Bit (crc16Bit x)))))))

/-- The CRC-16 of R391: initial value 0xFFFF, no final exclusive-or. -/
def crc16 (bs : List Byte) : BitVec 16 := bs.foldl crc16Byte 0xFFFF

/-- The mask of the RWL and RWS fields of a register (R51). -/
def cfgMask (fs : List FieldSpec) : Word :=
  fs.foldl (fun x f => if f.cls = .rwl || f.cls = .rws then x ||| maskBits f.lo (f.hi - f.lo + 1) else x) 0

/-- The offsets of a block's registers that hold at least one RWL or RWS field, with their masks, in ascending order (R51). -/
def cfgRegs (b : Blk) : List (Nat × Word) :=
  (blkRegs b).foldl (fun l r =>
    (upto r.2.2.1).foldl (fun l i => (upto r.2.2.2.2.1).foldl (fun l j =>
      let m := cfgMask (r.2.2.2.2.2 i j)
      Sparse.put l 0 (r.1 + r.2.1 * i + r.2.2.2.1 * j) m) l) l) []

/-- The CRC-32 over a block's active configuration, registers read by `get` (R51). -/
def cfgSumOf (get : Nat → Word) (b : Blk) : Word :=
  crc32 ((cfgRegs b).flatMap fun (o, m) => leBytes 4 (get (b.base + o) &&& m).toNat)

/-- The reset value of the register at an address; BLK_CFGSUM holds the sum of the reset configuration. Log entry 5 (DESIGN CHOICE). -/
def regReset (a : Nat) : Word :=
  match blkAt a with
  | none => 0
  | some b =>
    if a = R.BLK_CFGSUM b then cfgSumOf (fun a => fieldsReset (fieldsAt a)) b
    else fieldsReset (fieldsAt a)

/-- The active value of the register at an address. -/
def State.regGet (s : State) (a : Nat) : Word := Sparse.get s.regs (regReset a) a

/-- Set the active value of the register at an address. -/
def State.regPut (s : State) (a : Nat) (v : Word) : State := { s with regs := Sparse.put s.regs (regReset a) a v }

/-- The active value of a field, as a number. -/
def State.rd (s : State) (f : Fld) : Nat := getBits (s.regGet f.addr) f.lo f.w

/-- A one-bit field. -/
def State.bit (s : State) (f : Fld) : Bool := s.rd f != 0

/-- Set the active value of a field. -/
def State.wr (s : State) (f : Fld) (v : Nat) : State := s.regPut f.addr (putBits (s.regGet f.addr) f.lo f.w v)

/-- Set a one-bit field. -/
def State.wrB (s : State) (f : Fld) (v : Bool) : State := s.wr f (b2n v)

/-- Count a field up by one, saturating at its largest value. -/
def State.incSat (s : State) (f : Fld) : State := s.wr f (satInc (2 ^ f.w - 1) (s.rd f))

/-- Count a field up by one, wrapping at its width. -/
def State.incWrap (s : State) (f : Fld) : State := s.wr f ((s.rd f + 1) % 2 ^ f.w)

/-- The concatenation of two registers, low word first. -/
def State.rd64 (s : State) (lo hi : Nat) : Nat := (s.regGet lo).toNat + 2 ^ 32 * (s.regGet hi).toNat

/-- EN of a block. -/
def State.en (s : State) (b : Blk) : Bool := s.bit (F.BLK_CTRL_EN b)

/-- STOPPING of a block. -/
def State.stopping (s : State) (b : Blk) : Bool := s.bit (F.BLK_STAT_STOPPING b)

/-- The block runs: EN is 1 and no stop is pending. -/
def State.runs (s : State) (b : Blk) : Bool := s.en b && !s.stopping b

/-! ## Power, halt and soft-reset marks -/

/-- Set or clear bit `n` of a mark word. -/
def setMark {w : Nat} (x : BitVec w) (n : Nat) (v : Bool) : BitVec w :=
  if v then x ||| BitVec.ofNat w (2 ^ n) else x &&& ~~~ BitVec.ofNat w (2 ^ n)

/-- The block's domain is off or isolated, or CORE is, through which every register access goes (R41). -/
def State.unreachable (s : State) (b : Blk) : Bool :=
  s.domOff.getLsbD Domain.core.idx || s.domIso.getLsbD Domain.core.idx || s.domOff.getLsbD b.domain.idx || s.domIso.getLsbD b.domain.idx

/-- The block is halted by FREEZE (R48). -/
def State.isHalted (s : State) (b : Blk) : Bool := s.halted.getLsbD b.idx

/-- The block is in soft reset (R47). Log entry 25 (DESIGN CHOICE). -/
def State.inSoftRst (s : State) (b : Blk) : Bool := s.softRst.getLsbD b.idx

/-- A commit boundary of a block: a block with FREEZE set halts there (R48). Log entry 59 (DEDUCED). -/
def State.freezePoint (s : State) (b : Blk) : State :=
  if s.bit (F.BLK_CTRL_FREEZE b) then { s with halted := setMark s.halted b.idx true } else s

/-- The block stands at its stop boundary for an entry into sleep: its save set is written, its domain has not lost power (R464, R470). -/
def State.stilled (s : State) (b : Blk) : Bool := s.pwr.phase == .saved && b.domain != .aon

/-- Run `k` unless the block is halted by FREEZE, its domain is off, or it stands still for an entry into sleep: an event of such a block
has no effect. Log entries 3 (DESIGN CHOICE), 18 (DEDUCED). -/
def State.whileLive (s : State) (b : Blk) (k : State → State) : State :=
  if s.isHalted b || s.domOff.getLsbD b.domain.idx || s.stilled b then s else k s

/-- The load shed of a power failure is in force (R528), until the timeline ends or the device continues (R533). -/
def State.shed (s : State) : Bool := s.pfw || s.sys.pf.isSome

/-! ## Causes, errors and events -/

/-- A block is frozen: FREEZE is 1 (R48). -/
def State.frozen (s : State) (b : Blk) : Bool := s.bit (F.BLK_CTRL_FREEZE b)

/-- Set an interrupt cause of a block; a frozen block raises no new causes (R48). -/
def State.raise (s : State) (b : Blk) (n : Nat) : State :=
  if s.frozen b then s else s.regPut (R.BLK_IRQ_RAW b) (s.regGet (R.BLK_IRQ_RAW b) ||| BitVec.ofNat 32 (2 ^ n))

/-- Record an error (R49): CODE and WOFF of the newest, COUNT since both raw bits were last 0, and CFG_REJ (codes 0x01 to 0x06) or
ERR (codes 0x80 to 0xFF). -/
def State.err (s : State) (b : Blk) (code woff : Nat) : State :=
  let s1 := ((s.wr (F.BLK_ERRINFO_CODE b) code).wr (F.BLK_ERRINFO_WOFF b) woff).incSat (F.BLK_ERRINFO_COUNT b)
  s1.raise b (if code ≤ 6 then 0 else 1)

/-- Clear raw bits; COUNT restarts when CFG_REJ and ERR are both 0 (R45). -/
def State.clearRaw (s : State) (b : Blk) (v : Word) : State :=
  let s1 := s.regPut (R.BLK_IRQ_RAW b) (s.regGet (R.BLK_IRQ_RAW b) &&& ~~~ v)
  if getBits (s1.regGet (R.BLK_IRQ_RAW b)) 0 2 = 0 then s1.wr (F.BLK_ERRINFO_COUNT b) 0 else s1

/-- Bit `n` of STAT of a block: the bits of BLK_STATUS are those from 8 on (R45). -/
def statFld (b : Blk) (n : Nat) : Fld := ⟨R.BLK_STAT b, n, 1⟩

/-- The event queue holds 64 records (R438). -/
def evqSize : Nat := 64

/-- A record is dropped (R395, R397, R438): EVR_DROPs of its severity and the unreported drops count, DROP is raised. -/
def State.evrDrop (s : State) (sev : Nat) : State :=
  let n := Fin.ofNat 8 sev
  let s1 := { s with evr := { s.evr with undropped := s.evr.undropped.set n (satInc 255 s.evr.undropped[n]) } }
  (s1.incSat (F.EVR_DROPs_COUNT n)).raise .evr 4

/-- The live calendar. -/
def State.cal (s : State) : Cal :=
  { year := ofBcd (s.rd F.RTC_YEAR_YEAR) + 100 * s.rd F.RTC_DATE_CENTURY, mon := ofBcd (s.rd F.RTC_DATE_MON),
    day := ofBcd (s.rd F.RTC_DATE_DAY), hour := ofBcd (s.rd F.RTC_TIME_HOUR), min := ofBcd (s.rd F.RTC_TIME_MIN),
    sec := ofBcd (s.rd F.RTC_SEC_SEC), wday := s.rd F.RTC_TIME_WDAY }

/-- CORE is off: PWR and RTC post through AON logic (R399). -/
def State.coreOff (s : State) : Bool := s.domOff.getLsbD Domain.core.idx || s.domIso.getLsbD Domain.core.idx

/-- TIME and FLAGS of a record that AON logic takes while CORE is off (R399). -/
def State.aonStamp (s : State) (src : Nat) : Option (Nat × Nat) :=
  if s.coreOff && (src == 0x14 || src == 0x15) then some (s.cal.secs * 2 ^ 30, 2 + b2n (s.bit (statFld .rtc 8))) else none

/-- Send an event to the recorder; a full queue drops it (R438), but what AON logic takes goes straight to its buffer (R399). -/
def State.send (s : State) (e : Event) : State :=
  let aon := s.aonStamp e.src
  if s.evq.length < evqSize || aon.isSome then { s with evq := s.evq ++ [{ e with at_ := s.tb2, aon := aon }] } else s.evrDrop e.sev

/-- Send a block's event with its own code, severity and parameters (R393). -/
def State.event (s : State) (b : Blk) (n sev p0 p1 p2 p3 : Nat) : State :=
  s.send { src := b.code, code := 0x1000 + 0x100 * b.code + n, sev := sev, p0 := p0, p1 := p1, p2 := p2, p3 := p3 }

/-- Raise a cause with its event: severity 4, P0 the block's IRQ_RAW after it, unless the chapter says otherwise (R393). -/
def State.raiseEv (s : State) (b : Blk) (n : Nat) : State :=
  let s1 := s.raise b n
  s1.event b n 4 (s1.regGet (R.BLK_IRQ_RAW b)).toNat 0 0 0

/-- Record an error with its event: severity 5, P0 the block's ERRINFO after it (R393). -/
def State.errEv (s : State) (b : Blk) (code woff : Nat) : State :=
  let s1 := s.err b code woff
  s1.event b code 5 (s1.regGet (R.BLK_ERRINFO b)).toNat 0 0 0

/-- An event that accompanies no cause and no error: code n = 0x01, severity 4, parameters 0 (R393). -/
def State.plainEv (s : State) (b : Blk) : State := s.event b 1 4 0 0 0 0

/-! ## Responses -/

/-- Answer an access with data and no error. Log entry 9 (DESIGN CHOICE). -/
def State.reply (s : State) (d : Word) : State := { s with resp := { data := d, err := false } }

/-- Answer an access with an error response and data 0 (R37, R41). Log entry 9 (DESIGN CHOICE). -/
def State.replyErr (s : State) : State := { s with resp := { data := 0, err := true } }

/-! ## Shadows and field writes -/

/-- The pending shadow of a field. -/
def shadowOf (l : List (Fld × Nat)) (f : Fld) : Option Nat :=
  match l with
  | [] => none
  | (g, v) :: t => if g = f then some v else shadowOf t f

/-- Put a value in the shadow of a field: the last write before the boundary counts (R54). -/
def shadowPut (l : List (Fld × Nat)) (f : Fld) (v : Nat) : List (Fld × Nat) :=
  match l with
  | [] => [(f, v)]
  | (g, u) :: t => if g = f then (f, v) :: t else (g, u) :: shadowPut t f v

/-- What a field reads: its shadow while one is pending, else its active value (R54). -/
def State.rdShadow (s : State) (f : Fld) : Nat := (shadowOf s.shadows f).getD (s.rd f)

/-- At least one RWS field of the block holds a shadow (R54). -/
def State.shadowPend (s : State) (b : Blk) : Bool := s.shadows.any fun (f, _) => blkAt f.addr == some b

/-- Make a configuration change known: SUM_PEND until the sum is recomputed (R51). -/
def State.sumPend (s : State) (b : Blk) : State := s.wr (F.BLK_STAT_SUM_PEND b) 1

/-- Commit the shadows of the fields that `p` names, in one edge (R54). A commit that changes an active value makes the sum pend. -/
def State.commit (s : State) (b : Blk) (p : Fld → Bool) : State :=
  let mine := s.shadows.filter fun (f, _) => p f
  let s1 := mine.foldl (fun s (f, v) => if s.rd f = v then s else (s.wr f v).sumPend b) s
  { s1 with shadows := s.shadows.filter fun (f, _) => !p f }

/-- Commit every shadow of a block. -/
def State.commitBlk (s : State) (b : Blk) : State := s.commit b fun f => blkAt f.addr == some b

/-- A field locked by BLK_LOCK: CFG_LOCK covers RWL and RWS fields, CTRL_LOCK covers EN and SOFT_RST (R50). -/
def State.lockedField (s : State) (b : Blk) (f : Fld) (c : Cls) : Bool :=
  ((c = .rwl || c = .rws) && s.bit (F.BLK_LOCK_CFG_LOCK b)) ||
  (f.addr = R.BLK_CTRL b && f.lo < 2 && s.bit (F.BLK_LOCK_CTRL_LOCK b))

/-- Write one field under its class (R46 to R58): the new state, and 0 or the lowest rejection code that applies to the field. A
write that would have no effect is no write of the field (R50, R53). TSU_TB3_OFS waits for its boundary whatever EN (R332).
Log entries 26 (DEDUCED), 59 (DEDUCED). -/
def State.writeField (s : State) (m : Master) (b : Blk) (a : Nat) (fs : FieldSpec) (v : Word) : State × Nat :=
  let f : Fld := ⟨a, fs.lo, fs.hi - fs.lo + 1⟩
  let x := getBits v f.lo f.w
  let noMon := fs.mon && m != .mon
  match fs.cls with
  | .ro | .wo | .rc => (s, 0)
  | .w1c =>
    if x = 0 then (s, 0) else if noMon then (s, 5)
    else if a = R.BLK_IRQ_RAW b then (s.clearRaw b (v &&& maskBits f.lo f.w), 0)
    else (s.regPut a (s.regGet a &&& ~~~ (v &&& maskBits f.lo f.w)), 0)
  | .w1s =>
    if x = 0 then (s, 0) else if noMon then (s, 5)
    else if s.lockedField b f fs.cls then (s, 2)
    else if a = R.BLK_LOCK b then (s.regPut a (s.regGet a ||| (v &&& maskBits f.lo f.w)), 0)
    else (s, 0)
  | .rw =>
    if s.rd f = x then (s, 0) else if noMon then (s, 5)
    else if s.lockedField b f fs.cls then (s, 2)
    else if a = R.BLK_CTRL b then (s, 0)
    else (s.wr f x, 0)
  | .rwl =>
    if s.rd f = x then (s, 0) else if noMon then (s, 5)
    else if s.en b then (s, 1)
    else if s.lockedField b f fs.cls then (s, 2)
    else ((s.wr f x).sumPend b, 0)
  | .rws =>
    if s.rdShadow f = x && (s.en b || !(s.shadows.any fun (g, _) => g == f)) then (s, 0) else if noMon then (s, 5)
    else if s.lockedField b f fs.cls then (s, 2)
    else if s.en b || a = R.TSU_TB3_OFS then ({ s with shadows := shadowPut s.shadows f x }, 0)
    else
      let s1 := { s with shadows := s.shadows.filter fun (g, _) => g != f }
      (if s.rd f = x then s1 else (s1.wr f x).sumPend b, 0)

/-- Write the fields of a word one by one, keeping the lowest rejection code (R49, R52). Log entry 27 (DEDUCED). -/
def State.writeFields (s : State) (m : Master) (b : Blk) (a : Nat) (v : Word) : List FieldSpec → Nat → State × Nat
  | [], c => (s, c)
  | f :: t, c =>
    let (s1, c1) := s.writeField m b a f v
    State.writeFields s1 m b a v t (if c1 = 0 then c else if c = 0 then c1 else min c c1)

/-- Every field of the register that a write may change is monitor only (R43); a field that a read clears takes no writes.
Log entry 26 (DEDUCED). -/
def monOnlyReg (a : Nat) : Bool :=
  let fs := (fieldsAt a).filter fun f => f.cls != .ro && (f.cls != .rc || f.mon)
  fs != [] && fs.all fun f => f.mon

/-- The error offset of a register: its offset divided by 4 (R45). -/
def woffOf (b : Blk) (a : Nat) : Nat := (a - b.base) / 4

/-- The checks before a register write reaches its fields: the domain must be reachable (R41), no soft reset may run (R47), and a
monitor-only register takes writes of the monitor alone (R43). `k` is the write itself. Where a soft reset runs and another master
writes a monitor-only register, both codes apply to the whole write, and R49 does not say which is recorded: the model records 0x06 and
answers without an error. Log entries 26 (DEDUCED), 66 (DESIGN CHOICE). -/
def State.gate (s : State) (m : Master) (b : Blk) (a : Nat) (k : State → State) : State :=
  if s.unreachable b then s.replyErr
  else if s.inSoftRst b then (s.err b 6 (woffOf b a)).reply 0
  else if monOnlyReg a && m != .mon then (s.err b 5 (woffOf b a)).replyErr
  else k (s.reply 0)

/-- A register read with a side effect: the domain must be reachable (R41); during a soft reset it answers the reset value (R47). -/
def State.gateRead (s : State) (b : Blk) (a : Nat) (k : State → State) : State :=
  if s.unreachable b then s.replyErr else if s.inSoftRst b then s.reply (regReset a) else k s

/-- A plain register write (R52): every field under its class, one error for the whole write. -/
def State.writeReg (s : State) (m : Master) (b : Blk) (a : Nat) (v : Word) : State :=
  s.gate m b a fun s =>
    let (s1, c) := s.writeFields m b a v (fieldsAt a) 0
    if c = 0 then s1 else s1.err b c (woffOf b a)

/-! ## Time -/

/-- Units of a time base in one nanosecond: 5 × 2⁴⁴. -/
def unitsPerNs : Nat := 5 * 2 ^ 44

/-- Nanoseconds in a second. -/
def nsPerSec : Nat := 1000000000

/-- A time base wraps after 2⁴⁸ seconds (R328). -/
def tbWrap (u : Nat) : Nat := u % (2 ^ 48 * nsPerSec * unitsPerNs)

/-- Whole nanoseconds of a time base. -/
def tbNs (u : Nat) : Nat := u / unitsPerNs

/-- Whole seconds of a time base. -/
def tbSec (u : Nat) : Nat := tbNs u / nsPerSec

/-- Whole microseconds: SEC × 10⁶ + floor(NS / 1,000) (R330). -/
def tbUs (u : Nat) : Nat := tbNs u / 1000

/-- TB2 in nanoseconds. -/
def State.nowNs (s : State) : Nat := tbNs s.tb2

/-- TB2 in microseconds. -/
def State.nowUs (s : State) : Nat := tbUs s.tb2

/-- TB2 in milliseconds. -/
def State.nowMs (s : State) : Nat := tbUs s.tb2 / 1000

/-- TB2 in whole seconds. -/
def State.nowSec (s : State) : Nat := tbSec s.tb2

/-- The TIME format of the event record (R391). -/
def recTime (u : Nat) : Nat := tbSec u % 2 ^ 34 * 2 ^ 30 + tbNs u % nsPerSec

/-- Pages of the power-fail reserve are programmed in a power failure (R450). -/
def State.useReserve (s : State) (n : Nat) : State :=
  if s.shed then { s with nand := { s.nand with reserve := s.nand.reserve - n } } else s

/-! ## Free values -/

/-- Take a fresh value that the spec leaves open. Log entries 8 (DESIGN CHOICE), 63 (DESIGN CHOICE). -/
def State.draw (s : State) : Nat × State := (Config.freeNat s.draws, { s with draws := s.draws + 1 })

/-! ## Requests to the key store (R408) -/

/-- Requests of the same cycle are served MTR, EVR, monitor. -/
def KstReq.rank : KstReq → Nat
  | .seal => 0
  | .nonce => 1
  | .verify => 1
  | .mon => 2

/-- A request reaches the engine: behind those before it, and those of its cycle that go first. -/
def State.askKst (s : State) (r : KstReq) : State :=
  let first (x : Nat × KstReq) : Bool := x.1 != s.tb2 || decide (x.2.rank ≤ r.rank)
  { s with kst := { s.kst with reqs := s.kst.reqs.filter first ++ [(s.tb2, r)] ++ s.kst.reqs.filter fun x => !first x } }

/-- TB2 runs, as it does awake (R476). -/
def State.tb2Runs (s : State) : Bool := !s.pwr.off && !s.sys.ended && s.pwr.phase != .asleep && s.pwr.phase != .exiting

/-- `ns` have passed since an instant; what began before this awake time is long past. Log entry 81 (PRESUMED). -/
def State.lasted (s : State) (since : Option Nat) (ns : Nat) : Bool :=
  !s.tb2Runs || match since with
    | none => true
    | some t => decide (s.nowNs < t) || decide (t + ns ≤ s.nowNs)

/-- The same for a time that XTAL_RTC counts: it and TB2 agree within 100 ppm (R550). Log entry 55 (DEDUCED). -/
def State.rtcLasted (s : State) (since : Option Nat) (ns : Nat) : Bool := s.lasted since (ns - ns / 10000)

end Sys2Proof.Machine
end

