-- ==== Sys2Proof/Machine/Mem.lean ====
section
/-! DEFINITION. Memory: the physical map of R36, bytes of memory, uncorrectable words, translation contexts, and the reads and writes
that a block makes through its context. -/

namespace Sys2Proof.Machine

/-- The regions of R36. -/
def inRom (a : Nat) : Bool := a < 0x20000
def inSram (a : Nat) : Bool := 0x1000000 ≤ a && a < 0x1400000
def inCadMem (a : Nat) : Bool := 0x2000000 ≤ a && a < 0x2800000
def inTiles (a : Nat) : Bool := 0x4000000 ≤ a && a < 0x7000000
def inAon (a : Nat) : Bool := 0x8000000 ≤ a && a < 0x8080000
def inPages (a : Nat) : Bool := 0x10000000 ≤ a && a < 0x10180000
def inDram (a : Nat) : Bool := 0x80000000 ≤ a && a < 0x280000000

/-- An address in some region of R36. -/
def mapped (a : Nat) : Bool := inRom a || inSram a || inCadMem a || inTiles a || inAon a || inPages a || inDram a

/-- An address of a memory that DMA masters read: SRAM, instance memory, tile memory, AON memory and DRAM. -/
def isMemory (a : Nat) : Bool := inSram a || inCadMem a || inTiles a || inAon a || inDram a

/-- The byte at a physical address. Log entry 2 (DESIGN CHOICE). -/
def State.byte (s : State) (a : Nat) : Byte := Sparse.get s.mem 0 a

/-- The canonical form of memory: addresses strictly rising, no entry equal to what an unlisted address reads as. Log entry 2 (DESIGN CHOICE). -/
def Memory.wf (m : List Host.Cell) : Bool := Sparse.wf (fun _ => 0) m

/-- Store one byte. Log entry 2 (DESIGN CHOICE). -/
def memPut (m : List Host.Cell) (a : Nat) (b : Byte) : List Host.Cell := Sparse.put m 0 a b

/-- Store bytes from an address on. -/
def memPutList (m : List Host.Cell) (a : Nat) : List Byte → List Host.Cell
  | [] => m
  | b :: t => memPutList (memPut m a b) (a + 1) t

/-- The `n` bytes from an address on. -/
def State.bytes (s : State) (a n : Nat) : List Byte := (upto n).map fun i => s.byte (a + i)

/-- The little-endian number in `n` bytes from an address on. -/
def State.rdLe (s : State) (a n : Nat) : Nat := leNat (s.bytes a n)

/-- Reservations that a store to `n` bytes at `a` leaves (R36, R38). Log entry 79 (PRESUMED). -/
def resvLeft (l : List Resv) (a n : Nat) : List Resv := l.filter fun r => !(decide (a < r.at_ + r.len) && decide (r.at_ < a + n))

/-- The addresses of tile memory among `n` from `a` on. -/
def tilesIn (a n : Nat) : List Nat := ((upto n).map (a + ·)).filter inTiles

/-- Store bytes from an address on; a reservation they touch is lost, and what they put into tile memory is known again (R222). -/
def State.putBytes (s : State) (a : Nat) (bs : List Byte) : State :=
  { s with
    mem := memPutList s.mem a bs, resv := resvLeft s.resv a bs.length
    tileKnown := if s.tileUsed then tilesIn a bs.length ++ s.tileKnown else s.tileKnown }

/-- Store the low `n` bytes of a number, little-endian. -/
def State.wrLe (s : State) (a n v : Nat) : State := s.putBytes a (leBytes n v)

/-- Addresses no master writes: the save area (R472), the always-on image (R505), and, while their engines run, instance memory (R82)
and tile memory (R222). -/
def State.writeBarred (s : State) (a : Nat) : Bool :=
  (0x8066000 ≤ a && a < 0x8080000) || (inCadMem a && s.en .cad) || (inTiles a && s.en .slv)

/-- The same for the master behind a translation context: the solver, behind context 2, does write its tile memory (R222). -/
def State.writeBarredTo (s : State) (ctx a : Nat) : Bool := s.writeBarred a && !(ctx == 2 && inTiles a)

/-- A byte range holds a word that reads uncorrectable. -/
def State.ueIn (s : State) (a n : Nat) : Option Nat := s.ue.find? fun w => w < a + n && a < w + 8

/-- The solver takes tile memory into use: what it holds is open from then on (R222). -/
def State.useTiles (s : State) : State := { s with tileUsed := true, tileKnown := [] }

/-- The `n` bytes that a read of memory returns: those of tile memory that the solver has used and nobody has written since are open
(R222). Log entry 28 (DESIGN CHOICE). -/
def State.memRead (s : State) (a n : Nat) : List Byte × State :=
  if inTiles a && s.tileUsed then
    let (v, s1) := s.draw
    ((upto n).map fun k => if s.tileKnown.contains (a + k) then s.byte (a + k) else (leBytes n v).getD k 0, s1)
  else (s.bytes a n, s)

/-- No solver model is resident (R235). -/
def State.dropModel (s : State) : State :=
  let s1 := (upto 8).foldl (fun s k => s.wr (F.SLV_MODEL_HASHk_HASH k) 0)
    (((s.wr F.SLV_MODEL_STAT_STATE 0).wr F.SLV_MODEL_STAT_RES_KIB 0).wr F.SLV_MODEL_FSZ_KIB 0)
  { s1 with slv := { s1.slv with model := none } }

/-- An uncorrectable error in tile memory (R251, R264): counted, code 0x82; the model is dropped, the running job ends with FAULT, and the factor
slots of `slots` are no longer valid. -/
def State.tileFault (s : State) (tile : Nat) (slots : Nat) : State :=
  let s1 := ((s.incSat F.SLV_ECC_UNCORR).err .slv 0x82 tile).dropModel
  let s2 := (upto 4).foldl (fun s k => if slots.testBit k then s.wr (F.SLV_FACk_STAT_VALID k) 0 else s) s1
  { s2 with
    tdm := { s2.tdm with eccU := s2.tdm.eccU + 1 }
    slv := { s2.slv with run := s2.slv.run.map fun j => if j.phase = 12 then j else { j with out := some 6 } } }

/-- A read of an uncorrectable word: UNCORR counts, the address is latched, UE is raised, code 0x80 and an event of severity 6 recorded (R440,
R457); in tile memory as R251 says, where the slots with part of their factor in the tile are open. -/
def State.ueSeen (s : State) (w : Nat) : State :=
  if inTiles w then let (v, s1) := s.draw; s1.tileFault ((w - 0x4000000) / 0x600000) (v % 16)
  else
  let cnt := if inDram w then F.MEM_ECC_DRAM_UNCORR else F.MEM_ECC_SRAM_UNCORR
  let s1 := ((s.incSat cnt).regPut R.MEM_UE_ADDR_LO (BitVec.ofNat 32 w)).wr F.MEM_UE_ADDR_HI_ADDR (w / 2 ^ 32)
  let s2 := (({ s1 with
    bgs := { s1.bgs with ue := s1.bgs.ue + b2n (inDram w) }
    tdm := { s1.tdm with eccU := s1.tdm.eccU + b2n (inDram w || inSram w) } }).raise .mem 2).err .mem 0x80 0
  s2.event .mem 2 6 (s2.regGet (R.BLK_IRQ_RAW .mem)).toNat 0 0 0

/-- Full 64-bit writes end the uncorrectable mark of their words (R440). -/
def ueCleared (l : List Nat) (a n : Nat) : List Nat := l.filter fun w => !(a ≤ w && w + 8 ≤ a + n)

/-! ## Translation (R442 to R447) -/

/-- The pinned range `k` of a context. -/
def State.pin (s : State) (ctx k : Nat) : Pin := Sparse.get s.xlt.pins {} (8 * ctx + k)

/-- The lowest-numbered enabled pinned range of a context that holds a virtual page. -/
def State.pinHit (s : State) (ctx vpn : Nat) : Option Pin :=
  ((upto 8).map (s.pin ctx)).find? fun p => p.en && p.va ≤ vpn && vpn < p.va + p.pages

/-- A physical address no context may map (R443). -/
def barred (pa : Nat) : Bool := inRom pa || inPages pa

/-- Contexts that translate through pinned ranges only (R444). -/
def realTime (ctx : Nat) : Bool := ctx ≤ 1 || ctx == 3 || ctx == 4 || (6 ≤ ctx && ctx ≤ 11)

/-- What a table walk finds: a fault cause, an uncorrectable word, or a 4 KiB translation. -/
inductive Walk where
  | bad (cause : Nat)
  | ue (word : Nat)
  | leaf (e : XltEntry)
  deriving DecidableEq, Repr

/-- One table entry of Sv39 (R442), at the level whose pages span `span` 4 KiB pages. Log entry 16 (PRESUMED). -/
def State.walkAt (s : State) (ctx : Nat) (wr : Bool) (vpn : Nat) : Nat → Nat → Walk
  | 0, _ => .bad 1
  | lvl + 1, table =>
    let span := 512 ^ lvl
    let pa := table * 4096 + 8 * (vpn / span % 512)
    if !isMemory pa then .bad 4
    else match s.ueIn pa 8 with
    | some w => .ue w
    | none =>
      let e := s.rdLe pa 8
      let r := e.testBit 1
      let w := e.testBit 2
      let ppn := nbits e 10 44
      if e / 2 ^ 54 ≠ 0 then .bad 5
      else if !e.testBit 0 || (w && !r) then .bad 1
      else if !r && !w then s.walkAt ctx wr vpn lvl ppn
      else if ppn % span ≠ 0 then .bad 5
      else if !e.testBit 6 then .bad 2
      else if wr && (!w || !e.testBit 7) then .bad 2
      else if !wr && !r then .bad 2
      else .leaf ⟨ctx, vpn, ppn + vpn % span, r, w && e.testBit 7⟩

/-- The outcome of translating one access. -/
inductive Xlated where
  | ok (pa : Nat)
  | bad (cause : Nat)
  deriving DecidableEq, Repr

/-- Keep a table translation among the 1,024 that XLT caches, the oldest leaving first. Log entry 17 (DESIGN CHOICE). -/
def State.cacheXlt (s : State) (e : XltEntry) : State :=
  let l := s.xlt.cache.filter fun x => !(x.ctx == e.ctx && x.vpn == e.vpn)
  let l := if l.length < 1024 then l else l.drop 1
  { s with xlt := { s.xlt with cache := l ++ [e] } }

/-- Translate an IOVA of a context for a read or a write (R442 to R444). Log entries 16 (PRESUMED), 17 (DESIGN CHOICE). -/
def State.xlate (s : State) (ctx : Nat) (wr : Bool) (va : Nat) : State × Xlated :=
  let mode := s.rd (F.XLT_CTXn_CFG_MODE ctx)
  let vpn := va / 4096
  let fin (pa : Nat) : Xlated := if barred pa then .bad 3 else .ok pa
  if mode = 0 || mode = 3 then (s, .bad 1)
  else if 2 ^ 39 ≤ va then (s, .bad 5)
  else
    match s.pinHit ctx vpn with
    | some p => (s, if (wr && !p.w) || (!wr && !p.r) then .bad 2 else fin ((p.pa + (vpn - p.va)) * 4096 + va % 4096))
    | none =>
      if mode = 1 || realTime ctx then (s, .bad 1)
      else
        match s.xlt.cache.find? fun e => e.ctx == ctx && e.vpn == vpn && (if wr then e.w else e.r) with
        | some e => (s, fin (e.ppn * 4096 + va % 4096))
        | none =>
          match s.walkAt ctx wr vpn 3 (s.rd (F.XLT_CTXn_CFG_ROOT ctx)) with
          | .bad c => (s, .bad c)
          | .ue w => (s.ueSeen w, .bad 4)
          | .leaf e => (s.cacheXlt e, fin (e.ppn * 4096 + va % 4096))

/-- Read `n` little-endian bytes at an IOVA of a context without any effect; 0 where the context does not map it. -/
def State.peek (s : State) (ctx va n : Nat) : Nat :=
  match (s.xlate ctx false va).2 with
  | .ok pa => s.rdLe pa n
  | .bad _ => 0

/-- Log a translation fault (R446): 16 entries, TOTAL counts, FAULT is raised; a full log drops, counts and raises FAULT_OVF. -/
def State.xltFault (s : State) (ctx cause : Nat) (wr : Bool) (va : Nat) : State :=
  let s1 := ({ s with bgs := { s.bgs with faults := s.bgs.faults + 1 } }.incSat F.XLT_FAULT_CNT_TOTAL).raise .xlt 2
  if s1.xlt.log.length < 16 then { s1 with xlt := { s1.xlt with log := s1.xlt.log ++ [⟨ctx, cause, wr, va⟩] } }
  else (s1.incSat F.XLT_FAULT_CNT_DROPPED).raise .xlt 3

/-- The pieces of a burst by 4 KiB page: address and length (R445). -/
def pageCuts : Nat → Nat → Nat → List (Nat × Nat)
  | 0, _, _ => []
  | fuel + 1, va, n =>
    if n = 0 then [] else
    let k := min n (4096 - va % 4096)
    (va, k) :: pageCuts fuel (va + k) (n - k)

/-- How a burst ends (R445): complete, at an error response, or at a translation fault of the page at an IOVA. -/
inductive BurstEnd where
  | done
  | error
  | fault (va : Nat)
  deriving DecidableEq, Repr

/-- Read the pieces of a burst through a context: the beats before the first fault or error response, and how it ends (R445). -/
def State.readCuts (s : State) (ctx : Nat) : List (Nat × Nat) → State × List Byte × BurstEnd
  | [] => (s, [], .done)
  | (va, k) :: t =>
    match s.xlate ctx false va with
    | (s1, .bad c) => (s1.xltFault ctx c false va, [], .fault va)
    | (s1, .ok pa) =>
      if !isMemory pa || !isMemory (pa + k - 1) then (s1, [], .error)
      else match s1.ueIn pa k with
        | some w => (s1.ueSeen w, [], .error)
        | none =>
          let r := (s1.memRead pa k).2.readCuts ctx t
          (r.1, (s1.memRead pa k).1 ++ r.2.1, r.2.2)

/-- The pieces of a burst of `n` bytes at an IOVA. -/
def burst (va n : Nat) : List (Nat × Nat) := pageCuts (n / 4096 + 2) va n

/-- Read `n` bytes at an IOVA through a context; none where the master gets a fault or an error response. -/
def State.dmaRead (s : State) (ctx va n : Nat) : State × Option (List Byte) :=
  let r := s.readCuts ctx (burst va n)
  (r.1, if r.2.2 = .done then some r.2.1 else none)

/-- Store bytes that a memory controller takes: a write narrower than a 64-bit word of DRAM or shared SRAM reads the word, and so may find it
uncorrectable; a full one ends the mark of its word (R439, R440). -/
def State.store (s : State) (a : Nat) (bs : List Byte) : State :=
  let n := bs.length
  let part (w : Nat) : Bool := (inDram w || inSram w) && decide (w < a + n) && decide (a < w + 8) && !(decide (a ≤ w) && decide (w + 8 ≤ a + n))
  let s1 := ((s.ue.filter part).foldl State.ueSeen s).putBytes a bs
  { s1 with ue := ueCleared s1.ue a n }

/-- Write the pieces of a burst through a context, page by page: how it ends (R445). -/
def State.writeCuts (s : State) (ctx : Nat) (bs : List Byte) : List (Nat × Nat) → State × BurstEnd
  | [] => (s, .done)
  | (va, k) :: t =>
    match s.xlate ctx true va with
    | (s1, .bad c) => (s1.xltFault ctx c true va, .fault va)
    | (s1, .ok pa) =>
      if !isMemory pa || !isMemory (pa + k - 1) || s1.writeBarredTo ctx pa || s1.writeBarredTo ctx (pa + k - 1) then (s1, .error)
      else State.writeCuts (s1.store pa (bs.take k)) ctx (bs.drop k) t

/-- Write bytes at an IOVA through a context; false where the master gets a fault or an error response. -/
def State.dmaWrite (s : State) (ctx va : Nat) (bs : List Byte) : State × Bool :=
  let r := s.writeCuts ctx bs (burst va bs.length)
  (r.1, r.2 == .done)

/-- The table reads of a walk from a table on (R434, R442). -/
def State.walkReads (s : State) (vpn : Nat) : Nat → Nat → Nat
  | 0, _ => 0
  | lvl + 1, table =>
    let pa := table * 4096 + 8 * (vpn / 512 ^ lvl % 512)
    if !isMemory pa || (s.ueIn pa 8).isSome then 1
    else
      let e := s.rdLe pa 8
      if e / 2 ^ 54 = 0 && e % 8 = 1 then 1 + s.walkReads vpn lvl (nbits e 10 44) else 1

/-- The table reads that an access of one page needs: none for a pinned or a cached translation, or where no table is consulted (R443). -/
def State.readsFor (s : State) (ctx : Nat) (wr : Bool) (va : Nat) : Nat :=
  if s.rd (F.XLT_CTXn_CFG_MODE ctx) ≠ 2 || realTime ctx || decide (2 ^ 39 ≤ va) || (s.pinHit ctx (va / 4096)).isSome ||
    (s.xlt.cache.any fun e => e.ctx == ctx && e.vpn == va / 4096 && (if wr then e.w else e.r)) then 0
  else s.walkReads (va / 4096) 3 (s.rd (F.XLT_CTXn_CFG_ROOT ctx))

end Sys2Proof.Machine
end

