-- ==== Sys2Proof/Machine/Operands.lean ====
section
/-! DEFINITION. The operands of the Cadence engine: the program image, instances, slots, instance data, working registers, and the
running of one instruction on one context, with its exceptions (R68 to R108). -/

namespace Sys2Proof.Machine

/-! ## The program image (R68 to R76) -/

/-- State of a code bank: 0 EMPTY, 1 LOADING, 2 LOADED, 3 ACTIVE, 4 FAILED (R109). -/
def bankFld (b : Nat) : Fld := if b = 0 then F.CAD_BANK_STAT_STATE0 else F.CAD_BANK_STAT_STATE1

def State.bankState (s : State) (b : Nat) : Nat := s.rd (bankFld b)

/-- The ACTIVE bank. -/
def State.activeBank (s : State) : Option Nat :=
  if s.bankState 0 = 3 then some 0 else if s.bankState 1 = 3 then some 1 else none

/-- The bank whose program runs (bank 0 where none is ACTIVE; used only while one is). -/
def State.runBank (s : State) : Nat := s.activeBank.getD 0

/-- The address of a bank in CAD's translation context (R109). -/
def State.bankBase (s : State) (b : Nat) : Nat :=
  s.rd (F.CAD_BANKb_BASE_LO_BASE_LO b) * 2 ^ 16 + s.rd (F.CAD_BANKb_BASE_HI_BASE_HI b) * 2 ^ 32

/-- A field of the image in a bank. -/
def State.img (s : State) (b off n : Nat) : Nat := s.peek 0 (s.bankBase b + off) n

/-- Header fields of R69. -/
def State.nTypes (s : State) (b : Nat) : Nat := s.img b 0x0C 4
def State.nInst (s : State) (b : Nat) : Nat := s.img b 0x10 4
def State.nSlots (s : State) (b : Nat) : Nat := s.img b 0x14 4
def State.offType (s : State) (b : Nat) : Nat := s.img b 0x40 4
def State.offLayout (s : State) (b : Nat) : Nat := s.img b 0x44 4
def State.offInst (s : State) (b : Nat) : Nat := s.img b 0x48 4
def State.offSmap (s : State) (b : Nat) : Nat := s.img b 0x4C 4
def State.offCold (s : State) (b : Nat) : Nat := s.img b 0x50 4
def State.offCode (s : State) (b : Nat) : Nat := s.img b 0x54 4
def State.offMig (s : State) (b : Nat) : Nat := s.img b 0x58 4

/-- Type-table fields of R71, for type index `t`. -/
def State.typePol (s : State) (b t : Nat) : Nat := s.img b (s.offType b + 32 * t + 2) 2 % 4
def State.typeEntry (s : State) (b t : Nat) : Nat := s.img b (s.offType b + 32 * t + 4) 4
def State.typeDsize (s : State) (b t : Nat) : Nat := s.img b (s.offType b + 32 * t + 0xC) 4
def State.typeLhash (s : State) (b t : Nat) : Nat := s.img b (s.offType b + 32 * t + 0x10) 8
def State.typeBudget (s : State) (b t : Nat) : Nat := s.img b (s.offType b + 32 * t + 0x18) 4
def State.typeLayout (s : State) (b t : Nat) : Nat := s.img b (s.offType b + 32 * t + 0x1C) 2
def State.typeNfield (s : State) (b t : Nat) : Nat := s.img b (s.offType b + 32 * t + 0x1E) 2

/-- Instance-table fields of R73, for instance `i`. -/
def State.instDoff (s : State) (b i : Nat) : Nat := s.img b (s.offInst b + 16 * i) 4
def State.instType (s : State) (b i : Nat) : Nat := s.img b (s.offInst b + 16 * i + 4) 2
def State.instSched (s : State) (b i : Nat) : Nat := s.img b (s.offInst b + 16 * i + 6) 1
def State.instWave (s : State) (b i : Nat) : Nat := s.img b (s.offInst b + 16 * i + 8) 2
def State.instCold (s : State) (b i : Nat) : Nat := s.img b (s.offInst b + 16 * i + 0xC) 4

/-- The instance is CALLED: run only by CALL. -/
def State.instCalled (s : State) (b i : Nat) : Bool := (s.instSched b i).testBit 3

/-- The task of a scheduled instance. -/
def State.instTask (s : State) (b i : Nat) : Nat := s.instSched b i % 8

/-- DSIZE of an instance's data. -/
def State.instDsize (s : State) (b i : Nat) : Nat := s.typeDsize b (s.instType b i)

/-- Signal-map fields of R75, for slot `k`. -/
def State.slotWord0 (s : State) (b k : Nat) : Nat := s.img b (s.offSmap b + 8 * k) 4
def State.slotWord1 (s : State) (b k : Nat) : Nat := s.img b (s.offSmap b + 8 * k + 4) 4
def State.slotSig (s : State) (b k : Nat) : Nat := s.slotWord0 b k % 2 ^ 23
def State.slotDir (s : State) (b k : Nat) : Nat := nbits (s.slotWord0 b k) 23 2
def State.slotType (s : State) (b k : Nat) : Nat := nbits (s.slotWord0 b k) 25 3
def State.slotSof (s : State) (b k : Nat) : Bool := (s.slotWord0 b k).testBit 28
def State.slotQfrac (s : State) (b k : Nat) : Nat := s.slotWord1 b k % 32
def State.slotWriter (s : State) (b k : Nat) : Nat := nbits (s.slotWord1 b k) 5 3

/-- A program has at most 65,536 slots (R69). -/
def slotMax : Nat := 65536

/-- The slot that carries a signal. -/
def State.slotOfSig (s : State) (b sig : Nat) : Option Nat := (upto (min slotMax (s.nSlots b))).find? fun k => s.slotSig b k == sig

/-- A layout-descriptor field of R72. -/
structure LayoutField where
  off : Nat
  count : Nat
  kind : Nat
  qfrac : Nat
  retain : Bool
  deriving DecidableEq, Repr

/-- The layout fields of type `t`. -/
def State.layoutOf (s : State) (b t : Nat) : List LayoutField :=
  (upto (s.typeNfield b t)).map fun j =>
    let o := s.offLayout b + 12 * (s.typeLayout b t + j)
    ⟨s.img b o 2, s.img b (o + 2) 2, s.img b (o + 4) 1, s.img b (o + 5) 1, (s.img b (o + 6) 1).testBit 0⟩

/-- Bytes of one element by KIND (R72). -/
def kindSize (kind : Nat) : Nat := if kind = 0 || kind = 6 then 1 else if kind = 5 then 12 else 4

/-! ## Instance memory (R76 to R78) -/

/-- The first address of instance memory. -/
def cadMemBase : Nat := 0x2000000

/-- Address of a slot in the live image, and in the snapshot of a task. -/
def liveAddr (slot : Nat) : Nat := cadMemBase + 8 * slot
def State.snapAddr (s : State) (b : Nat) (task slot : Nat) : Nat := cadMemBase + 8 * s.nSlots b * (1 + task) + 8 * slot

/-- Value and status word of a slot in the live image. -/
def State.liveVal (s : State) (slot : Nat) : Word := BitVec.ofNat 32 (s.rdLe (liveAddr slot) 4)
def State.liveSt (s : State) (slot : Nat) : Word := BitVec.ofNat 32 (s.rdLe (liveAddr slot + 4) 4)

/-- Write a slot of the live image. -/
def State.putLive (s : State) (slot : Nat) (v st : Word) : State :=
  (s.wrLe (liveAddr slot) 4 v.toNat).wrLe (liveAddr slot + 4) 4 st.toNat

/-- QUAL of a status word (R77). -/
def qualOf (st : Word) : Nat := getBits st 0 3

/-- Address of byte `o` of an instance's data. -/
def State.dataAddr (s : State) (b i o : Nat) : Nat := cadMemBase + s.instDoff b i + o

/-- An ACTIVE force entry, as it last took effect, on a signal (R132, R133). -/
def State.forceOn (s : State) (sig : Nat) : Option Force := s.cad.applied.find? fun f => f.sig == sig && !f.orphan

/-! ## Contexts, tasks and lanes (R80, R83, R114) -/

/-- The context at an index, and its replacement. -/
def State.ctxAt (s : State) (c : Fin 16) : LaneCtx := s.cad.ctx[c]
def State.setCtx (s : State) (c : Fin 16) (x : LaneCtx) : State := { s with cad := { s.cad with ctx := s.cad.ctx.set c x } }

/-- A task's cycle state, and its replacement. -/
def State.task (s : State) (n : Fin 8) : Task := s.cad.tasks[n]
def State.setTask (s : State) (n : Fin 8) (t : Task) : State := { s with cad := { s.cad with tasks := s.cad.tasks.set n t } }

/-- STATE of a task: 0 STOPPED, 1 IDLE, 2 RUNNING, 3 FAULTED (R121). -/
def State.taskState (s : State) (n : Fin 8) : Nat := s.rd (F.CAD_TASKn_STAT_STATE n)

/-- The eight tasks. -/
def allTasks : List (Fin 8) := [0, 1, 2, 3, 4, 5, 6, 7]

/-- The sixteen contexts. -/
def allCtx : List (Fin 16) := [0, 1, 2, 3, 4, 5, 6, 7, 8, 9, 10, 11, 12, 13, 14, 15]

/-- Rank of a task: PRIO first, the lower number on a tie (R114). -/
def State.rank (s : State) (n : Fin 8) : Nat := 8 * s.rd (F.CAD_TASKn_CFG_PRIO n) + (7 - n.val)

/-- The highest-ranking task with a cycle in progress (R114). -/
def State.serving (s : State) : Option (Fin 8) :=
  allTasks.foldl (fun best n =>
    if s.taskState n = 2 then
      match best with
      | none => some n
      | some m => if s.rank m < s.rank n then some n else some m
    else best) none

/-- Some context runs an instance of the task. -/
def State.taskOnLanes (s : State) (n : Fin 8) : Bool := allCtx.any fun c => (s.ctxAt c).busy && (s.ctxAt c).task == n

/-- Every instance of the wave in progress has completed. -/
def State.waveDone (s : State) (n : Fin 8) : Bool :=
  !s.taskOnLanes n && (s.task n).todo.isEmpty && (s.task n).saved.isEmpty

/-- The scheduled instances of a task in a wave that are neither in HOLD nor POISONED, ascending (R80, R105, R106). -/
def State.waveInsts (s : State) (n : Fin 8) (wave : Nat) : List Nat :=
  let b := s.runBank
  (upto (s.nInst b)).filter fun i =>
    !s.instCalled b i && s.instTask b i == n.val && s.instWave b i == wave && !s.cad.hold.contains i && !s.cad.poisoned.contains i

/-- The waves of a task, ascending. -/
def State.wavesOf (s : State) (n : Fin 8) : List Nat :=
  let b := s.runBank
  let used := (upto (s.nInst b)).filter fun i => !s.instCalled b i && s.instTask b i == n.val
  (used.foldl (fun (l : List (Nat × Bool)) i => Sparse.put l false (s.instWave b i) true) []).map Prod.fst

/-- Begin the next wave that has an instance to run; after a task fault no later wave runs (R107). -/
def State.nextWave (s : State) (n : Fin 8) : List Nat → State
  | [] => s.setTask n { s.task n with waves := [] }
  | w :: t =>
    let l := s.waveInsts n w
    if l.isEmpty then s.nextWave n t
    else s.setTask n { s.task n with wave := w, todo := l, waves := t, waveWrites := [] }

/-- A fresh context for a scheduled instance: all working registers read 0 (R83). -/
def State.freshCtx (s : State) (n : Fin 8) (i : Nat) : LaneCtx :=
  { busy := true, task := n, inst := i, cur := i, pc := s.typeEntry s.runBank (s.instType s.runBank i) }

/-- Give a free context its next instance of the serving task: first one that its own lane saved (R114). -/
def State.fillOne (s : State) (n : Fin 8) (c : Fin 16) : State :=
  if (s.ctxAt c).busy then s else
  match (s.task n).saved.find? fun e => e.1 == c.val / 4 with
  | some e => (s.setTask n { s.task n with saved := (s.task n).saved.erase e }).setCtx c e.2
  | none =>
    match (s.task n).todo with
    | i :: r => (s.setTask n { s.task n with todo := r }).setCtx c (s.freshCtx n i)
    | [] => s

/-- A retained-data save holds the lanes: it is in progress or waits, with NOW = 1, for instance boundaries (R129).
Log entry 88 (DESIGN CHOICE). -/
def State.saveHolds (s : State) : Bool :=
  s.cad.suspended || (s.cad.retNow && s.rd F.CAD_RET_STAT_STATE == 1)

/-- Serve the highest-ranking task: its next wave once one is done, and its instances on the free contexts. -/
def State.dispatch (s : State) : State :=
  if s.saveHolds then s else
  match s.serving with
  | none => s
  | some n =>
    let s1 := if s.waveDone n && !(s.task n).faulted then s.nextWave n (s.task n).waves else s
    allCtx.foldl (fun s c => s.fillOne n c) s1

/-- Each lane saves the contexts of other tasks in its store when a higher-ranking task's cycle starts (R114). -/
def State.preempt (s : State) (n : Fin 8) : State :=
  allCtx.foldl (fun s c =>
    let x := s.ctxAt c
    if x.busy && x.task != n then
      (s.setTask x.task { s.task x.task with saved := (s.task x.task).saved ++ [(c.val / 4, x)] }).setCtx c {}
    else s) s

/-! ## Working registers (R83) -/

/-- A working register: W0 reads 0. -/
def LaneCtx.r (x : LaneCtx) (i : BitVec 5) : Word := if i = 0 then 0 else x.w[i.toFin]

/-- Write a working register: writes to W0 are discarded. -/
def LaneCtx.setR (x : LaneCtx) (i : BitVec 5) (v : Word) : LaneCtx := if i = 0 then x else { x with w := x.w.set i.toFin v }

/-! ## Running one instruction -/

/-- How an instruction ends: it completes, it completes the scheduled instance, or it raises an aborting exception with a code. -/
inductive IEnd where
  | ok (s : State) (x : LaneCtx)
  | done (s : State)
  | exc (code arg : Nat)

/-- The exception codes of R104. -/
def excILLEGAL : Nat := 1
def excBOUNDS : Nat := 2
def excALIGN : Nat := 3
def excWRITER : Nat := 4
def excINST_REF : Nat := 5
def excSTACK : Nat := 6
def excLOOP_BOUND : Nat := 7
def excBUDGET : Nat := 8
def excNAN_OUT : Nat := 9
def excTRAP : Nat := 10
def excASSERT : Nat := 11
def excECC_DATA : Nat := 12
def excECC_CODE : Nat := 13

/-- Put a number into an ascending list without repeats. -/
def insNat (l : List Nat) (n : Nat) : List Nat :=
  match l with
  | [] => [n]
  | a :: t => if n < a then n :: a :: t else if n = a then a :: t else a :: insNat t n

/-- Free a context and serve the next instance. -/
def State.freeCtx (s : State) (c : Fin 16) : State := (s.setCtx c {}).dispatch

/-- An exception of the instance in a context (R104 to R107): an abort under the scheduled type's FAULT_POL, with the instance
POISONED for ECC_DATA, HOLD under policy 1 (the callee with it) and a task fault under policy 2 or for ECC_CODE. Log entry 15 (DEDUCED). -/
def State.abortCtx (s : State) (c : Fin 16) (code arg : Nat) : State :=
  let x := s.ctxAt c
  let pol := s.typePol s.runBank (s.instType s.runBank x.inst)
  let fault := code == excECC_CODE || pol == 2
  let t := s.task x.task
  let e : Exc := ⟨x.inst, code, x.pc, arg, fault⟩
  let s1 := s.setTask x.task { t with excs := t.excs ++ [e], faulted := t.faulted || fault }
  let s2 := if code = excECC_DATA then { s1 with cad := { s1.cad with poisoned := insNat s1.cad.poisoned x.cur } } else s1
  let s3 := if pol = 1 && code ≠ excECC_CODE then
    { s2 with cad := { s2.cad with hold := insNat (insNat s2.cad.hold x.inst) x.cur } } else s2
  let s4 := if code = excECC_CODE then s3.err .cad 0x81 0 else s3
  s4.freeCtx c

/-- At the end of a loop body the next iteration starts, or the loop is left; an enclosing body may end at the same place (R98). -/
def closeLoops (pc : Nat) : List LoopFrame → Nat × List LoopFrame
  | [] => (pc, [])
  | f :: t =>
    if pc = f.stop then
      (if f.idx + 1 < f.count then (f.start, { f with idx := f.idx + 1 } :: t) else closeLoops pc t)
    else (pc, f :: t)

/-- Continue at the program counter of a context, closing the loop bodies that end there. -/
def LaneCtx.advance (x : LaneCtx) : LaneCtx :=
  let (pc, ls) := closeLoops x.pc x.loops
  { x with pc := pc, loops := ls }

/-- The BUDGET of the scheduled instance in a context. -/
def State.budgetOf (s : State) (x : LaneCtx) : Nat := s.typeBudget s.runBank (s.instType s.runBank x.inst)

/-- The word at a context's program counter reads uncorrectable. R104 names no exception for a fetch that takes a translation fault: such
a fetch raises none, and the instruction executes. Log entries 10 (DESIGN CHOICE), 68 (DESIGN CHOICE). -/
def State.codeBad (s : State) (x : LaneCtx) : Bool :=
  match (s.xlate 0 false (s.bankBase s.runBank + s.offCode s.runBank + 4 * x.pc)).2 with
  | .ok pa => (s.ueIn pa 4).isSome
  | .bad _ => false

/-- The command that runs the word at a context's program counter (R86, R87): ILLEGAL where it spells no instruction. -/
def State.fetched (s : State) (c : Fin 16) : Instr :=
  (decodeCad c (s.peek 0 (s.bankBase s.runBank + s.offCode s.runBank + 4 * (s.ctxAt c).pc) 4)).getD (.illegal c)

/-- Execute one instruction on a context: BUDGET and ECC_CODE are checked first; `k` sees the context with its program counter already
past the instruction; then loop bodies close (R98, R99, R104). A context that runs no instance executes nothing. Log entry 10 (DESIGN CHOICE). -/
def State.instr (s : State) (c : Fin 16) (k : State → LaneCtx → IEnd) : State :=
  s.whileLive .cad fun s =>
    let x := s.ctxAt c
    if !x.busy then s
    else if s.budgetOf x < x.count + 1 then s.abortCtx c excBUDGET 0
    else if s.codeBad x then s.abortCtx c excECC_CODE 0
    else
      match k s { x with count := x.count + 1, pc := x.pc + 1 } with
      | .ok s1 x1 => s1.setCtx c x1.advance
      | .done s1 => s1.freeCtx c
      | .exc code arg => s.abortCtx c code arg

/-- Set sticky flags in the task of a context (R85). -/
def State.stick (s : State) (x : LaneCtx) (f : Word) : State :=
  if f = 0 then s else s.setTask x.task { s.task x.task with flags := (s.task x.task).flags ||| f }

/-- An instruction that computes rd from the registers and sets sticky flags. -/
def State.alu (s : State) (c : Fin 16) (rd : BitVec 5) (f : LaneCtx → Res) : State :=
  s.instr c fun s x => let r := f x; .ok (s.stick x r.2) (x.setR rd r.1)

/-! ## Slots (R78 to R80, R88, R135) -/

/-- Value and status word of a slot that a context builds on, in an LDS of an OUTPUT slot and in a suppressed store: its own latest write,
else the slot as its wave started (R79 to R81). Log entry 11 (DEDUCED). -/
def State.keptSlot (s : State) (x : LaneCtx) (slot : Nat) : Word × Word :=
  match x.own.find? fun w => w.slot == slot with
  | some w => (w.value, w.status)
  | none =>
    match (s.task x.task).waveWrites.find? fun w => w.slot == slot with
    | some w => (w.value, w.status)
    | none => (s.liveVal slot, s.liveSt slot)

/-- Value and status word that an LDS of the context's task sees in a slot: the task's snapshot for INPUT and SHARED slots; for OUTPUT
slots its own latest write, else the value as its wave started. The status word of a forced OUTPUT slot reads with FORCED = 1.
Log entry 11 (DEDUCED). -/
def State.readSlot (s : State) (x : LaneCtx) (slot : Nat) : Word × Word :=
  let b := s.runBank
  if s.slotDir b slot = 1 then
    let (v, st) := s.keptSlot x slot
    (v, if (s.forceOn (s.slotSig b slot)).isSome then st ||| 8 else st)
  else
    let a := s.snapAddr b x.task slot
    (BitVec.ofNat 32 (s.rdLe a 4), BitVec.ofNat 32 (s.rdLe (a + 4) 4))

/-- Note the value of a slot as the waves in progress of all tasks started, before it changes. The writing task notes its writer. -/
def State.noteWave (s : State) (n : Fin 8) (inst slot : Nat) : State :=
  let old : WaveWrite := ⟨slot, none, s.liveVal slot, s.liveSt slot⟩
  allTasks.foldl (fun s m =>
    let t := s.task m
    if s.taskState m ≠ 2 then s
    else if t.waveWrites.any fun w => w.slot == slot then
      (if m = n then s.setTask m { t with waveWrites := t.waveWrites.map fun w => if w.slot == slot then { w with inst := some inst } else w } else s)
    else s.setTask m { t with waveWrites := t.waveWrites ++ [if m = n then { old with inst := some inst } else old] }) s

/-- The wave of the task holds a write of the slot by a higher-numbered instance (R80). -/
def State.outranked (s : State) (n : Fin 8) (inst slot : Nat) : Bool :=
  (s.task n).waveWrites.any fun w => w.slot == slot && (match w.inst with | some j => inst < j | none => false)

/-- A slot write of a context: kept for its own reads, and in the live image unless a higher-numbered instance of the wave wrote it. -/
def State.writeSlot (s : State) (x : LaneCtx) (slot : Nat) (v st : Word) : State × LaneCtx :=
  let x1 := { x with own := ⟨slot, v, st⟩ :: x.own.filter fun w => w.slot != slot }
  if s.outranked x.task x.inst slot then (s, x1)
  else ((s.noteWave x.task x.inst slot).putLive slot v st, x1)

/-- The value an STS stores: 1 for any nonzero value of a BOOL slot (R79). Log entry 11 (DEDUCED). -/
def storeVal (typ : Nat) (v : Word) : Word := if typ = 0 then bool32 (v != 0) else v

/-- A NaN word (R79). -/
def nanWord (x : Word) : Bool := getBits x 23 8 == 255 && getBits x 0 23 != 0

/-- STS and STSX (R79, R88): BOUNDS, WRITER, then the store; a NaN to an F32 slot is suppressed and makes the slot BAD (NAN_OUT).
Log entry 11 (DEDUCED). -/
def State.storeSlot (s : State) (x : LaneCtx) (slot : Nat) (v : Word) (q : BitVec 3) : IEnd :=
  let b := s.runBank
  if q = 7 then .exc excILLEGAL 0
  else if s.nSlots b ≤ slot then .exc excBOUNDS 0
  else if !((s.slotDir b slot == 1 || s.slotDir b slot == 2) && s.slotWriter b slot == x.task.val) then .exc excWRITER 0
  else if s.slotType b slot = 4 && nanWord v then
    let (v0, st0) := s.keptSlot x slot
    let (s1, x1) := s.writeSlot x slot v0 (putBits st0 0 3 5)
    let t := s1.task x.task
    let e : Exc := ⟨x.inst, excNAN_OUT, x.pc - 1, 0, false⟩
    .ok (s1.setTask x.task { t with excs := t.excs ++ [e], flags := t.flags ||| flagNAN }) x1
  else
    let (s1, x1) := s.writeSlot x slot (storeVal (s.slotType b slot) v) (q.setWidth 32)
    .ok s1 x1

/-! ## Instance data (R89) -/

/-- The exception of an access of `w` bytes at an offset of the running instance's data: BOUNDS, ALIGN, ECC_DATA. Log entry 12 (DEDUCED). -/
def State.dataExc (s : State) (x : LaneCtx) (o w : Nat) : Option Nat :=
  let b := s.runBank
  if s.instDsize b x.cur ≤ o then some excBOUNDS
  else if o % w ≠ 0 then some excALIGN
  else if (s.ueIn (s.dataAddr b x.cur o) w).isSome then some excECC_DATA
  else none

/-- The offset W[rs1] + imm16 of an access (R89): the sum is not wrapped. Log entry 12 (DEDUCED). -/
def LaneCtx.off (x : LaneCtx) (rs1 : BitVec 5) (imm : BitVec 16) : Nat := (x.r rs1).toNat + imm.toNat

/-- A load of instance data. -/
def State.loadData (s : State) (c : Fin 16) (rd rs1 : BitVec 5) (imm : BitVec 16) (w : Nat) (f : Nat → Word) : State :=
  s.instr c fun s x =>
    match s.dataExc x (x.off rs1 imm) w with
    | some e => .exc e 0
    | none => .ok s (x.setR rd (f (s.rdLe (s.dataAddr s.runBank x.cur (x.off rs1 imm)) w)))

/-- A store of instance data. -/
def State.storeData (s : State) (c : Fin 16) (rd rs1 : BitVec 5) (imm : BitVec 16) (w : Nat) : State :=
  s.instr c fun s x =>
    match s.dataExc x (x.off rs1 imm) w with
    | some e => .exc e 0
    | none => .ok (s.wrLe (s.dataAddr s.runBank x.cur (x.off rs1 imm)) w (x.r rd).toNat) x

/-- A forward branch (R97): PC + 1 + off. -/
def State.branchIf (s : State) (c : Fin 16) (off : Nat) (p : LaneCtx → Bool) : State :=
  s.instr c fun s x => .ok s (if p x then { x with pc := x.pc + off } else x)

end Sys2Proof.Machine
end

