-- ==== Sys2Proof/Machine/CadArith.lean ====
section
/-! DEFINITION. The integer instructions of the Cadence engine (R90, R91). -/

namespace Sys2Proof.Machine

/-- ADD: the wrapping sum (R90). -/
def execAdd (c : Fin 16) (rd rs1 rs2 : BitVec 5) (s : State) : Out :=
  .next (s.alu c rd fun x => plain ((x.r rs1) + (x.r rs2)))

/-- SUB: the wrapping difference (R90). -/
def execSub (c : Fin 16) (rd rs1 rs2 : BitVec 5) (s : State) : Out :=
  .next (s.alu c rd fun x => plain ((x.r rs1) - (x.r rs2)))

/-- ADDS: the saturating sum; a clip sets SAT (R90, R91). -/
def execAdds (c : Fin 16) (rd rs1 rs2 : BitVec 5) (s : State) : Out :=
  .next (s.alu c rd fun x => satI ((x.r rs1).toInt + (x.r rs2).toInt))

/-- SUBS: the saturating difference; a clip sets SAT (R90, R91). -/
def execSubs (c : Fin 16) (rd rs1 rs2 : BitVec 5) (s : State) : Out :=
  .next (s.alu c rd fun x => satI ((x.r rs1).toInt - (x.r rs2).toInt))

/-- AND: bitwise and (R90). -/
def execAnd (c : Fin 16) (rd rs1 rs2 : BitVec 5) (s : State) : Out :=
  .next (s.alu c rd fun x => plain ((x.r rs1) &&& (x.r rs2)))

/-- OR: bitwise or (R90). -/
def execOr (c : Fin 16) (rd rs1 rs2 : BitVec 5) (s : State) : Out :=
  .next (s.alu c rd fun x => plain ((x.r rs1) ||| (x.r rs2)))

/-- XOR: bitwise exclusive or (R90). -/
def execXor (c : Fin 16) (rd rs1 rs2 : BitVec 5) (s : State) : Out :=
  .next (s.alu c rd fun x => plain ((x.r rs1) ^^^ (x.r rs2)))

/-- SLL: shift left by bits 4:0 of rs2 (R90). -/
def execSll (c : Fin 16) (rd rs1 rs2 : BitVec 5) (s : State) : Out :=
  .next (s.alu c rd fun x => plain ((x.r rs1) <<< ((x.r rs2).toNat % 32)))

/-- SRL: logical shift right by bits 4:0 of rs2 (R90). -/
def execSrl (c : Fin 16) (rd rs1 rs2 : BitVec 5) (s : State) : Out :=
  .next (s.alu c rd fun x => plain ((x.r rs1) >>> ((x.r rs2).toNat % 32)))

/-- SRA: arithmetic shift right by bits 4:0 of rs2 (R90). -/
def execSra (c : Fin 16) (rd rs1 rs2 : BitVec 5) (s : State) : Out :=
  .next (s.alu c rd fun x => plain (BitVec.sshiftRight (x.r rs1) ((x.r rs2).toNat % 32)))

/-- MUL: low 32 bits of the product (R90). -/
def execMul (c : Fin 16) (rd rs1 rs2 : BitVec 5) (s : State) : Out :=
  .next (s.alu c rd fun x => plain ((x.r rs1) * (x.r rs2)))

/-- MULH: high 32 bits of the signed product (R90). -/
def execMulh (c : Fin 16) (rd rs1 rs2 : BitVec 5) (s : State) : Out :=
  .next (s.alu c rd fun x => plain (ofI ((x.r rs1).toInt * (x.r rs2).toInt / 2 ^ 32)))

/-- MULHU: high 32 bits of the unsigned product (R90). -/
def execMulhu (c : Fin 16) (rd rs1 rs2 : BitVec 5) (s : State) : Out :=
  .next (s.alu c rd fun x => plain (BitVec.ofNat 32 ((x.r rs1).toNat * (x.r rs2).toNat / 2 ^ 32)))

/-- DIV: signed quotient, truncated, with the corners of R91 (R90, R91). -/
def execDiv (c : Fin 16) (rd rs1 rs2 : BitVec 5) (s : State) : Out :=
  .next (s.alu c rd fun x => divS (x.r rs1) (x.r rs2))

/-- DIVU: unsigned quotient (R90, R91). -/
def execDivu (c : Fin 16) (rd rs1 rs2 : BitVec 5) (s : State) : Out :=
  .next (s.alu c rd fun x => divU (x.r rs1) (x.r rs2))

/-- REM: signed remainder with the sign of the dividend (R90, R91). -/
def execRem (c : Fin 16) (rd rs1 rs2 : BitVec 5) (s : State) : Out :=
  .next (s.alu c rd fun x => remS (x.r rs1) (x.r rs2))

/-- REMU: unsigned remainder (R90, R91). -/
def execRemu (c : Fin 16) (rd rs1 rs2 : BitVec 5) (s : State) : Out :=
  .next (s.alu c rd fun x => remU (x.r rs1) (x.r rs2))

/-- MIN: signed minimum (R90). -/
def execMin (c : Fin 16) (rd rs1 rs2 : BitVec 5) (s : State) : Out :=
  .next (s.alu c rd fun x => plain (if (x.r rs1).toInt ≤ (x.r rs2).toInt then (x.r rs1) else (x.r rs2)))

/-- MAX: signed maximum (R90). -/
def execMax (c : Fin 16) (rd rs1 rs2 : BitVec 5) (s : State) : Out :=
  .next (s.alu c rd fun x => plain (if (x.r rs1).toInt ≤ (x.r rs2).toInt then (x.r rs2) else (x.r rs1)))

/-- MINU: unsigned minimum (R90). -/
def execMinu (c : Fin 16) (rd rs1 rs2 : BitVec 5) (s : State) : Out :=
  .next (s.alu c rd fun x => plain (if (x.r rs1).toNat ≤ (x.r rs2).toNat then (x.r rs1) else (x.r rs2)))

/-- MAXU: unsigned maximum (R90). -/
def execMaxu (c : Fin 16) (rd rs1 rs2 : BitVec 5) (s : State) : Out :=
  .next (s.alu c rd fun x => plain (if (x.r rs1).toNat ≤ (x.r rs2).toNat then (x.r rs2) else (x.r rs1)))

/-- ABS: saturating absolute value (R90, R91). -/
def execAbs (c : Fin 16) (rd rs1 : BitVec 5) (s : State) : Out :=
  .next (s.alu c rd fun x => satI (if (x.r rs1).toInt < 0 then -(x.r rs1).toInt else (x.r rs1).toInt))

/-- NEG: saturating negation (R90, R91). -/
def execNeg (c : Fin 16) (rd rs1 : BitVec 5) (s : State) : Out :=
  .next (s.alu c rd fun x => satI (-(x.r rs1).toInt))

/-- ADDI: adds the sign-extended immediate (R90). -/
def execAddi (c : Fin 16) (rd rs1 : BitVec 5) (imm : BitVec 16) (s : State) : Out :=
  .next (s.alu c rd fun x => plain ((x.r rs1) + imm.signExtend 32))

/-- ANDI: and with the zero-extended immediate (R90). -/
def execAndi (c : Fin 16) (rd rs1 : BitVec 5) (imm : BitVec 16) (s : State) : Out :=
  .next (s.alu c rd fun x => plain ((x.r rs1) &&& imm.setWidth 32))

/-- ORI: or with the zero-extended immediate (R90). -/
def execOri (c : Fin 16) (rd rs1 : BitVec 5) (imm : BitVec 16) (s : State) : Out :=
  .next (s.alu c rd fun x => plain ((x.r rs1) ||| imm.setWidth 32))

/-- XORI: exclusive or with the zero-extended immediate (R90). -/
def execXori (c : Fin 16) (rd rs1 : BitVec 5) (imm : BitVec 16) (s : State) : Out :=
  .next (s.alu c rd fun x => plain ((x.r rs1) ^^^ imm.setWidth 32))

/-- SHI_SLL: shift left by an immediate amount (R90). -/
def execShiSll (c : Fin 16) (rd rs1 : BitVec 5) (n : BitVec 5) (s : State) : Out :=
  .next (s.alu c rd fun x => plain ((x.r rs1) <<< n.toNat))

/-- SHI_SRL: logical shift right by an immediate amount (R90). -/
def execShiSrl (c : Fin 16) (rd rs1 : BitVec 5) (n : BitVec 5) (s : State) : Out :=
  .next (s.alu c rd fun x => plain ((x.r rs1) >>> n.toNat))

/-- SHI_SRA: arithmetic shift right by an immediate amount (R90). -/
def execShiSra (c : Fin 16) (rd rs1 : BitVec 5) (n : BitVec 5) (s : State) : Out :=
  .next (s.alu c rd fun x => plain (BitVec.sshiftRight (x.r rs1) n.toNat))

/-- SLTI: 1 if W[rs1] is below the signed immediate (R94). -/
def execSlti (c : Fin 16) (rd rs1 : BitVec 5) (imm : BitVec 16) (s : State) : Out :=
  .next (s.alu c rd fun x => plain (bool32 (decide ((x.r rs1).toInt < imm.toInt))))

end Sys2Proof.Machine
end

