-- ==== Sys2Proof/Machine/CadFlow.lean ====
section
/-! DEFINITION. The timer, edge, control-flow, trap and event instructions of the Cadence engine (R95 to R99, R103). -/

namespace Sys2Proof.Machine

/-- A timer block (R95): PT, ET, Q and PREV_IN. -/
structure Timer where
  pt : Nat
  et : Nat
  q : Bool
  prev : Bool
  deriving DecidableEq, Repr

/-- TON: ET runs while IN stays true; Q once ET reaches PT (R95). -/
def tonNext (t : Timer) (i : Bool) (d : Nat) : Timer :=
  let et := if i && t.prev then min (t.et + d) t.pt else 0
  { t with et := et, q := i && decide (t.pt ≤ et), prev := i }

/-- TOF: Q falls PT after IN fell (R95). -/
def tofNext (t : Timer) (i : Bool) (d : Nat) : Timer :=
  if i then { t with et := 0, q := true, prev := i }
  else if t.q then
    let et := if t.prev then 0 else min (t.et + d) t.pt
    { t with et := et, q := decide (et < t.pt), prev := i }
  else { t with prev := i }

/-- TP: a rising IN starts a pulse of length PT (R95). -/
def tpNext (t : Timer) (i : Bool) (d : Nat) : Timer :=
  if !t.q && i && !t.prev then { t with q := true, et := 0, prev := i }
  else if t.q then
    let et := min (t.et + d) t.pt
    { t with et := et, q := decide (et < t.pt), prev := i }
  else { t with prev := i }

/-- Δ of R95 for the context's instance: 0 in the first cycle after it, or the scheduled instance that called it, left HOLD. -/
def State.deltaOf (s : State) (x : LaneCtx) : Nat :=
  if (s.task x.task).leftHold.contains x.inst || (s.task x.task).leftHold.contains x.cur then 0 else (s.task x.task).delta

/-- TMR (R95): the block lies in the first 16 KiB of the instance data and is 4-byte aligned. -/
def State.timer (s : State) (c : Fin 16) (rd rs1 : BitVec 5) (off : BitVec 14) (f : Timer → Bool → Nat → Timer) : State :=
  s.instr c fun s x =>
    let o := off.toNat
    let b := s.runBank
    let a := s.dataAddr b x.cur o
    if 2 ^ 14 < o + 12 || s.instDsize b x.cur < o + 12 then .exc excBOUNDS 0
    else if o % 4 ≠ 0 then .exc excALIGN 0
    else if (s.ueIn a 12).isSome then .exc excECC_DATA 0
    else
      let st := s.rdLe (a + 8) 4
      let t : Timer := ⟨s.rdLe a 4, s.rdLe (a + 4) 4, st.testBit 0, st.testBit 1⟩
      let t1 := f t (x.r rs1 != 0) (s.deltaOf x)
      .ok ((s.wrLe (a + 4) 4 t1.et).wrLe (a + 8) 4 (st - st % 4 + b2n t1.q + 2 * b2n t1.prev)) (x.setR rd (bool32 t1.q))

/-- TON: on-delay timer (R95). -/
def execTon (c : Fin 16) (rd rs1 : BitVec 5) (off : BitVec 14) (s : State) : Out := .next (s.timer c rd rs1 off tonNext)

/-- TOF: off-delay timer (R95). -/
def execTof (c : Fin 16) (rd rs1 : BitVec 5) (off : BitVec 14) (s : State) : Out := .next (s.timer c rd rs1 off tofNext)

/-- TP: pulse timer (R95). -/
def execTp (c : Fin 16) (rd rs1 : BitVec 5) (off : BitVec 14) (s : State) : Out := .next (s.timer c rd rs1 off tpNext)

/-- EDGE (R96): `f` gives rd from IN and PREV; either form sets PREV ← IN. -/
def State.edge (s : State) (c : Fin 16) (rd rs1 : BitVec 5) (off : BitVec 15) (f : Bool → Bool → Bool) : State :=
  s.instr c fun s x =>
    match s.dataExc x off.toNat 1 with
    | some e => .exc e 0
    | none =>
      let a := s.dataAddr s.runBank x.cur off.toNat
      let st := s.rdLe a 1
      let i := x.r rs1 != 0
      .ok (s.wrLe a 1 (st - st % 2 + b2n i)) (x.setR rd (bool32 (f i (st.testBit 0))))

/-- EDGE rising: rd ← IN AND NOT PREV (R96). -/
def execEdgeRising (c : Fin 16) (rd rs1 : BitVec 5) (off : BitVec 15) (s : State) : Out :=
  .next (s.edge c rd rs1 off fun i p => i && !p)

/-- EDGE falling: rd ← PREV AND NOT IN (R96). -/
def execEdgeFalling (c : Fin 16) (rd rs1 : BitVec 5) (off : BitVec 15) (s : State) : Out :=
  .next (s.edge c rd rs1 off fun i p => p && !i)

/-- BEQ (R97). -/
def execBeq (c : Fin 16) (rs1 rs2 : BitVec 5) (off : BitVec 16) (s : State) : Out :=
  .next (s.branchIf c off.toNat fun x => x.r rs1 == x.r rs2)

/-- BNE (R97). -/
def execBne (c : Fin 16) (rs1 rs2 : BitVec 5) (off : BitVec 16) (s : State) : Out :=
  .next (s.branchIf c off.toNat fun x => x.r rs1 != x.r rs2)

/-- BLT, signed (R97). -/
def execBlt (c : Fin 16) (rs1 rs2 : BitVec 5) (off : BitVec 16) (s : State) : Out :=
  .next (s.branchIf c off.toNat fun x => decide ((x.r rs1).toInt < (x.r rs2).toInt))

/-- BGE, signed (R97). -/
def execBge (c : Fin 16) (rs1 rs2 : BitVec 5) (off : BitVec 16) (s : State) : Out :=
  .next (s.branchIf c off.toNat fun x => decide ((x.r rs2).toInt ≤ (x.r rs1).toInt))

/-- JMP: continue at PC + 1 + off26 (R97). -/
def execJmp (c : Fin 16) (off : BitVec 26) (s : State) : Out :=
  .next (s.branchIf c off.toNat fun _ => true)

/-- LOOP (R98): a bound or length of 0, or a fifth nesting, is an illegal encoding; a count of 0 skips the body; a count above bound
raises LOOP_BOUND. Log entry 13 (DEDUCED). -/
def execLoop (c : Fin 16) (rs1 : BitVec 5) (bound : BitVec 11) (len : BitVec 10) (s : State) : Out :=
  .next (s.instr c fun s x =>
    let n := (x.r rs1).toNat
    if bound = 0 || len = 0 || 4 ≤ x.loops.length then .exc excILLEGAL 0
    else if bound.toNat < n then .exc excLOOP_BOUND 0
    else if n = 0 then .ok s { x with pc := x.pc + len.toNat }
    else .ok s { x with loops := ⟨x.pc, x.pc + len.toNat, 0, n⟩ :: x.loops })

/-- LIDX: the innermost loop's index, 0 outside any loop (R98). -/
def execLidx (c : Fin 16) (rd : BitVec 5) (s : State) : Out :=
  .next (s.instr c fun s x => .ok s (x.setR rd (BitVec.ofNat 32 (match x.loops with | [] => 0 | f :: _ => f.idx))))

/-- The calling instance owns a CALLED instance: a CHILD element of its data holds its number (R74). -/
def State.owns (s : State) (b caller target : Nat) : Bool :=
  (s.layoutOf b (s.instType b caller)).any fun f =>
    f.kind == 7 && (upto f.count).any fun k => s.rdLe (s.dataAddr b caller (f.off + 4 * k)) 4 == target

/-- CALL (R99): BOUNDS, ALIGN, ECC_DATA of the instance number, then INST_REF, then STACK; the caller's loops are saved (R98). A callee in
HOLD or POISONED is skipped: the CALL returns at once (R105, R106). Log entries 15 (DEDUCED), 36 (DEDUCED). -/
def execCall (c : Fin 16) (rs1 : BitVec 5) (imm : BitVec 16) (s : State) : Out :=
  .next (s.instr c fun s x =>
    let b := s.runBank
    let o := x.off rs1 imm
    match s.dataExc x o 4 with
    | some e => .exc e 0
    | none =>
      let i := s.rdLe (s.dataAddr b x.cur o) 4
      if !(decide (i < s.nInst b) && s.instCalled b i && s.owns b x.cur i) then .exc excINST_REF 0
      else if 16 ≤ x.calls.length then .exc excSTACK 0
      else if s.cad.hold.contains i || s.cad.poisoned.contains i then .ok s x
      else .ok s { x with calls := ⟨x.pc, x.cur, x.loops⟩ :: x.calls, cur := i, loops := [], pc := s.typeEntry b (s.instType b i) })

/-- RET (R99): back to the caller with its loops, or, at depth 0, the scheduled instance completes. -/
def execRet (c : Fin 16) (s : State) : Out :=
  .next (s.instr c fun s x =>
    match x.calls with
    | [] => .done s
    | f :: t => .ok s { x with calls := t, cur := f.inst, loops := f.loops, pc := f.ret })

/-- TRAP: raises TRAP with its code (R103). -/
def execTrap (c : Fin 16) (imm : BitVec 16) (s : State) : Out := .next (s.instr c fun _ _ => .exc excTRAP imm.toNat)

/-- ASSERT: raises ASSERT with its code when W[rs1] is 0 (R103). -/
def execAssert (c : Fin 16) (rs1 : BitVec 5) (imm : BitVec 16) (s : State) : Out :=
  .next (s.instr c fun s x => if x.r rs1 = 0 then .exc excASSERT imm.toNat else .ok s x)

/-- Keep a request or event of the scheduled instance for the end of the cycle (R101, R103). -/
def State.post (s : State) (x : LaneCtx) (k : PostKind) : State :=
  s.setTask x.task { s.task x.task with posts := (s.task x.task).posts ++ [⟨x.inst, k⟩] }

/-- EVT: code 0xE000 + imm16 bits 12:0, severity bits 15:13, first parameters W[rd] and W[rs1] (R103). -/
def execEvt (c : Fin 16) (rd rs1 : BitVec 5) (imm : BitVec 16) (s : State) : Out :=
  .next (s.instr c fun s x =>
    .ok (s.post x (.evt (0xE000 + imm.toNat % 0x2000) (imm.toNat / 0x2000) (x.r rd).toNat (x.r rs1).toNat)) x)

/-- NOP does nothing (R103). -/
def execNop (c : Fin 16) (s : State) : Out := .next (s.instr c fun s x => .ok s x)

/-- An illegal encoding reached at run time aborts the instance (R104). -/
def execIllegal (c : Fin 16) (s : State) : Out := .next (s.instr c fun _ _ => .exc excILLEGAL 0)

end Sys2Proof.Machine
end

