-- ==== Sys2Proof/Machine/FabItem.lean ====
section
/-! DEFINITION. The fabric's tags and channels, and how a master's item enters them (R430 to R438). -/

namespace Sys2Proof.Machine

/-! ## The fabric (R430 to R437) -/

/-- Tags that a port holds (R431): its items in the channels and behind a walk, its responses under way, its transactions without an answer. -/
def Fab.held (x : Fab) (p : Fin 16 → Bool) : Nat :=
  ((x.pf ++ x.pw ++ x.req ++ x.walks.map (·.item)).filter fun i => !i.flush && p i.port).length +
    (x.rsp.filter fun r => r.walk.isNone && p r.port).length + (x.waits.filter fun w => p w.port).length
def State.outstanding (s : State) (port : Fin 16) : Nat := s.fab.held (· == port)

/-- Tags in flight, those of the flush path and of the walks included. -/
def State.inFlight (s : State) : Nat := s.fab.held (fun _ => true) + (s.fab.pf.filter (·.flush)).length + s.fab.walks.length

def State.resvOf (s : State) (port : Fin 16) : Nat := s.rd (F.FAB_QUOTAn_RESV port)
def State.sumResv (s : State) : Nat := (List.finRange 16).foldl (fun n p => n + s.resvOf p) 0

/-- Tags drawn from the pool. -/
def State.poolUsed (s : State) : Nat := (List.finRange 16).foldl (fun n p => n + (s.outstanding p - s.resvOf p)) 0

/-- A port receives a tag: within RESV at once, beyond it from the pool up to MAX (R431). -/
def State.tagFree (s : State) (port : Fin 16) : Bool :=
  let n := s.outstanding port
  n < s.resvOf port || (n < s.rd (F.FAB_QUOTAn_MAX port) && s.poolUsed < 232 - s.sumResv)

/-- One of the sixteen tags of the power-fail flush path, granted after PFW to CAD, MTR, EVR and NFM (R431). -/
def State.flushTag (s : State) (port : Fin 16) : Bool :=
  s.pfw && [3, 9, 11, 13].contains port.val && decide ((s.fab.pf.filter (·.flush)).length < 16)

/-- SLV_STAT.SAVING: a job is being saved or restored (R271, R432). -/
def State.saving (s : State) : Bool := s.slv.run.any fun j => j.phase == 9 || j.phase == 10

/-- The translation context of a port's access; none for the cores and the SPI port (R430). -/
def portCtx (port sub : Nat) : Option Nat :=
  if port ≤ 2 then none else if port ≤ 5 then some (port - 3)
  else if port = 6 then some (3 + sub % 2) else if port ≤ 9 then some (port - 2) else if port = 10 then some (8 + sub) else some (port + 1)

/-- FAB_USE while FAB_CTRL.EN is 1 (R436). -/
def State.showUse (s : State) : State :=
  let n := s.inFlight
  let s1 := { s with fab := { s.fab with peak := max s.fab.peak n } }
  if !s.en .fab then s1 else (s1.wr F.FAB_USE_NOW n).wr F.FAB_USE_PEAK (max (s.rd F.FAB_USE_PEAK) n)

/-! ## Items (R432, R433, R438) -/

/-- Bytes that a transaction carries. -/
def opLen : FabOp → Nat
  | .read n => n
  | .fetch n => n
  | .write d => d.length
  | .lr dbl => if dbl then 8 else 4
  | .sc d => d.length
  | .amo _ d => d.length

/-- A write or an atomic (R510). -/
def opWrites : FabOp → Bool
  | .write _ => true
  | .sc _ => true
  | .amo _ _ => true
  | _ => false

/-- A write that is posted (R433): to DRAM, shared SRAM, instance memory or AON memory, by the address the port's context gives. -/
def State.posted (s : State) (x : FabItem) : Bool :=
  match x.op with
  | .write _ =>
    let pa := match portCtx x.port x.sub with
      | none => some x.at_
      | some c => match (s.xlate c true x.at_).2 with
        | .ok pa => some pa
        | .bad _ => none
    match pa with
    | some a => inDram a || inSram a || inCadMem a || inAon a
    | none => false
  | _ => false

/-- The ports whose clock is not the fabric's: CAD, LPE, SLV, SPK and TSU, NET, TDM, MTR, CAN and PNL (R438). -/
def farPort (n : Nat) : Bool := (decide (3 ≤ n) && decide (n ≤ 10)) || n == 15

/-- The crossing queue of a port holds 16 items of a channel, and holds its writer back when full (R438). -/
def queueOpen (l : List FabItem) (port : Fin 16) : Bool := !farPort port || decide ((l.filter fun i => i.port == port).length < 16)

/-- The table reads that XLT makes for an item before it enters its channel (R434). Log entry 53 (DEDUCED). -/
def State.itemReads (s : State) (x : FabItem) : Nat :=
  match portCtx x.port x.sub with
  | none => 0
  | some c => ((burst x.at_ (opLen x.op)).map fun p => s.readsFor c (opWrites x.op) p.1).sum

/-- An item enters its channel: a posted write PW, all others REQ. -/
def State.enter (s : State) (x : FabItem) : State :=
  if s.posted x then { s with fab := { s.fab with pw := s.fab.pw ++ [x] } } else { s with fab := { s.fab with req := s.fab.req ++ [x] } }

/-- An item can be issued: it has a length of 1 to 256 bytes, a tag and a place in its channel, or, on the flush path, one of that path's; an item
whose address takes a walk, one of XLT's 8 walk tags too (R431, R433, R434). -/
def State.mayIssue (s : State) (x : FabItem) : Bool :=
  decide (1 ≤ opLen x.op) && decide (opLen x.op ≤ 256) &&
    if x.flush then s.flushTag x.port && opWrites x.op && queueOpen s.fab.pf x.port
    else s.tagFree x.port && queueOpen (if s.posted x then s.fab.pw else s.fab.req) x.port && (s.itemReads x == 0 || decide (s.fab.walks.length < 8))

/-- A master puts an item into its channel, an item whose address takes a walk behind that (R434); where it cannot, it waits (R431, R437). -/
def State.issueItem (s : State) (x : FabItem) : State :=
  if !s.mayIssue x then s
  else if x.flush then { s with fab := { s.fab with pf := s.fab.pf ++ [x] } }.showUse
  else if s.itemReads x = 0 then (s.enter x).showUse
  else { s with fab := { s.fab with walks := s.fab.walks ++ [({ item := x, reads := s.itemReads x, sent := false } : FabWalk)] } }.showUse

end Sys2Proof.Machine
end

