-- ==== Sys2Proof/Machine/Float32.lean ====
section
/-! DEFINITION. IEEE 754 binary32 as R93 and R94 use it: round to nearest, ties to even, subnormals in full, tininess after rounding,
every NaN result 0x7FC0_0000. -/

namespace Sys2Proof.Machine

/-- The quiet NaN that every NaN result is (R93). -/
def qNaN : Word := 0x7FC00000

/-- A binary32 word by kind: finite values are m × 2^e with a sign. -/
inductive F32 where
  | nan (signalling : Bool)
  | inf (neg : Bool)
  | fin (neg : Bool) (m : Nat) (e : Int)
  deriving DecidableEq, Repr

/-- Read a binary32 word. -/
def f32 (x : Word) : F32 :=
  let s := x.getLsbD 31
  let ex := getBits x 23 8
  let fr := getBits x 0 23
  if ex = 255 then (if fr = 0 then .inf s else .nan (!x.getLsbD 22))
  else if ex = 0 then .fin s fr (-149)
  else .fin s (fr + 2 ^ 23) ((ex : Int) - 150)

/-- A word holds a NaN. -/
def isNaN (x : Word) : Bool := getBits x 23 8 == 255 && getBits x 0 23 != 0

/-- A word holds a signalling NaN (R94). -/
def isSNaN (x : Word) : Bool := isNaN x && !x.getLsbD 22

/-- The sign bit alone. -/
def signBit (neg : Bool) : Word := if neg then 0x80000000 else 0

/-- Infinity of a sign. -/
def infW (neg : Bool) : Word := signBit neg ||| 0x7F800000

/-- Divide `m` by 2^k and round to nearest, ties to even, where `st` says that `m` already lost something nonzero below. The second
component says that the result is inexact. -/
def rne (m k : Nat) (st : Bool) : Nat × Bool :=
  let q := m / 2 ^ k
  let r := m % 2 ^ k
  let half := if k = 0 then 0 else 2 ^ (k - 1)
  let up := if k = 0 then false
    else if half < r then true
    else if r < half then false
    else st || q % 2 = 1
  (if up then q + 1 else q, r != 0 || st)

/-- Number of bits of `m` (0 for 0). -/
def bitLen (m : Nat) : Nat := if m = 0 then 0 else Nat.log2 m + 1

/-- Round the exact value m × 2^e (with something nonzero below when `st`) to binary32 and set FOVF and FUNF (R93). -/
def packF (neg : Bool) (m : Nat) (e : Int) (st : Bool) : Res :=
  if m = 0 then (signBit neg, 0)
  else
    let free := e + bitLen m - 24                 -- exponent of the last place, exponent range unbounded
    let q := if free < -149 then -149 else free
    let sh := q - e
    let (r, inex) := if sh ≤ 0 then (m * 2 ^ (-sh).toNat, st) else rne m sh.toNat st
    let shF := free - e
    let (rF, _) := if shF ≤ 0 then (m * 2 ^ (-shF).toNat, st) else rne m shF.toNat st
    let topF := if rF = 2 ^ 24 then free + 24 else free + 23
    let tiny := inex && decide (topF < -126)
    let (r, q) := if r = 2 ^ 24 then (2 ^ 23, q + 1) else (r, q)
    let flag := if tiny then flagFUNF else 0
    if r < 2 ^ 23 then (signBit neg ||| BitVec.ofNat 32 r, flag)
    else
      let ex := q + 150
      if 255 ≤ ex then (infW neg, flagFOVF)
      else (signBit neg ||| BitVec.ofNat 32 (ex.toNat * 2 ^ 23 + (r - 2 ^ 23)), flag)

/-- The NaN result of an operation on `a` and `b`: FINV when an operand signals. -/
def nanRes (a b : Word) : Res := (qNaN, if isSNaN a || isSNaN b then flagFINV else 0)

/-- An invalid operation. -/
def invalid : Res := (qNaN, flagFINV)

/-- FADD. -/
def fadd (a b : Word) : Res :=
  match f32 a, f32 b with
  | .nan _, _ => nanRes a b
  | _, .nan _ => nanRes a b
  | .inf s, .inf t => if s = t then (infW s, 0) else invalid
  | .inf s, .fin _ _ _ => (infW s, 0)
  | .fin _ _ _, .inf t => (infW t, 0)
  | .fin s m e, .fin t n g =>
    let lo := if e < g then e else g
    let x : Int := (if s then -1 else 1) * (m : Int) * 2 ^ (e - lo).toNat
    let y : Int := (if t then -1 else 1) * (n : Int) * 2 ^ (g - lo).toNat
    let z := x + y
    if z = 0 then (signBit (s && t), 0)
    else packF (decide (z < 0)) z.natAbs lo false

/-- FNEG: the sign bit inverted (R93). -/
def fneg (a : Word) : Word := a ^^^ 0x80000000

/-- FABS: the sign bit cleared (R93). -/
def fabs (a : Word) : Word := a &&& 0x7FFFFFFF

/-- FSUB. A NaN operand stays a NaN under the sign change, signalling or not. -/
def fsub (a b : Word) : Res := fadd a (fneg b)

/-- FMUL. -/
def fmul (a b : Word) : Res :=
  match f32 a, f32 b with
  | .nan _, _ => nanRes a b
  | _, .nan _ => nanRes a b
  | .inf s, .inf t => (infW (s != t), 0)
  | .inf s, .fin t n _ => if n = 0 then invalid else (infW (s != t), 0)
  | .fin s m _, .inf t => if m = 0 then invalid else (infW (s != t), 0)
  | .fin s m e, .fin t n g => packF (s != t) (m * n) (e + g) false

/-- FDIV: a finite nonzero value over zero sets FDZ. -/
def fdiv (a b : Word) : Res :=
  match f32 a, f32 b with
  | .nan _, _ => nanRes a b
  | _, .nan _ => nanRes a b
  | .inf _, .inf _ => invalid
  | .inf s, .fin t _ _ => (infW (s != t), 0)
  | .fin s _ _, .inf t => (signBit (s != t), 0)
  | .fin s m e, .fin t n g =>
    if n = 0 then (if m = 0 then invalid else (infW (s != t), flagFDZ))
    else packF (s != t) (m * 2 ^ 64 / n) (e - g - 64) (m * 2 ^ 64 % n != 0)

/-- The integer square root of `m`, bit by bit from bit `k - 1` down. -/
def isqrtFrom (m : Nat) : Nat → Nat → Nat
  | 0, r => r
  | k + 1, r => isqrtFrom m k (if (r + 2 ^ k) * (r + 2 ^ k) ≤ m then r + 2 ^ k else r)

/-- FSQRT: the root of −0 is −0, of a negative value invalid. -/
def fsqrt (a : Word) : Res :=
  match f32 a with
  | .nan _ => nanRes a 0
  | .inf s => if s then invalid else (infW false, 0)
  | .fin s m e =>
    if m = 0 then (signBit s, 0)
    else if s then invalid
    else
      let (m, e) := if e % 2 = 0 then (m * 2 ^ 64, e - 64) else (m * 2 ^ 65, e - 65)
      let r := isqrtFrom m 48 0
      packF false r (e / 2) (r * r != m)

/-- An ordering key for words that are not NaN: −0 and +0 are equal. -/
def fkey (a : Word) : Int := if a.getLsbD 31 then -((fabs a).toNat : Int) else (fabs a).toNat

/-- FMIN: minimumNumber, −0 below +0 (R93). -/
def fmin (a b : Word) : Res :=
  let fl := if isSNaN a || isSNaN b then flagFINV else 0
  if isNaN a && isNaN b then (qNaN, fl)
  else if isNaN a then (b, fl)
  else if isNaN b then (a, fl)
  else if fkey a < fkey b then (a, 0)
  else if fkey b < fkey a then (b, 0)
  else (if a.getLsbD 31 then a else b, 0)

/-- FMAX: maximumNumber, +0 above −0 (R93). -/
def fmax (a b : Word) : Res :=
  let fl := if isSNaN a || isSNaN b then flagFINV else 0
  if isNaN a && isNaN b then (qNaN, fl)
  else if isNaN a then (b, fl)
  else if isNaN b then (a, fl)
  else if fkey a < fkey b then (b, 0)
  else if fkey b < fkey a then (a, 0)
  else (if a.getLsbD 31 then b else a, 0)

/-- A signed integer × 2⁻ⁿ to binary32 (R93). -/
def fcvtSQ (a : Word) (n : Nat) : Res := packF (decide (a.toInt < 0)) a.toInt.natAbs (-(n : Int)) false

/-- binary32 × 2ⁿ to a signed integer, ties to even; a clip sets FINV, a NaN gives 0 and sets FINV (R93). -/
def fcvtQS (a : Word) (n : Nat) : Res :=
  match f32 a with
  | .nan _ => (0, flagFINV)
  | .inf s => (if s then ofI i32Min else ofI i32Max, flagFINV)
  | .fin s m e =>
    let e := e + n
    let r : Nat := if 0 ≤ e then m * 2 ^ e.toNat else (rne m (-e).toNat false).1
    let v : Int := if s then -(r : Int) else r
    if i32Max < v then (ofI i32Max, flagFINV) else if v < i32Min then (ofI i32Min, flagFINV) else (ofI v, 0)

/-- FEQ: 0 for a NaN; FINV only for a signalling NaN (R94). -/
def feq (a b : Word) : Res :=
  (bool32 (!isNaN a && !isNaN b && fkey a == fkey b), if isSNaN a || isSNaN b then flagFINV else 0)

/-- FLT: 0 and FINV for a NaN (R94). -/
def flt (a b : Word) : Res :=
  if isNaN a || isNaN b then (0, flagFINV) else plain (bool32 (decide (fkey a < fkey b)))

/-- FLE: 0 and FINV for a NaN (R94). -/
def fle (a b : Word) : Res :=
  if isNaN a || isNaN b then (0, flagFINV) else plain (bool32 (decide (fkey a ≤ fkey b)))

/-- FUN: 1 for a NaN; FINV only for a signalling NaN (R94). -/
def funord (a b : Word) : Res :=
  (bool32 (isNaN a || isNaN b), if isSNaN a || isSNaN b then flagFINV else 0)

end Sys2Proof.Machine
end

