-- ==== Sys2Proof/Machine/SlvData.lean ====
section
/-! DEFINITION. The solver's data in memory: model images, range plans, parameter blocks and arrays, their sizes and their checks
(R227 to R247, R254 to R257, R265). -/

namespace Sys2Proof.Machine

/-- Byte i of a digest: byte 0 is the least significant of `sha3`. -/
def sha3Bytes (bs : List Byte) : List Byte := leBytes 32 (sha3 bs).toNat

/-- Bytes `o` to `o + n - 1` are present and all 0. -/
def zeroAt (bs : List Byte) (o n : Nat) : Bool := ((bs.drop o).take n).all fun b => b == 0

/-- Replace `n` bytes at `o` by zeros. -/
def blank (bs : List Byte) (o n : Nat) : List Byte :=
  bs.take o ++ List.replicate (min n (bs.length - o)) 0 ++ bs.drop (o + n)

/-- A field of a block in memory as its CRC covers it (R51): the CRC-32 over the first `n` bytes is the field at `n`. -/
def crcOk (bs : List Byte) (n : Nat) : Bool := (crc32 (bs.take n)).toNat == leAt bs n 4

/-- The binary32 word at an offset. -/
def wordAt (bs : List Byte) (o : Nat) : Word := BitVec.ofNat 32 (leAt bs o 4)

/-- A finite word as an integer multiple of 2⁻¹⁴⁹. -/
def fScaled (w : Word) : Int :=
  match f32 w with
  | .fin neg m e => if neg then -((m * 2 ^ (e + 149).toNat : Nat) : Int) else ((m * 2 ^ (e + 149).toNat : Nat) : Int)
  | _ => 0

/-- A binary32 word is finite. -/
def isFinite (w : Word) : Bool := getBits w 23 8 != 255

/-- Finite and within Q31.32 after rounding to nearest (R226, R235). -/
def inQ31_32 (w : Word) : Bool :=
  isFinite w && decide (-(2 ^ 63 : Int) * 2 ^ 117 - 2 ^ 116 ≤ fScaled w) && decide (fScaled w < (2 ^ 63 - 1 : Int) * 2 ^ 117 + 2 ^ 116)

/-- A positive finite word within Q31.32. -/
def positiveQ (w : Word) : Bool := inQ31_32 w && decide (0 < fScaled w)

/-! ## The model image (R227 to R235) -/

/-- Header fields of R227. -/
def mSize (m : List Byte) : Nat := leAt m 0x08 4
def mNode (m : List Byte) : Nat := leAt m 0x0C 4
def mElem (m : List Byte) : Nat := leAt m 0x10 4
def mMdef (m : List Byte) : Nat := leAt m 0x14 4
def mParam (m : List Byte) : Nat := leAt m 0x18 4
def mU (m : List Byte) : Nat := leAt m 0x1C 4
def mUnk (m : List Byte) : Nat := leAt m 0x20 4
def mLink (m : List Byte) : Nat := leAt m 0x24 4
def mHash (m : List Byte) : List Byte := (m.drop 0x48).take 32
def mOffNode (m : List Byte) : Nat := leAt m 0x68 4
def mOffElem (m : List Byte) : Nat := leAt m 0x6C 4
def mOffMdef (m : List Byte) : Nat := leAt m 0x70 4
def mOffStruct (m : List Byte) : Nat := leAt m 0x74 4

/-- A structure plan of R231, at an offset of a byte list: header, permutation, supernodes, rows. -/
def plLoc (p : List Byte) : Nat := leAt p 0 4
def plSn (p : List Byte) : Nat := leAt p 4 4
def plRows (p : List Byte) : Nat := leAt p 8 4
def plPerm (p : List Byte) (k : Nat) : Nat := leAt p (16 + 2 * k) 2
def plSnOff (p : List Byte) : Nat := 16 + (2 * plLoc p + 7) / 8 * 8
def plFirst (p : List Byte) (k : Nat) : Nat := leAt p (plSnOff p + 16 * k) 2
def plCols (p : List Byte) (k : Nat) : Nat := leAt p (plSnOff p + 16 * k + 2) 2
def plNrow (p : List Byte) (k : Nat) : Nat := leAt p (plSnOff p + 16 * k + 4) 4
def plRowOff (p : List Byte) (k : Nat) : Nat := leAt p (plSnOff p + 16 * k + 8) 4
def plParent (p : List Byte) (k : Nat) : Nat := leAt p (plSnOff p + 16 * k + 12) 2
def plRow (p : List Byte) (j : Nat) : Nat := leAt p (plSnOff p + 16 * plSn p + 2 * j) 2

/-- Bytes of a structure plan. Log entry 30 (DEDUCED). -/
def planSize (p : List Byte) : Nat := plSnOff p + 16 * plSn p + 2 * plRows p

/-- The first offset at which a check fails, of the indices below `n`. -/
def failAt (n : Nat) (ok : Nat → Bool) (pos : Nat → Nat) : Option Nat := ((upto n).find? fun k => !ok k).map pos

/-- The first failure of a list of checks. Log entry 35 (DEDUCED). -/
def firstSome : List (Option Nat) → Option Nat
  | [] => none
  | some x :: _ => some x
  | none :: t => firstSome t

/-- A check of one field. -/
def need (ok : Bool) (pos : Nat) : Option Nat := if ok then none else some pos

/-- Sections do not overlap. -/
def apart (a n b k : Nat) : Bool := a + n ≤ b || b + k ≤ a

/-- An ancestor of supernode `k` holds position `r` among its columns. -/
def inAncestor (p : List Byte) (r : Nat) : Nat → Nat → Bool
  | 0, _ => false
  | fuel + 1, k =>
    let q := plParent p k
    if plSn p ≤ q then false
    else (plFirst p q ≤ r && r < plFirst p q + plCols p q) || inAncestor p r fuel q

/-- What R231 asks of supernode `k`: its first rows are its own columns, its rows ascend, and every other row lies in an ancestor;
supernodes follow one another in position. -/
def snOk (p : List Byte) (k : Nat) : Bool :=
  let o := plRowOff p k
  plCols p k ≤ plNrow p k && o + plNrow p k ≤ plRows p &&
  (upto (plCols p k)).all (fun j => plRow p (o + j) == plFirst p k + j) &&
  (upto (plNrow p k - 1)).all (fun j => plRow p (o + j) < plRow p (o + j + 1)) &&
  (upto (plNrow p k - plCols p k)).all (fun j => inAncestor p (plRow p (o + plCols p k + j)) (plSn p) k) &&
  (plParent p k == 0xFFFF || (k < plParent p k && plParent p k < plSn p)) &&
  plFirst p k == (if k = 0 then 0 else plFirst p (k - 1) + plCols p (k - 1))

/-- A permutation of the numbers below `n`. -/
def isPerm (p : List Byte) (n : Nat) : Bool :=
  (upto n).all (fun k => plPerm p k < n) && (upto n).all fun v => (upto n).any fun k => plPerm p k == v

/-- The checks of R235 in their order: result code and image offset of the first failure. `m` is the image. Log entry 30 (DEDUCED). -/
def modelCheck (m : List Byte) : Nat × Nat :=
  let nd (k : Nat) := mOffNode m + 16 * k
  let el (k : Nat) := mOffElem m + 64 * k
  let md (k : Nat) := mOffMdef m + 16 * k
  let p := m.drop (mOffStruct m)
  let loc := mUnk m - mLink m
  let none4 := 0xFFFFFFFF
  let inOr (v lim nil : Nat) : Bool := v < lim || v == nil
  let badMagic := need (leAt m 0 4 == 0x4C444D5A) 0
  let badFormat := firstSome
    [need (leAt m 4 4 == 1) 4, need (1 ≤ mNode m && mNode m ≤ 32768) 0x0C, need (1 ≤ mElem m && mElem m ≤ 32768) 0x10,
     need (mMdef m ≤ 262144) 0x14, need (mParam m ≤ 8192) 0x18, need (mU m ≤ 65535) 0x1C, need (1 ≤ mUnk m && mUnk m ≤ 32768) 0x20,
     need (mLink m ≤ 2048 && mLink m ≤ mUnk m) 0x24, need (1000 ≤ leAt m 0x28 4 && leAt m 0x28 4 ≤ 3600000000) 0x28,
     need (zeroAt m 0x78 8) 0x78,
     failAt (mNode m) (fun k => leAt m (nd k + 10) 2 == 0) nd,
     failAt (mElem m) (fun k => leAt m (el k + 1) 1 == 0 && leAt m (el k + 3) 1 == 0 && leAt m (el k + 28) 4 == 0) el,
     failAt (mMdef m) (fun k => leAt m (md k + 10) 2 == 0) md,
     need (leAt p 12 4 == 0) (mOffStruct m + 12),
     failAt (plSn p) (fun k => leAt p (plSnOff p + 16 * k + 14) 2 == 0) (fun k => mOffStruct m + plSnOff p + 16 * k)]
  let secs := [(mOffNode m, 16 * mNode m), (mOffElem m, 64 * mElem m), (mOffMdef m, 16 * mMdef m), (mOffStruct m, planSize p)]
  let section_ := firstSome
    [failAt 4 (fun i => let (o, n) := secs.getD i (0, 0)
        o % 8 == 0 && 128 ≤ o && o + n ≤ mSize m &&
        (upto 4).all fun j => i == j || let (b, k) := secs.getD j (0, 0); apart o n b k) (fun i => 0x68 + 4 * i),
     need (sha3Bytes (blank (m.take (mSize m)) 0x48 32) == mHash m) 0x48]
  let unk (v : Nat) := v < mUnk m
  let elemIdx (k : Nat) : Bool :=
    let ty := leAt m (el k) 1
    let mi := leAt m (el k + 12) 4
    let ti := leAt m (el k + 16) 4
    let ui := leAt m (el k + 24) 4
    leAt m (el k + 4) 4 < mNode m && leAt m (el k + 8) 4 < mNode m && unk mi &&
    (if ty = 0 then unk ti else if ty = 4 then ti + leAt m (el k + 2) 1 ≤ mUnk m else if 4 < ty then inOr ti (mUnk m) none4 else ti == none4) &&
    inOr (leAt m (el k + 20) 4) (mParam m) none4 &&
    (if ty = 1 || ty = 2 || ty = 3 then ui < mU m else if 4 < ty then inOr ui (mU m) none4 else ui == none4)
  let badIndex := firstSome
    [failAt (mNode m) (fun k => unk (leAt m (nd k) 2) && unk (leAt m (nd k + 2) 2) &&
        (upto 3).all fun j => inOr (leAt m (nd k + 4 + 2 * j) 2) (mU m) 0xFFFF) nd,
     failAt (mElem m) elemIdx el,
     failAt (mMdef m) (fun k => unk (leAt m (md k) 2) && (leAt m (md k + 8) 1 == 0 || unk (leAt m (md k + 2) 2)) &&
        (leAt m (md k + 8) 1 != 2 || unk (leAt m (md k + 4) 2)) && inOr (leAt m (md k + 6) 2) (mParam m) 0xFFFF) md]
  let badType := firstSome
    [failAt (mElem m) (fun k => leAt m (el k) 1 ≤ 4 &&
        (leAt m (el k) 1 != 4 || (2 ≤ leAt m (el k + 2) 1 && leAt m (el k + 2) 1 ≤ 16))) el,
     failAt (mMdef m) (fun k => leAt m (md k + 8) 1 ≤ 2) md]
  let coeff := firstSome
    [failAt 3 (fun j => inQ31_32 (wordAt m (0x2C + 4 * j))) (fun j => 0x2C + 4 * j),
     failAt 4 (fun j => positiveQ (wordAt m (0x38 + 4 * j))) (fun j => 0x38 + 4 * j),
     failAt (mNode m) (fun k => inQ31_32 (wordAt m (nd k + 12))) nd,
     failAt (mElem m) (fun k => (upto 8).all fun j => inQ31_32 (wordAt m (el k + 32 + 4 * j))) el,
     failAt (mMdef m) (fun k => positiveQ (wordAt m (md k + 12))) md]
  let badPlan := firstSome
    [need (plLoc p == loc && isPerm p loc) (mOffStruct m), failAt (plSn p) (fun k => snOk p k) (fun k => mOffStruct m + plSnOff p + 16 * k),
     need ((if plSn p = 0 then 0 else plFirst p (plSn p - 1) + plCols p (plSn p - 1)) == loc) (mOffStruct m)]
  let local_ (v : Nat) := v < loc
  let link := firstSome
    [failAt (mNode m) (fun k => local_ (leAt m (nd k) 2) && local_ (leAt m (nd k + 2) 2)) nd,
     failAt (mElem m) (fun k =>
        let ti := leAt m (el k + 16) 4
        local_ (leAt m (el k + 12) 4) &&
        (if leAt m (el k) 1 = 4 then loc ≤ ti else if leAt m (el k) 1 = 0 then local_ ti else true)) el,
     need (mParam m + 16 * mLink m ≤ 12288) 0x24]
  let tooBig := need (Config.modelKib m ≤ 8192) 0
  match badMagic with
  | some x => (1, x)
  | none => match badFormat with
    | some x => (2, x)
    | none => match section_ with
      | some x => (3, x)
      | none => match badIndex with
        | some x => (4, x)
        | none => match badType with
          | some x => (5, x)
          | none => match coeff with
            | some x => (6, x)
            | none => match badPlan with
              | some x => (7, x)
              | none => match link with
                | some x => (8, x)
                | none => match tooBig with
                  | some x => (9, x)
                  | none => (0, 0)

/-! ## Parameter blocks (R236, R244, R255) -/

/-- MAGIC of a parameter block by KIND: 0 EST, 1 LSQ, 2 DSP, 3 FAC. -/
def jobMagic (kind : Nat) : Nat :=
  if kind = 0 then 0x5453455A else if kind = 1 then 0x51534C5A else if kind = 2 then 0x5053445A else 0x4341465A

/-- Bytes of a parameter block by KIND. -/
def paramSize (kind : Nat) : Nat := if kind ≤ 1 then 128 else 192

/-- A 40-bit address in a quadword. -/
def addrAt (p : List Byte) (o : Nat) : Nat := leAt p o 5

/-- Where the addresses of a block stand: RPLAN, OUT, SCRATCH and SCRATCH_SIZE. -/
def offRplan (kind : Nat) : Nat := if kind = 0 then 0x10 else if kind = 1 then 0x18 else 0x30
def offOut (kind : Nat) : Nat := if kind = 0 then 0x30 else if kind = 1 then 0x28 else 0x40
def offScratch (kind : Nat) : Nat := if kind = 0 then 0x38 else if kind = 1 then 0x30 else 0x48
def offScratchSize (kind : Nat) : Nat := if kind = 0 then 0x48 else if kind = 1 then 0x38 else 0x50

/-- The flags every kind has, where the kind puts them. -/
def pFlag (p : List Byte) (n : Nat) : Bool := (leAt p 4 4).testBit n
def rangeRetry (kind : Nat) (p : List Byte) : Bool := if kind = 0 then pFlag p 1 else pFlag p 2
def rreport (kind : Nat) (p : List Byte) : Bool := if kind ≤ 1 then pFlag p 4 else pFlag p 3
def retryMax (kind : Nat) (p : List Byte) : Nat := if kind = 0 then leAt p 0x52 1 else if kind = 1 then leAt p 0x4B 1 else leAt p 0x7A 1
def rangeStep (kind : Nat) (p : List Byte) : Nat := if kind = 0 then leAt p 0x53 1 else if kind = 1 then leAt p 0x4C 1 else leAt p 0x7B 1
def pivotMax (kind : Nat) (p : List Byte) : Nat := if kind = 0 then leAt p 0x64 2 else leAt p 0x78 2

/-- EST fields of R236. -/
def estModel (p : List Byte) : Nat := addrAt p 0x08
def estData (p : List Byte) : Nat := addrAt p 0x18
def estInit (p : List Byte) : Nat := addrAt p 0x20
def estHist (p : List Byte) : Nat := addrAt p 0x28
def estFrames (p : List Byte) : Nat := leAt p 0x50 1
def estFrame0 (p : List Byte) : Nat := leAt p 0x4C 4

/-- LSQ fields of R244. -/
def lsqM (p : List Byte) : Nat := leAt p 0x3C 4
def lsqN (p : List Byte) : Nat := leAt p 0x40 4
def lsqNnz (p : List Byte) : Nat := leAt p 0x44 4
def lsqShared (p : List Byte) : Nat := leAt p 0x48 2

/-- DSP and FAC fields of R255. -/
def qpN (p : List Byte) : Nat := leAt p 0x54 4
def qpM (p : List Byte) : Nat := leAt p 0x58 4
def qpNnzP (p : List Byte) : Nat := leAt p 0x5C 4
def qpNnzA (p : List Byte) : Nat := leAt p 0x60 4
def qpSlot (p : List Byte) : Nat := leAt p 0x67 1

/-- The upper 24 bits of quadwords hold 0. -/
def quadsOk (p : List Byte) (o n : Nat) : Bool := (upto n).all fun k => zeroAt p (o + 8 * k + 5) 3

/-- A value lies in a range. -/
def within (lo hi : Int) (v : Int) : Bool := decide (lo ≤ v) && decide (v ≤ hi)

/-- BAD_PARAM (R247, R268): MAGIC of the kind, CHK, ranges and reserved fields. -/
def paramOk (kind : Nat) (p : List Byte) : Bool :=
  let u (o n : Nat) (lo hi : Nat) : Bool := lo ≤ leAt p o n && leAt p o n ≤ hi
  leAt p 0 4 == jobMagic kind && crcOk p (paramSize kind - 4) &&
  (if kind = 0 then
     leAt p 4 4 / 32 == 0 && quadsOk p 0x08 7 && zeroAt p 0x40 8 && u 0x50 1 1 16 && u 0x51 1 1 64 && u 0x52 1 0 7 && u 0x53 1 1 8 &&
     within (-30) 30 (leAtS p 0x54 1) && u 0x55 1 1 8 && u 0x56 1 1 8 && u 0x57 1 0 6 && u 0x60 4 1 0x7FFFFFFF && zeroAt p 0x66 22
   else if kind = 1 then
     (leAt p 4 4).testBit 3 == false && leAt p 4 4 / 32 == 0 && quadsOk p 0x08 6 && u 0x3C 4 1 4194304 && u 0x40 4 1 262144 &&
     u 0x44 4 0 33554432 && u 0x48 2 0 8192 && (leAtS p 0x4A 1 == -128 || within (-60) 60 (leAtS p 0x4A 1)) &&
     u 0x4B 1 0 7 && u 0x4C 1 1 8 && zeroAt p 0x4D 47
   else
     leAt p 4 4 / 16 == 0 && quadsOk p 0x08 9 && u 0x54 4 1 65536 && u 0x58 4 1 262144 && u 0x5C 4 0 4194304 && u 0x60 4 1 8388608 &&
     (kind == 3 || (u 0x64 2 1 65535 && u 0x66 1 1 255 && u 0x6B 1 128 240)) && u 0x67 1 0 3 && within (-20) 20 (leAtS p 0x68 1) &&
     u 0x69 1 0 15 && within (-40) 0 (leAtS p 0x6A 1) && u 0x74 4 1 0x7FFFFFFF && u 0x7A 1 0 7 && u 0x7B 1 1 8 && zeroAt p 0x80 60)

/-! ## Range plans (R246, R257) -/

def rpSize (r : List Byte) : Nat := leAt r 8 4
def rpKind (r : List Byte) : Nat := leAt r 12 1
def rpMhash (r : List Byte) : List Byte := (r.drop 0x10).take 32
def rpCblk (r : List Byte) : Nat := leAt r 0x30 2
def rpSn (r : List Byte) : Nat := leAt r 0x32 2
def rpCls (r : List Byte) : Nat := leAt r 0x34 2
def rpSblk (r : List Byte) : Nat := leAt r 0x36 2

/-- Offsets of the entries of a range plan. -/
def offCblk (k : Nat) : Nat := 64 + 12 * k
def offSn (r : List Byte) (k : Nat) : Nat := 64 + 12 * rpCblk r + 4 * k
def offCls (r : List Byte) (k : Nat) : Nat := offSn r (rpSn r) + 4 * k
def offSblk (r : List Byte) (k : Nat) : Nat := offCls r (rpCls r) + 12 * k

/-- The FRAC bytes of a plan in plan order: offsets. -/
def fracOffs (r : List Byte) : List Nat :=
  (upto (rpCblk r)).flatMap (fun k => (upto 5).map fun j => offCblk k + 4 + j) ++
  (upto (rpSn r)).flatMap (fun k => (upto 3).map fun j => offSn r k + j) ++
  (upto (rpCls r)).flatMap (fun k => (upto 3).map fun j => offCls r k + j) ++
  (upto (rpSblk r)).flatMap (fun k => (upto 6).map fun j => offSblk r k + 4 + j)

/-- Blocks cover 0 to `n - 1` in ascending order without gaps. -/
def covers (r : List Byte) (off : Nat → Nat) (cnt n : Nat) : Bool :=
  (upto cnt).all (fun k => leAt r (off k) 2 == (if k = 0 then 0 else leAt r (off (k - 1)) 2 + leAt r (off (k - 1) + 2) 2) &&
    1 ≤ leAt r (off k + 2) 2) &&
  (if cnt = 0 then n == 0 else leAt r (off (cnt - 1)) 2 + leAt r (off (cnt - 1) + 2) 2 == n)

/-- BAD_PLAN (R247): MAGIC, FORMAT, CHK, FRAC ranges and coverage; `cols` columns, `shared` shared indices, `sn`
supernodes and the classes named. -/
def rplanOk (r : List Byte) (cols shared sn : Nat) (classes : List Nat) : Bool :=
  leAt r 0 4 == 0x4E4C505A && leAt r 4 4 == 1 && rpSize r == r.length && (crc32 (blank r 0x3C 4)).toNat == leAt r 0x3C 4 &&
  within (-16) 62 (leAtS r 13 1) &&
  (fracOffs r).all (fun o => within (-16) 62 (leAtS r o 1)) &&
  covers r offCblk (rpCblk r) cols && covers r (offSblk r) (rpSblk r) shared && rpSn r == sn && classes.all fun c => c < rpCls r

/-- The FRAC of a format by KIND and BLOCK of R248: column blocks are numbered before shared blocks. COST is FRAC_COST. -/
def fracOf (r : List Byte) (kind block : Nat) : Int :=
  let blk (j : Nat) := if block < rpCblk r then leAtS r (offCblk block + 4 + j) 1 else leAtS r (offSblk r (block - rpCblk r) + 4 + j) 1
  if kind ≤ 3 then blk kind
  else if kind ≤ 6 then leAtS r (offSn r block + (kind - 4)) 1
  else if kind ≤ 9 then leAtS r (offCls r block + (kind - 7)) 1
  else if kind = 10 then leAtS r (offSblk r block + 9) 1
  else leAtS r 13 1

/-! ## Sizes of results (R242, R245, R260, R273) -/

/-- Bytes of the range report: one for each FRAC entry of the plan (R250). -/
def reportLen (kind : Nat) (p r : List Byte) : Nat := if rreport kind p && kind != 3 then (fracOffs r).length else 0

/-- Words of the vectors of a result. `m` is the model. -/
def vecWords (kind : Nat) (p m : List Byte) : Nat :=
  if kind = 0 then
    mParam m + (if pFlag p 2 then estFrames p else 1) * mUnk m + (if pFlag p 3 then mMdef m else 0)
  else if kind = 1 then lsqN p + lsqShared p
  else if kind = 2 then qpN p + 2 * qpM p
  else 0

/-- B of R273: header, vectors, report, history slot and window words. -/
def outcomeBytes (kind : Nat) (p r m : List Byte) (rdLen : Nat) : Nat :=
  64 + 4 * vecWords kind p m + reportLen kind p r + (if kind = 0 && estHist p ≠ 0 then 4 + 4 * mNode m else 0) + 4 * rdLen

/-! ## The arrays of a quadratic programme (R256, R261) -/

/-- Column pointers from 0 to `nnz`, ascending. -/
def ptrsOk (a : List Byte) (n nnz : Nat) : Bool :=
  leAt a 0 4 == 0 && leAt a (4 * n) 4 == nnz && (upto n).all fun k => leAt a (4 * k) 4 ≤ leAt a (4 * k + 4) 4

/-- Every row index of column `c` satisfies a test. -/
def rowsOk (a : List Byte) (n : Nat) (ok : Nat → Nat → Bool) : Bool :=
  (upto n).all fun c =>
    let lo := leAt a (4 * c) 4
    (upto (leAt a (4 * c + 4) 4 - lo)).all fun j => ok (leAt a (4 * (n + 1) + 4 * (lo + j)) 4) c

/-- Bytes of a compressed sparse column array. -/
def cscSize (n nnz : Nat) : Nat := 4 * (n + 1) + 8 * nnz

/-- A lower bound lies above an upper one (R256: the two infinities). -/
def boundsCross (lu : List Byte) (i : Nat) : Bool :=
  let l := leAtS lu (12 * i) 4
  let u := leAtS lu (12 * i + 4) 4
  l != -(2 ^ 31) && u != 2 ^ 31 - 1 && decide (u < l)

/-- What R231 asks of a structure plan over `loc` unknowns: a permutation of them, and supernodes that follow one another and cover them. -/
def structOk (p : List Byte) (loc : Nat) : Bool :=
  plLoc p == loc && isPerm p loc && (upto (plSn p)).all (snOk p) &&
  (if plSn p = 0 then 0 else plFirst p (plSn p - 1) + plCols p (plSn p - 1)) == loc

/-- BAD_QP (R256, R268). -/
def qpOk (p pa aa lu st : List Byte) : Bool :=
  structOk st (qpN p + qpM p) && ptrsOk pa (qpN p) (qpNnzP p) && rowsOk pa (qpN p) (fun r c => r ≤ c) && ptrsOk aa (qpN p) (qpNnzA p) &&
  rowsOk aa (qpN p) (fun r _ => r < qpM p) && (upto (qpM p)).all fun i => !boundsCross lu i && zeroAt lu (12 * i + 9) 3

/-- Row i is an equality row (R254): both bounds finite and equal. -/
def eqRow (lu : List Byte) (i : Nat) : Bool :=
  leAtS lu (12 * i) 4 == leAtS lu (12 * i + 4) 4 && leAtS lu (12 * i) 4 != -(2 ^ 31) && leAtS lu (12 * i + 4) 4 != 2 ^ 31 - 1

/-- One bit per row marking equality rows, eight to a byte, row 0 first (R261). Log entry 31 (DEDUCED). -/
def eqBits (lu : List Byte) (m : Nat) : List Byte :=
  (upto ((m + 7) / 8)).map fun k => BitVec.ofNat 8 ((upto 8).foldl (fun x j =>
    let i := 8 * k + j
    if i < m && eqRow lu i then x + 2 ^ j else x) 0)

/-- The KEY of a factor (R261). Log entry 31 (DEDUCED). -/
def factorKey (p pa aa lu st : List Byte) : Nat :=
  leNat ((sha3Bytes ((p.drop 0x54).take 8 ++ (p.drop 0x68).take 3 ++ pa ++ aa ++ eqBits lu (qpM p) ++ st)).take 8)

end Sys2Proof.Machine
end

