-- ==== Sys2Proof/Machine/SlvMath.lean ====
section
/-! DEFINITION. The solver's arithmetic (R224 to R226, R229, R230, R233, R234, R238, R239, R241, R245, R248, R250, R254, R258, R259): formats
and writebacks, model evaluation with its derivatives, whitened rows, the bordered factorisation, and the iterations of EST, LSQ and DSP jobs.
Accumulators are exact and are rational numbers here. -/

namespace Sys2Proof.Machine

/-! ## Exceptions and what a calculation leaves (R248, R250) -/

/-- A range exception as SLV_RANGE_INFO names it (R248). -/
structure RangeExc where
  phase : Nat
  kind : Nat
  block : Nat
  need : Nat
  deriving DecidableEq, Repr

/-- What a calculation leaves besides its result: the most magnitude bits written by KIND and BLOCK (R250), pivots replaced (R241), and
whether a delay reached past the history (R233). -/
structure Tr where
  mags : List ((Nat × Nat) × Nat) := []
  pivots : Nat := 0
  histShort : Bool := false
  deriving DecidableEq, Repr

/-- A calculation: it ends in a value or at its first range exception. Log entry 80 (DESIGN CHOICE). -/
abbrev Calc (α : Type) := ExceptT RangeExc (StateM Tr) α

/-- The phase of an exception that has not met its phase yet. -/
def noPhase : Nat := 15

/-- Give the exceptions of a calculation their phase. -/
def inPhase {α : Type} (ph : Nat) (c : Calc α) : Calc α :=
  ExceptT.adapt (fun e => { e with phase := if e.phase = noPhase then ph else e.phase }) c

/-- A range exception of a kind. -/
def excess {α : Type} (kind block need : Nat) : Calc α := throw ⟨noPhase, kind, block, need⟩

/-! ## Formats (R224, R225, R246) -/

/-- 2 to an integer power. -/
def pow2 (k : Int) : Rat := if 0 ≤ k then ((2 ^ k.toNat : Nat) : Rat) else mkRat 1 (2 ^ (-k).toNat)

/-- Round to nearest, ties toward +∞ (R92, R225). -/
def roundUp (x : Rat) : Int := (x + mkRat 1 2).floor

/-- Magnitude bits of a two's complement number (R248, R250): 31 for every value that fits in 32 bits only just. -/
def magBits (n : Int) : Nat := bitLen (if 0 ≤ n then n.toNat else (-n - 1).toNat)

/-- A job's working copy of its range plan: the plan, and the bits by which formats were lowered, by KIND and BLOCK (R249). -/
structure Plan where
  r : List Byte
  low : List ((Nat × Nat) × Nat)

/-- The working format of a kind in a block. -/
def Plan.frac (w : Plan) (kind block : Nat) : Int :=
  fracOf w.r kind block - (((w.low.find? fun x => x.1 == (kind, block)).map Prod.snd).getD 0 : Nat)

/-- The value of a raw number (R224). -/
def Plan.val (w : Plan) (kind block : Nat) (v : Int) : Rat := v * pow2 (-(w.frac kind block))

/-- The value of a raw number of an input, which stands in the format of the plan in memory whatever has been widened (R237, R244, R249). -/
def Plan.given (w : Plan) (kind block : Nat) (v : Int) : Rat := v * pow2 (-(fracOf w.r kind block))

/-- Note the magnitude of a raw number written in a format (R250). -/
def noteMag (kind block bits : Nat) (t : Tr) : Tr :=
  let had := ((t.mags.find? fun x => x.1 == (kind, block)).map Prod.snd).getD 0
  { t with mags := ((kind, block), max had bits) :: t.mags.filter fun x => x.1 != (kind, block) }

/-- A value shifted to a format and rounded; a saturation is a range exception (R225, R248). -/
def Plan.fit (w : Plan) (kind block : Nat) (x : Rat) : Calc Int :=
  let n := roundUp (x * pow2 (w.frac kind block))
  if 31 < magBits n then excess kind block (magBits n - 31) else return n

/-- A raw number written in a format: its magnitude is noted (R250). -/
def Plan.written (kind block : Nat) (n : Int) : Calc Unit := modify (noteMag kind block (magBits n))

/-- A writeback (R225, R248). Log entry 80 (DESIGN CHOICE). -/
def Plan.put (w : Plan) (kind block : Nat) (x : Rat) : Calc Int := do
  let n ← w.fit kind block x
  Plan.written kind block n
  return n

/-- A writeback's value. -/
def Plan.putV (w : Plan) (kind block : Nat) (x : Rat) : Calc Rat := do return w.val kind block (← w.put kind block x)

/-- The block of a plan that holds an index. -/
def blockIn (r : List Byte) (off : Nat → Nat) (cnt c : Nat) : Nat := ((upto cnt).find? fun k => decide (c < leAt r (off k) 2 + leAt r (off k + 2) 2)).getD 0

/-- The block of a column: the local unknowns stand first, the shared indices from `loc` on; column blocks are numbered before shared ones. -/
def Plan.blockOf (w : Plan) (loc c : Nat) : Nat :=
  if c < loc then blockIn w.r offCblk (rpCblk w.r) c else rpCblk w.r + blockIn w.r (offSblk w.r) (rpSblk w.r) (c - loc)

/-- FRAC_P of a block. -/
def Plan.fracP (w : Plan) (block : Nat) : Int :=
  if block < rpCblk w.r then leAtS w.r (offCblk block + 8) 1 else leAtS w.r (offSblk w.r (block - rpCblk w.r) + 8) 1

/-! ## Q31.32 and the function unit (R226) -/

/-- An internal result (R226): a saturation is a range exception of kind MODEL. -/
def qPut (n : Int) : Calc Int := if 63 < magBits n then excess 12 0 (magBits n - 63) else return n

/-- A conversion to Q31.32, to nearest (R226). -/
def toQ (x : Rat) : Calc Int := qPut (roundUp (x * pow2 32))

/-- An open number brought within Q31.32. -/
def clampQ (n : Int) : Int := max (-(2 ^ 63)) (min (2 ^ 63 - 1) n)

/-- A binary32 number in Q31.32; what a NaN gives is open. Log entry 80 (DESIGN CHOICE). -/
def wordQ (w : Word) : Calc Int :=
  if isFinite w then toQ (mkRat (fScaled w) (2 ^ 149)) else if getBits w 0 23 = 0 then excess 12 0 255 else return clampQ (Config.nanQ w)

/-- A product in Q31.32; to which neighbour an inexact one goes is open. Log entry 80 (DESIGN CHOICE). -/
def qMul (a b : Int) : Calc Int := qPut (a * b / 2 ^ 32 + if a * b % 2 ^ 32 ≠ 0 && Config.qUp (a * b) then 1 else 0)

/-- A factor within 2⁻³⁰ of 1: the error of the function unit, open within its bound (R226). 0 reciprocal, 1 square root, 2 exponential. -/
def unitErr (fn : Nat) (x : Rat) : Rat := 1 + mkRat (max (-(2 ^ 30)) (min (2 ^ 30) (Config.unitErr fn x))) (2 ^ 60)

/-- A function unit's result in Q31.32, from the exact value. -/
def unitQ (fn : Nat) (a : Int) (exact : Rat) : Calc Int :=
  let v := exact * unitErr fn (mkRat a (2 ^ 32)) * pow2 32
  qPut (v.floor + if v.den ≠ 1 && Config.qUp a then 1 else 0)

/-- The reciprocal of a pivot (R226, R238); that of 0 saturates. -/
def unitRecip (d : Rat) : Calc Rat := if d = 0 then excess 12 0 255 else return d⁻¹ * unitErr 0 d

/-- The reciprocal of a Q31.32 number; that of 0 saturates. -/
def recipQ (a : Int) : Calc Int := if a = 0 then excess 12 0 255 else unitQ 0 a (mkRat (2 ^ 32) a.natAbs * (if a < 0 then -1 else 1))

/-- The integer square root of a number below 2¹⁹². -/
def isqrt (n : Nat) : Nat := (upto 96).foldl (fun r k => let c := r + 2 ^ (95 - k); if c * c ≤ n then c else r) 0

/-- The square root of a Q31.32 number, to 2⁻⁶⁴. -/
def sqrtQ (a : Int) : Calc Int := unitQ 1 a (mkRat (isqrt (a.toNat * 2 ^ 96)) (2 ^ 64))

/-- ln 2 in units of 2⁻⁹⁶. -/
def ln2F : Int := 54916777467707473351141471128

/-- e to the power of a number below ln 2, both in units of 2⁻⁹⁶. -/
def expSeries (r : Int) : Int :=
  ((upto 40).foldl (fun (s : Int × Int) (i : Nat) => let t := s.2 * r / (2 ^ 96 * ((i : Int) + 1)); (s.1 + t, t)) (2 ^ 96, 2 ^ 96)).1

/-- e to the power of a number in units of 2⁻⁹⁶, to 2⁻⁸⁰ of it where it lies within Q31.32. -/
def expF (x : Int) : Rat :=
  let k := x / ln2F
  mkRat (expSeries (x - k * ln2F)) (2 ^ 96) * pow2 (max (-100) (min 300 k))

/-- The exponential of a Q31.32 number. -/
def expQ (a : Int) : Calc Int := unitQ 2 a (expF (a * 2 ^ 64))

/-- The natural logarithm of a positive Q31.32 number in units of 2⁻⁹⁶. -/
def lnF (c : Int) : Int :=
  let e := bitLen c.toNat - 1
  let m : Int := c * 2 ^ (96 - e)
  let t := (m - 2 ^ 96) * 2 ^ 96 / (m + 2 ^ 96)
  let s := ((upto 32).foldl (fun (s : Int × Int) (i : Nat) => (s.1 + s.2 / (2 * (i : Int) + 1), s.2 * t / 2 ^ 96 * t / 2 ^ 96)) (0, t)).1
  ((e : Int) - 32) * ln2F + 2 * s

/-- C2 to the power x − 1 of a valve (R229), the base and x in Q31.32. Log entry 80 (DESIGN CHOICE). -/
def powQ (c x : Int) : Calc Int := unitQ 2 (x - 2 ^ 32) (expF ((x - 2 ^ 32) * lnF c / 2 ^ 32))

/-! ## Values with their derivatives (R234) -/

/-- A Q31.32 value with its derivatives by column. -/
structure Dual where
  v : Int
  d : List (Nat × Int) := []

def Dual.data (a : Dual) : Dual := ⟨a.v, []⟩
def Dual.scale (k : Int) (l : List (Nat × Int)) : Calc (List (Nat × Int)) := l.mapM fun x => do return (x.1, ← qMul x.2 k)
def Dual.add (a b : Dual) : Calc Dual := do return ⟨← qPut (a.v + b.v), a.d ++ b.d⟩
def Dual.neg (a : Dual) : Calc Dual := do return ⟨← qPut (-a.v), a.d.map fun x => (x.1, -x.2)⟩
def Dual.sub (a b : Dual) : Calc Dual := do return ⟨← qPut (a.v - b.v), a.d ++ b.d.map fun x => (x.1, -x.2)⟩
def Dual.mul (a b : Dual) : Calc Dual := do return ⟨← qMul a.v b.v, (← Dual.scale b.v a.d) ++ (← Dual.scale a.v b.d)⟩
def Dual.mulC (k : Int) (a : Dual) : Calc Dual := do return ⟨← qMul a.v k, ← Dual.scale k a.d⟩
def Dual.recip (a : Dual) : Calc Dual := do
  let r ← recipQ a.v
  return ⟨r, ← Dual.scale (-(← qMul r r)) a.d⟩
def Dual.sqrt (a : Dual) : Calc Dual := do
  let r ← sqrtQ a.v
  if a.d.isEmpty then return ⟨r, []⟩ else return ⟨r, ← Dual.scale (← recipQ (← qPut (2 * r))) a.d⟩
def Dual.exp (a : Dual) : Calc Dual := do
  let r ← expQ a.v
  return ⟨r, ← Dual.scale r a.d⟩

/-- 1 in Q31.32. -/
def qOne : Int := 2 ^ 32

/-- The derivatives of one row, one entry for each column. -/
def gather (d : List (Nat × Int)) : List (Nat × Int) :=
  d.foldl (fun l x => if l.any fun y => y.1 == x.1 then l.map fun y => if y.1 = x.1 then (y.1, y.2 + x.2) else y else l ++ [x]) []

/-! ## Whitened rows and normal equations (R234, R238) -/

/-- A whitened residual row: the residual and its derivatives by column. -/
structure White where
  r : Rat
  j : List (Nat × Rat)

/-- Whiten a row by its square-root weight: the residual in FRAC_R of its class, each derivative in FRAC_J of its column's block.
Log entry 80 (DESIGN CHOICE). -/
def Plan.whiten (w : Plan) (loc cls : Nat) (wt e : Rat) (d : List (Nat × Rat)) : Calc White := do
  let r ← w.putV 7 cls (wt * e)
  let j ← d.mapM fun x => do return (x.1, ← w.putV 3 (w.blockOf loc x.1) (wt * x.2))
  return ⟨r, j⟩

/-- A row's derivative by a column. -/
def White.at (x : White) (c : Nat) : Rat := x.j.foldl (fun a y => if y.1 = c then a + y.2 else a) 0

/-- An entry of the normal matrix, and of the negative gradient, exact. -/
def gram (l : List White) (a b : Nat) : Rat := l.foldl (fun n x => n + x.at a * x.at b) 0
def descent (l : List White) (c : Nat) : Rat := l.foldl (fun n x => n - x.r * x.at c) 0

/-- The sum of squared residuals. -/
def squares (l : List White) : Rat := l.foldl (fun n x => n + x.r * x.r) 0

/-! ## Factorisation and solution (R231, R238, R241) -/

/-- An entry of a column of L. -/
def LCol.at (c : LCol) (i : Nat) : Rat := ((c.l.find? fun x => x.1 == i).map Prod.snd).getD 0

/-- What a factorisation works on: the matrix by position, the rows of each column below its pivot, the formats of D and L by position as
KIND and BLOCK, PIV_MIN and whether it bounds the magnitude, and PIVOT_MAX. -/
structure Ldl where
  n : Nat
  k : Nat → Nat → Rat
  rows : Nat → List Nat
  fmtD : Nat → Nat × Nat
  fmtL : Nat → Nat × Nat
  pivMin : Option Nat
  magnitude : Bool
  pivMax : Nat

/-- The pivot after R241, and whether it was replaced; with a bound on the magnitude the pivot keeps its sign. Log entry 80 (DESIGN CHOICE). -/
def Ldl.pivot (f : Ldl) (n : Int) : Int × Bool :=
  match f.pivMin with
  | none => (n, false)
  | some m =>
    if f.magnitude then (if n.natAbs < m then ((if n < 0 then -(m : Int) else m), true) else (n, false))
    else if n < m then (m, true) else (n, false)

/-- Factor a matrix as L D Lᵀ, position by position; a replaced pivot is written as PIV_MIN only (R241, R250). Log entry 80 (DESIGN CHOICE). -/
def Ldl.factor (f : Ldl) (w : Plan) : Calc (List LCol) := do
  let x ← (upto f.n).foldlM (fun (s : List LCol × Nat) j => do
    let part (i : Nat) : Rat := s.1.foldl (fun a c => a - c.at i * c.at j * c.d) (f.k i j)
    let (kd, bd) := f.fmtD j
    let (kl, bl) := f.fmtL j
    let (p, fixed) := f.pivot (← w.fit kd bd (part j))
    Plan.written kd bd p
    if fixed then modify fun t => { t with pivots := t.pivots + 1 }
    let n := s.2 + (if fixed then 1 else 0)
    if f.pivMax < n then excess 13 bd 0
    let d := w.val kd bd p
    let l ← if (f.rows j).isEmpty then pure [] else do
      let r ← unitRecip d
      (f.rows j).mapM fun i => do return (i, ← w.putV kl bl (part i * r))
    return (s.1 ++ [⟨d, l⟩], n)) ([], 0)
  return x.1

/-- The forward solve: y with L y = b, each entry as `put` writes it. -/
def forwardSolve (cs : List LCol) (b : Nat → Rat) (put : Nat → Rat → Calc Rat) : Calc (List Rat) :=
  (upto cs.length).foldlM (fun ys j => do
    let y ← put j ((cs.zip ys).foldl (fun a x => a - x.1.at j * x.2) (b j))
    return ys ++ [y]) []

/-- The backward solve: x with D Lᵀ x = y. -/
def backSolve (cs : List LCol) (y : List Rat) (put : Nat → Rat → Calc Rat) : Calc (List Rat) :=
  (upto cs.length).reverse.foldlM (fun xs j => do
    let c := cs.getD j ⟨0, []⟩
    let r ← unitRecip c.d
    let x ← put j (c.l.foldl (fun a e => a - e.2 * xs.getD (e.1 - j - 1) 0) (y.getD j 0 * r))
    return x :: xs) []

/-- The supernode of a position of a structure plan, and the positions below the pivot of a column (R231). -/
def snOf (p : List Byte) (j : Nat) : Nat := ((upto (plSn p)).find? fun k => decide (j < plFirst p k + plCols p k)).getD 0
def belowOf (p : List Byte) (j : Nat) : List Nat :=
  let k := snOf p j
  ((upto (plNrow p k)).map fun i => plRow p (plRowOff p k + i)).filter fun i => decide (j < i)

/-- The position of an unknown. -/
def posOf (p : List Byte) (u : Nat) : Nat := ((upto (plLoc p)).find? fun k => plPerm p k == u).getD 0

/-- A bordered least-squares system at an iterate: local unknowns, shared unknowns, the structure plan, each frame's rows, the ridge 2^κ,
and the iterate's value by frame and column. -/
structure Normal where
  loc : Nat
  shared : Nat
  plan : List Byte
  frames : List (List White)
  ridge : Rat
  at_ : Nat → Nat → Rat

/-- A frame's H_t with its damping, by position. -/
def Normal.mat (q : Normal) (damp : Rat) (rows : List White) (i j : Nat) : Rat :=
  let h := gram rows (plPerm q.plan i) (plPerm q.plan j) + (if i = j then q.ridge else 0)
  if i = j then h + h * damp else h

/-- Solve a system (R238): frame_fac, schur, shared_fac and backsub. The steps of each frame's local unknowns and of the shared unknowns;
`piv`: PIV_MIN and PIVOT_MAX. Log entry 80 (DESIGN CHOICE). -/
def Normal.solve (q : Normal) (w : Plan) (piv : Option (Nat × Nat)) (damp : Rat) : Calc (List (List Rat) × List Rat) := do
  let p := q.plan
  let sh := upto q.shared
  let ldl (n : Nat) (k : Nat → Nat → Rat) (rows : Nat → List Nat) (fd fl : Nat → Nat × Nat) : Ldl :=
    ⟨n, k, rows, fd, fl, piv.map Prod.fst, false, (piv.map Prod.snd).getD 0⟩
  let sblk (s : Nat) : Nat := blockIn w.r (offSblk w.r) (rpSblk w.r) s
  let putY (j : Nat) (x : Rat) : Calc Rat := w.putV 6 (snOf p j) x
  let putG (t c : Nat) (x : Rat) : Calc Rat := w.putV 2 (w.blockOf q.loc c) (x - q.ridge * q.at_ t c)
  let gs ← inPhase 1 ((upto q.frames.length).mapM fun t => (upto q.loc).mapM fun c => putG t c (descent (q.frames.getD t []) c))
  let facs ← inPhase 2 (q.frames.mapM fun rows =>
    (ldl q.loc (q.mat damp rows) (belowOf p) (fun j => (5, snOf p j)) (fun j => (4, snOf p j))).factor w)
  let fs := q.frames.zip facs
  let ys ← inPhase 3 (fs.mapM fun x => sh.mapM fun s => forwardSolve x.2 (fun j => gram x.1 (plPerm p j) (q.loc + s)) putY)
  let yg ← inPhase 3 ((facs.zip gs).mapM fun x => forwardSolve x.1 (fun j => x.2.getD (plPerm p j) 0) putY)
  let inv ← inPhase 3 (facs.mapM fun cs => cs.mapM fun c => unitRecip c.d)
  let dot (t : Nat) (a b : List Rat) : Rat := ((a.zip b).zip (inv.getD t [])).foldl (fun n x => n + x.1.1 * x.1.2 * x.2) 0
  let frames := upto q.frames.length
  let yAt (t s : Nat) : List Rat := (ys.getD t []).getD s []
  let own (a b : Nat) : Rat := q.frames.foldl (fun n rows => n + gram rows (q.loc + a) (q.loc + b)) (if a = b then q.ridge else 0)
  let S ← inPhase 3 (sh.mapM fun j => sh.mapM fun i =>
    if i < j then pure 0 else w.putV 10 (sblk j) (frames.foldl (fun n t => n - dot t (yAt t i) (yAt t j)) (own i j)))
  let g ← inPhase 3 (sh.mapM fun s => putG 0 (q.loc + s)
    (frames.foldl (fun n t => n - dot t (yAt t s) (yg.getD t [])) (q.frames.foldl (fun n rows => n + descent rows (q.loc + s)) 0)))
  let sAt (i j : Nat) : Rat := let h := (S.getD j []).getD i 0; if i = j then h + h * damp else h
  let sfac ← inPhase 4 ((ldl q.shared sAt (fun j => sh.filter fun i => decide (j < i)) (fun j => (10, sblk j)) (fun j => (10, sblk j))).factor w)
  let dxs ← inPhase 5 (do
    let y ← forwardSolve sfac (fun j => g.getD j 0) fun _ x => pure x
    backSolve sfac y fun j x => w.putV 1 (w.blockOf q.loc (q.loc + j)) x)
  let dxt ← inPhase 5 ((fs.zip gs).mapM fun x => do
    let rhs (j : Nat) : Rat := (sh.zip dxs).foldl (fun n e => n - gram x.1.1 (plPerm p j) (q.loc + e.1) * e.2) (x.2.getD (plPerm p j) 0)
    let y ← forwardSolve x.1.2 rhs putY
    let d ← backSolve x.1.2 y fun j v => w.putV 1 (w.blockOf q.loc (plPerm p j)) v
    return (upto q.loc).map fun u => d.getD (posOf p u) 0)
  return (dxt, dxs)

/-- The largest of a list of steps in units of their states' resolution. -/
def maxUnits (w : Plan) (loc : Nat) (l : List (Nat × Rat)) : Rat :=
  l.foldl (fun n x => let u := x.2 * pow2 (w.frac 0 (w.blockOf loc x.1)); max n (max u (-u))) 0

/-! ## The network model (R229, R230, R233, R237) -/

/-- An EST job at an iterate: its blocks, its working plan and the iterate: the parameters, then the unknowns of each frame. -/
structure Est where
  p : List Byte
  m : List Byte
  d : List Byte
  i : List Byte
  h : List Byte
  w : Plan
  x : List Int

def Est.loc (e : Est) : Nat := mUnk e.m - mLink e.m
def Est.shared (e : Est) : Nat := mParam e.m + estFrames e.p * mLink e.m

/-- The column of an unknown of a frame (R232): local, or its shared index. -/
def Est.col (e : Est) (t u : Nat) : Nat := if u < e.loc then u else e.loc + mParam e.m + t * mLink e.m + (u - e.loc)

/-- The value of a raw state in its column's FRAC_X. -/
def Est.xval (e : Est) (c : Nat) (v : Int) : Rat := e.w.val 0 (e.w.blockOf e.loc c) v

/-- The value of a raw state of an input block: INIT means and the arrival history (R237, R243). -/
def Est.given (e : Est) (c : Nat) (v : Int) : Rat := e.w.given 0 (e.w.blockOf e.loc c) v

/-- An unknown of a frame, and a shared parameter (0 for none). -/
def Est.var (e : Est) (t u : Nat) : Calc Dual := do
  let c := e.col t u
  return ⟨← toQ (e.xval c (e.x.getD (mParam e.m + t * mUnk e.m + u) 0)), [(c, qOne)]⟩
def Est.param (e : Est) (k : Nat) : Calc Dual :=
  if mParam e.m ≤ k then pure ⟨0, []⟩
  else do return ⟨← toQ (e.xval (e.loc + k) (e.x.getD k 0)), [(e.loc + k, qOne)]⟩

/-- An input of a frame and a coefficient of the image. -/
def Est.input (e : Est) (t k : Nat) : Calc Dual := do
  return ⟨← wordQ (wordAt e.d (16 + t * (8 * mMdef e.m + 4 * mU e.m) + 8 * mMdef e.m + 4 * k)), []⟩
def Est.coef (e : Est) (o : Nat) : Calc Dual := do return ⟨← wordQ (wordAt e.m o), []⟩

/-- Fields of an element and of a node. -/
def Est.elem (e : Est) (k o n : Nat) : Nat := leAt e.m (mOffElem e.m + 64 * k + o) n
def Est.elemC (e : Est) (k j : Nat) : Calc Dual := e.coef (mOffElem e.m + 64 * k + 32 + 4 * j)
def Est.node (e : Est) (n o : Nat) : Nat := leAt e.m (mOffNode e.m + 16 * n + o) 2
def Est.nodeP (e : Est) (t n : Nat) : Calc Dual := e.var t (e.node n 0)
def Est.nodeT (e : Est) (t n : Nat) : Calc Dual := e.var t (e.node n 2)

/-- The flow m of an element and s(m). -/
def Est.flow (e : Est) (t k : Nat) : Calc (Dual × Dual) := do
  let m ← e.var t (e.elem k 12 4)
  let c ← e.elemC k 1
  return (m, ← (← (← m.mul m).add (← c.mul c)).sqrt)

/-- λ, and the mixture λ a + (1 − λ) b. -/
def lambda (m s : Dual) : Calc Dual := do (← (⟨qOne, []⟩ : Dual).add (← m.mul (← s.recip))).mulC (qOne / 2)
def mix (l a b : Dual) : Calc Dual := do (← l.mul a).add (← (← (⟨qOne, []⟩ : Dual).sub l).mul b)

/-- T_up of an element in a frame of the horizon. -/
def Est.tup (e : Est) (t k : Nat) : Calc Dual := do
  let (m, s) ← e.flow t k
  mix (← lambda m s) (← e.nodeT t (e.elem k 4 4)) (← e.nodeT t (e.elem k 8 4))

/-- The slot of the arrival history for a frame number, and whether the number lies before the oldest valid slot (R233): a slot is valid
where its FRAME_NO belongs there and is older than the horizon. Log entry 80 (DESIGN CHOICE). -/
def histSlot (h : List Byte) (nodes frame0 : Nat) (f : Int) : Option (Nat × Bool) :=
  let len := leAt h 8 4
  let pos (i : Nat) : Nat := 16 + i * (4 + 4 * nodes)
  let no (i : Nat) : Nat := leAt h (pos i) 4
  let valid := (upto len).filter fun i => no i % len == i && decide (no i < frame0)
  let best (l : List Nat) (better : Nat → Nat → Bool) : Option Nat := l.foldl (fun b i => match b with
    | none => some i
    | some k => if better (no i) (no k) then some i else b) none
  match best (valid.filter fun i => decide ((no i : Int) ≤ f)) fun a b => decide (b < a) with
  | some i => some (pos i, false)
  | none => (best valid fun a b => decide (a < b)).map fun i => (pos i, true)

/-- A node's temperature before the horizon (R233); with no valid slot it is open. Log entry 80 (DESIGN CHOICE). -/
def Est.histT (e : Est) (f : Int) (n : Nat) : Calc Dual :=
  match histSlot e.h (mNode e.m) (estFrame0 e.p) f with
  | some (o, short) => do
    if short then modify fun t => { t with histShort := true }
    return ⟨← toQ (e.given (e.col 0 (e.node n 2)) (leAtS e.h (o + 4 + 4 * n) 4)), []⟩
  | none => do
    modify fun t => { t with histShort := true }
    return ⟨clampQ (Config.histNone f n), []⟩

/-- T_up of an element at an earlier frame, as data: of the iterate within the horizon, of the arrival history before it, where the flow is
that of frame `t`. Log entry 80 (DESIGN CHOICE). -/
def Est.past (e : Est) (t k : Nat) (ago : Nat) (l : Dual) : Calc Dual :=
  if ago ≤ t then do return (← e.tup (t - ago) k).data
  else do
    let f : Int := (estFrame0 e.p : Int) + t - ago
    mix l.data (← e.histT f (e.elem k 4 4)) (← e.histT f (e.elem k 8 4))

/-- The outlet temperature of an element at NODE_B (`atB`) or NODE_A. -/
def Est.outlet (e : Est) (t k : Nat) (atB : Bool) : Calc Dual :=
  match e.elem k 0 1 with
  | 0 => e.var t (e.elem k 16 4)
  | 3 => e.input t (e.elem k 24 4)
  | 4 => e.var t (e.elem k 16 4 + (if atB then e.elem k 2 1 - 1 else 0))
  | _ => e.tup t k

/-- The thermal residual of a pipe with its transport delay (R229, R233): only the term on frame t carries derivatives. -/
def Est.pipeHeat (e : Est) (t k : Nat) (m s : Dual) : Calc Dual := do
  let c4 ← e.elemC k 4
  let rs ← s.recip
  let rho ← e.coef 0x2C
  let cp ← e.coef 0x30
  let delay ← (← rs.mul (← rho.mul (← e.elemC k 2))).mulC (← toQ (mkRat 1000000 (leAt e.m 0x28 4)))
  let n := (delay.v / 2 ^ 32).toNat
  let f : Dual := ⟨if delay.v < 0 then 0 else delay.v % 2 ^ 32, delay.d⟩
  let decay ← (← (← (← e.elemC k 3).mul (← (← s.mul cp).recip)).neg).exp
  let l ← lambda m s
  let newer ← if n = 0 then e.tup t k else e.past t k n l
  let older ← if f.v = 0 then pure newer.data else e.past t k (n + 1) l
  let near ← (← (← (⟨qOne, []⟩ : Dual).sub f).mul (← newer.sub c4)).mul decay
  let far ← (← f.data.mul (← older.sub c4)).mul decay.data
  (← (← (← e.var t (e.elem k 16 4)).sub c4).sub (if n = 0 then near else near.data)).sub far

/-- κ of a valve at a clamped opening; where C2 is neither 0 nor above 1 it is open. Log entry 80 (DESIGN CHOICE). -/
def kappa (c2 x : Int) : Calc Int :=
  if c2 = 0 then pure x else if qOne < c2 then powQ c2 x else pure (clampQ (Config.kappa c2 x))

/-- The equations of a store's layers (R229, R234). -/
def Est.layers (e : Est) (t k : Nat) (m s : Dual) : Calc (List (Nat × Dual)) := do
  let n := e.elem k 2 1
  let u := e.elem k 16 4
  let cp ← e.coef 0x30
  let share ← toQ (mkRat 1 n)
  let cap ← (← (← (← e.coef 0x2C).mul cp).mul (← (← e.elemC k 2).mulC share)).mulC (← toQ (mkRat 1000000 (leAt e.m 0x28 4)))
  let c4 ← e.elemC k 4
  let c5 ← e.elemC k 5
  let ua ← (← e.elemC k 3).mulC share
  let sp ← (← s.add m).mulC (qOne / 2)
  let sm ← (← s.sub m).mulC (qOne / 2)
  (upto n).mapM fun j => do
    let T ← e.var t (u + j)
    let was ← if t = 0 then (do return (⟨← toQ (e.given (e.col 0 (u + j)) (leAtS e.i (4 * (u + j)) 4)), []⟩ : Dual)) else e.var (t - 1) (u + j)
    let up ← if j = 0 then e.nodeT t (e.elem k 4 4) else e.var t (u + j - 1)
    let dn ← if j + 1 = n then e.nodeT t (e.elem k 8 4) else e.var t (u + j + 1)
    let a ← (← (← sp.mul cp).mul (← up.sub T)).add (← (← sm.mul cp).mul (← dn.sub T))
    let zero : Dual := ⟨0, []⟩
    let c ← (← if j = 0 then pure zero else up.sub T).add (← if j + 1 = n then pure zero else dn.sub T)
    let r ← (← (← (← cap.mul (← T.sub was)).sub a).sub (← c4.mul c)).add (← ua.mul (← T.sub c5))
    return (255, r)

/-- The equations of an element (R229): class and residual. -/
def Est.elemRows (e : Est) (t k : Nat) : Calc (List (Nat × Dual)) := do
  let (m, s) ← e.flow t k
  let na := e.elem k 4 4
  let nb := e.elem k 8 4
  let dp ← (← e.nodeP t na).sub (← e.nodeP t nb)
  let c0 ← e.elemC k 0
  let theta ← e.param (e.elem k 20 4)
  let gain ← (⟨qOne, []⟩ : Dual).add theta
  match e.elem k 0 1 with
  | 0 => do
    let dz ← (← e.coef (mOffNode e.m + 16 * na + 12)).sub (← e.coef (mOffNode e.m + 16 * nb + 12))
    let head ← (← (← e.coef 0x2C).mul (← e.coef 0x34)).mul dz
    let loss ← (← (← c0.mul gain).mul m).mul s
    return [(252, ← (← dp.add head).sub loss), (254, ← e.pipeHeat t k m s)]
  | 1 => do
    let u ← e.input t (e.elem k 24 4)
    let lift ← (← (← c0.mul (← u.mul u)).add (← (← (← e.elemC k 2).mul u).mul m)).add (← (← e.elemC k 3).mul (← m.mul m))
    return [(252, ← (← dp.neg).sub (← lift.mul gain))]
  | 2 => do
    let u ← e.input t (e.elem k 24 4)
    let kap ← kappa (← e.elemC k 2).v (max 0 (min qOne u.v))
    let g ← c0.mul ⟨kap, []⟩
    return [(252, ← (← (← g.mul g).mul dp).sub (← m.mul s))]
  | 3 => do return [(252, ← dp.sub (← (← c0.mul m).mul s))]
  | _ => do return (252, ← dp.sub c0) :: (← e.layers t k m s)

/-- The equations of a node (R229). -/
def Est.nodeRows (e : Est) (t n : Nat) : Calc (List (Nat × Dual)) := do
  let zero : Dual := ⟨0, []⟩
  let T ← e.nodeT t n
  let ext ← if mU e.m ≤ e.node n 4 then pure zero else e.input t (e.node n 4)
  let uT ← if mU e.m ≤ e.node n 6 then pure zero else e.input t (e.node n 6)
  let x ← (upto (mElem e.m)).foldlM (fun (x : Dual × Dual) k => do
    let (m, s) ← e.flow t k
    let x1 ← if e.elem k 8 4 = n then (do
        let q ← (← s.add m).mulC (qOne / 2)
        return (← x.1.add m, ← x.2.add (← q.mul (← T.sub (← e.outlet t k true))))) else pure x
    if e.elem k 4 4 = n then do
      let q ← (← s.sub m).mulC (qOne / 2)
      return (← x1.1.sub m, ← x1.2.add (← q.mul (← T.sub (← e.outlet t k false))))
    else pure x1) (zero, zero)
  let q : Dual := ⟨max 0 ext.v, []⟩
  let rows := [(253, ← x.1.add ext), (254, ← x.2.sub (← q.mul uT))]
  if mU e.m ≤ e.node n 8 then return rows
  else return rows ++ [(252, ← (← e.nodeP t n).sub (← e.input t (e.node n 8)))]

/-- Offsets of a measurement definition and of a measurement record. -/
def Est.mdef (e : Est) (i o n : Nat) : Nat := leAt e.m (mOffMdef e.m + 16 * i + o) n
def Est.rec_ (e : Est) (t i : Nat) : Nat := 16 + t * (8 * mMdef e.m + 4 * mU e.m) + 8 * i

/-- A measurement is excluded: QUAL above QMAX or WSCALE 0 (R237). -/
def Est.excluded (e : Est) (t i : Nat) : Bool :=
  decide (leAt e.p 0x57 1 < leAt e.d (e.rec_ t i + 6) 1) || leAt e.d (e.rec_ t i + 4) 2 == 0

/-- The residual of a measurement (R230): what its definition predicts, less its value. Log entry 80 (DESIGN CHOICE). -/
def Est.measured (e : Est) (t i : Nat) : Calc Dual := do
  let b ← e.param (e.mdef i 6 2)
  let x ← e.var t (e.mdef i 0 2)
  let pred ← match e.mdef i 8 1 with
    | 0 => x.add b
    | 1 => do (← x.sub (← e.var t (e.mdef i 2 2))).add b
    | _ => do
      let dT ← (← e.var t (e.mdef i 2 2)).sub (← e.var t (e.mdef i 4 2))
      (← (← (← e.coef 0x30).mul x).mul dT).mul (← (⟨qOne, []⟩ : Dual).add b)
  pred.sub ⟨← toQ (e.w.given 9 (e.mdef i 9 1) (leAtS e.d (e.rec_ t i) 4)), []⟩

/-- A square-root weight in FRAC_W of its class: the reciprocal of a standard deviation, scaled (R229, R230, R237). -/
def Est.weight (e : Est) (cls o : Nat) (scale : Rat) : Calc Rat :=
  inPhase 0 (do e.w.putV 8 cls (mkRat (← recipQ (← e.coef o).v) (2 ^ 32) * scale))

/-- Whiten a residual of a class. -/
def Est.white (e : Est) (cls : Nat) (wt : Rat) (r : Dual) : Calc White :=
  e.w.whiten e.loc cls wt (mkRat r.v (2 ^ 32)) ((gather r.d).map fun x => (x.1, mkRat x.2 (2 ^ 32)))

/-- The prior terms of frame 0 and of the parameters (R236, R237); weight 0 removes a term. -/
def Est.priors (e : Est) : List White :=
  let u := mUnk e.m
  let n := mParam e.m
  let term (c : Nat) (x : Int) (mean weight : Nat) : Option White :=
    let wt : Rat := leAtS e.i (4 * weight) 4 * pow2 (-(e.w.fracP (e.w.blockOf e.loc c)))
    if wt = 0 then none else some ⟨wt * (e.xval c x - e.given c (leAtS e.i (4 * mean) 4)), [(c, wt)]⟩
  (upto u).filterMap (fun k => term (e.col 0 k) (e.x.getD (n + k) 0) k (u + k)) ++
    (upto n).filterMap fun k => term (e.loc + k) (e.x.getD k 0) (2 * u + k) (2 * u + n + k)

/-- The whitened rows of a frame: its equations, its measurements and, in frame 0, the priors. -/
def Est.rows (e : Est) (t : Nat) : Calc (List White) := do
  let sig (cls : Nat) : Nat := 0x38 + 4 * (cls - 252)
  let eqs ← (upto (mElem e.m)).mapM (e.elemRows t)
  let nds ← (upto (mNode e.m)).mapM (e.nodeRows t)
  let model ← (eqs.flatten ++ nds.flatten).mapM fun x => do e.white x.1 (← e.weight x.1 (sig x.1) 1) x.2
  let meas ← ((upto (mMdef e.m)).filter fun i => !e.excluded t i).mapM fun i => do
    let cls := e.mdef i 9 1
    e.white cls (← e.weight cls (mOffMdef e.m + 16 * i + 12) (mkRat (leAt e.d (e.rec_ t i + 4) 2) 4096)) (← e.measured t i)
  return model ++ meas ++ (if t = 0 then e.priors else [])

/-- The rows of all frames, and the cost in FRAC_COST. -/
def Est.allRows (e : Est) : Calc (List (List White)) := (upto (estFrames e.p)).mapM e.rows
def Est.cost (e : Est) (rows : List (List White)) : Calc Rat := e.w.putV 11 0 (rows.foldl (fun n l => n + squares l) 0)

/-- The whitened residuals of the newest frame's measurements, 0 for excluded ones (R242). -/
def Est.residuals (e : Est) : Calc (List Int) :=
  let t := estFrames e.p - 1
  (upto (mMdef e.m)).mapM fun i =>
    if e.excluded t i then pure 0
    else do
      let cls := e.mdef i 9 1
      let wt ← e.weight cls (mOffMdef e.m + 16 * i + 12) (mkRat (leAt e.d (e.rec_ t i + 4) 2) 4096)
      e.w.put 7 cls (wt * mkRat (← e.measured t i).v (2 ^ 32))

/-- What an iteration comes to: the cost before it, the candidate, its cost, and the largest |dx| in units of resolution. -/
structure StepOut where
  prev : Rat
  x : List Int
  cost : Rat
  maxDx : Rat

/-- An EST iteration (R238): from the iterate to the candidate; `prev`: the iterate's cost where it is known. Log entry 80 (DESIGN CHOICE). -/
def Est.iterate (e : Est) (prev : Option Rat) (damp : Rat) : Calc StepOut := do
  let rows ← inPhase 1 e.allRows
  let c0 ← match prev with
    | some c => pure c
    | none => inPhase 1 (e.cost rows)
  let n := mParam e.m
  let at_ (t c : Nat) : Rat := e.xval c (e.x.getD (if c < e.loc then n + t * mUnk e.m + c else c - e.loc) 0)
  let (dt, ds) ← (⟨e.loc, e.shared, e.m.drop (mOffStruct e.m), rows, 0, at_⟩ : Normal).solve e.w (some (leAt e.p 0x60 4, pivotMax 0 e.p)) damp
  inPhase 6 (do
    let move (c : Nat) (v : Int) (dx : Rat) : Calc Int := e.w.put 0 (e.w.blockOf e.loc c) (e.xval c v + dx)
    let ps ← (upto n).mapM fun k => move (e.loc + k) (e.x.getD k 0) (ds.getD k 0)
    let dx (t u : Nat) : Rat := if u < e.loc then (dt.getD t []).getD u 0 else ds.getD (e.col t u - e.loc) 0
    let us ← (upto (estFrames e.p)).mapM fun t => (upto (mUnk e.m)).mapM fun u => move (e.col t u) (e.x.getD (n + t * mUnk e.m + u) 0) (dx t u)
    let cand := { e with x := ps ++ us.flatten }
    let cost ← cand.cost (← cand.allRows)
    let steps := dt.flatMap (fun l => (upto e.loc).zip l) ++ (upto e.shared).map fun k => (e.loc + k, ds.getD k 0)
    return ⟨c0, cand.x, cost, maxUnits e.w e.loc steps⟩)

/-! ## Least squares on supplied matrices (R244, R245) -/

/-- The entries of a compressed sparse column array: row, column and offset of the value (R244, R256). -/
def cscEntries (a : List Byte) (n : Nat) : List (Nat × Nat × Nat) :=
  let nnz := leAt a (4 * n) 4
  (upto n).flatMap fun c =>
    let lo := leAt a (4 * c) 4
    (upto (leAt a (4 * c + 4) 4 - lo)).map fun j => (leAt a (4 * (n + 1) + 4 * (lo + j)) 4, c, 4 * (n + 1) + 4 * nnz + 4 * (lo + j))

/-- An LSQ job at an iterate: parameter block, structure plan, A, B, the working plan and x. -/
structure Lsq where
  p : List Byte
  st : List Byte
  a : List Byte
  b : List Byte
  w : Plan
  x : List Int

def Lsq.xval (e : Lsq) (c : Nat) : Rat := e.w.val 0 (e.w.blockOf (lsqN e.p) c) (e.x.getD c 0)

/-- 2^κ, 0 where there is no ridge term. -/
def Lsq.ridge (e : Lsq) : Rat := let k := leAtS e.p 0x4A 1; if k = -128 then 0 else pow2 k

/-- The whitened rows of ‖W^½(Ax − b)‖². -/
def Lsq.rows (e : Lsq) : Calc (List White) :=
  let n := lsqN e.p
  let m := lsqM e.p
  let es := cscEntries e.a (n + lsqShared e.p)
  (upto m).mapM fun i => do
    let d := (es.filter fun x => x.1 == i).map fun x => (x.2.1, e.w.given 3 (e.w.blockOf n x.2.1) (leAtS e.a x.2.2 4))
    let r := d.foldl (fun s x => s + x.2 * e.xval x.1) (-(e.w.given 9 0 (leAtS e.b (4 * i) 4)))
    e.w.whiten n 0 (e.w.given 8 0 (leAtS e.b (4 * m + 4 * i) 4)) r d

def Lsq.cost (e : Lsq) (rows : List White) : Calc Rat :=
  e.w.putV 11 0 ((upto e.x.length).foldl (fun s c => s + e.ridge * e.xval c * e.xval c) (squares rows))

/-- The next iterate of an LSQ job (R245): the residual at the iterate, the solve with the same factors, the step.
Log entry 80 (DESIGN CHOICE). -/
def Lsq.iterate (e : Lsq) (prev : Option Rat) : Calc StepOut := do
  let n := lsqN e.p
  let rows ← inPhase 1 e.rows
  let c0 ← match prev with
    | some c => pure c
    | none => inPhase 1 (e.cost rows)
  let (dt, ds) ← (⟨n, lsqShared e.p, e.st, [rows], e.ridge, fun _ c => e.xval c⟩ : Normal).solve e.w none 0
  inPhase 6 (do
    let dx := dt.flatten ++ ds
    let x ← (upto (n + lsqShared e.p)).mapM fun c => e.w.put 0 (e.w.blockOf n c) (e.xval c + dx.getD c 0)
    let cand := { e with x := x }
    let cost ← cand.cost (← cand.rows)
    return ⟨c0, x, cost, maxUnits e.w n ((upto dx.length).zip dx)⟩)

/-! ## Quadratic programmes (R254 to R260) -/

/-- A DSP or FAC job at an iterate: its arrays, the working plan, and x, z and y. -/
structure Qp where
  p : List Byte
  st : List Byte
  pa : List Byte
  aa : List Byte
  lu : List Byte
  q : List Byte
  w : Plan
  x : List Int
  z : List Int
  y : List Int

def Qp.n (e : Qp) : Nat := qpN e.p
def Qp.m (e : Qp) : Nat := qpM e.p
def Qp.blk (e : Qp) (j : Nat) : Nat := blockIn e.w.r offCblk (rpCblk e.w.r) j
def Qp.cls (e : Qp) (i : Nat) : Nat := leAt e.lu (12 * i + 8) 1

/-- Values of the iterate. -/
def Qp.xv (e : Qp) (j : Nat) : Rat := e.w.val 0 (e.blk j) (e.x.getD j 0)
def Qp.zv (e : Qp) (i : Nat) : Rat := e.w.val 9 (e.cls i) (e.z.getD i 0)
def Qp.yv (e : Qp) (i : Nat) : Rat := e.w.val 8 (e.cls i) (e.y.getD i 0)

/-- The bounds of a row; none for an infinite one (R256). -/
def Qp.lower (e : Qp) (i : Nat) : Option Rat := let v := leAtS e.lu (12 * i) 4; if v = -(2 ^ 31) then none else some (e.w.given 9 (e.cls i) v)
def Qp.upper (e : Qp) (i : Nat) : Option Rat := let v := leAtS e.lu (12 * i + 4) 4; if v = 2 ^ 31 - 1 then none else some (e.w.given 9 (e.cls i) v)
def Qp.clamp (e : Qp) (i : Nat) (v : Rat) : Rat :=
  let a := match e.lower i with
    | some l => max l v
    | none => v
  match e.upper i with
  | some u => min u a
  | none => a

/-- ρ of a row, and σ (R258). -/
def Qp.rho (e : Qp) (i : Nat) : Rat := pow2 (leAtS e.p 0x68 1 + (if eqRow e.lu i then (leAt e.p 0x69 1 : Int) else 0))
def Qp.sigma (e : Qp) : Rat := pow2 (leAtS e.p 0x6A 1)

/-- P x, A x and Aᵀ y, exact. -/
def Qp.entP (e : Qp) : List (Nat × Nat × Rat) := (cscEntries e.pa e.n).map fun x => (x.1, x.2.1, e.w.given 3 (e.blk x.2.1) (leAtS e.pa x.2.2 4))
def Qp.entA (e : Qp) : List (Nat × Nat × Rat) := (cscEntries e.aa e.n).map fun x => (x.1, x.2.1, e.w.given 3 (e.blk x.2.1) (leAtS e.aa x.2.2 4))
def Qp.mulP (e : Qp) (j : Nat) : Rat :=
  e.entP.foldl (fun s x => (if x.1 = j then s + x.2.2 * e.xv x.2.1 else s) + (if x.2.1 = j && x.1 ≠ j then x.2.2 * e.xv x.1 else 0)) 0
def Qp.mulA (e : Qp) (i : Nat) : Rat := e.entA.foldl (fun s x => if x.1 = i then s + x.2.2 * e.xv x.2.1 else s) 0
def Qp.mulAt (e : Qp) (v : Nat → Rat) (j : Nat) : Rat := e.entA.foldl (fun s x => if x.2.1 = j then s + x.2.2 * v x.1 else s) 0
def Qp.qv (e : Qp) (j : Nat) : Rat := leAtS e.q (4 * j) 4 * pow2 (-(e.w.fracP (e.blk j)))

/-- An entry of the KKT matrix K of R258 by unknown: x first, the rows after it. -/
def Qp.kkt (e : Qp) (a b : Nat) : Rat :=
  let lo := min a b
  let hi := max a b
  let sum (l : List (Nat × Nat × Rat)) (r c : Nat) : Rat := l.foldl (fun s x => if x.1 = r && x.2.1 = c then s + x.2.2 else s) 0
  if hi < e.n then sum e.entP lo hi + (if lo = hi then e.sigma else 0)
  else if lo < e.n then sum e.entA (hi - e.n) lo
  else if lo = hi then -(e.rho (lo - e.n))⁻¹ else 0

/-- Build the factor (R261 to R263). Log entry 80 (DESIGN CHOICE). -/
def Qp.factor (e : Qp) : Calc (List LCol) :=
  inPhase 2 ((⟨e.n + e.m, fun i j => e.kkt (plPerm e.st i) (plPerm e.st j), belowOf e.st, fun j => (5, snOf e.st j), fun j => (4, snOf e.st j),
    some (leAt e.p 0x74 4), true, pivotMax 2 e.p⟩ : Ldl).factor e.w)

/-- Entries of the factor's L. Log entry 80 (DESIGN CHOICE). -/
def qpLnnz (st : List Byte) : Nat := (upto (plLoc st)).foldl (fun n j => n + (belowOf st j).length) 0

/-- ½xᵀPx + qᵀx at the iterate, in FRAC_COST. -/
def Qp.cost (e : Qp) : Calc Rat :=
  e.w.putV 11 0 ((upto e.n).foldl (fun s j => s + e.xv j * (mkRat 1 2 * e.mulP j + e.qv j)) 0)

/-- The residuals of R259 at the iterate: Ax − z by row and Px + q + Aᵀy by column. -/
def Qp.pri (e : Qp) (i : Nat) : Rat := e.mulA i - e.zv i
def Qp.dua (e : Qp) (j : Nat) : Rat := e.mulP j + e.qv j + e.mulAt e.yv j

/-- The largest of them in resolution units of FRAC_R and FRAC_G. -/
def Qp.rPri (e : Qp) : Nat := (upto e.m).foldl (fun n i => max n (roundUp (e.pri i * pow2 (e.w.frac 7 (e.cls i)))).natAbs) 0
def Qp.rDua (e : Qp) : Nat := (upto e.n).foldl (fun n j => max n (roundUp (e.dua j * pow2 (e.w.frac 2 (e.blk j)))).natAbs) 0

/-- Iterate 0 (R258): WARM, or x = 0, y = 0 and z = clamp(0, l, u). -/
def Qp.start (e : Qp) (warm : List Byte) : Qp :=
  if pFlag e.p 1 then
    { e with
      x := (upto e.n).map fun j => leAtS warm (4 * j) 4
      z := (upto e.m).map fun i => leAtS warm (4 * (e.n + i)) 4
      y := (upto e.m).map fun i => leAtS warm (4 * (e.n + e.m + i)) 4 }
  else
    { e with
      x := (upto e.n).map fun _ => 0
      z := (upto e.m).map fun i => max (if (e.lower i).isSome then leAtS e.lu (12 * i) 4 else 0) 0 |> fun v =>
        min (if (e.upper i).isSome then leAtS e.lu (12 * i + 4) 4 else v) v
      y := (upto e.m).map fun _ => 0 }

/-- One ADMM iteration (R258) with a factor of K. Log entry 80 (DESIGN CHOICE). -/
def Qp.iterate (e : Qp) (fac : List LCol) : Calc Qp := do
  let st := e.st
  let rhs (u : Nat) : Rat := if u < e.n then e.sigma * e.xv u - e.qv u else e.zv (u - e.n) - e.yv (u - e.n) / e.rho (u - e.n)
  let fmt (u : Nat) : Nat × Nat := if u < e.n then (1, e.blk u) else (8, e.cls (u - e.n))
  let sol ← inPhase 5 (do
    let y ← forwardSolve fac (fun j => rhs (plPerm st j)) fun j v => e.w.putV 6 (snOf st j) v
    backSolve fac y fun j v => let f := fmt (plPerm st j); e.w.putV f.1 f.2 v)
  let at_ (u : Nat) : Rat := sol.getD (posOf st u) 0
  inPhase 6 (do
    let alpha : Rat := mkRat (leAt e.p 0x6B 1) 128
    let zt ← (upto e.m).mapM fun i => e.w.putV 9 (e.cls i) (e.zv i + (at_ (e.n + i) - e.yv i) / e.rho i)
    let x ← (upto e.n).mapM fun j => e.w.put 0 (e.blk j) (alpha * at_ j + (1 - alpha) * e.xv j)
    let zr (i : Nat) : Rat := alpha * zt.getD i 0 + (1 - alpha) * e.zv i
    let z ← (upto e.m).mapM fun i => e.w.put 9 (e.cls i) (e.clamp i (zr i + e.yv i / e.rho i))
    let y ← (upto e.m).mapM fun i => e.w.put 8 (e.cls i) (e.yv i + e.rho i * (zr i - e.w.val 9 (e.cls i) (z.getD i 0)))
    return { e with x := x, z := z, y := y })

/-- The writebacks of a check (R259): both residuals in their formats. -/
def Qp.check (e : Qp) : Calc Unit :=
  inPhase 6 (do
    let _ ← (upto e.m).mapM fun i => e.w.put 7 (e.cls i) (e.pri i)
    let _ ← (upto e.n).mapM fun j => e.w.put 2 (e.blk j) (e.dua j))

/-- The infeasibility test of R259, with dy the change of y in the iteration. -/
def Qp.infeasible (e : Qp) (was : List Int) : Bool :=
  let dy (i : Nat) : Rat := e.yv i - e.w.val 8 (e.cls i) (was.getD i 0)
  let rows := upto e.m
  rows.any (fun i => dy i != 0) &&
  (upto e.n).all (fun j => decide ((roundUp (e.mulAt dy j * pow2 (e.w.frac 2 (e.blk j)))).natAbs ≤ leAt e.p 0x7C 4)) &&
  rows.all (fun i => !((e.upper i).isNone && decide (0 < dy i)) && !((e.lower i).isNone && decide (dy i < 0))) &&
  decide (rows.foldl (fun s i => s + ((e.upper i).getD 0) * max (dy i) 0 + ((e.lower i).getD 0) * min (dy i) 0) 0 < 0)

/-! ## Numbers of a header -/

/-- A dyadic number as binary32 (R242, R260). -/
def ratF32 (x : Rat) : Word :=
  let k := bitLen x.den - 1
  (packF (decide (x.num < 0)) x.num.natAbs (-(k : Int)) false).1

/-- A range report (R250): the magnitude bits of each format in plan order; FRAC_P is never written. -/
def rangeReport (r : List Byte) (mags : List ((Nat × Nat) × Nat)) : List Byte :=
  let at_ (k b : Nat) : Byte := BitVec.ofNat 8 (((mags.find? fun x => x.1 == (k, b)).map Prod.snd).getD 0)
  (upto (rpCblk r)).flatMap (fun b => [at_ 0 b, at_ 1 b, at_ 2 b, at_ 3 b, 0]) ++
  (upto (rpSn r)).flatMap (fun b => [at_ 4 b, at_ 5 b, at_ 6 b]) ++
  (upto (rpCls r)).flatMap (fun b => [at_ 7 b, at_ 8 b, at_ 9 b]) ++
  (upto (rpSblk r)).flatMap (fun b => let c := rpCblk r + b; [at_ 0 c, at_ 1 c, at_ 2 c, at_ 3 c, 0, at_ 10 b])

end Sys2Proof.Machine
end

