-- ==== Sys2Proof/Machine/Outputs.lean ====
section
/-! DEFINITION. The field outputs as the state drives them: a Tandem member that is not ACTIVE drives none (R345 to R349, R371). -/

namespace Sys2Proof.Machine

/-- The module is a member of a Tandem pair (R24). -/
def State.tandem (s : State) : Bool := s.bit F.SYS_ROLE_TANDEM

/-- STATE of the member: 0 INIT, 1 ACTIVE, 2 JOINING, 3 STEP, 4 OUT, 5 FAULT (R371). -/
def State.tdmState (s : State) : Nat := s.rd F.TDM_STATE_STATE

/-- A Tandem member that is not ACTIVE: its outputs are suppressed (R371). -/
def State.suppressed (s : State) : Bool := s.tandem && s.tdmState != 1

/-- FIO samples and drives: enabled, its domain powered, not past its stop boundary (R345, R351). -/
def State.fioOn (s : State) : Bool := s.en .fio && !s.unreachable .fio && !s.fio.stopped

/-- UV1 (0) or UV2 (1) (R349). -/
def State.uv (s : State) (g : Nat) : Bool := s.bit (statFld .fio (10 + g))

/-- The driven state of DOn (R345, R349); a Tandem member that is not ACTIVE holds its outputs off (R371). -/
def State.doDriven (s : State) (n : Nat) : Bool :=
  s.fioOn && !s.suppressed && !s.uv (n / 8) && (s.rd F.FIO_DO_STATE_CMD).testBit n && !(s.rd F.FIO_DO_INHIBIT_INH).testBit n &&
  !s.fio.shutdown.getLsbD n

/-- DOn contributes to its group's fault (R347, R349). -/
def State.doFaulty (s : State) (n : Nat) : Bool :=
  let on := (s.rd F.FIO_DO_STATE_DRIVEN).testBit n
  !s.uv (n / 8) &&
  ((on && s.fio.limited.getLsbD n) ||
   (s.fio.shutdown.getLsbD n && (s.rd F.FIO_DO_STATE_CMD).testBit n && !(s.rd F.FIO_DO_INHIBIT_INH).testBit n) ||
   (!on && s.fio.high.getLsbD n && (s.rd F.FIO_DO_DIAG_DIAG).testBit n))

/-- FAULT_Gg follows its channels; its rising edge raises DO_FAULT_Gg with an event (R347). -/
def State.faultLevel (s : State) (g : Nat) : State :=
  let v := (upto 8).any fun i => s.doFaulty (8 * g + i)
  let s1 := s.wrB (statFld .fio (8 + g)) v
  if v && !s.bit (statFld .fio (8 + g)) then s1.raiseEv .fio (4 + g) else s1

/-- One output takes its driven state: an off transition starts the blanking, and the conditions of the other state end (R345, R347).
Log entry 49 (DEDUCED). -/
def State.driveOne (s : State) (n : Fin 16) : State :=
  let old := (s.rd F.FIO_DO_STATE_DRIVEN).testBit n
  let new := s.doDriven n
  if old = new then s
  else
    let s1 := s.wrB ⟨R.FIO_DO_STATE, 16 + n, 1⟩ new
    if new then { s1 with fio := { s1.fio with high := setMark s1.fio.high n false } }
    else { s1 with fio := { s1.fio with limited := setMark s1.fio.limited n false, high := setMark s1.fio.high n false, offAt := s1.fio.offAt.set n s1.nowNs } }

/-- All outputs and both fault levels follow the state. -/
def State.drive (s : State) : State :=
  (((List.finRange 16).foldl (fun (s : State) n => s.driveOne n) s).faultLevel 0).faultLevel 1

end Sys2Proof.Machine
end

