-- ==== Sys2Proof/Machine/TdmOps.lean ====
section
/-! DEFINITION. The Tandem member's place in the pair, as the other engines see it: suppressed outputs, the input stream, leaving
step, faults and self-tests (R371 to R379, R385). -/

namespace Sys2Proof.Machine

/-- GRANT: 0 HOLD, 1 A, 2 B, 3 ABSENT; the grant is this member's, or its partner's (R370). -/
def State.grant (s : State) : Nat := s.rd F.TDM_STATE_GRANT
def State.granted (s : State) : Bool := s.grant == 1 + s.rd F.TDM_CFG_MEMBER
def State.grantPartner (s : State) : Bool := s.grant == 2 - s.rd F.TDM_CFG_MEMBER

/-- A standby in JOINING or STEP: it follows the stream, not its own grid and sources (R372, R373). Log entry 37 (DEDUCED). -/
def State.following (s : State) : Bool := s.tandem && (s.tdmState == 2 || s.tdmState == 3)

/-- A member sends a TDM frame on lane T: it takes the next sequence number (R372, R374). -/
def State.sendTdm (s : State) (b : TdmBody) : State :=
  { s with tdm := { s.tdm with
    stream := s.tdm.stream ++ [⟨s.rd F.TDM_CFG_ETYPE, s.tdm.seq, b⟩], seq := (s.tdm.seq + 1) % 2 ^ 32 } }

/-- The ACTIVE member sends an entry of its stream, in a frame of its own (R372). Log entry 39 (DEDUCED). -/
def State.emit (s : State) (e : TdmEntry) : State := if s.tandem && s.tdmState == 1 then s.sendTdm (.entry e) else s

/-- A new stream period begins: the frames of the last two are kept (R372, R374). -/
def State.nextPeriod (s : State) : State :=
  { s with tdm := { s.tdm with hist := s.tdm.stream :: s.tdm.hist.take 1, stream := [], periodEnd := s.nowNs + 1000 * max 1 (s.rd F.SPK_PERIOD_PERIOD) } }

/-- The first T0 cycle after a takeover starts: TDM_SW.LAST is the time since the condition of R380 was met (R384). -/
def State.switched (s : State) : State :=
  match s.tdm.swFrom with
  | none => s
  | some t => { s.wr F.TDM_SW_LAST (min 0xFFFF ((s.nowNs - t) / 10000)) with tdm := { s.tdm with swFrom := none } }

/-- A register write that only the ACTIVE member or a single module takes: on a standby in JOINING or STEP it is discarded with code
0x83 in TDM and the page code (R373). -/
def State.gatePair (s : State) (m : Master) (b : Blk) (a : Nat) (k : State → State) : State :=
  s.gate m b a fun s => if s.following then s.err .tdm 0x83 b.code else k s

/-- A standby leaves step for a reason and raises STEP_CHG (R376). Log entry 37 (DEDUCED). -/
def State.leaveStep (s : State) (reason : Nat) : State :=
  if s.following then ((s.wr F.TDM_STATE_STATE 4).wr F.TDM_STATE_REASON reason).raise .tdm 3 else s

/-- SPK stops supplying instants: a locked T0 runs free and LOCK_CHG is raised (R117). -/
def State.loseInstants (s : State) : State :=
  let s1 := { s with cad := { s.cad with ringSupplied := false } }
  if s1.bit (F.CAD_TASKn_STAT_LOCKED 0) then (s1.wr (F.CAD_TASKn_STAT_LOCKED 0) 0).raise .cad 8 else s1

/-- SPK stops mastering the ring: what was to leave is dropped, and no more instants are supplied (R20, R382). -/
def State.stopMaster (s : State) (st : Nat) : State :=
  ({ s with spk := { s.spk with due := none, pass := none, stopLeft := none } }.wr F.SPK_RING_STAT_STATE st).loseInstants

/-- The member enters FAULT (R379): it drives and masters nothing. Log entry 37 (DEDUCED). -/
def State.enterFault (s : State) : State := ((s.wr F.TDM_STATE_STATE 5).wr F.SYS_ROLE_ACTIVE 0).drive

/-- AUTO_FAULT: an ACTIVE member whose partner is in STEP declares itself faulty and stops mastering (R371, R379). -/
def State.autoFault (s : State) : State :=
  if s.tandem && s.tdmState == 1 && s.bit F.TDM_CFG_AUTO_FAULT && s.rd F.TDM_STATE_PCODE == 2 then
    (if s.rd F.SPK_RING_STAT_STATE = 1 || s.rd F.SPK_RING_STAT_STATE = 2 then s.stopMaster 0 else s).enterFault
  else s

/-- Self-test `n` fails (R385): 0 SCRUB, 1 GOLDEN, 2 LANE, 3 LINK. -/
def State.selfTestFail (s : State) (n : Nat) : State :=
  let s1 := ({ s with tdm := { s.tdm with fails := setMark s.tdm.fails n true } }).raiseEv .tdm 6
  (if n < 3 then s1.leaveStep 5 else s1).autoFault

end Sys2Proof.Machine
end

