-- ==== Sys2Proof/Machine/Slv.lean ====
section
/-! DEFINITION. Solver jobs: acceptance, selection, start checks, pre-emption, outcomes, stalls and factor slots (R235 to R277). -/

namespace Sys2Proof.Machine

/-! ## Templates, jobs and their marks -/

/-- A template, and its replacement. -/
def State.tpl (s : State) (t : Nat) : Tpl := Sparse.get s.slv.tpls {} t

/-- The status word of a template as SLVST and SLV_TPL_STATUS show it (R102, R279). -/
def tplWord (x : Tpl) : Word := BitVec.ofNat 32 (x.state + 2 ^ 16 * x.seq)

/-- The address of a half of a template's window (R269). -/
def State.winAddr (s : State) (t : Nat) (half : Bool) : Nat :=
  s.rd F.SLV_WIN_BASE_LO_BASE_LO * 2 ^ 16 + s.rd F.SLV_WIN_BASE_HI_BASE_HI * 2 ^ 32 + 2048 * t + 1024 * b2n half

/-- The RD_LEN words of a template's current half, as CAD's translation context shows them (R269): a word that the context does not map
reads 0, and one that is uncorrectable reads as stored. Log entry 69 (DESIGN CHOICE). -/
def State.tplResult (s : State) (t : Nat) (x : Tpl) : List Byte :=
  (upto x.rdLen).flatMap fun k => leBytes 4 (s.peek 0 (s.winAddr t x.cur + 4 * k) 4)

/-- Replace a template; a new status word or window half is recorded for the partner with the half's result (R32, R269, R372). -/
def State.setTpl (s : State) (t : Nat) (x : Tpl) : State :=
  let o := s.tpl t
  let s1 := { s with slv := { s.slv with tpls := Sparse.put s.slv.tpls {} t x } }
  if o.state = x.state && o.seq = x.seq && o.cur = x.cur then s1
  else s1.emit (.solver t (tplWord x) x.cur (s.tplResult t x))

/-- The jobs not yet ended: waiting and running. -/
def State.jobs (s : State) : List Job := s.slv.waiting ++ s.slv.run.toList

/-- The job of a template. -/
def State.jobOf (s : State) (t : Nat) : Option Job := s.jobs.find? fun j => j.tpl == t

/-- Show the running job and the factor slots in use in their registers (R279). -/
def State.slvMarks (s : State) : State :=
  let s1 := match s.slv.run with
    | none => s.wr F.SLV_RUN_VALID 0
    | some j => (((s.wr F.SLV_RUN_TEMPLATE j.tpl).wr F.SLV_RUN_QUEUE j.queue).wr F.SLV_RUN_PHASE j.phase).wr F.SLV_RUN_VALID 1
  (upto 4).foldl (fun s k =>
    let mine := s.jobs.filter fun j => j.started && j.slot == some k
    (s.wrB (F.SLV_FACk_STAT_HELD k) (!mine.isEmpty)).wrB (F.SLV_FACk_STAT_BUILDING k) (mine.any fun j => j.writes && !j.refactored)) s1

/-- Set the running job. -/
def State.setRun (s : State) (j : Option Job) : State := ({ s with slv := { s.slv with run := j } }).slvMarks

/-- Replace a job where it stands, running or waiting. -/
def State.putJob (s : State) (j : Job) : State :=
  let sub (r : Job) : Job := if r.tpl = j.tpl then j else r
  ({ s with slv := { s.slv with run := s.slv.run.map sub, waiting := s.slv.waiting.map sub } }).slvMarks

/-- Remove a template's job. -/
def State.dropJob (s : State) (t : Nat) : State :=
  let keep (r : Job) : Bool := r.tpl != t
  let stall := s.slv.stall.filter fun x => x.tpl != t
  ({ s with slv := { s.slv with run := s.slv.run.filter keep, waiting := s.slv.waiting.filter keep, stall := stall } }).slvMarks

/-- Bytes in memory as SLV's context (2) shows them, without any effect; empty where it maps none. -/
def State.peekB (s : State) (va n : Nat) : List Byte := ((s.dmaRead 2 va n).2).getD []

/-- The parameter block that a template names. -/
def State.tplParam (s : State) (t : Nat) : List Byte := s.peekB (s.tpl t).param (paramSize (s.tpl t).kind)

/-- The range plan and the model header that a parameter block names. -/
def State.peekPlan (s : State) (kind : Nat) (p : List Byte) : List Byte :=
  let a := addrAt p (offRplan kind)
  s.peekB a (max 64 (rpSize (s.peekB a 64)))
def State.peekModel (s : State) (kind : Nat) (p : List Byte) : List Byte := if kind = 0 then s.peekB (estModel p) 128 else []

/-- B of R273 for a template. -/
def State.jobBytes (s : State) (t : Nat) : Nat :=
  let x := s.tpl t
  let p := s.tplParam t
  outcomeBytes x.kind p (s.peekPlan x.kind p) (s.peekModel x.kind p) x.rdLen

/-- The stop instant S of R273 in eighths of a nanosecond of TB2: deadline − 20 µs − 4 µs − 0.125 ns × B. -/
def State.stopAt (s : State) (t deadline : Nat) : Int := (8 * (1000 * deadline) : Nat) - 8 * 24000 - (s.jobBytes t : Int)

/-- The stop instant of a job: a started one counts B by the blocks it read at its start (R273). -/
def State.stopOf (s : State) (j : Job) : Int :=
  if j.started then
    (8 * (1000 * j.deadline) : Nat) - 8 * 24000 -
      (outcomeBytes j.kind (j.ins.getD 0 []) (j.ins.getD 1 []) (if j.kind = 0 then j.ins.getD 2 [] else []) (s.tpl j.tpl).rdLen : Int)
  else s.stopAt j.tpl j.deadline

/-- TB2 has reached an instant in eighths of a nanosecond. -/
def State.reached (s : State) (at8 : Int) : Bool := decide (at8 * (unitsPerNs : Int) ≤ 8 * (s.tb2 : Int))

/-- The templates whose held copy is enabled. -/
def State.tplEnabled (s : State) : Nat := (s.slv.tpls.filter fun x => x.2.en).length

/-- Record a rejection (R268). -/
def State.rejectJob (s : State) (t reason : Nat) : State :=
  let s1 := (s.setTpl t { s.tpl t with state := 6, reason := reason }).raise .slv 6
  ((s1.wr F.SLV_REJ_REASON reason).wr F.SLV_REJ_TEMPLATE t).incSat F.SLV_REJ_COUNT

/-- A job request with its deadline (R267): 0 accepted and queued, 1 BUSY, or the reason of a rejection at acceptance. -/
def State.acceptJob (s : State) (t deadline : Nat) : State × Nat :=
  if (s.jobOf t).isSome then (s, 1)
  else
    let x := s.tpl t
    let dl := deadline % 2 ^ 48
    let s1 := s.setTpl t { x with seq := (x.seq + 1) % 2 ^ 16, deadline := dl }
    if !x.en then (s1.rejectJob t 2, 2)
    else if s.reached (s.stopAt t dl) then (s1.rejectJob t 3, 3)
    else if !(s.runs .slv) then (s1.rejectJob t 4, 4)
    else
      let j : Job := { tpl := t, kind := x.kind, queue := x.queue, ord := s.slv.order, accepted := s.nowNs, deadline := dl }
      let s2 := s1.setTpl t { s1.tpl t with state := 1 }
      (({ s2 with slv := { s2.slv with waiting := s2.slv.waiting ++ [j], order := s2.slv.order + 1 } }).slvMarks, 0)

/-- SLV_SUBMIT (R267, R279). -/
def execSlvSubmit (m : Master) (tpl : BitVec 8) (dlRel : BitVec 23) (s : State) : Out :=
  .next (s.gate m .slv R.SLV_SUBMIT fun s =>
    let (s1, r) := s.acceptJob tpl.toNat (s.nowUs + dlRel.toNat)
    ((s1.wr F.SLV_SUB_RES_RESULT r).wr F.SLV_SUB_RES_TEMPLATE tpl.toNat).wr F.SLV_SUB_RES_SEQ (s1.tpl tpl.toNat).seq)

/-! ## Stalls (R276) -/

/-- The first address of a range at which an access through a context fails: of a page, or of an uncorrectable word. -/
def State.firstBad (s : State) (ctx : Nat) (wr : Bool) (va n : Nat) : Option Nat :=
  (pageCuts (n / 4096 + 2) va n).findSome? fun c =>
    match (s.xlate ctx wr c.1).2 with
    | .ok pa => if !isMemory pa then some c.1 else if wr then none else (s.ueIn pa c.2).map fun w => c.1 + (w - pa)
    | .bad _ => some c.1

/-- A job stalls at an access: STALLED, the address, the direction and the template, and XLT_STALL. Log entry 29 (DEDUCED). -/
def State.stallJob (s : State) (t : Nat) (at_ : StallAt) (wr : Bool) (va : Nat) : State :=
  let s1 := ((s.wr F.SLV_STALL_INFO_STALLED 1).wrB F.SLV_STALL_INFO_WRITE wr).wr F.SLV_STALL_INFO_TEMPLATE t
  let s2 := ((s1.wr F.SLV_STALL_ADDR_LO_ADDR_LO va).wr F.SLV_STALL_ADDR_HI_ADDR_HI (va / 2 ^ 32)).raise .slv 7
  { s2 with slv := { s2.slv with stall := some ⟨t, at_⟩ } }

/-- The stall ends; a model load that it held is over. -/
def State.unstall (s : State) : State :=
  let s1 := if s.rd F.SLV_MODEL_STAT_STATE = 1 then s.wr F.SLV_MODEL_STAT_STATE 0 else s
  { (s1.wr F.SLV_STALL_INFO_STALLED 0) with slv := { s1.slv with stall := none } }

/-! ## Outcomes (R242, R243, R260, R269, R274) -/

/-- The input blocks of a started job: parameter block, range plan, model or structure, data, INIT, history. -/
def Job.block (j : Job) (k : Nat) : List Byte := j.ins.getD k []

/-- The job's working plan, and the job at its iterate as the arithmetic of its kind takes it. -/
def Job.plan (j : Job) : Plan := ⟨j.block 1, j.widened⟩
def Job.est (j : Job) : Est := ⟨j.block 0, j.block 2, j.block 3, j.block 4, j.block 5, j.plan, j.x⟩
def Job.lsq (j : Job) : Lsq := ⟨j.block 0, j.block 2, j.block 3, j.block 4, j.plan, j.x⟩
def Job.qp (j : Job) : Qp := ⟨j.block 0, j.block 2, j.block 3, j.block 4, j.block 5, j.block 6, j.plan, j.x, j.z, j.y⟩

/-- Run a calculation of a job: its result or range exception, the job with what it left, and the pivots it replaced. -/
def Job.calc {α : Type} (j : Job) (c : Calc α) : Except RangeExc α × Job × Nat :=
  let (r, t) := c.run.run { mags := j.mags }
  (r, { j with mags := t.mags, pivfix := j.pivfix + t.pivots, histShort := j.histShort || t.histShort }, t.pivots)

/-- The value of a calculation that saturates nowhere, else the given one. -/
def Job.calcD {α : Type} (j : Job) (c : Calc α) (d : α) : α :=
  match (j.calc c).1 with
  | .ok v => v
  | .error _ => d

/-- An unknown of an EST iterate. -/
def Job.estUnk (j : Job) (m : List Byte) (t u : Nat) : Int := j.x.getD (mParam m + t * mUnk m + u) 0

/-- The vectors of a result (R242, R245, R260). -/
def Job.vectors (j : Job) : List Int :=
  let p := j.block 0
  if j.kind = 0 then
    let m := j.block 2
    let last := estFrames p - 1
    j.x.take (mParam m) ++
    (if pFlag p 2 then j.x.drop (mParam m) else (upto (mUnk m)).map (j.estUnk m last)) ++
    (if pFlag p 3 then j.calcD j.est.residuals ((upto (mMdef m)).map fun _ => 0) else [])
  else j.x ++ j.z ++ j.y

/-- A raw value in a result. -/
def rawBytes (v : Int) : List Byte := leBytes 4 (v % 2 ^ 32).toNat

/-- The header of a result (R242, R260): STOP, FLAGS and the rest; `fin`: FINAL, `vec`: VECTORS. -/
def Job.header (j : Job) (p : List Byte) (stop : Nat) (fin vec : Bool) : List Byte :=
  let flags := b2n fin + 2 * b2n (j.retries ≠ 0) + 4 * b2n j.histShort + 8 * b2n (j.pivfix ≠ 0) + 16 * b2n j.costUp + 32 * b2n vec +
    64 * b2n j.refactored
  let head := leBytes 1 stop ++ leBytes 1 flags ++ leBytes 2 j.iter ++ leBytes 4 (ratF32 j.cost0).toNat ++ leBytes 4 (ratF32 j.cost).toNat
  if j.kind ≤ 1 then
    head ++ leBytes 4 (ratF32 j.step).toNat ++ leBytes 1 (j.kmu % 256).toNat ++ leBytes 1 j.retries ++ leBytes 2 (min 0xFFFF j.pivfix) ++
      leBytes 4 (if j.kind = 0 then estFrame0 p else 0) ++ leBytes 40 0
  else
    head ++ leBytes 4 (ratF32 j.priRes).toNat ++ leBytes 4 (ratF32 j.duaRes).toNat ++ leBytes 1 j.retries ++ leBytes 1 0 ++ leBytes 2 (min 0xFFFF j.pivfix) ++
      leBytes 4 (match j.slot with | some k => j.gen + 2 ^ 16 * k | none => 0) ++ leBytes 4 j.lnnz ++ leBytes 8 j.key ++ leBytes 24 0

/-- The template state that a STOP gives (R274): 3 DONE, 4 NONFINAL, 5 INVALID, 7 FAULT. -/
def stopState (stop : Nat) (vec : Bool) : Nat :=
  if stop ≤ 1 then 3 else if stop = 6 then 7 else if stop = 7 then 5 else if vec then 4 else 5

/-- End a job's record: template state, STOP and ITER, causes, counts and error codes (R249, R251, R273, R274). -/
def State.finishJob (s : State) (j : Job) (stop st : Nat) : State :=
  let t := j.tpl
  let s1 := (s.dropJob t).setTpl t { s.tpl t with state := st, stop := stop, iter := j.iter }
  let s2 := if stop = 2 || stop = 3 then s1.err .slv 0x81 t
    else if stop = 4 then (s1.err .slv 0x83 t).incSat F.SLV_DL_CNT_MISSED
    else if stop = 5 then s1.incSat F.SLV_DL_CNT_ABORTED
    else s1
  s2.raise .slv (if st = 3 then 4 else if st = 7 then 10 else 5)

/-- A write of an outcome cannot complete: the job stalls there. -/
def State.stallOut (s : State) (j : Job) (stop : Nat) (wr : Bool) (va n : Nat) : State :=
  (s.putJob { j with out := some stop, phase := 12 }).stallJob j.tpl .outcome wr ((s.firstBad 2 wr va n).getD va)

/-- Copy the readable words of a result into the half that is not current, and make it current (R269). -/
def State.copyWindow (s : State) (j : Job) (out : Nat) : State × Option (Bool × Nat × Nat) :=
  let x := s.tpl j.tpl
  if x.rdLen = 0 then (s.setTpl j.tpl { x with cur := !x.cur }, none)
  else
    match s.dmaRead 2 (out + x.rdOff) (4 * x.rdLen) with
    | (s1, none) => (s1, some (false, out + x.rdOff, 4 * x.rdLen))
    | (s1, some bs) =>
      match s1.dmaWrite 2 (s1.winAddr j.tpl !x.cur) bs with
      | (s2, false) => (s2, some (true, s1.winAddr j.tpl !x.cur, 4 * x.rdLen))
      | (s2, true) => (s2.setTpl j.tpl { x with cur := !x.cur }, none)

/-- The result of a job carries vectors (R242, R260): after an iteration, except for a FAULT and for a FAC job. -/
def Job.hasVectors (j : Job) (stop : Nat) : Bool := decide (1 ≤ j.iter) && stop != 6 && j.kind != 3

/-- The bytes of a result written at OUT (R242, R243, R260): header, vectors, range report. -/
def Job.result (j : Job) (p : List Byte) (stop : Nat) : List Byte :=
  let vec := j.hasVectors stop
  let rep := if j.started && rreport j.kind p && vec then rangeReport (j.block 1) j.mags else []
  j.header p stop (decide (stop ≤ 1)) vec ++ (if vec then j.vectors.flatMap rawBytes else []) ++ rep

/-- Write a job's outcome to OUT and end it: the result, the history slot, the window, then the status (R242, R243, R269, R274).
Log entry 34 (DEDUCED). -/
def State.writeOutcome (s : State) (j : Job) (p : List Byte) (stop : Nat) : State :=
  let out := addrAt p (offOut j.kind)
  let vec := j.hasVectors stop
  let fin := decide (stop ≤ 1)
  let bs := j.result p stop
  match s.dmaWrite 2 out bs with
  | (s1, false) => s1.stallOut j stop true out bs.length
  | (s1, true) =>
    let m := j.block 2
    let hist := estHist p
    let hlen := leAt (j.block 5) 8 4
    let slotA := hist + 16 + (estFrame0 p % hlen) * (4 + 4 * mNode m)
    let hbs := leBytes 4 (estFrame0 p) ++ (upto (mNode m)).flatMap fun n => rawBytes (j.estUnk m 0 (leAt m (mOffNode m + 16 * n + 2) 2))
    let doHist := j.kind = 0 && fin && hist ≠ 0
    match (if doHist then s1.dmaWrite 2 slotA hbs else (s1, true)) with
    | (s2, false) => s2.stallOut j stop true slotA hbs.length
    | (s2, true) =>
      let st := stopState stop vec
      match (if st = 3 || st = 4 then s2.copyWindow j out else (s2, none)) with
      | (s3, some (wr, va, n)) => s3.stallOut j stop wr va n
      | (s3, none) => s3.finishJob j stop st

/-- End a job with a STOP. While another job is stalled the outcome waits (R276); the block of a job that has not started is read first.
Log entry 34 (DEDUCED). -/
def State.endJob (s : State) (j : Job) (stop : Nat) : State :=
  if s.slv.stall.isSome then s.putJob { j with out := some stop }
  else if j.started then s.writeOutcome j (j.block 0) stop
  else
    let x := s.tpl j.tpl
    match s.dmaRead 2 x.param (paramSize x.kind) with
    | (s1, some p) => s1.writeOutcome j p stop
    | (s1, none) => s1.stallOut j stop false x.param (paramSize x.kind)

/-- A DEADLINE (4) or ABORTED (5) end of a template's job (R273, R275): a waiting job ends at once, a running one at its next
pre-emption point; a job that writes its outcome is unaffected. -/
def State.stopJob (s : State) (j : Job) (stop : Nat) : State :=
  if j.out.isSome then s
  else if (s.slv.run.map (·.tpl)) = some j.tpl then s.putJob { j with stopReq := some stop }
  else s.endJob j stop

/-- The same where the job may be stalled: its stalled access is discarded, a save or a restore with it, and the job ends (R273, R275). -/
def State.stopStalled (s : State) (j : Job) (stop : Nat) : State :=
  match s.slv.stall with
  | none => s.stopJob j stop
  | some x =>
    if x.tpl ≠ j.tpl || x.at_ = .outcome then s.stopJob j stop
    else if x.at_ = .save || x.at_ = .restore then
      let s1 := s.unstall
      { s1 with slv := { s1.slv with next := none } }.endJob j stop
    else s.unstall.stopJob j stop

/-! ## The model (R235) -/

/-- Load a model image into tile memory, or record why it failed. -/
def State.loadModel (s : State) (m : List Byte) : State × Bool :=
  let (r, pos) := modelCheck m
  let s1 := (s.wr F.SLV_MODEL_STAT_RESULT r).wr F.SLV_MODEL_ERRPOS_OFFSET pos
  if r ≠ 0 then ((s1.dropModel.raise .slv 3).err .slv 0x80 r, false)
  else
    let s2 := (upto 8).foldl (fun s k => s.wr (F.SLV_MODEL_HASHk_HASH k) (leAt (mHash m) (4 * k) 4)) s1
    let s3 := ((s2.wr F.SLV_MODEL_STAT_STATE 2).wr F.SLV_MODEL_STAT_RES_KIB (Config.modelKib m)).wr F.SLV_MODEL_FSZ_KIB (Config.frameKib m)
    ({ s3.useTiles with slv := { s3.slv with model := some m } }, true)

/-- What a start step comes to: an access that cannot complete, a rejection, or the job ready to run. -/
inductive StartRes where
  | stall (va : Nat)
  | reject (reason : Nat)
  | ok (j : Job)
  deriving DecidableEq, Repr

/-- Read a block and go on. -/
def State.rdBlk (s : State) (va n : Nat) (k : State → List Byte → State × StartRes) : State × StartRes :=
  match s.dmaRead 2 va n with
  | (s1, none) => (s1, .stall ((s.firstBad 2 false va n).getD va))
  | (s1, some b) => k s1 b

/-- Read and load a model image; MODEL_STAT shows LOADING while the read is stalled (R235, R253). -/
def State.fetchModel (s : State) (va n : Nat) (k : State → List Byte → State × StartRes) : State × StartRes :=
  match s.dmaRead 2 va n with
  | (s1, none) => (s1.dropModel.wr F.SLV_MODEL_STAT_STATE 1, .stall ((s.firstBad 2 false va n).getD va))
  | (s1, some m) => match s1.loadModel m with
    | (s2, true) => k s2 m
    | (s2, false) => (s2, .reject 0x11)

/-- Have the model at an address resident, loading it where it is not (R235, R272). -/
def State.withModel (s : State) (va : Nat) (k : State → List Byte → State × StartRes) : State × StartRes :=
  s.rdBlk va 128 fun s h =>
    match s.slv.model with
    | some m => if mHash m = mHash h then k s m else s.fetchModel va (max 128 (mSize h)) k
    | none => s.fetchModel va (max 128 (mSize h)) k

/-- Read a structure plan (R231). -/
def State.withStruct (s : State) (va : Nat) (k : State → List Byte → State × StartRes) : State × StartRes :=
  s.rdBlk va 16 fun s h => s.rdBlk va (planSize h) k

/-- Read a range plan (R246). -/
def State.withRplan (s : State) (va : Nat) (k : State → List Byte → State × StartRes) : State × StartRes :=
  s.rdBlk va 64 fun s h => s.rdBlk va (max 64 (rpSize h)) k

/-- Tile memory left for a job's scratch (R223, R261): the enabled tiles less the resident model and the factors. -/
def State.tileBytes (s : State) : Nat :=
  let en := max 1 (s.rd F.SLV_CFG_TILES_EN)
  let tiles := ((upto 8).filter fun n => en.testBit n).length
  let facs := (upto 4).foldl (fun n k => if s.bit (F.SLV_FACk_STAT_VALID k) then n + 4 * s.rd (F.SLV_FACk_NNZ_LNNZ k) else n) 0
  tiles * 6291456 - 1024 * s.rd F.SLV_MODEL_STAT_RES_KIB - facs

/-- Bytes that do not fit and spill to SCRATCH. -/
def State.spill (s : State) (work : Nat) : Nat := work - s.tileBytes

/-- NO_SCRATCH does not apply (R223, R271): the range holds the spill and, below queue 0, the save area as well. -/
def State.scratchOk (s : State) (j : Job) (p : List Byte) (work : Nat) : Bool :=
  let size := leAt p (offScratchSize j.kind) 4
  if j.queue = 0 then s.spill work ≤ size else s.spill work + min work s.tileBytes ≤ size

/-- Iterate 0 of an EST job is INIT (R237, R238), with its cost. -/
def Job.estStart (j : Job) (m i : List Byte) : Job :=
  let o := 2 * mUnk m + 2 * mParam m
  let n := estFrames (j.block 0) * mUnk m
  let raw (k : Nat) : Int := leAtS i (4 * k) 4
  let j1 := { j with x := (upto (mParam m)).map (fun k => raw (o + n + k)) ++ (upto n).map fun k => raw (o + k) }
  let c := j1.calcD (do j1.est.cost (← j1.est.allRows)) (Config.cost0 j1.ins : Nat)
  { j1 with cost0 := c, cost := c }

/-- Iterate 0 of an LSQ job is 0 (R245). Log entry 80 (DESIGN CHOICE). -/
def Job.lsqStart (j : Job) : Job :=
  let p := j.block 0
  let j1 := { j with x := (upto (lsqN p + lsqShared p)).map fun _ => 0 }
  let c := j1.calcD (do j1.lsq.cost (← j1.lsq.rows)) (Config.cost0 j1.ins : Nat)
  { j1 with cost0 := c, cost := c }

/-- The iterate of a quadratic programme, with its residuals (R260). -/
def Job.putQp (j : Job) (q : Qp) : Job := { j with x := q.x, z := q.z, y := q.y, priRes := q.rPri, duaRes := q.rDua }

/-- Iterate 0 of a DSP job (R258), with its cost and residuals. -/
def Job.qpStart (j : Job) : Job :=
  let j1 := j.putQp (j.qp.start (j.block 7))
  let c := j1.calcD j1.qp.cost (Config.cost0 j1.ins : Nat)
  { j1 with cost0 := c, cost := c }

/-- The start of an EST job (R235 to R237, R247). -/
def State.startEst (s : State) (j : Job) (p : List Byte) : State × StartRes :=
  s.withModel (estModel p) fun s m => s.withRplan (addrAt p 0x10) fun s r =>
    let f := estFrames p
    if rpMhash r ≠ mHash m || rpKind r ≠ 0 then (s, .reject 0x12)
    else if !rplanOk r (mUnk m - mLink m) (mParam m + f * mLink m) (plSn (m.drop (mOffStruct m)))
        ([252, 253, 254, 255] ++ (upto (mMdef m)).map fun k => leAt m (mOffMdef m + 16 * k + 9) 1) then (s, .reject 0x13)
    else
      let work := f * 1024 * s.rd F.SLV_MODEL_FSZ_KIB + 4 * (mParam m + f * mLink m) ^ 2
      if !s.scratchOk j p work then (s, .reject 0x14)
      else s.rdBlk (estData p) 16 fun s h =>
        if leAt h 0 2 ≠ f || leAt h 4 4 ≠ mMdef m || leAt h 8 4 ≠ mU m ||
            decide (12288 < mParam m + f * mLink m) then (s, .reject 0x15)
        else s.rdBlk (estData p) (16 + f * (8 * mMdef m + 4 * mU m)) fun s d =>
          s.rdBlk (estInit p) (4 * (2 * mUnk m + 3 * mParam m + f * mUnk m)) fun s i =>
            let done (s : State) (hist : List Byte) : State × StartRes :=
              (s, .ok (({ j with started := true, phase := 1, ins := [p, r, m, d, i, hist], kmu := leAtS p 0x54 1, work := work }).estStart m i))
            if estHist p = 0 then done s []
            else s.rdBlk (estHist p) 16 fun s h2 => s.rdBlk (estHist p) (16 + leAt h2 8 4 * (4 + 4 * mNode m)) done

/-- The start of an LSQ job (R244, R247). -/
def State.startLsq (s : State) (j : Job) (p : List Byte) : State × StartRes :=
  let cols := lsqN p + lsqShared p
  s.withStruct (addrAt p 0x20) fun s st => s.withRplan (addrAt p 0x18) fun s r =>
    if rpMhash r ≠ sha3Bytes st || rpKind r ≠ 1 then (s, .reject 0x12)
    else if !rplanOk r (lsqN p) (lsqShared p) (plSn st) [0] then (s, .reject 0x13)
    else s.rdBlk (addrAt p 0x08) (4 * (cols + 1) + 8 * lsqNnz p) fun s a => s.rdBlk (addrAt p 0x10) (8 * lsqM p) fun s b =>
      let ins := [p, r, st, a, b]
      if !s.scratchOk j p (Config.slvWork ins) then (s, .reject 0x14)
      else (s, .ok ({ j with started := true, phase := 1, ins := ins, work := Config.slvWork ins } : Job).lsqStart)

/-- The start of a DSP or FAC job (R255 to R262, R247). -/
def State.startQp (s : State) (j : Job) (p : List Byte) : State × StartRes :=
  let n := qpN p
  let m := qpM p
  let k := qpSlot p
  s.withStruct (addrAt p 0x38) fun s st => s.withRplan (addrAt p 0x30) fun s r =>
    s.rdBlk (addrAt p 0x20) (12 * m) fun s lu =>
    if rpMhash r ≠ sha3Bytes st || rpKind r ≠ 2 then (s, .reject 0x12)
    else if !rplanOk r n 0 (plSn st) ((upto m).map fun i => leAt lu (12 * i + 8) 1) then (s, .reject 0x13)
    else s.rdBlk (addrAt p 0x08) (cscSize n (qpNnzP p)) fun s pa => s.rdBlk (addrAt p 0x18) (cscSize n (qpNnzA p)) fun s aa =>
      let rest (s : State) (q w : List Byte) : State × StartRes :=
        let ins := [p, r, st, pa, aa, lu, q, w]
        let key := factorKey p pa aa lu st
        let have_ := s.bit (F.SLV_FACk_STAT_VALID k) &&
          s.rd (F.SLV_FACk_KEY_LO_KEY_LO k) + 2 ^ 32 * s.rd (F.SLV_FACk_KEY_HI_KEY_HI k) == key
        let build := j.kind = 3 || !have_
        if !s.scratchOk j p (Config.slvWork ins) then (s, .reject 0x14)
        else if build && j.kind = 2 && !pFlag p 0 then (s, .reject 0x16)
        else if !qpOk p pa aa lu st then (s, .reject 0x17)
        else
          let j1 : Job := { j with
          started := true, phase := if build then 7 else 8, ins := ins, work := Config.slvWork ins, slot := some k, writes := build,
          key := key, gen := if build then 0 else s.rd (F.SLV_FACk_STAT_GEN k), lnnz := if build then 0 else s.rd (F.SLV_FACk_NNZ_LNNZ k) }
          (s, .ok (if j.kind = 3 then j1 else j1.qpStart))
      if j.kind = 3 then rest s [] []
      else s.rdBlk (addrAt p 0x10) (4 * n) fun s q =>
        if pFlag p 1 then s.rdBlk (addrAt p 0x28) (4 * (n + 2 * m)) fun s w => rest s q w else rest s q []

/-- The start checks of a job (R247, R268). Log entries 30 (DEDUCED), 35 (DEDUCED). -/
def State.startChecks (s : State) (j : Job) : State × StartRes :=
  s.rdBlk (s.tpl j.tpl).param (paramSize j.kind) fun s p =>
    if !paramOk j.kind p then (s, .reject 0x10)
    else if j.kind = 0 then s.startEst j p
    else if j.kind = 1 then s.startLsq j p
    else s.startQp j p

/-- Start a job: RUNNING, or rejected, or stalled at an access of its start. -/
def State.startJob (s : State) (j : Job) : State :=
  let s0 := ({ s with slv := { s.slv with waiting := s.slv.waiting.filter fun r => r.tpl != j.tpl, next := none } }).setTpl j.tpl
    { s.tpl j.tpl with state := 2 }
  let lat := (s.nowNs - j.accepted) / 1000
  let s1 := if j.preempts then s0.wr F.SLV_PREEMPT_MAX_LAT (max (s0.rd F.SLV_PREEMPT_MAX_LAT) (min 0xFFFF lat)) else s0
  let j1 := { j with preempts := false }
  match s1.startChecks j1 with
  | (s2, .ok j2) => s2.useTiles.setRun (some j2)
  | (s2, .reject r) => (s2.setRun none).rejectJob j.tpl r
  | (s2, .stall va) => (s2.setRun (some { j1 with phase := if s2.rd F.SLV_MODEL_STAT_STATE = 1 then 11 else 0 })).stallJob j.tpl .start false va

/-! ## Selection and pre-emption (R264, R270, R271) -/

/-- The slot a job uses, and whether it will build into it (R264). Log entry 30 (DEDUCED). -/
def State.slotUse (s : State) (j : Job) : Option (Nat × Bool) :=
  if j.kind < 2 then none
  else if j.started then j.slot.map fun k => (k, j.writes)
  else
    let p := s.tplParam j.tpl
    let k := qpSlot p
    let key := factorKey p (s.peekB (addrAt p 0x08) (cscSize (qpN p) (qpNnzP p))) (s.peekB (addrAt p 0x18) (cscSize (qpN p) (qpNnzA p)))
      (s.peekB (addrAt p 0x20) (12 * qpM p)) (s.peekB (addrAt p 0x38) (planSize (s.peekB (addrAt p 0x38) 16)))
    let have_ := s.bit (F.SLV_FACk_STAT_VALID k) && s.rd (F.SLV_FACk_KEY_LO_KEY_LO k) + 2 ^ 32 * s.rd (F.SLV_FACk_KEY_HI_KEY_HI k) == key
    some (k, j.kind = 3 || (pFlag p 0 && !have_))

/-- A waiting job is eligible (R264). -/
def State.eligible (s : State) (j : Job) : Bool :=
  j.out.isNone && (j.started || match s.slotUse j with
    | none => true
    | some (k, w) => s.jobs.all fun o => o.tpl == j.tpl || !o.started || o.slot != some k || (!w && !o.writes))

/-- `a` goes before `b`: the higher queue, the earlier deadline, the earlier acceptance (R270). -/
def Job.before (a b : Job) : Bool :=
  a.queue < b.queue || (a.queue == b.queue && (a.deadline < b.deadline || (a.deadline == b.deadline && a.ord < b.ord)))

/-- The job that a selection point chooses among the eligible waiting jobs. -/
def State.choose (s : State) : Option Job :=
  (s.slv.waiting.filter s.eligible).foldl (fun b j => match b with
    | none => some j
    | some x => if j.before x then some j else some x) none

/-- Start a waiting job, or begin the restore of a pre-empted one (R271). Log entry 34 (DEDUCED). -/
def State.serveJob (s : State) (j : Job) : State :=
  if j.saved then
    (({ s with slv := { s.slv with waiting := s.slv.waiting.filter fun r => r.tpl != j.tpl, next := none } }).setRun (some { j with phase := 10 }))
  else s.startJob j

/-- JOB_START (R270): at a selection point the chosen job starts or resumes on a free solver, or pre-empts a running job of a lower
queue, whose save begins. No job starts while EN is 0 (R277) or one is stalled (R276). -/
def execJobStart (s : State) : Out :=
  .next (s.whileLive .slv fun s =>
    let s := s.freezePoint .slv
    if s.isHalted .slv || !(s.runs .slv) || s.slv.stall.isSome || s.shed then s
    else match s.choose with
      | none => s
      | some j =>
        match s.slv.run with
        | none => s.serveJob j
        | some r =>
          if j.queue < r.queue && r.started && r.out.isNone && r.stopReq.isNone && r.phase ≠ 9 && r.phase ≠ 10 then
            let s1 := (s.putJob { j with preempts := true }).incSat F.SLV_PREEMPT_COUNT
            ({ s1 with slv := { s1.slv with next := some j.tpl } }).setRun (some { r with phase := 9 })
          else s)

/-- The phase at which a job goes on after a restore. -/
def Job.resumePhase (j : Job) : Nat := if j.kind ≤ 1 then 1 else if j.writes && !j.refactored then 7 else 8

/-- The save of the pre-empted job ends (R271): its working set stands in SCRATCH, after what it spilled, and the pre-empting job starts. -/
def State.saveEnd (s : State) (r : Job) : State :=
  let a := addrAt (r.block 0) (offScratch r.kind)
  let spill := s.spill r.work
  let n := r.work - spill
  match s.dmaWrite 2 (a + spill) ((upto n).map (Config.slvSave r.ins r.iter)) with
  | (s1, false) => s1.stallJob r.tpl .save true ((s1.firstBad 2 true (a + spill) n).getD (a + spill))
  | (s1, true) =>
    let nx := s1.slv.next
    let j := { r with saved := true }
    let s2 := ({ s1 with slv := { s1.slv with waiting := s1.slv.waiting ++ [j], next := none } }).setRun none
    let s3 := match j.stopReq with
      | some c => s2.endJob j c
      | none => s2
    match nx.bind fun t => s3.slv.waiting.find? fun q => q.tpl == t with
    | some q => if s3.runs .slv && s3.slv.stall.isNone && s3.eligible q then s3.serveJob q else s3
    | none => s3

/-- PREEMPT_SAVE_END (R271). -/
def execPreemptSaveEnd (s : State) : Out :=
  .next (s.whileLive .slv fun s =>
    match s.slv.run with
    | some r => if r.phase = 9 && s.slv.stall.isNone && !s.shed then s.saveEnd r else s
    | none => s)

/-- The restore of a resumed job ends (R271, R272): a model no longer resident is reloaded first. -/
def State.restoreEnd (s : State) (j : Job) : State :=
  let p := j.block 0
  let back (s : State) : State × StartRes :=
    let spill := s.spill j.work
    s.rdBlk (addrAt p (offScratch j.kind) + spill) (j.work - spill) fun s _ => (s, .ok { j with saved := false, phase := j.resumePhase })
  match (if j.kind = 0 then s.withModel (estModel p) fun s _ => back s else back s) with
  | (s1, .ok j1) => s1.setRun (some j1)
  | (s1, .reject r) => ((s1.dropJob j.tpl)).rejectJob j.tpl r
  | (s1, .stall va) =>
    (s1.setRun (some { j with phase := if s1.rd F.SLV_MODEL_STAT_STATE = 1 then 11 else 10 })).stallJob j.tpl .restore false va

/-- RESTORE_END (R271, R272). -/
def execRestoreEnd (s : State) : Out :=
  .next (s.whileLive .slv fun s =>
    match s.slv.run with
    | some j => if j.phase = 10 && s.slv.stall.isNone && !s.shed then s.restoreEnd j else s
    | none => s)

/-! ## Iterations (R238 to R241, R245, R248, R249, R251, R258, R259) -/

/-- A corrected and an uncorrectable tile memory error (R251, R264); whether the job ends there. -/
def State.tileErrors (s : State) (o : IterOut) : State × Bool :=
  let s1 := { s with tdm := { s.tdm with eccC := s.tdm.eccC + o.corr } }.wr F.SLV_ECC_CORR (satAdd 0xFFFF (s.rd F.SLV_ECC_CORR) o.corr)
  match o.ue with
  | none => (s1, false)
  | some (tile, slots) => (s1.tileFault tile.val slots.toNat, true)

/-- Pivots raised in a factorisation (R241). -/
def State.pivots (s : State) (n : Nat) : State := s.wr F.SLV_PIVOT_CNT_FIXED (satAdd 0xFFFF (s.rd F.SLV_PIVOT_CNT_FIXED) n)

/-- The block of an entry of a job's x. -/
def Job.xBlock (j : Job) (k : Nat) : Nat :=
  if j.kind = 0 then
    let n := mParam (j.block 2)
    let u := mUnk (j.block 2)
    j.plan.blockOf j.est.loc (if k < n then j.est.loc + k else j.est.col ((k - n) / max 1 u) ((k - n) % max 1 u))
  else if j.kind = 1 then j.plan.blockOf (lsqN (j.block 0)) k
  else j.qp.blk k

/-- Lower a format of a job's working plan (R249): its iterate is brought into the new format. Log entry 80 (DESIGN CHOICE). -/
def Job.widen (j : Job) (kind block low : Nat) : Job :=
  let had := ((j.widened.find? fun w => w.1 == (kind, block)).map Prod.snd).getD 0
  let recast (on : Bool) (v : Int) : Int := if on then roundUp (v * pow2 (-(low : Int))) else v
  let cls (i : Nat) : Bool := j.qp.cls i == block
  { j with
    widened := ((kind, block), had + low) :: j.widened.filter fun w => w.1 != (kind, block)
    mags := j.mags.map fun x => if x.1 = (kind, block) then (x.1, x.2 - low) else x
    x := j.x.mapIdx fun k v => recast (kind == 0 && j.xBlock k == block) v
    z := j.z.mapIdx fun i v => recast (kind == 9 && cls i) v
    y := j.y.mapIdx fun i v => recast (kind == 8 && cls i) v }

/-- A range exception (R248, R249): recorded, then a retry in a widened format, or the end of the job. Which block a COST or MODEL exception
names is open. Log entry 80 (DESIGN CHOICE). -/
def State.rangeExc (s : State) (j : Job) (e : RangeExc) : State :=
  let p := j.block 0
  let (blk, s0) := if e.kind = 11 || e.kind = 12 then let (v, s1) := s.draw; (v % 2 ^ 16, s1) else (e.block, s)
  let s1 := (((s0.wr F.SLV_RANGE_INFO_PHASE e.phase).wr F.SLV_RANGE_INFO_KIND e.kind).wr F.SLV_RANGE_INFO_BLOCK blk).wr
    F.SLV_RANGE_INFO_NEED (min 255 e.need)
  let s2 := ((s1.wr F.SLV_RANGE_JOB_TEMPLATE j.tpl).wr F.SLV_RANGE_JOB_SEQ (s.tpl j.tpl).seq).incSat F.SLV_RANGE_CNT_EXC
  let s3 := if s2.bit F.SLV_CFG_RANGE_EVENT then s2.raiseEv .slv 2 else s2.raise .slv 2
  let low := max (rangeStep j.kind p) e.need
  let retry := rangeRetry j.kind p && j.retries < retryMax j.kind p && e.kind ≠ 12 && e.kind ≠ 13 &&
    decide (-16 ≤ j.plan.frac e.kind e.block - low)
  if retry then (s3.incSat F.SLV_RANGE_CNT_RETRY).putJob { (j.widen e.kind e.block low) with retries := j.retries + 1 }
  else s3.putJob { j with out := some (if e.kind = 13 then 3 else 2) }

/-- The durations of a completed iteration. -/
def State.iterTimes (s : State) (o : IterOut) : State :=
  let cap (n : Nat) := min 0xFFFFFF n
  let s1 := (upto 6).foldl (fun s k => match o.phases[k]? with
    | some d => s.wr (F.SLV_PHASE_Tk_US k) (cap d)
    | none => s) s
  (s1.wr F.SLV_ITER_T_US (cap o.us)).wr F.SLV_ITER_MAX_US (max (s1.rd F.SLV_ITER_MAX_US) (cap o.us))

/-- The running job has come to a pre-emption point: an end asked for is decided there, and it works no further (R273, R275). -/
def State.pointReached (s : State) : State :=
  match s.slv.run with
  | some j => match j.stopReq with
    | some c => if j.out.isNone then s.putJob { j with out := some c } else s
    | none => s
  | none => s

/-- Run `k` on the running job, if it is at work of the sort `p` names (its clock stops during a load shed, R528), and come to the
pre-emption point behind it: what does not fit in tile memory is in the SCRATCH range (R223), and an access there that cannot complete
stalls the job. -/
def State.working (s : State) (p : Job → Bool) (k : State → Job → State) : State :=
  s.whileLive .slv fun s =>
    match s.slv.run with
    | none => s
    | some j =>
      if s.shed || s.slv.stall.isSome || !j.started || j.out.isSome || j.phase = 9 || j.phase = 10 || !p j then s
      else
        let a := addrAt (j.block 0) (offScratch j.kind)
        match s.dmaWrite 2 a ((upto (s.spill j.work)).map (Config.slvSave j.ins j.iter)) with
        | (s1, false) => s1.stallJob j.tpl .iterate true ((s.firstBad 2 true a (s.spill j.work)).getD a)
        | (s1, true) => (k s1 j).pointReached

/-- The cost decreased by less than TOL_COST relative to the previous cost (R240): a decrease, and a small one. Log entry 31 (DEDUCED). -/
def smallDecrease (prev cost : Rat) (tol : Word) : Bool :=
  let d := prev - cost
  decide (0 ≤ d) && (tol == 0x7F800000 || decide (d < mkRat (fScaled tol) (2 ^ 149) * prev))

/-- The tiles that TILES_EN enables; 0 acts as tile 0 alone. -/
def tilesOn (en : Nat) : List Nat := (upto 8).filter fun n => (max 1 en).testBit n

/-- The tile that works on frame `t`: the (t mod N)th of the N enabled ones (R238). -/
def frameTile (en t : Nat) : Nat := let l := tilesOn en; l.getD (t % l.length) 0

/-- The tiles that a phase of a job can keep at work (R238): in assemble and frame_fac those of its frames, else all enabled ones. -/
def Job.tiles (j : Job) (en phase : Nat) : List Nat :=
  let frames := if j.kind = 0 then estFrames (j.block 0) else 1
  if j.kind ≤ 1 && phase ≤ 2 then (upto frames).map (frameTile en) else tilesOn en

/-- The job after an EST iteration that completed (R239, R240): the candidate accepted or rejected, k_μ moved, STOP decided. -/
def Job.estNext (j : Job) (o : StepOut) : Job :=
  let p := j.block 0
  let lm := pFlag p 0
  let lower := decide (o.cost < o.prev)
  let acc := !lm || lower
  let k := j.iter + 1
  let kmu : Int := if !lm then j.kmu
    else if lower then max (-30) (j.kmu - leAt p 0x56 1) else min 30 (j.kmu + leAt p 0x55 1)
  let conv := acc && (decide (o.maxDx ≤ leAt p 0x5C 4) || smallDecrease o.prev o.cost (wordAt p 0x58))
  { j with
    iter := k, cost0 := if j.iter = 0 then o.prev else j.cost0, cost := if acc then o.cost else o.prev,
    x := if acc then o.x else j.x, step := if acc then o.maxDx else j.step,
    costUp := j.costUp || (!lm && decide (o.prev < o.cost)), kmu := kmu,
    out := if conv then some 0 else if k = leAt p 0x51 1 then some 1 else none }

/-- The damping of the diagonals (R239): 2^k_μ with Levenberg-Marquardt, else none. -/
def Job.damp (j : Job) : Rat := if pFlag (j.block 0) 0 then pow2 j.kmu else 0

/-- The cost of the iterate where an iteration has established it. -/
def Job.prevCost (j : Job) : Option Rat := if j.iter = 0 then none else some j.cost

/-- EST_ITERATION (R238 to R241, R248, R249, R251). Log entries 28 (DESIGN CHOICE), 80 (DESIGN CHOICE). -/
def execEstIteration (o : IterOut) (s : State) : Out :=
  .next (s.working (fun j => j.kind == 0) fun s j =>
    match s.tileErrors o with
    | (s1, true) => s1
    | (s1, false) =>
      match j.calc (j.est.iterate j.prevCost j.damp) with
      | (.error e, j1, n) => (s1.pivots n).rangeExc j1 e
      | (.ok r, j1, n) => ((s1.pivots n).iterTimes o).putJob (j1.estNext r))

/-- The job after the next iterate of an LSQ job (R245): the solution is iterate 1, each refinement the next. -/
def Job.lsqNext (j : Job) (o : StepOut) : Job :=
  let k := j.iter + 1
  { j with
    iter := k, cost0 := if j.iter = 0 then o.prev else j.cost0, cost := o.cost, x := o.x, step := o.maxDx,
    out := if k = 1 + leAt (j.block 0) 4 4 % 4 then some 0 else none }

/-- Up to `n` further iterates of an LSQ job, and the range exception that ended them. -/
def Job.lsqRun (j : Job) : Nat → Job × Option RangeExc
  | 0 => (j, none)
  | n + 1 =>
    if j.out.isSome then (j, none)
    else match j.calc (j.lsq.iterate j.prevCost) with
      | (.error e, j1, _) => (j1, some e)
      | (.ok r, j1, _) => (j1.lsqNext r).lsqRun n

/-- LSQ_SOLVE (R245): the solution and refinements, up to `n` further iterates. Log entries 28 (DESIGN CHOICE), 80 (DESIGN CHOICE). -/
def execLsqSolve (o : IterOut) (n : BitVec 3) (s : State) : Out :=
  .next (s.working (fun j => j.kind == 1) fun s j =>
    match s.tileErrors o with
    | (s1, true) => s1
    | (s1, false) =>
      match j.lsqRun n.toNat with
      | (j1, some e) => s1.rangeExc j1 e
      | (j1, none) => (s1.iterTimes o).putJob j1)

/-- The job after an ADMM iteration (R258, R259): the iterate, its cost, and the check it ends with. -/
def Job.dspNext (j : Job) (q : Qp) (cost : Rat) : Job :=
  let p := j.block 0
  let k := j.iter + 1
  let check := k % max 1 (leAt p 0x66 1) = 0
  let conv := check && decide (q.rPri ≤ leAt p 0x6C 4) && decide (q.rDua ≤ leAt p 0x70 4)
  { j.putQp q with
    iter := k, cost := cost,
    out := if conv then some 0 else if check && q.infeasible j.y then some 7 else if k = leAt p 0x64 2 then some 1 else none }

/-- An ADMM iteration of a job, with the writebacks of a check and the cost. -/
def Job.admm (j : Job) (fac : List LCol) : Calc (Qp × Rat) := do
  let q ← j.qp.iterate fac
  if (j.iter + 1) % max 1 (leAt (j.block 0) 0x66 1) = 0 then q.check
  return (q, ← inPhase 6 q.cost)

/-- The factor of a slot (R261). -/
def State.factor (s : State) (k : Nat) : List LCol := Sparse.get s.slv.factors [] k

/-- DSP_ITERATION (R248, R249, R258, R259). Log entries 28 (DESIGN CHOICE), 80 (DESIGN CHOICE). -/
def execDspIteration (o : IterOut) (s : State) : Out :=
  .next (s.working (fun j => j.kind == 2 && j.phase == 8) fun s j =>
    match s.tileErrors o with
    | (s1, true) => s1
    | (s1, false) =>
      match j.calc (j.admm (s1.factor (j.slot.getD 0))) with
      | (.error e, j1, _) => s1.rangeExc j1 e
      | (.ok (q, c), j1, _) => (s1.iterTimes o).putJob (j1.dspNext q c))

/-- FACTORISATION_END (R241, R248, R249, R261 to R263): the new factor replaces the slot's in one step; a build that is to stop is abandoned
(R273). -/
def execFactorisationEnd (o : IterOut) (s : State) : Out :=
  .next (s.working (fun j => j.phase == 7 && j.stopReq.isNone) fun s j =>
    match j.slot with
    | none => s
    | some k =>
      match s.tileErrors o with
      | (s1, true) => s1
      | (s1, false) =>
        match j.calc j.qp.factor with
        | (.error e, j1, n) => (s1.pivots n).rangeExc j1 e
        | (.ok fac, j1, n) =>
          let s2 := s1.pivots n
          let gen := (s2.rd (F.SLV_FACk_STAT_GEN k) + 1) % 2 ^ 16
          let lnnz := qpLnnz (j.block 2)
          let s3 := (((s2.wr (F.SLV_FACk_STAT_VALID k) 1).wr (F.SLV_FACk_STAT_GEN k) gen).wr (F.SLV_FACk_KEY_LO_KEY_LO k) j.key).wr
            (F.SLV_FACk_KEY_HI_KEY_HI k) (j.key / 2 ^ 32)
          let s4 := (s3.wr (F.SLV_FACk_NNZ_LNNZ k) lnnz).raise .slv 8
          { s4 with slv := { s4.slv with factors := Sparse.put s4.slv.factors [] k fac } }.putJob { j1 with
            refactored := true, gen := gen, lnnz := lnnz, phase := 8, out := if j.kind = 3 then some 0 else none })

/-- The STOP with which a job ends at this point: a fault; a DEADLINE or ABORTED end asked for before its outcome is written; else what its
iterations decided (R251, R273, R275). -/
def Job.stopNow (j : Job) : Option Nat := if j.out = some 6 || j.phase = 12 then j.out else j.stopReq.orElse fun _ => j.out

/-- JOB_END (R242, R243, R260, R273, R274): the outcome of a waiting job that has ended, or the end of the running job at this pre-emption
point. -/
def execJobEnd (s : State) : Out :=
  .next (s.whileLive .slv fun s =>
    let s := s.freezePoint .slv
    if s.isHalted .slv || s.slv.stall.isSome then s
    else
      match s.slv.waiting.find? fun j => j.out.isSome with
      | some j => s.endJob j (j.out.getD 6)
      | none =>
        match s.slv.run with
        | none => s
        | some j =>
          if j.phase = 9 || j.phase = 10 then s
          else match j.stopNow with
            | some c => s.endJob j c
            | none => s)

/-- STOP_INSTANT (R273, R276). -/
def execStopInstant (tpl : BitVec 8) (s : State) : Out :=
  .next (s.whileLive .slv fun s =>
    match s.jobOf tpl.toNat with
    | none => s
    | some j => if j.out.isSome || !s.reached (s.stopOf j) then s else s.stopStalled j 4)

/-! ## Solver commands (R264, R266, R275, R276) -/

/-- ABORT (R275). -/
def execAbort (m : Master) (tpl : BitVec 8) (s : State) : Out :=
  .next (s.gate m .slv R.SLV_CMD fun s =>
    match s.jobOf tpl.toNat with
    | none => s.err .slv 0x84 tpl.toNat
    | some j => s.stopStalled j 5)

/-- Retry a stalled access. -/
def State.resumeStall (s : State) (x : Stall) : State :=
  let s1 := s.unstall
  match s1.jobOf x.tpl with
  | none => s1
  | some j =>
    match x.at_ with
    | .start => s1.startJob j
    | .iterate => s1
    | .save => s1.saveEnd j
    | .restore => s1.restoreEnd j
    | .outcome => s1.endJob j (j.out.getD 6)

/-- Port 5 issues the unfinished parts of its stalled bursts again, as new transactions; those without a tag stay (R431, R445). -/
def State.reissue (s : State) : State :=
  s.fab.kept.foldl (fun (s : State) x => if s.mayIssue x then s.issueItem x else { s with fab := { s.fab with kept := s.fab.kept ++ [x] } })
    { s with fab := { s.fab with kept := [] } }

/-- RESUME (R276, R445). -/
def execResume (m : Master) (s : State) : Out :=
  .next (s.gate m .slv R.SLV_CMD fun s =>
    match s.slv.stall with
    | none => if s.fab.kept.isEmpty then s.err .slv 0x84 0 else s.reissue
    | some x => (s.resumeStall x).reissue)

/-- A stalled job ends as ABORT does, without the access at which it stands (R276): a result that could not be written leaves FAULT, and so
does a header whose place stands in a parameter block that could not be read. Log entry 33 (DEDUCED). -/
def State.endStalled (s : State) (x : Stall) : State :=
  let s1 := s.unstall
  let va := s.rd F.SLV_STALL_ADDR_LO_ADDR_LO + 2 ^ 32 * s.rd F.SLV_STALL_ADDR_HI_ADDR_HI
  let p := (s.tpl x.tpl).param
  match s1.jobOf x.tpl with
  | none => s1
  | some j =>
    if x.at_ = .outcome || (!j.started && decide (p ≤ va) && decide (va < p + paramSize j.kind)) then s1.finishJob j 6 7
    else { s1 with slv := { s1.slv with next := none } }.endJob j 5

/-- ABORT_STALLED (R276). Log entry 33 (DEDUCED). -/
def execAbortStalled (m : Master) (s : State) : Out :=
  .next (s.gate m .slv R.SLV_CMD fun s =>
    let s1 := { s with fab := { s.fab with kept := [] } }
    match s.slv.stall with
    | none => if s.fab.kept.isEmpty then s.err .slv 0x84 0 else s1
    | some x => s1.endStalled x)

/-- INVALIDATE (R264): a factor slot that no started job uses. Log entry 33 (DEDUCED). -/
def execInvalidate (m : Master) (slot : BitVec 8) (s : State) : Out :=
  .next (s.gate m .slv R.SLV_CMD fun s =>
    let k := slot.toNat % 4
    if s.jobs.any fun j => j.started && j.slot == some k then s.err .slv 0x84 k
    else s.wr (F.SLV_FACk_STAT_VALID k) 0)

/-- Read and check one template entry (R265, R266): 0 OK, 1 CHK_FAIL, 2 BAD_ENTRY, 3 BUSY, 4 FAULT. Log entry 32 (DEDUCED). -/
def State.reloadTpl (s : State) (t : Nat) : State × Nat :=
  let x := s.tpl t
  if (s.jobOf t).isSome then (s, 3)
  else
    match s.dmaRead 2 (s.rd F.SLV_TPL_BASE_LO_BASE_LO * 2 ^ 12 + s.rd F.SLV_TPL_BASE_HI_BASE_HI * 2 ^ 32 + 32 * t) 32 with
    | (s1, none) => (s1.setTpl t { x with en := false }, 4)
    | (s1, some e) =>
      if !crcOk e 0x1C then (s1.setTpl t { x with en := false }, 1)
      else if 3 < leAt e 0 1 || nbits (leAt e 1 1) 2 5 ≠ 0 || 256 < leAt e 2 2 || leAt e 4 4 % 4 ≠ 0 || !zeroAt e 0x0D 3 || !zeroAt e 0x10 12 then
        (s1.setTpl t { x with en := false }, 2)
      else
        (s1.setTpl t { x with
          kind := leAt e 0 1, queue := leAt e 1 1 % 4, en := (leAt e 1 1).testBit 7, rdLen := leAt e 2 2, rdOff := leAt e 4 4,
          param := addrAt e 8 }, 0)

/-- Show a template command's outcome; TPL_DONE ends it. -/
def State.tplShow (s : State) (r t : Nat) : State :=
  (((s.wr F.SLV_TPL_RES_PEND 1).wr F.SLV_TPL_RES_RESULT r).wr F.SLV_TPL_RES_TEMPLATE t).wr F.SLV_TPL_RES_ENABLED s.tplEnabled

/-- TPL_RELOAD (R266). -/
def execTplReload (m : Master) (tpl : BitVec 8) (s : State) : Out :=
  .next (s.gate m .slv R.SLV_TPL_CMD fun s =>
    let (s1, r) := s.reloadTpl tpl.toNat
    s1.tplShow r tpl.toNat)

/-- RELOAD_ALL (R266): templates with a job are skipped, and their presence reports BUSY. Log entry 32 (DEDUCED). -/
def execReloadAll (m : Master) (s : State) : Out :=
  .next (s.gate m .slv R.SLV_TPL_CMD fun s =>
    let (s1, r, t, busy) := (upto 256).foldl (fun (x : State × Nat × Nat × Bool) t =>
      let (s, r, last, busy) := x
      let (s1, c) := s.reloadTpl t
      if c = 3 then (s1, r, last, true) else if c ≠ 0 then (s1, c, t, busy) else (s1, r, if r = 0 then t else last, busy)) (s, 0, 0, false)
    s1.tplShow (if busy then 3 else r) t)

/-- TPL_DONE (R266, R279). -/
def execTplDone (s : State) : Out :=
  .next (s.whileLive .slv fun s =>
    if s.bit F.SLV_TPL_RES_PEND then (s.wr F.SLV_TPL_RES_PEND 0).raise .slv 9 else s)

end Sys2Proof.Machine
end

