-- ==== Sys2Proof/Machine/CadReq.lean ====
section
/-! DEFINITION. The REQ instructions of the Cadence engine: requests to the loop engine and the solver (R100 to R102). -/

namespace Sys2Proof.Machine

/-- REQ LSP: target setpoint of the loop ← W[rs1]; rd ← 0 (R100). -/
def execLsp (c : Fin 16) (rd rs1 : BitVec 5) (slot : BitVec 6) (loop : BitVec 2) (s : State) : Out :=
  .next (s.instr c fun s x => .ok (s.post x (.lsp slot.toNat loop.toNat (x.r rs1))) (x.setR rd 0))

/-- REQ LMODE: mode ← W[rs1] bits 1:0; the value 3 is ignored and sets REQ_DROP; rd ← 0 (R100). -/
def execLmode (c : Fin 16) (rd rs1 : BitVec 5) (slot : BitVec 6) (loop : BitVec 2) (s : State) : Out :=
  .next (s.instr c fun s x =>
    let m := (x.r rs1).toNat % 4
    .ok (if m = 3 then s.stick x flagREQ else s.post x (.lmode slot.toNat loop.toNat m)) (x.setR rd 0))

/-- REQ LMAN: manual output of the loop ← W[rs1]; rd ← 0 (R100). -/
def execLman (c : Fin 16) (rd rs1 : BitVec 5) (slot : BitVec 6) (loop : BitVec 2) (s : State) : Out :=
  .next (s.instr c fun s x => .ok (s.post x (.lman slot.toNat loop.toNat (x.r rs1))) (x.setR rd 0))

/-- REQ LOUT: rd ← the slot's selected output as it stood at the task's cycle start (R100, R101). -/
def execLout (c : Fin 16) (rd : BitVec 5) (slot : BitVec 6) (s : State) : Out :=
  .next (s.instr c fun s x => .ok s (x.setR rd (Sparse.get (s.task x.task).louts (0, 4) slot.toNat).1))

/-- REQ LWIN: rd ← the winning loop's index as it stood at the task's cycle start, 4 for none (R100, R101, R208). -/
def execLwin (c : Fin 16) (rd : BitVec 5) (slot : BitVec 6) (s : State) : Out :=
  .next (s.instr c fun s x => .ok s (x.setR rd (BitVec.ofNat 32 (Sparse.get (s.task x.task).louts (0, 4) slot.toNat).2)))

/-- REQ SLVQ: queue a job of the template with its deadline W[rs1] µs after the task's cycle start; rd ← 0 (R100, R102). -/
def execSlvq (c : Fin 16) (rd rs1 : BitVec 5) (tpl : BitVec 8) (s : State) : Out :=
  .next (s.instr c fun s x =>
    .ok (s.post x (.slvq tpl.toNat ((s.task x.task).start + 1000 * (x.r rs1).toNat))) (x.setR rd 0))

/-- REQ SLVST: rd ← the template's status word as it stood at the task's cycle start (R100, R102). -/
def execSlvst (c : Fin 16) (rd : BitVec 5) (tpl : BitVec 8) (s : State) : Out :=
  .next (s.instr c fun s x => .ok s (x.setR rd (Sparse.get (s.task x.task).tpls 0 tpl.toNat)))

/-- REQ SLVRD: rd ← word W[rs1] of the template's result as it stood at the task's cycle start; BOUNDS at or beyond RD_LEN (R32, R100,
R102, R104, R269). Log entry 69 (DESIGN CHOICE). -/
def execSlvrd (c : Fin 16) (rd rs1 : BitVec 5) (tpl : BitVec 8) (s : State) : Out :=
  .next (s.instr c fun s x =>
    let i := (x.r rs1).toNat
    let res : List Byte := Sparse.get (s.task x.task).wins [] tpl.toNat
    if res.length ≤ 4 * i then .exc excBOUNDS 0 else .ok s (x.setR rd (wordAt res (4 * i))))

end Sys2Proof.Machine
end

