-- ==== Sys2Proof/Machine/CadLoad.lean ====
section
/-! DEFINITION. Loading a program: the load check and the background re-hash (R68 to R76, R86 to R88, R97, R98, R109 to R111). -/

namespace Sys2Proof.Machine

/-! ## The image as bytes -/

/-- Header fields of R69. -/
def hdImgSize (i : List Byte) : Nat := leAt i 0x08 4
def hdTypes (i : List Byte) : Nat := leAt i 0x0C 4
def hdInst (i : List Byte) : Nat := leAt i 0x10 4
def hdSlots (i : List Byte) : Nat := leAt i 0x14 4
def hdCode (i : List Byte) : Nat := leAt i 0x18 4
def hdOff (i : List Byte) (k : Nat) : Nat := leAt i (0x40 + 4 * k) 4
def hdCold (i : List Byte) : Nat := leAt i 0x5C 4
def hdMig (i : List Byte) : Nat := leAt i 0x60 4

/-- The program hash of an image (R70): over its IMG_SIZE bytes. -/
def phashOf (i : List Byte) : List Byte := sha3Bytes (blank (i.take (hdImgSize i)) 0x20 32)

/-- The address of type `t`, instance `k` and slot `k` in the image. -/
def tyAt (i : List Byte) (t : Nat) : Nat := hdOff i 0 + 32 * t
def inAt (i : List Byte) (k : Nat) : Nat := hdOff i 2 + 16 * k
def slAt (i : List Byte) (k : Nat) : Nat := hdOff i 3 + 8 * k

/-- Word `p` of the code section. -/
def codeWord (i : List Byte) (p : Nat) : Nat := leAt i (hdOff i 5 + 4 * p) 4

/-! ## Legal encodings (R86 to R88) -/

/-- A legal encoding: the word spells an instruction (R87, R88). Log entry 10 (DESIGN CHOICE). -/
def legalWord (w : Nat) : Bool := (decodeCad 0 w).isSome

/-- A word may end a type: RET or TRAP. -/
def endsType (w : Nat) : Bool := nbits w 26 6 == 0x31 || nbits w 26 6 == 0x38

/-- The forward offset of a branch or jump word. -/
def branchOff (w : Nat) : Option Nat :=
  let op := nbits w 26 6
  if 0x28 ≤ op && op ≤ 0x2B then some (nbits w 0 16) else if op = 0x2D then some (nbits w 0 26) else none

/-- The loop bodies of the code at `e`, `n` words: first and last word of each, in order. -/
def bodiesOf (i : List Byte) (e n : Nat) : List (Nat × Nat) :=
  (upto n).filterMap fun k =>
    let w := codeWord i (e + k)
    if nbits w 26 6 = 0x2E then some (e + k + 1, e + k + nbits w 0 10) else none

/-- The bodies that hold word `p`. -/
def around (bs : List (Nat × Nat)) (p : Nat) : List (Nat × Nat) := bs.filter fun b => b.1 ≤ p && p ≤ b.2

/-- A branch at `p` continues within the type and inside the same loop body (R97). -/
def branchOk (bs : List (Nat × Nat)) (stop p off : Nat) : Bool :=
  p + 1 + off < stop && around bs (p + 1 + off) == around bs p

/-- A LOOP at `p` obeys R98: bound and length at least 1, its body within the type and within every body that holds it, depth 4. -/
def loopOk (bs : List (Nat × Nat)) (stop p w : Nat) : Bool :=
  let last := p + nbits w 0 10
  1 ≤ nbits w 0 10 && 1 ≤ nbits w 10 11 && last < stop && (around bs p).length < 4 && (around bs p).all fun b => last ≤ b.2

/-- A word names its slot operand: LDS, LDS.ST, STS, QTST, QTST.F. -/
def slotOperand (w : Nat) : Option Nat := if 1 ≤ nbits w 26 6 && nbits w 26 6 ≤ 3 then some (nbits w 0 16) else none

/-! ## The load check (R110) -/

/-- The layout fields of type `t` of an image, as offsets in the image. -/
def fieldOffs (i : List Byte) (t : Nat) : List Nat :=
  (upto (leAt i (tyAt i t + 0x1E) 2)).map fun j => hdOff i 1 + 12 * (leAt i (tyAt i t + 0x1C) 2 + j)

/-- The first failing word of the code of the types. -/
def failWord (i : List Byte) (ok : Nat → Nat → Nat → Bool) : Option Nat :=
  firstSome ((upto (hdTypes i)).map fun t =>
    let e := leAt i (tyAt i t + 4) 4
    let n := leAt i (tyAt i t + 8) 4
    ((upto n).find? fun k => !ok t (e + k) (codeWord i (e + k))).map fun k => hdOff i 5 + 4 * (e + k))

/-- Bytes of each section (R110), in the header's order. -/
def sectionSizes (i : List Byte) : List Nat :=
  let lay := (upto (hdTypes i)).foldl (fun m t => max m (leAt i (tyAt i t + 0x1C) 2 + leAt i (tyAt i t + 0x1E) 2)) 0
  [32 * hdTypes i, 12 * lay, 16 * hdInst i, 8 * hdSlots i, hdCold i, 4 * hdCode i, hdMig i]

/-- SECTION_RANGE: extents of the sections and of the types' code. -/
def checkSections (i : List Byte) : Option Nat :=
  let sz := sectionSizes i
  firstSome
    [need (hdImgSize i + 2420 ≤ 2 ^ 24) 8,
     failAt 7 (fun k =>
       let n := sz.getD k 0
       let o := hdOff i k
       n == 0 || (256 ≤ o && o % 8 == 0 && o + n ≤ hdImgSize i &&
         (upto k).all fun j => sz.getD j 0 == 0 || apart o n (hdOff i j) (sz.getD j 0))) (fun k => 0x40 + 4 * k),
     failAt (hdTypes i) (fun t => 1 ≤ leAt i (tyAt i t + 8) 4 && leAt i (tyAt i t + 4) 4 + leAt i (tyAt i t + 8) 4 ≤ hdCode i) (tyAt i)]

/-- The end of a type's code. -/
def typeEnd (i : List Byte) (t : Nat) : Nat := leAt i (tyAt i t + 4) 4 + leAt i (tyAt i t + 8) 4

/-- ILLEGAL_ENCODING, BAD_BRANCH and BAD_LOOP. -/
def checkCode (i : List Byte) : Option Nat := failWord i fun t p w => legalWord w && (p + 1 != typeEnd i t || endsType w)
def checkBranch (i : List Byte) : Option Nat :=
  failWord i fun t p w => match branchOff w with
    | none => true
    | some off => branchOk (bodiesOf i (leAt i (tyAt i t + 4) 4) (leAt i (tyAt i t + 8) 4)) (typeEnd i t) p off
def checkLoop (i : List Byte) : Option Nat :=
  failWord i fun t p w => nbits w 26 6 != 0x2E ||
    loopOk (bodiesOf i (leAt i (tyAt i t + 4) 4) (leAt i (tyAt i t + 8) 4)) (typeEnd i t) p w

/-- BAD_TYPE: DSIZE, BUDGET, FAULT_POL and the extents of the layout fields; a KIND above 7 has none (R72). Log entry 72 (DESIGN CHOICE). -/
def checkTypes (i : List Byte) : Option Nat :=
  failAt (hdTypes i) (fun t =>
    let d := leAt i (tyAt i t + 0xC) 4
    let b := leAt i (tyAt i t + 0x18) 4
    d % 8 == 0 && 8 ≤ d && d ≤ 65536 && 1 ≤ b && b ≤ 16777215 && leAt i (tyAt i t + 2) 2 % 4 != 3 &&
    (fieldOffs i t).all fun o => leAt i (o + 4) 1 ≤ 7 && leAt i o 2 + leAt i (o + 2) 2 * kindSize (leAt i (o + 4) 1) ≤ d) (tyAt i)

/-- Instance fields of R73. -/
def inDoff (i : List Byte) (k : Nat) : Nat := leAt i (inAt i k) 4
def inType (i : List Byte) (k : Nat) : Nat := leAt i (inAt i k + 4) 2
def inCalled (i : List Byte) (k : Nat) : Bool := (leAt i (inAt i k + 6) 1).testBit 3
def inCold (i : List Byte) (k : Nat) : Nat := leAt i (inAt i k + 0xC) 4
def inSize (i : List Byte) (k : Nat) : Nat := leAt i (tyAt i (inType i k) + 0xC) 4

/-- The cold data of instance `k`: DSIZE bytes, all 0 where it names none (R73). -/
def coldOf (i : List Byte) (k : Nat) : List Byte :=
  if inCold i k = 0xFFFFFFFF then List.replicate (inSize i k) 0
  else
    let bs := (i.drop (hdOff i 4 + inCold i k)).take (min (inSize i k) (hdCold i - inCold i k))
    bs ++ List.replicate (inSize i k - bs.length) 0

/-- The instances that the CHILD fields of instance `k` name at load (R74). -/
def childrenOf (i : List Byte) (k : Nat) : List Nat :=
  let cold := coldOf i k
  (fieldOffs i (inType i k)).flatMap fun o =>
    if leAt i (o + 4) 1 = 7 then (upto (leAt i (o + 2) 2)).map fun j => leAt cold (leAt i o 2 + 4 * j) 4 else []

/-- No repeats. -/
def noRepeat : List Nat → Bool
  | [] => true
  | a :: t => !t.contains a && noRepeat t

/-- BAD_INSTANCE. Log entry 72 (DESIGN CHOICE). -/
def checkInstances (i : List Byte) : Option Nat :=
  let n := hdInst i
  let kids := (upto n).map (childrenOf i)
  let all := kids.flatMap id
  firstSome
    [failAt n (fun k => inType i k < hdTypes i && inDoff i k % 8 == 0 && 72 * hdSlots i ≤ inDoff i k &&
       (upto k).all fun j => apart (inDoff i k) (inSize i k) (inDoff i j) (inSize i j)) (inAt i),
     failAt n (fun k => (kids.getD k []).all fun c => c < n && inCalled i c && (all.filter fun x => x == c).length == 1) (inAt i),
     failAt n (fun k => !inCalled i k || all.contains k) (inAt i)]

/-- BAD_SLOT. Log entry 72 (DESIGN CHOICE). -/
def checkSlots (i : List Byte) : Option Nat :=
  let sig (k : Nat) := leAt i (slAt i k) 4 % 2 ^ 23
  firstSome
    [failAt (hdSlots i) (fun k =>
       let w := leAt i (slAt i k) 4
       nbits w 23 2 != 3 && nbits w 25 3 ≤ 4 && nbits w 29 3 == 0 && leAt i (slAt i k + 4) 4 / 2 ^ 8 == 0 &&
       (upto k).all fun j => sig j != sig k) (slAt i),
     failWord i fun _ _ w => match slotOperand w with
       | some s => s < hdSlots i
       | none => true]

/-- MEMORY and LAYOUT_HASH. -/
def checkMemory (i : List Byte) : Option Nat :=
  failAt (hdInst i) (fun k => inDoff i k + inSize i k ≤ 0x800000) (inAt i)
def checkLayout (i : List Byte) : Option Nat :=
  failAt (hdTypes i) (fun t =>
    (sha3Bytes ((fieldOffs i t).flatMap fun o => (i.drop o).take 12)).take 8 == (i.drop (tyAt i t + 0x10)).take 8) (tyAt i)

/-- BAD_FORMAT: FORMAT, the header counts and its reserved fields. -/
def checkFormat (i : List Byte) : Option Nat :=
  firstSome
    [need (leAt i 4 4 == 1) 4, need (1 ≤ hdTypes i && hdTypes i ≤ 4096) 0x0C, need (1 ≤ hdInst i && hdInst i ≤ 65536) 0x10,
     need (1 ≤ hdSlots i && hdSlots i ≤ 65536) 0x14, need (1 ≤ hdCode i && hdCode i ≤ 4194304) 0x18, need (zeroAt i 0x1C 4) 0x1C,
     need (zeroAt i 0x68 152) 0x68]

/-- The first failure of a list of (code, check) pairs, in order: code and offset; code 0 where all pass. -/
def firstFail : List (Nat × Option Nat) → Nat × Nat
  | [] => (0, 0)
  | (c, some o) :: _ => (c, o)
  | (_, none) :: t => firstFail t

/-- The checks on the header alone (0x01 to 0x03). R110 gives a failing item one offset; where a check has none the model takes that of the
field judged: 0 for NOT_VERIFIED, the header PHASH for HASH_MISMATCH, IMG_SIZE for an image too large, the later section's offset field
for an overlap, the instance's entry for R74. Log entry 72 (DESIGN CHOICE). -/
def headerCheck (i : List Byte) (verified : Bool) : Nat × Nat :=
  firstFail [(1, need (leAt i 0 4 == 0x4441435A) 0), (2, checkFormat i), (3, need verified 0)]

/-- The checks on the whole image `i` (0x04 to 0x0E); `expect` is CAD_PHASHb. Log entry 72 (DESIGN CHOICE). -/
def imageCheck (i : List Byte) (expect : List Byte) : Nat × Nat :=
  firstFail
    [(4, need (phashOf i == (i.drop 0x20).take 32 && phashOf i == expect) 0x20), (5, checkSections i), (6, checkCode i), (7, checkBranch i),
     (8, checkLoop i), (9, checkTypes i), (0x0A, checkInstances i), (0x0B, checkSlots i), (0x0C, checkMemory i), (0x0E, checkLayout i)]

/-! ## Banks (R109) -/

/-- Set the state of a bank. -/
def State.setBank (s : State) (b st : Nat) : State := s.wr (bankFld b) st

/-- Record RESULT and RBANK. -/
def State.bankResult (s : State) (b r : Nat) : State := (s.wr F.CAD_BANK_STAT_RESULT r).wr F.CAD_BANK_STAT_RBANK b

/-- CAD_PHASHb as bytes. -/
def State.phashReg (s : State) (b : Nat) : List Byte := (upto 8).flatMap fun k => leBytes 4 (s.regGet (R.CAD_PHASHb_k b k)).toNat

/-- V0 or V1. -/
def verifyFld (b : Nat) : Fld := if b = 0 then F.CAD_VERIFY_V0 else F.CAD_VERIFY_V1

/-- Put a delivery into the live image: the slot of the signal, if the ACTIVE program carries it as an INPUT (R26, R78). -/
def State.deliverNow (s : State) (d : Delivery) : State :=
  match s.activeBank with
  | none => s
  | some b =>
    match s.slotOfSig b d.sig with
    | none => s
    | some k =>
      if s.slotDir b k ≠ 0 then s
      else
        let st := BitVec.ofNat 32 (d.qual % 8 + 256 * min 255 d.age)
        (s.putLive k d.value st).emit (.deliv k d.value st)

/-- Apply the deliveries held while MIGRATING (R146). -/
def State.applyHeld (s : State) : State :=
  let l := s.cad.held
  let s1 := { s with cad := { s.cad with held := [] } }
  l.foldl State.deliverNow s1

/-- Abandon an online change (R149): CHG_FAIL and code 0x89 with the change result; deliveries held reach the old program's image. -/
def State.abandonChg (s : State) (r : Nat) : State :=
  ((((s.wr F.CAD_CHG_STAT_STATE 5).wr F.CAD_CHG_STAT_RESULT r).raise .cad 11).err .cad 0x89 r).applyHeld

/-- STATE of the online change: 0 IDLE, 1 CHECKING, 2 ARMED, 3 MIGRATING, 4 COMMITTED, 5 ABANDONED. -/
def State.chgState (s : State) : Nat := s.rd F.CAD_CHG_STAT_STATE

/-- LOAD (R109, R149): start loading bank `b`, or refuse for the ACTIVE bank or while a bank is LOADING. It abandons a change in progress,
one that migrates included, for which no word has been copied to instance memory before MIGRATION_END. Code 0x84 has no WOFF of its own:
the model records the register's. Log entry 73 (DESIGN CHOICE). -/
def execLoad (m : Master) (b : Fin 2) (s : State) : Out :=
  .next (s.gate m .cad R.CAD_LOADCMD fun s =>
    if s.bankState b = 3 || s.bankState 0 = 1 || s.bankState 1 = 1 then
      (s.bankResult b 0x0D).err .cad 0x84 (woffOf .cad R.CAD_LOADCMD)
    else
      let s1 := if 1 ≤ s.chgState && s.chgState ≤ 3 then s.abandonChg 7 else s
      let s2 := s1.commit .cad fun f => f.addr == R.CAD_BANKb_BASE_LO b || f.addr == R.CAD_BANKb_BASE_HI b
      let v := s2.bit (verifyFld b)
      let s3 := (s2.wr (verifyFld b) 0).setBank b 1
      { s3 with cad := { s3.cad with loadVerified := v } })

/-- A load ends: LOADED with LOAD_DONE, or FAILED with LOAD_FAIL and code 0x80. Log entry 36 (DEDUCED). -/
def State.loadEnd (s : State) (b r off : Nat) (hash : List Byte) : State :=
  let s1 := (s.bankResult b r).wr F.CAD_LOADOFF_OFFSET off
  if r = 0 then
    let h := leNat hash
    let s2 := { s1 with cad := if b = 0 then { s1.cad with hash0 := h } else { s1.cad with hash1 := h } }
    (s2.setBank b 2).raise .cad 4
  else ((s1.setBank b 4).raise .cad 5).err .cad 0x80 r

/-- Read the image of a bank through context 0; at a fault, the image offset being read. Log entry 72 (DESIGN CHOICE). -/
def State.readImage (s : State) (b n : Nat) : State × Except Nat (List Byte) :=
  let a := s.bankBase b
  match s.dmaRead 0 a n with
  | (s1, some i) => (s1, .ok i)
  | (s1, none) => (s1, .error ((s.firstBad 0 false a n).getD a - a))

/-- LOAD_CHECK_END (R109, R110). -/
def execLoadCheckEnd (s : State) : Out :=
  .next (s.whileLive .cad fun s =>
    if s.bankState 0 ≠ 1 && s.bankState 1 ≠ 1 then s else
    let b := if s.bankState 0 = 1 then 0 else 1
    match s.readImage b 256 with
    | (s1, .error o) => s1.loadEnd b 0x0F o []
    | (s1, .ok h) =>
      let (r, o) := headerCheck h s1.cad.loadVerified
      if r ≠ 0 then s1.loadEnd b r o []
      else
        match s1.readImage b (max 256 (hdImgSize h)) with
        | (s2, .error o) => s2.loadEnd b 0x0F o []
        | (s2, .ok i) =>
          let (r, o) := imageCheck i (s2.phashReg b)
          s2.loadEnd b r o (phashOf i))

/-- The ACTIVE bank is altered (R111): RESULT and RBANK; once per activation, code 0x82 and an event. Codes 0x81 and 0x82 have no WOFF of
their own: the model records 0. Log entry 73 (DESIGN CHOICE). -/
def State.altered (s : State) (b : Nat) : State :=
  let s1 := s.bankResult b 4
  if s1.cad.altReported then s1
  else
    let s2 := s1.errEv .cad 0x82 0
    { s2 with cad := { s2.cad with altReported := true } }

/-- BACKGROUND_REHASH (R110, R111): a read that fails gives the offset being read. -/
def execBackgroundRehash (b : Fin 2) (s : State) : Out :=
  .next (s.whileLive .cad fun s =>
    let st := s.bankState b
    if st ≠ 2 && st ≠ 3 then s else
    match s.readImage b (max 256 (s.img b 8 4)) with
    | (s1, .error o) => if st = 3 then s1.altered b else ((s1.bankResult b 0x0F).wr F.CAD_LOADOFF_OFFSET o).setBank b 4
    | (s1, .ok i) =>
      if leNat (phashOf i) = (if b = 0 then s1.cad.hash0 else s1.cad.hash1) then s1.bankResult b 0
      else if st = 3 then s1.altered b
      else (s1.bankResult b 4).setBank b 4)

/-! ## Instance commands and exception counts (R112) -/

/-- CAD_INST_CMD: OP 1 ENABLE or 2 COLD_INIT waits for the instance's task's next cycle start. -/
def State.instCmd (s : State) (m : Master) (inst : BitVec 16) (op : Nat) : State :=
  s.gatePair m .cad R.CAD_INST_CMD fun s =>
    let s1 := s.emit (.cmd R.CAD_INST_CMD (BitVec.ofNat 32 (inst.toNat + 2 ^ 16 * op + 2 ^ 31)))
    { s1 with cad := { s1.cad with instCmds := s1.cad.instCmds ++ [(inst.toNat, op)] } }

/-- INST_ENABLE (R112). -/
def execInstEnable (m : Master) (inst : BitVec 16) (s : State) : Out := .next (s.instCmd m inst 1)

/-- COLD_INIT (R112). -/
def execColdInit (m : Master) (inst : BitVec 16) (s : State) : Out := .next (s.instCmd m inst 2)

/-- EXC_CNT_CLR (R112): a write of CAD_EXC_FLAGSn with CNT_CLR = 1; its flag bits are written too. -/
def execExcCntClr (m : Master) (n : Fin 8) (v : BitVec 31) (s : State) : Out :=
  .next (s.gate m .cad (R.CAD_EXC_FLAGSn n) fun s =>
    ((s.writeFields m .cad (R.CAD_EXC_FLAGSn n) (v.setWidth 32) (fieldsAt (R.CAD_EXC_FLAGSn n)) 0).1).wr (F.CAD_EXC_CNTn_COUNT n) 0)

end Sys2Proof.Machine
end

