-- ==== Sys2Proof/Machine/Guard.lean ====
section
/-! DEFINITION. The output image, the guard table and the guarded image (R213 to R219), as every block sees them. -/

namespace Sys2Proof.Machine

/-- The active guard bank (R215). -/
def State.guardBank (s : State) : GuardBank := if s.rd F.LPE_GRD_STAT_BANK = 0 then s.lpe.bank0 else s.lpe.bank1

/-- The entry of a signal in the active guard table. -/
def State.guardEntry (s : State) (sig : Nat) : Option GuardEntry := s.guardBank.entries.find? fun e => e.sig == sig

/-- A signal's guard safe value; 0 for a signal without an entry, which never leaves the device (R218). -/
def State.guardSafe (s : State) (sig : Nat) : Word := ((s.guardEntry sig).map (·.safe)).getD 0

/-- The output image's value of a signal, if it has a writer (R213). -/
def State.outVal (s : State) (sig : Nat) : Option OutVal := Sparse.get s.lpe.out none sig

/-- Write a signal of the output image. -/
def State.putOut (s : State) (sig : Nat) (v : OutVal) : State := { s with lpe := { s.lpe with out := Sparse.put s.lpe.out none sig (some v) } }

/-- Leave a signal of the output image without a writer: the guard sends its safe value (R216). -/
def State.dropOut (s : State) (sig : Nat) : State := { s with lpe := { s.lpe with out := Sparse.put s.lpe.out none sig none } }

/-- A task fault holds a signal at its guard safe value, and the hold ends (R107, R122, R125). -/
def State.holdSafe (s : State) (sig : Nat) : State := { s with lpe := { s.lpe with sof := insNat s.lpe.sof sig } }
def State.freeSafe (s : State) (sig : Nat) : State := { s with lpe := { s.lpe with sof := s.lpe.sof.filter fun x => x != sig } }

/-- The guarded image of a signal (R217, R218): absent without an entry; SAFE for every entry while LPE_CTRL.EN is 0 and before the
first pass over the entry. -/
def State.guardedVal (s : State) (sig : Nat) : Option Guarded :=
  match s.guardEntry sig with
  | none => none
  | some e =>
    if !s.en .lpe then some ⟨e.safe, 2⟩
    else some ((Sparse.get s.lpe.guarded none sig).getD ⟨e.safe, 2⟩)

/-- A loop slot, and its replacement. -/
def State.lslot (s : State) (n : Fin 64) : LpeSlot := s.lpe.slots[n]
def State.setLslot (s : State) (n : Fin 64) (x : LpeSlot) : State := { s with lpe := { s.lpe with slots := s.lpe.slots.set n x } }

/-- STATE of a loop slot: 0 DISABLED, 1 RUN, 2 ERROR. -/
def State.lslotState (s : State) (n : Fin 64) : Nat := s.rd (F.LPE_SLOTn_STAT_STATE n)

/-- The 64 loop slots. -/
def allSlots : List (Fin 64) := (upto 64).map (Fin.ofNat 64)

/-- What the guard takes for a signal (R107, R216, R219): no writer while a task fault or a slot in ERROR holds it at its safe value. -/
def State.guardInput (s : State) (sig : Nat) : Option OutVal :=
  if s.lpe.sof.contains sig || (allSlots.any fun n => s.lslotState n == 2 && (s.lslot n).entry.outSig == sig) then none else s.outVal sig

/-- A slot becomes ERROR: it stops, its signal carries its safe value, SLOT_ERR with an event and code 0x83 (R219). -/
def State.slotError (s : State) (n : Fin 64) : State :=
  let x := s.lslot n
  let s1 := (s.wr (F.LPE_SLOTn_STAT_STATE n) 2).dropOut x.entry.outSig
  (s1.err .lpe 0x83 n.val).raiseEv .lpe 4

/-- Every enabled slot for which `p` holds of its output signal becomes ERROR. -/
def State.slotErrors (s : State) (p : Nat → Bool) : State :=
  allSlots.foldl (fun s n => if s.lslotState n = 1 && p (s.lslot n).entry.outSig then s.slotError n else s) s

/-! ## The guard pass (R216) -/

/-- A value as TYPE compares it: INT32 and Q signed, BOOL and UINT32 unsigned. -/
def guardInt (typ : Nat) (w : Word) : Int := if typ = 1 || typ = 3 then w.toInt else w.toNat

/-- `a` is below `b` in the TYPE's comparison. -/
def guardLt (typ : Nat) (a b : Word) : Bool :=
  if typ = 4 then decide (fkey a < fkey b) else decide (guardInt typ a < guardInt typ b)

/-- Clamp into MIN to MAX in the TYPE's comparison. -/
def guardClamp (e : GuardEntry) (v : Word) : Word :=
  if guardLt e.typ v e.min then e.min else if guardLt e.typ e.max v then e.max else v

/-- SLEW × Δt × 10⁻⁶ in binary32, the exact product rounded once. Log entry 23 (DEDUCED). -/
def slewStepF (slew : Word) (dt : Nat) : Word :=
  match f32 slew with
  | .nan _ => qNaN
  | .inf s => if dt = 0 then qNaN else infW s
  | .fin s m e => (packF s (m * dt * 2 ^ 64 / 1000000) (e - 64) (m * dt * 2 ^ 64 % 1000000 != 0)).1

/-- What a pass did to an entry. -/
structure GuardAct where
  safe : Bool := false
  clipped : Bool := false
  slewed : Bool := false
  held : Bool := false
  deriving DecidableEq, Repr

/-- `a` is above `b` in binary32: never where one of them is NaN. -/
def f32Above (a b : Word) : Bool := !isNaN a && !isNaN b && decide (fkey b < fkey a)

/-- Slew limiting of a clamped value `g` (R216): the value sent, the new remainder, and whether it was limited. Log entry 23 (DEDUCED). -/
def guardSlew (e : GuardEntry) (st : GuardState) (dt : Nat) (g : Word) : Word × Nat × Bool :=
  if e.typ = 4 then
    let step := slewStepF e.slew dt
    let d := (fsub g st.prev).1
    if f32Above (fabs d) step then
      ((if fabs d = 0 then st.prev else if d.getLsbD 31 then (fsub st.prev step).1 else (fadd st.prev step).1), 0, true)
    else (g, 0, false)
  else
    let budget := st.rem + e.slew.toNat * dt
    let step : Nat := budget / 1000000
    let d := guardInt e.typ g - guardInt e.typ st.prev
    if step < d.natAbs then
      (ofI (guardInt e.typ st.prev + (if d < 0 then -(step : Int) else step)), budget - step * 1000000, true)
    else (g, 0, false)

/-- Toggle tokens after `dt` µs: one per TOG_REFILL ms up to TOG_MAX (R216). Log entry 23 (DEDUCED). -/
def refill (e : GuardEntry) (st : GuardState) (dt : Nat) : GuardState :=
  if e.togMax ≤ st.tokens then { st with since := 0 }
  else
    let per := e.refill * 1000
    let t := st.since + dt
    let tok := min e.togMax (st.tokens + t / per)
    { st with tokens := tok, since := if tok = e.togMax then 0 else t % per }

/-- One entry of a guard pass (R216): its guarded value, new state and what was done. Log entry 23 (DEDUCED). -/
def guardOne (e : GuardEntry) (safeAll : Bool) (v : Option OutVal) (st : GuardState) (dt : Nat) : Guarded × GuardState × GuardAct :=
  let st := if e.typ = 0 && 0 < e.togMax then refill e st dt else st
  let bad := match v with
    | none => true
    | some o => safeAll || (e.safeOnBad && decide (5 ≤ o.qual)) || (e.typ == 4 && isNaN o.value)
  match v, bad with
  | some o, false =>
    let g := guardClamp e o.value
    let clipped := g != o.value
    let (g1, rem, slewed) := if e.typ ≠ 0 && e.slewEn then guardSlew e st dt g else (g, st.rem, false)
    if e.typ = 0 && 0 < e.togMax && g1 != st.prev then
      if st.tokens = 0 then (⟨st.prev, o.qual⟩, { st with rem := rem }, { clipped := clipped, held := true })
      else (⟨g1, o.qual⟩, { st with prev := g1, rem := rem, tokens := st.tokens - 1 }, { clipped := clipped })
    else (⟨g1, o.qual⟩, { st with prev := g1, rem := rem }, { clipped := clipped, slewed := slewed })
  | _, _ => (⟨e.safe, 2⟩, { st with prev := e.safe, rem := 0 }, { safe := true })

/-- The guard state of a signal: a signal new to the table starts from its SAFE value with TOG_MAX tokens (R215). -/
def State.guardState (s : State) (e : GuardEntry) : GuardState :=
  (Sparse.get s.lpe.state none e.sig).getD ⟨e.safe, 0, e.togMax, 0⟩

/-- Apply one entry of a pass: guarded image, state and counters. -/
def State.guardEntryPass (s : State) (safeAll : Bool) (dt : Nat) (e : GuardEntry) : State × GuardAct :=
  let (g, st, act) := guardOne e safeAll (s.guardInput e.sig) (s.guardState e) dt
  let s1 := { s with lpe := { s.lpe with
    guarded := Sparse.put s.lpe.guarded none e.sig (some g), state := Sparse.put s.lpe.state none e.sig (some st) } }
  let s2 := if act.clipped then s1.incSat F.LPE_GRD_CNT0_CLIPPED else s1
  let s3 := if act.slewed then s2.incSat F.LPE_GRD_CNT0_SLEWED else s2
  let s4 := if act.held then s3.incSat F.LPE_GRD_CNT1_HELD else s3
  (if act.safe then s4.incSat F.LPE_GRD_CNT1_SAFE else s4, act)

/-- The entries of a pass in ascending signal ID; whether any was clipped, slewed or held. -/
def State.guardEntries (s : State) (safeAll : Bool) (dt : Nat) : List GuardEntry → Bool → State × Bool
  | [], acted => (s, acted)
  | e :: t, acted =>
    let (s1, a) := s.guardEntryPass safeAll dt e
    State.guardEntries s1 safeAll dt t (acted || a.clipped || a.slewed || a.held)

/-- Write a 256-bit number into eight registers from an address on, byte 0 first. -/
def State.putHash (s : State) (a : Nat) (h : Nat) : State :=
  (upto 8).foldl (fun s k => s.regPut (a + 4 * k) (BitVec.ofNat 32 (h / 2 ^ (32 * k)))) s

/-- Make the checked guard bank active (R215): state carries by signal ID, signals without an entry lose theirs, enabled slots whose
output has no entry become ERROR (R219), and UNGUARDED may be raised anew (R218). -/
def State.guardSwitch (s : State) : State :=
  let nb := 1 - s.rd F.LPE_GRD_STAT_BANK
  let g := if nb = 0 then s.lpe.bank0 else s.lpe.bank1
  let has (k : Nat) : Bool := g.entries.any fun e => e.sig == k
  let s1 := (((s.wr F.LPE_GRD_STAT_BANK nb).wr F.LPE_GRD_STAT_PEND 0).wr F.LPE_GRD_STAT_N_ENT g.entries.length).regPut R.LPE_GRD_VER
    (BitVec.ofNat 32 g.version)
  let s2 := s1.putHash (R.LPE_GRD_HASHk 0) g.hash
  let s3 := { s2 with lpe := { s2.lpe with
    guarded := s2.lpe.guarded.filter fun p => has p.1, state := s2.lpe.state.filter fun p => has p.1, ungRaised := [] } }
  s3.slotErrors fun sig => !has sig

/-- The signals with a writer and no guard entry (R218). -/
def State.unguarded (s : State) : List Nat := (s.lpe.out.map Prod.fst).filter fun k => (s.guardEntry k).isNone

/-- Count the unguarded signals and raise UNGUARDED once per signal per table (R218). -/
def State.countUnguarded (s : State) : State :=
  let u := s.unguarded
  let new := u.filter fun k => !s.lpe.ungRaised.contains k
  let s1 := s.wr F.LPE_GRD_UNG_COUNT (min u.length 0x3FFF)
  let s2 := { s1 with lpe := { s1.lpe with ungRaised := s1.lpe.ungRaised ++ new } }
  if new.isEmpty then s2 else s2.raise .lpe 8

/-- A slot locked to T0 has yet to be evaluated after the T0 publication (R217). -/
def State.t0SlotsDue (s : State) : Bool :=
  allSlots.any fun n => s.lslotState n == 1 && (s.lslot n).due && (s.lslot n).entry.locked && (s.lslot n).entry.lockTask == 0

/-- A T0 publication still waits for the slots locked to T0: a pass now is not the one over it (R27, R217). -/
def State.passEarly (s : State) : Bool := s.lpe.t0Pending && s.t0SlotsDue

/-- A whole guard pass that starts at TB2 time `now` in ns and switches the guard bank where `switch` says so (R215 to R218). -/
def State.guardPassAt (s : State) (now : Nat) (switch : Bool) : State :=
  let s0 := s.commit .lpe fun f => f.addr == R.LPE_GRD_CFG
  let s1 := if switch then s0.guardSwitch else s0
  let dt := (now - s1.lpe.lastPass) / 1000
  let es := s1.guardBank.entries
  let (s2, acted) := s1.guardEntries (s1.bit F.LPE_GRD_CFG_SAFE_ALL) dt es false
  let s3 := if acted then s2.raise .lpe 7 else s2
  let s4 := (s3.incWrap F.LPE_GRD_PASS_COUNT).wr F.LPE_GRD_PASS_DUR (min 0xFFFF (es.length * 5 / 10))
  let early := s.passEarly
  let s5 := { s4 with lpe := { s4.lpe with
    lastPass := now, t0Pending := early, fresh := s4.lpe.fresh || (s4.lpe.pubNew && !early), pubNew := s4.lpe.pubNew && early } }
  s5.countUnguarded

/-- The guard while LPE_CTRL.EN is 0 (R216, R217): every entry's guarded value is SAFE, from which a later pass moves away. -/
def State.guardStop (s : State) : State :=
  { s with lpe := { s.lpe with
    guarded := []
    state := s.guardBank.entries.foldl (fun l e => Sparse.put l none e.sig (some { s.guardState e with prev := e.safe, rem := 0 })) s.lpe.state } }

/-- A guard pass of this module's own, recorded for the partner (R372). -/
def State.guardPass (s : State) : State :=
  let sw := s.bit F.LPE_GRD_STAT_PEND
  (s.emit (.gpass s.nowNs sw)).guardPassAt s.nowNs sw

end Sys2Proof.Machine
end

