-- ==== Sys2Proof/Machine/CadCycle.lean ====
section
/-! DEFINITION. Task cycles: deliveries, due instants, cycle start, publication, overruns and task commands (R78, R101 to R108, R113
to R123, R133 to R135). -/

namespace Sys2Proof.Machine

/-! ## Deliveries to the live image (R26, R78, R146) -/

/-- A source delivers a signal: held while an online change migrates (R146), withheld on a standby that follows the stream (R372). -/
def State.deliver (s : State) (sig : Nat) (value : Word) (qual age : Nat) : State :=
  if s.following then s
  else if s.chgState = 3 then { s with cad := { s.cad with held := s.cad.held ++ [⟨sig, value, qual, age⟩] } }
  else s.deliverNow ⟨sig, value, qual, age⟩

/-- A delivery from SPK, field I/O or CAN: the metering engine receives it too, whatever the program carries (R288). -/
def State.deliverIn (s : State) (sig : Nat) (value : Word) (qual age : Nat) : State :=
  { s with mtr := { s.mtr with inputs := Sparse.put s.mtr.inputs none sig (some (value, qual)) } }.deliver sig value qual age

/-- The value last delivered for a signal; of one not delivered yet, what its slot holds. -/
def State.lastVal (s : State) (sig : Nat) : Word :=
  match Sparse.get s.mtr.inputs none sig with
  | some x => x.1
  | none => ((s.activeBank.bind fun b => s.slotOfSig b sig).map s.liveVal).getD 0

/-! ## Due instants (R113, R116, R117) -/

/-- The active PERIOD and PHASE of a task. -/
def State.period (s : State) (n : Fin 8) : Nat := max 1 (s.rd (F.CAD_TASKn_PERIOD_PERIOD n))
def State.phase (s : State) (n : Fin 8) : Nat := s.rd (F.CAD_TASKn_PHASE_PHASE n)

/-- T0 takes ring instants: LOCK is 1 and SPK supplies them (R116). -/
def State.ringTask (s : State) (n : Fin 8) : Bool := n == 0 && s.bit (F.CAD_TASKn_CFG_LOCK 0) && s.cad.ringSupplied

/-- A ring instant falls in this clock cycle. -/
def State.ringNow (s : State) : Bool := s.cad.ringAt == some s.tb2

/-- The phase of a task's grid in ns: PHASE, or, while T0 with LOCK runs free, its most recent locked start (R117).
Log entry 90 (DESIGN CHOICE). -/
def State.gridPhase (s : State) (n : Fin 8) : Nat :=
  match (s.task n).gridBase with
  | some g => if n = 0 && s.bit (F.CAD_TASKn_CFG_LOCK 0) then g else 1000 * s.phase n
  | none => 1000 * s.phase n

/-- The time since a task's latest grid instant, in units of TB2. -/
def State.sinceGrid (s : State) (n : Fin 8) : Nat :=
  let p := 1000 * s.period n
  (s.tb2 + (p - s.gridPhase n % p) * unitsPerNs) % (p * unitsPerNs)

/-- A grid instant of a task falls in this clock cycle: TB2 is within one CLK_NET cycle after it. -/
def State.gridNow (s : State) (n : Fin 8) : Bool := decide (s.sinceGrid n < 16 * 2 ^ 44)

/-- The task's latest grid or ring instant, in ns. -/
def State.instantAt (s : State) (n : Fin 8) : Nat :=
  if s.ringTask n then tbNs (s.cad.ringAt.getD 0) else s.nowNs - s.sinceGrid n / unitsPerNs

/-- What was taken at `t` ns was taken at the task's latest instant or after it. -/
def State.taken (s : State) (n : Fin 8) (t : Nat) : Bool := decide (s.instantAt n ≤ t)

/-- A grid or ring instant of the task falls now. -/
def State.instantNow (s : State) (n : Fin 8) : Bool := if s.ringTask n then s.ringNow else s.gridNow n

/-- The next grid instant of a task in ns of TB2, after now and not before its grid's first instant. -/
def State.nextGrid (s : State) (n : Fin 8) : Nat :=
  let p := 1000 * s.period n
  let ph := s.gridPhase n % p
  let from_ := max (s.nowNs + 1) (s.task n).gridFrom
  from_ + (p + ph - from_ % p) % p

/-- When the task's next cycle start after now falls due, in ns of TB2: none while it takes none. -/
def State.nextStart (s : State) (n : Fin 8) : Option Nat :=
  let st := s.taskState n
  if st = 0 || st = 3 then none
  else if s.ringTask n then s.cad.ringAt.map fun u => tbNs u + 1000 * s.rd F.SPK_PERIOD_PERIOD
  else some (s.nextGrid n)

/-- Every task is between cycles. -/
def State.allBetween (s : State) : Bool := allTasks.all fun n => s.taskState n != 2

/-- An instant of the task falls now: none before a new grid begins (R113, R116). -/
def State.dueNow (s : State) (n : Fin 8) : Bool := s.instantNow n && (s.ringTask n || decide ((s.task n).gridFrom ≤ s.nowNs))

/-- A cycle start of an IDLE task is due: its instant, or a start that STRETCH owes (R113, R116, R118). An instant already taken is
not due again. -/
def State.startDue (s : State) (n : Fin 8) : Bool :=
  let t := s.task n
  t.owed || (s.dueNow n && (t.deltaZero || !s.taken n t.start))

/-- No task's next cycle start falls due now or within `d` ns, a start that STRETCH owes included (R129, R144). -/
def State.noneDue (s : State) (d : Nat) : Bool :=
  allTasks.all fun n => match s.nextStart n with
    | none => true
    | some t => !s.startDue n && decide (s.nowNs + d < t)

/-! ## Instance commands at a cycle start (R105, R106, R112) -/

/-- The task of an instance: a CALLED one belongs to its owner's. `fuel` bounds the chain of owners. -/
def State.taskOf (s : State) (b : Nat) : Nat → Nat → Option Nat
  | 0, _ => none
  | fuel + 1, i =>
    if !s.instCalled b i then some (s.instTask b i)
    else match (upto (s.nInst b)).find? fun o => s.owns b o i with
      | none => none
      | some o => s.taskOf b fuel o

/-- Store bytes as whole 64-bit words, which also ends their uncorrectable marks (R440). -/
def State.putClean (s : State) (a : Nat) (bs : List Byte) : State :=
  let s1 := s.putBytes a bs
  { s1 with ue := ueCleared s1.ue a bs.length }

/-- The cold values of an instance of a bank's program, as the bank holds them (R73); what lies beyond the cold-data section reads 0.
Log entry 36 (DEDUCED). -/
def State.coldBytes (s : State) (b i : Nat) : List Byte :=
  let n := s.instDsize b i
  let have_ := s.img b 0x5C 4 - s.instCold b i
  if s.instCold b i = 0xFFFFFFFF then List.replicate n 0
  else (upto n).map fun k => if k < have_ then BitVec.ofNat 8 (s.img b (s.offCold b + s.instCold b i + k) 1) else 0

/-- Without an element. -/
def delNat (l : List Nat) (n : Nat) : List Nat := l.filter fun x => x != n

/-- One instance command takes effect: it leaves HOLD, and COLD_INIT writes its cold values and clears POISONED. -/
def State.applyInst (s : State) (n : Fin 8) (i op : Nat) : State :=
  let b := s.runBank
  let s1 := if op = 2 then s.putClean (s.dataAddr b i 0) (s.coldBytes b i) else s
  let left := s1.cad.hold.contains i
  let t := s1.task n
  let s2 := s1.setTask n { t with leftHold := if left then insNat t.leftHold i else t.leftHold }
  { s2 with cad := { s2.cad with
    hold := delNat s2.cad.hold i, poisoned := if op = 2 then delNat s2.cad.poisoned i else s2.cad.poisoned,
    evOnce := s2.cad.evOnce.filter fun e => e.1 != i } }

/-- The waiting commands of a task's instances take effect in order (R112). -/
def State.applyInstCmds (s : State) (n : Fin 8) : State :=
  let b := s.runBank
  let mine (c : Nat × Nat) : Bool := decide (c.1 < s.nInst b) && s.taskOf b (s.nInst b) c.1 == some n.val
  let s1 := { s with cad := { s.cad with instCmds := s.cad.instCmds.filter fun c => !mine c } }
  (s.cad.instCmds.filter mine).foldl (fun s c => s.applyInst n c.1 c.2) s1

/-! ## Cycle start (R78, R115, R116, R133, R134) -/

/-- Force changes that take effect at this start are recorded for the partner (R137, R372). -/
def State.emitForces (s : State) : State :=
  let es := s.cad.forces.filterMap Prod.snd
  s.cad.forceChg.foldl (fun s sig =>
    s.emit (.force sig ((es.find? fun f => f.sig == sig).map fun f => (f.value, f.qual, f.orphan)))) s

/-- Force changes take effect: the entries as they stand are applied from now on. -/
def State.applyForces (s : State) : State :=
  ({ s with cad := { s.cad with applied := s.cad.forces.filterMap Prod.snd, forceChg := [], forcePend := [] } }).wr F.CAD_FORCE_STAT_PEND 0

/-- The snapshot of a task: every INPUT and SHARED slot from the live image, with forces applied (R78, R134). -/
def State.takeSnapshot (s : State) (n : Fin 8) : State :=
  let b := s.runBank
  (upto (s.nSlots b)).foldl (fun s k =>
    if s.slotDir b k = 1 then s
    else
      let (v, st) := match s.forceOn (s.slotSig b k) with
        | some f => (f.value, putBits (s.liveSt k) 0 4 (f.qual + 8))
        | none => (s.liveVal k, s.liveSt k)
      let a := s.snapAddr b n k
      (s.wrLe a 4 v.toNat).wrLe (a + 4) 4 st.toNat) s

/-- The loop outputs, template status words and template results that the cycle sees (R32, R101, R102). -/
def State.cycleViews (s : State) (t : Task) : Task :=
  { t with
    louts := allSlots.foldl (fun l (n : Fin 64) => Sparse.put l (0, 4) n.val
      ((s.lslot n).lout, s.rd (F.LPE_SLOTn_STAT_WIN n))) [],
    tpls := if s.following then s.tdm.views.map fun x => (x.1, x.2.1)
      else s.slv.tpls.foldl (fun l x => Sparse.put l 0 x.1 (tplWord x.2)) [],
    wins := if s.following then s.tdm.views.map fun x => (x.1, x.2.2.2) else s.slv.tpls.map fun x => (x.1, s.tplResult x.1 x.2) }

/-- The RWS fields of a task (R123). -/
def taskFld (n : Fin 8) (f : Fld) : Bool :=
  f.addr == R.CAD_TASKn_PERIOD n || f.addr == R.CAD_TASKn_PHASE n || f.addr == R.CAD_TASKn_CFG n

/-- What a T0 start does to LOCKED (R116, R117): `ring`: taken at a ring instant. LOCK_CHG is raised for a change, but not at the
first start after START, RESTART or RESTART_COLD. `was`: LOCK before this start; a commit of LOCK = 0 gives T0 its own grid, from 100 µs
after the start on. Log entry 90 (DESIGN CHOICE). -/
def State.lockAtStart (s : State) (ring was : Bool) : State :=
  let t := s.task 0
  let locked := s.bit (F.CAD_TASKn_STAT_LOCKED 0)
  let lock := s.bit (F.CAD_TASKn_CFG_LOCK 0)
  if ring && lock then
    let s1 := (s.wr (F.CAD_TASKn_STAT_LOCKED 0) 1).setTask 0 { t with gridBase := some t.start, quietLock := false }
    if !locked && !t.quietLock then s1.raise .cad 8 else s1
  else if (was || locked) && !lock then
    let s1 := (s.wr (F.CAD_TASKn_STAT_LOCKED 0) 0).setTask 0 { t with gridBase := none, gridFrom := t.start + 100000, quietLock := false }
    if locked then s1.raise .cad 8 else s1
  else s.setTask 0 { t with quietLock := false }

/-- A task cycle starts at TB2 time `now` in ns (R115); `ring`: at a ring instant. Log entry 87 (DESIGN CHOICE). -/
def State.startCycle (s : State) (n : Fin 8) (now : Nat) (ring : Bool) : State :=
  let s1 := s.applyForces
  let p0 := s1.period n
  let ph0 := s1.phase n
  let s2 := s1.commit .cad (taskFld n)
  let t := s2.task n
  let regrid := s2.period n ≠ p0 || s2.phase n ≠ ph0
  let at_ := now - (if s.gridNow n then s.sinceGrid n / unitsPerNs else 0)
  let t1 := { t with
    start := now, prev := t.start, delta := if t.deltaZero then 0 else now / 1000 - t.start / 1000, deltaZero := false, waveWrites := [],
    posts := [], excs := [], flags := 0, faulted := false, leftHold := [], owed := false, ovrThis := false,
    gridFrom := if regrid then at_ + 100000 else t.gridFrom }
  let s3 := (s2.setTask n t1).applyInstCmds n
  let s4 := if n = 0 then s3.lockAtStart ring (s1.bit (F.CAD_TASKn_CFG_LOCK 0)) else s3
  let s5 := (s4.takeSnapshot n).wr (F.CAD_TASKn_STAT_STATE n) 2
  let s6 := s5.setTask n { s5.cycleViews (s5.task n) with waves := s5.wavesOf n, todo := [], saved := [] }
  let s7 := if s6.serving = some n then s6.preempt n else s6
  s7.dispatch

/-- TASK_CYCLE_START (R115): of an IDLE task whose start is due, while CAD runs, no save suspends execution and no change migrates. A
standby takes its starts from the stream (R372). -/
def execTaskCycleStart (n : Fin 8) (s : State) : Out :=
  .next (s.whileLive .cad fun s =>
    if !(s.runs .cad) || s.taskState n ≠ 1 || s.activeBank.isNone || s.saveHolds || s.chgState = 3 || s.following || s.shed || !s.startDue n then s
    else
      let s1 := s.freezePoint .cad
      if s1.isHalted .cad then s1
      else
        let s2 := (s1.emitForces.emit (.start n.val s1.nowNs)).startCycle n s1.nowNs (s1.ringTask n && s1.ringNow)
        if n = 0 then s2.switched else s2)

/-! ## Publication (R101 to R108, R115, R135) -/

/-- Posts and exceptions in ascending scheduled instance, each instance's in the order made (R101, R108). -/
def insPost (p : Post) : List Post → List Post
  | [] => [p]
  | q :: t => if p.inst < q.inst then p :: q :: t else q :: insPost p t
def sortPosts (l : List Post) : List Post := l.foldl (fun a p => insPost p a) []
def insExc (p : Exc) : List Exc → List Exc
  | [] => [p]
  | q :: t => if p.inst < q.inst then p :: q :: t else q :: insExc p t
def sortExcs (l : List Exc) : List Exc := l.foldl (fun a p => insExc p a) []

/-- The events of a cycle's exceptions (R108): every task fault, and the first of each code from each instance; an exception that is both
has the task fault's event alone. Log entry 70 (DESIGN CHOICE). -/
def State.excEvents (s : State) (es : List Exc) : State :=
  es.foldl (fun s e =>
    let seen := s.cad.evOnce.contains (e.inst, e.code)
    let s1 := { s with cad := { s.cad with evOnce := if seen then s.cad.evOnce else (e.inst, e.code) :: s.cad.evOnce } }
    let raw := (s1.regGet (R.BLK_IRQ_RAW .cad)).toNat
    if !(s.bit F.CAD_CFG_EXC_EVENT) then s1
    else if e.fault then s1.event .cad 3 4 raw 0 0 0
    else if !seen then s1.event .cad 2 4 raw 0 0 0
    else s1) s

/-- Record a cycle's exceptions (R108). -/
def State.recordExcs (s : State) (n : Fin 8) : State :=
  match sortExcs (s.task n).excs with
  | [] => s
  | e :: t =>
    let es := e :: t
    let s1 := ((s.wr (F.CAD_EXC_INFOn_CODE n) e.code).wr (F.CAD_EXC_INFOn_INST n) e.inst).wr (F.CAD_EXC_PCn_PC n) e.pc
    let s2 := s1.wr (F.CAD_EXC_CNTn_COUNT n) (satAdd 0xFFFF (s1.rd (F.CAD_EXC_CNTn_COUNT n)) es.length)
    let s3 := if es.any fun x => x.code != excECC_CODE then s2.raise .cad 2 else s2
    let s4 := if es.any fun x => x.fault then s3.raise .cad 3 else s3
    s4.excEvents es

/-- Publish the task's OUTPUT slots into the output image, forces applied; after a task fault its SAFE_ON_FAULT slots send the
guard's safe value (R107, R115, R135). Log entry 14 (DEDUCED). -/
def State.publish (s : State) (n : Fin 8) : State :=
  let b := s.runBank
  (upto (s.nSlots b)).foldl (fun s k =>
    if s.slotDir b k ≠ 1 || s.slotWriter b k ≠ n.val then s
    else
      let sig := s.slotSig b k
      if (s.task n).faulted && s.slotSof b k then s.holdSafe sig
      else match s.forceOn sig with
        | some f => (s.freeSafe sig).putOut sig ⟨f.value, f.qual, n.val⟩
        | none => (s.freeSafe sig).putOut sig ⟨s.liveVal k, qualOf (s.liveSt k), n.val⟩) s

/-- Post one request or event of a cycle; `left` program events may still be posted (R101 to R103). The sticky flags it adds and
whether it was an event are answered. Log entries 22 (DEDUCED), 87 (DESIGN CHOICE). -/
def State.postOne (s : State) (p : Post) (left : Nat) : State × Word × Bool :=
  let toSlot (slot : Nat) : State :=
    let n : Fin 64 := Fin.ofNat 64 slot
    if s.lslotState n = 1 then s.setLslot n { s.lslot n with posts := (s.lslot n).posts ++ [p.kind] } else s
  match p.kind with
  | .lsp slot _ _ => (toSlot slot, 0, false)
  | .lmode slot _ _ => (toSlot slot, 0, false)
  | .lman slot _ _ => (toSlot slot, 0, false)
  | .slvq tpl dl =>
    if s.suppressed then (s, 0, false)
    else
      let (s1, r) := s.acceptJob tpl (dl / 1000)
      if r = 1 then ((s1.incSat F.CAD_REQ_DROP_COUNT).raise .cad 6, flagREQ, false) else (s1, 0, false)
  | .evt code sev p0 p1 =>
    if left = 0 then (s, flagEVT, true)
    else (if s.suppressed then s else s.send { src := 8, code := code, sev := sev, p0 := p0, p1 := p1 }, 0, true)

/-- Post a cycle's requests and events in order. -/
def State.postAll (s : State) : List Post → Nat → Word → State × Word
  | [], _, fl => (s, fl)
  | p :: t, left, fl =>
    let (s1, f, ev) := s.postOne p left
    State.postAll s1 t (if ev then left - 1 else left) (fl ||| f)

/-- The slots locked to the task are to be evaluated; one whose evaluation has not started since the last publication overruns
(R200, R203). -/
def State.dueSlots (s : State) (n : Fin 8) : State :=
  allSlots.foldl (fun s k =>
    let x := s.lslot k
    if s.lslotState k = 1 && x.entry.locked && x.entry.lockTask == n.val then
      let s1 := if x.due then (s.incSat (F.LPE_SLOTn_STAT_OVR k)).raise .lpe 2 else s
      s1.setLslot k { x with due := true }
    else s) s

/-- A task's LAST and MAX at the end of a cycle: µs from its start, rounded up. -/
def State.cycleTime (s : State) (n : Fin 8) : State :=
  let us := min 0xFFFFFF ((s.nowNs - (s.task n).start + 999) / 1000)
  (s.wr (F.CAD_TASKn_LAST_LAST n) us).wr (F.CAD_TASKn_MAX_MAX n) (max us (s.rd (F.CAD_TASKn_MAX_MAX n)))

/-- The lane cross-check of a T0 cycle (R385). -/
def State.laneCheck (s : State) (n : Fin 8) (differs : Bool) : State :=
  if !s.tandem || n ≠ 0 then s
  else
    let s1 := { s with tdm := { s.tdm with
      laneRun := s.tdm.laneRun + 1, laneFail := s.tdm.laneFail + b2n differs, fails := setMark s.tdm.fails 2 differs } }
    if differs then s1.selfTestFail 2 else s1

/-- The task's state after its cycle: FAULTED after a task fault, STOPPED after a STOP, else IDLE (R107, R118, R121). Log entry 14 (DEDUCED). -/
def State.endState (s : State) (n : Fin 8) : State :=
  let t := s.task n
  let st := if t.faulted then 3 else if t.stopPend then 0 else 1
  let s1 := (s.wr (F.CAD_TASKn_STAT_STATE n) st).setTask n { t with stopPend := false, owed := t.owed && st == 1, posts := [], excs := [] }
  let s2 := if t.ovrThis then s1 else s1.wr (F.CAD_TASKn_STAT_LATE n) 0
  if st = 1 then s2 else s2.wr (F.CAD_TASKn_STAT_LOCKED n) 0

/-- The task's last wave is done: nothing of its cycle is left to run. -/
def State.cycleDone (s : State) (n : Fin 8) : Bool :=
  s.taskState n == 2 && s.waveDone n && ((s.task n).waves.isEmpty || (s.task n).faulted)

/-- TASK_PUBLICATION (R107, R108, R115): `differs`: the lane cross-check of a T0 cycle found a difference (R385); `corr`: errors corrected in
instance memory and fetched code during the cycle, counted in CAD_ECC_CNT (R111, R112). Log entry 71 (DESIGN CHOICE). -/
def execTaskPublication (n : Fin 8) (differs : Bool) (corr : Nat) (s : State) : Out :=
  .next (s.whileLive .cad fun s =>
    if !s.cycleDone n || s.saveHolds then s
    else
      let faulted := (s.task n).faulted
      let code := (s.task n).excs.any fun e => e.code == excECC_CODE
      let s0 := s.wr F.CAD_ECC_CNT_CORR (satAdd 0xFFFF (s.rd F.CAD_ECC_CNT_CORR) corr)
      let s1 := (s0.recordExcs n).publish n
      let (s2, fl) := if faulted then (s1, 0) else s1.postAll (sortPosts (s1.task n).posts) (s1.rd F.CAD_CFG_EVT_LIMIT) 0
      let s3 := s2.regPut (R.CAD_EXC_FLAGSn n) (s2.regGet (R.CAD_EXC_FLAGSn n) ||| (s2.task n).flags ||| fl)
      let s4 := (s3.dueSlots n).cycleTime n
      let news := n == 0 || !s4.bit (F.CAD_TASKn_STAT_LOCKED 0)
      let s5 := ({ s4 with lpe := { s4.lpe with t0Pending := s4.lpe.t0Pending || n == 0, pubNew := s4.lpe.pubNew || news } }).endState n
      let s6 := (if (faulted && n == 0) || code then s5.autoFault else s5).laneCheck n differs
      s6.dispatch)

/-! ## Overruns (R118 to R120) -/

/-- The latest-start point of a ring pass in ns after the T0 cycle start (R28). -/
def State.latestStart (s : State) : Nat :=
  1000 * (s.rd F.SPK_PERIOD_PERIOD - s.rd F.SPK_TIMING_GUARD - s.rd F.SPK_TIMING_BUDGET)

/-- Count one overrun of a task: OVR, LATE, OVERRUN, and an event by R120. -/
def State.overrun (s : State) (n : Fin 8) : State :=
  let s1 := ((s.incSat (F.CAD_TASKn_STAT_OVR n)).wr (F.CAD_TASKn_STAT_LATE n) 1).raise .cad 7
  let t := s1.task n
  let cnt := t.ovrSince + 1
  if !t.ovrSeen || t.ovrSec ≠ s.nowSec then
    (s1.setTask n { t with ovrSince := 0, ovrSeen := true, ovrSec := s.nowSec, ovrThis := true, ovrAt := some s.nowNs }).event .cad 7 4
      (s1.regGet (R.BLK_IRQ_RAW .cad)).toNat n.val cnt 0
  else s1.setTask n { t with ovrSince := cnt, ovrThis := true, ovrAt := some s.nowNs }

/-- An overrun happens now: an instant during the cycle or a suspension (R118, R129, R533), or, for a locked T0, its latest-start point with
the publication not complete (R119). A ring instant in the midst of a T0 cycle that is not yet locked is none (R116, R117). -/
def State.overrunNow (s : State) (n : Fin 8) : Bool :=
  let t := s.task n
  let st := s.taskState n
  let late := n == 0 && s.bit (F.CAD_TASKn_STAT_LOCKED 0) && st == 2 && !t.ovrThis && t.start + s.latestStart ≤ s.nowNs
  let counts := if st = 2 then !s.ringTask n || s.bit (F.CAD_TASKn_STAT_LOCKED 0) else st == 1 && (s.saveHolds || s.shed)
  (s.dueNow n && counts && !(t.ovrAt.any (s.taken n)) && (t.deltaZero || !s.taken n t.start)) || late

/-- OVERRUN (R118 to R120): under STRETCH the first missed instant is owed, but not to a locked T0. -/
def execOverrun (n : Fin 8) (s : State) : Out :=
  .next (s.whileLive .cad fun s =>
    if !(s.runs .cad) || s.following || !s.overrunNow n then s
    else
      let s1 := s.overrun n
      if s1.bit (F.CAD_TASKn_CFG_POLICY n) && !s1.ringTask n then s1.setTask n { s1.task n with owed := true } else s1)

/-! ## Task commands (R121, R122) -/

/-- A write of CAD_TASK_CMD, recorded for the partner. -/
def State.taskCmd (s : State) (m : Master) (n : Fin 8) (op : Nat) (k : State → State) : State :=
  s.gatePair m .cad R.CAD_TASK_CMD fun s => k (s.emit (.cmd R.CAD_TASK_CMD (BitVec.ofNat 32 (n.val + 16 * op + 2 ^ 31))))

/-- A task command that does not apply is discarded with code 0x86. -/
def State.badTaskCmd (s : State) (n : Fin 8) : State := s.err .cad 0x86 n.val

/-- The task comes to IDLE as START gives: Δ = 0, the first overrun event, and no LOCK_CHG for its first locked start (R116); overruns
that recorded no event stay counted for the next one (R120). -/
def State.makeIdle (s : State) (n : Fin 8) : State :=
  (s.wr (F.CAD_TASKn_STAT_STATE n) 1).setTask n { s.task n with
    deltaZero := true, quietLock := true, ovrSeen := false, owed := false, stopPend := false, gridFrom := 0,
    gridBase := none }

/-- START of a STOPPED task. -/
def State.doStart (s : State) (n : Fin 8) : State :=
  if s.taskState n = 0 && s.activeBank.isSome then s.makeIdle n else s.badTaskCmd n

/-- STOP: at once, or after the running cycle. -/
def State.doStop (s : State) (n : Fin 8) : State :=
  let st := s.taskState n
  if st = 0 then s.badTaskCmd n
  else if st = 2 then s.setTask n { s.task n with stopPend := true }
  else ((s.wr (F.CAD_TASKn_STAT_STATE n) 0).wr (F.CAD_TASKn_STAT_LOCKED n) 0).setTask n { s.task n with owed := false }

/-- RESTART of a FAULTED task. -/
def State.doRestart (s : State) (n : Fin 8) : State := if s.taskState n = 3 then s.makeIdle n else s.badTaskCmd n

/-- RESTART_COLD: also COLD_INIT of the recorded instance before the first cycle. -/
def State.doRestartCold (s : State) (n : Fin 8) : State :=
  if s.taskState n = 3 then
    let s1 := s.makeIdle n
    { s1 with cad := { s1.cad with instCmds := s1.cad.instCmds ++ [(s.rd (F.CAD_EXC_INFOn_INST n), 2)] } }
  else s.badTaskCmd n

/-- START (R121). -/
def execStart (m : Master) (n : Fin 8) (s : State) : Out := .next (s.taskCmd m n 1 fun s => s.doStart n)

/-- STOP (R121). -/
def execStop (m : Master) (n : Fin 8) (s : State) : Out := .next (s.taskCmd m n 2 fun s => s.doStop n)

/-- RESTART (R122). -/
def execRestart (m : Master) (n : Fin 8) (s : State) : Out := .next (s.taskCmd m n 3 fun s => s.doRestart n)

/-- RESTART_COLD (R122). -/
def execRestartCold (m : Master) (n : Fin 8) (s : State) : Out := .next (s.taskCmd m n 4 fun s => s.doRestartCold n)

/-- CLR_OVR (R121, R123). -/
def execClrOvr (m : Master) (n : Fin 8) (s : State) : Out :=
  .next (s.taskCmd m n 5 fun s => s.wr (F.CAD_TASKn_STAT_OVR n) 0)

end Sys2Proof.Machine
end

