-- ==== Sys2Proof/Machine/CadStart.lean ====
section
/-! DEFINITION. Starting a program, the retained-data set, migration maps and the re-binding of forces (R125 to R132, R139 to R141). -/

namespace Sys2Proof.Machine

/-! ## Migration maps (R139 to R141) -/

/-- The program map of an image for an old program hash: image offset and length of its entries. -/
def State.pmapOf (s : State) (b hash : Nat) : Option (Nat × Nat) :=
  let o := s.offMig b
  if s.img b 0x60 4 = 0 then none
  else ((upto (s.img b o 4)).find? fun k => s.img b (o + 16 + 48 * k) 32 == hash).map fun k =>
    (s.img b (o + 16 + 48 * k + 32) 4, s.img b (o + 16 + 48 * k + 36) 4)

/-- The conversion map of an image for a pair of layout hashes: image offset and length of its operations. -/
def State.cmapOf (s : State) (b old new : Nat) : Option (Nat × Nat) :=
  let o := s.offMig b
  let c := o + 16 + 48 * s.img b o 4
  if s.img b 0x60 4 = 0 then none
  else ((upto (s.img b (o + 4) 4)).find? fun k => s.img b (c + 32 * k) 8 == old && s.img b (c + 32 * k + 8) 8 == new).map fun k =>
    (s.img b (c + 32 * k + 16) 4, s.img b (c + 32 * k + 20) 4)

/-- A conversion-map operation (R141). -/
structure ConvOp where
  dst : Nat
  src : Nat
  count : Nat
  op : Nat
  arg : Nat
  deriving DecidableEq, Repr

/-- The operations of a conversion map. -/
def State.convOps (s : State) (b : Nat) (m : Nat × Nat) : List ConvOp :=
  (upto m.2).map fun k =>
    let o := m.1 + 8 * k
    ⟨s.img b o 2, s.img b (o + 2) 2, s.img b (o + 4) 2, s.img b (o + 6) 1, s.img b (o + 7) 1⟩

/-- Bytes of an element of an operation. -/
def convSize (op : Nat) : Nat := if op = 1 then 2 else if op = 2 then 1 else 4

/-- One element converted, with the flags it sets (R141). -/
def convElem (op arg : Nat) (x : Nat) : Nat × Word :=
  let w : Word := BitVec.ofNat 32 x
  let sh := sext 8 arg
  let r : Res :=
    if op = 3 then (if 0 ≤ sh then qshl w sh.toNat else qshr w (-sh).toNat)
    else if op = 4 then plain (fcvtSQ w 0).1
    else if op = 5 then fcvtQS w 0
    else if op = 6 then plain (fcvtSQ w arg).1
    else if op = 7 then fcvtQS w arg
    else plain w
  (r.1.toNat, r.2)

/-- `bs` with the bytes from `o` on replaced, within its length. -/
def patch (bs : List Byte) (o : Nat) (v : List Byte) : List Byte :=
  let v := v.take (bs.length - o)
  bs.take o ++ v ++ bs.drop (o + v.length)

/-- Element `j` of an operation is converted: a defined OP, source and destination within the data, and at a warm start a destination
within a RETAIN field (R128, R141); `keep`: the extents of these fields, none where every field is converted. Log entry 36 (DEDUCED). -/
def convHere (old new : List Byte) (keep : Option (List (Nat × Nat))) (c : ConvOp) (j : Nat) : Bool :=
  let n := convSize c.op
  let d := c.dst + n * j
  decide (c.op < 8) && decide (c.src + n * j + n ≤ old.length) && decide (d + n ≤ new.length) &&
    (match keep with | none => true | some es => es.any fun e => decide (e.1 ≤ d) && decide (d + n ≤ e.1 + e.2))

/-- One operation over its elements. -/
def applyConv (old : List Byte) (keep : Option (List (Nat × Nat))) (x : List Byte × Word) (c : ConvOp) : List Byte × Word :=
  let n := convSize c.op
  (upto c.count).foldl (fun x j =>
    if convHere old x.1 keep c j then
      let r := convElem c.op c.arg (leAt old (c.src + n * j) n)
      (patch x.1 (c.dst + n * j) (leBytes n r.1), x.2 ||| r.2)
    else x) x

/-- The old data converted over cold values, and the flags set. -/
def convert (ops : List ConvOp) (old cold : List Byte) (keep : Option (List (Nat × Nat))) : List Byte × Word :=
  ops.foldl (applyConv old keep) (cold, 0)

/-- The extents of the RETAIN fields of a type: offset and bytes. -/
def State.retainOf (s : State) (b t : Nat) : List (Nat × Nat) :=
  ((s.layoutOf b t).filter (·.retain)).map fun f => (f.off, f.count * kindSize f.kind)

/-- `base` with the given extents taken from `new`. -/
def takeExtents (base new : List Byte) (es : List (Nat × Nat)) : List Byte :=
  es.foldl (fun x e => patch x e.1 ((new.drop e.1).take e.2)) base

/-! ## Programs and banks -/

/-- S: bytes of a program's instance memory, to the end of its highest instance data (R129, R143). -/
def State.memSize (s : State) (b : Nat) : Nat :=
  (upto (s.nInst b)).foldl (fun m i => max m (s.instDoff b i + s.instDsize b i)) (72 * s.nSlots b)

/-- The signals with an OUTPUT slot in a program. -/
def State.outSigs (s : State) (b : Nat) : List Nat :=
  ((upto (s.nSlots b)).filter fun k => s.slotDir b k == 1).map (s.slotSig b)

/-- The PHASH a bank holds. -/
def State.bankHash (s : State) (b : Nat) : Nat := if b = 0 then s.cad.hash0 else s.cad.hash1

/-- Bank `b` becomes ACTIVE, the other, if it was ACTIVE, LOADED; CAD_AHASHk shows its hash. -/
def State.activate (s : State) (b : Nat) : State :=
  let s1 := if s.bankState (1 - b) = 3 then s.setBank (1 - b) 2 else s
  let s2 := (s1.setBank b 3).putHash (R.CAD_AHASHk 0) (s1.bankHash b)
  { s2 with cad := { s2.cad with altReported := false } }

/-- Re-bind the force table to the ACTIVE program: entries without a slot become ORPHAN, with one event each and the cause (R132). -/
def State.rebind (s : State) : State :=
  let b := s.runBank
  let lost := s.cad.forces.filter fun e => match e.2 with
    | some f => !f.orphan && (s.slotOfSig b f.sig).isNone
    | none => false
  let s1 := lost.foldl (fun s e => match e.2 with
    | some f => { s with cad := { s.cad with
        forces := Sparse.put s.cad.forces none e.1 (some { f with orphan := true }), forceChg := insNat s.cad.forceChg f.sig,
        forcePend := insNat s.cad.forcePend e.1 } }
    | none => s) s
  if lost.isEmpty then s1
  else
    let s2 := s1.raise .cad 12
    lost.foldl (fun s e => match e.2 with
      | some f => s.event .cad 12 4 e.1 f.sig 0 0
      | none => s) s2

/-- Signals that lose their OUTPUT slot carry their guard safe value, with one event (R126, R147). -/
def State.dropSigs (s : State) (sigs : List Nat) : State :=
  let s1 := sigs.foldl State.dropOut s
  if sigs.isEmpty then s1 else s1.event .cad 0x23 4 sigs.length 0 0 0

/-- A slot of a fresh live image: 0 with INIT, an OUTPUT slot its guard safe value with INIT (R126). -/
def State.initSlot (s : State) (b k : Nat) : State :=
  s.putLive k (if s.slotDir b k = 1 then s.guardSafe (s.slotSig b k) else 0) 4

/-- What one instance receives at a start: its data, the flags set, kept or converted, and, where it is mismatched, the layout hash of
its old instance (0 where it has none). -/
structure InstStart where
  data : List Byte
  flags : Word := 0
  kept : Bool := false
  conv : Bool := false
  mism : Option Nat := none
  deriving DecidableEq, Repr

/-- A start of bank `b` with the instance data `f` (R125, R126): tasks STOPPED, the safe values of R107 ended, image area, instance data,
HOLD, POISONED, forces; overruns that recorded no event stay counted (R120). Until its task publishes, a signal that R107 held carries
what was last published. Log entry 75 (DESIGN CHOICE). -/
def State.startBank (s : State) (b : Nat) (f : Nat → InstStart) : State :=
  let gone := match s.activeBank with
    | none => []
    | some o => (s.outSigs o).filter fun k => !(s.outSigs b).contains k
  let s1 := allTasks.foldl (fun s n =>
    (((s.wr (F.CAD_TASKn_STAT_STATE n) 0).wr (F.CAD_TASKn_STAT_LOCKED n) 0)).setTask n { ovrSince := (s.task n).ovrSince }) { s with lpe := { s.lpe with sof := [] } }
  let s2 := s1.activate b
  let s3 := (upto (s2.nSlots b)).foldl (fun s k => s.initSlot b k) s2
  let s4 := (upto (s3.nInst b)).foldl (fun s i => s.putClean (s.dataAddr b i 0) (f i).data) s3
  let held := (upto (s4.nInst b)).filter fun i => (s4.instSched b i).testBit 4
  let s5 := { s4 with cad := { s4.cad with hold := held, poisoned := [], evOnce := [] } }
  (s5.dropSigs gone).rebind

/-- Start the named tasks as START does. -/
def State.startTasks (s : State) (tasks : BitVec 8) : State :=
  allTasks.foldl (fun s n => if tasks.getLsbD n.val then s.makeIdle n else s) s

/-- START_BANK. -/
def State.startBankNo (s : State) : Nat := s.rd F.CAD_CFG_START_BANK

/-- The reason a start is refused (R125, R130): 5 DISABLED, 4 BUSY, 3 NOT_LOADED; 0 where it is accepted. Log entry 36 (DEDUCED). -/
def State.startRefusal (s : State) : Nat :=
  if !s.en .cad then 5
  else if (allTasks.any fun n => s.taskState n == 1 || s.taskState n == 2) || (1 ≤ s.chgState && s.chgState ≤ 3) then 4
  else if s.bankState s.startBankNo ≠ 2 && s.bankState s.startBankNo ≠ 3 then 3
  else 0

/-- Show the end of a start: RESULT and START_DONE, with code 0x87 where it is refused. -/
def State.startDone (s : State) (r : Nat) : State :=
  let s1 := (s.wr F.CAD_START_STAT_RESULT r).raise .cad 9
  if 3 ≤ r then s1.err .cad 0x87 r else s1

/-- A cold start (R126). -/
def State.coldStart (s : State) (tasks : BitVec 8) (r : Nat) : State :=
  let b := s.startBankNo
  ((s.startBank b fun i => { data := s.coldBytes b i }).startTasks tasks).startDone r

/-- COLD_START (R125, R126). -/
def State.coldStartCmd (s : State) (tasks : BitVec 8) : State :=
  let r := s.startRefusal
  if r ≠ 0 then s.startDone r else (s.wr F.CAD_START_STAT_WARM 0).coldStart tasks 0

/-- COLD_START (R125, R126). -/
def execColdStart (m : Master) (tasks : BitVec 8) (s : State) : Out :=
  .next (s.gatePair m .cad R.CAD_START fun s =>
    (s.emit (.cmd R.CAD_START (BitVec.ofNat 32 (256 * tasks.toNat + 2 ^ 31)))).coldStartCmd tasks)

/-! ## The retained-data set (R127, R128) -/

/-- The address of the set in CAD's context. -/
def State.retBase (s : State) : Nat := s.rd F.CAD_RET_BASE_LO_BASE_LO * 2 ^ 6 + s.rd F.CAD_RET_BASE_HI_BASE_HI * 2 ^ 32

/-- Commit CAD_RET_BASE: its boundary is the start of a save or a warm start. -/
def State.commitRetBase (s : State) : State := s.commit .cad fun f => f.addr == R.CAD_RET_BASE_LO || f.addr == R.CAD_RET_BASE_HI

/-- Records and data of a set. -/
def setInst (x : List Byte) : Nat := leAt x 0x0C 4
def setHash (x : List Byte) : Nat := leAt x 0x10 32
def setLhash (x : List Byte) (i : Nat) : Nat := leAt x (0x40 + 16 * i) 8
def setData (x : List Byte) (i : Nat) : List Byte := (x.drop (leAt x (0x40 + 16 * i + 8) 4)).take (leAt x (0x40 + 16 * i + 12) 4)

/-- The set as read and checked (R128): the whole set, or what failed (1 MAGIC to 6 CRC, 7 fault). Log entry 91 (DESIGN CHOICE). -/
def State.readSet (s : State) : State × Except Nat (List Byte) :=
  let a := s.retBase
  match s.dmaRead 0 a 64 with
  | (s1, none) => (s1, .error 7)
  | (s1, some h) =>
    let size := leAt h 8 4
    let n := setInst h
    if leAt h 0 4 ≠ 0x5445525A then (s1, .error 1)
    else if leAt h 4 4 ≠ 1 then (s1, .error 2)
    else if n < 1 || 65536 < n then (s1, .error 3)
    else if size < 64 + 16 * n || 9437248 < size then (s1, .error 4)
    else
      match s1.dmaRead 0 a size with
      | (s2, none) => (s2, .error 7)
      | (s2, some x) =>
        if !(upto n).all fun i => leAt x (0x40 + 16 * i + 8) 4 + leAt x (0x40 + 16 * i + 12) 4 ≤ size then (s2, .error 5)
        else if (crc32 (blank x 0x30 4)).toNat ≠ leAt x 0x30 4 then (s2, .error 6)
        else (s2, .ok x)

/-- What a warm start gives instance `i` of bank `b` from the set `x` (R128). Log entry 36 (DEDUCED). -/
def State.warmInst (s : State) (b : Nat) (x : List Byte) (i : Nat) : InstStart :=
  let cold := s.coldBytes b i
  let t := s.instType b i
  let lh := s.typeLhash b t
  let es := s.retainOf b t
  let bad (old : Nat) : InstStart := { data := cold, mism := some old }
  let copy (o : Nat) : InstStart :=
    if setLhash x o = lh then { data := takeExtents cold (setData x o) (es.filter fun e => e.1 + e.2 ≤ (setData x o).length), kept := true }
    else bad (setLhash x o)
  let conv (o : Nat) : InstStart :=
    match s.cmapOf b (setLhash x o) lh with
    | some m =>
      let r := convert (s.convOps b m) (setData x o) cold (some es)
      { data := r.1, flags := r.2, conv := true }
    | none => bad (setLhash x o)
  match s.pmapOf b (setHash x) with
  | some (off, n) =>
    if n ≤ i then bad 0
    else
      let e := s.img b (off + 4 * i) 4
      let o := e % 2 ^ 16
      let act := nbits e 16 2
      if setInst x ≤ o then bad 0
      else if act = 0 then copy o
      else if act = 1 then conv o
      else if act = 2 then { data := cold }
      else bad (setLhash x o)
  | none =>
    if setInst x ≤ i then { data := cold }
    else if setLhash x i = lh then copy i
    else conv i

/-- One event for each type with mismatched instances (R128). -/
def State.mismEvents (s : State) (b : Nat) (f : Nat → InstStart) : State :=
  (upto (s.nTypes b)).foldl (fun s t =>
    let l := ((upto (s.nInst b)).filter fun i => s.instType b i == t).filterMap fun i => (f i).mism
    match l with
    | [] => s
    | h :: _ => s.event .cad 0x21 5 t l.length (h % 2 ^ 32) (s.typeLhash b t % 2 ^ 32)) s

/-- Flags of conversions, in the register of the task that owns the new instance (R141). -/
def State.convFlags (s : State) (b i : Nat) (fl : Word) : State :=
  if fl = 0 then s
  else match s.taskOf b (s.nInst b) i with
    | none => s
    | some n => s.regPut (R.CAD_EXC_FLAGSn n) (s.regGet (R.CAD_EXC_FLAGSn n) ||| fl)

/-- A warm start (R128): from the retained-data set, or cold where the set is bad. -/
def State.warmStart (s : State) (tasks : BitVec 8) : State :=
  let s0 := s.commitRetBase.wr F.CAD_START_STAT_WARM 1
  let b := s0.startBankNo
  match s0.readSet with
  | (s1, .error w) =>
    let r := if w = 7 then 2 else 1
    ((((s1.wr F.CAD_START_STAT_NCOLD 0).wr F.CAD_START_CNT_NKEEP 0).wr F.CAD_START_CNT_NCONV 0).event .cad 0x20 5 r w 0 0).coldStart tasks r
  | (s1, .ok x) =>
    let f (i : Nat) : InstStart := s1.warmInst b x i
    let is := upto (s1.nInst b)
    let s2 := s1.startBank b f
    let s3 := is.foldl (fun s i => s.convFlags b i (f i).flags) s2
    let s4 := s3.wr F.CAD_START_STAT_NCOLD (min 0xFFFF (is.filter fun i => (f i).mism.isSome).length)
    let s5 := (s4.wr F.CAD_START_CNT_NKEEP (min 0xFFFF (is.filter fun i => (f i).kept).length)).wr F.CAD_START_CNT_NCONV
      (min 0xFFFF (is.filter fun i => (f i).conv).length)
    ((s5.mismEvents b f).startTasks tasks).startDone 0

/-- A write of CAD_START with MODE 1. -/
def State.warmStartCmd (s : State) (tasks : BitVec 8) : State :=
  let r := s.startRefusal
  if r ≠ 0 then s.startDone r else s.warmStart tasks

/-- WARM_START (R125, R128). -/
def execWarmStart (m : Master) (tasks : BitVec 8) (s : State) : Out :=
  .next (s.gatePair m .cad R.CAD_START fun s =>
    (s.emit (.cmd R.CAD_START (BitVec.ofNat 32 (1 + 256 * tasks.toNat + 2 ^ 31)))).warmStartCmd tasks)

/-! ## Saves (R129) -/

/-- D_save in ns, rounded up. -/
def State.saveNs (s : State) : Nat := 10000 + (s.memSize s.runBank * 390625 + 9999999) / 10000000

/-- CAD_CHG_TIMEOUT in ns; 0 acts as 1 ms (R151). -/
def State.chgTimeoutNs (s : State) : Nat := 1000000 * max 1 (s.rd F.CAD_CHG_TIMEOUT_MS)

/-- A save ends with a result: RET_DONE, and code 0x88 where it failed. -/
def State.retEnd (s : State) (r : Nat) : State :=
  let s1 := ((s.wr F.CAD_RET_STAT_STATE 0).wr F.CAD_RET_STAT_RESULT r).raise .cad 13
  let s2 := if r = 0 then s1 else s1.err .cad 0x88 r
  { s2 with cad := { s2.cad with suspended := false, retNow := false, retSet := none } }.dispatch

/-- A write of CAD_RET_CMD (R129, R130). -/
def State.retCmd (s : State) (m : Master) (now : Bool) : State :=
  s.gate m .cad R.CAD_RET_CMD fun s =>
    if s.rd F.CAD_RET_STAT_STATE ≠ 0 then s.err .cad 0x8A (woffOf .cad R.CAD_RET_CMD)
    else if s.activeBank.isNone then s.retEnd 3
    else
      let s1 := s.wr F.CAD_RET_STAT_STATE 1
      { s1 with cad := { s1.cad with retNow := now, retSince := s1.nowNs } }

/-- RET_SAVE_WAIT (R129). -/
def execRetSaveWait (m : Master) (s : State) : Out := .next (s.retCmd m false)

/-- RET_SAVE_NOW (R129). -/
def execRetSaveNow (m : Master) (s : State) : Out := .next (s.retCmd m true)

/-- The records and data of the ACTIVE program's set, and its whole header with the CRC (R127). -/
def State.retainedSet (s : State) : List Byte × List Byte :=
  let b := s.runBank
  let is := upto (s.nInst b)
  let size := 64 + 16 * s.nInst b + is.foldl (fun n i => n + s.instDsize b i) 0
  let recs := (is.foldl (fun (x : List Byte × Nat) i =>
    let d := s.instDsize b i
    (x.1 ++ leBytes 8 (s.typeLhash b (s.instType b i)) ++ leBytes 4 x.2 ++ leBytes 4 d, x.2 + d)) ([], 64 + 16 * s.nInst b)).1
  let body := recs ++ is.flatMap fun i => s.bytes (s.dataAddr b i 0) (s.instDsize b i)
  let head (crc : Nat) : List Byte := leBytes 4 0x5445525A ++ leBytes 4 1 ++ leBytes 4 size ++ leBytes 4 (s.nInst b) ++
    leBytes 32 (s.bankHash b) ++ leBytes 4 crc ++ leBytes 12 0
  (body, head (crc32 (head 0 ++ body)).toNat)

/-- An instance of the ACTIVE program holds an uncorrectable word. -/
def State.dataBad (s : State) : Bool :=
  let b := s.runBank
  (upto (s.nInst b)).any fun i => (s.ueIn (s.dataAddr b i 0) (s.instDsize b i)).isSome

/-- RET_SAVE_BEGIN (R129): the window of a waiting save, or every lane at an instance boundary for a save with NOW = 1. The set holds the
data as it stands now. An instance that a higher task pre-empted is no instance of a lane and does not keep the save waiting.
Log entry 76 (DESIGN CHOICE). -/
def execRetSaveBegin (s : State) : Out :=
  .next (s.whileLive .cad fun s =>
    let ready := if s.cad.retNow then allCtx.all fun c => !(s.ctxAt c).busy else s.allBetween && s.noneDue s.saveNs
    if s.rd F.CAD_RET_STAT_STATE ≠ 1 || !ready then s
    else
      let s1 := s.commitRetBase.wr F.CAD_RET_STAT_STATE 2
      { s1 with cad := { s1.cad with
        suspended := true, retSince := s1.nowNs, retSet := if s1.dataBad then none else some s1.retainedSet } })

/-- RET_SAVE_END (R129): the set is written, its header last. -/
def execRetSaveEnd (s : State) : Out :=
  .next (s.whileLive .cad fun s =>
    if s.rd F.CAD_RET_STAT_STATE ≠ 2 then s
    else match s.cad.retSet with
    | none => s.retEnd 2
    | some (body, head) =>
      match s.dmaWrite 0 (s.retBase + 64) body with
      | (s1, false) => s1.retEnd 2
      | (s1, true) =>
        match s1.dmaWrite 0 s1.retBase head with
        | (s2, false) => s2.retEnd 2
        | (s2, true) => s2.retEnd 0)

/-- RET_SAVE_TIMEOUT (R129): no window within CAD_CHG_TIMEOUT. -/
def execRetSaveTimeout (s : State) : Out :=
  .next (s.whileLive .cad fun s =>
    if s.rd F.CAD_RET_STAT_STATE ≠ 1 || s.cad.retNow || s.nowNs < s.cad.retSince + s.chgTimeoutNs then s else s.retEnd 1)

end Sys2Proof.Machine
end

