-- ==== Sys2Proof/Machine/CadForce.lean ====
section
/-! DEFINITION. Force commands (R131 to R138). -/

namespace Sys2Proof.Machine

/-- The force table holds 4,096 entries (R131). -/
def forceMax : Nat := 4096

/-- Entry `i` of the force table; none while FREE. -/
def State.forceAt (s : State) (i : Nat) : Option Force := Sparse.get s.cad.forces none i

/-- The index of a signal's entry. -/
def State.forceIdx (s : State) (sig : Nat) : Option Nat :=
  (s.cad.forces.find? fun e => match e.2 with | some f => f.sig == sig | none => false).map Prod.fst

/-- The lowest FREE index. -/
def State.freeForce (s : State) : Option Nat := (upto forceMax).find? fun i => (s.forceAt i).isNone

/-- Put an entry; the change takes effect at the next cycle start of any task (R133). -/
def State.putForce (s : State) (i sig : Nat) (f : Option Force) : State :=
  { s with cad := { s.cad with forces := Sparse.put s.cad.forces none i f, forceChg := insNat s.cad.forceChg sig, forcePend := insNat s.cad.forcePend i } }

/-- FORCE_LOCK and CHG_LOCK: bits 2 and 3 of CAD_LOCK (R124). -/
def State.forceLock (s : State) : Bool := bitAt (s.regGet (R.BLK_LOCK .cad)) 2
def State.chgLock (s : State) : Bool := bitAt (s.regGet (R.BLK_LOCK .cad)) 3

/-- Show an entry in CAD_FORCE_STAT with a result. -/
def State.forceShow (s : State) (i r st : Nat) (pend : Bool) : State :=
  (((s.wr F.CAD_FORCE_STAT_IDX i).wr F.CAD_FORCE_STAT_RESULT r).wr F.CAD_FORCE_STAT_STATE st).wrB F.CAD_FORCE_STAT_PEND pend

/-- The change of an entry has not yet taken effect (R133). -/
def State.forcePending (s : State) (i : Nat) : Bool := s.cad.forcePend.contains i

/-- STATE of entry `i`: 0 FREE, 1 ACTIVE, 2 ORPHAN. -/
def State.forceState (s : State) (i : Nat) : Nat :=
  match s.forceAt i with
  | none => 0
  | some f => if f.orphan then 2 else 1

/-- A refused force command: RESULT, and the entry concerned where there is one. -/
def State.forceRefuse (s : State) (r : Nat) (i : Option Nat) : State :=
  match i with
  | some i => s.forceShow i r (s.forceState i) (s.forcePending i)
  | none => s.wr F.CAD_FORCE_STAT_RESULT r

/-- A write of CAD_FORCE_CMD (R133, R137, R373). -/
def State.forceCmd (s : State) (m : Master) (k : State → State) : State := s.gatePair m .cad R.CAD_FORCE_CMD k

/-- The key: CAD_FORCE_SIG. -/
def State.forceSig (s : State) : Nat := s.rd F.CAD_FORCE_SIG_SIGID

/-- The slot of a signal in the ACTIVE program. -/
def State.boundSlot (s : State) (sig : Nat) : Option Nat := s.activeBank.bind fun b => s.slotOfSig b sig

/-- SET (R133): LOCKED, UNBOUND, NAN and FULL refuse, in that order. Log entries 36 (DEDUCED), 89 (DESIGN CHOICE). -/
def State.forceSet (s : State) (qual : Nat) : State :=
  let sig := s.forceSig
  let v := s.regGet R.CAD_FORCE_VAL
  let at_ := s.forceIdx sig
  if s.forceLock then s.forceRefuse 3 at_
  else match s.boundSlot sig with
    | none => s.forceRefuse 2 at_
    | some k =>
      let ty := s.slotType s.runBank k
      if ty = 4 && nanWord v then s.forceRefuse 4 at_
      else
        let f : Force := ⟨sig, storeVal ty v, qual, false⟩
        match at_.orElse fun _ => s.freeForce with
        | none => s.forceRefuse 1 none
        | some i => (s.putForce i sig (some f)).forceShow i 0 1 true

/-- FORCE_SET (R133): a quality of 7 is reserved, and the write is ignored. -/
def execForceSet (m : Master) (qual : BitVec 3) (s : State) : Out :=
  .next (s.forceCmd m fun s => if qual = 7 then s else s.forceSet qual.toNat)

/-- FORCE_RELEASE (R133). -/
def execForceRelease (m : Master) (s : State) : Out :=
  .next (s.forceCmd m fun s =>
    match s.forceIdx s.forceSig with
    | none => s.forceRefuse 5 none
    | some i => (s.putForce i s.forceSig none).forceShow i 0 0 true)

/-- REARM (R132, R133): NOT_FOUND, LOCKED, UNBOUND in that order; an ACTIVE entry stays as it is. R133 gives an ACTIVE entry RESULT OK and
every REARM the LOCKED check; with FORCE_LOCK set the model answers LOCKED. Log entry 74 (DESIGN CHOICE). -/
def execRearm (m : Master) (s : State) : Out :=
  .next (s.forceCmd m fun s =>
    match s.forceIdx s.forceSig with
    | none => s.forceRefuse 5 none
    | some i =>
      match s.forceAt i with
      | none => s.forceRefuse 5 none
      | some f =>
        if s.forceLock then s.forceRefuse 3 (some i)
        else if (s.boundSlot f.sig).isNone then s.forceRefuse 2 (some i)
        else if !f.orphan then s.forceShow i 0 1 (s.forcePending i)
        else (s.putForce i f.sig (some { f with orphan := false })).forceShow i 0 1 true)

/-- Load an entry into the force registers; a FREE entry reads as signal, value and quality 0. -/
def State.forceLoad (s : State) (i : Nat) : State :=
  let (sig, v, q) : Nat × Word × Nat := match s.forceAt i with
    | some f => (f.sig, f.value, f.qual)
    | none => (0, 0, 0)
  let s1 := ((s.wr F.CAD_FORCE_SIG_SIGID sig).regPut R.CAD_FORCE_VAL v).wr F.CAD_FORCE_STAT_QUAL q
  s1.forceShow i 0 (s.forceState i) (s.forcePending i)

/-- FORCE_READ (R133). -/
def execForceRead (m : Master) (idx : BitVec 12) (s : State) : Out := .next (s.forceCmd m fun s => s.forceLoad idx.toNat)

/-- RELEASE_ALL (R133). -/
def execReleaseAll (m : Master) (s : State) : Out :=
  .next (s.forceCmd m fun s =>
    let all := s.cad.forces
    let s1 := { s with cad := { s.cad with
      forces := [], forcePend := all.foldl (fun l (e : Nat × Option Force) => insNat l e.1) s.cad.forcePend, forceChg := all.foldl (fun l (e : Nat × Option Force) => match e.2 with | some f => insNat l f.sig | none => l) s.cad.forceChg } }
    let s2 := s1.wr F.CAD_FORCE_STAT_RESULT 0
    if (s.forceAt (s.rd F.CAD_FORCE_STAT_IDX)).isSome then (s2.wr F.CAD_FORCE_STAT_STATE 0).wr F.CAD_FORCE_STAT_PEND 1 else s2)

/-- NEXT_ORPHAN (R133): the lowest ORPHAN entry at or above IDX. -/
def execNextOrphan (m : Master) (idx : BitVec 12) (s : State) : Out :=
  .next (s.forceCmd m fun s =>
    match s.cad.forces.find? fun (e : Nat × Option Force) => idx.toNat ≤ e.1 && (match e.2 with | some f => f.orphan | none => false) with
    | none => s.forceRefuse 5 none
    | some e => s.forceLoad e.1)

end Sys2Proof.Machine
end

