-- ==== Sys2Proof/Machine/CadChange.lean ====
section
/-! DEFINITION. Online program change: arming, the check, the window, migration and its commit (R139 to R151). -/

namespace Sys2Proof.Machine

/-! ## Arming (R142, R149, R151) -/

/-- Set STATE of the change. -/
def State.setChg (s : State) (st : Nat) : State := s.wr F.CAD_CHG_STAT_STATE st

/-- The staging address in CAD's context, and the commit of its registers: their boundary is ARM. -/
def State.stageAddr (s : State) : Nat :=
  s.rd F.CAD_CHG_STAGE_LO_BASE_LO * 2 ^ 16 + s.rd F.CAD_CHG_STAGE_HI_BASE_HI * 2 ^ 32
def State.commitStage (s : State) : State := s.commit .cad fun f => f.addr == R.CAD_CHG_STAGE_LO || f.addr == R.CAD_CHG_STAGE_HI

/-- ARM (R142): from IDLE, COMMITTED or ABANDONED; in any other state it is refused and the change goes on. -/
def execArm (m : Master) (refuse : Bool) (s : State) : Out :=
  .next (s.gatePair m .cad R.CAD_CHG_CMD fun s =>
    let st := s.chgState
    if s.chgLock then s.err .cad 2 (woffOf .cad R.CAD_CHG_CMD)
    else if 1 ≤ st && st ≤ 3 then (s.wr F.CAD_CHG_STAT_RESULT 9).err .cad 0x8B st
    else
      let s1 := (s.commitStage.setChg 1).wr F.CAD_CHG_STAT_RESULT 0
      { s1 with cad := { s1.cad with chgRefuse := refuse } })

/-- CANCEL (R149): while CHECKING or ARMED; discarded otherwise. -/
def execCancel (m : Master) (s : State) : Out :=
  .next (s.gatePair m .cad R.CAD_CHG_CMD fun s => if s.chgState = 1 || s.chgState = 2 then s.abandonChg 7 else s)

/-! ## The check (R140 to R143) -/

/-- An entry of a program map: OLD_INST, ACTION and its reserved bits. -/
def State.pmapEntry (s : State) (b off i : Nat) : Nat × Nat × Nat :=
  let e := s.img b (off + 4 * i) 4
  (e % 2 ^ 16, nbits e 16 2, e / 2 ^ 18)

/-- An operation lies within both DSIZEs, is aligned and has a defined OP (R142). -/
def convOk (old new : Nat) (c : ConvOp) : Bool :=
  let n := convSize c.op
  decide (c.op ≤ 7) && decide (c.dst + n * c.count ≤ new) && decide (c.src + n * c.count ≤ old) && c.dst % n == 0 && c.src % n == 0

/-- The map entry of new instance `i` obeys R140. -/
def State.mapEntryOk (s : State) (a b off i : Nat) : Bool :=
  let (o, act, res) := s.pmapEntry b off i
  let lo := s.typeLhash a (s.instType a o)
  let ln := s.typeLhash b (s.instType b i)
  res == 0 && decide (o < s.nInst a) &&
  (if act = 0 then lo == ln
   else if act = 1 then
    match s.cmapOf b lo ln with
    | none => false
    | some m => (s.convOps b m).all (convOk (s.instDsize a o) (s.instDsize b i))
   else act == 2 && o == 0)

/-- The staging range lies within one enabled pinned range of context 0 that allows reads and writes (R142). -/
def State.stageOk (s : State) (n : Nat) : Bool :=
  s.rd (F.XLT_CTXn_CFG_MODE 0) != 0 &&
  ((upto 8).map (s.pin 0)).any fun p =>
    p.en && p.r && p.w && decide (p.va * 4096 ≤ s.stageAddr) && decide (s.stageAddr + n ≤ (p.va + p.pages) * 4096)

/-- The migration duration of `n` bytes in ns, and in µs, rounded up (R143). -/
def migrNs (n : Nat) : Nat := (20000 * 64 + 5 * n + 63) / 64
def migrUs (n : Nat) : Nat := (20000 * 64 + 5 * n + 63999) / 64000

/-- The result of the check: 0 OK, 1 NOT_LOADED, 2 NO_MAP, 3 BAD_MAP, 4 STAGE_RANGE (R142). -/
def State.chgCheck (s : State) : Nat :=
  match s.activeBank with
  | none => 1
  | some a =>
    let b := 1 - a
    if s.bankState b ≠ 2 then 1
    else match s.pmapOf b (s.bankHash a) with
      | none => 2
      | some (off, n) =>
        if n ≠ s.nInst b || !(upto n).all (s.mapEntryOk a b off) then 3
        else if !s.stageOk (s.memSize b) then 4
        else 0

/-- CHG_CHECK_END (R142, R143): ARMED, or abandoned at the first failure. -/
def execChgCheckEnd (s : State) : Out :=
  .next (s.whileLive .cad fun s =>
    if s.chgState ≠ 1 then s
    else
      let r := s.chgCheck
      if r ≠ 0 then s.abandonChg r
      else
        let s1 := (s.setChg 2).wr F.CAD_CHG_DUR_D (min 0xFFFFFF (migrUs (s.memSize (1 - s.runBank))))
        { s1 with cad := { s1.cad with chgArmed := s1.nowNs } })

/-! ## The window (R144, R148) -/

/-- An ACTIVE force entry has no slot in bank `b`. -/
def State.wouldOrphan (s : State) (b : Nat) : Bool :=
  s.cad.forces.any fun (e : Nat × Option Force) => match e.2 with
    | some f => !f.orphan && (s.slotOfSig b f.sig).isNone
    | none => false

/-- Migration begins: deliveries are held from now on (R145, R146). -/
def State.beginMigration (s : State) : State :=
  let s1 := s.setChg 3
  { s1 with cad := { s1.cad with held := [] } }

/-- The window of R144 is open: every task between cycles, the guard pass over the last T0 publication done, no start due within D. -/
def State.windowOpen (s : State) : Bool :=
  s.allBetween && !s.lpe.t0Pending && s.noneDue (migrNs (s.memSize (1 - s.runBank)))

/-- CHANGE_WINDOW (R144, R148, R150): a standby in step takes its window from the active. -/
def execChangeWindow (s : State) : Out :=
  .next (s.whileLive .cad fun s =>
    if s.chgState ≠ 2 || s.following || !s.windowOpen then s
    else if s.cad.chgRefuse && s.wouldOrphan (1 - s.runBank) then s.abandonChg 6
    else (s.emit .change).beginMigration)

/-- CHG_TIMEOUT (R144): no window within CAD_CHG_TIMEOUT of ARMED. -/
def execChgTimeout (s : State) : Out :=
  .next (s.whileLive .cad fun s =>
    if s.chgState ≠ 2 || s.nowNs < s.cad.chgArmed + s.chgTimeoutNs then s else s.abandonChg 5)

/-! ## Migration (R145 to R147) -/

/-- What migration gives one new instance: its data, HOLD, flags of its conversion, and why a COPY fell back to cold values. -/
structure MigInst where
  data : List Byte
  hold : Bool
  act : Nat
  old : Nat
  flags : Word := 0
  fell : Nat := 0
  deriving DecidableEq, Repr

/-- The data of an instance, each byte of an uncorrectable word a free value. -/
def State.oldData (s : State) (a o : Nat) : List Byte :=
  let at_ := s.dataAddr a o 0
  (upto (s.instDsize a o)).map fun k =>
    if (s.ueIn (at_ + k) 1).isSome then BitVec.ofNat 8 (Config.freeNat (s.draws + k)) else s.byte (at_ + k)

/-- The first uncorrectable word in an instance's data. -/
def State.dataUe (s : State) (b i : Nat) : Option Nat := s.ueIn (s.dataAddr b i 0) (s.instDsize b i)

/-- Build new instance `i` of bank `b` from the program of bank `a` by its map entry (R145). Log entry 36 (DEDUCED). -/
def State.migInst (s : State) (a b off i : Nat) : MigInst :=
  let (o, act, _) := s.pmapEntry b off i
  let cold := s.coldBytes b i
  let start := (s.instSched b i).testBit 4
  if act = 0 then
    let hold := s.cad.hold.contains o
    if s.cad.poisoned.contains o then { data := cold, hold := hold, act := 0, old := o, fell := 1 }
    else if (s.dataUe a o).isSome then { data := cold, hold := hold, act := 0, old := o, fell := 2 }
    else { data := s.bytes (s.dataAddr a o 0) (s.instDsize a o), hold := hold, act := 0, old := o }
  else if act = 1 then
    match s.cmapOf b (s.typeLhash a (s.instType a o)) (s.typeLhash b (s.instType b i)) with
    | some m =>
      let r := convert (s.convOps b m) (s.oldData a o) cold none
      { data := r.1, hold := start, act := 1, old := o, flags := r.2 }
    | none => { data := cold, hold := start, act := 1, old := o }
  else { data := cold, hold := start, act := 2, old := o }

/-- Value and status word of slot `k` of the new live image (R146). -/
def State.newLive (s : State) (a b k : Nat) : Word × Word :=
  let old := (s.slotOfSig a (s.slotSig b k)).filter fun j => s.slotType a j == s.slotType b k && s.slotQfrac a j == s.slotQfrac b k
  match old with
  | some j => (s.liveVal j, s.liveSt j &&& 0xFF07)
  | none => (if s.slotDir b k = 1 then s.guardSafe (s.slotSig b k) else 0, 4)

/-- The complete new instance memory (R145): the new live image and the new instances' data over what else memory holds. -/
def State.newMemory (s : State) (a b : Nat) (f : Nat → MigInst) : List Byte :=
  let m0 := s.bytes cadMemBase (s.memSize b)
  let m1 := (upto (s.nSlots b)).foldl (fun m k =>
    let (v, st) := s.newLive a b k
    patch m (8 * k) (leBytes 4 v.toNat ++ leBytes 4 st.toNat)) m0
  (upto (s.nInst b)).foldl (fun m i => patch m (s.instDoff b i) (f i).data) m1

/-- What the build records: an event for every COPY that fell back, and each uncorrectable word met. -/
def State.migEvents (s : State) (a b : Nat) (f : Nat → MigInst) : State :=
  (upto (s.nInst b)).foldl (fun s i =>
    let x := f i
    let s1 := if x.act = 2 || x.fell = 1 then s else match s.dataUe a x.old with
      | some w => s.ueSeen w
      | none => s
    if x.fell = 0 then s1 else s1.event .cad 0x22 5 i x.old x.fell 0) { s with draws := s.draws + 65536 }

/-- The end of the commit (R145 to R147): `f` gives each new instance's HOLD, action and flags. Log entry 36 (DEDUCED). -/
def State.commitChange (s : State) (a b : Nat) (f : Nat → MigInst) : State :=
  let is := upto (s.nInst b)
  let gone := (s.outSigs a).filter fun k => !(s.outSigs b).contains k
  let s1 := is.foldl (fun s i => s.convFlags b i (f i).flags) s
  let s2 := { s1 with cad := { s1.cad with hold := is.filter fun i => (f i).hold, poisoned := [], evOnce := [] } }
  let s3 := (s2.activate b).rebind.setChg 4
  let s4 := (s3.wr F.CAD_CHG_CNT_NCONV (min 0xFFFF (is.filter fun i => (f i).act == 1).length)).wr F.CAD_CHG_CNT_NINIT
    (min 0xFFFF (is.filter fun i => (f i).act == 2).length)
  let s5 := ((s4.wr F.CAD_CHG_STAT_RESULT 0).raise .cad 10).dropSigs gone
  let driven (sig : Nat) : Bool := match s5.slotOfSig b sig with
    | some k => s5.slotDir b k == 1 || s5.slotDir b k == 2
    | none => false
  (s5.slotErrors driven).applyHeld

/-- A word of the staging range, by its offset, is found uncorrectable as the engine reads it (R145, R440). -/
def State.stageError (s : State) (off : Nat) : State :=
  match s.xlate 0 false (s.stageAddr + off) with
  | (s1, .ok pa) => { s1 with ue := insNat s1.ue (pa / 8 * 8) }.ueSeen (pa / 8 * 8)
  | (s1, .bad _) => s1

/-- MIGRATION_END (R145 to R147): the new instance memory is built in staging; a fault there, or an uncorrectable word met there (`bad`, its
offset), abandons the change, else it is committed. Log entry 71 (DESIGN CHOICE). -/
def execMigrationEnd (bad : Option Nat) (s : State) : Out :=
  .next (s.whileLive .cad fun s =>
    match s.activeBank with
    | none => s
    | some a =>
      let b := 1 - a
      match s.pmapOf b (s.bankHash a) with
      | none => s
      | some (off, _) =>
        if s.chgState ≠ 3 then s
        else
          let f (i : Nat) : MigInst := s.migInst a b off i
          let mem := s.newMemory a b f
          match (s.migEvents a b f).dmaWrite 0 s.stageAddr mem with
          | (s1, false) => s1.abandonChg 8
          | (s1, true) =>
            match bad with
            | some off => (s1.stageError (off % max 1 mem.length)).abandonChg 8
            | none => (s1.putClean cadMemBase mem).commitChange a b f)

end Sys2Proof.Machine
end

