-- ==== Sys2Proof/Machine/CadFixed.lean ====
section
/-! DEFINITION. The fixed-point instructions of the Cadence engine (R92). -/

namespace Sys2Proof.Machine

/-- QMUL: fixed-point product, rounded, shifted by n and saturated (R92). -/
def execQmul (c : Fin 16) (rd rs1 rs2 : BitVec 5) (n : BitVec 5) (s : State) : Out :=
  .next (s.alu c rd fun x => qmul (x.r rs1) (x.r rs2) n.toNat)

/-- QDIV: fixed-point quotient, truncated toward zero and saturated (R92). -/
def execQdiv (c : Fin 16) (rd rs1 rs2 : BitVec 5) (n : BitVec 5) (s : State) : Out :=
  .next (s.alu c rd fun x => qdiv (x.r rs1) (x.r rs2) n.toNat)

/-- QSHL: saturating shift left (R92). -/
def execQshl (c : Fin 16) (rd rs1 : BitVec 5) (n : BitVec 5) (s : State) : Out :=
  .next (s.alu c rd fun x => qshl (x.r rs1) n.toNat)

/-- QSHR: rounding shift right (R92). -/
def execQshr (c : Fin 16) (rd rs1 : BitVec 5) (n : BitVec 5) (s : State) : Out :=
  .next (s.alu c rd fun x => qshr (x.r rs1) n.toNat)

/-- QMAC: W[rd] plus the product, one saturation at the end (R92). -/
def execQmac (c : Fin 16) (rd rs1 rs2 : BitVec 5) (n : BitVec 5) (s : State) : Out :=
  .next (s.alu c rd fun x => qmac (x.r rd) (x.r rs1) (x.r rs2) n.toNat)

/-- QLIM: W[rd] limited between W[rs1] and W[rs2] (R92). -/
def execQlim (c : Fin 16) (rd rs1 rs2 : BitVec 5) (s : State) : Out :=
  .next (s.alu c rd fun x => qlim (x.r rd) (x.r rs1) (x.r rs2))

end Sys2Proof.Machine
end

