-- ==== Sys2Proof/Machine/CadFloat.lean ====
section
/-! DEFINITION. The binary32 instructions of the Cadence engine (R93). -/

namespace Sys2Proof.Machine

/-- FADD: binary32 sum (R93). -/
def execFadd (c : Fin 16) (rd rs1 rs2 : BitVec 5) (s : State) : Out :=
  .next (s.alu c rd fun x => fadd (x.r rs1) (x.r rs2))

/-- FSUB: binary32 difference (R93). -/
def execFsub (c : Fin 16) (rd rs1 rs2 : BitVec 5) (s : State) : Out :=
  .next (s.alu c rd fun x => fsub (x.r rs1) (x.r rs2))

/-- FMUL: binary32 product (R93). -/
def execFmul (c : Fin 16) (rd rs1 rs2 : BitVec 5) (s : State) : Out :=
  .next (s.alu c rd fun x => fmul (x.r rs1) (x.r rs2))

/-- FDIV: binary32 quotient (R93). -/
def execFdiv (c : Fin 16) (rd rs1 rs2 : BitVec 5) (s : State) : Out :=
  .next (s.alu c rd fun x => fdiv (x.r rs1) (x.r rs2))

/-- FSQRT: binary32 square root (R93). -/
def execFsqrt (c : Fin 16) (rd rs1 : BitVec 5) (s : State) : Out :=
  .next (s.alu c rd fun x => fsqrt (x.r rs1))

/-- FMIN: minimumNumber (R93). -/
def execFmin (c : Fin 16) (rd rs1 rs2 : BitVec 5) (s : State) : Out :=
  .next (s.alu c rd fun x => fmin (x.r rs1) (x.r rs2))

/-- FMAX: maximumNumber (R93). -/
def execFmax (c : Fin 16) (rd rs1 rs2 : BitVec 5) (s : State) : Out :=
  .next (s.alu c rd fun x => fmax (x.r rs1) (x.r rs2))

/-- FABS: the sign bit cleared; no flag (R93). -/
def execFabs (c : Fin 16) (rd rs1 : BitVec 5) (s : State) : Out :=
  .next (s.alu c rd fun x => plain (fabs (x.r rs1)))

/-- FNEG: the sign bit inverted; no flag (R93). -/
def execFneg (c : Fin 16) (rd rs1 : BitVec 5) (s : State) : Out :=
  .next (s.alu c rd fun x => plain (fneg (x.r rs1)))

/-- FCVT_S_W: signed integer to binary32 (R93). -/
def execFcvtSW (c : Fin 16) (rd rs1 : BitVec 5) (s : State) : Out :=
  .next (s.alu c rd fun x => fcvtSQ (x.r rs1) 0)

/-- FCVT_W_S: binary32 to saturating signed integer (R93). -/
def execFcvtWS (c : Fin 16) (rd rs1 : BitVec 5) (s : State) : Out :=
  .next (s.alu c rd fun x => fcvtQS (x.r rs1) 0)

/-- FCVT_S_Q: W[rs1] × 2⁻ⁿ to binary32 (R93). -/
def execFcvtSQ (c : Fin 16) (rd rs1 : BitVec 5) (n : BitVec 5) (s : State) : Out :=
  .next (s.alu c rd fun x => fcvtSQ (x.r rs1) n.toNat)

/-- FCVT_Q_S: round(W[rs1] × 2ⁿ), saturating (R93). -/
def execFcvtQS (c : Fin 16) (rd rs1 : BitVec 5) (n : BitVec 5) (s : State) : Out :=
  .next (s.alu c rd fun x => fcvtQS (x.r rs1) n.toNat)

end Sys2Proof.Machine
end

