-- ==== Sys2Proof/Machine/CadLogic.lean ====
section
/-! DEFINITION. The compare and Boolean instructions of the Cadence engine (R94). -/

namespace Sys2Proof.Machine

/-- EQ: integers equal (R94). -/
def execEq (c : Fin 16) (rd rs1 rs2 : BitVec 5) (s : State) : Out :=
  .next (s.alu c rd fun x => plain (bool32 ((x.r rs1) == (x.r rs2))))

/-- NE: integers differ (R94). -/
def execNe (c : Fin 16) (rd rs1 rs2 : BitVec 5) (s : State) : Out :=
  .next (s.alu c rd fun x => plain (bool32 ((x.r rs1) != (x.r rs2))))

/-- LT: signed less than (R94). -/
def execLt (c : Fin 16) (rd rs1 rs2 : BitVec 5) (s : State) : Out :=
  .next (s.alu c rd fun x => plain (bool32 (decide ((x.r rs1).toInt < (x.r rs2).toInt))))

/-- LE: signed less or equal (R94). -/
def execLe (c : Fin 16) (rd rs1 rs2 : BitVec 5) (s : State) : Out :=
  .next (s.alu c rd fun x => plain (bool32 (decide ((x.r rs1).toInt ≤ (x.r rs2).toInt))))

/-- LTU: unsigned less than (R94). -/
def execLtu (c : Fin 16) (rd rs1 rs2 : BitVec 5) (s : State) : Out :=
  .next (s.alu c rd fun x => plain (bool32 (decide ((x.r rs1).toNat < (x.r rs2).toNat))))

/-- LEU: unsigned less or equal (R94). -/
def execLeu (c : Fin 16) (rd rs1 rs2 : BitVec 5) (s : State) : Out :=
  .next (s.alu c rd fun x => plain (bool32 (decide ((x.r rs1).toNat ≤ (x.r rs2).toNat))))

/-- FEQ: binary32 equal (R94). -/
def execFeq (c : Fin 16) (rd rs1 rs2 : BitVec 5) (s : State) : Out :=
  .next (s.alu c rd fun x => feq (x.r rs1) (x.r rs2))

/-- FLT: binary32 less than (R94). -/
def execFlt (c : Fin 16) (rd rs1 rs2 : BitVec 5) (s : State) : Out :=
  .next (s.alu c rd fun x => flt (x.r rs1) (x.r rs2))

/-- FLE: binary32 less or equal (R94). -/
def execFle (c : Fin 16) (rd rs1 rs2 : BitVec 5) (s : State) : Out :=
  .next (s.alu c rd fun x => fle (x.r rs1) (x.r rs2))

/-- FUN: 1 when either operand is NaN (R94). -/
def execFun (c : Fin 16) (rd rs1 rs2 : BitVec 5) (s : State) : Out :=
  .next (s.alu c rd fun x => funord (x.r rs1) (x.r rs2))

/-- BAND: Boolean and (R94). -/
def execBand (c : Fin 16) (rd rs1 rs2 : BitVec 5) (s : State) : Out :=
  .next (s.alu c rd fun x => plain (bool32 ((x.r rs1) != 0 && (x.r rs2) != 0)))

/-- BOR: Boolean or (R94). -/
def execBor (c : Fin 16) (rd rs1 rs2 : BitVec 5) (s : State) : Out :=
  .next (s.alu c rd fun x => plain (bool32 ((x.r rs1) != 0 || (x.r rs2) != 0)))

/-- BXOR: Boolean exclusive or (R94). -/
def execBxor (c : Fin 16) (rd rs1 rs2 : BitVec 5) (s : State) : Out :=
  .next (s.alu c rd fun x => plain (bool32 (((x.r rs1) != 0) != ((x.r rs2) != 0))))

/-- BNOT: Boolean not (R94). -/
def execBnot (c : Fin 16) (rd rs1 : BitVec 5) (s : State) : Out :=
  .next (s.alu c rd fun x => plain (bool32 ((x.r rs1) == 0)))

/-- SEL: W[rs1] if W[rs3] is nonzero, else W[rs2] (R94). -/
def execSel (c : Fin 16) (rd rs1 rs2 rs3 : BitVec 5) (s : State) : Out :=
  .next (s.alu c rd fun x => plain (if x.r rs3 != 0 then (x.r rs1) else (x.r rs2)))

end Sys2Proof.Machine
end

