-- ==== Sys2Proof/Machine/CadSignal.lean ====
section
/-! DEFINITION. The signal image and instance data instructions of the Cadence engine (R88, R89). -/

namespace Sys2Proof.Machine

/-- A read of a slot by number: BOUNDS at or above N_SLOTS (R88). -/
def State.slotRead (s : State) (c : Fin 16) (rd : BitVec 5) (slot : LaneCtx → Nat) (f : Word × Word → Word) : State :=
  s.instr c fun s x =>
    if s.nSlots s.runBank ≤ slot x then .exc excBOUNDS 0 else .ok s (x.setR rd (f (s.readSlot x (slot x))))

/-- LDS: reg ← value of the slot (R88). -/
def execLds (c : Fin 16) (reg : BitVec 5) (slot : BitVec 16) (s : State) : Out :=
  .next (s.slotRead c reg (fun _ => slot.toNat) Prod.fst)

/-- LDS.ST: reg ← status word of the slot (R88). -/
def execLdsSt (c : Fin 16) (reg : BitVec 5) (slot : BitVec 16) (s : State) : Out :=
  .next (s.slotRead c reg (fun _ => slot.toNat) Prod.snd)

/-- STS: value ← reg, QUAL ← q (R79, R88); q = 7 is an illegal encoding. -/
def execSts (c : Fin 16) (reg : BitVec 5) (slot : BitVec 16) (q : BitVec 3) (s : State) : Out :=
  .next (s.instr c fun s x => s.storeSlot x slot.toNat (x.r reg) q)

/-- QTST: reg ← 1 if QUAL ≤ L, else 0 (R88). -/
def execQtst (c : Fin 16) (reg : BitVec 5) (slot : BitVec 16) (l : BitVec 3) (s : State) : Out :=
  .next (s.slotRead c reg (fun _ => slot.toNat) fun p => bool32 (decide (qualOf p.2 ≤ l.toNat)))

/-- QTST.F: reg ← FORCED (R88). -/
def execQtstF (c : Fin 16) (reg : BitVec 5) (slot : BitVec 16) (s : State) : Out :=
  .next (s.slotRead c reg (fun _ => slot.toNat) fun p => bool32 (p.2.getLsbD 3))

/-- LDSX: rd ← value of slot W[rs1] (R88). -/
def execLdsx (c : Fin 16) (rd rs1 : BitVec 5) (s : State) : Out :=
  .next (s.slotRead c rd (fun x => (x.r rs1).toNat) Prod.fst)

/-- LDSX.ST: rd ← status word of slot W[rs1] (R88). -/
def execLdsxSt (c : Fin 16) (rd rs1 : BitVec 5) (s : State) : Out :=
  .next (s.slotRead c rd (fun x => (x.r rs1).toNat) Prod.snd)

/-- STSX: slot W[rs1] ← W[rs2], QUAL ← q (R79, R88). -/
def execStsx (c : Fin 16) (rs1 rs2 : BitVec 5) (q : BitVec 3) (s : State) : Out :=
  .next (s.instr c fun s x => s.storeSlot x (x.r rs1).toNat (x.r rs2) q)

/-- LDW: 32 bits of instance data (R89). -/
def execLdw (c : Fin 16) (rd rs1 : BitVec 5) (imm : BitVec 16) (s : State) : Out :=
  .next (s.loadData c rd rs1 imm 4 (BitVec.ofNat 32))

/-- LDH: 16 bits of instance data, sign-extended (R89). -/
def execLdh (c : Fin 16) (rd rs1 : BitVec 5) (imm : BitVec 16) (s : State) : Out :=
  .next (s.loadData c rd rs1 imm 2 fun v => (BitVec.ofNat 16 v).signExtend 32)

/-- LDB: 8 bits of instance data, zero-extended (R89). -/
def execLdb (c : Fin 16) (rd rs1 : BitVec 5) (imm : BitVec 16) (s : State) : Out :=
  .next (s.loadData c rd rs1 imm 1 (BitVec.ofNat 32))

/-- STW: the low 32 bits of W[rd] (R89). -/
def execStw (c : Fin 16) (rd rs1 : BitVec 5) (imm : BitVec 16) (s : State) : Out := .next (s.storeData c rd rs1 imm 4)

/-- STH: the low 16 bits of W[rd] (R89). -/
def execSth (c : Fin 16) (rd rs1 : BitVec 5) (imm : BitVec 16) (s : State) : Out := .next (s.storeData c rd rs1 imm 2)

/-- STB: the low 8 bits of W[rd] (R89). -/
def execStb (c : Fin 16) (rd rs1 : BitVec 5) (imm : BitVec 16) (s : State) : Out := .next (s.storeData c rd rs1 imm 1)

/-- LDK: rd ← sign-extended imm16 (R89). -/
def execLdk (c : Fin 16) (rd : BitVec 5) (imm : BitVec 16) (s : State) : Out :=
  .next (s.alu c rd fun _ => plain (imm.signExtend 32))

/-- LDKH: rd ← (imm16 << 16) OR (W[rd] AND 0xFFFF) (R89). -/
def execLdkh (c : Fin 16) (rd : BitVec 5) (imm : BitVec 16) (s : State) : Out :=
  .next (s.alu c rd fun x => plain ((imm.setWidth 32 <<< 16) ||| (x.r rd &&& 0xFFFF)))

end Sys2Proof.Machine
end

