-- ==== Sys2Proof/Machine/Mtr.lean ====
section
/-! DEFINITION. The metering engine: lanes, ticks and windows, heat and volume, snapshots and the view table, interval records, totals
images, freeze and restart (R280 to R312). -/

namespace Sys2Proof.Machine

/-! ## Numbers -/

/-- An exact ratio as binary32, rounded to nearest with ties to even. -/
def ratF (num : Int) (den : Nat) : Word :=
  let k := 64 + bitLen den
  let m := num.natAbs * 2 ^ k
  (packF (decide (num < 0)) (m / den) (-(k : Int)) (m % den != 0)).1

/-- An amount brought to a whole number of units: which neighbour an inexact one takes is open (R281). Log entry 82 (DESIGN CHOICE). -/
def State.roundAmt (s : State) (num den : Nat) : Nat × State :=
  if num % den = 0 then (num / den, s)
  else
    let (d, s1) := s.draw
    (num / den + d % 2, s1)

/-- A delivery of a measured value as a signal of the module's own node (R295). -/
def State.deliverMtr (s : State) (point : Nat) (v : Word) (qual : Nat) : State := s.deliver (s.rd F.SYS_ROLE_NODE * 2 ^ 13 + point) v qual 0

/-! ## Lanes (R280 to R287) -/

def State.lane (s : State) (n : Nat) : Lane := Sparse.get s.mtr.lanes {} n
def State.setLane (s : State) (n : Nat) (x : Lane) : State := { s with mtr := { s.mtr with lanes := Sparse.put s.mtr.lanes {} n x } }

/-- The lanes that hold anything, ascending. -/
def State.laneNums (s : State) : List Nat := s.mtr.lanes.map Prod.fst

/-- The frozen engine neither counts nor delivers (R307). -/
def State.mtrFrozen (s : State) : Bool := s.bit F.MTR_PF_STAT_FROZEN

/-- The engine counts. -/
def State.mtrRuns (s : State) : Bool := s.en .mtr && !s.mtrFrozen

/-- The engine is FROZEN, or no longer (R307, R312). -/
def State.setFrozen (s : State) (v : Bool) : State := (s.wrB F.MTR_PF_STAT_FROZEN v).wrB (statFld .mtr 8) v

/-- SEALING reads 1 while a closed interval has blocks to build or to store (R312). -/
def State.showSealing (s : State) : State := s.wrB (statFld .mtr 9) (!s.mtr.closed.isEmpty || !s.mtr.built.isEmpty)

/-- The kinds that ticks evaluate; the others are electrical (R298). -/
def tickKind (k : Nat) : Bool := decide (k ≤ 3) || k == 7

/-- The fields of an entry of 64 bytes (R285). -/
def parseLane (e : List Byte) : LaneCfg :=
  { kind := leAt e 0 1, flags := leAt e 1 1, src := leAt e 2 1, pulseDi := leAt e 3 1, dirDi := leAt e 4 1, qlim := leAt e 5 1,
    flowFrac := leAt e 6 1, tFrac := leAt e 7 1, flowSig := leAt e 8 4, tfSig := leAt e 0xC 4, trSig := leAt e 0x10 4,
    deadband := leAt e 0x14 4, pulseWt := leAt e 0x18 8, press := leAt e 0x20 2, tag := leAt e 0x24 4 }

/-- Field ranges and reserved fields of an entry (R285). Log entry 44 (DEDUCED). -/
def laneFieldsOk (e : List Byte) : Bool :=
  let c := parseLane e
  decide (c.kind ≤ 7) && decide (c.flags < 32) && decide (c.src < 16) && decide (c.pulseDi < 24) && decide (c.dirDi < 24) &&
  decide (c.qlim ≤ 6) && decide (c.flowFrac ≤ 31) && decide (c.tFrac ≤ 31) && decide (c.flowSig < 2 ^ 23) && decide (c.tfSig < 2 ^ 23) &&
  decide (c.trSig < 2 ^ 23) && decide (1 ≤ c.pulseWt) && decide (100 ≤ c.press) && decide (c.press ≤ 4000) && leAt e 0x22 2 == 0 &&
  (e.drop 0x28).take 20 == List.replicate 20 0 &&
  (if 4 ≤ c.kind && c.kind ≤ 6 then c.src &&& 2 == 0
   else if (c.kind == 1 || c.kind == 2) && !c.flags.testBit 3 then decide (c.src < 4) else c.src == 0)

/-- Why an entry is refused (R286): 0 OK, 1 CHK_FAIL, 2 BAD_ENTRY, 3 KIND_MISMATCH (ENABLE), 4 NEED_DISABLE (RELOAD). Log entry 44 (DEDUCED). -/
def laneRefusal (x : Lane) (op : Nat) (e : List Byte) : Nat :=
  let c := parseLane e
  if crc32 (e.take 0x3C) ≠ BitVec.ofNat 32 (leAt e 0x3C 4) then 1
  else if !laneFieldsOk e then 2
  else if op = 1 && x.regs.toList.any (fun r => r / 2 ^ 32 != 0) && x.kind != some c.kind then 3
  else if op = 3 && (c.kind != x.cfg.kind || c.src != x.cfg.src || (c.flags ^^^ x.cfg.flags) &&& 12 != 0) then 4
  else 0

/-- MTR_LANE_RES after a command of a lane. -/
def State.laneRes (s : State) (lane r : Nat) (pend : Bool) : State :=
  ((s.wr F.MTR_LANE_RES_LANE lane).wr F.MTR_LANE_RES_RESULT r).wrB F.MTR_LANE_RES_PEND pend

/-- Read a lane's entry; a fault refuses the command with FAULT and code 0x80 (R286). -/
def State.readLane (s : State) (lane : Nat) : State × Option (List Byte) := s.dmaRead 7 (s.rd F.MTR_LTBL_BASE_BASE * 2 ^ 16 + 64 * lane) 64

/-- A lane command (R287): 1 ENABLE, 2 DISABLE, 3 RELOAD; it waits for the lane's next tick or window end. Log entry 44 (DEDUCED). -/
def State.laneCmd (s : State) (op lane : Nat) : State :=
  let x := s.lane lane
  if (op = 1) == x.en then s.err .mtr 0x84 lane
  else if op = 2 then (s.setLane lane { x with cmd := some (2, x.cfg) }).laneRes lane 0 true
  else
    match s.readLane lane with
    | (s1, none) => ((s1.err .mtr 0x80 lane).laneRes lane 5 false).raise .mtr 9
    | (s1, some e) =>
      let r := laneRefusal x op e
      if r = 0 then (s1.setLane lane { x with cmd := some (op, parseLane e) }).laneRes lane 0 true
      else ((if r ≤ 3 then s1.err .mtr 0x81 lane else s1).laneRes lane r false).raise .mtr 9

/-- LANE_ENABLE (R286, R287). -/
def execLaneEnable (m : Master) (lane : BitVec 11) (s : State) : Out := .next (s.gate m .mtr R.MTR_LANE_CMD fun s => s.laneCmd 1 lane.toNat)

/-- LANE_DISABLE (R287). -/
def execLaneDisable (m : Master) (lane : BitVec 11) (s : State) : Out := .next (s.gate m .mtr R.MTR_LANE_CMD fun s => s.laneCmd 2 lane.toNat)

/-- LANE_RELOAD (R286, R287). -/
def execLaneReload (m : Master) (lane : BitVec 11) (s : State) : Out := .next (s.gate m .mtr R.MTR_LANE_CMD fun s => s.laneCmd 3 lane.toNat)

/-- LANE_CLR (R287): of a disabled lane; the monitor only. -/
def execLaneClr (m : Master) (lane : BitVec 11) (s : State) : Out :=
  .next (s.gate m .mtr R.MTR_LANE_CLR fun s =>
    let x := s.lane lane.toNat
    if x.en then s.err .mtr 0x84 lane.toNat
    else (s.setLane lane.toNat { x with regs := Vector.replicate 4 0, kind := none, cleared := true }).plainEv .mtr)

/-- A lane's waiting command takes effect (R287). -/
def State.applyLaneCmd (s : State) (n : Nat) : State :=
  let x := s.lane n
  match x.cmd with
  | none => s
  | some (op, c) =>
    let acc := if op = 3 then x.acc else { x.acc with flags := x.acc.flags ||| 0x10, seen := true, kind := c.kind }
    let x1 : Lane := if op = 2 then { x with en := false, cmd := none, acc := acc }
      else { x with cfg := c, en := true, cmd := none, kind := some c.kind, acc := acc }
    let s1 := s.setLane n x1
    let cnt := s1.rd F.MTR_LANE_RES_ENABLED
    let s2 := if op = 1 then s1.wr F.MTR_LANE_RES_ENABLED (cnt + 1) else if op = 2 then s1.wr F.MTR_LANE_RES_ENABLED (cnt - 1) else s1
    (if s2.rd F.MTR_LANE_RES_LANE = n then s2.wr F.MTR_LANE_RES_PEND 0 else s2).raise .mtr 9

/-! ## Snapshots and the view table (R282 to R284) -/

/-- MTR_SNAPk_W0 to W2 show the register that REG selects of what channel k latched. -/
def State.showSnap (s : State) (k : Fin 8) : State :=
  let v := s.mtr.snaps[k][Fin.ofNat 4 (s.rd (F.MTR_SNAPk_CTL_REG k))] / 2 ^ 32
  (upto 3).foldl (fun s (j : Nat) => s.regPut (R.MTR_SNAPk_Wj k j) (BitVec.ofNat 32 (v / 2 ^ (32 * j)))) s

/-- SNAP (R283): latch the four registers of a lane. -/
def execSnap (m : Master) (k : Fin 8) (lane : BitVec 11) (reg : BitVec 2) (s : State) : Out :=
  .next (s.gate m .mtr (R.MTR_SNAPk_CTL k) fun s =>
    let s1 := (s.wr (F.MTR_SNAPk_CTL_LANE k) lane.toNat).wr (F.MTR_SNAPk_CTL_REG k) reg.toNat
    let s2 := { s1 with mtr := { s1.mtr with snaps := s1.mtr.snaps.set k (s1.lane lane.toNat).regs } }
    s2.showSnap k)

/-- An entry of the view table: four low views, four wrap counts. -/
def viewEntry (x : Lane) : List Byte :=
  (x.regs.toList.flatMap fun r => leBytes 8 (r / 2 ^ 32)) ++ (x.regs.toList.flatMap fun r => leBytes 4 (r / 2 ^ 96))

/-- VIEW_TABLE_WRITE (R284): once in a TB2 second. A fault leaves SEQ odd. Log entry 46 (DEDUCED). -/
def execViewTableWrite (s : State) : Out :=
  .next (s.whileLive .mtr fun s =>
    if !s.mtrRuns || !s.bit F.MTR_VIEW_BASE_VEN || s.mtr.viewSec = s.nowSec then s
    else
      let base := s.rd F.MTR_VIEW_BASE_BASE * 2 ^ 16
      let odd := (if s.mtr.viewSeq % 2 = 1 then s.mtr.viewSeq else s.mtr.viewSeq + 1) % 2 ^ 32
      let n := ((s.laneNums.filter fun k => (s.lane k).en).getLast?.map (· + 1)).getD 0
      let body := leBytes 4 n ++ leBytes 8 (recTime s.tb3) ++ ((upto n).flatMap fun k => viewEntry (s.lane k))
      let s0 := { s with mtr := { s.mtr with viewSec := s.nowSec, viewSeq := odd } }
      let bad (s : State) : State := s.err .mtr 0x80 0x3FFF
      match s0.dmaWrite 7 base (leBytes 4 odd) with
      | (s1, false) => bad s1
      | (s1, true) =>
        match s1.dmaWrite 7 (base + 4) body with
        | (s2, false) => bad s2
        | (s2, true) =>
          let even := (odd + 1) % 2 ^ 32
          match s2.dmaWrite 7 base (leBytes 4 even) with
          | (s3, false) => bad s3
          | (s3, true) => { s3 with mtr := { s3.mtr with viewSeq := even } })

/-! ## Intervals (R302 to R304) -/

/-- L in seconds (R302). -/
def State.intervalSec (s : State) : Nat :=
  let m := s.rd F.MTR_LANE_CFG_INTERVAL
  60 * (if [1, 2, 3, 4, 5, 6, 10, 12, 15, 20, 30, 60].contains m then m else 15)

/-- Units of a time base in a second. -/
def unitsPerSec : Nat := nsPerSec * unitsPerNs

/-- The first boundary later than an instant, and the last one not later, in units of TB3. -/
def State.nextBound (s : State) (t : Nat) : Nat := (tbSec t / s.intervalSec + 1) * s.intervalSec * unitsPerSec
def State.lastBound (s : State) (t : Nat) : Nat := tbSec t / s.intervalSec * s.intervalSec * unitsPerSec

/-- FLAGS of a block (R305). -/
def fPFAIL : BitVec 8 := 0x01
def fTIME_STEP : BitVec 8 := 0x02
def fTIME_INVALID : BitVec 8 := 0x04
def fSHORT : BitVec 8 := 0x08
def fLATE_SEAL : BitVec 8 := 0x10
def fGAP : BitVec 8 := 0x20
def fUNSIGNED : BitVec 8 := 0x40
def fSTOPPED : BitVec 8 := 0x80

/-- TB3 is valid (R332). -/
def State.tb3Valid (s : State) : Bool := s.bit (F.TSU_TBn_STAT_VALID 3)

/-- The entry of a lane (R304). -/
def laneEntry (n : Nat) (x : Lane) : List Byte :=
  leBytes 2 n ++ leBytes 1 x.acc.kind ++ leBytes 1 (x.acc.flags ||| (if x.cleared then 2 else 0)).toNat ++ leBytes 4 x.cfg.tag ++
  (x.regs.toList.flatMap fun r => leBytes 12 (r / 2 ^ 32)) ++ (x.acc.d.toList.flatMap fun d => leBytes 8 d) ++ leBytes 2 x.acc.rev ++
  leBytes 2 0 ++ leBytes 4 (x.acc.firstRev.getD 0xFFFFFFFF) ++ leBytes 4 x.acc.errMs ++ leBytes 4 0

/-- The lane enters interval records: SEALED, and enabled at some time in the interval. -/
def Lane.sealed (x : Lane) : Bool := x.cfg.flags % 2 == 1 && x.acc.seen

/-- Lists of up to 64 entries. -/
def blocks64 {α : Type} : Nat → List α → List (List α)
  | 0, _ => []
  | fuel + 1, l => if l.isEmpty then [] else l.take 64 :: blocks64 fuel (l.drop 64)

/-- Close the open interval: T_END, flags added and OUTAGE_MS (R302 to R305); its first block asks for its signature (R408).
Log entry 45 (DEDUCED). -/
def State.closeInterval (s : State) (tEnd : Nat) (fl : BitVec 8) (outage : Nat) : State :=
  let nums := s.laneNums.filter fun n => (s.lane n).sealed
  let groups := if s.bit F.MTR_LANE_CFG_SEAL_EN then blocks64 nums.length (nums.map fun n => laneEntry n (s.lane n)) else []
  let flags := s.mtr.openFlags ||| fl ||| (if s.mtr.gap then fGAP else 0)
  let new : List ClosedBlk := groups.zipIdx.map fun (g : List (List Byte) × Nat) =>
    ⟨g.1, s.mtr.openAt.getD 0, tEnd, flags, g.2, groups.length, outage⟩
  let s1 := s.laneNums.foldl (fun s n =>
    let x := s.lane n
    s.setLane n { x with acc := { seen := x.en, kind := x.cfg.kind }, cleared := x.cleared && !x.sealed }) s
  let s2 := { s1 with mtr := { s1.mtr with
    closed := s1.mtr.closed ++ new, gap := s1.mtr.gap && new.isEmpty, openAt := none, openFlags := 0, openOutage := 0 } }.showSealing.raise .mtr 4
  if s.mtr.closed.isEmpty && !new.isEmpty then s2.askKst .seal else s2

/-- Open an interval. -/
def State.openInterval (s : State) (t : Nat) (fl : BitVec 8) : State :=
  { s with mtr := { s.mtr with openAt := some t, openNs := s.nowNs, openFlags := fl ||| (if s.tb3Valid then 0 else fTIME_INVALID), openOutage := 0 } }

/-- At a tick or window end of the TB3 instant `now`: close the interval whose end has come, and open one where none is (R302, R303, R310).
Log entry 45 (DEDUCED). -/
def State.atBoundary (s : State) (now : Nat) : State :=
  match s.mtr.openAt with
  | none => s.openInterval now fSHORT
  | some t =>
    if s.tb3Valid then
      if s.nextBound t ≤ now then (s.closeInterval (s.nextBound t) 0 s.mtr.openOutage).openInterval (s.lastBound now) 0 else s
    else
      let l := s.intervalSec * nsPerSec
      let s1 := { s with mtr := { s.mtr with openFlags := s.mtr.openFlags ||| fTIME_INVALID } }
      if (s.mtr.openNs - s.mtr.startNs) / l < (s.nowNs - s.mtr.startNs) / l then
        (s1.closeInterval now 0 s.mtr.openOutage).openInterval now 0
      else s1

/-- The open interval meets a step of TB3 (R303): forward past a boundary it closes at the step, after one that ended before the step and
has seen no tick since; backward it is marked. Log entry 45 (DEDUCED). -/
def State.stepOpen (s : State) (before after : Nat) : State :=
  match s.mtr.openAt with
  | none => s
  | some t =>
    if after < before then { s with mtr := { s.mtr with openFlags := s.mtr.openFlags ||| fTIME_STEP } }
    else if s.nextBound before ≤ after then
      let s1 := if s.tb3Valid && decide (s.nextBound t ≤ before) then
          (s.closeInterval (s.nextBound t) 0 s.mtr.openOutage).openInterval (s.lastBound before) 0
        else s
      (s1.closeInterval before fTIME_STEP s1.mtr.openOutage).openInterval after (fTIME_STEP ||| fSHORT)
    else s

/-- TB3 steps from `before` to its present value (R303): a frozen engine meets the step when it resumes, and a stopped one closes nothing. -/
def State.mtrStep (s : State) (before : Nat) : State :=
  if !s.en .mtr then s
  else if s.mtrFrozen then { s with mtr := { s.mtr with frozenSteps := s.mtr.frozenSteps ++ [(before, s.tb3, s.nowNs)] } }
  else s.stepOpen before s.tb3

/-- TB3 becomes valid (R303): it counts as a step, from the open interval's T_START where its boundary has passed. Log entry 45 (DEDUCED). -/
def State.mtrValid (s : State) : State :=
  match s.mtr.openAt with
  | none => s
  | some t =>
    if !s.mtrRuns || s.tb3 < s.nextBound t then s
    else (s.closeInterval s.tb3 fTIME_STEP s.mtr.openOutage).openInterval s.tb3 (fTIME_STEP ||| fSHORT)

/-! ## Counting (R281, R293, R300) -/

/-- Add 2⁻³² units to register `k`: its count within the interval grows by the whole units it gains. -/
def Lane.add (x : Lane) (k : Fin 4) (amt : Nat) : Lane :=
  let o := x.regs[k]
  let n := (o + amt) % 2 ^ 128
  let inc := (n / 2 ^ 32 + 2 ^ 96 - o / 2 ^ 32) % 2 ^ 96
  { x with regs := x.regs.set k n, acc := { x.acc with d := x.acc.d.set k ((x.acc.d[k] + inc) % 2 ^ 64) } }

/-- Take the direction of a tick or window with a nonzero one; `ms`: since T_START. -/
def Lane.turn (x : Lane) (fwd : Bool) (ms : Nat) : Lane :=
  if x.dir = some (!fwd) then
    { x with dir := some fwd, acc := { x.acc with rev := satInc 0xFFFF x.acc.rev, firstRev := some (x.acc.firstRev.getD ms) } }
  else { x with dir := some fwd }

/-- Gather an EFLAG. -/
def Lane.flag (x : Lane) (f : BitVec 8) : Lane := { x with acc := { x.acc with flags := x.acc.flags ||| f } }

/-- ms of TB3 from T_START to an instant. -/
def State.sinceStart (s : State) (now : Nat) : Nat := (tbUs now - tbUs (s.mtr.openAt.getD now)) / 1000

/-- UNCERTAIN where truing holds one of the channels at old coefficients (R453). -/
def State.trueQual (s : State) (chs : List Nat) : Nat := if chs.any fun c => s.trueHeld.contains c then 1 else 0

/-! ## Heat, volume and pulses (R297 to R301) -/

/-- The latest value of a signal input that is usable under QLIM (R288, R301). -/
def State.mtrIn (s : State) (sig qlim : Nat) : Option Int :=
  match Sparse.get s.mtr.inputs none sig with
  | some (v, q) => if q ≤ qlim then some v.toInt else none
  | none => none

/-- The counter of a DI as a tick reads it: an edge accepted in this 10 ns sample belongs to the next tick (R342). -/
def State.tickCount (s : State) (di : Nat) : Nat :=
  let n := (s.regGet (R.FIO_DI_CNTn di)).toNat
  if s.fio.countedIn.toList.getD di none = some (s.nowNs / 10) then (n + 2 ^ 32 - 1) % 2 ^ 32 else n

/-- Pulses of a DI since the previous tick (R342). -/
def State.pulses (s : State) (di : Nat) : Nat := (s.tickCount di + 2 ^ 32 - s.mtr.diCnt.getD di 0) % 2 ^ 32

/-- Pulses of a lane, weighted, negative while DIR_DI is high (R298). -/
def State.pulseSum (s : State) (c : LaneCfg) : Int :=
  let v : Int := s.pulses c.pulseDi * c.pulseWt
  if c.flags.testBit 4 && (s.regGet R.FIO_DI_STATE).getLsbD c.dirDi then -v else v

/-- The volume of a tick of `dt` units of TB2, as numerator and denominator in µL; none: the flow is not usable (R298). -/
def State.tickVolume (s : State) (c : LaneCfg) (dt : Nat) : Option (Int × Nat) :=
  if c.flags.testBit 2 then
    (s.mtrIn c.flowSig c.qlim).map fun v =>
      let den := 3600 * 2 ^ c.flowFrac
      let q := v * 1000000
      if q.natAbs < c.deadband * den then (0, 1) else (q * dt, den * unitsPerSec)
  else some (s.pulseSum c, 1)

/-- The temperatures of a lane, supply and return, as numerators and denominators in °C; none: one is not usable (R301).
Log entry 41 (DEDUCED). -/
def State.laneTemps (s : State) (c : LaneCfg) : Option ((Int × Nat) × (Int × Nat)) :=
  if c.flags.testBit 3 then
    match s.mtrIn c.tfSig c.qlim, s.mtrIn c.trSig c.qlim with
    | some f, some r => some ((f, 2 ^ c.tFrac), (r, 2 ^ c.tFrac))
    | _, _ => none
  else
    let p := c.src % 4
    match s.mtr.rtd[Fin.ofNat 8 (2 * p)], s.mtr.rtd[Fin.ofNat 8 (2 * p + 1)] with
    | some f, some r => some ((f, 1000000), (r, 1000000))
    | _, _ => none

/-! The water properties of R299 by the IAPWS-IF97 formulation of region 1. -/

/-- Its 34 terms: exponents of 7.1 − π and of τ − 1.222, and the coefficient as digits × 10^−e. Log entry 40 (PRESUMED). -/
def if97 : List (Nat × Int × Int × Nat) :=
  [(0, -2, 14632971213167, 14), (0, -1, -84548187169114, 14), (0, 0, -37563603672040, 13), (0, 1, 33855169168385, 13),
   (0, 2, -95791963387872, 14), (0, 3, 15772038513228, 14), (0, 4, -16616417199501, 15), (0, 5, 81214629983568, 17)] ++
  [(1, -9, 28319080123804, 17), (1, -7, -60706301565874, 17), (1, -1, -18990068218419, 15), (1, 0, -32529748770505, 15),
   (1, 1, -21841717175414, 15), (1, 3, -52838357969930, 18), (2, -3, -47184321073267, 17), (2, 0, -30001780793026, 17)] ++
  [(2, 1, 47661393906987, 18), (2, 3, -44141845330846, 19), (2, 17, -72694996297594, 29), (3, -4, -31679644845054, 18),
   (3, 0, -28270797985312, 19), (3, 6, -85205128120103, 23), (4, -5, -22425281908000, 19), (4, -2, -65171222895601, 20)] ++
  [(4, 10, -14341729937924, 26), (5, -8, -40516996860117, 20), (8, -11, -12734301741641, 22), (8, -6, -17424871230634, 23),
   (21, -29, -68762131295531, 32), (23, -31, 14478307828521, 33), (29, -38, 26335781662795, 36), (30, -39, -11947622640071, 36)] ++
  [(31, -40, 18228094581404, 37), (32, -41, -93537087292458, 39)]

/-- A rational number to an integer power. -/
def powZ (x : Rat) (k : Int) : Rat := if 0 ≤ k then x ^ k.toNat else (x ^ (-k).toNat)⁻¹

/-- The derivatives of γ by π and by τ at a temperature in K and a pressure in kPa. -/
def gammaPi (t : Rat) (kpa : Nat) : Rat :=
  if97.foldl (fun (s : Rat) (x : Nat × Int × Int × Nat) =>
    s - mkRat x.2.2.1 (10 ^ x.2.2.2) * x.1 * powZ (mkRat 71 10 - mkRat kpa 16530) ((x.1 : Int) - 1) * powZ (1386 / t - mkRat 1222 1000) x.2.1) 0
def gammaTau (t : Rat) (kpa : Nat) : Rat :=
  if97.foldl (fun (s : Rat) (x : Nat × Int × Int × Nat) =>
    s + mkRat x.2.2.1 (10 ^ x.2.2.2) * (mkRat 71 10 - mkRat kpa 16530) ^ x.1 * x.2.1 * powZ (1386 / t - mkRat 1222 1000) (x.2.1 - 1)) 0

/-- Density in kg/m³ and specific enthalpy in kJ/kg of water, of a temperature in °C. -/
def rhoW (c : Rat) (kpa : Nat) : Rat :=
  let t := c + mkRat 27315 100
  kpa / (mkRat 461526 1000000 * t * mkRat kpa 16530 * gammaPi t kpa)
def enthW (c : Rat) (kpa : Nat) : Rat :=
  let t := c + mkRat 27315 100
  mkRat 461526 1000000 * 1386 * gammaTau t kpa

/-- The factor k of R299 in µJ per µL and kelvin, with the engine's error of up to 10⁻⁵. Log entry 40 (PRESUMED). -/
def heatK (f r : Rat) (kpa : Nat) (ret : Bool) : Rat :=
  rhoW (if ret then r else f) kpa * (enthW f kpa - enthW r kpa) / (f - r) * (1 + mkRat (max (-10000000) (min 10000000 (Config.heatErr f r kpa))) (10 ^ 12))

/-- The temperature difference that counts, over a common denominator (R299). -/
def heatDiff (cool : Bool) (f r : Int × Nat) : Int × Nat :=
  let d := f.1 * r.2 - r.1 * f.2
  (if cool then -d else d, f.2 * r.2)

/-- A tick with unusable inputs: ERR_MS, ERR, a power signal that reads BAD, LANE_ERR at the first of a run (R301). -/
def State.tickErr (s : State) (n : Nat) (ms : Nat) : State :=
  let x := s.lane n
  let x1 := ({ x with errRun := true }.flag 1)
  let s1 := s.setLane n { x1 with acc := { x1.acc with errMs := min 0xFFFFFFFF (x1.acc.errMs + ms) } }
  let (d, s1) := s1.draw
  let s2 := s1.deliverMtr (0x1000 + n) (BitVec.ofNat 32 d) 5
  if x.errRun then s2 else s2.raise .mtr 3

/-- Add a signed volume or energy to a pair of registers by its direction. -/
def State.addSigned (s : State) (n : Nat) (k : Fin 4) (num : Int) (den : Nat) : State :=
  if num = 0 then s
  else
    let (a, s1) := s.roundAmt (num.natAbs * 2 ^ 32) den
    s1.setLane n ((s1.lane n).add (if 0 < num then k else Fin.ofNat 4 (k.val + 1)) a)

/-- The tick of a HEAT or COOL lane. Log entry 41 (DEDUCED). -/
def State.tickHeat (s : State) (n : Nat) (dt : Nat) : State :=
  let c := (s.lane n).cfg
  let ms := dt / (1000000 * unitsPerNs)
  match s.tickVolume c dt with
  | none => s.tickErr n ms
  | some (v, vd) =>
    let s1 := s.addSigned n 2 v vd
    let s2 := if v = 0 then s1 else s1.setLane n ((s1.lane n).turn (decide (0 < v)) (s.sinceStart s.tb3))
    match s.laneTemps c with
    | none => s2.tickErr n ms
    | some (f, r) =>
      let (d, dd) := heatDiff (c.kind == 2) f r
      let heat : Rat := if 0 < d then heatK (mkRat f.1 f.2) (mkRat r.1 r.2) c.press (c.flags.testBit 1) * mkRat v vd * mkRat d dd else 0
      let e := heat.num
      let ed := heat.den
      let s3 := s2.addSigned n 0 e ed
      let x := s3.lane n
      let s4 := s3.setLane n { (if 0 < d then x else x.flag 4) with errRun := false }
      let pair := 16 + 2 * (c.src % 4)
      s4.deliverMtr (0x1000 + n) (if dt = 0 then 0 else ratF (e * unitsPerSec) (ed * 1000000 * dt))
        (if c.flags.testBit 3 then 0 else s4.trueQual [pair, pair + 1])

/-- The tick of a VOLUME lane: its power signal carries the volume flow in L/s. Log entry 41 (DEDUCED). -/
def State.tickVol (s : State) (n : Nat) (dt : Nat) : State :=
  let c := (s.lane n).cfg
  match s.tickVolume c dt with
  | none => s.tickErr n (dt / (1000000 * unitsPerNs))
  | some (v, vd) =>
    let s1 := s.addSigned n 2 v vd
    let x := s1.lane n
    let s2 := s1.setLane n { (if v = 0 then x else x.turn (decide (0 < v)) (s.sinceStart s.tb3)) with errRun := false }
    s2.deliverMtr (0x1000 + n) (if dt = 0 then 0 else ratF (v * unitsPerSec) (vd * 1000000 * dt)) 0

/-- The tick of a PULSE_E lane. -/
def State.tickPulse (s : State) (n : Nat) (dt : Nat) : State :=
  let c := (s.lane n).cfg
  let e := s.pulseSum c
  let s1 := s.addSigned n 0 e 1
  let s2 := if e = 0 then s1 else s1.setLane n ((s1.lane n).turn (decide (0 < e)) (s.sinceStart s.tb3))
  s2.deliverMtr (0x1000 + n) (if dt = 0 then 0 else ratF (e * unitsPerSec) (1000000 * dt)) 0

/-- One lane at a tick. -/
def State.tickLane (s : State) (dt n : Nat) : State :=
  let x := s.lane n
  if !x.en then s
  else if x.cfg.kind = 1 || x.cfg.kind = 2 then s.tickHeat n dt
  else if x.cfg.kind = 3 then s.tickVol n dt
  else if x.cfg.kind = 7 then s.tickPulse n dt
  else s

/-- Waiting commands of the lanes that `p` names. -/
def State.applyLaneCmds (s : State) (p : LaneCfg → Bool) : State :=
  s.laneNums.foldl (fun s n =>
    match (s.lane n).cmd with
    | some (_, c) => if p c then s.applyLaneCmd n else s
    | none => s) s

/-- Read the DI counters (R342). -/
def State.readCounters (s : State) : State :=
  { s with mtr := { s.mtr with diCnt := (upto 24).map s.tickCount } }

/-- A tick over all lanes in ascending order, then the waiting commands (R298). -/
def State.tickAll (s : State) : State :=
  let dt := s.tb2 - s.mtr.lastTick
  let s1 := s.laneNums.foldl (fun s n => s.tickLane dt n) (s.atBoundary s.tb3)
  { s1 with mtr := { s1.mtr with lastTick := s1.tb2, stopLeft := s1.mtr.stopLeft &&& 6 } }.readCounters.applyLaneCmds fun c => tickKind c.kind

/-- TICK_MS, brought within its limits. -/
def State.tickMs (s : State) : Nat := max 10 (min 1000 (s.rd F.MTR_LANE_CFG_TICK_MS))

/-- A multiple of TICK_MS of TB2 lies after the previous tick, up to now. Log entry 43 (DEDUCED). -/
def State.tickDue (s : State) : Bool :=
  decide (tbUs s.mtr.lastTick / (1000 * s.tickMs) < s.nowUs / (1000 * s.tickMs))

/-- What a stop still lets the engine do: everything while it is not stopping, then the tick and the windows that it waits for (R311). -/
def State.stopLets (s : State) (k : Nat) : Bool := !s.stopping .mtr || s.mtr.stopLeft.getLsbD k

/-- EN is written 0 (R311): the stop boundary is the end of the current tick and windows; a frozen engine has none. Log entry 43 (DEDUCED). -/
def State.mtrStopAsked (s : State) : State :=
  { s with mtr := { s.mtr with stopLeft :=
    if s.mtrFrozen then 0 else 1 ||| (if s.rd F.MTR_ELEC_CFG_MODE0 = 0 then 0 else 2) ||| (if s.rd F.MTR_ELEC_CFG_MODE1 = 0 then 0 else 4) } }

/-- Nothing is left that the stop boundary waits for; a set that has gone to MODE 0 has no window (R289, R311). -/
def State.mtrAtRest (s : State) : Bool :=
  !s.mtr.stopLeft.getLsbD 0 && (!s.mtr.stopLeft.getLsbD 1 || s.rd F.MTR_ELEC_CFG_MODE0 == 0) &&
    (!s.mtr.stopLeft.getLsbD 2 || s.rd F.MTR_ELEC_CFG_MODE1 == 0)

/-- The frozen time up to a TB2 instant in ns joins OUTAGE_MS of the open interval, which is marked PFAIL (R311). -/
def State.addOutage (s : State) (ns : Nat) : State :=
  let ms := (ns - s.mtr.freezeNs) / 1000000
  { s with mtr := { s.mtr with
    freezeNs := s.mtr.freezeNs + 1000000 * ms, openFlags := s.mtr.openFlags ||| fPFAIL, openOutage := min 0xFFFFFFFE (s.mtr.openOutage + ms) } }

/-- The engine resumes after PFW deasserted and the image is committed: the frozen time is an outage of the open interval, which the steps of
TB3 in that time meet in their order (R303, R311). Log entry 43 (DEDUCED). -/
def State.mtrResume (s : State) : State :=
  let s1 := s.setFrozen false
  let s2 := s1.mtr.frozenSteps.foldl (fun (s : State) (x : Nat × Nat × Nat) => (s.addOutage x.2.2).stepOpen x.1 x.2.1) s1
  let s3 := s2.addOutage s2.nowNs
  { s3 with mtr := { s3.mtr with
    lastTick := s3.tb2, committed := false, frozenSteps := []
    sets := s3.mtr.sets.map fun (e : ElecSet) => { e with first := none, count := 0, lead := none, prevEnd := s3.tb2, samples := [], past := [] } } }.readCounters

/-- TICK (R288, R298 to R301, R311). -/
def execTick (s : State) : Out :=
  .next (s.whileLive .mtr fun s =>
    if !s.en .mtr || !s.tickDue || !s.stopLets 0 then s
    else if s.mtrFrozen then (if !s.pfw && s.mtr.committed then s.mtrResume.tickAll else s)
    else s.tickAll)

/-! ## Electrical measurement (R289 to R295) -/

/-- The wiring of a set. -/
def State.elecMode (s : State) (set : Fin 2) : Nat := s.rd (if set = 0 then F.MTR_ELEC_CFG_MODE0 else F.MTR_ELEC_CFG_MODE1)

/-- The phases of a wiring, 0 for phase 1. -/
def phasesOf (mode : Nat) : List (Fin 3) := if mode = 0 then [] else if mode = 2 then [0, 2] else [0, 1, 2]

/-- Nominal frequency, its period in ns, and the cycles of a window (R292). -/
def State.nomHz (s : State) : Nat := if s.bit F.MTR_ELEC_CFG_NOMINAL then 60 else 50
def State.windowCycles (s : State) : Nat := if s.bit F.MTR_ELEC_CFG_NOMINAL then 12 else 10

/-- NOZC and REF of a set in MTR_ZC_STAT. -/
def nozcFld (set : Fin 2) (p : Fin 3) : Fld := ⟨R.MTR_ZC_STAT, 4 * set.val + p.val, 1⟩
def refFld (set : Fin 2) : Fld := if set = 0 then F.MTR_ZC_STAT_REF0 else F.MTR_ZC_STAT_REF1

/-- The reference phase: the lowest without NOZC (R292). -/
def State.refPhase (s : State) (set : Fin 2) : Option (Fin 3) := (phasesOf (s.elecMode set)).find? fun p => !s.bit (nozcFld set p)

/-- Show the reference phase. -/
def State.showRef (s : State) (set : Fin 2) : State :=
  s.wr (refFld set) (match s.refPhase set with | some p => p.val + 1 | none => 0)

def State.setZc (s : State) (set : Fin 2) (p : Fin 3) (z : ZcPhase) : State :=
  let e := s.mtr.sets[set]
  { s with mtr := { s.mtr with sets := s.mtr.sets.set set { e with phases := e.phases.set p z } } }

/-- Set the counting of a set's windows. -/
def State.setElec (s : State) (set : Fin 2) (e : ElecSet) : State := { s with mtr := { s.mtr with sets := s.mtr.sets.set set e } }

/-- A counted crossing of the reference phase at `t`: the first since the reference changed begins a window and the count, where samples
before it wait as a window of their own; a later one counts in the running window. Log entry 42 (DEDUCED). -/
def State.countCrossing (s : State) (set : Fin 2) (t : Nat) (changed : Bool) : State :=
  let e := s.mtr.sets[set]
  s.setElec set (match changed, e.first with
    | false, some _ => { e with count := e.count + 1, last := t }
    | _, _ =>
      let lead := e.samples.any fun x => decide (x.at_ < t)
      { e with first := some t, count := 0, last := t, lead := if lead then some t else none, prevEnd := if lead then e.prevEnd else t })

/-- Samples that the interpolation of the delays looks ahead: none where the newest sample of the set has every PHC 0 (R290).
Log entry 82 (DESIGN CHOICE). -/
def ElecSet.ahead (e : ElecSet) : Nat :=
  match e.samples.getLast? with
  | some x => if x.phc.any fun d => d != 0 then 64 else 0
  | none => 0

/-- The window of a set is complete: 10 or 12 counted crossings, the samples before the first, or 200 ms where no phase has crossings
(R292). Log entry 42 (DEDUCED). -/
def State.windowDue (s : State) (set : Fin 2) : Bool :=
  let e := s.mtr.sets[set]
  e.lead.isSome || match s.refPhase set with
    | some _ => decide (s.windowCycles ≤ e.count)
    | none => decide (e.prevEnd + unitsPerSec / 5 + e.ahead * (unitsPerSec / 32000) ≤ s.tb2)

/-- ZERO_CROSSING (R291): a crossing that the samples of a phase have shown; it counts where it follows the previous counted one by 0.8 to
1.25 nominal periods; while the phase has NOZC, or has counted none, any crossing not too early begins a new run. The second of a run clears
NOZC. One of the reference phase waits while a complete window has not been integrated. Log entry 42 (DEDUCED). -/
def execZeroCrossing (set : Fin 2) (p : Fin 3) (s : State) : Out :=
  .next (s.whileLive .mtr fun s =>
    let z := s.mtr.sets[set].phases[p]
    match z.seen with
    | none => s
    | some t =>
      if !s.mtrRuns || !(phasesOf (s.elecMode set)).contains p || (s.refPhase set == some p && s.windowDue set) then s
      else
        let hz := s.nomHz
        let nozc := s.bit (nozcFld set p)
        let gap := fun (l : Nat) => 100 * hz * (t - l)
        let next := match z.last with
          | some l => decide (80 * unitsPerSec ≤ gap l) && decide (gap l ≤ 125 * unitsPerSec)
          | none => false
        let fresh := match z.last with
          | some l => nozc && decide (125 * unitsPerSec < gap l)
          | none => true
        if !next && !fresh then s.setZc set p { z with seen := none }
        else
          let s1 := s.setZc set p { z with last := some t, since := if nozc then z.since else t, seen := none }
          let s2 := if next && nozc then
              (((s1.setZc set p { z with last := some t, since := t, seen := none }).wr (nozcFld set p) 0).raise .mtr 2).showRef set
            else s1
          if s2.refPhase set == some p then s2.countCrossing set t (s2.refPhase set != s.refPhase set) else s2)

/-- NOZC_TIMEOUT (R291): ZC_TMO ms without a counted crossing. -/
def execNozcTimeout (set : Fin 2) (p : Fin 3) (s : State) : Out :=
  .next (s.whileLive .mtr fun s =>
    let tmo := 1000000 * unitsPerNs * max 1 (s.rd F.MTR_ELEC_CFG_ZC_TMO)
    let z := s.mtr.sets[set].phases[p]
    if !s.mtrRuns || !(phasesOf (s.elecMode set)).contains p || s.bit (nozcFld set p) || s.tb2 < z.since + tmo then s
    else
      let s0 := ((s.wr (nozcFld set p) 1).raise .mtr 2).setZc set p { z with last := none }
      let s1 := s0.setElec set { s0.mtr.sets[set] with nozc := s0.mtr.sets[set].nozc ||| 2 ^ p.val }
      let s2 := s1.showRef set
      if s.refPhase set == some p then s2.setElec set { s2.mtr.sets[set] with first := none, count := 0 } else s2)

/-! What a window's samples give (R289, R293, R294). -/

/-- The quantities of a window: its samples; active and reactive energy of phases 1 to 3 in J and var·s; apparent energy of the phases in VA·s;
U_rms of V0 to V3 and I_rms of I0 to I3; G_1 to G_63 of the 8 channels. -/
structure ElecWin where
  samples : Nat
  p : List Rat
  q : List Rat
  s : List Rat
  rms : List Rat
  harm : List (List Rat)

/-- The square root of a nonnegative number below 2⁶⁴, to 2⁻⁶⁴. Log entry 83 (DESIGN CHOICE). -/
def sqrtR (x : Rat) : Rat :=
  let n := x.num.toNat * 2 ^ 128 / x.den
  mkRat ((upto 96).foldl (fun r k => let c := r + 2 ^ (95 - k); if c * c ≤ n then c else r) 0 : Nat) (2 ^ 64)

/-- The sum of products of two lists. -/
def dot (a b : List Rat) : Rat := (a.zip b).foldl (fun n x => n + x.1 * x.2) 0

/-- The cosine and sine of a fraction `j / m` of a turn in units of 2⁻⁹⁶, by their power series to 2⁻⁸⁰. Log entry 83 (DESIGN CHOICE). -/
def turnF (j m : Nat) : Int × Int :=
  let x : Int := 497805226624462170461043889244 * (j % m : Nat) / m
  (upto 60).foldl (fun (s : (Int × Int) × Int) (k : Nat) =>
    let t := if k = 0 then 2 ^ 96 else s.2 * x / (2 ^ 96 * (k : Int))
    (match k % 4 with
      | 0 => (s.1.1 + t, s.1.2)
      | 1 => (s.1.1, s.1.2 + t)
      | 2 => (s.1.1 - t, s.1.2)
      | _ => (s.1.1, s.1.2 - t), t)) ((0, 0), 2 ^ 96) |>.1

/-- sin πx / πx, from the same series. Log entry 83 (DESIGN CHOICE). -/
def sinc (x : Rat) : Rat :=
  if x = 0 then 1
  else if x.den = 1 then 0
  else mkRat (turnF x.num.natAbs (2 * x.den)).2 (2 ^ 96) / (mkRat 497805226624462170461043889244 (2 ^ 97) * mkRat x.num.natAbs x.den)

/-- A window's value at a distance of fewer than 33 samples, within the bounds of the log: from (1 − u/33)³ to 1.
Log entry 82 (DESIGN CHOICE). -/
def windowed (w : Rat → Rat) (u : Rat) : Rat :=
  let c := 1 - (if u < 0 then -u else u) / 33
  max (c * c * c) (min 1 (w u))

/-- Band-limited interpolation of samples `x` at a position (R290, R294): a windowed sinc over 32 samples to each side, which gives the sample
itself at a whole position. Log entry 82 (DESIGN CHOICE). -/
def interpolate (w : Rat → Rat) (x : Int → Rat) (pos : Rat) : Rat :=
  if pos.den = 1 then x pos.num
  else (upto 65).foldl (fun n k =>
    let i := pos.floor + (k : Int) - 32
    let u := pos - i
    n + sinc u * windowed w u * x i) 0

/-- Channel `c` at sample `i` of a list, after its delay of PHC/1,024 samples (R290). -/
def delayed (l : List Sample) (i c : Nat) : Rat :=
  let phc := ((l.map Sample.phc).getD i []).getD c 0
  interpolate Config.phcWindow (fun j => if j < 0 then 0 else ((l.map Sample.v).getD j.toNat []).getD c 0) ((i : Int) - mkRat phc 1024)

/-- A window of samples brought to 128 points per cycle, the window taken as one period (R294). Log entry 82 (DESIGN CHOICE). -/
def resample (l : List Rat) (m : Nat) : List Rat :=
  (upto m).map fun k => interpolate Config.resampleWindow (fun j => l.getD (j % (l.length : Int)).toNat 0) (mkRat ((k * l.length : Nat) : Int) m)

/-- The Hilbert transform of a window of samples, taken as one period (R293): every spectral line turned back by a quarter, with a gain within
0.1 % of 1 from 45 Hz to 3,200 Hz, and an open one up to that bound elsewhere. Log entry 82 (DESIGN CHOICE). -/
def hilbert (l : List Rat) : List Rat :=
  let n := l.length
  let lines := (upto ((n - 1) / 2)).map fun k =>
    let b := k + 1
    let (re, im) := (l.zipIdx).foldl (fun (s : Rat × Rat) (e : Rat × Nat) =>
      let c := turnF (b * e.2) n
      (s.1 + e.1 * mkRat c.1 (2 ^ 96), s.2 + e.1 * mkRat c.2 (2 ^ 96))) (0, 0)
    let inBand := decide (45 * n ≤ 32000 * b) && decide (32000 * b ≤ 3200 * n)
    let g := 1 + max (if inBand then -1 else -1000) (min 1 (Config.hilbertGain b n)) * mkRat 1 1000
    (b, re * g * mkRat 2 n, im * g * mkRat 2 n)
  (upto n).map fun j => lines.foldl (fun (s : Rat) (x : Nat × Rat × Rat) =>
    let c := turnF (x.1 * j) n
    s + x.2.1 * mkRat c.2 (2 ^ 96) - x.2.2 * mkRat c.1 (2 ^ 96)) 0

/-- C² of spectral line `b` of points: the squared rms value (R294). Log entry 40 (PRESUMED). -/
def lineSq (y : List Rat) (b : Nat) : Rat :=
  let m := y.length
  let (re, im) := (y.zipIdx).foldl (fun (s : Rat × Rat) (e : Rat × Nat) =>
    let c := turnF (b * e.2) m
    (s.1 + e.1 * mkRat c.1 (2 ^ 96), s.2 + e.1 * mkRat c.2 (2 ^ 96))) (0, 0)
  2 * (re * re + im * im) / (m * m)

/-- G_h² (R294): the harmonic group of IEC 61000-4-7, the lines between the midpoints with half of each midpoint, or the subgroup, the line and
its two neighbours; `c` lines to an order. Log entry 40 (PRESUMED). -/
def groupSq (y : List Rat) (c h : Nat) (sub : Bool) : Rat :=
  if sub then lineSq y (c * h - 1) + lineSq y (c * h) + lineSq y (c * h + 1)
  else (upto (c - 1)).foldl (fun n k => n + lineSq y (c * h + k + 1 - c / 2)) ((lineSq y (c * h - c / 2) + lineSq y (c * h + c / 2)) / 2)

/-- THDG of G_1 to G_63; with G_1 = 0 it is open (R294). -/
def thdg (g : List Rat) : Option Rat :=
  let g1 := g.headD 0
  if g1 = 0 then none else some (sqrtR (dot (g.drop 1) (g.drop 1)) / g1)

/-- Where the window of a set ends. -/
def State.windowEndAt (s : State) (set : Fin 2) : Nat :=
  let e := s.mtr.sets[set]
  match e.lead with
  | some t => t
  | none => if (s.refPhase set).isSome then e.last else min s.tb2 (e.prevEnd + unitsPerSec / 5)

/-- The quantities of the samples of a set up to an instant (R289, R293, R294). Log entry 83 (DESIGN CHOICE). -/
def State.winOf (s : State) (set : Fin 2) (tEnd : Nat) : ElecWin :=
  let e := s.mtr.sets[set]
  let all := e.past ++ e.samples
  let n := (e.samples.filter fun x => decide (x.at_ < tEnd)).length
  let mode := s.elecMode set
  let ch (c : Nat) : List Rat := (upto n).map fun k => delayed all (e.past.length + k) c
  let rms (c : Nat) : Rat := if n = 0 then 0 else sqrtR (dot (ch c) (ch c) / n)
  let phase (f : Nat → Rat) : List Rat := (upto 3).map fun p => if (phasesOf mode).any fun x => x.val == p then f p else 0
  let y (c : Nat) : List Rat := resample (ch c) (128 * s.windowCycles)
  { samples := n
    p := phase fun p => dot (ch p) (ch (4 + p)) / 32000
    q := phase fun p => dot (ch (4 + p)) (hilbert (ch p)) / 32000
    s := phase fun p => rms p * rms (4 + p) * mkRat (tEnd - e.prevEnd : Nat) unitsPerSec
    rms := (upto 8).map rms
    harm := if s.bit F.MTR_HARM_BASE_HEN then
        (upto 8).map fun c => (upto 63).map fun h => sqrtR (groupSq (y c) s.windowCycles (h + 1) (s.bit F.MTR_ELEC_CFG_HSUB))
      else [] }

/-- Active, reactive or apparent energy of a phase (1 to 3) or the total (0), by KIND (R293). -/
def winEnergy (kind : Nat) (w : ElecWin) (phase : Nat) : Rat :=
  let l := if kind = 4 then w.p else if kind = 5 then w.q else w.s
  if phase = 0 then l.getD 0 0 + l.getD 1 0 + l.getD 2 0 else l.getD (phase - 1) 0

/-- A rational number as binary32. -/
def toF32 (x : Rat) : Word := ratF x.num x.den

/-- Power in W, var or VA of an energy over a window. -/
def winPower (w : ElecWin) (e : Rat) : Word := if w.samples = 0 then 0 else toF32 (e * 32000 / w.samples)

/-- The channels behind a phase (1 to 3) of a set, or behind its total (0) (R289). -/
def State.phaseChans (s : State) (set : Fin 2) (ph : Nat) : List Nat :=
  ((phasesOf (s.elecMode set)).filter fun p => ph == 0 || p.val + 1 == ph).flatMap fun p => [8 * set.val + p.val, 8 * set.val + 4 + p.val]

/-- One electrical lane at a window end of TB3 instant `now` (R293, R453): apparent energy follows the sign of the active energy. -/
def State.windowLane (s : State) (set : Fin 2) (w : ElecWin) (nozc : Bool) (now n : Nat) : State :=
  let c := (s.lane n).cfg
  if !(s.lane n).en || tickKind c.kind || c.src % 2 ≠ set.val then s
  else
    let ph := c.src / 4
    let e := winEnergy c.kind w ph
    let pos := if c.kind = 6 then decide (0 ≤ winEnergy 4 w ph) else decide (0 ≤ e)
    let amt := e * 1000000 * pow2 32
    let (a, s1) := s.roundAmt amt.num.natAbs amt.den
    let x1 := (s1.lane n).add (if pos then 0 else 1) a
    let x2 := if c.kind = 4 && e ≠ 0 then x1.turn pos (s1.sinceStart now) else x1
    (s1.setLane n (if nozc then x2.flag 8 else x2)).deliverMtr (0x1000 + n) (winPower w e)
      (s1.trueQual (s1.phaseChans set ph))

/-- The frequency of a set over its window, with its quality (R291, R292). -/
def State.winFreq (s : State) (set : Fin 2) : Word × Nat :=
  let e := s.mtr.sets[set]
  match s.refPhase set, e.first with
  | some _, some f => if e.last ≤ f then (ratF s.nomHz 1, 1) else (ratF (e.count * unitsPerSec : Nat) (e.last - f), 0)
  | _, _ => (ratF s.nomHz 1, 1)

/-- THDG of a channel as binary32. Log entry 82 (DESIGN CHOICE). -/
def State.thdgWord (s : State) (g : List Rat) : Word × State :=
  match thdg g with
  | some x => (toF32 x, s)
  | none => let (d, s1) := s.draw; (BitVec.ofNat 32 d, s1)

/-- Deliver a set's measured values (R295). -/
def State.deliverWindow (s : State) (set : Fin 2) (w : ElecWin) : State :=
  let b := 0x1800 + 32 * set.val
  let ch := 8 * set.val
  let s1 := (upto 8).foldl (fun s k => s.deliverMtr (b + k) (toF32 (w.rms.getD k 0)) (s.trueQual [ch + k])) s
  let s2 := (upto 4).foldl (fun s i =>
    let ph := if i < 3 then i + 1 else 0
    let q := s.trueQual (s.phaseChans set ph)
    ((s.deliverMtr (b + 8 + i) (winPower w (winEnergy 4 w ph)) q).deliverMtr (b + 12 + i) (winPower w (winEnergy 5 w ph)) q).deliverMtr
      (b + 16 + i) (winPower w (winEnergy 6 w ph)) q) s1
  let (f, fq) := s2.winFreq set
  let s3 := s2.deliverMtr (b + 20) f (max fq (s2.trueQual [ch, ch + 1, ch + 2]))
  if !s3.bit F.MTR_HARM_BASE_HEN then s3
  else
    (upto 3).foldl (fun s i =>
      let (u, s) := s.thdgWord (w.harm.getD i [])
      let (c, s) := s.thdgWord (w.harm.getD (4 + i) [])
      (s.deliverMtr (b + 21 + i) u (s.trueQual [ch + i])).deliverMtr (b + 24 + i) c (s.trueQual [ch + 4 + i])) s3

/-- The NOZC bits of a set. -/
def State.nozcBits (s : State) (set : Fin 2) : Nat := getBits (s.regGet R.MTR_ZC_STAT) (4 * set.val) 3

/-- Records of the harmonic ring. -/
def State.harmN (s : State) : Nat := let l := s.rd F.MTR_HARM_BASE_LOG2N; 2 ^ (if 2 ≤ l && l ≤ 12 then l else 2)

/-- Write a harmonic record, or drop it with HARM_DROP where the ring is full (R294). -/
def State.harmRecord (s : State) (set : Fin 2) (w : ElecWin) (nozc now : Nat) : State :=
  if !s.bit F.MTR_HARM_BASE_HEN then s
  else
    let n := s.harmN
    let wr := s.rd F.MTR_HARM_IDX_WR % n
    if (wr + 1) % n = s.rd F.MTR_HARM_IDX_RD % n then s.raise .mtr 8
    else
      let (chans, s) := (upto 8).foldl (fun (x : List Byte × State) c =>
        let g := w.harm.getD c []
        let (d, s1) := x.2.thdgWord g
        (x.1 ++ g.flatMap (fun v => leBytes 4 (toF32 v).toNat) ++ leBytes 4 d.toNat, s1)) ([], s)
      let rec_ := leBytes 8 (recTime now) ++ leBytes 1 set.val ++ leBytes 1 s.windowCycles ++ leBytes 2 nozc ++ leBytes 4 (s.winFreq set).1.toNat ++
        chans
      match s.dmaWrite 7 (s.rd F.MTR_HARM_BASE_BASE * 2 ^ 16 + 2064 * wr) rec_ with
      | (s1, true) => s1.wr F.MTR_HARM_IDX_WR ((wr + 1) % n)
      | (s1, false) => s1.err .mtr 0x80 0x3FFF

/-- A window of a set is integrated up to an instant: energies, measured values, the harmonic record, then the waiting commands (R292 to R295).
Log entry 46 (DEDUCED). -/
def State.windowAll (s : State) (set : Fin 2) (tEnd : Nat) : State :=
  let w := s.winOf set tEnd
  let nz := s.nozcBits set ||| (s.mtr.sets[set]).nozc
  let now := s.tb3 - (s.tb2 - tEnd)
  let s1 := s.atBoundary now
  let s2 := s1.laneNums.foldl (fun s n => s.windowLane set w (nz != 0) now n) s1
  let s3 := (s2.deliverWindow set w).harmRecord set w nz now
  let e := s3.mtr.sets[set]
  let old := e.past ++ e.samples.filter fun x => decide (x.at_ < tEnd)
  let s4 := s3.setElec set { e with
    first := if (s3.refPhase set).isSome then some e.last else none, count := 0, lead := none, prevEnd := tEnd, nozc := s3.nozcBits set
    samples := e.samples.filter (fun x => decide (tEnd ≤ x.at_)), past := old.drop (old.length - 130) }
  { s4 with mtr := { s4.mtr with stopLeft := s4.mtr.stopLeft &&& (if set = 0 then 5 else 3) } }.applyLaneCmds fun c => !tickKind c.kind && c.src % 2 == set.val

/-- WINDOW_END (R292 to R295): a set in MODE 0 measures nothing. -/
def execWindowEnd (set : Fin 2) (s : State) : Out :=
  .next (s.whileLive .mtr fun s =>
    if !s.mtrRuns || s.elecMode set = 0 || !s.windowDue set || !s.stopLets (set.val + 1) then s else s.windowAll set (s.windowEndAt set))

/-- The resistance of a Pt100 in units of 10⁻¹⁵ Ω at a temperature in µ°C (R297): the Callendar–Van Dusen equation of IEC 60751.
Log entry 40 (PRESUMED). -/
def ptOhms (t : Int) : Rat :=
  let x := mkRat t 1000000
  let c : Rat := if t < 0 then mkRat (-4183) 1000000000000000 * (x - 100) * x * x * x else 0
  100 * (1 + mkRat 39083 10000000 * x - mkRat 5775 10000000000 * x * x + c)

/-- The temperature in µ°C of a Pt100 resistance, the highest whose resistance is not greater; none outside −50 to 200 °C (R297).
Log entry 40 (PRESUMED). -/
def ptTemp (r : Rat) : Option Int :=
  if r < ptOhms (-50000000) || ptOhms 200000000 < r then none
  else some ((upto 28).foldl (fun (t : Int) k => let c := t + 2 ^ (27 - k); if c ≤ 200000000 && ptOhms c ≤ r then c else t) (-50000000))

/-- RTD_CONVERSION (R297, R453): `nohm`: the resistance measured, in nΩ; none: open or shorted. The truing of the reference and the pair's
TYPE give the resistance as of a Pt100, its temperature takes the channel's offset. -/
def execRtdConversion (c : Fin 8) (nohm : Option Nat) (s : State) : Out :=
  .next (s.whileLive .mtr fun s =>
    if !s.mtrRuns || !(s.rd F.MTR_RTD_CFG_EN).testBit (c.val / 2) then s
    else
      let k : Int × Int := Sparse.get s.coef (0, 0) (16 + c.val)
      let r0 : Rat := if (s.rd F.MTR_RTD_CFG_TYPE).testBit (c.val / 2) then 10 else 1
      let good := nohm.bind fun n => ptTemp (mkRat n 1000000000 * (1 + mkRat k.1 1000000) / r0)
      let v := good.map fun x => x + sext 16 (s.rd (F.MTR_RTD_OFSn_OFS c)) * 1000
      let s1 := { s with mtr := { s.mtr with rtd := s.mtr.rtd.set c v } }
      match v with
      | some x => s1.deliverMtr (0x1840 + c.val) (ratF x 1000000) (s1.trueQual [16 + c.val])
      | none =>
        let (d, s2) := s1.draw
        s2.deliverMtr (0x1840 + c.val) (BitVec.ofNat 32 d) 5)

/-! Sampling (R289 to R291). -/

/-- A binary32 scale factor; of one that is not finite the value is open. -/
def scaleOf (w : Word) : Rat :=
  match f32 w with
  | .fin neg m e => (if neg then -1 else 1) * (m : Rat) * pow2 e
  | _ => Config.scaleOpen w

/-- A sample of a channel (R290, R453): the code with the truing coefficients, offset and gain in ppm, times SCALE.
Log entry 83 (DESIGN CHOICE). -/
def State.sampleOf (s : State) (codes : List (BitVec 24)) (c : Nat) : Rat :=
  let k : Int × Int := Sparse.get s.coef (0, 0) c
  (mkRat (codes.getD c 0).toInt (2 ^ 23) + mkRat k.1 1000000) * (1 + mkRat k.2 1000000) * scaleOf (s.regGet (R.MTR_CHn_SCALE c))

/-- Watch a phase's voltage pass from `a` at `t0` to `b` at `t1` (R291): once below −2 % of SCALE, the next passage through zero is a crossing,
placed to 1/256 of the sample. Log entry 42 (DEDUCED). -/
def ZcPhase.watch (z : ZcPhase) (full a b : Rat) (t0 t1 : Nat) : ZcPhase :=
  let z1 := if b < -(full * mkRat 2 100) then { z with armed := true } else z
  if z1.armed && decide (a < 0) && decide (0 ≤ b) then
    { z1 with armed := false, seen := some (t0 + (t1 - t0) * (256 * -a / (b - a)).floor.toNat / 256) }
  else z1

/-- Take a sample into a set: the voltages of its phases are searched for crossings as far as their delays are settled. -/
def State.takeSet (s : State) (set : Fin 2) (new : List Rat) : State :=
  if s.elecMode set = 0 then s
  else
    let o := 8 * set.val
    let e0 := s.mtr.sets[set]
    let e := { e0 with samples := e0.samples ++
      [(⟨s.tb2, (new.drop o).take 8, (upto 8).map fun k => sext 16 (s.rd (F.MTR_CHn_PHC_PHC (o + k)))⟩ : Sample)] }
    let all := e.past ++ e.samples
    let settled := all.take (all.length - e.ahead)
    let fresh := (settled.zipIdx).filter fun x => decide (e.watched < x.1.at_)
    let ph : Vector ZcPhase 3 := Vector.ofFn fun p =>
      if (phasesOf (s.elecMode set)).contains p then
        fresh.foldl (fun (z : ZcPhase) (x : Sample × Nat) =>
          z.watch (scaleOf (s.regGet (R.MTR_CHn_SCALE (o + p.val)))) (delayed all (x.2 - 1) p.val) (delayed all x.2 p.val)
            ((all.map Sample.at_).getD (x.2 - 1) 0) x.1.at_) e.phases[p]
      else e.phases[p]
    s.setElec set { e with phases := ph, watched := (fresh.getLast?.map fun x => x.1.at_).getD e.watched }

/-- All 16 channels are sampled at once (R289, R290). -/
def State.takeSample (s : State) (codes : List (BitVec 24)) : State :=
  let new := (upto 16).map (s.sampleOf codes)
  (s.takeSet 0 new).takeSet 1 new

/-- SAMPLE_BOUNDARY (R289, R290, R312, R452): pending RWS fields and truing coefficients become active, and a running engine takes the codes of
the 16 channels. -/
def execSampleBoundary (codes : List (BitVec 24)) (s : State) : Out :=
  .next (s.whileLive .mtr fun s =>
    let s1 := s.commitBlk .mtr
    let s2 := { s1 with coef := s1.coefNew.foldl (fun (l : List (Nat × (Int × Int))) (x : Nat × (Int × Int)) => Sparse.put l (0, 0) x.1 x.2) s1.coef, coefNew := [] }
    (if s2.mtrRuns then s2.takeSample codes else s2).freezePoint .mtr)

/-! ## Sealing and storing (R305, R306) -/

/-- The header of a block (R305). -/
def blockHeader (serial : Nat) (b : ClosedBlk) (flags : BitVec 8) (seq prev : Nat) : List Byte :=
  leBytes 4 0x52544D5A ++ leBytes 2 1 ++ leBytes 2 b.entries.length ++ leBytes 4 seq ++ leBytes 4 0 ++ leBytes 8 (recTime b.tStart) ++
  leBytes 8 (recTime b.tEnd) ++ leBytes 4 flags.toNat ++ leBytes 2 b.blk ++ leBytes 2 b.nblk ++ leBytes 4 b.outage ++ leBytes 4 0 ++
  leBytes 16 serial ++ leBytes 32 prev

/-- Build the oldest unbuilt block; `sign` signs the hash of header and entries, or refuses (R305). -/
def State.buildBlock (s : State) (sign : State → BitVec 256 → State × Option (List Byte)) : State :=
  match s.mtr.closed with
  | [] => s
  | b :: rest =>
    let seq := (s.rd F.MTR_BILL_SEQ_SEQ + 1) % 2 ^ 32
    let ents := b.entries.flatMap id
    let serial := leNat ((upto 4).flatMap fun k => leBytes 4 (s.regGet (R.KST_SERIALk k)).toNat)
    let (s1, sig) := sign s (sha3 (blockHeader serial b b.flags seq s.mtr.lastHash ++ ents))
    let flags := if sig.isSome then b.flags else b.flags ||| fUNSIGNED
    let bytes := blockHeader serial b flags seq s.mtr.lastHash ++ ents ++ sig.getD (List.replicate 2420 0)
    let s2 := if sig.isSome then s1
      else ((s1.raise .mtr 6).err .mtr 0x82 (seq % 2 ^ 14)).event .mtr 6 4 (s1.regGet (R.BLK_IRQ_RAW .mtr) ||| 0x40).toNat 0 0 0
    ({ s2 with mtr := { s2.mtr with
      closed := rest, built := s2.mtr.built ++ [(⟨seq, bytes, b.blk + 1 == b.nblk⟩ : BuiltBlk)], lastHash := (sha3 bytes).toNat } }.wr
      F.MTR_BILL_SEQ_SEQ seq).showSealing

/-- Pages of the billing partition (R448). -/
def billPages : Nat := 65536

/-- A stored block may be overwritten: firmware has exported it (R306). -/
def State.exported (s : State) (b : BuiltBlk) : Bool := decide (b.seq ≤ s.rd F.MTR_BILL_ACK_ACK)

/-- MTR_BILL_STAT.FREE: pages never used, and the oldest blocks that firmware has exported. -/
def State.showFree (s : State) : State :=
  s.wr F.MTR_BILL_STAT_FREE (billPages - s.nand.bill.length + (s.nand.bill.takeWhile s.exported).length)

/-- BLOCK_STORE (R306): the oldest built block is stored, over the oldest stored one where no page is left, or dropped. -/
def execBlockStore (s : State) : Out :=
  .next (s.whileLive .mtr fun s =>
    match s.mtr.built with
    | [] => s
    | b :: rest =>
      let s0 := { s with mtr := { s.mtr with built := rest } }.showSealing
      let room : Option (List BuiltBlk) :=
        if s.nand.bill.length < billPages then some s.nand.bill
        else match s.nand.bill with
          | o :: t => if s.exported o then some t else none
          | [] => some []
      let s1 := match room with
        | some l => { s0 with nand := { s0.nand with bill := l ++ [b] }, mtr := { s0.mtr with dropRun := false } }
        | none =>
          let s2 := (s0.incSat F.MTR_BILL_STAT_DROP).raise .mtr 7
          let s3 := if s0.mtr.dropRun then s2 else s2.event .mtr 7 4 (s2.regGet (R.BLK_IRQ_RAW .mtr)).toNat 0 0 0
          { s3 with mtr := { s3.mtr with dropRun := true } }
      (if b.last then s1.raise .mtr 5 else s1).showFree)

/-! ## Totals images, freeze and restart (R307 to R311) -/

/-- The bytes of a lane in a totals image (R308). Log entry 82 (DESIGN CHOICE). -/
def laneImage (n : Nat) (x : Lane) : List Byte :=
  leBytes 2 n ++ leBytes 1 (x.kind.getD 255) ++ leBytes 1 (match x.dir with | none => 0 | some false => 1 | some true => 2) ++
    (x.regs.toList.flatMap fun r => leBytes 16 r) ++ (x.acc.d.toList.flatMap fun d => leBytes 8 d) ++ leBytes 2 x.acc.rev ++
    leBytes 4 (x.acc.firstRev.getD 0xFFFFFFFF) ++ leBytes 4 x.acc.errMs ++ leBytes 1 x.acc.flags.toNat

/-- The bytes of a totals image (R308): a header, the lanes, and of the blocks of a closed interval the accumulators.
Log entry 82 (DESIGN CHOICE). -/
def Totals.image (t : Totals) : List Byte :=
  leBytes 4 t.seq ++ leBytes 1 (if t.clean then 1 else 0) ++ leBytes 4 t.billSeq ++ leBytes 32 t.lastHash ++ leBytes 8 (recTime (t.openAt.getD 0)) ++
    leBytes 1 t.openFlags.toNat ++ leBytes 8 (recTime t.freezeAt) ++ leBytes 4 t.ack ++ (t.lanes.flatMap fun x => laneImage x.1 x.2) ++
    (t.closed.flatMap fun b => leBytes 8 (recTime b.tStart) ++ leBytes 8 (recTime b.tEnd) ++ leBytes 1 b.flags.toNat ++
      b.entries.flatMap fun e => e.take 8 ++ (e.drop 0x38).take 48)

/-- A copy whose CRC-32 holds (R51, R308). -/
def Totals.valid (t : Totals) : Bool := t.crc == crc32 t.image

/-- The totals image of the present counts. -/
def State.totals (s : State) (clean : Bool) (seq : Nat) (at_ : Nat) : Totals :=
  let t : Totals :=
    { seq := seq, clean := clean, lanes := s.mtr.lanes, closed := s.mtr.closed, built := s.mtr.built, billSeq := s.rd F.MTR_BILL_SEQ_SEQ,
      lastHash := s.mtr.lastHash, openAt := s.mtr.openAt, openFlags := s.mtr.openFlags, freezeAt := at_, ack := s.rd F.MTR_BILL_ACK_ACK, crc := 0 }
  { t with crc := crc32 t.image }

/-- The newest valid copy (R309). Log entry 46 (DEDUCED). -/
def Nand.newest (n : Nand) : Option (Bool × Totals) :=
  match n.totalsA.filter Totals.valid, n.totalsB.filter Totals.valid with
  | some a, some b => some (if a.seq < b.seq then (true, b) else (false, a))
  | some a, none => some (false, a)
  | none, some b => some (true, b)
  | none, none => none

/-- Write a totals image to the other copy than the last one written (R308). -/
def State.writeTotals (s : State) (clean : Bool) (at_ : Nat) : State :=
  let seq := match s.nand.newest with | some (_, t) => t.seq + 1 | none => 1
  let t := s.totals clean seq at_
  if s.nand.totalsLast then { s with nand := { s.nand with totalsA := some t, totalsLast := false } }
  else { s with nand := { s.nand with totalsB := some t, totalsLast := true } }

/-- Power goes while a frozen engine writes its image: the copy under way fails its CRC (R308, R449). Log entry 46 (DEDUCED). -/
def State.tearTotals (s : State) : State :=
  if !s.mtrFrozen || s.mtr.committed then s
  else
    let torn := s.totals true 0 s.mtr.freezeTb3
    let t := some { torn with crc := ~~~torn.crc }
    if s.nand.totalsLast then { s with nand := { s.nand with totalsA := t } } else { s with nand := { s.nand with totalsB := t } }

/-- The copies without those of which a page reads uncorrectable: `bad` as `Sys.lean` numbers pages, 20 pages to a copy of partition 3
(R308, R309, R448). Log entry 46 (DEDUCED). -/
def Nand.readable (n : Nand) (bad : List Nat) : Nand :=
  let hit (lo : Nat) : Bool := bad.any fun k => decide (3 * 2 ^ 20 + lo ≤ k) && decide (k < 3 * 2 ^ 20 + lo + 20)
  { n with totalsA := if hit 0 then none else n.totalsA, totalsB := if hit 64 then none else n.totalsB }

/-- CHKPT in ns, brought within its limits. -/
def State.chkptNs (s : State) : Nat := nsPerSec * max 10 (min 3600 (s.rd F.MTR_LANE_CFG_CHKPT))

/-- CHECKPOINT (R308). -/
def execCheckpoint (s : State) : Out :=
  .next (s.whileLive .mtr fun s =>
    if !s.mtrRuns || s.nowNs < s.mtr.chkAt + s.chkptNs then s
    else { s.writeTotals false s.tb3 with mtr := { s.mtr with chkAt := s.nowNs } })

/-- PFW asserts (R307): the partial tick and windows are completed, and the engine freezes at F. -/
def State.mtrFreeze (s : State) : State :=
  if !s.mtrRuns then s
  else
    let part (s : State) (set : Fin 2) : State := if s.elecMode set = 0 || !s.stopLets (set.val + 1) then s else s.windowAll set s.tb2
    let s1 := part (part (if s.stopLets 0 then s.tickAll else s) 0) 1
    { s1.setFrozen true with mtr := { s1.mtr with freezeNs := s1.nowNs, freezeTb3 := s1.tb3, committed := false } }

/-- PF_DONE once the image is committed and PFW is gone without a loss of power (R312). -/
def State.mtrPfDone (s : State) : State := if s.mtrFrozen && s.mtr.committed && !s.pfw then s.raise .mtr 11 else s

/-- TOTALS_COMMIT (R307, R308): the image of the freeze is committed with CLEAN = 1. Log entry 45 (DEDUCED). -/
def execTotalsCommit (s : State) : Out :=
  .next (s.whileLive .mtr fun s =>
    if !s.mtrFrozen || s.mtr.committed then s
    else
      let s1 := (s.writeTotals true s.mtr.freezeTb3).useReserve 20
      { s1 with mtr := { s1.mtr with committed := true } }.mtrPfDone)

/-- OUTAGE_MS from one instant of TB3 to another (R310). -/
def State.outageMs (s : State) (from_ now : Nat) : Nat :=
  if s.tb3Valid && !s.bit (statFld .rtc 8) then min 0xFFFFFFFE ((tbUs now - tbUs from_) / 1000) else 0xFFFFFFFF

/-- TB3 at restart (R310, R331): where it follows the RTC, the second that the RTC shows. Log entry 45 (DEDUCED). -/
def State.tb3Restart (s : State) : Nat := if s.tsu.srcRtc then s.cal.secs * unitsPerSec else s.tb3

/-- The stop boundary (R311): the open interval waits for the next start. -/
def State.mtrStop (s : State) : State := { s with mtr := { s.mtr with stoppedAt := if s.mtr.openAt.isSome then some s.tb3 else none, stopLeft := 0 } }

/-- The engine starts: EN = 1. An interval that a stop left open is sealed with STOPPED (R311). -/
def State.mtrStart (s : State) : State :=
  let s1 := match s.mtr.stoppedAt with
    | some t => s.closeInterval t (fSTOPPED ||| fSHORT) (s.outageMs t s.tb3)
    | none => s
  let sets := s1.mtr.sets.map fun (e : ElecSet) =>
    { e with
      first := none, count := 0, lead := none, prevEnd := s1.tb2, samples := [], past := [], nozc := 0
      phases := e.phases.map fun (_ : ZcPhase) => ({ since := s1.tb2 } : ZcPhase) }
  let s2 := { s1 with mtr := { s1.mtr with
    stoppedAt := none, startNs := s1.nowNs, lastTick := s1.tb2, chkAt := s1.nowNs, viewSec := s1.nowSec, sets := sets } }.readCounters
  (s2.showRef 0).showRef 1

/-- The registers of an entry of a stored block. -/
def entryRegs (e : List Byte) : Vector Nat 4 := Vector.ofFn fun k => leAt e (8 + 12 * k.val) 12 * 2 ^ 32

/-- The lanes as the newest stored block gives them (R309). -/
def lanesOfBlock (b : List Byte) : List (Nat × Lane) :=
  (upto (leAt b 6 2)).foldl (fun l k =>
    let e := (b.drop (96 + 104 * k)).take 104
    Sparse.put l {} (leAt e 0 2) { regs := entryRegs e, kind := some (leAt e 2 1) }) []

/-- Seal what a restored image left open (R310, R473): unstored blocks first, then the open interval up to F with the flags `fl`. -/
def State.sealRestored (s : State) (fl : BitVec 8) (t : Totals) : State :=
  let lanes := t.lanes.map fun ((n, x) : Nat × Lane) => (n, { x with en := false, cmd := none, errRun := false })
  let s1 := { s with mtr := { s.mtr with
    lanes := t.lanes, closed := t.closed, built := t.built, lastHash := t.lastHash, openAt := t.openAt, openFlags := t.openFlags } }
  let s2 := ((s1.wr F.MTR_BILL_SEQ_SEQ t.billSeq).wr F.MTR_BILL_ACK_ACK t.ack)
  let s3 := if t.openAt.isSome then s2.closeInterval t.freezeAt fl (s2.outageMs t.freezeAt s2.tb3Restart) else s2
  let cleared (n : Nat) : Bool := (s3.lane n).cleared
  { s3 with mtr := { s3.mtr with
    lanes := lanes.foldl (fun l (e : Nat × Lane) => Sparse.put l {} e.1 { e.2 with acc := {}, cleared := cleared e.1 }) [] } }.showSealing

/-- MTR_PF_STAT after a restore. -/
def State.pfStat (s : State) (src : Nat) (clean gap zero : Bool) : State :=
  (((s.wr F.MTR_PF_STAT_SRC src).wrB F.MTR_PF_STAT_CLEAN clean).wrB F.MTR_PF_STAT_GAP gap).wrB F.MTR_PF_STAT_ZERO zero

/-- Code 0x83, and the event of a restore that lost counts. -/
def State.restoreLoss (s : State) (sev : Nat) : State :=
  let s1 := { s with mtr := { s.mtr with gap := true } }.err .mtr 0x83 (getBits (s.regGet R.MTR_PF_STAT) 0 6)
  s1.event .mtr 0x83 sev (s1.regGet (R.BLK_ERRINFO .mtr)).toNat 0 0 0

/-- The newest stored block whose page reads: block SEQ lies in page SEQ modulo the pages of the billing partition. Log entry 46 (DEDUCED). -/
def Nand.newestBlock (n : Nand) (bad : List Nat) : Option BuiltBlk :=
  (n.bill.filter fun b => !bad.contains (5 * 2 ^ 20 + b.seq % billPages)).getLast?

/-- At start the engine restores the newest valid copy, or the newest stored block (R309, R310); `fl`: the flags of the interval it
seals: PFAIL, SHORT and LATE_SEAL, or after a sleep STOPPED and SHORT (R473); `bad`: pages that read uncorrectable. Log entry 45 (DEDUCED). -/
def State.mtrRestore (s : State) (fl : BitVec 8) (bad : List Nat) : State :=
  let s1 := match (s.nand.readable bad).newest with
    | some (b, t) =>
      if t.clean then (s.pfStat (if b then 2 else 1) true false false).sealRestored fl t
      else ((s.pfStat (if b then 2 else 1) false true false).restoreLoss 6).sealRestored fl t
    | none =>
      match s.nand.newestBlock bad with
      | some b =>
        let s2 := (s.pfStat 3 false true true).restoreLoss 7
        { s2 with mtr := { s2.mtr with lanes := lanesOfBlock b.bytes, lastHash := (sha3 b.bytes).toNat } }.wr F.MTR_BILL_SEQ_SEQ b.seq
      | none => (s.pfStat 0 false true true).restoreLoss 7
  (s1.raise .mtr 10).showFree

end Sys2Proof.Machine
end

