-- ==== Sys2Proof/Machine/Tsu.lean ====
section
/-! DEFINITION. The time unit: time bases and their adjustment, TB3 and its validity, pulse outputs, capture inputs (R328 to R336,
R338). -/

namespace Sys2Proof.Machine

/-! ## The four time bases (R328 to R332) -/

/-- Units that 3.2 ns are: 16/5 ns. -/
def unitsPerCycle : Nat := 16 * 2 ^ 44

/-- A time base in units. -/
def State.tb (s : State) (n : Nat) : Nat := if n = 0 then s.tb0 else if n = 1 then s.tb1 else if n = 2 then s.tb2 else s.tb3

/-- A time base wraps after 2⁴⁸ seconds. -/
def tbWrapI (u : Int) : Nat := (u % (2 ^ 48 * nsPerSec * unitsPerNs : Nat)).toNat

/-- SLEW_PPM brought within its limits. -/
def State.slewPpm (s : State) : Nat := max 1 (min 500 (s.rd F.TSU_CFG_SLEW_PPM))

/-- The part of an outstanding offset that one cycle applies at `ppm` parts per million. Log entry 48 (DEDUCED). -/
def slewPart (ppm : Nat) (o : Int) : Int :=
  let m : Int := unitsPerCycle * ppm / 1000000
  if 0 ≤ o then min o m else max o (-m)

/-- TB3 while it follows TB0 (R331). -/
def State.tb3OfTb0 (s : State) : Nat := tbWrapI ((s.tb0 : Int) - (s.rd F.TSU_TB3_OFS_OFS * nsPerSec * unitsPerNs : Nat))

/-- TB3 follows TB0 again after a change of TB0 or of OFS. -/
def State.followTb0 (s : State) : State := if s.tsu.srcRtc then s else { s with tb3 := s.tb3OfTb0 }

/-- The stamp of R333: SEC × 10⁹ + NS modulo 2³². -/
def State.stamp (s : State) (n : Nat) : Nat := tbNs (s.tb n) % 2 ^ 32

/-- What one cycle adds to TB0 or TB1: 3.2 ns × (1 + RATE × 2⁻⁴⁴), and the part of a slew (R328, R329). -/
def State.tbAdvance (s : State) (n : Nat) : Int :=
  16 * 2 ^ 44 + 16 * (s.regGet (R.TSU_TBn_RATE n)).toInt + slewPart s.slewPpm (if n = 0 then s.tsu.slew0 else s.tsu.slew1)

/-- What one cycle adds to each time base (R328 to R331). -/
def State.tbAdv (s : State) : List Int :=
  [s.tbAdvance 0, s.tbAdvance 1, unitsPerCycle, if s.tsu.srcRtc then unitsPerCycle + slewPart 100 s.tsu.slew3 else s.tbAdvance 0]

/-- Keep the time bases as they are, which have advanced by `adv`, before a change of them (R333, R343). -/
def State.markTb (s : State) (adv : List Int) : State :=
  let keep := s.tsu.marks.filter fun m => decide (s.tb2 ≤ m.at_ + unitsPerSec / 10)
  { s with tsu := { s.tsu with marks := keep ++ [⟨s.tb2, [s.tb0, s.tb1, s.tb2, s.tb3], adv⟩] } }

/-- A time base at an earlier instant of TB2 (units): back from the first change after it, or from now (R333, R343). Log entry 49 (DEDUCED). -/
def State.tbAt (s : State) (n u : Nat) : Nat :=
  let back (v t : Nat) (adv : Int) : Nat := tbWrapI ((v : Int) - ((t : Int) - u) * adv / unitsPerCycle)
  match s.tsu.marks.find? fun m => decide (u ≤ m.at_) with
  | some m => back (m.tbs.getD n 0) m.at_ (m.adv.getD n 0)
  | none => back (s.tb n) s.tb2 (s.tbAdv.getD n 0)

/-- The whole second of a time base begins in this clock cycle, or began in the one before. Log entry 48 (DEDUCED). -/
def secondNow (u : Nat) : Bool := decide (u % unitsPerSec < 2 * unitsPerCycle)

/-! ## Pulse outputs (R334, R335) -/

/-- START of an output in units of its time base. -/
def State.tpStart (s : State) (n : Fin 8) : Nat :=
  ((s.rd (F.TSU_TPn_CFG_START_SEC_HI n) * 2 ^ 32 + s.rd (F.TSU_TPn_START_SEC_SEC n)) * nsPerSec + s.rd (F.TSU_TPn_START_NS_NS n)) * unitsPerNs

/-- PERIOD and WIDTH in units. -/
def State.tpPeriod (s : State) (n : Fin 8) : Nat := max 1 (s.rd (F.TSU_TPn_PERIOD_PERIOD n)) * unitsPerNs
def State.tpWidth (s : State) (n : Fin 8) : Nat := s.rd (F.TSU_TPn_WIDTH_WIDTH n) * unitsPerNs

def State.setTp (s : State) (n : Fin 8) (x : Tp) : State := { s with tsu := { s.tsu with tp := s.tsu.tp.set n x } }

/-- The level of an output: its inactive level but during a pulse (R334). -/
def State.tpLevel (s : State) (n : Fin 8) : Bool :=
  let on := s.en .tsu && s.bit (F.TSU_TPn_CFG_EN n) && s.tsu.tp[n].until_.isSome
  on != s.bit (F.TSU_TPn_CFG_POL n)

/-- An output looks at its time base afresh, at its enable or a step: what lies at or before this instant has passed (R335). -/
def State.tpMark (s : State) (n : Fin 8) : State := s.setTp n { s.tsu.tp[n] with from_ := some (s.tb (s.rd (F.TSU_TPn_CFG_TB n))) }

/-- A step of a time base from `before`: its outputs look afresh, and a forward one that skips grid instants of a periodic output sets
TP_SKIP (R335). -/
def State.tpSkips (s : State) (tb before : Nat) : State :=
  (List.finRange 8).foldl (fun s (n : Fin 8) =>
    let st := s.tpStart n
    let cnt (u : Nat) : Nat := if u < st then 0 else (u - st) / s.tpPeriod n + 1
    if s.rd (F.TSU_TPn_CFG_TB n) ≠ tb then s
    else
      let s1 := s.tpMark n
      if s.runs .tsu && s.bit (F.TSU_TPn_CFG_EN n) && s.bit (F.TSU_TPn_CFG_MODE n) && cnt before < cnt (s.tb tb) then s1.raise .tsu 3 else s1) s

/-- TSU is enabled, and with it the outputs whose EN is set. -/
def State.tsuStart (s : State) : State := (List.finRange 8).foldl (fun s (n : Fin 8) => if s.bit (F.TSU_TPn_CFG_EN n) then s.tpMark n else s) s

/-- An output starts a pulse. Log entry 48 (DEDUCED). -/
def State.tpFire (s : State) (n : Fin 8) : State := s.setTp n { s.tsu.tp[n] with until_ := some (s.tb2 + s.tpWidth n) }

/-- An instant of the output's grid had passed at its enable or at the last step of its time base (R335). Log entry 48 (DEDUCED). -/
def Tp.passed (x : Tp) (u : Nat) : Bool := match x.from_ with | some f => decide (u ≤ f) | none => false

/-- TP_PULSE (R334, R335): a one-shot fires at START, or at once, with TP_SKIP, where START has passed; a periodic output at its grid
instants, after a step from the first later one on. -/
def execTpPulse (n : Fin 8) (s : State) : Out :=
  .next (s.whileLive .tsu fun s =>
    let t := s.tb (s.rd (F.TSU_TPn_CFG_TB n))
    let st := s.tpStart n
    if !s.runs .tsu || !s.bit (F.TSU_TPn_CFG_EN n) || s.tsu.tp[n].until_.isSome || t < st then s
    else if s.bit (F.TSU_TPn_CFG_MODE n) then (if (t - st) % s.tpPeriod n < 2 * unitsPerCycle && !s.tsu.tp[n].passed (t - (t - st) % s.tpPeriod n) then s.tpFire n else s)
    else if s.tsu.tp[n].fired then s
    else
      let s1 := s.setTp n { s.tsu.tp[n] with until_ := some (s.tb2 + s.tpWidth n), fired := true }
      if t - st < 2 * unitsPerCycle && !s.tsu.tp[n].passed st then s1 else s1.raise .tsu 3)

/-- The RWS fields of an output commit (R335). -/
def tpFld (n : Fin 8) (f : Fld) : Bool := R.TSU_TPn_CFG n ≤ f.addr && f.addr < R.TSU_TPn_CFG n + 0x20
def State.commitTp (s : State) (n : Fin 8) : State := s.commit .tsu (tpFld n)

/-- TP_PULSE_END (R335): the pulse has lasted WIDTH; a one-shot raises TP_DONE. -/
def execTpPulseEnd (n : Fin 8) (s : State) : Out :=
  .next (s.whileLive .tsu fun s =>
    match s.tsu.tp[n].until_ with
    | none => s
    | some t =>
      if s.tb2 < t then s
      else
        let s1 := s.setTp n { s.tsu.tp[n] with until_ := none }
        let s2 := if s1.bit (F.TSU_TPn_CFG_MODE n) then s1 else s1.raise .tsu 2
        (s2.commitTp n).freezePoint .tsu)

/-! ## Steps and validity of TB3 (R332) -/

/-- A step of TB3 from `before`: STEPS, TB_STEP, pulse outputs, and the metering interval (R303, R332). -/
def State.tb3Step (s : State) (before : Nat) : State :=
  (((s.incWrap (F.TSU_TBn_STAT_STEPS 3)).raise .tsu 6).tpSkips 3 before).mtrStep before

/-- VALID and HOLDOVER take new values: a change raises TB3_CHG and records an event; becoming valid counts as a step for the
metering interval (R303, R332). -/
def State.setTb3Valid (s : State) (v h : Bool) : State :=
  let v0 := s.tb3Valid
  if v0 = v && s.bit (F.TSU_TBn_STAT_HOLDOVER 3) = h then s
  else
    let s1 := ((s.wrB (F.TSU_TBn_STAT_VALID 3) v).wrB (F.TSU_TBn_STAT_HOLDOVER 3) h).raiseEv .tsu 7
    let s2 := if h && !s.bit (F.TSU_TBn_STAT_HOLDOVER 3) then { s1 with tsu := { s1.tsu with holdAt := s1.nowNs } } else s1
    if v && !v0 then s2.mtrValid else s2

/-- The RTC's time is valid. -/
def State.rtcValid (s : State) : Bool := !s.bit (statFld .rtc 8)

/-- TB3's validity after a change of SYNCED or TIME_INVALID (R332). -/
def State.evalTb3 (s : State) : State :=
  if s.tsu.srcRtc then s.setTb3Valid s.rtcValid false
  else if s.bit (F.TSU_TBn_STAT_SYNCED 0) then s.setTb3Valid true false
  else if s.tb3Valid then s.setTb3Valid true true
  else s.setTb3Valid false false

/-- A second of the RTC begins in this clock cycle, or began in the one before (R332). Log entry 48 (DEDUCED). -/
def State.rtcSecondNow (s : State) : Bool := match s.rtc.secAt with | some t => decide (s.tb2 < t + 2 * unitsPerCycle) | none => false

/-- TB3_SRC_CHANGE (R331, R332): at a whole second of the new source. Log entry 48 (DEDUCED). -/
def execTb3SrcChange (s : State) : Out :=
  .next (s.whileLive .tsu fun s =>
    let rtc := s.bit F.TSU_CFG_TB3_SRC
    if rtc = s.tsu.srcRtc || !(if rtc then s.rtcSecondNow else secondNow s.tb0) then s
    else
      let before := s.tb3
      let s := s.markTb s.tbAdv
      let s1 := { s with tsu := { s.tsu with srcRtc := rtc, loaded := true, slew3 := 0 } }
      let s2 := { s1 with tb3 := if rtc then s1.cal.secs * unitsPerSec else s1.tb3OfTb0 }
      let ok := if rtc then s2.rtcValid else s2.bit (F.TSU_TBn_STAT_SYNCED 0)
      (s2.tb3Step before).setTb3Valid ok false)

/-- TB3_OFS_COMMIT (R332): at a whole second of TB0; a step of TB3 while SRC is TB0. -/
def execTb3OfsCommit (s : State) : Out :=
  .next (s.whileLive .tsu fun s =>
    if !secondNow s.tb0 then s
    else
      let old := s.rd F.TSU_TB3_OFS_OFS
      let s := s.markTb s.tbAdv
      let s1 := (s.commit .tsu fun f => f.addr == R.TSU_TB3_OFS).followTb0
      if s1.rd F.TSU_TB3_OFS_OFS = old || s1.tsu.srcRtc then s1 else s1.tb3Step s.tb3)

/-- HOLDOVER_EXPIRY (R332): HOLD_S seconds after SYNCED cleared. -/
def execHoldoverExpiry (s : State) : Out :=
  .next (s.whileLive .tsu fun s =>
    if s.bit (F.TSU_TBn_STAT_HOLDOVER 3) && s.tsu.holdAt + s.rd F.TSU_CFG_HOLD_S * nsPerSec ≤ s.nowNs then s.setTb3Valid false false else s)

/-- SYNCED_WRITE (R329, R332): SYNCED of TB0 or TB1. -/
def execSyncedWrite (m : Master) (n : Fin 4) (v : Bool) (s : State) : Out :=
  .next (s.gate m .tsu (R.TSU_TBn_STAT n) fun s =>
    if 2 ≤ n.val then s
    else
      let s1 := s.wrB (F.TSU_TBn_STAT_SYNCED n) v
      if n = 0 && !s1.tsu.srcRtc then s1.evalTb3 else s1)

/-! ## Adjustments (R329) -/

/-- The outstanding slew of TB0 or TB1. -/
def State.slewOf (s : State) (n : Nat) : Int := if n = 0 then s.tsu.slew0 else s.tsu.slew1
def State.setSlew (s : State) (n : Nat) (o : Int) : State :=
  if n = 0 then { s with tsu := { s.tsu with slew0 := o } } else { s with tsu := { s.tsu with slew1 := o } }

/-- Load TB0 or TB1. -/
def State.setTb (s : State) (n u : Nat) : State := if n = 0 then { s with tb0 := u } else { s with tb1 := u }

/-- The magnitude that ADJ_SEC (with SEC_HI) and ADJ_NS give, in units. -/
def State.adjUnits (s : State) (n : Nat) (secHi : Nat) : Nat :=
  ((s.rd (F.TSU_TBn_ADJ_SEC_SEC n) + 2 ^ 32 * secHi) * nsPerSec + s.rd (F.TSU_TBn_ADJ_NS_NS n)) * unitsPerNs

/-- A write of ADJ_CMD: for TB2 and TB3 it is ignored; `bad` discards it with code 0x80. Log entry 48 (DEDUCED). -/
def State.adjust (s : State) (m : Master) (n : Fin 4) (bad : Bool) (k : State → State) : State :=
  s.gate m .tsu (R.TSU_TBn_ADJ_CMD n) fun s =>
    if 2 ≤ n.val then s
    else if bad || nsPerSec ≤ s.rd (F.TSU_TBn_ADJ_NS_NS n) then s.err .tsu 0x80 n.val
    else k (s.markTb s.tbAdv)

/-- A STEP or SET loads a time base: it discards a slew, counts in STEPS and raises TB_STEP; TB3 steps with TB0 where it follows it. -/
def State.stepTb (s : State) (n u : Nat) : State :=
  let before := s.tb n
  let before3 := s.tb3
  let s1 := ((((s.setTb n u).setSlew n 0).wr (F.TSU_TBn_STAT_SLEWING n) 0).incWrap (F.TSU_TBn_STAT_STEPS n)).raise .tsu 6
  let s2 := s1.tpSkips n before
  if n = 0 && !s2.tsu.srcRtc then s2.followTb0.tb3Step before3 else s2

/-- STEP (R329, R332). -/
def execStep (m : Master) (n : Fin 4) (secHi : BitVec 16) (s : State) : Out :=
  .next (s.adjust m n false fun s =>
    let d : Int := s.adjUnits n secHi.toNat
    s.stepTb n (tbWrapI ((s.tb n : Int) + (if s.bit (F.TSU_TBn_ADJ_NS_NEG n) then -d else d))))

/-- SET (R329, R332). -/
def execSet (m : Master) (n : Fin 4) (secHi : BitVec 16) (s : State) : Out :=
  .next (s.adjust m n (s.bit (F.TSU_TBn_ADJ_NS_NEG n)) fun s => s.stepTb n (tbWrap (s.adjUnits n secHi.toNat)))

/-- SLEW (R329): an earlier slew is replaced; a zero offset ends at once with SLEW_DONE. -/
def execSlew (m : Master) (n : Fin 4) (_secHi : BitVec 16) (s : State) : Out :=
  .next (s.adjust m n (s.rd (F.TSU_TBn_ADJ_SEC_SEC n) != 0) fun s =>
    let d : Int := s.adjUnits n 0
    if d = 0 then ((s.setSlew n 0).wr (F.TSU_TBn_STAT_SLEWING n) 0).raise .tsu 8
    else (s.setSlew n (if s.bit (F.TSU_TBn_ADJ_NS_NEG n) then -d else d)).wr (F.TSU_TBn_STAT_SLEWING n) 1)

/-- SLEW_DONE (R329): the whole offset has been applied. -/
def execSlewDone (n : Fin 2) (s : State) : Out :=
  .next (s.whileLive .tsu fun s =>
    if s.bit (F.TSU_TBn_STAT_SLEWING n) && s.slewOf n = 0 then (s.wr (F.TSU_TBn_STAT_SLEWING n) 0).raise .tsu 8 else s)

/-- TB_READ_LATCH (R328): a read of TSU_TBn_NS latches the seconds of the same instant. -/
def execTbReadLatch (_m : Master) (n : Fin 4) (s : State) : Out :=
  .next (s.gateRead .tsu (R.TSU_TBn_NS n) fun s =>
    let u := s.tb n
    let sec := tbSec u
    ((s.regPut (R.TSU_TBn_SEC_LO n) (BitVec.ofNat 32 sec)).wr (F.TSU_TBn_SEC_HI_SEC_HI n) (sec / 2 ^ 32)).reply (BitVec.ofNat 32 (tbNs u % nsPerSec)))

/-- A TSU soft reset leaves the time bases running and ends slews without SLEW_DONE (R330). -/
def State.tsuSoftReset (s : State) : State :=
  let s := s.markTb s.tbAdv
  { s with tsu := { s.tsu with slew0 := 0, slew1 := 0, tp := Vector.replicate 8 {}, tc := Vector.replicate 4 {} } }

/-- What the registers at their reset values mean for TB3: OFS that changed under TB0 steps it, and its validity is judged again (R331,
R332). Log entry 48 (DEDUCED). -/
def State.tsuRestart (s : State) : State :=
  let s1 := s.followTb0
  (if s1.tb3 = s.tb3 then s1 else s1.tb3Step s.tb3).evalTb3

/-! ## Capture inputs (R336) -/

def State.setTc (s : State) (n : Fin 4) (x : Tc) : State :=
  { s with tsu := { s.tsu with tc := s.tsu.tc.set n x } }.wr (F.TSU_TCn_CFG_COUNT n) x.queue.length

/-- An edge is selected: 1 rising, 2 falling, 3 both. -/
def edgeSel (sel : Nat) (falling : Bool) : Bool := if falling then sel == 2 || sel == 3 else sel == 1 || sel == 3

/-- TC_CAPTURE (R336): an edge on a capture input. -/
def execTcCapture (n : Fin 4) (falling : Bool) (s : State) : Out :=
  .next (s.whileLive .tsu fun s =>
    let x := s.tsu.tc[n]
    let near := match x.last with | some t => decide (s.nowNs < t + 20) | none => false
    let s1 := s.setTc n { x with last := some s.nowNs }
    if !s.en .tsu || !s.bit (F.TSU_TCn_CFG_EN n) || !edgeSel (s.rd (F.TSU_TCn_CFG_EDGE n)) falling || near then s1
    else if 8 ≤ x.queue.length then (s1.incSat (F.TSU_TCn_CFG_OVF n)).raise .tsu 5
    else (s1.setTc n { queue := x.queue ++ [⟨s.tb (s.rd (F.TSU_TCn_CFG_TB n)), falling⟩], last := some s.nowNs }).raise .tsu 4)

/-- TC_POP (R336): a read of TSU_TCn_NS takes the oldest capture. -/
def execTcPop (_m : Master) (n : Fin 4) (s : State) : Out :=
  .next (s.gateRead .tsu (R.TSU_TCn_NS n) fun s =>
    let x := s.tsu.tc[n]
    match x.queue with
    | [] => s.reply 0
    | c :: t =>
      ((s.setTc n { x with queue := t }).regPut (R.TSU_TCn_SEC n) (BitVec.ofNat 32 (tbSec c.at_))).reply
        (BitVec.ofNat 32 (tbNs c.at_ % nsPerSec + (if c.falling then 2 ^ 30 else 0) + 2 ^ 31)))

end Sys2Proof.Machine
end

