-- ==== Sys2Proof/Machine/Fio.lean ====
section
/-! DEFINITION. Field I/O: debounced inputs, counters and stamped edges, outputs from the guarded image, faults (R339 to R351). -/

namespace Sys2Proof.Machine

/-- A signal of the module's own node. -/
def State.ownSig (s : State) (point : Nat) : Nat := s.rd F.SYS_ROLE_NODE * 2 ^ 13 + point

/-- At the next 10 ns sample the shadows commit (R351), and a freeze takes effect (R48). -/
def State.fioSample (s : State) : State := if s.fioOn && !s.isHalted .fio then (s.commitBlk .fio).freezePoint .fio else s

/-! ## Outputs (R345 to R349) -/

/-- DO_UPDATE (R346): the commands are the guarded values of the points 0x1940 + n; a signal without an entry commands off. -/
def execDoUpdate (s : State) : Out :=
  .next (s.whileLive .fio fun s =>
    let on (n : Nat) : Bool := (((s.guardedVal (s.ownSig (0x1940 + n))).map (·.value)).getD 0) != 0
    let v := (upto 16).foldl (fun x n => x + (if on n then 2 ^ n else 0)) 0
    (s.wr F.FIO_DO_STATE_CMD v).drive)

/-- DO_CURRENT_LIMIT (R347): the limit has been active for 200 µs without interruption. -/
def execDoCurrentLimit (n : Fin 16) (s : State) : Out :=
  .next (s.whileLive .fio fun s =>
    if (s.rd F.FIO_DO_STATE_DRIVEN).testBit n then { s with fio := { s.fio with limited := setMark s.fio.limited n true } }.drive else s)

/-- THERMAL_SHUTDOWN (R345): at a junction temperature of 170 °C. -/
def execThermalShutdown (n : Fin 16) (s : State) : Out :=
  .next (s.whileLive .fio fun s =>
    if (s.rd F.FIO_DO_STATE_DRIVEN).testBit n then { s with fio := { s.fio with shutdown := setMark s.fio.shutdown n true } }.drive else s)

/-- THERMAL_RESTART (R345): at 155 °C. -/
def execThermalRestart (n : Fin 16) (s : State) : Out :=
  .next (s.whileLive .fio fun s => { s with fio := { s.fio with shutdown := setMark s.fio.shutdown n false } }.drive)

/-- OFF_STATE_FAULT (R347): above half of VFLD, outside the 2 ms after the last off transition. -/
def execOffStateFault (n : Fin 16) (s : State) : Out :=
  .next (s.whileLive .fio fun s =>
    if (s.rd F.FIO_DO_STATE_DRIVEN).testBit n || s.nowNs < s.fio.offAt[n] + 2000000 then s
    else { s with fio := { s.fio with high := setMark s.fio.high n true } }.drive)

/-- DO_FAULT_END (R347): the channel's load current or off-state voltage has fallen. -/
def execDoFaultEnd (n : Fin 16) (s : State) : Out :=
  .next (s.whileLive .fio fun s =>
    { s with fio := { s.fio with limited := setMark s.fio.limited n false, high := setMark s.fio.high n false } }.drive)

/-- DO_INHIBIT (R348): a newly set bit of a channel whose guard entry has SAFE 1 is discarded, code 0x80 with the lowest such channel.
Log entry 49 (DEDUCED). -/
def execDoInhibit (m : Master) (v : Word) (s : State) : Out :=
  .next (s.gate m .fio R.FIO_DO_INHIBIT fun s =>
    let old := s.rd F.FIO_DO_INHIBIT_INH
    let held (n : Nat) : Bool := bitAt v n && !old.testBit n && s.guardSafe (s.ownSig (0x1940 + n)) == 1
    let new := (upto 16).foldl (fun x n => x + (if bitAt v n && !held n then 2 ^ n else 0)) 0
    let s1 := (s.wr F.FIO_DO_INHIBIT_INH new).drive
    match (upto 16).find? held with
    | some n => s1.err .fio 0x80 n
    | none => s1)

/-- DO_DIAG (R348). -/
def execDoDiag (m : Master) (v : Word) (s : State) : Out :=
  .next (s.gate m .fio R.FIO_DO_DIAG fun s => (s.wr F.FIO_DO_DIAG_DIAG (getBits v 0 16)).drive)

/-! ## Inputs (R339 to R344) -/

/-- Deliver the state and the count of a DI (R339, R453). -/
def State.diDeliver (s : State) (n qual : Nat) : State :=
  s.deliverIn (s.ownSig (0x1900 + n)) (bool32 ((s.rd F.FIO_DI_STATE_STATE).testBit n)) qual 0
def State.cntDeliver (s : State) (n qual : Nat) : State :=
  s.deliverIn (s.ownSig (0x1920 + n)) (s.regGet (R.FIO_DI_CNTn n)) qual 0

/-- Quality of a valid DI: UNCERTAIN while its threshold is held at old coefficients (R453). -/
def State.diQual (s : State) (n : Nat) : Nat := if s.trueHeld.contains (24 + n) then 1 else 0

/-- Every DI signal is delivered with a quality (R344, R351). -/
def State.diAll (s : State) (qual : Nat → Nat) : State := (upto 24).foldl (fun (s : State) n => (s.diDeliver n (qual n)).cntDeliver n (qual n)) s

/-- Edges enter the queue in the order of their instants, equal ones in ascending DI (R343). -/
def insEdge (e : DiEdge) : List DiEdge → List DiEdge
  | [] => [e]
  | x :: t => if e.at_ < x.at_ || (e.at_ = x.at_ && e.di < x.di) then e :: x :: t else x :: insEdge e t

def State.setEdges (s : State) (q : List DiEdge) : State := { s with fio := { s.fio with queue := q } }.wr F.FIO_EDGE_CNT_COUNT q.length

/-- An edge is stamped and queued, or dropped (R343). -/
def State.queueEdge (s : State) (e : DiEdge) : State :=
  if 256 ≤ s.fio.queue.length then (s.incSat F.FIO_EDGE_CNT_OVF).raise .fio 3
  else
    let s1 := s.setEdges (insEdge e s.fio.queue)
    if s.fio.queue.isEmpty then s1.raise .fio 2 else s1

/-- The 10 ns sample of an instant. -/
def State.sampleNo (s : State) : Nat := s.nowNs / 10

/-- DI_EDGE (R341 to R343): the raw level has held since `start` (TB2 ns, the first sample of the run) for DEB; the run began after the
sample in which the present state was taken. Log entry 49 (DEDUCED). -/
def execDiEdge (n : Fin 24) (start : Nat) (s : State) : Out :=
  .next (s.whileLive .fio fun s =>
    let s := s.fioSample
    if !s.runs .fio || !s.fioOn || !s.fio.sampling || s.isHalted .fio || start < s.fio.runFrom[n] || s.nowNs < start + 1000 * max 1 (s.rd (F.FIO_DI_CFGn_DEB n)) then s
    else
      let falling := (s.rd F.FIO_DI_STATE_STATE).testBit n
      let s0 := { s with fio := { s.fio with runFrom := s.fio.runFrom.set n (10 * s.sampleNo + 10) } }
      let s1 := (s0.wrB ⟨R.FIO_DI_STATE, n, 1⟩ !falling).wrB ⟨R.FIO_DI_RAW, n, 1⟩ !falling
      let s2 := s1.diDeliver n (s1.diQual n)
      let s3 := if edgeSel (s2.rd (F.FIO_DI_CFGn_CNT_EDGE n)) falling then
          let s3 := { s2 with fio := { s2.fio with countedIn := s2.fio.countedIn.set n (some s2.sampleNo) } }.incWrap (F.FIO_DI_CNTn_COUNT n)
          s3.cntDeliver n (s3.diQual n)
        else s2
      if edgeSel (s3.rd (F.FIO_DI_CFGn_STAMP n)) falling then
        let tb := s3.rd (F.FIO_DI_CFGn_TB n)
        s3.queueEdge ⟨start, n, falling, tb, tbNs (s3.tbAt tb (start * unitsPerNs)) % 2 ^ 32⟩
      else s3)

/-- EDGE_POP (R343): a read of FIO_EDGE_POP takes the oldest entry and latches its stamp. -/
def execEdgePop (_m : Master) (s : State) : Out :=
  .next (s.gateRead .fio R.FIO_EDGE_POP fun s =>
    match s.fio.queue with
    | [] => s.reply 0
    | e :: t =>
      ((s.setEdges t).regPut R.FIO_EDGE_NS (BitVec.ofNat 32 e.stamp)).reply
        (BitVec.ofNat 32 (e.di + 32 * b2n e.falling + 64 * e.tb + 2 ^ 31)))

/-- VFLD_MEASURE (R339): every 10 ms, in mV; delivered in V. -/
def execVfldMeasure (v1 v2 : BitVec 16) (s : State) : Out :=
  .next (s.whileLive .fio fun s =>
    let s1 := (s.wr F.FIO_FLD_V_VFLD1 v1.toNat).wr F.FIO_FLD_V_VFLD2 v2.toNat
    if s.fioOn then (s1.deliverIn (s.ownSig 0x1960) (ratF v1.toNat 1000) 0 0).deliverIn (s.ownSig 0x1961) (ratF v2.toNat 1000) 0 0 else s1)

/-- UV_CHG (R344, R349): below 16.5 V the group is under voltage, from 17.0 V no longer; VFLD1 makes the inputs invalid.
Log entry 49 (DEDUCED). -/
def execUvChg (g : Fin 2) (mv : BitVec 16) (s : State) : Out :=
  .next (s.whileLive .fio fun s =>
    let low := s.uv g
    if if low then mv.toNat < 17000 else 16500 ≤ mv.toNat then s
    else
      let s1 := ((s.wrB (statFld .fio (10 + g)) !low).raise .fio 6).drive
      if g ≠ 0 then s1
      else if low then { s1 with fio := { s1.fio with uvOkAt := some s1.nowNs } }
      else
        let s2 := { s1 with fio := { s1.fio with sampling := false, uvOkAt := none } }
        if s2.fioOn then s2.diAll fun _ => 5 else s2)

/-- DI_RESTART (R344): VFLD1 has stayed above its threshold for 10 ms; every state is taken from its raw level, and every DI signal is
valid again. Log entry 49 (DEDUCED). -/
def execDiRestart (raw : BitVec 24) (s : State) : Out :=
  .next (s.whileLive .fio fun s =>
    match s.fio.uvOkAt with
    | none => s
    | some t =>
      if s.nowNs < t + 10000000 then s
      else
        let s1 := { s with fio := { s.fio with sampling := true, uvOkAt := none, runFrom := Vector.replicate 24 (10 * s.sampleNo + 10) } }
        let s2 := (s1.wr F.FIO_DI_STATE_STATE raw.toNat).wr F.FIO_DI_RAW_RAW raw.toNat
        if s2.fioOn then s2.diAll s2.diQual else s2)

/-- EN = 1: sampling starts, each DI signal is delivered as it stands (R341, R344), and the outputs follow their commands (R345). -/
def State.fioStart (s : State) : State :=
  let s1 := { s with fio := { s.fio with stopped := false, runFrom := Vector.replicate 24 s.nowNs } }
  (s1.diAll fun n => if s1.fio.sampling then s1.diQual n else 5).drive

/-- The stop boundary: outputs off, DI signals keep their values with QUAL STALE (R351). -/
def State.fioStop (s : State) : State := { s.diAll fun _ => 3 with fio := { s.fio with stopped := true } }.drive

end Sys2Proof.Machine
end

