-- ==== Sys2Proof/Machine/SpkData.lean ====
section
/-! DEFINITION. Spoke frames, point maps, the spoke table and the GMAC tag (R157 to R162, R173 to R176, R190, R192). -/

namespace Sys2Proof.Machine

/-! ## Network byte order -/

/-- The big-endian number of `n` bytes at offset `o` (missing bytes read 0). -/
def beAt (bs : List Byte) (o n : Nat) : Nat := (upto n).foldl (fun x k => 256 * x + (bs.getD (o + k) 0).toNat) 0

/-- The low `n` bytes of a number, big-endian. -/
def beBytes (n v : Nat) : List Byte := (leBytes n v).reverse

/-! ## The Spoke header (R158) -/

def hVer (b : List Byte) : Nat := nbits (beAt b 0 1) 4 4
def hKind (b : List Byte) : Nat := nbits (beAt b 0 1) 0 4
def hDir (b : List Byte) : Bool := (beAt b 1 1).testBit 0
def hTagged (b : List Byte) : Bool := (beAt b 1 1).testBit 1
def hHops (b : List Byte) : Nat := nbits (beAt b 2 2) 0 12
def hLooped (b : List Byte) : Bool := (beAt b 2 2).testBit 15
def hFrame (b : List Byte) : Nat := beAt b 8 1
def hNframe (b : List Byte) : Nat := beAt b 9 1
def hArea (b : List Byte) : Nat := beAt b 10 2
def hPass (b : List Byte) : Nat := beAt b 4 4 + 2 ^ 32 * beAt b 12 2
def hEpoch (b : List Byte) : Nat := beAt b 14 2

/-- The area, and the tag behind it. -/
def areaOf (b : List Byte) : List Byte := (b.drop 16).take (hArea b)
def tagOf (b : List Byte) : Nat := beAt b (16 + hArea b) 16

/-- A header (R158). -/
def mkHeader (kind : Nat) (dir tagged last : Bool) (pass frame nframe area epoch : Nat) : List Byte :=
  [BitVec.ofNat 8 (16 + kind), BitVec.ofNat 8 (b2n dir + 2 * b2n tagged + 4 * b2n last), 0, 0] ++ beBytes 4 pass ++
  [BitVec.ofNat 8 frame, BitVec.ofNat 8 nframe] ++ beBytes 2 area ++ beBytes 2 (pass / 2 ^ 32) ++ beBytes 2 epoch

/-- HOPS incremented (R164); LOOPED set (R167). -/
def incHops (b : List Byte) : List Byte := patch b 2 (beBytes 2 (beAt b 2 2 / 2 ^ 12 * 2 ^ 12 + (hHops b + 1) % 2 ^ 12))
def setLooped (b : List Byte) : List Byte := patch b 2 (beBytes 2 (beAt b 2 2 % 2 ^ 15 + 2 ^ 15))

/-! ## GMAC (R190, R192) -/

/-- The product in GF(2¹²⁸) as SP 800-38D orders its bits: `y`'s powers summed where `x` has a bit, most significant first.
Log entry 60 (PRESUMED). -/
def gfMul (x y : BitVec 128) : BitVec 128 :=
  ((upto 128).foldl (fun (zv : BitVec 128 × BitVec 128) i =>
    let z := if x.getLsbD (127 - i) then zv.1 ^^^ zv.2 else zv.1
    let v := zv.2 >>> 1
    (z, if zv.2.getLsbD 0 then v ^^^ (0xE1#128 <<< 120) else v)) (0, y)).1

/-- `h` to the power `n`. -/
def gfPow (h : BitVec 128) : Nat → BitVec 128
  | 0 => 1#128 <<< 127
  | n + 1 => gfMul (gfPow h n) h

/-- Blocks of additional data of `n` bytes. -/
def gcmBlocks (n : Nat) : Nat := (n + 15) / 16

/-- Block `j`, from 0, of a byte string, padded with zeros. -/
def gcmBlock (bs : List Byte) (j : Nat) : BitVec 128 := BitVec.ofNat 128 (beAt bs (16 * j) 16)

/-- GHASH of additional data alone. Log entry 60 (PRESUMED). -/
def ghash (h : BitVec 128) (aad : List Byte) : BitVec 128 :=
  let y := (upto (gcmBlocks aad.length)).foldl (fun y j => gfMul (y ^^^ gcmBlock aad j) h) 0
  gfMul (y ^^^ BitVec.ofNat 128 (8 * aad.length * 2 ^ 64)) h

/-- The GMAC of additional data under a key and a 96-bit IV. Log entry 60 (PRESUMED). -/
def gmac (key : List Byte) (iv : Nat) (aad : List Byte) : BitVec 128 :=
  ghash (aes256 key 0) aad ^^^ aes256 key (BitVec.ofNat 128 (iv * 2 ^ 32 + 1))

/-- The additional data of a frame: header and area, bytes 2 to 3 taken as zero. -/
def frameAad (b : List Byte) : List Byte := patch (b.take (16 + hArea b)) 2 [0, 0]

/-- The IV of a frame: low 4 bytes of the source address, PASS_HI, PASS, FRAME, byte 1. -/
def frameIv (sa : BitVec 48) (b : List Byte) : Nat :=
  ((sa.toNat % 2 ^ 32 * 2 ^ 48 + hPass b) * 2 ^ 8 + hFrame b) * 2 ^ 8 + beAt b 1 1

/-- The tag of a frame. -/
def frameTag (key : List Byte) (sa : BitVec 48) (b : List Byte) : Nat := (gmac key (frameIv sa b) (frameAad b)).toNat

/-- A frame with its tag appended. -/
def withTag (key : List Byte) (sa : BitVec 48) (b : List Byte) : List Byte := b ++ beBytes 16 (frameTag key sa b)

/-- Zero padding up to 60 bytes of frame, of which 14 stand before the Spoke header (R157). -/
def padFrame (b : List Byte) : List Byte := b ++ List.replicate (46 - b.length) 0

/-- The tag correction of a station that changed the area of a frame from `old` to `new` (R192). -/
def fixTag (key : List Byte) (old new : List Byte) : List Byte :=
  let h := aes256 key 0
  let m := gcmBlocks (16 + hArea old)
  let tag := (upto m).foldl (fun t j =>
    let d := gcmBlock (frameAad old) j ^^^ gcmBlock (frameAad new) j
    if d = 0 then t else t ^^^ gfMul d (gfPow h (m + 1 - j))) (BitVec.ofNat 128 (tagOf new))
  patch new (16 + hArea new) (beBytes 16 tag.toNat)

/-! ## Keys for ring tags (R190, R193, R418, R420) -/

/-- A slot, and its replacement. -/
def State.kslot (s : State) (n : Fin 32) : KeySlot := s.kst.slots[n]
def State.setKslot (s : State) (n : Fin 32) (x : KeySlot) : State := { s with kst := { s.kst with slots := s.kst.slots.set n x } }

/-- STATE of a slot: 0 EMPTY, 1 VALID, 2 BAD; its EPOCH. -/
def State.kstState (s : State) (n : Nat) : Nat := s.rd (F.KST_SLOTn_STAT_STATE n)
def State.kstEpoch (s : State) (n : Nat) : Nat := s.rd (F.KST_SLOTn_STAT_EPOCH n)

/-- The check word of a half holds. -/
def KeyHalf.ok (h : KeyHalf) : Bool := (sha3 h.key).toNat == h.check

/-- A slot whose active half fails its check word (R418). -/
def State.markBad (s : State) (n : Fin 32) : State := ((s.wr (F.KST_SLOTn_STAT_STATE n) 2).raise .kst 3).err .kst 0x81 n

/-- The active half's check word of a slot, verified before a use and every 10 s (R418). -/
def State.checkSlot (s : State) (n : Fin 32) : State :=
  match (s.kslot n).active with
  | some h => if s.kstState n = 1 && !h.ok then s.markBad n else s
  | none => s

/-- The same before SPK uses the key of tag slot `n`; slot 15 is none. -/
def State.checkTag (s : State) (n : Nat) : State := if 15 ≤ n then s else s.checkSlot (Fin.ofNat 32 (16 + n))

/-- The active key of symmetric slot `n` for a ring tag; slot 15 is no tag key, and a BAD or EMPTY slot has none. -/
def State.tagKey (s : State) (n : Nat) : Option (List Byte) :=
  if 15 ≤ n || s.kstState (16 + n) ≠ 1 then none
  else match (s.kslot (Fin.ofNat 32 (16 + n))).active with
    | some h => if h.ok then some h.key else none
    | none => none

/-- The key that verifies a returning copy: the active half, or the RETIRED half for the previous epoch (R420); none of a BAD slot (R193). -/
def State.tagKeyFor (s : State) (n epoch : Nat) : Option (List Byte) :=
  if epoch = s.kstEpoch (16 + n) then s.tagKey n
  else if s.kstState (16 + n) ≠ 1 then none
  else
    let x := s.kslot (Fin.ofNat 32 (16 + n))
    if n < 15 && s.rd (F.KST_SLOTn_STAT_SHADOW (16 + n)) == 3 && x.oldEpoch == epoch then x.shadow.map (·.key) else none

/-! ## The spoke table (R173, R174, R176) -/

/-- Fields of a point map item (R174). -/
def miPoint (w : Nat) : Nat := nbits w 0 13
def miOfs (w : Nat) : Nat := nbits w 13 5
def miKind (w : Nat) : Nat := nbits w 18 3
def miBit (w : Nat) : Nat := nbits w 21 3

/-- Bytes of an item by KIND. -/
def miWidth (kind : Nat) : Nat := if kind ≤ 2 then 1 else if kind ≤ 4 then 2 else 4

/-- A map item is unused, or lies within its data and is naturally aligned (R174). -/
def itemOk (len w : Nat) : Bool :=
  let k := miKind w
  w / 2 ^ 24 == 0 && (k == 0 || (decide (k ≤ 5) && miOfs w % miWidth k == 0 && decide (miOfs w + miWidth k ≤ len)))

/-- A data length: 0 to 32, a multiple of 4. -/
def spkLenOk (n : Nat) : Bool := decide (n ≤ 32) && n % 4 == 0

/-- The entry in 64 bytes and its 128-byte map, and whether it passes the checks of R173, R174 and R176. Log entry 38 (DEDUCED). -/
def parseSpoke (node : Nat) (e m : List Byte) : SpkCfg :=
  let ctl := leAt e 0 2
  let ol := leAt e 2 1
  let il := leAt e 3 1
  let mp := (upto 32).map fun k => leAt m (4 * k) 4
  let fine := (crc32 (e.take 0x18)).toNat == leAt e 0x18 4 && nbits ctl 0 10 == node && spkLenOk ol && spkLenOk il &&
    leAt e 4 8 % 64 == 0 && decide (leAt e 4 8 < 2 ^ 40) && decide (1 ≤ leAt e 0xC 1) && decide (1 ≤ leAt e 0xD 1) &&
    decide (1 ≤ leAt e 0xE 1) && decide (leAt e 0xE 1 ≤ 100) && decide (leAt e 0xF 1 < 4) && decide (leAt e 0x10 2 ≤ 1424) &&
    ((e.drop 0x12).take 6).all (fun b => b == 0) && !(node == 0 && ctl.testBit 15) &&
    (mp.take 16).all (itemOk ol) && (mp.drop 16).all (itemOk il)
  { en := ctl.testBit 15 && node != 0, tagged := ctl.testBit 14, slot := nbits ctl 10 4, outLen := ol, inLen := il, missLimit := leAt e 0xC 1,
    recover := leAt e 0xD 1, substBad := (leAt e 0xF 1).testBit 0, uncertBad := (leAt e 0xF 1).testBit 1, upLen := leAt e 0x10 2,
    map := mp, bad := !fine }

/-- The address of an entry in SPK's context. -/
def State.spokeAddr (s : State) (node : Nat) : Nat :=
  s.rd F.SPK_TBL_BASE_LO_BASE_LO * 2 ^ 16 + s.rd F.SPK_TBL_BASE_HI_BASE_HI * 2 ^ 32 + 64 * node

/-- An entry of the table. -/
def State.spoke (s : State) (node : Nat) : Spoke := Sparse.get s.spk.ents {} node
def State.setSpoke (s : State) (node : Nat) (e : Spoke) : State :=
  { s with spk := { s.spk with ents := Sparse.put s.spk.ents {} node e } }

/-- What a read of an entry finds: a translation fault, or the entry with its check, which every read makes, of a disabled one too (R176). -/
def State.readSpoke (s : State) (node : Nat) : State × Option SpkCfg :=
  match s.dmaRead 3 (s.spokeAddr node) 64 with
  | (s1, none) => (s1, none)
  | (s1, some e) =>
    match s1.dmaRead 3 (leAt e 4 8 % 2 ^ 40) 128 with
    | (s2, none) => (s2, none)
    | (s2, some m) => (s2, some (parseSpoke node e m))

/-- An entry that cannot be used (R176, R195): ERROR, TABLE_ERR, and code 0x81, or 0x80 for a fault. -/
def State.spokeBad (s : State) (node : Nat) (fault : Bool) : State :=
  let e := s.spoke node
  let s1 := s.setSpoke node { e with st := { e.st with state := 6 } }
  (s1.raise .spk 12).err .spk (if fault then 0x80 else 0x81) node

/-- A read entry takes its place, its packed layout kept; ERROR ends and begins again as INIT. -/
def State.spokeGood (s : State) (node : Nat) (c : SpkCfg) : State :=
  let e := s.spoke node
  s.setSpoke node { e with
                    cfg := { c with en := e.cfg.en, tagged := e.cfg.tagged, slot := e.cfg.slot, outLen := e.cfg.outLen, inLen := e.cfg.inLen },
                    st := if e.st.state = 6 then { e.st with state := 0 } else e.st }

/-- The bytes 0x1C to 0x3F of an entry. -/
def statBytes (x : SpkStat) : List Byte :=
  leBytes 1 x.state ++ leBytes 1 (b2n x.undelivered + 2 * b2n x.lastB + 4 * b2n x.cached) ++ leBytes 1 x.frame ++ leBytes 1 x.missRun ++
  leBytes 2 x.segOfs ++ leBytes 1 x.recovRun ++ leBytes 1 0 ++ leBytes 4 x.missTotal ++ leBytes 4 x.undelivTotal ++ leBytes 4 x.failCount ++
  leBytes 4 x.lastPass ++ leBytes 4 x.lastStatus ++ leBytes 2 x.downSeq ++ leBytes 2 x.upSeq ++ leBytes 4 0

/-- Write the status part of an entry back to the table; a fault records code 0x80. -/
def State.writeBack (s0 : State) (node : Nat) : State :=
  let e := s0.spoke node
  let s := s0.setSpoke node { e with mem := some (statBytes e.st) }
  match s.dmaWrite 3 (s.spokeAddr node + 0x1C) (statBytes e.st) with
  | (s1, true) => s1
  | (s1, false) => s1.err .spk 0x80 node

/-- The nodes with an entry, ascending; those enabled; those cached. -/
def State.spkNodes (s : State) : List Nat := s.spk.ents.map Prod.fst
def State.spkEnabled (s : State) : List Nat := s.spkNodes.filter fun n => (s.spoke n).cfg.en
def State.spkCached (s : State) : List Nat := s.spkNodes.filter fun n => (s.spoke n).st.cached

/-- Show the cache count. -/
def State.showCached (s : State) : State := s.wr F.SPK_TBL_STAT_CACHED s.spkCached.length

/-- Set the cache mark of an entry. -/
def State.markCached (s : State) (node : Nat) (v : Bool) : State :=
  let e := s.spoke node
  s.setSpoke node { e with st := { e.st with cached := v } }

/-- Cache an entry among 64; the one that leaves is a free choice, and is written back (R176). -/
def State.cacheSpoke (s : State) (node : Nat) : State :=
  let l := (s.spkCached).filter fun n => n != node
  let s1 :=
    if l.length < 64 then s
    else
      let (d, s0) := s.draw
      let v := l.getD (d % l.length) 0
      (s0.markCached v false).writeBack v
  s1.markCached node true

/-- Read an entry that is used while not cached (R176). -/
def State.useSpoke (s : State) (node : Nat) : State :=
  if (s.spoke node).st.cached then s
  else
    let s2 := match s.readSpoke node with
      | (s1, none) => s1.spokeBad node true
      | (s1, some c) => if c.bad then s1.spokeBad node false else s1.spokeGood node c
    s2.cacheSpoke node

/-! ## Packing (R162) -/

/-- Bytes of a segment (R159). -/
def segBytes (c : SpkCfg) : Nat := 8 + c.outLen + c.inLen

/-- Pack entries in ascending node order. Log entry 38 (DEDUCED). -/
def packFrames (l : List (Nat × SpkCfg)) : List PackFrame :=
  let fs := l.foldl (fun (fs : List PackFrame) e =>
    let n := segBytes e.2
    match fs with
    | f :: t =>
      if 1440 < f.area + n || f.tagged != e.2.tagged || f.slot != e.2.slot then ⟨e.2.tagged, e.2.slot, [(e.1, 0)], n⟩ :: f :: t
      else { f with segs := f.segs ++ [(e.1, f.area)], area := f.area + n } :: t
    | [] => [⟨e.2.tagged, e.2.slot, [(e.1, 0)], n⟩]) []
  if fs.isEmpty then [⟨false, 0, [], 0⟩] else fs.reverse

/-- Frame and offset of each packed segment. -/
def placeOf (fs : List PackFrame) (node : Nat) : Option (Nat × Nat) :=
  (fs.zipIdx.flatMap fun (f, k) => (f.segs.filter fun x => x.1 == node).map fun x => (k, x.2)).head?

/-- The worse of the two table results so far. -/
def tblWorse (a b : Nat) : Nat := if a = 0 then b else a

/-- Read the 1,024 entries for a REPACK: what each read found, and 2 CHK_FAIL or 3 FAULT for the first that failed. -/
def State.readAll (s : State) : State × List (Nat × Option SpkCfg) × Nat :=
  (upto 1024).foldl (fun (x : State × List (Nat × Option SpkCfg) × Nat) n =>
    let (s1, c) := x.1.readSpoke n
    let r := match c with
      | none => 3
      | some c => if c.bad then 2 else 0
    (s1, x.2.1 ++ [(n, c)], tblWorse x.2.2 r)) (s, [], 0)

/-- The layout and map a REPACK gives an entry: as read, or, where the read failed, as before (R176). Log entry 38 (DEDUCED). -/
def State.packCfg (s : State) (node : Nat) (c : Option SpkCfg) : SpkCfg :=
  let old := (s.spoke node).cfg
  match c with
  | none => old
  | some c => if !c.bad then c else if old.en then old else { c with outLen := 0, inLen := 0, map := [] }

/-- The state of an entry after a REPACK (R177): newly enabled INIT, disabled DISABLED, every other kept. -/
def repackStat (old : Spoke) (c : SpkCfg) (place : Option (Nat × Nat)) : SpkStat :=
  let st : SpkStat := if !c.en then { old.st with state := 5, cached := false }
    else if !old.cfg.en then { cached := false }
    else { old.st with cached := false }
  match place with
  | some (f, o) => { st with frame := f, segOfs := o }
  | none => st

/-- REPACK (R162, R176, R177): every entry read, packed, its state updated, the first 64 cached and written back; the RESULT. -/
def State.repack (s : State) : State × Nat :=
  let (s1, l, r) := s.readAll
  let cfgs := l.map fun (n, c) => (n, s1.packCfg n c)
  let on := cfgs.filter fun x => x.2.en
  let fs := packFrames on
  if 224 < fs.length then (s1, 5)
  else
    let s2 := cfgs.foldl (fun s (x : Nat × SpkCfg) =>
      let o := s.spoke x.1
      s.setSpoke x.1 { o with cfg := x.2, st := repackStat o x.2 (placeOf fs x.1) }) s1
    let s3 := l.foldl (fun s (x : Nat × Option SpkCfg) => match x.2 with
      | none => s.spokeBad x.1 true
      | some c => if c.bad then s.spokeBad x.1 false else s) s2
    let s4 := { s3 with spk := { s3.spk with frames := fs } }.wr F.SPK_TBL_STAT_NFRAME fs.length
    let s5 := ((on.take 64).foldl (fun s (x : Nat × SpkCfg) => s.markCached x.1 true) s4).showCached
    (cfgs.foldl (fun s (x : Nat × SpkCfg) => s.writeBack x.1) s5, r)

/-- SPK_STN_CNT. -/
def State.countSpokes (s : State) : State :=
  let n (k : Nat) : Nat := (s.spkEnabled.filter fun i => (s.spoke i).st.state == k).length
  (s.wr F.SPK_STN_CNT_MISSING (n 2)).wr F.SPK_STN_CNT_FAILED (n 3)

/-- RELOAD of an entry (R177): the RESULT. Log entry 38 (DEDUCED). -/
def State.reload (s : State) (node : Nat) : State × Nat :=
  match s.readSpoke node with
  | (s1, none) => (s1.err .spk 0x80 node, 3)
  | (s1, some c) =>
    let o := (s1.spoke node).cfg
    if c.bad then (s1.spokeBad node false, 2)
    else if c.en ≠ o.en || c.outLen ≠ o.outLen || c.inLen ≠ o.inLen || c.tagged ≠ o.tagged || c.slot ≠ o.slot then (s1, 1)
    else if !c.en then (s1, 0)
    else (((s1.spokeGood node c).cacheSpoke node).showCached, 0)

/-- A table command ends: RESULT, PEND 0, TBL_DONE. -/
def State.tblEnd (s : State) (r : Nat) : State := ((s.wr F.SPK_TBL_STAT_RESULT r).wr F.SPK_TBL_STAT_PEND 0).raise .spk 15

/-- Carry out a table command: 1 RELOAD, 2 REPACK. -/
def State.tblRun (s : State) (op node : Nat) : State :=
  let (s1, r) := if op = 2 then s.repack else s.reload node
  s1.countSpokes.tblEnd r

end Sys2Proof.Machine
end

