-- ==== Sys2Proof/Machine/Spk.lean ====
section
/-! DEFINITION. The Spoke ring's master side: instants, departures, returns, input commit, table commands and the mailbox (R152 to
R162, R169 to R195). -/

namespace Sys2Proof.Machine

/-! ## Role and ring state (R18 to R24, R153) -/

/-- ROLE: 0 plant, 1 station, 2 witness, 3 not established; the node number in use; a defaulted module claims none (R19). -/
def State.role (s : State) : Nat := s.rd F.SYS_ROLE_ROLE
def State.node (s : State) : Nat := s.rd F.SYS_ROLE_NODE
def State.plant (s : State) : Bool := s.role == 0 && !s.bit F.SYS_ROLE_DEFAULTED
def State.stationRole (s : State) : Bool := (s.role == 1 || s.role == 2) && !s.bit F.SYS_ROLE_DEFAULTED

/-- The module may master the ring: plant role, and ACTIVE in a Tandem pair (R371). -/
def State.mayMaster (s : State) : Bool := s.plant && !s.suppressed

/-- STATE of the ring: 0 STOPPED, 1 RUNNING, 2 STOPPING, 3 BLOCKED. -/
def State.ringState (s : State) : Nat := s.rd F.SPK_RING_STAT_STATE

/-- SPK masters the ring. -/
def State.mastering (s : State) : Bool := s.mayMaster && (s.ringState == 1 || s.ringState == 2)

/-- The module forwards ring frames (R153): out of reset, NET on, both ports in MODE RING, no sleep past the quiesce of SPK. -/
def State.forwards (s : State) : Bool :=
  !s.sys.boot && !s.domOff.getLsbD Domain.net.idx && s.rd (F.NET_PORTn_CFG_MODE 0) == 0 && s.rd (F.NET_PORTn_CFG_MODE 1) == 0 && !s.spk.quiet

/-- A frame leaves on a port; on a port in MODE SWITCH SPK neither forwards nor sends (R314). -/
def State.sendRing (s : State) (port : Nat) (f : SpokeFrame) : State :=
  if s.rd (F.NET_PORTn_CFG_MODE port) = 0 then { s with spk := { s.spk with tx := s.spk.tx ++ [(port, f)] } } else s

/-- No frame has left yet in this command. -/
def State.clearTx (s : State) : State := { s with spk := { s.spk with tx := [] } }

/-- SPK_DA and SPK_CFG.ETYPE. -/
def State.ringDa (s : State) : BitVec 48 :=
  BitVec.ofNat 48 (beAt (leBytes 4 (s.regGet (R.SPK_DAk 0)).toNat ++ leBytes 2 (s.regGet (R.SPK_DAk 1)).toNat) 0 6)
def State.ringEtype (s : State) : BitVec 16 := BitVec.ofNat 16 (s.rd F.SPK_CFG_ETYPE)

/-- A frame of this ring (R163). -/
def State.ringFrame (s : State) (f : SpokeFrame) : Bool := f.da == s.ringDa && f.etype == s.ringEtype

/-! ## Ring instants (R116, R117, R155, R156) -/

/-- SPK supplies a ring instant now. -/
def State.supplyInstant (s : State) : State := { s with cad := { s.cad with ringAt := some s.tb2, ringSupplied := true } }

/-- SPK_PERIOD in µs. -/
def State.ringPeriod (s : State) : Nat := max 1 (s.rd F.SPK_PERIOD_PERIOD)

/-- The phase of the ring grid in ns: SPK_PHASE, or, after a takeover, the old active's last ring instant (R155, R383). -/
def State.ringPhaseNs (s : State) : Nat := s.spk.gridAt.getD (1000 * s.rd F.SPK_PHASE_PHASE)

/-- An instant of the SPK_PERIOD grid falls in this clock cycle (R155). -/
def State.ringGridNow (s : State) : Bool :=
  let p := 1000 * s.ringPeriod
  decide ((s.tb2 + (p - s.ringPhaseNs % p) * unitsPerNs) % (p * unitsPerNs) < 16 * 2 ^ 44)

/-- A new period of the Tandem stream: its INSTANT entry, the last two periods kept (R372, R374). -/
def State.streamPeriod (s : State) : State :=
  if s.tandem && s.tdmState == 1 then
    s.nextPeriod.emit (.instant s.spk.next s.nowNs (s.regGet (R.BLK_CFGSUM .cad)) (s.regGet (R.BLK_CFGSUM .lpe)))
  else s

/-- The replay that was running at a takeover has not ended: no ring instant falls before (R383). -/
def State.handingOver (s : State) : Bool := s.tdm.swFrom.isSome && s.taskState 0 == 2

/-- RING_INSTANT (R155): in plant role, on the SPK_PERIOD grid, while SPK masters the ring. -/
def execRingInstant (s : State) : Out :=
  .next (s.whileLive .spk fun s =>
    if !s.mastering || !s.ringGridNow || s.cad.ringAt == some s.tb2 || s.handingOver then s
    else
      let s1 := s.supplyInstant.streamPeriod
      { s1 with spk := { s1.spk with due := some s1.nowNs } })

/-- RING_INSTANT_TIMEOUT (R156): no pass within 2 periods of the previous ring instant, in station or witness role. -/
def execRingInstantTimeout (s : State) : Out :=
  .next (s.whileLive .spk fun s =>
    if !s.stationRole || !s.cad.ringSupplied || s.nowNs < s.spk.lastInstant + 2000 * s.ringPeriod then s else s.loseInstants)

/-! ## Departure (R27, R28, R155, R158 to R160, R175, R181, R190, R193, R194) -/

/-- GUARD and BUDGET meet R172 under the ring's PERIOD. -/
def State.timingOk (s : State) (g b : Nat) : Bool := decide (50 ≤ g) && decide (g + b + 50 ≤ s.rd F.SPK_PERIOD_PERIOD)

/-- The boundary of SPK's RWS fields (R195); a commit of timing that breaks R172 is refused with code 0x83 and the previous values stay. -/
def State.commitSpk (s : State) : State :=
  let pending := s.shadows.any fun x => x.1.addr == R.SPK_TIMING
  if pending && !s.timingOk (s.rdShadow F.SPK_TIMING_GUARD) (s.rdShadow F.SPK_TIMING_BUDGET) then
    let s1 := { s with shadows := s.shadows.filter fun x => x.1.addr != R.SPK_TIMING }
    (s1.commitBlk .spk).err .spk 0x83 (woffOf .spk R.SPK_TIMING)
  else s.commitBlk .spk

/-- One output item in the output data of a segment (R175). Log entry 38 (DEDUCED). -/
def putItem (bs : List Byte) (w : Nat) (v : Word) : List Byte :=
  let k := miKind w
  if k = 0 then bs
  else if k = 1 then
    let o := leAt bs (miOfs w) 1
    let m := 2 ^ miBit w
    patch bs (miOfs w) [BitVec.ofNat 8 ((if o.testBit (miBit w) then o - m else o) + (if v = 0 then 0 else m))]
  else patch bs (miOfs w) (beBytes (miWidth k) v.toNat)

/-- The output data of an entry from the guarded output image (R175, R181). -/
def State.outData (s : State) (node : Nat) (c : SpkCfg) : List Byte :=
  (c.map.take 16).foldl (fun bs w =>
    putItem bs w (((s.guardedVal (node * 2 ^ 13 + miPoint w)).map (·.value)).getD 0)) (List.replicate c.outLen 0)

/-- The master word (R160). -/
def masterWord (node : Nat) (c : SpkCfg) (fresh subst : Bool) (ack : Nat) : Nat :=
  node * 2 ^ 22 + c.outLen * 2 ^ 16 + c.inLen * 2 ^ 10 + b2n fresh * 2 ^ 9 + b2n subst * 2 ^ 8 + ack % 256

/-- The segment of a node in a pass (R159, R160, R181); that of an entry in ERROR carries SUBST_CMD (R176). -/
def State.segment (s : State) (node : Nat) (fresh stopping : Bool) : List Byte :=
  let e := s.spoke node
  beBytes 4 (masterWord node e.cfg fresh (e.st.state == 6 || stopping) e.st.upSeq) ++ s.outData node e.cfg ++ List.replicate (4 + e.cfg.inLen) 0

/-- A frame of the pass: on both ports at the same instant, with DIR, tag and padding of its own (R154, R157, R190, R314). -/
def State.sendBoth (s : State) (mk : Bool → List Byte) (key : Option (List Byte)) : State :=
  let one (s : State) (port : Nat) : State :=
    let sa := Config.portAddr port
    let b := mk (port == 1)
    s.sendRing port { da := s.ringDa, sa := sa, etype := s.ringEtype, body := padFrame (match key with | some k => withTag k sa b | none => b) }
  one (one s 0) 1

/-- A slot's tags fail: TAG_FAIL, with an event once (R193). -/
def State.tagBad (s : State) (slot : Nat) : State :=
  if s.spk.tagBad.contains slot then s.raise .spk 11
  else
    let s1 := s.raiseEv .spk 11
    { s1 with spk := { s1.spk with tagBad := slot :: s1.spk.tagBad } }

/-- Send a frame under its tagging; a frame whose key is not to be had is not sent (R193). -/
def State.sendTagged (s0 : State) (tagged : Bool) (slot : Nat) (mk : Bool → Nat → List Byte) : State :=
  let s := if tagged then s0.checkTag slot else s0
  if !tagged then s.sendBoth (fun d => mk d 0) none
  else match s.tagKey slot with
    | none => s.tagBad slot
    | some k =>
      let s1 := { s with spk := { s.spk with tagBad := s.spk.tagBad.filter fun n => n != slot } }
      s1.sendBoth (fun d => mk d (s1.kstEpoch (16 + slot))) (some k)

/-- A packed frame is tagged: TAG_EN and its entries' TAGGED (SPK_CFG). -/
def State.frameTagged (s : State) (tagged : Bool) : Bool := tagged && s.bit F.SPK_CFG_TAG_EN

/-- The cyclic frames of a pass, in FRAME order. -/
def State.sendCyclic (s : State) (num : Nat) (fresh stopping : Bool) : State :=
  let n := s.spk.frames.length
  s.spk.frames.zipIdx.foldl (fun s (x : PackFrame × Nat) =>
    let s1 := x.1.segs.foldl (fun s (g : Nat × Nat) => s.useSpoke g.1) s
    let area := x.1.segs.flatMap fun g => s1.segment g.1 fresh stopping
    let tg := s1.frameTagged x.1.tagged
    s1.sendTagged tg x.1.slot fun d ep => mkHeader 0 d tg (x.2 + 1 == n) num x.2 n area.length ep ++ area) s

/-! ### Mailbox frames (R185 to R187, R189) -/

/-- Entries, base and indices of descriptor ring q: 0 down, 1 up. -/
def State.mbxN (s : State) (q : Nat) : Nat :=
  let k := s.rd (F.SPK_MBXq_BASE_LO_LOG2N q)
  2 ^ (if 4 ≤ k && k ≤ 12 then k else 4)
def State.mbxAddr (s : State) (q i : Nat) : Nat :=
  s.rd (F.SPK_MBXq_BASE_LO_BASE_LO q) * 2 ^ 12 + s.rd (F.SPK_MBXq_BASE_HI_BASE_HI q) * 2 ^ 32 + 16 * (i % s.mbxN q)
def State.mbxHead (s : State) (q : Nat) : Nat := s.rd (F.SPK_MBXq_IDX_HEAD q)
def State.mbxTail (s : State) (q : Nat) : Nat := s.rd (F.SPK_MBXq_IDX_TAIL q)

/-- A descriptor of ring q, if it can be read. -/
def State.mbxDesc (s : State) (q i : Nat) : State × Option (List Byte) := s.dmaRead 3 (s.mbxAddr q i) 16

/-- HEAD passes over the descriptors completed. -/
def advHead (n : Nat) : Nat → Nat → List Nat → Nat × List Nat
  | 0, h, l => (h, l)
  | k + 1, h, l => if l.contains h then advHead n k ((h + 1) % n) (l.filter fun x => x != h) else (h, l)

/-- Complete down descriptor `i` of a node: RESULT, OWN cleared, HEAD advanced, the causes of R195. -/
def State.mbxDone (s : State) (i node r : Nat) : State :=
  let s1 := match s.dmaWrite 3 (s.mbxAddr 0 i + 0xD) [BitVec.ofNat 8 r, 0] with
    | (s1, true) => s1
    | (s1, false) => s1.err .spk 0x80 node
  let (h, l) := advHead (s1.mbxN 0) (s1.mbxN 0) (s1.mbxHead 0) (i % s1.mbxN 0 :: s1.spk.done)
  let s2 := ({ s1 with spk := { s1.spk with done := l } }.wr (F.SPK_MBXq_IDX_HEAD 0) h).raise .spk 8
  if r = 2 || r = 5 then s2.raise .spk 10 else s2

/-- The mailbox header (R185). -/
def mbxHeader (node len seq service status : Nat) : List Byte :=
  beBytes 2 node ++ beBytes 2 len ++ beBytes 2 seq ++ beBytes 1 service ++ beBytes 1 status ++ beBytes 8 0

/-- The SEQ after `n`: values whose low byte is 0 are skipped. -/
def seqAfter (n : Nat) : Nat := let m := (n + 1) % 65536; if m % 256 = 0 then m + 1 else m

/-- Send a mailbox frame for a node: KIND 1 down or 2 poll. The node's entry is used (R176). -/
def State.sendMbx (s0 : State) (num frame kind node : Nat) (area : List Byte) : State :=
  let s := s0.useSpoke node
  let c := (s.spoke node).cfg
  let tg := s.frameTagged c.tagged
  s.sendTagged tg c.slot fun d ep => mkHeader kind d tg false num frame s.spk.frames.length area.length ep ++ area

/-- Send one outstanding down message. -/
def State.sendDown (s : State) (num frame : Nat) (x : DownMsg) : State :=
  let s1 := s.sendMbx num frame 1 x.node (mbxHeader x.node x.payload.length x.seq x.service 0 ++ x.payload)
  { s1 with spk := { s1.spk with
    down := s1.spk.down.map fun y => if y.idx == x.idx then { y with sends := y.sends + 1, waited := 0, due := false } else y } }

/-- What the next down descriptor calls for: nothing, completion with a result (and a malformed-descriptor error), or a message. -/
inductive MbxNext where
  | idle
  | done (node r : Nat) (malformed : Bool)
  | msg (m : DownMsg)
  deriving DecidableEq, Repr

/-- Look at the next down descriptor (R186, R189, R195). One that cannot be read names no node: WOFF 0. Log entry 77 (DESIGN CHOICE). -/
def State.mbxTake (s : State) : State × MbxNext :=
  let i := s.spk.take
  if i = s.mbxTail 0 % s.mbxN 0 then (s, .idle)
  else match s.mbxDesc 0 i with
    | (s1, none) => (s1.err .spk 0x80 0, .done 0 5 false)
    | (s1, some d) =>
      let len := leAt d 8 2
      let node := leAt d 0xA 2 % 2 ^ 10
      let e := s1.spoke node
      if leAt d 0xE 1 ≠ 1 then (s1, .idle)
      else if 1424 < len then (s1, .done node 4 true)
      else if !e.cfg.en then (s1, .done node 5 true)
      else if e.st.state = 3 then (s1, .done node 3 false)
      else if s1.spk.down.any fun x => x.node == node then (s1, .idle)
      else match s1.dmaRead 3 (leAt d 0 8 % 2 ^ 40) len with
        | (s2, none) => (s2.err .spk 0x80 node, .done node 5 false)
        | (s2, some p) => (s2, .msg { idx := i, node := node, seq := seqAfter e.st.downSeq, service := leAt d 0xC 1, payload := p })

/-- Take new down messages while frames are left; answers the frames still left. -/
def State.takeDown (s : State) (num : Nat) : Nat → Nat → State × Nat
  | 0, left => (s, left)
  | fuel + 1, left =>
    if left = 0 then (s, 0)
    else
      let i := s.spk.take
      let next (s : State) : State := { s with spk := { s.spk with take := (i + 1) % s.mbxN 0 } }
      match s.mbxTake with
      | (s1, .idle) => (s1, left)
      | (s1, .done node r bad) =>
        let s2 := if bad then s1.err .spk 0x84 (i % 2 ^ 14) else s1
        State.takeDown (next (s2.mbxDone i node r)) num fuel left
      | (s1, .msg m) =>
        let e := s1.spoke m.node
        let s2 := s1.setSpoke m.node { e with st := { e.st with downSeq := m.seq } }
        let s3 := next { s2 with spk := { s2.spk with down := s2.spk.down ++ [m] } }
        let fr := s3.spk.frames.length + s3.rd F.SPK_MBX_CFG_FRAMES - left
        State.takeDown (s3.sendDown num fr m) num fuel (left - 1)

/-- Nodes to poll, in round-robin order after the last one polled (R187). -/
def State.pollNodes (s : State) : List Nat :=
  let l := s.spkEnabled.filter fun n => (s.spoke n).st.wantsMbx
  l.filter (fun n => decide (s.spk.polled < n)) ++ l.filter fun n => decide (n ≤ s.spk.polled)

/-- Up descriptors that firmware has given. -/
def State.upFree (s : State) : Nat := (s.mbxTail 1 + s.mbxN 1 - s.mbxHead 1 % s.mbxN 1) % s.mbxN 1

/-- The mailbox frames of a pass: retransmissions due, then new down messages, then polls (R189). -/
def State.sendMailbox (s : State) (num : Nat) : State :=
  let k := s.rd F.SPK_MBX_CFG_FRAMES
  let base := s.spk.frames.length
  let again := (s.spk.down.filter fun x => x.due).take k
  let s1 := again.zipIdx.foldl (fun s (x : DownMsg × Nat) => s.sendDown num (base + x.2) x.1) s
  let (s2, left) := s1.takeDown num (s1.mbxN 0) (k - again.length)
  let polls := (s2.pollNodes.take left).take s2.upFree
  let s3 := polls.zipIdx.foldl (fun s (x : Nat × Nat) =>
    s.sendMbx num (base + (k - left) + x.2) 2 x.1 (mbxHeader x.1 0 0 0 0 ++ List.replicate (s.spoke x.1).cfg.upLen 0)) s2
  match polls.getLast? with
  | some n => { s3 with spk := { s3.spk with polled := n } }
  | none => s3

/-! ### The pass -/

/-- The output digest of a period (R375): 12 bytes per guard entry in ascending signal ID: signal, guarded value, status word. -/
def State.outDigest (s : State) : Nat :=
  (sha3 (s.guardBank.entries.flatMap fun e =>
    let g := (s.guardedVal e.sig).getD ⟨0, 0⟩
    leBytes 4 e.sig ++ leBytes 4 g.value.toNat ++ leBytes 4 g.qual)).toNat

/-- Keep this member's digest of a period, and send it: the active in an entry, a standby in its acknowledgement (R372, R375). -/
def State.recordDigest (s : State) (num : Nat) : State :=
  if !s.tandem then s
  else
    let d := s.outDigest
    let s1 := { s with tdm := { s.tdm with digests := (num, d) :: s.tdm.digests.take 3 } }
    if s1.following then s1.sendTdm (.ack num d) else s1.emit (.digest num d)

/-- The guard pass over T0's publication of the cycle that started at the instant has ended (R155). -/
def State.t0Ready (s : State) (inst : Nat) : Bool :=
  let t := s.task 0
  t.start / 1000 == inst / 1000 && !t.deltaZero && s.taskState 0 != 2 && !s.lpe.t0Pending && decide (t.start ≤ s.lpe.lastPass)

/-- The pass departs (R154, R155, R160, R191, R194). Log entry 38 (DEDUCED). -/
def State.depart (s : State) (inst : Nat) (late : Bool) : State :=
  let s1 := s.clearTx.commitSpk
  let s2 := match s1.spk.tbl with
    | some (op, node) => { s1 with spk := { s1.spk with tbl := none } }.tblRun op node
    | none => s1
  let stopping := s2.spk.stopLeft.isSome
  let fresh := s2.lpe.fresh && !stopping
  let num := s2.spk.next
  let s3 := (s2.sendCyclic num fresh stopping).sendMailbox num
  let eps := s3.spk.frames.filterMap fun f => if s3.frameTagged f.tagged then some (f.slot, s3.kstEpoch (16 + f.slot)) else none
  let left := s3.spk.stopLeft.map (· - 1)
  let p : Pass := { num := num, instant := inst, depart := s3.nowNs, nframe := s3.spk.frames.length, sent := s3.spk.tx.length,
                    final := left == some 0, epochs := eps }
  let s4 := { s3 with
    spk := { s3.spk with
      pass := some p, due := none, first := false, next := (num + 1) % 2 ^ 48, high := some num, departed := num, stopLeft := left },
    lpe := { s3.lpe with fresh := false } }
  let s5 := (s4.recordDigest num |>.wrB F.SPK_RING_STAT_LATE (late && !fresh)).wr F.SPK_PASS_LO_PASS (num % 2 ^ 32)
  s5.wr F.SPK_PASS_TIME_DEP (min 0xFFFF ((s5.nowNs - inst) / 1000))

/-- PASS_DEPARTURE (R28, R155): after the guard pass of a locked T0, or at the latest-start point. A locked T0 cycle not complete
there, its guard pass included, counts as an overrun (R28). -/
def execPassDeparture (s : State) : Out :=
  .next (s.whileLive .spk fun s =>
    match s.spk.due with
    | none => s
    | some inst =>
      let locked := s.bit (F.CAD_TASKn_STAT_LOCKED 0)
      let late := decide (inst + s.latestStart ≤ s.nowNs)
      let ready := locked && !s.spk.first && s.t0Ready inst
      if !s.mastering || !(ready || late) then s
      else
        let s1 := s.freezePoint .spk
        if s1.isHalted .spk then s1
        else
          let missed := locked && !s1.t0Ready inst && (s1.taskState 0 == 1 || s1.taskState 0 == 2) && !(s1.task 0).ovrThis
          (if missed then s1.overrun 0 else s1).depart inst (!ready))

/-! ## Returns (R154, R169, R178, R183, R187, R193) -/

/-- The input deadline of the pass in flight, in ns (R155). -/
def State.passDeadline (s : State) (p : Pass) : Nat := p.instant + 1000 * (s.ringPeriod - s.rd F.SPK_TIMING_GUARD)

/-- The key slot of a returned frame: of its cyclic frame, or of its node's entry. -/
def State.slotOfFrame (s : State) (b : List Byte) : Nat :=
  if hKind b = 0 then ((s.spk.frames[hFrame b]?).map (·.slot)).getD 15
  else (s.spoke (beAt (areaOf b) 0 2 % 2 ^ 10)).cfg.slot

/-- The tag of a frame verifies (R190, R193). -/
def State.tagOk (s : State) (f : SpokeFrame) : Bool :=
  match s.tagKeyFor (s.slotOfFrame f.body) (hEpoch f.body) with
  | none => false
  | some k => frameTag k f.sa f.body == tagOf f.body

/-- A returned frame was sent tagged: by its cyclic frame, or its node's entry. -/
def State.sentTagged (s : State) (b : List Byte) : Bool :=
  s.frameTagged (if hKind b = 0 then ((s.spk.frames[hFrame b]?).map (·.tagged)).getD false
    else (s.spoke (beAt (areaOf b) 0 2 % 2 ^ 10)).cfg.tagged)

/-- Accept an up message into the next up descriptor (R187, R189). -/
def State.acceptUp (s : State) (node : Nat) (a : List Byte) : State :=
  let e := s.spoke node
  let seq := beAt a 4 2
  let i := s.mbxHead 1
  if seq = e.st.upSeq || s.upFree = 0 then s
  else match s.mbxDesc 1 i with
    | (s1, none) => s1.err .spk 0x80 node
    | (s1, some d) =>
      if leAt d 0xE 1 ≠ 1 then s1
      else
        let len := beAt a 2 2
        let buf := leAt d 8 2
        let pay := (a.drop 16).take len
        let (s2, r) : State × Nat :=
          if buf < len then (s1, 4)
          else match s1.dmaWrite 3 (leAt d 0 8 % 2 ^ 40) pay with
            | (s2, true) => (s2, 1)
            | (s2, false) => (s2.err .spk 0x80 node, 5)
        let tail := leBytes 2 len ++ leBytes 2 node ++ leBytes 1 (beAt a 6 1) ++ leBytes 1 r ++ leBytes 1 0 ++ leBytes 1 (beAt a 7 1)
        let s3 := match s2.dmaWrite 3 (s2.mbxAddr 1 i + 8) tail with
          | (s3, true) => s3
          | (s3, false) => s3.err .spk 0x80 node
        let e3 := s3.spoke node
        let s4 := s3.setSpoke node { e3 with st := { e3.st with upSeq := seq } }
        let s5 := (s4.wr (F.SPK_MBXq_IDX_HEAD 1) ((i + 1) % s4.mbxN 1)).raise .spk 9
        if r = 5 then s5.raise .spk 10 else s5

/-- A copy came back looped on the port it left by: the ring is broken there; each such copy records an event (R183). Log entry 38 (DEDUCED). -/
def State.ringBreak (s : State) (b : List Byte) : State :=
  let side := if hDir b then F.SPK_BREAK_SIDE_B else F.SPK_BREAK_SIDE_A
  ((s.wr side ((hHops b + 1) / 2)).wr F.SPK_RING_STAT_BROKEN 1).raiseEv .spk 5

/-- FRAME_RETURN (R154, R193): a frame the master sourced returns at a port. -/
def execFrameReturn (port : Fin 2) (f : SpokeFrame) (s : State) : Out :=
  .next (s.whileLive .spk fun s =>
    if !s.plant || !s.ringFrame f then s
    else
      let b := f.body
      let s0 := if hTagged b then s.checkTag (s.slotOfFrame b) else s
      let s1 := if f.fcs then s0 else s0.incSat F.SPK_ERR_CNT_FCS
      let tagGood := if hTagged b then s1.tagOk f else !s1.sentTagged b
      let s2 := if tagGood then s1 else (s1.incSat F.SPK_ERR_CNT_TAG).raise .spk 11
      let own := hDir b == (port == 1)
      let s3 := if hLooped b && own then s2.ringBreak b else s2
      match s3.spk.pass with
      | none => s3.raise .spk 7
      | some p =>
        if hPass b ≠ p.num || s3.passDeadline p ≤ s3.nowNs then
          { s3 with spk := { s3.spk with pass := some { p with late := true } } }.raise .spk 7
        else
          let c : Copy := ⟨hDir b, hFrame b, b, f.fcs && tagGood, hLooped b⟩
          let p1 := { p with copies := p.copies ++ [c], lastRet := s3.nowNs }
          let s4 := { s3 with spk := { s3.spk with pass := some p1 } }
          let a := areaOf b
          let s5 := if c.intact && hKind b = 2 && (beAt a 0 2).testBit 15 then s4.acceptUp (beAt a 0 2 % 2 ^ 10) a else s4
          if p1.copies.length = p.sent && !p1.copies.any (·.looped) && s5.bit F.SPK_RING_STAT_BROKEN then
            (s5.wr F.SPK_RING_STAT_BROKEN 0).raise .spk 6
          else s5)

/-! ## Input commit (R161, R169, R170, R175, R178 to R181) -/

/-- What a station answered: DIR, status word, input data. -/
structure Answer where
  dir : Bool
  status : Nat
  data : List Byte
  deriving DecidableEq, Repr

/-- The segment of a node in a copy, if it is intact and written. -/
def answerIn (e : Spoke) (c : Copy) : Option Answer :=
  let a := areaOf c.body
  let o := e.st.segOfs + 4 + e.cfg.outLen
  let st := beAt a o 4
  if c.intact && hKind c.body == 0 && c.frame == e.st.frame && st.testBit 31 then some ⟨c.dir, st, (a.drop (o + 4)).take e.cfg.inLen⟩ else none

/-- The copy a station's input is taken from: the A-first, else the B-first (R170). -/
def answerOf (e : Spoke) (l : List Copy) : Option Answer :=
  let pick (dir : Bool) : Option Answer := ((l.filter fun c => c.dir == dir).filterMap (answerIn e)).head?
  (pick false).orElse fun _ => pick true

/-- What an input commit tells of one entry. -/
structure SpkEvt where
  miss : Bool := false
  failed : Bool := false
  recovered : Bool := false
  deriving DecidableEq, Repr

/-- Bit i of BADMASK. -/
def badItem (status i : Nat) : Bool := status.testBit i

/-- The quality of input item 16 + i of an answer in state OK (R161, R180). -/
def okQual (c : SpkCfg) (status i : Nat) : Nat :=
  let q := nbits status 28 3
  let q := if q = 0 || q = 1 || q = 2 || q = 5 then q else 5
  let q := if q = 2 && c.substBad || q = 1 && c.uncertBad then 5 else q
  if badItem status i then 5 else q

/-- The entry after an answer (R179, R181). Log entry 38 (DEDUCED). -/
def spkAnswer (c : SpkCfg) (x : SpkStat) (pass : Nat) (a : Answer) : SpkStat × SpkEvt :=
  let run := if x.state = 3 then 1 else if x.state = 4 then min 255 (x.recovRun + 1) else x.recovRun
  let st := if x.state ≤ 2 then 1 else if x.state = 3 || x.state = 4 then (if c.recover ≤ run then 1 else 4) else x.state
  let rec_ := (x.state = 3 || x.state = 4) && st = 1
  let qs := (upto 16).map fun i => let q := okQual c a.status i; if st = 4 then max 1 q else q
  ({ x with state := st, undelivered := false, lastB := a.dir, missRun := 0, recovRun := run, lastPass := pass % 2 ^ 32, lastStatus := a.status,
            data := a.data, quals := qs, wantsMbx := a.status.testBit 25 }, { recovered := rec_ })

/-- The entry after a miss (R179, R181). Log entry 38 (DEDUCED). -/
def spkMiss (c : SpkCfg) (x : SpkStat) : SpkStat × SpkEvt :=
  let run := if x.state = 1 then 1 else min 255 (x.missRun + 1)
  let out := (x.state = 0 || x.state = 2) && c.missLimit ≤ run
  let st := if x.state = 1 then 2 else if out then 3 else if x.state = 4 then 3 else x.state
  ({ x with state := st, undelivered := true, missRun := run, missTotal := (x.missTotal + 1) % 2 ^ 32,
            undelivTotal := (x.undelivTotal + 1) % 2 ^ 32, failCount := if st = 3 && x.state ≠ 3 then (x.failCount + 1) % 2 ^ 32 else x.failCount,
            recovRun := if st = 3 then 0 else x.recovRun, wantsMbx := false },
   { miss := x.state = 1, failed := out })

/-- The value of an input item (R175). -/
def takeItem (data : List Byte) (w : Nat) : Word :=
  let k := miKind w
  let v := beAt data (miOfs w) (miWidth k)
  if k = 1 then bool32 (v.testBit (miBit w)) else if k = 3 then ofI (sext 16 v) else BitVec.ofNat 32 v

/-- Quality of input item 16 + i as the entry stands (R180). -/
def itemQual (x : SpkStat) (i : Nat) : Nat :=
  let last := x.quals.getD i 0
  if x.state = 1 || x.state = 4 then last else if x.state = 2 then max 3 last else 6

/-- The value of an input item of an entry: of the data last taken; while none has been taken, the signal's last value (R180). -/
def State.itemVal (s : State) (node : Nat) (data : List Byte) (w : Nat) : Word :=
  if miOfs w + miWidth (miKind w) ≤ data.length then takeItem data w else s.lastVal (node * 2 ^ 13 + miPoint w)

/-- Deliver a station's input signals (R180): nothing in INIT. -/
def State.deliverSpoke (s : State) (node : Nat) : State :=
  let e := s.spoke node
  if e.st.state = 0 then s
  else
    let age := if e.st.state = 1 || e.st.state = 4 then 0 else e.st.missRun
    (upto 16).foldl (fun s i =>
      let w := e.cfg.map.getD (16 + i) 0
      if miKind w = 0 then s
      else s.deliverIn (node * 2 ^ 13 + miPoint w) (s.itemVal node e.st.data w) (itemQual e.st i) age) s

/-- Write an entry's status part back where it has changed since SPK last wrote it (R176). -/
def State.writeChanged (s : State) (node : Nat) : State :=
  let e := s.spoke node
  if e.mem = some (statBytes e.st) then s else s.writeBack node

/-- One entry at the input commit: state, causes, events, delivery and write-back (R169, R176, R179). Log entry 38 (DEDUCED). -/
def State.commitSpoke (s0 : State) (p : Pass) (node : Nat) : State :=
  let s := if (s0.spoke node).cfg.en then s0.useSpoke node else s0
  let e := s.spoke node
  if !e.cfg.en then (s.deliverSpoke node).writeChanged node
  else
    let (x, ev) := match answerOf e p.copies with
      | some a => spkAnswer e.cfg e.st p.num a
      | none => spkMiss e.cfg e.st
    let s1 := s.setSpoke node { e with st := x }
    let s2 := if ev.miss then s1.raise .spk 4 else s1
    let s3 := if ev.failed then s2.raiseEv .spk 2 else s2
    ((if ev.recovered then s3.raiseEv .spk 3 else s3).deliverSpoke node).writeChanged node

/-- Down messages at the commit (R186, R189): acknowledged ones complete, those of a FAILED node complete, the others wait a pass more. -/
def State.commitDown (s : State) : State :=
  s.spk.down.foldl (fun s (x : DownMsg) =>
    let st := (s.spoke x.node).st
    let drop (s : State) : State := { s with spk := { s.spk with down := s.spk.down.filter fun y => y.idx != x.idx } }
    if !st.undelivered && nbits st.lastStatus 16 8 == x.seq % 256 then (drop s).mbxDone x.idx x.node 1
    else if st.state = 3 then (drop s).mbxDone x.idx x.node 3
    else { s with spk := { s.spk with down := s.spk.down.map fun y => if y.idx == x.idx then { y with waited := y.waited + 1 } else y } }) s

/-- RETIRED halves leave at the commit of the first pass sent under the new epoch (R420). -/
def State.dropRetired (s : State) (eps : List (Nat × Nat)) : State :=
  eps.foldl (fun s (x : Nat × Nat) =>
    let n := Fin.ofNat 32 (16 + x.1)
    if s.rd (F.KST_SLOTn_STAT_SHADOW n) = 3 && s.kstEpoch n = x.2 then
      (s.setKslot n { s.kslot n with shadow := none }).wr (F.KST_SLOTn_STAT_SHADOW n) 0
    else s) s

/-- INPUT_COMMIT (R169): at the input deadline, in one step. -/
def execInputCommit (s : State) : Out :=
  .next (s.whileLive .spk fun s =>
    match s.spk.pass with
    | none => s
    | some p =>
      if s.nowNs < s.passDeadline p then s
      else
        let ret := if p.late || p.copies.length < p.sent then 0xFFFF else min 0xFFFE ((p.lastRet - p.depart) / 1000)
        let s1 := (s.wr F.SPK_PASS_TIME_RET ret).wr F.SPK_PASS_MAX_MAX (max ret (s.rd F.SPK_PASS_MAX_MAX))
        let s2 := s1.spkNodes.foldl (fun s n => s.commitSpoke p n) s1
        let s3 := ((s2.commitDown.countSpokes.showCached).dropRetired p.epochs).raise .spk 14
        let s4 := { s3 with spk := { s3.spk with pass := none } }
        if p.final then ({ s4 with spk := { s4.spk with stopLeft := none, due := none } }.wr F.SPK_RING_STAT_STATE 0).loseInstants else s4)

/-! ## Commands (R177, R186, R189, R194) -/

/-- A write of SPK_TBL_CMD: it waits for the next departure, or is carried out at once while the ring is stopped; BUSY while one waits. -/
def State.tblCmd (s : State) (m : Master) (op node : Nat) : State :=
  s.gate m .spk R.SPK_TBL_CMD fun s =>
    if s.bit F.SPK_TBL_STAT_PEND then (s.wr F.SPK_TBL_STAT_RESULT 4).raise .spk 15
    else if s.mastering then { s.wr F.SPK_TBL_STAT_PEND 1 with spk := { s.spk with tbl := some (op, node) } }
    else s.tblRun op node

/-- TBL_RELOAD (R177). -/
def execTblReload (m : Master) (node : BitVec 10) (s : State) : Out := .next (s.tblCmd m 1 node.toNat)

/-- REPACK (R162, R177). -/
def execRepack (m : Master) (s : State) : Out := .next (s.tblCmd m 2 0)

/-- MBX_TAIL (R189): TAIL hands the descriptors before it to SPK. -/
def execMbxTail (m : Master) (q : Fin 2) (tail : BitVec 16) (s : State) : Out :=
  .next (s.gate m .spk (R.SPK_MBXq_IDX q) fun s => s.wr (F.SPK_MBXq_IDX_TAIL q) tail.toNat)

/-- MBX_RETRY (R186): RETRY passes without acknowledgement; the message is sent again, or ends NO_ACK after TRIES sends. -/
def execMbxRetry (node : BitVec 10) (s : State) : Out :=
  .next (s.whileLive .spk fun s =>
    let retry := max 1 (s.rd F.SPK_MBX_CFG_RETRY)
    let tries := max 1 (s.rd F.SPK_MBX_CFG_TRIES)
    match s.spk.down.find? fun x => x.node == node.toNat with
    | none => s
    | some x =>
      if x.due || x.waited < retry then s
      else if tries ≤ x.sends then
        { s with spk := { s.spk with down := s.spk.down.filter fun y => y.idx != x.idx } }.mbxDone x.idx x.node 2
      else { s with spk := { s.spk with down := s.spk.down.map fun y => if y.idx == x.idx then { y with due := true } else y } })

/-- The master starts (R191, R194): every entry INIT, a REPACK, the pass number; the first pass at a latest-start point. -/
def State.ringStart (s : State) : State :=
  let tb3 := tbSec s.tb3 * 10000
  let num := max (match s.spk.high with | some h => h + 1 | none => 0) tb3 % 2 ^ 48
  let s1 := { s with spk := { s.spk with
    ents := [], frames := [], tbl := none, due := none, first := true, pass := none, next := num, stopLeft := none, gridAt := none, down := [], done := [],
    take := s.mbxHead 0 % s.mbxN 0, polled := 0, tagBad := [], stn := {} } }
  let (s2, r) := s1.repack
  let s3 := ((if r = 5 then (upto 1024).foldl State.writeBack s2 else s2).countSpokes).tblEnd r
  if s3.mayMaster then s3.wr F.SPK_RING_STAT_STATE 1 else s3

/-- Deliver the station's output items (R168): as taken, or, while it substitutes, the guard safe values with SUBST. -/
def State.deliverOutputs (s : State) : State :=
  let e := s.spoke s.node
  (e.cfg.map.take 16).foldl (fun s w =>
    if miKind w = 0 then s
    else
      let sig := s.node * 2 ^ 13 + miPoint w
      if s.spk.stn.subst then s.deliverIn sig (s.guardSafe sig) 2 0 else s.deliverIn sig (takeItem s.spk.stn.out w) 0 0) s

/-- The station or witness starts (R165, R166, R168): its own entry is read, and it substitutes until it first takes a copy. -/
def State.stationStart (s : State) : State :=
  let n := s.node
  let s1 := { s with spk := { s.spk with ents := [], frames := [], pass := none, stn := {} } }
  match s1.readSpoke n with
  | (s2, none) => s2.spokeBad n true
  | (s2, some c) => if c.bad then s2.spokeBad n false else (s2.setSpoke n { cfg := c }).deliverOutputs

/-- What EN = 1 does in each role; a defaulted module only forwards (R19). -/
def State.spkStart (s : State) : State := if s.plant then s.ringStart else if s.stationRole then s.stationStart else s

/-- What a requested stop does: the master sends three more passes (R194). -/
def State.spkStop (s : State) : State :=
  if s.ringState = 1 then { s.wr F.SPK_RING_STAT_STATE 2 with spk := { s.spk with stopLeft := some 3 } } else s

/-- SPK_RING_START (R194): a write of SPK_CTRL.EN = 1 in plant role. -/
def execSpkRingStart (m : Master) (s : State) : Out :=
  .next (s.gate m .spk (R.BLK_CTRL .spk) fun s =>
    if s.stopping .spk then s.err .spk 4 (woffOf .spk (R.BLK_CTRL .spk))
    else if s.en .spk || !s.plant then s
    else if s.bit (F.BLK_LOCK_CTRL_LOCK .spk) then s.err .spk 2 (woffOf .spk (R.BLK_CTRL .spk))
    else (s.wr (F.BLK_CTRL_EN .spk) 1).spkStart)

end Sys2Proof.Machine
end

