-- ==== Sys2Proof/Machine/Can.lean ====
section
/-! DEFINITION. The CAN ports: bit timing, transmission, reception, errors and the signal map (R352 to R365, R367). -/

namespace Sys2Proof.Machine

def State.canPort (s : State) (p : Fin 4) : CanPort := s.can[p]
def State.setCan (s : State) (p : Fin 4) (x : CanPort) : State := { s with can := s.can.set p x }

/-- Data bytes that a DLC means (R353). -/
def dlcBytes (fd : Bool) (d : Nat) : Nat := if d ≤ 8 then d else if fd then [12, 16, 20, 24, 32, 48, 64].getD (d - 9) 64 else 8

def canFdf (idw : Word) : Bool := bitAt idw 31
def canRtr (idw : Word) : Bool := bitAt idw 30
def canIde (idw : Word) : Bool := bitAt idw 29

/-! ## Bit timing (R354, R355) -/

/-- The timing fields keep their ranges, the bit lengths and the jump-width rule. -/
def State.canTimingOk (s : State) (p : Fin 4) : Bool :=
  let prop := s.rd (F.CAN_NBT_PROP p); let ph1 := s.rd (F.CAN_NBT_PH1 p); let ph2 := s.rd (F.CAN_NBT_PH2 p); let sjw := s.rd (F.CAN_NBT_SJW p)
  let dprop := s.rd (F.CAN_DBT_DPROP p); let d1 := s.rd (F.CAN_DBT_DPH1 p); let d2 := s.rd (F.CAN_DBT_DPH2 p); let dj := s.rd (F.CAN_DBT_DSJW p)
  (1 ≤ prop && prop ≤ 64) && (1 ≤ ph1 && ph1 ≤ 32) && (2 ≤ ph2 && ph2 ≤ 31) && 1 ≤ sjw && sjw ≤ min ph1 ph2 && 8 ≤ 1 + prop + ph1 + ph2 &&
  1 ≤ d1 && (1 ≤ d2 && d2 ≤ 16) && (1 ≤ dj && dj ≤ 16) && dj ≤ min d1 d2 && 5 ≤ 1 + dprop + d1 + d2 &&
  (!s.bit (F.CAN_TDC_TDC_EN p) || decide (s.rd (F.CAN_DBT_DBRPM1 p) ≤ 1))

/-! ## Fault confinement (R362) -/

def State.canState (s : State) (p : Fin 4) : Nat := s.rd (F.CAN_ERR_STATE p)

/-- STATE takes a value, mirrored in BLK_STATUS; a change raises ERR_STATE, and entering bus-off also records an event. -/
def State.setCanState (s : State) (p : Fin 4) (st : Nat) : State :=
  if s.canState p = st then s
  else
    let s1 := (s.wr (F.CAN_ERR_STATE p) st).wr ⟨R.BLK_STAT (.can p), 8, 2⟩ st
    if st = 2 then (s1.incSat (F.CAN_ERR_BOFF_CNT p)).raiseEv (.can p) 6 else s1.raise (.can p) 6

/-- STATE as the counters give it while the port is not bus-off. Log entry 50 (PRESUMED). -/
def State.confine (s : State) (p : Fin 4) : State :=
  s.setCanState p (if 127 < s.rd (F.CAN_ERR_TEC p) || 127 < s.rd (F.CAN_ERR_REC p) then 1 else 0)

/-! ## Transmission (R357, R358) -/

/-- State of buffer `b`: 0 IDLE, 1 PENDING, 2 DONE, 3 ABORTED. -/
def txFld (p : Fin 4) (b : Nat) : Fld := ⟨R.CAN_TX_STAT p, 2 * b, 2⟩
def State.txState (s : State) (p : Fin 4) (b : Nat) : Nat := s.rd (txFld p b)

/-- A buffer takes a state; its REQ bit reads 1 while it is PENDING. -/
def State.setTxState (s : State) (p : Fin 4) (b st : Nat) : State := (s.wr (txFld p b) st).wrB ⟨R.CAN_TX_CMD p, b, 1⟩ (st == 1)

/-- A request of a frame through buffer `b`: refused with code 0x82 (R356, R358). -/
def State.txRequest (s : State) (p : Fin 4) (b : Fin 3) (x : CanBuf) : State :=
  if s.bit (F.CAN_CFG_LISTEN p) || (canFdf x.idw && (canRtr x.idw || !s.bit (F.CAN_CFG_FD_EN p))) then s.err (.can p) 0x82 b
  else (s.setCan p { s.canPort p with bufs := (s.canPort p).bufs.set b x }).setTxState p b 1

/-- Of the mapped frames that wait, the first that is not refused is requested through buffer 2 (R365). -/
def State.mapGo (s : State) (p : Fin 4) : List (Nat × CanBuf) → State
  | [] => s.setCan p { s.canPort p with mapCur := none, mapDue := [] }
  | (e, x) :: t =>
    let s1 := (s.setCan p { s.canPort p with mapDue := t, mapCur := some e }).txRequest p 2 x
    if s1.txState p 2 = 1 then s1 else s1.mapGo p t

/-- The next mapped frame that waits is requested once buffer 2 is free (R365). -/
def State.mapNext (s : State) (p : Fin 4) : State := if s.txState p 2 = 1 then s else s.mapGo p (s.canPort p).mapDue

/-- A buffer ends (R358): DONE with TX_DONE, ABORTED with TX_ABORTED. -/
def State.txEnd (s : State) (p : Fin 4) (b st : Nat) : State :=
  let s1 := (s.setTxState p b st).raise (.can p) (if st = 2 then 4 else 5)
  if b = 2 then s1.mapNext p else s1

/-- Every PENDING buffer ends ABORTED (R362, R367). -/
def State.abortAll (s : State) (p : Fin 4) : State :=
  (upto 3).foldl (fun (s : State) b => if s.txState p b = 1 then (s.setTxState p b 3).raise (.can p) 5 else s)
    (s.setCan p { s.canPort p with onBus := none, aborts := 0, mapDue := [], mapCur := none })

/-- A frame record's data bytes. -/
def State.frameAt (s : State) (a : Nat) : CanBuf :=
  { idw := s.regGet a, ctl := s.regGet (a + 4), data := (upto 16).flatMap fun k => leBytes 4 (s.regGet (a + 0x10 + 4 * k)).toNat }

/-- TX_REQ (R357, R358). -/
def execTxReq (m : Master) (p : Fin 4) (b : Fin 3) (s : State) : Out :=
  .next (s.gate m (.can p) (R.CAN_TX_CMD p) fun s =>
    if s.txState p b = 1 then s
    else if b = 2 && s.bit (F.CAN_CFG_MAP_EN p) then s.err (.can p) 0x82 b
    else s.txRequest p b (s.frameAt ((Blk.can p).base + 0x200 + 0x50 * b)))

/-- TX_ABORT (R358). -/
def execTxAbort (m : Master) (p : Fin 4) (b : Fin 3) (s : State) : Out :=
  .next (s.gate m (.can p) (R.CAN_TX_CMD p) fun s =>
    if s.txState p b ≠ 1 then s
    else if (s.canPort p).onBus = some b.val then s.setCan p { s.canPort p with aborts := setMark (s.canPort p).aborts b true }
    else s.txEnd p b 3)

/-- The arbitration field as a number, dominant bits 0: the lower wins. -/
def arbKey (idw : Word) : Nat :=
  let id := getBits idw 0 29
  let hi := id / 2 ^ 18 * 2 ^ 21
  if canIde idw then hi + 2 ^ 20 + 2 ^ 19 + 2 * (id % 2 ^ 18) + b2n (canRtr idw) else hi + 2 ^ 20 * b2n (canRtr idw)

/-- The buffer an attempt chooses (R357). -/
def State.txChoice (s : State) (p : Fin 4) : Option (Fin 3) :=
  let l : List (Fin 3) := (List.finRange 3).filter fun (b : Fin 3) => s.txState p b.val == 1
  if s.bit (F.CAN_CFG_TX_ORDER p) then l.head?
  else
    let key (b : Fin 3) : Nat := arbKey ((s.canPort p).bufs[b]).idw
    l.find? fun b => l.all fun c => decide (key b ≤ key c)

/-- TX_ATTEMPT (R357, R367): the RWS fields commit, and the chosen frame goes on the bus. -/
def execTxAttempt (p : Fin 4) (s : State) : Out :=
  .next (s.whileLive (.can p) fun s =>
    if !s.runs (.can p) || s.canState p = 2 || (s.canPort p).onBus.isSome || s.bit (F.CAN_CFG_LISTEN p) then s
    else if (upto 3).all fun b => s.txState p b != 1 then s
    else
      let s1 := (s.commitBlk (.can p)).freezePoint (.can p)
      if s1.isHalted (.can p) then s1
      else
        match s1.txChoice p with
        | none => s1
        | some b => s1.setCan p { s1.canPort p with onBus := some b.val })

/-- TX_FRAME_END (R355, R358): the frame on the bus ends valid, or lost arbitration or met an error; TDCV is the loop delay measured in
an FD frame with BRS; whether one that did not end valid had reached its FDF-to-res edge is open. Log entry 50 (PRESUMED). -/
def execTxFrameEnd (p : Fin 4) (ok : Bool) (tdcv : BitVec 7) (s : State) : Out :=
  .next (s.whileLive (.can p) fun s =>
    match (s.canPort p).onBus with
    | none => s
    | some b =>
      let x := (s.canPort p).bufs[b]?.getD {}
      let ab := (s.canPort p).aborts.getLsbD b
      let s1 := s.setCan p { s.canPort p with onBus := none, aborts := 0 }
      let (d, s1) := if ok then (1, s1) else s1.draw
      let s2 := if canFdf x.idw && bitAt x.ctl 4 && d % 2 == 1 then s1.wr (F.CAN_TDC_TDCV p) tdcv.toNat else s1
      if ok then
        let s3 := (s2.wr (F.CAN_ERR_TEC p) (s2.rd (F.CAN_ERR_TEC p) - 1)).confine p
        s3.txEnd p b 2
      else if ab || s2.bit (F.CAN_CFG_ONE_SHOT p) then s2.txEnd p b 3
      else s2)

/-! ## Errors (R361, R362) -/

/-- Bus-off (R362). Log entry 50 (PRESUMED). -/
def State.busOff (s : State) (p : Fin 4) : State := ((s.abortAll p).wr (F.CAN_ERR_TEC p) 255).setCanState p 2

/-- A bus error (R361, R362): LEC and the counters; a listening port keeps its counters. -/
def State.busError (s : State) (p : Fin 4) (lec : Fin 7) (kind : CanErrKind) : State :=
  let s1 := s.wr (F.CAN_ERR_LEC p) lec
  if s1.bit (F.CAN_CFG_LISTEN p) then s1
  else
    let rec_ (k : Nat) : State := (s1.wr (F.CAN_ERR_REC p) (min 255 (s1.rd (F.CAN_ERR_REC p) + k))).confine p
    match kind with
    | .none => s1
    | .rx1 => rec_ 1
    | .rx8 => rec_ 8
    | .tx8 => if 255 < s1.rd (F.CAN_ERR_TEC p) + 8 then s1.busOff p else (s1.wr (F.CAN_ERR_TEC p) (s1.rd (F.CAN_ERR_TEC p) + 8)).confine p

/-- CAN_BUS_ERROR (R361, R362). -/
def execCanBusError (p : Fin 4) (lec : Fin 7) (kind : CanErrKind) (s : State) : Out :=
  .next (s.whileLive (.can p) fun s => if !s.en (.can p) || s.canState p = 2 then s else s.busError p lec kind)

/-- BUS_OFF_RECOVERY (R362): after 128 occurrences of 11 recessive bits the port is error active again. -/
def execBusOffRecovery (p : Fin 4) (s : State) : Out :=
  .next (s.whileLive (.can p) fun s =>
    if !s.en (.can p) || s.canState p ≠ 2 || !(s.bit (F.CAN_CFG_AUTO_RECOV p) || (s.canPort p).recov) then s
    else (((s.setCan p { s.canPort p with recov := false }).wr (F.CAN_ERR_TEC p) 0).wr (F.CAN_ERR_REC p) 0).setCanState p 0)

/-! ## The signal map (R363 to R365) -/

/-- Signal of map entry `e` of port `p`. -/
def State.canSig (s : State) (p : Fin 4) (e : Nat) : Nat := s.ownSig (0x1A00 + 0x40 * p + e)

def entUsed (x : CanMapEnt) : Bool := x.frame.testBit 31
def entTx (x : CanMapEnt) : Bool := x.frame.testBit 30
def entKind (x : CanMapEnt) : Nat := nbits x.fmt 0 3
def entBit (x : CanMapEnt) : Nat := nbits x.fmt 3 3
def entBe (x : CanMapEnt) : Bool := x.fmt.testBit 6

/-- An item's place in the data: the entry of a spoke map with the same kind (R174), at offset 0 of its own bytes. -/
def entItem (x : CanMapEnt) : Nat := entKind x * 2 ^ 18 + entBit x * 2 ^ 21

/-- The bytes of an item, most significant first. -/
def entBytes (x : CanMapEnt) (data : List Byte) : List Byte :=
  let bs := (data.drop x.ofs).take (miWidth (entKind x))
  if entBe x then bs else bs.reverse

/-- An item of a received frame (R175). -/
def entTake (x : CanMapEnt) (data : List Byte) : Word := takeItem (entBytes x data) (entItem x)

/-- An item put into a frame (R175); one that does not fit its data is left out. -/
def entPut (x : CanMapEnt) (data : List Byte) (v : Word) : List Byte :=
  let w := miWidth (entKind x)
  if data.length < x.ofs + w then data
  else
    let bs := putItem (entBytes x data) (entItem x) v
    patch data x.ofs (if entBe x then bs else bs.reverse)

def State.mapBase (s : State) (p : Fin 4) : Nat := s.rd (F.CAN_MAP_BASE_LO_BASE_LO p) * 2 ^ 10 + s.rd (F.CAN_MAP_BASE_HI_BASE_HI p) * 2 ^ 32

/-- One entry of the map: none where its check fails or it cannot be read (R363). -/
def State.mapEntry (s : State) (p : Fin 4) (e : Nat) : State × Option CanMapEnt :=
  match s.dmaRead (8 + p) (s.mapBase p + 16 * e) 16 with
  | (s1, none) => (s1, none)
  | (s1, some b) =>
    if leAt b 12 4 ≠ (crc32 (b.take 12)).toNat then (s1, none)
    else (s1, some { frame := leAt b 0 4, ofs := leAt b 4 1, fmt := leAt b 5 1, time := leAt b 6 2, dlc := leAt b 8 1 % 16, flags := leAt b 9 1,
                     lastRx := s1.nowNs, due := s1.nowMs / max 1 (leAt b 6 2) })

/-- The map read at EN = 1: its entries, or the entry that was refused (R363). Log entry 50 (PRESUMED). -/
def State.readMap (s : State) (p : Fin 4) : State × Except Nat (List CanMapEnt) :=
  (upto (min 64 (s.rd (F.CAN_MAP_BASE_HI_N_ENT p)))).foldl
    (fun (r : State × Except Nat (List CanMapEnt)) e =>
      match r.2 with
      | .error _ => r
      | .ok l =>
        match r.1.mapEntry p e with
        | (s1, some x) => (s1, .ok (l ++ [x]))
        | (s1, none) => (s1, .error e)) (s, .ok [])

/-- A write of EN = 1 (R354, R362, R363): refused with code 0x80 or 0x83, or the map is taken and recovery from bus-off is allowed. -/
def State.canEnable (s : State) (p : Fin 4) : State × Bool :=
  if !s.canTimingOk p then (s.err (.can p) 0x80 (woffOf (.can p) (R.BLK_CTRL (.can p))), false)
  else
    let go (s : State) (l : List CanMapEnt) : State × Bool := (s.setCan p { s.canPort p with map := l, recov := s.canState p == 2 }, true)
    if !s.bit (F.CAN_CFG_MAP_EN p) then go s []
    else
      match s.readMap p with
      | (s1, .ok l) => go s1 l
      | (s1, .error e) => (s1.err (.can p) 0x83 e, false)

def State.setEnt (s : State) (p : Fin 4) (e : Nat) (f : CanMapEnt → CanMapEnt) : State :=
  s.setCan p { s.canPort p with map := updAt (s.canPort p).map e f }

/-- Entry `e` takes its item of a frame: GOOD, or BAD beyond the received length (R364). -/
def State.mapTake (s : State) (p : Fin 4) (e : Nat) (x : CanMapEnt) (data : List Byte) : State :=
  let s1 := s.setEnt p e fun (x : CanMapEnt) => { x with lastRx := s.nowNs, stale := false }
  if entKind x = 0 || 5 < entKind x then s1
  else if data.length < x.ofs + miWidth (entKind x) then
    let (v, s2) := s1.draw
    (s2.setEnt p e fun (x : CanMapEnt) => { x with kept := BitVec.ofNat 32 v }).deliverIn (s2.canSig p e) (BitVec.ofNat 32 v) 5 0
  else (s1.setEnt p e fun (y : CanMapEnt) => { y with kept := entTake x data }).deliverIn (s1.canSig p e) (entTake x data) 0 0

/-- The RX entries that a frame matches. -/
def State.mapHits (s : State) (p : Fin 4) (idw : Word) : List (Nat × CanMapEnt) :=
  if !s.bit (F.CAN_CFG_MAP_EN p) then []
  else ((s.canPort p).map.zipIdx.map fun (x, e) => (e, x)).filter fun (_, x) => entUsed x && !entTx x && x.frame % 2 ^ 30 == getBits idw 0 30

/-- MAP_STALE (R364): no matching frame for TIME ms. -/
def execMapStale (p : Fin 4) (e : Fin 64) (s : State) : Out :=
  .next (s.whileLive (.can p) fun s =>
    match (s.canPort p).map[e.val]? with
    | none => s
    | some x =>
      if !s.runs (.can p) || !entUsed x || entTx x || x.time = 0 || x.stale || s.nowNs < x.lastRx + 1000000 * x.time then s
      else
        let s1 := s.setEnt p e fun (x : CanMapEnt) => { x with stale := true }
        (s1.deliverIn (s1.canSig p e) x.kept 3 0).raise (.can p) 7)

/-- The frame of the TX entries that share the FRAME word of `x` (R365). Log entry 50 (PRESUMED). -/
def State.mapFrame (s : State) (p : Fin 4) (x : CanMapEnt) : CanBuf :=
  let fd := x.flags.testBit 0
  let data := (s.canPort p).map.zipIdx.foldl (fun bs (y, e) =>
    if y.frame = x.frame && 1 ≤ entKind y && entKind y ≤ 5 then entPut y bs (((s.guardedVal (s.canSig p e)).map (·.value)).getD 0) else bs)
    (List.replicate (dlcBytes fd x.dlc) 0)
  { idw := BitVec.ofNat 32 (x.frame % 2 ^ 30 + 2 ^ 31 * b2n fd), ctl := BitVec.ofNat 32 (x.dlc + 16 * b2n (x.flags.testBit 1)), data := data }

/-- Entry `e` is the lowest of a mapped frame that is due: the frame, and its due instant in units of TIME (R365). -/
def State.mapTxDue (s : State) (p : Fin 4) (e : Nat) : Option (CanMapEnt × Nat) :=
  match (s.canPort p).map[e]? with
  | none => none
  | some x =>
    let lowest := ((s.canPort p).map.take e).all fun y => y.frame != x.frame
    let due := s.nowMs / max 1 x.time
    if !entUsed x || !entTx x || x.time = 0 || !lowest || due = x.due then none else some (x, due)

/-- A due frame waits for buffer 2; the instant is dropped while that frame is still PENDING (R365). -/
def State.mapQueue (s : State) (p : Fin 4) (e : Nat) : State :=
  match s.mapTxDue p e with
  | none => s
  | some (x, due) =>
    let s1 := s.setEnt p e fun (x : CanMapEnt) => { x with due := due }
    let c := s1.canPort p
    if c.mapCur = some e || c.mapDue.any (fun (k, _) => k == e) then s1
    else s1.setCan p { c with mapDue := c.mapDue ++ [(e, s1.mapFrame p x)] }

/-- MAP_TX_PERIOD (R365): a due instant of the frame whose lowest entry is `e`; frames of lower entries that are due go before it. -/
def execMapTxPeriod (p : Fin 4) (e : Fin 64) (s : State) : Out :=
  .next (s.whileLive (.can p) fun s =>
    if !s.runs (.can p) || s.suppressed || !s.bit (F.CAN_CFG_MAP_EN p) || (upto (e.val + 1)).all (fun k => (s.mapTxDue p k).isNone) then s
    else ((upto (e.val + 1)).foldl (fun (s : State) k => s.mapQueue p k) s).mapNext p)

/-! ## Reception (R359 to R361) -/

/-- Write a frame into receive entry `i` (R356); the data bytes beyond LEN are open. -/
def State.putRx (s : State) (p : Fin 4) (i : Nat) (f : CanFrame) (stamp : Nat) : State :=
  let a := (Blk.can p).base + 0x1000 + 0x50 * i
  let (v, s0) := s.draw
  let data := (f.data ++ leBytes 64 v).take 64
  let tb := s0.rd (F.CAN_CFG_TB p)
  let ctl := f.dlc.toNat + 16 * b2n f.brs + 32 * b2n f.esi + 64 * tb + 256 * f.data.length
  let s1 := ((s0.regPut a f.idw).regPut (a + 4) (BitVec.ofNat 32 ctl)).regPut (a + 8) (BitVec.ofNat 32 stamp)
  (upto 16).foldl (fun (s : State) k => s.regPut (a + 0x10 + 4 * k) (BitVec.ofNat 32 (leAt data (4 * k) 4))) s1

/-- A successful reception lowers REC (R362, ISO 11898-1): above 127 it takes a value from 119 to 127. Log entry 50 (PRESUMED). -/
def State.rxGood (s : State) (p : Fin 4) : State :=
  let r := s.rd (F.CAN_ERR_REC p)
  if s.bit (F.CAN_CFG_LISTEN p) then s
  else if 127 < r then let (v, s1) := s.draw; (s1.wr (F.CAN_ERR_REC p) (119 + v % 9)).confine p
  else (s.wr (F.CAN_ERR_REC p) (r - 1)).confine p

/-- CAN_RX_FRAME (R352, R359, R364): a frame is valid; `age` ns have passed since its start-of-frame bit. An FD frame while FD_EN is 0 is
a form error. -/
def execCanRxFrame (p : Fin 4) (f : CanFrame) (age : Nat) (s : State) : Out :=
  .next (s.whileLive (.can p) fun s =>
    if !s.en (.can p) || s.canState p = 2 then s
    else if canFdf f.idw && !s.bit (F.CAN_CFG_FD_EN p) then s.busError p 2 .rx1
    else
      let n := if canRtr f.idw && !canFdf f.idw then 0 else dlcBytes (canFdf f.idw) f.dlc.toNat
      let f := { f with data := f.data.take n ++ List.replicate (n - f.data.length) 0 }
      let s1 := s.rxGood p
      let hits := s1.mapHits p f.idw
      if !hits.isEmpty then hits.foldl (fun (s : State) (e, x) => s.mapTake p e x f.data) s1
      else
        let held := s1.rd (F.CAN_RX_IDX_HELD p)
        if 64 ≤ held then (s1.incSat (F.CAN_RX_OVF_OVF p)).raise (.can p) 3
        else
          let stamp := tbNs (s1.tbAt (s1.rd (F.CAN_CFG_TB p)) (s1.tb2 - age * unitsPerNs)) % 2 ^ 32
          let s2 := (s1.putRx p (s1.rd (F.CAN_RX_IDX_WR p)) f stamp).incWrap (F.CAN_RX_IDX_WR p)
          let s3 := s2.wr (F.CAN_RX_IDX_HELD p) (held + 1)
          if held = 0 then s3.raise (.can p) 2 else s3)

/-- RX_ACK (R360). -/
def execRxAck (m : Master) (p : Fin 4) (k : BitVec 7) (s : State) : Out :=
  .next (s.gate m (.can p) (R.CAN_RX_ACK p) fun s =>
    let held := s.rd (F.CAN_RX_IDX_HELD p)
    if k = 0 || held < k.toNat then s.err (.can p) 0x81 (woffOf (.can p) (R.CAN_RX_ACK p))
    else (s.wr (F.CAN_RX_IDX_HELD p) (held - k.toNat)).wr (F.CAN_RX_IDX_RD p) ((s.rd (F.CAN_RX_IDX_RD p) + k.toNat) % 64))

/-- The stop boundary: every PENDING buffer ends ABORTED (R367). -/
def State.canStop (s : State) (p : Fin 4) : State := s.abortAll p

end Sys2Proof.Machine
end

