-- ==== Sys2Proof/Machine/Kst.lean ====
section
/-! DEFINITION. The key store: roots and derivation, key slots, authorisation tokens, the life cycle (R406 to R429). -/

namespace Sys2Proof.Machine

/-! ## Roots and derivation (R410, R414) -/

/-- The bytes of an ASCII string. -/
def asciiBytes (t : String) : List Byte := t.toList.map fun c => BitVec.ofNat 8 c.toNat

/-- All bits of a root burned. -/
def rootDead : Nat := 2 ^ 256 - 1

/-- Bank `b` of root `r` (0 TEST, 1 MFG, 2 OWNER, 3 RMA). -/
def State.rootBank (s : State) (r b : Nat) : Option (Nat × Bool) := Sparse.get s.kst.banks none (2 * r + b)
def State.setBankOtp (s : State) (r b : Nat) (v : Option (Nat × Bool)) : State :=
  { s with kst := { s.kst with banks := Sparse.put s.kst.banks none (2 * r + b) v } }

/-- A complete bank with a live root. -/
def liveBank (x : Option (Nat × Bool)) : Option (List Byte) :=
  match x with
  | some (v, true) => if v = rootDead then none else some (leBytes 32 v)
  | _ => none

/-- A root, where it is present: the bank burned last that is complete (R412). Log entry 52 (DEDUCED). -/
def State.root (s : State) (r : Nat) : Option (List Byte) :=
  match liveBank (s.rootBank r 1) with
  | some x => some x
  | none => liveBank (s.rootBank r 0)

/-- The number of steps burned: a step bit is the majority of its three copies (R410). -/
def Kst.steps (k : Kst) : Nat := (k.stepBits.toList.filter fun b => decide (2 ≤ (upto 3).foldl (fun n i => n + b2n (b.getLsbD i)) 0)).length

/-! ## The engine's requests (R408) -/

/-- It is a request's turn: it is in service, or the engine is idle. Log entry 52 (DEDUCED). -/
def State.kstTurn (s : State) (r : KstReq) : Bool :=
  match s.kst.reqs with
  | [] => true
  | x :: _ => x.2 == r

/-- Place a nonce of the event recorder, or none (R403). Log entry 51 (DEDUCED). -/
def State.setEvrNonce (s : State) (v : Option Nat) : State :=
  (upto 8).foldl (fun (s : State) k => s.regPut (R.EVR_NONCEk k) (BitVec.ofNat 32 (v.getD 0 / 2 ^ (32 * k))))
    { s with evr := { s.evr with nonce := v, nonceAt := s.nowNs } }

/-- Health tests passing (R407). -/
def State.entropyOk (s : State) : Bool := s.bit F.KST_LC_ENTROPY_OK

/-- A fresh random number of 256 bits. -/
def State.random (s : State) : Nat × State := let (v, s1) := s.draw; (v % 2 ^ 256, s1)

/-- The engine makes the recorder's nonce, unless it has no entropy (R403, R407). -/
def State.serveNonce (s : State) : State := if !s.entropyOk then s else let (v, s1) := s.random; s1.setEvrNonce (some v)

/-- The service of a request ends; nonces that are next are made. -/
def State.endKst (s : State) (r : KstReq) : State :=
  match s.kst.reqs with
  | [] => s
  | x :: t =>
    if x.2 ≠ r then s
    else
      let ns := t.takeWhile fun y => y.2 == .nonce
      ns.foldl (fun (s : State) _ => s.serveNonce) { s with kst := { s.kst with reqs := t.drop ns.length } }

/-- The life-cycle state in effect (R410). -/
def State.lc (s : State) : Nat := s.rd F.KST_LC_STATE
def State.dbgEn (s : State) : Bool := s.bit F.KST_LC_DBG_EN
def State.dbgAttached (s : State) : Bool := s.bit F.KST_LC_DBG_ATTACHED

/-- The roots of the ordinary and the privileged channels (R410). -/
def State.ordRoot (s : State) : Option (List Byte) :=
  if s.lc = 1 then s.root 0 else if s.lc = 2 || s.lc = 3 then s.root 2 else if s.lc = 4 && s.dbgEn then s.root 0 else none
def State.privRoot (s : State) : Option (List Byte) :=
  if s.lc = 1 then s.root 1 else if s.lc = 2 || s.lc = 3 then s.root 2 else if s.lc = 4 then s.root 3 else none

/-- A derived 256-bit key (R414). -/
def kdf (root ctx : List Byte) (name : String) : List Byte := leBytes 32 (kmac256 root ctx (asciiBytes name)).toNat

/-- The keys of the ordinary channels (R414, R416). -/
def State.deriveOrd (s : State) : State :=
  { s with kst := { s.kst with
    storeKey := s.ordRoot.map fun r => kdf r [] "ZTM slot store"
    logKey := s.ordRoot.map fun r => kdf r [] "ZTM event log" } }

/-! ## Slots (R417 to R421) -/

def mkHalf (key pub : List Byte) : KeyHalf := { key := key, pub := pub, check := (sha3 key).toNat }

def isPrivate (n : Nat) : Bool := n < 8
def isPublic (n : Nat) : Bool := decide (8 ≤ n) && decide (n < 16)
def isSym (n : Nat) : Bool := 16 ≤ n

def State.setSlotStat (s : State) (n : Fin 32) (st origin : Nat) : State :=
  (s.wr (F.KST_SLOTn_STAT_STATE n) st).wr (F.KST_SLOTn_STAT_ORIGIN n) origin
def State.shadowStat (s : State) (n : Fin 32) : Nat := s.rd (F.KST_SLOTn_STAT_SHADOW n)

/-- The active half of a slot for a use: EMPTY, BAD_SLOT_STATE, or the key (R418). -/
def State.useSlot (s : State) (n : Fin 32) : State × Except Nat KeyHalf :=
  if s.kstState n = 2 then (s, .error 3)
  else
    match s.kstState n, (s.kslot n).active with
    | 1, some h => if h.ok then (s, .ok h) else (s.markBad n, .error 3)
    | _, _ => (s, .error 4)

/-- A shadow takes a key: LOADED (R419). -/
def State.loadShadow (s : State) (n : Fin 32) (h : KeyHalf) (origin : Nat) (proof : List Byte) : State :=
  (s.setKslot n { s.kslot n with shadow := some h, shOrigin := origin, proof := proof }).wr (F.KST_SLOTn_STAT_SHADOW n) 1

/-- The shadow becomes EMPTY. -/
def State.dropShadow (s : State) (n : Fin 32) : State :=
  (s.setKslot n { s.kslot n with shadow := none, shOrigin := 0, proof := [] }).wr (F.KST_SLOTn_STAT_SHADOW n) 0

/-- A slot is zeroised: both halves EMPTY. -/
def State.zeroSlot (s : State) (n : Fin 32) : State := ((s.setKslot n {}).wr (F.KST_SLOTn_STAT_SHADOW n) 0).setSlotStat n 0 0

def allSlotNos : List (Fin 32) := List.finRange 32
/-- Slots 2 to 31, which the slot store holds. -/
def storedSlots : List (Fin 32) := allSlotNos.filter fun n => 2 ≤ n.val

/-- Write the slot store over the older copy (R421). -/
def State.storeKeys (s : State) (key : List Byte) (l : List StoredKey) : State :=
  let sa := (s.nand.slotsA.map (·.seq)).getD 0
  let sb := (s.nand.slotsB.map (·.seq)).getD 0
  let x : SlotStore := { seq := max sa sb + 1, key := key, keys := l }
  if sb < sa then { s with nand := { s.nand with slotsB := some x } } else { s with nand := { s.nand with slotsA := some x } }

/-- Persist the active halves (R420, R421); not without a root (R416). -/
def State.persist (s : State) : State :=
  match s.kst.storeKey with
  | none => s
  | some k => s.storeKeys k (storedSlots.map fun (n : Fin 32) => ⟨n.val, (s.kslot n).active, s.kstEpoch n, s.rd (F.KST_SLOTn_STAT_ORIGIN n)⟩)

/-- Private slot 0 or 1 from its channel (R415). -/
def State.deriveFixed (s : State) (n : Fin 32) : State :=
  match s.privRoot with
  | none => s.zeroSlot n
  | some r =>
    let seed := kmac256 r [] (asciiBytes (if n = 0 then "ZTM attest" else "ZTM metering seal"))
    (s.setKslot n { active := some (mkHalf (mldsaPrivate seed) (mldsaPublic seed)) }).setSlotStat n 1 1

/-- The device serial (R415). -/
def State.serial (s : State) : Nat := leNat ((upto 4).flatMap fun k => leBytes 4 (s.regGet (R.KST_SERIALk k)).toNat)

def State.showSerial (s : State) : State :=
  let v := match (s.kslot 0).active with
    | some h => (sha3 h.pub).toNat
    | none => 0
  (upto 4).foldl (fun (s : State) k => s.regPut (R.KST_SERIALk k) (BitVec.ofNat 32 (v / 2 ^ (32 * k)))) s

/-! ## Nonces and tokens (R424) -/

def State.setKstNonce (s : State) (v : Option Nat) : State :=
  (upto 8).foldl (fun (s : State) k => s.regPut (R.KST_NONCEk k) (BitVec.ofNat 32 (v.getD 0 / 2 ^ (32 * k))))
    { s with kst := { s.kst with nonce := v, nonceAt := s.nowNs } }

def tokenSize : Nat := 6276
def tokPayload (t : List Byte) (o n : Nat) : List Byte := (t.drop (0x50 + o)).take n
def tokNonce (t : List Byte) : List Byte := (t.drop 0x20).take 32
def tokTarget (t : List Byte) : Nat := leAt t 0xC 4

/-- The signature of a token under a public key. -/
def tokSigOk (t pub : List Byte) : Bool :=
  mldsaVerify pub (sha3 (t.take (0x50 + leAt t 0x40 4))) ((t.drop 0xF10).take 2420)

/-- The fields that give BAD_TOKEN. -/
def State.tokFieldsOk (s : State) (t : List Byte) (op : Nat) (target : Nat → Bool) (len : Nat → Nat) : Bool :=
  leAt t 0 4 == 0x4854555A && leAt t 4 4 == 1 && leAt t 8 4 == op && target (tokTarget t) && leAt t 0x10 16 == s.serial &&
  leAt t 0x40 4 == len (tokTarget t) && ((t.drop 0x44).take 12).all (· == 0)

/-- Check a token in the order of R424; the command consumes the nonce. `signer` answers the public key, or a refusal of its own.
Log entry 52 (DEDUCED). -/
def State.checkToken (s : State) (j : KstJob) (target : Nat → Bool) (len : Nat → Nat)
    (signer : State → List Byte → State × Except Nat (List Byte)) : State × Except Nat (List Byte) :=
  let n := if s.nowNs < s.kst.nonceAt + 60000000000 then s.kst.nonce else none
  match (s.setKstNonce none).dmaRead 13 j.arg tokenSize with
  | (s1, none) => (s1, .error 14)
  | (s1, some t) =>
    if !s1.tokFieldsOk t j.op target len then (s1, .error 5)
    else if n ≠ some (leNat (tokNonce t)) then (s1, .error 7)
    else
      match signer s1 t with
      | (s2, .error e) => (s2, .error e)
      | (s2, .ok pub) => if tokSigOk t pub then (s2, .ok t) else (s2, .error 6)

/-- The owner key: public slot 0 (R411, R417). -/
def State.ownerKey (s : State) (_t : List Byte) : State × Except Nat (List Byte) :=
  match s.useSlot 8 with
  | (s1, .ok h) => (s1, .ok h.key)
  | (s1, .error e) => (s1, .error e)

/-! ## The commands (R409 to R427) -/

/-- A write of KST_CMD with GO = 1 (R429): monitor only; BUSY while PEND is 1. Log entry 52 (DEDUCED). -/
def State.kstCmd (s : State) (m : Master) (op : Nat) (slot : Fin 32) : State :=
  s.gate m .kst R.KST_CMD fun s =>
    if s.bit F.KST_RES_PEND then (((s.wr F.KST_RES_RESULT 1).wr F.KST_RES_SLOT slot).raise .kst 2).err .kst 0x80 1
    else
      let job : KstJob := ⟨op, slot, s.rd64 R.KST_ARG_LO R.KST_ARG_HI, s.rd64 R.KST_OUT_LO R.KST_OUT_HI⟩
      (({ s with kst := { s.kst with job := some job } }.askKst .mon).wr F.KST_RES_PEND 1).wr F.KST_RES_SLOT slot

def execKstNonce (m : Master) (slot : Fin 32) (s : State) : Out := .next (s.kstCmd m 1 slot)
def execDerive (m : Master) (slot : Fin 32) (s : State) : Out := .next (s.kstCmd m 2 slot)
def execGenerate (m : Master) (slot : Fin 32) (s : State) : Out := .next (s.kstCmd m 3 slot)
def execLoadPub (m : Master) (slot : Fin 32) (s : State) : Out := .next (s.kstCmd m 4 slot)
def execImportSym (m : Master) (slot : Fin 32) (s : State) : Out := .next (s.kstCmd m 5 slot)
def execSelftest (m : Master) (slot : Fin 32) (s : State) : Out := .next (s.kstCmd m 6 slot)
def execCommit (m : Master) (slot : Fin 32) (s : State) : Out := .next (s.kstCmd m 7 slot)
def execDiscard (m : Master) (slot : Fin 32) (s : State) : Out := .next (s.kstCmd m 8 slot)
def execSign (m : Master) (slot : Fin 32) (s : State) : Out := .next (s.kstCmd m 9 slot)
def execVerify (m : Master) (slot : Fin 32) (s : State) : Out := .next (s.kstCmd m 10 slot)
def execAttest (m : Master) (slot : Fin 32) (s : State) : Out := .next (s.kstCmd m 11 slot)
def execExportPub (m : Master) (slot : Fin 32) (s : State) : Out := .next (s.kstCmd m 12 slot)
def execExtend (m : Master) (slot : Fin 32) (s : State) : Out := .next (s.kstCmd m 13 slot)
def execLc (m : Master) (slot : Fin 32) (s : State) : Out := .next (s.kstCmd m 14 slot)
def execDebugUnlock (m : Master) (slot : Fin 32) (s : State) : Out := .next (s.kstCmd m 15 slot)
def execAdvance (m : Master) (slot : Fin 32) (s : State) : Out := .next (s.kstCmd m 16 slot)
def execZeroise (m : Master) (slot : Fin 32) (s : State) : Out := .next (s.kstCmd m 17 slot)

/-- Read a command's input. -/
def State.kstRead (s : State) (j : KstJob) (n : Nat) (k : State → List Byte → State × Nat) : State × Nat :=
  match s.dmaRead 13 j.arg n with
  | (s1, none) => (s1, 14)
  | (s1, some b) => k s1 b

/-- Write a command's output. -/
def State.kstWrite (s : State) (j : KstJob) (bs : List Byte) : State × Nat :=
  match s.dmaWrite 13 j.out bs with
  | (s1, true) => (s1, 0)
  | (s1, false) => (s1, 14)

/-- A symmetric slot that GENERATE and DERIVE write: not the KEK. -/
def symPlain (n : Nat) : Bool := isSym n && n != 31

/-- NONCE (R424). -/
def State.doNonce (s : State) : State × Nat :=
  if !s.entropyOk then (s, 13) else let (v, s1) := s.random; (s1.setKstNonce (some v), 0)

/-- DERIVE (R414, R415). -/
def State.doDerive (s : State) (j : KstJob) : State × Nat :=
  let n := j.slot
  if n.val < 2 then (if s.privRoot.isNone then (s, 9) else ((s.deriveFixed n).showSerial, 0))
  else if !symPlain n then (s, 2)
  else if s.kstState n = 2 then (s, 3)
  else
    match s.ordRoot with
    | none => (s, 9)
    | some r => s.kstRead j 32 fun s x => (s.loadShadow n (mkHalf (kdf r x "ZTM storage") []) 1 [], 0)

/-- GENERATE (R419). -/
def State.doGenerate (s : State) (j : KstJob) : State × Nat :=
  let n := j.slot
  if !(symPlain n || (isPrivate n && decide (2 ≤ n.val))) then (s, 2)
  else if s.kstState n = 2 then (s, 3)
  else if s.ordRoot.isNone then (s, 9)
  else if !s.entropyOk then (s, 13)
  else
    let (v, s1) := s.random
    let seed := BitVec.ofNat 256 v
    (s1.loadShadow n (if isPrivate n then mkHalf (mldsaPrivate seed) (mldsaPublic seed) else mkHalf (leBytes 32 v) []) 2 [], 0)

/-- LOAD_PUB (R417, R419): signed by public slot 0; the proof of possession is kept with the nonce. -/
def State.doLoadPub (s : State) (j : KstJob) : State × Nat :=
  let n := j.slot
  if !isPublic n then (s, 2)
  else if s.kstState n = 2 then (s, 3)
  else if s.ordRoot.isNone then (s, 9)
  else
    match s.checkToken j (· == n.val) (fun _ => 3732) State.ownerKey with
    | (s1, .error e) => (s1, e)
    | (s1, .ok t) =>
      (s1.loadShadow n (mkHalf (tokPayload t 0 1312) []) 3 (tokNonce t ++ tokPayload t 1312 2420), 0)

/-- GHASH of additional data and ciphertext, and the GCM tag (SP 800-38D). -/
def gcmTag (key : List Byte) (iv : Nat) (aad ct : List Byte) : BitVec 128 :=
  let h := aes256 key 0
  let y0 := (upto (gcmBlocks aad.length)).foldl (fun y j => gfMul (y ^^^ gcmBlock aad j) h) 0
  let y1 := (upto (gcmBlocks ct.length)).foldl (fun y j => gfMul (y ^^^ gcmBlock ct j) h) y0
  gfMul (y1 ^^^ BitVec.ofNat 128 (8 * aad.length * 2 ^ 64 + 8 * ct.length)) h ^^^ aes256 key (BitVec.ofNat 128 (iv * 2 ^ 32 + 1))

/-- GCM decryption of whole blocks in counter mode. -/
def gcmOpen (key : List Byte) (iv : Nat) (ct : List Byte) : List Byte :=
  (upto (gcmBlocks ct.length)).flatMap fun j => beBytes 16 (gcmBlock ct j ^^^ aes256 key (BitVec.ofNat 128 (iv * 2 ^ 32 + 2 + j))).toNat

/-- IMPORT_SYM (R419): under the active half of symmetric slot 15. Which refusal a failing GCM tag gives is open. Log entry 52 (DEDUCED). -/
def State.doImport (s : State) (j : KstJob) : State × Nat :=
  let n := j.slot
  if !isSym n then (s, 2)
  else if s.kstState n = 2 then (s, 3)
  else if s.ordRoot.isNone then (s, 9)
  else
    match s.checkToken j (· == n.val) (fun _ => 52) State.ownerKey with
    | (s1, .error e) => (s1, e)
    | (s1, .ok t) =>
      match s1.useSlot 31 with
      | (s2, .error e) => (s2, e)
      | (s2, .ok kek) =>
        let iv := (Config.importIv (BitVec.ofNat 256 (leNat (tokNonce t)))).toNat
        let ct := tokPayload t 0 32
        if (gcmTag kek.key iv (tokNonce t) ct).toNat ≠ beAt t (0x50 + 32) 16 then
          let (v, s3) := s2.draw
          (s3, if v % 2 = 0 then 5 else 6)
        else (s2.loadShadow n (mkHalf (gcmOpen kek.key iv ct) []) 4 (tokPayload t 48 4), 0)

/-- What SELFTEST finds of a shadow (R419). -/
def State.shadowPasses (s : State) (n : Fin 32) (h : KeyHalf) : Bool × State :=
  let x := s.kslot n
  if isPrivate n then
    let (r, s1) := s.random
    let (q, s2) := s1.draw
    (mldsaVerify h.pub (BitVec.ofNat 256 r) (mldsaSign h.key (BitVec.ofNat 256 r) q), s2)
  else if isPublic n then (mldsaVerify h.key (sha3 (x.proof.take 32 ++ h.key)) (x.proof.drop 32), s)
  else if x.shOrigin = 4 then ((beBytes 16 (aes256 h.key 0).toNat).take 4 == x.proof, s)
  else (true, s)

/-- SELFTEST (R418, R419). Log entry 52 (DEDUCED). -/
def State.doSelftest (s : State) (j : KstJob) : State × Nat :=
  let n := j.slot
  if n.val < 2 then (s, 2)
  else if s.kstState n = 2 then (s, 3)
  else
    match (s.kslot n).shadow with
    | none => (s, 4)
    | some h =>
      if s.shadowStat n = 3 then (s, 4)
      else if !h.ok then (s.dropShadow n, 11)
      else
        let (good, s1) := s.shadowPasses n h
        if good then (s1.wr (F.KST_SLOTn_STAT_SHADOW n) 2, 0) else (s1.dropShadow n, 11)

/-- COMMIT (R418, R420): a BAD slot takes a TESTED shadow alone; the store is persisted, then the halves flip; a symmetric slot keeps the old half RETIRED. -/
def State.doCommit (s : State) (j : KstJob) : State × Nat :=
  let n := j.slot
  if n.val < 2 then (s, 2)
  else if s.kst.storeKey.isNone then (s, 9)
  else
    match (s.kslot n).shadow with
    | none => (s, if s.kstState n = 2 then 3 else 4)
    | some h =>
      if s.shadowStat n ≠ 2 then (s, if s.kstState n = 2 then 3 else 12)
      else if !h.ok then (s.dropShadow n, 11)
      else
        let x := s.kslot n
        let ep := s.kstEpoch n
        let retire := isSym n && s.kstState n == 1
        let s1 := (s.setKslot n { active := some h, shadow := if retire then x.active else none, oldEpoch := ep }).setSlotStat n 1 x.shOrigin
        let s2 := ((s1.wr (F.KST_SLOTn_STAT_SHADOW n) (if retire then 3 else 0)).wr (F.KST_SLOTn_STAT_EPOCH n) ((ep + 1) % 65536)).persist
        (s2.send { src := 0x19, code := 0x0110, sev := 5, p0 := n, p1 := (ep + 1) % 65536, p2 := x.shOrigin }, 0)

/-- DISCARD (R419). -/
def State.doDiscard (s : State) (j : KstJob) : State × Nat :=
  if j.slot.val < 2 then (s, 2) else if s.kstState j.slot = 2 then (s, 3) else (s.dropShadow j.slot, 0)

/-- SIGN (R422). -/
def State.doSign (s : State) (j : KstJob) : State × Nat :=
  if j.slot.val < 2 || !isPrivate j.slot then (s, 2)
  else if !s.entropyOk then (s, 13)
  else
    match s.useSlot j.slot with
    | (s1, .error e) => (s1, e)
    | (s1, .ok h) => s1.kstRead j 32 fun s b => let (q, s2) := s.draw; s2.kstWrite j (mldsaSign h.key (BitVec.ofNat 256 (leNat b)) q)

/-- VERIFY (R422); the header hash of a MONITOR or HOST image verified under public slot 3 is kept until it is measured (R426).
Log entry 52 (DEDUCED). -/
def State.doVerify (s : State) (j : KstJob) : State × Nat :=
  if !isPublic j.slot then (s, 2)
  else
    match s.useSlot j.slot with
    | (s1, .error e) => (s1, e)
    | (s1, .ok h) => s1.kstRead j 2452 fun s b =>
        if !mldsaVerify h.key (BitVec.ofNat 256 (leAt b 0 32)) (b.drop 32) then (s, 6)
        else if j.slot = 11 then ({ s with kst := { s.kst with staged := s.kst.staged ++ [leAt b 0 32] } }, 0)
        else (s, 0)

/-- Bytes of `n` registers from an address on. -/
def State.regBytes (s : State) (a n : Nat) : List Byte := (upto n).flatMap fun k => leBytes 4 (s.regGet (a + 4 * k)).toNat

/-- The report of ATTEST up to its signature (R423). -/
def State.report (s : State) (nonce : List Byte) : List Byte :=
  leBytes 4 0x5454415A ++ leBytes 4 1 ++ leBytes 1 s.lc ++ leBytes 1 (b2n s.dbgEn + 2 * b2n s.dbgAttached + 4 * b2n s.entropyOk) ++
  leBytes 2 0 ++ leBytes 4 (s.rd F.KST_ROLLBACK_COUNT) ++ leBytes 16 s.serial ++ nonce ++
  leBytes 8 (recTime s.tb3 % 2 ^ 63 + 2 ^ 63 * b2n (!s.tb3Valid)) ++ leBytes 8 0 ++ s.regBytes (R.KST_MEASr_k 0 0) 32 ++
  s.regBytes (R.CAD_AHASHk 0) 8 ++ s.regBytes (R.LPE_GRD_HASHk 0) 8 ++ allSlotNos.flatMap fun n => leBytes 2 (s.kstEpoch n)

/-- ATTEST (R413, R423). -/
def State.doAttest (s : State) (j : KstJob) : State × Nat :=
  if j.slot ≠ 0 then (s, 2)
  else if s.dbgAttached then (s, 10)
  else if !s.entropyOk then (s, 13)
  else
    match s.useSlot 0 with
    | (s1, .error e) => (s1, e)
    | (s1, .ok h) => s1.kstRead j 32 fun s b =>
        let (q, s2) := s.draw
        let r := s2.report b
        s2.kstWrite j (r ++ mldsaSign h.key (sha3 r) q)

/-- EXPORT_PUB (R423). -/
def State.doExport (s : State) (j : KstJob) : State × Nat :=
  if !isPrivate j.slot then (s, 2)
  else if j.slot.val < 2 && s.dbgAttached then (s, 10)
  else
    match s.useSlot j.slot with
    | (s1, .error e) => (s1, e)
    | (s1, .ok h) => s1.kstWrite j h.pub

/-- Extend measurement register `r` (R426). -/
def State.extend (s : State) (r : Nat) (v : List Byte) : State :=
  let h := sha3 (s.regBytes (R.KST_MEASr_k r 0) 8 ++ v)
  (upto 8).foldl (fun (s : State) k => s.regPut (R.KST_MEASr_k r k) (BitVec.ofNat 32 (h.toNat / 2 ^ (32 * k)))) s

/-- EXTEND (R426). -/
def State.doExtend (s : State) (j : KstJob) : State × Nat := s.kstRead j 32 fun s b => (s.extend 3 b, 0)

/-! ## The life cycle (R410 to R413) -/

/-- A burn of OTP or a change that goes with a transition (R411, R412). -/
inductive Burn where
  | bits (r b v : Nat)
  | mark (r b v : Nat)
  | boot (v : Nat)
  | install (r v : Nat) (owner kek : List Byte)
  | destroy (r : Nat)
  | zeroise
  | step (n : Nat)
  deriving DecidableEq, Repr

/-- One burn takes place. -/
def State.burn (s : State) : Burn → State
  | .bits r b v => s.setBankOtp r b (some (v, false))
  | .mark r b v => s.setBankOtp r b (some (v, true))
  | .boot v => { s with kst := { s.kst with bootKey := v } }
  | .install _ v owner kek =>
    s.storeKeys (kdf (leBytes 32 v) [] "ZTM slot store") [⟨8, some (mkHalf owner []), 0, 3⟩, ⟨31, some (mkHalf kek []), 0, 4⟩]
  | .destroy r => (s.setBankOtp r 0 (some (rootDead, true))).setBankOtp r 1 (some (rootDead, true))
  | .zeroise =>
    let s1 := allSlotNos.foldl (fun (s : State) n => s.zeroSlot n) s
    { s1 with nand := { s1.nand with slotsA := none, slotsB := none } }
  | .step n => { s with kst := { s.kst with stepBits := Vector.ofFn fun i => if i.val < n then 7 else s.kst.stepBits[i] } }

/-- A burn fails its read-back: which bits it burned is open. Log entry 52 (DEDUCED). -/
def State.burnFails (s : State) : Burn → State
  | .bits r b _ => let (v, s1) := s.random; s1.setBankOtp r b (some (v, false))
  | .boot _ => let (v, s1) := s.random; { s1 with kst := { s1.kst with bootKey := v } }
  | .destroy r =>
    let (v, s1) := s.random
    s1.setBankOtp r 0 ((s1.rootBank r 0).map fun (x : Nat × Bool) => (x.1 ||| v, x.2))
  | .step n =>
    let (v, s1) := s.random
    { s1 with kst := { s1.kst with stepBits := Vector.ofFn fun i =>
      if i.val < n then s1.kst.stepBits[i] ||| BitVec.ofNat 3 (v / 8 ^ i.val) else s1.kst.stepBits[i] } }
  | _ => s

/-- Both banks of a root are used and neither is complete: the module can only go to SCRAPPED (R412). -/
def State.rootStuck (s : State) (r : Nat) : Bool := [0, 1].all fun b => (s.rootBank r b).any fun x => !x.2

/-- The first unused bank of a root (R412). -/
def State.freeBank (s : State) (r : Nat) : Option Nat := [0, 1].find? fun b => (s.rootBank r b).isNone

/-- Roots burned and roots destroyed by a transition, and whether the owner signs it; none where R411 has no such pair. -/
def lcRow (old new : Nat) : Option (List Nat × List Nat × Bool) :=
  if old = 0 && new = 1 then some ([0, 1], [], false)
  else if old = 1 && new = 2 then some ([2], [], false)
  else if old = 2 && new = 3 then some ([], [], true)
  else if (old = 2 || old = 3) && new = 4 then some ([3], [2], true)
  else if (old = 0 || old = 1 || old = 4) && new = 5 then some ([], [0, 1, 2, 3], false)
  else if (old = 2 || old = 3) && new = 5 then some ([], [0, 1, 2, 3], true)
  else none

/-- The new roots: bank and DRBG value of each. -/
def State.newRoots (s : State) (l : List Nat) : State × List (Nat × Nat × Nat) :=
  l.foldl (fun (x : State × List (Nat × Nat × Nat)) r =>
    let (v, s1) := x.1.random
    (s1, x.2 ++ [(r, (s1.freeBank r).getD 0, v)])) (s, [])

/-- The burns of a transition in the order of R412. -/
def lcBurns (new : Nat) (roots : List (Nat × Nat × Nat)) (dead : List Nat) (t : List Byte) : List Burn :=
  roots.flatMap (fun (r, b, v) => [Burn.bits r b v, Burn.mark r b v]) ++
  (if new = 2 then [Burn.boot (leNat (tokPayload t 0 32)), Burn.install 2 ((roots.map fun x => x.2.2).getD 0 0) (tokPayload t 32 1312) (tokPayload t 1344 32)]
   else []) ++
  dead.map Burn.destroy ++ (if 4 ≤ new then [Burn.zeroise] else []) ++ [Burn.step new]

/-- Burn the first `k` of a list and fail at the next, or burn them all. Log entry 52 (DEDUCED). -/
def State.runBurns (s : State) (l : List Burn) (fail : Option Nat) : State × Bool :=
  match fail with
  | none => (l.foldl State.burn s, true)
  | some k =>
    match l[k]? with
    | none => (l.foldl State.burn s, true)
    | some b => (((l.take k).foldl State.burn s).burnFails b, false)

/-- LC (R411, R412). -/
def State.doLc (s : State) (j : KstJob) (fail : Option Nat) : State × Nat :=
  if !s.entropyOk then (s, 13)
  else
    let signer (s : State) (t : List Byte) : State × Except Nat (List Byte) :=
      match lcRow s.lc (tokTarget t) with
      | none => (s, .error 8)
      | some (roots, _, owner) =>
        if (roots.any fun r => (s.freeBank r).isNone) || (tokTarget t != 5 && [0, 1, 2, 3].any s.rootStuck) then (s, .error 8)
        else if owner then s.ownerKey t else (s, .ok Config.factoryKey)
    match s.checkToken j (fun n => decide (n ≤ 5)) (fun n => if n = 2 then 1376 else 0) signer with
    | (s1, .error e) => (s1, e)
    | (s1, .ok t) =>
      let new := tokTarget t
      match lcRow s1.lc new with
      | none => (s1, 8)
      | some (roots, dead, _) =>
        let (s2, rs) := s1.newRoots roots
        match s2.runBurns (lcBurns new rs dead t) fail with
        | (s3, false) => (s3.err .kst 0x83 0, 15)
        | (s3, true) => ((s3.wr F.KST_LC_RESET_PEND 1).raise .kst 5, 0)

/-- DEBUG_UNLOCK (R413). -/
def State.doUnlock (s : State) (j : KstJob) : State × Nat :=
  if s.lc ≠ 4 then (s, 8)
  else
    match s.checkToken j (· == 0) (fun _ => 0) (fun s _ => (s, .ok Config.factoryKey)) with
    | (s1, .error e) => (s1, e)
    | (s1, .ok _) => ({ s1.wr F.KST_LC_DBG_EN 1 with kst := { s1.kst with unlocked := true } }.deriveOrd, 0)

/-- ADVANCE (R427): a failing burn leaves an open number of the bits burned. -/
def State.doAdvance (s : State) (j : KstJob) (fail : Option Nat) : State × Nat :=
  s.kstRead j 4 fun s b =>
    let v := leNat b
    if s.kst.stage < v || v < s.kst.rollback then (s, 8)
    else if fail.isSome then
      let (q, s1) := s.draw
      let c := s1.kst.rollback + q % (v - s1.kst.rollback + 1)
      (({ s1 with kst := { s1.kst with rollback := c } }.wr F.KST_ROLLBACK_COUNT c).err .kst 0x83 0, 15)
    else ({ s with kst := { s.kst with rollback := v } }.wr F.KST_ROLLBACK_COUNT v, 0)

/-- ZEROISE (R418). -/
def State.doZeroise (s : State) (j : KstJob) : State × Nat :=
  if j.slot.val < 2 then (s, 2) else if s.kst.storeKey.isNone then (s, 9) else ((s.zeroSlot j.slot).persist, 0)

/-- The operation of a command and its RESULT; after a transition every command is refused (R412). -/
def State.kstOp (s : State) (j : KstJob) (burn : Option Nat) : State × Nat :=
  if s.bit F.KST_LC_RESET_PEND then (s, 8)
  else
    match j.op with
    | 1 => s.doNonce
    | 2 => s.doDerive j
    | 3 => s.doGenerate j
    | 4 => s.doLoadPub j
    | 5 => s.doImport j
    | 6 => s.doSelftest j
    | 7 => s.doCommit j
    | 8 => s.doDiscard j
    | 9 => s.doSign j
    | 10 => s.doVerify j
    | 11 => s.doAttest j
    | 12 => s.doExport j
    | 13 => s.doExtend j
    | 14 => s.doLc j burn
    | 15 => s.doUnlock j
    | 16 => s.doAdvance j burn
    | _ => s.doZeroise j

/-- A command that takes a token, whose nonce it consumes however it ends (R424). -/
def tokenOp (op : Nat) : Bool := op == 4 || op == 5 || op == 14 || op == 15

/-- A command runs. -/
def State.kstRun (s : State) (j : KstJob) (burn : Option Nat) : State × Nat :=
  let (s1, r) := s.kstOp j burn
  (if tokenOp j.op then s1.setKstNonce none else s1, r)

/-- The target state of an LC token (R424): where the token cannot be read, it is a free value. Log entry 52 (DEDUCED). -/
def State.lcTarget (s : State) (j : KstJob) : Nat × State :=
  match (s.dmaRead 13 j.arg tokenSize).2 with
  | some t => (tokTarget t, s)
  | none => let (v, s1) := s.draw; (v % 2 ^ 32, s1)

/-- A record that the monitor posts (R392, R428). -/
def State.monEvent (s : State) (code sev p0 p1 p2 : Nat) : State :=
  s.send { src := 0x19, code := code, sev := sev, p0 := p0, p1 := p1, p2 := p2 }

/-- What the monitor posts of a command that ended with `r` (R428): a transition, its refusal, an unlock, an image whose signature fails by
its public slot, a refusal of an operation on a slot; KEY_COMMIT goes with the flip (R420). Log entry 52 (DEDUCED). -/
def State.monPost (s : State) (j : KstJob) (old target r : Nat) : State :=
  if j.op = 14 then (if r = 0 then s.monEvent 0x0100 7 old target 0 else s.monEvent 0x0101 6 target r 0)
  else if j.op = 15 && r = 0 then s.monEvent 0x0120 7 old 0 0
  else if r = 0 then s
  else if j.op = 10 && r = 6 then
    (if j.slot = 9 then s.monEvent 0x0130 6 0 6 0 else if j.slot = 10 then s.monEvent 0x0130 6 1 6 0
     else if j.slot = 11 then s.monEvent 0x0130 6 2 6 0 else if j.slot = 8 then s.monEvent 0x0130 6 3 6 0 else s)
  else if (2 ≤ j.op && j.op ≤ 12) || j.op = 17 then s.monEvent 0x0111 5 j.slot.val j.op r
  else s

/-- CMD_DONE (R408, R409, R429): the command in service completes; `burn` is the number of OTP burns that succeed before one fails, if any
fails. A result other than OK records code 0x80, but for VERIFY's BAD_SIG and a failed burn. Log entry 52 (DEDUCED). -/
def execCmdDone (burn : Option Nat) (s : State) : Out :=
  .next (s.whileLive .kst fun s =>
    match s.kst.job with
    | none => s
    | some j =>
      if !s.en .kst || !s.kstTurn .mon then s
      else
        let (target, s0) := if j.op = 14 then s.lcTarget j else (0, s)
        let (s1, r) := s0.kstRun j burn
        let s2 := (({ s1 with kst := { s1.kst with job := none } }.wr F.KST_RES_PEND 0).wr F.KST_RES_RESULT r).wr F.KST_RES_SLOT j.slot
        let s3 := s2.raise .kst 2
        let s4 := if r = 0 || r = 15 || (j.op = 10 && r = 6) then s3 else s3.err .kst 0x80 r
        ((s4.monPost j s.lc target r).endKst .mon).freezePoint .kst)

/-- KST_NONCE_EXPIRY (R424): 60 s. -/
def execKstNonceExpiry (s : State) : Out :=
  .next (s.whileLive .kst fun s =>
    if s.kst.nonce.isSome && s.kst.nonceAt + 60000000000 ≤ s.nowNs then s.setKstNonce none else s)

/-- SEAL_SIGN (R305, R408, R413): in its turn, the oldest closed block is signed under private slot 1, or built UNSIGNED; a further block
asks again. -/
def execSealSign (s : State) : Out :=
  .next (s.whileLive .kst fun s =>
    if !s.kstTurn .seal then s
    else
      let s1 := s.buildBlock fun s h =>
        if s.dbgAttached || !s.entropyOk then (s, none)
        else
          match s.useSlot 1 with
          | (s1, .error _) => (s1, none)
          | (s1, .ok k) => let (q, s2) := s1.draw; (s2, some (mldsaSign k.key h q))
      let s2 := s1.endKst .seal
      if s.mtr.closed.isEmpty || s2.mtr.closed.isEmpty then s2 else s2.askKst .seal)

/-- SLOT_CHECK (R418): every 10 s every VALID slot's check word is verified. -/
def execSlotCheck (s : State) : Out :=
  .next (s.whileLive .kst fun s =>
    allSlotNos.foldl State.checkSlot s)

/-- ENTROPY_FAIL (R407). -/
def execEntropyFail (s : State) : Out :=
  .next (s.whileLive .kst fun s => ((s.wr F.KST_LC_ENTROPY_OK 0).raise .kst 4).err .kst 0x82 0)

/-- DBG_ATTACH (R410, R413): the TAP leaves or enters Test-Logic-Reset; it works only while DBG_EN is 1. -/
def execDbgAttach (attached : Bool) (s : State) : Out :=
  .next (s.whileLive .kst fun s => s.wrB F.KST_LC_DBG_ATTACHED (attached && s.dbgEn))

/-! ## Start (R410, R412, R415, R421) -/

/-- A bank that holds bits but no completion marker is destroyed (R412). -/
def State.fixBanks (s : State) : State :=
  [0, 1, 2, 3].foldl (fun (s : State) r => [0, 1].foldl (fun (s : State) b =>
    match s.rootBank r b with
    | some (_, false) => s.setBankOtp r b (some (rootDead, false))
    | _ => s) s) s

/-- One key of the store is loaded; a half that fails its check word is BAD (R421). -/
def State.loadKey (s : State) (x : StoredKey) : State :=
  let n := Fin.ofNat 32 x.slot
  let s1 := ((s.setKslot n { active := x.half }).wr (F.KST_SLOTn_STAT_EPOCH n) x.epoch).setSlotStat n (b2n x.half.isSome) x.origin
  match x.half with
  | some h => if h.ok then s1 else s1.markBad n
  | none => s1

/-- Load the slot store (R416, R421). -/
def State.loadStore (s : State) : State :=
  match s.kst.storeKey with
  | none => s
  | some k =>
    let l := [s.nand.slotsA, s.nand.slotsB].filterMap fun x => x.bind fun y => if y.key == k then some y else none
    match l.find? fun x => l.all fun y => decide (y.seq ≤ x.seq) with
    | some x => x.keys.foldl State.loadKey s
    | none => (s.raise .kst 3).err .kst 0x81 0x3FFF

/-- The key store's start after a device reset (R407, R410, R415, R421): `entropy`: its start-up tests pass. -/
def State.kstStart (s : State) (entropy : Bool) : State :=
  let s1 := s.fixBanks
  let s2 := (s1.wr F.KST_LC_STATE s1.kst.steps).wrB F.KST_LC_DBG_EN (s1.kst.steps == 0 || s1.kst.steps == 1 || s1.kst.steps == 5 || (s1.kst.steps == 4 && s1.kst.unlocked))
  let roots := (upto 4).foldl (fun x r => x + (if (s2.root r).isSome then 2 ^ r else 0)) 0
  let s3 := (((s2.wrB F.KST_LC_ENTROPY_OK entropy).wr F.KST_LC_RESET_PEND 0).wr F.KST_LC_ROOTS roots).wr F.KST_ROLLBACK_COUNT s2.kst.rollback
  let s4 := if entropy then s3 else (s3.raise .kst 4).err .kst 0x82 0
  (((s4.deriveOrd.deriveFixed 0).deriveFixed 1).showSerial).loadStore

end Sys2Proof.Machine
end

