-- ==== Sys2Proof/Machine/Evr.lean ====
section
/-! DEFINITION. The event recorder: records, the AON buffer, the log, the read window and clears (R391 to R405). -/

namespace Sys2Proof.Machine

/-! ## Records (R391, R394, R399) -/

/-- A record in the layout of R391. -/
def mkRecord (code sev src flags time p0 p1 p2 p3 seq : Nat) : List Byte :=
  let b := leBytes 2 code ++ leBytes 1 (sev % 8 + 8 * src) ++ leBytes 1 flags ++ leBytes 8 time ++ leBytes 4 p0 ++ leBytes 4 p1 ++
    leBytes 4 p2 ++ leBytes 4 p3 ++ leBytes 2 seq
  b ++ leBytes 2 (crc16 b).toNat

/-- The CRC of a record holds. -/
def recOk (r : LogRec) : Bool := (crc16 (r.bytes.take 30)).toNat == leAt r.bytes 30 2

/-- TIME and its flags (R391). Log entry 51 (DEDUCED). -/
def State.recStamp (s : State) : Nat × Nat := (recTime s.tb3, b2n (!s.tb3Valid))

/-- SEQ takes its next value (R394). -/
def State.setSeq (s : State) (n : Nat) : State :=
  { s with evr := { s.evr with seq := n % 2 ^ 48 } }.regPut R.EVR_SEQ_LO (BitVec.ofNat 32 n)

def State.setBuf (s : State) (l : List LogRec) : State := { s with evr := { s.evr with buf := l } }.wr F.EVR_BUF_STAT_UNFLUSHED l.length

/-- A list without its oldest record of severity at most `sev` (R397). -/
def replaceOldest (sev : Nat) : List LogRec → Option (List LogRec)
  | [] => none
  | r :: t => if r.sev ≤ sev then some t else (replaceOldest sev t).map (r :: ·)

/-- Put a record into the buffer, or drop it (R397); true where it is accepted. -/
def State.bufPut (s : State) (r : LogRec) : State × Bool :=
  if s.evr.buf.length < 4096 then (s.setBuf (s.evr.buf ++ [r]), true)
  else
    match replaceOldest r.sev s.evr.buf with
    | some l => (s.setBuf (l ++ [r]), true)
    | none => (s.evrDrop r.sev, false)

/-! ## Flushes (R398, R405) -/

def State.showEvr (s : State) : State :=
  (s.wrB (statFld .evr 8) s.evr.flush.isSome).wrB (statFld .evr 9) (s.evr.check.isSome || s.evr.clear.isSome)

/-- A flush may run now: CORE is on, and EVR is enabled or PFW or a quiesce calls for it (R398, R405). -/
def State.flushAllowed (s : State) : Bool :=
  s.evr.flush.isNone && s.evr.clear.isNone && !s.coreOff && (s.evr.pf || s.runs .evr)

/-- DROPPED is posted at the end of a flush while unreported drops remain, unless one waits for acceptance (R395). Log entry 51 (DEDUCED). -/
def State.postDropped (s : State) : State :=
  if s.evr.undropped.toList.any (· != 0) && !s.evq.any fun e => e.src == 0x12 && e.code == 2 then s.send { src := 0x12, code := 2, sev := 5 }
  else s

/-- A flush is called for: it starts with every record accepted so far, or waits; one of an empty buffer ends at once. -/
def State.startFlush (s : State) : State :=
  if !s.flushAllowed then { s with evr := { s.evr with want := true } }
  else if s.evr.buf.isEmpty then { s with evr := { s.evr with want := false, pf := false } }.postDropped
  else ({ s with evr := { s.evr with flush := some s.evr.seq, want := false } }).showEvr

/-- Accept a record (R394, R397, R398), with the stamp of AON logic where that took it (R399); DROPPED carries the unreported drops and ends them (R395). -/
def State.accept (s : State) (e : Event) (fl : Nat) : State :=
  let n (k : Fin 8) : Nat := s.evr.undropped[k]
  let dropped := e.src == 0x12 && e.code == 2
  let p0 := if dropped then n 0 + 2 ^ 8 * n 1 + 2 ^ 16 * n 2 + 2 ^ 24 * n 3 else e.p0
  let p1 := if dropped then n 4 + 2 ^ 8 * n 5 + 2 ^ 16 * n 6 + 2 ^ 24 * n 7 else e.p1
  let (time, tf) := e.aon.getD s.recStamp
  let seq := s.evr.seq
  let r : LogRec := ⟨seq, e.sev, mkRecord e.code e.sev e.src (fl + tf + 4 * b2n e.cont) time p0 p1 e.p2 e.p3 seq⟩
  let (s1, ok) := (s.setSeq (seq + 1)).bufPut r
  let s2 := if dropped && ok then { s1 with evr := { s1.evr with undropped := Vector.replicate 8 0 } } else s1
  if ok && (s2.rd F.EVR_CFG_FLUSH_SEV ≤ e.sev || 1024 ≤ s2.evr.buf.length) then s2.startFlush else s2

/-- Accept the waiting records of a kind, oldest first. -/
def State.acceptThose (s : State) (p : Event → Bool) : State :=
  (s.evq.filter p).foldl (fun (s : State) e => { s with evq := s.evq.erase e }.accept e 0) s

/-- The waiting record that is accepted next: of those posted at the oldest instant the first of the lowest SRC; while CORE is off only what
AON logic takes (R394, R399). -/
def State.nextEvent (s : State) : Option Event :=
  let l := if s.coreOff then s.evq.filter fun e => e.aon.isSome else s.evq
  match l with
  | [] => none
  | h :: _ => some ((l.filter fun e => e.at_ == h.at_).foldl (fun (m : Event) x => if x.src < m.src then x else m) h)

/-- Accept the next record; during a soft reset they wait (R394, R405). -/
def State.acceptNext (s : State) : State :=
  match s.nextEvent with
  | none => s
  | some e => if s.inSoftRst .evr || s.isHalted .evr then s else { s with evq := s.evq.erase e }.accept e 0

/-- Accept every waiting record in its order: none waits for more than 2 µs (R394). Log entry 51 (DEDUCED). -/
def State.acceptAll (s : State) : State := (upto s.evq.length).foldl (fun (s : State) _ => s.acceptNext) s

/-- A flush ends; a trigger that waited starts the next. Log entry 51 (DEDUCED). -/
def State.endFlush (s : State) : State :=
  let s1 := ({ s with evr := { s.evr with flush := none, pf := s.evr.pf && s.evr.want } }).showEvr.postDropped
  if s1.evr.want then s1.startFlush else s1

/-- PFW, or the quiesce of a STANDBY or HIBERNATE entry, calls for a flush, whatever EN (R398, R405, R464). -/
def State.evrPf (s : State) : State := ({ s with evr := { s.evr with pf := true } }).startFlush

/-! ## The log (R397, R400) -/

/-- The key of a page's tag: the event-log key, or zeros on a NOROOT page (R400, R416). -/
def State.pageKey (s : State) (noroot : Bool) : Option (List Byte) := if noroot then some (List.replicate 32 0) else s.kst.logKey

/-- The tag over a page's records, first SEQ, count and the tag of the page written before it. -/
def pageTag (key : List Byte) (recs : List LogRec) (first prev : Nat) : Nat :=
  (kmac256t key (recs.flatMap (·.bytes) ++ leBytes 6 first ++ leBytes 2 recs.length ++ leBytes 16 prev)).toNat

/-- A page as the recorder writes it now. Log entry 51 (DEDUCED). -/
def State.mkPage (s : State) (recs : List LogRec) (prev : Nat) : LogPage :=
  let first := (recs.head?.map (·.seq)).getD 0
  let noroot := s.kst.logKey.isNone
  { first := first, prev := prev, noroot := noroot, recs := recs, tag := pageTag ((s.pageKey noroot).getD []) recs first prev }

/-- A page's tag holds (R400, R416). -/
def State.pageOk (s : State) (p : LogPage) : Bool :=
  match s.pageKey p.noroot with
  | some k => pageTag k p.recs p.first p.prev == p.tag
  | none => false

def logCount (l : List LogPage) : Nat := l.foldl (fun n p => n + p.recs.length) 0
def logRecords : Nat := 1048576

/-- Take the oldest record of severity at most `sev` out of the log; its page is rewritten with a fresh tag. -/
def State.logReplace (s : State) (sev : Nat) : List LogPage → Option (List LogPage)
  | [] => none
  | p :: t =>
    match replaceOldest sev p.recs with
    | some [] => some t
    | some l => some (s.mkPage l p.prev :: t)
    | none => (s.logReplace sev t).map (p :: ·)

/-- Records that take a place in the log beside `taken` others, one by one: the log, the records placed and those dropped. -/
def State.logRoom (s : State) (log : List LogPage) (room : Nat) : List LogRec → List LogRec → List LogPage × List LogRec × List LogRec
  | [], placed => (log, placed, [])
  | r :: t, placed =>
    if 0 < room then s.logRoom log (room - 1) t (placed ++ [r])
    else
      match s.logReplace r.sev log with
      | some log1 => s.logRoom log1 0 t (placed ++ [r])
      | none =>
        match replaceOldest r.sev placed with
        | some p1 => s.logRoom log 0 t (p1 ++ [r])
        | none =>
          let (l, p, d) := s.logRoom log 0 t placed
          (l, p, r :: d)

/-- A page of records goes into the log: records that find no place are dropped (R397); LOG_FULL when the log first is full. -/
def State.logAdd (s : State) (recs : List LogRec) : State :=
  let (log, placed, dropped) := s.logRoom s.nand.log (logRecords - logCount s.nand.log) recs []
  let prev := (log.getLast?.map (·.tag)).getD 0
  let log := if placed.isEmpty then log else log ++ [s.mkPage placed prev]
  let n := logCount log
  let s1 := ({ s with nand := { s.nand with log := log } }.wr F.EVR_LOG_STAT_COUNT n).wrB (statFld .evr 10) (n == logRecords)
  let s2 := dropped.foldl (fun (s : State) r => s.evrDrop r.sev) s1
  if n = logRecords && !s2.evr.wasFull then { s2 with evr := { s2.evr with wasFull := true } }.raise .evr 5 else s2

/-- FLUSH_PAGE_COMMIT (R398, R400): up to 512 records are committed and leave the buffer, FLUSHED is raised; a failed write is retried. -/
def execFlushPageCommit (ok : Bool) (s : State) : Out :=
  .next (s.whileLive .evr fun s =>
    match s.evr.flush with
    | none => s
    | some cut =>
      if !ok then s.err .evr 0x80 (s.nand.log.length % 2 ^ 14)
      else
        let page := (s.evr.buf.filter fun r => r.seq < cut).take 512
        let s1 := (s.setBuf (s.evr.buf.filter fun r => !page.any fun q => q.seq == r.seq)).logAdd page
        let s2 := if page.isEmpty then s1 else (s1.useReserve 1).raise .evr 2
        if (s2.evr.buf.any fun r => decide (r.seq < cut)) && (!s2.stopping .evr || s2.evr.pf) then s2 else s2.endFlush)

/-- EVENT_ACCEPT (R394, R399, R405): of the records posted at the oldest instant, the first of the lowest SRC is accepted; while CORE is
off, records of PWR and RTC only; during a soft reset they wait. Log entry 51 (DEDUCED). -/
def execEventAccept (s : State) : Out := .next s.acceptNext

/-- EVR_FLUSH (R398, R405). -/
def execEvrFlush (m : Master) (s : State) : Out := .next (s.gate m .evr R.EVR_CMD fun s => s.startFlush)

/-- SRC of a firmware post (R392). -/
def masterSrc : Master → Nat
  | .mon => 0x19
  | .spi => 0x1A
  | _ => 0x18

/-- POST (R396): refused with code 0x83, or accepted before the write response, after what its source posted before (R394). -/
def execPost (m : Master) (c : Fin 8) (code : BitVec 16) (sev : BitVec 3) (cont : Bool) (s : State) : Out :=
  .next (s.gate m .evr (R.EVR_POSTc_CMD c) fun s =>
    let n := code.toNat
    let fw := 0x8000 ≤ n && n ≤ 0xDFFF
    let ok := if m = .mon then fw || (0x100 ≤ n && n ≤ 0xFFF) else fw && decide (sev.toNat ≤ s.rd F.EVR_CFG_HOST_SEV_MAX)
    if !ok then s.err .evr 0x83 c
    else
      let p (k : Nat) : Nat := (s.regGet (R.EVR_POSTc_Pk c k)).toNat
      (s.acceptThose fun e => e.src == masterSrc m).accept { src := masterSrc m, code := n, sev := sev.toNat, cont := cont, p0 := p 0, p1 := p 1, p2 := p 2, p3 := p 3 } 0)

/-! ## The read window (R401, R402) -/

/-- SEEK and NEXT: who may issue them, and one at a time. -/
def State.winCmd (s : State) (m : Master) (op : Nat) (start : State → Nat) : State :=
  s.gate m .evr R.EVR_CMD fun s =>
    if !s.bit F.EVR_CFG_RD_OPEN && m != .mon then s.err .evr 5 (woffOf .evr R.EVR_CMD)
    else if s.bit F.EVR_WIN_STAT_PEND then s.err .evr 0x85 op
    else { s with evr := { s.evr with next := start s, load := some (start s) } }.wr F.EVR_WIN_STAT_PEND 1

def execSeek (m : Master) (s : State) : Out := .next (s.winCmd m 2 fun s => s.rd64 R.EVR_CUR_LO R.EVR_CUR_HI)
def execNext (m : Master) (s : State) : Out := .next (s.winCmd m 3 fun s => s.evr.next)

/-- A record in its place in the history, with its page where it lies in the log. -/
def State.history (s : State) : List (LogRec × Option LogPage) :=
  (s.nand.log.flatMap fun p => p.recs.map fun r => (r, some p)) ++ s.evr.buf.map fun r => (r, none)

/-- A page whose tag fails posts TAG_FAIL once for each start (R395, R400). -/
def State.tagFail (s : State) (p : LogPage) : State :=
  if s.pageOk p || s.evr.tagFailed.contains p.first then s
  else
    let i := s.nand.log.findIdx fun q => q.first == p.first
    { s with evr := { s.evr with tagFailed := s.evr.tagFailed ++ [p.first] } }.send { src := 0x12, code := 4, sev := 6, p0 := i, p1 := p.first % 2 ^ 32 }

/-- A record of the window is bad: its CRC or its page's tag failed (R402). -/
def State.recBad (s : State) (x : LogRec × Option LogPage) : Bool :=
  !recOk x.1 || (match x.2 with | some p => !s.pageOk p | none => false)

/-- WIN_DONE (R401, R402): the window takes up to eight records from the start point on. -/
def execWinDone (s : State) : Out :=
  .next (s.whileLive .evr fun s =>
    match s.evr.load with
    | none => s
    | some st =>
      let l := s.history.filter fun x => decide (st ≤ x.1.seq)
      let w := l.take 8
      let bad := (upto 8).filter fun i => ((w[i]?).map s.recBad).getD false
      let s1 := (upto 8).foldl (fun (s : State) i => (upto 8).foldl (fun (s : State) k =>
        s.regPut (R.EVR_WINi i k) (BitVec.ofNat 32 (((w[i]?).map fun x => leAt x.1.bytes (4 * k) 4).getD 0))) s) s
      let noroot := w.any fun x => match x.2 with | some p => p.noroot && s.pageOk p | none => false
      let s2 := ((((s1.wr F.EVR_WIN_STAT_COUNT w.length).wr F.EVR_WIN_STAT_BAD (bad.foldl (fun x i => x + 2 ^ i) 0)).wrB F.EVR_WIN_STAT_END
        (l.length ≤ 8)).wr F.EVR_WIN_STAT_PEND 0).wrB F.EVR_WIN_STAT_NOROOT noroot
      let s3 := match w.head?, w.getLast? with
        | some a, some z =>
          ({ s2 with evr := { s2.evr with next := z.1.seq + 1 } }.regPut R.EVR_CUR_LO (BitVec.ofNat 32 a.1.seq)).wr F.EVR_CUR_HI_SEQ (a.1.seq / 2 ^ 32)
        | _, _ => s2
      let s4 := w.foldl (fun (s : State) x => match x.2 with | some p => s.tagFail p | none => s) s3
      let s5 := { s4 with evr := { s4.evr with load := none } }.raise .evr 3
      match bad with
      | i :: _ => s5.err .evr 0x81 i
      | [] => s5)

/-! ## Clears (R403, R404) -/

/-- EVR_NONCE (R403, R407, R408): a fresh nonce, once it is its turn in the key store, unless that refuses for want of entropy. -/
def execEvrNonce (m : Master) (s : State) : Out :=
  .next (s.gate m .evr R.EVR_CMD fun s => if s.kst.reqs.isEmpty then s.serveNonce else s.askKst .nonce)

/-- EVR_NONCE_EXPIRY (R403): 60 s. -/
def execEvrNonceExpiry (s : State) : Out :=
  .next (s.whileLive .evr fun s =>
    if s.evr.nonce.isSome && s.evr.nonceAt + 60000000000 ≤ s.nowNs then s.setEvrNonce none else s)

/-- A clear is refused (R404): RESULT, CLR_DONE and a code. Log entry 51 (DEDUCED). -/
def State.clrRefuse (s : State) (r code : Nat) : State := ((s.wr F.EVR_CLR_STAT_RESULT r).raise .evr 6).err .evr code r

/-- CLEAR (R403): it consumes the nonce. -/
def execClear (m : Master) (s : State) : Out :=
  .next (s.gate m .evr R.EVR_CMD fun s =>
    let s1 := s.setEvrNonce none
    let nonce := if s.nowNs < s.evr.nonceAt + 60000000000 then s.evr.nonce else none
    if !s.bit F.EVR_CFG_CLR_EN then s1.clrRefuse 1 0x82
    else if s.bit F.EVR_CLR_STAT_PEND then s1.clrRefuse 5 0x82
    else (({ s1 with evr := { s1.evr with check := some nonce } }.askKst .verify).wr F.EVR_CLR_STAT_PEND 1).showEvr)

/-- The checks of a clear token in their order: 0, or the result of the first failure. -/
def State.clrCheck (s : State) (t : List Byte) (nonce : Option Nat) : State × Nat :=
  let zero (o n : Nat) : Bool := ((t.drop o).take n).all (· == 0)
  if leAt t 0 4 ≠ 0x524C435A || leAt t 4 4 ≠ 1 || leAt t 8 16 ≠ s.serial || !zero 0x38 8 || !zero 0x9B4 28 then (s, 3)
  else if nonce ≠ some (leAt t 0x18 32) then (s, 2)
  else
    match s.useSlot (Fin.ofNat 32 (8 + s.rd F.EVR_CFG_CLR_SLOT)) with
    | (s1, .error _) => (s1, 4)
    | (s1, .ok h) => (s1, if mldsaVerify h.key (sha3 (t.take 0x40)) ((t.drop 0x40).take 2420) then 0 else 4)

/-- CLEAR_VERIFY_END (R403, R404, R408): in its turn, a refusal, or the cut is taken and LOG_CLEARED has the next SEQ. -/
def execClearVerifyEnd (s : State) : Out :=
  .next (s.whileLive .evr fun s =>
    match s.evr.check with
    | none => s
    | some nonce =>
      if !s.kstTurn .verify then s
      else
      let s0 := { s with evr := { s.evr with check := none } }.endKst .verify
      let done (s : State) (r code : Nat) : State := ((s.wr F.EVR_CLR_STAT_PEND 0).clrRefuse r code).showEvr
      match s0.dmaRead 12 (s0.rd64 R.EVR_TOK_LO R.EVR_TOK_HI) 2512 with
      | (s1, none) => done s1 6 0x84
      | (s1, some t) =>
        match s1.clrCheck t nonce with
        | (s2, r + 1) => done s2 (r + 1) 0x82
        | (s2, 0) =>
          let cut := s2.evr.seq
          let drops := (upto 8).foldl (fun n k => n + s2.rd (F.EVR_DROPs_COUNT k)) 0
          let (time, tf) := s2.recStamp
          let r : LogRec := ⟨cut, 7, mkRecord 1 7 0x12 (8 + tf) time (logCount s2.nand.log + s2.evr.buf.length) drops
            ((sha3 t).toNat % 2 ^ 32) (s2.rd F.EVR_CFG_CLR_SLOT) cut⟩
          (({ s2.setSeq (cut + 1) with evr := { (s2.setSeq (cut + 1)).evr with clear := some (cut, r) } }).incSat F.EVR_CLR_STAT_CLEARS).showEvr)

/-- CLEAR_COMMIT (R404): LOG_CLEARED is the first record of the new log; a flush in progress has nothing left to move and ends. -/
def execClearCommit (s : State) : Out :=
  .next (s.whileLive .evr fun s =>
    match s.evr.clear with
    | none => s
    | some (cut, r) =>
      let page := s.mkPage [r] 0
      let s1 := { s with nand := { s.nand with log := [page] }, evr := { s.evr with clear := none, flush := none, wasFull := false } }
      let s2 := ((s1.setBuf (s.evr.buf.filter fun x => decide (cut < x.seq))).wr F.EVR_LOG_STAT_COUNT 1).wrB (statFld .evr 10) false
      let s3 := (upto 8).foldl (fun (s : State) k => s.wr (F.EVR_DROPs_COUNT k) 0) s2
      let s4 := ((s3.wr F.EVR_CLR_STAT_RESULT 0).wr F.EVR_CLR_STAT_PEND 0).raise .evr 6
      let s5 := if s.evr.flush.isSome then s4.showEvr.postDropped else s4.showEvr
      if s5.evr.want then s5.startFlush else s5)

/-! ## Start, enable, soft reset (R398, R405) -/

/-- The start after a device reset: what the buffer holds goes to the log, records whose CRC fails are discarded and counted. -/
def State.evrStart (s : State) : State :=
  let l := s.evr.buf
  let good := l.filter recOk
  let pages := (upto 9).map fun i => (good.drop (512 * i)).take 512
  let s1 := { s with evr := { s.evr with flush := none, want := false, pf := false, nonce := none, next := 0, load := none, check := none, clear := none, tagFailed := [] } }
  let s2 := pages.foldl (fun (s : State) p => if p.isEmpty then s else (s.logAdd p).raise .evr 2) (s1.setBuf [])
  let n := l.length - good.length
  let s3 := if n = 0 then s2 else s2.accept { src := 0x12, code := 3, sev := 6, p0 := n } 0
  if l.isEmpty then s3 else s3.postDropped

/-- EN = 1: a trigger that was held starts a flush. -/
def State.evrEnable (s : State) : State := if s.evr.want then s.startFlush else s

/-- The registers of EVR that a reset keeps (R394, R397, R404, R405). -/
def evrKept (a : Nat) : Bool :=
  a == R.EVR_SEQ_LO || (R.EVR_DROPs 0 ≤ a && a ≤ R.EVR_DROPs 7) || a == R.EVR_BUF_STAT || a == R.EVR_LOG_STAT

/-- A soft reset of EVR beside its registers: the window, the nonce, a SEEK or NEXT and an uncommitted clear are abandoned; the page
write in progress completes (R405). -/
def State.evrSoftReset (s : State) : State :=
  let lastPage (cut : Nat) : Nat := ((((s.evr.buf.filter fun r => decide (r.seq < cut)).take 512).getLast?).map fun r => r.seq + 1).getD 0
  { s with evr := { s.evr with flush := s.evr.flush.map lastPage, want := false, nonce := none, next := 0, load := none, check := none, clear := none }
           kst := { s.kst with reqs := s.kst.reqs.filter fun x => x.2 != .verify } }

end Sys2Proof.Machine
end

