-- ==== Sys2Proof/Machine/Pfm.lean ====
section
/-! DEFINITION. The performance monitor (R509 to R517). -/

namespace Sys2Proof.Machine

/-! ## Counting (R510, R511) -/

/-- The latency bin of a transaction (R511). -/
def latBin (lat : Nat) : Nat := ((upto 16).filter fun k => k = 0 || decide (2 ^ (k + 3) ≤ lat)).length - 1

/-- The PFM runs a window. -/
def State.pfmRuns (s : State) : Bool := s.en .pfm && !s.isHalted .pfm

/-- A saturating addition, and whether it saturated. -/
def satTo (w n k : Nat) : Nat × Bool := if n + k < 2 ^ w then (n + k, false) else (2 ^ w - 1, true)

/-- Count a completed transaction of a port: its data bytes, direction and latency in fabric cycles (R510). Log entry 57 (DEDUCED). -/
def State.pfmCount (s : State) (port : Fin 16) (wr : Bool) (bytes lat : Nat) : State :=
  if !s.pfmRuns then s
  else
    let c := s.pfm.cnt[port]
    let k := Fin.ofNat 16 (latBin lat)
    let (b, f0) := satTo 64 c.bytes bytes
    let (r, f1) := if wr then (c.rd, false) else satTo 32 c.rd 1
    let (w, f2) := if wr then satTo 32 c.wr 1 else (c.wr, false)
    let (h, f3) := satTo 32 c.hist[k] 1
    { s with pfm := { s.pfm with
        cnt := s.pfm.cnt.set port { bytes := b, rd := r, wr := w, hist := c.hist.set k h }, sat := s.pfm.sat || f0 || f1 || f2 || f3 } }

/-! ## Windows (R512, R513, R515) -/

/-- WIN brought within its limits. -/
def State.pfmWin (s : State) : Nat := max 1 (min 1000000 (s.rd F.PFM_CFG_WIN))

/-- Slots of the record ring. -/
def State.pfmSlots (s : State) : Nat :=
  let n := s.rd F.PFM_RING_BASE_LO_LOG2N
  2 ^ (if 4 ≤ n && n ≤ 12 then n else 4)

/-- A window starts. Log entry 57 (DEDUCED). -/
def State.pfmStart (s : State) (part : Bool) : State :=
  { s with pfm := { s.pfm with cnt := Vector.replicate 16 {}, sat := false, partial_ := part, start := s.nowUs } }

/-- The counts of the window go to the register bank. -/
def State.pfmBank (s : State) : State :=
  (List.finRange 16).foldl (fun (s : State) (n : Fin 16) =>
    let c := s.pfm.cnt[n]
    let s1 := (((s.regPut (R.PFM_Pn_BYTES_LO n) (BitVec.ofNat 32 c.bytes)).regPut (R.PFM_Pn_BYTES_HI n) (BitVec.ofNat 32 (c.bytes / 2 ^ 32))).regPut
      (R.PFM_Pn_RD n) (BitVec.ofNat 32 c.rd)).regPut (R.PFM_Pn_WR n) (BitVec.ofNat 32 c.wr)
    (List.finRange 16).foldl (fun (s : State) (k : Fin 16) => s.regPut (R.PFM_Pn_HISTk n k) (BitVec.ofNat 32 c.hist[k])) s1) s

/-- A window record (R514). -/
def State.pfmRecord (s : State) (seq tEnd : Nat) : List Byte :=
  let port (n : Fin 16) : List Byte :=
    let c := s.pfm.cnt[n]
    leBytes 8 c.bytes ++ leBytes 4 c.rd ++ leBytes 4 c.wr ++ c.hist.toList.flatMap (leBytes 4)
  leBytes 4 0x4D46505A ++ leBytes 4 seq ++ leBytes 4 (b2n s.pfm.partial_ + 2 * b2n s.pfm.gap + 4 * b2n s.pfm.sat) ++ leBytes 4 s.pfmWin ++
    leBytes 8 s.pfm.start ++ leBytes 8 tEnd ++ List.replicate 32 0 ++ (List.finRange 16).flatMap port

/-- A record is dropped (R515). -/
def State.pfmDrop (s : State) : State := ({ s with pfm := { s.pfm with gap := true } }.incSat F.PFM_DROP_COUNT).raise .pfm 3

/-- The end of a window: the bank, the record, and the RWS fields commit (R512 to R515, R517). Log entry 57 (DEDUCED). -/
def State.pfmEnd (s : State) (part : Bool) : State :=
  let seq := (s.pfm.seq + 1) % 2 ^ 32
  let t := s.nowUs
  let s0 := { s with pfm := { s.pfm with seq := seq, partial_ := s.pfm.partial_ || part } }
  let s1 := ((s0.pfmBank.wr F.PFM_WSEQ_SEQ seq).wr F.PFM_WEND_LO_T_END (t % 2 ^ 32)).wr F.PFM_WEND_HI_T_END (t / 2 ^ 32)
  let full := (s1.rd F.PFM_RING_IDX_WR + 1) % s1.pfmSlots == s1.rd F.PFM_RING_IDX_RD % s1.pfmSlots
  let s2 :=
    if !s1.bit F.PFM_CFG_DUMP_EN then s1
    else if full || s1.pfm.rec_.isSome || s1.shed then s1.pfmDrop
    else { s1 with pfm := { s1.pfm with rec_ := some (s1.pfmRecord seq t), gap := false } }
  (s2.commitBlk .pfm).freezePoint .pfm

/-- PFM_WINDOW_END (R512, R513): at a TB2 instant that WIN divides; the next window starts. -/
def execPfmWindowEnd (s : State) : Out :=
  .next (s.whileLive .pfm fun s =>
    if !s.runs .pfm || s.nowUs % s.pfmWin ≠ 0 || s.nowUs = s.pfm.start then s else (s.pfmEnd false).pfmStart false)

/-- REC_DONE (R514, R515): the record has been accepted whole, or a translation fault abandons it. -/
def execRecDone (s : State) : Out :=
  .next (s.whileLive .pfm fun s =>
    match s.pfm.rec_ with
    | none => s
    | some b =>
      let w := s.rd F.PFM_RING_IDX_WR % s.pfmSlots
      let base := s.rd F.PFM_RING_BASE_LO_BASE * 2 ^ 12 + s.rd F.PFM_RING_BASE_HI_BASE * 2 ^ 32
      match { s with pfm := { s.pfm with rec_ := none } }.dmaWrite 15 (base + 2048 * w) b with
      | (s1, true) => (s1.wr F.PFM_RING_IDX_WR ((w + 1) % s1.pfmSlots)).raise .pfm 2
      | (s1, false) => ((s1.pfmDrop.raise .pfm 4).err .pfm 0x80 0))

/-! ## User-mode access (R516) -/

/-- A register that user mode may read while USER_OK is 1. -/
def pfmUserReg (off : Nat) : Bool := off % 4 == 0 && (off == 0x58 || off == 0x5C || off == 0x60 || (0x100 ≤ off && off ≤ 0x8FF))

/-- PFM_USER_ACCESS (R516): a user-mode access of a host core to offset `off`; `mapped`: its tables map the page for user access; `wr`: a
write of that value. -/
def execPfmUserAccess (_core : Fin 4) (off : BitVec 16) (mapped : Bool) (wr : Option Word) (s : State) : Out :=
  .next (
    if !s.unreachable .pfm && mapped then
      match wr with
      | some _ => (s.err .pfm 0x81 (off.toNat / 4)).replyErr
      | none =>
        if s.bit F.PFM_USER_CTRL_USER_OK && pfmUserReg off.toNat then
          (if s.inSoftRst .pfm then s.reply (regReset (Blk.base .pfm + off.toNat)) else s.reply (s.regGet (Blk.base .pfm + off.toNat)))
        else s.replyErr
    else s.replyErr)

end Sys2Proof.Machine
end

