-- ==== Sys2Proof/Machine/FabMem.lean ====
section
/-! DEFINITION. The fabric, memory controllers, translation unit commands, flash manager and background services (R430 to R459). -/

namespace Sys2Proof.Machine

/-! ## Errors and quotas -/

/-- A correctable error is corrected, written back and counted where the word lies (R112, R251, R440). -/
def State.ceSeen (s : State) (a : Nat) : State :=
  let s := if inDram a || inSram a || inTiles a then { s with tdm := { s.tdm with eccC := s.tdm.eccC + 1 } } else s
  if inDram a then { s with bgs := { s.bgs with ce := s.bgs.ce + 1 } }.incSat F.MEM_ECC_DRAM_CORR
  else if inSram a then s.incSat F.MEM_ECC_SRAM_CORR
  else if inCadMem a then s.incSat F.CAD_ECC_CNT_CORR
  else if inTiles a then s.incSat F.SLV_ECC_CORR
  else s

/-- The aligned 64-bit word at an address has become uncorrectable. -/
def State.markUe (s : State) (a : Nat) : State := let w := a / 8 * 8; if s.ue.contains w then s else { s with ue := s.ue ++ [w] }

/-- A write of FAB_QUOTAn that would break R431 is discarded with code 0x81 (R455); WEIGHT of an RT port stays 0. -/
def State.writeQuota (s : State) (n : Fin 16) (v : Word) : State :=
  let resv := getBits v 0 8
  let mx := getBits v 8 8
  let rt := [3, 4, 6, 8, 9, 10].contains n.val
  if mx < resv || 232 < s.sumResv - s.resvOf n + resv then s.err .fab 0x81 (woffOf .fab (R.FAB_QUOTAn n))
  else ((s.wr (F.FAB_QUOTAn_RESV n) resv).wr (F.FAB_QUOTAn_MAX n) mx).wr (F.FAB_QUOTAn_WEIGHT n) (if rt then 0 else getBits v 16 4)

/-! ## Memory (R439) -/

/-- HOT reads 1: the die is above 85 °C. -/
def State.hot (s : State) : Bool := s.bit (statFld .mem 8)

/-- DRAM_REFRESH (R439): an all-bank refresh of a channel at its interval. -/
def execDramRefresh (ch : Fin 2) (s : State) : Out :=
  .next (s.whileLive .mem fun s =>
    if s.nowNs < s.refreshAt[ch] + (if s.hot then 1953 else 3906) then s else { s with refreshAt := s.refreshAt.set ch s.nowNs })

/-- HOT_CHG (R439, R457). -/
def execHotChg (hot : Bool) (s : State) : Out :=
  .next (s.whileLive .mem fun s => if s.hot = hot then s else (s.wrB (statFld .mem 8) hot).raise .mem 3)

/-! ## Translation commands (R447, R456) -/

/-- Contexts 12 and 13 are monitor only. -/
def ctxBarred (m : Master) (ctx : Nat) : Bool := (ctx == 12 || ctx == 13) && m != .mon

/-- A physical extent of pages touches boot ROM or register pages. -/
def touchesBarred (ppn pages : Nat) : Bool :=
  pages != 0 && (decide (ppn < 0x20) || (decide (ppn < 0x10180) && decide (0x10000 < ppn + pages)))

/-- PIN_CFG (R447): commits the selected range, or refuses it with code 0x80. Log entry 53 (DEDUCED). -/
def execPinCfg (m : Master) (v : Word) (s : State) : Out :=
  .next (s.gate m .xlt R.XLT_PIN_CFG fun s =>
    let ctx := s.rd F.XLT_PIN_SEL_CTX
    let pages := getBits v 0 27
    let ppn := s.rd F.XLT_PIN_PA_PPN
    let en := bitAt v 31
    if 16 < ctx then s
    else if ctxBarred m ctx then s.err .xlt 5 (woffOf .xlt R.XLT_PIN_CFG)
    else if en && touchesBarred ppn pages then s.err .xlt 0x80 ctx
    else
      let p : Pin := { va := s.rd F.XLT_PIN_VA_VPN, pa := ppn, pages := pages, r := bitAt v 28, w := bitAt v 29, en := en }
      ({ s with xlt := { s.xlt with pins := Sparse.put s.xlt.pins {} (8 * ctx + s.rd F.XLT_PIN_SEL_RANGE) p } }.regPut R.XLT_PIN_CFG
        (v &&& 0xB7FFFFFF)))

/-- PIN_SEL (R456): loads VA, PA and CFG with the range's active values. -/
def execPinSel (m : Master) (v : Word) (s : State) : Out :=
  .next (s.gate m .xlt R.XLT_PIN_SEL fun s =>
    let p := s.pin (getBits v 0 5) (getBits v 8 3)
    let s1 := (s.wr F.XLT_PIN_SEL_CTX (getBits v 0 5)).wr F.XLT_PIN_SEL_RANGE (getBits v 8 3)
    let cfg := p.pages % 2 ^ 27 + 2 ^ 28 * b2n p.r + 2 ^ 29 * b2n p.w + 2 ^ 31 * b2n p.en
    ((s1.wr F.XLT_PIN_VA_VPN p.va).wr F.XLT_PIN_PA_PPN p.pa).regPut R.XLT_PIN_CFG (BitVec.ofNat 32 cfg))

/-- INVAL (R447). -/
def execInval (m : Master) (ctx : BitVec 5) (s : State) : Out :=
  .next (s.gate m .xlt R.XLT_CMD fun s =>
    if ctxBarred m ctx.toNat then s.err .xlt 5 (woffOf .xlt R.XLT_CMD)
    else { s with xlt := { s.xlt with cache := s.xlt.cache.filter fun e => e.ctx != ctx.toNat } })

/-- FAULT_POP (R456): a read of XLT_FAULT takes the oldest entry and latches its IOVA. -/
def execFaultPop (_m : Master) (s : State) : Out :=
  .next (s.gateRead .xlt R.XLT_FAULT fun s =>
    match s.xlt.log with
    | [] => s.reply 0
    | e :: t =>
      let s1 := ({ s with xlt := { s.xlt with log := t } }.regPut R.XLT_FAULT_VA_LO (BitVec.ofNat 32 e.iova)).wr F.XLT_FAULT_VA_HI_VA (e.iova / 2 ^ 32)
      s1.reply (BitVec.ofNat 32 (e.ctx + 256 * e.cause + 2048 * b2n e.wr + 2 ^ 31)))

/-- An XLT soft reset beside its registers (R456). -/
def State.xltSoftReset (s : State) : State := { s with xlt := {} }

/-! ## The flash manager (R448 to R450, R458) -/

/-- Logical pages of a partition that host commands reach. -/
def partPages (part : Nat) : Option Nat :=
  if part = 0 then some 16384 else if part = 1 then some 256 else if part = 6 then some 256 else if part = 7 then some 1048576 else none

/-- The immediate refusal of a host command, or 0 (R448, R458, R524). -/
def State.nfmRefusal (s : State) (op part arg : Nat) : Nat :=
  if s.bit F.NFM_RES_PEND || !s.runs .nfm || s.shed then 1
  else if op = 4 then (if part = 5 then 0 else 2)
  else
    match partPages part with
    | none => 2
    | some n =>
      if n ≤ arg then 3
      else if part = 1 && 16 ≤ arg && op ≠ 1 then 2
      else if op = 2 && s.nand.reserve < 288 then 1
      else 0

/-- The end of a host command: RESULT, CMD_DONE and its code. -/
def State.nfmEnd (s : State) (r : Nat) : State :=
  let s1 := (s.wr F.NFM_RES_RESULT r).raise .nfm 2
  if r = 0 then s1
  else if r = 5 then (s1.raise .nfm 4).err .nfm 0x81 0
  else if r = 7 then s1.err .nfm 0x82 0
  else s1.err .nfm 0x80 r

/-- A write of NFM_CMD with GO = 1. -/
def State.nfmCmd (s : State) (m : Master) (op part : Nat) : State :=
  s.gate m .nfm R.NFM_CMD fun s =>
    let arg := s.rd F.NFM_ARG_ARG
    let r := s.nfmRefusal op part arg
    if r ≠ 0 then s.nfmEnd r
    else { s with nfm := some ⟨op, part, arg, s.rd64 R.NFM_BUF_LO R.NFM_BUF_HI⟩ }.wr F.NFM_RES_PEND 1

def execNfmRead (m : Master) (part : BitVec 4) (s : State) : Out := .next (s.nfmCmd m 1 part.toNat)
def execNfmWrite (m : Master) (part : BitVec 4) (s : State) : Out := .next (s.nfmCmd m 2 part.toNat)
def execTrim (m : Master) (part : BitVec 4) (s : State) : Out := .next (s.nfmCmd m 3 part.toNat)
def execReadBill (m : Master) (part : BitVec 4) (s : State) : Out := .next (s.nfmCmd m 4 part.toNat)

/-- Bytes of a logical page. -/
def pageSize : Nat := 16384

/-- The contents of a logical page; one not written holds open bytes. -/
def State.nandPage (s : State) (part page : Nat) : List Byte × State :=
  match Sparse.get s.nand.pages none (part * 2 ^ 20 + page) with
  | some b => (b, s)
  | none => let (v, s1) := s.draw; (leBytes pageSize v, s1)

/-- A page is written, or emptied: its count of reads starts again. -/
def State.setPage (s : State) (part page : Nat) (b : Option (List Byte)) : State :=
  { s with nand := { s.nand with
      pages := Sparse.put s.nand.pages none (part * 2 ^ 20 + page) b, reads := Sparse.put s.nand.reads 0 (part * 2 ^ 20 + page) 0 } }

/-- A read of a page is counted; at 50,000 since it was written, the page is rewritten elsewhere (R449). Log entry 53 (DEDUCED). -/
def State.readPage (s : State) (part page : Nat) : State :=
  let k := part * 2 ^ 20 + page
  { s with nand := { s.nand with reads := Sparse.put s.nand.reads 0 k ((Sparse.get s.nand.reads 0 k + 1) % 50000) } }

/-- Spare blocks do not come back: `n` counted, of those left at the last count. -/
def State.sparesLeft (s : State) (n : Nat) : Nat := match s.nand.spare with | some k => min k n | none => n

/-- NFM_HEALTH, and SPARE_LOW with its event as the spares fall below 64 (R449). Log entry 53 (DEDUCED). -/
def State.setSpare (s : State) (count : Nat) : State :=
  let n := s.sparesLeft count
  let s1 := { s with spareLow := decide (n < 64), nand := { s.nand with spare := some n } }.wr F.NFM_HEALTH_SPARE n
  if n < 64 && !s.spareLow then
    let s2 := s1.raise .nfm 3
    s2.event .nfm 3 6 (s2.regGet (R.BLK_IRQ_RAW .nfm)).toNat 0 0 0
  else s1

/-- Deliver a page to the buffer of a command. Log entry 53 (DEDUCED). -/
def State.toBuf (s : State) (j : NfmJob) (b : List Byte) : State × Nat :=
  match s.dmaWrite 14 j.buf b with
  | (s1, true) => (s1, 0)
  | (s1, false) => (s1, 6)

/-- The work of a host command and its RESULT; `spare`: the spare blocks left, without which a write ends with RESERVE. -/
def State.nfmRun (s : State) (j : NfmJob) (fate : NandFate) (spare : Nat) : State × Nat :=
  if j.op = 1 then
    (let s := s.readPage j.part j.arg
     if fate = .uncorr then (s, 5) else let (b, s1) := s.nandPage j.part j.arg; s1.toBuf j b)
  else if j.op = 2 then
    (if spare = 0 then (s, 7)
     else if fate = .busy then (s, 1)
     else match s.dmaRead 14 j.buf pageSize with
       | (s1, some b) => (s1.setPage j.part j.arg (some b), 0)
       | (s1, none) => (s1, 6))
  else if j.op = 3 then (s.setPage j.part j.arg none, 0)
  else
    match s.nand.bill.find? fun b => b.seq == j.arg with
    | none => (s, 4)
    | some b =>
      if fate = .uncorr then (s, 5)
      else let (v, s1) := s.draw; s1.toBuf j ((b.bytes ++ leBytes pageSize v).take pageSize)

/-- NFM_CMD_DONE (R449, R450): what the NAND did, and the spare blocks left. -/
def execNfmCmdDone (fate : NandFate) (spare : BitVec 16) (s : State) : Out :=
  .next (s.whileLive .nfm fun s =>
    match s.nfm with
    | none => s
    | some j =>
      if s.shed then s
      else
        let (s1, r) := { s with nfm := none }.nfmRun j fate (s.sparesLeft spare.toNat)
        (((s1.wr F.NFM_RES_PEND 0).nfmEnd r).setSpare spare.toNat).freezePoint .nfm)

/-- NAND_CARE (R449 to R451): NFM erases the power-fail reserve again; wear levelling, refresh and retirement are BGS's, while it runs. -/
def execNandCare (spare : BitVec 16) (wear : BitVec 10) (s : State) : Out :=
  .next (s.whileLive .nfm fun s =>
    if s.shed then s
    else
      let s1 := { s with nand := { s.nand with reserve := 288 } }
      if s.isHalted .bgs || s.stilled .bgs || !s.runs .bgs then s1 else (s1.setSpare spare.toNat).wr F.NFM_HEALTH_WEAR wear.toNat)

/-! ## Background services (R451 to R454) -/

/-- Take an extent out of another. -/
def cutExtent (a b : Nat) (x : Nat × Nat × Nat) : List (Nat × Nat × Nat) :=
  ([(x.1, min x.2.1 a, x.2.2), (max x.1 b, x.2.1, x.2.2)] : List (Nat × Nat × Nat)).filter fun y => decide (y.1 < y.2.1)

/-- Extents and when they were checked, after a burst from `a` to `b` in second `t`. -/
def addScrub (l : List (Nat × Nat × Nat)) (a b t : Nat) : List (Nat × Nat × Nat) := l.flatMap (cutExtent a b) ++ (if a < b then [(a, b, t)] else [])

/-- Words of an extent that scrub checks: of shared SRAM and DRAM. -/
def scrubWords (a b : Nat) : Nat :=
  (min b 0x1400000 - max a 0x1000000) / 8 + (min b 0x280000000 - max a 0x80000000) / 8

/-- The fraction, in ‰, of words checked within the last `h` hours (R385, R386, R451). -/
def State.coverOver (s : State) (h : Nat) : Nat :=
  let n := s.bgs.scrubs.foldl (fun n x => if s.nowSec ≤ x.2.2 + 3600 * h then n + scrubWords x.1 x.2.1 else n) 0
  1000 * n / (scrubWords 0 (2 ^ 40))

/-- COVER (R451): over the last HOURS + 1 hours. -/
def State.cover (s : State) : Nat := s.coverOver (max 1 (s.rd F.BGS_SCRUB_CFG_HOURS) + 1)

/-- The SCRUB self-test of a member of a pair (R385): it fails on an uncorrectable error or a coverage over 25 h below 1,000 ‰. -/
def State.scrubTest (s : State) (bad : Bool) : State :=
  if !(s.tandem && s.en .tdm) then s
  else if bad then s.selfTestFail 0
  else if 1000 ≤ s.coverOver 25 then { s with tdm := { s.tdm with fails := setMark s.tdm.fails 0 false } }
  else s

/-- The first address and the length of the memory that scrub passes over: DRAM, or shared SRAM. -/
def scrubMem (dram : Bool) : Nat × Nat := if dram then (0x80000000, 0x200000000) else (0x1000000, 0x400000)

/-- The period of a pass, in ns (R451, R459). -/
def State.scrubPeriod (s : State) (dram : Bool) : Nat :=
  if dram then max 1 (s.rd F.BGS_SCRUB_CFG_HOURS) * 3600000000000 else max 1 (s.rd F.BGS_SCRUB_CFG_SRAM_MIN) * 60000000000

/-- When a pass began and the bytes it has checked: a pass that is complete gives way to the next as its period ends. -/
def State.scrubPass (s : State) (dram : Bool) : Nat × Nat :=
  let p := if dram then s.bgs.passD else s.bgs.passS
  if (scrubMem dram).2 ≤ p.2 && p.1 + s.scrubPeriod dram ≤ s.nowNs then (s.nowNs, 0) else p

/-- A burst from `b` on is due: it goes on where the pass stands, no further than the pass goes, within the budget, and not ahead of the pace
at which the pass fills its period (R451). Log entry 53 (DEDUCED). -/
def State.scrubDue (s : State) (b words : Nat) : Bool :=
  let p := s.scrubPass (inDram b)
  let (lo, len) := scrubMem (inDram b)
  (inDram b || inSram b) && b == lo + p.2 && decide (p.2 + 8 * words ≤ len) && decide (s.bgs.paidTo ≤ s.nowNs) &&
    decide (p.2 * s.scrubPeriod (inDram b) ≤ (s.nowNs - p.1) * len)

/-- A burst is done: the pass stands behind it, and its bytes use SCRUB_KBS for their time. -/
def State.scrubbed (s : State) (b words : Nat) : State :=
  let p := s.scrubPass (inDram b)
  let q := (p.1, p.2 + 8 * words)
  let bgs := { s.bgs with
    scrubs := addScrub s.bgs.scrubs b (b + 8 * words) s.nowSec, paidTo := s.nowNs + 8 * words * 1000000 / max 1 (s.rd F.BGS_BUDGET_SCRUB_KBS) }
  { s with bgs := if inDram b then { bgs with passD := q } else { bgs with passS := q } }

/-- SCRUB_BURST (R440, R441, R451): the words of DRAM and shared SRAM from `a` on are read and checked; those of `ce` are found with an error
that is corrected, those of `ue` are found uncorrectable, beside the words that already are: these are reported and not written back.
Log entry 53 (DEDUCED). -/
def execScrubBurst (a words : Nat) (ce ue : List Nat) (s : State) : Out :=
  .next (s.whileLive .bgs fun s =>
    if !s.runs .bgs || s.shed || !s.scrubDue (a / 8 * 8) words then s
    else
      let b := a / 8 * 8
      let inRange (w : Nat) : Bool := decide (b ≤ w) && decide (w < b + 8 * words) && (inDram w || inSram w)
      let s0 := (ue.filter inRange).foldl State.markUe s
      let s1 := (ce.filter fun w => inRange w && (s0.ueIn w 1).isNone).foldl State.ceSeen s0
      let s2 := (s1.ue.filter inRange).foldl (fun (s : State) w => s.ueSeen w) s1
      let s3 := s2.scrubbed b words
      ((s3.scrubTest (s1.ue.any inRange)).wr F.BGS_SCRUB_STAT_COVER s3.cover).freezePoint .bgs)

/-- SCRUB_SHORT (R385, R451): at a whole TB2 hour with COVER below 1,000. -/
def execScrubShort (s : State) : Out :=
  .next (s.whileLive .bgs fun s =>
    if !s.runs .bgs || s.shed || s.nowSec % 3600 ≠ 0 then s
    else
      let s1 := if 1000 ≤ s.cover then s else (s.raise .bgs 4).err .bgs 0x81 0
      s1.scrubTest (decide (s1.coverOver 25 < 1000)))

/-- A truing correction is within its limit (R453): metering offset and gain and the RTD reference in ppm, a DI threshold in mV. -/
def trueOk (ch : Nat) (off gain : Int) : Bool :=
  if ch < 16 then off.natAbs ≤ 2000 && gain.natAbs ≤ 5000 else if ch < 24 then off.natAbs ≤ 500 else off.natAbs ≤ 300

/-- BGS_TRUE_STAT.METER, RTD and DI follow the held channels. -/
def State.showTrue (s : State) : State :=
  ((s.wrB F.BGS_TRUE_STAT_METER (s.trueHeld.any fun c => decide (c < 16))).wrB F.BGS_TRUE_STAT_RTD
    (s.trueHeld.any fun c => decide (16 ≤ c) && decide (c < 24))).wrB F.BGS_TRUE_STAT_DI (s.trueHeld.any fun c => decide (24 ≤ c))

/-- A channel's truing step is due: 60 s after its last (R451). Log entry 53 (DEDUCED). -/
def State.trueDue (s : State) (ch : Nat) : Bool :=
  match Sparse.get s.bgs.truedAt none ch with
  | none => true
  | some t => decide (t + 60000000000 ≤ s.nowNs)

/-- TRUING_STEP (R451 to R453): the channel's coefficients become its correction's at the next sample boundary, or stay.
Log entry 53 (DEDUCED). -/
def execTruingStep (ch : Fin 48) (off gain : Int) (s : State) : Out :=
  .next (s.whileLive .bgs fun s =>
    if !s.runs .bgs || s.shed || !s.trueDue ch then s
    else
      let s := { s with bgs := { s.bgs with truedAt := Sparse.put s.bgs.truedAt none ch (some s.nowNs) } }
      let t := setMark s.bgs.trued ch true
      let s0 := if t = BitVec.allOnes 48 then { s with bgs := { s.bgs with trued := 0, passAt := some s.nowSec } } else { s with bgs := { s.bgs with trued := t } }
      if trueOk ch off gain then
        let c : Int × Int := Sparse.get s0.coef (0, 0) ch
        ({ s0 with
          coefNew := Sparse.put (s0.coefNew.filter fun x => x.1 != ch.val) (0, 0) ch (c.1 + off, c.2 + gain),
          trueHeld := s0.trueHeld.filter fun c => c != ch.val }.showTrue).freezePoint .bgs
      else
        let s1 := { s0 with trueHeld := (s0.trueHeld.filter fun c => c != ch.val) ++ [ch.val] }.showTrue
        (((s1.raise .bgs 3).err .bgs 0x80 ch)).freezePoint .bgs)

/-- Seconds since the last complete truing pass. -/
def State.trueAge (s : State) : Nat := match s.bgs.passAt with | some t => min 0xFFFF (s.nowSec - t) | none => 0xFFFF

/-- A telemetry frame (R454). -/
def State.telFrame (s : State) (seq : Nat) (temp util : BitVec 16) : List Byte :=
  let c16 (n : Nat) : List Byte := leBytes 2 (min 0xFFFF n)
  let flags := b2n (!s.tb3Valid) + 2 * b2n (bitAt (s.regGet (R.BLK_IRQ_RAW .bgs)) 4) + 4 * b2n (!s.trueHeld.isEmpty) + 8 * b2n s.spareLow + 16 * b2n s.hot
  let b := leBytes 4 seq ++ leBytes 4 flags ++ leBytes 8 (recTime s.tb3) ++ leBytes 2 temp.toNat ++ leBytes 2 util.toNat ++ c16 s.fab.peak ++
    leBytes 2 s.cover ++ c16 s.bgs.ce ++ c16 s.bgs.ue ++ leBytes 2 (s.rd F.NFM_HEALTH_WEAR) ++
    leBytes 2 (s.rd F.NFM_HEALTH_SPARE) ++ c16 s.bgs.faults ++ c16 s.bgs.timeouts ++ leBytes 2 s.trueAge ++ List.replicate 22 0
  b ++ leBytes 4 (crc32 b).toNat

/-- TELEMETRY (R451, R454): at a whole TB2 second; die temperature and DRAM use are measured. Log entry 53 (DEDUCED). -/
def execTelemetry (temp util : BitVec 16) (s : State) : Out :=
  .next (s.whileLive .bgs fun s =>
    if !s.runs .bgs || s.shed || s.nowSec = s.bgs.telSec then s
    else
      let seq := (s.bgs.telSeq + 1) % 2 ^ 32
      let n := s.rd F.BGS_TEL_BASE_LO_LOG2N
      let n := if 4 ≤ n && n ≤ 12 then n else 4
      let base := s.rd F.BGS_TEL_BASE_LO_BASE * 2 ^ 12 + s.rd F.BGS_TEL_BASE_HI_BASE * 2 ^ 32
      let frame := s.telFrame seq temp util
      let s0 := { s with
        bgs := { s.bgs with telSec := s.nowSec, telSeq := seq, ce := 0, ue := 0, faults := 0, timeouts := 0 }
        fab := { s.fab with peak := s.inFlight } }
      match s0.dmaWrite 15 (base + 64 * (seq % 2 ^ n)) frame with
      | (s1, true) => ((s1.wr F.BGS_TEL_SEQ_SEQ seq).raise .bgs 2).freezePoint .bgs
      | (s1, false) => s1)

end Sys2Proof.Machine
end

