-- ==== Sys2Proof/Machine/Lpe.lean ====
section
/-! DEFINITION. The loop engine and the guard commands (R196 to R220). -/

namespace Sys2Proof.Machine

/-! ## The loop table entry (R196 to R198) -/

/-- A 4-byte signed field. -/
def i32At (bs : List Byte) (o : Nat) : Int := leAtS bs o 4

/-- Loop record j of an entry (R197). -/
def parseLoop (bs : List Byte) (j : Nat) : LoopRec :=
  let o := 0x40 + 0x60 * j
  let pv := leAt bs o 4
  let sh := leAt bs (o + 0x14) 4
  { used := pv.testBit 31, pvSig := pv % 2 ^ 23, qlim := nbits pv 24 3, rev := pv.testBit 27,
    kp := i32At bs (o + 4), ki := i32At bs (o + 8), kd := i32At bs (o + 0xC), kf := i32At bs (o + 0x10),
    shP := nbits sh 0 5, shI := nbits sh 5 5, shD := nbits sh 10 5, shF := nbits sh 15 5,
    db := leAt bs (o + 0x18) 4, ramp := leAt bs (o + 0x1C) 4, restartThr := leAt bs (o + 0x20) 4,
    spInit := i32At bs (o + 0x24), manInit := i32At bs (o + 0x28), modeInit := leAt bs (o + 0x2C) 1 }

/-- The working copy of a loop table entry (R196). -/
def parseEntry (bs : List Byte) : SlotEntry :=
  let ctl := leAt bs 0 2
  let fb := leAt bs 0x1C 4
  { lockTask := ctl % 8, locked := ctl.testBit 3, compChar := ctl.testBit 4, compStic := ctl.testBit 5, failOut := ctl.testBit 6,
    period := leAt bs 4 4, phase := leAt bs 8 4, outSig := leAt bs 0xC 4 % 2 ^ 23,
    outMin := i32At bs 0x10, outMax := i32At bs 0x14, failVal := i32At bs 0x18,
    fbSig := fb % 2 ^ 23, fbEn := fb.testBit 31, fbLo := i32At bs 0x20, fbShift := leAt bs 0x24 1, sticN := leAt bs 0x25 1,
    sticDb := leAt bs 0x28 4, loops := (upto 4).map (parseLoop bs),
    chr := (upto 64).map fun k => leAt bs (0x1C0 + 4 * k) 4, stic := (upto 64).map fun k => i32At bs (0x2C0 + 4 * k) }

/-- Bytes `o` to `o + n - 1` are all 0. -/
def zeros (bs : List Byte) (o n : Nat) : Bool := ((bs.drop o).take n).all fun b => b == 0

/-- The field ranges of R196 and R197. -/
def entryOk (bs : List Byte) : Bool :=
  let e := parseEntry bs
  let loopOk (j : Nat) : Bool :=
    let o := 0x40 + 0x60 * j
    let r := parseLoop bs j
    let pv := leAt bs o 4
    !pv.testBit 23 && nbits pv 28 3 == 0 && nbits (leAt bs (o + 0x14) 4) 20 12 == 0 && zeros bs (o + 0x2D) 51 &&
      decide (r.qlim ≤ 6) && decide (r.modeInit ≤ 2)
  leAt bs 0 2 / 2 ^ 7 == 0 && zeros bs 2 2 && (e.locked || (decide (100 ≤ e.period) && decide (e.period ≤ 60000000))) &&
  leAt bs 0xC 4 / 2 ^ 23 == 0 && decide (e.outMin ≤ e.outMax) && decide (e.outMin ≤ e.failVal) && decide (e.failVal ≤ e.outMax) &&
  nbits (leAt bs 0x1C 4) 23 8 == 0 && decide (e.fbShift ≤ 26) && decide (1 ≤ e.sticN) && zeros bs 0x26 2 && zeros bs 0x2C 20 &&
  zeros bs 0x3C0 60 && (upto 4).all loopOk && e.loops.any (·.used)

/-- RESULT of the checks of R198 on an entry for a slot: 0 OK, 1 CHK_FAIL, 2 BAD_ENTRY, 3 OUT_CONFLICT, 4 NO_GUARD. Log entry 19 (DEDUCED). -/
def State.entryCheck (s : State) (n : Fin 64) (bs : List Byte) : Nat :=
  let e := parseEntry bs
  let inProgram : Bool := match s.activeBank with
    | none => false
    | some b => match s.slotOfSig b e.outSig with
      | none => false
      | some k => s.slotDir b k == 1 || s.slotDir b k == 2
  if leAt bs 0x3FC 4 ≠ (crc32 (bs.take 0x3FC)).toNat then 1
  else if !entryOk bs then 2
  else if inProgram || (allSlots.any fun m => m != n && s.lslotState m != 0 && (s.lslot m).entry.outSig == e.outSig) then 3
  else if (s.guardEntry e.outSig).isNone then 4
  else 0

/-- The address of a slot's entry in LPE's translation context. -/
def State.loopEntryAddr (s : State) (n : Fin 64) : Nat :=
  s.rd F.LPE_TBL_BASE_LO_BASE_LO * 2 ^ 16 + s.rd F.LPE_TBL_BASE_HI_BASE_HI * 2 ^ 32 + 1024 * n.val

/-- A slot command ended (R199, R220): SLOT_DONE is raised, and LPE_SLOT_RES shows its outcome if it is the last command. -/
def State.slotDone (s : State) (n : Fin 64) (result : Nat) : State :=
  (if s.rd F.LPE_SLOT_RES_SLOT = n.val then (s.wr F.LPE_SLOT_RES_PEND 0).wr F.LPE_SLOT_RES_RESULT result else s).raise .lpe 5

/-- A slot command is now the last one, waiting for its sample instant or not (R220). -/
def State.slotTaken (s : State) (n : Fin 64) (pend : Bool) : State := (s.wr F.LPE_SLOT_RES_SLOT n.val).wrB F.LPE_SLOT_RES_PEND pend

/-- Mode codes of a slot's four loops as LPE_SLOTn_STAT.MODES shows them. -/
def modesOf (l : List LoopState) : Nat :=
  match l with
  | [] => 0
  | x :: t => x.mode % 4 + 4 * modesOf t

/-- A loop's state at ENABLE (R199). -/
def initLoop (r : LoopRec) : LoopState :=
  { mode := if r.used then r.modeInit else 0, target := r.spInit, manual := r.manInit, spEff := r.spInit }

/-- The number of an unlocked slot's latest due instant: t mod PERIOD = PHASE mod PERIOD, t in µs of TB2 (R200). -/
def State.dueIndex (s : State) (e : SlotEntry) : Nat :=
  let p := max 1 e.period
  (s.nowUs + p - e.phase % p) / p

/-- ENABLE at once, for a DISABLED slot (R198, R199). -/
def State.doEnable (s : State) (n : Fin 64) : State :=
  match s.dmaRead 1 (s.loopEntryAddr n) 1024 with
  | (s1, none) => (s1.err .lpe 0x80 n.val).slotDone n 6
  | (s1, some bs) =>
    let r := s1.entryCheck n bs
    if r ≠ 0 then (s1.err .lpe 0x81 n.val).slotDone n r
    else
      let e := parseEntry bs
      let u : Int := ((s1.guardedVal e.outSig).map (·.value.toInt)).getD 0
      let ls := e.loops.map initLoop
      let x : LpeSlot := { entry := e, loops := ls, uFb := u, uSel1 := u, p1 := u, served := s1.dueIndex e, lout := (s1.lslot n).lout }
      let s2 := ((s1.setLslot n x).wr (F.LPE_SLOTn_STAT_STATE n) 1).wr (F.LPE_SLOTn_STAT_MODES n) (modesOf ls)
      s2.slotDone n 0

/-- DISABLE (R199): the slot stops and its signal carries its safe value from the next pass. -/
def State.doDisable (s : State) (n : Fin 64) : State :=
  let x := s.lslot n
  let s1 := (s.setLslot n { x with cmd := 0, due := false, posts := [] }).wr (F.LPE_SLOTn_STAT_STATE n) 0
  let s2 := match s1.outVal x.entry.outSig with
    | some o => if o.writer = 16 + n.val || s.lslotState n = 2 then s1.dropOut x.entry.outSig else s1
    | none => s1
  s2.slotDone n 0

/-- RELOAD (R199): all loop state is kept; NEED_DISABLE for another lock or output signal. Log entry 19 (DEDUCED). -/
def State.doReload (s : State) (n : Fin 64) : State :=
  let x := s.lslot n
  match s.dmaRead 1 (s.loopEntryAddr n) 1024 with
  | (s1, none) => (s1.err .lpe 0x80 n.val).slotDone n 6
  | (s1, some bs) =>
    let r := s1.entryCheck n bs
    let e := parseEntry bs
    if r ≠ 0 then (s1.err .lpe 0x81 n.val).slotDone n r
    else if e.outSig ≠ x.entry.outSig || e.locked ≠ x.entry.locked || e.lockTask ≠ x.entry.lockTask then
      (s1.err .lpe 0x81 n.val).slotDone n 5
    else (s1.setLslot n { x with entry := e, served := s1.dueIndex e }).slotDone n 0

/-- A waiting command takes effect at the sample instant (R200). -/
def State.slotCmdNow (s : State) (n : Fin 64) : State :=
  let op := (s.lslot n).cmd
  let s1 := s.setLslot n { s.lslot n with cmd := 0 }
  if op = 2 then s1.doDisable n else if op = 3 then s1.doReload n else s1

/-- A write of LPE_SLOT_CMD (R199): `op` 1 ENABLE, 2 DISABLE, 3 RELOAD. A running slot's command waits for its sample instant; a
disabled or ERROR slot's takes effect at once; one that does not apply in the slot's state is discarded with code 0x84.
Log entry 19 (DEDUCED). -/
def State.slotCommandHere (s : State) (n : Fin 64) (op : Nat) : State :=
  let st := s.lslotState n
  if op = 1 && st = 0 then (s.slotTaken n false).doEnable n
  else if op = 2 && st = 2 then (s.slotTaken n false).doDisable n
  else if (op = 2 || op = 3) && st = 1 then (s.setLslot n { s.lslot n with cmd := op }).slotTaken n true
  else s.err .lpe 0x84 n.val

/-- The write itself, which a pair's active member records for its partner (R372, R373). -/
def State.slotCommand (s : State) (m : Master) (n : Fin 64) (op : Nat) : State :=
  s.gatePair m .lpe R.LPE_SLOT_CMD fun s =>
    (s.emit (.cmd R.LPE_SLOT_CMD (BitVec.ofNat 32 (n.val + 2 ^ 8 * op + 2 ^ 31)))).slotCommandHere n op

/-- SLOT_ENABLE (R199). -/
def execSlotEnable (m : Master) (n : Fin 64) (s : State) : Out := .next (s.slotCommand m n 1)

/-- SLOT_DISABLE (R199). -/
def execSlotDisable (m : Master) (n : Fin 64) (s : State) : Out := .next (s.slotCommand m n 2)

/-- SLOT_RELOAD (R199). -/
def execSlotReload (m : Master) (n : Fin 64) (s : State) : Out := .next (s.slotCommand m n 3)

/-! ## Evaluating a slot (R200 to R212) -/

/-- Saturate to signed 64 bits, with a mark (R204). -/
def sat64 (x : Int) : Int × Bool :=
  if x < -(2 ^ 63) then (-(2 ^ 63), true) else if 2 ^ 63 - 1 < x then (2 ^ 63 - 1, true) else (x, false)

/-- Saturate to signed 32 bits, with a mark (R204). -/
def sat32 (x : Int) : Int × Bool :=
  if x < i32Min then (i32Min, true) else if i32Max < x then (i32Max, true) else (x, false)

/-- A coefficient product shifted right, rounded as QMUL rounds and saturated to 64 bits (R204). -/
def coef (c x : Int) (sh : Nat) : Int × Bool := sat64 (shrRound (c * x) sh)

/-- A 64-bit sum with saturation (R204). -/
def sum64 (a b : Int × Bool) : Int × Bool := let r := sat64 (a.1 + b.1); (r.1, a.2 || b.2 || r.2)

/-- Move the effective setpoint toward the target by at most RAMP; RAMP 0 means no ramp (R209). -/
def rampStep (ramp : Nat) (sp target : Int) : Int :=
  if ramp = 0 || decide ((target - sp).natAbs ≤ ramp) then target
  else if sp < target then sp + ramp else sp - ramp

/-- One evaluation of a USED loop (R205, R206, R209): `pv` and its quality, the slot's previous selected output. Answers the new state,
the output offered and whether a saturation occurred. Log entry 20 (DEDUCED). -/
def evalLoop (e : SlotEntry) (r : LoopRec) (st : LoopState) (pv : Int) (q : Nat) (uFb : Int) : LoopState × Option Int × Bool :=
  if st.mode = 0 || !r.used then (st, none, false)
  else if r.qlim < q then
    (if st.mode = 2 then (st, some (clampI e.outMin e.outMax st.manual), false) else ({ st with fresh := true }, none, false))
  else
    let sp := if st.mode = 2 then st.spEff else rampStep r.ramp (if st.restart then pv else st.spEff) st.target
    let f1 := if st.fresh then pv else st.pvf1
    let f2 := if st.fresh then pv else st.pvf2
    let filt := if r.kf = 0 || st.fresh then (pv, false) else
      let c := coef r.kf (pv - f1) r.shF
      let v := sat32 (f1 + c.1)
      (v.1, c.2 || v.2)
    let pvf := filt.1
    let er := sat32 (if r.rev then pvf - sp else sp - pvf)
    let err := if er.1.natAbs ≤ r.db then 0 else er.1
    let e1 := if st.fresh then err else st.e1
    let curv := pvf - 2 * f1 + f2
    let d := if r.rev then curv else -curv
    let u := sum64 (uFb, false) (sum64 (sum64 (coef r.kp (err - e1) r.shP) (coef r.ki err r.shI)) (coef r.kd d r.shD))
    let st1 := { st with spEff := sp, restart := false, pvf1 := pvf, pvf2 := f1, e1 := err, fresh := false }
    if st.mode = 2 then
      ({ st1 with restart := st.restart }, some (clampI e.outMin e.outMax st.manual), filt.2 || er.2)
    else (st1, some (clampI e.outMin e.outMax u.1), filt.2 || er.2 || u.2)

/-- Apply a request to a slot's loops (R208, R209): to a loop that is USED. Log entry 22 (DEDUCED). -/
def applyPost (e : SlotEntry) (ls : List LoopState) (k : PostKind) : List LoopState :=
  let used (j : Nat) : Bool := ((e.loops[j]?).map (·.used)).getD false
  match k with
  | .lsp _ j v =>
    if !used j then ls else
    let thr := ((e.loops[j]?).map (·.restartThr)).getD 0
    updAt ls j fun st =>
      { st with target := v.toInt, restart := st.restart || decide (thr < (v.toInt - st.target).natAbs) }
  | .lmode _ j m =>
    if !used j then ls else
    updAt ls j fun st =>
      if m = 1 && st.mode ≠ 1 then { st with mode := 1, fresh := true, restart := true } else { st with mode := m }
  | .lman _ j v => if !used j then ls else updAt ls j fun st => { st with manual := v.toInt }
  | _ => ls

/-- A request for the same loop and function. -/
def samePost : PostKind → PostKind → Bool
  | .lsp _ i _, .lsp _ j _ | .lmode _ i _, .lmode _ j _ | .lman _ i _, .lman _ j _ => i == j
  | _, _ => false

/-- Of the requests for one loop and function, the last one posted (R208). Log entry 20 (DEDUCED). -/
def lastPosts : List PostKind → List PostKind
  | [] => []
  | k :: t => if t.any (samePost k) then lastPosts t else k :: lastPosts t

/-- The input a slot takes for a signal (R202): a locked slot from its task's snapshot, an unlocked slot from the live image with
forces applied; a signal with no slot in the active program reads BAD. Log entry 24 (DEDUCED). -/
def State.slotInput (s : State) (e : SlotEntry) (sig : Nat) : Int × Nat :=
  match s.activeBank with
  | none => (0, 5)
  | some b =>
    match s.slotOfSig b sig with
    | none => (0, 5)
    | some k =>
      if s.slotDir b k = 1 then ((s.liveVal k).toInt, qualOf (s.liveSt k))
      else if e.locked then
        let a := s.snapAddr b e.lockTask k
        ((BitVec.ofNat 32 (s.rdLe a 4)).toInt, qualOf (BitVec.ofNat 32 (s.rdLe (a + 4) 4)))
      else match s.forceOn sig with
        | some f => (f.value.toInt, f.qual)
        | none => ((s.liveVal k).toInt, qualOf (s.liveSt k))

/-- The table value at the feedback, interpolated and rounded as R92 (R210). -/
def tableAt (t : List Int) (e : SlotEntry) (fb : Int) : Int :=
  let x : Nat := (fb - e.fbLo).toNat
  let i := x / 2 ^ e.fbShift
  if 63 ≤ i then t.getD 63 0
  else
    let f := x - i * 2 ^ e.fbShift
    t.getD i 0 + shrRound ((t.getD (i + 1) 0 - t.getD i 0) * f) e.fbShift

/-- The lowest output offered, the lower loop index winning a tie (R207). -/
def winner : List (Nat × Int) → Option (Nat × Int)
  | [] => none
  | (j, u) :: t =>
    match winner t with
    | none => some (j, u)
    | some (k, v) => if v < u then some (k, v) else some (j, u)

/-- Evaluate the loops of a slot, one at a time, on the PV values and qualities `pvs`: new states, outputs offered, a saturation,
loops that are not OFF. -/
def evalLoops (e : SlotEntry) (pvs : List (Int × Nat)) (uFb : Int) :
    List LoopRec → List LoopState → Nat → List LoopState × List (Nat × Int) × Bool × Nat
  | r :: rs, st :: ss, j =>
    let (pv, q) := pvs.getD j (0, 5)
    let (st1, u, sat) := evalLoop e r st pv q uFb
    let (l, us, sat2, n) := evalLoops e pvs uFb rs ss (j + 1)
    (st1 :: l, (match u with | some v => (j, v) :: us | none => us), sat || sat2, (if r.used && st.mode != 0 then n + 1 else n))
  | _, _, _ => ([], [], false, 0)

/-- Compensation of a selected output (R210 to R212): the position command, the value written, and the new slot history.
Log entry 20 (DEDUCED). -/
def compensate (e : SlotEntry) (x : LpeSlot) (u fb : Int) (active : Bool) : LpeSlot × Int :=
  let p := if active && e.compChar then
      (if u = e.outMin || u = e.outMax then u
       else clampI e.outMin e.outMax (x.p1 + shrRound (tableAt (e.chr.map fun n => (n : Int)) e fb * (u - x.uSel1)) 24))
    else u
  let dp := p - x.p1
  let sg : Int := if dp = 0 then 0 else if dp < 0 then -1 else 1
  let hist := x.fbHist.take e.sticN
  let moved : Nat := ((fb :: hist).foldl max fb - (fb :: hist).foldl min fb).toNat
  let stuck := decide (e.sticN ≤ hist.length) && decide (moved ≤ e.sticDb) && decide (e.sticDb < (p - fb).natAbs)
  let kick := if active && e.compStic && dp ≠ 0 && (sg ≠ x.lastSign || stuck) then tableAt e.stic e fb * sg else 0
  let y := if active && e.compStic then clampI e.outMin e.outMax (p + kick) else p
  ({ x with p1 := p, uSel1 := u, lastSign := if dp = 0 then x.lastSign else sg }, y)

/-- The evaluations of the last whole TB2 second, as LPE_LOAD reads (R201, R220). -/
def State.lastEvals (s : State) : Nat :=
  if s.nowSec = s.lpe.evalSec then s.rd F.LPE_LOAD_EVALS else if s.nowSec = s.lpe.evalSec + 1 then min s.lpe.evals 0xFFFFF else 0

/-- Count evaluations for LPE_LOAD (R201). -/
def State.countEvals (s : State) (n : Nat) : State :=
  if s.nowSec = s.lpe.evalSec then { s with lpe := { s.lpe with evals := s.lpe.evals + n } }
  else
    let s1 := s.wr F.LPE_LOAD_EVALS s.lastEvals
    { s1 with lpe := { s1.lpe with evals := n, evalSec := s.nowSec } }

/-- The evaluation at a slot's sample instant, after its waiting command, on its PV and feedback inputs (R200 to R212).
Log entry 21 (DEDUCED). -/
def State.sampleWith (s : State) (n : Fin 64) (pvs : List (Int × Nat)) (fb : Int) (fq : Nat) : State :=
  let x0 := s.lslot n
  let e := x0.entry
  let ls0 := (lastPosts x0.posts).foldl (applyPost e) x0.loops
  let (ls, us, sat, cnt) := evalLoops e pvs x0.uFb e.loops ls0 0
  let comp := e.fbEn && decide (fq ≤ 3)
  let x1 := { x0 with loops := ls, posts := [], due := false, served := s.dueIndex e }
  let hist := if comp then (fb :: x0.fbHist).take 255 else x0.fbHist
  let s1 := ((s.wr (F.LPE_SLOTn_STAT_MODES n) (modesOf ls)).wrB (F.LPE_SLOTn_STAT_COMP_OFF n) (!comp)).countEvals cnt
  let s2 := if sat then s1.wr (F.LPE_SLOTn_STAT_SAT n) 1 else s1
  match winner us with
  | some (j, u) =>
    let (x2, y) := compensate e x1 u fb comp
    let q := if ((ls[j]?).map (·.mode)).getD 0 = 2 then 0 else (pvs.getD j (0, 5)).2
    let s3 := s2.setLslot n { x2 with uFb := u, holding := false, fbHist := hist, lout := ofI u }
    ((s3.wr (F.LPE_SLOTn_STAT_WIN n) j).wr (F.LPE_SLOTn_OUT_OUT n) (ofI y).toNat).putOut e.outSig ⟨ofI y, q, 16 + n.val⟩
  | none =>
    let v := if e.failOut then e.failVal else x1.uFb
    let s3 := s2.setLslot n { x1 with uFb := v, uSel1 := v, p1 := v, holding := true, fbHist := hist, lout := ofI v }
    let s4 := if x1.holding then s3 else s3.raise .lpe 3
    ((s4.wr (F.LPE_SLOTn_STAT_WIN n) 4).wr (F.LPE_SLOTn_OUT_OUT n) (ofI v).toNat).putOut e.outSig
      ⟨ofI v, if e.failOut then 2 else 3, 16 + n.val⟩

/-- The inputs of a slot's loops and its feedback (R202). -/
def State.slotInputs (s : State) (e : SlotEntry) : List (Int × Nat) := e.loops.map fun r => s.slotInput e r.pvSig

/-- The evaluation on this module's own inputs; an unlocked slot's samples go into the input stream (R202, R372). -/
def State.sampleNow (s : State) (n : Fin 64) : State :=
  let e := (s.lslot n).entry
  let pvs := s.slotInputs e
  let (fb, fq) := s.slotInput e e.fbSig
  let s1 := if e.locked then s
    else s.emit (.lsample n.val ((pvs ++ [(fb, fq)]).map fun v => (ofI v.1, BitVec.ofNat 32 v.2)))
  s1.sampleWith n pvs fb fq

/-- A running slot waits for its sample (R200): a locked slot's task has published, an unlocked slot's due instant has come. -/
def State.slotDue (s : State) (n : Fin 64) : Bool :=
  let x := s.lslot n
  s.lslotState n == 1 && (if x.entry.locked then x.due else decide (x.served < s.dueIndex x.entry))

/-- The earliest due instant of an unlocked slot not yet served, in µs of TB2 (R200). -/
def slotDueAt (x : LpeSlot) : Nat := x.served * max 1 x.entry.period + x.entry.phase % max 1 x.entry.period

/-- Slot `m`, which is due, goes before slot `n` (R201): among the slots locked to one task the lower number, a locked slot before an
unlocked one, among unlocked slots the earlier due instant, the lower number on a tie. -/
def State.goesBefore (s : State) (m n : Fin 64) : Bool :=
  let x := s.lslot m
  let y := s.lslot n
  if x.entry.locked then !y.entry.locked || (x.entry.lockTask == y.entry.lockTask && decide (m < n))
  else !y.entry.locked && (decide (slotDueAt x < slotDueAt y) || (slotDueAt x == slotDueAt y && decide (m < n)))

/-- A sample of the slot is to be taken now (R200, R201): it is due, and no slot that is due goes before it. A standby takes an
unlocked slot's samples from the stream (R202). -/
def State.sampleDue (s : State) (n : Fin 64) : Bool :=
  s.en .lpe && s.slotDue n && ((s.lslot n).entry.locked || !s.following) && !(allSlots.any fun m => s.slotDue m && s.goesBefore m n)

/-- SLOT_SAMPLE (R200): the waiting command takes effect first, then the slot is evaluated. -/
def execSlotSample (n : Fin 64) (s : State) : Out :=
  .next (s.whileLive .lpe fun s =>
    if !s.sampleDue n then s
    else
      let s1 := s.slotCmdNow n
      if s1.lslotState n = 1 then s1.sampleNow n else s1)

/-- SLOT_OVERRUN (R203): an unlocked slot's due instant arrives before the evaluation for the previous one started, which is dropped. -/
def execSlotOverrun (n : Fin 64) (s : State) : Out :=
  .next (s.whileLive .lpe fun s =>
    let x := s.lslot n
    let k := s.dueIndex x.entry
    if !(s.en .lpe) || s.lslotState n ≠ 1 || x.entry.locked || k < x.served + 2 then s
    else ((s.setLslot n { x with served := k - 1 }).incSat (F.LPE_SLOTn_STAT_OVR n)).raise .lpe 2)

/-! ## Guard commands (R215 to R218) -/

/-- MAXGAP in µs: below 100 it acts as 100, above 1,000,000 as 1,000,000. -/
def State.maxGap (s : State) : Nat := max 100 (min 1000000 (s.rd F.LPE_GRD_CFG_MAXGAP))

/-- A guard pass is due: after a T0 publication and the slots locked to T0, or MAXGAP µs after the previous pass started (R217). -/
def State.passDue (s : State) : Bool :=
  (s.lpe.t0Pending && !s.t0SlotsDue) || decide (s.lpe.lastPass + 1000 * s.maxGap ≤ s.nowNs)

/-- GUARD_PASS (R216, R217): the boundary of the guard's RWS fields; while LPE_CTRL.EN is 0 no pass runs. -/
def execGuardPass (s : State) : Out :=
  .next (s.whileLive .lpe fun s =>
    let s1 := s.freezePoint .lpe
    if s1.isHalted .lpe || !(s.en .lpe) || s.following || !s.passDue then s1 else s1.guardPass)

/-- GRD_LOAD (R215): the monitor starts a load of a guard table into the inactive bank; a table that still waits is discarded. -/
def execGrdLoad (m : Master) (s : State) : Out :=
  .next (s.gate m .lpe R.LPE_GRD_CMD fun s =>
    let s1 := s.wr F.LPE_GRD_STAT_PEND 0
    { s1 with lpe := { s1.lpe with loading := true } })

/-- An entry of a guard table image (R214). -/
def parseGuard (bs : List Byte) (k : Nat) : GuardEntry :=
  let o := 64 + 32 * k
  let w := leAt bs o 4
  { sig := w % 2 ^ 23, typ := nbits w 23 3, min := BitVec.ofNat 32 (leAt bs (o + 4) 4), max := BitVec.ofNat 32 (leAt bs (o + 8) 4),
    safe := BitVec.ofNat 32 (leAt bs (o + 0xC) 4), slew := BitVec.ofNat 32 (leAt bs (o + 0x10) 4), refill := leAt bs (o + 0x14) 2,
    togMax := leAt bs (o + 0x16) 1, slewEn := (leAt bs (o + 0x17) 1).testBit 0, safeOnBad := (leAt bs (o + 0x17) 1).testBit 1 }

/-- The ranges of an entry (R214). -/
def guardEntryOk (bs : List Byte) (k : Nat) : Bool :=
  let o := 64 + 32 * k
  let e := parseGuard bs k
  decide (e.typ ≤ 4) && leAt bs o 4 / 2 ^ 26 == 0 && leAt bs (o + 0x17) 1 / 4 == 0 && zeros bs (o + 0x18) 8 && decide (1 ≤ e.refill) &&
  (e.typ != 0 || (e.min == 0 && e.max == 1)) && (e.typ != 4 || !(isNaN e.min || isNaN e.max || isNaN e.safe || isNaN e.slew)) &&
  !guardLt e.typ e.max e.min && !guardLt e.typ e.safe e.min && !guardLt e.typ e.max e.safe

/-- Signal IDs strictly rising (R214). -/
def risingSigs : List GuardEntry → Bool
  | a :: b :: t => decide (a.sig < b.sig) && risingSigs (b :: t)
  | _ => true

/-- RESULT of the checks of a guard table image whose header and entries are `bs` (R214, R215): 0 OK, 1 BAD_MAGIC, 2 BAD_FORMAT,
3 ORDER, 4 BAD_ENTRY, 5 ROLLBACK. -/
def guardResult (bs : List Byte) (n activeVersion : Nat) : Nat :=
  if leAt bs 0 4 ≠ 0x4452475A then 1
  else if leAt bs 4 4 ≠ 1 || n < 1 || 8192 < n || !zeros bs 0x10 48 then 2
  else if !risingSigs ((upto n).map (parseGuard bs)) then 3
  else if !(upto n).all (guardEntryOk bs) then 4
  else if leAt bs 0xC 4 < activeVersion then 5
  else 0

/-- End a guard load with a result (R215): GRD_DONE; a refused one records code 0x82. -/
def State.grdEnd (s : State) (r : Nat) : State :=
  let s1 := s.wr F.LPE_GRD_STAT_RESULT r
  let s2 := if r = 0 then s1 else s1.err .lpe 0x82 r
  let s3 := s2.raise .lpe 6
  { s3 with lpe := { s3.lpe with loading := false } }

/-- GRD_CHECK_END (R215): the table is copied through LPE's context and checked; a good one waits for the next pass. -/
def execGrdCheckEnd (s : State) : Out :=
  .next (s.whileLive .lpe fun s =>
    if !s.lpe.loading then s else
    let a := s.rd F.LPE_GRD_BASE_LO_BASE_LO * 64 + s.rd F.LPE_GRD_BASE_HI_BASE_HI * 2 ^ 32
    match s.dmaRead 1 a 64 with
    | (s1, none) => s1.grdEnd 6
    | (s1, some hd) =>
      let n := leAt hd 8 4
      let n1 := min n 8192
      match s1.dmaRead 1 a (64 + 32 * n1) with
      | (s2, none) => s2.grdEnd 6
      | (s2, some bs) =>
        let r := guardResult bs n (s2.regGet R.LPE_GRD_VER).toNat
        if r ≠ 0 then s2.grdEnd r
        else
          let bank : GuardBank := ⟨(upto n).map (parseGuard bs), leAt bs 0xC 4, (sha3 bs).toNat⟩
          let s3 := if s2.rd F.LPE_GRD_STAT_BANK = 0 then { s2 with lpe := { s2.lpe with bank1 := bank } }
            else { s2 with lpe := { s2.lpe with bank0 := bank } }
          (s3.wr F.LPE_GRD_STAT_PEND 1).grdEnd 0)

/-- SAFE_ALL (R218): set and cleared by any master; every guarded signal carries its SAFE value from the next pass. -/
def execSafeAll (m : Master) (on : Bool) (s : State) : Out :=
  .next (s.gatePair m .lpe R.LPE_GRD_CFG fun s =>
    (s.emit (.cmd R.LPE_GRD_CFG (if on then 0x80000000 else 0))).wrB F.LPE_GRD_CFG_SAFE_ALL on)

end Sys2Proof.Machine
end

