-- ==== Sys2Proof/Machine/Ptp.lean ====
section
/-! DEFINITION. Ethernet frames and IEEE 1588 messages as the switch reads and corrects them (R317, R322, R324 to R327). -/

namespace Sys2Proof.Machine

/-- The 802.1Q tag of a frame, if it has one: EtherType 0x8100. -/
def vlanOfs (rest : List Byte) : Nat := if beAt rest 0 2 = 0x8100 then 4 else 0

/-- The EtherType behind at most one tag. -/
def ethType (rest : List Byte) : Nat := beAt rest (vlanOfs rest) 2

/-- Frame length with FCS. -/
def ethLen (f : EthFrame) : Nat := 12 + f.rest.length + 4

/-- The egress queue (R317): by PCP, untagged 1. -/
def prioOf (rest : List Byte) : Nat := if vlanOfs rest = 4 then nbits (beAt rest 2 1) 5 3 / 2 else 1

/-- How a PTP message is carried (R322). -/
inductive Transport where
  | l2 | udp4 | udp6
  deriving DecidableEq, Repr

/-- The transport of a PTP message and the offset of its header in the bytes behind the addresses (R322); none: not a PTP message.
Log entry 47 (PRESUMED). -/
def ptpAt (rest : List Byte) : Option (Transport × Nat) :=
  let o := vlanOfs rest + 2
  let port (p : Nat) : Bool := p == 319 || p == 320
  let t := ethType rest
  let r :=
    if t = 0x88F7 then some (Transport.l2, o)
    else if t = 0x0800 then
      (if beAt rest o 1 = 0x45 && beAt rest (o + 9) 1 = 17 && port (beAt rest (o + 22) 2) then some (Transport.udp4, o + 28) else none)
    else if t = 0x86DD then
      (if nbits (beAt rest o 1) 4 4 = 6 && beAt rest (o + 6) 1 = 17 && port (beAt rest (o + 42) 2) then some (Transport.udp6, o + 48) else none)
    else none
  r.filter fun (_, h) => decide (h + 34 ≤ rest.length)

/-- Fields of a PTP header at offset `h`: messageType, domainNumber, twoStepFlag, correctionField, sourcePortIdentity, sequenceId. -/
def ptpType (b : List Byte) (h : Nat) : Nat := beAt b h 1 % 16
def ptpDomain (b : List Byte) (h : Nat) : Nat := beAt b (h + 4) 1
def ptpTwoStep (b : List Byte) (h : Nat) : Bool := (beAt b (h + 6) 1).testBit 1
def ptpCorr (b : List Byte) (h : Nat) : Int := sext 64 (beAt b (h + 8) 8)
def ptpSpid (b : List Byte) (h : Nat) : Nat := beAt b (h + 20) 10
def ptpSeq (b : List Byte) (h : Nat) : Nat := beAt b (h + 30) 2

/-- The sum of 16-bit words, as the Internet checksum forms it. -/
def onesSum (bs : List Byte) : Nat :=
  let n := (upto ((bs.length + 1) / 2)).foldl (fun x k => x + beAt bs (2 * k) 2) 0
  let f (x : Nat) : Nat := x % 65536 + x / 65536
  f (f (f n))

/-- The UDP checksum after a change: 0 over IPv4, brought up to date over IPv6 (R325). -/
def fixUdp (t : Transport) (b : List Byte) (h : Nat) : List Byte :=
  match t with
  | .l2 => b
  | .udp4 => patch b (h - 2) [0, 0]
  | .udp6 =>
    let u := h - 8
    let z := patch b (u + 6) [0, 0]
    let len := beAt b (u + 4) 2
    let pseudo := (b.drop (u - 32)).take 32 ++ beBytes 4 len ++ [0, 0, 0, 17]
    let c := 65535 - onesSum (pseudo ++ (z.drop u).take len)
    patch b (u + 6) (beBytes 2 (if c = 0 then 65535 else c))

/-- A correction added, limited to 0x7FFF_FFFF_FFFF_FFFF (R326). -/
def addCorr (b : List Byte) (h : Nat) (d : Int) : List Byte :=
  let c := ptpCorr b h + d
  patch b (h + 8) (beBytes 8 ((if 2 ^ 63 - 1 < c then 2 ^ 63 - 1 else c) % 2 ^ 64).toNat)

/-- A PTP timestamp: 48-bit seconds, 32-bit nanoseconds. -/
def ptpTime (b : List Byte) (o : Nat) : Nat := beAt b o 6 * nsPerSec + beAt b (o + 6) 4
def ptpTimeBytes (u : Nat) : List Byte := beBytes 6 (tbSec u) ++ beBytes 4 (tbNs u % nsPerSec)

/-- Units of a time base as 2⁻¹⁶ ns. -/
def scaledNs (u : Int) : Int := u * 2 ^ 16 / unitsPerNs

end Sys2Proof.Machine
end

