-- ==== Sys2Proof/Machine/Net.lean ====
section
/-! DEFINITION. The switch: forwarding, the CPU port, IEEE 1588 stamps and corrections, links (R313 to R327, R337). -/

namespace Sys2Proof.Machine

/-! ## Ports -/

/-- The port takes part in switching (R313, R314): A and B in MODE SWITCH, C and D in MODE SWITCH, T. -/
def State.netPort (s : State) (p : Nat) : Bool := p < 5 && s.rd (F.NET_PORTn_CFG_MODE p) == 1

/-- STATE of a port: 0 DISABLED, 1 BLOCKING, 2 LEARNING, 3 FORWARDING (R318). -/
def State.portState (s : State) (p : Nat) : Nat := s.rd (F.NET_PORTn_CFG_STATE p)

/-- A frame of the port is dropped at ingress and counted. -/
def State.netDrop (s : State) (p : Nat) : State := s.incSat (F.NET_PORTn_STAT_DROP p)

/-- Bytes in the shared buffer. -/
def State.netUsed (s : State) : Nat := (s.net.queues.toList.flatMap id).foldl (fun n q => n + ethLen q.frame) 0

/-- The shared buffer (512 KiB) has space for so many copies of a frame, one to each egress queue. Log entry 47 (PRESUMED). -/
def State.netRoomFor (s : State) (f : EthFrame) (copies : Nat) : Bool := decide (s.netUsed + max 1 copies * ethLen f ≤ 524288)

/-- The shared buffer has space for a frame. -/
def State.netRoom (s : State) (f : EthFrame) : Bool := s.netRoomFor f 1

/-- The time base of a PTP domain: A 0, B 1; none: another domain (R324). -/
def State.domainTb (s : State) (d : Nat) : Option Nat :=
  if d = s.rd F.NET_PTP_CFG_DOMAIN_A then some 0 else if d = s.rd F.NET_PTP_CFG_DOMAIN_B then some 1 else none

/-- The messages of a domain are corrected (R324), and in which time base (R325); none: they are not. -/
def State.corrTb (s : State) (d : Nat) : Option Nat :=
  match s.domainTb d with
  | some 0 => if s.bit F.NET_PTP_CFG_MODE_A then some 0 else none
  | some n => if s.bit F.NET_PTP_CFG_MODE_B then some n else none
  | none => if s.rd F.NET_PTP_CFG_OTHER = 1 then some 2 else none

/-- A domain in TERMINATE mode (R324). -/
def State.terminated (s : State) (d : Nat) : Bool := (s.domainTb d).isSome && (s.corrTb d).isNone

/-- P2P transparent clocks. -/
def State.p2p (s : State) : Bool := s.bit F.NET_PTP_CFG_TC_TYPE

/-- A message that the switch drops by its domain and type (R324, R325): other domains under OTHER = 2; under P2P Delay_Req and
Delay_Resp of a corrected domain. -/
def State.ptpDropped (s : State) (b : List Byte) (h : Nat) : Bool :=
  let d := ptpDomain b h
  let t := ptpType b h
  ((s.domainTb d).isNone && s.rd F.NET_PTP_CFG_OTHER == 2) || (s.p2p && (s.corrTb d).isSome && (t == 1 || t == 9))

/-- A peer delay message is link-local: it goes to the CPU port alone (R325). -/
def ptpLocal (b : List Byte) (h : Nat) : Bool := let t := ptpType b h; t == 2 || t == 3 || t == 10

/-- A PAUSE frame, which every port ignores (R314): MAC control with opcode 1. -/
def isPause (f : EthFrame) : Bool := ethType f.rest == 0x8808 && beAt f.rest (vlanOfs f.rest + 2) 2 == 1

/-- 01-80-C2-00-00-00 to 01-80-C2-00-00-0F (R317). -/
def linkLocal (da : BitVec 48) : Bool := da.toNat / 16 == 0x0180C200000

/-- A frame that is never forwarded between ports and always delivered to the CPU port (R317, R325). -/
def staysLocal (f : EthFrame) : Bool :=
  linkLocal f.da || match ptpAt f.rest with | some (_, h) => ptpLocal f.rest h | none => false

/-- A group address: bit 0 of the first byte. -/
def groupAddr (a : BitVec 48) : Bool := a.getLsbD 40

/-- Frames port T accepts (R315): TDM frames, and PTP messages of domains A and B. -/
def State.portTOk (s : State) (f : EthFrame) : Bool :=
  ethType f.rest == s.rd F.TDM_CFG_ETYPE ||
  (match ptpAt f.rest with | some (_, h) => (s.domainTb (ptpDomain f.rest h)).isSome | none => false)

/-! ## Address learning (R316) -/

/-- The port at which an address was learned. -/
def State.addrPort (s : State) (a : BitVec 48) : Option Nat := (s.net.addrs.find? fun e => e.1 == a.toNat).map fun e => e.2.1

/-- Learn a source address; a full table of 2,048 entries takes no new one. Log entry 47 (PRESUMED). -/
def State.learn (s : State) (a : BitVec 48) (p : Nat) : State :=
  if groupAddr a then s
  else
    let l := s.net.addrs.filter fun e => e.1 != a.toNat
    if 2048 ≤ l.length then s else { s with net := { s.net with addrs := l ++ [(a.toNat, p, s.nowNs)] } }

/-- Egress ports of a frame (R316): the learned port of a known unicast; otherwise every forwarding port but the ingress port and
T; 5 is the CPU port. -/
def State.egress (s : State) (f : EthFrame) (ingress : Nat) : List Nat :=
  let open_ (p : Nat) : Bool := p == 5 || (s.netPort p && s.portState p == 3)
  let known := if groupAddr f.da then none else s.addrPort f.da
  match known with
  | some p => if p ≠ ingress && open_ p then [p] else []
  | none => (upto 6).filter fun p => p ≠ ingress && p ≠ 4 && open_ p

/-! ## The CPU port (R319 to R321) -/

/-- Entries, base and indices of ring q: 0 receive, 1 transmit. -/
def State.cpuN (s : State) (q : Nat) : Nat :=
  let k := s.rd (F.NET_CPUq_BASE_LO_LOG2N q)
  2 ^ (if 4 ≤ k && k ≤ 12 then k else 4)
def State.cpuAddr (s : State) (q i : Nat) : Nat :=
  s.rd (F.NET_CPUq_BASE_LO_BASE_LO q) * 2 ^ 12 + s.rd (F.NET_CPUq_BASE_HI_BASE_HI q) * 2 ^ 32 + 16 * (i % s.cpuN q)

/-- A translation fault on a ring or buffer: code 0x80 with WOFF holding q (R320). -/
def State.cpuFault (s : State) (q : Nat) : State := s.err .net 0x80 q

/-- Bytes of a frame without FCS, in network order. -/
def ethBytes (f : EthFrame) : List Byte := beBytes 6 f.da.toNat ++ beBytes 6 f.sa.toNat ++ f.rest

/-- Complete a receive descriptor: LEN, FLAGS with OWN cleared, PORT, TS. -/
def State.rxDone (s : State) (i len tb result port ts : Nat) : State :=
  let d := leBytes 2 len ++ leBytes 1 (tb + 4 + 16 * result) ++ leBytes 1 port ++ leBytes 4 ts
  let s1 := match s.dmaWrite 5 (s.cpuAddr 0 i + 8) d with
    | (s1, true) => s1
    | (s1, false) => s1.cpuFault 0
  (s1.wr (F.NET_CPUq_IDX_HEAD 0) ((i + 1) % s1.cpuN 0)).raise .net 2

/-- A received frame takes the next receive descriptor that the device owns, or is dropped with RX_DROP (R320, R321). -/
def State.toCpu (s : State) (f : EthFrame) (port : Nat) : State :=
  let i := s.rd (F.NET_CPUq_IDX_HEAD 0) % s.cpuN 0
  let drop (s : State) : State := (s.netDrop 5).raise .net 5
  let tb := match ptpAt f.rest with
    | some (_, h) => if ptpType f.rest h < 4 then (s.domainTb (ptpDomain f.rest h)).getD (s.rd F.NET_PTP_CFG_RX_TB) else s.rd F.NET_PTP_CFG_RX_TB
    | none => s.rd F.NET_PTP_CFG_RX_TB
  if i = s.rd (F.NET_CPUq_IDX_TAIL 0) % s.cpuN 0 then drop s
  else
    match s.dmaRead 5 (s.cpuAddr 0 i) 16 with
    | (s1, none) => ((s1.cpuFault 0).wr (F.NET_CPUq_IDX_HEAD 0) ((i + 1) % s1.cpuN 0)).raise .net 2
    | (s1, some d) =>
      if !(leAt d 10 1).testBit 7 then drop s1
      else if leAt d 8 2 < (ethBytes f).length then s1.rxDone i (ethBytes f).length tb 1 port (s1.stamp tb)
      else
        match s1.dmaWrite 5 (leAt d 0 5) (ethBytes f) with
        | (s2, true) => s2.rxDone i (ethBytes f).length tb 0 port (s2.stamp tb)
        | (s2, false) => (s2.cpuFault 0).rxDone i (ethBytes f).length tb 2 port (s2.stamp tb)

/-- HEAD passes over completed transmit descriptors, `i` among them. -/
def State.txPass (s1 : State) (i : Nat) : State :=
  let (h, l) := advHead (s1.cpuN 1) (s1.cpuN 1) (s1.rd (F.NET_CPUq_IDX_HEAD 1)) (i % s1.cpuN 1 :: s1.net.done)
  ({ s1 with net := { s1.net with done := l } }.wr (F.NET_CPUq_IDX_HEAD 1) h).raise .net 3

/-- Complete transmit descriptor `i`: RESULT, OWN cleared, TS where the frame was stamped. -/
def State.txDone (s : State) (i : Nat) (flags : Nat) (result : Nat) (ts : Option Nat) : State :=
  let s1 := match s.dmaWrite 5 (s.cpuAddr 1 i + 10) (leBytes 1 (flags % 16 + 16 * result)) with
    | (s1, true) => match ts with | some t => (s1.dmaWrite 5 (s1.cpuAddr 1 i + 12) (leBytes 4 t)).1 | none => s1
    | (s1, false) => s1.cpuFault 1
  s1.txPass i

/-! ## Queues (R317) -/

def State.pushQ (s : State) (p : Fin 5) (q : QFrame) : State :=
  { s with net := { s.net with queues := s.net.queues.set p (s.net.queues[p] ++ [q]) } }

/-- The frame's queue: PTP messages go to queue 3 (R317). -/
def framePrio (f : EthFrame) : Nat := if (ptpAt f.rest).isSome then 3 else prioOf f.rest

/-- Send a frame to its egress ports: queued, or delivered to the CPU; what port T does not take, and what ports C, D and T would send
during a load shed, is dropped and counted (R315, R528). -/
def State.sendTo (s : State) (q : QFrame) (ports : List Nat) : State :=
  ports.foldl (fun s p =>
    if p = 5 then s.toCpu q.frame q.ingress
    else if (p = 4 && !s.portTOk q.frame) || (2 ≤ p && s.shed) then s.netDrop p
    else s.pushQ (Fin.ofNat 5 p) q) s

/-- SWITCH_FRAME_RX (R314 to R318, R320, R321, R324). Log entry 47 (PRESUMED). -/
def execSwitchFrameRx (port : Fin 5) (f : EthFrame) (s : State) : Out :=
  .next (s.whileLive .net fun s =>
    let s := { s with net := { s.net with tx := [] } }
    let p := port.val
    let st := s.portState p
    if !s.runs .net || !s.netPort p || st = 0 || isPause f then s
    else if 2000 < ethLen f || !f.fcs || !s.netRoomFor f ((s.egress f p).filter (· < 5)).length || (p = 4 && !s.portTOk f) then s.netDrop p
    else
      let s1 := if 2 ≤ st then s.learn f.sa p else s
      let q : QFrame := { frame := f, prio := framePrio f, ingress := p, stamps := [s.tb0, s.tb1, s.tb2, s.tb3] }
      if staysLocal f then s1.toCpu f p
      else if st ≠ 3 || (p = 4 && ethType f.rest == s1.rd F.TDM_CFG_ETYPE) then s1
      else
        match ptpAt f.rest with
        | some (_, h) =>
          if s1.ptpDropped f.rest h then s1
          else if s1.terminated (ptpDomain f.rest h) then s1.toCpu f p
          else s1.sendTo q (s1.egress f p)
        | none => s1.sendTo q (s1.egress f p))

/-- Take one transmit descriptor (R319 to R321); false: it is not the device's. A frame that is too long or finds no space is dropped and
counted at the CPU port (R316); a link-local one under address lookup is delivered back (R317). Log entry 47 (PRESUMED). -/
def State.txTake (s : State) (i : Nat) : State × Bool :=
  match s.dmaRead 5 (s.cpuAddr 1 i) 16 with
  | (s1, none) => ((s1.cpuFault 1).txPass i, true)
  | (s1, some d) =>
    let fl := leAt d 10 1
    let len := leAt d 8 2
    let port := leAt d 11 1 % 8
    if !fl.testBit 7 then (s1, false)
    else if 1996 < len then ((s1.netDrop 5).txDone i fl 1 none, true)
    else
      match s1.dmaRead 5 (leAt d 0 5) len with
      | (s2, none) => ((s2.cpuFault 1).txDone i fl 2 none, true)
      | (s2, some bs) =>
        let f : EthFrame := ⟨BitVec.ofNat 48 (beAt bs 0 6), BitVec.ofNat 48 (beAt bs 6 6), bs.drop 12, true⟩
        let s3 := s2.learn f.sa 5
        let ports := if port = 7 then (if staysLocal f then [5] else s3.egress f 5) else if s3.netPort port then [port] else []
        let q : QFrame := { frame := f, prio := framePrio f, ingress := 5, stamps := [s3.tb0, s3.tb1, s3.tb2, s3.tb3], desc := some i,
                            tb := fl % 4, tsReq := fl.testBit 2, oneStep := fl.testBit 3 }
        match ports with
        | [] => (s3.txDone i fl (if port = 7 then 0 else 3) none, true)
        | p :: rest =>
          if p = 5 then ((s3.toCpu f 5).txDone i fl 0 none, true)
          else if !s3.netRoomFor f ports.length then ((s3.netDrop 5).txDone i fl 0 none, true)
          else if p = 4 && !s3.portTOk f then ((s3.netDrop 4).txDone i fl 0 none, true)
          else ((s3.pushQ (Fin.ofNat 5 p) q).sendTo { q with desc := none } rest, true)

/-- Take the descriptors up to TAIL. -/
def State.txTakeAll (s : State) : Nat → State
  | 0 => s
  | fuel + 1 =>
    let i := s.net.take % s.cpuN 1
    if i = s.rd (F.NET_CPUq_IDX_TAIL 1) % s.cpuN 1 then s
    else
      match s.txTake i with
      | (s1, false) => s1
      | (s1, true) => State.txTakeAll { s1 with net := { s1.net with take := (i + 1) % s1.cpuN 1 } } fuel

/-- The CPU's transmit ring is served while NET runs (R319). -/
def State.serveTx (s : State) : State := if s.runs .net then s.txTakeAll (s.cpuN 1) else s

/-- CPU_TAIL (R319): TAIL hands the descriptors before it to NET. Log entry 47 (PRESUMED). -/
def execCpuTail (m : Master) (q : Fin 2) (tail : BitVec 16) (s : State) : Out :=
  .next (s.gate m .net (R.NET_CPUq_IDX q) fun s =>
    let s1 := s.wr (F.NET_CPUq_IDX_TAIL q) tail.toNat
    if q = 1 then s1.serveTx else s1)

/-! ## Transmission (R321, R325 to R327) -/

/-- The first frame of the highest-numbered queue that holds one, and the rest. -/
def nextFrame (l : List QFrame) : Option (QFrame × List QFrame) :=
  let top := l.foldl (fun m q => max m q.prio) 0
  match l.findIdx? fun q => q.prio == top with
  | none => none
  | some k => (l[k]?).map fun q => (q, l.eraseIdx k)

/-- What the switch does to a message as it leaves: the frame to send, none for one dropped by residence (R325, R326). -/
def State.correct (s : State) (port : Nat) (q : QFrame) : State × Option EthFrame :=
  match ptpAt q.frame.rest with
  | none => (s, some q.frame)
  | some (t, h) =>
    let b := q.frame.rest
    let d := ptpDomain b h
    let ty := ptpType b h
    match s.corrTb d with
    | none => (s, some q.frame)
    | some n =>
      let res := (s.tb n : Int) - (q.stamps.getD n 0 : Nat)
      let pd : Int := if s.p2p then s.rd (F.NET_PORTn_PDELAY_DELAY q.ingress) * 2 ^ 16 else 0
      let send (b : List Byte) : Option EthFrame := some { q.frame with rest := fixUdp t b h }
      let late := decide (max 1 (s.rd F.NET_TC_CFG_MAXRES) * 1000 * unitsPerNs < res)
      let drop (s : State) : State := (s.incSat F.NET_TC_CFG_DROP).raise .net 6
      if ty = 0 then
        if late then (drop s, none)
        else if !ptpTwoStep b h then (s, send (addCorr b h (scaledNs res + pd)))
        else
          let e : FollowUp := ⟨d, ptpSeq b h, ptpSpid b h, port, scaledNs res + pd, s.nowNs⟩
          let l0 := s.net.fus.filter fun x => !(x.domain == d && x.seq == e.seq && x.spid == e.spid && x.port == port)
          let l := if 16 ≤ l0.length then l0.drop 1 else l0
          ({ s with net := { s.net with fus := l ++ [e] } }, some q.frame)
      else if ty = 1 && !s.p2p then (if late then (drop s, none) else (s, send (addCorr b h (scaledNs res))))
      else if ty = 8 then
        match s.net.fus.find? fun e => e.domain == d && e.seq == ptpSeq b h && e.spid == ptpSpid b h && e.port == port && decide (s.nowNs < e.at_ + 100000000) with
        | some e => ({ s with net := { s.net with fus := s.net.fus.filter fun x => x != e } }, send (addCorr b h e.residence))
        | none => (s.incSat F.NET_TC_CFG_NOMATCH, some q.frame)
      else (s, some q.frame)

/-- A one-step frame of the CPU (R327): originTimestamp of a Sync; correctionField and requestReceiptTimestamp of a Pdelay_Resp. -/
def State.insertTime (s : State) (f : EthFrame) : EthFrame :=
  match ptpAt f.rest with
  | none => f
  | some (t, h) =>
    let b := f.rest
    let u := s.tb ((s.domainTb (ptpDomain b h)).getD 2)
    if ptpType b h = 0 then { f with rest := fixUdp t (patch b (h + 34) (ptpTimeBytes u)) h }
    else if ptpType b h = 3 then
      let d := scaledNs u - (ptpTime b (h + 34) : Int) * 2 ^ 16
      { f with rest := fixUdp t (patch (addCorr b h d) (h + 34) (List.replicate 10 0)) h }
    else f

/-- A frame of the port may leave: the switch runs, or a stop waits for the frame in transmission (R337). -/
def State.mayLeave (s : State) (port : Fin 5) : Bool := s.en .net && (!s.stopping .net || s.net.txLeft.getLsbD port)

/-- EN is written 0: each port with a frame queued has one in transmission, which completes first (R337). Log entry 47 (PRESUMED). -/
def State.netStopAsked (s : State) : State :=
  { s with net := { s.net with txLeft := (upto 5).foldl (fun (m : BitVec 5) k => setMark m k !(s.net.queues[Fin.ofNat 5 k]).isEmpty) 0 } }

/-- FRAME_TX_DONE (R317, R321, R325 to R327, R337): the next frame of a port has left, or finds its port down. Log entry 47 (PRESUMED). -/
def execFrameTxDone (port : Fin 5) (s : State) : Out :=
  .next (s.whileLive .net fun s =>
    let s := { s with net := { s.net with tx := [] } }
    match if s.mayLeave port then nextFrame s.net.queues[port] else none with
    | none => s
    | some (q, rest) =>
      let s1 := { s with net := { s.net with queues := s.net.queues.set port rest, txLeft := setMark s.net.txLeft port.val false } }
      let fl := q.tb + (if q.tsReq then 4 else 0) + (if q.oneStep then 8 else 0)
      let finish (s : State) (r : Nat) (ts : Option Nat) : State := match q.desc with | some i => s.txDone i fl r ts | none => s
      let sent : State :=
       if !s1.bit (F.NET_PORTn_STAT_LINK port) || !s1.netPort port then finish s1 3 none
       else if q.ingress = 5 then
        let f := if q.oneStep then s1.insertTime q.frame else q.frame
        finish { s1 with net := { s1.net with tx := [(port.val, f)] } } 0 (if q.tsReq then some (s1.stamp q.tb) else none)
       else
        match s1.correct port.val q with
        | (s2, some f) => { s2 with net := { s2.net with tx := [(port.val, f)] } }
        | (s2, none) => s2
      sent.serveTx)

/-! ## Tables and links -/

/-- ADDRESS_AGEING (R316): addresses not seen for AGE seconds leave; 0 disables ageing. -/
def execAddressAgeing (s : State) : Out :=
  .next (s.whileLive .net fun s =>
    let age := s.rd F.NET_BR_CFG_AGE * nsPerSec
    if age = 0 then s else { s with net := { s.net with addrs := s.net.addrs.filter fun e => decide (s.nowNs < e.2.2 + age) } })

/-- BR_FLUSH (R316). -/
def execBrFlush (m : Master) (s : State) : Out :=
  .next (s.gate m .net R.NET_BR_CFG fun s => { s with net := { s.net with addrs := [] } })

/-- FOLLOWUP_EXPIRY (R326): entries whose Sync left 100 ms ago leave. -/
def execFollowupExpiry (s : State) : Out :=
  .next (s.whileLive .net fun s =>
    { s with net := { s.net with fus := s.net.fus.filter fun e => decide (s.nowNs < e.at_ + 100000000) } })

/-- Clause 37 auto-negotiation runs on the port (R313): ports C and D at 1000BASE-X with AN_EN. -/
def State.anRuns (s : State) (p : Nat) : Bool := (p == 2 || p == 3) && s.bit (F.NET_PORTn_CFG_AN_EN p) && !s.bit (F.NET_PORTn_CFG_RATE p)

/-- PORT_LINK_CHANGE (R167, R313, R337, R376): a port gains or loses PCS synchronisation; `an`: auto-negotiation has completed. -/
def execPortLinkChange (port : Fin 5) (up an : Bool) (s : State) : Out :=
  .next (s.whileLive .net fun s =>
    let p := port.val
    let s1 := (s.wrB (F.NET_PORTn_STAT_LINK p) up).wrB (F.NET_PORTn_STAT_AN_DONE p) (up && an && s.anRuns p)
    if s.bit (F.NET_PORTn_STAT_LINK p) = up then s1
    else
      let s2 := s1.raise .net 4
      let since := if up then some s2.nowNs else none
      if p = 0 then { s2.wrB F.SPK_RING_STAT_LINK_A up with spk := { s2.spk with syncA := since } }
      else if p = 1 then { s2.wrB F.SPK_RING_STAT_LINK_B up with spk := { s2.spk with syncB := since } }
      else if p = 4 then
        { (s2.wrB F.TDM_STATE_LINK_T up).raise .tdm 7 with tdm := { s2.tdm with linkDownAt := if up then none else some s2.nowNs } }
      else s2)

end Sys2Proof.Machine
end

