-- ==== Sys2Proof/Machine/Save.lean ====
section
/-! DEFINITION. Power domains, and what a block keeps while its domain is off (R35, R470 to R472). -/

namespace Sys2Proof.Machine

/-- Every page instance. -/
def allBlks : List Blk :=
  [.sys, .int, .fab, .xlt, .mem, .nfm, .pfm, .cad, .lpe, .slv, .spk, .net, .tsu, .mtr, .fio, .can 0, .can 1, .can 2, .can 3, .tdm, .evr, .kst,
   .pwr, .rtc, .pnl, .bgs]

/-- The bits of a register that a save record holds: RW, RWL and RWS fields at offset 0x008 and above; SYS_ROLE whole (R470, R471); not SYNCED,
with which TB0 and TB1 restart clear (R330). -/
def saveMask (a : Nat) : Word :=
  if a = R.SYS_ROLE then BitVec.allOnes 32
  else if a = R.TSU_TBn_STAT 0 || a = R.TSU_TBn_STAT 1 then 0
  else (fieldsAt a).foldl (fun (m : Word) f =>
    if f.cls = .rw || f.cls = .rwl || f.cls = .rws then m ||| maskBits f.lo (f.hi - f.lo + 1) else m) 0

/-- The record of a block (R470). Log entry 54 (DEDUCED). -/
def State.saveBlk (s : State) (b : Blk) : SaveRec where
  blk := b
  regs := s.regs.filterMap fun x => if blkAt x.1 == some b && saveMask x.1 != 0 then some (x.1, x.2 &&& saveMask x.1) else none
  shadows := s.shadows.filter fun x => blkAt x.1.addr == some b

/-- The registers of the blocks that `p` names read their reset values, and their shadows are gone; R366 keeps CAN0's wake registers. -/
def State.clearBlks (s : State) (p : Blk → Bool) : State :=
  let lose (a : Nat) : Bool := (match blkAt a with | some b => p b | none => false) && !(decide (R.CAN_WK_CFG 0 ≤ a) && decide (a < R.CAN_WK_CFG 0 + 0x20))
  { s with regs := s.regs.filter fun x => !lose x.1, shadows := s.shadows.filter fun x => !lose x.1.addr }

/-- Restore a record, into its block's page alone (R470); `en`: with its EN bit. Log entry 54 (DEDUCED). -/
def State.restoreRec (s : State) (en : Bool) (r : SaveRec) : State :=
  let own (a : Nat) : Bool := blkAt a == some r.blk
  let s1 := (r.regs.filter fun x => own x.1).foldl (fun (s : State) x => s.regPut x.1 ((s.regGet x.1 &&& ~~~ saveMask x.1) ||| x.2)) s
  let s2 := if en then s1 else s1.wr (F.BLK_CTRL_EN r.blk) 0
  let s3 := { s2 with shadows := s2.shadows ++ r.shadows.filter fun x => own x.1.addr }
  if r.regs.isEmpty then s3 else s3.sumPend r.blk

/-- Put a record in the save area. -/
def State.putSave (s : State) (r : SaveRec) : State :=
  { s with pwr := { s.pwr with save := s.pwr.save.filter (fun x => x.blk != r.blk) ++ [r] } }

/-- Memory outside the addresses that `p` names reads as it does after power-up. Log entry 2 (DESIGN CHOICE). -/
def State.loseMem (s : State) (p : Nat → Bool) : State :=
  { s with mem := s.mem.filter fun c => !p c.1, ue := s.ue.filter fun w => !p w }

/-- Switch a domain off or on. -/
def State.setDom (s : State) (d : Domain) (off : Bool) : State := { s with domOff := setMark s.domOff d.idx off, domIso := setMark s.domIso d.idx off }

/-- The SLV domain loses power in NAP (R462, R471): tile memory, the resident model, factor slots and template copies. -/
def State.slvOff (s : State) : State :=
  let s1 := (s.putSave (s.saveBlk .slv)).clearBlks (· == .slv)
  ({ s1 with slv := {} }.loseMem inTiles).setDom .slv true

/-- The PNL domain loses power in NAP (R462). -/
def State.pnlOff (s : State) : State :=
  let s1 := (s.putSave (s.saveBlk .pnl)).clearBlks (· == .pnl)
  { s1 with pnl := {} }.setDom .pnl true

/-- A domain that NAP had switched off powers up with its save set (R462). -/
def State.domOn (s : State) (d : Domain) : State :=
  if !s.domOff.getLsbD d.idx then s
  else
    let recs := s.pwr.save.filter fun r => r.blk.domain == d
    (recs.foldl (fun (s : State) r => s.restoreRec true r) (s.setDom d false))

end Sys2Proof.Machine
end

