-- ==== Sys2Proof/Machine/Pnl.lean ====
section
/-! DEFINITION. The panel driver (R494 to R508). -/

namespace Sys2Proof.Machine

/-! ## Transfers (R494, R495) -/

/-- The words of a transfer: header and payload, then the check word. -/
def pnlTransfer (ws : List Nat) : List Nat := ws ++ [(crc16 (ws.flatMap fun w => [BitVec.ofNat 8 (w / 256), BitVec.ofNat 8 w])).toNat]

/-- A CLEAR. -/
def pnlClear : List Nat := pnlTransfer [6 * 2 ^ 13]

/-- A colour plane: one bit per pixel, the first sent first, padded to whole words. -/
def pnlPlane (bits : List Bool) : List Nat :=
  (upto ((bits.length + 15) / 16)).map fun i => (upto 16).foldl (fun x k => 2 * x + b2n (((bits.drop (16 * i)).take 16).getD k false)) 0

/-- A LINE: line number from 1, pixels as R, G, B in bits 2, 1, 0. -/
def pnlLine (y : Nat) (px : List Nat) : List Nat :=
  pnlTransfer ([5 * 2 ^ 13 + (y - 1)] ++ pnlPlane (px.map fun p => p.testBit 2) ++ pnlPlane (px.map fun p => p.testBit 1) ++
    pnlPlane (px.map fun p => p.testBit 0))

/-! ## Pixels (R499 to R501, R505) -/

/-- WIDTH and HEIGHT. -/
def State.pnlW (s : State) : Nat := s.rd F.PNL_CFG_WIDTH
def State.pnlH (s : State) : Nat := s.rd F.PNL_CFG_HEIGHT

/-- The dither matrix of R500. -/
def dither (x y : Nat) : Nat := [0, 8, 2, 10, 12, 4, 14, 6, 3, 11, 1, 9, 15, 7, 13, 5].getD (4 * (y % 4) + x % 4) 0

/-- The threshold of a pixel (R500). -/
def threshold (x y : Nat) (u : Int) : Int := clampI 1 255 (16 * (dither x y : Nat) + 8 + 4 * u)

/-- A pixel of a framebuffer line (R499, R500); `us`: the uniformity nibbles of the line, two a byte, the lower first. -/
def fbPixel (px us : List Byte) (x y : Nat) : Nat :=
  let b := (us.getD (x / 2) 0).toNat
  let t := threshold x y (sext 4 (if x % 2 = 0 then b % 16 else b / 16))
  let on (k : Nat) : Nat := b2n (decide (t ≤ ((px.getD (4 * x + k) 0).toNat : Int)))
  4 * on 2 + 2 * on 1 + on 0

/-- The always-on area: its first line, its lines, bits per pixel, bytes of a line, and where its image stands. -/
def State.aonFirst (s : State) : Nat := s.rd F.PNL_AON_CFG_FIRST
def State.aonLines (s : State) : Nat := s.rd F.PNL_AON_CFG_LINES
def State.aonBpp (s : State) : Nat := s.rd F.PNL_AON_CFG_BPP + 1
def State.aonStride (s : State) : Nat := s.pnlW * s.aonBpp / 8
def State.aonEn (s : State) : Bool := s.bit F.PNL_AON_CFG_EN
def aonBase : Nat := 0x8066000

/-- The CRC of the always-on image holds (R505). -/
def State.aonOk (s : State) : Bool :=
  let n := s.aonLines * s.aonStride
  1 ≤ s.aonLines && s.aonLines ≤ 48 && (crc32 (s.bytes aonBase n)).toNat == s.rdLe (aonBase + n) 4

/-- A pixel of the always-on image: palette entry k (R505). -/
def State.aonPixel (s : State) (x y : Nat) : Nat :=
  let bpp := s.aonBpp
  let b := (s.byte (aonBase + (y - s.aonFirst) * s.aonStride + x * bpp / 8)).toNat
  getBits (s.regGet R.PNL_AON_PAL) (4 * nbits b (x * bpp % 8) bpp) 3

/-- The time in ns that a LINE takes: its words at SCLK (R494, R495). -/
def State.lineNs (s : State) : Nat := 16 * (2 + 3 * ((s.pnlW + 15) / 16)) * 50 * (s.rd F.PNL_CFG_DIV + 1)

/-- A half-period of the commons in ns: a whole number of CLK_PNL cycles (R496). Log entry 56 (DEDUCED). -/
def State.comHalf (s : State) : Nat := 25 * (20000000 / max 1 (min 60 (s.rd F.PNL_COM_HZ)))

/-- COM_A toggles from its rising edge on; COM_B is its complement, each edge STAGGER µs later; parked commons are low (R496). -/
def State.comA (s : State) : Bool := s.pnl.com && decide ((s.nowNs - s.pnl.comAt) % (2 * s.comHalf) < s.comHalf)
def State.comB (s : State) : Bool :=
  let late := 1000 * max 10 (s.rd F.PNL_COM_STAGGER)
  s.pnl.com && decide (s.pnl.comAt + late ≤ s.nowNs) && !decide ((s.nowNs - s.pnl.comAt - late) % (2 * s.comHalf) < s.comHalf)

/-- The LINE transfer of line `y` (R500, R504). -/
def State.lineWords (s : State) (y : Nat) (src : LineSrc) : List Nat :=
  let w := s.pnlW
  let px := match src with
    | .fb p =>
      let us := ((s.pnl.unif.getD []).drop ((y - 1) * w / 2)).take (w / 2)
      (upto w).map fun x => fbPixel p us x (y - 1)
    | .aon => (upto w).map fun x => s.aonPixel x y
    | .blank => List.replicate w 0
    | .fault => []
  pnlLine y px

/-- Read the uniformity map (R501); `bad`: one of its pages is uncorrectable. Log entry 56 (DEDUCED). -/
def State.loadUnif (s : State) (bad : Bool) : State :=
  let n := s.pnlW * s.pnlH / 2
  let pages := (upto ((16 + n + 16383) / 16384)).map fun k => Sparse.get s.nand.pages none (6 * 2 ^ 20 + k)
  let b := (pages.filterMap id).flatten
  let data := (b.drop 16).take n
  if !bad && pages.all Option.isSome && leAt b 0 4 == 0x464E555A && leAt b 4 2 == s.pnlW && leAt b 6 2 == s.pnlH &&
      leAt b 12 4 == (crc32 data).toNat then
    { s with pnl := { s.pnl with unif := some data } }.wr F.PNL_PWR_STAT_UNIF_OFF 0
  else (({ s with pnl := { s.pnl with unif := none } }.wr F.PNL_PWR_STAT_UNIF_OFF 1).raise .pnl 6).err .pnl 0x81 0

/-! ## Power sequences (R497, R498, R507) -/

/-- STATE with its mirror: 0 OFF, 1 POWERING, 2 READY, 3 DISCHARGING (R508). -/
def State.pnlState (s : State) : Nat := s.rd F.PNL_PWR_STAT_STATE
def State.setPnlState (s : State) (v : Nat) : State := (s.wr F.PNL_PWR_STAT_STATE v).wr ⟨R.BLK_STAT .pnl, 8, 3⟩ v

/-- PNL_UPD_STAT follows the requests and the update. -/
def State.showUpd (s : State) : State :=
  let s1 := s.wr F.PNL_UPD_STAT_PEND s.pnl.pend.toNat
  match s.pnl.run with
  | some ⟨some r, l⟩ => ((s1.wr F.PNL_UPD_STAT_RUN r).wr F.PNL_UPD_STAT_RUNNING 1).wr F.PNL_UPD_STAT_LINE ((l.head?.map Prod.fst).getD 0)
  | _ => (s1.wr F.PNL_UPD_STAT_RUNNING 0).wr F.PNL_UPD_STAT_LINE 0

/-- The update in progress ends: UPD_DONE, unless only always-on lines were sent (R504). -/
def State.updEnd (s : State) : State :=
  match s.pnl.run with
  | none => s
  | some x =>
    let s1 := { s with pnl := { s.pnl with run := none } }
    if x.region.isSome then ((s1.incSat F.PNL_UPD_CNT_DONE).raise .pnl 2).showUpd else s1

/-- Step 1 and 2 of R498: requests and the update are dropped, CLEAR is sent, the panel discharges. -/
def State.discharge (s : State) : State :=
  let s1 := s.updEnd
  ({ s1 with pnl := { s1.pnl with
      pend := 0, aonDue := false, offPend := false, at_ := s.nowNs, va := false, dsch := true, com := false, tx := [pnlClear] } }.setPnlState 3).showUpd

/-- Power the panel off (R462, R464, R498, R507): a running LINE completes first. Log entry 56 (DEDUCED). -/
def State.pnlPowerOff (s : State) : State :=
  if s.pnlState = 0 || s.pnlState = 3 then s
  else if s.pnl.run.isSome && s.en .pnl then { s with pnl := { s.pnl with offPend := true } }
  else s.discharge

/-- PNL_ON (R497). -/
def execPnlOn (m : Master) (s : State) : Out :=
  .next (s.gate m .pnl R.PNL_PWR_CMD fun s =>
    if s.pnlState ≠ 0 then s.err .pnl 0x84 0
    else { s with pnl := { s.pnl with vdd := true, at_ := s.nowNs, tx := [] } }.setPnlState 1)

/-- PNL_VDD_TIMER (R497): T_VDD ms after VDD. -/
def execPnlVddTimer (s : State) : Out :=
  .next (s.whileLive .pnl fun s =>
    if s.pnlState = 1 && !s.pnl.va && s.pnl.at_ + 1000000 * max 1 (s.rd F.PNL_PWR_CFG_T_VDD) ≤ s.nowNs then
      { s with pnl := { s.pnl with va := true, at_ := s.nowNs } }
    else s)

/-- PNL_VA_TIMER (R497, R501): T_VA ms after VA; `bad`: the uniformity map is unreadable. -/
def execPnlVaTimer (bad : Bool) (s : State) : Out :=
  .next (s.whileLive .pnl fun s =>
    if s.pnlState = 1 && s.pnl.va && s.pnl.at_ + 1000000 * max 1 (s.rd F.PNL_PWR_CFG_T_VA) ≤ s.nowNs then
      (((({ s with pnl := { s.pnl with com := true, comAt := s.nowNs, tx := [pnlClear], lineAt := s.nowNs + 1000 } }.setPnlState 2).wr F.PNL_PWR_STAT_FULL_PEND 1).raise .pnl 4).loadUnif bad)
    else s)

/-- PNL_OFF (R498). -/
def execPnlOff (m : Master) (s : State) : Out :=
  .next (s.gate m .pnl R.PNL_PWR_CMD fun s => if s.pnlState ≠ 2 then s.err .pnl 0x84 0 else s.pnlPowerOff)

/-- PNL_DISCHARGE_END (R462, R498): 20 ms of discharge. -/
def execPnlDischargeEnd (s : State) : Out :=
  .next (s.whileLive .pnl fun s =>
    if s.pnlState = 3 && s.pnl.at_ + 20000000 ≤ s.nowNs then
      let s1 := ({ s with pnl := { s.pnl with dsch := false, vdd := false, tx := [] } }.setPnlState 0).raise .pnl 4
      if s1.pnl.napOff then s1.pnlOff else s1
    else s)

/-- COMMON_PERIOD_END (R496, R508). -/
def execCommonPeriodEnd (s : State) : Out :=
  .next (s.whileLive .pnl fun s =>
    if s.pnl.com && decide (s.pnl.comAt + 2 * s.comHalf ≤ s.nowNs) then
      ({ s with pnl := { s.pnl with comAt := s.nowNs } }.commit .pnl fun f => f.addr == R.PNL_COM).freezePoint .pnl else s)

/-! ## Updates (R502 to R504) -/

/-- A region's configuration is valid as `get` reads its fields (R503). -/
def State.regionOk (s : State) (get : Fld → Nat) (r : Nat) : Bool :=
  let f := get (F.PNL_REGr_CFG_FIRST r)
  let n := get (F.PNL_REGr_CFG_NLINES r)
  let st := get (F.PNL_REGr_STRIDE_STRIDE r)
  let hit := s.aonEn && f < s.aonFirst + s.aonLines && s.aonFirst < f + n
  f != 0 && f + n ≤ s.pnlH + 1 && !hit && st % 64 == 0 && 4 * s.pnlW ≤ st

/-- Request region `r`. -/
def State.updRequest (s : State) (r : Nat) : State :=
  if !s.bit (F.PNL_REGr_CFG_EN r) || s.pnlState ≠ 2 || !s.regionOk s.rdShadow r then s.err .pnl 0x82 r
  else if s.pnl.pend.getLsbD r then (s.incSat F.PNL_UPD_CNT_REPLACED).raise .pnl 3
  else { s with pnl := { s.pnl with pend := setMark s.pnl.pend r true } }

/-- UPD_CMD (R503). -/
def execUpdCmd (m : Master) (regions : BitVec 8) (s : State) : Out :=
  .next (s.gate m .pnl R.PNL_UPD_CMD fun s =>
    (((upto 8).filter fun r => regions.getLsbD r).foldl (fun (s : State) r => s.updRequest r) s).showUpd)

/-- The sources of an update's lines (R499, R504): the region's lines are read in order up to one that faults. -/
def State.readLines (s : State) (r first n : Nat) : List Nat → State × List (Nat × LineSrc)
  | [] => (s, [])
  | y :: t =>
    if first ≤ y && y < first + n then
      let base := s.rd (F.PNL_REGr_BASE_LO_BASE r) * 2 ^ 6 + s.rd (F.PNL_REGr_BASE_HI_BASE r) * 2 ^ 32
      match s.dmaRead 16 (base + s.rd (F.PNL_REGr_STRIDE_STRIDE r) * (y - first)) (4 * s.pnlW) with
      | (s1, none) => (s1, [(y, .fault)])
      | (s1, some p) =>
        let (s2, l) := State.readLines s1 r first n t
        (s2, (y, .fb p) :: l)
    else
      let inAonArea := s.aonEn && s.aonFirst ≤ y && y < s.aonFirst + s.aonLines
      let (s2, l) := State.readLines s r first n t
      (s2, (y, if inAonArea && s.aonOk then .aon else .blank) :: l)

/-- Go to the next line: the update ends after its last, or at one that faulted (R504). Log entry 56 (DEDUCED). -/
def State.nextLine (s : State) : State :=
  match s.pnl.run with
  | none => s
  | some x =>
    match x.lines with
    | [] => s.updEnd
    | (_, .fault) :: _ => (((s.err .pnl 0x80 (x.region.getD 0)).raise .pnl 7).updEnd)
    | _ => s.showUpd

/-- The pending region that is served next: the lowest above the last, wrapping round (R504). -/
def State.nextRegion (s : State) : Option Nat := ((upto 8).map fun k => (s.pnl.last + 1 + k) % 8).find? fun r => s.pnl.pend.getLsbD r

/-- UPDATE_START (R503, R504): always-on lines that are due go first. Log entry 56 (DEDUCED). -/
def execUpdateStart (s : State) : Out :=
  .next (s.whileLive .pnl fun s =>
    if !s.runs .pnl || s.pnlState ≠ 2 || s.pnl.run.isSome || s.pnl.offPend then s
    else if s.pnl.aonDue && s.aonEn && s.aonOk then
      { s with pnl := { s.pnl with aonDue := false, lineAt := max s.pnl.lineAt s.nowNs, run := some ⟨none, (upto s.aonLines).map fun k => (s.aonFirst + k, .aon)⟩ } }
    else
      match s.nextRegion with
      | none => s
      | some r =>
        let s0 := (s.commit .pnl fun f => decide (R.PNL_REGr_CFG r ≤ f.addr) && decide (f.addr < R.PNL_REGr_CFG r + 0x10)).freezePoint .pnl
        if s0.isHalted .pnl then s0
        else
          let s1 := { s0 with pnl := { s0.pnl with pend := setMark s0.pnl.pend r false, last := r, run := some ⟨some r, []⟩, lineAt := max s0.pnl.lineAt s0.nowNs } }
          if !s1.regionOk s1.rd r then ((s1.err .pnl 0x82 r).updEnd)
          else
            let first := s1.rd (F.PNL_REGr_CFG_FIRST r)
            let n := s1.rd (F.PNL_REGr_CFG_NLINES r)
            let full := s1.bit F.PNL_PWR_STAT_FULL_PEND
            let ys := if full then (upto s1.pnlH).map (· + 1) else (upto n).map (first + ·)
            let (s2, l) := (s1.wr F.PNL_PWR_STAT_FULL_PEND 0).readLines r first n ys
            ({ s2 with pnl := { s2.pnl with run := some ⟨some r, l⟩ } }.nextLine))

/-- LINE_DONE (R495, R504, R507): the transfer on the interface ends; the next starts at least 1 µs later. Log entry 56 (DEDUCED). -/
def execLineDone (s : State) : Out :=
  .next (s.whileLive .pnl fun s =>
    match s.pnl.run with
    | some ⟨r, (y, src) :: t⟩ =>
      if !s.en .pnl || s.nowNs < s.pnl.lineAt + s.lineNs then s
      else
        let s := { s with pnl := { s.pnl with lineAt := s.nowNs + 1000 } }
        let words := s.lineWords y src
        let s1 := { s with pnl := { s.pnl with run := some ⟨r, t⟩ } }
        let s2 := if s1.pnl.offPend then s1.discharge else s1.nextLine
        { s2 with pnl := { s2.pnl with tx := words :: (if s1.pnl.offPend then s2.pnl.tx else []) } }
    | _ => s)

/-! ## The always-on area (R505, R506) -/

/-- AON_LOAD (R505): the image is read from context 16. -/
def execAonLoad (m : Master) (s : State) : Out :=
  .next (s.gate m .pnl R.PNL_AON_CMD fun s =>
    if s.aonLines = 0 || 48 < s.aonLines then s.err .pnl 0x83 0
    else
      match s.dmaRead 16 (s.rd64 R.PNL_AON_SRC_LO R.PNL_AON_SRC_HI) (s.aonLines * s.aonStride) with
      | (s1, none) => s1.err .pnl 0x83 0
      | (s1, some b) => { s1 with pnl := { s1.pnl with load := some b } })

/-- AON_LOAD_DONE (R505): the image and its CRC stand in AON memory; the area's lines follow at the next free slot. -/
def execAonLoadDone (s : State) : Out :=
  .next (s.whileLive .pnl fun s =>
    match s.pnl.load with
    | none => s
    | some b =>
      let s1 := s.putBytes aonBase (b ++ leBytes 4 (crc32 b).toNat)
      ({ s1 with pnl := { s1.pnl with load := none, aonDue := true } }.wr F.PNL_PWR_STAT_AON_VALID 1).raise .pnl 5)

/-- AON_REFRESH (R506): the sequencer resends the area's lines; an image whose CRC fails sends nothing. -/
def execAonRefresh (s : State) : Out :=
  .next (
    if !s.pnl.seq || s.rd F.PNL_AON_TIME_REFRESH_S = 0 then s
    else if !s.aonOk then { s with pnl := { s.pnl with tx := [] } }.wr F.PNL_PWR_STAT_AON_VALID 0
    else { s with pnl := { s.pnl with tx := (upto s.aonLines).map fun k => s.lineWords (s.aonFirst + k) .aon } })

end Sys2Proof.Machine
end

