-- ==== Sys2Proof/Machine/SpkStation.lean ====
section
/-! DEFINITION. The station side of the Spoke ring: forwarding, segments, loop-back, watchdog and mailbox services (R153, R163 to R168,
R185 to R188). -/

namespace Sys2Proof.Machine

/-! ## Forwarding and loop-back (R163, R164, R167) -/

/-- Frames of a port are looped back on the other. -/
def State.looping (s : State) : Bool := s.spk.loopA || s.spk.loopB

/-- A processed frame leaves: out of the other port, or, in loop-back, out of the port it came in by with LOOPED set. HOPS goes up; a
received FCS error stays an error (R163, R164, R167). -/
def State.passOn (s : State) (port : Nat) (f : SpokeFrame) : State :=
  let b := incHops f.body
  if s.looping then s.sendRing port { f with body := setLooped b } else s.sendRing (1 - port) { f with body := b }

/-- A frame the module would forward at all (R153, R163). -/
def State.takesFrame (s : State) (f : SpokeFrame) : Bool := s.forwards && s.ringFrame f && hHops f.body != 4095

/-- The state part of an entry follows a passing mailbox frame on a standby (R383). -/
def State.seePassing (s : State) (f : SpokeFrame) : State :=
  let b := f.body
  let a := areaOf b
  let node := beAt a 0 2 % 2 ^ 10
  let seq := beAt a 4 2
  let s1 := { s with spk := { s.spk with seen := max s.spk.seen (hPass b), kept := (f :: s.spk.kept).take 2048 } }
  let e := s1.spoke node
  if hKind b = 1 then s1.setSpoke node { e with st := { e.st with downSeq := seq } }
  else if hKind b = 2 && (beAt a 0 2).testBit 15 then s1.setSpoke node { e with st := { e.st with upSeq := seq } }
  else s1

/-- A standby updates bytes 0x1C to 0x3F of its entries from a cyclic copy that passes it, delivering nothing (R383). -/
def State.followCyclic (s : State) (f : SpokeFrame) : State :=
  let c : Copy := ⟨hDir f.body, hFrame f.body, f.body, f.fcs, hLooped f.body⟩
  if hKind f.body ≠ 0 then s
  else s.spkEnabled.foldl (fun s n =>
    let e := s.spoke n
    match answerIn e c with
    | some a => s.setSpoke n { e with st := (spkAnswer e.cfg e.st (hPass f.body) a).1 }
    | none => s) s

/-- A plant-role module sees another master's frame: it stops mastering, and, mastering or not, it is BLOCKED (R20).
Log entry 85 (DESIGN CHOICE). -/
def State.masterConflict (s : State) : State :=
  if s.ringState = 3 then s
  else
    ((if s.mastering then s.stopMaster 3 else s.wr F.SPK_RING_STAT_STATE 3).err .spk 0x82 (woffOf .spk R.SPK_RING_STAT)).raiseEv .spk 13

/-- An ACTIVE member stops mastering and goes to OUT (R381, R382): ROLE_CHG. -/
def State.roleOut (s : State) : State :=
  (((if s.mastering then s.stopMaster 0 else s).wr F.TDM_STATE_STATE 4).wr F.SYS_ROLE_ACTIVE 0).drive.raise .tdm 2

/-! ## The segment (R160, R161, R165, R166, R168) -/

/-- Start or stop applying substitute values (R166). -/
def State.setSubst (s : State) (v : Bool) : State := { s with spk := { s.spk with stn := { s.spk.stn with subst := v } } }

/-- The input data of the station's segment, from its guarded output image (R168), and the mask of items it cannot give. -/
def State.stationInputs (s : State) : List Byte × Nat :=
  let e := s.spoke s.node
  let items := e.cfg.map.drop 16
  let val (w : Nat) : Option Guarded := s.guardedVal (s.node * 2 ^ 13 + miPoint w)
  (items.foldl (fun bs w => putItem bs w (((val w).map (·.value)).getD 0)) (List.replicate e.cfg.inLen 0),
   items.zipIdx.foldl (fun (m : Nat) (x : Nat × Nat) => if miKind x.1 ≠ 0 && (val x.1).isNone then m + 2 ^ x.2 else m) 0)

/-- Quality of the input data as a code SQUAL may hold: the worst of the items given, other codes read as BAD. -/
def State.stationQual (s : State) : Nat :=
  let e := s.spoke s.node
  let q := (e.cfg.map.drop 16).foldl (fun q w =>
    if miKind w = 0 then q else match s.guardedVal (s.node * 2 ^ 13 + miPoint w) with
      | some g => max q g.qual
      | none => q) 0
  if q ≤ 2 then q else 5

/-- The station status word (R161). -/
def State.stationStatus (s : State) (bad : Nat) : Nat :=
  let x := s.spk.stn
  2 ^ 31 + s.stationQual * 2 ^ 28 + b2n x.subst * 2 ^ 27 + b2n x.outMiss * 2 ^ 26 + b2n (!x.up.isEmpty) * 2 ^ 25 +
  (x.ackSeq % 256) * 2 ^ 16 + bad % 2 ^ 16

/-- The segment of a node in an area: its offset, found from segment to segment (R159, R160). -/
def findSeg (a : List Byte) (node : Nat) : Nat → Nat → Option Nat
  | 0, _ => none
  | fuel + 1, o =>
    if a.length < o + 8 then none
    else
      let w := beAt a o 4
      if w / 2 ^ 22 = node then some o else findSeg a node fuel (o + 8 + nbits w 16 6 + nbits w 10 6)

/-- The station's segment in a frame's area. -/
def State.mySegment (s : State) (b : List Byte) : Option Nat := if hKind b = 0 then findSeg (areaOf b) s.node 181 0 else none

/-- A new pass begins at the station (R161): OUT_MISS says that nothing was taken in the pass numbered before it, be it seen or not; and
the first intact copy of a pass's frame 0 gives the ring instant (R156). Log entries 77 (DESIGN CHOICE), 93 (DESIGN CHOICE). -/
def State.newPass (s : State) (b : List Byte) (fcs : Bool) : State :=
  let x := s.spk.stn
  let num := hPass b
  if !fcs then s
  else
    let x1 := if x.pass == some num then x else { x with pass := some num, took := false, outMiss := !(x.took && x.pass.map (· + 1) == some num) }
    if hFrame b ≠ 0 || hKind b ≠ 0 || x.instantOf == some num then { s with spk := { s.spk with stn := x1 } }
    else { s.supplyInstant with spk := { s.spk with stn := { x1 with instantOf := some num }, lastInstant := s.nowNs } }

/-- How a station meets a frame's tagging (R165, R192, R193): with no key an untagged one, unless the station requires tags; with the key
of its epoch a tagged one, the active half's alone (R420); with none held for the epoch the frame fails. -/
def State.stationKey (s : State) (b : List Byte) : Option (Option (List Byte)) :=
  let c := (s.spoke s.node).cfg
  if hTagged b then (if hEpoch b = s.kstEpoch (16 + c.slot) then (s.tagKey c.slot).map some else none)
  else if s.frameTagged c.tagged then none else some none

/-- The station passes a frame of its own by: a tagged one whose key it does not hold raises TAG_FAIL, with an event once (R193). -/
def State.stationPass (s : State) (f : SpokeFrame) : State × SpokeFrame :=
  (if hTagged f.body then s.tagBad (s.spoke s.node).cfg.slot else s, f)

/-- A tag key is held again: the next failure is news (R193). -/
def State.tagHeld (s : State) (key : Option (List Byte)) : State :=
  if key.isSome then { s with spk := { s.spk with tagBad := s.spk.tagBad.filter fun n => n != (s.spoke s.node).cfg.slot } } else s

/-- Take the output data of a pass from a copy (R165, R166): the first intact copy; a tagged one only of a later pass. -/
def State.takeOutputs (s : State) (b : List Byte) (o : Nat) (intact : Bool) : State :=
  let e := s.spoke s.node
  let x := s.spk.stn
  let w := beAt (areaOf b) o 4
  let old := hTagged b && (match x.lastTaken with | some n => decide (hPass b ≤ n) | none => false)
  if !intact || x.took || old then s
  else
    let cmd := w.testBit 8
    let sub := if cmd then true else if w.testBit 9 then false else x.subst
    let ack := match x.up with | m :: t => if m.seq % 256 = w % 256 then t else x.up | [] => []
    let s1 := { s with spk := { s.spk with stn := { x with
      took := true, lastTaken := some (hPass b), takenAt := s.nowNs, out := ((areaOf b).drop (o + 4)).take e.cfg.outLen, subst := sub,
      up := ack } } }
    s1.deliverOutputs

/-- Process the station's own segment in a copy (R161, R165, R192): the frame with status, inputs and corrected tag. They pass before the
FCS and the tag are known: they tell how the station stood before it takes anything from the copy. Log entry 94 (DESIGN CHOICE). -/
def State.processSegment (s : State) (f : SpokeFrame) (o : Nat) : State × SpokeFrame :=
  let b := f.body
  let c := (s.spoke s.node).cfg
  match s.stationKey b with
  | none => s.stationPass f
  | some key =>
    let intact := f.fcs && (match key with | some k => frameTag k f.sa b == tagOf b | none => true)
    let (inp, bad) := s.stationInputs
    let b1 := patch b (16 + o + 4 + c.outLen) (beBytes 4 (s.stationStatus bad) ++ inp)
    ((s.tagHeld key).takeOutputs b o intact, { f with body := match key with | some k => fixTag k b b1 | none => b1 })

/-! ## The mailbox at a station (R185 to R187) -/

/-- A down message for the station: accepted from the first intact copy with a new SEQ; duplicates are not executed (R186). A request
waits for its answer; one of an unknown service is answered at once (R185, R188). Log entry 77 (DESIGN CHOICE). -/
def State.stationDown (s : State) (a : List Byte) (intact : Bool) : State :=
  let x := s.spk.stn
  let seq := beAt a 4 2
  let unknown := beAt a 6 1 == 0 || decide (4 < beAt a 6 1)
  if !intact || seq = x.ackSeq then s
  else if unknown then
    let m : MbxMsg := { seq := x.upSeq, service := beAt a 6 1, status := 1 }
    { s with spk := { s.spk with stn := { x with ackSeq := seq, up := x.up ++ [m], upSeq := seqAfter x.upSeq } } }
  else
    let m : MbxMsg := { seq := seq, service := beAt a 6 1, payload := (a.drop 16).take (beAt a 2 2) }
    { s with spk := { s.spk with stn := { x with ackSeq := seq, req := x.req ++ [m] } } }

/-- A poll for the station: its header and payload are written into the copy (R187). -/
def State.stationPoll (s : State) (f : SpokeFrame) : SpokeFrame :=
  match s.spk.stn.up with
  | [] => f
  | m :: _ =>
    let head := mbxHeader (s.node + 2 ^ 15) m.payload.length m.seq m.service m.status
    { f with body := patch f.body 16 ((head ++ m.payload).take (hArea f.body)) }

/-- What a station does with a mailbox frame that carries its node (R185 to R187, R192). -/
def State.stationMail (s : State) (f : SpokeFrame) : State × SpokeFrame :=
  let b := f.body
  match s.stationKey b with
  | none => s.stationPass f
  | some key =>
    let intact := f.fcs && (match key with | some k => frameTag k f.sa b == tagOf b | none => true)
    let s1 := s.tagHeld key
    if hKind b = 1 then (s1.stationDown (areaOf b) intact, f)
    else
      let g := s1.stationPoll f
      (s1, match key with | some k => { g with body := fixTag k b g.body } | none => g)

/-- What a station or witness does with a copy before forwarding it: nothing with VER other than 1 (R163), with LOOPED set (R167), or where
its own entry is in ERROR. Log entry 77 (DESIGN CHOICE). -/
def State.stationProcess (s : State) (f : SpokeFrame) : State × SpokeFrame :=
  let b := f.body
  if hVer b ≠ 1 then (s, f)
  else
    let s0 := (if hTagged b then s.checkTag (s.spoke s.node).cfg.slot else s).newPass b f.fcs
    if hLooped b || (s0.spoke s0.node).st.state == 6 then (s0, f)
    else match s0.mySegment b with
      | some o => s0.processSegment f o
      | none => if (hKind b == 1 || hKind b == 2) && beAt (areaOf b) 0 2 % 2 ^ 10 == s.node then s0.stationMail f else (s0, f)

/-- A ring frame arrives at a port: dropped, or processed where segment processing runs (R153), and passed on. -/
def State.ringArrive (s : State) (port : Fin 2) (partner : Bool) (f : SpokeFrame) : State :=
  let s0 := s.clearTx
  if !s0.takesFrame f then s0
  else if s0.tandem && partner && s0.tdmState == 1 && s0.granted then s0
  else if s0.tandem && partner && s0.tdmState == 1 then s0.roleOut
  else
    let s1 :=
      if hVer f.body ≠ 1 then s0
      else if s0.plant && !partner then s0.masterConflict
      else if s0.tandem && partner then
        let s1 := s0.seePassing f
        if s1.tdmState = 3 then s1.followCyclic f else if s1.tdmState = 0 && !s1.granted then s1.roleOut else s1
      else s0
    let (s2, g) := if s1.stationRole && s1.runs .spk then s1.stationProcess f else (s1, f)
    s2.passOn port g

/-- RING_FRAME_FORWARD (R153, R163, R164): a frame that this module did not source arrives at a port; `partner`: its Tandem partner
sourced it. Forwarding goes on whatever SPK_CTRL.EN. -/
def execRingFrameForward (port : Fin 2) (partner : Bool) (f : SpokeFrame) (s : State) : Out := .next (s.ringArrive port partner f)

/-- STATION_SEGMENT (R165): the arrival of a frame that carries the station's node. -/
def execStationSegment (port : Fin 2) (f : SpokeFrame) (s : State) : Out :=
  .next (if s.stationRole && (s.mySegment f.body).isSome then s.ringArrive port false f else s)

/-- A station's loop-back engages: its link on `port` fails (R167). -/
def execLoopbackEngage (port : Fin 2) (s : State) : Out :=
  .next (s.whileLive .spk fun s =>
    if !s.forwards then s
    else if port = 0 then { s with spk := { s.spk with loopA := true, syncA := none } }
    else { s with spk := { s.spk with loopB := true, syncB := none } })

/-- LOOPBACK_EXIT (R167): the failed port has held synchronisation for 100 ms. -/
def execLoopbackExit (port : Fin 2) (s : State) : Out :=
  .next (s.whileLive .spk fun s =>
    let held (t : Option Nat) : Bool := match t with | some n => decide (n + 100000000 ≤ s.nowNs) | none => false
    if port = 0 then (if s.spk.loopA && held s.spk.syncA then { s with spk := { s.spk with loopA := false } } else s)
    else if s.spk.loopB && held s.spk.syncB then { s with spk := { s.spk with loopB := false } } else s)

/-- The watchdog time in ns (R168). -/
def State.stationWd (s : State) : Nat := 1000000 * max 1 (s.rd F.SPK_STN_WD_WD_MS)

/-- STATION_WATCHDOG (R166, R168): no intact output copy for the watchdog time; the substitutes are delivered while that lasts. -/
def execStationWatchdog (s : State) : Out :=
  .next (s.whileLive .spk fun s =>
    if !s.stationRole || !(s.runs .spk) || (s.spoke s.node).st.state == 6 || s.nowNs < s.spk.stn.takenAt + s.stationWd then s
    else (s.setSubst true).deliverOutputs)

/-! ## Mailbox services (R188) -/

/-- The station answers the first request it holds; its up messages leave in turn (R187). -/
def State.answer (s : State) (service : Nat) (k : MbxMsg → State → State × Option (Nat × List Byte)) : State :=
  s.whileLive .spk fun s =>
    let x := s.spk.stn
    match x.req with
    | [] => s
    | m :: rest =>
      if m.service ≠ service || !s.stationRole || !(s.runs .spk) then s
      else
        let (s1, r) := k m s
        let y := { s1.spk.stn with req := rest }
        let z := match r with
          | none => y
          | some (st, p) =>
            { y with up := y.up ++ [{ seq := y.upSeq, service := service, status := st, payload := p }], upSeq := seqAfter y.upSeq }
        { s1 with spk := { s1.spk with stn := z } }

/-- The IDENT reply: vendor, product and revision; FWD_LAT 64 × 10 ns; lengths 32; GMAC; the device serial. -/
def State.identReply (s : State) : List Byte :=
  (upto 12).map Config.identByte ++ [64, 32, 32, 1] ++ (upto 4).flatMap fun k => leBytes 4 (s.regGet (R.KST_SERIALk k)).toNat

/-- IDENT (R188). -/
def execIdent (s : State) : Out :=
  .next (s.answer 1 fun m s => (s, some (if m.payload = [] then (0, s.identReply) else (5, []))))

/-- A standard parameter: its bytes. -/
def State.param (s : State) (idx : Nat) : Option (List Byte) :=
  if idx = 1 then some (beBytes 4 (s.rd F.SPK_STN_WD_WD_MS))
  else if idx = 2 then some (let l := s.spk.stn.substData; l ++ List.replicate ((s.spoke s.node).cfg.outLen - l.length) 0)
  else if idx = 3 then some [BitVec.ofNat 8 s.spk.stn.substMode]
  else none

/-- PARAM_READ (R188): index and byte count. -/
def execParamRead (s : State) : Out :=
  .next (s.answer 2 fun m s =>
    if m.payload.length ≠ 6 then (s, some (5, []))
    else match s.param (beAt m.payload 0 4) with
      | none => (s, some (2, []))
      | some p => if p.length = beAt m.payload 4 2 then (s, some (0, p)) else (s, some (5, [])))

/-- Set a standard parameter. -/
def State.setParam (s : State) (idx : Nat) (v : List Byte) : State :=
  if idx = 1 then (s.wr F.SPK_STN_WD_WD_MS (beAt v 0 4)).sumPend .spk
  else if idx = 2 then { s with spk := { s.spk with stn := { s.spk.stn with substData := v } } }
  else { s with spk := { s.spk with stn := { s.spk.stn with substMode := beAt v 0 1 } } }

/-- PARAM_WRITE (R188): index, then the data. A value outside a parameter's range is no value of its length. -/
def execParamWrite (s : State) : Out :=
  .next (s.answer 3 fun m s =>
    let idx := beAt m.payload 0 4
    let v := m.payload.drop 4
    if m.payload.length < 4 then (s, some (5, []))
    else match s.param idx with
      | none => (s, some (2, []))
      | some p =>
        let fine := p.length == v.length && (idx != 1 || (decide (1 ≤ beAt v 0 4) && decide (beAt v 0 4 ≤ 65535))) && (idx != 3 || decide (beAt v 0 1 ≤ 1))
        if fine then (s.setParam idx v, some (0, [])) else (s, some (5, [])))

/-- POINT_BULK (R188): each record of point, quality and value is delivered by signal ID; one with a reserved quality (R77) is not.
Log entry 92 (DESIGN CHOICE). -/
def execPointBulk (s : State) : Out :=
  .next (s.answer 4 fun m s =>
    let node := s.node
    ((upto (m.payload.length / 8)).foldl (fun s k =>
      let p := m.payload.drop (8 * k)
      if 6 < beAt p 2 1 then s
      else s.deliverIn (node * 2 ^ 13 + beAt p 0 2 % 2 ^ 13) (BitVec.ofNat 32 (beAt p 4 4)) (beAt p 2 1) 0) s, none))

end Sys2Proof.Machine
end

