-- ==== Sys2Proof/Machine/Tandem.lean ====
section
/-! DEFINITION. The Tandem unit: joining, the input stream, digests, arbitration, takeover, self-tests and health reports (R368 to
R386). -/

namespace Sys2Proof.Machine

/-- The unit runs on a member of a pair. -/
def State.tdmRuns (s : State) : Bool := s.tandem && s.en .tdm

/-- An event of the Tandem unit on a member of a pair. -/
def State.tdmEvent (s : State) (k : State → State) : State := s.whileLive .tdm fun s => if s.tdmRuns then k s else s

/-- The replay queue of a join has filled its buffer (R377). -/
def State.replayFull (s : State) : Bool := decide (Config.replayRoom < s.tdm.replay.length)

/-- An entry that a standby in JOINING or STEP takes from the stream (R372, R378): in JOINING an entry before the cut is covered by the
copy, a later one waits in the replay queue until the copy is loaded and the entries before it are applied; what no longer fits is lost, and
the join with it. Log entry 39 (DEDUCED). -/
def State.entry (s : State) (e : TdmIn) (k : State → State) : State :=
  s.tdmEvent fun s =>
    if !s.following then s
    else if s.tdmState = 3 || (s.tdm.loaded && s.tdm.replay.isEmpty) then k s
    else if s.tdm.cutSeen && !s.replayFull then { s with tdm := { s.tdm with replay := s.tdm.replay ++ [e] } }
    else s

/-! ## Commands (R371, R376, R377, R379) -/

/-- A join is refused with a reason: STEP_CHG and code 0x81 (R377). -/
def State.joinRefuse (s : State) (r : Nat) : State := ((s.wr F.TDM_STATE_REASON r).raise .tdm 3).err .tdm 0x81 r

/-- A 256-bit number held in eight registers from an address on. -/
def State.hashAt (s : State) (a : Nat) : Nat := leNat ((upto 8).flatMap fun k => leBytes 4 (s.regGet (a + 4 * k)).toNat)

/-- Why a JOIN is refused; 0 where it is not (R377). -/
def State.joinReason (s : State) (ahash ghash : BitVec 256) (cadSum lpeSum : Word) : Nat :=
  if s.tdmState ≠ 4 || s.rd F.TDM_STATE_PCODE ≠ 1 then 0x14
  else if !s.bit F.TDM_STATE_LINK_T then 0x13
  else if s.hashAt (R.CAD_AHASHk 0) ≠ ahash.toNat then 0x10
  else if s.hashAt (R.LPE_GRD_HASHk 0) ≠ ghash.toNat then 0x11
  else if s.regGet (R.BLK_CFGSUM .cad) ≠ cadSum || s.regGet (R.BLK_CFGSUM .lpe) ≠ lpeSum then 0x12
  else if s.tdm.fails ≠ 0 then 0x16
  else 0

/-- JOIN (R377, R378): `ahash`, `ghash`, `cadSum` and `lpeSum` are the partner's. -/
def execJoin (m : Master) (ahash ghash : BitVec 256) (cadSum lpeSum : Word) (s : State) : Out :=
  .next (s.gate m .tdm R.TDM_CMD fun s =>
    let r := s.joinReason ahash ghash cadSum lpeSum
    if r ≠ 0 then s.joinRefuse r
    else
      let s1 := s.wr F.TDM_STATE_STATE 2
      let s2 := { s1 with tdm := { s1.tdm with
        joinAt := s1.nowNs, cutSeen := false, loaded := false, replay := [], missing := [], replayed := true, lagNs := none } }
      s2.sendTdm .joinReq)

/-- LEAVE (R376). -/
def execLeave (m : Master) (s : State) : Out :=
  .next (s.gate m .tdm R.TDM_CMD fun s => if s.following then s.leaveStep 1 else s.err .tdm 0x82 (woffOf .tdm R.TDM_CMD))

/-- The member declares itself faulty: it stops mastering (R371, R379). -/
def State.declareFault (s : State) : State := (if s.mastering then s.stopMaster 0 else s).enterFault

/-- TDM_FAULT (R379): on a member of a pair. -/
def execTdmFault (m : Master) (s : State) : Out :=
  .next (s.gate m .tdm R.TDM_CMD fun s => if s.tandem then s.declareFault else s.err .tdm 0x82 (woffOf .tdm R.TDM_CMD))

/-- CLR_FAULT (R371). -/
def execClrFault (m : Master) (s : State) : Out :=
  .next (s.gate m .tdm R.TDM_CMD fun s => if s.tdmState = 5 then s.wr F.TDM_STATE_STATE 4 else s.err .tdm 0x82 (woffOf .tdm R.TDM_CMD))

/-! ## Joining (R378) -/

/-- The TDM buffer's address in TDM's context. -/
def State.tdmBuf (s : State) : Nat := s.rd F.TDM_BUF_BASE_LO_BASE_LO * 2 ^ 16 + s.rd F.TDM_BUF_BASE_HI_BASE_HI * 2 ^ 32

/-- D_join in ns, rounded up. -/
def State.joinNs (s : State) : Nat := 30000 + (s.memSize s.runBank * 390625 + 9999999) / 10000000

/-- The state of a bank in the copy: LOADED or ACTIVE holds for a bank in which the standby has a program of its own. Log entry 39 (DEDUCED). -/
def State.copyBank (s : State) (b : Fin 2) (st : Nat) : State := if 2 ≤ s.bankState b && 2 ≤ st then s.wr (bankFld b) st else s

/-- A standby loads the copy of the active's state. -/
def State.loadCopy (s : State) (x : JoinCopy) : State :=
  let s1 := s.putClean cadMemBase x.mem
  let s2 := x.tasks.zipIdx.foldl (fun s (e : (Nat × Nat × Nat) × Nat) =>
    let n := Fin.ofNat 8 e.2
    (s.wr (F.CAD_TASKn_STAT_STATE n) e.1.1).setTask n { start := e.1.2.1, prev := e.1.2.2, deltaZero := false }) s1
  let s3 := { s2 with
    cad := { s2.cad with
      ctx := Vector.replicate 16 {}, hold := x.hold, poisoned := x.poisoned,
      forces := x.forces.foldl (fun l (e : Nat × Force) => Sparse.put l none e.1 (some e.2)) [], applied := x.forces.map Prod.snd, forceChg := [] },
    lpe := { s2.lpe with state := x.guard.foldl (fun l (e : Nat × GuardState) => Sparse.put l none e.1 (some e.2)) [] },
    tdm := { s2.tdm with loaded := true, views := x.halves } }
  x.loops.foldl (fun s (e : Nat × Nat × LpeSlot) =>
    let n := Fin.ofNat 64 e.1
    (s.wr (F.LPE_SLOTn_STAT_STATE n) e.2.1).setLslot n e.2.2) (x.banks.zipIdx.foldl (fun (s : State) e => s.copyBank (Fin.ofNat 2 e.2) e.1) s3)

/-- What an active copies at a cut (R378). -/
def State.joinCopy (s : State) : JoinCopy where
  mem := s.bytes cadMemBase (s.memSize s.runBank)
  tasks := allTasks.map fun n => (s.taskState n, (s.task n).start, (s.task n).prev)
  hold := s.cad.hold
  poisoned := s.cad.poisoned
  forces := s.cad.forces.filterMap fun x => x.2.map fun f => (x.1, f)
  loops := allSlots.map fun n => (n.val, s.lslotState n, s.lslot n)
  guard := s.lpe.state.filterMap fun x => x.2.map fun g => (x.1, g)
  halves := s.slv.tpls.map fun x => (x.1, tplWord x.2, x.2.cur, s.tplResult x.1 x.2)
  banks := [s.bankState 0, s.bankState 1]

/-- The active's copy in its TDM buffer: the manual gives what it holds and not how it is laid out; it stays below the health reports. The
bytes are free values. Log entry 39 (DEDUCED). -/
def State.putCopy (s : State) : State × Bool :=
  let n := min 0xFF0000 (s.memSize s.runBank + Config.joinRest)
  let bs := (upto n).map fun i => BitVec.ofNat 8 (Config.freeNat (s.draws + i))
  { s with draws := s.draws + n }.dmaWrite 6 s.tdmBuf bs

/-- JOIN_CUT (R378): the active finds a cut, copies its state into its TDM buffer, marks the cut in the stream and sends the copy; a
translation fault on the buffer records code 0x80 and the join waits for another (R389). On the standby that joins, the cut is marked (none),
and the copy it is sent after the cut is loaded. Log entry 39 (DEDUCED). -/
def execJoinCut (copy : Option JoinCopy) (s : State) : Out :=
  .next (s.tdmEvent fun s =>
    if s.tdmState = 1 then
      if s.allBetween && s.noneDue s.joinNs then
        match s.putCopy with
        | (s1, true) => (s1.sendTdm (.entry .cut)).sendTdm (.copy s.joinCopy)
        | (s1, false) => s1.err .tdm 0x80 0
      else s
    else if s.tdmState ≠ 2 || s.tdm.loaded then s
    else match copy with
      | some x => if s.tdm.cutSeen then s.loadCopy x else s
      | none => { s with tdm := { s.tdm with cutSeen := true, replay := [] } })

/-- A lag in ns is within its limit, half the ring period (R376). -/
def State.lagOk (s : State) (lag : Nat) : Bool := decide (2 * lag ≤ 1000 * s.ringPeriod)

/-- JOIN_CAUGHT_UP (R378): STEP, once the copy is loaded, the queue is replayed and the lag of the last replayed period is within its limit. -/
def execJoinCaughtUp (s : State) : Out :=
  .next (s.tdmEvent fun s =>
    if s.tdmState = 2 && s.tdm.loaded && s.tdm.replay.isEmpty && s.tdm.lagNs.any s.lagOk then (s.wr F.TDM_STATE_STATE 3).raise .tdm 3 else s)

/-- JOIN_TIMEOUT (R377): with `overflow`, the replay queue has filled its buffer; else the join is not in STEP within TDM_JOIN_TMO. -/
def execJoinTimeout (overflow : Bool) (s : State) : Out :=
  .next (s.tdmEvent fun s =>
    let due := decide (s.tdm.joinAt + 1000000 * max 1 (s.rd F.TDM_JOIN_TMO_MS) ≤ s.nowNs)
    if s.tdmState ≠ 2 || !(if overflow then s.replayFull else due) then s
    else (s.wr F.TDM_STATE_STATE 4).joinRefuse (if overflow then 0x17 else 0x15))

/-! ## Entries of the stream (R372, R373) -/

/-- INSTANT (R372, R373): a new period; differing CFGSUMs make the standby leave step. `ring` is the instant in the active's TB2 (ns),
`ofs` the offset of TDM_OFS. -/
def State.applyInstant (s : State) (pass : BitVec 48) (ring : Nat) (cadSum lpeSum : Word) (ofs : Int) : State :=
  let s1 := (s.regPut R.TDM_OFS_LO (BitVec.ofInt 32 ofs)).nextPeriod
  let s2 := { s1 with tdm := { s1.tdm with
    pass := pass.toNat, instantAt := ((ring : Int) + ofs).toNat, ring := ring, ofs := ofs, replayed := false } }
  if s2.regGet (R.BLK_CFGSUM .cad) ≠ cadSum || s2.regGet (R.BLK_CFGSUM .lpe) ≠ lpeSum then s2.leaveStep 4 else s2

def execInstant (pass : BitVec 48) (ring : Nat) (cadSum lpeSum : Word) (ofs : Int) (s : State) : Out :=
  .next (s.entry (.instant pass ring cadSum lpeSum ofs) fun s => s.applyInstant pass ring cadSum lpeSum ofs)

/-- DELIV (R372). -/
def execDeliv (slot : BitVec 16) (value status : Word) (s : State) : Out :=
  .next (s.entry (.deliv slot value status) fun s => s.putLive slot.toNat value status)

/-- START_ENTRY (R372): the active's cycle start, at its TB2 time; with LOCK, one at the period's ring instant is a locked start (R117). -/
def State.applyStart (s : State) (n : Fin 8) (time : Nat) : State :=
  if s.taskState n ≠ 1 || s.activeBank.isNone then s
  else s.startCycle n time (n == 0 && s.bit (F.CAD_TASKn_CFG_LOCK 0) && time == s.tdm.ring)

def execStartEntry (n : Fin 8) (time : Nat) (s : State) : Out := .next (s.entry (.start n time) fun s => s.applyStart n time)

/-- LSAMPLE (R202, R372): PV inputs of the slot's loops, then its feedback. -/
def State.applySample (s : State) (n : Fin 64) (vals : List (Word × Word)) : State :=
  let s1 := s.slotCmdNow n
  if s1.lslotState n ≠ 1 then s1
  else
    let k := vals.length - 1
    let fb := vals.getD k (0, 5)
    s1.sampleWith n ((vals.take k).map fun v => (v.1.toInt, qualOf v.2)) fb.1.toInt (qualOf fb.2)

def execLsample (n : Fin 64) (vals : List (Word × Word)) (s : State) : Out := .next (s.entry (.lsample n vals) fun s => s.applySample n vals)

/-- TDM_LAG at the end of a period's guard pass; no frame of the period is missing any more (R374, R376). -/
def State.takeLag (s : State) : State :=
  if s.tdm.replayed then s
  else
    let ns := s.nowNs - s.tdm.instantAt
    let lag := min 0xFFFF (ns / 1000)
    let s1 := (s.wr F.TDM_LAG_LAG lag).wr F.TDM_LAG_MAX (max lag (s.rd F.TDM_LAG_MAX))
    { s1 with tdm := { s1.tdm with replayed := true, lagNs := some ns, missing := s1.tdm.missing.filter fun x => decide (s1.tdm.pass < x.2) } }

/-- GPASS (R215, R372, R375, R378): a guard pass at the active's time, its digest kept and returned; a switch needs the pending table to be the
active's. -/
def State.applyPass (s : State) (time : Nat) (switch : Bool) (hash : BitVec 256) : State :=
  let next := if s.rd F.LPE_GRD_STAT_BANK = 0 then s.lpe.bank1 else s.lpe.bank0
  if switch && (!s.bit F.LPE_GRD_STAT_PEND || next.hash != hash.toNat) then s.leaveStep 7
  else ((s.guardPassAt time switch).takeLag).recordDigest s.tdm.pass

def execGpass (time : Nat) (switch : Bool) (hash : BitVec 256) (s : State) : Out :=
  .next (s.entry (.gpass time switch hash) fun s => s.applyPass time switch hash)

/-- FORCE_ENTRY (R137, R372): an entry's new state, 0 FREE, 1 ACTIVE or 2 ORPHAN; it takes effect at the next start. -/
def State.applyForce (s : State) (sig : BitVec 23) (value : Word) (qual : BitVec 3) (st : Fin 3) : State :=
  match (s.forceIdx sig.toNat).orElse fun _ => s.freeForce with
  | none => s
  | some i => s.putForce i sig.toNat (if st = 0 then none else some ⟨sig.toNat, value, qual.toNat, st == 2⟩)

def execForceEntry (sig : BitVec 23) (value : Word) (qual : BitVec 3) (st : Fin 3) (s : State) : Out :=
  .next (s.entry (.force sig value qual st) fun s => s.applyForce sig value qual st)

/-- SOLVER_ENTRY (R32, R269, R372). -/
def State.applySolver (s : State) (t : BitVec 8) (status : Word) (half : Bool) (data : List Byte) : State :=
  { s with tdm := { s.tdm with views := (t.toNat, status, half, data) :: s.tdm.views.filter fun x => x.1 != t.toNat } }

def execSolverEntry (t : BitVec 8) (status : Word) (half : Bool) (data : List Byte) (s : State) : Out :=
  .next (s.entry (.solver t status half data) fun s => s.applySolver t status half data)

/-- A recorded write of CAD_TASK_CMD. -/
def State.taskCmdHere (s : State) (v : Nat) : State :=
  let n := Fin.ofNat 8 (nbits v 0 3)
  let op := nbits v 4 3
  if op = 1 then s.doStart n else if op = 2 then s.doStop n else if op = 3 then s.doRestart n else if op = 4 then s.doRestartCold n
  else if op = 5 then s.wr (F.CAD_TASKn_STAT_OVR n) 0 else s

/-- CMD_ENTRY (R372): a recorded write of CAD_INST_CMD, CAD_TASK_CMD, CAD_START, LPE_SLOT_CMD or LPE_GRD_CFG.SAFE_ALL. -/
def State.applyCmd (s : State) (reg : BitVec 40) (v : Word) : State :=
  let a := reg.toNat
  let w := v.toNat
  if a = R.CAD_INST_CMD then { s with cad := { s.cad with instCmds := s.cad.instCmds ++ [(nbits w 0 16, nbits w 16 3)] } }
  else if a = R.CAD_TASK_CMD then s.taskCmdHere w
  else if a = R.CAD_START then
    (if w.testBit 0 then s.warmStartCmd (BitVec.ofNat 8 (nbits w 8 8)) else s.coldStartCmd (BitVec.ofNat 8 (nbits w 8 8)))
  else if a = R.LPE_SLOT_CMD then s.slotCommandHere (Fin.ofNat 64 (nbits w 0 6)) (nbits w 8 2)
  else if a = R.LPE_GRD_CFG then s.wrB F.LPE_GRD_CFG_SAFE_ALL (w.testBit 31)
  else s

def execCmdEntry (reg : BitVec 40) (v : Word) (s : State) : Out := .next (s.entry (.cmd reg v) fun s => s.applyCmd reg v)

/-- CHANGE_ENTRY (R150, R378): the standby migrates in the same window, if its other bank holds the same image LOADED. -/
def State.applyChange (s : State) (hash : BitVec 256) : State :=
  match s.activeBank with
  | none => s.leaveStep 7
  | some a =>
    let b := 1 - a
    if s.bankState b ≠ 2 || s.bankHash b ≠ hash.toNat || (s.pmapOf b (s.bankHash a)).isNone then s.leaveStep 7
    else s.commitStage.beginMigration

def execChangeEntry (hash : BitVec 256) (s : State) : Out := .next (s.entry (.change hash) fun s => s.applyChange hash)

/-- An entry of the replay queue takes effect (R378). -/
def State.applyEntry (s : State) : TdmIn → State
  | .instant pass ring cs ls ofs => s.applyInstant pass ring cs ls ofs
  | .deliv slot v w => s.putLive slot.toNat v w
  | .start n time => s.applyStart n time
  | .lsample n vals => s.applySample n vals
  | .gpass time sw h => s.applyPass time sw h
  | .force sig v q st => s.applyForce sig v q st
  | .solver t w half data => s.applySolver t w half data
  | .cmd reg v => s.applyCmd reg v
  | .change h => s.applyChange h

/-- The entry's turn in the replay has come: a start waits for its task's cycle to end, a guard pass for T0's. -/
def State.replayTurn (s : State) : TdmIn → Bool
  | .start n _ => s.taskState n != 2
  | .gpass _ _ _ => s.taskState 0 != 2
  | _ => true

/-- The replay of a join (R378): with the copy loaded, the first waiting entry is applied in its turn. Log entry 39 (DEDUCED). -/
def State.replayNext (s : State) : State :=
  s.tdmEvent fun s =>
    if s.tdmState ≠ 2 || !s.tdm.loaded then s
    else match s.tdm.replay with
      | [] => s
      | e :: rest => if s.replayTurn e then { s with tdm := { s.tdm with replay := rest } }.applyEntry e else s

/-- The condition of R380 for a move of the grant to this member, as it sees it: its partner's code is DEAD, DISPUTE or FAULT, or it
disputes itself. Log entry 39 (DEDUCED). -/
def State.noteCond (s : State) : State :=
  let c := s.rd F.TDM_STATE_PCODE
  let met := c == 0 || c == 4 || c == 5 || s.tdm.dispute
  { s with tdm := { s.tdm with condAt := if met then some (s.tdm.condAt.getD s.nowNs) else none } }

/-- DIGEST (R375): the partner's digest of a period against this member's own of that period, if it has one. Log entry 39 (DEDUCED). -/
def execDigest (pass : BitVec 48) (d : BitVec 256) (s : State) : Out :=
  .next (s.tdmEvent fun s =>
    match s.tdm.digests.find? fun x => x.1 == pass.toNat with
    | none => s
    | some o =>
      if o.2 = d.toNat then s.incSat F.TDM_DIG_CNT_MATCH
      else
        let s1 := ((s.incSat F.TDM_DIG_CNT_DISPUTE).raise .tdm 4).event .tdm 4 4 (pass.toNat % 2 ^ 32) (pass.toNat / 2 ^ 32) 0 0
        { s1 with tdm := { s1.tdm with dispute := true } }.noteCond)

/-- TDM_FRAME_RESEND (R374): a standby asks once for a missing or damaged frame of its period, the next one once the present one is
replayed; an active sends it again from what it keeps of the present period and the last two. Log entry 39 (DEDUCED). -/
def execTdmFrameResend (seq : Word) (s : State) : Out :=
  .next (s.tdmEvent fun s =>
    if s.tdmState = 1 then
      match (s.tdm.stream ++ s.tdm.hist.flatten).find? fun f => f.seq == seq.toNat with
      | some f => { s with tdm := { s.tdm with stream := s.tdm.stream ++ [f] } }
      | none => s
    else if s.following && !s.tdm.missing.any fun x => x.1 == seq.toNat then
      { s with tdm := { s.tdm with missing := (seq.toNat, s.tdm.pass + b2n s.tdm.replayed) :: s.tdm.missing } }.sendTdm (.resend seq.toNat)
    else s)

/-- The lag limit of a period, by its pass number, has passed (R374, R376). -/
def State.limitPast (s : State) (pass : Nat) : Bool :=
  decide (2 * s.tdm.instantAt + 1000 * s.ringPeriod * (2 * (pass - s.tdm.pass) + 1) < 2 * s.nowNs)

/-- STEP_LAG (R374, R376): a frame is missing past its period's lag limit; or the period is not replayed within it, or was not. -/
def execStepLag (s : State) : Out :=
  .next (s.tdmEvent fun s =>
    if s.tdmState ≠ 3 then s
    else if s.tdm.missing.any fun x => s.limitPast x.2 then s.leaveStep 3
    else if !s.tdm.replayed && s.limitPast s.tdm.pass || s.tdm.lagNs.any fun l => !s.lagOk l then s.leaveStep 2
    else s)

/-- Lane T has been down for `ns`. -/
def State.laneTDown (s : State) (ns : Nat) : Bool :=
  match s.tdm.linkDownAt with
  | some t => !s.bit F.TDM_STATE_LINK_T && decide (t + ns ≤ s.nowNs)
  | none => false

/-- LANE_T_DOWN (R376): 100 µs. -/
def execLaneTDown (s : State) : Out := .next (s.tdmEvent fun s => if s.laneTDown 100000 then s.leaveStep 3 else s)

/-! ## Arbitration (R369, R370, R380 to R383) -/

/-- The code of a high time in µs, within ±2 µs; PCODE's coding for a member code. -/
def memberCode (us : Nat) : Option Nat :=
  if 2 ≤ us && us ≤ 6 then some 1 else if 10 ≤ us && us ≤ 14 then some 2 else if 18 ≤ us && us ≤ 22 then some 3
  else if 26 ≤ us && us ≤ 30 then some 4 else if 34 ≤ us && us ≤ 38 then some 5 else none
def grantCode (us : Nat) : Option Nat :=
  if 6 ≤ us && us ≤ 10 then some 1 else if 14 ≤ us && us ≤ 18 then some 0 else if 22 ≤ us && us ≤ 26 then some 2 else none

/-- The high time in µs of each 40 µs period on ARB_OUT (R369, R370, R380): the grant code of a witness that arbitrates, or the code of a
member; a standby sends STEP and DISPUTE only while its latest self-test passed. Codes stop at quiesce and with the domain off (R464, R469). -/
def State.arbOut (s : State) : Option Nat :=
  if s.stilled .tdm || s.domOff.getLsbD Domain.net.idx then none
  else if s.role == 2 && s.bit F.TDM_WIT_CFG_EN && s.en .tdm then some (([16, 8, 24] : List Nat).getD (s.rd F.TDM_WIT_STAT_GRANT) 16)
  else if !s.tdmRuns then none
  else
    let st := s.tdmState
    let well := s.tdm.fails == 0
    some (if st = 5 then 36 else if s.tdm.dispute && (st == 1 || (st == 3 && well)) then 28 else if st = 1 then 4
      else if st = 3 && well then 12 else 20)

/-- A member takes a new grant: GRANT_CHG for a change (R370, R389). -/
def State.setGrant (s : State) (g : Nat) : State := if s.grant = g then s else (s.wr F.TDM_STATE_GRANT g).raise .tdm 5

/-- This module arbitrates (R22, R380). -/
def State.arbitrates (s : State) : Bool := s.role == 2 && s.bit F.TDM_WIT_CFG_EN && s.en .tdm

/-- An edge on ARB_IN_A (0) or ARB_IN_B (1). -/
def State.markEdge (s : State) (line : Fin 2) : State := { s with tdm := { s.tdm with edges := s.tdm.edges.set line s.nowNs } }

/-- A member accepts its partner's code. An active member's dispute is settled in its favour when its partner has left step (R369, R380).
Log entry 39 (DEDUCED). -/
def State.setPcode (s : State) (c : Nat) : State :=
  let settled := s.tdmState == 1 && c != 2 && c != 4
  { s.wr F.TDM_STATE_PCODE c with tdm := { s.tdm with deadAt := none, dispute := s.tdm.dispute && !settled } }.noteCond

/-- ARB_CODE (R370): two periods with the same high time on ARB_IN_A (0) or ARB_IN_B (1). Log entry 39 (DEDUCED). -/
def execArbCode (line : Fin 2) (high : Nat) (s : State) : Out :=
  .next (s.whileLive .tdm fun s =>
    if s.arbitrates then
      match memberCode high with
      | some c => (s.markEdge line).wr (if line = 0 then F.TDM_WIT_STAT_CODE_A else F.TDM_WIT_STAT_CODE_B) c
      | none => s.markEdge line
    else if !s.tdmRuns then s
    else if line = 0 then
      match grantCode high with
      | some g =>
        let s1 := (s.markEdge 0).setGrant g
        { s1 with tdm := { s1.tdm with absentAt := none } }
      | none => s.markEdge 0
    else
      match memberCode high with
      | some c => (s.markEdge 1).setPcode c
      | none => s.markEdge 1)

/-- How long a line has no edge before it reads DEAD or ABSENT: 100 µs, on a witness HB_MISS within its limits (R370, R380).
Log entry 39 (DEDUCED). -/
def State.deadNs (s : State) : Nat :=
  if s.arbitrates then 1000 * max 100 (min 10000 (s.rd F.TDM_WIT_CFG_HB_MISS)) else 100000

/-- ARB_DEAD (R370): a line without an edge for its time reads DEAD or ABSENT. -/
def execArbDead (line : Fin 2) (s : State) : Out :=
  .next (s.whileLive .tdm fun s =>
    if s.nowNs < s.tdm.edges[line] + s.deadNs then s
    else if s.arbitrates then s.wr (if line = 0 then F.TDM_WIT_STAT_CODE_A else F.TDM_WIT_STAT_CODE_B) 0
    else if !s.tdmRuns then s
    else if line = 0 then
      let s1 := s.setGrant 3
      { s1 with tdm := { s1.tdm with absentAt := some (s1.tdm.absentAt.getD s1.nowNs) } }
    else
      let s1 := s.wr F.TDM_STATE_PCODE 0
      { s1 with tdm := { s1.tdm with deadAt := some (s1.tdm.deadAt.getD s1.nowNs) } }.noteCond)

/-- The witness's decision (R380): codes as PCODE, grant 0 HOLD, 1 A, 2 B. -/
def witnessDecide (g a b : Nat) : Nat :=
  let up (c : Nat) : Bool := c != 0 && c != 5
  if g = 0 then (if up a then 1 else if up b then 2 else 0)
  else
    let cg := if g = 1 then a else b
    let cs := if g = 1 then b else a
    if (!up cg || cg == 4 || cs == 4) && (cs == 2 || cs == 4) then 3 - g else g

/-- WITNESS_DECISION (R380): once per grant period. -/
def execWitnessDecision (s : State) : Out :=
  .next (s.whileLive .tdm fun s =>
    if !s.arbitrates then s
    else
      let g := s.rd F.TDM_WIT_STAT_GRANT
      let n := witnessDecide g (s.rd F.TDM_WIT_STAT_CODE_A) (s.rd F.TDM_WIT_STAT_CODE_B)
      if n = g then s else (s.wr F.TDM_WIT_STAT_GRANT n).incSat F.TDM_WIT_STAT_MOVES)

/-- GRANT_TO_PARTNER (R371, R377, R382): an active or INIT member goes to OUT; a dispute is settled in favour of the active. -/
def execGrantToPartner (s : State) : Out :=
  .next (s.tdmEvent fun s =>
    if !s.grantPartner then s
    else
      let st := s.tdmState
      let s1 := if st = 0 || st = 1 then s.roleOut
        else if st = 5 then s.raise .tdm 2
        else if st = 3 && s.tdm.dispute then s.leaveStep 6 else s
      { s1 with tdm := { s1.tdm with dispute := false } })

/-- The member masters the ring from the handoff state (R383): pass numbers and the ring grid continue the old active's; the pass in
flight is committed from the copies that came back through this member. A BLOCKED ring is not contended for (R20). The switchover is
measured to the first T0 cycle's start, and no ring instant falls before a running replay's end (`handingOver`). -/
def State.takeOver (s : State) : State :=
  let st := s.tdmState
  let s1 := ((s.wr F.TDM_STATE_STATE 1).wr F.SYS_ROLE_ACTIVE 1).drive.raiseEv .tdm 2
  let s3 := s1.incSat F.TDM_SW_COUNT
  let s4 := { s3 with tdm := { s3.tdm with
    dispute := false, stream := [], hist := [], missing := [], replay := [], swFrom := some (s3.tdm.condAt.getD s3.nowNs) } }
  if !s4.en .spk || s4.ringState == 3 then s4
  else
    let num := s4.spk.seen
    let copies := (s4.spk.kept.reverse.filter fun f => hPass f.body == num).map fun f =>
      (⟨hDir f.body, hFrame f.body, f.body, f.fcs && (!hTagged f.body || s4.tagOk f), hLooped f.body⟩ : Copy)
    let first := max (match s4.spk.high with | some h => h + 1 | none => 0) (tbSec s4.tb3 * 10000)
    let p : Pass := { num := num, instant := s4.tdm.instantAt, depart := s4.tdm.instantAt, nframe := s4.spk.frames.length,
                      sent := copies.length, copies := copies, lastRet := s4.nowNs }
    let s5 := { s4 with spk := { s4.spk with
      next := max (num + 64) first % 2 ^ 48, gridAt := if st = 3 then some s4.tdm.instantAt else none,
      pass := if st = 3 then some p else none, due := none, kept := [], first := false } }
    s5.wr F.SPK_RING_STAT_STATE 1

/-- TAKEOVER (R371, R383): a grant for this member, accepted in INIT, STEP or OUT. Log entry 39 (DEDUCED). -/
def execTakeover (s : State) : Out :=
  .next (s.tdmEvent fun s =>
    let st := s.tdmState
    if s.granted && (st == 0 || st == 3 || st == 4) then s.takeOver else s)

/-- SOLO_TIMEOUT (R381): with SOLO, member A in INIT after 1 s of ABSENT, or a standby in STEP whose partner reads DEAD with lane T
down for 1 ms. -/
def execSoloTimeout (s : State) : Out :=
  .next (s.tdmEvent fun s =>
    let absent := match s.tdm.absentAt with
      | some t => s.grant == 3 && decide (t + 1000000000 ≤ s.nowNs)
      | none => false
    let a := s.tdmState == 0 && s.rd F.TDM_CFG_MEMBER == 0 && absent
    let b := s.tdmState == 3 && s.grant == 3 && s.rd F.TDM_STATE_PCODE == 0 && s.laneTDown 1000000
    if s.bit F.TDM_CFG_SOLO && (a || b) then s.takeOver else s)

/-! ## Self-tests and health reports (R385, R386) -/

/-- GOLDEN (R385): every 60 s; the built-in vector ran and agreed, ran and differed, or did not run (it missed its deadline); it does
not run on a solver that is off. Log entry 39 (DEDUCED). -/
def execGolden (result : Option Bool) (s0 : State) : Out :=
  .next (s0.tdmEvent fun s0 =>
    if s0.nowNs < s0.tdm.goldenAt + 60000000000 then s0
    else
    let s := { s0 with tdm := { s0.tdm with goldenAt := s0.nowNs } }
    match if s.runs .slv && !s.unreachable .slv then result else none with
    | none => s
    | some good =>
      let s1 := { s with tdm := { s.tdm with
        goldenRun := s.tdm.goldenRun + 1, goldenFail := s.tdm.goldenFail + b2n (!good),
        fails := if good then setMark s.tdm.fails 1 false else s.tdm.fails } }
      if good then s1 else s1.selfTestFail 1)

/-- LINK_TEST (R385): code violations and FCS errors on lane T in the last second. -/
def execLinkTest (errs : BitVec 32) (s : State) : Out :=
  .next (s.tdmEvent fun s =>
    let s1 := { s with tdm := { s.tdm with linkErr := errs.toNat, fails := if errs.toNat ≤ 2 then setMark s.tdm.fails 3 false else s.tdm.fails } }
    if errs.toNat ≤ 2 then s1 else s1.selfTestFail 3)

/-- The health report (R386). -/
def State.healthReport (s : State) : List Byte :=
  let fails := s.tdm.fails.toNat + 16 * b2n (!s.bit F.PWR_FEED_STAT_A_OK) + 32 * b2n (!s.bit F.PWR_FEED_STAT_B_OK)
  let body := leBytes 4 s.tdm.reports ++ leBytes 1 s.tdmState ++ leBytes 1 fails ++ leBytes 2 (s.coverOver 24) ++
    leBytes 8 (recTime s.tb3) ++ leBytes 4 s.tdm.eccC ++ leBytes 4 s.tdm.eccU ++
    leBytes 4 s.tdm.goldenRun ++ leBytes 4 s.tdm.goldenFail ++ leBytes 4 s.tdm.laneRun ++ leBytes 4 s.tdm.laneFail ++
    leBytes 4 s.tdm.linkErr ++ leBytes 2 (s.rd F.PWR_FEEDA_MV) ++ leBytes 2 (s.rd F.PWR_FEEDB_MV) ++ leBytes 2 (s.rd F.PWR_FEEDA_MA) ++
    leBytes 2 (s.rd F.PWR_FEEDB_MA) ++ leBytes 8 0
  body ++ leBytes 4 (crc32 body).toNat

/-- Store a report in the buffer; a fault records code 0x80 (R389). -/
def State.putReport (s : State) (o : Nat) (bs : List Byte) : State :=
  match s.dmaWrite 6 (s.tdmBuf + 0xFF0000 + o) bs with
  | (s1, true) => s1
  | (s1, false) => s1.err .tdm 0x80 0

/-- HEALTH_REPORT (R386): once in every whole TB2 second, into the buffer and to the partner. -/
def execHealthReport (s : State) : Out :=
  .next (s.tdmEvent fun s =>
    if s.nowSec = s.tdm.reportSec then s
    else
      let s1 := (s.putReport 0 s.healthReport).sendTdm (.report s.healthReport)
      { s1 with tdm := { s1.tdm with reports := s1.tdm.reports + 1, eccC := 0, eccU := 0, reportSec := s1.nowSec } })

/-- HEALTH_REPORT_RX (R386): the partner's report, at + 0x40. -/
def execHealthReportRx (report : Vector Byte 64) (s : State) : Out := .next (s.tdmEvent fun s => s.putReport 0x40 report.toList)

end Sys2Proof.Machine
end

