-- ==== Sys2Proof/Machine/Pwr.lean ====
section
/-! DEFINITION. Power states, wake and freewheel accounting (R460 to R479), and the wake matcher of CAN0 (R366). -/

namespace Sys2Proof.Machine

/-! ## The power state (R460, R478, R479) -/

/-- CUR with its mirror: 0 RUN, 1 NAP, 2 STANDBY, 3 HIBERNATE, 5 ENTERING, 6 EXITING. -/
def State.cur (s : State) : Nat := s.rd F.PWR_STATE_CUR
def State.setCur (s : State) (v : Nat) : State := (s.wr F.PWR_STATE_CUR v).wr ⟨R.BLK_STAT .pwr, 8, 3⟩ v

/-- Residency up to now: NAP counts in NAP, entries, exits and RUN in RUN (R478). -/
def State.account (s : State) : State :=
  let k : Fin 4 := if s.cur = 1 then 1 else 0
  { s with pwr := { s.pwr with res := s.pwr.res.set k (s.pwr.res[k] + (s.tb2 - s.pwr.resAt)), resAt := s.tb2 } }

/-- The residency counter of a state in TB2 µs. -/
def State.residency (s : State) (k : Fin 4) : Nat := s.account.pwr.res[k] / (1000 * unitsPerNs) % 2 ^ 64

/-- The latch and enable bits of the wake sources. -/
def State.wakeLatch (s : State) : Nat := s.rd F.PWR_WAKE_LATCH_LATCH
def State.wakeEn (s : State) (n : Nat) : Bool := (s.rd F.PWR_WAKE_EN_EN).testBit n

/-- A source works in a state: PATTERN_A not in HIBERNATE (R467). -/
def wakeWorks (st n : Nat) : Bool := !(st == 3 && n == 4)

/-- LAST, and ENTRY_END at the end of an entry or a refusal (R461, R465). -/
def State.entryEnd (s : State) (last : Nat) : State := (s.wr F.PWR_STATE_LAST last).raise .pwr 3

/-! ## What a loss of power and a device reset leave (R470, R471, R519) -/

/-- The registers that AON holds: PWR and RTC, the always-on area of the panel, CAN0's wake registers, what EVR keeps, SYS_PF_LAST. -/
def aonReg (a : Nat) : Bool :=
  match blkAt a with
  | some .pwr => true
  | some .rtc => true
  | some .pnl => decide (R.PNL_AON_CFG ≤ a) && decide (a < R.PNL_AON_CMD)
  | some (.can _) => decide (R.CAN_WK_CFG 0 ≤ a) && decide (a < R.CAN_WK_CFG 0 + 0x20)
  | some .evr => evrKept a
  | some .sys => a == R.SYS_PF_LAST
  | _ => false

/-- The panel's configuration sum covers PNL_AON_CFG, which AON keeps (R51, R519). -/
def State.sumPanel (s : State) : State :=
  if s.regGet R.PNL_AON_CFG = regReset R.PNL_AON_CFG then s else s.regPut (R.BLK_CFGSUM .pnl) (cfgSumOf s.regGet .pnl)

/-- Every block outside AON at its reset values; what AON, OTP and the NAND hold stays (R519), and SYS_STAT shows the live levels of
HOLD_READY and PFW (R535). -/
def State.bare (s : State) : State :=
  let s1 : State := { State.reset with
    regs := s.regs.filter fun x => aonReg x.1
    shadows := s.shadows.filter fun x => aonReg x.1.addr
    mem := s.mem, ue := s.ue, resp := s.resp, draws := s.draws, tb2 := s.tb2, pending := s.pending
    evq := s.evq.filter fun e => e.aon.isSome
    evr := { buf := s.evr.buf, seq := s.evr.seq, undropped := s.evr.undropped, wasFull := s.evr.wasFull, want := s.evr.want }
    spk := { high := s.spk.high }
    kst := { stepBits := s.kst.stepBits, banks := s.kst.banks, bootKey := s.kst.bootKey, rollback := s.kst.rollback }
    nand := s.tearTotals.nand, spareLow := s.spareLow, coef := s.coef, pfw := s.pfw, pwr := s.pwr, rtc := s.rtc, sys := s.sys }
  ((((s1.wrB (statFld .evr 10) (logCount s.nand.log == logRecords)).wrB (statFld .sys 10) (s.bit (statFld .sys 10))).wrB (statFld .sys 11) s.pfw).wr F.EVR_CLR_STAT_CLEARS (s.rd F.EVR_CLR_STAT_CLEARS)).sumPanel

/-- A device reset (R518, R519): instance and tile memory are emptied; TB2 is carried to the release. -/
def State.deviceReset (s : State) (cause : Nat) : State :=
  let s1 := ((s.acceptThose fun e => e.aon.isSome).account.bare.loseMem fun a => inCadMem a || inTiles a).setCur 0
  { s1 with pwr := { s1.pwr with phase := .none, off := false, resume := false, stage := none, rtcBad := s1.bit (statFld .rtc 9) },
            sys := { boot := true, carry := some s1.tb2 } }.wr F.SYS_RST_CAUSE_CAUSE (2 ^ cause)

/-- Every domain but AON is off and isolated (R35). -/
def domMost : BitVec 8 := 0x7F

/-- Power of every domain but AON goes; the DRAM keeps its content in STANDBY (R35, R463), which is no device reset
for the running first stage and the unlocked debug (R413, R427). -/
def State.losePower (s : State) (keepDram : Bool) : State :=
  let s1 := s.acceptAll.bare.loseMem fun a => inSram a || inCadMem a || inTiles a || (inDram a && !keepDram)
  let s2 := if keepDram then { s1 with kst := { s1.kst with stage := s.kst.stage, entry := s.kst.entry, unlocked := s.kst.unlocked } } else s1
  { s2 with domOff := domMost, domIso := domMost }

/-- Retention memory loses content: what `lost` names by number fails its check word, each structure by its own (R492, R544). 0: EVR SEQ and
drop counters, 1: the highest pass number, 2: residency, 2^12 + n: record n of the event buffer, 2^30 + page: a save record, 2^31 + a: the byte
at an address. Log entry 54 (DEDUCED). -/
def State.loseRetention (s : State) (lost : Nat → Bool) : State :=
  let s1 := s.loseMem fun a => inAon a && lost (2 ^ 31 + a)
  let ev := s1.evr.buf.mapIdx fun n (r : LogRec) => if lost (2 ^ 12 + n) then { r with bytes := List.replicate 32 0 } else r
  let cad := lost (2 ^ 30 + Blk.cad.base)
  { s1 with
    evr := if lost 0 then { s1.evr with
        buf := ev, undropped := Vector.replicate 8 0
        seq := (s1.nand.log.foldl (fun m p => p.recs.foldl (fun m r => max m (r.seq + 1)) m) 0) } else { s1.evr with buf := ev }
    spk := if lost 1 then { s1.spk with high := none } else s1.spk
    pwr := { s1.pwr with
      save := s1.pwr.save.filter fun r => !lost (2 ^ 30 + r.blk.base)
      forces := if cad then [] else s1.pwr.forces
      banks := if cad then [] else s1.pwr.banks
      pins := if lost (2 ^ 30 + Blk.xlt.base) then [] else s1.pwr.pins
      meas := if lost (2 ^ 30 + Blk.kst.base) then [] else s1.pwr.meas
      res := if lost 2 then Vector.replicate 4 0 else s1.pwr.res
      resAt := if lost 2 then s1.tb2 else s1.pwr.resAt } }

/-- Retention memory is unpowered (R544): all of it is lost. -/
def State.loseAllRetention (s : State) : State := s.loseRetention fun _ => true

/-! ## NAP (R460, R462) -/

/-- Every queued and running solver job ends as an ABORT (R277), a stalled one first; one whose outcome cannot be written leaves FAULT (R276).
Log entry 33 (DEDUCED). -/
def State.abortJobs (s : State) : State :=
  let s0 := match s.slv.stall with
    | some x => s.endStalled x
    | none => s
  s0.jobs.foldl (fun (s : State) j =>
    let s1 := s.endJob j (j.out.getD 5)
    match s1.jobOf j.tpl with
    | none => s1
    | some j2 => s1.unstall.finishJob j2 6 7) s0

/-- The same where the SLV domain is on. -/
def State.endJobs (s : State) : State := if s.domOff.getLsbD Domain.slv.idx then s else s.abortJobs

/-- NAP ends: the domains that were off power up with their save sets (R462). -/
def State.leaveNap (s : State) (wake : Bool) : State :=
  let s1 := (s.account.domOn .slv).domOn .pnl
  let s2 := { s1 with pnl := { s1.pnl with napOff := false } }
  let s3 := if s2.aonEn then s2.wrB F.PNL_PWR_STAT_AON_VALID s2.aonOk else s2
  let s4 := (s3.setCur 0).wr F.PWR_STATE_WOKE_BY s3.wakeLatch
  if wake then s4.raise .pwr 2 else s4

/-- NAP begins. -/
def State.enterNap (s : State) : State :=
  if s.wakeLatch ≠ 0 then s.entryEnd 2
  else
    let s1 := (s.account.setCur 1).entryEnd 1
    let s2 := if s1.bit F.PWR_CFG_NAP_SLV_OFF then s1.abortJobs.slvOff else s1
    if !s2.bit F.PWR_CFG_NAP_PNL_OFF then s2
    else if s2.pnlState = 0 then s2.pnlOff
    else { s2 with pnl := { s2.pnl with napOff := true } }.pnlPowerOff

/-! ## Entry (R461, R463 to R466) -/

/-- Why a request is refused, or 0 (R461). Log entry 54 (DEDUCED). -/
def State.pwrRefusal (s : State) (m : Master) (tgt : Nat) : Nat :=
  let deep := tgt == 2 || tgt == 3
  if deep && (s.mastering || (s.tandem && 1 ≤ s.tdmState && s.tdmState ≤ 3)) then 1
  else if deep && !((upto 11).any fun n => s.wakeEn n && wakeWorks tgt n) then 2
  else if s.pfw then 3
  else if s.pwr.phase ≠ .none then 4
  else if 4 < tgt || tgt = s.cur || (tgt = 4 && m ≠ .mon) then 5
  else 0

/-- STANDBY or HIBERNATE is accepted: quiesce starts (R463, R464); a wake bit already set aborts the entry first (R466). -/
def State.enterDeep (s : State) (tgt : Nat) : State :=
  if s.wakeLatch ≠ 0 then s.entryEnd 2
  else
    let from_ := s.cur
    let s1 := { s.account with pwr := { s.account.pwr with phase := .quiesce, tgt := tgt, from_ := from_, at_ := s.nowNs } }.setCur 5
    let s2 := s1.endJobs
    let s3 := if s2.pnlState = 2 && s2.aonEn then s2 else s2.pnlPowerOff
    s3.evrPf

/-- OFF (R460): only the RTC and, when held, retention memory run on. -/
def State.enterOff (s : State) : State :=
  let s1 := s.endJobs.account.losePower false
  let s2 := if s1.bit F.PWR_VBAT_RET_HOLD then s1 else s1.loseAllRetention
  { s2 with pwr := { s2.pwr with off := true } }

/-- A write of PWR_SLEEP_CMD with GO = 1. Log entry 54 (DEDUCED). -/
def State.sleepCmd (s : State) (m : Master) (tgt : Nat) : State :=
  s.gate m .pwr R.PWR_SLEEP_CMD fun s =>
    let r := s.pwrRefusal m tgt
    if r ≠ 0 then ((s.wr F.PWR_STATE_REASON r).entryEnd 3).err .pwr 0x80 r
    else if tgt = 0 then s.leaveNap false
    else if tgt = 1 then s.enterNap
    else if tgt = 4 then s.enterOff
    else s.enterDeep tgt

def execRun (m : Master) (s : State) : Out := .next (s.sleepCmd m 0)
def execNap (m : Master) (s : State) : Out := .next (s.sleepCmd m 1)
def execStandby (m : Master) (s : State) : Out := .next (s.sleepCmd m 2)
def execHibernate (m : Master) (s : State) : Out := .next (s.sleepCmd m 3)
def execOff (m : Master) (s : State) : Out := .next (s.sleepCmd m 4)

/-- An entry ends without sleep: blocks that had stopped resume, the save area is discarded (R465). One from NAP returns to NAP, but to
RUN on a wake or at PFW (R460, R475). Log entry 54 (DEDUCED). -/
def State.abortEntry (s : State) (last : Nat) : State :=
  let resumed :=
    if s.pwr.phase = .saved then
      let s1 := { s with spk := { s.spk with quiet := false }, pnl := { s.pnl with seq := false },
                         pwr := { s.pwr with save := s.pwr.save.filter fun r => s.domOff.getLsbD r.blk.domain.idx } }
      let s2 := if s1.en .mtr then s1.mtrStart else s1
      if s2.en .fio then s2.fioStart else s2
    else s
  let s1 := ({ resumed with pwr := { resumed.pwr with phase := .none } }.account.setCur s.pwr.from_).entryEnd last
  if s.pwr.from_ = 1 && (last = 2 || last = 5) then s1.leaveNap (last == 2) else s1

/-- The blocks reach their stop boundaries (R464). -/
def State.quiesceBlks (s : State) : State :=
  let s1 := if s.en .mtr then s.mtrStop.writeTotals true s.tb3 else s
  let s2 := if s1.en .fio then s1.fioStop else s1
  let s3 := ([0, 1, 2, 3] : List (Fin 4)).foldl (fun (s : State) (p : Fin 4) => if s.en (.can p) then s.canStop p else s) s2
  let s4 := { s3 with spk := { s3.spk with quiet := true } }
  if s4.pnlState = 2 && s4.aonEn then { s4 with pnl := { s4.pnl with seq := true, pend := 0, run := none } }.showUpd else s4

/-- The save set of every block outside AON whose domain is on (R470 to R472). -/
def State.saveAll (s : State) : State :=
  let bs := allBlks.filter fun b => b.domain != .aon && !s.domOff.getLsbD b.domain.idx
  let s1 := bs.foldl (fun (s : State) b => s.putSave (s.saveBlk b)) s
  { s1 with pwr := { s1.pwr with
      forces := s1.cad.forces, pins := s1.xlt.pins
      meas := (upto 4).flatMap fun r => (upto 8).map fun k => (R.KST_MEASr_k r k, s1.regGet (R.KST_MEASr_k r k))
      banks := ([0, 1].filter fun b => s1.bankState b == 3).map fun b => (b, s1.bankHash b) } }

/-- QUIESCE_END (R463, R464, R470): every core waits and every block has stopped; the save set is written. -/
def execQuiesceEnd (s : State) : Out :=
  .next (
    if s.pwr.phase ≠ .quiesce || allTasks.any (fun n => s.taskState n == 2) || s.evr.flush.isSome || s.nfm.isSome || s.kst.job.isSome ||
        s.pnlState = 1 || s.pnlState = 3 || s.pnl.offPend then s
    else
      let s1 := s.endJobs.quiesceBlks.saveAll
      { s1 with pwr := { s1.pwr with phase := .saved } })

/-- IDLE_TIMEOUT (R463): IDLE_MS after acceptance a core is not in WFI. -/
def execIdleTimeout (s : State) : Out :=
  .next (if s.pwr.phase = .quiesce && s.pwr.at_ + 1000000 * max 1 (s.rd F.PWR_CFG_IDLE_MS) ≤ s.nowNs then s.abortEntry 4 else s)

/-- COMMIT_POINT (R463, R465, R476): TB2 is latched, the domains isolate in order and lose power; CORE's isolation commits the sleep. -/
def execCommitPoint (s : State) : Out :=
  .next (
    if s.pwr.phase ≠ .saved then s
    else
      let seq := s.pnl.seq
      let s1 := s.endJobs.account.losePower (s.pwr.tgt == 2)
      let s2 := { s1 with pwr := { s1.pwr with phase := .asleep, latchTb2 := s.tb2, rtcBad := s.bit (statFld .rtc 9) },
                          pnl := if seq then { seq := true, vdd := true, va := true, com := true } else {} }
      s2.setCur s.pwr.tgt)

/-! ## Wake sources (R366, R466 to R468) -/

/-- An enabled source sets its latch: it ends NAP, aborts an entry, or ends a sleep in which it works (R460, R465, R466). -/
def State.wake (s : State) (n : Nat) : State :=
  if !s.wakeEn n || s.pwr.off then s
  else
    let s1 := s.wrB ⟨R.PWR_WAKE_LATCH, n, 1⟩ true
    match s1.pwr.phase with
    | .none => if s1.cur = 1 then s1.leaveNap true else s1
    | .quiesce => s1.abortEntry 2
    | .saved => s1.abortEntry 2
    | .asleep => if wakeWorks s1.pwr.tgt n then { s1 with pwr := { s1.pwr with phase := .exiting } }.setCur 6 else s1
    | .exiting => s1

/-- The AON DI and TC matchers run from the acceptance of a request until the sleep has ended (R463). -/
def State.matching (s : State) : Bool := s.pwr.phase != .none || s.cur == 1

def execWakeLatch (n : Fin 11) (s : State) : Out := .next (s.wake n)

/-- PATTERN_A (R468): every selected byte of the frame's first 64 equals the pattern's; missing bytes compare as 0. -/
def execPatternA (f : EthFrame) (s : State) : Out :=
  .next (
    let bs := (ethBytes f).take 64
    let mask := s.rd64 R.PWR_PAT_MASK_LO R.PWR_PAT_MASK_HI
    let pat (i : Nat) : Byte := BitVec.ofNat 8 ((s.regGet (R.PWR_PATk (i / 4))).toNat / 2 ^ (8 * (i % 4)))
    if f.fcs && !(s.pwr.phase == .asleep && s.pwr.tgt == 3) && (upto 64).all (fun i => !mask.testBit i || bs.getD i 0 == pat i) then s.wake 4 else s)

/-- WAKE_DI (R467): a selected edge, with VFLD1 within its range. -/
def execWakeDi (n : Fin 24) (rise : Bool) (s : State) : Out :=
  .next (
    if s.matching && !s.uv 0 && (s.rd F.PWR_DI_WAKE_MASK).testBit n && s.bit (if rise then F.PWR_DI_WAKE_RISE else F.PWR_DI_WAKE_FALL) then s.wake 6
    else s)

/-- WAKE_TC (R467). -/
def execWakeTc (n : Fin 4) (rise : Bool) (s : State) : Out :=
  .next (
    if s.matching && (s.rd F.PWR_TC_WAKE_MASK).testBit n && s.bit (if rise then F.PWR_TC_WAKE_RISE else F.PWR_TC_WAKE_FALL) then s.wake 9 else s)

/-- WAKE_LINK (R467): lanes A to D. -/
def execWakeLink (lane : Fin 4) (s : State) : Out := .next (s.wake lane)

/-- WAKE_ARB (R467): an edge on ARB_IN_A or ARB_IN_B. -/
def execWakeArb (_line : Fin 2) (s : State) : Out := .next (s.wake 10)

/-- The wake matcher of CAN0 runs (R366). -/
def State.canMatcher (s : State) : Bool := !s.pwr.off && s.domOff.getLsbD Domain.fld.idx && s.bit (F.CAN_WK_CFG_EN 0)

/-- CAN_WAKE_START (R366): a dominant level of 5 µs starts the RC. -/
def execCanWakeStart (s : State) : Out := .next (if s.canMatcher then { s with canRc := true } else s)

/-- The selective wake frame of R366. -/
def State.canMatch (s : State) (f : CanFrame) : Bool :=
  let msk := (s.regGet (R.CAN_WK_IDMASK 0)) &&& 0x1FFFFFFF
  let data := f.data ++ List.replicate 8 0
  let bit (j k : Nat) : Bool := ((s.regGet (R.CAN_WK_DMASKj 0 j) &&& ((s.regGet (R.CAN_WK_DATAj 0 j)) ^^^ BitVec.ofNat 32 (leAt data (4 * j) 4))) >>> k) == 0
  canIde f.idw == s.bit (F.CAN_WK_CFG_IDE 0) && (msk &&& (f.idw ^^^ s.regGet (R.CAN_WK_ID 0))) == 0 &&
    (!s.bit (F.CAN_WK_CFG_DLC_MATCH 0) || f.dlc.toNat == s.rd (F.CAN_WK_CFG_DLC 0)) && bit 0 0 && bit 1 0

/-- CAN_WAKE_FRAME (R366): a classical frame decoded (none: an erroneous one); FD frames are ignored. -/
def execCanWakeFrame (f : Option CanFrame) (s : State) : Out :=
  .next (
    if !s.canMatcher || !s.canRc then s
    else
      let n := s.rd (F.CAN_WK_STAT_ERRCNT 0)
      match f with
      | none =>
        let s1 := s.wr (F.CAN_WK_STAT_ERRCNT 0) (min 32 (n + 1))
        if n + 1 = 32 then ((s1.wrB (F.CAN_WK_STAT_BY_ERR 0) true).wrB (F.CAN_WK_STAT_WOKE 0) true).wake 5 else s1
      | some f =>
        if canFdf f.idw then s
        else
          let s1 := s.wr (F.CAN_WK_STAT_ERRCNT 0) (n - 1)
          if s1.canMatch f then ((s1.wrB (F.CAN_WK_STAT_BY_ERR 0) false).wrB (F.CAN_WK_STAT_WOKE 0) true).wake 5 else s1)

/-- CAN_WAKE_IDLE (R366): the RC stops after 1 ms of recessive bus. -/
def execCanWakeIdle (s : State) : Out := .next { s with canRc := false }

/-! ## Exit (R471 to R478) -/

/-- Units of one tick of XTAL_RTC: 10⁹ / 2¹⁵ ns. -/
def unitsPerTick : Nat := nsPerSec * 5 * 2 ^ 29

/-- TB2 goes on from its latched value plus the ticks since, or from the value alone where the RTC was invalid (R476, R477).
Log entry 54 (DEDUCED). -/
def State.freewheel (s : State) (latch ticks : Nat) (k : Option (Fin 4)) : State :=
  let n := if s.pwr.rtcBad then 0 else ticks
  let s1 := { s with tb2 := tbWrap (latch + n * unitsPerTick) }
  let res := match k with | some k => s1.pwr.res.set k (s1.pwr.res[k] + n * unitsPerTick) | none => s1.pwr.res
  let s2 := { s1 with pwr := { s1.pwr with res := res, resAt := s1.tb2, rtcBad := false, fw := n } }
  let s3 := (s2.wr F.PWR_FW_TICKS_LO_TICKS (n % 2 ^ 32)).wrB F.PWR_STATE_TIME_GAP s.pwr.rtcBad
  if s.pwr.rtcBad then
    let s4 := (s3.incSat F.PWR_GAP_CNT_COUNT).raise .pwr 4
    s4.event .pwr 4 6 (s4.regGet (R.BLK_IRQ_RAW .pwr)).toNat 0 0 0
  else s3

/-- A save record failed its CRC: the block stays at its reset values (R472). -/
def State.badRecord (s : State) (b : Blk) : State :=
  let s1 := s.err .pwr 0x81 b.code
  s1.event .pwr 0x81 6 (s1.regGet (R.BLK_ERRINFO .pwr)).toNat 0 0 0

/-- The save set returns to every block whose record holds (R470 to R472); `en`: with EN. -/
def State.restoreAll (s : State) (en : Bool) (bad : List Blk) : State :=
  let bs := allBlks.filter fun b => b.domain != .aon
  let failed (b : Blk) : Bool := bad.contains b || !(s.pwr.save.any fun r => r.blk == b)
  let s1 := bs.foldl (fun (s : State) b =>
    if failed b then s.badRecord b
    else (s.pwr.save.filter fun r => r.blk == b).foldl (fun (s : State) r => s.restoreRec en r) s) s
  let s2 := if failed .cad then s1 else { s1 with cad := { s1.cad with forces := s1.pwr.forces } }
  if failed .xlt then s2 else { s2 with xlt := { s2.xlt with pins := s2.pwr.pins } }

/-- The blocks that run after STANDBY start again (R46, R471, R473). -/
def State.resumeBlks (s : State) (entropy : Bool) : State :=
  let s0 := s.kstStart entropy
  let s1 := ({ s0 with tsu := { s0.tsu with srcRtc := s0.bit F.TSU_CFG_TB3_SRC } }.followTb0.evalTb3).mtrRestore (fSTOPPED ||| fSHORT) []
  let s2 := s1.pwr.banks.foldl (fun (s : State) x =>
    let s := s.wr (bankFld x.1) 2
    if x.1 = 0 then { s with cad := { s.cad with hash0 := x.2 } } else { s with cad := { s.cad with hash1 := x.2 } }) s1
  let s4 := if s2.en .mtr then s2.mtrStart else s2
  let s5 := if s4.en .fio then s4.fioStart else s4
  let s6 := ([0, 1, 2, 3] : List (Fin 4)).foldl (fun (s : State) (p : Fin 4) =>
    if s.en (.can p) then let (s1, ok) := s.canEnable p; if ok then s1 else s1.wr (F.BLK_CTRL_EN (.can p)) 0 else s) s5
  let s7 := if s6.en .spk then s6.spkStart else s6
  let s8 := if s7.en .evr then s7.evrEnable else s7
  let s9 := if s8.en .pfm then s8.pfmStart true else s8
  if s9.pnl.seq then
    let s10 := { s9 with pnl := { s9.pnl with seq := false, comAt := s9.nowNs } }.setPnlState 2
    (s10.wrB F.PNL_PWR_STAT_AON_VALID s10.aonOk).loadUnif false
  else if s9.aonEn then s9.wrB F.PNL_PWR_STAT_AON_VALID s9.aonOk else s9

/-- EXIT_RELEASE (R473, R474, R476, R477): `ticks` of XTAL_RTC lie between the two edges; `entropy`: KST's start-up tests pass; `bad`:
save records that fail their CRC. -/
def execExitRelease (ticks : BitVec 48) (entropy : Bool) (bad : List Blk) (s : State) : Out :=
  .next (
    if s.pwr.phase ≠ .exiting then s
    else
      let tgt := s.pwr.tgt
      let s0 := { s with domOff := 0, domIso := 0, tb0 := 0, tb1 := 0, tb3 := 0, pwr := { s.pwr with phase := .none } }
      let s1 := s0.freewheel s.pwr.latchTb2 ticks.toNat (some (Fin.ofNat 4 tgt))
      let s2 := (((s1.wr F.PWR_STATE_WOKE_BY s1.wakeLatch).setCur 0).entryEnd 1).raise .pwr 2
      if tgt = 2 then
        let s3 := (s2.restoreAll true bad).resumeBlks entropy
        { s3 with pwr := { s3.pwr with resume := true } }
      else
        let s3 := s2.restoreAll false bad
        let s3 := { s3 with tsu := { s3.tsu with srcRtc := s3.bit F.TSU_CFG_TB3_SRC } }
        { s3 with sys := { boot := true }, pwr := { s3.pwr with stage := none } }.wr F.SYS_RST_CAUSE_CAUSE 2)

/-- RESUME_CHECK (R473): the payload of the first stage, and (`others`) those of the stages it had verified, are hashed again; a
mismatch boots afresh with cause RESUME_BOOT. Log entry 54 (DEDUCED). -/
def execResumeCheck (others : Bool) (s : State) : Out :=
  .next (
    if !s.pwr.resume then s
    else
      let ok := match s.pwr.stage with
        | none => true
        | some (a, n, h) => (sha3 (s.bytes a n)).toNat == h
      if ok && others then
        let s1 := s.pwr.meas.foldl (fun (s : State) x => s.regPut x.1 x.2) s
        { s1 with pwr := { s1.pwr with resume := false } }
      else (s.deviceReset 2).event .sys 1 6 0 0 0 0)

end Sys2Proof.Machine
end

