-- ==== Sys2Proof/Machine/Feed.lean ====
section
/-! DEFINITION. The duplicated feeds and the power-fail timeline (R387, R388, R475, R528 to R534). -/

namespace Sys2Proof.Machine

/-! ## Feeds (R387) -/

/-- The fields of a feed: voltage, current, OK, OVERCURRENT, losses. -/
def feedMv (f : Fin 2) : Fld := if f = 0 then F.PWR_FEEDA_MV else F.PWR_FEEDB_MV
def feedMa (f : Fin 2) : Fld := if f = 0 then F.PWR_FEEDA_MA else F.PWR_FEEDB_MA
def feedOk (f : Fin 2) : Fld := if f = 0 then F.PWR_FEED_STAT_A_OK else F.PWR_FEED_STAT_B_OK
def feedOc (f : Fin 2) : Fld := if f = 0 then F.PWR_FEED_STAT_A_OC else F.PWR_FEED_STAT_B_OC
def feedLoss (f : Fin 2) : Fld := if f = 0 then F.PWR_FEED_STAT_A_LOSS else F.PWR_FEED_STAT_B_LOSS

/-- The measurement of a feed. Log entry 81 (PRESUMED). -/
def State.measureFeed (s : State) (f : Fin 2) (mv ma : BitVec 16) : State := (s.wr (feedMv f) mv.toNat).wr (feedMa f) ma.toNat

/-- A feed becomes LOST or OK, enters or leaves OVERCURRENT, now. -/
def State.markFeed (s : State) (f : Fin 2) : State :=
  { s with pwr := { s.pwr with feedAt := s.pwr.feedAt.set f (if s.tb2Runs then some s.nowNs else none) } }
def State.markOc (s : State) (f : Fin 2) : State :=
  { s with pwr := { s.pwr with ocAt := s.pwr.ocAt.set f (if s.tb2Runs then some s.nowNs else none) } }

/-- FEED_OVERCURRENT (R387): ten measurements in a row above 13.0 A, 1 ms at least after one that was not. Log entry 81 (PRESUMED). -/
def execFeedOvercurrent (f : Fin 2) (mv ma : BitVec 16) (s : State) : Out :=
  .next (
    let s1 := s.measureFeed f mv ma
    if s1.bit (feedOc f) || ma.toNat ≤ 13000 || !s1.lasted s1.pwr.ocAt[f] 1000000 then s1
    else ((s1.wr (feedOc f) 1).markOc f).raiseEv .pwr 8)

/-- FEED_OVERCURRENT_END (R387). -/
def execFeedOvercurrentEnd (f : Fin 2) (mv ma : BitVec 16) (s : State) : Out :=
  .next (
    let s1 := s.measureFeed f mv ma
    if s1.bit (feedOc f) && ma.toNat ≤ 13000 then ((s1.wr (feedOc f) 0).markOc f).raiseEv .pwr 8 else s1)

/-! ## PFW (R388, R475, R528, R530) -/

/-- Both feeds are lost in sleep: the sleep ends without an exit, and AON runs on as in OFF (R475, R507, R544). -/
def State.sleepPowerLost (s : State) : State :=
  let s1 := { s.loseMem inDram with pnl := {}, pwr := { s.pwr with phase := .none, off := true } }
  if s1.bit F.PWR_VBAT_RET_HOLD then s1 else s1.loseAllRetention

/-- The Tandem member at PFW: an ACTIVE one declares itself faulty, a standby leaves step (R376, R379). -/
def State.tandemPf (s : State) : State :=
  if !s.tandem then s else if s.tdmState = 1 then s.declareFault else if s.following then s.leaveStep 8 else s

/-- The retained save of a power failure is called for, as with NOW = 1; one that is SAVING serves as the set (R529). -/
def State.retainedPf (s : State) : State :=
  if s.bit F.SYS_PF_CFG_RET_EN && s.activeBank.isSome && !s.domOff.getLsbD Domain.cad.idx then
    let s1 := { s with sys := { s.sys with ret := true } }.wr F.SYS_PF_LAST_RET 3
    if s1.rd F.CAD_RET_STAT_STATE = 2 then s1
    else { s1 with cad := { s1.cad with retNow := true, retSince := s1.nowNs } }.wr F.CAD_RET_STAT_STATE 1
  else s

/-- The timeline starts (R528 to R530): event, load shed, panel, metering freeze, flush and retained save. -/
def State.timeline (s : State) : State :=
  let s1 := s.raise .sys 2
  let s2 := (s1.acceptAll.send { src := 0, code := 0x1002, sev := 6, p0 := (s1.regGet R.PWR_FEED_STAT).toNat }).acceptAll
  let s3 := { s2 with sys := { s2.sys with pf := some s2.nowNs, ret := false } }.regPut R.SYS_PF_LAST 1
  let s4 := { s3 with net := { s3.net with queues := ((s3.net.queues.set 2 []).set 3 []).set 4 [] } }
  ((((s4.tandemPf).pnlPowerOff).mtrFreeze).evrPf).retainedPf

/-- PFW_N asserts (R388). Log entry 58 (DEDUCED). -/
def State.pfwAssert (s : State) : State :=
  let s1 := { s with pfw := true }
  if s1.pwr.off || s1.sys.ended then s1
  else
    match s1.pwr.phase with
    | .asleep => s1.sleepPowerLost
    | .exiting => s1.sleepPowerLost
    | .quiesce => ((s1.wrB (statFld .sys 11) true).abortEntry 5).timeline
    | .saved => ((s1.wrB (statFld .sys 11) true).abortEntry 5).timeline
    | .none => (s1.wrB (statFld .sys 11) true).timeline

/-- FEED_LOST (R387, R388): below 2.55 V for 20 µs. Log entry 81 (PRESUMED). -/
def execFeedLost (f : Fin 2) (mv ma : BitVec 16) (s : State) : Out :=
  .next (
    let s1 := s.measureFeed f mv ma
    if s1.pwr.lost.getLsbD f.val || 2550 ≤ mv.toNat || !s1.lasted s1.pwr.feedAt[f] 20000 then s1
    else
      let s2 := ((({ s1.markFeed f with pwr := { (s1.markFeed f).pwr with lost := setMark s1.pwr.lost f.val true } }.wr (feedOk f) 0).incSat (feedLoss f)).raiseEv .pwr 8)
      if s2.pwr.lost = 3 && !s2.pfw then s2.pfwAssert else s2)

/-! ## The end of the timeline (R530 to R533) -/

/-- The steps of the timeline are complete or skipped: totals, event buffer, panel and retained set (R531). -/
def State.savesDone (s : State) : Bool :=
  !(s.mtrFrozen && !s.mtr.committed) && s.evr.flush.isNone && !s.evr.pf && s.pnlState == 0 && !s.sys.ret

/-- The hold-up ends (R531, R532): SYS_PF_LAST keeps the outcome, every domain but AON loses power. Log entry 58 (DEDUCED). -/
def State.endHoldup (s : State) (cut : Bool) : State :=
  let us := match s.sys.pf with | some t => (s.nowNs - t) / 1000 | none => 0
  let s1 := ((((s.wrB F.SYS_PF_LAST_MTR_OK (s.mtrFrozen && s.mtr.committed)).wrB F.SYS_PF_LAST_EVR_OK (s.evr.flush.isNone && !s.evr.pf)).wrB
    F.SYS_PF_LAST_PNL_OK (s.pnlState == 0)).wrB F.SYS_PF_LAST_CUT cut).wr F.SYS_PF_LAST_HOLD (min 65535 us)
  let s2 := s1.account.losePower false
  let s3 := { s2 with sys := { s2.sys with pf := none, ended := true, ret := false } }
  if s3.bit F.PWR_VBAT_RET_HOLD then s3 else s3.loseAllRetention

/-- The device continues in place of the hold-up end (R533). -/
def State.pfRecover (s : State) : State :=
  { ((s.wr F.SYS_PF_LAST_RECOVERED 1).raise .sys 3) with sys := { s.sys with pf := none } }

/-- HOLDUP_END (R531, R533). -/
def execHoldupEnd (s : State) : Out :=
  .next (
    if s.sys.pf.isNone || !s.savesDone then s
    else if s.pfw then s.endHoldup false
    else s.pfRecover)

/-- VHOLD_CUT (R532): VHOLD falls below 6.0 V while the hold-up runs. -/
def execVholdCut (s : State) : Out := .next (if s.sys.pf.isSome && s.pfw then s.endHoldup true else s)

/-- HOLD_READY_CHANGE (R535): VHOLD at or above 14.0 V. -/
def execHoldReadyChange (ready : Bool) (s : State) : Out := .next (s.wrB (statFld .sys 10) ready)

/-- PFW_N deasserts (R388, R533). -/
def State.pfwDeassert (s : State) : State :=
  let s1 := { s with pfw := false }
  if s1.pwr.off then s1
  else if s1.sys.ended then s1.deviceReset 6
  else
    let s2 := ((s1.wrB (statFld .sys 11) false).raise .sys 2).mtrPfDone
    if s2.sys.pf.isSome && s2.savesDone then s2.pfRecover else s2

/-- FEED_OK (R387, R388): above 2.65 V for 10 ms. Log entry 81 (PRESUMED). -/
def execFeedOk (f : Fin 2) (mv ma : BitVec 16) (s : State) : Out :=
  .next (
    let s1 := s.measureFeed f mv ma
    if s1.bit (feedOk f) || mv.toNat ≤ 2650 || !s1.lasted s1.pwr.feedAt[f] 10000000 then s1
    else
      let s2 := (({ s1.markFeed f with pwr := { (s1.markFeed f).pwr with lost := setMark s1.pwr.lost f.val false } }.wr (feedOk f) 1).raiseEv .pwr 8)
      if s2.pfw then s2.pfwDeassert else s2)

/-! ## The retained set (R529) -/

/-- PF_RET_SAVE_START (R529): every lane at an instance boundary, or 100 µs after PFW; an instance still inside ends as an instance
abort, whose code the manual does not give. -/
def execPfRetSaveStart (s : State) : Out :=
  .next (
    match s.sys.pf with
    | none => s
    | some t =>
      let idle := allCtx.all fun c => !(s.ctxAt c).busy
      if !s.sys.ret || s.rd F.CAD_RET_STAT_STATE ≠ 1 || !(idle || t + 100000 ≤ s.nowNs) then s
      else
        let s1 := allCtx.foldl (fun (s : State) c =>
          if (s.ctxAt c).busy then let (v, s2) := s.draw; s2.abortCtx c (v % 12) 0 else s) s
        let s2 := s1.commitRetBase.wr F.CAD_RET_STAT_STATE 2
        { s2 with cad := { s2.cad with
          suspended := true, retSince := s2.nowNs, retSet := if s2.dataBad then none else some s2.retainedSet } })

/-- A set is programmed only up to this size (R529). -/
def retMax : Nat := 3932160

/-- Program the pages of a set from CFG page 16 on; what the last page holds beyond the set is not given. -/
def State.putRetPages (s : State) (b : List Byte) : State :=
  let n := (b.length + 16383) / 16384
  let fill := (upto (16384 * n - b.length)).map fun i => BitVec.ofNat 8 (Config.freeNat (s.draws + i))
  let all := b ++ fill
  { s.useReserve n with
    draws := s.draws + fill.length
    nand := { (s.useReserve n).nand with
      pages := (upto n).foldl (fun (l : List (Nat × Option (List Byte))) k =>
        Sparse.put l none (2 ^ 20 + 16 + k) (some ((all.drop (16384 * k)).take 16384))) s.nand.pages } }

/-- RET_SET_COMMIT (R529, R530): after the EVR flush, NFM programs the set; a larger one is skipped. Log entry 58 (DEDUCED). -/
def execRetSetCommit (s : State) : Out :=
  .next (
    if !s.sys.ret || s.sys.pf.isNone || s.rd F.CAD_RET_STAT_STATE ≠ 0 || s.evr.flush.isSome || s.evr.pf then s
    else
      let s0 := { s with sys := { s.sys with ret := false } }
      if s.rd F.CAD_RET_STAT_RESULT ≠ 0 then s0
      else
        match s0.dmaRead 0 s0.retBase 64 with
        | (s1, none) => s1
        | (s1, some h) =>
          let size := leAt h 8 4
          if retMax < size then s1.wr F.SYS_PF_LAST_RET 2
          else
            match s1.dmaRead 0 s1.retBase size with
            | (s2, none) => s2
            | (s2, some b) => (s2.putRetPages b).wr F.SYS_PF_LAST_RET 1)

end Sys2Proof.Machine
end

