-- ==== Sys2Proof/Machine/Idle.lean ====
section
/-! DEFINITION. What the device does on its own while no command waits: one CLK_NET cycle passes (R328). -/

namespace Sys2Proof.Machine

/-- The time bases advance by one CLK_NET cycle: TB2 by 3.2 ns, TB0 and TB1 at their rates, TB3 with its source (R328 to R332).
Log entry 1 (DESIGN CHOICE). -/
def State.tbCycle (s : State) : State :=
  let p3 := slewPart 100 s.tsu.slew3
  let s1 := { s with
    tb2 := tbWrap (s.tb2 + unitsPerCycle), tb0 := tbWrapI (s.tb0 + s.tbAdvance 0), tb1 := tbWrapI (s.tb1 + s.tbAdvance 1),
    tsu := { s.tsu with
      slew0 := s.tsu.slew0 - slewPart s.slewPpm s.tsu.slew0, slew1 := s.tsu.slew1 - slewPart s.slewPpm s.tsu.slew1, slew3 := s.tsu.slew3 - p3 } }
  let s2 := if s1.tsu.srcRtc then { s1 with tb3 := tbWrapI (s.tb3 + 16 * 2 ^ 44 + p3) } else s1.followTb0
  if s2.tbAdv = s.tbAdv then s2 else s2.markTb s.tbAdv

/-- One cycle with no command: soft resets complete (R47); while the NET domain is on the time bases advance (R476), and FIO takes a
sample when its 10 ns instant passes (R351), and a joining standby applies the next entry of its replay queue (R378).
Log entries 1 (DESIGN CHOICE), 25 (DESIGN CHOICE). -/
def State.idle (s : State) : State :=
  let s1 := { s with softRst := 0 }
  if s1.domOff.getLsbD Domain.net.idx then s1
  else
    let s2 := s1.tbCycle
    (if s1.nowNs / 10 = s2.nowNs / 10 then s2 else s2.fioSample).replayNext

end Sys2Proof.Machine
end

