-- ==== Sys2Proof/Machine/Int.lean ====
section
/-! DEFINITION. The interrupt router: sources, eligibility, claims, completions and doorbells (R59 to R67). -/

namespace Sys2Proof.Machine

/-! ## Sources (R59, R60) -/

/-- The lowest source of each block; INT has none (R59, R61). -/
def firstSource : Blk → Option Nat
  | .sys => some 0 | .pwr => some 3 | .rtc => some 6 | .fab => some 8 | .xlt => some 10 | .mem => some 12 | .nfm => some 14 | .cad => some 16
  | .lpe => some 32 | .slv => some 40 | .spk => some 48 | .net => some 64 | .tsu => some 72 | .mtr => some 80 | .fio => some 88
  | .can p => some (92 + 2 * p.val) | .tdm => some 100 | .evr => some 104 | .kst => some 108 | .pnl => some 112 | .pfm => some 116
  | .bgs => some 118 | .int => none

/-- How far above the lowest source of its block a cause from bit 2 on lies, by bit (the block chapters). -/
def causeOffsets : Blk → List Nat
  | .sys => [1, 1, 2]
  | .pwr => [0, 0, 2, 0, 0, 0, 1]
  | .rtc => [1, 1, 0]
  | .fab => [1]
  | .xlt => [1, 1]
  | .mem => [1, 1]
  | .nfm => [1, 1, 1]
  | .cad => [1, 2, 3, 3, 4, 5, 6, 7, 8, 9, 10, 11]
  | .lpe => [1, 2, 3, 4, 5, 6, 7]
  | .slv => [1, 2, 3, 4, 5, 6, 7, 7, 4]
  | .spk => [1, 2, 3, 4, 5, 6, 7, 8, 9, 10, 11, 12, 13, 14]
  | .net => [1, 2, 3, 4, 5]
  | .tsu => [1, 2, 3, 4, 5, 6, 7]
  | .mtr => [1, 2, 3, 4, 5, 5, 6, 6, 7, 7]
  | .fio => [1, 1, 2, 2, 3]
  | .can _ => [0, 0, 1, 1, 1, 0]
  | .tdm => [1, 1, 2, 2, 3, 3]
  | .evr => [1, 1, 2, 2, 3]
  | .kst => [1, 2, 2, 3]
  | .pnl => [1, 1, 2, 2, 3, 3]
  | .pfm => [0, 1, 1]
  | .bgs => [1, 1, 1]
  | .int => []

/-- The source that a raw bit of a block drives; none for a reserved bit (R60). -/
def causeSource (b : Blk) (bit : Nat) : Option Nat :=
  match firstSource b with
  | none => none
  | some n =>
    if bit < 2 then some n
    else if b = .pwr && 5 ≤ bit && bit ≤ 7 then none
    else (causeOffsets b)[bit - 2]?.map (n + ·)

/-- The blocks with sources. -/
def sourceBlks : List Blk :=
  [.sys, .pwr, .rtc, .fab, .xlt, .mem, .nfm, .cad, .lpe, .slv, .spk, .net, .tsu, .mtr, .fio, .can 0, .can 1, .can 2, .can 3, .tdm, .evr, .kst,
   .pnl, .pfm, .bgs]

/-- BLK_IRQ_PEND (R45). -/
def State.irqPend (s : State) (b : Blk) : Word := s.regGet (R.BLK_IRQ_RAW b) &&& s.regGet (R.BLK_IRQ_EN b)

/-- A source is high: a pending cause assigned to it, in a block whose domain is on, or its doorbell (R59, R60). -/
def State.srcHigh (s : State) (n : Nat) : Bool :=
  if 120 ≤ n then s.doorbells.getLsbD (n - 120)
  else sourceBlks.any fun b =>
    !s.domOff.getLsbD b.domain.idx && (upto 32).any fun k => causeSource b k == some n && (s.irqPend b).getLsbD k

/-! ## Targets (R61 to R66) -/

/-- A source is routed to a target: 0 to 3 the host cores, 4 the monitor. -/
def State.routed (s : State) (t n : Nat) : Bool :=
  if t = 4 then s.bit (F.INT_SRC_CFGn_TGT_M n) else (s.rd (F.INT_SRC_CFGn_TGT_H n)).testBit t

/-- A source is in service at some target. -/
def State.inService (s : State) (n : Nat) : Bool := s.inserv.any fun x => x.1 == n

/-- A source is eligible for a target (R62). The spec gives no rule for the router while INT_CTRL.EN is 0: it works whatever EN reads.
Log entry 66 (DESIGN CHOICE). -/
def State.srcEligible (s : State) (t n : Nat) : Bool :=
  s.srcHigh n && s.routed t n && !s.inService n && decide (s.rd (F.INT_TGT_CTRLt_THRESH t) ≤ s.rd (F.INT_SRC_CFGn_PRIO n))

/-- The target's external interrupt line (R62). -/
def State.irqLine (s : State) (t : Nat) : Bool := (upto 128).any fun n => s.srcEligible t n

/-- The two external interrupts of a target (R61): MODE 1 drives the machine external interrupt, 0 the supervisor one. -/
def State.meip (s : State) (t : Nat) : Bool := s.irqLine t && s.bit (F.INT_TGT_CTRLt_MODE t)
def State.seip (s : State) (t : Nat) : Bool := s.irqLine t && !s.bit (F.INT_TGT_CTRLt_MODE t)

/-- The eligible source with the highest PRIO, the lower number on a tie (R63). -/
def State.bestSource (s : State) (t : Nat) : Option Nat :=
  (upto 128).foldl (fun (best : Option Nat) n =>
    if s.srcEligible t n then
      match best with
      | none => some n
      | some m => if s.rd (F.INT_SRC_CFGn_PRIO m) < s.rd (F.INT_SRC_CFGn_PRIO n) then some n else some m
    else best) none

/-- CLAIM (R63, R66): the claimed source is in service at the target. -/
def execClaim (m : Master) (t : Fin 5) (s : State) : Out :=
  .next (s.gateRead .int (R.INT_TGT_CLAIMt t) fun s =>
    if t = 4 && m ≠ .mon then s.reply 0
    else
      match s.bestSource t with
      | none => s.reply 0
      | some n => { s with inserv := s.inserv ++ [(n, t.val)] }.reply (BitVec.ofNat 32 (2 ^ 31 + n)))

/-- COMPLETE (R64 to R66). -/
def execComplete (m : Master) (t : Fin 5) (src : BitVec 7) (s : State) : Out :=
  .next (s.gate m .int (R.INT_TGT_COMPLETEt t) fun s =>
    if s.inserv.contains (src.toNat, t.val) then { s with inserv := s.inserv.filter fun x => x != (src.toNat, t.val) }
    else s.err .int 0x80 src.toNat)

/-- DB_SET (R59). -/
def execDbSet (m : Master) (v : BitVec 8) (s : State) : Out :=
  .next (s.gate m .int R.INT_DB_SET fun s => { s with doorbells := s.doorbells ||| v })

/-- DB_CLR (R59). -/
def execDbClr (m : Master) (v : BitVec 8) (s : State) : Out :=
  .next (s.gate m .int R.INT_DB_CLR fun s => { s with doorbells := s.doorbells &&& ~~~v })

/-- A write of INT_SRC_CFGn (R66): for a master other than the monitor, the monitor's fields stay as they are, without an error. -/
def State.writeSrcCfg (s : State) (m : Master) (n : Nat) (v : Word) : State :=
  let a := R.INT_SRC_CFGn n
  if s.unreachable .int then s.replyErr
  else if s.inSoftRst .int then (s.err .int 6 (woffOf .int a)).reply 0
  else ((s.writeFields m .int a v ((fieldsAt a).filter fun f => !f.mon || m == .mon) 0).1).reply 0

/-- INT_SRC_CFG (R66). -/
def execIntSrcCfg (m : Master) (n : BitVec 7) (v : Word) (s : State) : Out := .next (s.writeSrcCfg m n.toNat v)

/-- INT_LEVELk and INT_INSERVk (R61). -/
def State.levelWord (s : State) (k : Nat) : Word :=
  (upto 32).foldl (fun (w : Word) b => if s.srcHigh (32 * k + b) then w ||| BitVec.ofNat 32 (2 ^ b) else w) 0
def State.inservWord (s : State) (k : Nat) : Word :=
  (upto 32).foldl (fun (w : Word) b => if s.inService (32 * k + b) then w ||| BitVec.ofNat 32 (2 ^ b) else w) 0

end Sys2Proof.Machine
end

