-- ==== Sys2Proof/Machine/Rtc.lean ====
section
/-! DEFINITION. The real-time clock (R480 to R493). -/

namespace Sys2Proof.Machine

/-- Load the calendar. -/
def State.setCal (s : State) (c : Cal) : State :=
  (((((((s.wr F.RTC_YEAR_YEAR (toBcd (c.year % 100))).wr F.RTC_DATE_CENTURY (c.year / 100)).wr F.RTC_DATE_MON (toBcd c.mon)).wr
    F.RTC_DATE_DAY (toBcd c.day)).wr F.RTC_TIME_HOUR (toBcd c.hour)).wr F.RTC_TIME_MIN (toBcd c.min)).wr F.RTC_SEC_SEC (toBcd c.sec)).wr
    F.RTC_TIME_WDAY c.wday

/-! ## Validity (R332, R481) -/

/-- TB3 follows the RTC, and the NET domain runs. -/
def State.tb3Rtc (s : State) : Bool := s.tsu.srcRtc && !s.domOff.getLsbD Domain.net.idx

/-- TIME_INVALID sets, with TIME_INV; TB3 loses its validity while it follows the RTC. Log entry 55 (DEDUCED). -/
def State.timeInv (s : State) : State :=
  let s1 := (s.wrB (statFld .rtc 8) true).raise .rtc 4
  if s1.tb3Rtc then s1.evalTb3 else s1

/-- The time has been set: TIME_INVALID and BOR clear (R481, R493). -/
def State.timeSet (s : State) : State :=
  let s1 := (s.wrB (statFld .rtc 8) false).wrB (statFld .rtc 10) false
  if s1.tb3Rtc then s1.evalTb3 else s1

/-- HALT with its mirror HALTED, and OSC_STOP. Log entry 55 (DEDUCED). -/
def State.rtcHalt (s : State) : Bool := s.bit F.RTC_CTL_HALT
def State.setHalt (s : State) (v : Bool) : State := (s.wrB F.RTC_CTL_HALT v).wrB (statFld .rtc 12) v
def State.oscStop (s : State) : Bool := s.bit (statFld .rtc 9)

/-- OSC_STOP (R477, R481). -/
def execOscStop (s : State) : Out :=
  .next (if s.oscStop then s else { s with pwr := { s.pwr with rtcBad := true } }.wrB (statFld .rtc 9) true |>.timeInv)

/-- OSC_RESUME (R481): TIME_INVALID stays. -/
def execOscResume (s : State) : Out := .next (s.wrB (statFld .rtc 9) false)

/-- BROWN_OUT (R477, R481, R491): the cell trips; `lost`: the dip took content of retention memory, of which structures is open.
Log entry 55 (DEDUCED). -/
def execBrownOut (lost : Bool) (s : State) : Out :=
  .next (
    let s1 := { s with rtc := { s.rtc with cell := true }, pwr := { s.pwr with rtcBad := true } }.timeInv
    if lost then let (v, s2) := s1.draw; s2.loseRetention v.testBit else s1)

/-! ## Alarm (R487, R488) -/

/-- Bit `k` of MASK: SEC, MIN, HOUR, DAY, MON, WDAY compared. -/
def State.almCmp (s : State) (k : Nat) (f : Fld) (v : Nat) : Bool := !(s.rd F.RTC_ALM_DATE_MASK).testBit k || s.rd f == v

/-- The compared time fields match a second of the day. -/
def State.almTime (s : State) (t : Nat) : Bool :=
  s.almCmp 0 F.RTC_ALM_TIME_SEC (toBcd (t % 60)) && s.almCmp 1 F.RTC_ALM_TIME_MIN (toBcd (t / 60 % 60)) &&
    s.almCmp 2 F.RTC_ALM_TIME_HOUR (toBcd (t / 3600))

/-- The compared date fields match. -/
def State.almDate (s : State) (mon day wday : Nat) : Bool :=
  s.almCmp 3 F.RTC_ALM_DATE_DAY (toBcd day) && s.almCmp 4 F.RTC_ALM_DATE_MON (toBcd mon) && s.almCmp 5 F.RTC_ALM_DATE_WDAY wday

/-- The alarm fires. -/
def State.fireAlarm (s : State) (skip : Bool) : State :=
  let s1 := (s.wr F.RTC_ALM_STAT_FIRED 1).raise .rtc 2
  (if skip then s1.wr F.RTC_ALM_STAT_ALM_SKIP 1 else s1).wake 7

/-- Month and day of a day counted from 2000-01-01. -/
def monthDay (d : Nat) : Nat × Nat :=
  let y := ((upto 200).filter fun y => decide (yearDays y ≤ d)).length - 1
  let r := d - yearDays y
  let before (m : Nat) : Nat := ((upto (m - 1)).map fun k => monthDays y (k + 1)).sum
  let m := ((upto 12).filter fun k => decide (before (k + 1) ≤ r)).length
  (m, r - before m + 1)

/-- Counting from second `lo` (exclusive) to `hi` would have entered a matching second; `wday`: the weekday of `day0`. Log entry 55 (DEDUCED). -/
def State.passes (s : State) (lo hi day0 wday : Nat) : Bool :=
  (upto (hi / 86400 + 1 - lo / 86400)).any fun k =>
    let d := lo / 86400 + k
    let a := if k = 0 then lo % 86400 + 1 else 0
    let b := if d = hi / 86400 then hi % 86400 else 86399
    let (mon, day) := monthDay d
    s.almDate mon day ((wday + 6 + (d - day0)) % 7 + 1) && (upto (b + 1 - a)).any fun i => s.almTime (a + i)

/-- An adjustment from `old` (seconds, ticks, weekday) to the present calendar (R485, R488). Log entry 55 (DEDUCED). -/
def State.adjustRtc (s : State) (old : Nat × Nat × Nat) : State :=
  let new := s.cal.secs
  let before := s.tb3
  let s := if s.tb3Rtc then s.markTb s.tbAdv else s
  let s1 := if s.tb3Rtc then ({ s with tb3 := new * unitsPerSec, tsu := { s.tsu with slew3 := 0, loaded := true } }.tb3Step before) else s
  let s2 := { s1.timeSet with rtc := { s1.timeSet.rtc with secAt := some s1.tb2 } }
  let held := s2.rtc.hold.getD 0
  if old.1 < new then
    let lo := if s2.rtc.hold.isSome then max old.1 held else old.1
    if s2.bit F.RTC_ALM_DATE_ARM && s2.passes lo new (old.1 / 86400) old.2.2 then s2.fireAlarm true else s2
  else if new < old.1 || 0 < old.2.1 then { s2 with rtc := { s2.rtc with hold := some (max old.1 held) } }
  else s2

/-! ## Counting (R331, R480, R481) -/

/-- RTC_SECOND (R331, R480, R487): the prescaler wraps, 32,768 ticks after the second began. -/
def execRtcSecond (s : State) : Out :=
  .next (
    if s.rtcHalt || s.oscStop || !s.rtcLasted (s.rtc.secAt.map (· / unitsPerNs)) nsPerSec then s
    else
      let (c, wrapped) := s.cal.next
      let s := if s.tb3Rtc then s.markTb s.tbAdv else s
      let s1 := { s.setCal c with rtc := { s.rtc with secAt := some s.tb2 } }
      let s2 := if wrapped then s1.timeInv else s1
      let target : Int := c.secs * unitsPerSec
      let s3 :=
        if !s2.tb3Rtc then s2
        else if s2.tsu.loaded then { s2 with tsu := { s2.tsu with slew3 := target - s2.tb3 } }
        else { s2 with tb3 := target.toNat, tsu := { s2.tsu with loaded := true } }
      let free := match s3.rtc.hold with | some h => decide (h < c.secs) | none => true
      let s4 := if free then { s3 with rtc := { s3.rtc with hold := none } } else s3
      if free && s4.bit F.RTC_ALM_DATE_ARM && s4.almTime (c.secs % 86400) && s4.almDate c.mon c.day c.wday then s4.fireAlarm false else s4)

/-! ## Setting (R482 to R485) -/

/-- HALT (R483): counting stops at the next tick edge, `sub` ticks into the second. -/
def execHalt (m : Master) (sub : BitVec 15) (s : State) : Out :=
  .next (s.gate m .rtc R.RTC_CTL fun s =>
    if s.rtcHalt then s
    else { (s.setHalt true).wr F.RTC_SUB_SUB sub.toNat with rtc := { s.rtc with old := (s.cal.secs, sub.toNat, s.cal.wday) } })

/-- HALT_RELEASE (R483): an invalid date is refused with code 0x81; otherwise the written second begins whole. -/
def execHaltRelease (m : Master) (s : State) : Out :=
  .next (s.gate m .rtc R.RTC_CTL fun s =>
    let c := s.cal
    if !s.rtcHalt then s
    else if c.mon = 0 || 12 < c.mon || c.day = 0 || monthDays c.year c.mon < c.day then s.err .rtc 0x81 0
    else ((s.setHalt false).wr F.RTC_SUB_SUB 0).adjustRtc s.rtc.old)

/-- A byte of BCD digits no greater than `hi`. -/
def bcdOk (x hi : Nat) : Bool := decide (x % 16 < 10) && decide (x / 16 < 10) && decide (ofBcd x ≤ hi)

/-- RTC_SEC_WRITE (R482, R484): while counting, `sub` ticks into the second, the new second starts whole. -/
def execRtcSecWrite (m : Master) (v : Word) (sub : BitVec 15) (s : State) : Out :=
  .next (s.gate m .rtc R.RTC_SEC fun s =>
    let x := getBits v 0 7
    if m ≠ .mon then s.err .rtc 5 (woffOf .rtc R.RTC_SEC)
    else if !bcdOk x 59 then s.err .rtc 0x80 (woffOf .rtc R.RTC_SEC)
    else if s.rtcHalt then s.wr F.RTC_SEC_SEC x
    else ((s.wr F.RTC_SEC_SEC x).wr F.RTC_SUB_SUB 0).adjustRtc (s.cal.secs, sub.toNat, s.cal.wday))

/-- A write of RTC_TIME, RTC_DATE or RTC_YEAR (R482): discarded with code 0x82 while counting; each field with a wrong digit or value
with code 0x80. -/
def State.calWrite (s : State) (m : Master) (a : Nat) (v : Word) : State :=
  s.gate m .rtc a fun s =>
    if m ≠ .mon then s.err .rtc 5 (woffOf .rtc a)
    else if !s.rtcHalt then s.err .rtc 0x82 (woffOf .rtc a)
    else
      let put (x : State × Bool) (f : Fld) (ok : Nat → Bool) : State × Bool :=
        let y := getBits v f.lo f.w
        if ok y then (x.1.wr f y, x.2) else (x.1, true)
      let r :=
        if a = R.RTC_TIME then
          put (put (put (s, false) F.RTC_TIME_MIN (bcdOk · 59)) F.RTC_TIME_HOUR (bcdOk · 23)) F.RTC_TIME_WDAY (fun y => decide (1 ≤ y))
            |> fun x => if getBits v 16 3 ≤ 7 then x else (x.1, true)
        else if a = R.RTC_DATE then
          put (put (put (s, false) F.RTC_DATE_DAY (fun y => bcdOk y 31 && y != 0)) F.RTC_DATE_MON (fun y => bcdOk y 12 && y != 0)) F.RTC_DATE_CENTURY
            (fun _ => true)
        else put (s, false) F.RTC_YEAR_YEAR (bcdOk · 99)
      if r.2 then r.1.err .rtc 0x80 (woffOf .rtc a) else r.1

/-! ## Reading (R486) -/

/-- The shadow set of a master. -/
def rtcSetOf : Master → Fin 6
  | .h0 => 0 | .h1 => 1 | .h2 => 2 | .h3 => 3 | .mon => 4 | .spi => 5

/-- What a master's frozen set or the live calendar gives for one of the five registers; the prescaler of a running clock is open.
Log entry 55 (DEDUCED). -/
def State.rtcRead (s : State) (m : Master) (a : Nat) : Word :=
  match s.rtc.sets[rtcSetOf m] with
  | none => if a = R.RTC_SUB && !s.rtcHalt then BitVec.ofNat 32 (Config.rtcSub s.tb2 % 2 ^ 15) else s.regGet a
  | some x =>
    if a = R.RTC_SEC then BitVec.ofNat 32 x.sec else if a = R.RTC_TIME then x.time else if a = R.RTC_DATE then x.date
    else if a = R.RTC_YEAR then BitVec.ofNat 32 (x.year + 256) else if a = R.RTC_SUB then BitVec.ofNat 32 x.sub else s.regGet a

/-- RTC_SEC_READ: the read of a live set freezes it, `sub` ticks into the second. -/
def execRtcSecRead (m : Master) (sub : BitVec 15) (s : State) : Out :=
  .next (s.gateRead .rtc R.RTC_SEC fun s =>
    let r := s.rtcRead m R.RTC_SEC
    match s.rtc.sets[rtcSetOf m] with
    | some _ => s.reply r
    | none =>
      let x : RtcSet := { sec := s.rd F.RTC_SEC_SEC, time := s.regGet R.RTC_TIME, date := s.regGet R.RTC_DATE, year := s.rd F.RTC_YEAR_YEAR,
                          sub := if s.rtcHalt then s.rd F.RTC_SUB_SUB else sub.toNat, at_ := s.nowNs }
      { s with rtc := { s.rtc with sets := s.rtc.sets.set (rtcSetOf m) (some x) } }.reply r)

/-- A set is released. -/
def State.releaseSet (s : State) (m : Master) : State := { s with rtc := { s.rtc with sets := s.rtc.sets.set (rtcSetOf m) none } }

/-- RTC_YEAR_READ: the read that returns HELD releases the set. -/
def execRtcYearRead (m : Master) (s : State) : Out :=
  .next (s.gateRead .rtc R.RTC_YEAR fun s => (s.releaseSet m).reply (s.rtcRead m R.RTC_YEAR))

/-- RTC_SET_RELEASE: one second after the freeze. -/
def execRtcSetRelease (m : Master) (s : State) : Out :=
  .next (if s.rtcLasted (s.rtc.sets[rtcSetOf m].map (·.at_)) nsPerSec then s.releaseSet m else s)

/-! ## Periodic wake, supply, start (R489 to R492) -/

/-- The periodic counter counts from now on. -/
def State.markPer (s : State) : State := { s with rtc := { s.rtc with perAt := if s.tb2Runs then some s.nowNs else none } }

/-- The period in ns: PER / 256 s, larger values acting as 22,118,400 (R489). -/
def State.perNs (s : State) : Nat := min 22118400 (s.rd F.RTC_PER_PER) * 3906250

/-- PERIODIC (R489): PER × 128 ticks after the write or the last firing. -/
def execPeriodic (s : State) : Out :=
  .next (
    if s.rd F.RTC_PER_PER = 0 || s.oscStop || !s.rtcLasted s.rtc.perAt s.perNs then s
    else ((s.markPer.wr F.RTC_ALM_STAT_PFIRED 1).raise .rtc 3).wake 8)

/-- RTC_PER_WRITE (R489). -/
def execRtcPerWrite (m : Master) (v : Word) (s : State) : Out := .next (s.gate m .rtc R.RTC_PER fun s => s.markPer.wr F.RTC_PER_PER (getBits v 0 25))

/-- VBAT_MEASURE (R490, R544): while the internal AON supply is up, every 60 s. Log entry 55 (DEDUCED). -/
def execVbatMeasure (mv : BitVec 16) (s : State) : Out :=
  .next (if s.pwr.off || s.pwr.lost = 3 || !s.lasted s.rtc.vbatAt 60000000000 then s
    else ({ s with rtc := { s.rtc with vbatAt := if s.tb2Runs then some s.nowNs else none } }.wr F.PWR_VBAT_MV mv.toNat).wrB (statFld .rtc 11) (decide (mv.toNat < 2200)))

/-- The next start after a brown-out (R492). -/
def State.rtcStart (s : State) : State :=
  if !s.rtc.cell then s
  else
    let s0 := { s with rtc := { s.rtc with cell := false, hold := none } }
    let s1 := ((s0.setCal { year := 0, mon := 1, day := 1, hour := 0, min := 0, sec := 0, wday := 6 }).setHalt false).wr F.RTC_SUB_SUB 0
    let s2 := ((s1.wr F.RTC_ALM_DATE_ARM 0).wr F.RTC_PER_PER 0).regPut R.RTC_ALM_STAT 0
    let s3 := (s2.wrB (statFld .rtc 10) true).timeInv
    s3.event .rtc 4 6 (getBits (s3.regGet (R.BLK_STAT .rtc)) 8 8) 0 0 0

end Sys2Proof.Machine
end

