-- ==== Sys2Proof/Machine/Regs.lean ====
section
/-! DEFINITION. Register pages: writes and reads with no command of their own, enable and stop, soft reset, freeze, locks and the
configuration sum (R37 to R58). -/

namespace Sys2Proof.Machine

/-! ## Running and stopping (R46) -/

/-- The block has nothing in progress that its stop boundary waits for (the stop boundaries of the block chapters).
Log entry 67 (DESIGN CHOICE). -/
def State.atRest (s : State) : Blk → Bool
  | .spk => s.ringState != 1 && s.ringState != 2
  | .cad => allTasks.all fun n => s.taskState n != 2
  | .slv => s.slv.run.isNone
  | .kst => s.kst.job.isNone
  | .nfm => s.nfm.isNone
  | .evr => s.evr.flush.isNone
  | .tsu => s.tsu.tp.toList.all fun t => t.until_.isNone
  | .can p => (s.canPort p).onBus.isNone
  | .mtr => s.mtrAtRest
  | .net => s.net.txLeft == 0
  | .tdm => !s.tandem || decide (s.tdm.periodEnd ≤ s.nowNs)
  | _ => true

/-- Work is in progress in the block, as BUSY shows it (R45): what its stop boundary waits for, and the work that no stop boundary names.
Log entry 67 (DESIGN CHOICE). -/
def State.inProgress (s : State) (b : Blk) : Bool :=
  !s.atRest b || match b with
    | .cad => s.bankState 0 == 1 || s.bankState 1 == 1 || s.rd F.CAD_RET_STAT_STATE != 0 || s.chgState == 1 || s.chgState == 3
    | .lpe => s.lpe.loading
    | .slv => !s.slv.waiting.isEmpty || s.bit F.SLV_TPL_RES_PEND
    | .spk => s.spk.pass.isSome || s.spk.tbl.isSome
    | .net => s.net.queues.toList.any fun q => !q.isEmpty
    | .pnl => s.pnl.run.isSome || s.pnl.pend != 0 || s.pnl.load.isSome || s.pnlState == 1 || s.pnlState == 3
    | .mtr => !s.mtr.closed.isEmpty || !s.mtr.built.isEmpty
    | .can p => (upto 3).any fun k => s.rd (txFld p k) == 1
    | .tdm => s.tdmState == 2
    | .evr => s.evr.load.isSome || s.evr.check.isSome || s.evr.clear.isSome
    | .fab => s.inFlight != 0
    | .pfm => s.pfm.rec_.isSome
    | .bgs => s.bgs.trued != 0
    | .pwr => s.pwr.phase != .none
    | .sys => s.sys.boot
    | _ => false

/-- The stop boundary is an instant that is still to come: the end of a tick, sample, frame, LINE or stream period. -/
def State.boundaryAhead (s : State) : Blk → Bool
  | .mtr => true
  | .fio => true
  | .pnl => s.pnl.run.isSome
  | .tdm => s.tandem
  | _ => false

/-- EN and STOPPING change together, and the block stops. -/
def State.stopNow (s : State) (b : Blk) : State :=
  let s0 := if b = .pfm then s.pfmEnd true else s
  let s1 := (s0.wr (F.BLK_CTRL_EN b) 0).wr (F.BLK_STAT_STOPPING b) 0
  match b with
  | .mtr => s1.mtrStop
  | .fio => s1.fioStop
  | .can p => s1.canStop p
  | .spk => if s1.cad.ringSupplied then s1.loseInstants else s1
  | .cad => allTasks.foldl (fun s n => s.setTask n { s.task n with owed := false }) s1
  | .lpe => s1.guardStop
  | _ => s1

/-- Whether another node's frame is on a CAN port's bus, whose end a stop then waits for, is open (R367). -/
def State.canBusy (s : State) (b : Blk) : Bool × State :=
  match b with
  | .can _ => let (d, s1) := s.draw; (d % 2 == 1, s1)
  | _ => (false, s)

/-- EN is written 0 while it is 1 (R46, R194, R277, R379). -/
def State.requestStop (s : State) (b : Blk) : State :=
  let s1 := match b with
    | .tdm => if s.tandem && s.tdmState == 1 then s.declareFault else s
    | .spk => s.spkStop
    | .slv => match s.slv.run with | some j => s.stopStalled j 5 | none => s
    | .mtr => s.mtrStopAsked
    | .net => s.netStopAsked
    | _ => s
  let (ahead, s2) := s1.canBusy b
  if s2.atRest b && !s2.boundaryAhead b && !ahead then s2.stopNow b else s2.wr (F.BLK_STAT_STOPPING b) 1

/-- EN is written 1 while it is 0. Log entry 59 (DEDUCED). -/
def State.enableBlk (s : State) (b : Blk) : State :=
  let s1 := s.wr (F.BLK_CTRL_EN b) 1
  match b with
  | .spk => s1.spkStart
  | .mtr => s1.mtrStart
  | .fio => s1.fioStart
  | .evr => s1.evrEnable
  | .net => s1.serveTx
  | .tsu => s1.tsuStart
  | .pfm => s1.pfmStart true
  | .can p =>
    let (s2, ok) := s.canEnable p
    if ok then s2.wr (F.BLK_CTRL_EN b) 1 else s2
  | _ => s1

/-- STOP_BOUNDARY (R46). -/
def execStopBoundary (b : Blk) (s : State) : Out :=
  .next (s.whileLive b fun s => if s.stopping b && s.atRest b then s.stopNow b else s)

/-! ## Soft reset (R47) -/

/-- Bits of a register that no soft reset changes: what AON, OTP or a live level holds (R342, R405, R426, R535). -/
def resetKeep (a : Nat) : Word :=
  match blkAt a with
  | some .sys => if a = R.SYS_PF_LAST || a = R.SYS_RST_CAUSE then BitVec.allOnes 32 else if a = R.BLK_STAT .sys then 0xC00 else 0
  | some .kst => if R.KST_LC ≤ a && !(decide (R.KST_NONCEk 0 ≤ a) && decide (a ≤ R.KST_NONCEk 7)) then BitVec.allOnes 32 else 0
  | some .evr => if evrKept a then BitVec.allOnes 32 else if a = R.EVR_CLR_STAT then 0xFFFF0000 else if a = R.BLK_STAT .evr then 0x500 else 0
  | some .rtc =>
    if a = R.RTC_SEC then 0x7F else if a = R.RTC_TIME || a = R.RTC_DATE then BitVec.allOnes 32 else if a = R.RTC_YEAR then 0xFF
    else if a = R.BLK_STAT .rtc then 0xF00 else 0
  | some .fio => if R.FIO_DI_CNTn 0 ≤ a && a ≤ R.FIO_DI_CNTn 23 then BitVec.allOnes 32 else if a = R.BLK_STAT .fio then 0xC00 else 0
  | some .mem => if a = R.BLK_STAT .mem then 0x100 else 0
  | some .pwr => if a = R.PWR_FEED_STAT then 0xF else 0
  | some .mtr => if a = R.MTR_BILL_SEQ then BitVec.allOnes 32 else 0
  | some .spk => if a = R.SPK_RING_STAT then 0x18 else 0
  | some .net => if (upto 5).any fun n => a == R.NET_PORTn_STAT n then 1 else 0
  | some .tdm => if a = R.TDM_STATE then 0x100 else 0
  | some .tsu => if a = R.TSU_TBn_STAT 3 then 0xC else 0
  | _ => 0

/-- The bits of a register that a soft reset of its block leaves: BLK_LOCK, what it protects, and what `resetKeep` names. -/
def State.softKeep (s : State) (b : Blk) (a : Nat) : Word :=
  if a = R.BLK_LOCK b then BitVec.allOnes 32
  else resetKeep a ||| (if s.bit (F.BLK_LOCK_CFG_LOCK b) then cfgMask (fieldsAt a) else 0)

/-- The queues and state machines of a block are emptied; what keeps its own life past a soft reset stays (R136, R281, R330, R405, R456). -/
def State.emptyBlk (s : State) : Blk → State
  | .int => { s with inserv := [], doorbells := 0 }
  | .fab => { s with fab := { peak := s.fab.peak } }
  | .xlt => s.xltSoftReset
  | .nfm => { s with nfm := none }
  | .pfm => { s with pfm := {} }
  | .cad => { s with cad := {} }
  | .lpe => { s with lpe := {} }
  | .slv => { s with slv := {} }
  | .spk => { (if s.cad.ringSupplied then s.loseInstants else s) with spk := { high := s.spk.high } }
  | .net => { s with net := {} }
  | .tsu => s.tsuSoftReset
  | .mtr =>
    { s with mtr := {
        lanes := s.mtr.lanes.foldl (fun l (x : Nat × Lane) => Sparse.put l {} x.1 { x.2 with en := false, cmd := none }) []
        closed := s.mtr.closed, built := s.mtr.built, lastHash := s.mtr.lastHash, dropRun := s.mtr.dropRun, gap := s.mtr.gap
        openAt := s.mtr.openAt, openNs := s.mtr.openNs, openFlags := s.mtr.openFlags, openOutage := s.mtr.openOutage }}.mtrStop
  | .fio => { s with fio := {
      sampling := s.fio.sampling, uvOkAt := s.fio.uvOkAt, countedIn := s.fio.countedIn
      offAt := Vector.ofFn fun n => if (s.rd F.FIO_DO_STATE_DRIVEN).testBit n then s.nowNs else s.fio.offAt[n] } }
  | .can p => s.setCan p {}
  | .tdm =>
    let s1 := if s.tandem && s.tdmState == 1 then s.declareFault else s
    { s1 with tdm := { linkDownAt := s1.tdm.linkDownAt, absentAt := s1.tdm.absentAt, deadAt := s1.tdm.deadAt, edges := s1.tdm.edges } }
  | .evr => s.evrSoftReset
  | .kst => { s with kst := { s.kst with job := none, nonce := none, reqs := s.kst.reqs.filter fun x => x.2 != .mon } }
  | .pwr =>
    let s1 := if s.cur = 1 then s.leaveNap false else s
    if s1.pwr.phase = .quiesce || s1.pwr.phase = .saved then s1.abortEntry 0 else s1
  | .rtc => { s with rtc := { s.rtc with sets := Vector.replicate 6 none, hold := none } }
  | .pnl => { s with pnl := {} }
  | .bgs => { s with bgs := {} }
  | .sys => s
  | .mem => s

/-- A soft reset. It completes at the block's next idle cycle. Log entries 25 (DESIGN CHOICE), 59 (DEDUCED). -/
def State.softReset (s : State) (b : Blk) : State :=
  let s1 := s.emptyBlk b
  let mine := s1.regs.filter fun x => blkAt x.1 == some b
  let s2 := mine.foldl (fun (s : State) x =>
    let k := s1.softKeep b x.1
    s.regPut x.1 ((regReset x.1 &&& ~~~k) ||| (x.2 &&& k))) s1
  let s3 := if s.bit (F.BLK_LOCK_CFG_LOCK b) then s2 else { s2 with shadows := s2.shadows.filter fun x => blkAt x.1.addr != some b }
  let s4 := if b = .tsu then s3.tsuRestart else s3
  { s4.regPut (R.BLK_CFGSUM b) (cfgSumOf s4.regGet b) with softRst := setMark s4.softRst b.idx true, halted := setMark s4.halted b.idx false }

/-! ## BLK_CTRL (R46 to R50) -/

/-- A write of BLK_CTRL, field by field; the lowest rejection code is recorded. A soft reset takes the whole write. -/
def State.writeCtrl (s : State) (m : Master) (b : Blk) (v : Word) : State :=
  s.gate m b (R.BLK_CTRL b) fun s =>
    let en := bitAt v 0
    let frz := bitAt v 2
    let locked := s.bit (F.BLK_LOCK_CTRL_LOCK b)
    let cRst := if bitAt v 1 && locked then 2 else 0
    if bitAt v 1 && !locked then s.softReset b
    else
      let enWrite := en != s.en b
      let cEn := if en && s.stopping b then 4 else if enWrite && locked then 2 else 0
      let frzWrite := frz != s.bit (F.BLK_CTRL_FREEZE b)
      let cFrz := if frzWrite && !s.dbgEn then 3 else 0
      let s1 := if frzWrite && s.dbgEn then
          let s0 := s.wrB (F.BLK_CTRL_FREEZE b) frz
          if frz then s0 else { s0 with halted := setMark s0.halted b.idx false }
        else s
      let s2 := if !enWrite || locked then s1
        else if en then s1.enableBlk b
        else if s1.stopping b then s1 else s1.requestStop b
      let codes := [cRst, cEn, cFrz].filter (· != 0)
      match codes with
      | [] => s2
      | c :: t => s2.err b (t.foldl min c) (woffOf b (R.BLK_CTRL b))

/-- A write of BLK_CTRL that changes one bit and repeats the others; SOFT_RST is written 0. -/
def State.ctrlBit (s : State) (m : Master) (b : Blk) (n : Nat) (v : Bool) : State :=
  s.writeCtrl m b (putBits (s.regGet (R.BLK_CTRL b) &&& 5) n 1 (b2n v))

/-- BLK_ENABLE (R46). -/
def execBlkEnable (m : Master) (b : Blk) (s : State) : Out := .next (s.ctrlBit m b 0 true)

/-- BLK_STOP (R46). -/
def execBlkStop (m : Master) (b : Blk) (s : State) : Out := .next (s.ctrlBit m b 0 false)

/-- SOFT_RST (R47). -/
def execSoftRst (m : Master) (b : Blk) (s : State) : Out := .next (s.ctrlBit m b 1 true)

/-- FREEZE (R48). Log entry 59 (DEDUCED). -/
def execFreeze (m : Master) (b : Blk) (on : Bool) (s : State) : Out := .next (s.ctrlBit m b 2 on)

/-- CFG_LOCK (R50). -/
def execCfgLock (m : Master) (b : Blk) (s : State) : Out := .next (s.writeReg m b (R.BLK_LOCK b) 1)

/-- CTRL_LOCK (R50). -/
def execCtrlLock (m : Master) (b : Blk) (s : State) : Out := .next (s.writeReg m b (R.BLK_LOCK b) 2)

/-- FORCE_LOCK (R133). -/
def execForceLock (m : Master) (s : State) : Out := .next (s.writeReg m .cad (R.BLK_LOCK .cad) 4)

/-- CHG_LOCK (R151). -/
def execChgLock (m : Master) (s : State) : Out := .next (s.writeReg m .cad (R.BLK_LOCK .cad) 8)

/-- CFGSUM_UPDATE (R51): the sum of the active configuration. -/
def execCfgsumUpdate (b : Blk) (s : State) : Out :=
  .next (
    if s.bit (F.BLK_STAT_SUM_PEND b) && !s.domOff.getLsbD b.domain.idx then
      (s.regPut (R.BLK_CFGSUM b) (cfgSumOf s.regGet b)).wr (F.BLK_STAT_SUM_PEND b) 0
    else s)

/-! ## Register writes (R52) -/

/-- Write the fields of a register that `p` keeps; `c`: a rejection code of the block that the write met (0: none), and its WOFF. -/
def State.writeSome (s : State) (m : Master) (b : Blk) (a : Nat) (v : Word) (p : FieldSpec → Bool) (c woff : Nat) : State :=
  s.gate m b a fun s =>
    let (s1, r) := s.writeFields m b a v ((fieldsAt a).filter p) 0
    let s2 := if r = 0 then s1 else s1.err b r (woffOf b a)
    if c = 0 then s2 else s2.err b c woff

/-- A write of a pulse output's register (R334, R335): without a pulse in progress the RWS fields become active at once.
Log entry 59 (DEDUCED). -/
def State.writeTp (s : State) (m : Master) (n : Fin 8) (a : Nat) (v : Word) : State :=
  let per := s.rdShadow (F.TSU_TPn_PERIOD_PERIOD n)
  let wid := s.rdShadow (F.TSU_TPn_WIDTH_WIDTH n)
  let bad := if a = R.TSU_TPn_PERIOD n then decide (v.toNat < 100) || decide (v.toNat < wid + 10)
    else if a = R.TSU_TPn_WIDTH n then decide (getBits v 0 30 < 10) || decide (per < getBits v 0 30 + 10)
    else if a = R.TSU_TPn_START_NS n then decide (nsPerSec ≤ getBits v 0 30)
    else false
  let was := s.bit (F.TSU_TPn_CFG_EN n)
  let s1 := s.writeSome m .tsu a v (fun _ => !bad) (if bad then 0x81 else 0) n.val
  let s2 := if s1.tsu.tp[n].until_.isNone then s1.commitTp n else s1
  if a = R.TSU_TPn_CFG n && !was && s2.bit (F.TSU_TPn_CFG_EN n) then
    (s2.setTp n { s2.tsu.tp[n] with fired := false }).tpMark n
  else s2

/-- A write of a register of TSU: an ADJ_NS of a second or more is discarded with code 0x80 (R329). -/
def State.writeTsu (s : State) (m : Master) (a : Nat) (v : Word) : State :=
  if R.TSU_TPn_CFG 0 ≤ a && a < R.TSU_TPn_CFG 0 + 0x100 then s.writeTp m (Fin.ofNat 8 ((a - R.TSU_TPn_CFG 0) / 0x20)) a v
  else if a = R.TSU_TBn_STAT 0 || a = R.TSU_TBn_STAT 1 then
    let n : Fin 4 := if a = R.TSU_TBn_STAT 0 then 0 else 1
    match execSyncedWrite m n (bitAt v 0) s with
    | .next t => t
    | _ => s
  else
    match (upto 2).find? fun n => R.TSU_TBn_ADJ_NS n == a with
    | some n => if nsPerSec ≤ getBits v 0 30 then s.writeSome m .tsu a v (fun _ => false) 0x80 n else s.writeReg m .tsu a v
    | none =>
      let rate := a = R.TSU_TBn_RATE 0 || a = R.TSU_TBn_RATE 1 || a = R.TSU_CFG
      (if rate then s.markTb s.tbAdv else s).writeReg m .tsu a v

/-- A write of a register of CAD: a PERIOD out of range is discarded (R123), a timeout of 0 reads as 1 (R151). -/
def State.writeCad (s : State) (m : Master) (a : Nat) (v : Word) : State :=
  if (upto 8).any fun n => a == R.CAD_TASKn_PERIOD n then
    let p := getBits v 0 24
    let bad := decide (p < 100) || decide (10000000 < p)
    s.writeSome m .cad a v (fun _ => !bad) (if bad then 0x85 else 0) (woffOf .cad a)
  else if a = R.CAD_CHG_TIMEOUT && getBits v 0 24 = 0 then s.writeReg m .cad a (v ||| 1)
  else s.writeReg m .cad a v

/-- A write of a register of MTR: a lower BILL_ACK has no effect (R306); a snapshot channel shows another word (R283). -/
def State.writeMtr (s : State) (m : Master) (a : Nat) (v : Word) : State :=
  if a = R.MTR_BILL_ACK then
    if v.toNat < s.rd F.MTR_BILL_ACK_ACK then s.gate m .mtr a id else (s.writeReg m .mtr a v).showFree
  else
    let s1 := s.writeReg m .mtr a v
    match (List.finRange 8).find? fun (k : Fin 8) => R.MTR_SNAPk_CTL k == a with
    | some k => s1.showSnap k
    | none => s1

/-- A write of a register of NET: an invalid MODE is discarded (R337). -/
def State.writeNet (s : State) (m : Master) (a : Nat) (v : Word) : State :=
  match (upto 4).find? fun n => R.NET_PORTn_CFG n == a with
  | some n =>
    let mode := getBits v 0 2
    let bad := mode == 3 || (mode == 0 && decide (2 ≤ n))
    s.writeSome m .net a v (fun f => !(bad && f.lo == 0)) (if bad then 0x81 else 0) (woffOf .net a)
  | none => s.writeReg m .net a v

/-- The register write of a block's page, with the checks of its chapter. -/
def State.writePage (s : State) (m : Master) (b : Blk) (a : Nat) (v : Word) : State :=
  if a = R.BLK_CTRL b then s.writeCtrl m b v
  else
    match b with
    | .cad => s.writeCad m a v
    | .tsu => s.writeTsu m a v
    | .mtr => s.writeMtr m a v
    | .net => s.writeNet m a v
    | .spk =>
      let bad := a == R.SPK_PERIOD && (decide (getBits v 0 20 < 100) || decide (1000000 < getBits v 0 20))
      let bad := bad || (a == R.SPK_TIMING && !s.en .spk && !s.timingOk (getBits v 0 16) (getBits v 16 16))
      s.writeSome m .spk a v (fun _ => !bad) (if bad then 0x83 else 0) (woffOf .spk a)
    | .tdm => s.writeSome m .tdm a v (fun f => !(a == R.TDM_WIT_CFG && f.lo == 0 && s.role != 2)) 0 0
    | .fab =>
      match (List.finRange 16).find? fun (n : Fin 16) => R.FAB_QUOTAn n == a with
      | some n => s.gate m .fab a fun s => s.writeQuota n v
      | none => s.writeReg m .fab a v
    | .rtc => if a = R.RTC_TIME || a = R.RTC_DATE || a = R.RTC_YEAR then s.calWrite m a v else s.writeReg m .rtc a v
    | .pwr => if a = R.PWR_SLEEP_CMD && bitAt v 31 then s.sleepCmd m (getBits v 0 3) else s.writeReg m .pwr a v
    | .int =>
      if R.INT_SRC_CFGn 0 ≤ a && a ≤ R.INT_SRC_CFGn 127 then s.writeSrcCfg m ((a - R.INT_SRC_CFGn 0) / 4) v else s.writeReg m .int a v
    | _ => s.writeReg m b a v

/-! ## Register reads (R42, R54, R57, R58) -/

/-- Bits 15:8 of BLK_STAT that mirror the state of the block. -/
def State.statusBits (s : State) : Blk → Nat
  | .cad => (match s.activeBank with | some b => b + 2 | none => 0)
  | .slv =>
    b2n s.slv.run.isSome + 2 * b2n (s.bit F.SLV_STALL_INFO_STALLED) +
      4 * (match s.slv.run with | some j => j.queue % 4 | none => 0) + 16 * b2n s.saving
  | .can p => s.canState p
  | b => getBits (s.regGet (R.BLK_STAT b)) 8 8

/-- BLK_STAT (R45). -/
def State.statWord (s : State) (b : Blk) : Word :=
  let raw := s.regGet (R.BLK_IRQ_RAW b)
  let busy := s.stopping b || s.inSoftRst b || s.inProgress b
  BitVec.ofNat 32 (b2n busy + 2 * getBits raw 0 2 + 8 * b2n (s.stopping b) + 16 * b2n (s.bit (F.BLK_STAT_SUM_PEND b)) + 32 * b2n (s.shadowPend b) +
    256 * s.statusBits b)

/-- What the fields of a register read: shadows while they are pending, 0 for WO fields (R54, R58). -/
def State.fieldsWord (s : State) (a : Nat) : Word :=
  (fieldsAt a).foldl (fun (w : Word) f => if f.cls = .wo then w else putBits w f.lo (f.hi - f.lo + 1) (s.rdShadow ⟨a, f.lo, f.hi - f.lo + 1⟩)) 0

/-- The selected template's registers (R279). -/
def State.tplRegs (s : State) (a : Nat) : Option Word :=
  let x := s.tpl (s.rd F.SLV_TPL_SEL_TEMPLATE)
  if a = R.SLV_TPL_STATUS then some (tplWord x)
  else if a = R.SLV_TPL_INFO then
    some (BitVec.ofNat 32 (x.reason % 256 + 256 * (x.stop % 16) + 2 ^ 12 * (x.queue % 4) + 2 ^ 14 * b2n x.en + 2 ^ 15 * b2n x.cur + 2 ^ 16 * x.iter))
  else if a = R.SLV_TPL_DL_LO then some (BitVec.ofNat 32 x.deadline)
  else if a = R.SLV_TPL_DL_HI then some (BitVec.ofNat 32 (x.deadline / 2 ^ 32 % 2 ^ 16))
  else none

/-- Registers that show state held elsewhere. -/
def State.mirror (s : State) (m : Master) (b : Blk) (a : Nat) : Option Word :=
  if a = R.BLK_STAT b then some (s.statWord b)
  else if a = R.BLK_IRQ_PEND b then some (s.irqPend b)
  else
    match b with
    | .int =>
      if a = R.INT_DB_SET || a = R.INT_DB_CLR then some (s.doorbells.setWidth 32)
      else if R.INT_LEVELk 0 ≤ a && a ≤ R.INT_LEVELk 3 then some (s.levelWord ((a - R.INT_LEVELk 0) / 4))
      else if R.INT_INSERVk 0 ≤ a && a ≤ R.INT_INSERVk 3 then some (s.inservWord ((a - R.INT_INSERVk 0) / 4))
      else none
    | .cad =>
      if a = R.CAD_LANE_STAT then
        some (BitVec.ofNat 32 ((upto 4).foldl (fun n k => n + (if allCtx.any fun c => c.val / 4 == k && (s.ctxAt c).busy then 2 ^ k else 0)) 0))
      else if a = R.CAD_INST_STAT then some (BitVec.ofNat 32 (min 65535 s.cad.hold.length + 2 ^ 16 * min 65535 s.cad.poisoned.length))
      else if a = R.CAD_FORCE_CNT then
        let l := s.cad.forces.filterMap Prod.snd
        some (BitVec.ofNat 32 (l.length + 2 ^ 16 * (l.filter fun f => f.orphan).length))
      else none
    | .slv => s.tplRegs a
    | .rtc => if a = R.RTC_SEC || a = R.RTC_TIME || a = R.RTC_DATE || a = R.RTC_YEAR || a = R.RTC_SUB then some (s.rtcRead m a) else none
    | .lpe => if a = R.LPE_LOAD then some (BitVec.ofNat 32 s.lastEvals) else none
    | .bgs => if a = R.BGS_SCRUB_STAT then some (BitVec.ofNat 32 s.cover) else if a = R.BGS_TRUE_STAT then some (putBits (s.fieldsWord a) 0 16 s.trueAge) else none
    | .pwr =>
      match ([0, 1, 2, 3] : List (Fin 4)).find? fun (k : Fin 4) => R.PWR_RESs_LO k == a with
      | some k => some (BitVec.ofNat 32 (s.residency k))
      | none => none
    | _ => none

/-- The read of a LO register latches its HI register (R394, R476, R478 and the register tables of the ring and of Tandem). -/
def State.latchHi (s : State) (a : Nat) : State :=
  if a = R.EVR_SEQ_LO then s.regPut R.EVR_SEQ_HI (BitVec.ofNat 32 (s.evr.seq / 2 ^ 32 % 2 ^ 16))
  else if a = R.SPK_PASS_LO then s.regPut R.SPK_PASS_HI (BitVec.ofNat 32 (s.spk.departed / 2 ^ 32 % 2 ^ 16))
  else if a = R.TDM_OFS_LO then s.regPut R.TDM_OFS_HI (BitVec.ofInt 32 (s.tdm.ofs / 2 ^ 32))
  else if a = R.PWR_FW_TICKS_LO then s.regPut R.PWR_FW_TICKS_HI (BitVec.ofNat 32 (s.pwr.fw / 2 ^ 32 % 2 ^ 16))
  else
    match ([0, 1, 2, 3] : List (Fin 4)).find? fun (k : Fin 4) => R.PWR_RESs_LO k == a with
    | some k => s.regPut (R.PWR_RESs_HI k) (BitVec.ofNat 32 (s.residency k / 2 ^ 32))
    | none => s

/-- The RC fields of a register clear once read (R57). -/
def State.clearRc (s : State) (a : Nat) : State :=
  (fieldsAt a).foldl (fun (s : State) f => if f.cls = .rc then s.wr ⟨a, f.lo, f.hi - f.lo + 1⟩ 0 else s) s

/-- A 32-bit read of a register page: the value of the register, its RC fields cleared and its HI register latched; during a soft reset
the reset value, with SOFT_RST and BUSY (R45, R47). -/
def State.regRead (s : State) (m : Master) (a : Nat) : State :=
  match blkAt a with
  | none => if a % 4 = 0 && decide (0x10000000 ≤ a) && decide (a < 0x10180000) then s.reply 0 else s.replyErr
  | some b =>
    if a % 4 ≠ 0 || s.unreachable b then s.replyErr
    else if s.inSoftRst b then s.reply (regReset a ||| (if a = R.BLK_CTRL b then 2 else if a = R.BLK_STAT b then 1 else 0))
    else if a = R.SLV_TILE_STAT then
      let (v, s1) := s.draw
      let (ph, s2) := s1.draw
      s2.reply (match s.slv.run with
        | none => 0
        | some j =>
          let on := j.tiles (s.rd F.SLV_CFG_TILES_EN) (if j.phase = 1 then 1 + ph % 6 else j.phase)
          BitVec.ofNat 32 ((upto 8).foldl (fun x n => if on.contains n && v.testBit n then x + 2 ^ n else x) 0))
    else if a = R.FIO_DI_RAW then
      let (v, s1) := s.draw
      s1.reply (BitVec.ofNat 32 (v % 2 ^ 24))
    else if a = R.SLV_RUN && s.slv.run.any (fun j => j.phase == 1) then
      let (v, s1) := s.draw
      s1.reply ((s.fieldsWord a &&& 0xFFFFC3FF) ||| BitVec.ofNat 32 (2 ^ 10 * (1 + v % 6)))
    else ((s.clearRc a).latchHi a).reply ((s.mirror m b a).getD (s.fieldsWord a))

/-! ## Accesses that reach no register (R37, R40, R41) -/

/-- The host attributes of R36: an access of that kind to that address is served. -/
def accessOk (a : Nat) (k : Access) : Bool :=
  if a < 0x20000 then k == .read || k == .fetch
  else if inSram a || inDram a then true
  else if inAon a then k == .read || (k == .write && decide (a < 0x8068000))
  else if inCadMem a || inTiles a || (decide (0x10000000 ≤ a) && decide (a < 0x10180000)) then k == .read || k == .write
  else false

/-- UNMAPPED_ACCESS (R37): an error response; nothing changes. -/
def execUnmappedAccess (_m : Master) (a : BitVec 40) (k : Access) (s : State) : Out := .next (if accessOk a.toNat k then s else s.replyErr)

/-- REG_BAD_WIDTH (R40): an error response; no register changes. -/
def execRegBadWidth (_m : Master) (a : BitVec 40) (width : Nat) (_k : Access) (s : State) : Out :=
  .next (
    if decide (0x10000000 ≤ a.toNat) && decide (a.toNat < 0x10180000) && !(width == 4 && a.toNat % 4 == 0) then s.replyErr else s)

/-- REG_ACCESS_POWERED_OFF (R41): an error response; the access never reaches the block. -/
def execRegAccessPoweredOff (_m : Master) (a : BitVec 40) (_k : Access) (s : State) : Out :=
  .next (match blkAt a.toNat with | some b => if s.unreachable b then s.replyErr else s | none => s)

end Sys2Proof.Machine
end

