-- ==== Sys2Proof/Machine/RegCmd.lean ====
section
/-! DEFINITION. The commands that a write of a register word gives (R52): a word with GO, a request bit or a mark to clear has the effect of
the command it spells, beside the plain fields of the same word; and the reads that are commands (R57). -/

namespace Sys2Proof.Machine

/-- The state that a meaning answers. -/
def State.run (s : State) (k : State → Out) : State :=
  match k s with
  | .next t => t
  | _ => s

/-- The index of an indexed register at an address. -/
def idxAt {n : Nat} (r : Fin n → Nat) (a : Nat) : Option (Fin n) := (List.finRange n).find? fun k => r k == a

/-- The GO commands of CAD. -/
def State.cadCommand (s : State) (m : Master) (a : Nat) (v : Word) : Option State :=
  let op := getBits v 4 3
  let t : Fin 8 := Fin.ofNat 8 (getBits v 0 3)
  if !bitAt v 31 then none
  else if a = R.CAD_LOADCMD then some (s.run (execLoad m (Fin.ofNat 2 (getBits v 0 1))))
  else if a = R.CAD_INST_CMD then
    match getBits v 16 3 with
    | 1 => some (s.run (execInstEnable m (wordField v.toNat 0 16)))
    | 2 => some (s.run (execColdInit m (wordField v.toNat 0 16)))
    | _ => none
  else if a = R.CAD_TASK_CMD then
    match op with
    | 1 => some (s.run (execStart m t))
    | 2 => some (s.run (execStop m t))
    | 3 => some (s.run (execRestart m t))
    | 4 => some (s.run (execRestartCold m t))
    | 5 => some (s.run (execClrOvr m t))
    | _ => none
  else if a = R.CAD_START then
    some (s.run (if bitAt v 0 then execWarmStart m (wordField v.toNat 8 8) else execColdStart m (wordField v.toNat 8 8)))
  else if a = R.CAD_RET_CMD then some (s.run (if bitAt v 0 then execRetSaveNow m else execRetSaveWait m))
  else if a = R.CAD_FORCE_CMD then
    match getBits v 16 3 with
    | 1 => some (s.run (execForceSet m (wordField v.toNat 12 3)))
    | 2 => some (s.run (execForceRelease m))
    | 3 => some (s.run (execRearm m))
    | 4 => some (s.run (execForceRead m (wordField v.toNat 0 12)))
    | 5 => some (s.run (execReleaseAll m))
    | 6 => some (s.run (execNextOrphan m (wordField v.toNat 0 12)))
    | _ => none
  else if a = R.CAD_CHG_CMD then
    match getBits v 0 2 with
    | 1 => some (s.run (execArm m (bitAt v 4)))
    | 2 => some (s.run (execCancel m))
    | _ => none
  else (idxAt (fun n : Fin 8 => R.CAD_EXC_FLAGSn n) a).map fun n => s.run (execExcCntClr m n (wordField v.toNat 0 31))

/-- The GO commands of SLV. -/
def State.slvCommand (s : State) (m : Master) (a : Nat) (v : Word) : Option State :=
  if !bitAt v 31 then none
  else if a = R.SLV_TPL_CMD then
    match getBits v 8 2 with
    | 1 => some (s.run (execTplReload m (wordField v.toNat 0 8)))
    | 2 => some (s.run (execReloadAll m))
    | _ => none
  else if a = R.SLV_SUBMIT then some (s.run (execSlvSubmit m (wordField v.toNat 0 8) (wordField v.toNat 8 23)))
  else if a = R.SLV_CMD then
    match getBits v 8 3 with
    | 1 => some (s.run (execAbort m (wordField v.toNat 0 8)))
    | 2 => some (s.run (execResume m))
    | 3 => some (s.run (execAbortStalled m))
    | 4 => some (s.run (execInvalidate m (wordField v.toNat 0 8)))
    | _ => none
  else none

/-- The commands of SPK and LPE. -/
def State.loopCommand (s : State) (m : Master) (a : Nat) (v : Word) : Option State :=
  let n : Fin 64 := Fin.ofNat 64 (getBits v 0 6)
  if a = R.LPE_GRD_CFG then
    if bitAt v 31 = s.bit F.LPE_GRD_CFG_SAFE_ALL then none
    else
      let s1 := s.run (execSafeAll m (bitAt v 31))
      some (s1.writePage m .lpe a (putBits v 31 1 (s1.rd F.LPE_GRD_CFG_SAFE_ALL)))
  else if !bitAt v 31 then none
  else if a = R.SPK_TBL_CMD then
    match getBits v 12 2 with
    | 1 => some (s.run (execTblReload m (wordField v.toNat 0 10)))
    | 2 => some (s.run (execRepack m))
    | _ => none
  else if a = R.LPE_SLOT_CMD then
    match getBits v 8 3 with
    | 1 => some (s.run (execSlotEnable m n))
    | 2 => some (s.run (execSlotDisable m n))
    | 3 => some (s.run (execSlotReload m n))
    | _ => none
  else if a = R.LPE_GRD_CMD && getBits v 0 2 = 1 then some (s.run (execGrdLoad m))
  else none

/-- The commands of MTR. -/
def State.mtrCommand (s : State) (m : Master) (a : Nat) (v : Word) : Option State :=
  let lane : BitVec 11 := wordField v.toNat 0 11
  if !bitAt v 31 then none
  else if a = R.MTR_LANE_CMD then
    match getBits v 16 2 with
    | 1 => some (s.run (execLaneEnable m lane))
    | 2 => some (s.run (execLaneDisable m lane))
    | 3 => some (s.run (execLaneReload m lane))
    | _ => none
  else if a = R.MTR_LANE_CLR then some (s.run (execLaneClr m lane))
  else (idxAt (fun k : Fin 8 => R.MTR_SNAPk_CTL k) a).map fun k => s.run (execSnap m k lane (wordField v.toNat 12 2))

/-- The commands of NET and TSU. -/
def State.netCommand (s : State) (m : Master) (a : Nat) (v : Word) : Option State :=
  match idxAt (fun q : Fin 2 => R.NET_CPUq_IDX q) a with
  | some q => some (s.run (execCpuTail m q (wordField v.toNat 16 16)))
  | none =>
    if !bitAt v 31 then none
    else if a = R.NET_BR_CFG then some ((s.writePage m .net a v).run (execBrFlush m))
    else
      match idxAt (fun n : Fin 4 => R.TSU_TBn_ADJ_CMD n) a with
      | none => none
      | some n =>
        match getBits v 16 3 with
        | 1 => some (s.run (execStep m n (wordField v.toNat 0 16)))
        | 2 => some (s.run (execSet m n (wordField v.toNat 0 16)))
        | 3 => some (s.run (execSlew m n (wordField v.toNat 0 16)))
        | _ => none

/-- The commands of a CAN port: each request or abort bit of CAN_TX_CMD, then RX_ACK. -/
def State.canCommand (s : State) (m : Master) (p : Fin 4) (a : Nat) (v : Word) : Option State :=
  if a = R.CAN_TX_CMD p then
    let one (k : Fin 3 → State → Out) (lo : Nat) (s : State) : State :=
      (List.finRange 3).foldl (fun (s : State) b => if bitAt v (lo + b.val) then s.run (k b) else s) s
    if getBits v 0 3 = 0 && getBits v 4 3 = 0 then none else some (one (fun b => execTxAbort m p b) 4 (one (fun b => execTxReq m p b) 0 s))
  else if a = R.CAN_RX_ACK p then some (s.run (execRxAck m p (wordField v.toNat 0 7)))
  else none

/-- The commands of TDM. What a JOIN sends of the partner's programs is open here. Log entry 78 (DESIGN CHOICE). -/
def State.tdmCommand (s : State) (m : Master) (a : Nat) (v : Word) : Option State :=
  if a ≠ R.TDM_CMD || !bitAt v 31 then none
  else
    match getBits v 0 3 with
    | 1 =>
      let (x, s1) := s.draw
      let (y, s2) := s1.draw
      let (z, s3) := s2.draw
      some (s3.run (execJoin m (BitVec.ofNat 256 x) (BitVec.ofNat 256 y) (BitVec.ofNat 32 z) (BitVec.ofNat 32 (z / 2 ^ 32))))
    | 2 => some (s.run (execLeave m))
    | 3 => some (s.run (execTdmFault m))
    | 4 => some (s.run (execClrFault m))
    | _ => none

/-- The commands of EVR, KST, XLT and NFM. -/
def State.storeCommand (s : State) (m : Master) (a : Nat) (v : Word) : Option State :=
  if a = R.XLT_PIN_CFG then some (s.run (execPinCfg m v))
  else if a = R.XLT_PIN_SEL then some (s.run (execPinSel m v))
  else if !bitAt v 31 then none
  else if a = R.EVR_CMD then
    match getBits v 0 3 with
    | 1 => some (s.run (execEvrFlush m))
    | 2 => some (s.run (execSeek m))
    | 3 => some (s.run (execNext m))
    | 4 => some (s.run (execEvrNonce m))
    | 5 => some (s.run (execClear m))
    | _ => none
  else if a = R.KST_CMD then
    let op := getBits v 8 5
    if 1 ≤ op && op ≤ 17 then some (s.kstCmd m op (Fin.ofNat 32 (getBits v 0 5))) else none
  else if a = R.XLT_CMD then some (s.run (execInval m (wordField v.toNat 0 5)))
  else if a = R.NFM_CMD then
    let op := getBits v 4 3
    if 1 ≤ op && op ≤ 4 then some (s.nfmCmd m op (getBits v 0 4)) else none
  else (idxAt (fun c : Fin 8 => R.EVR_POSTc_CMD c) a).map fun c => s.run (execPost m c (wordField v.toNat 0 16) (wordField v.toNat 16 3) (bitAt v 19))

/-- The commands of PNL, RTC and FIO. Where in its second the RTC stands at a write is open. Log entry 78 (DESIGN CHOICE). -/
def State.fieldCommand (s : State) (m : Master) (a : Nat) (v : Word) : Option State :=
  if a = R.FIO_DO_INHIBIT then some (s.run (execDoInhibit m v))
  else if a = R.FIO_DO_DIAG then some (s.run (execDoDiag m v))
  else if a = R.RTC_CTL then
    if bitAt v 0 then let (x, s1) := s.draw; some (s1.run (execHalt m (BitVec.ofNat 15 x))) else some (s.run (execHaltRelease m))
  else if a = R.RTC_SEC then let (x, s1) := s.draw; some (s1.run (execRtcSecWrite m v (BitVec.ofNat 15 x)))
  else if a = R.RTC_PER then some (s.run (execRtcPerWrite m v))
  else if !bitAt v 31 then none
  else if a = R.PNL_PWR_CMD then
    match getBits v 0 2 with
    | 1 => some (s.run (execPnlOn m))
    | 2 => some (s.run (execPnlOff m))
    | _ => none
  else if a = R.PNL_UPD_CMD then some (s.run (execUpdCmd m (wordField v.toNat 0 8)))
  else if a = R.PNL_AON_CMD then some (s.run (execAonLoad m))
  else none

/-- The doorbells and completions of INT. -/
def State.intCommand (s : State) (m : Master) (a : Nat) (v : Word) : Option State :=
  if a = R.INT_DB_SET then some (s.run (execDbSet m (v.setWidth 8)))
  else if a = R.INT_DB_CLR then some (s.run (execDbClr m (v.setWidth 8)))
  else (idxAt (fun t : Fin 5 => R.INT_TGT_COMPLETEt t) a).map fun t => s.run (execComplete m t (wordField v.toNat 0 7))

/-- The command that a write of `v` gives; none where the word has plain fields alone. Log entry 4 (DESIGN CHOICE). -/
def State.wordCommand (s : State) (m : Master) (b : Blk) (a : Nat) (v : Word) : Option State :=
  match b with
  | .cad => s.cadCommand m a v
  | .slv => s.slvCommand m a v
  | .spk | .lpe => s.loopCommand m a v
  | .mtr => s.mtrCommand m a v
  | .net | .tsu => s.netCommand m a v
  | .can p => s.canCommand m p a v
  | .tdm => s.tdmCommand m a v
  | .evr | .kst | .xlt | .nfm => s.storeCommand m a v
  | .pnl | .rtc | .fio => s.fieldCommand m a v
  | .int => s.intCommand m a v
  | _ => none

/-- A 32-bit write (R40, R52): the command that the word gives, or its plain fields; a reserved page or register takes no effect and no
error (R8). A write that a soft reset discards is one error, whatever commands it spells (R49). -/
def State.regWrite (s : State) (m : Master) (a : Nat) (v : Word) : State :=
  if a % 4 ≠ 0 then s.replyErr
  else
    match blkAt a with
    | none => if decide (0x10000000 ≤ a) && decide (a < 0x10180000) then s.reply 0 else s.replyErr
    | some b => if s.inSoftRst b then s.gate m b a id else (s.wordCommand m b a v).getD (s.writePage m b a v)

/-- The command that a read of a register is (R57, R63, R328, R336, R343, R456, R486). -/
def State.readCommand (s : State) (m : Master) (a : Nat) : Option State :=
  if a = R.XLT_FAULT then some (s.run (execFaultPop m))
  else if a = R.FIO_EDGE_POP then some (s.run (execEdgePop m))
  else if a = R.RTC_SEC then let (x, s1) := s.draw; some (s1.run (execRtcSecRead m (BitVec.ofNat 15 x)))
  else if a = R.RTC_YEAR then some (s.run (execRtcYearRead m))
  else
    match idxAt (fun t : Fin 5 => R.INT_TGT_CLAIMt t) a with
    | some t => some (s.run (execClaim m t))
    | none =>
      match idxAt (fun n : Fin 4 => R.TSU_TBn_NS n) a with
      | some n => some (s.run (execTbReadLatch m n))
      | none => (idxAt (fun n : Fin 4 => R.TSU_TCn_NS n) a).map fun n => s.run (execTcPop m n)

/-- RC_READ (R57): a 32-bit read of a register, with what the read itself does. Log entry 4 (DESIGN CHOICE). -/
def execRcRead (m : Master) (a : BitVec 40) (s : State) : Out := .next ((s.readCommand m a.toNat).getD (s.regRead m a.toNat))

end Sys2Proof.Machine
end

