-- ==== Sys2Proof/Machine/Sys.lean ====
section
/-! DEFINITION. Device resets, the boot sequence, the configuration copies and the firmware images (R518 to R527). -/

namespace Sys2Proof.Machine

/-! ## Device resets (R518, R519) -/

/-- CORE has power: the monitor and the test port work. -/
def State.coreOn (s : State) : Bool := !s.domOff.getLsbD Domain.core.idx && !s.pwr.off

/-- The registers of AON that hold live levels or are kept across a brown-out (R490, R544). -/
def keptAtPower (a : Nat) : Bool :=
  blkAt a != some .pwr || a == R.PWR_VBAT || a == R.PWR_FEED_STAT || a == R.PWR_FEEDA || a == R.PWR_FEEDB

/-- A power-on start (R330, R478, R518): TB2 starts at 0; residencies, the gap count and the power-fail outcome start afresh. -/
def State.powerUp (s : State) : State :=
  let s1 := s.deviceReset 0
  let s2 := if s1.rtc.cell then { s1 with regs := s1.regs.filter fun x => keptAtPower x.1 } else s1
  let s3 := (s2.wr F.PWR_GAP_CNT_COUNT 0).regPut R.SYS_PF_LAST 0
  { s3 with tb2 := 0, sys := { s3.sys with carry := none }, pwr := { s3.pwr with res := Vector.replicate 4 0, resAt := 0 } }

/-- What raises a cause of R518 can do so: power, an exit from HIBERNATE, a resume whose measurements are checked, the monitor and its pair,
the test port with debug open, or the return of power after the hold-up end (R460, R518). Log entry 54 (DEDUCED). -/
def State.mayReset (s : State) (cause : Fin 7) : Bool :=
  if cause = 0 then true
  else if cause = 1 then s.pwr.phase == .exiting && s.pwr.tgt == 3
  else if cause = 2 then s.pwr.resume
  else if cause = 5 then s.coreOn && s.dbgEn
  else if cause = 6 then s.sys.ended && !s.pfw
  else s.coreOn

/-- DEVICE_RESET (R460, R518, R519): a device reset with one of the causes of R518; one with HIB_WAKE restores the save set with every EN at 0. -/
def execDeviceReset (cause : Fin 7) (s : State) : Out :=
  .next (
    if !s.mayReset cause then s
    else if cause = 0 then s.powerUp
    else if cause = 1 then (s.deviceReset 1).restoreAll false []
    else s.deviceReset cause.val)

/-- POWER_ON (R330, R478, R518). Log entry 5 (DESIGN CHOICE). -/
def execPowerOn (s : State) : Out := .next s.powerUp

/-- SYS_RST_CMD (R412, R518). -/
def execSysRstCmd (m : Master) (s : State) : Out := .next (s.gate m .sys R.SYS_RST_CMD fun s => s.deviceReset 3)

/-- LOCKSTEP (R518): M0 and M1 disagree. -/
def execLockstep (s : State) : Out := .next (if s.coreOn then s.deviceReset 4 else s)

/-- TAP_RESET (R518). -/
def execTapReset (s : State) : Out := .next (if s.coreOn && s.dbgEn then s.deviceReset 5 else s)

/-! ## Configuration copies (R524 to R527) -/

/-- Pages of the NAND by key, some of which read uncorrectable in this start. -/
def nandKey (part page : Nat) : Nat := part * 2 ^ 20 + page

/-- The eight pages of a configuration copy. -/
def cfgPages (x : Fin 2) : List Nat := (upto 8).map fun k => 8 * x.val + k

/-- The bytes of a copy: the pages that SIZE spans, none where one of them was never written. -/
def State.cfgBytes (s : State) (x : Fin 2) : Option (List Byte) :=
  let page (p : Nat) : Option (List Byte) := Sparse.get s.nand.pages none (nandKey 1 p)
  match page (8 * x.val) with
  | none => none
  | some b =>
    let n := min 8 ((leAt b 0xC 4 + 16383) / 16384)
    let ps := ((cfgPages x).take (max 1 n)).map page
    if ps.all Option.isSome then some (ps.flatMap fun p => p.getD []) else none

/-- A preset entry of a copy: ADDR and VALUE (R524). -/
def cfgPreset (b : List Byte) (k : Nat) : Nat × Nat :=
  let o := leAt b 0x18 4 + 8 * k
  (leAt b o 4, leAt b (o + 4) 4)

/-- An address at offset 0x040 or above within a page of R39. -/
def presetAddr (a : Nat) : Bool := a % 4 == 0 && decide (0x40 ≤ a % 0x10000) && (blkAt a).isSome

/-- The checks of R525 on the content of a copy; `serial`: the device serial. -/
def cfgValid (serial : Nat) (b : List Byte) : Bool :=
  let u (o n : Nat) : Nat := leAt b o n
  let size := u 0xC 4
  let role := u 0x10 1
  let flags := u 0x11 1
  let node := u 0x12 2
  u 0 4 == 0x4746435A && u 4 4 == 1 && decide (64 ≤ size) && decide (size ≤ 131072) && decide (size ≤ b.length) &&
    (crc32 (b.take 0x3C ++ leBytes 4 0 ++ (b.take size).drop 0x40)).toNat == u 0x3C 4 &&
    flags / 4 == 0 && node / 1024 == 0 && u 0x34 8 == 0 && decide (role ≤ 2) &&
    (role == 0) == (node == 0) && (flags % 2 == 0 || role == 0) && (u 0x24 16 == 0 || u 0x24 16 == serial) &&
    decide (u 0x14 4 ≤ 8192) && u 0x18 4 % 8 == 0 && decide (u 0x18 4 + 8 * u 0x14 4 ≤ size) && decide (u 0x1C 4 + u 0x20 4 ≤ size) &&
    (upto (u 0x14 4)).all fun k => presetAddr (cfgPreset b k).1

/-- Read a copy: 0 with its bytes when it is valid, 1 invalid, 2 unreadable (SYS_BOOT_STAT.CFG_A). Log entry 58 (DEDUCED). -/
def State.cfgCopy (s : State) (bad : List Nat) (x : Fin 2) : Nat × List Byte :=
  if (cfgPages x).any fun p => bad.contains (nandKey 1 p) then (2, [])
  else
    match s.cfgBytes x with
    | none => (1, [])
    | some b => if cfgValid s.serial b then (0, b) else (1, [])

/-- Copy X is newer than copy Y (R526). -/
def newerSeq (x y : Nat) : Bool := let d := (x + 2 ^ 32 - y) % 2 ^ 32; decide (1 ≤ d) && decide (d ≤ 2 ^ 31 - 1)

/-- Apply one preset with host rights; a monitor-only register, a BLK_CTRL or a BLK_LOCK is refused (R526). -/
def State.preset (s : State) (k a v : Nat) : State :=
  match blkAt a with
  | none => s
  | some b =>
    if monOnlyReg a || a = R.BLK_CTRL b || a = R.BLK_LOCK b then s.err .sys 0x82 k
    else { (s.regWrite .h0 a (BitVec.ofNat 32 v)) with resp := s.resp }

/-- Load a copy: role and node, TDM_CFG.MEMBER, then the presets in order (R24, R526). -/
def State.loadCfgCopy (s : State) (x : Fin 2) (b : List Byte) : State :=
  let s0 := ((s.wr F.SYS_ROLE_ROLE (leAt b 0x10 1)).wr F.SYS_ROLE_NODE (leAt b 0x12 2)).wr F.SYS_ROLE_TANDEM (leAt b 0x11 1 % 2)
  let mem := leAt b 0x11 1 / 2 % 2
  let s1 := if s0.rd F.TDM_CFG_MEMBER = mem then s0 else (s0.wr F.TDM_CFG_MEMBER mem).sumPend .tdm
  let s2 := (s1.wr F.SYS_BOOT_STAT_CFG_SRC x.val).wr F.SYS_CFG_SEQ_SEQ (leAt b 8 4)
  (upto (leAt b 0x14 4)).foldl (fun (s : State) k => s.preset k (cfgPreset b k).1 (cfgPreset b k).2) s2

/-- Neither copy is valid: station role by default (R19, R527). -/
def State.cfgDefaults (s : State) : State :=
  let s1 := ((s.wr F.SYS_ROLE_ROLE 1).wr F.SYS_ROLE_DEFAULTED 1).wrB (statFld .sys 8) true
  let s2 := s1.raise .sys 4
  s2.event .sys 4 6 (s2.regGet R.SYS_BOOT_STAT).toNat 0 0 0

/-- Record what the read of a copy gave (R525). -/
def State.cfgResult (s : State) (x : Fin 2) (r : Nat) : State :=
  let s1 := s.wr (if x = 0 then F.SYS_BOOT_STAT_CFG_A else F.SYS_BOOT_STAT_CFG_B) r
  if r = 0 then s1 else s1.err .sys 0x81 x.val

/-- The configuration load (R525 to R527). -/
def State.loadCfg (s : State) (bad : List Nat) : State :=
  let (ra, a) := s.cfgCopy bad 0
  let (rb, b) := s.cfgCopy bad 1
  let s1 := (s.cfgResult 0 ra).cfgResult 1 rb
  if ra = 0 && rb = 0 then (if newerSeq (leAt b 8 4) (leAt a 8 4) then s1.loadCfgCopy 1 b else s1.loadCfgCopy 0 a)
  else if ra = 0 then s1.loadCfgCopy 0 a
  else if rb = 0 then s1.loadCfgCopy 1 b
  else s1.cfgDefaults

/-! ## Firmware images (R425, R426, R521, R522) -/

/-- A header that passes: MAGIC, FORMAT, KIND FIRST_STAGE, VERSION, SIZE up to `most`, reserved fields 0 (R425, R521). -/
def imgHeaderOk (h : List Byte) (most : Nat) : Bool :=
  leAt h 0 4 == 0x544F425A && leAt h 4 4 == 1 && leAt h 8 4 == 0 && decide (leAt h 0xC 4 ≤ 64) && decide (leAt h 0x10 4 ≤ most) &&
    leAt h 0x14 4 == 0 && leAt h 0x18 8 / 2 ^ 40 == 0 && leAt h 0x20 8 / 2 ^ 40 == 0 && leAt h 0x48 184 == 0

/-- The hash that the public key of an image must have (R411, R426). -/
def State.bootKeyHash (s : State) : Nat :=
  if s.lc = 2 || s.lc = 3 then s.kst.bootKey else (sha3 Config.factoryKey).toNat

/-- The result of R521 for an image whose header passes: 0 OK, 2 KEY, 3 BAD_SIG, 4 PAYHASH, 5 ROLLBACK (R426). Log entry 58 (DEDUCED). -/
def State.imgResult (s : State) (h payload sig key : List Byte) : Nat :=
  if (sha3 key).toNat ≠ s.bootKeyHash then 2
  else if !mldsaVerify key (sha3 h) sig then 3
  else if (sha3 payload).toNat ≠ leAt h 0x28 32 then 4
  else if leAt h 0xC 4 < s.rd F.KST_ROLLBACK_COUNT then 5
  else 0

/-- Bytes of a signature and of a public key of ML-DSA-44 (R425). -/
def sigLen : Nat := 2420
def pubLen : Nat := 1312

/-- The largest payload of a first stage in the BOOT partition (R521). -/
def payloadMax : Nat := 2 ^ 24

/-- The header of an image slot: none where its page was never written. -/
def State.slotHeader (s : State) (x : Fin 2) : Option (List Byte) :=
  (Sparse.get s.nand.pages none (nandKey 0 (8192 * x.val))).map fun b => b.take 256

/-- The bytes of `n` pages of a slot from its first on; a page never written holds open bytes. -/
def State.slotPages (s : State) (x : Fin 2) (n : Nat) : List Byte × State :=
  (upto n).foldl (fun (r : List Byte × State) k => let (b, s1) := r.2.nandPage 0 (8192 * x.val + k); (r.1 ++ b, s1)) ([], s)

/-- Pages that a slot's image spans. -/
def imgPages (h : List Byte) : Nat := (256 + leAt h 0x10 4 + sigLen + pubLen + 16383) / 16384

/-- Try an image slot (R521): its result, and its header and payload when it is accepted. -/
def State.trySlot (s : State) (bad : List Nat) (x : Fin 2) : Nat × List Byte × List Byte × State :=
  if bad.contains (nandKey 0 (8192 * x.val)) then (6, [], [], s)
  else
    match s.slotHeader x with
    | none => (1, [], [], s)
    | some h =>
      if !imgHeaderOk h payloadMax then (1, [], [], s)
      else if (upto (imgPages h)).any fun k => bad.contains (nandKey 0 (8192 * x.val + k)) then (6, [], [], s)
      else
        let (b, s1) := s.slotPages x (imgPages h)
        let n := leAt h 0x10 4
        let payload := (b.drop 256).take n
        let sig := (b.drop (256 + n)).take sigLen
        let key := (b.drop (256 + n + sigLen)).take pubLen
        (s1.imgResult h payload sig key, h, payload, s1)

/-- A refused image: code 0x80 and IMAGE_REFUSED with purpose 2 (R428, R521). -/
def State.refuseImage (s : State) (r : Nat) : State :=
  (s.err .sys 0x80 r).send { src := 0x19, code := 0x0130, sev := 6, p0 := 2, p1 := r }

/-- An accepted first stage: copied to LOAD and measured (R426, R520). -/
def State.runImage (s : State) (h payload : List Byte) : State :=
  let a := leAt h 0x18 8
  let s1 := if isMemory a && isMemory (a + payload.length - 1) then { (s.putBytes a payload) with ue := ueCleared s.ue a payload.length } else s
  let s2 := s1.extend 0 (leBytes 32 (sha3 h).toNat)
  { s2 with kst := { s2.kst with stage := leAt h 0xC 4, entry := leAt h 0x20 8 }, pwr := { s2.pwr with stage := some (a, payload.length, leAt h 0x28 32) } }

/-- The slot tried first: the higher VERSION of those whose header fits, slot 0 on a tie (R521). -/
def State.firstSlot (s : State) (bad : List Nat) : Fin 2 :=
  let ver (x : Fin 2) : Option Nat :=
    if bad.contains (nandKey 0 (8192 * x.val)) then none
    else (s.slotHeader x).bind fun h => if leAt h 0 4 == 0x544F425A && leAt h 4 4 == 1 && leAt h 8 4 == 0 then some (leAt h 0xC 4) else none
  match ver 0, ver 1 with
  | some v, some w => if v < w then 1 else 0
  | none, some _ => 1
  | _, none => 0

/-- SYS_BOOT_STAT.RESULT0 and RESULT1. -/
def slotResult (x : Fin 2) : Fld := if x = 0 then F.SYS_BOOT_STAT_RESULT0 else F.SYS_BOOT_STAT_RESULT1

/-- Steps 7 and 8 of R520: the image slots, and recovery when both are refused (R521, R522). -/
def State.bootImage (s : State) (bad : List Nat) : State :=
  let x := s.firstSlot bad
  let y : Fin 2 := if x = 0 then 1 else 0
  match s.trySlot bad x with
  | (0, h, p, s1) => ((s1.wr (slotResult x) 0).wr F.SYS_BOOT_STAT_SLOT x.val).runImage h p
  | (r, _, _, s1) =>
    let s2 := (s1.wr (slotResult x) r).refuseImage r
    match s2.trySlot bad y with
    | (0, h, p, s3) => ((s3.wr (slotResult y) 0).wr F.SYS_BOOT_STAT_SLOT y.val).runImage h p
    | (q, _, _, s3) => (((s3.wr (slotResult y) q).refuseImage q).wr F.SYS_BOOT_STAT_RECOVERY 1).wrB (statFld .sys 9) true

/-- RESET_RELEASE (R520): the boot sequence, with PFW_N deasserted. `ticks` of XTAL_RTC passed since TB2 was latched; `entropy`: KST's
start-up tests pass; `bad`: NAND pages that read uncorrectable, as `nandKey` numbers them. Log entry 7 (DESIGN CHOICE). -/
def execResetRelease (ticks : BitVec 48) (entropy : Bool) (bad : List Nat) (s : State) : Out :=
  .next (
    if !s.sys.boot || s.pfw || s.pwr.off then s
    else
      let s0 := { s with sys := { s.sys with boot := false, carry := none } }
      let s1 := match s.sys.carry with | some latch => s0.freewheel latch ticks.toNat none | none => s0
      let s2 := ((s1.rtcStart).kstStart entropy).evrStart
      let s3 := (s2.event .sys 1 5 (s2.regGet R.SYS_RST_CAUSE).toNat 0 0 0).evalTb3
      let s4 := (s3.mtrRestore (fPFAIL ||| fSHORT ||| fLATE_SEAL) bad).loadCfg bad
      (s4.wrB F.PNL_PWR_STAT_AON_VALID (s4.aonEn && s4.aonOk)).bootImage bad)

/-- SYS_BOOT_CMD (R522): the recovery image in shared SRAM, at most 4 MiB. Log entry 58 (DEDUCED). -/
def execSysBootCmd (m : Master) (s : State) : Out :=
  .next (s.gate m .sys R.SYS_BOOT_CMD fun s =>
    if !s.bit F.SYS_BOOT_STAT_RECOVERY then s
    else
      let h := s.bytes 0x1000000 256
      let n := leAt h 0x10 4
      let payload := s.bytes 0x1000100 n
      let r := if !imgHeaderOk h (2 ^ 22 - 256 - sigLen - pubLen) then 1
        else s.imgResult h payload (s.bytes (0x1000100 + n) sigLen) (s.bytes (0x1000100 + n + sigLen) pubLen)
      let s1 := s.wr F.SYS_BOOT_STAT_RESULT_REC r
      if r = 0 then ((s1.wr F.SYS_BOOT_STAT_RECOVERY 0).wrB (statFld .sys 9) false).runImage h payload
      else s1.refuseImage r)

/-- The stages verified under public slot 3 are measured before they run: MONITOR in register 1, HOST in register 2; of which kind an image is
the key store is not told (R426). Log entry 52 (DEDUCED). -/
def State.measureStages (s : State) : State :=
  s.kst.staged.foldl (fun (s : State) h => let (v, s1) := s.draw; s1.extend (1 + v % 2) (leBytes 32 h)) { s with kst := { s.kst with staged := [] } }

/-- SYS_HOST_GO (R426, R523): bit k releases host core k at SYS_HOST_ENTRY, the stages measured. -/
def execSysHostGo (m : Master) (v : BitVec 4) (s : State) : Out :=
  .next (s.gate m .sys R.SYS_HOST_GO fun s => (s.regPut R.SYS_HOST_GO (s.regGet R.SYS_HOST_GO ||| v.setWidth 32)).measureStages)

/-- REG_WRITE (R40, R52): a 32-bit write; the commands of SYS are looked at first. Log entry 4 (DESIGN CHOICE). -/
def execRegWrite (m : Master) (a : BitVec 40) (v : Word) (s : State) : Out :=
  .next (
    if a.toNat = R.SYS_RST_CMD && bitAt v 31 then s.run (execSysRstCmd m)
    else if a.toNat = R.SYS_BOOT_CMD && bitAt v 31 then s.run (execSysBootCmd m)
    else if a.toNat = R.SYS_HOST_GO && getBits v 0 4 != 0 then s.run (execSysHostGo m (v.setWidth 4))
    else s.regWrite m a.toNat v)

end Sys2Proof.Machine
end

