-- ==== Sys2Proof/Machine/Fabric.lean ====
section
/-! DEFINITION. Fabric transactions (R31, R36, R37, R430 to R438): items in the four channels, the order in which they are served, the
accesses of cores by physical address and of other masters through their contexts, and time-outs. -/

namespace Sys2Proof.Machine

/-! ## Accesses by physical address (R36, R37, R430) -/

/-- The master of an access of a core port or the SPI port. -/
def portMaster (port : Fin 16) (sub : Fin 4) : Master :=
  if port = 0 then (if sub = 0 then .h0 else if sub = 1 then .h1 else if sub = 2 then .h2 else .h3) else if port = 1 then .mon else .spi

/-- An access to a register page: one aligned word, no fetch, no atomic (R36). -/
def State.pageAccess (s : State) (m : Master) (a : Nat) (op : FabOp) : State × Option (List Byte) :=
  let answer (t : State) : State × Option (List Byte) :=
    ({ t with resp := s.resp }, if t.resp.err then none else some (leBytes 4 t.resp.data.toNat))
  match op with
  | .read n => if n = 4 && a % 4 = 0 then answer (s.run (execRcRead m (BitVec.ofNat 40 a))) else (s, none)
  | .write d =>
    if d.length = 4 && a % 4 = 0 then answer (s.run (execRegWrite m (BitVec.ofNat 40 a) (BitVec.ofNat 32 (leNat d)))) else (s, none)
  | _ => (s, none)

/-- Every byte of an access lies in one kind of region. -/
def bothIn (p : Nat → Bool) (a n : Nat) : Bool := p a && p (a + n - 1)

/-- Read memory by physical address; an uncorrectable word answers an error (R440). -/
def State.readAt (s : State) (a n : Nat) : State × Option (List Byte) :=
  match s.ueIn a n with
  | some w => (s.ueSeen w, none)
  | none => let (b, s1) := s.memRead a n; (s1, some b)

/-- The new value of an atomic operation on `w` bits. -/
def amoVal (f : Amo) (w old v : Nat) : Nat :=
  let sx (n : Nat) : Int := if n < 2 ^ (w - 1) then n else (n : Int) - 2 ^ w
  match f with
  | .swap => v
  | .add => (old + v) % 2 ^ w
  | .xor => old ^^^ v
  | .and => old &&& v
  | .or => old ||| v
  | .min => if sx v < sx old then v else old
  | .max => if sx old < sx v then v else old
  | .minu => min old v
  | .maxu => max old v

/-- Shared SRAM and DRAM take LR, SC, atomics and fetches (R36). -/
def mainMem (a : Nat) : Bool := inSram a || inDram a

/-- LR, SC and atomics of the host cores and the monitor (R36, R38): aligned, in shared SRAM or DRAM; SC answers 0 where its bytes lie in the
reservation that the core holds, else 1. Log entry 79 (PRESUMED). -/
def State.atomic (s : State) (port : Fin 16) (sub : Fin 4) (a : Nat) (op : FabOp) : State × Option (List Byte) :=
  let n := opLen op
  let mine (r : Resv) : Bool := r.port == port && r.sub == sub
  if 1 < port.val || !bothIn mainMem a n || a % n ≠ 0 || (n ≠ 4 && n ≠ 8) then (s, none)
  else
    match op with
    | .sc d =>
      let held := s.resv.any fun r => mine r && decide (r.at_ ≤ a) && decide (a + n ≤ r.at_ + r.len)
      let s1 := { s with resv := s.resv.filter fun r => !mine r }
      if held then (s1.store a d, some (leBytes n 0)) else (s1, some (leBytes n 1))
    | .lr _ =>
      match s.readAt a n with
      | (s1, some b) => ({ s1 with resv := (s1.resv.filter fun r => !mine r) ++ [⟨port, sub, a, n⟩] }, some b)
      | (s1, none) => (s1, none)
    | .amo f d =>
      match s.readAt a n with
      | (s1, some b) => (s1.store a (leBytes n (amoVal f (8 * n) (leNat b) (leNat d))), some b)
      | (s1, none) => (s1, none)
    | _ => (s, none)

/-- An access of a core or the SPI port by physical address (R36, R37); the SPI port reaches register pages and shared SRAM only (R430). -/
def State.coreAccess (s : State) (port : Fin 16) (sub : Fin 4) (a : Nat) (op : FabOp) : State × Option (List Byte) :=
  let n := opLen op
  let spiOk := port.val ≠ 2 || bothIn inSram a n
  if inPages a then s.pageAccess (portMaster port sub) a op
  else
    match op with
    | .read _ => if (bothIn isMemory a n || bothIn inRom a n) && spiOk then s.readAt a n else (s, none)
    | .fetch _ => if (bothIn mainMem a n || bothIn inRom a n) && port.val ≤ 1 then s.readAt a n else (s, none)
    | .write d => if bothIn isMemory a n && !s.writeBarred a && !s.writeBarred (a + n - 1) && spiOk then (s.store a d, some []) else (s, none)
    | _ => s.atomic port sub a op

/-- What comes of an access: the data bytes that reach the master, whether it gets an error response, and the unfinished part of a burst that
port 5 keeps at a stall response (R445). -/
structure FabAnswer where
  data : List Byte := []
  err : Bool := false
  rest : Option FabItem := none
  deriving DecidableEq, Repr

/-- The answer where all or nothing comes back. -/
def wholly (r : Option (List Byte)) : FabAnswer := match r with | some b => { data := b } | none => { err := true }

/-- The answer of a burst that ends so with the bytes `d`: a fault stalls port 5, and is an error response to all others (R444, R445). -/
def burstAnswer (x : FabItem) (d : List Byte) (rest : Nat → FabOp) : BurstEnd → FabAnswer
  | .done => { data := d }
  | .error => { data := d, err := true }
  | .fault va => if x.port = 5 then { data := d, rest := some { x with at_ := va, op := rest (va - x.at_) } } else { data := d, err := true }

/-- An access through a context (R443 to R446): the beats before a fault complete. -/
def State.ctxAccess (s : State) (ctx : Nat) (x : FabItem) : State × FabAnswer :=
  match x.op with
  | .read n => let r := s.readCuts ctx (burst x.at_ n); (r.1, burstAnswer x r.2.1 (fun k => .read (n - k)) r.2.2)
  | .write d => let r := s.writeCuts ctx d (burst x.at_ d.length); (r.1, burstAnswer x [] (fun k => .write (d.drop k)) r.2)
  | _ => (s, { err := true })

/-- The access of an item. -/
def State.access (s : State) (x : FabItem) : State × FabAnswer :=
  match portCtx x.port x.sub with
  | none => let (s1, r) := s.coreAccess x.port x.sub x.at_ x.op; (s1, wholly r)
  | some c => s.ctxAccess c x

/-- The address in memory of the aligned 64-bit word that holds an item's byte at `a`. -/
def State.wordOf (s : State) (x : FabItem) (a : Nat) : Option Nat :=
  let pa := match portCtx x.port x.sub with
    | none => some a
    | some c => match (s.xlate c (opWrites x.op) a).2 with
      | .ok pa => some pa
      | .bad _ => none
  pa.bind fun pa => if isMemory pa then some (pa / 8 * 8) else none

/-- The controller reads the word `w` (from its first byte's address) for an access of `n` bytes at `a`: for every read, and for a write that
covers it in part (R439, R440). -/
def readsWord (op : FabOp) (a n w : Nat) : Bool :=
  match op with
  | .write _ => !(decide (a ≤ w) && decide (w + 8 ≤ a + n))
  | .sc _ => !(decide (a ≤ w) && decide (w + 8 ≤ a + n))
  | _ => true

/-- What an access that is not refused finds of its words (R440): a corrected error is counted, an uncorrectable one marks the word.
Log entry 53 (DEDUCED). -/
def State.meets (s : State) (x : FabItem) (ecc : List EccFate) : State :=
  let n := opLen x.op
  let a0 := x.at_ / 8 * 8
  if (s.access x).2.err then s
  else
    (upto ((x.at_ + n - a0 + 7) / 8)).foldl (fun (s : State) k =>
      let w := a0 + 8 * k
      match ecc.getD k .clean, s.wordOf x (max w x.at_) with
      | .clean, _ => s
      | _, none => s
      | .corr, some pa => if !readsWord x.op x.at_ n w || (s.ueIn pa 1).isSome then s else s.ceSeen pa
      | .uncorr, some pa => if readsWord x.op x.at_ n w then s.markUe pa else s) s

/-! ## Service (R31, R432, R434) -/

/-- The class of an item at an arbiter (R432): real-time ports, the solver's save and restore traffic, the other ports. -/
def State.fabClass (s : State) (x : FabItem) : Nat := if fabRt x.port then 0 else if x.port = 5 && s.saving then 1 else 2

/-- A port's share of a round: its WEIGHT, and one item where that is 0. Log entry 79 (PRESUMED). -/
def State.shareOf (s : State) (p : Fin 16) : Nat := max 1 (s.rd (F.FAB_QUOTAn_WEIGHT p))

/-- The item that an arbiter takes (R432), with the round robin's shares after it. Log entry 79 (PRESUMED). -/
def State.arbitrate (s : State) (l : List FabItem) : Option (FabItem × Vector Nat 16) :=
  match l.find? fun x => s.fabClass x == 0 with
  | some x => some (x, s.fab.share)
  | none =>
    match l.find? fun x => s.fabClass x == 1 with
    | some x => some (x, s.fab.share)
    | none =>
      let sh := if l.any fun x => decide (0 < s.fab.share[x.port]) then s.fab.share else Vector.ofFn s.shareOf
      match (List.finRange 16).find? fun p => decide (0 < sh[p]) && l.any fun x => x.port == p with
      | none => none
      | some p => (l.find? fun x => x.port == p).map fun x => (x, sh.set p (sh[p] - 1))

/-- What a master receives first of an answer: the low bytes, and whether it is an error response. -/
def FabAnswer.resp (r : FabAnswer) : Resp := { data := BitVec.ofNat 32 (leNat (r.data.take 4)), err := r.err }

/-- The data bytes that PFM counts (R510): an error response carries none, a stalled burst those of the beats that completed. -/
def FabAnswer.bytes (r : FabAnswer) (x : FabItem) : Nat :=
  if r.err then 0 else match r.rest with | none => opLen x.op | some y => opLen x.op - opLen y.op

/-- The unfinished part of a stalled burst stays with port 5, whose running job stalls (R276, R445). Log entry 53 (DEDUCED). -/
def State.keep (s : State) (r : FabAnswer) : State :=
  match r.rest with
  | none => s
  | some y =>
    let s1 := { s with fab := { s.fab with kept := s.fab.kept ++ [y] } }
    match s1.slv.run, s1.slv.stall with
    | some j, none => s1.stallJob j.tpl .iterate (opWrites y.op) y.at_
    | _, _ => s1

/-- A write from a PF or PW buffer: done at once, its tag freed and counted as it is accepted (R431, R434, R510). -/
def State.acceptWrite (s : State) (x : FabItem) (ecc : List EccFate) (lat : Nat) : State :=
  let (s1, r) := (s.meets x ecc).access x
  ({ (s1.keep r) with resp := r.resp }.pfmCount x.port true (r.bytes x) lat).showUse

/-- A REQ item reaches its target, whose response goes to RSP. -/
def State.serveReq (s : State) (x : FabItem) (ecc : List EccFate) (lat : Nat) : State :=
  let (s1, r) := (s.meets x ecc).access x
  let s2 := s1.keep r
  { s2 with fab := { s2.fab with rsp := s2.fab.rsp ++ [{ port := x.port, resp := r.resp, data := r.data, wr := opWrites x.op, bytes := r.bytes x, lat := lat }] } }

/-- What REQ holds: items, and the walks whose next table read is not yet under way. -/
def Fab.reqs (f : Fab) : List FabItem := f.req ++ (f.walks.filter fun w => !w.sent).map (·.item)

/-- Table reads of a walk under way for an item: the first such walk, changed by `f`. -/
def mapWalk (x : FabItem) (sent : Bool) (f : FabWalk → FabWalk) : List FabWalk → List FabWalk
  | [] => []
  | w :: t => if w.item == x && w.sent == sent then f w :: t else w :: mapWalk x sent f t

/-- A table read of a walk: its response goes to RSP. -/
def State.serveWalk (s : State) (x : FabItem) (lat : Nat) : State :=
  { s with fab := { s.fab with
      walks := mapWalk x false (fun w => { w with sent := true }) s.fab.walks
      rsp := s.fab.rsp ++ [{ port := x.port, resp := {}, data := [], wr := false, bytes := 0, lat := lat, walk := some x }] } }

/-- XLT takes a table entry: the next read of the walk, or the walk's tag is free and the access that it served enters its channel (R434). -/
def State.walked (s : State) (x : FabItem) : State :=
  let l := mapWalk x true (fun w => { w with sent := false, reads := w.reads - 1 }) s.fab.walks
  let s1 := { s with fab := { s.fab with walks := l.filter fun w => w.reads != 0 } }
  if s1.fab.walks.length < l.length then s1.enter x else s1

/-- A response reaches its master, or XLT; its tag is free (R431, R510). -/
def State.deliverRsp (s : State) (r : FabRsp) : State :=
  (match r.walk with
   | some x => s.pfmCount r.port false 0 r.lat |>.walked x
   | none => { s with resp := r.resp, fab := { s.fab with data := r.data } }.pfmCount r.port r.wr r.bytes r.lat).showUse

/-- The next item in the drain order PF, RSP, PW, REQ (R434). A REQ item that its target leaves unanswered waits (R436); memory answers every
table read. Log entries 53 (DEDUCED), 86 (DESIGN CHOICE). -/
def State.serveNext (s : State) (ecc : List EccFate) (answered : Bool) (lat : Nat) : State :=
  match s.fab.pf, s.fab.rsp with
  | x :: t, _ => { s with fab := { s.fab with pf := t } }.acceptWrite x ecc lat
  | [], r :: t => { s with fab := { s.fab with rsp := t } }.deliverRsp r
  | [], [] =>
    match s.arbitrate s.fab.pw with
    | some (x, sh) => { s with fab := { s.fab with pw := s.fab.pw.erase x, share := sh } }.acceptWrite x ecc lat
    | none =>
      match s.arbitrate s.fab.reqs with
      | none => s
      | some (x, sh) =>
        if !s.fab.req.contains x then { s with fab := { s.fab with share := sh } }.serveWalk x lat
        else
          let s1 := { s with fab := { s.fab with req := s.fab.req.erase x, share := sh } }
          if answered then s1.serveReq x ecc lat
          else { s1 with fab := { s1.fab with waits := s1.fab.waits ++ [⟨x.port, opWrites x.op, s.nowNs⟩] } }

/-- FABRIC_TRANSACTION (R430 to R434, R440, R510): a master issues an item, or the fabric serves the next. Log entry 53 (DEDUCED). -/
def execFabricTransaction (x : FabStep) (s : State) : Out :=
  .next (match x with
    | .issue port sub a op flush => s.issueItem ⟨port, sub, a, op, flush⟩
    | .serve ecc answered lat => s.serveNext ecc answered lat)

/-- FAB_TIMEOUT (R436, R510): after 100 µs the fabric ends the port's oldest transaction with an error response; `lat`: its latency. -/
def execFabTimeout (port : Fin 16) (lat : Nat) (s : State) : Out :=
  .next (
    match s.fab.waits.find? fun x => x.port == port with
    | none => s
    | some x =>
      if s.nowNs < x.at_ + 100000 then s
      else
        let s1 := { s with fab := { s.fab with waits := s.fab.waits.erase x }, bgs := { s.bgs with timeouts := s.bgs.timeouts + 1 } }
        (((s1.pfmCount port x.wr 0 lat).showUse.raise .fab 2).err .fab 0x80 port).replyErr)

end Sys2Proof.Machine
end

