-- ==== Sys2Proof/Machine/Dispatch.lean ====
section
/-! DEFINITION. The dispatch: one arm per command, each one direct call of that command's meaning. -/

namespace Sys2Proof.Machine

/-- The effect of a command on everything but the queue. -/
def exec (i : Instr) (s : State) : Host.Outcome State Fault Refusal :=
  match i with
  | .regWrite m a v => Sys2Proof.Machine.execRegWrite m a v s
  | .rcRead m a => Sys2Proof.Machine.execRcRead m a s
  | .unmappedAccess m a k => Sys2Proof.Machine.execUnmappedAccess m a k s
  | .regBadWidth m a width k => Sys2Proof.Machine.execRegBadWidth m a width k s
  | .regAccessPoweredOff m a k => Sys2Proof.Machine.execRegAccessPoweredOff m a k s
  | .blkEnable m b => Sys2Proof.Machine.execBlkEnable m b s
  | .blkStop m b => Sys2Proof.Machine.execBlkStop m b s
  | .stopBoundary b => Sys2Proof.Machine.execStopBoundary b s
  | .softRst m b => Sys2Proof.Machine.execSoftRst m b s
  | .freeze m b on => Sys2Proof.Machine.execFreeze m b on s
  | .cfgLock m b => Sys2Proof.Machine.execCfgLock m b s
  | .ctrlLock m b => Sys2Proof.Machine.execCtrlLock m b s
  | .forceLock m => Sys2Proof.Machine.execForceLock m s
  | .chgLock m => Sys2Proof.Machine.execChgLock m s
  | .cfgsumUpdate b => Sys2Proof.Machine.execCfgsumUpdate b s
  | .claim m t => Sys2Proof.Machine.execClaim m t s
  | .complete m t src => Sys2Proof.Machine.execComplete m t src s
  | .dbSet m v => Sys2Proof.Machine.execDbSet m v s
  | .dbClr m v => Sys2Proof.Machine.execDbClr m v s
  | .intSrcCfg m n v => Sys2Proof.Machine.execIntSrcCfg m n v s
  | .lds c reg slot => Sys2Proof.Machine.execLds c reg slot s
  | .ldsSt c reg slot => Sys2Proof.Machine.execLdsSt c reg slot s
  | .sts c reg slot q => Sys2Proof.Machine.execSts c reg slot q s
  | .qtst c reg slot l => Sys2Proof.Machine.execQtst c reg slot l s
  | .qtstF c reg slot => Sys2Proof.Machine.execQtstF c reg slot s
  | .ldsx c rd rs1 => Sys2Proof.Machine.execLdsx c rd rs1 s
  | .ldsxSt c rd rs1 => Sys2Proof.Machine.execLdsxSt c rd rs1 s
  | .stsx c rs1 rs2 q => Sys2Proof.Machine.execStsx c rs1 rs2 q s
  | .ldw c rd rs1 imm => Sys2Proof.Machine.execLdw c rd rs1 imm s
  | .ldh c rd rs1 imm => Sys2Proof.Machine.execLdh c rd rs1 imm s
  | .ldb c rd rs1 imm => Sys2Proof.Machine.execLdb c rd rs1 imm s
  | .stw c rd rs1 imm => Sys2Proof.Machine.execStw c rd rs1 imm s
  | .sth c rd rs1 imm => Sys2Proof.Machine.execSth c rd rs1 imm s
  | .stb c rd rs1 imm => Sys2Proof.Machine.execStb c rd rs1 imm s
  | .ldk c rd imm => Sys2Proof.Machine.execLdk c rd imm s
  | .ldkh c rd imm => Sys2Proof.Machine.execLdkh c rd imm s
  | .add c rd rs1 rs2 => Sys2Proof.Machine.execAdd c rd rs1 rs2 s
  | .sub c rd rs1 rs2 => Sys2Proof.Machine.execSub c rd rs1 rs2 s
  | .adds c rd rs1 rs2 => Sys2Proof.Machine.execAdds c rd rs1 rs2 s
  | .subs c rd rs1 rs2 => Sys2Proof.Machine.execSubs c rd rs1 rs2 s
  | .and c rd rs1 rs2 => Sys2Proof.Machine.execAnd c rd rs1 rs2 s
  | .or c rd rs1 rs2 => Sys2Proof.Machine.execOr c rd rs1 rs2 s
  | .xor c rd rs1 rs2 => Sys2Proof.Machine.execXor c rd rs1 rs2 s
  | .sll c rd rs1 rs2 => Sys2Proof.Machine.execSll c rd rs1 rs2 s
  | .srl c rd rs1 rs2 => Sys2Proof.Machine.execSrl c rd rs1 rs2 s
  | .sra c rd rs1 rs2 => Sys2Proof.Machine.execSra c rd rs1 rs2 s
  | .mul c rd rs1 rs2 => Sys2Proof.Machine.execMul c rd rs1 rs2 s
  | .mulh c rd rs1 rs2 => Sys2Proof.Machine.execMulh c rd rs1 rs2 s
  | .mulhu c rd rs1 rs2 => Sys2Proof.Machine.execMulhu c rd rs1 rs2 s
  | .div c rd rs1 rs2 => Sys2Proof.Machine.execDiv c rd rs1 rs2 s
  | .divu c rd rs1 rs2 => Sys2Proof.Machine.execDivu c rd rs1 rs2 s
  | .rem c rd rs1 rs2 => Sys2Proof.Machine.execRem c rd rs1 rs2 s
  | .remu c rd rs1 rs2 => Sys2Proof.Machine.execRemu c rd rs1 rs2 s
  | .min c rd rs1 rs2 => Sys2Proof.Machine.execMin c rd rs1 rs2 s
  | .max c rd rs1 rs2 => Sys2Proof.Machine.execMax c rd rs1 rs2 s
  | .minu c rd rs1 rs2 => Sys2Proof.Machine.execMinu c rd rs1 rs2 s
  | .maxu c rd rs1 rs2 => Sys2Proof.Machine.execMaxu c rd rs1 rs2 s
  | .abs c rd rs1 => Sys2Proof.Machine.execAbs c rd rs1 s
  | .neg c rd rs1 => Sys2Proof.Machine.execNeg c rd rs1 s
  | .addi c rd rs1 imm => Sys2Proof.Machine.execAddi c rd rs1 imm s
  | .andi c rd rs1 imm => Sys2Proof.Machine.execAndi c rd rs1 imm s
  | .ori c rd rs1 imm => Sys2Proof.Machine.execOri c rd rs1 imm s
  | .xori c rd rs1 imm => Sys2Proof.Machine.execXori c rd rs1 imm s
  | .shiSll c rd rs1 n => Sys2Proof.Machine.execShiSll c rd rs1 n s
  | .shiSrl c rd rs1 n => Sys2Proof.Machine.execShiSrl c rd rs1 n s
  | .shiSra c rd rs1 n => Sys2Proof.Machine.execShiSra c rd rs1 n s
  | .slti c rd rs1 imm => Sys2Proof.Machine.execSlti c rd rs1 imm s
  | .qmul c rd rs1 rs2 n => Sys2Proof.Machine.execQmul c rd rs1 rs2 n s
  | .qdiv c rd rs1 rs2 n => Sys2Proof.Machine.execQdiv c rd rs1 rs2 n s
  | .qshl c rd rs1 n => Sys2Proof.Machine.execQshl c rd rs1 n s
  | .qshr c rd rs1 n => Sys2Proof.Machine.execQshr c rd rs1 n s
  | .qmac c rd rs1 rs2 n => Sys2Proof.Machine.execQmac c rd rs1 rs2 n s
  | .qlim c rd rs1 rs2 => Sys2Proof.Machine.execQlim c rd rs1 rs2 s
  | .fadd c rd rs1 rs2 => Sys2Proof.Machine.execFadd c rd rs1 rs2 s
  | .fsub c rd rs1 rs2 => Sys2Proof.Machine.execFsub c rd rs1 rs2 s
  | .fmul c rd rs1 rs2 => Sys2Proof.Machine.execFmul c rd rs1 rs2 s
  | .fdiv c rd rs1 rs2 => Sys2Proof.Machine.execFdiv c rd rs1 rs2 s
  | .fsqrt c rd rs1 => Sys2Proof.Machine.execFsqrt c rd rs1 s
  | .fmin c rd rs1 rs2 => Sys2Proof.Machine.execFmin c rd rs1 rs2 s
  | .fmax c rd rs1 rs2 => Sys2Proof.Machine.execFmax c rd rs1 rs2 s
  | .fabs c rd rs1 => Sys2Proof.Machine.execFabs c rd rs1 s
  | .fneg c rd rs1 => Sys2Proof.Machine.execFneg c rd rs1 s
  | .fcvtSW c rd rs1 => Sys2Proof.Machine.execFcvtSW c rd rs1 s
  | .fcvtWS c rd rs1 => Sys2Proof.Machine.execFcvtWS c rd rs1 s
  | .fcvtSQ c rd rs1 n => Sys2Proof.Machine.execFcvtSQ c rd rs1 n s
  | .fcvtQS c rd rs1 n => Sys2Proof.Machine.execFcvtQS c rd rs1 n s
  | .eq c rd rs1 rs2 => Sys2Proof.Machine.execEq c rd rs1 rs2 s
  | .ne c rd rs1 rs2 => Sys2Proof.Machine.execNe c rd rs1 rs2 s
  | .lt c rd rs1 rs2 => Sys2Proof.Machine.execLt c rd rs1 rs2 s
  | .le c rd rs1 rs2 => Sys2Proof.Machine.execLe c rd rs1 rs2 s
  | .ltu c rd rs1 rs2 => Sys2Proof.Machine.execLtu c rd rs1 rs2 s
  | .leu c rd rs1 rs2 => Sys2Proof.Machine.execLeu c rd rs1 rs2 s
  | .feq c rd rs1 rs2 => Sys2Proof.Machine.execFeq c rd rs1 rs2 s
  | .flt c rd rs1 rs2 => Sys2Proof.Machine.execFlt c rd rs1 rs2 s
  | .fle c rd rs1 rs2 => Sys2Proof.Machine.execFle c rd rs1 rs2 s
  | .fun c rd rs1 rs2 => Sys2Proof.Machine.execFun c rd rs1 rs2 s
  | .band c rd rs1 rs2 => Sys2Proof.Machine.execBand c rd rs1 rs2 s
  | .bor c rd rs1 rs2 => Sys2Proof.Machine.execBor c rd rs1 rs2 s
  | .bxor c rd rs1 rs2 => Sys2Proof.Machine.execBxor c rd rs1 rs2 s
  | .bnot c rd rs1 => Sys2Proof.Machine.execBnot c rd rs1 s
  | .sel c rd rs1 rs2 rs3 => Sys2Proof.Machine.execSel c rd rs1 rs2 rs3 s
  | .ton c rd rs1 off => Sys2Proof.Machine.execTon c rd rs1 off s
  | .tof c rd rs1 off => Sys2Proof.Machine.execTof c rd rs1 off s
  | .tp c rd rs1 off => Sys2Proof.Machine.execTp c rd rs1 off s
  | .edgeRising c rd rs1 off => Sys2Proof.Machine.execEdgeRising c rd rs1 off s
  | .edgeFalling c rd rs1 off => Sys2Proof.Machine.execEdgeFalling c rd rs1 off s
  | .beq c rs1 rs2 off => Sys2Proof.Machine.execBeq c rs1 rs2 off s
  | .bne c rs1 rs2 off => Sys2Proof.Machine.execBne c rs1 rs2 off s
  | .blt c rs1 rs2 off => Sys2Proof.Machine.execBlt c rs1 rs2 off s
  | .bge c rs1 rs2 off => Sys2Proof.Machine.execBge c rs1 rs2 off s
  | .jmp c off => Sys2Proof.Machine.execJmp c off s
  | .loop c rs1 bound len => Sys2Proof.Machine.execLoop c rs1 bound len s
  | .lidx c rd => Sys2Proof.Machine.execLidx c rd s
  | .call c rs1 imm => Sys2Proof.Machine.execCall c rs1 imm s
  | .ret c => Sys2Proof.Machine.execRet c s
  | .lsp c rd rs1 slot loop => Sys2Proof.Machine.execLsp c rd rs1 slot loop s
  | .lmode c rd rs1 slot loop => Sys2Proof.Machine.execLmode c rd rs1 slot loop s
  | .lman c rd rs1 slot loop => Sys2Proof.Machine.execLman c rd rs1 slot loop s
  | .lout c rd slot => Sys2Proof.Machine.execLout c rd slot s
  | .lwin c rd slot => Sys2Proof.Machine.execLwin c rd slot s
  | .slvq c rd rs1 tpl => Sys2Proof.Machine.execSlvq c rd rs1 tpl s
  | .slvst c rd tpl => Sys2Proof.Machine.execSlvst c rd tpl s
  | .slvrd c rd rs1 tpl => Sys2Proof.Machine.execSlvrd c rd rs1 tpl s
  | .trap c imm => Sys2Proof.Machine.execTrap c imm s
  | .assert c rs1 imm => Sys2Proof.Machine.execAssert c rs1 imm s
  | .evt c rd rs1 imm => Sys2Proof.Machine.execEvt c rd rs1 imm s
  | .nop c => Sys2Proof.Machine.execNop c s
  | .illegal c => Sys2Proof.Machine.execIllegal c s
  | .load m b => Sys2Proof.Machine.execLoad m b s
  | .loadCheckEnd => Sys2Proof.Machine.execLoadCheckEnd s
  | .backgroundRehash b => Sys2Proof.Machine.execBackgroundRehash b s
  | .instEnable m inst => Sys2Proof.Machine.execInstEnable m inst s
  | .coldInit m inst => Sys2Proof.Machine.execColdInit m inst s
  | .excCntClr m n v => Sys2Proof.Machine.execExcCntClr m n v s
  | .taskCycleStart n => Sys2Proof.Machine.execTaskCycleStart n s
  | .taskPublication n differs corr => Sys2Proof.Machine.execTaskPublication n differs corr s
  | .overrun n => Sys2Proof.Machine.execOverrun n s
  | .start m n => Sys2Proof.Machine.execStart m n s
  | .stop m n => Sys2Proof.Machine.execStop m n s
  | .restart m n => Sys2Proof.Machine.execRestart m n s
  | .restartCold m n => Sys2Proof.Machine.execRestartCold m n s
  | .clrOvr m n => Sys2Proof.Machine.execClrOvr m n s
  | .coldStart m tasks => Sys2Proof.Machine.execColdStart m tasks s
  | .warmStart m tasks => Sys2Proof.Machine.execWarmStart m tasks s
  | .retSaveWait m => Sys2Proof.Machine.execRetSaveWait m s
  | .retSaveNow m => Sys2Proof.Machine.execRetSaveNow m s
  | .retSaveBegin => Sys2Proof.Machine.execRetSaveBegin s
  | .retSaveEnd => Sys2Proof.Machine.execRetSaveEnd s
  | .retSaveTimeout => Sys2Proof.Machine.execRetSaveTimeout s
  | .forceSet m qual => Sys2Proof.Machine.execForceSet m qual s
  | .forceRelease m => Sys2Proof.Machine.execForceRelease m s
  | .rearm m => Sys2Proof.Machine.execRearm m s
  | .forceRead m idx => Sys2Proof.Machine.execForceRead m idx s
  | .releaseAll m => Sys2Proof.Machine.execReleaseAll m s
  | .nextOrphan m idx => Sys2Proof.Machine.execNextOrphan m idx s
  | .arm m refuse => Sys2Proof.Machine.execArm m refuse s
  | .cancel m => Sys2Proof.Machine.execCancel m s
  | .chgCheckEnd => Sys2Proof.Machine.execChgCheckEnd s
  | .changeWindow => Sys2Proof.Machine.execChangeWindow s
  | .chgTimeout => Sys2Proof.Machine.execChgTimeout s
  | .migrationEnd bad => Sys2Proof.Machine.execMigrationEnd bad s
  | .ringInstant => Sys2Proof.Machine.execRingInstant s
  | .passDeparture => Sys2Proof.Machine.execPassDeparture s
  | .ringFrameForward port partner f => Sys2Proof.Machine.execRingFrameForward port partner f s
  | .frameReturn port f => Sys2Proof.Machine.execFrameReturn port f s
  | .inputCommit => Sys2Proof.Machine.execInputCommit s
  | .stationSegment port f => Sys2Proof.Machine.execStationSegment port f s
  | .ringInstantTimeout => Sys2Proof.Machine.execRingInstantTimeout s
  | .loopbackEngage port => Sys2Proof.Machine.execLoopbackEngage port s
  | .loopbackExit port => Sys2Proof.Machine.execLoopbackExit port s
  | .stationWatchdog => Sys2Proof.Machine.execStationWatchdog s
  | .tblReload m node => Sys2Proof.Machine.execTblReload m node s
  | .repack m => Sys2Proof.Machine.execRepack m s
  | .mbxTail m q tail => Sys2Proof.Machine.execMbxTail m q tail s
  | .mbxRetry node => Sys2Proof.Machine.execMbxRetry node s
  | .ident => Sys2Proof.Machine.execIdent s
  | .paramRead => Sys2Proof.Machine.execParamRead s
  | .paramWrite => Sys2Proof.Machine.execParamWrite s
  | .pointBulk => Sys2Proof.Machine.execPointBulk s
  | .spkRingStart m => Sys2Proof.Machine.execSpkRingStart m s
  | .slotEnable m n => Sys2Proof.Machine.execSlotEnable m n s
  | .slotDisable m n => Sys2Proof.Machine.execSlotDisable m n s
  | .slotReload m n => Sys2Proof.Machine.execSlotReload m n s
  | .slotSample n => Sys2Proof.Machine.execSlotSample n s
  | .slotOverrun n => Sys2Proof.Machine.execSlotOverrun n s
  | .guardPass => Sys2Proof.Machine.execGuardPass s
  | .grdLoad m => Sys2Proof.Machine.execGrdLoad m s
  | .grdCheckEnd => Sys2Proof.Machine.execGrdCheckEnd s
  | .safeAll m on => Sys2Proof.Machine.execSafeAll m on s
  | .slvSubmit m tpl dlRel => Sys2Proof.Machine.execSlvSubmit m tpl dlRel s
  | .jobStart => Sys2Proof.Machine.execJobStart s
  | .estIteration o => Sys2Proof.Machine.execEstIteration o s
  | .lsqSolve o n => Sys2Proof.Machine.execLsqSolve o n s
  | .dspIteration o => Sys2Proof.Machine.execDspIteration o s
  | .factorisationEnd o => Sys2Proof.Machine.execFactorisationEnd o s
  | .preemptSaveEnd => Sys2Proof.Machine.execPreemptSaveEnd s
  | .restoreEnd => Sys2Proof.Machine.execRestoreEnd s
  | .jobEnd => Sys2Proof.Machine.execJobEnd s
  | .stopInstant tpl => Sys2Proof.Machine.execStopInstant tpl s
  | .abort m tpl => Sys2Proof.Machine.execAbort m tpl s
  | .resume m => Sys2Proof.Machine.execResume m s
  | .abortStalled m => Sys2Proof.Machine.execAbortStalled m s
  | .invalidate m slot => Sys2Proof.Machine.execInvalidate m slot s
  | .tplReload m tpl => Sys2Proof.Machine.execTplReload m tpl s
  | .reloadAll m => Sys2Proof.Machine.execReloadAll m s
  | .tplDone => Sys2Proof.Machine.execTplDone s
  | .tick => Sys2Proof.Machine.execTick s
  | .windowEnd set => Sys2Proof.Machine.execWindowEnd set s
  | .zeroCrossing set p => Sys2Proof.Machine.execZeroCrossing set p s
  | .nozcTimeout set p => Sys2Proof.Machine.execNozcTimeout set p s
  | .rtdConversion c nohm => Sys2Proof.Machine.execRtdConversion c nohm s
  | .viewTableWrite => Sys2Proof.Machine.execViewTableWrite s
  | .blockStore => Sys2Proof.Machine.execBlockStore s
  | .checkpoint => Sys2Proof.Machine.execCheckpoint s
  | .laneEnable m lane => Sys2Proof.Machine.execLaneEnable m lane s
  | .laneDisable m lane => Sys2Proof.Machine.execLaneDisable m lane s
  | .laneReload m lane => Sys2Proof.Machine.execLaneReload m lane s
  | .laneClr m lane => Sys2Proof.Machine.execLaneClr m lane s
  | .snap m k lane reg => Sys2Proof.Machine.execSnap m k lane reg s
  | .totalsCommit => Sys2Proof.Machine.execTotalsCommit s
  | .switchFrameRx port f => Sys2Proof.Machine.execSwitchFrameRx port f s
  | .cpuTail m q tail => Sys2Proof.Machine.execCpuTail m q tail s
  | .frameTxDone port => Sys2Proof.Machine.execFrameTxDone port s
  | .addressAgeing => Sys2Proof.Machine.execAddressAgeing s
  | .brFlush m => Sys2Proof.Machine.execBrFlush m s
  | .followupExpiry => Sys2Proof.Machine.execFollowupExpiry s
  | .portLinkChange port up an => Sys2Proof.Machine.execPortLinkChange port up an s
  | .step m n secHi => Sys2Proof.Machine.execStep m n secHi s
  | .set m n secHi => Sys2Proof.Machine.execSet m n secHi s
  | .slew m n secHi => Sys2Proof.Machine.execSlew m n secHi s
  | .slewDone n => Sys2Proof.Machine.execSlewDone n s
  | .tbReadLatch m n => Sys2Proof.Machine.execTbReadLatch m n s
  | .syncedWrite m n v => Sys2Proof.Machine.execSyncedWrite m n v s
  | .tb3OfsCommit => Sys2Proof.Machine.execTb3OfsCommit s
  | .tb3SrcChange => Sys2Proof.Machine.execTb3SrcChange s
  | .holdoverExpiry => Sys2Proof.Machine.execHoldoverExpiry s
  | .tpPulse n => Sys2Proof.Machine.execTpPulse n s
  | .tpPulseEnd n => Sys2Proof.Machine.execTpPulseEnd n s
  | .tcCapture n falling => Sys2Proof.Machine.execTcCapture n falling s
  | .tcPop m n => Sys2Proof.Machine.execTcPop m n s
  | .diEdge n start => Sys2Proof.Machine.execDiEdge n start s
  | .edgePop m => Sys2Proof.Machine.execEdgePop m s
  | .vfldMeasure v1 v2 => Sys2Proof.Machine.execVfldMeasure v1 v2 s
  | .uvChg g mv => Sys2Proof.Machine.execUvChg g mv s
  | .diRestart raw => Sys2Proof.Machine.execDiRestart raw s
  | .doUpdate => Sys2Proof.Machine.execDoUpdate s
  | .doCurrentLimit n => Sys2Proof.Machine.execDoCurrentLimit n s
  | .thermalShutdown n => Sys2Proof.Machine.execThermalShutdown n s
  | .thermalRestart n => Sys2Proof.Machine.execThermalRestart n s
  | .offStateFault n => Sys2Proof.Machine.execOffStateFault n s
  | .doInhibit m v => Sys2Proof.Machine.execDoInhibit m v s
  | .doDiag m v => Sys2Proof.Machine.execDoDiag m v s
  | .txReq m p b => Sys2Proof.Machine.execTxReq m p b s
  | .txAbort m p b => Sys2Proof.Machine.execTxAbort m p b s
  | .txAttempt p => Sys2Proof.Machine.execTxAttempt p s
  | .txFrameEnd p ok tdcv => Sys2Proof.Machine.execTxFrameEnd p ok tdcv s
  | .canRxFrame p f age => Sys2Proof.Machine.execCanRxFrame p f age s
  | .rxAck m p k => Sys2Proof.Machine.execRxAck m p k s
  | .canBusError p lec kind => Sys2Proof.Machine.execCanBusError p lec kind s
  | .busOffRecovery p => Sys2Proof.Machine.execBusOffRecovery p s
  | .mapStale p e => Sys2Proof.Machine.execMapStale p e s
  | .mapTxPeriod p e => Sys2Proof.Machine.execMapTxPeriod p e s
  | .canWakeStart => Sys2Proof.Machine.execCanWakeStart s
  | .canWakeFrame f => Sys2Proof.Machine.execCanWakeFrame f s
  | .canWakeIdle => Sys2Proof.Machine.execCanWakeIdle s
  | .join m ahash ghash cadSum lpeSum => Sys2Proof.Machine.execJoin m ahash ghash cadSum lpeSum s
  | .leave m => Sys2Proof.Machine.execLeave m s
  | .tdmFault m => Sys2Proof.Machine.execTdmFault m s
  | .clrFault m => Sys2Proof.Machine.execClrFault m s
  | .joinCut copy => Sys2Proof.Machine.execJoinCut copy s
  | .joinCaughtUp => Sys2Proof.Machine.execJoinCaughtUp s
  | .joinTimeout overflow => Sys2Proof.Machine.execJoinTimeout overflow s
  | .instant pass ring cadSum lpeSum ofs => Sys2Proof.Machine.execInstant pass ring cadSum lpeSum ofs s
  | .deliv slot value status => Sys2Proof.Machine.execDeliv slot value status s
  | .startEntry n time => Sys2Proof.Machine.execStartEntry n time s
  | .lsample n vals => Sys2Proof.Machine.execLsample n vals s
  | .gpass time switch hash => Sys2Proof.Machine.execGpass time switch hash s
  | .forceEntry sig value qual st => Sys2Proof.Machine.execForceEntry sig value qual st s
  | .solverEntry t status half data => Sys2Proof.Machine.execSolverEntry t status half data s
  | .cmdEntry reg v => Sys2Proof.Machine.execCmdEntry reg v s
  | .changeEntry hash => Sys2Proof.Machine.execChangeEntry hash s
  | .digest pass d => Sys2Proof.Machine.execDigest pass d s
  | .tdmFrameResend seq => Sys2Proof.Machine.execTdmFrameResend seq s
  | .stepLag => Sys2Proof.Machine.execStepLag s
  | .laneTDown => Sys2Proof.Machine.execLaneTDown s
  | .arbCode line high => Sys2Proof.Machine.execArbCode line high s
  | .arbDead line => Sys2Proof.Machine.execArbDead line s
  | .witnessDecision => Sys2Proof.Machine.execWitnessDecision s
  | .grantToPartner => Sys2Proof.Machine.execGrantToPartner s
  | .takeover => Sys2Proof.Machine.execTakeover s
  | .soloTimeout => Sys2Proof.Machine.execSoloTimeout s
  | .golden result => Sys2Proof.Machine.execGolden result s
  | .linkTest errs => Sys2Proof.Machine.execLinkTest errs s
  | .healthReport => Sys2Proof.Machine.execHealthReport s
  | .healthReportRx report => Sys2Proof.Machine.execHealthReportRx report s
  | .feedLost f mv ma => Sys2Proof.Machine.execFeedLost f mv ma s
  | .feedOk f mv ma => Sys2Proof.Machine.execFeedOk f mv ma s
  | .feedOvercurrent f mv ma => Sys2Proof.Machine.execFeedOvercurrent f mv ma s
  | .post m c code sev cont => Sys2Proof.Machine.execPost m c code sev cont s
  | .eventAccept => Sys2Proof.Machine.execEventAccept s
  | .evrFlush m => Sys2Proof.Machine.execEvrFlush m s
  | .flushPageCommit ok => Sys2Proof.Machine.execFlushPageCommit ok s
  | .seek m => Sys2Proof.Machine.execSeek m s
  | .next m => Sys2Proof.Machine.execNext m s
  | .winDone => Sys2Proof.Machine.execWinDone s
  | .evrNonce m => Sys2Proof.Machine.execEvrNonce m s
  | .evrNonceExpiry => Sys2Proof.Machine.execEvrNonceExpiry s
  | .clear m => Sys2Proof.Machine.execClear m s
  | .clearVerifyEnd => Sys2Proof.Machine.execClearVerifyEnd s
  | .clearCommit => Sys2Proof.Machine.execClearCommit s
  | .kstNonce m slot => Sys2Proof.Machine.execKstNonce m slot s
  | .derive m slot => Sys2Proof.Machine.execDerive m slot s
  | .generate m slot => Sys2Proof.Machine.execGenerate m slot s
  | .loadPub m slot => Sys2Proof.Machine.execLoadPub m slot s
  | .importSym m slot => Sys2Proof.Machine.execImportSym m slot s
  | .selftest m slot => Sys2Proof.Machine.execSelftest m slot s
  | .commit m slot => Sys2Proof.Machine.execCommit m slot s
  | .discard m slot => Sys2Proof.Machine.execDiscard m slot s
  | .sign m slot => Sys2Proof.Machine.execSign m slot s
  | .verify m slot => Sys2Proof.Machine.execVerify m slot s
  | .attest m slot => Sys2Proof.Machine.execAttest m slot s
  | .exportPub m slot => Sys2Proof.Machine.execExportPub m slot s
  | .extend m slot => Sys2Proof.Machine.execExtend m slot s
  | .lc m slot => Sys2Proof.Machine.execLc m slot s
  | .debugUnlock m slot => Sys2Proof.Machine.execDebugUnlock m slot s
  | .advance m slot => Sys2Proof.Machine.execAdvance m slot s
  | .zeroise m slot => Sys2Proof.Machine.execZeroise m slot s
  | .cmdDone burn => Sys2Proof.Machine.execCmdDone burn s
  | .kstNonceExpiry => Sys2Proof.Machine.execKstNonceExpiry s
  | .sealSign => Sys2Proof.Machine.execSealSign s
  | .slotCheck => Sys2Proof.Machine.execSlotCheck s
  | .entropyFail => Sys2Proof.Machine.execEntropyFail s
  | .dbgAttach attached => Sys2Proof.Machine.execDbgAttach attached s
  | .fabricTransaction x => Sys2Proof.Machine.execFabricTransaction x s
  | .fabTimeout port lat => Sys2Proof.Machine.execFabTimeout port lat s
  | .dramRefresh ch => Sys2Proof.Machine.execDramRefresh ch s
  | .hotChg hot => Sys2Proof.Machine.execHotChg hot s
  | .pinCfg m v => Sys2Proof.Machine.execPinCfg m v s
  | .pinSel m v => Sys2Proof.Machine.execPinSel m v s
  | .inval m ctx => Sys2Proof.Machine.execInval m ctx s
  | .faultPop m => Sys2Proof.Machine.execFaultPop m s
  | .nfmRead m part => Sys2Proof.Machine.execNfmRead m part s
  | .nfmWrite m part => Sys2Proof.Machine.execNfmWrite m part s
  | .trim m part => Sys2Proof.Machine.execTrim m part s
  | .readBill m part => Sys2Proof.Machine.execReadBill m part s
  | .nfmCmdDone fate spare => Sys2Proof.Machine.execNfmCmdDone fate spare s
  | .scrubBurst a words ce ue => Sys2Proof.Machine.execScrubBurst a words ce ue s
  | .scrubShort => Sys2Proof.Machine.execScrubShort s
  | .truingStep ch off gain => Sys2Proof.Machine.execTruingStep ch off gain s
  | .nandCare spare wear => Sys2Proof.Machine.execNandCare spare wear s
  | .telemetry temp util => Sys2Proof.Machine.execTelemetry temp util s
  | .run m => Sys2Proof.Machine.execRun m s
  | .nap m => Sys2Proof.Machine.execNap m s
  | .standby m => Sys2Proof.Machine.execStandby m s
  | .hibernate m => Sys2Proof.Machine.execHibernate m s
  | .off m => Sys2Proof.Machine.execOff m s
  | .quiesceEnd => Sys2Proof.Machine.execQuiesceEnd s
  | .idleTimeout => Sys2Proof.Machine.execIdleTimeout s
  | .commitPoint => Sys2Proof.Machine.execCommitPoint s
  | .wakeLatch n => Sys2Proof.Machine.execWakeLatch n s
  | .patternA f => Sys2Proof.Machine.execPatternA f s
  | .wakeDi n rise => Sys2Proof.Machine.execWakeDi n rise s
  | .wakeTc n rise => Sys2Proof.Machine.execWakeTc n rise s
  | .wakeLink lane => Sys2Proof.Machine.execWakeLink lane s
  | .wakeArb line => Sys2Proof.Machine.execWakeArb line s
  | .exitRelease ticks entropy bad => Sys2Proof.Machine.execExitRelease ticks entropy bad s
  | .resumeCheck others => Sys2Proof.Machine.execResumeCheck others s
  | .rtcSecond => Sys2Proof.Machine.execRtcSecond s
  | .oscStop => Sys2Proof.Machine.execOscStop s
  | .brownOut lost => Sys2Proof.Machine.execBrownOut lost s
  | .halt m sub => Sys2Proof.Machine.execHalt m sub s
  | .haltRelease m => Sys2Proof.Machine.execHaltRelease m s
  | .rtcSecWrite m v sub => Sys2Proof.Machine.execRtcSecWrite m v sub s
  | .rtcSecRead m sub => Sys2Proof.Machine.execRtcSecRead m sub s
  | .rtcYearRead m => Sys2Proof.Machine.execRtcYearRead m s
  | .rtcSetRelease m => Sys2Proof.Machine.execRtcSetRelease m s
  | .periodic => Sys2Proof.Machine.execPeriodic s
  | .rtcPerWrite m v => Sys2Proof.Machine.execRtcPerWrite m v s
  | .vbatMeasure mv => Sys2Proof.Machine.execVbatMeasure mv s
  | .pnlOn m => Sys2Proof.Machine.execPnlOn m s
  | .pnlVddTimer => Sys2Proof.Machine.execPnlVddTimer s
  | .pnlVaTimer bad => Sys2Proof.Machine.execPnlVaTimer bad s
  | .pnlOff m => Sys2Proof.Machine.execPnlOff m s
  | .pnlDischargeEnd => Sys2Proof.Machine.execPnlDischargeEnd s
  | .updCmd m regions => Sys2Proof.Machine.execUpdCmd m regions s
  | .updateStart => Sys2Proof.Machine.execUpdateStart s
  | .lineDone => Sys2Proof.Machine.execLineDone s
  | .aonLoad m => Sys2Proof.Machine.execAonLoad m s
  | .aonLoadDone => Sys2Proof.Machine.execAonLoadDone s
  | .aonRefresh => Sys2Proof.Machine.execAonRefresh s
  | .pfmWindowEnd => Sys2Proof.Machine.execPfmWindowEnd s
  | .recDone => Sys2Proof.Machine.execRecDone s
  | .pfmUserAccess core off mapped wr => Sys2Proof.Machine.execPfmUserAccess core off mapped wr s
  | .powerOn => Sys2Proof.Machine.execPowerOn s
  | .deviceReset cause => Sys2Proof.Machine.execDeviceReset cause s
  | .sysRstCmd m => Sys2Proof.Machine.execSysRstCmd m s
  | .lockstep => Sys2Proof.Machine.execLockstep s
  | .tapReset => Sys2Proof.Machine.execTapReset s
  | .resetRelease ticks entropy bad => Sys2Proof.Machine.execResetRelease ticks entropy bad s
  | .sysBootCmd m => Sys2Proof.Machine.execSysBootCmd m s
  | .sysHostGo m v => Sys2Proof.Machine.execSysHostGo m v s
  | .pfRetSaveStart => Sys2Proof.Machine.execPfRetSaveStart s
  | .retSetCommit => Sys2Proof.Machine.execRetSetCommit s
  | .holdupEnd => Sys2Proof.Machine.execHoldupEnd s
  | .vholdCut => Sys2Proof.Machine.execVholdCut s
  | .holdReadyChange ready => Sys2Proof.Machine.execHoldReadyChange ready s
  | .sampleBoundary codes => Sys2Proof.Machine.execSampleBoundary codes s
  | .commonPeriodEnd => Sys2Proof.Machine.execCommonPeriodEnd s
  | .doFaultEnd n => Sys2Proof.Machine.execDoFaultEnd n s
  | .feedOvercurrentEnd f mv ma => Sys2Proof.Machine.execFeedOvercurrentEnd f mv ma s
  | .oscResume => Sys2Proof.Machine.execOscResume s

end Sys2Proof.Machine
end

