-- ==== Sys2Proof/Safety.lean ====
section
/-! DEFINITION. The terms the statements use: when a step goes on, when a block answers accesses and acts on events, when a context
executes, and what the instructions of the Cadence engine compute, written from the tables of R88 to R94. -/

namespace Sys2Proof

/-- A step that goes on. -/
def Continues (o : Machine.Out) : Prop := ∃ s, o = Host.Outcome.next s

namespace Machine

/-- Accesses reach a block's registers: its domain and CORE are on and released (R41), and no soft reset of it runs (R47). -/
def State.Answers (s : State) (b : Blk) : Prop := s.unreachable b = false ∧ s.inSoftRst b = false

/-- A master's write of the register at an address reaches its fields: the block answers, and the master may write it (R43). -/
def State.MayWrite (s : State) (m : Master) (b : Blk) (a : Nat) : Prop := s.Answers b ∧ (monOnlyReg a = true → m = .mon)

/-- A command on a state answers a next state, of which something holds. -/
def State.Yields (s : State) (i : Instr) (p : State → Prop) : Prop := ∃ t, exec i s = .next t ∧ p t

/-- ERRINFO of a block shows an error code and an offset or argument (R45, R49). -/
def State.Erred (s : State) (b : Blk) (code woff : Nat) : Prop :=
  s.rd (F.BLK_ERRINFO_CODE b) = code ∧ s.rd (F.BLK_ERRINFO_WOFF b) = woff

/-- An interrupt cause of a block is set; a block with FREEZE set raises no new causes (R48). -/
def State.Caused (s : State) (b : Blk) (n : Nat) : Prop := s.frozen b = false → (s.regGet (R.BLK_IRQ_RAW b)).getLsbD n = true

/-- Memory, the Cadence engine's programs and contexts, and the waiting commands stay. -/
def State.Spares (s t : State) : Prop := t.mem = s.mem ∧ t.cad = s.cad ∧ t.pending = s.pending

/-- At most deliveries reach memory: nothing does where no program is ACTIVE, and nothing outside the live image (R76, R78) ever. -/
def State.Delivers (s t : State) : Prop :=
  t.pending = s.pending ∧ (s.activeBank = none → t.mem = s.mem) ∧ ∀ a, a < cadMemBase ∨ cadMemBase + 8 * slotMax ≤ a → t.byte a = s.byte a

/-- No register outside a block's page changes. -/
def State.Within (s t : State) (b : Blk) : Prop := ∀ a, blkAt a ≠ some b → t.regGet a = s.regGet a

/-- A block acts on events: it is not halted by FREEZE (R48), its domain has power (R41), and it does not stand still for an entry into
sleep (R464). -/
def State.Live (s : State) (b : Blk) : Prop := s.isHalted b = false ∧ s.domOff.getLsbD b.domain.idx = false ∧ s.stilled b = false

/-- A context runs an instance that has budget left and a readable instruction word (R99, R104), on a live engine. -/
def State.Executes (s : State) (c : Fin 16) : Prop :=
  s.Live .cad ∧ (s.ctxAt c).busy = true ∧ (s.ctxAt c).count + 1 ≤ s.budgetOf (s.ctxAt c) ∧ s.codeBad (s.ctxAt c) = false

/-- Context `c` goes on with `v` in rd (W0 discards it, R83); its other working registers, the other contexts and the register pages stay. -/
def State.Computes (s t : State) (c : Fin 16) (rd : BitVec 5) (v : Word) : Prop :=
  (t.ctxAt c).r rd = (if rd = 0 then 0 else v) ∧ (∀ r, r ≠ rd → (t.ctxAt c).r r = (s.ctxAt c).r r) ∧ (∀ d, d ≠ c → t.ctxAt d = s.ctxAt d) ∧
    t.regs = s.regs

/-- A context's task may store a value with a quality into a slot without an exception (R79, R88). -/
def State.MayStore (s : State) (c : Fin 16) (slot : Nat) (v : Word) (q : BitVec 3) : Prop :=
  q ≠ 7 ∧ slot < s.nSlots s.runBank ∧ (s.slotDir s.runBank slot = 1 ∨ s.slotDir s.runBank slot = 2) ∧
    s.slotWriter s.runBank slot = (s.ctxAt c).task.val ∧ ¬(s.slotType s.runBank slot = 4 ∧ nanWord v = true)

/-! ## Results of R89 to R94 -/

/-- An exact integer saturated to 32 bits, with SAT for a clip (R91, R92). -/
def satExact (z : Int) : Res :=
  if z < -2147483648 then (0x80000000, 0x1) else if 2147483647 < z then (0x7FFFFFFF, 0x1) else (BitVec.ofInt 32 z, 0)

/-- 1 for a true comparison, 0 for a false one; no flag. -/
def truth (p : Prop) [Decidable p] : Res := (if p then 1 else 0, 0)

/-- An exact quotient truncated toward zero, with the corners of R91. -/
def quotExact (num : Int) (b : Word) : Res :=
  if b = 0 then (if 0 ≤ num then 0x7FFFFFFF else 0x80000000, 0x2) else satExact (num.tdiv b.toInt)

/-- What an instruction of R89 to R94 computes: its context, rd, and the result with the flags from the registers it reads. -/
def aluOf : Instr → Option (Fin 16 × BitVec 5 × (LaneCtx → Res))
  | .ldk c rd imm => some (c, rd, fun _ => (BitVec.ofInt 32 imm.toInt, 0))
  | .ldkh c rd imm => some (c, rd, fun x => (BitVec.ofNat 32 (imm.toNat * 65536 + (x.r rd).toNat % 65536), 0))
  | .add c rd p q => some (c, rd, fun x => (BitVec.ofInt 32 ((x.r p).toInt + (x.r q).toInt), 0))
  | .sub c rd p q => some (c, rd, fun x => (BitVec.ofInt 32 ((x.r p).toInt - (x.r q).toInt), 0))
  | .adds c rd p q => some (c, rd, fun x => satExact ((x.r p).toInt + (x.r q).toInt))
  | .subs c rd p q => some (c, rd, fun x => satExact ((x.r p).toInt - (x.r q).toInt))
  | .and c rd p q => some (c, rd, fun x => (x.r p &&& x.r q, 0))
  | .or c rd p q => some (c, rd, fun x => (x.r p ||| x.r q, 0))
  | .xor c rd p q => some (c, rd, fun x => (x.r p ^^^ x.r q, 0))
  | .sll c rd p q => some (c, rd, fun x => (BitVec.ofNat 32 ((x.r p).toNat * 2 ^ ((x.r q).toNat % 32)), 0))
  | .srl c rd p q => some (c, rd, fun x => (BitVec.ofNat 32 ((x.r p).toNat / 2 ^ ((x.r q).toNat % 32)), 0))
  | .sra c rd p q => some (c, rd, fun x => (BitVec.ofInt 32 ((x.r p).toInt / 2 ^ ((x.r q).toNat % 32)), 0))
  | .mul c rd p q => some (c, rd, fun x => (BitVec.ofInt 32 ((x.r p).toInt * (x.r q).toInt), 0))
  | .mulh c rd p q => some (c, rd, fun x => (BitVec.ofInt 32 ((x.r p).toInt * (x.r q).toInt / 2 ^ 32), 0))
  | .mulhu c rd p q => some (c, rd, fun x => (BitVec.ofNat 32 ((x.r p).toNat * (x.r q).toNat / 2 ^ 32), 0))
  | .div c rd p q => some (c, rd, fun x => quotExact (x.r p).toInt (x.r q))
  | .divu c rd p q => some (c, rd, fun x => if x.r q = 0 then (0xFFFFFFFF, 0x2) else (BitVec.ofNat 32 ((x.r p).toNat / (x.r q).toNat), 0))
  | .rem c rd p q => some (c, rd, fun x => if x.r q = 0 then (x.r p, 0x2) else (BitVec.ofInt 32 ((x.r p).toInt.tmod (x.r q).toInt), 0))
  | .remu c rd p q => some (c, rd, fun x => if x.r q = 0 then (x.r p, 0x2) else (BitVec.ofNat 32 ((x.r p).toNat % (x.r q).toNat), 0))
  | .min c rd p q => some (c, rd, fun x => (BitVec.ofInt 32 (Min.min (x.r p).toInt (x.r q).toInt), 0))
  | .max c rd p q => some (c, rd, fun x => (BitVec.ofInt 32 (Max.max (x.r p).toInt (x.r q).toInt), 0))
  | .minu c rd p q => some (c, rd, fun x => (BitVec.ofNat 32 (Min.min (x.r p).toNat (x.r q).toNat), 0))
  | .maxu c rd p q => some (c, rd, fun x => (BitVec.ofNat 32 (Max.max (x.r p).toNat (x.r q).toNat), 0))
  | .abs c rd p => some (c, rd, fun x => satExact ((x.r p).toInt.natAbs : Int))
  | .neg c rd p => some (c, rd, fun x => satExact (-(x.r p).toInt))
  | .addi c rd p imm => some (c, rd, fun x => (BitVec.ofInt 32 ((x.r p).toInt + imm.toInt), 0))
  | .andi c rd p imm => some (c, rd, fun x => (x.r p &&& BitVec.ofNat 32 imm.toNat, 0))
  | .ori c rd p imm => some (c, rd, fun x => (x.r p ||| BitVec.ofNat 32 imm.toNat, 0))
  | .xori c rd p imm => some (c, rd, fun x => (x.r p ^^^ BitVec.ofNat 32 imm.toNat, 0))
  | .slti c rd p imm => some (c, rd, fun x => truth ((x.r p).toInt < imm.toInt))
  | .shiSll c rd p n => some (c, rd, fun x => (BitVec.ofNat 32 ((x.r p).toNat * 2 ^ n.toNat), 0))
  | .shiSrl c rd p n => some (c, rd, fun x => (BitVec.ofNat 32 ((x.r p).toNat / 2 ^ n.toNat), 0))
  | .shiSra c rd p n => some (c, rd, fun x => (BitVec.ofInt 32 ((x.r p).toInt / 2 ^ n.toNat), 0))
  | .qmul c rd p q n => some (c, rd, fun x => satExact (((x.r p).toInt * (x.r q).toInt + 2 ^ n.toNat / 2) / 2 ^ n.toNat))
  | .qdiv c rd p q n => some (c, rd, fun x => quotExact ((x.r p).toInt * 2 ^ n.toNat) (x.r q))
  | .qshl c rd p n => some (c, rd, fun x => satExact ((x.r p).toInt * 2 ^ n.toNat))
  | .qshr c rd p n => some (c, rd, fun x => satExact (((x.r p).toInt + 2 ^ n.toNat / 2) / 2 ^ n.toNat))
  | .qmac c rd p q n =>
    some (c, rd, fun x => satExact ((x.r rd).toInt + ((x.r p).toInt * (x.r q).toInt + 2 ^ n.toNat / 2) / 2 ^ n.toNat))
  | .qlim c rd p q => some (c, rd, fun x => (BitVec.ofInt 32 (Min.min (Max.max (x.r rd).toInt (x.r p).toInt) (x.r q).toInt), 0))
  | .fadd c rd p q => some (c, rd, fun x => fadd (x.r p) (x.r q))
  | .fsub c rd p q => some (c, rd, fun x => fsub (x.r p) (x.r q))
  | .fmul c rd p q => some (c, rd, fun x => fmul (x.r p) (x.r q))
  | .fdiv c rd p q => some (c, rd, fun x => fdiv (x.r p) (x.r q))
  | .fsqrt c rd p => some (c, rd, fun x => fsqrt (x.r p))
  | .fmin c rd p q => some (c, rd, fun x => fmin (x.r p) (x.r q))
  | .fmax c rd p q => some (c, rd, fun x => fmax (x.r p) (x.r q))
  | .fabs c rd p => some (c, rd, fun x => (BitVec.ofNat 32 ((x.r p).toNat % 2 ^ 31), 0))
  | .fneg c rd p => some (c, rd, fun x => (BitVec.ofNat 32 ((x.r p).toNat + 2 ^ 31), 0))
  | .fcvtSW c rd p => some (c, rd, fun x => fcvtSQ (x.r p) 0)
  | .fcvtWS c rd p => some (c, rd, fun x => fcvtQS (x.r p) 0)
  | .fcvtSQ c rd p n => some (c, rd, fun x => fcvtSQ (x.r p) n.toNat)
  | .fcvtQS c rd p n => some (c, rd, fun x => fcvtQS (x.r p) n.toNat)
  | .eq c rd p q => some (c, rd, fun x => truth (x.r p = x.r q))
  | .ne c rd p q => some (c, rd, fun x => truth (x.r p ≠ x.r q))
  | .lt c rd p q => some (c, rd, fun x => truth ((x.r p).toInt < (x.r q).toInt))
  | .le c rd p q => some (c, rd, fun x => truth ((x.r p).toInt ≤ (x.r q).toInt))
  | .ltu c rd p q => some (c, rd, fun x => truth ((x.r p).toNat < (x.r q).toNat))
  | .leu c rd p q => some (c, rd, fun x => truth ((x.r p).toNat ≤ (x.r q).toNat))
  | .feq c rd p q => some (c, rd, fun x => feq (x.r p) (x.r q))
  | .flt c rd p q => some (c, rd, fun x => flt (x.r p) (x.r q))
  | .fle c rd p q => some (c, rd, fun x => fle (x.r p) (x.r q))
  | .fun c rd p q => some (c, rd, fun x => funord (x.r p) (x.r q))
  | .band c rd p q => some (c, rd, fun x => truth (x.r p ≠ 0 ∧ x.r q ≠ 0))
  | .bor c rd p q => some (c, rd, fun x => truth (x.r p ≠ 0 ∨ x.r q ≠ 0))
  | .bxor c rd p q => some (c, rd, fun x => truth (¬(x.r p ≠ 0 ↔ x.r q ≠ 0)))
  | .bnot c rd p => some (c, rd, fun x => truth (x.r p = 0))
  | .sel c rd p q r => some (c, rd, fun x => (if x.r r = 0 then x.r q else x.r p, 0))
  | _ => none

/-- Memory, the register map and the metering lanes are in canonical form: keys rise, and no entry equals what an unlisted key reads as. -/
def State.Canonical (s : State) : Prop :=
  Memory.wf s.mem = true ∧ Sparse.wf regReset s.regs = true ∧ Sparse.wf (fun _ => ({} : Lane)) s.mtr.lanes = true

end Machine

end Sys2Proof
end

