-- ==== Sys2Proof/WellFormed.lean ====
section
/-! DEFINITION. Which commands are well formed: the operand values that the spec reserves as encodings are refused. -/

namespace Sys2Proof

/-- A command whose operands the spec admits: quality code 7 is a reserved value of STS and STSX (R88), a LOOP has a bound and a length
of at least 1 (R98), a timer's off and an edge's off are any value. Log entry 65 (DEDUCED). -/
def WellFormed : Instr → Bool
  | .sts _ _ _ q => q != 7
  | .stsx _ _ _ q => q != 7
  | .loop _ _ bound len => bound != 0 && len != 0
  | _ => true

end Sys2Proof
end

