-- ==== Sys2Proof/Certificates/Slice0/Obligations.lean ====
section
/-! DEFINITION. The statements for the provers. -/

open Sys2Proof Sys2Proof.Machine

/-- A write of a block's IRQ_EN holds the word and changes no other register; a read answers it without a side effect, a read of
NET_PORTn_STAT answers the count DROP and clears it; accesses of no register, of another width, of a page that is off and monitor-only
writes of others get an error response with no other effect than R43's error. (R37, R40, R41, R42, R43, R45, R57, R58) -/
def Obligations.RegisterAccesses : Prop :=
  ∀ (m : Master) (s : State),
    (∀ (b : Blk) (v : Word), s.MayWrite m b (R.BLK_IRQ_EN b) →
      s.Yields (.regWrite m (BitVec.ofNat 40 (R.BLK_IRQ_EN b)) v) fun t => t.regGet (R.BLK_IRQ_EN b) = v ∧ s.Spares t ∧ t.resp = ⟨0, false⟩ ∧
        ∀ a, a ≠ R.BLK_IRQ_EN b → t.regGet a = s.regGet a) ∧
    (∀ b : Blk, s.Answers b → s.shadows = [] →
      exec (.rcRead m (BitVec.ofNat 40 (R.BLK_IRQ_EN b))) s = .next { s with resp := ⟨s.regGet (R.BLK_IRQ_EN b), false⟩ }) ∧
    (∀ n : Fin 6, s.Answers .net → s.shadows = [] →
      s.Yields (.rcRead m (BitVec.ofNat 40 (R.NET_PORTn_STAT n))) fun t => getBits t.resp.data 16 16 = s.rd (F.NET_PORTn_STAT_DROP n) ∧
        t.rd (F.NET_PORTn_STAT_DROP n) = 0 ∧ t.bit (F.NET_PORTn_STAT_LINK n) = s.bit (F.NET_PORTn_STAT_LINK n) ∧ s.Spares t ∧
        ∀ a, a ≠ R.NET_PORTn_STAT n → t.regGet a = s.regGet a) ∧
    (∀ (a : BitVec 40) (k : Access), mapped a.toNat = false ∨ (a.toNat < 0x20000 ∧ k = .write) →
      exec (.unmappedAccess m a k) s = .next { s with resp := ⟨0, true⟩ }) ∧
    (∀ (a : BitVec 40) (w : Nat) (k : Access), 0x10000000 ≤ a.toNat → a.toNat < 0x10180000 → (w ≠ 4 ∨ a.toNat % 4 ≠ 0) →
      exec (.regBadWidth m a w k) s = .next { s with resp := ⟨0, true⟩ }) ∧
    (∀ (a : BitVec 40) (b : Blk) (k : Access), blkAt a.toNat = some b → s.unreachable b = true →
      exec (.regAccessPoweredOff m a k) s = .next { s with resp := ⟨0, true⟩ }) ∧
    (∀ (v : Word) (n : Fin 16), m ≠ .mon → s.Answers .fab →
      s.Yields (.regWrite m (BitVec.ofNat 40 (R.FAB_QUOTAn n)) v) fun t => t.resp = ⟨0, true⟩ ∧ t.regGet (R.FAB_QUOTAn n) = s.regGet (R.FAB_QUOTAn n) ∧
        t.Erred .fab 5 (woffOf .fab (R.FAB_QUOTAn n)) ∧ s.Spares t)

/-- EN = 1 runs a block, a block with no work in progress stops at once, one with work keeps EN with STOPPING until its stop boundary,
where both change together; EN = 1 while STOPPING gives code 4, a locked EN code 2. (R46, R49, R50, R92, R119) -/
def Obligations.RunningAndStopping : Prop :=
  ∀ (m : Master) (b : Blk) (s : State),
    let only (t : State) : Prop := t.mem = s.mem ∧ t.pending = s.pending ∧ (b ≠ .cad → t.cad = s.cad) ∧
      (b = .cad → t.cad = { s.cad with tasks := t.cad.tasks } ∧ ∀ n, t.task n = { s.task n with owed := (t.task n).owed }) ∧
      ∀ a, a ≠ R.BLK_CTRL b → a ≠ R.BLK_STAT b → t.regGet a = s.regGet a
    (s.MayWrite m b (R.BLK_CTRL b) →
      (s.en b = false → s.bit (F.BLK_LOCK_CTRL_LOCK b) = true → s.stopping b = false →
        s.Yields (.blkEnable m b) fun t => t.en b = false ∧ t.Erred b 2 2 ∧ s.Spares t) ∧
      (s.en b = true → s.stopping b = true → s.Yields (.blkEnable m b) fun t => t.stopping b = true ∧ t.Erred b 4 2 ∧ s.Spares t) ∧
      (b ∈ [Blk.sys, .int, .fab, .xlt, .mem, .nfm, .cad, .lpe, .slv, .tsu, .tdm, .kst, .pwr, .rtc, .pnl, .bgs] →
        s.bit (F.BLK_LOCK_CTRL_LOCK b) = false → s.stopping b = false → s.Yields (.blkEnable m b) fun t => t.en b = true ∧ only t) ∧
      (b ∈ [Blk.sys, .int, .fab, .xlt, .mem, .lpe, .pwr, .rtc, .bgs] → s.bit (F.BLK_LOCK_CTRL_LOCK b) = false →
        s.en b = true → s.stopping b = false → s.Yields (.blkStop m b) fun t => t.en b = false ∧ t.stopping b = false ∧ only t) ∧
      (b = .cad → s.bit (F.BLK_LOCK_CTRL_LOCK .cad) = false → s.en .cad = true → s.stopping .cad = false →
        ((∀ n, s.taskState n ≠ 2) → s.Yields (.blkStop m .cad) fun t => t.en .cad = false ∧ t.stopping .cad = false ∧ only t ∧
          ∀ n, (t.task n).owed = false) ∧
        ((∃ n, s.taskState n = 2) → s.Yields (.blkStop m .cad) fun t => t.en .cad = true ∧ t.stopping .cad = true ∧ only t))) ∧
    (b ∈ [Blk.cad, .kst, .nfm, .evr, .tsu, .slv, .net, .pnl, .tdm] → s.Live b → s.stopping b = true → s.atRest b = true →
      s.Yields (.stopBoundary b) fun t => t.en b = false ∧ t.stopping b = false ∧ only t) ∧
    (s.Live b → s.stopping b = true → s.atRest b = false → exec (.stopBoundary b) s = .next s)

/-- A soft reset gives every register of the block its reset value (but for BLK_LOCK, the recomputed sum and what the chapters keep past
it), and while it runs writes are discarded with code 6 and reads give reset values; it is over one idle cycle later; a locked one gives
code 2; FREEZE changes only with DBG_EN and is discarded with code 3 without it. (R47, R48, R50) -/
def Obligations.SoftResetAndFreeze : Prop :=
  ∀ (m : Master) (b : Blk) (s : State),
    (s.MayWrite m b (R.BLK_CTRL b) →
      (s.bit (F.BLK_LOCK_CTRL_LOCK b) = false → s.bit (F.BLK_LOCK_CFG_LOCK b) = false →
        s.Yields (.softRst m b) fun t => t.inSoftRst b = true ∧ t.isHalted b = false ∧
          (b ≠ .tsu → ∀ a, blkAt a = some b → resetKeep a = 0 → a ≠ R.BLK_LOCK b → a ≠ R.BLK_CFGSUM b → t.regGet a = regReset a) ∧
          (b = .tsu → ∀ n : Fin 3, t.regGet (R.TSU_TBn_RATE n) = 0 ∧ ∀ k : Fin 8, t.regGet (R.TSU_TPn_CFG k) = regReset (R.TSU_TPn_CFG k)) ∧
          (b ∈ [Blk.int, .fab, .nfm, .pfm, .cad, .lpe, .slv, .rtc, .pnl, .bgs] → t.mem = s.mem ∧ t.pending = s.pending ∧
            (Sparse.wf regReset s.regs = true → t.regGet (R.BLK_LOCK b) = s.regGet (R.BLK_LOCK b)) ∧
            ∀ a, blkAt a ≠ some b → t.regGet a = s.regGet a)) ∧
      (s.bit (F.BLK_LOCK_CTRL_LOCK b) = true → s.Yields (.softRst m b) fun t => t.inSoftRst b = false ∧ t.Erred b 2 2 ∧ s.Spares t ∧
        t.en b = s.en b) ∧
      (∀ on, s.bit (F.BLK_CTRL_FREEZE b) ≠ on →
        (s.dbgEn = true → s.Yields (.freeze m b on) fun t => t.bit (F.BLK_CTRL_FREEZE b) = on ∧ t.en b = s.en b ∧
          (on = false → t.isHalted b = false) ∧ s.Spares t) ∧
        (s.dbgEn = false → s.Yields (.freeze m b on) fun t => t.bit (F.BLK_CTRL_FREEZE b) = s.bit (F.BLK_CTRL_FREEZE b) ∧ t.Erred b 3 2 ∧ s.Spares t))) ∧
    (s.unreachable b = false → s.inSoftRst b = true → ∀ v : Word,
      (s.Yields (.regWrite m (BitVec.ofNat 40 (R.BLK_IRQ_EN b)) v) fun t => t.regGet (R.BLK_IRQ_EN b) = s.regGet (R.BLK_IRQ_EN b) ∧
        t.Erred b 6 5 ∧ t.resp = ⟨0, false⟩ ∧ s.Spares t) ∧
      exec (.rcRead m (BitVec.ofNat 40 (R.BLK_IRQ_EN b))) s = .next { s with resp := ⟨0, false⟩ }) ∧
    (s.pending = [] → ∃ t, step s = .next t ∧ t.inSoftRst b = false ∧ t.pending = [])

/-- CFG_LOCK, CTRL_LOCK, FORCE_LOCK and CHG_LOCK set their bit alone; an RWL field is refused with code 1 while EN is 1 and code 2 under
CFG_LOCK; an RWS field written while EN is 1 goes to its shadow, which reads back, and is active at once while EN is 0; CFGSUM_UPDATE
shows the CRC of the active configuration. (R50, R51, R52, R53, R54, R55, R133, R151) -/
def Obligations.LocksAndShadows : Prop :=
  ∀ (m : Master) (s : State),
    (∀ b, s.MayWrite m b (R.BLK_LOCK b) →
      let locks (i : Instr) (bits : Word) : Prop := s.Yields i fun t => t.regGet (R.BLK_LOCK b) = s.regGet (R.BLK_LOCK b) ||| bits ∧ s.Spares t ∧
        ∀ a, a ≠ R.BLK_LOCK b → t.regGet a = s.regGet a
      locks (.cfgLock m b) 1 ∧ locks (.ctrlLock m b) 2 ∧ (b = .cad → locks (.forceLock m) 4 ∧ locks (.chgLock m) 8)) ∧
    (s.Answers .lpe → ∀ v : Word, getBits v 0 8 ≠ s.rd F.LPE_TBL_BASE_HI_BASE_HI →
      let write (p : State → Prop) : Prop := s.Yields (.regWrite m (BitVec.ofNat 40 R.LPE_TBL_BASE_HI) v) fun t => p t ∧ s.Spares t
      (s.en .lpe = true → write fun t => t.regGet R.LPE_TBL_BASE_HI = s.regGet R.LPE_TBL_BASE_HI ∧ t.Erred .lpe 1 0x11) ∧
      (s.en .lpe = false → s.bit (F.BLK_LOCK_CFG_LOCK .lpe) = true →
        write fun t => t.regGet R.LPE_TBL_BASE_HI = s.regGet R.LPE_TBL_BASE_HI ∧ t.Erred .lpe 2 0x11) ∧
      (s.en .lpe = false → s.bit (F.BLK_LOCK_CFG_LOCK .lpe) = false →
        write fun t => t.rd F.LPE_TBL_BASE_HI_BASE_HI = getBits v 0 8 ∧ t.bit (F.BLK_STAT_SUM_PEND .lpe) = true)) ∧
    (∀ n : Fin 8, s.Answers .cad → s.bit (F.BLK_LOCK_CFG_LOCK .cad) = false → ∀ v : Word,
      let f := F.CAD_TASKn_PHASE_PHASE n
      shadowOf s.shadows f = none → getBits v 0 24 ≠ s.rd f →
      s.Yields (.regWrite m (BitVec.ofNat 40 f.addr) v) fun t => s.Spares t ∧
        (if s.en .cad then t.rd f = s.rd f ∧ t.rdShadow f = getBits v 0 24 ∧ t.shadowPend .cad = true
         else t.rd f = getBits v 0 24 ∧ shadowOf t.shadows f = none ∧ t.bit (F.BLK_STAT_SUM_PEND .cad) = true)) ∧
    (∀ b : Blk, s.bit (F.BLK_STAT_SUM_PEND b) = true → s.domOff.getLsbD b.domain.idx = false →
      s.Yields (.cfgsumUpdate b) fun t => t.regGet (R.BLK_CFGSUM b) = cfgSumOf s.regGet b ∧ t.bit (F.BLK_STAT_SUM_PEND b) = false ∧ s.Spares t ∧
        ∀ a, a ≠ R.BLK_CFGSUM b → a ≠ R.BLK_STAT b → t.regGet a = s.regGet a)

/-- A claim answers an eligible source with the highest PRIO, the lower number on a tie, and marks it in service, or answers 0 where
none is eligible; CLAIM4 of another master answers 0 and claims nothing; DB_SET and DB_CLR set and clear doorbells; a write of
INT_SRC_CFGn by another master than the monitor keeps TGT_M, and PRIO for sources 108 to 111. (R59, R62, R63, R66) -/
def Obligations.ClaimsAndDoorbells : Prop :=
  ∀ (m : Master) (s : State), s.Answers .int →
    (∀ t : Fin 5, (t = 4 → m = .mon) →
      ((∀ n, n < 128 → s.srcEligible t n = false) → exec (.claim m t) s = .next { s with resp := ⟨0, false⟩ }) ∧
      ((∃ n, n < 128 ∧ s.srcEligible t n = true) →
        ∃ n, n < 128 ∧ s.srcEligible t n = true ∧
          (∀ k, k < 128 → s.srcEligible t k = true →
            s.rd (F.INT_SRC_CFGn_PRIO k) < s.rd (F.INT_SRC_CFGn_PRIO n) ∨ s.rd (F.INT_SRC_CFGn_PRIO k) = s.rd (F.INT_SRC_CFGn_PRIO n) ∧ n ≤ k) ∧
          exec (.claim m t) s = .next { s with inserv := s.inserv ++ [(n, t.val)], resp := ⟨BitVec.ofNat 32 (2 ^ 31 + n), false⟩ })) ∧
    (m ≠ .mon → exec (.claim m 4) s = .next { s with resp := ⟨0, false⟩ }) ∧
    (∀ v : BitVec 8,
      exec (.dbSet m v) s = .next { s with doorbells := s.doorbells ||| v, resp := ⟨0, false⟩ } ∧
      exec (.dbClr m v) s = .next { s with doorbells := s.doorbells &&& ~~~v, resp := ⟨0, false⟩ }) ∧
    (∀ (n : BitVec 7) (v : Word), s.Yields (.intSrcCfg m n v) fun t => s.Spares t ∧ t.resp = ⟨0, false⟩ ∧
      (∀ a, a ≠ R.INT_SRC_CFGn n.toNat → t.regGet a = s.regGet a) ∧
      (let own := decide (108 ≤ n.toNat) && decide (n.toNat ≤ 111)
       t.rd (F.INT_SRC_CFGn_PRIO n.toNat) = (if own && m != .mon then s.rd (F.INT_SRC_CFGn_PRIO n.toNat) else getBits v 0 4) ∧
       t.rd (F.INT_SRC_CFGn_TGT_H n.toNat) = (if own then s.rd (F.INT_SRC_CFGn_TGT_H n.toNat) else getBits v 8 4) ∧
       t.rd (F.INT_SRC_CFGn_TGT_M n.toNat) = (if own || m != .mon then s.rd (F.INT_SRC_CFGn_TGT_M n.toNat) else getBits v 12 1)))

/-- A completion of a source that its target claimed ends its service, after which the source is eligible again at once where it is
still high; one of a source not in service at the target is discarded with code 0x80 and WOFF holding the source. (R64) -/
def Obligations.CompletionEndsService : Prop :=
  ∀ (m : Master) (t : Fin 5) (src : BitVec 7) (s : State), s.MayWrite m .int (R.INT_TGT_COMPLETEt t) →
    ((src.toNat, t.val) ∈ s.inserv →
      s.Yields (.complete m t src) fun u => (src.toNat, t.val) ∉ u.inserv ∧ (∀ x, x ≠ (src.toNat, t.val) → (x ∈ u.inserv ↔ x ∈ s.inserv)) ∧
        u.regs = s.regs ∧ s.Spares u ∧
        ((∀ k, (src.toNat, k) ∈ s.inserv → k = t.val) → ∀ k, u.srcEligible k src.toNat =
          (s.srcHigh src.toNat && s.routed k src.toNat && decide (s.rd (F.INT_TGT_CTRLt_THRESH k) ≤ s.rd (F.INT_SRC_CFGn_PRIO src.toNat))))) ∧
    ((src.toNat, t.val) ∉ s.inserv →
      s.Yields (.complete m t src) fun u => u.inserv = s.inserv ∧ u.Erred .int 0x80 src.toNat ∧ s.Spares u)

/-- On an executing context every instruction of R89 (LDK, LDKH) to R94 completes: rd (W0 discards it) holds the result of the tables,
the task's sticky flags gain those the operation sets, and every other working register, every other context, memory and the register
pages stay. (R83, R85, R89, R90, R91, R92, R93, R94) -/
def Obligations.ArithmeticResult : Prop :=
  ∀ (i : Instr) (c : Fin 16) (rd : BitVec 5) (f : LaneCtx → Res) (s : State), aluOf i = some (c, rd, f) → s.Executes c →
    ∃ t, exec i s = .next t ∧ s.Computes t c rd (f (s.ctxAt c)).1 ∧
      (t.task (s.ctxAt c).task).flags = (s.task (s.ctxAt c).task).flags ||| (f (s.ctxAt c)).2 ∧
      (∀ n, n ≠ (s.ctxAt c).task → t.task n = s.task n) ∧ t.mem = s.mem

/-- DIV, DIVU, REM and REMU complete on every operand, with the corners of R91 and DZ for a zero divisor; a saturating result that clips
sets SAT. (R91) -/
def Obligations.DivisionNeverTraps : Prop :=
  ∀ (c : Fin 16) (rd p q : BitVec 5) (s : State), s.Executes c →
    let x := s.ctxAt c
    let a := x.r p
    let b := x.r q
    let gives (i : Instr) (v : Word) (flag : Option Nat) : Prop :=
      ∃ t, exec i s = .next t ∧ (t.ctxAt c).busy = true ∧ (t.task x.task).excs = (s.task x.task).excs ∧
        (t.ctxAt c).r rd = (if rd = 0 then 0 else v) ∧ ∀ n, flag = some n → (t.task x.task).flags.getLsbD n = true
    (∀ i ∈ [Instr.div c rd p q, Instr.divu c rd p q, Instr.rem c rd p q, Instr.remu c rd p q],
      ∃ t, exec i s = .next t ∧ (t.ctxAt c).busy = true ∧ (t.task x.task).excs = (s.task x.task).excs) ∧
    (b = 0 →
      gives (.div c rd p q) (if 0 ≤ a.toInt then 0x7FFFFFFF else 0x80000000) (some 1) ∧ gives (.divu c rd p q) 0xFFFFFFFF (some 1) ∧
      gives (.rem c rd p q) a (some 1) ∧ gives (.remu c rd p q) a (some 1)) ∧
    (a = 0x80000000 → b = 0xFFFFFFFF → gives (.div c rd p q) 0x7FFFFFFF (some 0) ∧ gives (.rem c rd p q) 0 none) ∧
    (2147483647 < a.toInt + b.toInt ∨ a.toInt + b.toInt < -2147483648 →
      ∃ v, gives (.adds c rd p q) v (some 0)) ∧
    (2147483647 < a.toInt - b.toInt ∨ a.toInt - b.toInt < -2147483648 →
      ∃ v, gives (.subs c rd p q) v (some 0)) ∧
    (a = 0x80000000 → gives (.abs c rd p) 0x7FFFFFFF (some 0) ∧ gives (.neg c rd p) 0x7FFFFFFF (some 0))

/-- LDS, LDS.ST, QTST, QTST.F, LDSX and LDSX.ST on a slot below N_SLOTS complete with the value, the status word, QUAL ≤ L or FORCED of
the slot in rd, and change nothing else. (R78, R79, R88) -/
def Obligations.SlotReads : Prop :=
  ∀ (c : Fin 16) (rd : BitVec 5) (s : State), s.Executes c →
    let x := s.ctxAt c
    let gives (i : Instr) (v : Word) : Prop := ∃ t, exec i s = .next t ∧ s.Computes t c rd v ∧ t.cad.tasks = s.cad.tasks ∧ t.mem = s.mem
    (∀ (slot : BitVec 16) (l : BitVec 3), slot.toNat < s.nSlots s.runBank →
      gives (.lds c rd slot) (s.readSlot x slot.toNat).1 ∧ gives (.ldsSt c rd slot) (s.readSlot x slot.toNat).2 ∧
      gives (.qtst c rd slot l) (if (s.readSlot x slot.toNat).2.toNat % 8 ≤ l.toNat then 1 else 0) ∧
      gives (.qtstF c rd slot) (if (s.readSlot x slot.toNat).2.getLsbD 3 then 1 else 0)) ∧
    (∀ rs1 : BitVec 5, (x.r rs1).toNat < s.nSlots s.runBank →
      gives (.ldsx c rd rs1) (s.readSlot x (x.r rs1).toNat).1 ∧ gives (.ldsxSt c rd rs1) (s.readSlot x (x.r rs1).toNat).2)

/-- STS and STSX to a slot that the task may write put the value (1 for a nonzero value of a BOOL slot) and the quality into the live
image, and no other byte of memory changes; where a higher-numbered instance of the wave wrote the slot, memory stays. (R79, R80, R88)
-/
def Obligations.SlotStores : Prop :=
  ∀ (c : Fin 16) (slot : Nat) (v : Word) (q : BitVec 3) (i : Instr) (s : State), s.Executes c →
    ((∃ r k, i = .sts c r k q ∧ slot = k.toNat ∧ v = (s.ctxAt c).r r) ∨
      (∃ r1 r2, i = .stsx c r1 r2 q ∧ slot = ((s.ctxAt c).r r1).toNat ∧ v = (s.ctxAt c).r r2)) →
    s.MayStore c slot v q →
    ∃ t, exec i s = .next t ∧ (∀ r, (t.ctxAt c).r r = (s.ctxAt c).r r) ∧ t.regs = s.regs ∧
      (if s.outranked (s.ctxAt c).task (s.ctxAt c).inst slot then t.mem = s.mem
       else
        t.liveVal slot = (if s.slotType s.runBank slot = 0 then (if v = 0 then 0 else 1) else v) ∧ t.liveSt slot = BitVec.ofNat 32 q.toNat ∧
        ∀ a, (a < liveAddr slot ∨ liveAddr slot + 8 ≤ a) → t.byte a = s.byte a)

/-- LDW, LDH and LDB at an offset without exception complete with the bytes of the instance's data in rd: 32 bits, 16 bits
sign-extended, 8 bits zero-extended. (R89) -/
def Obligations.InstanceDataLoads : Prop :=
  ∀ (c : Fin 16) (rd rs1 : BitVec 5) (imm : BitVec 16) (s : State), s.Executes c →
    let x := s.ctxAt c
    let o := (x.r rs1).toNat + imm.toNat
    let a := s.dataAddr s.runBank x.cur o
    let gives (i : Instr) (v : Word) : Prop := ∃ t, exec i s = .next t ∧ s.Computes t c rd v ∧ t.cad.tasks = s.cad.tasks ∧ t.mem = s.mem
    (s.dataExc x o 4 = none →
      gives (.ldw c rd rs1 imm) (s.byte (a + 3) ++ s.byte (a + 2) ++ s.byte (a + 1) ++ s.byte a)) ∧
    (s.dataExc x o 2 = none → gives (.ldh c rd rs1 imm) ((s.byte (a + 1) ++ s.byte a).signExtend 32)) ∧
    (s.dataExc x o 1 = none → gives (.ldb c rd rs1 imm) ((s.byte a).setWidth 32))

/-- STW, STH and STB at an offset without exception store the low 4, 2 and 1 bytes of W[rd], little-endian, at that offset of the
instance's data; every other byte, every working register and every task stay. (R89) -/
def Obligations.InstanceDataStores : Prop :=
  ∀ (c : Fin 16) (rd rs1 : BitVec 5) (imm : BitVec 16) (s : State), s.Executes c →
    let x := s.ctxAt c
    let o := (x.r rs1).toNat + imm.toNat
    let a := s.dataAddr s.runBank x.cur o
    let stores (i : Instr) (w : Nat) : Prop :=
      ∃ t, exec i s = .next t ∧ (∀ k, k < w → t.byte (a + k) = BitVec.ofNat 8 ((x.r rd).toNat / 256 ^ k)) ∧
        (∀ b, (b < a ∨ a + w ≤ b) → t.byte b = s.byte b) ∧ (∀ r, (t.ctxAt c).r r = x.r r) ∧ (∀ d, d ≠ c → t.ctxAt d = s.ctxAt d) ∧
        t.cad.tasks = s.cad.tasks ∧ t.regs = s.regs
    (s.dataExc x o 4 = none → stores (.stw c rd rs1 imm) 4) ∧ (s.dataExc x o 2 = none → stores (.sth c rd rs1 imm) 2) ∧
    (s.dataExc x o 1 = none → stores (.stb c rd rs1 imm) 1)

/-- TON, TOF and TP on an aligned block within the data give Q in rd and store ET and Q by R95's rules; EDGE gives IN AND NOT PREV, or
PREV AND NOT IN, and sets PREV to IN; no byte outside the block or the state byte changes. (R95, R96) -/
def Obligations.TimersAndEdges : Prop :=
  ∀ (c : Fin 16) (rd rs1 : BitVec 5) (s : State), s.Executes c →
    let x := s.ctxAt c
    let inp := decide (x.r rs1 ≠ 0)
    (∀ (off : BitVec 14) (i : Instr) (f : Timer → Bool → Nat → Timer),
      (i, f) ∈ [(Instr.ton c rd rs1 off, tonNext), (Instr.tof c rd rs1 off, tofNext), (Instr.tp c rd rs1 off, tpNext)] →
      off.toNat + 12 ≤ 16384 → off.toNat + 12 ≤ s.instDsize s.runBank x.cur → off.toNat % 4 = 0 →
      let a := s.dataAddr s.runBank x.cur off.toNat
      s.ueIn a 12 = none →
      let t1 := f ⟨s.rdLe a 4, s.rdLe (a + 4) 4, (s.rdLe (a + 8) 4).testBit 0, (s.rdLe (a + 8) 4).testBit 1⟩ inp (s.deltaOf x)
      ∃ t, exec i s = .next t ∧ (t.ctxAt c).r rd = (if rd = 0 then 0 else if t1.q then 1 else 0) ∧ t.rdLe a 4 = s.rdLe a 4 ∧
        t.rdLe (a + 4) 4 = t1.et % 2 ^ 32 ∧ (t.rdLe (a + 8) 4).testBit 0 = t1.q ∧ (t.rdLe (a + 8) 4).testBit 1 = inp ∧
        ∀ b, (b < a ∨ a + 12 ≤ b) → t.byte b = s.byte b) ∧
    (∀ off : BitVec 15, s.dataExc x off.toNat 1 = none →
      let a := s.dataAddr s.runBank x.cur off.toNat
      let prev := (s.byte a).getLsbD 0
      (∃ t, exec (.edgeRising c rd rs1 off) s = .next t ∧ (t.ctxAt c).r rd = (if rd = 0 then 0 else if inp && !prev then 1 else 0) ∧
        (t.byte a).getLsbD 0 = inp ∧ ∀ b, b ≠ a → t.byte b = s.byte b) ∧
      (∃ t, exec (.edgeFalling c rd rs1 off) s = .next t ∧ (t.ctxAt c).r rd = (if rd = 0 then 0 else if prev && !inp then 1 else 0) ∧
        (t.byte a).getLsbD 0 = inp ∧ ∀ b, b ≠ a → t.byte b = s.byte b))

/-- BEQ, BNE, BLT and BGE continue at PC + 1 + off16 when their condition holds and at PC + 1 otherwise, and JMP at PC + 1 + off26
(where no loop body ends there); registers, tasks and memory stay. (R97) -/
def Obligations.BranchesGoForward : Prop :=
  ∀ (c : Fin 16) (s : State), s.Executes c →
    let x := s.ctxAt c
    let goes (i : Instr) (pc : Nat) : Prop :=
      ∃ t, exec i s = .next t ∧ (t.ctxAt c).pc = (closeLoops pc x.loops).1 ∧ (∀ r, (t.ctxAt c).r r = x.r r) ∧
        (∀ d, d ≠ c → t.ctxAt d = s.ctxAt d) ∧ t.cad.tasks = s.cad.tasks ∧ t.mem = s.mem ∧ t.regs = s.regs
    (∀ (p q : BitVec 5) (off : BitVec 16),
      goes (.beq c p q off) (x.pc + 1 + if x.r p = x.r q then off.toNat else 0) ∧
      goes (.bne c p q off) (x.pc + 1 + if x.r p ≠ x.r q then off.toNat else 0) ∧
      goes (.blt c p q off) (x.pc + 1 + if (x.r p).toInt < (x.r q).toInt then off.toNat else 0) ∧
      goes (.bge c p q off) (x.pc + 1 + if (x.r q).toInt ≤ (x.r p).toInt then off.toNat else 0)) ∧
    (∀ off : BitVec 26, goes (.jmp c off) (x.pc + 1 + off.toNat)) ∧
    goes (.nop c) (x.pc + 1)

/-- LOOP opens a body of len instructions, or skips it for a count of 0; LIDX gives the innermost index; CALL of an owned CALLED
instance continues at its entry with its data and no open loop, and returns at once for one in HOLD or POISONED; RET restores the
caller's instance and loops, and at depth 0 frees the context. The loop bodies that end at the new PC close, the innermost first. But
for LIDX's rd no working register changes, nor do other contexts, tasks, memory and the register pages. (R98, R99, R105, R106) -/
def Obligations.LoopsAndCalls : Prop :=
  ∀ (c : Fin 16) (s : State), s.Executes c →
    let x := s.ctxAt c
    let goes (i : Instr) (cur pc : Nat) (loops : List LoopFrame) (calls : List CallFrame) : Prop :=
      ∃ t, exec i s = .next t ∧ (t.ctxAt c).busy = true ∧ (t.ctxAt c).inst = x.inst ∧ (t.ctxAt c).task = x.task ∧
        (t.ctxAt c).count = x.count + 1 ∧ (t.ctxAt c).cur = cur ∧ (t.ctxAt c).pc = (closeLoops pc loops).1 ∧
        (t.ctxAt c).loops = (closeLoops pc loops).2 ∧ (t.ctxAt c).calls = calls ∧ (∀ r, (t.ctxAt c).r r = x.r r) ∧
        (∀ d, d ≠ c → t.ctxAt d = s.ctxAt d) ∧ t.cad.tasks = s.cad.tasks ∧ t.mem = s.mem ∧ t.regs = s.regs
    (∀ (rs1 : BitVec 5) (bound : BitVec 11) (len : BitVec 10), bound ≠ 0 → len ≠ 0 → x.loops.length < 4 → (x.r rs1).toNat ≤ bound.toNat →
      (x.r rs1 = 0 → goes (.loop c rs1 bound len) x.cur (x.pc + 1 + len.toNat) x.loops x.calls) ∧
      (x.r rs1 ≠ 0 → goes (.loop c rs1 bound len) x.cur (x.pc + 1) (⟨x.pc + 1, x.pc + 1 + len.toNat, 0, (x.r rs1).toNat⟩ :: x.loops) x.calls)) ∧
    (∀ rd : BitVec 5, ∃ t, exec (.lidx c rd) s = .next t ∧
      s.Computes t c rd (BitVec.ofNat 32 (match x.loops with | [] => 0 | f :: _ => f.idx)) ∧ t.mem = s.mem ∧ t.cad.tasks = s.cad.tasks ∧
      (t.ctxAt c).pc = (closeLoops (x.pc + 1) x.loops).1) ∧
    (∀ (rs1 : BitVec 5) (imm : BitVec 16),
      let o := (x.r rs1).toNat + imm.toNat
      let i := s.rdLe (s.dataAddr s.runBank x.cur o) 4
      s.dataExc x o 4 = none → i < s.nInst s.runBank → s.instCalled s.runBank i = true → s.owns s.runBank x.cur i = true →
      x.calls.length < 16 →
      (s.cad.hold.contains i = true ∨ s.cad.poisoned.contains i = true → goes (.call c rs1 imm) x.cur (x.pc + 1) x.loops x.calls) ∧
      (s.cad.hold.contains i = false → s.cad.poisoned.contains i = false →
        goes (.call c rs1 imm) i (s.typeEntry s.runBank (s.instType s.runBank i)) [] (⟨x.pc + 1, x.cur, x.loops⟩ :: x.calls))) ∧
    (∀ (f : CallFrame) (l : List CallFrame), x.calls = f :: l → goes (.ret c) f.inst f.ret f.loops l) ∧
    (x.calls = [] → s.Yields (.ret c) fun t => t = (s.setCtx c {}).dispatch ∧ t.mem = s.mem ∧ t.regs = s.regs ∧
      (s.saveHolds = true → (t.ctxAt c).busy = false ∧ ∀ d, d ≠ c → t.ctxAt d = s.ctxAt d))

/-- LSP, LMODE, LMAN, SLVQ and EVT append their request to the task's list under the scheduled instance (the LMODE value 3 is ignored
and sets REQ_DROP); LOUT, LWIN, SLVST and SLVRD give the values of the task's cycle start; SLVRD at or beyond the result's length aborts
with BOUNDS. (R100, R101, R102, R103) -/
def Obligations.RequestsArePosted : Prop :=
  ∀ (c : Fin 16) (rd rs1 : BitVec 5) (s : State), s.Executes c →
    let x := s.ctxAt c
    let tk := s.task x.task
    let v := x.r rs1
    let posts (i : Instr) (k : PostKind) : Prop :=
      ∃ t, exec i s = .next t ∧ (t.task x.task).posts = tk.posts ++ [⟨x.inst, k⟩] ∧ (∀ n, n ≠ x.task → t.task n = s.task n) ∧
        t.mem = s.mem ∧ t.regs = s.regs
    let gives (i : Instr) (w : Word) : Prop := ∃ t, exec i s = .next t ∧ s.Computes t c rd w ∧ t.cad.tasks = s.cad.tasks ∧ t.mem = s.mem
    (∀ (slot : BitVec 6) (loop : BitVec 2),
      posts (.lsp c rd rs1 slot loop) (.lsp slot.toNat loop.toNat v) ∧ posts (.lman c rd rs1 slot loop) (.lman slot.toNat loop.toNat v) ∧
      (v.toNat % 4 ≠ 3 → posts (.lmode c rd rs1 slot loop) (.lmode slot.toNat loop.toNat (v.toNat % 4))) ∧
      (v.toNat % 4 = 3 → ∃ t, exec (.lmode c rd rs1 slot loop) s = .next t ∧ (t.task x.task).posts = tk.posts ∧
        (t.task x.task).flags = tk.flags ||| 0x200) ∧
      gives (.lout c rd slot) (Sparse.get tk.louts (0, 4) slot.toNat).1 ∧
      gives (.lwin c rd slot) (BitVec.ofNat 32 (Sparse.get tk.louts (0, 4) slot.toNat).2)) ∧
    (∀ tpl : BitVec 8,
      posts (.slvq c rd rs1 tpl) (.slvq tpl.toNat (tk.start + 1000 * v.toNat)) ∧
      gives (.slvst c rd tpl) (Sparse.get tk.tpls 0 tpl.toNat) ∧
      let res : List Byte := Sparse.get tk.wins [] tpl.toNat
      (4 * v.toNat < res.length → gives (.slvrd c rd rs1 tpl) (wordAt res (4 * v.toNat))) ∧
      (res.length ≤ 4 * v.toNat → ∃ t e, exec (.slvrd c rd rs1 tpl) s = .next t ∧ (t.task x.task).excs = tk.excs ++ [e] ∧ e.inst = x.inst ∧
        e.code = 2 ∧ e.pc = x.pc ∧ t.mem = s.mem)) ∧
    (∀ imm : BitVec 16, posts (.evt c rd rs1 imm) (.evt (0xE000 + imm.toNat % 8192) (imm.toNat / 8192) (x.r rd).toNat v.toNat))

/-- TRAP, ASSERT on 0 and an illegal encoding, a slot or offset out of range, a store to a slot of another direction or task, a
misaligned access, a CALL of no owned CALLED instance or at depth 16, a count above bound, a budget used up: each adds its exception
(instance, code, PC, argument) to its task, faults the task or holds the instance by the type's FAULT_POL, and memory and the register
pages stay; ASSERT of a nonzero value goes on. That a LOOP of bound or length 0 or at depth 4 is an illegal encoding is the model's
reading (log entry 13). (R79, R88, R89, R95, R96, R98, R99, R103, R104, R105) -/
def Obligations.ExceptionsAbortTheInstance : Prop :=
  ∀ (c : Fin 16) (s : State), s.Live .cad → (s.ctxAt c).busy = true →
    let x := s.ctxAt c
    let pol := s.typePol s.runBank (s.instType s.runBank x.inst)
    let aborts (i : Instr) (code arg : Nat) : Prop :=
      ∃ t e, exec i s = .next t ∧ (t.task x.task).excs = (s.task x.task).excs ++ [e] ∧ e.inst = x.inst ∧ e.code = code ∧ e.pc = x.pc ∧
        e.arg = arg ∧ (t.task x.task).faulted = ((s.task x.task).faulted || decide (pol = 2)) ∧ (pol = 1 → x.inst ∈ t.cad.hold) ∧
        (pol ≠ 1 → t.cad.hold = s.cad.hold) ∧ (∀ n, (t.task n).posts = (s.task n).posts) ∧ t.mem = s.mem ∧ t.regs = s.regs
    (s.Executes c →
      (∀ imm, aborts (.trap c imm) 10 imm.toNat) ∧ aborts (.illegal c) 1 0 ∧
      (∀ rs1 imm, x.r rs1 = 0 → aborts (.assert c rs1 imm) 11 imm.toNat) ∧
      (∀ rs1 imm, x.r rs1 ≠ 0 → s.Yields (.assert c rs1 imm) fun t => t.cad.tasks = s.cad.tasks ∧ t.mem = s.mem ∧ t.regs = s.regs ∧
        (t.ctxAt c).pc = (closeLoops (x.pc + 1) x.loops).1 ∧ (∀ r, (t.ctxAt c).r r = x.r r) ∧ ∀ d, d ≠ c → t.ctxAt d = s.ctxAt d) ∧
      (∀ rd slot l, s.nSlots s.runBank ≤ slot.toNat → aborts (.lds c rd slot) 2 0 ∧ aborts (.ldsSt c rd slot) 2 0 ∧
        aborts (.qtst c rd slot l) 2 0 ∧ aborts (.qtstF c rd slot) 2 0 ∧ ∀ q, q ≠ 7 → aborts (.sts c rd slot q) 2 0) ∧
      (∀ rd rs1, s.nSlots s.runBank ≤ (x.r rs1).toNat → aborts (.ldsx c rd rs1) 2 0 ∧ aborts (.ldsxSt c rd rs1) 2 0 ∧
        ∀ q, q ≠ 7 → aborts (.stsx c rs1 rd q) 2 0) ∧
      (∀ slot, slot < s.nSlots s.runBank →
        ((s.slotDir s.runBank slot ≠ 1 ∧ s.slotDir s.runBank slot ≠ 2) ∨ s.slotWriter s.runBank slot ≠ x.task.val) →
        (∀ rd k q, k.toNat = slot → q ≠ 7 → aborts (.sts c rd k q) 4 0) ∧
        ∀ rs1 rs2 q, (x.r rs1).toNat = slot → q ≠ 7 → aborts (.stsx c rs1 rs2 q) 4 0) ∧
      (∀ rd rs1 imm,
        let o := (x.r rs1).toNat + imm.toNat
        (s.instDsize s.runBank x.cur ≤ o → aborts (.ldw c rd rs1 imm) 2 0 ∧ aborts (.ldh c rd rs1 imm) 2 0 ∧ aborts (.ldb c rd rs1 imm) 2 0 ∧
          aborts (.stw c rd rs1 imm) 2 0 ∧ aborts (.sth c rd rs1 imm) 2 0 ∧ aborts (.stb c rd rs1 imm) 2 0 ∧ aborts (.call c rs1 imm) 2 0) ∧
        (o < s.instDsize s.runBank x.cur → o % 4 ≠ 0 →
          aborts (.ldw c rd rs1 imm) 3 0 ∧ aborts (.stw c rd rs1 imm) 3 0 ∧ aborts (.call c rs1 imm) 3 0) ∧
        (o < s.instDsize s.runBank x.cur → o % 2 ≠ 0 → aborts (.ldh c rd rs1 imm) 3 0 ∧ aborts (.sth c rd rs1 imm) 3 0) ∧
        (s.dataExc x o 4 = none →
          let i := s.rdLe (s.dataAddr s.runBank x.cur o) 4
          (s.nInst s.runBank ≤ i ∨ s.instCalled s.runBank i = false ∨ s.owns s.runBank x.cur i = false → aborts (.call c rs1 imm) 5 0) ∧
          (i < s.nInst s.runBank → s.instCalled s.runBank i = true → s.owns s.runBank x.cur i = true → 16 ≤ x.calls.length →
            aborts (.call c rs1 imm) 6 0))) ∧
      (∀ rd rs1 off, (16384 < off.toNat + 12 ∨ s.instDsize s.runBank x.cur < off.toNat + 12) →
        aborts (.ton c rd rs1 off) 2 0 ∧ aborts (.tof c rd rs1 off) 2 0 ∧ aborts (.tp c rd rs1 off) 2 0) ∧
      (∀ rd rs1 off, s.instDsize s.runBank x.cur ≤ off.toNat → aborts (.edgeRising c rd rs1 off) 2 0 ∧ aborts (.edgeFalling c rd rs1 off) 2 0) ∧
      (∀ rs1 bound len, bound ≠ 0 → len ≠ 0 → x.loops.length < 4 → bound.toNat < (x.r rs1).toNat → aborts (.loop c rs1 bound len) 7 0) ∧
      (∀ rs1 bound len, bound = 0 ∨ len = 0 ∨ 4 ≤ x.loops.length → aborts (.loop c rs1 bound len) 1 0)) ∧
    (s.budgetOf x < x.count + 1 → ∀ imm, aborts (.nop c) 8 0 ∧ aborts (.ret c) 8 0 ∧ aborts (.jmp c imm) 8 0)

/-- LOAD starts loading a bank that is not ACTIVE while none is LOADING, takes its verification mark and abandons a change that is
CHECKING, ARMED or MIGRATING, and is refused with 0x84 otherwise; LOAD_CHECK_END makes the bank LOADED exactly where header and image
pass, FAILED with the first failing code otherwise; BACKGROUND_REHASH fails a LOADED bank whose hash differs and leaves an ACTIVE one
running, with code 0x82 once. (R109, R110, R111, R112, R149) -/
def Obligations.ProgramLoading : Prop :=
  ∀ (m : Master) (b : Fin 2) (s : State),
    (s.MayWrite m .cad R.CAD_LOADCMD →
      (s.bankState b ≠ 3 → s.bankState 0 ≠ 1 → s.bankState 1 ≠ 1 →
        s.Yields (.load m b) fun t => t.bankState b = 1 ∧ t.bankState (1 - b.val) = s.bankState (1 - b.val) ∧ t.bit (verifyFld b) = false ∧
          t.cad.loadVerified = s.bit (verifyFld b) ∧ (1 ≤ s.chgState → s.chgState ≤ 3 → t.chgState = 5 ∧ t.rd F.CAD_CHG_STAT_RESULT = 7) ∧
            (s.cad.held = [] → t.mem = s.mem) ∧
          t.cad.ctx = s.cad.ctx) ∧
      (s.bankState b = 3 ∨ s.bankState 0 = 1 ∨ s.bankState 1 = 1 →
        s.Yields (.load m b) fun t => t.bankState 0 = s.bankState 0 ∧ t.bankState 1 = s.bankState 1 ∧ t.rd F.CAD_BANK_STAT_RESULT = 0x0D ∧
          t.Erred .cad 0x84 (woffOf .cad R.CAD_LOADCMD) ∧ s.Spares t)) ∧
    (s.Live .cad → (s.bankState 0 = 1 ∨ s.bankState 1 = 1) →
      let k : Nat := if s.bankState 0 = 1 then 0 else 1
      let ends (st r : Nat) : Prop := s.Yields .loadCheckEnd fun t =>
        t.bankState k = st ∧ t.bankState (1 - k) = s.bankState (1 - k) ∧ t.rd F.CAD_BANK_STAT_RESULT = r ∧ t.rd F.CAD_BANK_STAT_RBANK = k ∧
          t.mem = s.mem ∧ t.cad.ctx = s.cad.ctx
      (∀ o, (s.readImage k 256).2 = .error o → ends 4 0x0F) ∧
      (∀ h, (s.readImage k 256).2 = .ok h →
        let s1 := (s.readImage k 256).1
        ((headerCheck h s.cad.loadVerified).1 ≠ 0 → ends 4 (headerCheck h s.cad.loadVerified).1) ∧
        ((headerCheck h s.cad.loadVerified).1 = 0 →
          (∀ o, (s1.readImage k (max 256 (hdImgSize h))).2 = .error o → ends 4 0x0F) ∧
          (∀ i, (s1.readImage k (max 256 (hdImgSize h))).2 = .ok i →
            ends (if (imageCheck i (s.phashReg k)).1 = 0 then 2 else 4) (imageCheck i (s.phashReg k)).1)))) ∧
    (s.Live .cad → (s.bankState b = 2 ∨ s.bankState b = 3) → ∀ i, (s.readImage b (max 256 (s.img b 8 4))).2 = .ok i →
      s.Yields (.backgroundRehash b) fun t => t.mem = s.mem ∧ t.cad.ctx = s.cad.ctx ∧
        t.bankState (1 - b.val) = s.bankState (1 - b.val) ∧
        (leNat (phashOf i) = s.bankHash b → t.bankState b = s.bankState b ∧ t.rd F.CAD_BANK_STAT_RESULT = 0 ∧ t.rd F.CAD_BANK_STAT_RBANK = b.val) ∧
        (leNat (phashOf i) ≠ s.bankHash b → s.bankState b = 2 → t.bankState b = 4 ∧ t.rd F.CAD_BANK_STAT_RESULT = 4) ∧
        (leNat (phashOf i) ≠ s.bankHash b → s.bankState b = 3 → t.bankState b = 3 ∧ t.rd F.CAD_BANK_STAT_RESULT = 4 ∧
          (s.cad.altReported = false → t.Erred .cad 0x82 0 ∧ t.cad.altReported = true)))

/-- A due start of an IDLE task makes it RUNNING with the instant, Δ and no sticky flag or fault of an earlier cycle; publication of a
finished cycle ends it IDLE, STOPPED or FAULTED with nothing left to post; an overrun counts, sets LATE and OVERRUN and is owed under
STRETCH, and no task changes its state. (R85, R107, R113, R115, R118, R120, R129, R146) -/
def Obligations.TaskCycles : Prop :=
  ∀ (n : Fin 8) (s : State), s.Live .cad →
    (s.runs .cad = true → s.taskState n = 1 → s.activeBank.isSome = true → s.saveHolds = false → s.chgState ≠ 3 → s.following = false →
      s.shed = false → s.startDue n = true → s.bit (F.BLK_CTRL_FREEZE .cad) = false →
      s.Yields (.taskCycleStart n) fun t => t.taskState n = 2 ∧ (t.task n).start = s.nowNs ∧
        (t.task n).delta = (if (s.task n).deltaZero then 0 else s.nowNs / 1000 - (s.task n).start / 1000) ∧
        (t.task n).flags = 0 ∧ (t.task n).faulted = false ∧ (t.task n).posts = [] ∧ (t.task n).excs = [] ∧ t.cad.forceChg = [] ∧
        t.cad.applied = s.cad.forces.filterMap Prod.snd ∧ ∀ k, k ≠ n → t.taskState k = s.taskState k) ∧
    (∀ differs corr, s.cycleDone n = true → s.saveHolds = false →
      s.Yields (.taskPublication n differs corr) fun t =>
        t.rd F.CAD_ECC_CNT_CORR = satAdd 0xFFFF (s.rd F.CAD_ECC_CNT_CORR) corr ∧
        t.taskState n = (if (s.task n).faulted then 3 else if (s.task n).stopPend then 0 else 1) ∧ (t.task n).posts = [] ∧
        (t.task n).excs = [] ∧ (t.task n).stopPend = false ∧ (n = 0 → t.lpe.t0Pending = true) ∧ t.mem = s.mem ∧
        ∀ k, k ≠ n → t.taskState k = s.taskState k) ∧
    (s.runs .cad = true → s.following = false → s.overrunNow n = true →
      s.Yields (.overrun n) fun t => t.rd (F.CAD_TASKn_STAT_OVR n) = satInc 0xFFFF (s.rd (F.CAD_TASKn_STAT_OVR n)) ∧
        t.bit (F.CAD_TASKn_STAT_LATE n) = true ∧ t.Caused .cad 7 ∧
        (s.bit (F.CAD_TASKn_CFG_POLICY n) = true → s.ringTask n = false → (t.task n).owed = true) ∧ t.mem = s.mem ∧
        (∀ k, t.taskState k = s.taskState k) ∧ ∀ k, k ≠ n → t.task k = s.task k)

/-- START takes a STOPPED task with an ACTIVE program, RESTART and RESTART_COLD a FAULTED one to IDLE (with a cold initialisation of the
recorded instance waiting), STOP stops at once or after the running cycle, CLR_OVR clears OVR; in any other state code 0x86 is recorded;
no other task and no memory changes. (R116, R121, R122, R123) -/
def Obligations.TaskCommands : Prop :=
  ∀ (m : Master) (n : Fin 8) (s : State), s.MayWrite m .cad R.CAD_TASK_CMD → s.following = false →
    let frame (t : State) : Prop := t.mem = s.mem ∧ t.cad.ctx = s.cad.ctx ∧ t.cad.forces = s.cad.forces ∧
      ∀ k, k ≠ n → t.task k = s.task k ∧ t.taskState k = s.taskState k
    let toIdle (i : Instr) (cmds : List (Nat × Nat)) : Prop := s.Yields i fun t => frame t ∧ t.taskState n = 1 ∧
      (t.task n).deltaZero = true ∧ t.cad.instCmds = s.cad.instCmds ++ cmds
    let refused (i : Instr) : Prop := s.Yields i fun t => frame t ∧ t.taskState n = s.taskState n ∧ t.task n = s.task n ∧ t.Erred .cad 0x86 n.val
    (s.taskState n = 0 → s.activeBank.isSome = true → toIdle (.start m n) []) ∧
    (s.taskState n ≠ 0 → refused (.start m n)) ∧
    (s.taskState n = 3 → toIdle (.restart m n) [] ∧ toIdle (.restartCold m n) [(s.rd (F.CAD_EXC_INFOn_INST n), 2)]) ∧
    (s.taskState n ≠ 3 → refused (.restart m n) ∧ refused (.restartCold m n)) ∧
    (s.taskState n = 0 → refused (.stop m n)) ∧
    (s.taskState n = 1 ∨ s.taskState n = 3 → s.Yields (.stop m n) fun t => frame t ∧ t.taskState n = 0 ∧ t.bit (F.CAD_TASKn_STAT_LOCKED n) = false) ∧
    (s.taskState n = 2 → s.Yields (.stop m n) fun t => frame t ∧ t.taskState n = 2 ∧ (t.task n).stopPend = true) ∧
    s.Yields (.clrOvr m n) fun t => frame t ∧ t.rd (F.CAD_TASKn_STAT_OVR n) = 0 ∧ t.taskState n = s.taskState n ∧ t.task n = s.task n

/-- An accepted COLD_START or WARM_START makes the start bank ACTIVE, leaves no instance POISONED and starts the named tasks as IDLE
with every other STOPPED; a refused one shows its reason with 0x87 and changes no program state; INST_ENABLE and COLD_INIT wait for the
task's cycle start; a write of CNT_CLR clears the count and the flags written 1. (R109, R112, R125, R126, R128, R130) -/
def Obligations.StartsAndInstanceCommands : Prop :=
  ∀ (m : Master) (s : State),
    (s.MayWrite m .cad R.CAD_START → s.following = false → ∀ tasks : BitVec 8,
      let started (i : Instr) (warm : Nat) (r : Nat → Prop) : Prop := s.Yields i fun t => t.bankState s.startBankNo = 3 ∧ t.cad.poisoned = [] ∧
        t.rd F.CAD_START_STAT_WARM = warm ∧ r (t.rd F.CAD_START_STAT_RESULT) ∧
        ∀ n : Fin 8, t.taskState n = if tasks.getLsbD n.val then 1 else 0
      let refused (i : Instr) : Prop := s.Yields i fun t => s.Spares t ∧ t.rd F.CAD_START_STAT_RESULT = s.startRefusal ∧
        t.Erred .cad 0x87 s.startRefusal ∧ ∀ n, t.taskState n = s.taskState n
      (s.startRefusal = 0 → started (.coldStart m tasks) 0 (fun r => r = 0) ∧ started (.warmStart m tasks) 1 (fun r => r ≤ 2)) ∧
      (s.startRefusal ≠ 0 → refused (.coldStart m tasks) ∧ refused (.warmStart m tasks))) ∧
    (s.MayWrite m .cad R.CAD_INST_CMD → s.following = false → ∀ inst : BitVec 16,
      (s.Yields (.instEnable m inst) fun t => t.cad = { s.cad with instCmds := s.cad.instCmds ++ [(inst.toNat, 1)] } ∧ t.mem = s.mem ∧ t.regs = s.regs) ∧
      s.Yields (.coldInit m inst) fun t => t.cad = { s.cad with instCmds := s.cad.instCmds ++ [(inst.toNat, 2)] } ∧ t.mem = s.mem ∧ t.regs = s.regs) ∧
    (∀ (n : Fin 8) (v : BitVec 31), s.MayWrite m .cad (R.CAD_EXC_FLAGSn n) →
      s.Yields (.excCntClr m n v) fun t => s.Spares t ∧ t.rd (F.CAD_EXC_CNTn_COUNT n) = 0 ∧
        ∀ k ∈ [0, 1, 2, 3, 4, 5, 8, 9, 10],
          (t.regGet (R.CAD_EXC_FLAGSn n)).getLsbD k = ((s.regGet (R.CAD_EXC_FLAGSn n)).getLsbD k && !v.getLsbD k))

/-- RET_SAVE_WAIT and RET_SAVE_NOW start a save with an ACTIVE program, RESULT 3 without one and 0x8A during one; it begins once its
window is there, taking the set as the data then stands, holds every lane, writes the set before its header, and ends with RESULT 0, or
2 where data is uncorrectable; a save without a window ends with RESULT 1. (R127, R129, R130) -/
def Obligations.RetainedDataSaves : Prop :=
  ∀ (m : Master) (s : State),
    (s.MayWrite m .cad R.CAD_RET_CMD →
      let begins (i : Instr) (now : Bool) : Prop :=
        (s.rd F.CAD_RET_STAT_STATE = 0 → s.activeBank.isSome = true → s.Yields i fun t => t.rd F.CAD_RET_STAT_STATE = 1 ∧ t.mem = s.mem ∧
          t.cad = { s.cad with retNow := now, retSince := s.nowNs }) ∧
        (s.rd F.CAD_RET_STAT_STATE = 0 → s.activeBank = none → s.Yields i fun t => t.rd F.CAD_RET_STAT_STATE = 0 ∧
          t.rd F.CAD_RET_STAT_RESULT = 3 ∧ t.Erred .cad 0x88 3 ∧ t.mem = s.mem) ∧
        (s.rd F.CAD_RET_STAT_STATE ≠ 0 → s.Yields i fun t => t.rd F.CAD_RET_STAT_STATE = s.rd F.CAD_RET_STAT_STATE ∧ s.Spares t ∧
          t.Erred .cad 0x8A (woffOf .cad R.CAD_RET_CMD))
      begins (.retSaveWait m) false ∧ begins (.retSaveNow m) true) ∧
    (s.Live .cad →
      (s.rd F.CAD_RET_STAT_STATE = 1 →
        (if s.cad.retNow then ∀ c : Fin 16, (s.ctxAt c).busy = false else (∀ n : Fin 8, s.taskState n ≠ 2) ∧ s.noneDue s.saveNs = true) →
        s.Yields .retSaveBegin fun t => t.rd F.CAD_RET_STAT_STATE = 2 ∧ t.cad.suspended = true ∧ t.saveHolds = true ∧ t.mem = s.mem ∧
          t.cad.ctx = s.cad.ctx ∧ t.cad.retSet = (if t.dataBad then none else some t.retainedSet)) ∧
      (s.rd F.CAD_RET_STAT_STATE = 2 →
        s.Yields .retSaveEnd fun t => t.rd F.CAD_RET_STAT_STATE = 0 ∧ t.cad.suspended = false ∧ t.cad.retNow = false ∧ t.Caused .cad 13 ∧
          (s.cad.retSet = none → t.rd F.CAD_RET_STAT_RESULT = 2 ∧ t.mem = s.mem) ∧
          (∀ body head, s.cad.retSet = some (body, head) →
            let (s1, ok1) := s.dmaWrite 0 (s.retBase + 64) body
            let (s2, ok2) := s1.dmaWrite 0 s1.retBase head
            t.rd F.CAD_RET_STAT_RESULT = (if ok1 && ok2 then 0 else 2) ∧ t.mem = (if ok1 then s2.mem else s1.mem))) ∧
      (s.rd F.CAD_RET_STAT_STATE = 1 → s.cad.retNow = false → s.cad.retSince + s.chgTimeoutNs ≤ s.nowNs →
        s.Yields .retSaveTimeout fun t => t.rd F.CAD_RET_STAT_STATE = 0 ∧ t.rd F.CAD_RET_STAT_RESULT = 1 ∧ t.Erred .cad 0x88 1 ∧ t.mem = s.mem))

/-- FORCE_SET puts the signal's value and quality in its entry or the lowest FREE one, refusing LOCKED, UNBOUND, a NaN and a full table
with their codes; FORCE_RELEASE frees it, REARM makes an ORPHAN entry ACTIVE again, FORCE_READ and NEXT_ORPHAN load an entry into the
registers, RELEASE_ALL frees all; what applies stays until the next cycle start. (R131, R132, R133, R137) -/
def Obligations.ForceCommands : Prop :=
  ∀ (m : Master) (s : State), s.MayWrite m .cad R.CAD_FORCE_CMD → s.following = false →
    let applied (t : State) : Prop := t.cad.applied = s.cad.applied ∧ t.mem = s.mem ∧ t.cad.ctx = s.cad.ctx ∧ t.cad.tasks = s.cad.tasks
    let refused (i : Instr) (r : Nat) : Prop := s.Yields i fun t => s.Spares t ∧ t.rd F.CAD_FORCE_STAT_RESULT = r
    let shows (t : State) (i : Nat) (f : Force) : Prop := t.rd F.CAD_FORCE_STAT_RESULT = 0 ∧ t.rd F.CAD_FORCE_STAT_IDX = i ∧
      t.rd F.CAD_FORCE_SIG_SIGID = f.sig % 2 ^ 23 ∧ t.regGet R.CAD_FORCE_VAL = f.value ∧
      t.rd F.CAD_FORCE_STAT_STATE = (if f.orphan then 2 else 1) ∧ t.rd F.CAD_FORCE_STAT_QUAL = f.qual % 8
    (∀ (q : BitVec 3), q ≠ 7 →
      (s.forceLock = true → refused (.forceSet m q) 3) ∧
      (s.forceLock = false → s.boundSlot s.forceSig = none → refused (.forceSet m q) 2) ∧
      (∀ k, s.forceLock = false → s.boundSlot s.forceSig = some k →
        (s.slotType s.runBank k = 4 → nanWord (s.regGet R.CAD_FORCE_VAL) = true → refused (.forceSet m q) 4) ∧
        (s.slotType s.runBank k ≠ 4 ∨ nanWord (s.regGet R.CAD_FORCE_VAL) = false →
          (s.forceIdx s.forceSig = none → s.freeForce = none → refused (.forceSet m q) 1) ∧
          ∀ i, i < 4096 → (s.forceIdx s.forceSig = some i ∨ s.forceIdx s.forceSig = none ∧ s.freeForce = some i) →
            s.Yields (.forceSet m q) fun t => applied t ∧
              t.forceAt i = some ⟨s.forceSig, storeVal (s.slotType s.runBank k) (s.regGet R.CAD_FORCE_VAL), q.toNat, false⟩ ∧
              (∀ j, j ≠ i → t.forceAt j = s.forceAt j) ∧ t.rd F.CAD_FORCE_STAT_RESULT = 0 ∧ t.rd F.CAD_FORCE_STAT_IDX = i ∧
              t.bit F.CAD_FORCE_STAT_PEND = true))) ∧
    (s.forceIdx s.forceSig = none → refused (.forceRelease m) 5 ∧ refused (.rearm m) 5) ∧
    (∀ i, i < 4096 → s.forceIdx s.forceSig = some i →
      (s.Yields (.forceRelease m) fun t => applied t ∧ t.forceAt i = none ∧ (∀ j, j ≠ i → t.forceAt j = s.forceAt j) ∧
        t.rd F.CAD_FORCE_STAT_RESULT = 0 ∧ t.rd F.CAD_FORCE_STAT_IDX = i) ∧
      ∀ f, s.forceAt i = some f → f.orphan = true →
        (s.forceLock = true → refused (.rearm m) 3) ∧
        (s.forceLock = false → (s.boundSlot f.sig).isNone = true → refused (.rearm m) 2) ∧
        (s.forceLock = false → (s.boundSlot f.sig).isSome = true →
          s.Yields (.rearm m) fun t => applied t ∧ t.forceAt i = some { f with orphan := false } ∧ t.rd F.CAD_FORCE_STAT_RESULT = 0)) ∧
    (∀ (idx : BitVec 12) (f : Force), s.forceAt idx.toNat = some f → s.Yields (.forceRead m idx) fun t => s.Spares t ∧ shows t idx.toNat f) ∧
    (∀ idx : BitVec 12, s.forceAt idx.toNat = none →
      s.Yields (.forceRead m idx) fun t => s.Spares t ∧ t.rd F.CAD_FORCE_STAT_STATE = 0 ∧ t.regGet R.CAD_FORCE_VAL = 0) ∧
    (s.Yields (.releaseAll m) fun t => applied t ∧ t.cad.forces = [] ∧ t.rd F.CAD_FORCE_STAT_RESULT = 0) ∧
    (∀ (idx : BitVec 12) (i : Nat) (f : Force), i < 4096 → s.forceAt i = some f →
      (s.cad.forces.find? fun e => decide (idx.toNat ≤ e.1) && (match e.2 with | some g => g.orphan | none => false)) = some (i, some f) →
      s.Yields (.nextOrphan m idx) fun t => s.Spares t ∧ shows t i f) ∧
    (∀ idx : BitVec 12, (∀ e ∈ s.cad.forces, idx.toNat ≤ e.1 → ∀ f, e.2 = some f → f.orphan = false) → refused (.nextOrphan m idx) 5)

/-- ARM starts a change from IDLE, COMMITTED or ABANDONED and is refused during one; the check ends ARMED, or abandoned with its first
failing code; at an open window migration begins, or is abandoned with 6 where a force would be orphaned and that was refused; no window
in time abandons with 5, CANCEL with 7, a fault or an uncorrectable word in the staging range with 8; a migration that ends well makes
the new bank ACTIVE and the old one LOADED. (R142, R143, R144, R145, R146, R147, R148, R149, R151) -/
def Obligations.OnlineChange : Prop :=
  ∀ (m : Master) (s : State),
    let banks (t : State) : Prop := t.bankState 0 = s.bankState 0 ∧ t.bankState 1 = s.bankState 1
    let abandons (i : Instr) (r : Nat) : Prop := s.Yields i fun t => t.chgState = 5 ∧ t.rd F.CAD_CHG_STAT_RESULT = r ∧ banks t ∧ (s.cad.held = [] → t.mem = s.mem) ∧
      t.Erred .cad 0x89 r ∧ t.cad.held = []
    (s.MayWrite m .cad R.CAD_CHG_CMD → s.following = false →
      (∀ refuse,
        (s.chgLock = true → s.Yields (.arm m refuse) fun t => t.chgState = s.chgState ∧ s.Spares t ∧ t.Erred .cad 2 (woffOf .cad R.CAD_CHG_CMD)) ∧
        (s.chgLock = false → 1 ≤ s.chgState → s.chgState ≤ 3 → s.Yields (.arm m refuse) fun t => t.chgState = s.chgState ∧ s.Spares t ∧
          t.rd F.CAD_CHG_STAT_RESULT = 9 ∧ t.Erred .cad 0x8B s.chgState) ∧
        (s.chgLock = false → s.chgState = 0 ∨ s.chgState = 4 ∨ s.chgState = 5 → s.Yields (.arm m refuse) fun t => t.chgState = 1 ∧
          t.rd F.CAD_CHG_STAT_RESULT = 0 ∧ t.cad = { s.cad with chgRefuse := refuse } ∧ t.mem = s.mem ∧ banks t)) ∧
      (s.chgState = 1 ∨ s.chgState = 2 → abandons (.cancel m) 7) ∧
      (s.chgState ≠ 1 → s.chgState ≠ 2 → s.Yields (.cancel m) fun t => t.regs = s.regs ∧ s.Spares t)) ∧
    (s.Live .cad →
      (s.chgState = 1 → s.chgCheck = 0 → s.Yields .chgCheckEnd fun t => t.chgState = 2 ∧ t.cad = { s.cad with chgArmed := s.nowNs } ∧ banks t ∧
        t.mem = s.mem) ∧
      (s.chgState = 1 → s.chgCheck ≠ 0 → abandons .chgCheckEnd s.chgCheck) ∧
      (s.chgState = 2 → s.following = false → s.windowOpen = true →
        (s.cad.chgRefuse = true → s.wouldOrphan (1 - s.runBank) = true → abandons .changeWindow 6) ∧
        (s.cad.chgRefuse = false ∨ s.wouldOrphan (1 - s.runBank) = false →
          s.Yields .changeWindow fun t => t.chgState = 3 ∧ t.cad = { s.cad with held := [] } ∧ banks t ∧ t.mem = s.mem)) ∧
      (s.chgState = 2 → s.cad.chgArmed + s.chgTimeoutNs ≤ s.nowNs → abandons .chgTimeout 5) ∧
      (∀ a off n, s.activeBank = some a → s.pmapOf (1 - a) (s.bankHash a) = some (off, n) → s.chgState = 3 →
        let f (i : Nat) : MigInst := s.migInst a (1 - a) off i
        let w := (s.migEvents a (1 - a) f).dmaWrite 0 s.stageAddr (s.newMemory a (1 - a) f)
        (∀ bad : Option Nat, w.2 = false ∨ bad.isSome = true →
          s.Yields (.migrationEnd bad) fun t => t.chgState = 5 ∧ t.rd F.CAD_CHG_STAT_RESULT = 8 ∧ banks t ∧ t.cad.held = []) ∧
        (w.2 = true → s.Yields (.migrationEnd none) fun t => t.chgState = 4 ∧ t.rd F.CAD_CHG_STAT_RESULT = 0 ∧ t.bankState (1 - a) = 3 ∧
          t.bankState a = 2 ∧ t.cad.held = [] ∧ t.cad.poisoned = [] ∧ ∀ n, t.taskState n = s.taskState n)))

/-- On a standby in JOINING or STEP the commands of CAD_TASK_CMD, CAD_INST_CMD, CAD_START, CAD_FORCE_CMD and CAD_CHG_CMD are discarded
with code 0x83 in TDM and the page code 8, and no other state changes but the counts of the error. (R373) -/
def Obligations.StandbyDiscards : Prop :=
  ∀ (m : Master) (n : Fin 8) (inst : BitVec 16) (tasks : BitVec 8) (q : BitVec 3) (idx : BitVec 12) (r : Bool) (s : State),
    s.Answers .cad → s.following = true →
    ∀ i ∈ [Instr.start m n, .stop m n, .restart m n, .restartCold m n, .clrOvr m n, .instEnable m inst, .coldInit m inst, .coldStart m tasks,
        .warmStart m tasks, .forceSet m q, .forceRelease m, .rearm m, .forceRead m idx, .releaseAll m, .nextOrphan m idx, .arm m r, .cancel m],
      (m = .mon ∨ monOnlyReg R.CAD_TASK_CMD = false ∧ monOnlyReg R.CAD_INST_CMD = false ∧ monOnlyReg R.CAD_START = false ∧
        monOnlyReg R.CAD_FORCE_CMD = false ∧ monOnlyReg R.CAD_CHG_CMD = false) →
      s.Yields i fun t => s.Spares t ∧ t.tdm = s.tdm ∧ t.lpe = s.lpe ∧ t.Erred .tdm 0x83 8 ∧
        ∀ a, a ≠ R.BLK_ERRINFO .tdm → a ≠ R.BLK_IRQ_RAW .tdm → t.regGet a = s.regGet a

/-- A ring instant makes a pass due; a due pass leaves with the next pass number after the guard pass of a locked T0, or at its
latest-start point, and no sooner; a copy of the pass in flight is kept until its deadline, with what its FCS says, any other raises
LATE; an untagged copy of a frame sent tagged counts as a tag failure; a looped one at its own port says where the ring is broken; the
input commit ends the pass with its time; in station role instants end after two periods without a pass; table commands wait for the
next departure or run at once; TAIL hands over descriptors; an unacknowledged message is due again or ends; EN = 1 starts the ring in
plant role. (R154, R155, R156, R169, R177, R183, R186, R189, R191, R193, R194) -/
def Obligations.RingMaster : Prop :=
  ∀ (m : Master) (s : State),
    (s.Live .spk →
      (s.mastering = true → s.ringGridNow = true → s.cad.ringAt ≠ some s.tb2 →
        s.handingOver = false → s.Yields .ringInstant fun t => t.cad.ringAt = some s.tb2 ∧ t.cad.ringSupplied = true ∧ t.spk.due = some s.nowNs ∧
          t.regs = s.regs ∧ t.mem = s.mem) ∧
      (s.mastering = false ∨ s.handingOver = true → exec .ringInstant s = .next s) ∧
      (s.stationRole = true → s.cad.ringSupplied = true → s.spk.lastInstant + 2000 * s.ringPeriod ≤ s.nowNs →
        s.Yields .ringInstantTimeout fun t => t.cad.ringSupplied = false ∧ t.bit (F.CAD_TASKn_STAT_LOCKED 0) = false ∧
          t.taskState 0 = s.taskState 0 ∧ t.spk = s.spk ∧ t.mem = s.mem) ∧
      (s.spk.due = none ∨ s.mastering = false → exec .passDeparture s = .next s) ∧
      (∀ inst, s.spk.due = some inst → s.nowNs < inst + s.latestStart →
        s.bit (F.CAD_TASKn_STAT_LOCKED 0) = false ∨ s.spk.first = true ∨ s.t0Ready inst = false → exec .passDeparture s = .next s) ∧
      (∀ inst, s.spk.due = some inst → s.mastering = true → s.bit (F.BLK_CTRL_FREEZE .spk) = false →
        (inst + s.latestStart ≤ s.nowNs ∨ (s.bit (F.CAD_TASKn_STAT_LOCKED 0) = true ∧ s.spk.first = false ∧ s.t0Ready inst = true)) →
        s.Yields .passDeparture fun t => t.spk.due = none ∧ t.spk.next = (s.spk.next + 1) % 2 ^ 48 ∧ t.spk.high = some s.spk.next ∧
          (t.spk.pass.map fun p => (p.num, p.instant)) = some (s.spk.next, inst) ∧ t.spk.stopLeft = s.spk.stopLeft.map (· - 1) ∧
          t.rd F.SPK_PASS_LO_PASS = s.spk.next % 2 ^ 32 ∧ t.lpe.fresh = false) ∧
      (∀ (port : Fin 2) (f : SpokeFrame), s.plant = false ∨ s.ringFrame f = false → exec (.frameReturn port f) s = .next s) ∧
      (∀ (port : Fin 2) (f : SpokeFrame), s.plant = true → s.ringFrame f = true → hTagged f.body = false → s.sentTagged f.body = true →
        hLooped f.body = false → s.spk.pass = none →
        s.Yields (.frameReturn port f) fun t => t.rd F.SPK_ERR_CNT_TAG = satInc (2 ^ F.SPK_ERR_CNT_TAG.w - 1) (s.rd F.SPK_ERR_CNT_TAG) ∧
          t.Caused .spk 11 ∧ t.Caused .spk 7 ∧ t.spk = s.spk ∧ s.Spares t) ∧
      (∀ (port : Fin 2) (f : SpokeFrame), s.plant = true → s.ringFrame f = true → hTagged f.body = false → s.sentTagged f.body = false →
        let fcs (t : State) : Prop := t.rd F.SPK_ERR_CNT_FCS =
          if f.fcs then s.rd F.SPK_ERR_CNT_FCS else satInc (2 ^ F.SPK_ERR_CNT_FCS.w - 1) (s.rd F.SPK_ERR_CNT_FCS)
        (s.spk.pass = none → s.Yields (.frameReturn port f) fun t => fcs t ∧ t.Caused .spk 7 ∧ t.spk = s.spk ∧ s.Spares t ∧
          (hLooped f.body = true → hDir f.body = (port == 1) → t.bit F.SPK_RING_STAT_BROKEN = true ∧ t.Caused .spk 5 ∧
            (port = 0 → t.rd F.SPK_BREAK_SIDE_A = (hHops f.body + 1) / 2) ∧ (port = 1 → t.rd F.SPK_BREAK_SIDE_B = (hHops f.body + 1) / 2))) ∧
        (∀ p, hLooped f.body = false → s.spk.pass = some p → hKind f.body ≠ 2 →
          (hPass f.body = p.num → s.nowNs < s.passDeadline p → s.Yields (.frameReturn port f) fun t => fcs t ∧ s.Spares t ∧
            t.spk = { s.spk with pass := some { p with
              copies := p.copies ++ [⟨hDir f.body, hFrame f.body, f.body, f.fcs, false⟩], lastRet := s.nowNs } }) ∧
          (hPass f.body ≠ p.num ∨ s.passDeadline p ≤ s.nowNs → s.Yields (.frameReturn port f) fun t => fcs t ∧ t.Caused .spk 7 ∧ s.Spares t ∧
            t.spk = { s.spk with pass := some { p with late := true } }))) ∧
      (∀ p, s.spk.pass = some p → s.passDeadline p ≤ s.nowNs →
        s.Yields .inputCommit fun t => t.spk.pass = none ∧ t.Caused .spk 14 ∧
          t.rd F.SPK_PASS_TIME_RET = (if p.late || decide (p.copies.length < p.sent) then 0xFFFF else min 0xFFFE ((p.lastRet - p.depart) / 1000)) ∧
          t.ringState = if p.final then 0 else s.ringState) ∧
      (∀ (node : BitVec 10) (x : DownMsg), (s.spk.down.find? fun y => y.node == node.toNat) = some x → x.due = false →
        max 1 (s.rd F.SPK_MBX_CFG_RETRY) ≤ x.waited →
        s.Yields (.mbxRetry node) fun t =>
          if max 1 (s.rd F.SPK_MBX_CFG_TRIES) ≤ x.sends then ∀ y ∈ t.spk.down, y.idx ≠ x.idx
          else t.mem = s.mem ∧ t.regs = s.regs ∧ ∃ y ∈ t.spk.down, y.idx = x.idx ∧ y.due = true)) ∧
    (s.MayWrite m .spk R.SPK_TBL_CMD →
      let table (i : Instr) (op : Nat × Nat) : Prop :=
        (s.bit F.SPK_TBL_STAT_PEND = true → s.Yields i fun t => t.rd F.SPK_TBL_STAT_RESULT = 4 ∧ t.bit F.SPK_TBL_STAT_PEND = true ∧ t.spk = s.spk ∧ s.Spares t) ∧
        (s.bit F.SPK_TBL_STAT_PEND = false → s.mastering = true → s.Yields i fun t => t.bit F.SPK_TBL_STAT_PEND = true ∧
          t.spk = { s.spk with tbl := some op } ∧ s.Spares t) ∧
        (s.bit F.SPK_TBL_STAT_PEND = false → s.mastering = false → s.Yields i fun t => t.bit F.SPK_TBL_STAT_PEND = false ∧ t.spk.tbl = s.spk.tbl ∧
          t.rd F.SPK_TBL_STAT_RESULT ≠ 4)
      (∀ node : BitVec 10, table (.tblReload m node) (1, node.toNat)) ∧ table (.repack m) (2, 0)) ∧
    (∀ (q : Fin 2) (tail : BitVec 16), s.MayWrite m .spk (R.SPK_MBXq_IDX q) →
      s.Yields (.mbxTail m q tail) fun t => t.rd (F.SPK_MBXq_IDX_TAIL q) = tail.toNat ∧ t.rd (F.SPK_MBXq_IDX_HEAD q) = s.rd (F.SPK_MBXq_IDX_HEAD q) ∧
        t.spk = s.spk ∧ s.Spares t) ∧
    (s.MayWrite m .spk (R.BLK_CTRL .spk) → s.stopping .spk = false → s.en .spk = false → s.plant = true → s.bit (F.BLK_LOCK_CTRL_LOCK .spk) = false →
      s.Yields (.spkRingStart m) fun t => t.en .spk = true ∧ t.spk.first = true ∧ t.spk.pass = none ∧ t.spk.due = none ∧
        t.spk.next = max (match s.spk.high with | some h => h + 1 | none => 0) (tbSec s.tb3 * 10000) % 2 ^ 48 ∧
        (s.mayMaster = true → t.ringState = 1))

/-- A ring frame leaves on the other port with HOPS + 1, in loop-back on its own port with LOOPED; a frame at HOPS 4095, or where the
module does not forward, is dropped; a plant-role module that sees another's frame blocks; a running station writes its status as it
stood and its inputs into its segment, and takes the outputs of the first intact copy of a pass; loop-back is left after 100 ms of
synchronisation; the watchdog substitutes; IDENT, PARAM_READ, PARAM_WRITE and POINT_BULK answer the first request held by R188. (R20,
R153, R161, R163, R164, R165, R166, R167, R168, R185, R187, R188) -/
def Obligations.RingStations : Prop :=
  ∀ (port : Fin 2) (f : SpokeFrame) (s : State),
    let leaves (t : State) (b : List Byte) : Prop := t.spk.tx = [(1 - port.val, { f with body := incHops b })]
    (∀ partner, s.takesFrame f = false → s.Yields (.ringFrameForward port partner f) fun t => t.spk.tx = [] ∧ t.regs = s.regs ∧ s.Spares t) ∧
    (∀ partner, s.takesFrame f = true → s.tandem = false → (s.stationRole = false ∨ s.runs .spk = false) →
      ((s.plant = false ∨ partner = true ∨ hVer f.body ≠ 1 ∨ s.ringState = 3) →
        s.Yields (.ringFrameForward port partner f) fun t => t.regs = s.regs ∧ s.Spares t ∧
          t.spk.tx = [if s.looping then (port.val, { f with body := setLooped (incHops f.body) }) else (1 - port.val, { f with body := incHops f.body })]) ∧
      (s.plant = true → partner = false → hVer f.body = 1 → s.ringState ≠ 3 → s.looping = false →
        s.Yields (.ringFrameForward port partner f) fun t => t.ringState = 3 ∧ (s.mastering = true → t.cad.ringSupplied = false ∧ t.spk.pass = none) ∧
          t.Erred .spk 0x82 (woffOf .spk R.SPK_RING_STAT) ∧ t.Caused .spk 13 ∧ leaves t f.body)) ∧
    (∀ o, s.stationRole = true → s.runs .spk = true → s.takesFrame f = true → s.tandem = false → s.looping = false → hVer f.body = 1 →
      hLooped f.body = false → hTagged f.body = false → s.mySegment f.body = some o → s.frameTagged (s.spoke s.node).cfg.tagged = false →
      (s.spoke s.node).st.state ≠ 6 →
      let s1 := s.clearTx.newPass f.body f.fcs
      let len := (s.spoke s.node).cfg.outLen
      s.Yields (.stationSegment port f) fun t => t.regs = s.regs ∧
        leaves t (patch f.body (16 + o + 4 + len) (beBytes 4 (s1.stationStatus s1.stationInputs.2) ++ s1.stationInputs.1)) ∧
        (f.fcs = false ∨ s1.spk.stn.took = true → t.spk.stn = s1.spk.stn) ∧
        (f.fcs = true → s1.spk.stn.took = false → t.spk.stn.took = true ∧ t.spk.stn.takenAt = s.nowNs ∧
          t.spk.stn.out = ((areaOf f.body).drop (o + 4)).take len ∧
          t.spk.stn.subst = ((beAt (areaOf f.body) o 4).testBit 8 || (!(beAt (areaOf f.body) o 4).testBit 9 && s.spk.stn.subst)))) ∧
    (s.Live .spk →
      (s.forwards = true →
        exec (.loopbackEngage 0) s = .next { s with spk := { s.spk with loopA := true, syncA := none } } ∧
        exec (.loopbackEngage 1) s = .next { s with spk := { s.spk with loopB := true, syncB := none } }) ∧
      (∀ n, n + 100000000 ≤ s.nowNs →
        (s.spk.loopA = true → s.spk.syncA = some n → exec (.loopbackExit 0) s = .next { s with spk := { s.spk with loopA := false } }) ∧
        (s.spk.loopB = true → s.spk.syncB = some n → exec (.loopbackExit 1) s = .next { s with spk := { s.spk with loopB := false } })) ∧
      (s.spk.syncA = none → exec (.loopbackExit 0) s = .next s) ∧
      (s.stationRole = true → s.runs .spk = true → (s.spoke s.node).st.state ≠ 6 → s.spk.stn.takenAt + s.stationWd ≤ s.nowNs →
        s.Yields .stationWatchdog fun t => t.spk.stn = { s.spk.stn with subst := true } ∧ t.regs = s.regs) ∧
      (∀ (q : MbxMsg) (rest : List MbxMsg), s.spk.stn.req = q :: rest → s.stationRole = true → s.runs .spk = true →
        let answers (i : Instr) (st : Nat) (data : List Byte) : Prop := s.Yields i fun t => t.spk.stn.req = rest ∧ t.mem = s.mem ∧
          t.spk.stn.upSeq = seqAfter s.spk.stn.upSeq ∧
          t.spk.stn.up = s.spk.stn.up ++ [{ seq := s.spk.stn.upSeq, service := q.service, status := st, payload := data }]
        (q.service = 1 → (q.payload = [] → answers .ident 0 s.identReply) ∧ (q.payload ≠ [] → answers .ident 5 [])) ∧
        (q.service = 2 → (q.payload.length ≠ 6 → answers .paramRead 5 []) ∧
          (q.payload.length = 6 → s.param (beAt q.payload 0 4) = none → answers .paramRead 2 []) ∧
          ∀ p, q.payload.length = 6 → s.param (beAt q.payload 0 4) = some p → p.length = beAt q.payload 4 2 → answers .paramRead 0 p) ∧
        (q.service = 3 → q.payload.length = 8 → beAt q.payload 0 4 = 1 → 1 ≤ beAt (q.payload.drop 4) 0 4 → beAt (q.payload.drop 4) 0 4 ≤ 65535 →
          answers .paramWrite 0 [] ∧ s.Yields .paramWrite fun t => t.rd F.SPK_STN_WD_WD_MS = beAt (q.payload.drop 4) 0 4) ∧
        (q.service = 4 → q.payload.length = 8 → s.Yields .pointBulk fun t => t.spk.stn = { s.spk.stn with req := rest } ∧ t.regs = s.regs ∧
          (beAt q.payload 2 1 ≤ 6 → Sparse.get t.mtr.inputs none (s.node * 2 ^ 13 + beAt q.payload 0 2 % 2 ^ 13) =
            some (BitVec.ofNat 32 (beAt q.payload 4 4), beAt q.payload 2 1)) ∧
          (6 < beAt q.payload 2 1 → t.mtr = s.mtr ∧ t.mem = s.mem))))

/-- ENABLE reads and checks the entry of a DISABLED slot: a good one runs, a bad one shows its code; DISABLE and RELOAD of a running
slot wait for its sample, DISABLE of an ERROR slot is at once, and any other gives 0x84; a due sample writes the slot's output signal
and OUT with a value from OUT_MIN to OUT_MAX, the slots that are due in the order of R201; a late unlocked slot counts one overrun.
(R198, R199, R200, R201, R203, R207, R209, R213, R220) -/
def Obligations.LoopSlots : Prop :=
  ∀ (m : Master) (n : Fin 64) (s : State),
    (s.MayWrite m .lpe R.LPE_SLOT_CMD → s.following = false →
      let refused (i : Instr) : Prop := s.Yields i fun t => t.lslotState n = s.lslotState n ∧ t.lpe = s.lpe ∧ t.Erred .lpe 0x84 n.val ∧ s.Spares t
      let waits (i : Instr) (op : Nat) : Prop := s.Yields i fun t => t.lslotState n = 1 ∧ t.lslot n = { s.lslot n with cmd := op } ∧
        t.bit F.LPE_SLOT_RES_PEND = true ∧ t.rd F.LPE_SLOT_RES_SLOT = n.val ∧ s.Spares t
      (s.lslotState n = 0 →
        refused (.slotDisable m n) ∧ refused (.slotReload m n) ∧
        ((s.dmaRead 1 (s.loopEntryAddr n) 1024).2 = none → s.Yields (.slotEnable m n) fun t => t.lslotState n = 0 ∧
          t.rd F.LPE_SLOT_RES_RESULT = 6 ∧ t.Erred .lpe 0x80 n.val ∧ t.mem = s.mem) ∧
        ∀ bs, (s.dmaRead 1 (s.loopEntryAddr n) 1024).2 = some bs →
          s.Yields (.slotEnable m n) fun t => t.rd F.LPE_SLOT_RES_RESULT = s.entryCheck n bs ∧ t.bit F.LPE_SLOT_RES_PEND = false ∧ s.Spares t ∧
            (∀ k, k ≠ n → t.lslotState k = s.lslotState k ∧ t.lslot k = s.lslot k) ∧
            (if s.entryCheck n bs = 0 then t.lslotState n = 1 ∧ (t.lslot n).entry = parseEntry bs ∧ (t.lslot n).posts = []
             else t.lslotState n = 0 ∧ t.lslot n = s.lslot n ∧ t.Erred .lpe 0x81 n.val)) ∧
      (s.lslotState n = 1 → refused (.slotEnable m n) ∧ waits (.slotDisable m n) 2 ∧ waits (.slotReload m n) 3) ∧
      (s.lslotState n = 2 → refused (.slotEnable m n) ∧ refused (.slotReload m n) ∧
        s.Yields (.slotDisable m n) fun t => t.lslotState n = 0 ∧ t.rd F.LPE_SLOT_RES_RESULT = 0 ∧ (t.lslot n).posts = [] ∧ s.Spares t ∧
          ∀ o, s.outVal (s.lslot n).entry.outSig = some o → o.writer = 16 + n.val → t.outVal (s.lslot n).entry.outSig = none)) ∧
    (s.Live .lpe →
      (s.sampleDue n = true → (s.lslot n).cmd = 0 →
        let e := (s.lslot n).entry
        i32Min ≤ e.outMin → e.outMin ≤ e.outMax → e.outMax ≤ i32Max → e.outMin ≤ e.failVal → e.failVal ≤ e.outMax →
        e.outMin ≤ (s.lslot n).uFb → (s.lslot n).uFb ≤ e.outMax →
        s.Yields (.slotSample n) fun t => (t.lslot n).due = false ∧ (t.lslot n).posts = [] ∧ t.lslotState n = 1 ∧ s.Spares t ∧
          (∀ sig, sig ≠ e.outSig → t.outVal sig = s.outVal sig) ∧
          ∃ o, t.outVal e.outSig = some o ∧ o.writer = 16 + n.val ∧ t.regGet (R.LPE_SLOTn_OUT n) = o.value ∧
            e.outMin ≤ o.value.toInt ∧ o.value.toInt ≤ e.outMax) ∧
      (s.sampleDue n = false → exec (.slotSample n) s = .next s) ∧
      (∀ k : Fin 64, s.slotDue k = true → (s.lslot k).entry.locked = true →
        (s.lslot n).entry.locked = false ∨ ((s.lslot n).entry.lockTask = (s.lslot k).entry.lockTask ∧ k < n) → exec (.slotSample n) s = .next s) ∧
      (s.en .lpe = true → s.lslotState n = 1 → (s.lslot n).entry.locked = false → (s.lslot n).served + 2 ≤ s.dueIndex (s.lslot n).entry →
        s.Yields (.slotOverrun n) fun t => t.lslot n = { s.lslot n with served := s.dueIndex (s.lslot n).entry - 1 } ∧ t.Caused .lpe 2 ∧
          t.rd (F.LPE_SLOTn_STAT_OVR n) = satInc 0xFFFF (s.rd (F.LPE_SLOTn_STAT_OVR n)) ∧ s.Spares t))

/-- A due pass sends every entry without a writer, held after a task fault or by a slot in ERROR, or under SAFE_ALL every entry, its
SAFE value with SUBST, and an unlimited value clamped to MIN and MAX; GRD_LOAD starts a load, whose check leaves the active table as it
is and makes a good table wait for the next pass; SAFE_ALL is set and cleared. (R107, R214, R215, R216, R217, R218, R219) -/
def Obligations.OutputGuard : Prop :=
  ∀ (m : Master) (s : State),
    (s.Live .lpe → s.en .lpe = true → s.following = false → s.passDue = true → s.bit (F.BLK_CTRL_FREEZE .lpe) = false → s.shadows = [] →
      s.bit F.LPE_GRD_STAT_PEND = false → risingSigs s.guardBank.entries = true →
      s.Yields .guardPass fun t => t.lpe.lastPass = s.nowNs ∧ t.lpe.t0Pending = (s.lpe.t0Pending && s.t0SlotsDue) ∧ s.Spares t ∧ t.guardBank = s.guardBank ∧
        t.lpe.out = s.lpe.out ∧ t.rd F.LPE_GRD_PASS_COUNT = (s.rd F.LPE_GRD_PASS_COUNT + 1) % 2 ^ F.LPE_GRD_PASS_COUNT.w ∧
        ∀ e ∈ s.guardBank.entries,
          (s.bit F.LPE_GRD_CFG_SAFE_ALL = true ∨ s.outVal e.sig = none ∨ e.sig ∈ s.lpe.sof ∨
            (∃ n, s.lslotState n = 2 ∧ (s.lslot n).entry.outSig = e.sig) → t.guardedVal e.sig = some ⟨e.safe, 2⟩) ∧
          (∀ o, s.bit F.LPE_GRD_CFG_SAFE_ALL = false → s.outVal e.sig = some o → e.sig ∉ s.lpe.sof →
            (∀ n, s.lslotState n = 2 → (s.lslot n).entry.outSig ≠ e.sig) → e.typ = 1 ∨ e.typ = 2 ∨ e.typ = 3 → e.slewEn = false →
            e.safeOnBad = false ∨ o.qual < 5 → t.guardedVal e.sig = some ⟨guardClamp e o.value, o.qual⟩)) ∧
    (s.MayWrite m .lpe R.LPE_GRD_CMD → s.Yields (.grdLoad m) fun t => t.lpe = { s.lpe with loading := true } ∧ t.bit F.LPE_GRD_STAT_PEND = false ∧ s.Spares t) ∧
    (s.Live .lpe → s.lpe.loading = true →
      let a := s.rd F.LPE_GRD_BASE_LO_BASE_LO * 64 + s.rd F.LPE_GRD_BASE_HI_BASE_HI * 2 ^ 32
      ((s.dmaRead 1 a 64).2 = none → s.Yields .grdCheckEnd fun t => t.lpe = { s.lpe with loading := false } ∧ t.rd F.LPE_GRD_STAT_RESULT = 6 ∧
        t.Erred .lpe 0x82 6 ∧ s.Spares t) ∧
      ∀ hd bs, (s.dmaRead 1 a 64).2 = some hd → ((s.dmaRead 1 a 64).1.dmaRead 1 a (64 + 32 * min (leAt hd 8 4) 8192)).2 = some bs →
        let r := guardResult bs (leAt hd 8 4) (s.regGet R.LPE_GRD_VER).toNat
        s.Yields .grdCheckEnd fun t => t.guardBank = s.guardBank ∧ t.lpe.loading = false ∧ t.rd F.LPE_GRD_STAT_RESULT = r ∧ t.Caused .lpe 6 ∧ s.Spares t ∧
          (r ≠ 0 → t.Erred .lpe 0x82 r ∧ t.lpe.bank0 = s.lpe.bank0 ∧ t.lpe.bank1 = s.lpe.bank1) ∧
          (r = 0 → t.bit F.LPE_GRD_STAT_PEND = true ∧
            (if s.rd F.LPE_GRD_STAT_BANK = 0 then t.lpe.bank1 else t.lpe.bank0).entries = (upto (leAt hd 8 4)).map (parseGuard bs))) ∧
    (∀ on, s.MayWrite m .lpe R.LPE_GRD_CFG → s.following = false → s.Yields (.safeAll m on) fun t => t.bit F.LPE_GRD_CFG_SAFE_ALL = on ∧
      t.lpe = s.lpe ∧ s.Spares t ∧ ∀ a, a ≠ R.LPE_GRD_CFG → t.regGet a = s.regGet a)

/-- SLV_SUBMIT accepts, reports BUSY, or rejects with its reason; the chosen job resumes, pre-empts or stalls at its start; save and
restore; a stop instant or ABORT marks the running job; RESUME and ABORT_STALLED end a stall; INVALIDATE, template reads and TPL_DONE;
bursts of port 5 that wait are issued again by RESUME and dropped by ABORT_STALLED; commands that do not apply record 0x84. (R264, R266,
R267, R268, R270, R271, R273, R275, R276, R277, R279) -/
def Obligations.SolverJobs : Prop :=
  ∀ (m : Master) (s : State) (tpl : BitVec 8) (j : Job),
    let n := tpl.toNat
    let z := s.reply 0
    let keeps (t : State) : Prop := s.Spares t ∧ s.Within t .slv
    let same (t : State) : Prop := t.slv = s.slv ∧ keeps t
    (s.MayWrite m .slv R.SLV_SUBMIT → ∀ dl : BitVec 23,
      let d := (s.nowUs + dl.toNat) % 2 ^ 48
      let x := s.tpl n
      let r := if (s.jobOf n).isSome then 1 else if x.en = false then 2 else if z.reached (z.stopAt n d) = true then 3
        else if s.runs .slv = false then 4 else 0
      s.Yields (.slvSubmit m tpl dl) fun t => t.rd F.SLV_SUB_RES_RESULT = r ∧ t.rd F.SLV_SUB_RES_TEMPLATE = n ∧
        t.rd F.SLV_SUB_RES_SEQ = (t.tpl n).seq % 2 ^ 16 ∧ t.mem = s.mem ∧ t.cad = s.cad ∧ s.Within t .slv ∧ t.slv.run = s.slv.run ∧
        t.slv.stall = s.slv.stall ∧ (∀ k, k ≠ n → t.tpl k = s.tpl k) ∧
        (r = 1 → t.slv = s.slv) ∧ (r ≠ 1 → (t.tpl n).seq = (x.seq + 1) % 2 ^ 16 ∧ (t.tpl n).deadline = d) ∧
        (r = 0 → (t.tpl n).state = 1 ∧ t.slv.waiting = s.slv.waiting ++
          [{ tpl := n, kind := x.kind, queue := x.queue, ord := s.slv.order, accepted := s.nowNs, deadline := d }]) ∧
        (2 ≤ r → (t.tpl n).state = 6 ∧ (t.tpl n).reason = r ∧ t.slv.waiting = s.slv.waiting ∧ t.rd F.SLV_REJ_REASON = r ∧
          t.rd F.SLV_REJ_TEMPLATE = n)) ∧
    (s.Live .slv → s.bit (F.BLK_CTRL_FREEZE .slv) = false → s.runs .slv = true → s.slv.stall = none → s.shed = false →
      (s.choose = none → exec .jobStart s = .next s) ∧
      (s.choose = some j →
        (s.slv.run = none → j.saved = true → s.Yields .jobStart fun t => t.slv.run = some { j with phase := 10 } ∧ keeps t ∧
          t.slv.waiting = s.slv.waiting.filter fun q => q.tpl != j.tpl) ∧
        (s.slv.run = none → j.saved = false → s.rd (F.XLT_CTXn_CFG_MODE 2) = 0 → s.Yields .jobStart fun t => t.slv.stall = some ⟨j.tpl, .start⟩ ∧
          (t.slv.run.map fun q => (q.tpl, q.started, q.preempts)) = some (j.tpl, j.started, false) ∧ (t.tpl j.tpl).state = 2 ∧
          t.bit F.SLV_STALL_INFO_STALLED = true ∧ t.bit F.SLV_STALL_INFO_WRITE = false ∧ t.Caused .slv 7 ∧
          t.rd F.SLV_STALL_ADDR_LO_ADDR_LO = (s.tpl j.tpl).param % 2 ^ 32 ∧ s.Spares t) ∧
        ∀ r, s.slv.run = some r → j.queue < r.queue → r.started = true → r.out = none → r.stopReq = none → r.phase ≠ 9 → r.phase ≠ 10 →
          s.Yields .jobStart fun t => t.slv.run = some { r with phase := 9 } ∧ t.slv.next = some j.tpl ∧ keeps t ∧
            t.rd F.SLV_PREEMPT_COUNT = satInc (2 ^ F.SLV_PREEMPT_COUNT.w - 1) (s.rd F.SLV_PREEMPT_COUNT))) ∧
    (s.Live .slv → s.slv.run = some j → s.slv.stall = none → s.shed = false →
      let scratch := addrAt (j.block 0) (offScratch j.kind) + s.spill j.work
      let size := j.work - s.spill j.work
      (j.phase = 10 → j.kind ≠ 0 → (s.dmaRead 2 scratch size).2.isSome → s.Yields .restoreEnd fun t => t.mem = s.mem ∧
        t.slv.run = some { j with saved := false, phase := if j.kind = 1 then 1 else if j.writes = true ∧ j.refactored = false then 7 else 8 }) ∧
      (j.phase = 9 → j.stopReq = none → s.runs .slv = true → ∀ q, s.slv.next = some q.tpl →
        s.slv.waiting.find? (fun r => r.tpl == q.tpl) = some q → q.tpl ≠ j.tpl → q.saved = true → q.started = true → q.out = none →
        let bs := (upto size).map (Config.slvSave j.ins j.iter)
        (s.dmaWrite 2 scratch bs).2 = true → s.Yields .preemptSaveEnd fun t => t.slv.run = some { q with phase := 10 } ∧ t.slv.next = none ∧
          { j with saved := true } ∈ t.slv.waiting ∧ t.mem = (s.dmaWrite 2 scratch bs).1.mem)) ∧
    (s.jobOf n = none → exec (.stopInstant tpl) s = .next s) ∧
    (s.jobOf n = some j → s.slv.run = some j → j.out = none → s.slv.stall = none →
      (s.Live .slv → s.reached (s.stopOf j) = true →
        s.Yields (.stopInstant tpl) fun t => t.slv.run = some { j with stopReq := some 4 } ∧ keeps t) ∧
      (s.reached (s.stopOf j) = false → exec (.stopInstant tpl) s = .next s) ∧
      (s.MayWrite m .slv R.SLV_CMD → s.Yields (.abort m tpl) fun t => t.slv.run = some { j with stopReq := some 5 } ∧ keeps t)) ∧
    (s.MayWrite m .slv R.SLV_CMD →
      (s.jobOf n = none → s.Yields (.abort m tpl) fun t => same t ∧ t.Erred .slv 0x84 n) ∧
      (s.slv.stall = none → s.fab.kept = [] → (s.Yields (.resume m) fun t => same t ∧ t.Erred .slv 0x84 0) ∧
        s.Yields (.abortStalled m) fun t => same t ∧ t.Erred .slv 0x84 0) ∧
      (s.slv.stall = none → s.fab.kept ≠ [] →
        (s.Yields (.abortStalled m) fun t => same t ∧ t.regs = s.regs ∧ t.fab = { s.fab with kept := [] }) ∧
        ∀ x, s.fab.kept = [x] → s.Yields (.resume m) fun t => t.slv = s.slv ∧ s.Spares t ∧ s.Within t .fab ∧
          t.fab.kept = if ({ z with fab := { z.fab with kept := [] } } : State).mayIssue x then [] else [x]) ∧
      (s.slv.stall = some ⟨n, .iterate⟩ → s.Yields (.resume m) fun t => t.slv = { s.slv with stall := none } ∧
        t.bit F.SLV_STALL_INFO_STALLED = false ∧ s.Spares t ∧ (s.fab.kept = [] → s.Within t .slv)) ∧
      (s.slv.stall = some ⟨n, .outcome⟩ → s.jobOf n = some j → s.isHalted .slv = false → s.Yields (.abortStalled m) fun t =>
        t.slv.stall = none ∧ t.jobOf n = none ∧ (t.tpl n).state = 7 ∧ (t.tpl n).stop = 6 ∧ t.Caused .slv 10 ∧ t.mem = s.mem ∧ s.Within t .slv) ∧
      ∀ slot : BitVec 8, s.Yields (.invalidate m slot) fun t => same t ∧
        (if s.jobs.any (fun q => q.started && q.slot == some (slot.toNat % 4)) = true then t.Erred .slv 0x84 (slot.toNat % 4)
         else t.bit (F.SLV_FACk_STAT_VALID (slot.toNat % 4)) = false)) ∧
    (s.MayWrite m .slv R.SLV_TPL_CMD →
      ((s.jobOf n).isSome → s.Yields (.tplReload m tpl) fun t => same t ∧ t.bit F.SLV_TPL_RES_PEND = true ∧ t.rd F.SLV_TPL_RES_RESULT = 3) ∧
      (s.jobOf n = none → ∀ e, (z.dmaRead 2 (s.rd F.SLV_TPL_BASE_LO_BASE_LO * 2 ^ 12 + s.rd F.SLV_TPL_BASE_HI_BASE_HI * 2 ^ 32 + 32 * n) 32).2 = some e →
        let r := if (crc32 (e.take 0x1C)).toNat ≠ leAt e 0x1C 4 then 1
          else if 3 < leAt e 0 1 ∨ leAt e 1 1 / 4 % 32 ≠ 0 ∨ 256 < leAt e 2 2 ∨ leAt e 4 4 % 4 ≠ 0 ∨ zeroAt e 0x0D 3 = false ∨ zeroAt e 0x10 12 = false then 2
          else 0
        s.Yields (.tplReload m tpl) fun t => t.bit F.SLV_TPL_RES_PEND = true ∧ t.rd F.SLV_TPL_RES_RESULT = r ∧ t.rd F.SLV_TPL_RES_TEMPLATE = n ∧
          t.mem = s.mem ∧ t.slv.waiting = s.slv.waiting ∧ t.slv.run = s.slv.run ∧ (∀ k, k ≠ n → t.tpl k = s.tpl k) ∧
          t.tpl n = (if r = 0 then { s.tpl n with
            kind := leAt e 0 1, queue := leAt e 1 1 % 4, en := (leAt e 1 1).testBit 7, rdLen := leAt e 2 2, rdOff := leAt e 4 4,
            param := addrAt e 8 } else { s.tpl n with en := false })) ∧
      s.Yields (.reloadAll m) fun t => t.bit F.SLV_TPL_RES_PEND = true ∧ t.mem = s.mem ∧ (t.slv.run.map (·.tpl)) = s.slv.run.map (·.tpl) ∧
        t.slv.waiting = s.slv.waiting ∧ (∀ k, (s.jobOf k).isSome → t.tpl k = s.tpl k) ∧ ((∃ k, k < 256 ∧ (s.jobOf k).isSome) → t.rd F.SLV_TPL_RES_RESULT = 3)) ∧
    (s.Live .slv → s.bit F.SLV_TPL_RES_PEND = true → s.Yields .tplDone fun t => same t ∧ t.bit F.SLV_TPL_RES_PEND = false ∧ t.Caused .slv 9)

/-- A writeback rounds to its format, ties toward +∞, or is a range exception that says how many bits were short; an EST step keeps a
lower cost and moves k_mu, an LSQ refinement and an ADMM check stop as the rules give, a finished factorisation makes its slot valid; a
range exception without a retry ends the job, an end asked for is decided at the next pre-emption point, an uncorrectable tile error
drops the model and the slots it touches; an outcome is written at OUT and its window becomes current before the status changes, or the
job stalls there. (R225, R239, R240, R241, R242, R245, R248, R249, R251, R259, R269, R274) -/
def Obligations.SolverIterations : Prop :=
  (∀ (w : Plan) (kind block : Nat) (x : Rat) (t : Tr),
    let n := (x * pow2 (w.frac kind block) + mkRat 1 2).floor
    (i32Min ≤ n → n ≤ i32Max → (w.put kind block x).run.run t = (.ok n, noteMag kind block (magBits n) t)) ∧
    (n < i32Min ∨ i32Max < n → (w.put kind block x).run.run t = (.error ⟨noPhase, kind, block, magBits n - 31⟩, t) ∧ 31 < magBits n)) ∧
  ∀ (s : State) (j : Job) (o : IterOut),
    s.Live .slv → s.slv.run = some j → s.slv.stall = none →
    let p := j.block 0
    let k := j.iter + 1
    let w := s.dmaWrite 2 (addrAt p (offScratch j.kind)) ((upto (s.spill j.work)).map (Config.slvSave j.ins j.iter))
    let keeps (t : State) : Prop := t.mem = w.1.mem ∧ t.cad = s.cad ∧ t.pending = s.pending ∧ t.slv.tpls = s.slv.tpls
    let goes (i : Instr) (f : Job → Prop) : Prop := s.Yields i fun t => ∃ q, t.slv.run = some q ∧ f q ∧ keeps t ∧
      q.tpl = j.tpl ∧ q.deadline = j.deadline ∧ q.ins = j.ins
    (s.shed = false → j.started = true → j.out = none → j.phase ≠ 9 → j.phase ≠ 10 → w.2 = true →
      (∀ tile slots, o.ue = some (tile, slots) → j.kind = 0 → j.phase ≠ 12 → s.Yields (.estIteration o) fun t => keeps t ∧
        t.slv.run = some { j with out := some 6 } ∧ t.slv.model = none ∧ t.Erred .slv 0x82 tile.val ∧ ∀ n : Fin 4,
        t.bit (F.SLV_FACk_STAT_VALID n.val) = (s.bit (F.SLV_FACk_STAT_VALID n.val) && !slots.getLsbD n.val)) ∧
      (o.ue = none →
        (j.kind = 0 →
          let lm := pFlag p 0
          (∀ e j1 n, j.calc (j.est.iterate j.prevCost j.damp) = (.error e, j1, n) → rangeRetry 0 p = false → s.Yields (.estIteration o) fun t =>
            keeps t ∧ t.slv.run = some { j1 with out := some (if e.kind = 13 then 3 else 2) } ∧ t.Caused .slv 2 ∧
            t.rd F.SLV_RANGE_INFO_KIND = e.kind % 2 ^ F.SLV_RANGE_INFO_KIND.w) ∧
          (∀ r j1 n, j.calc (j.est.iterate j.prevCost j.damp) = (.ok r, j1, n) → goes (.estIteration o) fun q =>
            let lower := decide (r.cost < r.prev)
            q.iter = k ∧ q.pivfix = j.pivfix + n ∧ q.cost = (if lm = true ∧ lower = false then r.prev else r.cost) ∧
            q.x = (if lm = true ∧ lower = false then j.x else r.x) ∧
            q.kmu = (if lm = false then j.kmu else if lower = true then max (-30) (j.kmu - leAt p 0x56 1) else min 30 (j.kmu + leAt p 0x55 1)) ∧
            (j.stopReq = none →
              (q.out = some 0 ↔ (lm = false ∨ lower = true) ∧ (r.maxDx ≤ leAt p 0x5C 4 ∨ smallDecrease r.prev r.cost (wordAt p 0x58) = true)) ∧
              (q.out = some 0 ∨ q.out = some 1 ∨ q.out = none)) ∧ (k = leAt p 0x51 1 ∨ j.stopReq.isSome = true → q.out ≠ none))) ∧
        (j.kind = 1 →
          let last := 1 + leAt p 4 4 % 4
          (∀ r j1 n, j.calc (j.lsq.iterate j.prevCost) = (.ok r, j1, n) → goes (.lsqSolve o 1) fun q => q.iter = k ∧ q.x = r.x ∧ q.cost = r.cost) ∧
          (∀ (done : BitVec 3) j1, done ≠ 0 → j.iter < last → j.lsqRun done.toNat = (j1, none) → goes (.lsqSolve o done) fun q =>
            q.iter = min last (j.iter + done.toNat) ∧ (j.stopReq = none → (q.out = some 0 ↔ q.iter = last) ∧ (q.out = none ↔ q.iter < last)) ∧
            (j.stopReq.isSome = true → q.out ≠ none))) ∧
        (j.kind = 2 → j.phase = 8 → ∀ q0 c j1 n, j.calc (j.admm (s.factor (j.slot.getD 0))) = (.ok (q0, c), j1, n) → goes (.dspIteration o) fun q =>
          let check := k % max 1 (leAt p 0x66 1) = 0
          let conv := check ∧ q0.rPri ≤ leAt p 0x6C 4 ∧ q0.rDua ≤ leAt p 0x70 4
          q.iter = k ∧ q.cost = c ∧ q.x = q0.x ∧ q.z = q0.z ∧ q.y = q0.y ∧ (j.stopReq = none → (q.out = some 0 ↔ conv) ∧
            (q.out = some 7 ↔ ¬conv ∧ check ∧ q0.infeasible j.y = true)) ∧ (k = leAt p 0x64 2 ∨ j.stopReq.isSome = true → q.out ≠ none)) ∧
        (∀ (n : Fin 4) fac j1 pv, j.slot = some n.val → j.phase = 7 → j.stopReq = none → j.calc j.qp.factor = (.ok fac, j1, pv) →
          s.Yields (.factorisationEnd o) fun t => keeps t ∧ t.bit (F.SLV_FACk_STAT_VALID n.val) = true ∧ t.Caused .slv 8 ∧
            t.rd (F.SLV_FACk_STAT_GEN n.val) = (s.rd (F.SLV_FACk_STAT_GEN n.val) + 1) % 2 ^ 16 ∧ t.factor n.val = fac ∧
            t.rd (F.SLV_FACk_KEY_LO_KEY_LO n.val) = j.key % 2 ^ 32 ∧ t.rd (F.SLV_FACk_KEY_HI_KEY_HI n.val) = j.key / 2 ^ 32 % 2 ^ 32 ∧
            ∃ q, t.slv.run = some q ∧ q.refactored = true ∧ q.phase = 8 ∧ q.out = (if j.kind = 3 then some 0 else none)))) ∧
    (s.bit (F.BLK_CTRL_FREEZE .slv) = false → (s.slv.waiting.find? fun q => q.out.isSome) = none → j.started = true → j.phase ≠ 9 → j.phase ≠ 10 →
      ∀ c, (if j.out = some 6 ∨ j.phase = 12 then j.out else if j.stopReq.isSome = true then j.stopReq else j.out) = some c →
      let a := addrAt p (offOut j.kind)
      let d := s.dmaWrite 2 a (j.result p c)
      let st := stopState c (j.hasVectors c)
      let x := s.tpl j.tpl
      let ended (t : State) : Prop := t.jobOf j.tpl = none ∧ t.slv.run = none ∧ (t.tpl j.tpl).stop = c ∧ (t.tpl j.tpl).iter = j.iter ∧
        (t.tpl j.tpl).state = st ∧ (t.tpl j.tpl).cur = (if st = 3 ∨ st = 4 then !x.cur else x.cur) ∧ (∀ n, n ≠ j.tpl → t.tpl n = s.tpl n) ∧
        t.Caused .slv (if st = 3 then 4 else if st = 7 then 10 else 5) ∧ (c = 4 → j.tpl < 256 → t.Erred .slv 0x83 j.tpl)
      (d.2 = false → s.Yields .jobEnd fun t => t.slv.stall = some ⟨j.tpl, .outcome⟩ ∧ t.slv.run = some { j with out := some c, phase := 12 } ∧
        t.slv.tpls = s.slv.tpls ∧ t.bit F.SLV_STALL_INFO_WRITE = true) ∧
      (d.2 = true → j.kind ≠ 0 ∨ 2 ≤ c ∨ estHist p = 0 →
        (x.rdLen = 0 ∨ (st ≠ 3 ∧ st ≠ 4) → s.Yields .jobEnd fun t => t.mem = d.1.mem ∧ ended t) ∧
        (∀ bs, x.rdLen ≠ 0 → st = 3 ∨ st = 4 → (d.1.dmaRead 2 (a + x.rdOff) (4 * x.rdLen)).2 = some bs →
          let e := (d.1.dmaRead 2 (a + x.rdOff) (4 * x.rdLen)).1.dmaWrite 2 (s.winAddr j.tpl !x.cur) bs
          e.2 = true → s.Yields .jobEnd fun t => t.mem = e.1.mem ∧ ended t)))

/-- ENABLE, DISABLE and RELOAD read and check the entry and wait for the lane's boundary, or answer why not; LANE_CLR zeroes a disabled
lane; SNAP latches four registers; the view table is written between an odd and an even SEQ; a built block is stored, over an exported
one where no page is left, or dropped; checkpoints and freeze images go to the other copy than the last. (R282, R283, R284, R286, R287,
R306, R307, R308, R312) -/
def Obligations.MeteringCommands : Prop :=
  ∀ (m : Master) (s : State) (lane : BitVec 11),
    let n := lane.toNat
    let x := s.lane n
    let keeps (t : State) : Prop := s.Spares t ∧ s.Within t .mtr ∧ ∀ k, k ≠ n → t.lane k = s.lane k
    (s.MayWrite m .mtr R.MTR_LANE_CMD →
      let refused (i : Instr) : Prop := s.Yields i fun t => t.mtr = s.mtr ∧ s.Spares t ∧ s.Within t .mtr ∧ t.Erred .mtr 0x84 n
      let asked (i : Instr) (op : Nat) : Prop :=
        let z := s.reply 0
        let a := s.rd F.MTR_LTBL_BASE_BASE * 2 ^ 16 + 64 * n
        ((z.dmaRead 7 a 64).2 = none → s.Yields i fun t => t.mtr = s.mtr ∧ t.mem = s.mem ∧ t.rd F.MTR_LANE_RES_RESULT = 5 ∧
          t.bit F.MTR_LANE_RES_PEND = false ∧ t.Erred .mtr 0x80 n) ∧
        ∀ e, (z.dmaRead 7 a 64).2 = some e →
          let c := parseLane e
          let r := if (crc32 (e.take 0x3C)).toNat ≠ leAt e 0x3C 4 then 1 else if laneFieldsOk e = false then 2
            else if op = 1 ∧ (∃ k : Fin 4, x.regs[k] / 2 ^ 32 ≠ 0) ∧ x.kind ≠ some c.kind then 3
            else if op = 3 ∧ (c.kind ≠ x.cfg.kind ∨ c.src ≠ x.cfg.src ∨ c.flags.testBit 2 ≠ x.cfg.flags.testBit 2 ∨
              c.flags.testBit 3 ≠ x.cfg.flags.testBit 3) then 4 else 0
          s.Yields i fun t => keeps t ∧ t.rd F.MTR_LANE_RES_LANE = n ∧ t.rd F.MTR_LANE_RES_RESULT = r ∧
            t.bit F.MTR_LANE_RES_PEND = decide (r = 0) ∧ t.lane n = (if r = 0 then { x with cmd := some (op, c) } else x) ∧
            (1 ≤ r → r ≤ 3 → t.Erred .mtr 0x81 n)
      (x.en = true → refused (.laneEnable m lane) ∧ asked (.laneReload m lane) 3 ∧ s.Yields (.laneDisable m lane) fun t => keeps t ∧
        t.lane n = { x with cmd := some (2, x.cfg) } ∧ t.bit F.MTR_LANE_RES_PEND = true ∧ t.rd F.MTR_LANE_RES_RESULT = 0) ∧
      (x.en = false → refused (.laneDisable m lane) ∧ refused (.laneReload m lane) ∧ asked (.laneEnable m lane) 1)) ∧
    (s.MayWrite m .mtr R.MTR_LANE_CLR →
      (x.en = true → s.Yields (.laneClr m lane) fun t => t.mtr = s.mtr ∧ s.Spares t ∧ t.Erred .mtr 0x84 n) ∧
      (x.en = false → s.Yields (.laneClr m lane) fun t => s.Spares t ∧
        t.lane n = { x with regs := Vector.replicate 4 0, kind := none, cleared := true } ∧ ∀ k, k ≠ n → t.lane k = s.lane k)) ∧
    (∀ (k : Fin 8) (reg : BitVec 2), s.MayWrite m .mtr (R.MTR_SNAPk_CTL k) → s.Yields (.snap m k lane reg) fun t =>
      t.mtr = { s.mtr with snaps := s.mtr.snaps.set k x.regs } ∧ s.Spares t ∧ s.Within t .mtr ∧
        ∀ w : Fin 3, (t.regGet (R.MTR_SNAPk_Wj k w)).toNat = x.regs[reg.toFin] / 2 ^ (32 + 32 * w.val) % 2 ^ 32) ∧
    (s.Live .mtr →
      (s.mtrRuns = true → s.bit F.MTR_VIEW_BASE_VEN = true → s.mtr.viewSec ≠ s.nowSec → s.mtr.viewSeq % 2 = 0 →
        let odd := (s.mtr.viewSeq + 1) % 2 ^ 32
        let base := s.rd F.MTR_VIEW_BASE_BASE * 2 ^ 16
        let lanes := ((s.laneNums.filter fun k => (s.lane k).en).getLast?.map (· + 1)).getD 0
        let w1 := ({ s with mtr := { s.mtr with viewSec := s.nowSec, viewSeq := odd } } : State).dmaWrite 7 base (leBytes 4 odd)
        let w2 := w1.1.dmaWrite 7 (base + 4) (leBytes 4 lanes ++ leBytes 8 (recTime s.tb3) ++ ((upto lanes).flatMap fun k => viewEntry (s.lane k)))
        let w3 := w2.1.dmaWrite 7 base (leBytes 4 ((odd + 1) % 2 ^ 32))
        (w1.2 = true → w2.2 = true → w3.2 = true → s.Yields .viewTableWrite fun t => t.mem = w3.1.mem ∧ t.mtr.viewSeq = (odd + 1) % 2 ^ 32 ∧
          t.mtr.lanes = s.mtr.lanes ∧ t.pending = s.pending) ∧
        (w1.2 = true → w2.2 = false → s.Yields .viewTableWrite fun t => t.mem = w2.1.mem ∧ t.mtr.viewSeq = odd ∧ t.Erred .mtr 0x80 0x3FFF)) ∧
      (∀ b rest, s.mtr.built = b :: rest →
        (s.nand.bill.length < billPages → s.Yields .blockStore fun t => t.nand = { s.nand with bill := s.nand.bill ++ [b] } ∧ t.mtr.built = rest ∧
          s.Spares t ∧ t.mtr.lanes = s.mtr.lanes ∧ (b.last = true → t.Caused .mtr 5)) ∧
        ∀ o old, s.nand.bill = o :: old → billPages ≤ s.nand.bill.length →
          (o.seq ≤ s.rd F.MTR_BILL_ACK_ACK → s.Yields .blockStore fun t => t.nand = { s.nand with bill := old ++ [b] } ∧ t.mtr.built = rest) ∧
          (s.rd F.MTR_BILL_ACK_ACK < o.seq → s.Yields .blockStore fun t => t.nand = s.nand ∧ t.mtr.built = rest ∧ t.Caused .mtr 7 ∧
            t.rd F.MTR_BILL_STAT_DROP = satInc (2 ^ F.MTR_BILL_STAT_DROP.w - 1) (s.rd F.MTR_BILL_STAT_DROP))) ∧
      (let seq := match s.nand.newest with | some (_, t) => t.seq + 1 | none => 1
      (s.mtrRuns = true → s.mtr.chkAt + nsPerSec * max 10 (min 3600 (s.rd F.MTR_LANE_CFG_CHKPT)) ≤ s.nowNs → s.Yields .checkpoint fun t =>
        t.mtr = { s.mtr with chkAt := s.nowNs } ∧ s.Spares t ∧ t.regs = s.regs ∧ t.nand.bill = s.nand.bill ∧ t.nand.totalsLast = !s.nand.totalsLast ∧
          (if s.nand.totalsLast = true then t.nand.totalsA = some (s.totals false seq s.tb3) ∧ t.nand.totalsB = s.nand.totalsB
           else t.nand.totalsB = some (s.totals false seq s.tb3) ∧ t.nand.totalsA = s.nand.totalsA)) ∧
      (s.mtrFrozen = true → s.mtr.committed = false → s.Yields .totalsCommit fun t => t.mtr = { s.mtr with committed := true } ∧ s.Spares t ∧
        (s.pfw = false → t.Caused .mtr 11) ∧
          (if s.nand.totalsLast = true then t.nand.totalsA = some (s.totals true seq s.mtr.freezeTb3)
           else t.nand.totalsB = some (s.totals true seq s.mtr.freezeTb3)))))

/-- A tick adds the weighted pulses of a PULSE_E lane and nothing to a lane without a usable flow; a window adds the energies of its
samples to the register of their sign; a crossing at 0.8 to 1.25 periods counts and ends NOZC, an earlier one does not, ZC_TMO without
one sets it; a conversion in range gives the channel's temperature; a sample boundary commits shadows and truing coefficients and takes
the codes, trued and scaled. (R281, R290, R291, R292, R293, R297, R298, R301, R452) -/
def Obligations.MeteringMeasurement : Prop :=
  ∀ (s : State) (set : Fin 2) (p : Fin 3) (n : Nat),
    s.Live .mtr →
    let x := s.lane n
    let kept (t : State) : Prop := s.Delivers t ∧ ∀ k, (s.lane k).en = false → (t.lane k).regs = (s.lane k).regs
    let added (y : Lane) (k : Nat) (amt : Nat) : Prop := ∀ r : Fin 4, y.regs[r] = (if r.val = k then (x.regs[r] + amt) % 2 ^ 128 else x.regs[r])
    (s.en .mtr = true → s.stopping .mtr = false → s.tickDue = true → s.mtrFrozen = false → Sparse.wf (fun _ => ({} : Lane)) s.mtr.lanes = true → x.en = true →
      (x.cfg.kind = 7 →
        let e : Int := if x.cfg.flags.testBit 4 = true ∧ (s.regGet R.FIO_DI_STATE).getLsbD x.cfg.dirDi = true
          then -(s.pulses x.cfg.pulseDi * x.cfg.pulseWt : Nat) else (s.pulses x.cfg.pulseDi * x.cfg.pulseWt : Nat)
        s.Yields .tick fun t => kept t ∧ (e = 0 → (t.lane n).regs = x.regs) ∧
          (e ≠ 0 → added (t.lane n) (if 0 < e then 0 else 1) (e.natAbs * 2 ^ 32)) ∧ t.mtr.lastTick = s.tb2) ∧
      (x.cfg.kind = 3 → x.cfg.flags.testBit 2 = true → s.mtrIn x.cfg.flowSig x.cfg.qlim = none →
        s.Yields .tick fun t => kept t ∧ (t.lane n).regs = x.regs ∧ (x.errRun = false → t.Caused .mtr 3))) ∧
    (s.en .mtr = true → s.tickDue = false → exec .tick s = .next s) ∧
    (s.mtrRuns = true → s.stopping .mtr = false → s.elecMode set ≠ 0 → s.windowDue set = true → s.bit F.MTR_HARM_BASE_HEN = false →
      let w := s.winOf set (s.windowEndAt set)
      s.Yields (.windowEnd set) fun t => kept t ∧ (t.mtr.sets[set]).count = 0 ∧ (t.mtr.sets[set]).prevEnd = s.windowEndAt set ∧
        (Sparse.wf (fun _ => ({} : Lane)) s.mtr.lanes = true → x.en = true → 4 ≤ x.cfg.kind → x.cfg.kind ≤ 6 → x.cfg.src % 2 = set.val →
          let e := winEnergy x.cfg.kind w (x.cfg.src / 4)
          let pos := if x.cfg.kind = 6 then 0 ≤ winEnergy 4 w (x.cfg.src / 4) else 0 ≤ e
          let amt := e * 1000000 * pow2 32
          ∃ a : Nat, a * amt.den < amt.num.natAbs + amt.den ∧ amt.num.natAbs < a * amt.den + amt.den ∧ added (t.lane n) (if pos then 0 else 1) a)) ∧
    (s.mtrRuns = true → (phasesOf (s.elecMode set)).contains p = true →
      let z := (s.mtr.sets[set]).phases[p]
      (z.seen = none → exec (.zeroCrossing set p) s = .next s) ∧
      (∀ at_ l, z.seen = some at_ → z.last = some l → (s.refPhase set ≠ some p ∨ s.windowDue set = false) →
        let gap := 100 * s.nomHz * (at_ - l)
        (80 * unitsPerSec ≤ gap → gap ≤ 125 * unitsPerSec → s.Yields (.zeroCrossing set p) fun t => s.Spares t ∧ t.mtr.lanes = s.mtr.lanes ∧
          (t.mtr.sets[set]).phases[p].last = some at_ ∧ (t.mtr.sets[set]).phases[p].seen = none ∧ t.bit (nozcFld set p) = false ∧
          (s.bit (nozcFld set p) = true → t.Caused .mtr 2)) ∧
        (gap < 80 * unitsPerSec → s.Yields (.zeroCrossing set p) fun t => s.Spares t ∧ t.mtr.lanes = s.mtr.lanes ∧ t.regs = s.regs ∧
          (t.mtr.sets[set]).phases[p] = { z with seen := none })) ∧
      (s.bit (nozcFld set p) = false →
        let due := z.since + 1000000 * unitsPerNs * max 1 (s.rd F.MTR_ELEC_CFG_ZC_TMO)
        (due ≤ s.tb2 → s.Yields (.nozcTimeout set p) fun t => s.Spares t ∧ s.Within t .mtr ∧ t.bit (nozcFld set p) = true ∧ t.Caused .mtr 2 ∧
          t.mtr.lanes = s.mtr.lanes ∧ (t.mtr.sets[set]).phases[p].last = none) ∧
        (s.tb2 < due → exec (.nozcTimeout set p) s = .next s))) ∧
    (∀ (c : Fin 8) (nohm : Option Nat), s.mtrRuns = true → (s.rd F.MTR_RTD_CFG_EN).testBit (c.val / 2) = true →
      let r0 : Rat := if (s.rd F.MTR_RTD_CFG_TYPE).testBit (c.val / 2) then 10 else 1
      let temp := nohm.bind fun k => ptTemp (mkRat k 1000000000 * (1 + mkRat (Sparse.get s.coef (0, 0) (16 + c.val)).1 1000000) / r0)
      s.Yields (.rtdConversion c nohm) fun t => s.Delivers t ∧ t.mtr.lanes = s.mtr.lanes ∧
        t.mtr.rtd = s.mtr.rtd.set c (temp.map fun y => y + sext 16 (s.rd (F.MTR_RTD_OFSn_OFS c)) * 1000)) ∧
    (∀ r y, ptTemp r = some y → -50000000 ≤ y ∧ y ≤ 200000000 ∧ ptOhms y ≤ r ∧ r ≤ ptOhms 200000000) ∧
    ∀ codes : List (BitVec 24), s.Yields (.sampleBoundary codes) fun t => s.Spares t ∧ t.mtr.lanes = s.mtr.lanes ∧ t.coefNew = [] ∧
      (∀ f v, (f, v) ∈ t.shadows → blkAt f.addr ≠ some .mtr) ∧ (∀ c y, s.coefNew = [(c, y)] → Sparse.get t.coef (0, 0) c = y) ∧
      (s.shadows = [] → s.mtrRuns = true → s.elecMode set ≠ 0 →
        ∃ v, (t.mtr.sets[set]).samples = (s.mtr.sets[set]).samples ++
            [⟨s.tb2, v, (upto 8).map fun k => sext 16 (s.rd (F.MTR_CHn_PHC_PHC (8 * set.val + k)))⟩] ∧ ∀ k : Fin 8,
          v.getD k.val 0 = (mkRat (codes.getD (8 * set.val + k.val) 0).toInt (2 ^ 23) + mkRat (Sparse.get t.coef (0, 0) (8 * set.val + k.val)).1 1000000) *
            (1 + mkRat (Sparse.get t.coef (0, 0) (8 * set.val + k.val)).2 1000000) * scaleOf (s.regGet (R.MTR_CHn_SCALE (8 * set.val + k.val))))

/-- A good frame for a learned address joins its port's queue and its source is learned; a frame that is too long or corrupt is dropped
and counted; a port sends the first frame of its highest queue, correcting a one-step Sync and dropping a late one; ageing, flush,
expiry and link changes. (R314, R316, R317, R319, R321, R324, R325, R326, R337) -/
def Obligations.Switching : Prop :=
  ∀ (m : Master) (s : State) (port : Fin 5) (f : EthFrame),
    let keeps (t : State) : Prop := s.Spares t ∧ s.Within t .net
    (s.Live .net → s.runs .net = true → port.val < 4 → s.netPort port.val = true → s.portState port.val = 3 → ethType f.rest ≠ 0x8808 →
      (2000 < ethLen f ∨ f.fcs = false → s.Yields (.switchFrameRx port f) fun t => keeps t ∧ t.net = { s.net with tx := [] } ∧
        t.rd (F.NET_PORTn_STAT_DROP port) = satInc 0xFFFF (s.rd (F.NET_PORTn_STAT_DROP port))) ∧
      (ethLen f ≤ 2000 → f.fcs = true → s.netRoom f = true → linkLocal f.da = false → groupAddr f.da = false → f.sa ≠ f.da → ptpAt f.rest = none →
        ∀ q : Fin 5, s.addrPort f.da = some q.val → q ≠ port → q.val < 4 → s.netPort q.val = true → s.portState q.val = 3 → q.val < 2 ∨ s.shed = false →
          s.Yields (.switchFrameRx port f) fun t => keeps t ∧ t.regs = s.regs ∧ t.net.tx = [] ∧ t.net.fus = s.net.fus ∧
            t.net.queues = s.net.queues.set q (s.net.queues[q] ++
              [{ frame := f, prio := prioOf f.rest, ingress := port, stamps := [s.tb0, s.tb1, s.tb2, s.tb3] }]) ∧
            (groupAddr f.sa = false → s.net.addrs.length < 2048 → t.addrPort f.sa = some port.val))) ∧
    (∀ (q : Fin 2) (tail : BitVec 16), s.MayWrite m .net (R.NET_CPUq_IDX q) → q = 0 ∨ s.runs .net = false ∨ s.net.take % s.cpuN 1 = tail.toNat % s.cpuN 1 →
      s.Yields (.cpuTail m q tail) fun t => keeps t ∧ t.net = s.net ∧ t.rd (F.NET_CPUq_IDX_TAIL q) = tail.toNat ∧
        t.rd (F.NET_CPUq_IDX_HEAD q) = s.rd (F.NET_CPUq_IDX_HEAD q)) ∧
    (s.Live .net →
      (s.net.queues[port] = [] → s.Yields (.frameTxDone port) fun t => t.net = { s.net with tx := [] } ∧ t.regs = s.regs ∧ s.Spares t) ∧
      (s.mayLeave port = false → s.Yields (.frameTxDone port) fun t => t.net = { s.net with tx := [] } ∧ t.regs = s.regs ∧ s.Spares t) ∧
      (s.net.queues[port] ≠ [] → s.mayLeave port = true → s.runs .net = false ∨ s.net.take % s.cpuN 1 = s.rd (F.NET_CPUq_IDX_TAIL 1) % s.cpuN 1 →
        ∃ q rest, nextFrame s.net.queues[port] = some (q, rest) ∧ q ∈ s.net.queues[port] ∧
        (∀ x ∈ s.net.queues[port], x.prio ≤ q.prio) ∧
        let sent (n : Net) (fr : List (Nat × EthFrame)) : Net :=
          { n with queues := n.queues.set port rest, tx := fr, txLeft := setMark n.txLeft port.val false }
        (s.bit (F.NET_PORTn_STAT_LINK port) = false ∨ s.netPort port.val = false → q.desc = none →
          s.Yields (.frameTxDone port) fun t => t.net = sent s.net [] ∧ t.regs = s.regs ∧ s.Spares t) ∧
        (s.bit (F.NET_PORTn_STAT_LINK port) = true → s.netPort port.val = true →
          (q.ingress = 5 → q.oneStep = false → q.desc = none → s.Yields (.frameTxDone port) fun t =>
            t.net = sent s.net [(port.val, q.frame)] ∧ t.regs = s.regs ∧ s.Spares t) ∧
          (q.ingress ≠ 5 →
            (ptpAt q.frame.rest = none → s.Yields (.frameTxDone port) fun t =>
              t.net = sent s.net [(port.val, q.frame)] ∧ t.regs = s.regs ∧ s.Spares t) ∧
            ∀ tr h n, ptpAt q.frame.rest = some (tr, h) → s.corrTb (ptpDomain q.frame.rest h) = some n → ptpType q.frame.rest h = 0 →
              let res := (s.tb n : Int) - (q.stamps.getD n 0 : Nat)
              let limit : Int := (max 1 (s.rd F.NET_TC_CFG_MAXRES) * 1000 * unitsPerNs : Nat)
              (limit < res → s.Yields (.frameTxDone port) fun t => t.net = sent s.net [] ∧ s.Spares t ∧ t.Caused .net 6 ∧
                t.rd F.NET_TC_CFG_DROP = satInc (2 ^ F.NET_TC_CFG_DROP.w - 1) (s.rd F.NET_TC_CFG_DROP)) ∧
              (res ≤ limit → ptpTwoStep q.frame.rest h = false → s.p2p = false → s.Yields (.frameTxDone port) fun t =>
                t.net = sent s.net [(port.val, { q.frame with rest := fixUdp tr (addCorr q.frame.rest h (scaledNs res)) h })] ∧ t.regs = s.regs ∧
                s.Spares t)))) ∧
      (s.Yields .addressAgeing fun t => t.regs = s.regs ∧ s.Spares t ∧ t.net = (if s.rd F.NET_BR_CFG_AGE = 0 then s.net else { s.net with
        addrs := s.net.addrs.filter fun e => decide (s.nowNs < e.2.2 + s.rd F.NET_BR_CFG_AGE * nsPerSec) })) ∧
      (s.Yields .followupExpiry fun t => t.regs = s.regs ∧ s.Spares t ∧ t.net = { s.net with
        fus := s.net.fus.filter fun e => decide (s.nowNs < e.at_ + 100000000) }) ∧
      ∀ up an : Bool, s.Yields (.portLinkChange port up an) fun t => s.Spares t ∧ t.net = s.net ∧ t.bit (F.NET_PORTn_STAT_LINK port) = up ∧
        t.bit (F.NET_PORTn_STAT_AN_DONE port) = (up && an && s.anRuns port.val) ∧ (s.bit (F.NET_PORTn_STAT_LINK port) = up → s.Within t .net) ∧
        (s.bit (F.NET_PORTn_STAT_LINK port) ≠ up → t.Caused .net 4 ∧ (port = 0 → t.bit F.SPK_RING_STAT_LINK_A = up) ∧
          (port = 1 → t.bit F.SPK_RING_STAT_LINK_B = up) ∧ (port = 4 → t.bit F.TDM_STATE_LINK_T = up))) ∧
    (s.MayWrite m .net R.NET_BR_CFG → s.Yields (.brFlush m) fun t => t.net = { s.net with addrs := [] } ∧ t.regs = s.regs ∧ s.Spares t)

/-- STEP adds and SET loads TB0 or TB1 at once, discarding a slew and counting; an adjustment of TB2 or TB3 is ignored and one with
nanoseconds of a second or more is discarded; SLEW takes an offset to be applied; a read of NS latches the seconds; TB3 follows its
source, and VALID and HOLDOVER follow SYNCED, the RTC and HOLD_S. (R328, R329, R330, R331, R332) -/
def Obligations.TimeBases : Prop :=
  ∀ (m : Master) (s : State) (n : Fin 4) (secHi : BitVec 16),
    let ns := s.rd (F.TSU_TBn_ADJ_NS_NS n)
    let neg := s.bit (F.TSU_TBn_ADJ_NS_NEG n)
    let size : Nat := ((s.rd (F.TSU_TBn_ADJ_SEC_SEC n) + 2 ^ 32 * secHi.toNat) * nsPerSec + ns) * unitsPerNs
    let valid := s.bit (F.TSU_TBn_STAT_VALID 3)
    let up (x : Nat) : Nat := (x + 1) % 2 ^ 16
    (s.MayWrite m .tsu (R.TSU_TBn_ADJ_CMD n) →
      let loads (i : Instr) (u : Nat) : Prop := s.Yields i fun t => t.mem = s.mem ∧ t.cad = s.cad ∧ t.pending = s.pending ∧ t.tb n = u ∧
        (∀ k, k < 3 → k ≠ n.val → t.tb k = s.tb k) ∧ t.slewOf n = 0 ∧ t.bit (F.TSU_TBn_STAT_SLEWING n) = false ∧
        t.rd (F.TSU_TBn_STAT_STEPS n) = up (s.rd (F.TSU_TBn_STAT_STEPS n)) ∧ (s.isHalted .tsu = false → t.Caused .tsu 6) ∧
        t.tb3 = (if n = 0 ∧ s.tsu.srcRtc = false then tbWrapI ((u : Int) - (s.rd F.TSU_TB3_OFS_OFS * nsPerSec * unitsPerNs : Nat)) else s.tb3) ∧
        t.rd (F.TSU_TBn_STAT_STEPS 3) = (if n = 0 ∧ s.tsu.srcRtc = false then up (s.rd (F.TSU_TBn_STAT_STEPS 3)) else s.rd (F.TSU_TBn_STAT_STEPS 3))
      let refused (i : Instr) : Prop := s.Yields i fun t => t.Erred .tsu 0x80 n.val ∧ (∀ k, t.tb k = s.tb k) ∧ t.tsu = s.tsu ∧ s.Spares t ∧ s.Within t .tsu
      (2 ≤ n.val → exec (.step m n secHi) s = .next (s.reply 0) ∧ exec (.set m n secHi) s = .next (s.reply 0) ∧
        exec (.slew m n secHi) s = .next (s.reply 0)) ∧
      (n.val < 2 →
        (nsPerSec ≤ ns → refused (.step m n secHi) ∧ refused (.set m n secHi) ∧ refused (.slew m n secHi)) ∧
        (ns < nsPerSec →
          loads (.step m n secHi) (tbWrapI ((s.tb n : Int) + (if neg = true then -(size : Int) else (size : Int)))) ∧
          (neg = true → refused (.set m n secHi)) ∧ (neg = false → loads (.set m n secHi) (tbWrap size)) ∧
          (s.rd (F.TSU_TBn_ADJ_SEC_SEC n) ≠ 0 → refused (.slew m n secHi)) ∧
          (s.rd (F.TSU_TBn_ADJ_SEC_SEC n) = 0 → s.Yields (.slew m n secHi) fun t => (∀ k, t.tb k = s.tb k) ∧ s.Spares t ∧ s.Within t .tsu ∧
            t.slewOf n = (if neg = true then -((ns * unitsPerNs : Nat) : Int) else ((ns * unitsPerNs : Nat) : Int)) ∧
            t.bit (F.TSU_TBn_STAT_SLEWING n) = decide (ns ≠ 0) ∧ (ns = 0 → s.isHalted .tsu = false → t.Caused .tsu 8))))) ∧
    (s.MayWrite m .tsu (R.TSU_TBn_STAT n) → ∀ v : Bool,
      (2 ≤ n.val → exec (.syncedWrite m n v) s = .next (s.reply 0)) ∧
      (n.val < 2 → s.Yields (.syncedWrite m n v) fun t => t.bit (F.TSU_TBn_STAT_SYNCED n) = v ∧ (∀ k, t.tb k = s.tb k) ∧ s.Spares t ∧
        (if n = 0 ∧ s.tsu.srcRtc = false then t.bit (F.TSU_TBn_STAT_VALID 3) = (v || valid) ∧ t.bit (F.TSU_TBn_STAT_HOLDOVER 3) = (!v && valid)
         else t.bit (F.TSU_TBn_STAT_VALID 3) = valid ∧ t.bit (F.TSU_TBn_STAT_HOLDOVER 3) = s.bit (F.TSU_TBn_STAT_HOLDOVER 3)))) ∧
    (s.Answers .tsu → s.Yields (.tbReadLatch m n) fun t => t.resp = { data := BitVec.ofNat 32 (tbNs (s.tb n) % nsPerSec), err := false } ∧ s.Spares t ∧
      t.rd (F.TSU_TBn_SEC_LO_SEC_LO n) = tbSec (s.tb n) % 2 ^ 32 ∧ t.rd (F.TSU_TBn_SEC_HI_SEC_HI n) = tbSec (s.tb n) / 2 ^ 32 % 2 ^ 16 ∧ s.Within t .tsu) ∧
    (s.Live .tsu →
      (∀ k : Fin 2, s.bit (F.TSU_TBn_STAT_SLEWING k) = true →
        (s.slewOf k = 0 → s.Yields (.slewDone k) fun t => t.bit (F.TSU_TBn_STAT_SLEWING k) = false ∧ t.Caused .tsu 8 ∧ t.tsu = s.tsu ∧ s.Spares t) ∧
        (s.slewOf k ≠ 0 → exec (.slewDone k) s = .next s)) ∧
      (secondNow s.tb0 = false → exec .tb3OfsCommit s = .next s) ∧
      (∀ v, secondNow s.tb0 = true → s.shadows = [(F.TSU_TB3_OFS_OFS, v)] → v < 2 ^ 32 → s.Yields .tb3OfsCommit fun t => t.shadows = [] ∧
        t.rd F.TSU_TB3_OFS_OFS = v ∧ s.Spares t ∧ (s.tsu.srcRtc = false → t.tb3 = tbWrapI ((s.tb0 : Int) - (v * nsPerSec * unitsPerNs : Nat)) ∧
          (s.rd F.TSU_TB3_OFS_OFS ≠ v → t.rd (F.TSU_TBn_STAT_STEPS 3) = up (s.rd (F.TSU_TBn_STAT_STEPS 3)) ∧ t.Caused .tsu 6)) ∧
          (s.tsu.srcRtc = true → t.tb3 = s.tb3)) ∧
      (let rtc := s.bit F.TSU_CFG_TB3_SRC
      rtc ≠ s.tsu.srcRtc → (if rtc = true then s.rtcSecondNow = true else secondNow s.tb0 = true) →
        s.Yields .tb3SrcChange fun t => t.tsu.srcRtc = rtc ∧ s.Spares t ∧ t.tb0 = s.tb0 ∧
        t.tb3 = (if rtc = true then s.cal.secs * unitsPerSec else s.tb3OfTb0) ∧ t.rd (F.TSU_TBn_STAT_STEPS 3) = up (s.rd (F.TSU_TBn_STAT_STEPS 3)) ∧
        t.bit (F.TSU_TBn_STAT_VALID 3) = (if rtc = true then s.rtcValid else s.bit (F.TSU_TBn_STAT_SYNCED 0)) ∧
        t.bit (F.TSU_TBn_STAT_HOLDOVER 3) = false ∧ t.Caused .tsu 6) ∧
      (s.bit (F.TSU_TBn_STAT_HOLDOVER 3) = true →
        let endAt := s.tsu.holdAt + s.rd F.TSU_CFG_HOLD_S * nsPerSec
        (endAt ≤ s.nowNs → s.Yields .holdoverExpiry fun t => t.bit (F.TSU_TBn_STAT_VALID 3) = false ∧ t.bit (F.TSU_TBn_STAT_HOLDOVER 3) = false ∧
          t.Caused .tsu 7 ∧ t.tb3 = s.tb3 ∧ s.Spares t) ∧
        (s.nowNs < endAt → exec .holdoverExpiry s = .next s)))

/-- A pulse starts at a grid instant or once at or after START, drives the level against POL for WIDTH and then ends, a one-shot with
TP_DONE; an edge selected by EDGE joins a queue of eight with its time base's instant, a full queue counts it; a read takes the oldest
capture. (R333, R334, R335, R336) -/
def Obligations.PulsesAndCaptures : Prop :=
  ∀ (m : Master) (s : State) (o : Fin 8) (c : Fin 4) (falling : Bool),
    let u := s.tb (s.rd (F.TSU_TPn_CFG_TB o))
    let st := s.tpStart o
    let passed (v : Nat) : Prop := ∃ w, (s.tsu.tp[o]).from_ = some w ∧ v ≤ w
    let late := 2 * unitsPerCycle ≤ u - st ∨ passed st
    let edge := s.rd (F.TSU_TCn_CFG_EDGE c)
    let q := (s.tsu.tc[c]).queue
    (s.Live .tsu →
      (s.runs .tsu = true → s.bit (F.TSU_TPn_CFG_EN o) = true → (s.tsu.tp[o]).until_ = none →
        (u < st → exec (.tpPulse o) s = .next s) ∧
        (st ≤ u →
          (s.bit (F.TSU_TPn_CFG_MODE o) = true →
            let due := (u - st) % s.tpPeriod o < 2 * unitsPerCycle ∧ ¬passed (u - (u - st) % s.tpPeriod o)
            (due → s.Yields (.tpPulse o) fun t => t.regs = s.regs ∧ s.Spares t ∧
              (t.tsu.tp[o]).until_ = some (s.tb2 + s.tpWidth o) ∧ t.tpLevel o = !s.bit (F.TSU_TPn_CFG_POL o) ∧ ∀ k, k ≠ o → t.tsu.tp[k] = s.tsu.tp[k]) ∧
            (¬due → exec (.tpPulse o) s = .next s)) ∧
          (s.bit (F.TSU_TPn_CFG_MODE o) = false →
            if (s.tsu.tp[o]).fired = true then exec (.tpPulse o) s = .next s
            else s.Yields (.tpPulse o) fun t => t.tsu.tp[o] = { s.tsu.tp[o] with until_ := some (s.tb2 + s.tpWidth o), fired := true } ∧
              t.tpLevel o = !s.bit (F.TSU_TPn_CFG_POL o) ∧
              s.Spares t ∧ s.Within t .tsu ∧ (late → t.Caused .tsu 3) ∧ (¬late → t.regs = s.regs)))) ∧
      (∀ e, (s.tsu.tp[o]).until_ = some e →
        (s.tb2 < e → exec (.tpPulseEnd o) s = .next s) ∧
        (e ≤ s.tb2 → s.Yields (.tpPulseEnd o) fun t => (t.tsu.tp[o]).until_ = none ∧ t.tsu.tc = s.tsu.tc ∧ s.Spares t ∧ s.Within t .tsu ∧
          (s.bit (F.TSU_TPn_CFG_MODE o) = false → t.Caused .tsu 2) ∧ ∀ f v, (f, v) ∈ t.shadows → tpFld o f = false)) ∧
      (s.en .tsu = true → s.bit (F.TSU_TCn_CFG_EN c) = true → edge = 3 ∨ edge = (if falling = true then 2 else 1) →
        (∀ t0, (s.tsu.tc[c]).last = some t0 → t0 + 20 ≤ s.nowNs) →
        (q.length < 8 → s.Yields (.tcCapture c falling) fun t => s.Spares t ∧ s.Within t .tsu ∧ t.Caused .tsu 4 ∧
          (t.tsu.tc[c]).queue = q ++ [⟨s.tb (s.rd (F.TSU_TCn_CFG_TB c)), falling⟩] ∧ t.rd (F.TSU_TCn_CFG_COUNT c) = q.length + 1) ∧
        (8 ≤ q.length → s.Yields (.tcCapture c falling) fun t => (t.tsu.tc[c]).queue = q ∧ t.Caused .tsu 5 ∧ s.Spares t ∧
          t.rd (F.TSU_TCn_CFG_OVF c) = satInc 0xFFFF (s.rd (F.TSU_TCn_CFG_OVF c)))) ∧
      (edge = 0 → s.Yields (.tcCapture c falling) fun t => (t.tsu.tc[c]).queue = q ∧ s.Spares t)) ∧
    (s.Answers .tsu →
      (q = [] → exec (.tcPop m c) s = .next (s.reply 0)) ∧
      ∀ x l, q = x :: l → s.Yields (.tcPop m c) fun t => (t.tsu.tc[c]).queue = l ∧ t.rd (F.TSU_TCn_CFG_COUNT c) = l.length % 16 ∧ s.Spares t ∧
        s.Within t .tsu ∧ (t.regGet (R.TSU_TCn_SEC c)).toNat = tbSec x.at_ % 2 ^ 32 ∧ t.resp.err = false ∧
        t.resp.data = BitVec.ofNat 32 (tbNs x.at_ % nsPerSec + (if x.falling = true then 2 ^ 30 else 0) + 2 ^ 31))

/-- Every output and both fault levels follow commands, inhibits, shutdowns and field voltage after each event; DO_INHIBIT discards a
newly set bit of a channel whose SAFE value is 1; a debounced edge toggles its input, counts it and queues its stamp, or counts an
overflow; under-voltage drops the group and, for VFLD1, the inputs until a restart takes their raw levels. (R341, R342, R343, R344,
R345, R346, R347, R348, R349, R351) -/
def Obligations.FieldIo : Prop :=
  ∀ (m : Master) (s : State) (n : Fin 16) (d : Fin 24) (g : Fin 2),
    let driven := (s.rd F.FIO_DO_STATE_DRIVEN).testBit n
    let settled (t : State) : Prop := s.Spares t ∧ t.fio.queue = s.fio.queue ∧
      (∀ k : Fin 16, (t.rd F.FIO_DO_STATE_DRIVEN).testBit k = (t.en .fio && !t.unreachable .fio && !t.fio.stopped && !t.suppressed &&
        !t.bit (statFld .fio (10 + k.val / 8)) && (t.rd F.FIO_DO_STATE_CMD).testBit k && !(t.rd F.FIO_DO_INHIBIT_INH).testBit k && !t.fio.shutdown.getLsbD k)) ∧
      ∀ h : Fin 2, t.bit (statFld .fio (8 + h)) = (upto 8).any fun i => t.doFaulty (8 * h + i)
    let same (t : State) : Prop := t.rd F.FIO_DO_STATE_CMD = s.rd F.FIO_DO_STATE_CMD ∧ t.rd F.FIO_DO_INHIBIT_INH = s.rd F.FIO_DO_INHIBIT_INH ∧
      t.rd F.FIO_DO_DIAG_DIAG = s.rd F.FIO_DO_DIAG_DIAG
    let refused (k : Nat) (v : Word) : Prop := v.getLsbD k = true ∧ (s.rd F.FIO_DO_INHIBIT_INH).testBit k = false ∧ s.guardSafe (s.ownSig (0x1940 + k)) = 1
    (s.Live .fio →
      (s.Yields .doUpdate fun t => settled t ∧ t.rd F.FIO_DO_INHIBIT_INH = s.rd F.FIO_DO_INHIBIT_INH ∧ t.fio.shutdown = s.fio.shutdown ∧
        ∀ k : Fin 16, (t.rd F.FIO_DO_STATE_CMD).testBit k = decide (∃ v, s.guardedVal (s.ownSig (0x1940 + k)) = some v ∧ v.value ≠ 0)) ∧
      (driven = true → (s.Yields (.doCurrentLimit n) fun t => settled t ∧ same t ∧ (s.doDriven n = true → t.fio.limited.getLsbD n = true)) ∧
        (s.Yields (.thermalShutdown n) fun t => settled t ∧ same t ∧ t.fio.shutdown.getLsbD n = true ∧ (t.rd F.FIO_DO_STATE_DRIVEN).testBit n = false) ∧
        exec (.offStateFault n) s = .next s) ∧
      (driven = false → exec (.doCurrentLimit n) s = .next s ∧ exec (.thermalShutdown n) s = .next s ∧
        (s.nowNs < s.fio.offAt[n] + 2000000 → exec (.offStateFault n) s = .next s) ∧
        (s.fio.offAt[n] + 2000000 ≤ s.nowNs → s.doDriven n = false → s.Yields (.offStateFault n) fun t => settled t ∧ same t ∧ t.fio.high.getLsbD n = true)) ∧
      (s.Yields (.thermalRestart n) fun t => settled t ∧ same t ∧ t.fio.shutdown.getLsbD n = false ∧
        ∀ k : Fin 16, k ≠ n → t.fio.shutdown.getLsbD k = s.fio.shutdown.getLsbD k) ∧
      (s.Yields (.doFaultEnd n) fun t => settled t ∧ same t ∧ t.fio.limited.getLsbD n = false ∧ t.fio.high.getLsbD n = false) ∧
      (∀ v1 v2 : BitVec 16, s.Yields (.vfldMeasure v1 v2) fun t => t.rd F.FIO_FLD_V_VFLD1 = v1.toNat ∧ t.rd F.FIO_FLD_V_VFLD2 = v2.toNat ∧
        t.fio = s.fio ∧ s.Delivers t ∧ s.Within t .fio) ∧
      (∀ mv : BitVec 16,
        let low := s.bit (statFld .fio (10 + g))
        ((low = true ∧ mv.toNat < 17000) ∨ (low = false ∧ 16500 ≤ mv.toNat) → exec (.uvChg g mv) s = .next s) ∧
        ((low = true ∧ 17000 ≤ mv.toNat) ∨ (low = false ∧ mv.toNat < 16500) → s.Yields (.uvChg g mv) fun t => same t ∧ s.Delivers t ∧
          t.bit (statFld .fio (10 + g)) = !low ∧ t.Caused .fio 6 ∧ (∀ k : Fin 16, k.val / 8 = g.val → low = false → (t.rd F.FIO_DO_STATE_DRIVEN).testBit k = false) ∧
          (g = 0 → if low = true then t.fio.uvOkAt = some s.nowNs else t.fio.sampling = false ∧ t.fio.uvOkAt = none))) ∧
      (∀ raw : BitVec 24, ∀ t0, s.fio.uvOkAt = some t0 →
        (s.nowNs < t0 + 10000000 → exec (.diRestart raw) s = .next s) ∧
        (t0 + 10000000 ≤ s.nowNs → s.Yields (.diRestart raw) fun t => t.rd F.FIO_DI_STATE_STATE = raw.toNat ∧ t.rd F.FIO_DI_RAW_RAW = raw.toNat ∧
          t.fio = { s.fio with sampling := true, uvOkAt := none, runFrom := Vector.replicate 24 (10 * s.sampleNo + 10) } ∧ s.Delivers t ∧ s.Within t .fio)) ∧
      (s.runs .fio = true → s.unreachable .fio = false → s.fio.stopped = false → s.fio.sampling = true → s.bit (F.BLK_CTRL_FREEZE .fio) = false →
        s.shadows = [] → ∀ start,
        let falling := (s.rd F.FIO_DI_STATE_STATE).testBit d
        let picks (e : Nat) : Bool := e == 3 || e == (if falling = true then 2 else 1)
        let tb := s.rd (F.FIO_DI_CFGn_TB d)
        let stamp := tbNs (s.tbAt tb (start * unitsPerNs)) % 2 ^ 32
        let fio : Fio := { s.fio with
          runFrom := s.fio.runFrom.set d (10 * s.sampleNo + 10)
          countedIn := if picks (s.rd (F.FIO_DI_CFGn_CNT_EDGE d)) = true then s.fio.countedIn.set d (some s.sampleNo) else s.fio.countedIn }
        (s.nowNs < start + 1000 * max 1 (s.rd (F.FIO_DI_CFGn_DEB d)) ∨ start < s.fio.runFrom[d] → exec (.diEdge d start) s = .next s) ∧
        (s.fio.runFrom[d] ≤ start → start + 1000 * max 1 (s.rd (F.FIO_DI_CFGn_DEB d)) ≤ s.nowNs → s.Yields (.diEdge d start) fun t => s.Delivers t ∧
          s.Within t .fio ∧
          (∀ k : Fin 24, (t.rd F.FIO_DI_STATE_STATE).testBit k = (if k = d then !falling else (s.rd F.FIO_DI_STATE_STATE).testBit k)) ∧
          (t.regGet (R.FIO_DI_CNTn d)).toNat = (if picks (s.rd (F.FIO_DI_CFGn_CNT_EDGE d)) = true then ((s.regGet (R.FIO_DI_CNTn d)).toNat + 1) % 2 ^ 32
            else (s.regGet (R.FIO_DI_CNTn d)).toNat) ∧
          (if picks (s.rd (F.FIO_DI_CFGn_STAMP d)) = false then t.fio = fio
           else if s.fio.queue.length < 256 then t.fio.queue = insEdge ⟨start, d, falling, tb, stamp⟩ s.fio.queue ∧
             t.rd F.FIO_EDGE_CNT_COUNT = s.fio.queue.length + 1 ∧ (s.fio.queue = [] → t.Caused .fio 2)
           else t.fio = fio ∧ t.Caused .fio 3 ∧ t.rd F.FIO_EDGE_CNT_OVF = satInc 0xFFFF (s.rd F.FIO_EDGE_CNT_OVF))))) ∧
    (∀ v : Word, s.MayWrite m .fio R.FIO_DO_INHIBIT → s.Yields (.doInhibit m v) fun t => settled t ∧ t.rd F.FIO_DO_STATE_CMD = s.rd F.FIO_DO_STATE_CMD ∧
      (∀ k : Fin 16, (t.rd F.FIO_DO_INHIBIT_INH).testBit k = (v.getLsbD k && decide (¬refused k v))) ∧
      ∀ k : Fin 16, refused k v → (∀ j : Fin 16, j < k → ¬refused j v) → t.Erred .fio 0x80 k) ∧
    (∀ v : Word, s.MayWrite m .fio R.FIO_DO_DIAG → s.Yields (.doDiag m v) fun t => settled t ∧ t.rd F.FIO_DO_DIAG_DIAG = v.toNat % 2 ^ 16 ∧
      t.rd F.FIO_DO_STATE_CMD = s.rd F.FIO_DO_STATE_CMD ∧ t.rd F.FIO_DO_INHIBIT_INH = s.rd F.FIO_DO_INHIBIT_INH) ∧
    (s.Answers .fio →
      (s.fio.queue = [] → exec (.edgePop m) s = .next (s.reply 0)) ∧
      ∀ e l, s.fio.queue = e :: l → s.Yields (.edgePop m) fun t => t.fio = { s.fio with queue := l } ∧ s.Spares t ∧ s.Within t .fio ∧
        t.rd F.FIO_EDGE_CNT_COUNT = l.length % 512 ∧ (t.regGet R.FIO_EDGE_NS).toNat = e.stamp % 2 ^ 32 ∧
        t.resp = { data := BitVec.ofNat 32 (e.di + 32 * b2n e.falling + 64 * e.tb + 2 ^ 31), err := false })

/-- A request copies the buffer's record and makes it PENDING, or is refused; an attempt puts the lowest number or lowest identifier on
the bus; a valid frame ends DONE, an abort ends ABORTED; errors move LEC and the counters, STATE follows them, bus-off ends every
pending buffer and recovery clears the counters; a due mapped frame is requested through buffer 2. (R356, R357, R358, R361, R362, R365,
R367) -/
def Obligations.CanTransmission : Prop :=
  ∀ (m : Master) (s : State) (p : Fin 4) (b : Fin 3),
    let blk := Blk.can p
    let port := s.canPort p
    let others (t : State) : Prop := s.Spares t ∧ ∀ q, q ≠ p → t.canPort q = s.canPort q
    let pending (k : Nat) : Prop := s.txState p k = 1
    (s.MayWrite m blk (R.CAN_TX_CMD p) →
      let x := s.frameAt (blk.base + 0x200 + 0x50 * b)
      let bad := s.bit (F.CAN_CFG_LISTEN p) = true ∨ (canFdf x.idw = true ∧ (canRtr x.idw = true ∨ s.bit (F.CAN_CFG_FD_EN p) = false))
      (pending b → exec (.txReq m p b) s = .next (s.reply 0)) ∧
      (¬pending b → ((b = 2 ∧ s.bit (F.CAN_CFG_MAP_EN p) = true) ∨ bad → s.Yields (.txReq m p b) fun t => others t ∧ t.can = s.can ∧
          t.txState p b = s.txState p b ∧ t.Erred blk 0x82 b) ∧
        ((b = 2 → s.bit (F.CAN_CFG_MAP_EN p) = false) → ¬bad → s.Yields (.txReq m p b) fun t => others t ∧ s.Within t blk ∧ t.txState p b = 1 ∧
          t.canPort p = { port with bufs := port.bufs.set b x } ∧ ∀ c : Fin 3, c ≠ b → t.txState p c = s.txState p c)) ∧
      (¬pending b → exec (.txAbort m p b) s = .next (s.reply 0)) ∧
      (pending b → port.onBus = some b.val → s.Yields (.txAbort m p b) fun t => others t ∧ t.regs = s.regs ∧
        t.canPort p = { port with aborts := setMark port.aborts b true }) ∧
      (pending b → port.onBus ≠ some b.val → (b = 2 → port.mapDue = []) → s.isHalted blk = false → s.Yields (.txAbort m p b) fun t => others t ∧
        t.canPort p = { port with mapCur := if b = 2 then none else port.mapCur } ∧ t.txState p b = 3 ∧ t.Caused blk 5 ∧ ∀ c : Fin 3, c ≠ b →
          t.txState p c = s.txState p c)) ∧
    (s.Live blk → s.runs blk = true → s.canState p ≠ 2 → port.onBus = none → s.bit (F.CAN_CFG_LISTEN p) = false → s.bit (F.BLK_CTRL_FREEZE blk) = false →
      s.shadows = [] →
      ((∀ c : Fin 3, ¬pending c) → exec (.txAttempt p) s = .next s) ∧
      ((∃ c : Fin 3, pending c) → s.Yields (.txAttempt p) fun t => others t ∧ t.regs = s.regs ∧ ∃ c : Fin 3, pending c ∧
        t.canPort p = { port with onBus := some c.val } ∧
        ∀ e : Fin 3, pending e → if s.bit (F.CAN_CFG_TX_ORDER p) = true then c ≤ e else arbKey (port.bufs[c]).idw ≤ arbKey (port.bufs[e]).idw)) ∧
    (s.Live blk →
      (∀ tdcv : BitVec 7, (port.onBus = none → exec (.txFrameEnd p true tdcv) s = .next s) ∧
        (port.onBus = some b.val → (b = 2 → port.mapDue = []) →
          (s.Yields (.txFrameEnd p true tdcv) fun t => others t ∧ s.Within t blk ∧ t.txState p b = 2 ∧ t.Caused blk 4 ∧
            t.rd (F.CAN_ERR_TEC p) = s.rd (F.CAN_ERR_TEC p) - 1 ∧
            t.canPort p = { port with onBus := none, aborts := 0, mapCur := if b = 2 then none else port.mapCur } ∧
              t.canState p = (if 128 < s.rd (F.CAN_ERR_TEC p) ∨ 127 < s.rd (F.CAN_ERR_REC p) then 1 else 0)) ∧
          (let ends := port.aborts.getLsbD b = true ∨ s.bit (F.CAN_CFG_ONE_SHOT p) = true
          s.Yields (.txFrameEnd p false tdcv) fun t => others t ∧ s.Within t blk ∧ t.txState p b = (if ends then 3 else s.txState p b) ∧
            t.canPort p = { port with onBus := none, aborts := 0, mapCur := if b = 2 ∧ ends then none else port.mapCur }))) ∧
      (s.en blk = true → s.canState p ≠ 2 → ∀ (lec : Fin 7) (kind : CanErrKind),
        let add : Nat := match kind with | .rx1 => 1 | .rx8 => 8 | _ => 0
        let tec := s.rd (F.CAN_ERR_TEC p)
        let rec' := min 255 (s.rd (F.CAN_ERR_REC p) + add)
        (s.bit (F.CAN_CFG_LISTEN p) = true → s.Yields (.canBusError p lec kind) fun t => t.rd (F.CAN_ERR_LEC p) = lec.val ∧ t.rd (F.CAN_ERR_TEC p) = tec ∧
          t.rd (F.CAN_ERR_REC p) = s.rd (F.CAN_ERR_REC p) ∧ t.can = s.can ∧ others t) ∧
        (s.bit (F.CAN_CFG_LISTEN p) = false →
          (kind = .none → s.Yields (.canBusError p lec kind) fun t => t.rd (F.CAN_ERR_LEC p) = lec.val ∧ t.rd (F.CAN_ERR_TEC p) = tec ∧
            t.rd (F.CAN_ERR_REC p) = s.rd (F.CAN_ERR_REC p) ∧ t.canState p = s.canState p ∧ t.can = s.can ∧ others t) ∧
          (add ≠ 0 → s.Yields (.canBusError p lec kind) fun t => others t ∧ t.rd (F.CAN_ERR_LEC p) = lec.val ∧ t.rd (F.CAN_ERR_REC p) = rec' ∧
            t.rd (F.CAN_ERR_TEC p) = tec ∧
            t.canState p = if 127 < tec ∨ 127 < rec' then 1 else 0) ∧
          (kind = .tx8 → tec + 8 ≤ 255 → s.Yields (.canBusError p lec kind) fun t => others t ∧ t.rd (F.CAN_ERR_TEC p) = tec + 8 ∧
            t.canState p = if 127 < tec + 8 ∨ 127 < s.rd (F.CAN_ERR_REC p) then 1 else 0) ∧
          (kind = .tx8 → 255 < tec + 8 → s.Yields (.canBusError p lec kind) fun t => others t ∧ t.canState p = 2 ∧ t.Caused blk 6 ∧ (t.canPort p).onBus = none ∧
            ∀ c : Fin 3, t.txState p c = if s.txState p c = 1 then 3 else s.txState p c))) ∧
      (s.en blk = true → s.canState p = 2 →
        let may := s.bit (F.CAN_CFG_AUTO_RECOV p) = true ∨ port.recov = true
        (¬may → exec (.busOffRecovery p) s = .next s) ∧
        (may → s.Yields (.busOffRecovery p) fun t => others t ∧ s.Within t blk ∧ t.canState p = 0 ∧ t.rd (F.CAN_ERR_TEC p) = 0 ∧ t.rd (F.CAN_ERR_REC p) = 0 ∧
          t.canPort p = { port with recov := false } ∧ t.Caused blk 6)) ∧
      (∀ (e : Fin 64) (x : CanMapEnt), port.map[e.val]? = some x → s.runs blk = true → s.suppressed = false → s.bit (F.CAN_CFG_MAP_EN p) = true → entUsed x = true →
        entTx x = true → x.time ≠ 0 → (∀ y ∈ port.map.take e, y.frame ≠ x.frame) → (∀ k : Fin 64, k < e → s.mapTxDue p k = none) →
        (s.nowMs / x.time = x.due → exec (.mapTxPeriod p e) s = .next s) ∧
        (s.nowMs / x.time ≠ x.due → s.txState p 2 ≠ 1 → port.mapDue = [] → port.mapCur ≠ some e.val → s.bit (F.CAN_CFG_LISTEN p) = false →
          x.flags.testBit 0 = false → s.Yields (.mapTxPeriod p e) fun t => others t ∧ s.Within t blk ∧ t.txState p 2 = 1 ∧ (t.canPort p).mapCur = some e.val ∧
            ((t.canPort p).bufs[(2 : Fin 3)]).idw = BitVec.ofNat 32 (x.frame % 2 ^ 30) ∧
            (t.canPort p).map[e.val]? = some { x with due := s.nowMs / x.time })))

/-- A valid frame that no map entry takes is written at WR with its control word and start-of-frame stamp, or counted when 64 are held;
REC falls by one, or to a value from 119 to 127; an FD frame while FD_EN is 0 is a form error; a mapped frame leaves the receive buffer
alone; RX_ACK frees entries; a signal without a frame for TIME turns stale. How REC falls is the model's choice from the family (log
entry 50). (R359, R360, R361, R362, R364) -/
def Obligations.CanReception : Prop :=
  ∀ (m : Master) (s : State) (p : Fin 4),
    let blk := Blk.can p
    let held := s.rd (F.CAN_RX_IDX_HELD p)
    let wr := s.rd (F.CAN_RX_IDX_WR p)
    let others (t : State) : Prop := s.Delivers t ∧ (∀ q, q ≠ p → t.canPort q = s.canPort q) ∧ t.rd (F.CAN_RX_IDX_RD p) = s.rd (F.CAN_RX_IDX_RD p)
    (s.Live blk →
      (∀ (f : CanFrame) (age : Nat), s.en blk = true → s.canState p ≠ 2 → canFdf f.idw = false ∨ s.bit (F.CAN_CFG_FD_EN p) = true →
        let n := if canRtr f.idw = true ∧ canFdf f.idw = false then 0 else dlcBytes (canFdf f.idw) f.dlc.toNat
        let a := blk.base + 0x1000 + 0x50 * wr
        let tb := s.rd (F.CAN_CFG_TB p)
        (s.mapHits p f.idw = [] →
          (held < 64 → s.Yields (.canRxFrame p f age) fun t => others t ∧ s.Spares t ∧ t.rd (F.CAN_RX_IDX_HELD p) = held + 1 ∧
            t.rd (F.CAN_RX_IDX_WR p) = (wr + 1) % 64 ∧
            (held = 0 → t.Caused blk 2) ∧ t.regGet a = f.idw ∧
            (t.regGet (a + 4)).toNat = f.dlc.toNat + 16 * b2n f.brs + 32 * b2n f.esi + 64 * tb + 256 * n ∧
            (t.regGet (a + 8)).toNat = tbNs (s.tbAt tb (s.tb2 - age * unitsPerNs)) % 2 ^ 32 ∧
            (n ≤ f.data.length → ∀ k, 4 * k + 4 ≤ n → (t.regGet (a + 0x10 + 4 * k)).toNat = leAt f.data (4 * k) 4) ∧
            (if s.bit (F.CAN_CFG_LISTEN p) = true then t.rd (F.CAN_ERR_REC p) = s.rd (F.CAN_ERR_REC p)
             else if s.rd (F.CAN_ERR_REC p) ≤ 127 then t.rd (F.CAN_ERR_REC p) = s.rd (F.CAN_ERR_REC p) - 1
             else 119 ≤ t.rd (F.CAN_ERR_REC p) ∧ t.rd (F.CAN_ERR_REC p) ≤ 127)) ∧
          (64 ≤ held → s.Yields (.canRxFrame p f age) fun t => others t ∧ s.Spares t ∧ t.Caused blk 3 ∧ t.rd (F.CAN_RX_IDX_HELD p) = held ∧
            t.rd (F.CAN_RX_IDX_WR p) = wr ∧
            t.rd (F.CAN_RX_OVF_OVF p) = satInc 0xFFFF (s.rd (F.CAN_RX_OVF_OVF p)))) ∧
        (s.mapHits p f.idw ≠ [] → s.Yields (.canRxFrame p f age) fun t => others t ∧ t.rd (F.CAN_RX_IDX_HELD p) = held ∧ t.rd (F.CAN_RX_IDX_WR p) = wr)) ∧
      (∀ (f : CanFrame) (age : Nat), s.en blk = true → s.canState p ≠ 2 → canFdf f.idw = true → s.bit (F.CAN_CFG_FD_EN p) = false →
        s.Yields (.canRxFrame p f age) fun t => s.Spares t ∧ t.can = s.can ∧ t.rd (F.CAN_RX_IDX_HELD p) = held ∧ t.rd (F.CAN_ERR_LEC p) = 2 ∧
          t.rd (F.CAN_ERR_REC p) = (if s.bit (F.CAN_CFG_LISTEN p) = true then s.rd (F.CAN_ERR_REC p) else min 255 (s.rd (F.CAN_ERR_REC p) + 1))) ∧
      (∀ (e : Fin 64) (x : CanMapEnt), (s.canPort p).map[e.val]? = some x → s.runs blk = true → entUsed x = true → entTx x = false → x.time ≠ 0 → x.stale = false →
        (s.nowNs < x.lastRx + 1000000 * x.time → exec (.mapStale p e) s = .next s) ∧
        (x.lastRx + 1000000 * x.time ≤ s.nowNs → s.Yields (.mapStale p e) fun t => others t ∧ t.Caused blk 7 ∧
          (t.canPort p).map[e.val]? = some { x with stale := true }))) ∧
    (s.MayWrite m blk (R.CAN_RX_ACK p) → ∀ k : BitVec 7,
      (k = 0 ∨ held < k.toNat → s.Yields (.rxAck m p k) fun t => t.Erred blk 0x81 ((R.CAN_RX_ACK p - blk.base) / 4) ∧ s.Spares t ∧ t.can = s.can ∧
        t.regGet (R.CAN_RX_IDX p) = s.regGet (R.CAN_RX_IDX p)) ∧
      (k ≠ 0 → k.toNat ≤ held → s.Yields (.rxAck m p k) fun t => s.Spares t ∧ s.Within t blk ∧ t.can = s.can ∧ t.rd (F.CAN_RX_IDX_HELD p) = held - k.toNat ∧
        t.rd (F.CAN_RX_IDX_RD p) = (s.rd (F.CAN_RX_IDX_RD p) + k.toNat) % 64 ∧ t.rd (F.CAN_RX_IDX_WR p) = wr))

/-- JOIN goes to JOINING or is refused with its reason; LEAVE, FAULT and CLR_FAULT act in the states the rules name and record 0x82 in
others; the active marks a cut, the joining standby loads the copy and enters STEP within the lag limit, or fails by time-out or
overflow; lag, a missing frame or a dead lane make a standby leave step; a frame is asked for once and sent again. (R371, R374, R376,
R377, R378, R379) -/
def Obligations.TandemMembership : Prop :=
  ∀ (m : Master) (s : State),
    let st := s.tdmState
    let left (i : Instr) (r : Nat) : Prop := s.Yields i fun t => t.tdmState = 4 ∧ t.rd F.TDM_STATE_REASON = r ∧ t.Caused .tdm 3 ∧ s.Spares t ∧
      s.Within t .tdm ∧ t.tdm = s.tdm
    (s.MayWrite m .tdm R.TDM_CMD → s.isHalted .tdm = false →
      let refused (i : Instr) : Prop := s.Yields i fun t => t.tdmState = st ∧ t.Erred .tdm 0x82 ((R.TDM_CMD - Blk.tdm.base) / 4) ∧ t.tdm = s.tdm ∧ s.Spares t
      (∀ (ah gh : BitVec 256) (cs ls : Word),
        let r := if st ≠ 4 ∨ s.rd F.TDM_STATE_PCODE ≠ 1 then 0x14 else if s.bit F.TDM_STATE_LINK_T = false then 0x13
          else if s.hashAt (R.CAD_AHASHk 0) ≠ ah.toNat then 0x10 else if s.hashAt (R.LPE_GRD_HASHk 0) ≠ gh.toNat then 0x11
          else if s.regGet (R.BLK_CFGSUM .cad) ≠ cs ∨ s.regGet (R.BLK_CFGSUM .lpe) ≠ ls then 0x12 else if s.tdm.fails ≠ 0 then 0x16 else 0
        s.Yields (.join m ah gh cs ls) fun t => s.Spares t ∧ s.Within t .tdm ∧
          (r ≠ 0 → t.tdmState = st ∧ t.rd F.TDM_STATE_REASON = r ∧ t.Caused .tdm 3 ∧ t.Erred .tdm 0x81 r ∧ t.tdm = s.tdm) ∧
          (r = 0 → t.tdmState = 2 ∧ t.tdm = { s.tdm with
            joinAt := s.nowNs, cutSeen := false, loaded := false, replay := [], missing := [], replayed := true
            lagNs := none, stream := s.tdm.stream ++ [⟨s.rd F.TDM_CFG_ETYPE, s.tdm.seq, .joinReq⟩], seq := (s.tdm.seq + 1) % 2 ^ 32 })) ∧
      (s.following = true → left (.leave m) 1) ∧ (s.following = false → refused (.leave m)) ∧
      (s.tandem = true → s.Yields (.tdmFault m) fun t => t.tdmState = 5 ∧ t.bit F.SYS_ROLE_ACTIVE = false ∧ t.mem = s.mem ∧ t.tdm = s.tdm) ∧
      (s.tandem = false → refused (.tdmFault m)) ∧
      (st = 5 → s.Yields (.clrFault m) fun t => t.tdmState = 4 ∧ t.tdm = s.tdm ∧ s.Spares t ∧ s.Within t .tdm) ∧ (st ≠ 5 → refused (.clrFault m))) ∧
    (s.Live .tdm → s.tdmRuns = true →
      (let w := s.putCopy
      let e := w.1.rd F.TDM_CFG_ETYPE
      let q := w.1.tdm.seq
      (st = 1 → s.allBetween = true → s.noneDue s.joinNs = true → ∀ c, s.Yields (.joinCut c) fun t =>
        t.mem = w.1.mem ∧ t.pending = s.pending ∧
        (w.2 = true → t.regs = w.1.regs ∧ t.tdm = { w.1.tdm with
          seq := ((q + 1) % 2 ^ 32 + 1) % 2 ^ 32, stream := w.1.tdm.stream ++ [⟨e, q, .entry .cut⟩] ++ [⟨e, (q + 1) % 2 ^ 32, .copy s.joinCopy⟩] }) ∧
        (w.2 = false → t.tdm = w.1.tdm ∧ t.Erred .tdm 0x80 0)) ∧
      (st = 1 → s.allBetween = false ∨ s.noneDue s.joinNs = false → ∀ c, exec (.joinCut c) s = .next s)) ∧
      (st ≠ 1 → st ≠ 2 ∨ s.tdm.loaded = true → ∀ c, exec (.joinCut c) s = .next s) ∧
      (st = 2 → s.tdm.cutSeen = false → ∀ x, exec (.joinCut (some x)) s = .next s) ∧
      (st = 2 → s.tdm.loaded = false → exec (.joinCut none) s = .next { s with tdm := { s.tdm with cutSeen := true, replay := [] } }) ∧
      (∀ x : JoinCopy, st = 2 → s.tdm.loaded = false → s.tdm.cutSeen = true →
        s.Yields (.joinCut (some x)) fun t => t.tdm = { s.tdm with loaded := true, views := x.halves } ∧
        t.mem = memPutList s.mem cadMemBase x.mem ∧ t.cad.hold = x.hold ∧ t.cad.poisoned = x.poisoned ∧ t.cad.applied = x.forces.map Prod.snd ∧ t.tdmState = 2) ∧
      (∀ l, st = 2 → s.tdm.loaded = true → s.tdm.replay = [] → s.tdm.lagNs = some l → 2 * l ≤ 1000 * s.ringPeriod →
        s.Yields .joinCaughtUp fun t => t.tdmState = 3 ∧ t.Caused .tdm 3 ∧ t.tdm = s.tdm ∧ s.Spares t ∧ s.Within t .tdm) ∧
      (st ≠ 2 ∨ s.tdm.loaded = false ∨ s.tdm.replay ≠ [] ∨ (∀ l, s.tdm.lagNs = some l → 1000 * s.ringPeriod < 2 * l) → exec .joinCaughtUp s = .next s) ∧
      (st ≠ 2 → ∀ o, exec (.joinTimeout o) s = .next s) ∧
      (st = 2 → (Config.replayRoom < s.tdm.replay.length → left (.joinTimeout true) 0x17) ∧
        (s.tdm.replay.length ≤ Config.replayRoom → exec (.joinTimeout true) s = .next s) ∧
        (s.tdm.joinAt + 1000000 * max 1 (s.rd F.TDM_JOIN_TMO_MS) ≤ s.nowNs → left (.joinTimeout false) 0x15) ∧
        (s.nowNs < s.tdm.joinAt + 1000000 * max 1 (s.rd F.TDM_JOIN_TMO_MS) → exec (.joinTimeout false) s = .next s)) ∧
      (∀ seq : Word,
        let kept := (s.tdm.stream ++ s.tdm.hist.flatten).find? fun f => f.seq == seq.toNat
        (∀ f, st = 1 → kept = some f → exec (.tdmFrameResend seq) s = .next { s with tdm := { s.tdm with stream := s.tdm.stream ++ [f] } }) ∧
        (st = 1 → kept = none → exec (.tdmFrameResend seq) s = .next s) ∧
        (s.following = true → (∀ x ∈ s.tdm.missing, x.1 ≠ seq.toNat) → exec (.tdmFrameResend seq) s = .next { s with tdm := { s.tdm with
          missing := (seq.toNat, s.tdm.pass + if s.tdm.replayed then 1 else 0) :: s.tdm.missing,
          stream := s.tdm.stream ++ [⟨s.rd F.TDM_CFG_ETYPE, s.tdm.seq, .resend seq.toNat⟩], seq := (s.tdm.seq + 1) % 2 ^ 32 } }) ∧
        (∀ x ∈ s.tdm.missing, s.following = true → x.1 = seq.toNat → exec (.tdmFrameResend seq) s = .next s)) ∧
      (st ≠ 3 → exec .stepLag s = .next s) ∧
      (st = 3 →
        let past (pass : Nat) : Prop := 2 * s.tdm.instantAt + 1000 * s.ringPeriod * (2 * (pass - s.tdm.pass) + 1) < 2 * s.nowNs
        let lost := ∃ x ∈ s.tdm.missing, past x.2
        let late := (s.tdm.replayed = false ∧ past s.tdm.pass) ∨ ∃ l, s.tdm.lagNs = some l ∧ 1000 * s.ringPeriod < 2 * l
        (lost → left .stepLag 3) ∧ (¬lost → late → left .stepLag 2) ∧ (¬lost → ¬late → exec .stepLag s = .next s)) ∧
      (s.following = true → ∀ t0, s.tdm.linkDownAt = some t0 → s.bit F.TDM_STATE_LINK_T = false →
        (t0 + 100000 ≤ s.nowNs → left .laneTDown 3) ∧ (s.nowNs < t0 + 100000 → exec .laneTDown s = .next s)))

/-- Only a member in JOINING or STEP takes entries, a joining one waiting with those after the cut; an instant gives the period and its
offset, differing CFGSUMs end step; deliveries, starts, samples, guard passes, forces, solver words and recorded commands take effect as
the active's did; a switch or change it cannot follow ends step with reason 7; equal digests count as matches, others open a dispute.
(R372, R373, R375, R376, R378) -/
def Obligations.TandemStream : Prop :=
  ∀ (s : State), s.Live .tdm → s.tdmRuns = true →
    let left (i : Instr) (r : Nat) : Prop := s.Yields i fun t => t.tdmState = 4 ∧ t.rd F.TDM_STATE_REASON = r ∧ t.Caused .tdm 3 ∧ t.mem = s.mem
    (s.following = false → ∀ (pass : BitVec 48) (ring : Nat) (w v : Word) (ofs : Int) (slot : BitVec 16) (n : Fin 8) (k : Fin 64) (vals : List (Word × Word))
        (sw : Bool) (h : BitVec 256) (sig : BitVec 23) (q : BitVec 3) (st : Fin 3) (tpl : BitVec 8) (data : List Byte) (reg : BitVec 40),
      ∀ i ∈ [Instr.instant pass ring w v ofs, .deliv slot w v, .startEntry n ring, .lsample k vals, .gpass ring sw h, .forceEntry sig w q st,
        .solverEntry tpl w sw data, .cmdEntry reg w, .changeEntry h], exec i s = .next s) ∧
    (s.following = true → s.tdmState = 2 → s.tdm.loaded = false ∨ s.tdm.replay ≠ [] →
      ∀ (pass : BitVec 48) (ring : Nat) (w v : Word) (ofs : Int) (slot : BitVec 16) (n : Fin 8) (k : Fin 64) (vals : List (Word × Word))
        (sw : Bool) (h : BitVec 256) (sig : BitVec 23) (q : BitVec 3) (st : Fin 3) (tpl : BitVec 8) (data : List Byte) (reg : BitVec 40),
      ∀ x ∈ [(Instr.instant pass ring w v ofs, TdmIn.instant pass ring w v ofs), (.deliv slot w v, .deliv slot w v), (.startEntry n ring, .start n ring),
        (.lsample k vals, .lsample k vals), (.gpass ring sw h, .gpass ring sw h), (.forceEntry sig w q st, .force sig w q st),
        (.solverEntry tpl w sw data, .solver tpl w sw data), (.cmdEntry reg w, .cmd reg w), (.changeEntry h, .change h)],
      (s.tdm.cutSeen = true → s.tdm.replay.length ≤ Config.replayRoom →
        exec x.1 s = .next { s with tdm := { s.tdm with replay := s.tdm.replay ++ [x.2] } }) ∧
      (s.tdm.cutSeen = false ∨ Config.replayRoom < s.tdm.replay.length → exec x.1 s = .next s)) ∧
    (s.following = true → s.tdmState = 3 ∨ (s.tdm.loaded = true ∧ s.tdm.replay = []) →
      (∀ (pass : BitVec 48) (ring : Nat) (cs ls : Word) (ofs : Int), s.Yields (.instant pass ring cs ls ofs) fun t =>
        t.tdm = { s.tdm with
          pass := pass.toNat, instantAt := ((ring : Int) + ofs).toNat, ring := ring, ofs := ofs, replayed := false, stream := []
          hist := s.tdm.stream :: s.tdm.hist.take 1, periodEnd := s.nowNs + 1000 * s.ringPeriod } ∧ s.Spares t ∧ s.Within t .tdm ∧
          t.spk = s.spk ∧ t.regGet R.TDM_OFS_LO = BitVec.ofInt 32 ofs ∧
          (if s.regGet (R.BLK_CFGSUM .cad) = cs ∧ s.regGet (R.BLK_CFGSUM .lpe) = ls then t.tdmState = s.tdmState
           else t.tdmState = 4 ∧ t.rd F.TDM_STATE_REASON = 4)) ∧
      (∀ (slot : BitVec 16) (v w : Word), s.Yields (.deliv slot v w) fun t => t.regs = s.regs ∧ t.pending = s.pending ∧ t.cad = s.cad ∧
        t.rdLe (liveAddr slot.toNat) 4 = v.toNat ∧ t.rdLe (liveAddr slot.toNat + 4) 4 = w.toNat ∧
        ∀ a, a < liveAddr slot.toNat ∨ liveAddr slot.toNat + 8 ≤ a → t.byte a = s.byte a) ∧
      (∀ (n : Fin 8) (time : Nat), s.taskState n = 1 → s.activeBank.isSome = true → s.Yields (.startEntry n time) fun t => t.taskState n = 2 ∧
        (t.task n).start = time ∧ ∀ k, k ≠ n → t.taskState k = s.taskState k) ∧
      (∀ (n : Fin 64) (vals : List (Word × Word)), s.lslotState n = 1 → (s.lslot n).cmd = 0 → s.Yields (.lsample n vals) fun t => t.lslotState n = 1 ∧
        (t.lslot n).posts = [] ∧ s.Spares t ∧ ∃ o, t.outVal (s.lslot n).entry.outSig = some o ∧ o.writer = 16 + n.val ∧ t.regGet (R.LPE_SLOTn_OUT n) = o.value) ∧
      (∀ (time : Nat) (h : BitVec 256), s.Yields (.gpass time false h) fun t => t.lpe.lastPass = time ∧ s.Spares t ∧ t.tdm.replayed = true ∧
        t.guardBank = s.guardBank ∧ t.tdm.digests = (s.tdm.pass, t.outDigest) :: s.tdm.digests.take 3 ∧
        t.tdm.stream = s.tdm.stream ++ [⟨s.rd F.TDM_CFG_ETYPE, s.tdm.seq, .ack s.tdm.pass t.outDigest⟩] ∧
        (s.tdm.replayed = false → t.tdm.lagNs = some (s.nowNs - s.tdm.instantAt) ∧
          t.rd F.TDM_LAG_LAG = min 0xFFFF ((s.nowNs - s.tdm.instantAt) / 1000))) ∧
      (∀ (time : Nat) (h : BitVec 256), s.bit F.LPE_GRD_STAT_PEND = false → left (.gpass time true h) 7) ∧
      (∀ (sig : BitVec 23) (v : Word) (q : BitVec 3) (st : Fin 3) (i : Nat), s.forceIdx sig.toNat = some i ∨ (s.forceIdx sig.toNat = none ∧ s.freeForce = some i) →
        s.Yields (.forceEntry sig v q st) fun t => t.mem = s.mem ∧ t.regs = s.regs ∧ t.cad.applied = s.cad.applied ∧ (∀ j, j ≠ i → t.forceAt j = s.forceAt j) ∧
          t.forceAt i = (if st = 0 then none else some ⟨sig.toNat, v, q.toNat, decide (st = 2)⟩)) ∧
      (∀ (tpl : BitVec 8) (w : Word) (half : Bool) (data : List Byte), s.Yields (.solverEntry tpl w half data) fun t => t.regs = s.regs ∧ s.Spares t ∧
        t.tdm = { s.tdm with views := (tpl.toNat, w, half, data) :: s.tdm.views.filter fun x => x.1 != tpl.toNat }) ∧
      (∀ v : Word, (s.Yields (.cmdEntry (BitVec.ofNat 40 R.LPE_GRD_CFG) v) fun t => t.bit F.LPE_GRD_CFG_SAFE_ALL = v.getLsbD 31 ∧ s.Spares t ∧ s.Within t .lpe) ∧
        (s.Yields (.cmdEntry (BitVec.ofNat 40 R.CAD_INST_CMD) v) fun t => t.regs = s.regs ∧ t.mem = s.mem ∧
          t.cad = { s.cad with instCmds := s.cad.instCmds ++ [(v.toNat % 2 ^ 16, v.toNat / 2 ^ 16 % 8)] })) ∧
      (∀ h : BitVec 256, s.activeBank = none → left (.changeEntry h) 7) ∧
      (∀ (h : BitVec 256) (a : Nat), s.activeBank = some a → s.bankState (1 - a) = 2 → s.bankHash (1 - a) = h.toNat → (s.pmapOf (1 - a) (s.bankHash a)).isSome →
        s.shadows = [] → s.Yields (.changeEntry h) fun t => t.chgState = 3 ∧ t.cad = { s.cad with held := [] } ∧ t.tdmState = s.tdmState ∧ t.mem = s.mem)) ∧
    (∀ (pass : BitVec 48) (d : BitVec 256),
      let own := s.tdm.digests.find? fun x => x.1 == pass.toNat
      (own = none → exec (.digest pass d) s = .next s) ∧
      (∀ o, own = some o →
        (o.2 = d.toNat → s.Yields (.digest pass d) fun t => t.tdm = s.tdm ∧ s.Spares t ∧ s.Within t .tdm ∧
          t.rd F.TDM_DIG_CNT_MATCH = satInc 0xFFFF (s.rd F.TDM_DIG_CNT_MATCH)) ∧
        (o.2 ≠ d.toNat → s.Yields (.digest pass d) fun t => t.tdm = { s.tdm with dispute := true, condAt := some (s.tdm.condAt.getD s.nowNs) } ∧
          s.Spares t ∧ t.Caused .tdm 4 ∧ t.rd F.TDM_DIG_CNT_DISPUTE = satInc 0xFFFF (s.rd F.TDM_DIG_CNT_DISPUTE))))

/-- High times within 2 us of a code set CODE, GRANT or PCODE, a dead line reads 0 or ABSENT; the witness grants a member that is up and
moves the grant only from one that is down, faulted or yields to one in step; a grant to the partner ends ACTIVE and settles a dispute,
a grant for this member makes it ACTIVE; SOLO takes over without an arbiter; self-tests count and fail, health reports are stored.
(R369, R370, R371, R380, R381, R382, R383, R385, R386, R389) -/
def Obligations.TandemArbitration : Prop :=
  ∀ (s : State) (line : Fin 2) (high : Nat), s.Live .tdm →
    let code := if line = 0 then F.TDM_WIT_STAT_CODE_A else F.TDM_WIT_STAT_CODE_B
    let keeps (t : State) : Prop := s.Spares t ∧ s.Within t .tdm
    let edges := s.tdm.edges.set line s.nowNs
    let dead := s.tdm.edges[line] + (if s.arbitrates = true then 1000 * max 100 (min 10000 (s.rd F.TDM_WIT_CFG_HB_MISS)) else 100000)
    (s.nowNs < dead → exec (.arbDead line) s = .next s) ∧
    (s.arbitrates = true →
      (∀ c, 1 ≤ c → c ≤ 5 → 8 * c - 6 ≤ high → high ≤ 8 * c - 2 → s.Yields (.arbCode line high) fun t => t.rd code = c ∧ keeps t ∧
        t.tdm = { s.tdm with edges := edges }) ∧
      (dead ≤ s.nowNs → s.Yields (.arbDead line) fun t => t.rd code = 0 ∧ keeps t ∧ t.tdm = s.tdm) ∧
      (let g := s.rd F.TDM_WIT_STAT_GRANT
      let a := s.rd F.TDM_WIT_STAT_CODE_A
      let b := s.rd F.TDM_WIT_STAT_CODE_B
      s.Yields .witnessDecision fun t => keeps t ∧ t.tdm = s.tdm ∧ t.rd F.TDM_WIT_STAT_GRANT = witnessDecide g a b ∧
        (t.rd F.TDM_WIT_STAT_GRANT ≠ g → t.rd F.TDM_WIT_STAT_MOVES = satInc 0xFFFF (s.rd F.TDM_WIT_STAT_MOVES)) ∧
        (g = 0 → (a = 0 ∨ a = 5) → (b = 0 ∨ b = 5) → t.rd F.TDM_WIT_STAT_GRANT = 0) ∧ (g = 1 → b ≠ 2 → b ≠ 4 → t.rd F.TDM_WIT_STAT_GRANT = 1) ∧
        (g = 1 → a = 0 ∨ a = 5 → b = 2 → t.rd F.TDM_WIT_STAT_GRANT = 2))) ∧
    (s.arbitrates = false → s.tdmRuns = false → exec (.arbCode line high) s = .next s ∧ exec (.arbDead line) s = .next s) ∧
    (s.arbitrates = true ∨ (s.tdmRuns = true ∧ line = 1) → (∀ c, 1 ≤ c → c ≤ 5 → ¬(8 * c - 6 ≤ high ∧ high ≤ 8 * c - 2)) →
      exec (.arbCode line high) s = .next { s with tdm := { s.tdm with edges := edges } }) ∧
    (s.arbitrates = false → exec .witnessDecision s = .next s) ∧
    (s.arbitrates = false → s.tdmRuns = true →
      (line = 0 → (∀ c, c < 3 → ¬(8 * c + 6 ≤ high ∧ high ≤ 8 * c + 10)) →
        exec (.arbCode line high) s = .next { s with tdm := { s.tdm with edges := edges } }) ∧
      (line = 1 → ∀ c, 1 ≤ c → c ≤ 5 → 8 * c - 6 ≤ high → high ≤ 8 * c - 2 → s.Yields (.arbCode line high) fun t => t.rd F.TDM_STATE_PCODE = c ∧
        (let dispute := s.tdm.dispute && !(decide (s.tdmState = 1) && c != 2 && c != 4)
        t.tdm = { s.tdm with
          edges := edges, deadAt := none, dispute := dispute
          condAt := if c = 4 ∨ c = 5 ∨ dispute = true then some (s.tdm.condAt.getD s.nowNs) else none }) ∧ keeps t) ∧
      (line = 0 → ∀ c, c < 3 → 8 * c + 6 ≤ high → high ≤ 8 * c + 10 → s.Yields (.arbCode line high) fun t => keeps t ∧
        t.grant = (if c = 0 then 1 else if c = 1 then 0 else 2) ∧ (t.grant ≠ s.grant → t.Caused .tdm 5) ∧ t.tdm = { s.tdm with edges := edges, absentAt := none }) ∧
      (line = 0 → dead ≤ s.nowNs → s.Yields (.arbDead line) fun t => t.grant = 3 ∧ t.tdm = { s.tdm with absentAt := some (s.tdm.absentAt.getD s.nowNs) } ∧ keeps t) ∧
      (line = 1 → dead ≤ s.nowNs → s.Yields (.arbDead line) fun t => t.rd F.TDM_STATE_PCODE = 0 ∧ keeps t ∧
        t.tdm = { s.tdm with deadAt := some (s.tdm.deadAt.getD s.nowNs), condAt := some (s.tdm.condAt.getD s.nowNs) })) ∧
    (s.tdmRuns = true →
      (s.grantPartner = false → exec .grantToPartner s = .next s) ∧
      (s.grantPartner = true →
        (s.tdmState = 0 ∨ s.tdmState = 1 → s.Yields .grantToPartner fun t => t.tdmState = 4 ∧ t.bit F.SYS_ROLE_ACTIVE = false ∧ t.Caused .tdm 2 ∧
          t.tdm = { s.tdm with dispute := false } ∧ t.mem = s.mem) ∧
        (s.tdmState = 3 → s.tdm.dispute = true → s.Yields .grantToPartner fun t => t.tdmState = 4 ∧ t.rd F.TDM_STATE_REASON = 6 ∧
          t.tdm = { s.tdm with dispute := false } ∧ s.Spares t) ∧
        (s.tdmState = 5 → s.Yields .grantToPartner fun t => t.tdmState = 5 ∧ t.Caused .tdm 2 ∧ s.Within t .tdm ∧
          t.tdm = { s.tdm with dispute := false } ∧ s.Spares t) ∧
        (s.tdmState = 2 ∨ s.tdmState = 4 ∨ (s.tdmState = 3 ∧ s.tdm.dispute = false) →
          exec .grantToPartner s = .next { s with tdm := { s.tdm with dispute := false } })) ∧
      (let taken (i : Instr) : Prop := s.Yields i fun t => t.tdmState = 1 ∧ t.bit F.SYS_ROLE_ACTIVE = true ∧ t.Caused .tdm 2 ∧ s.Spares t ∧
        t.rd F.TDM_SW_COUNT = satInc 0xFFFF (s.rd F.TDM_SW_COUNT) ∧ t.tdm.stream = [] ∧ t.tdm.dispute = false ∧
        t.tdm.swFrom = some (s.tdm.condAt.getD s.nowNs) ∧
        (s.en .spk = true → s.ringState ≠ 3 → t.ringState = 1 ∧ t.spk.first = false ∧ t.spk.due = none) ∧
        (s.en .spk = false ∨ s.ringState = 3 → t.spk = s.spk ∧ t.ringState = s.ringState)
      (s.granted = true → s.tdmState = 0 ∨ s.tdmState = 3 ∨ s.tdmState = 4 → taken .takeover) ∧
      (s.granted = false ∨ s.tdmState = 1 ∨ s.tdmState = 2 ∨ s.tdmState = 5 → exec .takeover s = .next s) ∧
      (let alone := s.tdmState = 0 ∧ s.rd F.TDM_CFG_MEMBER = 0 ∧ s.grant = 3 ∧ ∃ t0, s.tdm.absentAt = some t0 ∧ t0 + 1000000000 ≤ s.nowNs
      let left := s.tdmState = 3 ∧ s.grant = 3 ∧ s.rd F.TDM_STATE_PCODE = 0 ∧ s.bit F.TDM_STATE_LINK_T = false ∧
        ∃ t0, s.tdm.linkDownAt = some t0 ∧ t0 + 1000000 ≤ s.nowNs
      (s.bit F.TDM_CFG_SOLO = true → alone ∨ left → taken .soloTimeout) ∧
      (s.bit F.TDM_CFG_SOLO = false ∨ (¬alone ∧ ¬left) → exec .soloTimeout s = .next s))) ∧
      (s.nowNs < s.tdm.goldenAt + 60000000000 → ∀ r, exec (.golden r) s = .next s) ∧
      (s.tdm.goldenAt + 60000000000 ≤ s.nowNs →
        (exec (.golden none) s = .next { s with tdm := { s.tdm with goldenAt := s.nowNs } }) ∧
        (s.runs .slv = false ∨ s.unreachable .slv = true → ∀ r, exec (.golden r) s = .next { s with tdm := { s.tdm with goldenAt := s.nowNs } }) ∧
        (s.runs .slv = true → s.unreachable .slv = false →
      (s.Yields (.golden (some true)) fun t => t.regs = s.regs ∧ s.Spares t ∧
        t.tdm = { s.tdm with goldenAt := s.nowNs, goldenRun := s.tdm.goldenRun + 1, goldenFail := s.tdm.goldenFail, fails := setMark s.tdm.fails 1 false }) ∧
      (s.Yields (.golden (some false)) fun t => t.tdm.goldenRun = s.tdm.goldenRun + 1 ∧ t.tdm.goldenFail = s.tdm.goldenFail + 1 ∧
        t.tdm.fails = setMark s.tdm.fails 1 true ∧ t.Caused .tdm 6 ∧ t.mem = s.mem ∧ t.pending = s.pending ∧ (s.following = true → t.tdmState = 4 ∧
          t.rd F.TDM_STATE_REASON = 5)))) ∧
      (∀ errs : BitVec 32, s.Yields (.linkTest errs) fun t => t.tdm.linkErr = errs.toNat ∧ t.mem = s.mem ∧ t.pending = s.pending ∧
        t.tdm.fails = setMark s.tdm.fails 3 (decide (2 < errs.toNat)) ∧ (2 < errs.toNat → t.Caused .tdm 6) ∧ (errs.toNat ≤ 2 → t.regs = s.regs ∧ s.Spares t)) ∧
      (let w := s.dmaWrite 6 (s.tdmBuf + 0xFF0000) s.healthReport
      (s.nowSec = s.tdm.reportSec → exec .healthReport s = .next s) ∧
      (s.nowSec ≠ s.tdm.reportSec → s.Yields .healthReport fun t => t.mem = w.1.mem ∧
        t.tdm.reports = w.1.tdm.reports + 1 ∧ t.tdm.eccC = 0 ∧ t.tdm.eccU = 0 ∧ t.tdm.reportSec = t.nowSec ∧ t.tdm.seq = (w.1.tdm.seq + 1) % 2 ^ 32 ∧
        (w.2 = true → t.regs = w.1.regs ∧
          t.tdm.stream = w.1.tdm.stream ++ [⟨w.1.rd F.TDM_CFG_ETYPE, w.1.tdm.seq, .report s.healthReport⟩]) ∧
        t.tdm = { w.1.tdm with
          reports := t.tdm.reports, eccC := 0, eccU := 0, reportSec := t.tdm.reportSec, seq := t.tdm.seq, stream := t.tdm.stream } ∧
        t.pending = s.pending ∧ (w.2 = false → t.Erred .tdm 0x80 0))) ∧
      (∀ r : Vector Byte 64,
        let w := s.dmaWrite 6 (s.tdmBuf + 0xFF0000 + 0x40) r.toList
        s.Yields (.healthReportRx r) fun t => t.mem = w.1.mem ∧ t.tdm = w.1.tdm ∧ (w.2 = true → t = w.1) ∧ t.pending = s.pending ∧ (w.2 = false →
          t.Erred .tdm 0x80 0)))

/-- A record takes 32 bytes and a good CRC; POST accepts what a master may post, the record taking the next SEQ and its place in the
buffer or replacing the oldest of at most its severity, else it drops; of waiting events the oldest instant's lowest SRC goes first; a
severe record or EVR_FLUSH starts a flush, a commit moves up to 512 records into a tagged page, a failed write keeps them. (R391, R392,
R394, R396, R397, R398, R399, R400, R405) -/
def Obligations.EventRecords : Prop :=
  (∀ code sev src flags time p0 p1 p2 p3 seq : Nat,
    let b := mkRecord code sev src flags time p0 p1 p2 p3 seq
    b.length = 32 ∧ leAt b 0 2 = code % 65536 ∧ leAt b 4 8 = time % 2 ^ 64 ∧ leAt b 28 2 = seq % 65536 ∧ recOk ⟨seq, sev, b⟩ = true) ∧
  ∀ (m : Master) (s : State),
    let keeps (t : State) : Prop := s.Spares t ∧ s.Within t .evr ∧ t.nand = s.nand
    let free := s.runs .evr = true ∧ s.coreOff = false ∧ s.evr.flush = none ∧ s.evr.clear = none
    (∀ (c : Fin 8) (code : BitVec 16) (sev : BitVec 3) (cont : Bool), s.MayWrite m .evr (R.EVR_POSTc_CMD c) →
      let n := code.toNat
      let may := (0x8000 ≤ n ∧ n ≤ 0xDFFF ∧ (m = .mon ∨ sev.toNat ≤ s.rd F.EVR_CFG_HOST_SEV_MAX)) ∨ (m = .mon ∧ 0x100 ≤ n ∧ n ≤ 0xFFF)
      let p (k : Nat) : Nat := (s.regGet (R.EVR_POSTc_Pk c k)).toNat
      let r : LogRec := ⟨s.evr.seq, sev.toNat, mkRecord n sev.toNat (masterSrc m) (s.recStamp.2 + 4 * b2n cont) s.recStamp.1 (p 0) (p 1) (p 2) (p 3) s.evr.seq⟩
      (¬may → s.Yields (.post m c code sev cont) fun t => t.Erred .evr 0x83 c.val ∧ t.evr = s.evr ∧ keeps t) ∧
      (may → (∀ e ∈ s.evq, e.src ≠ masterSrc m) → s.Yields (.post m c code sev cont) fun t => t.evr.seq = (s.evr.seq + 1) % 2 ^ 48 ∧ t.evq = s.evq ∧ keeps t ∧
        (s.evr.buf.length < 4096 → t.evr.buf = s.evr.buf ++ [r] ∧ t.evr.undropped = s.evr.undropped ∧
          (free → s.rd F.EVR_CFG_FLUSH_SEV ≤ sev.toNat ∨ 1023 ≤ s.evr.buf.length → t.evr.flush = some ((s.evr.seq + 1) % 2 ^ 48)) ∧
          (sev.toNat < s.rd F.EVR_CFG_FLUSH_SEV → s.evr.buf.length < 1023 → t.evr.flush = s.evr.flush)) ∧
        (4096 ≤ s.evr.buf.length → ∀ l, replaceOldest sev.toNat s.evr.buf = some l → t.evr.buf = l ++ [r]) ∧
        (4096 ≤ s.evr.buf.length → replaceOldest sev.toNat s.evr.buf = none → t.evr.buf = s.evr.buf ∧
          t.rd (F.EVR_DROPs_COUNT sev.toNat) = satInc 0xFFFF (s.rd (F.EVR_DROPs_COUNT sev.toNat))))) ∧
    (let l := s.evq.filter fun e => !s.coreOff || e.aon.isSome
    (l = [] ∨ s.inSoftRst .evr = true ∨ s.isHalted .evr = true → exec .eventAccept s = .next s) ∧
    ∀ h, l.head? = some h → s.inSoftRst .evr = false → s.isHalted .evr = false →
      ∃ e ∈ l, e.at_ = h.at_ ∧ (∀ x ∈ l, x.at_ = h.at_ → e.src ≤ x.src) ∧
        s.Yields .eventAccept fun t => t.evq = s.evq.erase e ∧ t.evr.seq = (s.evr.seq + 1) % 2 ^ 48 ∧ keeps t) ∧
    (s.MayWrite m .evr R.EVR_CMD →
      (free → s.evr.buf ≠ [] → s.Yields (.evrFlush m) fun t => t.evr = { s.evr with flush := some s.evr.seq, want := false } ∧ keeps t) ∧
      (free → s.evr.buf = [] → s.evr.undropped = Vector.replicate 8 0 ∨ s.evq.length < 64 →
        s.Yields (.evrFlush m) fun t => t.evr = { s.evr with want := false, pf := false } ∧ keeps t) ∧
      (s.evr.flush ≠ none ∨ s.evr.clear ≠ none ∨ (s.runs .evr = false ∧ s.evr.pf = false) →
        s.Yields (.evrFlush m) fun t => t.evr = { s.evr with want := true } ∧ keeps t)) ∧
    (s.Live .evr →
      (s.evr.flush = none → ∀ ok, exec (.flushPageCommit ok) s = .next s) ∧
      ∀ cut, s.evr.flush = some cut →
        (s.Yields (.flushPageCommit false) fun t => t.evr = s.evr ∧ t.Erred .evr 0x80 (s.nand.log.length % 2 ^ 14) ∧ keeps t) ∧
        (let page := (s.evr.buf.filter fun r => r.seq < cut).take 512
        let rest := s.evr.buf.filter fun r => !page.any fun q => q.seq == r.seq
        let pg := s.mkPage page ((s.nand.log.getLast?.map (·.tag)).getD 0)
        page ≠ [] → logCount s.nand.log + page.length ≤ logRecords → s.evr.undropped = Vector.replicate 8 0 → s.evr.want = false →
          s.pageOk pg = true ∧
          s.Yields (.flushPageCommit true) fun t => t.nand.log = s.nand.log ++ [pg] ∧ t.evr.buf = rest ∧ t.Caused .evr 2 ∧ s.Spares t ∧ s.Within t .evr ∧
            t.evr.flush = (if (rest.any fun r => decide (r.seq < cut)) ∧ (s.stopping .evr = false ∨ s.evr.pf = true) then some cut else none)))

/-- SEEK and NEXT start one load of the window, refused while one is pending or while reading is closed; the window takes up to eight
records of the history from the start point on, words in order, with COUNT, END and the bad ones; a nonce is fresh and lasts 60 s; CLEAR
consumes it and is refused DISABLED or BUSY; a token that fails gives its result, one that passes takes the cut, and the commit leaves
LOG_CLEARED first, the records after the cut and no drop counts. (R401, R402, R403, R404, R407) -/
def Obligations.EventWindowAndClears : Prop :=
  ∀ (m : Master) (s : State),
    (s.MayWrite m .evr R.EVR_CMD → s.isHalted .evr = false →
      let keeps (t : State) : Prop := s.Spares t ∧ s.Within t .evr ∧ t.nand = s.nand
      let opens := m = .mon ∨ s.bit F.EVR_CFG_RD_OPEN = true
      let starts (i : Instr) (op at_ : Nat) : Prop :=
        (opens → s.bit F.EVR_WIN_STAT_PEND = false → s.Yields i fun t => t.evr = { s.evr with next := at_, load := some at_ } ∧
          t.bit F.EVR_WIN_STAT_PEND = true ∧ keeps t) ∧
        (opens → s.bit F.EVR_WIN_STAT_PEND = true → s.Yields i fun t => t.evr = s.evr ∧ t.Erred .evr 0x85 op ∧ keeps t) ∧
        (¬opens → s.Yields i fun t => t.evr = s.evr ∧ t.Erred .evr 5 ((R.EVR_CMD - Blk.evr.base) / 4) ∧ keeps t)
      starts (.seek m) 2 (s.rd64 R.EVR_CUR_LO R.EVR_CUR_HI) ∧ starts (.next m) 3 s.evr.next ∧
      (s.kst.reqs ≠ [] → s.Yields (.evrNonce m) fun t => t.evr = s.evr ∧ t.regs = s.regs ∧ keeps t ∧ (s.tb2, KstReq.nonce) ∈ t.kst.reqs) ∧
      (s.kst.reqs = [] → s.bit F.KST_LC_ENTROPY_OK = false → s.Yields (.evrNonce m) fun t => t.evr = s.evr ∧ t.regs = s.regs ∧ keeps t) ∧
      (s.kst.reqs = [] → s.bit F.KST_LC_ENTROPY_OK = true → s.Yields (.evrNonce m) fun t => keeps t ∧
        ∃ v, t.evr = { s.evr with nonce := some v, nonceAt := s.nowNs } ∧
        ∀ k < 8, (t.regGet (R.EVR_NONCEk k)).toNat = v / 2 ^ (32 * k) % 2 ^ 32) ∧
      s.Yields (.clear m) fun t => keeps t ∧ t.evr.nonce = none ∧ (∀ k < 8, t.regGet (R.EVR_NONCEk k) = 0) ∧
        (if s.bit F.EVR_CFG_CLR_EN = false then t.rd F.EVR_CLR_STAT_RESULT = 1 ∧ t.Erred .evr 0x82 1 ∧ t.Caused .evr 6 ∧ t.evr.check = s.evr.check
         else if s.bit F.EVR_CLR_STAT_PEND = true then t.rd F.EVR_CLR_STAT_RESULT = 5 ∧ t.Erred .evr 0x82 5 ∧ t.Caused .evr 6 ∧ t.evr.check = s.evr.check
         else t.bit F.EVR_CLR_STAT_PEND = true ∧ t.evr.check = some (if s.nowNs < s.evr.nonceAt + 60000000000 then s.evr.nonce else none) ∧
           (s.tb2, KstReq.verify) ∈ t.kst.reqs)) ∧
    (s.Live .evr →
      (s.evr.load = none → exec .winDone s = .next s) ∧
      (∀ st, s.evr.load = some st →
        let l := s.history.filter fun x => decide (st ≤ x.1.seq)
        let w := l.take 8
        s.Yields .winDone fun t => t.evr.load = none ∧ t.bit F.EVR_WIN_STAT_PEND = false ∧ t.rd F.EVR_WIN_STAT_COUNT = w.length ∧
          (t.bit F.EVR_WIN_STAT_END = true ↔ l.length ≤ 8) ∧ t.Caused .evr 3 ∧ s.Spares t ∧ s.Within t .evr ∧ t.nand = s.nand ∧
          (∀ (i k : Nat) (h : i < w.length), k < 8 → (t.regGet (R.EVR_WINi i k)).toNat = leAt (w[i]).1.bytes (4 * k) 4) ∧
          (∀ z, w.getLast? = some z → t.evr.next = z.1.seq + 1) ∧
          (∀ i (h : i < w.length), (t.rd F.EVR_WIN_STAT_BAD).testBit i = s.recBad w[i]) ∧ (w.any s.recBad = true → t.rd (F.BLK_ERRINFO_CODE .evr) = 0x81)) ∧
      (s.evr.nonce ≠ none → s.evr.nonceAt + 60000000000 ≤ s.nowNs → s.Yields .evrNonceExpiry fun t => t.evr.nonce = none ∧ s.Spares t ∧ s.Within t .evr) ∧
      (s.evr.nonce = none ∨ s.nowNs < s.evr.nonceAt + 60000000000 → exec .evrNonceExpiry s = .next s) ∧
      (s.evr.check = none ∨ s.kstTurn .verify = false → exec .clearVerifyEnd s = .next s) ∧
      (∀ n, s.evr.check = some n → s.kstTurn .verify = true →
        let s0 := { s with evr := { s.evr with check := none } }.endKst .verify
        let r := s0.dmaRead 12 (s0.rd64 R.EVR_TOK_LO R.EVR_TOK_HI) 2512
        let ends (res code : Nat) : Prop := s.Yields .clearVerifyEnd fun t => t.rd F.EVR_CLR_STAT_RESULT = res ∧ t.bit F.EVR_CLR_STAT_PEND = false ∧
          t.Erred .evr code res ∧ t.Caused .evr 6 ∧ t.nand = s.nand ∧ t.mem = s.mem ∧ t.evr.seq = s.evr.seq
        (r.2 = none → ends 6 0x84) ∧
        ∀ bs, r.2 = some bs → ((r.1.clrCheck bs n).2 ≠ 0 → ends (r.1.clrCheck bs n).2 0x82) ∧
          ((r.1.clrCheck bs n).2 = 0 → s.Yields .clearVerifyEnd fun t => t.nand = s.nand ∧ t.mem = s.mem ∧ t.evr.seq = (s.evr.seq + 1) % 2 ^ 48 ∧
            t.rd F.EVR_CLR_STAT_CLEARS = satInc 0xFFFF (r.1.rd F.EVR_CLR_STAT_CLEARS) ∧
            ∃ x : LogRec, t.evr.clear = some (s.evr.seq, x) ∧ x.seq = s.evr.seq ∧ x.sev = 7 ∧ leAt x.bytes 0 2 = 1)) ∧
      (s.evr.clear = none → exec .clearCommit s = .next s) ∧
      (∀ cut x, s.evr.clear = some (cut, x) → s.evq.length < 64 ∨ s.evr.undropped = Vector.replicate 8 0 →
        s.Yields .clearCommit fun t => t.nand = { s.nand with log := [s.mkPage [x] 0] } ∧
        t.evr.buf = (s.evr.buf.filter fun r => decide (cut < r.seq)) ∧ t.evr.clear = none ∧ (∀ k < 8, t.rd (F.EVR_DROPs_COUNT k) = 0) ∧
        t.rd F.EVR_CLR_STAT_RESULT = 0 ∧ t.bit F.EVR_CLR_STAT_PEND = false ∧ t.Caused .evr 6 ∧ s.Spares t ∧ s.Within t .evr))

/-- Each of the seventeen operations is taken from the monitor alone: with its slot and addresses it goes into service, or is BUSY while
one is; a nonce lasts 60 s; the slot check makes a slot BAD whose check word fails; a failed entropy source refuses; the TAP attaches
only while debug is enabled; the oldest closed billing block is built, UNSIGNED where no signature is possible. (R407, R408, R410, R413,
R418, R424, R429, R305) -/
def Obligations.KeyStoreCommands : Prop :=
  ∀ (m : Master) (n : Fin 32) (s : State),
    (∀ x ∈ [(Instr.kstNonce m n, 1), (.derive m n, 2), (.generate m n, 3), (.loadPub m n, 4), (.importSym m n, 5), (.selftest m n, 6), (.commit m n, 7),
        (.discard m n, 8), (.sign m n, 9), (.verify m n, 10), (.attest m n, 11), (.exportPub m n, 12), (.extend m n, 13), (.lc m n, 14),
        (.debugUnlock m n, 15), (.advance m n, 16), (.zeroise m n, 17)],
      (s.MayWrite m .kst R.KST_CMD → s.isHalted .kst = false →
        (s.bit F.KST_RES_PEND = false → s.Yields x.1 fun t => t.bit F.KST_RES_PEND = true ∧ t.rd F.KST_RES_SLOT = n.val ∧ s.Spares t ∧ s.Within t .kst ∧
          t.nand = s.nand ∧ t.kst = { s.kst with
            job := some ⟨x.2, n, s.rd64 R.KST_ARG_LO R.KST_ARG_HI, s.rd64 R.KST_OUT_LO R.KST_OUT_HI⟩
            reqs := t.kst.reqs } ∧ (s.kst.reqs.all (fun q => decide (q.1 ≠ s.tb2 ∨ q.2.rank ≤ 2)) = true → t.kst.reqs = s.kst.reqs ++ [(s.tb2, .mon)])) ∧
        (s.bit F.KST_RES_PEND = true → s.Yields x.1 fun t => t.rd F.KST_RES_RESULT = 1 ∧ t.rd F.KST_RES_SLOT = n.val ∧ t.Caused .kst 2 ∧
          t.Erred .kst 0x80 1 ∧ t.kst = s.kst ∧ s.Spares t ∧ s.Within t .kst)) ∧
      (s.Answers .kst → m ≠ .mon → s.Yields x.1 fun t => t.Erred .kst 5 ((R.KST_CMD - Blk.kst.base) / 4) ∧ t.resp.err = true ∧ t.kst = s.kst ∧
        s.Spares t ∧ s.Within t .kst)) ∧
    (s.Live .kst →
      (s.kst.nonce ≠ none → s.kst.nonceAt + 60000000000 ≤ s.nowNs → s.Yields .kstNonceExpiry fun t => t.kst.nonce = none ∧
        (∀ k < 8, t.regGet (R.KST_NONCEk k) = 0) ∧ s.Spares t ∧ s.Within t .kst) ∧
      (s.kst.nonce = none ∨ s.nowNs < s.kst.nonceAt + 60000000000 → exec .kstNonceExpiry s = .next s) ∧
      (s.Yields .slotCheck fun t => t.kst = s.kst ∧ s.Spares t ∧ s.Within t .kst ∧ ∀ k : Fin 32,
        let bad := s.kstState k = 1 ∧ ∃ h, (s.kslot k).active = some h ∧ h.ok = false
        (bad → t.kstState k = 2 ∧ t.Caused .kst 3) ∧ (s.kstState k ≠ 1 ∨ (s.kslot k).active = none → t.kstState k = s.kstState k)) ∧
      (s.Yields .entropyFail fun t => t.bit F.KST_LC_ENTROPY_OK = false ∧ t.Caused .kst 4 ∧ t.Erred .kst 0x82 0 ∧ t.kst = s.kst ∧ s.Spares t ∧
        s.Within t .kst) ∧
      (∀ a, s.Yields (.dbgAttach a) fun t => (t.bit F.KST_LC_DBG_ATTACHED = true ↔ a = true ∧ s.bit F.KST_LC_DBG_EN = true) ∧ t.kst = s.kst ∧
        s.Spares t ∧ ∀ r, r ≠ R.KST_LC → t.regGet r = s.regGet r) ∧
      (s.kstTurn .seal = false → exec .sealSign s = .next s) ∧
      (s.mtr.closed = [] → s.kst.reqs = [] → exec .sealSign s = .next s) ∧
      ∀ b rest, s.mtr.closed = b :: rest → s.kstTurn .seal = true →
        let seq := (s.rd F.MTR_BILL_SEQ_SEQ + 1) % 2 ^ 32
        s.Yields .sealSign fun t => t.mtr.closed = rest ∧ t.rd F.MTR_BILL_SEQ_SEQ = seq ∧ s.Spares t ∧
          (∃ x, t.mtr.built = s.mtr.built ++ [x] ∧ x.seq = seq ∧ (x.last = true ↔ b.blk + 1 = b.nblk) ∧ t.mtr.lastHash = (sha3 x.bytes).toNat) ∧
          (s.bit F.KST_LC_DBG_ATTACHED = true ∨ s.bit F.KST_LC_ENTROPY_OK = false ∨ s.kstState 1 ≠ 1 → t.Erred .mtr 0x82 (seq % 2 ^ 14)))

/-- CMD_DONE clears PEND with RESULT, SLOT and the cause; wrong slots, bad slots, missing roots, missing entropy, and tokens in the
order of R424 give their results; NONCE, DERIVE, GENERATE, LOAD_PUB, SELFTEST, COMMIT, DISCARD, VERIFY, EXPORT_PUB, EXTEND, ADVANCE,
ZEROISE and the step to ENFORCED act as their rules say. (R411, R412, R413, R414, R417, R418, R419, R420, R422, R424, R426, R427) -/
def Obligations.KeyStoreOperations : Prop :=
  ∀ (s : State) (j : KstJob) (burn : Option Nat), s.Live .kst → s.kst.job = some j → s.en .kst = true →
    (s.kstTurn .mon = false → exec (.cmdDone burn) s = .next s) ∧
    (s.kstTurn .mon = true → (∀ q ∈ s.kst.reqs.tail, q.2 ≠ .nonce) →
    let n := j.slot
    let x := s.kslot n
    let done (r : Nat) (p : State → Prop) : Prop := s.Yields (.cmdDone burn) fun t => t.kst.job = none ∧ t.bit F.KST_RES_PEND = false ∧
      t.rd F.KST_RES_RESULT = r ∧ t.rd F.KST_RES_SLOT = n.val ∧ t.Caused .kst 2 ∧ t.pending = s.pending ∧ t.cad = s.cad ∧
      (r ≠ 0 → r ≠ 15 → ¬(j.op = 10 ∧ r = 6) → t.Erred .kst 0x80 r) ∧ p t
    let gone : Kst := { s.kst with job := none, reqs := s.kst.reqs.tail }
    let spent : Kst := { gone with nonce := none, nonceAt := s.nowNs }
    let token := j.op = 4 ∨ j.op = 5 ∨ j.op = 14 ∨ j.op = 15
    let refuses (r : Nat) : Prop := done r fun t => t.kst = (if token then spent else gone) ∧ t.mem = s.mem ∧ t.nand = s.nand
    let nonce := if s.nowNs < s.kst.nonceAt + 60000000000 then s.kst.nonce else none
    let halfs (p : KeySlot → Prop) (t : State) : Prop := p (t.kslot n) ∧ (t.kslot n).active = x.active ∧ t.nand = s.nand ∧ t.mem = s.mem ∧
      ∀ k, k ≠ n → t.kslot k = s.kslot k
    let shadow (t : State) : Nat := t.rd (F.KST_SLOTn_STAT_SHADOW n)
    let entropy := s.bit F.KST_LC_ENTROPY_OK = true
    (s.bit F.KST_LC_RESET_PEND = true → refuses 8) ∧
    (s.bit F.KST_LC_RESET_PEND = false → 1 ≤ j.op → j.op ≤ 17 →
      (((j.op = 2 ∧ 2 ≤ n.val ∧ (n.val < 16 ∨ n.val = 31)) ∨ (j.op = 3 ∧ (n.val < 2 ∨ (8 ≤ n.val ∧ n.val < 16) ∨ n.val = 31)) ∨
        ((j.op = 4 ∨ j.op = 10) ∧ (n.val < 8 ∨ 16 ≤ n.val)) ∨ (j.op = 5 ∧ n.val < 16) ∨ ((j.op = 6 ∨ j.op = 7 ∨ j.op = 8 ∨ j.op = 17) ∧ n.val < 2) ∨
        (j.op = 9 ∧ (n.val < 2 ∨ 8 ≤ n.val)) ∨ (j.op = 11 ∧ n.val ≠ 0) ∨ (j.op = 12 ∧ 8 ≤ n.val)) → refuses 2) ∧
      (¬entropy → j.op = 1 ∨ j.op = 14 ∨ (j.op = 9 ∧ 2 ≤ n.val ∧ n.val < 8) ∨ (j.op = 11 ∧ n.val = 0 ∧ s.dbgAttached = false) → refuses 13) ∧
      (j.op = 11 ∧ n.val = 0 ∨ j.op = 12 ∧ n.val < 2 → s.dbgAttached = true → refuses 10) ∧
      ((j.op = 10 ∧ 8 ≤ n.val ∧ n.val < 16) ∨ (j.op = 12 ∧ 2 ≤ n.val ∧ n.val < 8) ∨ (entropy ∧ j.op = 9 ∧ 2 ≤ n.val ∧ n.val < 8) →
        (s.kstState n = 0 → refuses 4) ∧ (s.kstState n = 2 → refuses 3)) ∧
      (j.op = 1 → entropy → done 0 fun t => t.mem = s.mem ∧ t.nand = s.nand ∧ t.kst.nonceAt = s.nowNs ∧ ∃ v, t.kst.nonce = some v ∧
        ∀ k < 8, (t.regGet (R.KST_NONCEk k)).toNat = v / 2 ^ (32 * k) % 2 ^ 32) ∧
      (∀ root b, j.op = 2 → 16 ≤ n.val → n.val < 31 → s.kstState n ≠ 2 → s.ordRoot = some root → (s.dmaRead 13 j.arg 32).2 = some b →
        done 0 fun t => shadow t = 1 ∧ halfs (fun y => y.shadow = some (mkHalf (kdf root b "ZTM storage") [])) t) ∧
      (j.op = 3 → 16 ≤ n.val → n.val < 31 → s.kstState n ≠ 2 → s.ordRoot.isSome = true → entropy → done 0 fun t => shadow t = 1 ∧
        halfs (fun y => y.shOrigin = 2 ∧ ∃ h, y.shadow = some h ∧ h.ok = true ∧ h.key.length = 32) t) ∧
      (let r := (s.setKstNonce none).dmaRead 13 j.arg tokenSize
      let tokens (target : Nat → Bool) (len : Nat → Nat) : Prop :=
        let ends (e : Nat) : Prop := done e fun t => t.kst = spent ∧ t.mem = s.mem ∧ t.nand = s.nand
        (r.2 = none → ends 14) ∧ ∀ bs, r.2 = some bs →
          (r.1.tokFieldsOk bs j.op target len = false → ends 5) ∧
          (r.1.tokFieldsOk bs j.op target len = true → nonce ≠ some (leNat (tokNonce bs)) → ends 7)
      (j.op = 4 → 8 ≤ n.val → n.val < 16 → s.kstState n ≠ 2 → s.ordRoot.isSome = true →
        tokens (· == n.val) (fun _ => 3732) ∧
        ∀ bs h, r.2 = some bs → r.1.tokFieldsOk bs 4 (· == n.val) (fun _ => 3732) = true → nonce = some (leNat (tokNonce bs)) →
          s.kstState 8 = 1 → (s.kslot 8).active = some h → h.ok = true → tokSigOk bs h.key = true → done 0 fun t => shadow t = 1 ∧
            halfs (fun y => y.shadow = some (mkHalf (tokPayload bs 0 1312) [])) t) ∧
      (j.op = 5 → 16 ≤ n.val → s.kstState n ≠ 2 → s.ordRoot.isSome = true → tokens (· == n.val) (fun _ => 52)) ∧
      (j.op = 15 → s.lc = 4 → tokens (· == 0) (fun _ => 0)) ∧
      (j.op = 14 → entropy → tokens (fun k => decide (k ≤ 5)) (fun k => if k = 2 then 1376 else 0) ∧
        ∀ bs h, r.2 = some bs → r.1.tokFieldsOk bs 14 (fun k => decide (k ≤ 5)) (fun k => if k = 2 then 1376 else 0) = true →
          nonce = some (leNat (tokNonce bs)) → s.lc = 2 → tokTarget bs = 3 → (∀ r < 4, s.rootStuck r = false) → s.kstState 8 = 1 →
            (s.kslot 8).active = some h → h.ok = true →
          tokSigOk bs h.key = true →
            (burn = none → done 0 fun t => t.kst.stepBits = (Vector.ofFn fun i => if i.val < 3 then 7 else s.kst.stepBits[i]) ∧
              t.bit F.KST_LC_RESET_PEND = true ∧ t.Caused .kst 5 ∧ t.rd F.KST_LC_STATE = 2) ∧
            (burn = some 0 → done 15 fun t => (∀ i : Fin 5, s.kst.stepBits[i] &&& t.kst.stepBits[i] = s.kst.stepBits[i]) ∧ t.Erred .kst 0x83 0 ∧
              t.bit F.KST_LC_RESET_PEND = false))) ∧
      (j.op = 15 → s.lc ≠ 4 → done 8 fun t => t.kst = spent ∧ t.bit F.KST_LC_DBG_EN = s.bit F.KST_LC_DBG_EN ∧ t.mem = s.mem) ∧
      (∀ h, j.op = 6 → 16 ≤ n.val → s.kstState n ≠ 2 → x.shadow = some h → shadow s ≠ 3 → x.shOrigin ≠ 4 →
        (h.ok = true → done 0 fun t => shadow t = 2 ∧ halfs (fun y => y = x) t) ∧
        (h.ok = false → done 11 fun t => shadow t = 0 ∧ halfs (fun y => y.shadow = none) t)) ∧
      (∀ h k, j.op = 7 → 2 ≤ n.val → s.kst.storeKey = some k → x.shadow = some h →
        (shadow s ≠ 2 → refuses (if s.kstState n = 2 then 3 else 12)) ∧
        (shadow s = 2 → h.ok = true → done 0 fun t => (t.kslot n).active = some h ∧ t.kstState n = 1 ∧ t.kstEpoch n = (s.kstEpoch n + 1) % 65536 ∧
          (if 16 ≤ n.val ∧ s.kstState n = 1 then (t.kslot n).shadow = x.active ∧ shadow t = 3 else (t.kslot n).shadow = none ∧ shadow t = 0) ∧
          (∀ i, i ≠ n → t.kslot i = s.kslot i) ∧ t.mem = s.mem ∧ ∃ y : SlotStore, y.key = k ∧ (∃ z ∈ y.keys, z.slot = n.val ∧ z.half = some h) ∧
            (t.nand = { s.nand with slotsA := some y } ∨ t.nand = { s.nand with slotsB := some y }))) ∧
      (j.op = 8 → 2 ≤ n.val → s.kstState n ≠ 2 → done 0 fun t => shadow t = 0 ∧ halfs (fun y => y.shadow = none) t) ∧
      (∀ h b, j.op = 10 → 8 ≤ n.val → n.val < 16 → s.kstState n = 1 → x.active = some h → h.ok = true → (s.dmaRead 13 j.arg 2452).2 = some b →
        done (if mldsaVerify h.key (BitVec.ofNat 256 (leAt b 0 32)) (b.drop 32) = true then 0 else 6) fun t => t.mem = s.mem ∧ t.kslot n = x ∧
          t.kst.staged = s.kst.staged ++ (if n.val = 11 ∧ mldsaVerify h.key (BitVec.ofNat 256 (leAt b 0 32)) (b.drop 32) = true then [leAt b 0 32] else [])) ∧
      (∀ h, j.op = 12 → 2 ≤ n.val → n.val < 8 → s.kstState n = 1 → x.active = some h → h.ok = true →
        let w := s.dmaWrite 13 j.out h.pub
        done (if w.2 = true then 0 else 14) fun t => t.mem = w.1.mem ∧ t.kslot n = x) ∧
      (∀ b, j.op = 13 → (s.dmaRead 13 j.arg 32).2 = some b → done 0 fun t => t.mem = s.mem ∧
        (∀ k < 8, (t.regGet (R.KST_MEASr_k 3 k)).toNat = (sha3 (s.regBytes (R.KST_MEASr_k 3 0) 8 ++ b)).toNat / 2 ^ (32 * k) % 2 ^ 32) ∧
        ∀ i < 3, ∀ k < 8, t.regGet (R.KST_MEASr_k i k) = s.regGet (R.KST_MEASr_k i k)) ∧
      (∀ b, j.op = 16 → (s.dmaRead 13 j.arg 4).2 = some b →
        let v := leNat b
        (s.kst.stage < v ∨ v < s.kst.rollback → done 8 fun t => t.kst.rollback = s.kst.rollback ∧ t.mem = s.mem) ∧
        (s.kst.rollback ≤ v → v ≤ s.kst.stage → burn = none → done 0 fun t => t.kst.rollback = v ∧ t.rd F.KST_ROLLBACK_COUNT = v % 2 ^ 7 ∧
          t.mem = s.mem)) ∧
      (j.op = 17 → 2 ≤ n.val → s.kst.storeKey.isSome = true → done 0 fun t => t.kslot n = {} ∧ t.kstState n = 0 ∧ shadow t = 0 ∧ t.mem = s.mem ∧
        ∀ k, k ≠ n → t.kslot k = s.kslot k)))

/-- No context ever maps boot ROM or register pages, a context OFF maps nothing, a real-time one only its pinned ranges; a transaction
without a tag or a place in its channel waits; real-time ports are served first; flush writes, responses, posted writes and requests
leave in that order; a core reads, writes and updates memory by address, a master through its context, all else is an error response; a
transaction unanswered for 100 us ends with TIMEOUT; PIN_SEL shows a range, PIN_CFG commits or refuses one, INVAL drops the cached
translations, FAULT_POP takes the oldest fault. (R430, R431, R432, R433, R434, R436, R439, R443, R444, R446, R447, R456) -/
def Obligations.FabricAndTranslation : Prop :=
  ∀ (s : State),
    (∀ (ctx va : Nat) (wr : Bool),
      (∀ pa, (s.xlate ctx wr va).2 = .ok pa → inRom pa = false ∧ inPages pa = false) ∧
      (s.rd (F.XLT_CTXn_CFG_MODE ctx) = 0 ∨ s.rd (F.XLT_CTXn_CFG_MODE ctx) = 3 → s.xlate ctx wr va = (s, .bad 1)) ∧
      (s.rd (F.XLT_CTXn_CFG_MODE ctx) = 1 ∨ s.rd (F.XLT_CTXn_CFG_MODE ctx) = 2 → 2 ^ 39 ≤ va → s.xlate ctx wr va = (s, .bad 5)) ∧
      (realTime ctx = true → va < 2 ^ 39 → (∀ k < 8, (s.pin ctx k).en = true → va / 4096 < (s.pin ctx k).va ∨ (s.pin ctx k).va + (s.pin ctx k).pages ≤ va / 4096) →
        s.xlate ctx wr va = (s, .bad 1))) ∧
    (∀ (l : List FabItem) (x : FabItem) (sh : Vector Nat 16), s.arbitrate l = some (x, sh) → x ∈ l ∧ ∀ y ∈ l, s.fabClass x ≤ s.fabClass y) ∧
    (∀ (port : Fin 16) (sub : Fin 4) (a : Nat) (op : FabOp) (flush : Bool),
      let x : FabItem := ⟨port, sub, a, op, flush⟩
      let i := Instr.fabricTransaction (.issue port sub a op flush)
      let sets (f : Fab) : Prop := s.Yields i fun t => t.fab = { f with peak := max s.fab.peak ({ s with fab := f } : State).inFlight } ∧
        s.Spares t ∧ s.Within t .fab ∧ t.resp = s.resp
      let reads := match portCtx port sub with | none => 0 | some c => ((burst a (opLen op)).map fun p => s.readsFor c (opWrites op) p.1).sum
      (s.outstanding port < s.resvOf port → s.tagFree port = true) ∧
      (s.resvOf port ≤ s.outstanding port → s.rd (F.FAB_QUOTAn_MAX port) ≤ s.outstanding port → s.tagFree port = false) ∧
      (opLen op = 0 ∨ 256 < opLen op → exec i s = .next s) ∧
      (1 ≤ opLen op → opLen op ≤ 256 →
        (flush = true →
          (s.flushTag port = true → opWrites op = true → queueOpen s.fab.pf port = true → sets { s.fab with pf := s.fab.pf ++ [x] }) ∧
          (s.flushTag port = false ∨ opWrites op = false ∨ queueOpen s.fab.pf port = false → exec i s = .next s)) ∧
        (flush = false → s.tagFree port = false → exec i s = .next s) ∧
        (flush = false → s.tagFree port = true →
          let room := queueOpen (if s.posted x = true then s.fab.pw else s.fab.req) port
          (room = false → exec i s = .next s) ∧
          (room = true → reads = 0 → sets (if s.posted x = true then { s.fab with pw := s.fab.pw ++ [x] } else { s.fab with req := s.fab.req ++ [x] })) ∧
          (room = true → reads ≠ 0 → s.fab.walks.length < 8 → sets { s.fab with walks := s.fab.walks ++ [⟨x, reads, false⟩] }) ∧
          (room = true → reads ≠ 0 → 8 ≤ s.fab.walks.length → exec i s = .next s)))) ∧
    (∀ (ecc : List EccFate) (ans : Bool) (lat : Nat),
      let i := Instr.fabricTransaction (.serve ecc ans lat)
      let accepts (u : State) (x : FabItem) : Prop := ∀ d, x.op = .write d → ecc = [] →
        (∀ c, x.port ≠ 5 → portCtx x.port x.sub = some c → s.Yields i fun t => t.mem = (u.dmaWrite c x.at_ d).1.mem ∧ t.pending = s.pending ∧
          t.resp.err = !(u.dmaWrite c x.at_ d).2) ∧
        (x.port.val ≤ 1 → d ≠ [] → isMemory x.at_ = true → isMemory (x.at_ + d.length - 1) = true → s.writeBarred x.at_ = false →
          s.writeBarred (x.at_ + d.length - 1) = false → (∀ w ∈ s.ue, x.at_ + d.length ≤ w ∨ w + 8 ≤ x.at_ ∨ (x.at_ ≤ w ∧
            w + 8 ≤ x.at_ + d.length)) → s.Yields i fun t => t.mem = memPutList s.mem x.at_ d ∧ t.resp.err = false ∧
            t.pending = s.pending ∧ t.cad = s.cad ∧ t.fab.rsp = u.fab.rsp ∧ t.fab.pw = u.fab.pw ∧ t.fab.pf = u.fab.pf ∧
            (∀ w ∈ t.ue, w ∈ s.ue ∧ ¬(x.at_ ≤ w ∧ w + 8 ≤ x.at_ + d.length)) ∧
            ∀ r ∈ t.resv, r ∈ s.resv ∧ ¬(x.at_ < r.at_ + r.len ∧ r.at_ < x.at_ + d.length))
      (∀ x l, s.fab.pf = x :: l → accepts { s with fab := { s.fab with pf := l } } x) ∧
      (s.fab.pf = [] →
        (∀ r l, s.fab.rsp = r :: l → r.walk = none → s.Yields i fun t => t.resp = r.resp ∧ t.fab.data = r.data ∧ t.fab.rsp = l ∧ t.fab.pw = s.fab.pw ∧
          t.fab.req = s.fab.req ∧ t.fab.walks = s.fab.walks ∧ s.Spares t) ∧
        (∀ r l x n, s.fab.rsp = r :: l → r.walk = some x → s.fab.walks = [⟨x, n, true⟩] → s.Yields i fun t => t.resp = s.resp ∧ t.fab.rsp = l ∧ s.Spares t ∧
          (2 ≤ n → t.fab.walks = [⟨x, n - 1, false⟩] ∧ t.fab.pw = s.fab.pw ∧ t.fab.req = s.fab.req) ∧
          (n = 1 → t.fab.walks = [] ∧ (t.fab.pw = s.fab.pw ∧ t.fab.req = s.fab.req ++ [x] ∨ t.fab.pw = s.fab.pw ++ [x] ∧ t.fab.req = s.fab.req))) ∧
        (s.fab.rsp = [] →
          (∀ x sh, s.arbitrate s.fab.pw = some (x, sh) → accepts { s with fab := { s.fab with pw := s.fab.pw.erase x, share := sh } } x) ∧
          (s.arbitrate s.fab.pw = none → s.arbitrate s.fab.reqs = none → exec i s = .next s) ∧
          (s.arbitrate s.fab.pw = none → ∀ x n sh, s.fab.req = [] → s.fab.walks = [⟨x, n, false⟩] → s.arbitrate [x] = some (x, sh) → s.Yields i fun t =>
            t.fab = { s.fab with walks := [⟨x, n, true⟩], rsp := [⟨x.port, ⟨0, false⟩, [], false, 0, lat, some x⟩], share := sh } ∧ s.Spares t ∧ t.resp = s.resp) ∧
          (s.arbitrate s.fab.pw = none → ∀ x sh, s.arbitrate s.fab.reqs = some (x, sh) → x ∈ s.fab.req →
            let u := { s with fab := { s.fab with req := s.fab.req.erase x, share := sh } }
            let answers (t : State) (d : Option (List Byte)) : Prop := t.fab = { u.fab with rsp := [⟨x.port, match d with
                | some b => ⟨BitVec.ofNat 32 (leNat (b.take 4)), false⟩
                | none => ⟨0, true⟩, d.getD [], opWrites x.op, if d.isSome then opLen x.op else 0, lat, none⟩] } ∧ t.resp = s.resp ∧
                  t.pending = s.pending ∧ t.cad = s.cad
            (ans = false → s.Yields i fun t => s.Spares t ∧ t.resp = s.resp ∧ t.regs = s.regs ∧
              t.fab = { u.fab with waits := u.fab.waits ++ [⟨x.port, opWrites x.op, s.nowNs⟩] }) ∧
            (ans = true →
              (∀ n, x.op = .read n → x.port.val ≤ 1 → 1 ≤ n → ((isMemory x.at_ = true ∧ isMemory (x.at_ + n - 1) = true ∧ inTiles x.at_ = false) ∨
                (inRom x.at_ = true ∧ inRom (x.at_ + n - 1) = true)) → s.ueIn x.at_ n = none → ecc = [] → s.Yields i fun t =>
                answers t (some (s.bytes x.at_ n)) ∧ t.mem = s.mem) ∧
              (x.port.val ≤ 2 → mapped x.at_ = false → s.Yields i fun t => answers t none ∧ t.mem = s.mem) ∧
              (∀ n c b, x.op = .read n → portCtx x.port x.sub = some c → ecc = [] → (u.dmaRead c x.at_ n).2 = some b →
                s.Yields i fun t => answers t (some b) ∧ t.mem = s.mem) ∧
              (∀ n c, x.op = .read n → portCtx x.port x.sub = some c → ecc = [] → (u.dmaRead c x.at_ n).2 = none → s.Yields i fun t => t.mem = s.mem ∧
                ∃ r, t.fab.rsp = [r] ∧ r.resp.err = decide (x.port ≠ 5 ∨ (u.readCuts c (burst x.at_ n)).2.2 = .error) ∧
                  r.data = (u.readCuts c (burst x.at_ n)).2.1) ∧
              (∀ d, x.op = .sc d → x.port.val ≤ 1 → inSram x.at_ = true → x.at_ % 4 = 0 → d.length = 4 → s.Yields i fun t =>
                (∀ r ∈ t.resv, ¬(r.port = x.port ∧ r.sub = x.sub)) ∧
                ((∃ r ∈ s.resv, r.port = x.port ∧ r.sub = x.sub ∧ r.at_ ≤ x.at_ ∧ x.at_ + 4 ≤ r.at_ + r.len) →
                  answers t (some (leBytes 4 0)) ∧ t.mem = memPutList s.mem x.at_ d) ∧
                ((∀ r ∈ s.resv, ¬(r.port = x.port ∧ r.sub = x.sub)) → answers t (some (leBytes 4 1)) ∧ t.mem = s.mem)) ∧
              (∀ f d, x.op = .amo f d → x.port.val ≤ 1 → inSram x.at_ = true → x.at_ % 4 = 0 → d.length = 4 → s.ueIn x.at_ 4 = none → ecc = [] →
                s.Yields i fun t => answers t (some (s.bytes x.at_ 4)) ∧
                  t.mem = memPutList s.mem x.at_ (leBytes 4 (amoVal f 32 (s.rdLe x.at_ 4) (leNat d))))))))) ∧
    (∀ (port : Fin 16) (lat : Nat),
      ((∀ w ∈ s.fab.waits, w.port = port → s.nowNs < w.at_ + 100000) → exec (.fabTimeout port lat) s = .next s) ∧
      (∀ w, s.fab.waits.find? (fun w => w.port == port) = some w → w.at_ + 100000 ≤ s.nowNs →
        s.Yields (.fabTimeout port lat) fun t => t.fab.waits = s.fab.waits.erase w ∧ t.Caused .fab 2 ∧ t.Erred .fab 0x80 port.val ∧ t.resp = ⟨0, true⟩ ∧
          s.Spares t)) ∧
    (s.Live .mem →
      (∀ ch : Fin 2, let due := s.refreshAt[ch] + (if s.hot = true then 1953 else 3906)
        (s.nowNs < due → exec (.dramRefresh ch) s = .next s) ∧ (due ≤ s.nowNs →
          exec (.dramRefresh ch) s = .next { s with refreshAt := s.refreshAt.set ch s.nowNs })) ∧
      (exec (.hotChg s.hot) s = .next s) ∧ (s.Yields (.hotChg (!s.hot)) fun t => t.hot = !s.hot ∧ t.Caused .mem 3 ∧ s.Spares t ∧ s.Within t .mem)) ∧
    (∀ (m : Master) (v : Word),
      (s.MayWrite m .xlt R.XLT_PIN_SEL → let p := s.pin (getBits v 0 5) (getBits v 8 3)
        s.Yields (.pinSel m v) fun t => t.xlt = s.xlt ∧ s.Spares t ∧ s.Within t .xlt ∧ t.rd F.XLT_PIN_VA_VPN = p.va % 2 ^ 27 ∧
          t.rd F.XLT_PIN_PA_PPN = p.pa % 2 ^ 28 ∧
          getBits (t.regGet R.XLT_PIN_CFG) 0 27 = p.pages % 2 ^ 27 ∧ getBits (t.regGet R.XLT_PIN_CFG) 28 1 = b2n p.r ∧
          getBits (t.regGet R.XLT_PIN_CFG) 29 1 = b2n p.w ∧ getBits (t.regGet R.XLT_PIN_CFG) 31 1 = b2n p.en) ∧
      (s.MayWrite m .xlt R.XLT_PIN_CFG → s.rd F.XLT_PIN_SEL_CTX ≤ 16 →
        let ctx := s.rd F.XLT_PIN_SEL_CTX
        let rng := s.rd F.XLT_PIN_SEL_RANGE
        let ppn := s.rd F.XLT_PIN_PA_PPN
        let own := (ctx = 12 ∨ ctx = 13) → m = .mon
        let bad := v.getLsbD 31 = true ∧ ∃ k < getBits v 0 27, inRom ((ppn + k) * 4096) = true ∨ inPages ((ppn + k) * 4096) = true
        (¬own → s.Yields (.pinCfg m v) fun t => t.xlt = s.xlt ∧ t.Erred .xlt 5 ((R.XLT_PIN_CFG - Blk.xlt.base) / 4) ∧ s.Spares t ∧ s.Within t .xlt) ∧
        (own → bad → s.Yields (.pinCfg m v) fun t => t.xlt = s.xlt ∧ t.Erred .xlt 0x80 ctx ∧ s.Spares t ∧ s.Within t .xlt) ∧
        (own → ¬bad → s.Yields (.pinCfg m v) fun t => s.Spares t ∧ s.Within t .xlt ∧ t.xlt.cache = s.xlt.cache ∧ t.xlt.log = s.xlt.log ∧
          t.pin ctx rng = { va := s.rd F.XLT_PIN_VA_VPN, pa := ppn, pages := getBits v 0 27, r := v.getLsbD 28, w := v.getLsbD 29, en := v.getLsbD 31 } ∧
          ∀ c k, k < 8 → ¬(c = ctx ∧ k = rng) → t.pin c k = s.pin c k)) ∧
      (∀ ctx : BitVec 5, s.MayWrite m .xlt R.XLT_CMD →
        let own := (ctx.toNat = 12 ∨ ctx.toNat = 13) → m = .mon
        (¬own → s.Yields (.inval m ctx) fun t => t.xlt = s.xlt ∧ t.Erred .xlt 5 ((R.XLT_CMD - Blk.xlt.base) / 4) ∧ s.Spares t) ∧
        (own → s.Yields (.inval m ctx) fun t => t.xlt = { s.xlt with cache := s.xlt.cache.filter fun e => e.ctx != ctx.toNat } ∧ t.regs = s.regs ∧ s.Spares t)) ∧
      (s.Answers .xlt → (s.xlt.log = [] → s.Yields (.faultPop m) fun t => t.resp = ⟨0, false⟩ ∧ t.xlt = s.xlt ∧ t.regs = s.regs ∧ s.Spares t) ∧
        ∀ e l, s.xlt.log = e :: l → s.Yields (.faultPop m) fun t => t.xlt = { s.xlt with log := l } ∧ s.Spares t ∧ s.Within t .xlt ∧ t.resp.err = false ∧
          (t.regGet R.XLT_FAULT_VA_LO).toNat = e.iova % 2 ^ 32 ∧ t.rd F.XLT_FAULT_VA_HI_VA = e.iova / 2 ^ 32 % 2 ^ 8 ∧
          (e.ctx < 32 → e.cause < 8 → t.resp.data.toNat = e.ctx + 2 ^ 8 * e.cause + 2 ^ 11 * b2n e.wr + 2 ^ 31)))

/-- A flash command is refused BUSY, BAD_PART or BAD_PAGE, or goes into service; it ends with its RESULT and cause, READ delivering the
page, WRITE replacing the page whole, TRIM emptying it; care restores the reserve; a scrub counts corrected words, reports uncorrectable
ones and sets COVER, SCRUB_SHORT is raised at a whole hour; a truing step changes coefficients within its limit (in the operands' ppm
and mV, the model's form, log entry 53) and else holds them; a telemetry frame has 64 bytes with its CRC. (R385, R440, R448, R449, R450,
R451, R453, R454, R458) -/
def Obligations.FlashAndServices : Prop :=
  ∀ (m : Master) (s : State),
    (∀ part : BitVec 4, s.MayWrite m .nfm R.NFM_CMD → s.isHalted .nfm = false →
      ∀ x ∈ [(Instr.nfmRead m part, 1), (.nfmWrite m part, 2), (.trim m part, 3), (.readBill m part, 4)],
        let arg := s.rd F.NFM_ARG_ARG
        let p := part.toNat
        let pages := if p = 0 then 16384 else if p = 7 then 1048576 else 256
        let r := if s.bit F.NFM_RES_PEND = true ∨ s.runs .nfm = false ∨ s.shed = true then 1
          else if x.2 = 4 then (if p = 5 then 0 else 2)
          else if p ≠ 0 ∧ p ≠ 1 ∧ p ≠ 6 ∧ p ≠ 7 then 2 else if pages ≤ arg then 3
          else if p = 1 ∧ 16 ≤ arg ∧ x.2 ≠ 1 then 2 else if x.2 = 2 ∧ s.nand.reserve < 288 then 1 else 0
        s.Yields x.1 fun t => t.nand = s.nand ∧ s.Spares t ∧ s.Within t .nfm ∧
          (r = 0 → t.nfm = some ⟨x.2, p, arg, s.rd64 R.NFM_BUF_LO R.NFM_BUF_HI⟩ ∧ t.bit F.NFM_RES_PEND = true) ∧
          (r ≠ 0 → t.nfm = s.nfm ∧ t.rd F.NFM_RES_RESULT = r ∧ t.Caused .nfm 2 ∧ t.Erred .nfm 0x80 r)) ∧
    (s.Live .nfm →
      (∀ fate spare, s.nfm = none ∨ s.shed = true → exec (.nfmCmdDone fate spare) s = .next s) ∧
      (∀ (spare : BitVec 16) (j : NfmJob), s.nfm = some j → s.shed = false →
        let u := { s with nfm := none }
        let page (n : Nand) (k : Nat) : Option (List Byte) := Sparse.get n.pages none k
        let key := j.part * 2 ^ 20 + j.arg
        let left := match s.nand.spare with | some k => min k spare.toNat | none => spare.toNat
        let ends (fate : NandFate) (r : Nat) (p : State → Prop) : Prop := s.Yields (.nfmCmdDone fate spare) fun t => t.nfm = none ∧ t.bit F.NFM_RES_PEND = false ∧
          t.rd F.NFM_RES_RESULT = r ∧ t.Caused .nfm 2 ∧ t.rd F.NFM_HEALTH_SPARE = left ∧ (left < 64 → s.spareLow = false → t.Caused .nfm 3) ∧
          t.pending = s.pending ∧ p t
        let sameNand (t : State) : Prop := t.nand = { s.nand with spare := some left, reads := t.nand.reads }
        (∀ b, j.op = 1 → page s.nand key = some b → ends .ok (if (u.dmaWrite 14 j.buf b).2 = true then 0 else 6) fun t =>
          t.mem = (u.dmaWrite 14 j.buf b).1.mem ∧ sameNand t) ∧
        (j.op = 1 → ends .uncorr 5 fun t => t.mem = s.mem ∧ sameNand t ∧ t.Caused .nfm 4 ∧ t.Erred .nfm 0x81 0) ∧
        (∀ b, j.op = 2 → left ≠ 0 → (u.dmaRead 14 j.buf 16384).2 = some b → ends .ok 0 fun t => t.mem = s.mem ∧ page t.nand key = some b ∧
          ∀ k, k ≠ key → page t.nand k = page s.nand k) ∧
        (j.op = 2 → left ≠ 0 → (u.dmaRead 14 j.buf 16384).2 = none → ends .ok 6 fun t => t.mem = s.mem ∧ sameNand t) ∧
        (j.op = 2 → left = 0 → ∀ fate, ends fate 7 fun t => t.mem = s.mem ∧ sameNand t ∧ t.Erred .nfm 0x82 0) ∧
        (j.op = 2 → left ≠ 0 → ends .busy 1 fun t => t.mem = s.mem ∧ sameNand t) ∧
        (j.op = 3 → ∀ fate, ends fate 0 fun t => t.mem = s.mem ∧ page t.nand key = none ∧ ∀ k, k ≠ key → page t.nand k = page s.nand k) ∧
        (j.op = 4 → (∀ b ∈ s.nand.bill, b.seq ≠ j.arg) → ∀ fate, ends fate 4 fun t => t.mem = s.mem ∧ sameNand t ∧ t.Erred .nfm 0x80 4)) ∧
      (∀ spare wear, (s.shed = true → exec (.nandCare spare wear) s = .next s) ∧
        (s.shed = false → (s.runs .bgs = false → s.Yields (.nandCare spare wear) fun t => t.nand = { s.nand with reserve := 288 } ∧ t.regs = s.regs ∧ s.Spares t) ∧
          (s.runs .bgs = true → s.Live .bgs → s.nand.spare = none → s.Yields (.nandCare spare wear) fun t =>
            t.nand = { s.nand with reserve := 288, spare := some spare.toNat } ∧ t.rd F.NFM_HEALTH_SPARE = spare.toNat ∧
            t.rd F.NFM_HEALTH_WEAR = wear.toNat ∧ s.Spares t)))) ∧
    (s.Live .bgs →
      (s.runs .bgs = false ∨ s.shed = true → (∀ a n ce ue, exec (.scrubBurst a n ce ue) s = .next s) ∧ exec .scrubShort s = .next s ∧
        (∀ ch off gain, exec (.truingStep ch off gain) s = .next s) ∧ ∀ x y, exec (.telemetry x y) s = .next s) ∧
      (s.runs .bgs = true → s.shed = false →
        (∀ (a n : Nat) (ce ue : List Nat),
          let b := a / 8 * 8
          let inR (w : Nat) : Prop := b ≤ w ∧ w < b + 8 * n ∧ (inDram w = true ∨ inSram w = true)
          (s.scrubDue b n = false → exec (.scrubBurst a n ce ue) s = .next s) ∧
          (s.scrubDue b n = true → s.Yields (.scrubBurst a n ce ue) fun t => t.mem = s.mem ∧ t.pending = s.pending ∧ (s.tandem = false → s.Spares t) ∧
            s.bgs.paidTo ≤ s.nowNs ∧ t.bgs.paidTo = s.nowNs + 8 * n * 1000000 / max 1 (s.rd F.BGS_BUDGET_SCRUB_KBS) ∧
            (inDram b = true → t.bgs.passS = s.bgs.passS) ∧ (inDram b = false → t.bgs.passD = s.bgs.passD) ∧
            t.bgs.scrubs = addScrub s.bgs.scrubs b (b + 8 * n) s.nowSec ∧ (t.cover ≤ 1000 → t.rd F.BGS_SCRUB_STAT_COVER = t.cover) ∧
            (∀ w, w ∈ t.ue ↔ w ∈ s.ue ∨ ∃ x ∈ ue, inR x ∧ w = x / 8 * 8) ∧
            (s.ue = [] → ue = [] → (∀ w ∈ ce, inR w ∧ inDram w = true) →
              t.rd F.MEM_ECC_DRAM_CORR = min 0xFFFF (s.rd F.MEM_ECC_DRAM_CORR + ce.length)) ∧
            ((∃ w ∈ s.ue, inR w) → t.Caused .mem 2 ∧ t.Erred .mem 0x80 0))) ∧
        (s.nowSec % 3600 = 0 → s.cover < 1000 → s.Yields .scrubShort fun t => t.Caused .bgs 4 ∧ t.Erred .bgs 0x81 0 ∧ t.mem = s.mem ∧
          t.pending = s.pending ∧ (s.tandem = false → s.Spares t)) ∧
        (s.nowSec % 3600 ≠ 0 ∨ (1000 ≤ s.cover ∧ s.tandem = false) → exec .scrubShort s = .next s) ∧
        (∀ (ch : Fin 48) (off gain : Int),
          let limit := if ch.val < 16 then off.natAbs ≤ 2000 ∧ gain.natAbs ≤ 5000 else if ch.val < 24 then off.natAbs ≤ 500 else off.natAbs ≤ 300
          let old : Int × Int := Sparse.get s.coef (0, 0) ch
          (s.trueDue ch = false → exec (.truingStep ch off gain) s = .next s) ∧
          (s.trueDue ch = true → limit → s.Yields (.truingStep ch off gain) fun t => Sparse.get t.coefNew (0, 0) ch.val = (old.1 + off, old.2 + gain) ∧ t.coef = s.coef ∧
            ch.val ∉ t.trueHeld ∧ (∀ k, k ≠ ch.val → (k ∈ t.trueHeld ↔ k ∈ s.trueHeld)) ∧ s.Spares t ∧ s.Within t .bgs) ∧
          (s.trueDue ch = true → ¬limit → s.Yields (.truingStep ch off gain) fun t => t.coefNew = s.coefNew ∧ t.coef = s.coef ∧ ch.val ∈ t.trueHeld ∧
            t.Caused .bgs 3 ∧
            t.Erred .bgs 0x80 ch.val ∧ (ch.val < 16 → t.bit F.BGS_TRUE_STAT_METER = true) ∧ s.Spares t ∧ s.Within t .bgs)) ∧
        (∀ temp util : BitVec 16,
          (s.nowSec = s.bgs.telSec → exec (.telemetry temp util) s = .next s) ∧
          (s.nowSec ≠ s.bgs.telSec →
            let seq := (s.bgs.telSeq + 1) % 2 ^ 32
            let f := s.telFrame seq temp util
            let n := s.rd F.BGS_TEL_BASE_LO_LOG2N
            let u := { s with bgs := { s.bgs with telSec := s.nowSec, telSeq := seq, ce := 0, ue := 0, faults := 0, timeouts := 0 },
                                  fab := { s.fab with peak := s.inFlight } }
            let w := u.dmaWrite 15 (s.rd F.BGS_TEL_BASE_LO_BASE * 2 ^ 12 + s.rd F.BGS_TEL_BASE_HI_BASE * 2 ^ 32 + 64 * (seq % 2 ^ n)) f
            f.length = 64 ∧ leAt f 0 4 = seq ∧ leAt f 0x10 2 = temp.toNat ∧ leAt f 0x3C 4 = (crc32 (f.take 60)).toNat ∧
            (4 ≤ n → n ≤ 12 → s.Yields (.telemetry temp util) fun t => t.mem = w.1.mem ∧ t.bgs.telSeq = seq ∧ t.bgs.telSec = s.nowSec ∧
              t.pending = s.pending ∧ (w.2 = true → t.rd F.BGS_TEL_SEQ_SEQ = seq ∧ t.Caused .bgs 2) ∧
                (w.2 = false → t.rd F.BGS_TEL_SEQ_SEQ = s.rd F.BGS_TEL_SEQ_SEQ))))))

/-- Each request is refused with the lowest reason that applies, or taken: RUN ends NAP, NAP begins or is aborted by a wake bit, STANDBY
and HIBERNATE start to quiesce, OFF takes power from all but AON; quiesce ends saved, times out or reaches the commit point, which
latches TB2, keeps AON's registers and memory, and DRAM in STANDBY only (memory where no solver job had to end). (R460, R461, R462,
R463, R465, R466, R470, R471, R476, R478) -/
def Obligations.PowerEntry : Prop :=
  ∀ (m : Master) (s : State),
    (s.MayWrite m .pwr R.PWR_SLEEP_CMD → s.isHalted .pwr = false →
      let reason (tgt : Nat) : Nat :=
        if (tgt = 2 ∨ tgt = 3) ∧ (s.mastering = true ∨ (s.tandem = true ∧ 1 ≤ s.tdmState ∧ s.tdmState ≤ 3)) then 1
        else if (tgt = 2 ∨ tgt = 3) ∧ ¬∃ n ∈ List.range 11, s.wakeEn n = true ∧ ¬(tgt = 3 ∧ n = 4) then 2
        else if s.pfw = true then 3 else if s.pwr.phase ≠ .none then 4 else if tgt = s.cur ∨ (tgt = 4 ∧ m ≠ .mon) then 5 else 0
      (∀ x ∈ [(Instr.run m, 0), (.nap m, 1), (.standby m, 2), (.hibernate m, 3), (.off m, 4)], reason x.2 ≠ 0 →
        s.Yields x.1 fun t => t.rd F.PWR_STATE_REASON = reason x.2 ∧ t.rd F.PWR_STATE_LAST = 3 ∧ t.Caused .pwr 3 ∧ t.Erred .pwr 0x80 (reason x.2) ∧
          t.cur = s.cur ∧ t.pwr = s.pwr ∧ s.Spares t ∧ s.Within t .pwr) ∧
      (reason 0 = 0 → s.Yields (.run m) fun t => t.cur = 0 ∧ t.domOff.getLsbD Domain.slv.idx = false ∧ t.domOff.getLsbD Domain.pnl.idx = false ∧
        t.pwr.resAt = s.tb2 ∧ s.Spares t ∧ t.rd F.PWR_STATE_WOKE_BY = s.wakeLatch ∧ ∀ a, blkAt a ∉ [some .slv, some .pnl, some .pwr] → t.regGet a = s.regGet a) ∧
      (reason 1 = 0 →
        (s.wakeLatch ≠ 0 → s.Yields (.nap m) fun t => t.rd F.PWR_STATE_LAST = 2 ∧ t.Caused .pwr 3 ∧ t.cur = s.cur ∧ t.pwr = s.pwr ∧ s.Spares t ∧ s.Within t .pwr) ∧
        (s.wakeLatch = 0 → s.bit F.PWR_CFG_NAP_SLV_OFF = false → s.bit F.PWR_CFG_NAP_PNL_OFF = true → s.Yields (.nap m) fun t =>
          t.cur = 1 ∧ t.rd F.PWR_STATE_LAST = 1 ∧ t.Caused .pwr 3 ∧ t.mem = s.mem ∧ t.pending = s.pending ∧
          (s.pnlState = 0 → t.domOff.getLsbD Domain.pnl.idx = true ∧ s.Spares t) ∧ (s.pnlState ≠ 0 → t.pnl.napOff = true ∧ t.domOff = s.domOff)) ∧
        (s.wakeLatch = 0 → s.bit F.PWR_CFG_NAP_PNL_OFF = false →
          (s.bit F.PWR_CFG_NAP_SLV_OFF = false → s.Yields (.nap m) fun t => t.cur = 1 ∧ t.rd F.PWR_STATE_LAST = 1 ∧ t.Caused .pwr 3 ∧ t.domOff = s.domOff ∧
            t.pwr.resAt = s.tb2 ∧ s.Spares t ∧ s.Within t .pwr) ∧
          (s.bit F.PWR_CFG_NAP_SLV_OFF = true → s.jobs = [] → s.Yields (.nap m) fun t => t.cur = 1 ∧ t.domOff.getLsbD Domain.slv.idx = true ∧
            (∀ a, t.byte a = if inTiles a = true then 0 else s.byte a) ∧ (∃ r ∈ t.pwr.save, r.blk = .slv) ∧
            ∀ a, blkAt a ≠ some .pwr → t.regGet a = if blkAt a = some .slv then regReset a else s.regGet a))) ∧
      (∀ x ∈ [(Instr.standby m, 2), (.hibernate m, 3)], reason x.2 = 0 →
        (s.wakeLatch ≠ 0 → s.Yields x.1 fun t => t.rd F.PWR_STATE_LAST = 2 ∧ t.Caused .pwr 3 ∧ t.cur = s.cur ∧ t.pwr = s.pwr ∧ s.Spares t) ∧
        (s.wakeLatch = 0 → s.jobs = [] → s.Yields x.1 fun t => t.cur = 5 ∧ t.pwr.phase = .quiesce ∧ t.pwr.tgt = x.2 ∧ t.pwr.from_ = s.cur ∧
          t.pwr.at_ = s.nowNs ∧ t.mem = s.mem ∧ t.pending = s.pending)) ∧
      (reason 4 = 0 → s.Yields (.off m) fun t => t.pwr.off = true ∧ t.domOff = 0x7F ∧ t.domIso = 0x7F ∧ t.pending = s.pending ∧
        (∀ a, inSram a = true ∨ inCadMem a = true ∨ inTiles a = true ∨ inDram a = true → t.byte a = 0) ∧
        (s.jobs = [] → ∀ a, inAon a = true → t.byte a = if s.bit F.PWR_VBAT_RET_HOLD = true then s.byte a else 0))) ∧
    (s.pwr.phase ≠ .quiesce → exec .quiesceEnd s = .next s ∧ exec .idleTimeout s = .next s) ∧
    (s.pwr.phase = .quiesce →
      ((∃ n : Fin 8, s.taskState n = 2) ∨ s.evr.flush ≠ none ∨ s.nfm ≠ none ∨ s.kst.job ≠ none ∨ s.pnlState = 1 ∨ s.pnlState = 3 ∨ s.pnl.offPend = true → exec .quiesceEnd s = .next s) ∧
      ((∀ n : Fin 8, s.taskState n ≠ 2) → s.evr.flush = none → s.nfm = none → s.kst.job = none → s.pnlState ≠ 1 → s.pnlState ≠ 3 → s.pnl.offPend = false →
        s.Yields .quiesceEnd fun t => t.pwr.phase = .saved ∧
          (s.en .mtr = false → s.en .fio = false → (∀ p : Fin 4, s.en (.can p) = false) → t.spk.quiet = true ∧ (s.jobs = [] → t.mem = s.mem) ∧
            t.pwr.tgt = s.pwr.tgt ∧
            t.pending = s.pending ∧ ∀ b, b.domain ≠ .aon → s.domOff.getLsbD b.domain.idx = false → ∃ r ∈ t.pwr.save, r.blk = b)) ∧
      (let due := s.pwr.at_ + 1000000 * max 1 (s.rd F.PWR_CFG_IDLE_MS)
      (s.nowNs < due → exec .idleTimeout s = .next s) ∧
      (due ≤ s.nowNs → s.Yields .idleTimeout fun t => t.rd F.PWR_STATE_LAST = 4 ∧ t.Caused .pwr 3 ∧ t.pwr = { s.account.pwr with phase := .none } ∧
        t.cur = s.pwr.from_ % 8 ∧ s.Spares t ∧ s.Within t .pwr))) ∧
    (s.pwr.phase ≠ .saved → exec .commitPoint s = .next s) ∧
    (s.pwr.phase = .saved → s.Yields .commitPoint fun t => t.pwr.phase = .asleep ∧ t.pwr.latchTb2 = s.tb2 ∧ t.pwr.tgt = s.pwr.tgt ∧ t.cur = s.pwr.tgt % 8 ∧
      t.domOff = 0x7F ∧ t.domIso = 0x7F ∧ t.pending = s.pending ∧ t.pwr.save = s.pwr.save ∧
      (s.jobs = [] → (∀ a, inAon a = true → t.byte a = s.byte a) ∧ ∀ a, inDram a = true → t.byte a = if s.pwr.tgt = 2 then s.byte a else 0) ∧
      (∀ a, inSram a = true ∨ inCadMem a = true ∨ inTiles a = true → t.byte a = 0) ∧
      (s.jobs = [] → s.evq = [] → ∀ a, aonReg a = true → a ≠ R.PWR_STATE → a ≠ R.BLK_STAT .pwr → t.regGet a = s.regGet a) ∧
      ∀ a, aonReg a = false → a ∉ [R.BLK_STAT .sys, R.BLK_STAT .evr, R.EVR_CLR_STAT, R.BLK_CFGSUM .pnl] → t.regGet a = regReset a)

/-- An enabled source sets its latch; it ends NAP with the domains it had switched off, aborts an entry (one from NAP to RUN), or starts
the exit from a sleep in which it works; pattern, DI, TC, lane, arbiter and CAN0 matches act as their source; the exit powers every
domain, carries TB2 on by the RTC's ticks or counts a gap, and resumes or boots with the cause; the resume check reboots on a mismatch.
(R366, R460, R465, R466, R467, R468, R473, R476, R477) -/
def Obligations.PowerWake : Prop :=
  ∀ (s : State),
    (∀ n : Fin 11,
      (s.wakeEn n = false ∨ s.pwr.off = true → exec (.wakeLatch n) s = .next s) ∧
      (s.wakeEn n = true → s.pwr.off = false →
        let stays (t : State) : Prop := t.pwr = s.pwr ∧ t.cur = s.cur ∧ t.wakeLatch.testBit n = true ∧ s.Spares t ∧ s.Within t .pwr
        let naps (t : State) : Prop := t.cur = 0 ∧ t.Caused .pwr 2 ∧ t.domOff.getLsbD Domain.slv.idx = false ∧ t.domOff.getLsbD Domain.pnl.idx = false ∧
          t.rd F.PWR_STATE_WOKE_BY = t.wakeLatch
        let aborts (t : State) : Prop := t.pwr.phase = .none ∧ t.rd F.PWR_STATE_LAST = 2 ∧ t.Caused .pwr 3 ∧ t.wakeLatch.testBit n = true ∧
          t.pending = s.pending ∧ (s.pwr.from_ = 1 → naps t) ∧ (s.pwr.from_ ≠ 1 → t.cur = s.pwr.from_ % 8 ∧ t.domOff = s.domOff)
        let nearby (t : State) : Prop := s.Spares t ∧ ∀ a, blkAt a ∉ [some .slv, some .pnl, some .pwr] → t.regGet a = s.regGet a
        (s.pwr.phase = .none → s.cur ≠ 1 → s.Yields (.wakeLatch n) stays) ∧
        (s.pwr.phase = .none → s.cur = 1 → s.Yields (.wakeLatch n) fun t => naps t ∧ t.wakeLatch.testBit n = true ∧ nearby t ∧ t.pwr.phase = .none) ∧
        (s.pwr.phase = .quiesce → s.Yields (.wakeLatch n) fun t => aborts t ∧ nearby t ∧ (s.pwr.from_ ≠ 1 → s.Within t .pwr)) ∧
        (s.pwr.phase = .saved → s.en .mtr = false → s.en .fio = false → s.Yields (.wakeLatch n) fun t => aborts t ∧ nearby t ∧
          t.spk = { s.spk with quiet := false } ∧
          t.pnl.seq = false ∧ ∀ r ∈ t.pwr.save, r ∈ s.pwr.save ∧ s.domOff.getLsbD r.blk.domain.idx = true) ∧
        (s.pwr.phase = .saved → s.Yields (.wakeLatch n) fun t => t.pwr.phase = .none ∧ t.pending = s.pending) ∧
        (s.pwr.phase = .asleep → ¬(s.pwr.tgt = 3 ∧ n.val = 4) → s.Yields (.wakeLatch n) fun t => t.pwr = { s.pwr with phase := .exiting } ∧ t.cur = 6 ∧
          t.wakeLatch.testBit n = true ∧ s.Spares t ∧ s.Within t .pwr) ∧
        ((s.pwr.phase = .asleep ∧ s.pwr.tgt = 3 ∧ n.val = 4) ∨ s.pwr.phase = .exiting → s.Yields (.wakeLatch n) stays))) ∧
    (let acts (i : Instr) (n : Fin 11) : Prop := ∃ t, exec i s = .next t ∧ exec (.wakeLatch n) s = .next t
    (∀ (f : EthFrame),
      let hit := f.fcs = true ∧ ¬(s.pwr.phase = .asleep ∧ s.pwr.tgt = 3) ∧ ∀ i < 64, (s.rd64 R.PWR_PAT_MASK_LO R.PWR_PAT_MASK_HI).testBit i = true →
        (((ethBytes f).take 64).getD i 0).toNat = (s.regGet (R.PWR_PATk (i / 4))).toNat / 2 ^ (8 * (i % 4)) % 256
      (hit → acts (.patternA f) 4) ∧ (¬hit → exec (.patternA f) s = .next s)) ∧
    (∀ (n : Fin 24) (rise : Bool),
      let hit := (s.pwr.phase ≠ .none ∨ s.cur = 1) ∧ s.uv 0 = false ∧ (s.rd F.PWR_DI_WAKE_MASK).testBit n = true ∧
        s.bit (if rise = true then F.PWR_DI_WAKE_RISE else F.PWR_DI_WAKE_FALL) = true
      (hit → acts (.wakeDi n rise) 6) ∧ (¬hit → exec (.wakeDi n rise) s = .next s)) ∧
    (∀ (n : Fin 4) (rise : Bool),
      let hit := (s.pwr.phase ≠ .none ∨ s.cur = 1) ∧ (s.rd F.PWR_TC_WAKE_MASK).testBit n = true ∧
        s.bit (if rise = true then F.PWR_TC_WAKE_RISE else F.PWR_TC_WAKE_FALL) = true
      (hit → acts (.wakeTc n rise) 9) ∧ (¬hit → exec (.wakeTc n rise) s = .next s)) ∧
    (∀ lane : Fin 4, acts (.wakeLink lane) ⟨lane.val, by omega⟩) ∧ (∀ line, acts (.wakeArb line) 10)) ∧
    (let runs := s.pwr.off = false ∧ s.domOff.getLsbD Domain.fld.idx = true ∧ s.bit (F.CAN_WK_CFG_EN 0) = true
    let errs := s.rd (F.CAN_WK_STAT_ERRCNT 0)
    let woken (i : Instr) (n : Nat) (byErr : Bool) : Prop :=
      let u := ((s.wr (F.CAN_WK_STAT_ERRCNT 0) n).wrB (F.CAN_WK_STAT_BY_ERR 0) byErr).wrB (F.CAN_WK_STAT_WOKE 0) true
      (∃ t, exec i s = .next t ∧ exec (.wakeLatch 5) u = .next t) ∧
      (s.wakeEn 5 = false ∨ s.pwr.phase = .asleep ∨ s.pwr.phase = .exiting → s.Yields i fun t => t.bit (F.CAN_WK_STAT_WOKE 0) = true ∧
        t.bit (F.CAN_WK_STAT_BY_ERR 0) = byErr ∧ t.rd (F.CAN_WK_STAT_ERRCNT 0) = n ∧ s.Spares t ∧
        (s.wakeEn 5 = true → t.wakeLatch.testBit 5 = true ∧ t.pwr.phase = .exiting) ∧ (s.wakeEn 5 = false → t.pwr = s.pwr))
    let counts (i : Instr) (n : Nat) : Prop := s.Yields i fun t => t.rd (F.CAN_WK_STAT_ERRCNT 0) = n ∧ t.pwr = s.pwr ∧ s.Spares t ∧
      ∀ a, a ≠ R.CAN_WK_STAT 0 → t.regGet a = s.regGet a
    (runs → exec .canWakeStart s = .next { s with canRc := true }) ∧ (¬runs → exec .canWakeStart s = .next s) ∧
    exec .canWakeIdle s = .next { s with canRc := false } ∧
    (∀ f, ¬runs ∨ s.canRc = false → exec (.canWakeFrame f) s = .next s) ∧
    (runs → s.canRc = true →
      (errs < 31 → counts (.canWakeFrame none) (errs + 1)) ∧ (32 ≤ errs → counts (.canWakeFrame none) 32) ∧
      (errs = 31 → woken (.canWakeFrame none) 32 true) ∧
      (∀ f, canFdf f.idw = true → exec (.canWakeFrame (some f)) s = .next s) ∧
      (∀ f : CanFrame, canFdf f.idw = false →
        let word (k : Nat) : Nat := (leAt (f.data ++ List.replicate 8 0) (4 * k) 4)
        let hit := canIde f.idw = s.bit (F.CAN_WK_CFG_IDE 0) ∧
          (∀ i < 29, (s.regGet (R.CAN_WK_IDMASK 0)).getLsbD i = true → f.idw.getLsbD i = (s.regGet (R.CAN_WK_ID 0)).getLsbD i) ∧
          (s.bit (F.CAN_WK_CFG_DLC_MATCH 0) = true → f.dlc.toNat = s.rd (F.CAN_WK_CFG_DLC 0)) ∧
          ∀ k < 2, ∀ i < 32, (s.regGet (R.CAN_WK_DMASKj 0 k)).getLsbD i = true → (s.regGet (R.CAN_WK_DATAj 0 k)).getLsbD i = (word k).testBit i
        (¬hit → counts (.canWakeFrame (some f)) (errs - 1)) ∧ (hit → woken (.canWakeFrame (some f)) (errs - 1) false)))) ∧
    (∀ (latch ticks : Nat) (k : Option (Fin 4)),
      let t := s.freewheel latch ticks k
      let n := if s.pwr.rtcBad = true then 0 else ticks
      t.tb2 = tbWrap (latch + n * unitsPerTick) ∧ t.rd F.PWR_FW_TICKS_LO_TICKS = n % 2 ^ 32 ∧ t.bit F.PWR_STATE_TIME_GAP = s.pwr.rtcBad ∧ t.pwr.rtcBad = false ∧
        (s.pwr.rtcBad = true → t.rd F.PWR_GAP_CNT_COUNT = satInc 0xFFFF (s.rd F.PWR_GAP_CNT_COUNT) ∧ t.Caused .pwr 4)) ∧
    (s.pwr.phase ≠ .exiting → ∀ ticks e bad, exec (.exitRelease ticks e bad) s = .next s) ∧
    (s.pwr.phase = .exiting → ∀ (ticks : BitVec 48) (e : Bool) (bad : List Blk),
      let up (t : State) : Prop := t.domOff = 0 ∧ t.domIso = 0 ∧ t.pwr.phase = .none ∧ t.pending = s.pending ∧
        t.tb2 = tbWrap (s.pwr.latchTb2 + (if s.pwr.rtcBad = true then 0 else ticks.toNat) * unitsPerTick)
      (s.pwr.tgt = 2 → s.Yields (.exitRelease ticks e bad) fun t => up t ∧ t.pwr.resume = true) ∧
      (s.pwr.tgt ≠ 2 → s.Yields (.exitRelease ticks e bad) fun t => up t ∧ t.sys.boot = true ∧ t.rd F.SYS_RST_CAUSE_CAUSE = 2 ∧ t.mem = s.mem ∧ t.cur = 0 ∧
        t.rd F.PWR_STATE_LAST = 1 ∧ t.rd F.PWR_STATE_WOKE_BY = s.wakeLatch ∧ t.Caused .pwr 2 ∧ t.Caused .pwr 3)) ∧
    (s.pwr.resume = false → ∀ others, exec (.resumeCheck others) s = .next s) ∧
    (s.pwr.resume = true → ∀ others : Bool,
      let ok := others = true ∧ ∀ a n h, s.pwr.stage = some (a, n, h) → (sha3 (s.bytes a n)).toNat = h
      (ok → s.Yields (.resumeCheck others) fun t => t.pwr = { s.pwr with resume := false } ∧ s.Spares t ∧
        (s.pwr.meas = [] → t.regs = s.regs) ∧ ∀ x, s.pwr.meas = [x] → t.regGet x.1 = x.2 ∧ ∀ a, a ≠ x.1 → t.regGet a = s.regGet a) ∧
      (¬ok → s.Yields (.resumeCheck others) fun t => t.sys.boot = true ∧ t.rd F.SYS_RST_CAUSE_CAUSE = 4 ∧ t.pwr.resume = false ∧ t.pwr.phase = .none ∧
        t.cur = 0 ∧ t.pending = s.pending ∧ ∀ a, inAon a = true ∨ inSram a = true ∨ inDram a = true → t.byte a = s.byte a))

/-- A counted second advances a valid calendar by one second, the wrap and a stopped crystal or a brown-out lose its validity; an alarm
fires when all compared fields match; HALT stops and HALT = 0 checks the date and makes the time valid, RTC_SEC restarts the second, bad
digits, other masters and writes while counting are refused; a read of RTC_SEC freezes a set, RTC_YEAR or one second releases it; the
periodic counter fires. (R480, R481, R482, R483, R484, R486, R487, R489, R490, R491, R493) -/
def Obligations.RealTimeClock : Prop :=
  (∀ c : Cal, c.sec ≤ 59 → c.min ≤ 59 → c.hour ≤ 23 → 1 ≤ c.mon → c.mon ≤ 12 → 1 ≤ c.day → c.day ≤ monthDays c.year c.mon → c.year ≤ 199 → c.wday ≤ 7 →
    (c.next.2 = false → c.next.1.secs = c.secs + 1) ∧
    (c.next.2 = true → c.year = 199 ∧ c.mon = 12 ∧ c.day = 31 ∧ c.next.1 = { year := 0, mon := 1, day := 1, hour := 0, min := 0, sec := 0, wday := c.next.1.wday }) ∧
    ∀ s : State, s.cal = c → s.rtcHalt = false → s.oscStop = false → s.isHalted .rtc = false →
      let n := c.next.1
      let hit := s.bit F.RTC_ALM_DATE_ARM = true ∧ (∀ h, s.rtc.hold = some h → h < n.secs) ∧
        ∀ x ∈ [(0, F.RTC_ALM_TIME_SEC, toBcd n.sec), (1, F.RTC_ALM_TIME_MIN, toBcd n.min), (2, F.RTC_ALM_TIME_HOUR, toBcd n.hour),
          (3, F.RTC_ALM_DATE_DAY, toBcd n.day), (4, F.RTC_ALM_DATE_MON, toBcd n.mon), (5, F.RTC_ALM_DATE_WDAY, n.wday)],
          (s.rd F.RTC_ALM_DATE_MASK).testBit x.1 = true → s.rd x.2.1 = x.2.2
      s.rtcLasted (s.rtc.secAt.map (· / unitsPerNs)) (10 ^ 9) = true → s.wakeEn 7 = false → s.Yields .rtcSecond fun t => t.cal = n ∧ s.Spares t ∧
        t.pwr = s.pwr ∧ (c.next.2 = true → t.bit (statFld .rtc 8) = true ∧ t.Caused .rtc 4) ∧
        (hit → t.bit F.RTC_ALM_STAT_FIRED = true ∧ t.Caused .rtc 2) ∧ (¬hit → t.regGet R.RTC_ALM_STAT = s.regGet R.RTC_ALM_STAT)) ∧
  ∀ (m : Master) (s : State), s.isHalted .rtc = false →
    let invalid (t : State) : Bool := t.bit (statFld .rtc 8)
    (s.rtcHalt = true ∨ s.oscStop = true ∨ s.rtcLasted (s.rtc.secAt.map (· / unitsPerNs)) (10 ^ 9) = false → exec .rtcSecond s = .next s) ∧
    (s.oscStop = true → exec .oscStop s = .next s) ∧
    (s.oscStop = false → s.Yields .oscStop fun t => t.oscStop = true ∧ invalid t = true ∧ t.pwr = { s.pwr with rtcBad := true } ∧ t.Caused .rtc 4 ∧ s.Spares t) ∧
    (s.Yields .oscResume fun t => t.oscStop = false ∧ invalid t = invalid s ∧ t.pwr = s.pwr ∧ s.Spares t ∧ s.Within t .rtc) ∧
    (s.Yields (.brownOut false) fun t => t.rtc.cell = true ∧ invalid t = true ∧ t.pwr = { s.pwr with rtcBad := true } ∧ t.Caused .rtc 4 ∧ s.Spares t) ∧
    (s.Yields (.brownOut true) fun t => t.rtc.cell = true ∧ invalid t = true ∧ t.pwr.rtcBad = true ∧ t.pending = s.pending ∧ (∀ r ∈ t.pwr.save, r ∈ s.pwr.save) ∧
      t.evr.buf.map (·.seq) = s.evr.buf.map (·.seq) ∧ (∀ a, inAon a = false → t.byte a = s.byte a) ∧ ∀ a, inAon a = true → t.byte a = s.byte a ∨ t.byte a = 0) ∧
    (s.MayWrite m .rtc R.RTC_CTL → ∀ sub : BitVec 15,
      (s.rtcHalt = true → s.Yields (.halt m sub) fun t => t.regs = s.regs ∧ t.rtc = s.rtc ∧ s.Spares t) ∧
      (s.rtcHalt = false → s.Yields (.halt m sub) fun t => t.rtcHalt = true ∧ t.bit (statFld .rtc 12) = true ∧ t.rd F.RTC_SUB_SUB = sub.toNat ∧ t.cal = s.cal ∧
        t.rtc = { s.rtc with old := (s.cal.secs, sub.toNat, s.cal.wday) } ∧ s.Spares t ∧ s.Within t .rtc) ∧
      (s.rtcHalt = false → s.Yields (.haltRelease m) fun t => t.regs = s.regs ∧ t.rtc = s.rtc ∧ s.Spares t) ∧
      (s.rtcHalt = true →
        let bad := s.cal.mon = 0 ∨ 12 < s.cal.mon ∨ s.cal.day = 0 ∨ monthDays s.cal.year s.cal.mon < s.cal.day
        (bad → s.Yields (.haltRelease m) fun t => t.rtcHalt = true ∧ t.cal = s.cal ∧ t.Erred .rtc 0x81 0 ∧ t.rtc = s.rtc ∧ s.Spares t ∧ s.Within t .rtc) ∧
        (¬bad → s.wakeEn 7 = false → s.Yields (.haltRelease m) fun t => t.rtcHalt = false ∧ t.bit (statFld .rtc 12) = false ∧ t.rd F.RTC_SUB_SUB = 0 ∧
          t.cal = s.cal ∧ invalid t = false ∧ t.bit (statFld .rtc 10) = false ∧ s.Spares t))) ∧
    (s.Answers .rtc →
      (∀ v sub, m ≠ .mon → s.Yields (.rtcSecWrite m v sub) fun t => t.Erred .rtc 5 ((R.RTC_SEC - Blk.rtc.base) / 4) ∧ t.cal = s.cal ∧ s.Spares t ∧ s.Within t .rtc) ∧
      (∀ v sub,
        let x := getBits v 0 7
        let ok := x % 16 < 10 ∧ x / 16 < 6
        (¬ok → s.Yields (.rtcSecWrite .mon v sub) fun t => t.Erred .rtc 0x80 ((R.RTC_SEC - Blk.rtc.base) / 4) ∧ t.cal = s.cal ∧ s.Spares t) ∧
        (ok → s.rtcHalt = true → s.Yields (.rtcSecWrite .mon v sub) fun t => t.rd F.RTC_SEC_SEC = x ∧ t.rtc = s.rtc ∧ s.Spares t ∧
          ∀ a, a ≠ R.RTC_SEC → t.regGet a = s.regGet a) ∧
        (ok → s.rtcHalt = false → s.wakeEn 7 = false → s.Yields (.rtcSecWrite .mon v sub) fun t => t.rd F.RTC_SEC_SEC = x ∧ t.rd F.RTC_SUB_SUB = 0 ∧
          t.cal = { s.cal with sec := ofBcd x } ∧ invalid t = false ∧ s.Spares t)) ∧
      (∀ sub : BitVec 15, s.rtc.sets[rtcSetOf m] = none → s.Yields (.rtcSecRead m sub) fun t => t.resp = ⟨s.regGet R.RTC_SEC, false⟩ ∧ t.regs = s.regs ∧ s.Spares t ∧
        t.rtc = { s.rtc with sets := s.rtc.sets.set (rtcSetOf m) (some ⟨s.rd F.RTC_SEC_SEC, s.regGet R.RTC_TIME, s.regGet R.RTC_DATE, s.rd F.RTC_YEAR_YEAR,
          if s.rtcHalt = true then s.rd F.RTC_SUB_SUB else sub.toNat, s.nowNs⟩) }) ∧
      (∀ (x : RtcSet) (sub : BitVec 15), s.rtc.sets[rtcSetOf m] = some x → s.Yields (.rtcSecRead m sub) fun t => t.resp = ⟨BitVec.ofNat 32 x.sec, false⟩ ∧
        t.rtc = s.rtc ∧ t.regs = s.regs ∧ s.Spares t) ∧
      (s.Yields (.rtcYearRead m) fun t => t.rtc = { s.rtc with sets := s.rtc.sets.set (rtcSetOf m) none } ∧ t.regs = s.regs ∧ s.Spares t ∧
        t.resp = (match s.rtc.sets[rtcSetOf m] with | none => ⟨s.regGet R.RTC_YEAR, false⟩ | some x => ⟨BitVec.ofNat 32 (x.year + 256), false⟩)) ∧
      (∀ v, (monOnlyReg R.RTC_PER = true → m = .mon) → s.Yields (.rtcPerWrite m v) fun t => t.rd F.RTC_PER_PER = v.toNat % 2 ^ 25 ∧ s.Spares t ∧
        t.rtc = { s.rtc with perAt := if s.tb2Runs = true then some s.nowNs else none } ∧ ∀ a, a ≠ R.RTC_PER → t.regGet a = s.regGet a)) ∧
    (let ended := s.rtcLasted (s.rtc.sets[rtcSetOf m].map (·.at_)) (10 ^ 9)
    (ended = true → exec (.rtcSetRelease m) s = .next { s with rtc := { s.rtc with sets := s.rtc.sets.set (rtcSetOf m) none } }) ∧
    (ended = false → exec (.rtcSetRelease m) s = .next s)) ∧
    (s.rd F.RTC_PER_PER = 0 ∨ s.oscStop = true ∨ s.rtcLasted s.rtc.perAt s.perNs = false → exec .periodic s = .next s) ∧
    (s.rd F.RTC_PER_PER ≠ 0 → s.oscStop = false → s.rtcLasted s.rtc.perAt s.perNs = true → s.wakeEn 8 = false →
      s.Yields .periodic fun t => t.bit F.RTC_ALM_STAT_PFIRED = true ∧ t.Caused .rtc 3 ∧
      t.pwr = s.pwr ∧ s.Spares t ∧ s.Within t .rtc) ∧
    (∀ mv : BitVec 16, (s.pwr.off = true ∨ s.pwr.lost = 3 ∨ s.lasted s.rtc.vbatAt (60 * 10 ^ 9) = false → exec (.vbatMeasure mv) s = .next s) ∧
      (s.pwr.off = false → s.pwr.lost ≠ 3 → s.lasted s.rtc.vbatAt (60 * 10 ^ 9) = true → s.Yields (.vbatMeasure mv) fun t => t.rd F.PWR_VBAT_MV = mv.toNat ∧
        (t.bit (statFld .rtc 11) = true ↔ mv.toNat < 2200) ∧ s.Spares t))

/-- A LINE has its header, planes and check word; ON, the timers, OFF and the discharge go through the steps of the power sequence;
requests of valid regions are pending, others refused; an update starts with the next region, sends its lines in order and ends after
its last; the always-on image is loaded with its CRC and refreshed while it holds; common settings commit at a period's end. (R494,
R495, R496, R497, R498, R501, R502, R503, R504, R505, R506, R508) -/
def Obligations.PanelDriver : Prop :=
  (∀ (y : Nat) (px : List Nat), 1 ≤ y → y ≤ 512 → (pnlLine y px).length = 2 + 3 * ((px.length + 15) / 16) ∧ (pnlLine y px).head? = some (0xA000 + (y - 1)) ∧
    (pnlLine y px).getLast? = some (crc16 ((pnlLine y px).dropLast.flatMap fun w => [BitVec.ofNat 8 (w / 256), BitVec.ofNat 8 w])).toNat) ∧
  ∀ (m : Master) (s : State),
    let keeps (t : State) : Prop := s.Spares t ∧ s.Within t .pnl
    (s.MayWrite m .pnl R.PNL_PWR_CMD →
      (s.pnlState ≠ 0 → s.Yields (.pnlOn m) fun t => t.Erred .pnl 0x84 0 ∧ t.pnl = s.pnl ∧ t.pnlState = s.pnlState ∧ keeps t) ∧
      (s.pnlState = 0 → s.Yields (.pnlOn m) fun t => t.pnlState = 1 ∧ t.pnl = { s.pnl with vdd := true, at_ := s.nowNs, tx := [] } ∧ keeps t) ∧
      (s.pnlState ≠ 2 → s.Yields (.pnlOff m) fun t => t.Erred .pnl 0x84 0 ∧ t.pnl = s.pnl ∧ t.pnlState = s.pnlState ∧ keeps t) ∧
      (s.pnlState = 2 → s.pnl.run ≠ none → s.en .pnl = true → s.Yields (.pnlOff m) fun t => t.pnl = { s.pnl with offPend := true } ∧ t.regs = s.regs ∧ keeps t) ∧
      (s.pnlState = 2 → s.pnl.run = none ∨ s.en .pnl = false → s.Yields (.pnlOff m) fun t => t.pnlState = 3 ∧ keeps t ∧
        t.pnl = { s.pnl with
          run := none, pend := 0, aonDue := false, offPend := false, at_ := s.nowNs, va := false, dsch := true, com := false, tx := [pnlClear] })) ∧
    (∀ regions : BitVec 8, s.MayWrite m .pnl R.PNL_UPD_CMD → s.isHalted .pnl = false →
      let valid (r : Nat) : Prop :=
        let f := s.rdShadow (F.PNL_REGr_CFG_FIRST r)
        let n := s.rdShadow (F.PNL_REGr_CFG_NLINES r)
        s.bit (F.PNL_REGr_CFG_EN r) = true ∧ s.pnlState = 2 ∧ f ≠ 0 ∧ f + n ≤ s.pnlH + 1 ∧ s.rdShadow (F.PNL_REGr_STRIDE_STRIDE r) % 64 = 0 ∧
          4 * s.pnlW ≤ s.rdShadow (F.PNL_REGr_STRIDE_STRIDE r) ∧ ¬(s.aonEn = true ∧ f < s.aonFirst + s.aonLines ∧ s.aonFirst < f + n)
      s.Yields (.updCmd m regions) fun t => keeps t ∧ t.pnl.run = s.pnl.run ∧ t.pnlState = s.pnlState ∧
        (∀ r < 8, t.pnl.pend.getLsbD r = true ↔ s.pnl.pend.getLsbD r = true ∨ (regions.getLsbD r = true ∧ valid r)) ∧
        (∀ r < 8, regions = BitVec.ofNat 8 (2 ^ r) → (¬valid r → t.Erred .pnl 0x82 r) ∧
          (valid r → s.pnl.pend.getLsbD r = true → t.Caused .pnl 3 ∧ t.rd F.PNL_UPD_CNT_REPLACED = satInc 0xFFFF (s.rd F.PNL_UPD_CNT_REPLACED)))) ∧
    (s.MayWrite m .pnl R.PNL_AON_CMD →
      let r := s.dmaRead 16 (s.rd64 R.PNL_AON_SRC_LO R.PNL_AON_SRC_HI) (s.aonLines * s.aonStride)
      (s.aonLines = 0 ∨ 48 < s.aonLines ∨ r.2 = none → s.Yields (.aonLoad m) fun t => t.Erred .pnl 0x83 0 ∧ t.pnl = s.pnl ∧ s.Spares t) ∧
      (∀ b, 1 ≤ s.aonLines → s.aonLines ≤ 48 → r.2 = some b → s.Yields (.aonLoad m) fun t => t.pnl = { s.pnl with load := some b } ∧ s.Spares t)) ∧
    (s.Live .pnl →
      (let due := s.pnlState = 1 ∧ s.pnl.va = false ∧ s.pnl.at_ + 1000000 * max 1 (s.rd F.PNL_PWR_CFG_T_VDD) ≤ s.nowNs
      (due → exec .pnlVddTimer s = .next { s with pnl := { s.pnl with va := true, at_ := s.nowNs } }) ∧ (¬due → exec .pnlVddTimer s = .next s)) ∧
      (let due := s.pnlState = 1 ∧ s.pnl.va = true ∧ s.pnl.at_ + 1000000 * max 1 (s.rd F.PNL_PWR_CFG_T_VA) ≤ s.nowNs
      (¬due → ∀ bad, exec (.pnlVaTimer bad) s = .next s) ∧
      (due → (∀ bad, s.Yields (.pnlVaTimer bad) fun t => t.pnlState = 2 ∧ t.pnl.com = true ∧ t.pnl.tx = [pnlClear] ∧ t.bit F.PNL_PWR_STAT_FULL_PEND = true ∧
          t.Caused .pnl 4 ∧ keeps t) ∧
        s.Yields (.pnlVaTimer true) fun t => t.bit F.PNL_PWR_STAT_UNIF_OFF = true ∧ t.pnl.unif = none ∧ t.Erred .pnl 0x81 0 ∧ t.Caused .pnl 6)) ∧
      (s.pnlState ≠ 3 ∨ s.nowNs < s.pnl.at_ + 20000000 → exec .pnlDischargeEnd s = .next s) ∧
      (s.pnlState = 3 → s.pnl.at_ + 20000000 ≤ s.nowNs → s.pnl.napOff = false → s.Yields .pnlDischargeEnd fun t => t.pnlState = 0 ∧ t.Caused .pnl 4 ∧
        t.pnl = { s.pnl with dsch := false, vdd := false, tx := [] } ∧ keeps t) ∧
      (s.pnl.com = false ∨ s.nowNs < s.pnl.comAt + 2 * s.comHalf → exec .commonPeriodEnd s = .next s) ∧
      (s.pnl.com = true → s.pnl.comAt + 2 * s.comHalf ≤ s.nowNs → s.Yields .commonPeriodEnd fun t => t.pnl = { s.pnl with comAt := s.nowNs } ∧
        s.Spares t ∧ (t.shadows = s.shadows.filter fun x => x.1.addr != R.PNL_COM) ∧
        (∀ v < 64, s.shadows = [(F.PNL_COM_HZ, v)] → t.rd F.PNL_COM_HZ = v)) ∧
      (let free := s.runs .pnl = true ∧ s.pnlState = 2 ∧ s.pnl.run = none ∧ s.pnl.offPend = false
      (¬free → exec .updateStart s = .next s) ∧
      (free → s.pnl.aonDue = true → s.aonEn = true → s.aonOk = true → exec .updateStart s = .next { s with pnl := { s.pnl with
        aonDue := false, lineAt := max s.pnl.lineAt s.nowNs, run := some ⟨none, (upto s.aonLines).map fun k => (s.aonFirst + k, .aon)⟩ } }) ∧
      (free → s.pnl.aonDue = false → s.pnl.pend = 0 → exec .updateStart s = .next s) ∧
      (∀ r, free → s.pnl.aonDue = false → s.nextRegion = some r → s.shadows = [] → s.bit (F.BLK_CTRL_FREEZE .pnl) = false → s.regionOk s.rd r = true →
        let first := s.rd (F.PNL_REGr_CFG_FIRST r)
        let lines := if s.bit F.PNL_PWR_STAT_FULL_PEND = true then (upto s.pnlH).map (· + 1) else (upto (s.rd (F.PNL_REGr_CFG_NLINES r))).map (first + ·)
        s.Yields .updateStart fun t => t.pnl.last = r ∧ t.pnl.pend.getLsbD r = false ∧ t.bit F.PNL_PWR_STAT_FULL_PEND = false ∧ s.Spares t ∧
          (t.pnl.run = none ∨ ∃ l, t.pnl.run = some ⟨some r, l⟩ ∧ l.map Prod.fst <+: lines))) ∧
      ((s.pnl.run = none ∨ s.en .pnl = false ∨ s.nowNs < s.pnl.lineAt + s.lineNs) → exec .lineDone s = .next s) ∧
      (∀ r y src rest, s.en .pnl = true → s.pnl.lineAt + s.lineNs ≤ s.nowNs → s.pnl.run = some ⟨r, (y, src) :: rest⟩ →
        s.Yields .lineDone fun t => t.pnl.tx.head? = some (s.lineWords y src) ∧ keeps t ∧
          (s.pnl.offPend = true → t.pnlState = 3 ∧ t.pnl.pend = 0 ∧ t.pnl.run = none) ∧
          (s.pnl.offPend = false → rest = [] → t.pnl.run = none ∧ (r ≠ none → t.Caused .pnl 2 ∧ t.rd F.PNL_UPD_CNT_DONE = satInc 0xFFFF (s.rd F.PNL_UPD_CNT_DONE))) ∧
          (∀ y2 src2 l, s.pnl.offPend = false → rest = (y2, src2) :: l → src2 ≠ .fault → t.pnl.run = some ⟨r, rest⟩) ∧
          (∀ y2 l, s.pnl.offPend = false → rest = (y2, .fault) :: l → t.pnl.run = none ∧ t.Erred .pnl 0x80 (r.getD 0 % 2 ^ 14) ∧ t.Caused .pnl 7)) ∧
      (s.pnl.load = none → exec .aonLoadDone s = .next s) ∧
      (∀ b, s.pnl.load = some b → s.Yields .aonLoadDone fun t => t.mem = memPutList s.mem aonBase (b ++ leBytes 4 (crc32 b).toNat) ∧
        t.pnl = { s.pnl with load := none, aonDue := true } ∧ t.bit F.PNL_PWR_STAT_AON_VALID = true ∧ t.Caused .pnl 5 ∧ t.pending = s.pending ∧ s.Within t .pnl)) ∧
    (s.pnl.seq = false ∨ s.rd F.PNL_AON_TIME_REFRESH_S = 0 → exec .aonRefresh s = .next s) ∧
    (s.pnl.seq = true → s.rd F.PNL_AON_TIME_REFRESH_S ≠ 0 →
      (s.aonOk = false → s.Yields .aonRefresh fun t => t.pnl = { s.pnl with tx := [] } ∧ t.bit F.PNL_PWR_STAT_AON_VALID = false ∧ keeps t) ∧
      (s.aonOk = true → exec .aonRefresh s = .next { s with pnl := { s.pnl with tx := (upto s.aonLines).map fun k => s.lineWords (s.aonFirst + k) .aon } }))

/-- A transaction counts its bytes, direction and latency bin; at a window's end the counts of all ports go to the bank under the next
WSEQ and counting starts again, a record of 1,344 bytes waits for the ring or is dropped; the record is written to its slot or
abandoned; a user-mode read of the listed registers is served while USER_OK is 1, all else answered with an error. (R510, R511, R512,
R513, R514, R515, R516, R517) -/
def Obligations.PerformanceMonitor : Prop :=
  (∀ lat : Nat, (lat < 16 → latBin lat = 0) ∧ (∀ k, 1 ≤ k → k ≤ 14 → 2 ^ (k + 3) ≤ lat → lat < 2 ^ (k + 4) → latBin lat = k) ∧ (2 ^ 18 ≤ lat → latBin lat = 15)) ∧
  ∀ (s : State),
    (∀ (port : Fin 16) (wr : Bool) (bytes lat : Nat),
      (s.pfmRuns = false → s.pfmCount port wr bytes lat = s) ∧
      (s.pfmRuns = true →
        let c := s.pfm.cnt[port]
        let d := (s.pfmCount port wr bytes lat).pfm.cnt[port]
        (c.bytes + bytes < 2 ^ 64 → d.bytes = c.bytes + bytes) ∧ (wr = false → c.rd < 2 ^ 32 - 1 → d.rd = c.rd + 1 ∧ d.wr = c.wr) ∧
        (wr = true → c.wr < 2 ^ 32 - 1 → d.wr = c.wr + 1 ∧ d.rd = c.rd) ∧
        (∀ k : Fin 16, c.hist[k] < 2 ^ 32 - 1 → d.hist[k] = c.hist[k] + if k.val = latBin lat then 1 else 0) ∧
        ∀ p : Fin 16, p ≠ port → (s.pfmCount port wr bytes lat).pfm.cnt[p] = s.pfm.cnt[p])) ∧
    (∀ seq t, (s.pfmRecord seq t).length = 1344 ∧ leAt (s.pfmRecord seq t) 0 4 = 0x4D46505A ∧ leAt (s.pfmRecord seq t) 4 4 = seq % 2 ^ 32) ∧
    (s.Live .pfm →
      (let due := s.runs .pfm = true ∧ s.nowUs % s.pfmWin = 0 ∧ s.nowUs ≠ s.pfm.start
      (¬due → exec .pfmWindowEnd s = .next s) ∧
      (due → s.shadows = [] →
        let seq := (s.pfm.seq + 1) % 2 ^ 32
        let full := (s.rd F.PFM_RING_IDX_WR + 1) % s.pfmSlots = s.rd F.PFM_RING_IDX_RD % s.pfmSlots
        s.Yields .pfmWindowEnd fun t => t.pfm.seq = seq ∧ t.rd F.PFM_WSEQ_SEQ = seq ∧ t.rd F.PFM_WEND_LO_T_END = s.nowUs % 2 ^ 32 ∧
          t.rd F.PFM_WEND_HI_T_END = s.nowUs / 2 ^ 32 % 2 ^ 16 ∧ s.Spares t ∧
          (∀ p : Fin 16, (t.regGet (R.PFM_Pn_BYTES_LO p)).toNat = s.pfm.cnt[p].bytes % 2 ^ 32 ∧ (t.regGet (R.PFM_Pn_RD p)).toNat = s.pfm.cnt[p].rd % 2 ^ 32 ∧
            (t.regGet (R.PFM_Pn_WR p)).toNat = s.pfm.cnt[p].wr % 2 ^ 32 ∧ ∀ k : Fin 16, (t.regGet (R.PFM_Pn_HISTk p k)).toNat = s.pfm.cnt[p].hist[k] % 2 ^ 32) ∧
          t.pfm.cnt = Vector.replicate 16 {} ∧ t.pfm.start = s.nowUs ∧ t.pfm.partial_ = false ∧
          (s.bit F.PFM_CFG_DUMP_EN = false → t.pfm.rec_ = s.pfm.rec_) ∧
          (s.bit F.PFM_CFG_DUMP_EN = true → full ∨ s.pfm.rec_ ≠ none ∨ s.shed = true → t.pfm.rec_ = s.pfm.rec_ ∧ t.pfm.gap = true ∧ t.Caused .pfm 3 ∧
            t.rd F.PFM_DROP_COUNT = satInc 0xFFFF (s.rd F.PFM_DROP_COUNT)) ∧
          (s.bit F.PFM_CFG_DUMP_EN = true → ¬full → s.pfm.rec_ = none → s.shed = false → t.pfm.rec_ = some (s.pfmRecord seq s.nowUs) ∧ t.pfm.gap = false))) ∧
      (s.pfm.rec_ = none → exec .recDone s = .next s) ∧
      (∀ b, s.pfm.rec_ = some b →
        let i := s.rd F.PFM_RING_IDX_WR % s.pfmSlots
        let u := { s with pfm := { s.pfm with rec_ := none } }
        let w := u.dmaWrite 15 (s.rd F.PFM_RING_BASE_LO_BASE * 2 ^ 12 + s.rd F.PFM_RING_BASE_HI_BASE * 2 ^ 32 + 2048 * i) b
        s.Yields .recDone fun t => t.mem = w.1.mem ∧ t.pfm.rec_ = none ∧ t.pending = s.pending ∧
          (w.2 = true → t.pfm.gap = s.pfm.gap ∧ t.rd F.PFM_RING_IDX_WR = (i + 1) % s.pfmSlots ∧ t.Caused .pfm 2) ∧
          (w.2 = false → t.pfm.gap = true ∧ t.Erred .pfm 0x80 0 ∧ t.Caused .pfm 4 ∧ t.rd F.PFM_RING_IDX_WR = s.rd F.PFM_RING_IDX_WR))) ∧
    (∀ (core : Fin 4) (off : BitVec 16) (mapped : Bool),
      let o := off.toNat
      let open_ := mapped = true ∧ s.unreachable .pfm = false
      let listed := o = 0x58 ∨ o = 0x5C ∨ o = 0x60 ∨ (0x100 ≤ o ∧ o ≤ 0x8FF ∧ o % 4 = 0)
      (∀ v, open_ → s.Yields (.pfmUserAccess core off mapped (some v)) fun t => t.resp = ⟨0, true⟩ ∧ t.Erred .pfm 0x81 (o / 4 % 2 ^ 14) ∧
        s.Spares t ∧ s.Within t .pfm ∧ t.pfm = s.pfm) ∧
      (∀ w, ¬open_ → exec (.pfmUserAccess core off mapped w) s = .next { s with resp := ⟨0, true⟩ }) ∧
      (open_ → s.inSoftRst .pfm = false →
        (s.bit F.PFM_USER_CTRL_USER_OK = true ∧ listed →
          exec (.pfmUserAccess core off mapped none) s = .next { s with resp := ⟨s.regGet (Blk.pfm.base + o), false⟩ }) ∧
        (¬(s.bit F.PFM_USER_CTRL_USER_OK = true ∧ listed) → exec (.pfmUserAccess core off mapped none) s = .next { s with resp := ⟨0, true⟩ })))

/-- A device reset returns every block outside AON to its reset values, empties instance and tile memory and keeps what AON, OTP, NAND
and other memory hold, its cause shown; the release waits for power; a copy that is newer or alone is loaded, without one the role is by
default, without an image the device is in recovery; a recovery image is judged, run or refused; host cores are released. (R412, R425,
R426, R518, R519, R520, R521, R522, R523, R525, R526, R527) -/
def Obligations.ResetsAndBoot : Prop :=
  (∀ x y : Nat, x < 2 ^ 32 → y < 2 ^ 32 → (newerSeq x y = true ↔ 1 ≤ ((x : Int) - y) % 2 ^ 32 ∧ ((x : Int) - y) % 2 ^ 32 ≤ 2 ^ 31 - 1)) ∧
  ∀ (m : Master) (s : State),
    let resets (i : Instr) (cause : Nat) : Prop := s.Yields i fun t => t.sys.boot = true ∧ t.rd F.SYS_RST_CAUSE_CAUSE = 2 ^ cause ∧ t.cur = 0 ∧
      t.pwr.phase = .none ∧ t.pending = s.pending ∧ t.nand = s.tearTotals.nand ∧ t.kst.stepBits = s.kst.stepBits ∧ t.kst.banks = s.kst.banks ∧
      ((∀ e ∈ s.evq, e.aon = none) → t.evr.buf = s.evr.buf ∧ t.evr.seq = s.evr.seq) ∧ t.cad.forces = [] ∧ t.shadows = s.shadows.filter (fun x => aonReg x.1.addr) ∧
      (∀ a, t.byte a = if inCadMem a = true ∨ inTiles a = true then 0 else s.byte a) ∧
      (∀ a, aonReg a = true → a ≠ R.PWR_STATE → a ≠ R.BLK_STAT .pwr → (∀ e ∈ s.evq, e.aon = none) → t.regGet a = s.regGet a) ∧
      ∀ a, aonReg a = false → a ≠ R.BLK_STAT .sys → a ≠ R.BLK_STAT .evr → a ≠ R.EVR_CLR_STAT → a ≠ R.BLK_CFGSUM .pnl → a ≠ R.SYS_RST_CAUSE →
        t.regGet a = regReset a
    (∀ c : Fin 7, s.mayReset c = false → exec (.deviceReset c) s = .next s) ∧
    (∀ c : Fin 7, s.mayReset c = true → c ≠ 0 → c ≠ 1 → resets (.deviceReset c) c.val) ∧
    (exec (.deviceReset 0) s = exec .powerOn s) ∧
    (s.pwr.phase = .exiting → s.pwr.tgt = 3 → s.Yields (.deviceReset 1) fun t => t.sys.boot = true ∧
      t.cad.forces = (if s.pwr.save.any (fun r => r.blk == .cad) = true
      then s.pwr.forces else []) ∧ (∀ b, b.domain ≠ .aon → t.en b = false) ∧ t.pending = s.pending) ∧
    (s.MayWrite m .sys R.SYS_RST_CMD → resets (.sysRstCmd m) 3) ∧
    (s.coreOn = true → resets .lockstep 4) ∧ (s.coreOn = false → exec .lockstep s = .next s) ∧
    (s.coreOn = true → s.bit F.KST_LC_DBG_EN = true → resets .tapReset 5) ∧
    (s.coreOn = false ∨ s.bit F.KST_LC_DBG_EN = false → exec .tapReset s = .next s) ∧
    (s.Yields .powerOn fun t => t.sys.boot = true ∧ t.sys.carry = none ∧ t.tb2 = 0 ∧ t.rd F.SYS_RST_CAUSE_CAUSE = 1 ∧ t.regGet R.SYS_PF_LAST = 0 ∧
      t.rd F.PWR_GAP_CNT_COUNT = 0 ∧ t.pwr.res = Vector.replicate 4 0 ∧ t.pending = s.pending ∧ t.nand = s.tearTotals.nand) ∧
    (∀ ticks e bad, s.sys.boot = false ∨ s.pfw = true ∨ s.pwr.off = true → exec (.resetRelease ticks e bad) s = .next s) ∧
    (∀ ticks e bad, s.sys.boot = true → s.pfw = false → s.pwr.off = false → s.isHalted .sys = false →
      nandKey 1 0 ∈ bad → nandKey 1 8 ∈ bad → nandKey 0 0 ∈ bad → nandKey 0 8192 ∈ bad →
      s.Yields (.resetRelease ticks e bad) fun t => t.sys.boot = false ∧ t.rd F.SYS_ROLE_ROLE = 1 ∧ t.bit F.SYS_ROLE_DEFAULTED = true ∧
        t.bit (statFld .sys 8) = true ∧ t.Caused .sys 4 ∧ t.rd F.SYS_BOOT_STAT_CFG_A = 2 ∧ t.rd F.SYS_BOOT_STAT_CFG_B = 2 ∧ t.rd F.SYS_BOOT_STAT_RESULT0 = 6 ∧
        t.rd F.SYS_BOOT_STAT_RESULT1 = 6 ∧ t.bit F.SYS_BOOT_STAT_RECOVERY = true ∧ t.bit (statFld .sys 9) = true ∧ t.Erred .sys 0x80 6) ∧
    (∀ bad a, s.cfgCopy bad 0 = (0, a) → (s.cfgCopy bad 1).1 ≠ 0 ∨ newerSeq (leAt (s.cfgCopy bad 1).2 8 4) (leAt a 8 4) = false → leAt a 0x14 4 = 0 →
      let t := s.loadCfg bad
      t.rd F.SYS_ROLE_ROLE = leAt a 0x10 1 ∧ t.rd F.SYS_ROLE_NODE = leAt a 0x12 2 ∧ t.rd F.SYS_ROLE_TANDEM = leAt a 0x11 1 % 2 ∧
        t.rd F.TDM_CFG_MEMBER = leAt a 0x11 1 / 2 % 2 ∧ t.rd F.SYS_BOOT_STAT_CFG_SRC = 0 ∧ (t.regGet R.SYS_CFG_SEQ).toNat = leAt a 8 4 ∧ s.Spares t) ∧
    (∀ bad b, s.cfgCopy bad 1 = (0, b) → (s.cfgCopy bad 0).1 ≠ 0 → leAt b 0x14 4 = 0 →
      let t := s.loadCfg bad
      t.rd F.SYS_ROLE_ROLE = leAt b 0x10 1 ∧ t.rd F.SYS_ROLE_NODE = leAt b 0x12 2 ∧ t.rd F.SYS_BOOT_STAT_CFG_SRC = 1 ∧
        t.rd F.SYS_BOOT_STAT_CFG_A = (s.cfgCopy bad 0).1 ∧
        t.Erred .sys 0x81 0) ∧
    (s.MayWrite m .sys R.SYS_BOOT_CMD →
      (s.bit F.SYS_BOOT_STAT_RECOVERY = false → s.Yields (.sysBootCmd m) fun t => t.regs = s.regs ∧ s.Spares t) ∧
      (s.bit F.SYS_BOOT_STAT_RECOVERY = true →
        let h := s.bytes 0x1000000 256
        let n := leAt h 0x10 4
        let load := leAt h 0x18 8
        let payload := s.bytes 0x1000100 n
        let r := if imgHeaderOk h (2 ^ 22 - 256 - 2420 - 1312) = true then s.imgResult h payload (s.bytes (0x1000100 + n) 2420) (s.bytes (0x1000100 + n + 2420) 1312) else 1
        s.Yields (.sysBootCmd m) fun t => t.rd F.SYS_BOOT_STAT_RESULT_REC = r ∧ t.pending = s.pending ∧
          (r ≠ 0 → t.bit F.SYS_BOOT_STAT_RECOVERY = true ∧ t.Erred .sys 0x80 r ∧ s.Spares t) ∧
          (r = 0 → t.bit F.SYS_BOOT_STAT_RECOVERY = false ∧ t.bit (statFld .sys 9) = false ∧ t.kst.stage = leAt h 0xC 4 ∧
            t.pwr.stage = some (load, payload.length, leAt h 0x28 32) ∧
            t.mem = (if isMemory load = true ∧ isMemory (load + payload.length - 1) = true then memPutList s.mem load payload else s.mem)))) ∧
    (∀ v : BitVec 4, s.MayWrite m .sys R.SYS_HOST_GO → s.Yields (.sysHostGo m v) fun t => t.regGet R.SYS_HOST_GO = s.regGet R.SYS_HOST_GO ||| v.setWidth 32 ∧
      s.Spares t ∧ t.kst = { s.kst with staged := [] } ∧
      (∀ a, a ≠ R.SYS_HOST_GO → (s.kst.staged = [] ∨ ∀ k < 8, a ≠ R.KST_MEASr_k 1 k ∧ a ≠ R.KST_MEASr_k 2 k) → t.regGet a = s.regGet a) ∧
      (∀ h, s.kst.staged = [h] → ∃ r, (r = 1 ∨ r = 2) ∧ ∀ k < 8, (t.regGet (R.KST_MEASr_k r k)).toNat =
        (sha3 (s.regBytes (R.KST_MEASr_k r 0) 8 ++ leBytes 32 h)).toNat / 2 ^ (32 * k) % 2 ^ 32))

/-- Each feed event keeps its measurement and counts a loss or shows an overcurrent; the loss of the second feed asserts PFW and starts
the timeline, aborts an entry, or ends a sleep; its return deasserts PFW, goes on or resets; the hold-up ends when all saves are done or
VHOLD is cut, its outcome kept while every domain but AON loses power, or the device continues; the retained save starts between
instances, and its set is programmed, skipped or too large. (R387, R388, R475, R507, R528, R529, R530, R531, R532, R533, R535) -/
def Obligations.FeedsAndPowerFail : Prop :=
  ∀ (s : State) (f : Fin 2) (mv ma : BitVec 16),
    let measured (t : State) : Prop := t.rd (feedMv f) = mv.toNat ∧ t.rd (feedMa f) = ma.toNat
    let keeps (t : State) : Prop := measured t ∧ s.Spares t ∧ t.pfw = s.pfw ∧ t.sys = s.sys
    let both := setMark s.pwr.lost f.val true = 3 ∧ s.pfw = false
    let now := if s.tb2Runs = true then some s.nowNs else none
    let oc := ma.toNat > 13000 ∧ s.lasted s.pwr.ocAt[f] 1000000 = true
    let low := mv.toNat < 2550 ∧ s.lasted s.pwr.feedAt[f] 20000 = true
    let high := 2650 < mv.toNat ∧ s.lasted s.pwr.feedAt[f] 10000000 = true
    (s.bit (feedOc f) = true ∨ ¬oc → s.Yields (.feedOvercurrent f mv ma) fun t => keeps t ∧ t.bit (feedOc f) = s.bit (feedOc f) ∧ t.pwr = s.pwr ∧ s.Within t .pwr) ∧
    (s.bit (feedOc f) = false → oc → s.Yields (.feedOvercurrent f mv ma) fun t => keeps t ∧ t.bit (feedOc f) = true ∧ t.Caused .pwr 8 ∧
      t.pwr = { s.pwr with ocAt := s.pwr.ocAt.set f now }) ∧
    (s.bit (feedOc f) = true → ma.toNat ≤ 13000 → s.Yields (.feedOvercurrentEnd f mv ma) fun t => keeps t ∧ t.bit (feedOc f) = false ∧ t.Caused .pwr 8 ∧
      t.pwr = { s.pwr with ocAt := s.pwr.ocAt.set f now }) ∧
    (s.bit (feedOc f) = false ∨ 13000 < ma.toNat → s.Yields (.feedOvercurrentEnd f mv ma) fun t => keeps t ∧ t.bit (feedOc f) = s.bit (feedOc f) ∧
      t.pwr = s.pwr ∧ s.Within t .pwr) ∧
    (s.pwr.lost.getLsbD f.val = true ∨ ¬low → s.Yields (.feedLost f mv ma) fun t => keeps t ∧ t.pwr = s.pwr ∧ s.Within t .pwr) ∧
    (s.pwr.lost.getLsbD f.val = false → low →
      (¬both → s.Yields (.feedLost f mv ma) fun t => keeps t ∧ t.bit (feedOk f) = false ∧ t.rd (feedLoss f) = satInc 0xFF (s.rd (feedLoss f)) ∧ t.Caused .pwr 8 ∧
        t.pwr = { s.pwr with lost := setMark s.pwr.lost f.val true, feedAt := s.pwr.feedAt.set f now }) ∧
      (both → s.Yields (.feedLost f mv ma) fun t => t.pfw = true ∧ t.pending = s.pending ∧
        (s.pwr.off = true ∨ s.sys.ended = true → t.sys = s.sys ∧ t.mem = s.mem) ∧
        (s.pwr.off = false → s.sys.ended = false →
          (s.pwr.phase = .none ∨ s.pwr.phase = .quiesce ∨ s.pwr.phase = .saved → t.sys.pf = some s.nowNs ∧ t.bit F.SYS_PF_LAST_VALID = true ∧ t.shed = true ∧
            t.net.queues[2] = [] ∧ t.net.queues[3] = [] ∧ t.net.queues[4] = [] ∧ t.pwr.phase = .none ∧
            (s.pwr.phase ≠ .none → t.rd F.PWR_STATE_LAST = 5) ∧ (s.bit F.SYS_PF_CFG_RET_EN = false → t.sys.ret = false)) ∧
          (s.pwr.phase = .asleep ∨ s.pwr.phase = .exiting → t.pwr.phase = .none ∧ t.pwr.off = true ∧ t.sys.pf = s.sys.pf ∧
            (∀ a, inDram a = true → t.byte a = 0) ∧ ∀ a, inAon a = true → t.byte a = if s.bit F.PWR_VBAT_RET_HOLD = true then s.byte a else 0)))) ∧
    (s.bit (feedOk f) = true ∨ ¬high → s.Yields (.feedOk f mv ma) fun t => keeps t ∧ t.pwr = s.pwr ∧ s.Within t .pwr) ∧
    (s.bit (feedOk f) = false → high →
      (s.pfw = false → s.Yields (.feedOk f mv ma) fun t => keeps t ∧ t.bit (feedOk f) = true ∧ t.Caused .pwr 8 ∧
        t.pwr = { s.pwr with lost := setMark s.pwr.lost f.val false, feedAt := s.pwr.feedAt.set f now }) ∧
      (s.pfw = true → s.pwr.off = true → s.Yields (.feedOk f mv ma) fun t => measured t ∧ t.pfw = false ∧ t.sys = s.sys ∧ s.Spares t) ∧
      (s.pfw = true → s.pwr.off = false → s.sys.ended = true → s.Yields (.feedOk f mv ma) fun t => t.pfw = false ∧ t.sys.boot = true ∧
        t.rd F.SYS_RST_CAUSE_CAUSE = 64 ∧ t.pending = s.pending) ∧
      (s.pfw = true → s.pwr.off = false → s.sys.ended = false → s.Yields (.feedOk f mv ma) fun t => t.pfw = false ∧ t.bit (statFld .sys 11) = false ∧
        t.Caused .sys 2 ∧ t.pending = s.pending)) ∧
    (∀ ready, s.Yields (.holdReadyChange ready) fun t => t.bit (statFld .sys 10) = ready ∧ s.Spares t ∧ ∀ a, a ≠ R.BLK_STAT .sys → t.regGet a = s.regGet a) ∧
    (let ends (i : Instr) (cut : Bool) : Prop := s.Yields i fun t => t.domOff = 0x7F ∧ t.domIso = 0x7F ∧ t.sys.ended = true ∧ t.sys.pf = none ∧
        t.pending = s.pending ∧ t.bit F.SYS_PF_LAST_CUT = cut ∧ t.bit F.SYS_PF_LAST_MTR_OK = (s.mtrFrozen && s.mtr.committed) ∧
        t.bit F.SYS_PF_LAST_EVR_OK = (s.evr.flush.isNone && !s.evr.pf) ∧ t.bit F.SYS_PF_LAST_PNL_OK = (s.pnlState == 0) ∧
        (∀ t0, s.sys.pf = some t0 → t.rd F.SYS_PF_LAST_HOLD = min 65535 ((s.nowNs - t0) / 1000)) ∧
        (∀ a, inSram a = true ∨ inCadMem a = true ∨ inTiles a = true ∨ inDram a = true → t.byte a = 0) ∧
        ∀ a, inAon a = true → t.byte a = if s.bit F.PWR_VBAT_RET_HOLD = true then s.byte a else 0
    (s.sys.pf = none ∨ s.savesDone = false → exec .holdupEnd s = .next s) ∧
    (s.sys.pf ≠ none → s.savesDone = true → (s.pfw = true → ends .holdupEnd false) ∧
      (s.pfw = false → s.Yields .holdupEnd fun t => t.sys = { s.sys with pf := none } ∧ t.bit F.SYS_PF_LAST_RECOVERED = true ∧ t.Caused .sys 3 ∧
        s.Spares t ∧ s.Within t .sys)) ∧
    (s.sys.pf = none ∨ s.pfw = false → exec .vholdCut s = .next s) ∧ (s.sys.pf ≠ none → s.pfw = true → ends .vholdCut true)) ∧
    (let idle := ∀ c : Fin 16, (s.ctxAt c).busy = false
    (s.sys.pf = none ∨ s.sys.ret = false ∨ s.rd F.CAD_RET_STAT_STATE ≠ 1 → exec .pfRetSaveStart s = .next s) ∧
    (∀ t0, s.sys.pf = some t0 → ¬idle → s.nowNs < t0 + 100000 → exec .pfRetSaveStart s = .next s) ∧
    (∀ t0, s.sys.pf = some t0 → s.sys.ret = true → s.rd F.CAD_RET_STAT_STATE = 1 → idle → s.Yields .pfRetSaveStart fun t =>
      t.rd F.CAD_RET_STAT_STATE = 2 ∧ t.cad.suspended = true ∧ t.cad.retSince = s.nowNs ∧ t.mem = s.mem ∧ t.pending = s.pending) ∧
    (∀ t0, s.sys.pf = some t0 → s.sys.ret = true → s.rd F.CAD_RET_STAT_STATE = 1 → t0 + 100000 ≤ s.nowNs → s.Yields .pfRetSaveStart fun t =>
      t.rd F.CAD_RET_STAT_STATE = 2 ∧ t.cad.suspended = true)) ∧
    (let go := s.sys.ret = true ∧ s.sys.pf ≠ none ∧ s.rd F.CAD_RET_STAT_STATE = 0 ∧ s.evr.flush = none ∧ s.evr.pf = false
    let u := { s with sys := { s.sys with ret := false } }
    let r := u.dmaRead 0 u.retBase 64
    (¬go → exec .retSetCommit s = .next s) ∧ (go → s.rd F.CAD_RET_STAT_RESULT ≠ 0 → exec .retSetCommit s = .next u) ∧
    (go → s.rd F.CAD_RET_STAT_RESULT = 0 →
      (r.2 = none → s.Yields .retSetCommit fun t => t.nand = s.nand ∧ t.sys.ret = false ∧ s.Spares t ∧ t.rd F.SYS_PF_LAST_RET = s.rd F.SYS_PF_LAST_RET) ∧
      (∀ h, r.2 = some h → 3932160 < leAt h 8 4 → s.Yields .retSetCommit fun t => t.nand = s.nand ∧ t.sys.ret = false ∧ s.Spares t ∧ t.rd F.SYS_PF_LAST_RET = 2) ∧
      (∀ h b, r.2 = some h → leAt h 8 4 ≤ 3932160 → (r.1.dmaRead 0 r.1.retBase (leAt h 8 4)).2 = some b → s.Yields .retSetCommit fun t =>
        t.sys.ret = false ∧ s.Spares t ∧ t.rd F.SYS_PF_LAST_RET = 1 ∧
          ∀ k, 16384 * (k + 1) ≤ b.length → Sparse.get t.nand.pages none (2 ^ 20 + 16 + k) = some ((b.drop (16384 * k)).take 16384))))

/-- With a command at the front of the queue, a step answers what the command's effect answers on the state with the queue's rest.
(95_what_each_step_holds.md) -/
def Obligations.StepRunsFrontCommand : Prop :=
  ∀ (c : Instr) (rest : List Instr) (s : State), s.pending = c :: rest → step s = exec c { s with pending := rest }

/-- On an empty queue (the model's choice, log entry 1) soft resets complete; while the NET domain is on, TB2 goes on by 3.2 ns, TB0 and
TB1 by 3.2 ns × (1 + RATE × 2^-44) where no slew is in progress, and TB3 follows TB0 less OFS where TB0 is its source; while it is off
the counts stand; memory, engine and queue stay, and of the registers at most those of FIO change; after that a joining standby replays
its next entry (log entry 39). (R47, R328, R331, R378, R476) -/
def Obligations.IdleCycle : Prop :=
  ∀ s : State, s.pending = [] → ∃ u : State, u.softRst = 0 ∧ s.Spares u ∧ s.Within u .fio ∧ u.tsu.srcRtc = s.tsu.srcRtc ∧ u.tdm = s.tdm ∧
    (s.domOff.getLsbD Domain.net.idx = true → u = { s with softRst := 0 } ∧ step s = .next u) ∧
    (s.domOff.getLsbD Domain.net.idx = false →
      step s = .next u.replayNext ∧ (s.tdm.replay = [] ∨ s.tandem = false ∨ s.tdmState ≠ 2 ∨ s.tdm.loaded = false → u.replayNext = u) ∧
      5 * (u.tb2 : Int) = (5 * s.tb2 + 16 * unitsPerNs) % (5 * (2 ^ 48 * nsPerSec * unitsPerNs)) ∧
      (s.tsu.slew0 = 0 → (u.tb0 : Int) = (s.tb0 + 16 * 2 ^ 44 + 16 * (s.regGet (R.TSU_TBn_RATE 0)).toInt) % (2 ^ 48 * nsPerSec * unitsPerNs : Nat)) ∧
      (s.tsu.slew1 = 0 → (u.tb1 : Int) = (s.tb1 + 16 * 2 ^ 44 + 16 * (s.regGet (R.TSU_TBn_RATE 1)).toInt) % (2 ^ 48 * nsPerSec * unitsPerNs : Nat)) ∧
      (s.tsu.srcRtc = false → (u.tb3 : Int) = (u.tb0 - s.rd F.TSU_TB3_OFS_OFS * (nsPerSec * unitsPerNs : Nat)) % (2 ^ 48 * nsPerSec * unitsPerNs : Nat)))

/-- Every register reads its reset value, among them EN 0 of every block, the quotas of the fabric's ports, OFS of TB3 and the
life-cycle state BLANK; the counts of TB0 to TB2 are 0, nothing waits, nothing is listed in memory. That boot is still to run and every
domain is on is the model's choice (log entry 7). (R46, R330, R331, R410, R413, R430) -/
def Obligations.ResetState : Prop :=
  let s := State.reset
  (∀ a, s.regGet a = regReset a) ∧ (∀ b ∈ allBlks, s.en b = false ∧ s.stopping b = false ∧ s.rd (F.BLK_ERRINFO_CODE b) = 0) ∧
    ((upto 16).map fun n => (s.rd (F.FAB_QUOTAn_RESV n), s.rd (F.FAB_QUOTAn_MAX n))) =
      [(16, 64), (4, 8), (2, 4), (32, 64), (8, 16), (32, 96), (16, 32), (16, 48), (16, 32), (8, 16), (4, 8), (4, 8), (4, 8), (16, 32), (4, 8), (4, 8)] ∧
    s.rd F.TSU_TB3_OFS_OFS = 946684837 ∧ s.rd F.KST_LC_STATE = 0 ∧ s.bit F.KST_LC_DBG_EN = true ∧ s.tb0 = 0 ∧ s.tb1 = 0 ∧ s.tb2 = 0 ∧
    s.pending = [] ∧ s.mem = [] ∧ s.shadows = [] ∧ s.evq = [] ∧ s.sys.boot = true ∧ s.domOff = 0

/-- Memory, the register map and the metering lanes of the state after reset are in canonical form. (R8, R46) -/
def Obligations.ResetIsCanonical : Prop := State.reset.Canonical

/-- Whatever command is in front, a step leaves memory, the register map and the metering lanes with rising keys and no entry that
equals what an unlisted key reads as, so that equal contents are equal states. (R8, R46, R280) -/
def Obligations.StepKeepsCanonicalForm : Prop := ∀ s t : State, s.Canonical → step s = .next t → t.Canonical
end

