-- ==== Sys2Proof/Laws/Sparse.lean ====
section
/-! SUPPORT. Laws of sparse maps: reads after writes, and the canonical form that every write keeps; bytes of memory. -/

namespace Sys2Proof.Machine

variable {β : Type}

/-- Reading an erased key gives the default. -/
theorem sparse_get_erase_same (m : List (Nat × β)) (d : β) (k : Nat) : Sparse.get (Sparse.erase m k) d k = d := by
  induction m with
  | nil => rfl
  | cons x t ih =>
    obtain ⟨a, b⟩ := x
    by_cases h : a = k
    · simp [Sparse.erase, h, ih]
    · simp [Sparse.erase, Sparse.get, h, ih]

/-- Erasing a key leaves every other key. -/
theorem sparse_get_erase_ne (m : List (Nat × β)) (d : β) {k j : Nat} (hj : j ≠ k) :
    Sparse.get (Sparse.erase m k) d j = Sparse.get m d j := by
  induction m with
  | nil => rfl
  | cons x t ih =>
    obtain ⟨a, b⟩ := x
    by_cases h : a = k
    · have : a ≠ j := fun e => hj (e ▸ h ▸ rfl)
      simp [Sparse.erase, Sparse.get, h, ih, Ne.symm hj]
    · by_cases e : a = j
      · simp [Sparse.erase, Sparse.get, e, hj]
      · simp [Sparse.erase, Sparse.get, h, e, ih]

/-- Reading a key just inserted into a map without it. -/
theorem sparse_get_ins_same (m : List (Nat × β)) (d : β) (k : Nat) (v : β) :
    Sparse.get (Sparse.ins (Sparse.erase m k) k v) d k = v := by
  induction m with
  | nil => simp [Sparse.erase, Sparse.ins, Sparse.get]
  | cons x t ih =>
    obtain ⟨a, b⟩ := x
    by_cases h : a = k
    · simp [Sparse.erase, h, ih]
    · by_cases l : k < a
      · simp [Sparse.erase, Sparse.ins, Sparse.get, h, l]
      · simp [Sparse.erase, Sparse.ins, Sparse.get, h, l, ih]

/-- Inserting a key leaves every other key. -/
theorem sparse_get_ins_ne (m : List (Nat × β)) (d : β) {k j : Nat} (v : β) (hj : j ≠ k) :
    Sparse.get (Sparse.ins m k v) d j = Sparse.get m d j := by
  induction m with
  | nil => simp [Sparse.ins, Sparse.get, Ne.symm hj]
  | cons x t ih =>
    obtain ⟨a, b⟩ := x
    by_cases l : k < a
    · simp [Sparse.ins, Sparse.get, l, Ne.symm hj]
    · by_cases e : a = j
      · subst e; simp [Sparse.ins, Sparse.get, l]
      · simp [Sparse.ins, Sparse.get, l, e, ih]

/-- An erased key is in no entry. -/
theorem sparse_erase_ne {k : Nat} (m : List (Nat × β)) : ∀ x ∈ Sparse.erase m k, x.1 ≠ k := by
  induction m with
  | nil => intro x h; cases h
  | cons y t ih =>
    obtain ⟨a, b⟩ := y
    intro x h
    by_cases e : a = k
    · simp [Sparse.erase, e] at h; exact ih x h
    · simp [Sparse.erase, e] at h
      rcases h with rfl | h
      · exact e
      · exact ih x h

variable [DecidableEq β]

/-- A read after a write to the same key. -/
theorem sparse_get_put_same (m : List (Nat × β)) (d : β) (k : Nat) (v : β) : Sparse.get (Sparse.put m d k v) d k = v := by
  unfold Sparse.put
  split
  · rename_i h; rw [sparse_get_erase_same, h]
  · exact sparse_get_ins_same m d k v

/-- A write leaves every other key, whatever it reads as unlisted. -/
theorem sparse_get_put_ne (m : List (Nat × β)) (d e : β) {k j : Nat} (v : β) (hj : j ≠ k) :
    Sparse.get (Sparse.put m d k v) e j = Sparse.get m e j := by
  unfold Sparse.put
  split
  · exact sparse_get_erase_ne m e hj
  · rw [sparse_get_ins_ne _ _ _ hj, sparse_get_erase_ne m e hj]

/-- A canonical map stays so from a lower bound. -/
theorem sparse_wfFrom_mono (d : Nat → β) {lo lo' : Nat} (h : lo' ≤ lo) {m : List (Nat × β)} (w : Sparse.wfFrom d lo m = true) :
    Sparse.wfFrom d lo' m = true := by
  cases m with
  | nil => rfl
  | cons x t =>
    obtain ⟨a, b⟩ := x
    simp [Sparse.wfFrom] at w ⊢
    exact ⟨⟨by omega, w.1.2⟩, w.2⟩

/-- Erasing a key keeps the canonical form. -/
theorem sparse_wfFrom_erase (d : Nat → β) (k : Nat) (m : List (Nat × β)) :
    ∀ lo, Sparse.wfFrom d lo m = true → Sparse.wfFrom d lo (Sparse.erase m k) = true := by
  induction m with
  | nil => intro lo h; exact h
  | cons x t ih =>
    obtain ⟨a, b⟩ := x
    intro lo h
    simp [Sparse.wfFrom] at h
    by_cases e : a = k
    · simp [Sparse.erase, e]
      exact sparse_wfFrom_mono d (by omega) (ih _ h.2)
    · simp [Sparse.erase, e, Sparse.wfFrom, h.1, ih _ h.2]

/-- Inserting a new key with a value that is not the default keeps the canonical form. -/
theorem sparse_wfFrom_ins (d : Nat → β) {k : Nat} {v : β} (hv : v ≠ d k) (m : List (Nat × β)) :
    ∀ lo, lo ≤ k → (∀ x ∈ m, x.1 ≠ k) → Sparse.wfFrom d lo m = true → Sparse.wfFrom d lo (Sparse.ins m k v) = true := by
  induction m with
  | nil => intro lo hl _ _; simp [Sparse.ins, Sparse.wfFrom, hl, hv]
  | cons x t ih =>
    obtain ⟨a, b⟩ := x
    intro lo hl hn h
    simp [Sparse.wfFrom] at h
    have hak : a ≠ k := hn (a, b) (List.mem_cons_self ..)
    by_cases l : k < a
    · simp only [Sparse.ins, l, if_true, Sparse.wfFrom]
      simp [hl, hv, h.1.2, h.2]; omega
    · simp only [Sparse.ins, l, if_false, Sparse.wfFrom]
      simp [h.1]
      exact ih (a + 1) (by omega) (fun y hy => hn y (List.mem_cons_of_mem _ hy)) h.2

/-- A write keeps the canonical form, where the key's default is that of the form. -/
theorem sparse_wf_put (d : Nat → β) (m : List (Nat × β)) (k : Nat) (v : β) (h : Sparse.wf d m = true) :
    Sparse.wf d (Sparse.put m (d k) k v) = true := by
  unfold Sparse.put Sparse.wf
  split
  · exact sparse_wfFrom_erase d k m 0 h
  · rename_i hv
    exact sparse_wfFrom_ins d hv _ 0 (Nat.zero_le _) (sparse_erase_ne m) (sparse_wfFrom_erase d k m 0 h)

/-- Dropping entries keeps the canonical form. -/
theorem sparse_wfFrom_filter (d : Nat → β) (p : Nat × β → Bool) (m : List (Nat × β)) :
    ∀ lo, Sparse.wfFrom d lo m = true → Sparse.wfFrom d lo (m.filter p) = true := by
  induction m with
  | nil => intro lo h; exact h
  | cons x t ih =>
    obtain ⟨a, b⟩ := x
    intro lo h
    simp [Sparse.wfFrom] at h
    by_cases e : p (a, b) = true
    · simp [List.filter, e, Sparse.wfFrom, h.1, ih _ h.2]
    · simp [List.filter, e]
      exact sparse_wfFrom_mono d (by omega) (ih _ h.2)

/-- One stored byte keeps memory canonical. -/
theorem memory_wf_put (m : List Host.Cell) (a : Nat) (b : Byte) (h : Memory.wf m = true) : Memory.wf (memPut m a b) = true :=
  sparse_wf_put (fun _ => (0 : Byte)) m a b h

/-- Stored bytes keep memory canonical. -/
theorem memory_wf_putList (bs : List Byte) : ∀ (m : List Host.Cell) (a : Nat), Memory.wf m = true → Memory.wf (memPutList m a bs) = true := by
  induction bs with
  | nil => intro m a h; exact h
  | cons b t ih => intro m a h; exact ih _ _ (memory_wf_put m a b h)

/-- Memory that loses a region stays canonical. -/
theorem memory_wf_filter (m : List Host.Cell) (p : Host.Cell → Bool) (h : Memory.wf m = true) : Memory.wf (m.filter p) = true :=
  sparse_wfFrom_filter (fun _ => (0 : Byte)) p m 0 h

/-- Reset lists no memory, so it is canonical. -/
theorem memory_wf_reset : Memory.wf State.reset.mem = true := rfl

/-- Stored bytes change no byte outside their range. -/
theorem memPutList_get_out (bs : List Byte) : ∀ (m : List Host.Cell) (a j : Nat), (j < a ∨ a + bs.length ≤ j) →
    Sparse.get (memPutList m a bs) 0 j = Sparse.get m 0 j := by
  induction bs with
  | nil => intro m a j _; rfl
  | cons b t ih =>
    intro m a j h
    simp at h
    have hj : j ≠ a := by omega
    rw [memPutList, ih _ _ _ (by omega)]
    exact sparse_get_put_ne m 0 0 b hj

/-- A stored byte reads back. -/
theorem memPutList_get_in (bs : List Byte) : ∀ (m : List Host.Cell) (a i : Nat) (h : i < bs.length),
    Sparse.get (memPutList m a bs) 0 (a + i) = bs[i] := by
  induction bs with
  | nil => intro m a i h; simp at h
  | cons b t ih =>
    intro m a i h
    cases i with
    | zero =>
      rw [memPutList]
      simp only [Nat.add_zero, List.getElem_cons_zero]
      rw [memPutList_get_out t _ _ _ (Or.inl (Nat.lt_succ_self a))]
      exact sparse_get_put_same m 0 a b
    | succ i =>
      rw [memPutList]
      have := ih (memPut m a b) (a + 1) i (by simpa using h)
      simpa [Nat.add_assoc, Nat.add_comm, Nat.add_left_comm] using this

end Sys2Proof.Machine
end

