-- ==== Sys2Proof/Laws/Reg.lean ====
section
/-! SUPPORT. Laws of bit fields, registers and fields: what a read gives after a write. -/

namespace Sys2Proof.Machine

/-- A bit of a mask. -/
theorem maskBits_getLsbD (lo w j : Nat) (h : lo + w ≤ 32) :
    (maskBits lo w).getLsbD j = (decide (lo ≤ j) && decide (j < lo + w)) := by
  unfold maskBits
  rw [BitVec.getLsbD_shiftLeft, BitVec.getLsbD_ushiftRight, BitVec.getLsbD_allOnes]
  by_cases h1 : lo ≤ j <;> by_cases h2 : j < lo + w <;> simp [h1, h2] <;> omega

/-- A bit of a word with a field replaced. -/
theorem putBits_getLsbD (x : Word) (lo w v j : Nat) (h : lo + w ≤ 32) (hj : j < 32) :
    (putBits x lo w v).getLsbD j = if lo ≤ j ∧ j < lo + w then v.testBit (j - lo) else x.getLsbD j := by
  unfold putBits
  simp only [BitVec.getLsbD_or, BitVec.getLsbD_and, BitVec.getLsbD_not, maskBits_getLsbD _ _ _ h, hj, decide_true, Bool.true_and,
    BitVec.getLsbD_shiftLeft, BitVec.getLsbD_ofNat]
  by_cases h1 : lo ≤ j <;> by_cases h2 : j < lo + w <;> simp [h1, h2]
  · have a : j - lo < 32 := by omega
    have b : ¬ j < lo := by omega
    simp [a, b]

/-- A bit of a field. -/
theorem getBits_testBit (x : Word) (lo w i : Nat) : (getBits x lo w).testBit i = (decide (i < w) && x.getLsbD (lo + i)) := by
  simp [getBits, Nat.testBit_mod_two_pow, Nat.testBit_shiftRight, BitVec.getLsbD]

/-- A field just written. -/
theorem getBits_putBits_same (x : Word) (lo w v : Nat) (h : lo + w ≤ 32) : getBits (putBits x lo w v) lo w = v % 2 ^ w := by
  apply Nat.eq_of_testBit_eq
  intro i
  rw [getBits_testBit, Nat.testBit_mod_two_pow]
  by_cases hi : i < w
  · rw [putBits_getLsbD _ _ _ _ _ h (by omega)]; simp [hi]
  · simp [hi]

/-- Another field of the word keeps its value. -/
theorem getBits_putBits_ne (x : Word) (lo w v lo' w' : Nat) (h : lo + w ≤ 32) (d : lo' + w' ≤ lo ∨ lo + w ≤ lo') (h' : lo' + w' ≤ 32) :
    getBits (putBits x lo w v) lo' w' = getBits x lo' w' := by
  apply Nat.eq_of_testBit_eq
  intro i
  rw [getBits_testBit, getBits_testBit]
  by_cases hi : i < w'
  · have : ¬ (lo ≤ lo' + i ∧ lo' + i < lo + w) := by omega
    rw [putBits_getLsbD _ _ _ _ _ h (by omega)]; simp [this]
  · simp [hi]

/-- A field is less than its power of two. -/
theorem getBits_lt (x : Word) (lo w : Nat) : getBits x lo w < 2 ^ w := Nat.mod_lt _ (Nat.two_pow_pos w)

/-- A register just written. -/
@[simp] theorem regGet_regPut_same (s : State) (a : Nat) (v : Word) : (s.regPut a v).regGet a = v := sparse_get_put_same _ _ _ _

/-- Another register keeps its value. -/
theorem regGet_regPut_ne (s : State) {a b : Nat} (v : Word) (h : b ≠ a) : (s.regPut a v).regGet b = s.regGet b :=
  sparse_get_put_ne _ _ _ _ h

/-- A register after a write of any register. -/
theorem regGet_regPut (s : State) (a b : Nat) (v : Word) : (s.regPut a v).regGet b = if b = a then v else s.regGet b := by
  split
  · rename_i h; rw [h]; exact regGet_regPut_same s a v
  · rename_i h; exact regGet_regPut_ne s v h

/-- Reads depend on the register file alone. -/
theorem regGet_congr {s t : State} (h : t.regs = s.regs) (a : Nat) : t.regGet a = s.regGet a := by unfold State.regGet; rw [h]
theorem rd_congr {s t : State} (h : t.regs = s.regs) (f : Fld) : t.rd f = s.rd f := by unfold State.rd; rw [regGet_congr h]

/-- A field just written. -/
theorem rd_wr_same (s : State) (f : Fld) (v : Nat) (h : f.lo + f.w ≤ 32) : (s.wr f v).rd f = v % 2 ^ f.w := by
  unfold State.rd State.wr
  rw [regGet_regPut_same, getBits_putBits_same _ _ _ _ h]

/-- A field of another register. -/
theorem rd_wr_ne (s : State) {f g : Fld} (v : Nat) (h : g.addr ≠ f.addr) : (s.wr f v).rd g = s.rd g := by
  unfold State.rd State.wr
  rw [regGet_regPut_ne _ _ h]

/-- Another field of the same register. -/
theorem rd_wr_disjoint (s : State) {f g : Fld} (v : Nat) (h : f.lo + f.w ≤ 32) (h' : g.lo + g.w ≤ 32)
    (d : g.lo + g.w ≤ f.lo ∨ f.lo + f.w ≤ g.lo) : (s.wr f v).rd g = s.rd g := by
  by_cases e : g.addr = f.addr
  · unfold State.rd State.wr
    rw [e, regGet_regPut_same, getBits_putBits_ne _ _ _ _ _ _ h d h']
  · exact rd_wr_ne s v e

/-- A field after a register is written whole. -/
theorem rd_regPut_same (s : State) (f : Fld) (v : Word) : (s.regPut f.addr v).rd f = getBits v f.lo f.w := by
  unfold State.rd; rw [regGet_regPut_same]
theorem rd_regPut_ne (s : State) {a : Nat} {g : Fld} (v : Word) (h : g.addr ≠ a) : (s.regPut a v).rd g = s.rd g := by
  unfold State.rd; rw [regGet_regPut_ne _ _ h]
theorem regGet_wr_ne (s : State) {f : Fld} {a : Nat} (v : Nat) (h : a ≠ f.addr) : (s.wr f v).regGet a = s.regGet a :=
  regGet_regPut_ne s _ h

/-- One-bit fields. -/
theorem bit_wrB_same (s : State) (f : Fld) (v : Bool) (h : f.lo + f.w ≤ 32) (hw : 0 < f.w) : (s.wrB f v).bit f = v := by
  unfold State.bit State.wrB
  rw [rd_wr_same _ _ _ h]
  have : 1 < 2 ^ f.w := Nat.one_lt_two_pow (by omega)
  cases v <;> simp [b2n, Nat.mod_eq_of_lt this]

end Sys2Proof.Machine
end

