-- ==== Sys2Proof/Laws/State.lean ====
section
/-! SUPPORT. For every update of the state that the blocks share: what it leaves as it was, field by field. -/

namespace Sys2Proof.Machine

/-! `regPut` -/
@[simp] theorem regPut_shadows (s : State) (a : Nat) (v : Word) : (s.regPut a v).shadows = s.shadows := rfl
@[simp] theorem regPut_mem (s : State) (a : Nat) (v : Word) : (s.regPut a v).mem = s.mem := rfl
@[simp] theorem regPut_ue (s : State) (a : Nat) (v : Word) : (s.regPut a v).ue = s.ue := rfl
@[simp] theorem regPut_resp (s : State) (a : Nat) (v : Word) : (s.regPut a v).resp = s.resp := rfl
@[simp] theorem regPut_draws (s : State) (a : Nat) (v : Word) : (s.regPut a v).draws = s.draws := rfl
@[simp] theorem regPut_tileUsed (s : State) (a : Nat) (v : Word) : (s.regPut a v).tileUsed = s.tileUsed := rfl
@[simp] theorem regPut_tileKnown (s : State) (a : Nat) (v : Word) : (s.regPut a v).tileKnown = s.tileKnown := rfl
@[simp] theorem regPut_tb0 (s : State) (a : Nat) (v : Word) : (s.regPut a v).tb0 = s.tb0 := rfl
@[simp] theorem regPut_tb1 (s : State) (a : Nat) (v : Word) : (s.regPut a v).tb1 = s.tb1 := rfl
@[simp] theorem regPut_tb2 (s : State) (a : Nat) (v : Word) : (s.regPut a v).tb2 = s.tb2 := rfl
@[simp] theorem regPut_tb3 (s : State) (a : Nat) (v : Word) : (s.regPut a v).tb3 = s.tb3 := rfl
@[simp] theorem regPut_halted (s : State) (a : Nat) (v : Word) : (s.regPut a v).halted = s.halted := rfl
@[simp] theorem regPut_softRst (s : State) (a : Nat) (v : Word) : (s.regPut a v).softRst = s.softRst := rfl
@[simp] theorem regPut_domOff (s : State) (a : Nat) (v : Word) : (s.regPut a v).domOff = s.domOff := rfl
@[simp] theorem regPut_domIso (s : State) (a : Nat) (v : Word) : (s.regPut a v).domIso = s.domIso := rfl
@[simp] theorem regPut_inserv (s : State) (a : Nat) (v : Word) : (s.regPut a v).inserv = s.inserv := rfl
@[simp] theorem regPut_doorbells (s : State) (a : Nat) (v : Word) : (s.regPut a v).doorbells = s.doorbells := rfl
@[simp] theorem regPut_evq (s : State) (a : Nat) (v : Word) : (s.regPut a v).evq = s.evq := rfl
@[simp] theorem regPut_xlt (s : State) (a : Nat) (v : Word) : (s.regPut a v).xlt = s.xlt := rfl
@[simp] theorem regPut_cad (s : State) (a : Nat) (v : Word) : (s.regPut a v).cad = s.cad := rfl
@[simp] theorem regPut_spk (s : State) (a : Nat) (v : Word) : (s.regPut a v).spk = s.spk := rfl
@[simp] theorem regPut_lpe (s : State) (a : Nat) (v : Word) : (s.regPut a v).lpe = s.lpe := rfl
@[simp] theorem regPut_slv (s : State) (a : Nat) (v : Word) : (s.regPut a v).slv = s.slv := rfl
@[simp] theorem regPut_mtr (s : State) (a : Nat) (v : Word) : (s.regPut a v).mtr = s.mtr := rfl
@[simp] theorem regPut_nand (s : State) (a : Nat) (v : Word) : (s.regPut a v).nand = s.nand := rfl
@[simp] theorem regPut_pfw (s : State) (a : Nat) (v : Word) : (s.regPut a v).pfw = s.pfw := rfl
@[simp] theorem regPut_trueHeld (s : State) (a : Nat) (v : Word) : (s.regPut a v).trueHeld = s.trueHeld := rfl
@[simp] theorem regPut_coefNew (s : State) (a : Nat) (v : Word) : (s.regPut a v).coefNew = s.coefNew := rfl
@[simp] theorem regPut_coef (s : State) (a : Nat) (v : Word) : (s.regPut a v).coef = s.coef := rfl
@[simp] theorem regPut_tsu (s : State) (a : Nat) (v : Word) : (s.regPut a v).tsu = s.tsu := rfl
@[simp] theorem regPut_net (s : State) (a : Nat) (v : Word) : (s.regPut a v).net = s.net := rfl
@[simp] theorem regPut_fio (s : State) (a : Nat) (v : Word) : (s.regPut a v).fio = s.fio := rfl
@[simp] theorem regPut_can (s : State) (a : Nat) (v : Word) : (s.regPut a v).can = s.can := rfl
@[simp] theorem regPut_canRc (s : State) (a : Nat) (v : Word) : (s.regPut a v).canRc = s.canRc := rfl
@[simp] theorem regPut_tdm (s : State) (a : Nat) (v : Word) : (s.regPut a v).tdm = s.tdm := rfl
@[simp] theorem regPut_evr (s : State) (a : Nat) (v : Word) : (s.regPut a v).evr = s.evr := rfl
@[simp] theorem regPut_kst (s : State) (a : Nat) (v : Word) : (s.regPut a v).kst = s.kst := rfl
@[simp] theorem regPut_fab (s : State) (a : Nat) (v : Word) : (s.regPut a v).fab = s.fab := rfl
@[simp] theorem regPut_resv (s : State) (a : Nat) (v : Word) : (s.regPut a v).resv = s.resv := rfl
@[simp] theorem regPut_refreshAt (s : State) (a : Nat) (v : Word) : (s.regPut a v).refreshAt = s.refreshAt := rfl
@[simp] theorem regPut_nfm (s : State) (a : Nat) (v : Word) : (s.regPut a v).nfm = s.nfm := rfl
@[simp] theorem regPut_spareLow (s : State) (a : Nat) (v : Word) : (s.regPut a v).spareLow = s.spareLow := rfl
@[simp] theorem regPut_bgs (s : State) (a : Nat) (v : Word) : (s.regPut a v).bgs = s.bgs := rfl
@[simp] theorem regPut_pwr (s : State) (a : Nat) (v : Word) : (s.regPut a v).pwr = s.pwr := rfl
@[simp] theorem regPut_rtc (s : State) (a : Nat) (v : Word) : (s.regPut a v).rtc = s.rtc := rfl
@[simp] theorem regPut_pnl (s : State) (a : Nat) (v : Word) : (s.regPut a v).pnl = s.pnl := rfl
@[simp] theorem regPut_pfm (s : State) (a : Nat) (v : Word) : (s.regPut a v).pfm = s.pfm := rfl
@[simp] theorem regPut_sys (s : State) (a : Nat) (v : Word) : (s.regPut a v).sys = s.sys := rfl
@[simp] theorem regPut_pending (s : State) (a : Nat) (v : Word) : (s.regPut a v).pending = s.pending := rfl

/-! `wr` -/
@[simp] theorem wr_shadows (s : State) (f : Fld) (v : Nat) : (s.wr f v).shadows = s.shadows := rfl
@[simp] theorem wr_mem (s : State) (f : Fld) (v : Nat) : (s.wr f v).mem = s.mem := rfl
@[simp] theorem wr_ue (s : State) (f : Fld) (v : Nat) : (s.wr f v).ue = s.ue := rfl
@[simp] theorem wr_resp (s : State) (f : Fld) (v : Nat) : (s.wr f v).resp = s.resp := rfl
@[simp] theorem wr_draws (s : State) (f : Fld) (v : Nat) : (s.wr f v).draws = s.draws := rfl
@[simp] theorem wr_tileUsed (s : State) (f : Fld) (v : Nat) : (s.wr f v).tileUsed = s.tileUsed := rfl
@[simp] theorem wr_tileKnown (s : State) (f : Fld) (v : Nat) : (s.wr f v).tileKnown = s.tileKnown := rfl
@[simp] theorem wr_tb0 (s : State) (f : Fld) (v : Nat) : (s.wr f v).tb0 = s.tb0 := rfl
@[simp] theorem wr_tb1 (s : State) (f : Fld) (v : Nat) : (s.wr f v).tb1 = s.tb1 := rfl
@[simp] theorem wr_tb2 (s : State) (f : Fld) (v : Nat) : (s.wr f v).tb2 = s.tb2 := rfl
@[simp] theorem wr_tb3 (s : State) (f : Fld) (v : Nat) : (s.wr f v).tb3 = s.tb3 := rfl
@[simp] theorem wr_halted (s : State) (f : Fld) (v : Nat) : (s.wr f v).halted = s.halted := rfl
@[simp] theorem wr_softRst (s : State) (f : Fld) (v : Nat) : (s.wr f v).softRst = s.softRst := rfl
@[simp] theorem wr_domOff (s : State) (f : Fld) (v : Nat) : (s.wr f v).domOff = s.domOff := rfl
@[simp] theorem wr_domIso (s : State) (f : Fld) (v : Nat) : (s.wr f v).domIso = s.domIso := rfl
@[simp] theorem wr_inserv (s : State) (f : Fld) (v : Nat) : (s.wr f v).inserv = s.inserv := rfl
@[simp] theorem wr_doorbells (s : State) (f : Fld) (v : Nat) : (s.wr f v).doorbells = s.doorbells := rfl
@[simp] theorem wr_evq (s : State) (f : Fld) (v : Nat) : (s.wr f v).evq = s.evq := rfl
@[simp] theorem wr_xlt (s : State) (f : Fld) (v : Nat) : (s.wr f v).xlt = s.xlt := rfl
@[simp] theorem wr_cad (s : State) (f : Fld) (v : Nat) : (s.wr f v).cad = s.cad := rfl
@[simp] theorem wr_spk (s : State) (f : Fld) (v : Nat) : (s.wr f v).spk = s.spk := rfl
@[simp] theorem wr_lpe (s : State) (f : Fld) (v : Nat) : (s.wr f v).lpe = s.lpe := rfl
@[simp] theorem wr_slv (s : State) (f : Fld) (v : Nat) : (s.wr f v).slv = s.slv := rfl
@[simp] theorem wr_mtr (s : State) (f : Fld) (v : Nat) : (s.wr f v).mtr = s.mtr := rfl
@[simp] theorem wr_nand (s : State) (f : Fld) (v : Nat) : (s.wr f v).nand = s.nand := rfl
@[simp] theorem wr_pfw (s : State) (f : Fld) (v : Nat) : (s.wr f v).pfw = s.pfw := rfl
@[simp] theorem wr_trueHeld (s : State) (f : Fld) (v : Nat) : (s.wr f v).trueHeld = s.trueHeld := rfl
@[simp] theorem wr_coefNew (s : State) (f : Fld) (v : Nat) : (s.wr f v).coefNew = s.coefNew := rfl
@[simp] theorem wr_coef (s : State) (f : Fld) (v : Nat) : (s.wr f v).coef = s.coef := rfl
@[simp] theorem wr_tsu (s : State) (f : Fld) (v : Nat) : (s.wr f v).tsu = s.tsu := rfl
@[simp] theorem wr_net (s : State) (f : Fld) (v : Nat) : (s.wr f v).net = s.net := rfl
@[simp] theorem wr_fio (s : State) (f : Fld) (v : Nat) : (s.wr f v).fio = s.fio := rfl
@[simp] theorem wr_can (s : State) (f : Fld) (v : Nat) : (s.wr f v).can = s.can := rfl
@[simp] theorem wr_canRc (s : State) (f : Fld) (v : Nat) : (s.wr f v).canRc = s.canRc := rfl
@[simp] theorem wr_tdm (s : State) (f : Fld) (v : Nat) : (s.wr f v).tdm = s.tdm := rfl
@[simp] theorem wr_evr (s : State) (f : Fld) (v : Nat) : (s.wr f v).evr = s.evr := rfl
@[simp] theorem wr_kst (s : State) (f : Fld) (v : Nat) : (s.wr f v).kst = s.kst := rfl
@[simp] theorem wr_fab (s : State) (f : Fld) (v : Nat) : (s.wr f v).fab = s.fab := rfl
@[simp] theorem wr_resv (s : State) (f : Fld) (v : Nat) : (s.wr f v).resv = s.resv := rfl
@[simp] theorem wr_refreshAt (s : State) (f : Fld) (v : Nat) : (s.wr f v).refreshAt = s.refreshAt := rfl
@[simp] theorem wr_nfm (s : State) (f : Fld) (v : Nat) : (s.wr f v).nfm = s.nfm := rfl
@[simp] theorem wr_spareLow (s : State) (f : Fld) (v : Nat) : (s.wr f v).spareLow = s.spareLow := rfl
@[simp] theorem wr_bgs (s : State) (f : Fld) (v : Nat) : (s.wr f v).bgs = s.bgs := rfl
@[simp] theorem wr_pwr (s : State) (f : Fld) (v : Nat) : (s.wr f v).pwr = s.pwr := rfl
@[simp] theorem wr_rtc (s : State) (f : Fld) (v : Nat) : (s.wr f v).rtc = s.rtc := rfl
@[simp] theorem wr_pnl (s : State) (f : Fld) (v : Nat) : (s.wr f v).pnl = s.pnl := rfl
@[simp] theorem wr_pfm (s : State) (f : Fld) (v : Nat) : (s.wr f v).pfm = s.pfm := rfl
@[simp] theorem wr_sys (s : State) (f : Fld) (v : Nat) : (s.wr f v).sys = s.sys := rfl
@[simp] theorem wr_pending (s : State) (f : Fld) (v : Nat) : (s.wr f v).pending = s.pending := rfl

/-! `wrB` -/
@[simp] theorem wrB_shadows (s : State) (f : Fld) (v : Bool) : (s.wrB f v).shadows = s.shadows := rfl
@[simp] theorem wrB_mem (s : State) (f : Fld) (v : Bool) : (s.wrB f v).mem = s.mem := rfl
@[simp] theorem wrB_ue (s : State) (f : Fld) (v : Bool) : (s.wrB f v).ue = s.ue := rfl
@[simp] theorem wrB_resp (s : State) (f : Fld) (v : Bool) : (s.wrB f v).resp = s.resp := rfl
@[simp] theorem wrB_draws (s : State) (f : Fld) (v : Bool) : (s.wrB f v).draws = s.draws := rfl
@[simp] theorem wrB_tileUsed (s : State) (f : Fld) (v : Bool) : (s.wrB f v).tileUsed = s.tileUsed := rfl
@[simp] theorem wrB_tileKnown (s : State) (f : Fld) (v : Bool) : (s.wrB f v).tileKnown = s.tileKnown := rfl
@[simp] theorem wrB_tb0 (s : State) (f : Fld) (v : Bool) : (s.wrB f v).tb0 = s.tb0 := rfl
@[simp] theorem wrB_tb1 (s : State) (f : Fld) (v : Bool) : (s.wrB f v).tb1 = s.tb1 := rfl
@[simp] theorem wrB_tb2 (s : State) (f : Fld) (v : Bool) : (s.wrB f v).tb2 = s.tb2 := rfl
@[simp] theorem wrB_tb3 (s : State) (f : Fld) (v : Bool) : (s.wrB f v).tb3 = s.tb3 := rfl
@[simp] theorem wrB_halted (s : State) (f : Fld) (v : Bool) : (s.wrB f v).halted = s.halted := rfl
@[simp] theorem wrB_softRst (s : State) (f : Fld) (v : Bool) : (s.wrB f v).softRst = s.softRst := rfl
@[simp] theorem wrB_domOff (s : State) (f : Fld) (v : Bool) : (s.wrB f v).domOff = s.domOff := rfl
@[simp] theorem wrB_domIso (s : State) (f : Fld) (v : Bool) : (s.wrB f v).domIso = s.domIso := rfl
@[simp] theorem wrB_inserv (s : State) (f : Fld) (v : Bool) : (s.wrB f v).inserv = s.inserv := rfl
@[simp] theorem wrB_doorbells (s : State) (f : Fld) (v : Bool) : (s.wrB f v).doorbells = s.doorbells := rfl
@[simp] theorem wrB_evq (s : State) (f : Fld) (v : Bool) : (s.wrB f v).evq = s.evq := rfl
@[simp] theorem wrB_xlt (s : State) (f : Fld) (v : Bool) : (s.wrB f v).xlt = s.xlt := rfl
@[simp] theorem wrB_cad (s : State) (f : Fld) (v : Bool) : (s.wrB f v).cad = s.cad := rfl
@[simp] theorem wrB_spk (s : State) (f : Fld) (v : Bool) : (s.wrB f v).spk = s.spk := rfl
@[simp] theorem wrB_lpe (s : State) (f : Fld) (v : Bool) : (s.wrB f v).lpe = s.lpe := rfl
@[simp] theorem wrB_slv (s : State) (f : Fld) (v : Bool) : (s.wrB f v).slv = s.slv := rfl
@[simp] theorem wrB_mtr (s : State) (f : Fld) (v : Bool) : (s.wrB f v).mtr = s.mtr := rfl
@[simp] theorem wrB_nand (s : State) (f : Fld) (v : Bool) : (s.wrB f v).nand = s.nand := rfl
@[simp] theorem wrB_pfw (s : State) (f : Fld) (v : Bool) : (s.wrB f v).pfw = s.pfw := rfl
@[simp] theorem wrB_trueHeld (s : State) (f : Fld) (v : Bool) : (s.wrB f v).trueHeld = s.trueHeld := rfl
@[simp] theorem wrB_coefNew (s : State) (f : Fld) (v : Bool) : (s.wrB f v).coefNew = s.coefNew := rfl
@[simp] theorem wrB_coef (s : State) (f : Fld) (v : Bool) : (s.wrB f v).coef = s.coef := rfl
@[simp] theorem wrB_tsu (s : State) (f : Fld) (v : Bool) : (s.wrB f v).tsu = s.tsu := rfl
@[simp] theorem wrB_net (s : State) (f : Fld) (v : Bool) : (s.wrB f v).net = s.net := rfl
@[simp] theorem wrB_fio (s : State) (f : Fld) (v : Bool) : (s.wrB f v).fio = s.fio := rfl
@[simp] theorem wrB_can (s : State) (f : Fld) (v : Bool) : (s.wrB f v).can = s.can := rfl
@[simp] theorem wrB_canRc (s : State) (f : Fld) (v : Bool) : (s.wrB f v).canRc = s.canRc := rfl
@[simp] theorem wrB_tdm (s : State) (f : Fld) (v : Bool) : (s.wrB f v).tdm = s.tdm := rfl
@[simp] theorem wrB_evr (s : State) (f : Fld) (v : Bool) : (s.wrB f v).evr = s.evr := rfl
@[simp] theorem wrB_kst (s : State) (f : Fld) (v : Bool) : (s.wrB f v).kst = s.kst := rfl
@[simp] theorem wrB_fab (s : State) (f : Fld) (v : Bool) : (s.wrB f v).fab = s.fab := rfl
@[simp] theorem wrB_resv (s : State) (f : Fld) (v : Bool) : (s.wrB f v).resv = s.resv := rfl
@[simp] theorem wrB_refreshAt (s : State) (f : Fld) (v : Bool) : (s.wrB f v).refreshAt = s.refreshAt := rfl
@[simp] theorem wrB_nfm (s : State) (f : Fld) (v : Bool) : (s.wrB f v).nfm = s.nfm := rfl
@[simp] theorem wrB_spareLow (s : State) (f : Fld) (v : Bool) : (s.wrB f v).spareLow = s.spareLow := rfl
@[simp] theorem wrB_bgs (s : State) (f : Fld) (v : Bool) : (s.wrB f v).bgs = s.bgs := rfl
@[simp] theorem wrB_pwr (s : State) (f : Fld) (v : Bool) : (s.wrB f v).pwr = s.pwr := rfl
@[simp] theorem wrB_rtc (s : State) (f : Fld) (v : Bool) : (s.wrB f v).rtc = s.rtc := rfl
@[simp] theorem wrB_pnl (s : State) (f : Fld) (v : Bool) : (s.wrB f v).pnl = s.pnl := rfl
@[simp] theorem wrB_pfm (s : State) (f : Fld) (v : Bool) : (s.wrB f v).pfm = s.pfm := rfl
@[simp] theorem wrB_sys (s : State) (f : Fld) (v : Bool) : (s.wrB f v).sys = s.sys := rfl
@[simp] theorem wrB_pending (s : State) (f : Fld) (v : Bool) : (s.wrB f v).pending = s.pending := rfl

/-! `incSat` -/
@[simp] theorem incSat_shadows (s : State) (f : Fld) : (s.incSat f).shadows = s.shadows := rfl
@[simp] theorem incSat_mem (s : State) (f : Fld) : (s.incSat f).mem = s.mem := rfl
@[simp] theorem incSat_ue (s : State) (f : Fld) : (s.incSat f).ue = s.ue := rfl
@[simp] theorem incSat_resp (s : State) (f : Fld) : (s.incSat f).resp = s.resp := rfl
@[simp] theorem incSat_draws (s : State) (f : Fld) : (s.incSat f).draws = s.draws := rfl
@[simp] theorem incSat_tileUsed (s : State) (f : Fld) : (s.incSat f).tileUsed = s.tileUsed := rfl
@[simp] theorem incSat_tileKnown (s : State) (f : Fld) : (s.incSat f).tileKnown = s.tileKnown := rfl
@[simp] theorem incSat_tb0 (s : State) (f : Fld) : (s.incSat f).tb0 = s.tb0 := rfl
@[simp] theorem incSat_tb1 (s : State) (f : Fld) : (s.incSat f).tb1 = s.tb1 := rfl
@[simp] theorem incSat_tb2 (s : State) (f : Fld) : (s.incSat f).tb2 = s.tb2 := rfl
@[simp] theorem incSat_tb3 (s : State) (f : Fld) : (s.incSat f).tb3 = s.tb3 := rfl
@[simp] theorem incSat_halted (s : State) (f : Fld) : (s.incSat f).halted = s.halted := rfl
@[simp] theorem incSat_softRst (s : State) (f : Fld) : (s.incSat f).softRst = s.softRst := rfl
@[simp] theorem incSat_domOff (s : State) (f : Fld) : (s.incSat f).domOff = s.domOff := rfl
@[simp] theorem incSat_domIso (s : State) (f : Fld) : (s.incSat f).domIso = s.domIso := rfl
@[simp] theorem incSat_inserv (s : State) (f : Fld) : (s.incSat f).inserv = s.inserv := rfl
@[simp] theorem incSat_doorbells (s : State) (f : Fld) : (s.incSat f).doorbells = s.doorbells := rfl
@[simp] theorem incSat_evq (s : State) (f : Fld) : (s.incSat f).evq = s.evq := rfl
@[simp] theorem incSat_xlt (s : State) (f : Fld) : (s.incSat f).xlt = s.xlt := rfl
@[simp] theorem incSat_cad (s : State) (f : Fld) : (s.incSat f).cad = s.cad := rfl
@[simp] theorem incSat_spk (s : State) (f : Fld) : (s.incSat f).spk = s.spk := rfl
@[simp] theorem incSat_lpe (s : State) (f : Fld) : (s.incSat f).lpe = s.lpe := rfl
@[simp] theorem incSat_slv (s : State) (f : Fld) : (s.incSat f).slv = s.slv := rfl
@[simp] theorem incSat_mtr (s : State) (f : Fld) : (s.incSat f).mtr = s.mtr := rfl
@[simp] theorem incSat_nand (s : State) (f : Fld) : (s.incSat f).nand = s.nand := rfl
@[simp] theorem incSat_pfw (s : State) (f : Fld) : (s.incSat f).pfw = s.pfw := rfl
@[simp] theorem incSat_trueHeld (s : State) (f : Fld) : (s.incSat f).trueHeld = s.trueHeld := rfl
@[simp] theorem incSat_coefNew (s : State) (f : Fld) : (s.incSat f).coefNew = s.coefNew := rfl
@[simp] theorem incSat_coef (s : State) (f : Fld) : (s.incSat f).coef = s.coef := rfl
@[simp] theorem incSat_tsu (s : State) (f : Fld) : (s.incSat f).tsu = s.tsu := rfl
@[simp] theorem incSat_net (s : State) (f : Fld) : (s.incSat f).net = s.net := rfl
@[simp] theorem incSat_fio (s : State) (f : Fld) : (s.incSat f).fio = s.fio := rfl
@[simp] theorem incSat_can (s : State) (f : Fld) : (s.incSat f).can = s.can := rfl
@[simp] theorem incSat_canRc (s : State) (f : Fld) : (s.incSat f).canRc = s.canRc := rfl
@[simp] theorem incSat_tdm (s : State) (f : Fld) : (s.incSat f).tdm = s.tdm := rfl
@[simp] theorem incSat_evr (s : State) (f : Fld) : (s.incSat f).evr = s.evr := rfl
@[simp] theorem incSat_kst (s : State) (f : Fld) : (s.incSat f).kst = s.kst := rfl
@[simp] theorem incSat_fab (s : State) (f : Fld) : (s.incSat f).fab = s.fab := rfl
@[simp] theorem incSat_resv (s : State) (f : Fld) : (s.incSat f).resv = s.resv := rfl
@[simp] theorem incSat_refreshAt (s : State) (f : Fld) : (s.incSat f).refreshAt = s.refreshAt := rfl
@[simp] theorem incSat_nfm (s : State) (f : Fld) : (s.incSat f).nfm = s.nfm := rfl
@[simp] theorem incSat_spareLow (s : State) (f : Fld) : (s.incSat f).spareLow = s.spareLow := rfl
@[simp] theorem incSat_bgs (s : State) (f : Fld) : (s.incSat f).bgs = s.bgs := rfl
@[simp] theorem incSat_pwr (s : State) (f : Fld) : (s.incSat f).pwr = s.pwr := rfl
@[simp] theorem incSat_rtc (s : State) (f : Fld) : (s.incSat f).rtc = s.rtc := rfl
@[simp] theorem incSat_pnl (s : State) (f : Fld) : (s.incSat f).pnl = s.pnl := rfl
@[simp] theorem incSat_pfm (s : State) (f : Fld) : (s.incSat f).pfm = s.pfm := rfl
@[simp] theorem incSat_sys (s : State) (f : Fld) : (s.incSat f).sys = s.sys := rfl
@[simp] theorem incSat_pending (s : State) (f : Fld) : (s.incSat f).pending = s.pending := rfl

/-! `incWrap` -/
@[simp] theorem incWrap_shadows (s : State) (f : Fld) : (s.incWrap f).shadows = s.shadows := rfl
@[simp] theorem incWrap_mem (s : State) (f : Fld) : (s.incWrap f).mem = s.mem := rfl
@[simp] theorem incWrap_ue (s : State) (f : Fld) : (s.incWrap f).ue = s.ue := rfl
@[simp] theorem incWrap_resp (s : State) (f : Fld) : (s.incWrap f).resp = s.resp := rfl
@[simp] theorem incWrap_draws (s : State) (f : Fld) : (s.incWrap f).draws = s.draws := rfl
@[simp] theorem incWrap_tileUsed (s : State) (f : Fld) : (s.incWrap f).tileUsed = s.tileUsed := rfl
@[simp] theorem incWrap_tileKnown (s : State) (f : Fld) : (s.incWrap f).tileKnown = s.tileKnown := rfl
@[simp] theorem incWrap_tb0 (s : State) (f : Fld) : (s.incWrap f).tb0 = s.tb0 := rfl
@[simp] theorem incWrap_tb1 (s : State) (f : Fld) : (s.incWrap f).tb1 = s.tb1 := rfl
@[simp] theorem incWrap_tb2 (s : State) (f : Fld) : (s.incWrap f).tb2 = s.tb2 := rfl
@[simp] theorem incWrap_tb3 (s : State) (f : Fld) : (s.incWrap f).tb3 = s.tb3 := rfl
@[simp] theorem incWrap_halted (s : State) (f : Fld) : (s.incWrap f).halted = s.halted := rfl
@[simp] theorem incWrap_softRst (s : State) (f : Fld) : (s.incWrap f).softRst = s.softRst := rfl
@[simp] theorem incWrap_domOff (s : State) (f : Fld) : (s.incWrap f).domOff = s.domOff := rfl
@[simp] theorem incWrap_domIso (s : State) (f : Fld) : (s.incWrap f).domIso = s.domIso := rfl
@[simp] theorem incWrap_inserv (s : State) (f : Fld) : (s.incWrap f).inserv = s.inserv := rfl
@[simp] theorem incWrap_doorbells (s : State) (f : Fld) : (s.incWrap f).doorbells = s.doorbells := rfl
@[simp] theorem incWrap_evq (s : State) (f : Fld) : (s.incWrap f).evq = s.evq := rfl
@[simp] theorem incWrap_xlt (s : State) (f : Fld) : (s.incWrap f).xlt = s.xlt := rfl
@[simp] theorem incWrap_cad (s : State) (f : Fld) : (s.incWrap f).cad = s.cad := rfl
@[simp] theorem incWrap_spk (s : State) (f : Fld) : (s.incWrap f).spk = s.spk := rfl
@[simp] theorem incWrap_lpe (s : State) (f : Fld) : (s.incWrap f).lpe = s.lpe := rfl
@[simp] theorem incWrap_slv (s : State) (f : Fld) : (s.incWrap f).slv = s.slv := rfl
@[simp] theorem incWrap_mtr (s : State) (f : Fld) : (s.incWrap f).mtr = s.mtr := rfl
@[simp] theorem incWrap_nand (s : State) (f : Fld) : (s.incWrap f).nand = s.nand := rfl
@[simp] theorem incWrap_pfw (s : State) (f : Fld) : (s.incWrap f).pfw = s.pfw := rfl
@[simp] theorem incWrap_trueHeld (s : State) (f : Fld) : (s.incWrap f).trueHeld = s.trueHeld := rfl
@[simp] theorem incWrap_coefNew (s : State) (f : Fld) : (s.incWrap f).coefNew = s.coefNew := rfl
@[simp] theorem incWrap_coef (s : State) (f : Fld) : (s.incWrap f).coef = s.coef := rfl
@[simp] theorem incWrap_tsu (s : State) (f : Fld) : (s.incWrap f).tsu = s.tsu := rfl
@[simp] theorem incWrap_net (s : State) (f : Fld) : (s.incWrap f).net = s.net := rfl
@[simp] theorem incWrap_fio (s : State) (f : Fld) : (s.incWrap f).fio = s.fio := rfl
@[simp] theorem incWrap_can (s : State) (f : Fld) : (s.incWrap f).can = s.can := rfl
@[simp] theorem incWrap_canRc (s : State) (f : Fld) : (s.incWrap f).canRc = s.canRc := rfl
@[simp] theorem incWrap_tdm (s : State) (f : Fld) : (s.incWrap f).tdm = s.tdm := rfl
@[simp] theorem incWrap_evr (s : State) (f : Fld) : (s.incWrap f).evr = s.evr := rfl
@[simp] theorem incWrap_kst (s : State) (f : Fld) : (s.incWrap f).kst = s.kst := rfl
@[simp] theorem incWrap_fab (s : State) (f : Fld) : (s.incWrap f).fab = s.fab := rfl
@[simp] theorem incWrap_resv (s : State) (f : Fld) : (s.incWrap f).resv = s.resv := rfl
@[simp] theorem incWrap_refreshAt (s : State) (f : Fld) : (s.incWrap f).refreshAt = s.refreshAt := rfl
@[simp] theorem incWrap_nfm (s : State) (f : Fld) : (s.incWrap f).nfm = s.nfm := rfl
@[simp] theorem incWrap_spareLow (s : State) (f : Fld) : (s.incWrap f).spareLow = s.spareLow := rfl
@[simp] theorem incWrap_bgs (s : State) (f : Fld) : (s.incWrap f).bgs = s.bgs := rfl
@[simp] theorem incWrap_pwr (s : State) (f : Fld) : (s.incWrap f).pwr = s.pwr := rfl
@[simp] theorem incWrap_rtc (s : State) (f : Fld) : (s.incWrap f).rtc = s.rtc := rfl
@[simp] theorem incWrap_pnl (s : State) (f : Fld) : (s.incWrap f).pnl = s.pnl := rfl
@[simp] theorem incWrap_pfm (s : State) (f : Fld) : (s.incWrap f).pfm = s.pfm := rfl
@[simp] theorem incWrap_sys (s : State) (f : Fld) : (s.incWrap f).sys = s.sys := rfl
@[simp] theorem incWrap_pending (s : State) (f : Fld) : (s.incWrap f).pending = s.pending := rfl

/-! `raise` -/
@[simp] theorem raise_shadows (s : State) (b : Blk) (n : Nat) : (s.raise b n).shadows = s.shadows := by unfold State.raise; split <;> rfl
@[simp] theorem raise_mem (s : State) (b : Blk) (n : Nat) : (s.raise b n).mem = s.mem := by unfold State.raise; split <;> rfl
@[simp] theorem raise_ue (s : State) (b : Blk) (n : Nat) : (s.raise b n).ue = s.ue := by unfold State.raise; split <;> rfl
@[simp] theorem raise_resp (s : State) (b : Blk) (n : Nat) : (s.raise b n).resp = s.resp := by unfold State.raise; split <;> rfl
@[simp] theorem raise_draws (s : State) (b : Blk) (n : Nat) : (s.raise b n).draws = s.draws := by unfold State.raise; split <;> rfl
@[simp] theorem raise_tileUsed (s : State) (b : Blk) (n : Nat) : (s.raise b n).tileUsed = s.tileUsed := by unfold State.raise; split <;> rfl
@[simp] theorem raise_tileKnown (s : State) (b : Blk) (n : Nat) : (s.raise b n).tileKnown = s.tileKnown := by unfold State.raise; split <;> rfl
@[simp] theorem raise_tb0 (s : State) (b : Blk) (n : Nat) : (s.raise b n).tb0 = s.tb0 := by unfold State.raise; split <;> rfl
@[simp] theorem raise_tb1 (s : State) (b : Blk) (n : Nat) : (s.raise b n).tb1 = s.tb1 := by unfold State.raise; split <;> rfl
@[simp] theorem raise_tb2 (s : State) (b : Blk) (n : Nat) : (s.raise b n).tb2 = s.tb2 := by unfold State.raise; split <;> rfl
@[simp] theorem raise_tb3 (s : State) (b : Blk) (n : Nat) : (s.raise b n).tb3 = s.tb3 := by unfold State.raise; split <;> rfl
@[simp] theorem raise_halted (s : State) (b : Blk) (n : Nat) : (s.raise b n).halted = s.halted := by unfold State.raise; split <;> rfl
@[simp] theorem raise_softRst (s : State) (b : Blk) (n : Nat) : (s.raise b n).softRst = s.softRst := by unfold State.raise; split <;> rfl
@[simp] theorem raise_domOff (s : State) (b : Blk) (n : Nat) : (s.raise b n).domOff = s.domOff := by unfold State.raise; split <;> rfl
@[simp] theorem raise_domIso (s : State) (b : Blk) (n : Nat) : (s.raise b n).domIso = s.domIso := by unfold State.raise; split <;> rfl
@[simp] theorem raise_inserv (s : State) (b : Blk) (n : Nat) : (s.raise b n).inserv = s.inserv := by unfold State.raise; split <;> rfl
@[simp] theorem raise_doorbells (s : State) (b : Blk) (n : Nat) : (s.raise b n).doorbells = s.doorbells := by unfold State.raise; split <;> rfl
@[simp] theorem raise_evq (s : State) (b : Blk) (n : Nat) : (s.raise b n).evq = s.evq := by unfold State.raise; split <;> rfl
@[simp] theorem raise_xlt (s : State) (b : Blk) (n : Nat) : (s.raise b n).xlt = s.xlt := by unfold State.raise; split <;> rfl
@[simp] theorem raise_cad (s : State) (b : Blk) (n : Nat) : (s.raise b n).cad = s.cad := by unfold State.raise; split <;> rfl
@[simp] theorem raise_spk (s : State) (b : Blk) (n : Nat) : (s.raise b n).spk = s.spk := by unfold State.raise; split <;> rfl
@[simp] theorem raise_lpe (s : State) (b : Blk) (n : Nat) : (s.raise b n).lpe = s.lpe := by unfold State.raise; split <;> rfl
@[simp] theorem raise_slv (s : State) (b : Blk) (n : Nat) : (s.raise b n).slv = s.slv := by unfold State.raise; split <;> rfl
@[simp] theorem raise_mtr (s : State) (b : Blk) (n : Nat) : (s.raise b n).mtr = s.mtr := by unfold State.raise; split <;> rfl
@[simp] theorem raise_nand (s : State) (b : Blk) (n : Nat) : (s.raise b n).nand = s.nand := by unfold State.raise; split <;> rfl
@[simp] theorem raise_pfw (s : State) (b : Blk) (n : Nat) : (s.raise b n).pfw = s.pfw := by unfold State.raise; split <;> rfl
@[simp] theorem raise_trueHeld (s : State) (b : Blk) (n : Nat) : (s.raise b n).trueHeld = s.trueHeld := by unfold State.raise; split <;> rfl
@[simp] theorem raise_coefNew (s : State) (b : Blk) (n : Nat) : (s.raise b n).coefNew = s.coefNew := by unfold State.raise; split <;> rfl
@[simp] theorem raise_coef (s : State) (b : Blk) (n : Nat) : (s.raise b n).coef = s.coef := by unfold State.raise; split <;> rfl
@[simp] theorem raise_tsu (s : State) (b : Blk) (n : Nat) : (s.raise b n).tsu = s.tsu := by unfold State.raise; split <;> rfl
@[simp] theorem raise_net (s : State) (b : Blk) (n : Nat) : (s.raise b n).net = s.net := by unfold State.raise; split <;> rfl
@[simp] theorem raise_fio (s : State) (b : Blk) (n : Nat) : (s.raise b n).fio = s.fio := by unfold State.raise; split <;> rfl
@[simp] theorem raise_can (s : State) (b : Blk) (n : Nat) : (s.raise b n).can = s.can := by unfold State.raise; split <;> rfl
@[simp] theorem raise_canRc (s : State) (b : Blk) (n : Nat) : (s.raise b n).canRc = s.canRc := by unfold State.raise; split <;> rfl
@[simp] theorem raise_tdm (s : State) (b : Blk) (n : Nat) : (s.raise b n).tdm = s.tdm := by unfold State.raise; split <;> rfl
@[simp] theorem raise_evr (s : State) (b : Blk) (n : Nat) : (s.raise b n).evr = s.evr := by unfold State.raise; split <;> rfl
@[simp] theorem raise_kst (s : State) (b : Blk) (n : Nat) : (s.raise b n).kst = s.kst := by unfold State.raise; split <;> rfl
@[simp] theorem raise_fab (s : State) (b : Blk) (n : Nat) : (s.raise b n).fab = s.fab := by unfold State.raise; split <;> rfl
@[simp] theorem raise_resv (s : State) (b : Blk) (n : Nat) : (s.raise b n).resv = s.resv := by unfold State.raise; split <;> rfl
@[simp] theorem raise_refreshAt (s : State) (b : Blk) (n : Nat) : (s.raise b n).refreshAt = s.refreshAt := by unfold State.raise; split <;> rfl
@[simp] theorem raise_nfm (s : State) (b : Blk) (n : Nat) : (s.raise b n).nfm = s.nfm := by unfold State.raise; split <;> rfl
@[simp] theorem raise_spareLow (s : State) (b : Blk) (n : Nat) : (s.raise b n).spareLow = s.spareLow := by unfold State.raise; split <;> rfl
@[simp] theorem raise_bgs (s : State) (b : Blk) (n : Nat) : (s.raise b n).bgs = s.bgs := by unfold State.raise; split <;> rfl
@[simp] theorem raise_pwr (s : State) (b : Blk) (n : Nat) : (s.raise b n).pwr = s.pwr := by unfold State.raise; split <;> rfl
@[simp] theorem raise_rtc (s : State) (b : Blk) (n : Nat) : (s.raise b n).rtc = s.rtc := by unfold State.raise; split <;> rfl
@[simp] theorem raise_pnl (s : State) (b : Blk) (n : Nat) : (s.raise b n).pnl = s.pnl := by unfold State.raise; split <;> rfl
@[simp] theorem raise_pfm (s : State) (b : Blk) (n : Nat) : (s.raise b n).pfm = s.pfm := by unfold State.raise; split <;> rfl
@[simp] theorem raise_sys (s : State) (b : Blk) (n : Nat) : (s.raise b n).sys = s.sys := by unfold State.raise; split <;> rfl
@[simp] theorem raise_pending (s : State) (b : Blk) (n : Nat) : (s.raise b n).pending = s.pending := by unfold State.raise; split <;> rfl

/-! `err` -/
@[simp] theorem err_shadows (s : State) (b : Blk) (code woff : Nat) : (s.err b code woff).shadows = s.shadows := by unfold State.err; rw [raise_shadows]; rfl
@[simp] theorem err_mem (s : State) (b : Blk) (code woff : Nat) : (s.err b code woff).mem = s.mem := by unfold State.err; rw [raise_mem]; rfl
@[simp] theorem err_ue (s : State) (b : Blk) (code woff : Nat) : (s.err b code woff).ue = s.ue := by unfold State.err; rw [raise_ue]; rfl
@[simp] theorem err_resp (s : State) (b : Blk) (code woff : Nat) : (s.err b code woff).resp = s.resp := by unfold State.err; rw [raise_resp]; rfl
@[simp] theorem err_draws (s : State) (b : Blk) (code woff : Nat) : (s.err b code woff).draws = s.draws := by unfold State.err; rw [raise_draws]; rfl
@[simp] theorem err_tileUsed (s : State) (b : Blk) (code woff : Nat) : (s.err b code woff).tileUsed = s.tileUsed := by unfold State.err; rw [raise_tileUsed]; rfl
@[simp] theorem err_tileKnown (s : State) (b : Blk) (code woff : Nat) : (s.err b code woff).tileKnown = s.tileKnown := by unfold State.err; rw [raise_tileKnown]; rfl
@[simp] theorem err_tb0 (s : State) (b : Blk) (code woff : Nat) : (s.err b code woff).tb0 = s.tb0 := by unfold State.err; rw [raise_tb0]; rfl
@[simp] theorem err_tb1 (s : State) (b : Blk) (code woff : Nat) : (s.err b code woff).tb1 = s.tb1 := by unfold State.err; rw [raise_tb1]; rfl
@[simp] theorem err_tb2 (s : State) (b : Blk) (code woff : Nat) : (s.err b code woff).tb2 = s.tb2 := by unfold State.err; rw [raise_tb2]; rfl
@[simp] theorem err_tb3 (s : State) (b : Blk) (code woff : Nat) : (s.err b code woff).tb3 = s.tb3 := by unfold State.err; rw [raise_tb3]; rfl
@[simp] theorem err_halted (s : State) (b : Blk) (code woff : Nat) : (s.err b code woff).halted = s.halted := by unfold State.err; rw [raise_halted]; rfl
@[simp] theorem err_softRst (s : State) (b : Blk) (code woff : Nat) : (s.err b code woff).softRst = s.softRst := by unfold State.err; rw [raise_softRst]; rfl
@[simp] theorem err_domOff (s : State) (b : Blk) (code woff : Nat) : (s.err b code woff).domOff = s.domOff := by unfold State.err; rw [raise_domOff]; rfl
@[simp] theorem err_domIso (s : State) (b : Blk) (code woff : Nat) : (s.err b code woff).domIso = s.domIso := by unfold State.err; rw [raise_domIso]; rfl
@[simp] theorem err_inserv (s : State) (b : Blk) (code woff : Nat) : (s.err b code woff).inserv = s.inserv := by unfold State.err; rw [raise_inserv]; rfl
@[simp] theorem err_doorbells (s : State) (b : Blk) (code woff : Nat) : (s.err b code woff).doorbells = s.doorbells := by unfold State.err; rw [raise_doorbells]; rfl
@[simp] theorem err_evq (s : State) (b : Blk) (code woff : Nat) : (s.err b code woff).evq = s.evq := by unfold State.err; rw [raise_evq]; rfl
@[simp] theorem err_xlt (s : State) (b : Blk) (code woff : Nat) : (s.err b code woff).xlt = s.xlt := by unfold State.err; rw [raise_xlt]; rfl
@[simp] theorem err_cad (s : State) (b : Blk) (code woff : Nat) : (s.err b code woff).cad = s.cad := by unfold State.err; rw [raise_cad]; rfl
@[simp] theorem err_spk (s : State) (b : Blk) (code woff : Nat) : (s.err b code woff).spk = s.spk := by unfold State.err; rw [raise_spk]; rfl
@[simp] theorem err_lpe (s : State) (b : Blk) (code woff : Nat) : (s.err b code woff).lpe = s.lpe := by unfold State.err; rw [raise_lpe]; rfl
@[simp] theorem err_slv (s : State) (b : Blk) (code woff : Nat) : (s.err b code woff).slv = s.slv := by unfold State.err; rw [raise_slv]; rfl
@[simp] theorem err_mtr (s : State) (b : Blk) (code woff : Nat) : (s.err b code woff).mtr = s.mtr := by unfold State.err; rw [raise_mtr]; rfl
@[simp] theorem err_nand (s : State) (b : Blk) (code woff : Nat) : (s.err b code woff).nand = s.nand := by unfold State.err; rw [raise_nand]; rfl
@[simp] theorem err_pfw (s : State) (b : Blk) (code woff : Nat) : (s.err b code woff).pfw = s.pfw := by unfold State.err; rw [raise_pfw]; rfl
@[simp] theorem err_trueHeld (s : State) (b : Blk) (code woff : Nat) : (s.err b code woff).trueHeld = s.trueHeld := by unfold State.err; rw [raise_trueHeld]; rfl
@[simp] theorem err_coefNew (s : State) (b : Blk) (code woff : Nat) : (s.err b code woff).coefNew = s.coefNew := by unfold State.err; rw [raise_coefNew]; rfl
@[simp] theorem err_coef (s : State) (b : Blk) (code woff : Nat) : (s.err b code woff).coef = s.coef := by unfold State.err; rw [raise_coef]; rfl
@[simp] theorem err_tsu (s : State) (b : Blk) (code woff : Nat) : (s.err b code woff).tsu = s.tsu := by unfold State.err; rw [raise_tsu]; rfl
@[simp] theorem err_net (s : State) (b : Blk) (code woff : Nat) : (s.err b code woff).net = s.net := by unfold State.err; rw [raise_net]; rfl
@[simp] theorem err_fio (s : State) (b : Blk) (code woff : Nat) : (s.err b code woff).fio = s.fio := by unfold State.err; rw [raise_fio]; rfl
@[simp] theorem err_can (s : State) (b : Blk) (code woff : Nat) : (s.err b code woff).can = s.can := by unfold State.err; rw [raise_can]; rfl
@[simp] theorem err_canRc (s : State) (b : Blk) (code woff : Nat) : (s.err b code woff).canRc = s.canRc := by unfold State.err; rw [raise_canRc]; rfl
@[simp] theorem err_tdm (s : State) (b : Blk) (code woff : Nat) : (s.err b code woff).tdm = s.tdm := by unfold State.err; rw [raise_tdm]; rfl
@[simp] theorem err_evr (s : State) (b : Blk) (code woff : Nat) : (s.err b code woff).evr = s.evr := by unfold State.err; rw [raise_evr]; rfl
@[simp] theorem err_kst (s : State) (b : Blk) (code woff : Nat) : (s.err b code woff).kst = s.kst := by unfold State.err; rw [raise_kst]; rfl
@[simp] theorem err_fab (s : State) (b : Blk) (code woff : Nat) : (s.err b code woff).fab = s.fab := by unfold State.err; rw [raise_fab]; rfl
@[simp] theorem err_resv (s : State) (b : Blk) (code woff : Nat) : (s.err b code woff).resv = s.resv := by unfold State.err; rw [raise_resv]; rfl
@[simp] theorem err_refreshAt (s : State) (b : Blk) (code woff : Nat) : (s.err b code woff).refreshAt = s.refreshAt := by unfold State.err; rw [raise_refreshAt]; rfl
@[simp] theorem err_nfm (s : State) (b : Blk) (code woff : Nat) : (s.err b code woff).nfm = s.nfm := by unfold State.err; rw [raise_nfm]; rfl
@[simp] theorem err_spareLow (s : State) (b : Blk) (code woff : Nat) : (s.err b code woff).spareLow = s.spareLow := by unfold State.err; rw [raise_spareLow]; rfl
@[simp] theorem err_bgs (s : State) (b : Blk) (code woff : Nat) : (s.err b code woff).bgs = s.bgs := by unfold State.err; rw [raise_bgs]; rfl
@[simp] theorem err_pwr (s : State) (b : Blk) (code woff : Nat) : (s.err b code woff).pwr = s.pwr := by unfold State.err; rw [raise_pwr]; rfl
@[simp] theorem err_rtc (s : State) (b : Blk) (code woff : Nat) : (s.err b code woff).rtc = s.rtc := by unfold State.err; rw [raise_rtc]; rfl
@[simp] theorem err_pnl (s : State) (b : Blk) (code woff : Nat) : (s.err b code woff).pnl = s.pnl := by unfold State.err; rw [raise_pnl]; rfl
@[simp] theorem err_pfm (s : State) (b : Blk) (code woff : Nat) : (s.err b code woff).pfm = s.pfm := by unfold State.err; rw [raise_pfm]; rfl
@[simp] theorem err_sys (s : State) (b : Blk) (code woff : Nat) : (s.err b code woff).sys = s.sys := by unfold State.err; rw [raise_sys]; rfl
@[simp] theorem err_pending (s : State) (b : Blk) (code woff : Nat) : (s.err b code woff).pending = s.pending := by unfold State.err; rw [raise_pending]; rfl

/-! `reply` -/
@[simp] theorem reply_regs (s : State) (d : Word) : (s.reply d).regs = s.regs := rfl
@[simp] theorem reply_shadows (s : State) (d : Word) : (s.reply d).shadows = s.shadows := rfl
@[simp] theorem reply_mem (s : State) (d : Word) : (s.reply d).mem = s.mem := rfl
@[simp] theorem reply_ue (s : State) (d : Word) : (s.reply d).ue = s.ue := rfl
@[simp] theorem reply_draws (s : State) (d : Word) : (s.reply d).draws = s.draws := rfl
@[simp] theorem reply_tileUsed (s : State) (d : Word) : (s.reply d).tileUsed = s.tileUsed := rfl
@[simp] theorem reply_tileKnown (s : State) (d : Word) : (s.reply d).tileKnown = s.tileKnown := rfl
@[simp] theorem reply_tb0 (s : State) (d : Word) : (s.reply d).tb0 = s.tb0 := rfl
@[simp] theorem reply_tb1 (s : State) (d : Word) : (s.reply d).tb1 = s.tb1 := rfl
@[simp] theorem reply_tb2 (s : State) (d : Word) : (s.reply d).tb2 = s.tb2 := rfl
@[simp] theorem reply_tb3 (s : State) (d : Word) : (s.reply d).tb3 = s.tb3 := rfl
@[simp] theorem reply_halted (s : State) (d : Word) : (s.reply d).halted = s.halted := rfl
@[simp] theorem reply_softRst (s : State) (d : Word) : (s.reply d).softRst = s.softRst := rfl
@[simp] theorem reply_domOff (s : State) (d : Word) : (s.reply d).domOff = s.domOff := rfl
@[simp] theorem reply_domIso (s : State) (d : Word) : (s.reply d).domIso = s.domIso := rfl
@[simp] theorem reply_inserv (s : State) (d : Word) : (s.reply d).inserv = s.inserv := rfl
@[simp] theorem reply_doorbells (s : State) (d : Word) : (s.reply d).doorbells = s.doorbells := rfl
@[simp] theorem reply_evq (s : State) (d : Word) : (s.reply d).evq = s.evq := rfl
@[simp] theorem reply_xlt (s : State) (d : Word) : (s.reply d).xlt = s.xlt := rfl
@[simp] theorem reply_cad (s : State) (d : Word) : (s.reply d).cad = s.cad := rfl
@[simp] theorem reply_spk (s : State) (d : Word) : (s.reply d).spk = s.spk := rfl
@[simp] theorem reply_lpe (s : State) (d : Word) : (s.reply d).lpe = s.lpe := rfl
@[simp] theorem reply_slv (s : State) (d : Word) : (s.reply d).slv = s.slv := rfl
@[simp] theorem reply_mtr (s : State) (d : Word) : (s.reply d).mtr = s.mtr := rfl
@[simp] theorem reply_nand (s : State) (d : Word) : (s.reply d).nand = s.nand := rfl
@[simp] theorem reply_pfw (s : State) (d : Word) : (s.reply d).pfw = s.pfw := rfl
@[simp] theorem reply_trueHeld (s : State) (d : Word) : (s.reply d).trueHeld = s.trueHeld := rfl
@[simp] theorem reply_coefNew (s : State) (d : Word) : (s.reply d).coefNew = s.coefNew := rfl
@[simp] theorem reply_coef (s : State) (d : Word) : (s.reply d).coef = s.coef := rfl
@[simp] theorem reply_tsu (s : State) (d : Word) : (s.reply d).tsu = s.tsu := rfl
@[simp] theorem reply_net (s : State) (d : Word) : (s.reply d).net = s.net := rfl
@[simp] theorem reply_fio (s : State) (d : Word) : (s.reply d).fio = s.fio := rfl
@[simp] theorem reply_can (s : State) (d : Word) : (s.reply d).can = s.can := rfl
@[simp] theorem reply_canRc (s : State) (d : Word) : (s.reply d).canRc = s.canRc := rfl
@[simp] theorem reply_tdm (s : State) (d : Word) : (s.reply d).tdm = s.tdm := rfl
@[simp] theorem reply_evr (s : State) (d : Word) : (s.reply d).evr = s.evr := rfl
@[simp] theorem reply_kst (s : State) (d : Word) : (s.reply d).kst = s.kst := rfl
@[simp] theorem reply_fab (s : State) (d : Word) : (s.reply d).fab = s.fab := rfl
@[simp] theorem reply_resv (s : State) (d : Word) : (s.reply d).resv = s.resv := rfl
@[simp] theorem reply_refreshAt (s : State) (d : Word) : (s.reply d).refreshAt = s.refreshAt := rfl
@[simp] theorem reply_nfm (s : State) (d : Word) : (s.reply d).nfm = s.nfm := rfl
@[simp] theorem reply_spareLow (s : State) (d : Word) : (s.reply d).spareLow = s.spareLow := rfl
@[simp] theorem reply_bgs (s : State) (d : Word) : (s.reply d).bgs = s.bgs := rfl
@[simp] theorem reply_pwr (s : State) (d : Word) : (s.reply d).pwr = s.pwr := rfl
@[simp] theorem reply_rtc (s : State) (d : Word) : (s.reply d).rtc = s.rtc := rfl
@[simp] theorem reply_pnl (s : State) (d : Word) : (s.reply d).pnl = s.pnl := rfl
@[simp] theorem reply_pfm (s : State) (d : Word) : (s.reply d).pfm = s.pfm := rfl
@[simp] theorem reply_sys (s : State) (d : Word) : (s.reply d).sys = s.sys := rfl
@[simp] theorem reply_pending (s : State) (d : Word) : (s.reply d).pending = s.pending := rfl

/-! `replyErr` -/
@[simp] theorem replyErr_regs (s : State) : (s.replyErr).regs = s.regs := rfl
@[simp] theorem replyErr_shadows (s : State) : (s.replyErr).shadows = s.shadows := rfl
@[simp] theorem replyErr_mem (s : State) : (s.replyErr).mem = s.mem := rfl
@[simp] theorem replyErr_ue (s : State) : (s.replyErr).ue = s.ue := rfl
@[simp] theorem replyErr_draws (s : State) : (s.replyErr).draws = s.draws := rfl
@[simp] theorem replyErr_tileUsed (s : State) : (s.replyErr).tileUsed = s.tileUsed := rfl
@[simp] theorem replyErr_tileKnown (s : State) : (s.replyErr).tileKnown = s.tileKnown := rfl
@[simp] theorem replyErr_tb0 (s : State) : (s.replyErr).tb0 = s.tb0 := rfl
@[simp] theorem replyErr_tb1 (s : State) : (s.replyErr).tb1 = s.tb1 := rfl
@[simp] theorem replyErr_tb2 (s : State) : (s.replyErr).tb2 = s.tb2 := rfl
@[simp] theorem replyErr_tb3 (s : State) : (s.replyErr).tb3 = s.tb3 := rfl
@[simp] theorem replyErr_halted (s : State) : (s.replyErr).halted = s.halted := rfl
@[simp] theorem replyErr_softRst (s : State) : (s.replyErr).softRst = s.softRst := rfl
@[simp] theorem replyErr_domOff (s : State) : (s.replyErr).domOff = s.domOff := rfl
@[simp] theorem replyErr_domIso (s : State) : (s.replyErr).domIso = s.domIso := rfl
@[simp] theorem replyErr_inserv (s : State) : (s.replyErr).inserv = s.inserv := rfl
@[simp] theorem replyErr_doorbells (s : State) : (s.replyErr).doorbells = s.doorbells := rfl
@[simp] theorem replyErr_evq (s : State) : (s.replyErr).evq = s.evq := rfl
@[simp] theorem replyErr_xlt (s : State) : (s.replyErr).xlt = s.xlt := rfl
@[simp] theorem replyErr_cad (s : State) : (s.replyErr).cad = s.cad := rfl
@[simp] theorem replyErr_spk (s : State) : (s.replyErr).spk = s.spk := rfl
@[simp] theorem replyErr_lpe (s : State) : (s.replyErr).lpe = s.lpe := rfl
@[simp] theorem replyErr_slv (s : State) : (s.replyErr).slv = s.slv := rfl
@[simp] theorem replyErr_mtr (s : State) : (s.replyErr).mtr = s.mtr := rfl
@[simp] theorem replyErr_nand (s : State) : (s.replyErr).nand = s.nand := rfl
@[simp] theorem replyErr_pfw (s : State) : (s.replyErr).pfw = s.pfw := rfl
@[simp] theorem replyErr_trueHeld (s : State) : (s.replyErr).trueHeld = s.trueHeld := rfl
@[simp] theorem replyErr_coefNew (s : State) : (s.replyErr).coefNew = s.coefNew := rfl
@[simp] theorem replyErr_coef (s : State) : (s.replyErr).coef = s.coef := rfl
@[simp] theorem replyErr_tsu (s : State) : (s.replyErr).tsu = s.tsu := rfl
@[simp] theorem replyErr_net (s : State) : (s.replyErr).net = s.net := rfl
@[simp] theorem replyErr_fio (s : State) : (s.replyErr).fio = s.fio := rfl
@[simp] theorem replyErr_can (s : State) : (s.replyErr).can = s.can := rfl
@[simp] theorem replyErr_canRc (s : State) : (s.replyErr).canRc = s.canRc := rfl
@[simp] theorem replyErr_tdm (s : State) : (s.replyErr).tdm = s.tdm := rfl
@[simp] theorem replyErr_evr (s : State) : (s.replyErr).evr = s.evr := rfl
@[simp] theorem replyErr_kst (s : State) : (s.replyErr).kst = s.kst := rfl
@[simp] theorem replyErr_fab (s : State) : (s.replyErr).fab = s.fab := rfl
@[simp] theorem replyErr_resv (s : State) : (s.replyErr).resv = s.resv := rfl
@[simp] theorem replyErr_refreshAt (s : State) : (s.replyErr).refreshAt = s.refreshAt := rfl
@[simp] theorem replyErr_nfm (s : State) : (s.replyErr).nfm = s.nfm := rfl
@[simp] theorem replyErr_spareLow (s : State) : (s.replyErr).spareLow = s.spareLow := rfl
@[simp] theorem replyErr_bgs (s : State) : (s.replyErr).bgs = s.bgs := rfl
@[simp] theorem replyErr_pwr (s : State) : (s.replyErr).pwr = s.pwr := rfl
@[simp] theorem replyErr_rtc (s : State) : (s.replyErr).rtc = s.rtc := rfl
@[simp] theorem replyErr_pnl (s : State) : (s.replyErr).pnl = s.pnl := rfl
@[simp] theorem replyErr_pfm (s : State) : (s.replyErr).pfm = s.pfm := rfl
@[simp] theorem replyErr_sys (s : State) : (s.replyErr).sys = s.sys := rfl
@[simp] theorem replyErr_pending (s : State) : (s.replyErr).pending = s.pending := rfl

/-! `putBytes` -/
@[simp] theorem putBytes_regs (s : State) (a : Nat) (bs : List Byte) : (s.putBytes a bs).regs = s.regs := rfl
@[simp] theorem putBytes_shadows (s : State) (a : Nat) (bs : List Byte) : (s.putBytes a bs).shadows = s.shadows := rfl
@[simp] theorem putBytes_ue (s : State) (a : Nat) (bs : List Byte) : (s.putBytes a bs).ue = s.ue := rfl
@[simp] theorem putBytes_resp (s : State) (a : Nat) (bs : List Byte) : (s.putBytes a bs).resp = s.resp := rfl
@[simp] theorem putBytes_draws (s : State) (a : Nat) (bs : List Byte) : (s.putBytes a bs).draws = s.draws := rfl
@[simp] theorem putBytes_tileUsed (s : State) (a : Nat) (bs : List Byte) : (s.putBytes a bs).tileUsed = s.tileUsed := rfl
@[simp] theorem putBytes_tb0 (s : State) (a : Nat) (bs : List Byte) : (s.putBytes a bs).tb0 = s.tb0 := rfl
@[simp] theorem putBytes_tb1 (s : State) (a : Nat) (bs : List Byte) : (s.putBytes a bs).tb1 = s.tb1 := rfl
@[simp] theorem putBytes_tb2 (s : State) (a : Nat) (bs : List Byte) : (s.putBytes a bs).tb2 = s.tb2 := rfl
@[simp] theorem putBytes_tb3 (s : State) (a : Nat) (bs : List Byte) : (s.putBytes a bs).tb3 = s.tb3 := rfl
@[simp] theorem putBytes_halted (s : State) (a : Nat) (bs : List Byte) : (s.putBytes a bs).halted = s.halted := rfl
@[simp] theorem putBytes_softRst (s : State) (a : Nat) (bs : List Byte) : (s.putBytes a bs).softRst = s.softRst := rfl
@[simp] theorem putBytes_domOff (s : State) (a : Nat) (bs : List Byte) : (s.putBytes a bs).domOff = s.domOff := rfl
@[simp] theorem putBytes_domIso (s : State) (a : Nat) (bs : List Byte) : (s.putBytes a bs).domIso = s.domIso := rfl
@[simp] theorem putBytes_inserv (s : State) (a : Nat) (bs : List Byte) : (s.putBytes a bs).inserv = s.inserv := rfl
@[simp] theorem putBytes_doorbells (s : State) (a : Nat) (bs : List Byte) : (s.putBytes a bs).doorbells = s.doorbells := rfl
@[simp] theorem putBytes_evq (s : State) (a : Nat) (bs : List Byte) : (s.putBytes a bs).evq = s.evq := rfl
@[simp] theorem putBytes_xlt (s : State) (a : Nat) (bs : List Byte) : (s.putBytes a bs).xlt = s.xlt := rfl
@[simp] theorem putBytes_cad (s : State) (a : Nat) (bs : List Byte) : (s.putBytes a bs).cad = s.cad := rfl
@[simp] theorem putBytes_spk (s : State) (a : Nat) (bs : List Byte) : (s.putBytes a bs).spk = s.spk := rfl
@[simp] theorem putBytes_lpe (s : State) (a : Nat) (bs : List Byte) : (s.putBytes a bs).lpe = s.lpe := rfl
@[simp] theorem putBytes_slv (s : State) (a : Nat) (bs : List Byte) : (s.putBytes a bs).slv = s.slv := rfl
@[simp] theorem putBytes_mtr (s : State) (a : Nat) (bs : List Byte) : (s.putBytes a bs).mtr = s.mtr := rfl
@[simp] theorem putBytes_nand (s : State) (a : Nat) (bs : List Byte) : (s.putBytes a bs).nand = s.nand := rfl
@[simp] theorem putBytes_pfw (s : State) (a : Nat) (bs : List Byte) : (s.putBytes a bs).pfw = s.pfw := rfl
@[simp] theorem putBytes_trueHeld (s : State) (a : Nat) (bs : List Byte) : (s.putBytes a bs).trueHeld = s.trueHeld := rfl
@[simp] theorem putBytes_coefNew (s : State) (a : Nat) (bs : List Byte) : (s.putBytes a bs).coefNew = s.coefNew := rfl
@[simp] theorem putBytes_coef (s : State) (a : Nat) (bs : List Byte) : (s.putBytes a bs).coef = s.coef := rfl
@[simp] theorem putBytes_tsu (s : State) (a : Nat) (bs : List Byte) : (s.putBytes a bs).tsu = s.tsu := rfl
@[simp] theorem putBytes_net (s : State) (a : Nat) (bs : List Byte) : (s.putBytes a bs).net = s.net := rfl
@[simp] theorem putBytes_fio (s : State) (a : Nat) (bs : List Byte) : (s.putBytes a bs).fio = s.fio := rfl
@[simp] theorem putBytes_can (s : State) (a : Nat) (bs : List Byte) : (s.putBytes a bs).can = s.can := rfl
@[simp] theorem putBytes_canRc (s : State) (a : Nat) (bs : List Byte) : (s.putBytes a bs).canRc = s.canRc := rfl
@[simp] theorem putBytes_tdm (s : State) (a : Nat) (bs : List Byte) : (s.putBytes a bs).tdm = s.tdm := rfl
@[simp] theorem putBytes_evr (s : State) (a : Nat) (bs : List Byte) : (s.putBytes a bs).evr = s.evr := rfl
@[simp] theorem putBytes_kst (s : State) (a : Nat) (bs : List Byte) : (s.putBytes a bs).kst = s.kst := rfl
@[simp] theorem putBytes_fab (s : State) (a : Nat) (bs : List Byte) : (s.putBytes a bs).fab = s.fab := rfl
@[simp] theorem putBytes_refreshAt (s : State) (a : Nat) (bs : List Byte) : (s.putBytes a bs).refreshAt = s.refreshAt := rfl
@[simp] theorem putBytes_nfm (s : State) (a : Nat) (bs : List Byte) : (s.putBytes a bs).nfm = s.nfm := rfl
@[simp] theorem putBytes_spareLow (s : State) (a : Nat) (bs : List Byte) : (s.putBytes a bs).spareLow = s.spareLow := rfl
@[simp] theorem putBytes_bgs (s : State) (a : Nat) (bs : List Byte) : (s.putBytes a bs).bgs = s.bgs := rfl
@[simp] theorem putBytes_pwr (s : State) (a : Nat) (bs : List Byte) : (s.putBytes a bs).pwr = s.pwr := rfl
@[simp] theorem putBytes_rtc (s : State) (a : Nat) (bs : List Byte) : (s.putBytes a bs).rtc = s.rtc := rfl
@[simp] theorem putBytes_pnl (s : State) (a : Nat) (bs : List Byte) : (s.putBytes a bs).pnl = s.pnl := rfl
@[simp] theorem putBytes_pfm (s : State) (a : Nat) (bs : List Byte) : (s.putBytes a bs).pfm = s.pfm := rfl
@[simp] theorem putBytes_sys (s : State) (a : Nat) (bs : List Byte) : (s.putBytes a bs).sys = s.sys := rfl
@[simp] theorem putBytes_pending (s : State) (a : Nat) (bs : List Byte) : (s.putBytes a bs).pending = s.pending := rfl

/-! `wrLe` -/
@[simp] theorem wrLe_regs (s : State) (a n v : Nat) : (s.wrLe a n v).regs = s.regs := rfl
@[simp] theorem wrLe_shadows (s : State) (a n v : Nat) : (s.wrLe a n v).shadows = s.shadows := rfl
@[simp] theorem wrLe_ue (s : State) (a n v : Nat) : (s.wrLe a n v).ue = s.ue := rfl
@[simp] theorem wrLe_resp (s : State) (a n v : Nat) : (s.wrLe a n v).resp = s.resp := rfl
@[simp] theorem wrLe_draws (s : State) (a n v : Nat) : (s.wrLe a n v).draws = s.draws := rfl
@[simp] theorem wrLe_tileUsed (s : State) (a n v : Nat) : (s.wrLe a n v).tileUsed = s.tileUsed := rfl
@[simp] theorem wrLe_tb0 (s : State) (a n v : Nat) : (s.wrLe a n v).tb0 = s.tb0 := rfl
@[simp] theorem wrLe_tb1 (s : State) (a n v : Nat) : (s.wrLe a n v).tb1 = s.tb1 := rfl
@[simp] theorem wrLe_tb2 (s : State) (a n v : Nat) : (s.wrLe a n v).tb2 = s.tb2 := rfl
@[simp] theorem wrLe_tb3 (s : State) (a n v : Nat) : (s.wrLe a n v).tb3 = s.tb3 := rfl
@[simp] theorem wrLe_halted (s : State) (a n v : Nat) : (s.wrLe a n v).halted = s.halted := rfl
@[simp] theorem wrLe_softRst (s : State) (a n v : Nat) : (s.wrLe a n v).softRst = s.softRst := rfl
@[simp] theorem wrLe_domOff (s : State) (a n v : Nat) : (s.wrLe a n v).domOff = s.domOff := rfl
@[simp] theorem wrLe_domIso (s : State) (a n v : Nat) : (s.wrLe a n v).domIso = s.domIso := rfl
@[simp] theorem wrLe_inserv (s : State) (a n v : Nat) : (s.wrLe a n v).inserv = s.inserv := rfl
@[simp] theorem wrLe_doorbells (s : State) (a n v : Nat) : (s.wrLe a n v).doorbells = s.doorbells := rfl
@[simp] theorem wrLe_evq (s : State) (a n v : Nat) : (s.wrLe a n v).evq = s.evq := rfl
@[simp] theorem wrLe_xlt (s : State) (a n v : Nat) : (s.wrLe a n v).xlt = s.xlt := rfl
@[simp] theorem wrLe_cad (s : State) (a n v : Nat) : (s.wrLe a n v).cad = s.cad := rfl
@[simp] theorem wrLe_spk (s : State) (a n v : Nat) : (s.wrLe a n v).spk = s.spk := rfl
@[simp] theorem wrLe_lpe (s : State) (a n v : Nat) : (s.wrLe a n v).lpe = s.lpe := rfl
@[simp] theorem wrLe_slv (s : State) (a n v : Nat) : (s.wrLe a n v).slv = s.slv := rfl
@[simp] theorem wrLe_mtr (s : State) (a n v : Nat) : (s.wrLe a n v).mtr = s.mtr := rfl
@[simp] theorem wrLe_nand (s : State) (a n v : Nat) : (s.wrLe a n v).nand = s.nand := rfl
@[simp] theorem wrLe_pfw (s : State) (a n v : Nat) : (s.wrLe a n v).pfw = s.pfw := rfl
@[simp] theorem wrLe_trueHeld (s : State) (a n v : Nat) : (s.wrLe a n v).trueHeld = s.trueHeld := rfl
@[simp] theorem wrLe_coefNew (s : State) (a n v : Nat) : (s.wrLe a n v).coefNew = s.coefNew := rfl
@[simp] theorem wrLe_coef (s : State) (a n v : Nat) : (s.wrLe a n v).coef = s.coef := rfl
@[simp] theorem wrLe_tsu (s : State) (a n v : Nat) : (s.wrLe a n v).tsu = s.tsu := rfl
@[simp] theorem wrLe_net (s : State) (a n v : Nat) : (s.wrLe a n v).net = s.net := rfl
@[simp] theorem wrLe_fio (s : State) (a n v : Nat) : (s.wrLe a n v).fio = s.fio := rfl
@[simp] theorem wrLe_can (s : State) (a n v : Nat) : (s.wrLe a n v).can = s.can := rfl
@[simp] theorem wrLe_canRc (s : State) (a n v : Nat) : (s.wrLe a n v).canRc = s.canRc := rfl
@[simp] theorem wrLe_tdm (s : State) (a n v : Nat) : (s.wrLe a n v).tdm = s.tdm := rfl
@[simp] theorem wrLe_evr (s : State) (a n v : Nat) : (s.wrLe a n v).evr = s.evr := rfl
@[simp] theorem wrLe_kst (s : State) (a n v : Nat) : (s.wrLe a n v).kst = s.kst := rfl
@[simp] theorem wrLe_fab (s : State) (a n v : Nat) : (s.wrLe a n v).fab = s.fab := rfl
@[simp] theorem wrLe_refreshAt (s : State) (a n v : Nat) : (s.wrLe a n v).refreshAt = s.refreshAt := rfl
@[simp] theorem wrLe_nfm (s : State) (a n v : Nat) : (s.wrLe a n v).nfm = s.nfm := rfl
@[simp] theorem wrLe_spareLow (s : State) (a n v : Nat) : (s.wrLe a n v).spareLow = s.spareLow := rfl
@[simp] theorem wrLe_bgs (s : State) (a n v : Nat) : (s.wrLe a n v).bgs = s.bgs := rfl
@[simp] theorem wrLe_pwr (s : State) (a n v : Nat) : (s.wrLe a n v).pwr = s.pwr := rfl
@[simp] theorem wrLe_rtc (s : State) (a n v : Nat) : (s.wrLe a n v).rtc = s.rtc := rfl
@[simp] theorem wrLe_pnl (s : State) (a n v : Nat) : (s.wrLe a n v).pnl = s.pnl := rfl
@[simp] theorem wrLe_pfm (s : State) (a n v : Nat) : (s.wrLe a n v).pfm = s.pfm := rfl
@[simp] theorem wrLe_sys (s : State) (a n v : Nat) : (s.wrLe a n v).sys = s.sys := rfl
@[simp] theorem wrLe_pending (s : State) (a n v : Nat) : (s.wrLe a n v).pending = s.pending := rfl

/-! `setCtx` -/
@[simp] theorem setCtx_regs (s : State) (c : Fin 16) (x : LaneCtx) : (s.setCtx c x).regs = s.regs := rfl
@[simp] theorem setCtx_shadows (s : State) (c : Fin 16) (x : LaneCtx) : (s.setCtx c x).shadows = s.shadows := rfl
@[simp] theorem setCtx_mem (s : State) (c : Fin 16) (x : LaneCtx) : (s.setCtx c x).mem = s.mem := rfl
@[simp] theorem setCtx_ue (s : State) (c : Fin 16) (x : LaneCtx) : (s.setCtx c x).ue = s.ue := rfl
@[simp] theorem setCtx_resp (s : State) (c : Fin 16) (x : LaneCtx) : (s.setCtx c x).resp = s.resp := rfl
@[simp] theorem setCtx_draws (s : State) (c : Fin 16) (x : LaneCtx) : (s.setCtx c x).draws = s.draws := rfl
@[simp] theorem setCtx_tileUsed (s : State) (c : Fin 16) (x : LaneCtx) : (s.setCtx c x).tileUsed = s.tileUsed := rfl
@[simp] theorem setCtx_tileKnown (s : State) (c : Fin 16) (x : LaneCtx) : (s.setCtx c x).tileKnown = s.tileKnown := rfl
@[simp] theorem setCtx_tb0 (s : State) (c : Fin 16) (x : LaneCtx) : (s.setCtx c x).tb0 = s.tb0 := rfl
@[simp] theorem setCtx_tb1 (s : State) (c : Fin 16) (x : LaneCtx) : (s.setCtx c x).tb1 = s.tb1 := rfl
@[simp] theorem setCtx_tb2 (s : State) (c : Fin 16) (x : LaneCtx) : (s.setCtx c x).tb2 = s.tb2 := rfl
@[simp] theorem setCtx_tb3 (s : State) (c : Fin 16) (x : LaneCtx) : (s.setCtx c x).tb3 = s.tb3 := rfl
@[simp] theorem setCtx_halted (s : State) (c : Fin 16) (x : LaneCtx) : (s.setCtx c x).halted = s.halted := rfl
@[simp] theorem setCtx_softRst (s : State) (c : Fin 16) (x : LaneCtx) : (s.setCtx c x).softRst = s.softRst := rfl
@[simp] theorem setCtx_domOff (s : State) (c : Fin 16) (x : LaneCtx) : (s.setCtx c x).domOff = s.domOff := rfl
@[simp] theorem setCtx_domIso (s : State) (c : Fin 16) (x : LaneCtx) : (s.setCtx c x).domIso = s.domIso := rfl
@[simp] theorem setCtx_inserv (s : State) (c : Fin 16) (x : LaneCtx) : (s.setCtx c x).inserv = s.inserv := rfl
@[simp] theorem setCtx_doorbells (s : State) (c : Fin 16) (x : LaneCtx) : (s.setCtx c x).doorbells = s.doorbells := rfl
@[simp] theorem setCtx_evq (s : State) (c : Fin 16) (x : LaneCtx) : (s.setCtx c x).evq = s.evq := rfl
@[simp] theorem setCtx_xlt (s : State) (c : Fin 16) (x : LaneCtx) : (s.setCtx c x).xlt = s.xlt := rfl
@[simp] theorem setCtx_spk (s : State) (c : Fin 16) (x : LaneCtx) : (s.setCtx c x).spk = s.spk := rfl
@[simp] theorem setCtx_lpe (s : State) (c : Fin 16) (x : LaneCtx) : (s.setCtx c x).lpe = s.lpe := rfl
@[simp] theorem setCtx_slv (s : State) (c : Fin 16) (x : LaneCtx) : (s.setCtx c x).slv = s.slv := rfl
@[simp] theorem setCtx_mtr (s : State) (c : Fin 16) (x : LaneCtx) : (s.setCtx c x).mtr = s.mtr := rfl
@[simp] theorem setCtx_nand (s : State) (c : Fin 16) (x : LaneCtx) : (s.setCtx c x).nand = s.nand := rfl
@[simp] theorem setCtx_pfw (s : State) (c : Fin 16) (x : LaneCtx) : (s.setCtx c x).pfw = s.pfw := rfl
@[simp] theorem setCtx_trueHeld (s : State) (c : Fin 16) (x : LaneCtx) : (s.setCtx c x).trueHeld = s.trueHeld := rfl
@[simp] theorem setCtx_coefNew (s : State) (c : Fin 16) (x : LaneCtx) : (s.setCtx c x).coefNew = s.coefNew := rfl
@[simp] theorem setCtx_coef (s : State) (c : Fin 16) (x : LaneCtx) : (s.setCtx c x).coef = s.coef := rfl
@[simp] theorem setCtx_tsu (s : State) (c : Fin 16) (x : LaneCtx) : (s.setCtx c x).tsu = s.tsu := rfl
@[simp] theorem setCtx_net (s : State) (c : Fin 16) (x : LaneCtx) : (s.setCtx c x).net = s.net := rfl
@[simp] theorem setCtx_fio (s : State) (c : Fin 16) (x : LaneCtx) : (s.setCtx c x).fio = s.fio := rfl
@[simp] theorem setCtx_can (s : State) (c : Fin 16) (x : LaneCtx) : (s.setCtx c x).can = s.can := rfl
@[simp] theorem setCtx_canRc (s : State) (c : Fin 16) (x : LaneCtx) : (s.setCtx c x).canRc = s.canRc := rfl
@[simp] theorem setCtx_tdm (s : State) (c : Fin 16) (x : LaneCtx) : (s.setCtx c x).tdm = s.tdm := rfl
@[simp] theorem setCtx_evr (s : State) (c : Fin 16) (x : LaneCtx) : (s.setCtx c x).evr = s.evr := rfl
@[simp] theorem setCtx_kst (s : State) (c : Fin 16) (x : LaneCtx) : (s.setCtx c x).kst = s.kst := rfl
@[simp] theorem setCtx_fab (s : State) (c : Fin 16) (x : LaneCtx) : (s.setCtx c x).fab = s.fab := rfl
@[simp] theorem setCtx_resv (s : State) (c : Fin 16) (x : LaneCtx) : (s.setCtx c x).resv = s.resv := rfl
@[simp] theorem setCtx_refreshAt (s : State) (c : Fin 16) (x : LaneCtx) : (s.setCtx c x).refreshAt = s.refreshAt := rfl
@[simp] theorem setCtx_nfm (s : State) (c : Fin 16) (x : LaneCtx) : (s.setCtx c x).nfm = s.nfm := rfl
@[simp] theorem setCtx_spareLow (s : State) (c : Fin 16) (x : LaneCtx) : (s.setCtx c x).spareLow = s.spareLow := rfl
@[simp] theorem setCtx_bgs (s : State) (c : Fin 16) (x : LaneCtx) : (s.setCtx c x).bgs = s.bgs := rfl
@[simp] theorem setCtx_pwr (s : State) (c : Fin 16) (x : LaneCtx) : (s.setCtx c x).pwr = s.pwr := rfl
@[simp] theorem setCtx_rtc (s : State) (c : Fin 16) (x : LaneCtx) : (s.setCtx c x).rtc = s.rtc := rfl
@[simp] theorem setCtx_pnl (s : State) (c : Fin 16) (x : LaneCtx) : (s.setCtx c x).pnl = s.pnl := rfl
@[simp] theorem setCtx_pfm (s : State) (c : Fin 16) (x : LaneCtx) : (s.setCtx c x).pfm = s.pfm := rfl
@[simp] theorem setCtx_sys (s : State) (c : Fin 16) (x : LaneCtx) : (s.setCtx c x).sys = s.sys := rfl
@[simp] theorem setCtx_pending (s : State) (c : Fin 16) (x : LaneCtx) : (s.setCtx c x).pending = s.pending := rfl

/-! `setTask` -/
@[simp] theorem setTask_regs (s : State) (n : Fin 8) (x : Task) : (s.setTask n x).regs = s.regs := rfl
@[simp] theorem setTask_shadows (s : State) (n : Fin 8) (x : Task) : (s.setTask n x).shadows = s.shadows := rfl
@[simp] theorem setTask_mem (s : State) (n : Fin 8) (x : Task) : (s.setTask n x).mem = s.mem := rfl
@[simp] theorem setTask_ue (s : State) (n : Fin 8) (x : Task) : (s.setTask n x).ue = s.ue := rfl
@[simp] theorem setTask_resp (s : State) (n : Fin 8) (x : Task) : (s.setTask n x).resp = s.resp := rfl
@[simp] theorem setTask_draws (s : State) (n : Fin 8) (x : Task) : (s.setTask n x).draws = s.draws := rfl
@[simp] theorem setTask_tileUsed (s : State) (n : Fin 8) (x : Task) : (s.setTask n x).tileUsed = s.tileUsed := rfl
@[simp] theorem setTask_tileKnown (s : State) (n : Fin 8) (x : Task) : (s.setTask n x).tileKnown = s.tileKnown := rfl
@[simp] theorem setTask_tb0 (s : State) (n : Fin 8) (x : Task) : (s.setTask n x).tb0 = s.tb0 := rfl
@[simp] theorem setTask_tb1 (s : State) (n : Fin 8) (x : Task) : (s.setTask n x).tb1 = s.tb1 := rfl
@[simp] theorem setTask_tb2 (s : State) (n : Fin 8) (x : Task) : (s.setTask n x).tb2 = s.tb2 := rfl
@[simp] theorem setTask_tb3 (s : State) (n : Fin 8) (x : Task) : (s.setTask n x).tb3 = s.tb3 := rfl
@[simp] theorem setTask_halted (s : State) (n : Fin 8) (x : Task) : (s.setTask n x).halted = s.halted := rfl
@[simp] theorem setTask_softRst (s : State) (n : Fin 8) (x : Task) : (s.setTask n x).softRst = s.softRst := rfl
@[simp] theorem setTask_domOff (s : State) (n : Fin 8) (x : Task) : (s.setTask n x).domOff = s.domOff := rfl
@[simp] theorem setTask_domIso (s : State) (n : Fin 8) (x : Task) : (s.setTask n x).domIso = s.domIso := rfl
@[simp] theorem setTask_inserv (s : State) (n : Fin 8) (x : Task) : (s.setTask n x).inserv = s.inserv := rfl
@[simp] theorem setTask_doorbells (s : State) (n : Fin 8) (x : Task) : (s.setTask n x).doorbells = s.doorbells := rfl
@[simp] theorem setTask_evq (s : State) (n : Fin 8) (x : Task) : (s.setTask n x).evq = s.evq := rfl
@[simp] theorem setTask_xlt (s : State) (n : Fin 8) (x : Task) : (s.setTask n x).xlt = s.xlt := rfl
@[simp] theorem setTask_spk (s : State) (n : Fin 8) (x : Task) : (s.setTask n x).spk = s.spk := rfl
@[simp] theorem setTask_lpe (s : State) (n : Fin 8) (x : Task) : (s.setTask n x).lpe = s.lpe := rfl
@[simp] theorem setTask_slv (s : State) (n : Fin 8) (x : Task) : (s.setTask n x).slv = s.slv := rfl
@[simp] theorem setTask_mtr (s : State) (n : Fin 8) (x : Task) : (s.setTask n x).mtr = s.mtr := rfl
@[simp] theorem setTask_nand (s : State) (n : Fin 8) (x : Task) : (s.setTask n x).nand = s.nand := rfl
@[simp] theorem setTask_pfw (s : State) (n : Fin 8) (x : Task) : (s.setTask n x).pfw = s.pfw := rfl
@[simp] theorem setTask_trueHeld (s : State) (n : Fin 8) (x : Task) : (s.setTask n x).trueHeld = s.trueHeld := rfl
@[simp] theorem setTask_coefNew (s : State) (n : Fin 8) (x : Task) : (s.setTask n x).coefNew = s.coefNew := rfl
@[simp] theorem setTask_coef (s : State) (n : Fin 8) (x : Task) : (s.setTask n x).coef = s.coef := rfl
@[simp] theorem setTask_tsu (s : State) (n : Fin 8) (x : Task) : (s.setTask n x).tsu = s.tsu := rfl
@[simp] theorem setTask_net (s : State) (n : Fin 8) (x : Task) : (s.setTask n x).net = s.net := rfl
@[simp] theorem setTask_fio (s : State) (n : Fin 8) (x : Task) : (s.setTask n x).fio = s.fio := rfl
@[simp] theorem setTask_can (s : State) (n : Fin 8) (x : Task) : (s.setTask n x).can = s.can := rfl
@[simp] theorem setTask_canRc (s : State) (n : Fin 8) (x : Task) : (s.setTask n x).canRc = s.canRc := rfl
@[simp] theorem setTask_tdm (s : State) (n : Fin 8) (x : Task) : (s.setTask n x).tdm = s.tdm := rfl
@[simp] theorem setTask_evr (s : State) (n : Fin 8) (x : Task) : (s.setTask n x).evr = s.evr := rfl
@[simp] theorem setTask_kst (s : State) (n : Fin 8) (x : Task) : (s.setTask n x).kst = s.kst := rfl
@[simp] theorem setTask_fab (s : State) (n : Fin 8) (x : Task) : (s.setTask n x).fab = s.fab := rfl
@[simp] theorem setTask_resv (s : State) (n : Fin 8) (x : Task) : (s.setTask n x).resv = s.resv := rfl
@[simp] theorem setTask_refreshAt (s : State) (n : Fin 8) (x : Task) : (s.setTask n x).refreshAt = s.refreshAt := rfl
@[simp] theorem setTask_nfm (s : State) (n : Fin 8) (x : Task) : (s.setTask n x).nfm = s.nfm := rfl
@[simp] theorem setTask_spareLow (s : State) (n : Fin 8) (x : Task) : (s.setTask n x).spareLow = s.spareLow := rfl
@[simp] theorem setTask_bgs (s : State) (n : Fin 8) (x : Task) : (s.setTask n x).bgs = s.bgs := rfl
@[simp] theorem setTask_pwr (s : State) (n : Fin 8) (x : Task) : (s.setTask n x).pwr = s.pwr := rfl
@[simp] theorem setTask_rtc (s : State) (n : Fin 8) (x : Task) : (s.setTask n x).rtc = s.rtc := rfl
@[simp] theorem setTask_pnl (s : State) (n : Fin 8) (x : Task) : (s.setTask n x).pnl = s.pnl := rfl
@[simp] theorem setTask_pfm (s : State) (n : Fin 8) (x : Task) : (s.setTask n x).pfm = s.pfm := rfl
@[simp] theorem setTask_sys (s : State) (n : Fin 8) (x : Task) : (s.setTask n x).sys = s.sys := rfl
@[simp] theorem setTask_pending (s : State) (n : Fin 8) (x : Task) : (s.setTask n x).pending = s.pending := rfl

/-! `setCan` -/
@[simp] theorem setCan_regs (s : State) (p : Fin 4) (x : CanPort) : (s.setCan p x).regs = s.regs := rfl
@[simp] theorem setCan_shadows (s : State) (p : Fin 4) (x : CanPort) : (s.setCan p x).shadows = s.shadows := rfl
@[simp] theorem setCan_mem (s : State) (p : Fin 4) (x : CanPort) : (s.setCan p x).mem = s.mem := rfl
@[simp] theorem setCan_ue (s : State) (p : Fin 4) (x : CanPort) : (s.setCan p x).ue = s.ue := rfl
@[simp] theorem setCan_resp (s : State) (p : Fin 4) (x : CanPort) : (s.setCan p x).resp = s.resp := rfl
@[simp] theorem setCan_draws (s : State) (p : Fin 4) (x : CanPort) : (s.setCan p x).draws = s.draws := rfl
@[simp] theorem setCan_tileUsed (s : State) (p : Fin 4) (x : CanPort) : (s.setCan p x).tileUsed = s.tileUsed := rfl
@[simp] theorem setCan_tileKnown (s : State) (p : Fin 4) (x : CanPort) : (s.setCan p x).tileKnown = s.tileKnown := rfl
@[simp] theorem setCan_tb0 (s : State) (p : Fin 4) (x : CanPort) : (s.setCan p x).tb0 = s.tb0 := rfl
@[simp] theorem setCan_tb1 (s : State) (p : Fin 4) (x : CanPort) : (s.setCan p x).tb1 = s.tb1 := rfl
@[simp] theorem setCan_tb2 (s : State) (p : Fin 4) (x : CanPort) : (s.setCan p x).tb2 = s.tb2 := rfl
@[simp] theorem setCan_tb3 (s : State) (p : Fin 4) (x : CanPort) : (s.setCan p x).tb3 = s.tb3 := rfl
@[simp] theorem setCan_halted (s : State) (p : Fin 4) (x : CanPort) : (s.setCan p x).halted = s.halted := rfl
@[simp] theorem setCan_softRst (s : State) (p : Fin 4) (x : CanPort) : (s.setCan p x).softRst = s.softRst := rfl
@[simp] theorem setCan_domOff (s : State) (p : Fin 4) (x : CanPort) : (s.setCan p x).domOff = s.domOff := rfl
@[simp] theorem setCan_domIso (s : State) (p : Fin 4) (x : CanPort) : (s.setCan p x).domIso = s.domIso := rfl
@[simp] theorem setCan_inserv (s : State) (p : Fin 4) (x : CanPort) : (s.setCan p x).inserv = s.inserv := rfl
@[simp] theorem setCan_doorbells (s : State) (p : Fin 4) (x : CanPort) : (s.setCan p x).doorbells = s.doorbells := rfl
@[simp] theorem setCan_evq (s : State) (p : Fin 4) (x : CanPort) : (s.setCan p x).evq = s.evq := rfl
@[simp] theorem setCan_xlt (s : State) (p : Fin 4) (x : CanPort) : (s.setCan p x).xlt = s.xlt := rfl
@[simp] theorem setCan_cad (s : State) (p : Fin 4) (x : CanPort) : (s.setCan p x).cad = s.cad := rfl
@[simp] theorem setCan_spk (s : State) (p : Fin 4) (x : CanPort) : (s.setCan p x).spk = s.spk := rfl
@[simp] theorem setCan_lpe (s : State) (p : Fin 4) (x : CanPort) : (s.setCan p x).lpe = s.lpe := rfl
@[simp] theorem setCan_slv (s : State) (p : Fin 4) (x : CanPort) : (s.setCan p x).slv = s.slv := rfl
@[simp] theorem setCan_mtr (s : State) (p : Fin 4) (x : CanPort) : (s.setCan p x).mtr = s.mtr := rfl
@[simp] theorem setCan_nand (s : State) (p : Fin 4) (x : CanPort) : (s.setCan p x).nand = s.nand := rfl
@[simp] theorem setCan_pfw (s : State) (p : Fin 4) (x : CanPort) : (s.setCan p x).pfw = s.pfw := rfl
@[simp] theorem setCan_trueHeld (s : State) (p : Fin 4) (x : CanPort) : (s.setCan p x).trueHeld = s.trueHeld := rfl
@[simp] theorem setCan_coefNew (s : State) (p : Fin 4) (x : CanPort) : (s.setCan p x).coefNew = s.coefNew := rfl
@[simp] theorem setCan_coef (s : State) (p : Fin 4) (x : CanPort) : (s.setCan p x).coef = s.coef := rfl
@[simp] theorem setCan_tsu (s : State) (p : Fin 4) (x : CanPort) : (s.setCan p x).tsu = s.tsu := rfl
@[simp] theorem setCan_net (s : State) (p : Fin 4) (x : CanPort) : (s.setCan p x).net = s.net := rfl
@[simp] theorem setCan_fio (s : State) (p : Fin 4) (x : CanPort) : (s.setCan p x).fio = s.fio := rfl
@[simp] theorem setCan_canRc (s : State) (p : Fin 4) (x : CanPort) : (s.setCan p x).canRc = s.canRc := rfl
@[simp] theorem setCan_tdm (s : State) (p : Fin 4) (x : CanPort) : (s.setCan p x).tdm = s.tdm := rfl
@[simp] theorem setCan_evr (s : State) (p : Fin 4) (x : CanPort) : (s.setCan p x).evr = s.evr := rfl
@[simp] theorem setCan_kst (s : State) (p : Fin 4) (x : CanPort) : (s.setCan p x).kst = s.kst := rfl
@[simp] theorem setCan_fab (s : State) (p : Fin 4) (x : CanPort) : (s.setCan p x).fab = s.fab := rfl
@[simp] theorem setCan_resv (s : State) (p : Fin 4) (x : CanPort) : (s.setCan p x).resv = s.resv := rfl
@[simp] theorem setCan_refreshAt (s : State) (p : Fin 4) (x : CanPort) : (s.setCan p x).refreshAt = s.refreshAt := rfl
@[simp] theorem setCan_nfm (s : State) (p : Fin 4) (x : CanPort) : (s.setCan p x).nfm = s.nfm := rfl
@[simp] theorem setCan_spareLow (s : State) (p : Fin 4) (x : CanPort) : (s.setCan p x).spareLow = s.spareLow := rfl
@[simp] theorem setCan_bgs (s : State) (p : Fin 4) (x : CanPort) : (s.setCan p x).bgs = s.bgs := rfl
@[simp] theorem setCan_pwr (s : State) (p : Fin 4) (x : CanPort) : (s.setCan p x).pwr = s.pwr := rfl
@[simp] theorem setCan_rtc (s : State) (p : Fin 4) (x : CanPort) : (s.setCan p x).rtc = s.rtc := rfl
@[simp] theorem setCan_pnl (s : State) (p : Fin 4) (x : CanPort) : (s.setCan p x).pnl = s.pnl := rfl
@[simp] theorem setCan_pfm (s : State) (p : Fin 4) (x : CanPort) : (s.setCan p x).pfm = s.pfm := rfl
@[simp] theorem setCan_sys (s : State) (p : Fin 4) (x : CanPort) : (s.setCan p x).sys = s.sys := rfl
@[simp] theorem setCan_pending (s : State) (p : Fin 4) (x : CanPort) : (s.setCan p x).pending = s.pending := rfl

/-! `evrDrop` -/
@[simp] theorem evrDrop_shadows (s : State) (n : Nat) : (s.evrDrop n).shadows = s.shadows := by unfold State.evrDrop; rw [raise_shadows]; rfl
@[simp] theorem evrDrop_mem (s : State) (n : Nat) : (s.evrDrop n).mem = s.mem := by unfold State.evrDrop; rw [raise_mem]; rfl
@[simp] theorem evrDrop_ue (s : State) (n : Nat) : (s.evrDrop n).ue = s.ue := by unfold State.evrDrop; rw [raise_ue]; rfl
@[simp] theorem evrDrop_resp (s : State) (n : Nat) : (s.evrDrop n).resp = s.resp := by unfold State.evrDrop; rw [raise_resp]; rfl
@[simp] theorem evrDrop_draws (s : State) (n : Nat) : (s.evrDrop n).draws = s.draws := by unfold State.evrDrop; rw [raise_draws]; rfl
@[simp] theorem evrDrop_tileUsed (s : State) (n : Nat) : (s.evrDrop n).tileUsed = s.tileUsed := by unfold State.evrDrop; rw [raise_tileUsed]; rfl
@[simp] theorem evrDrop_tileKnown (s : State) (n : Nat) : (s.evrDrop n).tileKnown = s.tileKnown := by unfold State.evrDrop; rw [raise_tileKnown]; rfl
@[simp] theorem evrDrop_tb0 (s : State) (n : Nat) : (s.evrDrop n).tb0 = s.tb0 := by unfold State.evrDrop; rw [raise_tb0]; rfl
@[simp] theorem evrDrop_tb1 (s : State) (n : Nat) : (s.evrDrop n).tb1 = s.tb1 := by unfold State.evrDrop; rw [raise_tb1]; rfl
@[simp] theorem evrDrop_tb2 (s : State) (n : Nat) : (s.evrDrop n).tb2 = s.tb2 := by unfold State.evrDrop; rw [raise_tb2]; rfl
@[simp] theorem evrDrop_tb3 (s : State) (n : Nat) : (s.evrDrop n).tb3 = s.tb3 := by unfold State.evrDrop; rw [raise_tb3]; rfl
@[simp] theorem evrDrop_halted (s : State) (n : Nat) : (s.evrDrop n).halted = s.halted := by unfold State.evrDrop; rw [raise_halted]; rfl
@[simp] theorem evrDrop_softRst (s : State) (n : Nat) : (s.evrDrop n).softRst = s.softRst := by unfold State.evrDrop; rw [raise_softRst]; rfl
@[simp] theorem evrDrop_domOff (s : State) (n : Nat) : (s.evrDrop n).domOff = s.domOff := by unfold State.evrDrop; rw [raise_domOff]; rfl
@[simp] theorem evrDrop_domIso (s : State) (n : Nat) : (s.evrDrop n).domIso = s.domIso := by unfold State.evrDrop; rw [raise_domIso]; rfl
@[simp] theorem evrDrop_inserv (s : State) (n : Nat) : (s.evrDrop n).inserv = s.inserv := by unfold State.evrDrop; rw [raise_inserv]; rfl
@[simp] theorem evrDrop_doorbells (s : State) (n : Nat) : (s.evrDrop n).doorbells = s.doorbells := by unfold State.evrDrop; rw [raise_doorbells]; rfl
@[simp] theorem evrDrop_evq (s : State) (n : Nat) : (s.evrDrop n).evq = s.evq := by unfold State.evrDrop; rw [raise_evq]; rfl
@[simp] theorem evrDrop_xlt (s : State) (n : Nat) : (s.evrDrop n).xlt = s.xlt := by unfold State.evrDrop; rw [raise_xlt]; rfl
@[simp] theorem evrDrop_cad (s : State) (n : Nat) : (s.evrDrop n).cad = s.cad := by unfold State.evrDrop; rw [raise_cad]; rfl
@[simp] theorem evrDrop_spk (s : State) (n : Nat) : (s.evrDrop n).spk = s.spk := by unfold State.evrDrop; rw [raise_spk]; rfl
@[simp] theorem evrDrop_lpe (s : State) (n : Nat) : (s.evrDrop n).lpe = s.lpe := by unfold State.evrDrop; rw [raise_lpe]; rfl
@[simp] theorem evrDrop_slv (s : State) (n : Nat) : (s.evrDrop n).slv = s.slv := by unfold State.evrDrop; rw [raise_slv]; rfl
@[simp] theorem evrDrop_mtr (s : State) (n : Nat) : (s.evrDrop n).mtr = s.mtr := by unfold State.evrDrop; rw [raise_mtr]; rfl
@[simp] theorem evrDrop_nand (s : State) (n : Nat) : (s.evrDrop n).nand = s.nand := by unfold State.evrDrop; rw [raise_nand]; rfl
@[simp] theorem evrDrop_pfw (s : State) (n : Nat) : (s.evrDrop n).pfw = s.pfw := by unfold State.evrDrop; rw [raise_pfw]; rfl
@[simp] theorem evrDrop_trueHeld (s : State) (n : Nat) : (s.evrDrop n).trueHeld = s.trueHeld := by unfold State.evrDrop; rw [raise_trueHeld]; rfl
@[simp] theorem evrDrop_coefNew (s : State) (n : Nat) : (s.evrDrop n).coefNew = s.coefNew := by unfold State.evrDrop; rw [raise_coefNew]; rfl
@[simp] theorem evrDrop_coef (s : State) (n : Nat) : (s.evrDrop n).coef = s.coef := by unfold State.evrDrop; rw [raise_coef]; rfl
@[simp] theorem evrDrop_tsu (s : State) (n : Nat) : (s.evrDrop n).tsu = s.tsu := by unfold State.evrDrop; rw [raise_tsu]; rfl
@[simp] theorem evrDrop_net (s : State) (n : Nat) : (s.evrDrop n).net = s.net := by unfold State.evrDrop; rw [raise_net]; rfl
@[simp] theorem evrDrop_fio (s : State) (n : Nat) : (s.evrDrop n).fio = s.fio := by unfold State.evrDrop; rw [raise_fio]; rfl
@[simp] theorem evrDrop_can (s : State) (n : Nat) : (s.evrDrop n).can = s.can := by unfold State.evrDrop; rw [raise_can]; rfl
@[simp] theorem evrDrop_canRc (s : State) (n : Nat) : (s.evrDrop n).canRc = s.canRc := by unfold State.evrDrop; rw [raise_canRc]; rfl
@[simp] theorem evrDrop_tdm (s : State) (n : Nat) : (s.evrDrop n).tdm = s.tdm := by unfold State.evrDrop; rw [raise_tdm]; rfl
@[simp] theorem evrDrop_kst (s : State) (n : Nat) : (s.evrDrop n).kst = s.kst := by unfold State.evrDrop; rw [raise_kst]; rfl
@[simp] theorem evrDrop_fab (s : State) (n : Nat) : (s.evrDrop n).fab = s.fab := by unfold State.evrDrop; rw [raise_fab]; rfl
@[simp] theorem evrDrop_resv (s : State) (n : Nat) : (s.evrDrop n).resv = s.resv := by unfold State.evrDrop; rw [raise_resv]; rfl
@[simp] theorem evrDrop_refreshAt (s : State) (n : Nat) : (s.evrDrop n).refreshAt = s.refreshAt := by unfold State.evrDrop; rw [raise_refreshAt]; rfl
@[simp] theorem evrDrop_nfm (s : State) (n : Nat) : (s.evrDrop n).nfm = s.nfm := by unfold State.evrDrop; rw [raise_nfm]; rfl
@[simp] theorem evrDrop_spareLow (s : State) (n : Nat) : (s.evrDrop n).spareLow = s.spareLow := by unfold State.evrDrop; rw [raise_spareLow]; rfl
@[simp] theorem evrDrop_bgs (s : State) (n : Nat) : (s.evrDrop n).bgs = s.bgs := by unfold State.evrDrop; rw [raise_bgs]; rfl
@[simp] theorem evrDrop_pwr (s : State) (n : Nat) : (s.evrDrop n).pwr = s.pwr := by unfold State.evrDrop; rw [raise_pwr]; rfl
@[simp] theorem evrDrop_rtc (s : State) (n : Nat) : (s.evrDrop n).rtc = s.rtc := by unfold State.evrDrop; rw [raise_rtc]; rfl
@[simp] theorem evrDrop_pnl (s : State) (n : Nat) : (s.evrDrop n).pnl = s.pnl := by unfold State.evrDrop; rw [raise_pnl]; rfl
@[simp] theorem evrDrop_pfm (s : State) (n : Nat) : (s.evrDrop n).pfm = s.pfm := by unfold State.evrDrop; rw [raise_pfm]; rfl
@[simp] theorem evrDrop_sys (s : State) (n : Nat) : (s.evrDrop n).sys = s.sys := by unfold State.evrDrop; rw [raise_sys]; rfl
@[simp] theorem evrDrop_pending (s : State) (n : Nat) : (s.evrDrop n).pending = s.pending := by unfold State.evrDrop; rw [raise_pending]; rfl

/-! `send` -/
@[simp] theorem send_shadows (s : State) (e : Event) : (s.send e).shadows = s.shadows := by unfold State.send; simp only; split <;> first | rfl | exact evrDrop_shadows s e.sev
@[simp] theorem send_mem (s : State) (e : Event) : (s.send e).mem = s.mem := by unfold State.send; simp only; split <;> first | rfl | exact evrDrop_mem s e.sev
@[simp] theorem send_ue (s : State) (e : Event) : (s.send e).ue = s.ue := by unfold State.send; simp only; split <;> first | rfl | exact evrDrop_ue s e.sev
@[simp] theorem send_resp (s : State) (e : Event) : (s.send e).resp = s.resp := by unfold State.send; simp only; split <;> first | rfl | exact evrDrop_resp s e.sev
@[simp] theorem send_draws (s : State) (e : Event) : (s.send e).draws = s.draws := by unfold State.send; simp only; split <;> first | rfl | exact evrDrop_draws s e.sev
@[simp] theorem send_tileUsed (s : State) (e : Event) : (s.send e).tileUsed = s.tileUsed := by unfold State.send; simp only; split <;> first | rfl | exact evrDrop_tileUsed s e.sev
@[simp] theorem send_tileKnown (s : State) (e : Event) : (s.send e).tileKnown = s.tileKnown := by unfold State.send; simp only; split <;> first | rfl | exact evrDrop_tileKnown s e.sev
@[simp] theorem send_tb0 (s : State) (e : Event) : (s.send e).tb0 = s.tb0 := by unfold State.send; simp only; split <;> first | rfl | exact evrDrop_tb0 s e.sev
@[simp] theorem send_tb1 (s : State) (e : Event) : (s.send e).tb1 = s.tb1 := by unfold State.send; simp only; split <;> first | rfl | exact evrDrop_tb1 s e.sev
@[simp] theorem send_tb2 (s : State) (e : Event) : (s.send e).tb2 = s.tb2 := by unfold State.send; simp only; split <;> first | rfl | exact evrDrop_tb2 s e.sev
@[simp] theorem send_tb3 (s : State) (e : Event) : (s.send e).tb3 = s.tb3 := by unfold State.send; simp only; split <;> first | rfl | exact evrDrop_tb3 s e.sev
@[simp] theorem send_halted (s : State) (e : Event) : (s.send e).halted = s.halted := by unfold State.send; simp only; split <;> first | rfl | exact evrDrop_halted s e.sev
@[simp] theorem send_softRst (s : State) (e : Event) : (s.send e).softRst = s.softRst := by unfold State.send; simp only; split <;> first | rfl | exact evrDrop_softRst s e.sev
@[simp] theorem send_domOff (s : State) (e : Event) : (s.send e).domOff = s.domOff := by unfold State.send; simp only; split <;> first | rfl | exact evrDrop_domOff s e.sev
@[simp] theorem send_domIso (s : State) (e : Event) : (s.send e).domIso = s.domIso := by unfold State.send; simp only; split <;> first | rfl | exact evrDrop_domIso s e.sev
@[simp] theorem send_inserv (s : State) (e : Event) : (s.send e).inserv = s.inserv := by unfold State.send; simp only; split <;> first | rfl | exact evrDrop_inserv s e.sev
@[simp] theorem send_doorbells (s : State) (e : Event) : (s.send e).doorbells = s.doorbells := by unfold State.send; simp only; split <;> first | rfl | exact evrDrop_doorbells s e.sev
@[simp] theorem send_xlt (s : State) (e : Event) : (s.send e).xlt = s.xlt := by unfold State.send; simp only; split <;> first | rfl | exact evrDrop_xlt s e.sev
@[simp] theorem send_cad (s : State) (e : Event) : (s.send e).cad = s.cad := by unfold State.send; simp only; split <;> first | rfl | exact evrDrop_cad s e.sev
@[simp] theorem send_spk (s : State) (e : Event) : (s.send e).spk = s.spk := by unfold State.send; simp only; split <;> first | rfl | exact evrDrop_spk s e.sev
@[simp] theorem send_lpe (s : State) (e : Event) : (s.send e).lpe = s.lpe := by unfold State.send; simp only; split <;> first | rfl | exact evrDrop_lpe s e.sev
@[simp] theorem send_slv (s : State) (e : Event) : (s.send e).slv = s.slv := by unfold State.send; simp only; split <;> first | rfl | exact evrDrop_slv s e.sev
@[simp] theorem send_mtr (s : State) (e : Event) : (s.send e).mtr = s.mtr := by unfold State.send; simp only; split <;> first | rfl | exact evrDrop_mtr s e.sev
@[simp] theorem send_nand (s : State) (e : Event) : (s.send e).nand = s.nand := by unfold State.send; simp only; split <;> first | rfl | exact evrDrop_nand s e.sev
@[simp] theorem send_pfw (s : State) (e : Event) : (s.send e).pfw = s.pfw := by unfold State.send; simp only; split <;> first | rfl | exact evrDrop_pfw s e.sev
@[simp] theorem send_trueHeld (s : State) (e : Event) : (s.send e).trueHeld = s.trueHeld := by unfold State.send; simp only; split <;> first | rfl | exact evrDrop_trueHeld s e.sev
@[simp] theorem send_coefNew (s : State) (e : Event) : (s.send e).coefNew = s.coefNew := by unfold State.send; simp only; split <;> first | rfl | exact evrDrop_coefNew s e.sev
@[simp] theorem send_coef (s : State) (e : Event) : (s.send e).coef = s.coef := by unfold State.send; simp only; split <;> first | rfl | exact evrDrop_coef s e.sev
@[simp] theorem send_tsu (s : State) (e : Event) : (s.send e).tsu = s.tsu := by unfold State.send; simp only; split <;> first | rfl | exact evrDrop_tsu s e.sev
@[simp] theorem send_net (s : State) (e : Event) : (s.send e).net = s.net := by unfold State.send; simp only; split <;> first | rfl | exact evrDrop_net s e.sev
@[simp] theorem send_fio (s : State) (e : Event) : (s.send e).fio = s.fio := by unfold State.send; simp only; split <;> first | rfl | exact evrDrop_fio s e.sev
@[simp] theorem send_can (s : State) (e : Event) : (s.send e).can = s.can := by unfold State.send; simp only; split <;> first | rfl | exact evrDrop_can s e.sev
@[simp] theorem send_canRc (s : State) (e : Event) : (s.send e).canRc = s.canRc := by unfold State.send; simp only; split <;> first | rfl | exact evrDrop_canRc s e.sev
@[simp] theorem send_tdm (s : State) (e : Event) : (s.send e).tdm = s.tdm := by unfold State.send; simp only; split <;> first | rfl | exact evrDrop_tdm s e.sev
@[simp] theorem send_kst (s : State) (e : Event) : (s.send e).kst = s.kst := by unfold State.send; simp only; split <;> first | rfl | exact evrDrop_kst s e.sev
@[simp] theorem send_fab (s : State) (e : Event) : (s.send e).fab = s.fab := by unfold State.send; simp only; split <;> first | rfl | exact evrDrop_fab s e.sev
@[simp] theorem send_resv (s : State) (e : Event) : (s.send e).resv = s.resv := by unfold State.send; simp only; split <;> first | rfl | exact evrDrop_resv s e.sev
@[simp] theorem send_refreshAt (s : State) (e : Event) : (s.send e).refreshAt = s.refreshAt := by unfold State.send; simp only; split <;> first | rfl | exact evrDrop_refreshAt s e.sev
@[simp] theorem send_nfm (s : State) (e : Event) : (s.send e).nfm = s.nfm := by unfold State.send; simp only; split <;> first | rfl | exact evrDrop_nfm s e.sev
@[simp] theorem send_spareLow (s : State) (e : Event) : (s.send e).spareLow = s.spareLow := by unfold State.send; simp only; split <;> first | rfl | exact evrDrop_spareLow s e.sev
@[simp] theorem send_bgs (s : State) (e : Event) : (s.send e).bgs = s.bgs := by unfold State.send; simp only; split <;> first | rfl | exact evrDrop_bgs s e.sev
@[simp] theorem send_pwr (s : State) (e : Event) : (s.send e).pwr = s.pwr := by unfold State.send; simp only; split <;> first | rfl | exact evrDrop_pwr s e.sev
@[simp] theorem send_rtc (s : State) (e : Event) : (s.send e).rtc = s.rtc := by unfold State.send; simp only; split <;> first | rfl | exact evrDrop_rtc s e.sev
@[simp] theorem send_pnl (s : State) (e : Event) : (s.send e).pnl = s.pnl := by unfold State.send; simp only; split <;> first | rfl | exact evrDrop_pnl s e.sev
@[simp] theorem send_pfm (s : State) (e : Event) : (s.send e).pfm = s.pfm := by unfold State.send; simp only; split <;> first | rfl | exact evrDrop_pfm s e.sev
@[simp] theorem send_sys (s : State) (e : Event) : (s.send e).sys = s.sys := by unfold State.send; simp only; split <;> first | rfl | exact evrDrop_sys s e.sev
@[simp] theorem send_pending (s : State) (e : Event) : (s.send e).pending = s.pending := by unfold State.send; simp only; split <;> first | rfl | exact evrDrop_pending s e.sev

/-! `event` -/
@[simp] theorem event_shadows (s : State) (b : Blk) (n sev p0 p1 p2 p3 : Nat) : (s.event b n sev p0 p1 p2 p3).shadows = s.shadows := send_shadows s _
@[simp] theorem event_mem (s : State) (b : Blk) (n sev p0 p1 p2 p3 : Nat) : (s.event b n sev p0 p1 p2 p3).mem = s.mem := send_mem s _
@[simp] theorem event_ue (s : State) (b : Blk) (n sev p0 p1 p2 p3 : Nat) : (s.event b n sev p0 p1 p2 p3).ue = s.ue := send_ue s _
@[simp] theorem event_resp (s : State) (b : Blk) (n sev p0 p1 p2 p3 : Nat) : (s.event b n sev p0 p1 p2 p3).resp = s.resp := send_resp s _
@[simp] theorem event_draws (s : State) (b : Blk) (n sev p0 p1 p2 p3 : Nat) : (s.event b n sev p0 p1 p2 p3).draws = s.draws := send_draws s _
@[simp] theorem event_tileUsed (s : State) (b : Blk) (n sev p0 p1 p2 p3 : Nat) : (s.event b n sev p0 p1 p2 p3).tileUsed = s.tileUsed := send_tileUsed s _
@[simp] theorem event_tileKnown (s : State) (b : Blk) (n sev p0 p1 p2 p3 : Nat) : (s.event b n sev p0 p1 p2 p3).tileKnown = s.tileKnown := send_tileKnown s _
@[simp] theorem event_tb0 (s : State) (b : Blk) (n sev p0 p1 p2 p3 : Nat) : (s.event b n sev p0 p1 p2 p3).tb0 = s.tb0 := send_tb0 s _
@[simp] theorem event_tb1 (s : State) (b : Blk) (n sev p0 p1 p2 p3 : Nat) : (s.event b n sev p0 p1 p2 p3).tb1 = s.tb1 := send_tb1 s _
@[simp] theorem event_tb2 (s : State) (b : Blk) (n sev p0 p1 p2 p3 : Nat) : (s.event b n sev p0 p1 p2 p3).tb2 = s.tb2 := send_tb2 s _
@[simp] theorem event_tb3 (s : State) (b : Blk) (n sev p0 p1 p2 p3 : Nat) : (s.event b n sev p0 p1 p2 p3).tb3 = s.tb3 := send_tb3 s _
@[simp] theorem event_halted (s : State) (b : Blk) (n sev p0 p1 p2 p3 : Nat) : (s.event b n sev p0 p1 p2 p3).halted = s.halted := send_halted s _
@[simp] theorem event_softRst (s : State) (b : Blk) (n sev p0 p1 p2 p3 : Nat) : (s.event b n sev p0 p1 p2 p3).softRst = s.softRst := send_softRst s _
@[simp] theorem event_domOff (s : State) (b : Blk) (n sev p0 p1 p2 p3 : Nat) : (s.event b n sev p0 p1 p2 p3).domOff = s.domOff := send_domOff s _
@[simp] theorem event_domIso (s : State) (b : Blk) (n sev p0 p1 p2 p3 : Nat) : (s.event b n sev p0 p1 p2 p3).domIso = s.domIso := send_domIso s _
@[simp] theorem event_inserv (s : State) (b : Blk) (n sev p0 p1 p2 p3 : Nat) : (s.event b n sev p0 p1 p2 p3).inserv = s.inserv := send_inserv s _
@[simp] theorem event_doorbells (s : State) (b : Blk) (n sev p0 p1 p2 p3 : Nat) : (s.event b n sev p0 p1 p2 p3).doorbells = s.doorbells := send_doorbells s _
@[simp] theorem event_xlt (s : State) (b : Blk) (n sev p0 p1 p2 p3 : Nat) : (s.event b n sev p0 p1 p2 p3).xlt = s.xlt := send_xlt s _
@[simp] theorem event_cad (s : State) (b : Blk) (n sev p0 p1 p2 p3 : Nat) : (s.event b n sev p0 p1 p2 p3).cad = s.cad := send_cad s _
@[simp] theorem event_spk (s : State) (b : Blk) (n sev p0 p1 p2 p3 : Nat) : (s.event b n sev p0 p1 p2 p3).spk = s.spk := send_spk s _
@[simp] theorem event_lpe (s : State) (b : Blk) (n sev p0 p1 p2 p3 : Nat) : (s.event b n sev p0 p1 p2 p3).lpe = s.lpe := send_lpe s _
@[simp] theorem event_slv (s : State) (b : Blk) (n sev p0 p1 p2 p3 : Nat) : (s.event b n sev p0 p1 p2 p3).slv = s.slv := send_slv s _
@[simp] theorem event_mtr (s : State) (b : Blk) (n sev p0 p1 p2 p3 : Nat) : (s.event b n sev p0 p1 p2 p3).mtr = s.mtr := send_mtr s _
@[simp] theorem event_nand (s : State) (b : Blk) (n sev p0 p1 p2 p3 : Nat) : (s.event b n sev p0 p1 p2 p3).nand = s.nand := send_nand s _
@[simp] theorem event_pfw (s : State) (b : Blk) (n sev p0 p1 p2 p3 : Nat) : (s.event b n sev p0 p1 p2 p3).pfw = s.pfw := send_pfw s _
@[simp] theorem event_trueHeld (s : State) (b : Blk) (n sev p0 p1 p2 p3 : Nat) : (s.event b n sev p0 p1 p2 p3).trueHeld = s.trueHeld := send_trueHeld s _
@[simp] theorem event_coefNew (s : State) (b : Blk) (n sev p0 p1 p2 p3 : Nat) : (s.event b n sev p0 p1 p2 p3).coefNew = s.coefNew := send_coefNew s _
@[simp] theorem event_coef (s : State) (b : Blk) (n sev p0 p1 p2 p3 : Nat) : (s.event b n sev p0 p1 p2 p3).coef = s.coef := send_coef s _
@[simp] theorem event_tsu (s : State) (b : Blk) (n sev p0 p1 p2 p3 : Nat) : (s.event b n sev p0 p1 p2 p3).tsu = s.tsu := send_tsu s _
@[simp] theorem event_net (s : State) (b : Blk) (n sev p0 p1 p2 p3 : Nat) : (s.event b n sev p0 p1 p2 p3).net = s.net := send_net s _
@[simp] theorem event_fio (s : State) (b : Blk) (n sev p0 p1 p2 p3 : Nat) : (s.event b n sev p0 p1 p2 p3).fio = s.fio := send_fio s _
@[simp] theorem event_can (s : State) (b : Blk) (n sev p0 p1 p2 p3 : Nat) : (s.event b n sev p0 p1 p2 p3).can = s.can := send_can s _
@[simp] theorem event_canRc (s : State) (b : Blk) (n sev p0 p1 p2 p3 : Nat) : (s.event b n sev p0 p1 p2 p3).canRc = s.canRc := send_canRc s _
@[simp] theorem event_tdm (s : State) (b : Blk) (n sev p0 p1 p2 p3 : Nat) : (s.event b n sev p0 p1 p2 p3).tdm = s.tdm := send_tdm s _
@[simp] theorem event_kst (s : State) (b : Blk) (n sev p0 p1 p2 p3 : Nat) : (s.event b n sev p0 p1 p2 p3).kst = s.kst := send_kst s _
@[simp] theorem event_fab (s : State) (b : Blk) (n sev p0 p1 p2 p3 : Nat) : (s.event b n sev p0 p1 p2 p3).fab = s.fab := send_fab s _
@[simp] theorem event_resv (s : State) (b : Blk) (n sev p0 p1 p2 p3 : Nat) : (s.event b n sev p0 p1 p2 p3).resv = s.resv := send_resv s _
@[simp] theorem event_refreshAt (s : State) (b : Blk) (n sev p0 p1 p2 p3 : Nat) : (s.event b n sev p0 p1 p2 p3).refreshAt = s.refreshAt := send_refreshAt s _
@[simp] theorem event_nfm (s : State) (b : Blk) (n sev p0 p1 p2 p3 : Nat) : (s.event b n sev p0 p1 p2 p3).nfm = s.nfm := send_nfm s _
@[simp] theorem event_spareLow (s : State) (b : Blk) (n sev p0 p1 p2 p3 : Nat) : (s.event b n sev p0 p1 p2 p3).spareLow = s.spareLow := send_spareLow s _
@[simp] theorem event_bgs (s : State) (b : Blk) (n sev p0 p1 p2 p3 : Nat) : (s.event b n sev p0 p1 p2 p3).bgs = s.bgs := send_bgs s _
@[simp] theorem event_pwr (s : State) (b : Blk) (n sev p0 p1 p2 p3 : Nat) : (s.event b n sev p0 p1 p2 p3).pwr = s.pwr := send_pwr s _
@[simp] theorem event_rtc (s : State) (b : Blk) (n sev p0 p1 p2 p3 : Nat) : (s.event b n sev p0 p1 p2 p3).rtc = s.rtc := send_rtc s _
@[simp] theorem event_pnl (s : State) (b : Blk) (n sev p0 p1 p2 p3 : Nat) : (s.event b n sev p0 p1 p2 p3).pnl = s.pnl := send_pnl s _
@[simp] theorem event_pfm (s : State) (b : Blk) (n sev p0 p1 p2 p3 : Nat) : (s.event b n sev p0 p1 p2 p3).pfm = s.pfm := send_pfm s _
@[simp] theorem event_sys (s : State) (b : Blk) (n sev p0 p1 p2 p3 : Nat) : (s.event b n sev p0 p1 p2 p3).sys = s.sys := send_sys s _
@[simp] theorem event_pending (s : State) (b : Blk) (n sev p0 p1 p2 p3 : Nat) : (s.event b n sev p0 p1 p2 p3).pending = s.pending := send_pending s _

/-! `raiseEv` -/
@[simp] theorem raiseEv_shadows (s : State) (b : Blk) (n : Nat) : (s.raiseEv b n).shadows = s.shadows := by unfold State.raiseEv; simp only [event_shadows, raise_shadows]
@[simp] theorem raiseEv_mem (s : State) (b : Blk) (n : Nat) : (s.raiseEv b n).mem = s.mem := by unfold State.raiseEv; simp only [event_mem, raise_mem]
@[simp] theorem raiseEv_ue (s : State) (b : Blk) (n : Nat) : (s.raiseEv b n).ue = s.ue := by unfold State.raiseEv; simp only [event_ue, raise_ue]
@[simp] theorem raiseEv_resp (s : State) (b : Blk) (n : Nat) : (s.raiseEv b n).resp = s.resp := by unfold State.raiseEv; simp only [event_resp, raise_resp]
@[simp] theorem raiseEv_draws (s : State) (b : Blk) (n : Nat) : (s.raiseEv b n).draws = s.draws := by unfold State.raiseEv; simp only [event_draws, raise_draws]
@[simp] theorem raiseEv_tileUsed (s : State) (b : Blk) (n : Nat) : (s.raiseEv b n).tileUsed = s.tileUsed := by unfold State.raiseEv; simp only [event_tileUsed, raise_tileUsed]
@[simp] theorem raiseEv_tileKnown (s : State) (b : Blk) (n : Nat) : (s.raiseEv b n).tileKnown = s.tileKnown := by unfold State.raiseEv; simp only [event_tileKnown, raise_tileKnown]
@[simp] theorem raiseEv_tb0 (s : State) (b : Blk) (n : Nat) : (s.raiseEv b n).tb0 = s.tb0 := by unfold State.raiseEv; simp only [event_tb0, raise_tb0]
@[simp] theorem raiseEv_tb1 (s : State) (b : Blk) (n : Nat) : (s.raiseEv b n).tb1 = s.tb1 := by unfold State.raiseEv; simp only [event_tb1, raise_tb1]
@[simp] theorem raiseEv_tb2 (s : State) (b : Blk) (n : Nat) : (s.raiseEv b n).tb2 = s.tb2 := by unfold State.raiseEv; simp only [event_tb2, raise_tb2]
@[simp] theorem raiseEv_tb3 (s : State) (b : Blk) (n : Nat) : (s.raiseEv b n).tb3 = s.tb3 := by unfold State.raiseEv; simp only [event_tb3, raise_tb3]
@[simp] theorem raiseEv_halted (s : State) (b : Blk) (n : Nat) : (s.raiseEv b n).halted = s.halted := by unfold State.raiseEv; simp only [event_halted, raise_halted]
@[simp] theorem raiseEv_softRst (s : State) (b : Blk) (n : Nat) : (s.raiseEv b n).softRst = s.softRst := by unfold State.raiseEv; simp only [event_softRst, raise_softRst]
@[simp] theorem raiseEv_domOff (s : State) (b : Blk) (n : Nat) : (s.raiseEv b n).domOff = s.domOff := by unfold State.raiseEv; simp only [event_domOff, raise_domOff]
@[simp] theorem raiseEv_domIso (s : State) (b : Blk) (n : Nat) : (s.raiseEv b n).domIso = s.domIso := by unfold State.raiseEv; simp only [event_domIso, raise_domIso]
@[simp] theorem raiseEv_inserv (s : State) (b : Blk) (n : Nat) : (s.raiseEv b n).inserv = s.inserv := by unfold State.raiseEv; simp only [event_inserv, raise_inserv]
@[simp] theorem raiseEv_doorbells (s : State) (b : Blk) (n : Nat) : (s.raiseEv b n).doorbells = s.doorbells := by unfold State.raiseEv; simp only [event_doorbells, raise_doorbells]
@[simp] theorem raiseEv_xlt (s : State) (b : Blk) (n : Nat) : (s.raiseEv b n).xlt = s.xlt := by unfold State.raiseEv; simp only [event_xlt, raise_xlt]
@[simp] theorem raiseEv_cad (s : State) (b : Blk) (n : Nat) : (s.raiseEv b n).cad = s.cad := by unfold State.raiseEv; simp only [event_cad, raise_cad]
@[simp] theorem raiseEv_spk (s : State) (b : Blk) (n : Nat) : (s.raiseEv b n).spk = s.spk := by unfold State.raiseEv; simp only [event_spk, raise_spk]
@[simp] theorem raiseEv_lpe (s : State) (b : Blk) (n : Nat) : (s.raiseEv b n).lpe = s.lpe := by unfold State.raiseEv; simp only [event_lpe, raise_lpe]
@[simp] theorem raiseEv_slv (s : State) (b : Blk) (n : Nat) : (s.raiseEv b n).slv = s.slv := by unfold State.raiseEv; simp only [event_slv, raise_slv]
@[simp] theorem raiseEv_mtr (s : State) (b : Blk) (n : Nat) : (s.raiseEv b n).mtr = s.mtr := by unfold State.raiseEv; simp only [event_mtr, raise_mtr]
@[simp] theorem raiseEv_nand (s : State) (b : Blk) (n : Nat) : (s.raiseEv b n).nand = s.nand := by unfold State.raiseEv; simp only [event_nand, raise_nand]
@[simp] theorem raiseEv_pfw (s : State) (b : Blk) (n : Nat) : (s.raiseEv b n).pfw = s.pfw := by unfold State.raiseEv; simp only [event_pfw, raise_pfw]
@[simp] theorem raiseEv_trueHeld (s : State) (b : Blk) (n : Nat) : (s.raiseEv b n).trueHeld = s.trueHeld := by unfold State.raiseEv; simp only [event_trueHeld, raise_trueHeld]
@[simp] theorem raiseEv_coefNew (s : State) (b : Blk) (n : Nat) : (s.raiseEv b n).coefNew = s.coefNew := by unfold State.raiseEv; simp only [event_coefNew, raise_coefNew]
@[simp] theorem raiseEv_coef (s : State) (b : Blk) (n : Nat) : (s.raiseEv b n).coef = s.coef := by unfold State.raiseEv; simp only [event_coef, raise_coef]
@[simp] theorem raiseEv_tsu (s : State) (b : Blk) (n : Nat) : (s.raiseEv b n).tsu = s.tsu := by unfold State.raiseEv; simp only [event_tsu, raise_tsu]
@[simp] theorem raiseEv_net (s : State) (b : Blk) (n : Nat) : (s.raiseEv b n).net = s.net := by unfold State.raiseEv; simp only [event_net, raise_net]
@[simp] theorem raiseEv_fio (s : State) (b : Blk) (n : Nat) : (s.raiseEv b n).fio = s.fio := by unfold State.raiseEv; simp only [event_fio, raise_fio]
@[simp] theorem raiseEv_can (s : State) (b : Blk) (n : Nat) : (s.raiseEv b n).can = s.can := by unfold State.raiseEv; simp only [event_can, raise_can]
@[simp] theorem raiseEv_canRc (s : State) (b : Blk) (n : Nat) : (s.raiseEv b n).canRc = s.canRc := by unfold State.raiseEv; simp only [event_canRc, raise_canRc]
@[simp] theorem raiseEv_tdm (s : State) (b : Blk) (n : Nat) : (s.raiseEv b n).tdm = s.tdm := by unfold State.raiseEv; simp only [event_tdm, raise_tdm]
@[simp] theorem raiseEv_kst (s : State) (b : Blk) (n : Nat) : (s.raiseEv b n).kst = s.kst := by unfold State.raiseEv; simp only [event_kst, raise_kst]
@[simp] theorem raiseEv_fab (s : State) (b : Blk) (n : Nat) : (s.raiseEv b n).fab = s.fab := by unfold State.raiseEv; simp only [event_fab, raise_fab]
@[simp] theorem raiseEv_resv (s : State) (b : Blk) (n : Nat) : (s.raiseEv b n).resv = s.resv := by unfold State.raiseEv; simp only [event_resv, raise_resv]
@[simp] theorem raiseEv_refreshAt (s : State) (b : Blk) (n : Nat) : (s.raiseEv b n).refreshAt = s.refreshAt := by unfold State.raiseEv; simp only [event_refreshAt, raise_refreshAt]
@[simp] theorem raiseEv_nfm (s : State) (b : Blk) (n : Nat) : (s.raiseEv b n).nfm = s.nfm := by unfold State.raiseEv; simp only [event_nfm, raise_nfm]
@[simp] theorem raiseEv_spareLow (s : State) (b : Blk) (n : Nat) : (s.raiseEv b n).spareLow = s.spareLow := by unfold State.raiseEv; simp only [event_spareLow, raise_spareLow]
@[simp] theorem raiseEv_bgs (s : State) (b : Blk) (n : Nat) : (s.raiseEv b n).bgs = s.bgs := by unfold State.raiseEv; simp only [event_bgs, raise_bgs]
@[simp] theorem raiseEv_pwr (s : State) (b : Blk) (n : Nat) : (s.raiseEv b n).pwr = s.pwr := by unfold State.raiseEv; simp only [event_pwr, raise_pwr]
@[simp] theorem raiseEv_rtc (s : State) (b : Blk) (n : Nat) : (s.raiseEv b n).rtc = s.rtc := by unfold State.raiseEv; simp only [event_rtc, raise_rtc]
@[simp] theorem raiseEv_pnl (s : State) (b : Blk) (n : Nat) : (s.raiseEv b n).pnl = s.pnl := by unfold State.raiseEv; simp only [event_pnl, raise_pnl]
@[simp] theorem raiseEv_pfm (s : State) (b : Blk) (n : Nat) : (s.raiseEv b n).pfm = s.pfm := by unfold State.raiseEv; simp only [event_pfm, raise_pfm]
@[simp] theorem raiseEv_sys (s : State) (b : Blk) (n : Nat) : (s.raiseEv b n).sys = s.sys := by unfold State.raiseEv; simp only [event_sys, raise_sys]
@[simp] theorem raiseEv_pending (s : State) (b : Blk) (n : Nat) : (s.raiseEv b n).pending = s.pending := by unfold State.raiseEv; simp only [event_pending, raise_pending]

/-! `errEv` -/
@[simp] theorem errEv_shadows (s : State) (b : Blk) (code woff : Nat) : (s.errEv b code woff).shadows = s.shadows := by unfold State.errEv; simp only [event_shadows, err_shadows]
@[simp] theorem errEv_mem (s : State) (b : Blk) (code woff : Nat) : (s.errEv b code woff).mem = s.mem := by unfold State.errEv; simp only [event_mem, err_mem]
@[simp] theorem errEv_ue (s : State) (b : Blk) (code woff : Nat) : (s.errEv b code woff).ue = s.ue := by unfold State.errEv; simp only [event_ue, err_ue]
@[simp] theorem errEv_resp (s : State) (b : Blk) (code woff : Nat) : (s.errEv b code woff).resp = s.resp := by unfold State.errEv; simp only [event_resp, err_resp]
@[simp] theorem errEv_draws (s : State) (b : Blk) (code woff : Nat) : (s.errEv b code woff).draws = s.draws := by unfold State.errEv; simp only [event_draws, err_draws]
@[simp] theorem errEv_tileUsed (s : State) (b : Blk) (code woff : Nat) : (s.errEv b code woff).tileUsed = s.tileUsed := by unfold State.errEv; simp only [event_tileUsed, err_tileUsed]
@[simp] theorem errEv_tileKnown (s : State) (b : Blk) (code woff : Nat) : (s.errEv b code woff).tileKnown = s.tileKnown := by unfold State.errEv; simp only [event_tileKnown, err_tileKnown]
@[simp] theorem errEv_tb0 (s : State) (b : Blk) (code woff : Nat) : (s.errEv b code woff).tb0 = s.tb0 := by unfold State.errEv; simp only [event_tb0, err_tb0]
@[simp] theorem errEv_tb1 (s : State) (b : Blk) (code woff : Nat) : (s.errEv b code woff).tb1 = s.tb1 := by unfold State.errEv; simp only [event_tb1, err_tb1]
@[simp] theorem errEv_tb2 (s : State) (b : Blk) (code woff : Nat) : (s.errEv b code woff).tb2 = s.tb2 := by unfold State.errEv; simp only [event_tb2, err_tb2]
@[simp] theorem errEv_tb3 (s : State) (b : Blk) (code woff : Nat) : (s.errEv b code woff).tb3 = s.tb3 := by unfold State.errEv; simp only [event_tb3, err_tb3]
@[simp] theorem errEv_halted (s : State) (b : Blk) (code woff : Nat) : (s.errEv b code woff).halted = s.halted := by unfold State.errEv; simp only [event_halted, err_halted]
@[simp] theorem errEv_softRst (s : State) (b : Blk) (code woff : Nat) : (s.errEv b code woff).softRst = s.softRst := by unfold State.errEv; simp only [event_softRst, err_softRst]
@[simp] theorem errEv_domOff (s : State) (b : Blk) (code woff : Nat) : (s.errEv b code woff).domOff = s.domOff := by unfold State.errEv; simp only [event_domOff, err_domOff]
@[simp] theorem errEv_domIso (s : State) (b : Blk) (code woff : Nat) : (s.errEv b code woff).domIso = s.domIso := by unfold State.errEv; simp only [event_domIso, err_domIso]
@[simp] theorem errEv_inserv (s : State) (b : Blk) (code woff : Nat) : (s.errEv b code woff).inserv = s.inserv := by unfold State.errEv; simp only [event_inserv, err_inserv]
@[simp] theorem errEv_doorbells (s : State) (b : Blk) (code woff : Nat) : (s.errEv b code woff).doorbells = s.doorbells := by unfold State.errEv; simp only [event_doorbells, err_doorbells]
@[simp] theorem errEv_xlt (s : State) (b : Blk) (code woff : Nat) : (s.errEv b code woff).xlt = s.xlt := by unfold State.errEv; simp only [event_xlt, err_xlt]
@[simp] theorem errEv_cad (s : State) (b : Blk) (code woff : Nat) : (s.errEv b code woff).cad = s.cad := by unfold State.errEv; simp only [event_cad, err_cad]
@[simp] theorem errEv_spk (s : State) (b : Blk) (code woff : Nat) : (s.errEv b code woff).spk = s.spk := by unfold State.errEv; simp only [event_spk, err_spk]
@[simp] theorem errEv_lpe (s : State) (b : Blk) (code woff : Nat) : (s.errEv b code woff).lpe = s.lpe := by unfold State.errEv; simp only [event_lpe, err_lpe]
@[simp] theorem errEv_slv (s : State) (b : Blk) (code woff : Nat) : (s.errEv b code woff).slv = s.slv := by unfold State.errEv; simp only [event_slv, err_slv]
@[simp] theorem errEv_mtr (s : State) (b : Blk) (code woff : Nat) : (s.errEv b code woff).mtr = s.mtr := by unfold State.errEv; simp only [event_mtr, err_mtr]
@[simp] theorem errEv_nand (s : State) (b : Blk) (code woff : Nat) : (s.errEv b code woff).nand = s.nand := by unfold State.errEv; simp only [event_nand, err_nand]
@[simp] theorem errEv_pfw (s : State) (b : Blk) (code woff : Nat) : (s.errEv b code woff).pfw = s.pfw := by unfold State.errEv; simp only [event_pfw, err_pfw]
@[simp] theorem errEv_trueHeld (s : State) (b : Blk) (code woff : Nat) : (s.errEv b code woff).trueHeld = s.trueHeld := by unfold State.errEv; simp only [event_trueHeld, err_trueHeld]
@[simp] theorem errEv_coefNew (s : State) (b : Blk) (code woff : Nat) : (s.errEv b code woff).coefNew = s.coefNew := by unfold State.errEv; simp only [event_coefNew, err_coefNew]
@[simp] theorem errEv_coef (s : State) (b : Blk) (code woff : Nat) : (s.errEv b code woff).coef = s.coef := by unfold State.errEv; simp only [event_coef, err_coef]
@[simp] theorem errEv_tsu (s : State) (b : Blk) (code woff : Nat) : (s.errEv b code woff).tsu = s.tsu := by unfold State.errEv; simp only [event_tsu, err_tsu]
@[simp] theorem errEv_net (s : State) (b : Blk) (code woff : Nat) : (s.errEv b code woff).net = s.net := by unfold State.errEv; simp only [event_net, err_net]
@[simp] theorem errEv_fio (s : State) (b : Blk) (code woff : Nat) : (s.errEv b code woff).fio = s.fio := by unfold State.errEv; simp only [event_fio, err_fio]
@[simp] theorem errEv_can (s : State) (b : Blk) (code woff : Nat) : (s.errEv b code woff).can = s.can := by unfold State.errEv; simp only [event_can, err_can]
@[simp] theorem errEv_canRc (s : State) (b : Blk) (code woff : Nat) : (s.errEv b code woff).canRc = s.canRc := by unfold State.errEv; simp only [event_canRc, err_canRc]
@[simp] theorem errEv_tdm (s : State) (b : Blk) (code woff : Nat) : (s.errEv b code woff).tdm = s.tdm := by unfold State.errEv; simp only [event_tdm, err_tdm]
@[simp] theorem errEv_kst (s : State) (b : Blk) (code woff : Nat) : (s.errEv b code woff).kst = s.kst := by unfold State.errEv; simp only [event_kst, err_kst]
@[simp] theorem errEv_fab (s : State) (b : Blk) (code woff : Nat) : (s.errEv b code woff).fab = s.fab := by unfold State.errEv; simp only [event_fab, err_fab]
@[simp] theorem errEv_resv (s : State) (b : Blk) (code woff : Nat) : (s.errEv b code woff).resv = s.resv := by unfold State.errEv; simp only [event_resv, err_resv]
@[simp] theorem errEv_refreshAt (s : State) (b : Blk) (code woff : Nat) : (s.errEv b code woff).refreshAt = s.refreshAt := by unfold State.errEv; simp only [event_refreshAt, err_refreshAt]
@[simp] theorem errEv_nfm (s : State) (b : Blk) (code woff : Nat) : (s.errEv b code woff).nfm = s.nfm := by unfold State.errEv; simp only [event_nfm, err_nfm]
@[simp] theorem errEv_spareLow (s : State) (b : Blk) (code woff : Nat) : (s.errEv b code woff).spareLow = s.spareLow := by unfold State.errEv; simp only [event_spareLow, err_spareLow]
@[simp] theorem errEv_bgs (s : State) (b : Blk) (code woff : Nat) : (s.errEv b code woff).bgs = s.bgs := by unfold State.errEv; simp only [event_bgs, err_bgs]
@[simp] theorem errEv_pwr (s : State) (b : Blk) (code woff : Nat) : (s.errEv b code woff).pwr = s.pwr := by unfold State.errEv; simp only [event_pwr, err_pwr]
@[simp] theorem errEv_rtc (s : State) (b : Blk) (code woff : Nat) : (s.errEv b code woff).rtc = s.rtc := by unfold State.errEv; simp only [event_rtc, err_rtc]
@[simp] theorem errEv_pnl (s : State) (b : Blk) (code woff : Nat) : (s.errEv b code woff).pnl = s.pnl := by unfold State.errEv; simp only [event_pnl, err_pnl]
@[simp] theorem errEv_pfm (s : State) (b : Blk) (code woff : Nat) : (s.errEv b code woff).pfm = s.pfm := by unfold State.errEv; simp only [event_pfm, err_pfm]
@[simp] theorem errEv_sys (s : State) (b : Blk) (code woff : Nat) : (s.errEv b code woff).sys = s.sys := by unfold State.errEv; simp only [event_sys, err_sys]
@[simp] theorem errEv_pending (s : State) (b : Blk) (code woff : Nat) : (s.errEv b code woff).pending = s.pending := by unfold State.errEv; simp only [event_pending, err_pending]

/-! `freezePoint` -/
@[simp] theorem freezePoint_regs (s : State) (b : Blk) : (s.freezePoint b).regs = s.regs := by unfold State.freezePoint; split <;> rfl
@[simp] theorem freezePoint_shadows (s : State) (b : Blk) : (s.freezePoint b).shadows = s.shadows := by unfold State.freezePoint; split <;> rfl
@[simp] theorem freezePoint_mem (s : State) (b : Blk) : (s.freezePoint b).mem = s.mem := by unfold State.freezePoint; split <;> rfl
@[simp] theorem freezePoint_ue (s : State) (b : Blk) : (s.freezePoint b).ue = s.ue := by unfold State.freezePoint; split <;> rfl
@[simp] theorem freezePoint_resp (s : State) (b : Blk) : (s.freezePoint b).resp = s.resp := by unfold State.freezePoint; split <;> rfl
@[simp] theorem freezePoint_draws (s : State) (b : Blk) : (s.freezePoint b).draws = s.draws := by unfold State.freezePoint; split <;> rfl
@[simp] theorem freezePoint_tileUsed (s : State) (b : Blk) : (s.freezePoint b).tileUsed = s.tileUsed := by unfold State.freezePoint; split <;> rfl
@[simp] theorem freezePoint_tileKnown (s : State) (b : Blk) : (s.freezePoint b).tileKnown = s.tileKnown := by unfold State.freezePoint; split <;> rfl
@[simp] theorem freezePoint_tb0 (s : State) (b : Blk) : (s.freezePoint b).tb0 = s.tb0 := by unfold State.freezePoint; split <;> rfl
@[simp] theorem freezePoint_tb1 (s : State) (b : Blk) : (s.freezePoint b).tb1 = s.tb1 := by unfold State.freezePoint; split <;> rfl
@[simp] theorem freezePoint_tb2 (s : State) (b : Blk) : (s.freezePoint b).tb2 = s.tb2 := by unfold State.freezePoint; split <;> rfl
@[simp] theorem freezePoint_tb3 (s : State) (b : Blk) : (s.freezePoint b).tb3 = s.tb3 := by unfold State.freezePoint; split <;> rfl
@[simp] theorem freezePoint_softRst (s : State) (b : Blk) : (s.freezePoint b).softRst = s.softRst := by unfold State.freezePoint; split <;> rfl
@[simp] theorem freezePoint_domOff (s : State) (b : Blk) : (s.freezePoint b).domOff = s.domOff := by unfold State.freezePoint; split <;> rfl
@[simp] theorem freezePoint_domIso (s : State) (b : Blk) : (s.freezePoint b).domIso = s.domIso := by unfold State.freezePoint; split <;> rfl
@[simp] theorem freezePoint_inserv (s : State) (b : Blk) : (s.freezePoint b).inserv = s.inserv := by unfold State.freezePoint; split <;> rfl
@[simp] theorem freezePoint_doorbells (s : State) (b : Blk) : (s.freezePoint b).doorbells = s.doorbells := by unfold State.freezePoint; split <;> rfl
@[simp] theorem freezePoint_evq (s : State) (b : Blk) : (s.freezePoint b).evq = s.evq := by unfold State.freezePoint; split <;> rfl
@[simp] theorem freezePoint_xlt (s : State) (b : Blk) : (s.freezePoint b).xlt = s.xlt := by unfold State.freezePoint; split <;> rfl
@[simp] theorem freezePoint_cad (s : State) (b : Blk) : (s.freezePoint b).cad = s.cad := by unfold State.freezePoint; split <;> rfl
@[simp] theorem freezePoint_spk (s : State) (b : Blk) : (s.freezePoint b).spk = s.spk := by unfold State.freezePoint; split <;> rfl
@[simp] theorem freezePoint_lpe (s : State) (b : Blk) : (s.freezePoint b).lpe = s.lpe := by unfold State.freezePoint; split <;> rfl
@[simp] theorem freezePoint_slv (s : State) (b : Blk) : (s.freezePoint b).slv = s.slv := by unfold State.freezePoint; split <;> rfl
@[simp] theorem freezePoint_mtr (s : State) (b : Blk) : (s.freezePoint b).mtr = s.mtr := by unfold State.freezePoint; split <;> rfl
@[simp] theorem freezePoint_nand (s : State) (b : Blk) : (s.freezePoint b).nand = s.nand := by unfold State.freezePoint; split <;> rfl
@[simp] theorem freezePoint_pfw (s : State) (b : Blk) : (s.freezePoint b).pfw = s.pfw := by unfold State.freezePoint; split <;> rfl
@[simp] theorem freezePoint_trueHeld (s : State) (b : Blk) : (s.freezePoint b).trueHeld = s.trueHeld := by unfold State.freezePoint; split <;> rfl
@[simp] theorem freezePoint_coefNew (s : State) (b : Blk) : (s.freezePoint b).coefNew = s.coefNew := by unfold State.freezePoint; split <;> rfl
@[simp] theorem freezePoint_coef (s : State) (b : Blk) : (s.freezePoint b).coef = s.coef := by unfold State.freezePoint; split <;> rfl
@[simp] theorem freezePoint_tsu (s : State) (b : Blk) : (s.freezePoint b).tsu = s.tsu := by unfold State.freezePoint; split <;> rfl
@[simp] theorem freezePoint_net (s : State) (b : Blk) : (s.freezePoint b).net = s.net := by unfold State.freezePoint; split <;> rfl
@[simp] theorem freezePoint_fio (s : State) (b : Blk) : (s.freezePoint b).fio = s.fio := by unfold State.freezePoint; split <;> rfl
@[simp] theorem freezePoint_can (s : State) (b : Blk) : (s.freezePoint b).can = s.can := by unfold State.freezePoint; split <;> rfl
@[simp] theorem freezePoint_canRc (s : State) (b : Blk) : (s.freezePoint b).canRc = s.canRc := by unfold State.freezePoint; split <;> rfl
@[simp] theorem freezePoint_tdm (s : State) (b : Blk) : (s.freezePoint b).tdm = s.tdm := by unfold State.freezePoint; split <;> rfl
@[simp] theorem freezePoint_evr (s : State) (b : Blk) : (s.freezePoint b).evr = s.evr := by unfold State.freezePoint; split <;> rfl
@[simp] theorem freezePoint_kst (s : State) (b : Blk) : (s.freezePoint b).kst = s.kst := by unfold State.freezePoint; split <;> rfl
@[simp] theorem freezePoint_fab (s : State) (b : Blk) : (s.freezePoint b).fab = s.fab := by unfold State.freezePoint; split <;> rfl
@[simp] theorem freezePoint_resv (s : State) (b : Blk) : (s.freezePoint b).resv = s.resv := by unfold State.freezePoint; split <;> rfl
@[simp] theorem freezePoint_refreshAt (s : State) (b : Blk) : (s.freezePoint b).refreshAt = s.refreshAt := by unfold State.freezePoint; split <;> rfl
@[simp] theorem freezePoint_nfm (s : State) (b : Blk) : (s.freezePoint b).nfm = s.nfm := by unfold State.freezePoint; split <;> rfl
@[simp] theorem freezePoint_spareLow (s : State) (b : Blk) : (s.freezePoint b).spareLow = s.spareLow := by unfold State.freezePoint; split <;> rfl
@[simp] theorem freezePoint_bgs (s : State) (b : Blk) : (s.freezePoint b).bgs = s.bgs := by unfold State.freezePoint; split <;> rfl
@[simp] theorem freezePoint_pwr (s : State) (b : Blk) : (s.freezePoint b).pwr = s.pwr := by unfold State.freezePoint; split <;> rfl
@[simp] theorem freezePoint_rtc (s : State) (b : Blk) : (s.freezePoint b).rtc = s.rtc := by unfold State.freezePoint; split <;> rfl
@[simp] theorem freezePoint_pnl (s : State) (b : Blk) : (s.freezePoint b).pnl = s.pnl := by unfold State.freezePoint; split <;> rfl
@[simp] theorem freezePoint_pfm (s : State) (b : Blk) : (s.freezePoint b).pfm = s.pfm := by unfold State.freezePoint; split <;> rfl
@[simp] theorem freezePoint_sys (s : State) (b : Blk) : (s.freezePoint b).sys = s.sys := by unfold State.freezePoint; split <;> rfl
@[simp] theorem freezePoint_pending (s : State) (b : Blk) : (s.freezePoint b).pending = s.pending := by unfold State.freezePoint; split <;> rfl

/-- A free value leaves everything but the count of free values. -/
@[simp] theorem draw_regs (s : State) : s.draw.2.regs = s.regs := rfl
@[simp] theorem draw_shadows (s : State) : s.draw.2.shadows = s.shadows := rfl
@[simp] theorem draw_mem (s : State) : s.draw.2.mem = s.mem := rfl
@[simp] theorem draw_ue (s : State) : s.draw.2.ue = s.ue := rfl
@[simp] theorem draw_resp (s : State) : s.draw.2.resp = s.resp := rfl
@[simp] theorem draw_tileUsed (s : State) : s.draw.2.tileUsed = s.tileUsed := rfl
@[simp] theorem draw_tileKnown (s : State) : s.draw.2.tileKnown = s.tileKnown := rfl
@[simp] theorem draw_tb0 (s : State) : s.draw.2.tb0 = s.tb0 := rfl
@[simp] theorem draw_tb1 (s : State) : s.draw.2.tb1 = s.tb1 := rfl
@[simp] theorem draw_tb2 (s : State) : s.draw.2.tb2 = s.tb2 := rfl
@[simp] theorem draw_tb3 (s : State) : s.draw.2.tb3 = s.tb3 := rfl
@[simp] theorem draw_halted (s : State) : s.draw.2.halted = s.halted := rfl
@[simp] theorem draw_softRst (s : State) : s.draw.2.softRst = s.softRst := rfl
@[simp] theorem draw_domOff (s : State) : s.draw.2.domOff = s.domOff := rfl
@[simp] theorem draw_domIso (s : State) : s.draw.2.domIso = s.domIso := rfl
@[simp] theorem draw_inserv (s : State) : s.draw.2.inserv = s.inserv := rfl
@[simp] theorem draw_doorbells (s : State) : s.draw.2.doorbells = s.doorbells := rfl
@[simp] theorem draw_evq (s : State) : s.draw.2.evq = s.evq := rfl
@[simp] theorem draw_xlt (s : State) : s.draw.2.xlt = s.xlt := rfl
@[simp] theorem draw_cad (s : State) : s.draw.2.cad = s.cad := rfl
@[simp] theorem draw_spk (s : State) : s.draw.2.spk = s.spk := rfl
@[simp] theorem draw_lpe (s : State) : s.draw.2.lpe = s.lpe := rfl
@[simp] theorem draw_slv (s : State) : s.draw.2.slv = s.slv := rfl
@[simp] theorem draw_mtr (s : State) : s.draw.2.mtr = s.mtr := rfl
@[simp] theorem draw_nand (s : State) : s.draw.2.nand = s.nand := rfl
@[simp] theorem draw_pfw (s : State) : s.draw.2.pfw = s.pfw := rfl
@[simp] theorem draw_trueHeld (s : State) : s.draw.2.trueHeld = s.trueHeld := rfl
@[simp] theorem draw_coefNew (s : State) : s.draw.2.coefNew = s.coefNew := rfl
@[simp] theorem draw_coef (s : State) : s.draw.2.coef = s.coef := rfl
@[simp] theorem draw_tsu (s : State) : s.draw.2.tsu = s.tsu := rfl
@[simp] theorem draw_net (s : State) : s.draw.2.net = s.net := rfl
@[simp] theorem draw_fio (s : State) : s.draw.2.fio = s.fio := rfl
@[simp] theorem draw_can (s : State) : s.draw.2.can = s.can := rfl
@[simp] theorem draw_canRc (s : State) : s.draw.2.canRc = s.canRc := rfl
@[simp] theorem draw_tdm (s : State) : s.draw.2.tdm = s.tdm := rfl
@[simp] theorem draw_evr (s : State) : s.draw.2.evr = s.evr := rfl
@[simp] theorem draw_kst (s : State) : s.draw.2.kst = s.kst := rfl
@[simp] theorem draw_fab (s : State) : s.draw.2.fab = s.fab := rfl
@[simp] theorem draw_resv (s : State) : s.draw.2.resv = s.resv := rfl
@[simp] theorem draw_refreshAt (s : State) : s.draw.2.refreshAt = s.refreshAt := rfl
@[simp] theorem draw_nfm (s : State) : s.draw.2.nfm = s.nfm := rfl
@[simp] theorem draw_spareLow (s : State) : s.draw.2.spareLow = s.spareLow := rfl
@[simp] theorem draw_bgs (s : State) : s.draw.2.bgs = s.bgs := rfl
@[simp] theorem draw_pwr (s : State) : s.draw.2.pwr = s.pwr := rfl
@[simp] theorem draw_rtc (s : State) : s.draw.2.rtc = s.rtc := rfl
@[simp] theorem draw_pnl (s : State) : s.draw.2.pnl = s.pnl := rfl
@[simp] theorem draw_pfm (s : State) : s.draw.2.pfm = s.pfm := rfl
@[simp] theorem draw_sys (s : State) : s.draw.2.sys = s.sys := rfl
@[simp] theorem draw_pending (s : State) : s.draw.2.pending = s.pending := rfl

end Sys2Proof.Machine
end

