-- ==== Sys2Proof/Laws/Mem.lean ====
section
/-! SUPPORT. What the shared memory and fabric operations do: bytes stored and their reservations, accesses through a context, counted
transactions. -/

namespace Sys2Proof.Machine

/-! ## Stored bytes -/

@[simp] theorem putBytes_mem (s : State) (a : Nat) (bs : List Byte) : (s.putBytes a bs).mem = memPutList s.mem a bs := rfl

/-- A store keeps memory canonical. -/
theorem putBytes_wf (s : State) (a : Nat) (bs : List Byte) (h : Memory.wf s.mem = true) : Memory.wf (s.putBytes a bs).mem = true :=
  memory_wf_putList bs s.mem a h

/-- A store changes no byte outside its range, and its bytes read back. -/
theorem byte_putBytes_out (s : State) (a : Nat) (bs : List Byte) {j : Nat} (h : j < a ∨ a + bs.length ≤ j) :
    (s.putBytes a bs).byte j = s.byte j := memPutList_get_out bs s.mem a j h
theorem byte_putBytes_in (s : State) (a : Nat) (bs : List Byte) {i : Nat} (h : i < bs.length) : (s.putBytes a bs).byte (a + i) = bs[i] :=
  memPutList_get_in bs s.mem a i h

/-- A reservation that outlives a store touches none of its bytes (R36). -/
theorem resv_putBytes (s : State) (a : Nat) (bs : List Byte) {r : Resv} (h : r ∈ (s.putBytes a bs).resv) :
    r ∈ s.resv ∧ ¬(a < r.at_ + r.len ∧ r.at_ < a + bs.length) := by
  have h' : r ∈ resvLeft s.resv a bs.length := h
  unfold resvLeft at h'
  rw [List.mem_filter] at h'
  refine ⟨h'.1, ?_⟩
  have := h'.2
  simp at this
  omega

/-! ## Counted transactions (R436, R510) -/

/-- Counting a transaction changes PFM's window alone. -/
theorem pfmCount_cases (s : State) (p : Fin 16) (wr : Bool) (n lat : Nat) : ∃ x, s.pfmCount p wr n lat = { s with pfm := x } := by
  unfold State.pfmCount
  split
  · exact ⟨s.pfm, rfl⟩
  · exact ⟨_, rfl⟩
@[simp] theorem pfmCount_mem (s : State) (p : Fin 16) (wr : Bool) (n lat : Nat) : (s.pfmCount p wr n lat).mem = s.mem := by
  obtain ⟨x, h⟩ := pfmCount_cases s p wr n lat; rw [h]
@[simp] theorem pfmCount_regs (s : State) (p : Fin 16) (wr : Bool) (n lat : Nat) : (s.pfmCount p wr n lat).regs = s.regs := by
  obtain ⟨x, h⟩ := pfmCount_cases s p wr n lat; rw [h]
@[simp] theorem pfmCount_fab (s : State) (p : Fin 16) (wr : Bool) (n lat : Nat) : (s.pfmCount p wr n lat).fab = s.fab := by
  obtain ⟨x, h⟩ := pfmCount_cases s p wr n lat; rw [h]

/-- FAB_USE shows the tags in flight; only its registers and the peak change. -/
theorem showUse_cases (s : State) : ∃ r, s.showUse = { s with regs := r, fab := { s.fab with peak := max s.fab.peak s.inFlight } } := by
  unfold State.showUse
  simp only
  split
  · exact ⟨s.regs, rfl⟩
  · exact ⟨_, rfl⟩
@[simp] theorem showUse_mem (s : State) : s.showUse.mem = s.mem := by obtain ⟨r, h⟩ := showUse_cases s; rw [h]
@[simp] theorem showUse_resp (s : State) : s.showUse.resp = s.resp := by obtain ⟨r, h⟩ := showUse_cases s; rw [h]
theorem showUse_fab (s : State) : s.showUse.fab = { s.fab with peak := max s.fab.peak s.inFlight } := by
  obtain ⟨r, h⟩ := showUse_cases s; rw [h]

/-- Everything the issue of an item can do: nothing, or the item stands last in PF, PW or REQ, or behind a walk (R431, R433, R434). -/
theorem issueItem_cases (s : State) (x : FabItem) :
    s.issueItem x = s ∨ s.issueItem x = { s with fab := { s.fab with pf := s.fab.pf ++ [x] } }.showUse ∨
    s.issueItem x = { s with fab := { s.fab with pw := s.fab.pw ++ [x] } }.showUse ∨
    s.issueItem x = { s with fab := { s.fab with req := s.fab.req ++ [x] } }.showUse ∨
    s.issueItem x = { s with fab := { s.fab with walks := s.fab.walks ++ [FabWalk.mk x (s.itemReads x) false] } }.showUse := by
  unfold State.issueItem
  split
  · exact .inl rfl
  split
  · exact .inr (.inl rfl)
  split
  · unfold State.enter
    split
    · exact .inr (.inr (.inl rfl))
    · exact .inr (.inr (.inr (.inl rfl)))
  · exact .inr (.inr (.inr (.inr rfl)))

/-- What an arbiter takes is one of the waiting items (R432). -/
theorem arbitrate_mem (s : State) {l : List FabItem} {x : FabItem} {sh : Vector Nat 16} (h : s.arbitrate l = some (x, sh)) : x ∈ l := by
  unfold State.arbitrate at h
  split at h
  · rename_i y hy; cases h; exact List.mem_of_find?_eq_some hy
  · split at h
    · rename_i y hy; cases h; exact List.mem_of_find?_eq_some hy
    · simp only at h
      split at h
      · cases h
      · rw [Option.map_eq_some_iff] at h
        obtain ⟨y, hy, e⟩ := h
        cases e; exact List.mem_of_find?_eq_some hy

/-- What a master receives first of an answer. -/
@[simp] theorem wholly_none : (wholly none).resp = ⟨0, true⟩ := rfl
@[simp] theorem wholly_some (b : List Byte) : (wholly (some b)).resp = ⟨BitVec.ofNat 32 (leNat (b.take 4)), false⟩ := rfl

/-! ## Accesses through a context (R442 to R446) -/

/-- A fold of steps that leave memory alone leaves it alone. -/
theorem foldl_mem {α : Type} (f : State → α → State) (h : ∀ s x, (f s x).mem = s.mem) (l : List α) : ∀ s, (l.foldl f s).mem = s.mem := by
  induction l with
  | nil => intro s; rfl
  | cons x t ih => intro s; rw [List.foldl_cons, ih, h]

@[simp] theorem dropModel_mem (s : State) : s.dropModel.mem = s.mem := by
  unfold State.dropModel
  exact (foldl_mem _ (fun s k => wr_mem s _ _) _ _).trans (by simp)
@[simp] theorem tileFault_mem (s : State) (tile slots : Nat) : (s.tileFault tile slots).mem = s.mem := by
  unfold State.tileFault
  refine (foldl_mem _ (fun s k => ?_) _ _).trans (by simp)
  split <;> simp

/-- An uncorrectable word is reported; memory stays. -/
@[simp] theorem ueSeen_mem (s : State) (w : Nat) : (s.ueSeen w).mem = s.mem := by
  unfold State.ueSeen
  split
  · simp only [tileFault_mem, draw_mem]
  · simp

/-- A translation leaves memory alone. -/
@[simp] theorem xlate_mem (s : State) (ctx : Nat) (wr : Bool) (va : Nat) : (s.xlate ctx wr va).1.mem = s.mem := by
  unfold State.xlate
  simp only
  repeat' split
  all_goals first | rfl | exact ueSeen_mem _ _
@[simp] theorem xltFault_mem (s : State) (ctx cause : Nat) (wr : Bool) (va : Nat) : (s.xltFault ctx cause wr va).mem = s.mem := by
  unfold State.xltFault
  simp only
  split <;> simp

/-- A store puts its bytes, whatever it finds of words it covers in part. -/
@[simp] theorem store_mem (s : State) (a : Nat) (bs : List Byte) : (s.store a bs).mem = memPutList s.mem a bs := by
  unfold State.store
  simp only
  exact congrArg (memPutList · a bs) (foldl_mem _ (fun s w => ueSeen_mem s w) _ s)

/-- A store keeps memory canonical. -/
theorem store_wf (s : State) (a : Nat) (bs : List Byte) (h : Memory.wf s.mem = true) : Memory.wf (s.store a bs).mem = true := by
  rw [store_mem]
  exact putBytes_wf s a bs h

/-- Writes through a context keep memory canonical. -/
theorem dmaWrite_wf (s : State) (ctx va : Nat) (bs : List Byte) (h : Memory.wf s.mem = true) : Memory.wf (s.dmaWrite ctx va bs).1.mem = true := by
  unfold State.dmaWrite
  simp only
  generalize burst va bs.length = l
  induction l generalizing s bs with
  | nil => exact h
  | cons x t ih =>
    obtain ⟨a, k⟩ := x
    unfold State.writeCuts
    have hx := xlate_mem s ctx true a
    split
    · rename_i s1 c e
      rw [e] at hx
      simpa [show s1.mem = s.mem from hx] using h
    · rename_i s1 pa e
      rw [e] at hx
      have h1 : Memory.wf s1.mem = true := by rw [show s1.mem = s.mem from hx]; exact h
      split
      · exact h1
      · exact ih _ _ (store_wf s1 pa _ h1)

/-- Reads through a context leave memory alone. -/
theorem readCuts_mem (s : State) (ctx : Nat) (l : List (Nat × Nat)) : (s.readCuts ctx l).1.mem = s.mem := by
  induction l generalizing s with
  | nil => rfl
  | cons x t ih =>
    obtain ⟨a, k⟩ := x
    unfold State.readCuts
    have hx := xlate_mem s ctx false a
    split
    · rename_i s1 c e
      rw [e] at hx
      simpa using hx
    · rename_i s1 pa e
      rw [e] at hx
      have h1 : s1.mem = s.mem := hx
      split
      · exact h1
      · split
        · simpa using h1
        · have hm : (s1.memRead pa k).2.mem = s.mem := by
            unfold State.memRead; split
            · simpa using h1
            · exact h1
          exact (ih _).trans hm
theorem dmaRead_mem (s : State) (ctx va n : Nat) : (s.dmaRead ctx va n).1.mem = s.mem := readCuts_mem s ctx _

end Sys2Proof.Machine
end

