-- ==== Sys2Proof/Laws/Ops.lean ====
section
/-! SUPPORT. What the shared operations do, once each: the checks before an access, events of a live block, one Cadence instruction on
an executing context. -/

namespace Sys2Proof.Machine

/-- Everything the checks of a register write can do. -/
theorem gate_cases (s : State) (m : Master) (b : Blk) (a : Nat) (k : State → State) :
    s.gate m b a k = s.replyErr ∨ s.gate m b a k = (s.err b 6 (woffOf b a)).reply 0 ∨
    s.gate m b a k = (s.err b 5 (woffOf b a)).replyErr ∨ s.gate m b a k = k (s.reply 0) := by
  unfold State.gate
  split
  · exact .inl rfl
  · split
    · exact .inr (.inl rfl)
    · split
      · exact .inr (.inr (.inl rfl))
      · exact .inr (.inr (.inr rfl))

/-- The write reaches the fields where the block answers and the master may write. -/
theorem gate_open {s : State} {b : Blk} (h : s.Answers b) {m : Master} {a : Nat} (k : State → State) (hm : monOnlyReg a = true → m = .mon) :
    s.gate m b a k = k (s.reply 0) := by
  unfold State.gate
  have e : (monOnlyReg a && m != Master.mon) = false := by
    cases hx : monOnlyReg a
    · rfl
    · rw [hm hx]; rfl
  rw [h.1, h.2, e]; rfl

/-- A read with a side effect where the block answers. -/
theorem gateRead_open {s : State} {b : Blk} (h : s.Answers b) (a : Nat) (k : State → State) : s.gateRead b a k = k s := by
  unfold State.gateRead; rw [h.1, h.2]; rfl

/-- An event of a live block happens. -/
theorem whileLive_live {s : State} {b : Blk} (h : s.Live b) (k : State → State) : s.whileLive b k = k s := by
  unfold State.whileLive; rw [h.1, h.2.1, h.2.2]; rfl

/-- An event of a block that is halted or has no power does nothing. -/
theorem whileLive_cases (s : State) (b : Blk) (k : State → State) : s.whileLive b k = s ∨ s.whileLive b k = k s := by
  unfold State.whileLive; split
  · exact .inl rfl
  · exact .inr rfl

/-- One instruction on an executing context. -/
theorem instr_executes {s : State} {c : Fin 16} (h : s.Executes c) (k : State → LaneCtx → IEnd) :
    s.instr c k = match k s { s.ctxAt c with count := (s.ctxAt c).count + 1, pc := (s.ctxAt c).pc + 1 } with
      | .ok s1 x1 => s1.setCtx c x1.advance
      | .done s1 => s1.freeCtx c
      | .exc code arg => s.abortCtx c code arg := by
  obtain ⟨hl, hb, hn, hc⟩ := h
  unfold State.instr
  rw [whileLive_live hl]
  have : ¬ s.budgetOf (s.ctxAt c) < (s.ctxAt c).count + 1 := by omega
  simp [hb, this, hc] <;> rfl

/-! ## Contexts, tasks and working registers -/

@[simp] theorem ctxAt_setCtx_same (s : State) (c : Fin 16) (x : LaneCtx) : (s.setCtx c x).ctxAt c = x := by
  simp [State.ctxAt, State.setCtx]
theorem ctxAt_setCtx_ne (s : State) {c d : Fin 16} (x : LaneCtx) (h : d ≠ c) : (s.setCtx c x).ctxAt d = s.ctxAt d := by
  have : c.val ≠ d.val := fun e => h (Fin.ext e.symm)
  simp [State.ctxAt, State.setCtx, this]
@[simp] theorem task_setCtx (s : State) (c : Fin 16) (x : LaneCtx) (n : Fin 8) : (s.setCtx c x).task n = s.task n := rfl
@[simp] theorem ctxAt_setTask (s : State) (n : Fin 8) (t : Task) (c : Fin 16) : (s.setTask n t).ctxAt c = s.ctxAt c := rfl
@[simp] theorem task_setTask_same (s : State) (n : Fin 8) (t : Task) : (s.setTask n t).task n = t := by
  simp [State.task, State.setTask]
theorem task_setTask_ne (s : State) {n m : Fin 8} (t : Task) (h : m ≠ n) : (s.setTask n t).task m = s.task m := by
  have : n.val ≠ m.val := fun e => h (Fin.ext e.symm)
  simp [State.task, State.setTask, this]

/-- W0 reads 0, whatever was written to it (R83). -/
@[simp] theorem laneCtx_r_zero (x : LaneCtx) : x.r 0 = 0 := rfl

/-- A working register after a write: W0 discards it (R83). -/
theorem laneCtx_r_setR (x : LaneCtx) (i j : BitVec 5) (v : Word) :
    (x.setR i v).r j = if j = i then (if i = 0 then 0 else v) else x.r j := by
  unfold LaneCtx.setR LaneCtx.r
  by_cases hi : i = 0
  · rw [if_pos hi]
    by_cases hj : j = i
    · rw [if_pos (hj.trans hi), if_pos hj, if_pos hi]
    · rw [if_neg hj]
  · rw [if_neg hi]
    by_cases hj : j = i
    · subst hj
      rw [if_neg hi, if_pos rfl, if_neg hi]
      simp
    · rw [if_neg hj]
      have hv : i.toNat ≠ j.toNat := fun e => hj (BitVec.eq_of_toNat_eq e.symm)
      by_cases h0 : j = 0
      · rw [if_pos h0, if_pos h0]
      · rw [if_neg h0, if_neg h0]
        simp [hv]

/-- Closing loops changes the program counter and the loops alone. -/
@[simp] theorem advance_r (x : LaneCtx) (i : BitVec 5) : x.advance.r i = x.r i := rfl
@[simp] theorem advance_task (x : LaneCtx) : x.advance.task = x.task := rfl
@[simp] theorem setR_task (x : LaneCtx) (i : BitVec 5) (v : Word) : (x.setR i v).task = x.task := by unfold LaneCtx.setR; split <;> rfl

/-- Sticky flags are set in the context's task alone. -/
theorem stick_flags (s : State) (x : LaneCtx) (f : Word) : ((s.stick x f).task x.task).flags = (s.task x.task).flags ||| f := by
  unfold State.stick
  split
  · rename_i h; subst h; simp
  · simp
@[simp] theorem stick_mem (s : State) (x : LaneCtx) (f : Word) : (s.stick x f).mem = s.mem := by unfold State.stick; split <;> rfl
@[simp] theorem stick_regs (s : State) (x : LaneCtx) (f : Word) : (s.stick x f).regs = s.regs := by unfold State.stick; split <;> rfl
@[simp] theorem stick_ctxAt (s : State) (x : LaneCtx) (f : Word) (c : Fin 16) : (s.stick x f).ctxAt c = s.ctxAt c := by
  unfold State.stick; split <;> rfl

/-- An instruction that computes rd, on an executing context. -/
theorem alu_executes {s : State} {c : Fin 16} (h : s.Executes c) (rd : BitVec 5) (f : LaneCtx → Res) :
    s.alu c rd f =
      let x := { s.ctxAt c with count := (s.ctxAt c).count + 1, pc := (s.ctxAt c).pc + 1 }
      (s.stick x (f x).2).setCtx c ((x.setR rd (f x).1).advance) := by
  unfold State.alu
  rw [instr_executes h]

end Sys2Proof.Machine
end

