-- ==== Sys2Proof/Tests/Slice0.lean ====
section
/-! SUPPORT. Small tests of one step each, with results worked out from the spec, and for every statement with hypotheses a concrete
state and operands that meet them. -/

set_option Elab.async false

namespace Sys2Proof.Tests

open Sys2Proof.Machine

/-- A store with the reserved quality code 7 is refused (R88). -/
theorem test_sts_q7_refused : WellFormed (.sts 0 1 0 7) = false := by decide
theorem test_stsx_q7_refused : WellFormed (.stsx 0 1 0 7) = false := by decide

/-- A LOOP without a bound, or without a body, is refused (R98). -/
theorem test_loop_no_bound_refused : WellFormed (.loop 0 1 0 1) = false := by decide
theorem test_loop_no_body_refused : WellFormed (.loop 0 1 1 0) = false := by decide

/-- A reset device with register values on top of the reset values. -/
def withRegs (l : List (Nat × Word)) : State :=
  l.foldl (fun (s : State) x => s.regPut x.1 x.2) State.reset

/-- One step of a command from a state, as a check of the state after it. -/
def after (i : Instr) (s : State) (p : State → Bool) : Bool :=
  match step { s with pending := [i] } with
  | .next t => p t
  | _ => false

/-! ## Register pages and interrupts -/

theorem wit_RegisterAccesses : (∀ b ∈ [Blk.kst, .can 3, .int, .mtr], State.reset.MayWrite .mon b (R.BLK_IRQ_EN b)) ∧ State.reset.shadows = [] ∧
    State.reset.Answers .net ∧ mapped 0x20000 = false ∧ mapped 0x280000000 = false ∧ blkAt 0x10170000 = some .bgs ∧
    ({ State.reset with domOff := 1 } : State).unreachable .bgs = true := by unfold State.MayWrite State.Answers; decide +kernel
theorem test_irq_en_write : after (.regWrite .h0 0x1010C014 0xFFFFFFFF) State.reset (fun t => t.regGet (R.BLK_IRQ_EN (.can 3)) == 0xFFFFFFFF) = true := by
  decide +kernel
theorem test_monitor_only_write : after (.regWrite .h0 0x10020040 0) State.reset (fun t => t.resp == ⟨0, true⟩ && t.rd (F.BLK_ERRINFO_CODE .fab) == 5) = true := by
  decide +kernel

/-- CAD enabled and stopping, CAN port 0's EN locked. -/
def stopping : State := withRegs [(R.BLK_CTRL .cad, 1), (R.BLK_STAT .cad, 8), (R.BLK_LOCK (.can 0), 2)]
theorem wit_RunningAndStopping : stopping.MayWrite .h0 .cad (R.BLK_CTRL .cad) ∧ stopping.en .cad = true ∧ stopping.stopping .cad = true ∧
    stopping.atRest .cad = true ∧ stopping.Live .cad ∧ stopping.MayWrite .h0 (.can 0) (R.BLK_CTRL (.can 0)) ∧ stopping.en (.can 0) = false ∧
    stopping.bit (F.BLK_LOCK_CTRL_LOCK (.can 0)) = true ∧ stopping.stopping (.can 0) = false := by
  unfold State.MayWrite State.Answers State.Live; decide +kernel
theorem wit_RunningAndStopping_stop : (withRegs [(R.BLK_CTRL .cad, 1)]).en .cad = true ∧ (withRegs [(R.BLK_CTRL .cad, 1)]).stopping .cad = false ∧
    (∀ n : Fin 8, (withRegs [(R.BLK_CTRL .cad, 1)]).taskState n ≠ 2) ∧ (withRegs [(R.CAD_TASKn_STAT 7, 2)]).taskState 7 = 2 ∧
    (withRegs [(R.CAD_TASKn_STAT 7, 2)]).atRest .cad = false ∧ (withRegs [(R.BLK_CTRL .bgs, 1)]).en .bgs = true := by decide +kernel
theorem wit_SoftReset : State.reset.MayWrite .mon .kst (R.BLK_CTRL .kst) ∧ State.reset.bit (F.BLK_LOCK_CTRL_LOCK .kst) = false ∧
    State.reset.bit (F.BLK_LOCK_CFG_LOCK .kst) = false ∧ resetKeep (R.BLK_IRQ_EN .kst) = 0 ∧ Sparse.wf regReset State.reset.regs = true ∧
    (withRegs [(R.BLK_LOCK .kst, 2)]).bit (F.BLK_LOCK_CTRL_LOCK .kst) = true ∧ State.reset.bit (F.BLK_CTRL_FREEZE .kst) ≠ true ∧
    ({ State.reset with softRst := 0x100 } : State).inSoftRst .cad = true ∧ ({ State.reset with softRst := 0x100 } : State).unreachable .cad = false ∧
    State.reset.pending = [] := by unfold State.MayWrite State.Answers; decide +kernel
theorem wit_Freeze : (withRegs [(R.KST_LC, 0xFFFFFFFF)]).dbgEn = true ∧ (withRegs [(R.KST_LC, 0)]).dbgEn = false := by decide +kernel
theorem test_softRst_resets : after (.softRst .h0 .lpe) (withRegs [(R.LPE_TBL_BASE_HI, 7)]) (fun t => t.regGet R.LPE_TBL_BASE_HI == 0 && t.inSoftRst .lpe) = true := by
  decide +kernel
theorem wit_LocksAndShadows : State.reset.MayWrite .h0 .cad (R.BLK_LOCK .cad) ∧ State.reset.Answers .lpe ∧ getBits 7 0 8 ≠ State.reset.rd F.LPE_TBL_BASE_HI_BASE_HI ∧
    State.reset.en .lpe = false ∧ (withRegs [(R.BLK_CTRL .lpe, 1)]).en .lpe = true ∧ (withRegs [(R.BLK_LOCK .lpe, 1)]).bit (F.BLK_LOCK_CFG_LOCK .lpe) = true ∧
    shadowOf State.reset.shadows (F.CAD_TASKn_PHASE_PHASE 0) = none ∧ getBits 500 0 24 ≠ State.reset.rd (F.CAD_TASKn_PHASE_PHASE 0) ∧
    (withRegs [(R.BLK_STAT .cad, 0x10)]).bit (F.BLK_STAT_SUM_PEND .cad) = true := by unfold State.MayWrite State.Answers; decide +kernel
theorem test_rws_shadow : after (.regWrite .h0 0x10080104 500) (withRegs [(R.BLK_CTRL .cad, 1)])
    (fun t => t.rd (F.CAD_TASKn_PHASE_PHASE 0) == 0 && t.rdShadow (F.CAD_TASKn_PHASE_PHASE 0) == 500) = true := by decide +kernel

/-- Doorbells 0 and 3 set, routed to core 1, the second with the higher priority; source 120 in service at core 2. -/
def bells : State := { withRegs [(R.INT_SRC_CFGn 120, 0x201), (R.INT_SRC_CFGn 123, 0x202)] with doorbells := 9 }
def bellsServed : State := { bells with inserv := [(120, 2)] }
theorem wit_ClaimsAndDoorbells : bells.Answers .int ∧ bells.srcEligible 1 123 = true ∧ bells.srcEligible 1 120 = true ∧
    (∀ n, n < 128 → State.reset.srcEligible 0 n = false) := by unfold State.Answers; decide +kernel
theorem test_claim_highest : after (.claim .h1 1) bells (fun t => t.resp.data == 0x8000007B && t.inserv == [(123, 1)]) = true := by decide +kernel
theorem wit_CompletionEndsService : bellsServed.MayWrite .h2 .int (R.INT_TGT_COMPLETEt 2) ∧ (120, 2) ∈ bellsServed.inserv ∧ (120, 1) ∉ bellsServed.inserv ∧
    bellsServed.MayWrite .mon .int (R.INT_TGT_COMPLETEt 4) := by unfold State.MayWrite State.Answers; decide +kernel

/-! ## The Cadence engine -/

/-- The image of a small program: one type of 64 data bytes, an instance of task 0 and a CALLED one, three slots. -/
def progBytes : List (Nat × List Byte) :=
  [(0x0C, leBytes 4 1), (0x10, leBytes 4 2), (0x14, leBytes 4 3), (0x40, leBytes 4 0x60), (0x44, leBytes 4 0x80), (0x48, leBytes 4 0x90),
   (0x4C, leBytes 4 0xB0), (0x54, leBytes 4 0xD0), (0x64, leBytes 4 5), (0x6C, leBytes 4 0x40), (0x78, leBytes 4 100), (0x7E, leBytes 2 1),
   (0x82, leBytes 2 1), (0x84, leBytes 1 7), (0x90, leBytes 4 0x1000), (0xA0, leBytes 4 0x2000), (0xA6, leBytes 1 8),
   (0xB8, leBytes 4 0x2800000), (0xC0, leBytes 4 0x3000000)]

/-- Context 0 runs instance 0 of that program, which lies in SRAM and is pinned for CAD. -/
def cad0 : State :=
  let s := (withRegs [(R.XLT_CTXn_CFG 0, 0x10000000)])
  let m := progBytes.foldl (fun (m : List Host.Cell) x => memPutList m (0x1000000 + x.1) x.2) []
  let x : LaneCtx := { busy := true, pc := 5 }
  ({ s with mem := memPut m 0x2001000 1, xlt := { s.xlt with pins := [(0, { en := true, va := 0, pages := 1, pa := 0x1000, r := true })] } }.setCtx 0 x)

/-- cad0 with working registers W1 to W3. -/
def cadW (a b d : Word) : State := cad0.setCtx 0 ((((cad0.ctxAt 0).setR 1 a).setR 2 b).setR 3 d)

theorem cad0_executes : cad0.Executes 0 := by unfold State.Executes State.Live; decide +kernel
theorem cadW_executes : (cadW 0x80000000 0xFFFFFFFF 0).Executes 0 := by unfold State.Executes State.Live; decide +kernel

/-- The value of W4 of context 0 after an instruction on W1 = a, W2 = b, W3 = d. -/
def w4 (i : Instr) (a b d : Word) : Word :=
  match exec i (cadW a b d) with
  | .next t => (t.ctxAt 0).r 4
  | _ => 0

theorem test_adds_clips : w4 (.adds 0 4 1 2) 0x7FFFFFFF 1 0 = 0x7FFFFFFF := by decide +kernel
theorem test_mulh_signed : w4 (.mulh 0 4 1 2) 0xFFFFFFFF 0xFFFFFFFF 0 = 0 := by decide +kernel
theorem test_div_truncates : w4 (.div 0 4 1 2) 0xFFFFFFF9 2 0 = 0xFFFFFFFD := by decide +kernel
theorem test_rem_sign : w4 (.rem 0 4 1 2) 0xFFFFFFF9 2 0 = 0xFFFFFFFF := by decide +kernel
theorem test_sra : w4 (.sra 0 4 1 2) 0x80000000 33 0 = 0xC0000000 := by decide +kernel
theorem test_qmul_rounds : w4 (.qmul 0 4 1 2 16) 0x00018000 0x00008001 0 = 0x0000C002 := by decide +kernel
theorem test_fadd : w4 (.fadd 0 4 1 2) 0x3FC00000 0x40200000 0 = 0x40800000 := by decide +kernel
theorem test_fdiv_thirds : w4 (.fdiv 0 4 1 2) 0x3F800000 0x40400000 0 = 0x3EAAAAAB := by decide +kernel
theorem test_fsqrt_two : w4 (.fsqrt 0 4 1) 0x40000000 0 0 = 0x3FB504F3 := by decide +kernel
theorem test_fcvt_clip : w4 (.fcvtWS 0 4 1) 0xFF800000 0 0 = 0x80000000 := by decide +kernel
theorem test_w0_discards : after (.addi 0 0 1 5) cad0 (fun t => (t.ctxAt 0).r 0 == 0) = true := by decide +kernel
theorem test_stw_little_endian : after (.stw 0 1 0 8) (cadW 0x11223344 0 0) (fun t => t.byte 0x2001008 == 0x44 && t.byte 0x200100B == 0x11) = true := by
  decide +kernel
theorem test_call_enters_child : after (.call 0 0 0) cad0 (fun t => (t.ctxAt 0).cur == 1 && (t.ctxAt 0).pc == 5) = true := by decide +kernel
theorem test_lds_out_of_range_aborts :
    after (.lds 0 4 3) cad0 (fun t => !(t.ctxAt 0).busy && (t.task 0).excs == [⟨0, 2, 5, 0, false⟩]) = true := by decide +kernel

theorem wit_ArithmeticResult : aluOf (.add 0 4 1 2) = some (0, 4, fun x => (BitVec.ofInt 32 ((x.r 1).toInt + (x.r 2).toInt), 0)) ∧ cad0.Executes 0 :=
  ⟨rfl, cad0_executes⟩
theorem wit_DivisionNeverTraps :
    (cadW 0x80000000 0xFFFFFFFF 0).Executes 0 ∧ ((cadW 0x80000000 0xFFFFFFFF 0).ctxAt 0).r 1 = 0x80000000 ∧
      ((cadW 0x80000000 0xFFFFFFFF 0).ctxAt 0).r 2 = 0xFFFFFFFF ∧ ((cadW 0x80000000 0xFFFFFFFF 0).ctxAt 0).r 3 = 0 :=
  ⟨cadW_executes, by decide +kernel, by decide +kernel, by decide +kernel⟩
theorem wit_SlotReads : cad0.Executes 0 ∧ (2 : BitVec 16).toNat < cad0.nSlots cad0.runBank ∧ ((cad0.ctxAt 0).r 1).toNat < cad0.nSlots cad0.runBank :=
  ⟨cad0_executes, by decide +kernel, by decide +kernel⟩
theorem wit_SlotStores : cad0.Executes 0 ∧ cad0.MayStore 0 1 0 6 ∧ cad0.MayStore 0 2 0 0 ∧ cad0.outranked 0 0 1 = false :=
  ⟨cad0_executes, by unfold State.MayStore; decide +kernel, by unfold State.MayStore; decide +kernel, by decide +kernel⟩
/-- cad0 in a wave where instance 1 wrote slot 1. -/
def cadOut : State := cad0.setTask 0 { cad0.task 0 with waveWrites := [⟨1, some 1, 0, 0⟩] }
theorem wit_SlotStores_outranked : cadOut.Executes 0 ∧ cadOut.MayStore 0 1 0 0 ∧ cadOut.outranked 0 0 1 = true :=
  ⟨by unfold State.Executes State.Live; decide +kernel, by unfold State.MayStore; decide +kernel, by decide +kernel⟩
theorem wit_InstanceData : cad0.Executes 0 ∧ cad0.dataExc (cad0.ctxAt 0) 60 4 = none ∧ cad0.dataExc (cad0.ctxAt 0) 62 2 = none ∧
    cad0.dataExc (cad0.ctxAt 0) 63 1 = none := ⟨cad0_executes, by decide +kernel, by decide +kernel, by decide +kernel⟩
theorem wit_TimersAndEdges : cad0.Executes 0 ∧ 52 + 12 ≤ cad0.instDsize cad0.runBank (cad0.ctxAt 0).cur ∧
    cad0.ueIn (cad0.dataAddr cad0.runBank (cad0.ctxAt 0).cur 52) 12 = none ∧ cad0.dataExc (cad0.ctxAt 0) 63 1 = none :=
  ⟨cad0_executes, by decide +kernel, by decide +kernel, by decide +kernel⟩
theorem wit_LoopsAndCalls : cad0.Executes 0 ∧ (cad0.ctxAt 0).loops.length < 4 ∧ cad0.dataExc (cad0.ctxAt 0) 0 4 = none ∧
    1 < cad0.nInst cad0.runBank ∧ cad0.rdLe (cad0.dataAddr cad0.runBank (cad0.ctxAt 0).cur 0) 4 = 1 ∧
    cad0.instCalled cad0.runBank 1 = true ∧ cad0.owns cad0.runBank (cad0.ctxAt 0).cur 1 = true ∧ (cad0.ctxAt 0).calls = [] :=
  ⟨cad0_executes, by decide +kernel, by decide +kernel, by decide +kernel, by decide +kernel, by decide +kernel, by decide +kernel, by decide +kernel⟩
/-- Context 0 inside a call. -/
def cadCalled : State := cad0.setCtx 0 { cad0.ctxAt 0 with calls := [⟨7, 0, []⟩], cur := 1 }
theorem wit_LoopsAndCalls_ret : cadCalled.Executes 0 ∧ (cadCalled.ctxAt 0).calls = [⟨7, 0, []⟩] :=
  ⟨by unfold State.Executes State.Live; decide +kernel, by decide +kernel⟩
theorem wit_RequestsArePosted : (cadW 3 0 0).Executes 0 ∧ (((cadW 3 0 0).ctxAt 0).r 1).toNat % 4 = 3 ∧ (((cadW 3 0 0).ctxAt 0).r 2).toNat % 4 ≠ 3 :=
  ⟨by unfold State.Executes State.Live; decide +kernel, by decide +kernel, by decide +kernel⟩
/-- Template 5 offers four words. -/
def cadTpl : State := { cad0 with slv := { cad0.slv with tpls := Sparse.put cad0.slv.tpls {} 5 { rdLen := 4 } } }
theorem wit_RequestsArePosted_slvrd : cadTpl.Executes 0 ∧ ((cadTpl.ctxAt 0).r 1).toNat < (cadTpl.tpl 5).rdLen :=
  ⟨by unfold State.Executes State.Live; decide +kernel, by decide +kernel⟩
theorem wit_ExceptionsAbort : (cadW 61 0 0).Executes 0 ∧ ((cadW 61 0 0).ctxAt 0).r 2 = 0 ∧ ((cadW 61 0 0).ctxAt 0).r 1 ≠ 0 ∧
    (cadW 61 0 0).nSlots (cadW 61 0 0).runBank ≤ (3 : BitVec 16).toNat ∧ (cadW 61 0 0).slotDir (cadW 61 0 0).runBank 0 = 0 ∧
    (cadW 61 0 0).instDsize (cadW 61 0 0).runBank ((cadW 61 0 0).ctxAt 0).cur = 64 ∧ (1 : BitVec 11).toNat < (((cadW 61 0 0).ctxAt 0).r 1).toNat :=
  ⟨by unfold State.Executes State.Live; decide +kernel, by decide +kernel, by decide +kernel, by decide +kernel, by decide +kernel,
   by decide +kernel, by decide +kernel⟩
/-- Context 0 with its budget used up. -/
def cadSpent : State := cad0.setCtx 0 { cad0.ctxAt 0 with count := 100 }
theorem wit_ExceptionsAbort_budget : cadSpent.Live .cad ∧ (cadSpent.ctxAt 0).busy = true ∧ cadSpent.budgetOf (cadSpent.ctxAt 0) < (cadSpent.ctxAt 0).count + 1 :=
  ⟨by unfold State.Live; decide +kernel, by decide +kernel, by decide +kernel⟩

/-! ## Cadence commands -/

/-- A state whose block answers a master's write. -/
theorem reset_mayWrite_cad : State.reset.MayWrite .mon .cad R.CAD_LOADCMD := by unfold State.MayWrite State.Answers; decide +kernel
theorem reset_live_cad : State.reset.Live .cad := by unfold State.Live; decide +kernel

/-- Bank 0 LOADING an image with a good header in SRAM, verified. -/
def cadLoading : State :=
  let s := cad0.regPut R.CAD_BANK_STAT 1
  let m := [(0, 0x4441435A), (4, 1), (0x0C, 1), (0x10, 1), (0x14, 1), (0x18, 1)].foldl
    (fun (m : List Host.Cell) (x : Nat × Nat) => memPutList m (0x1000000 + x.1) (leBytes 4 x.2)) []
  { s with mem := m, cad := { s.cad with loadVerified := true } }

/-- A read of a bank's image succeeds, and the bytes obey a check. -/
def imageRead (s : State) (k n : Nat) (p : List Byte → State → Bool) : Bool :=
  match s.readImage k n with
  | (s1, .ok i) => p i s1
  | (_, .error _) => false

theorem wit_ProgramLoading_load : State.reset.bankState 0 ≠ 3 ∧ State.reset.bankState 0 ≠ 1 ∧ State.reset.bankState 1 ≠ 1 ∧
    (withRegs [(R.CAD_BANK_STAT, 3)]).bankState 0 = 3 ∧ (withRegs [(R.CAD_BANK_STAT, 3)]).MayWrite .mon .cad R.CAD_LOADCMD := by
  unfold State.MayWrite State.Answers; decide +kernel
theorem wit_ProgramLoading_fault : (withRegs [(R.CAD_BANK_STAT, 0x10)]).bankState 1 = 1 ∧
    imageRead (withRegs [(R.CAD_BANK_STAT, 0x10)]) 1 256 (fun _ _ => true) = false := by decide +kernel
theorem wit_ProgramLoading_header : imageRead (cad0.regPut R.CAD_BANK_STAT 1) 0 256 (fun h _ => (headerCheck h false).1 == 1) = true := by
  decide +kernel
theorem wit_ProgramLoading_image : cadLoading.Live .cad ∧ cadLoading.bankState 0 = 1 ∧
    imageRead cadLoading 0 256 (fun h s => (headerCheck h cadLoading.cad.loadVerified).1 == 0 &&
      imageRead s 0 (max 256 (hdImgSize h)) fun _ _ => true) = true := by unfold State.Live; decide +kernel
theorem wit_ProgramLoading_rehash : (cad0.regPut R.CAD_BANK_STAT 2).Live .cad ∧ (cad0.regPut R.CAD_BANK_STAT 2).bankState 0 = 2 ∧
    imageRead (cad0.regPut R.CAD_BANK_STAT 2) 0 256 (fun _ _ => true) = true ∧ imageRead (cad0.regPut R.CAD_BANK_STAT 3) 0 256 (fun _ _ => true) = true := by
  unfold State.Live; decide +kernel
theorem test_load_header_rejected :
    after .loadCheckEnd (cad0.regPut R.CAD_BANK_STAT 1) (fun t => t.bankState 0 == 4 && t.rd F.CAD_BANK_STAT_RESULT == 1) = true := by decide +kernel

/-- Bank 0 ACTIVE with its image pinned, the engine enabled, task 1 IDLE and owed a start. -/
def cadIdle : State :=
  let s := (cad0.setCtx 0 {}).regPut R.CAD_BANK_STAT 3 |>.regPut (R.BLK_CTRL .cad) 1 |>.regPut (R.CAD_TASKn_STAT 1) 1
  s.setTask 1 { s.task 1 with owed := true, deltaZero := true }
theorem wit_TaskCycles_start : cadIdle.Live .cad ∧ cadIdle.runs .cad = true ∧ cadIdle.taskState 1 = 1 ∧ cadIdle.activeBank.isSome = true ∧
    cadIdle.saveHolds = false ∧ cadIdle.chgState ≠ 3 ∧ cadIdle.following = false ∧ cadIdle.shed = false ∧ cadIdle.startDue 1 = true ∧
    cadIdle.bit (F.BLK_CTRL_FREEZE .cad) = false := by unfold State.Live; decide +kernel
/-- Task 1 at the end of its cycle. -/
def cadDone : State := cadIdle.regPut (R.CAD_TASKn_STAT 1) 2
theorem wit_TaskCycles_publication : cadDone.cycleDone 1 = true ∧ cadDone.saveHolds = false ∧ cadDone.Live .cad := by unfold State.Live; decide +kernel
/-- A locked T0 past its latest-start point. -/
def cadLate : State :=
  let s := (cadIdle.regPut (R.CAD_TASKn_STAT 0) 0xA) |>.regPut R.SPK_PERIOD 1000
  { s with tb2 := 2000 * 1000 * unitsPerNs }
theorem wit_TaskCycles_overrun : cadLate.overrunNow 0 = true ∧ cadLate.runs .cad = true ∧ cadLate.following = false ∧ cadLate.Live .cad := by
  unfold State.Live; decide +kernel

/-- Bank 0 ACTIVE, tasks 0 to 3 STOPPED, IDLE, RUNNING and FAULTED. -/
def cadTasks : State := withRegs [(R.CAD_BANK_STAT, 3), (R.CAD_TASKn_STAT 1, 1), (R.CAD_TASKn_STAT 2, 2), (R.CAD_TASKn_STAT 3, 3)]
theorem wit_TaskCommands : cadTasks.MayWrite .mon .cad R.CAD_TASK_CMD ∧ cadTasks.following = false ∧ cadTasks.taskState 0 = 0 ∧
    cadTasks.taskState 1 = 1 ∧ cadTasks.taskState 2 = 2 ∧ cadTasks.taskState 3 = 3 ∧ cadTasks.activeBank.isSome = true := by
  unfold State.MayWrite State.Answers; decide +kernel
theorem test_stop_running_waits : after (.stop .mon 2) cadTasks (fun t => t.taskState 2 == 2 && (t.task 2).stopPend) = true := by decide +kernel

/-- CAD enabled, bank 0 LOADED and named by START_BANK. -/
def cadLoaded : State := withRegs [(R.CAD_BANK_STAT, 2), (R.BLK_CTRL .cad, 1)]
theorem wit_Starts : cadLoaded.MayWrite .mon .cad R.CAD_START ∧ cadLoaded.following = false ∧ cadLoaded.startRefusal = 0 ∧
    State.reset.startRefusal = 5 ∧ State.reset.MayWrite .mon .cad R.CAD_START ∧ State.reset.MayWrite .mon .cad R.CAD_INST_CMD ∧
    State.reset.following = false ∧ State.reset.MayWrite .mon .cad (R.CAD_EXC_FLAGSn 7) := by unfold State.MayWrite State.Answers; decide +kernel
theorem test_coldStart_idle : after (.coldStart .mon 0x81) cadLoaded (fun t => t.taskState 0 == 1 && t.taskState 7 == 1 && t.taskState 1 == 0) = true := by
  decide +kernel

/-- Saves: CAD_RET_STAT.STATE 0, 1 and 2 with an ACTIVE program. -/
def cadSave (st : Word) : State := cadIdle.regPut R.CAD_RET_STAT st |>.setTask 1 {} |>.regPut (R.CAD_TASKn_STAT 1) 0
/-- A save that waits since 10 s ago. -/
def cadWaits : State := { cadSave 1 with tb2 := 10000000 * 1000 * unitsPerNs }
theorem wit_RetainedDataSaves : (cadSave 0).MayWrite .mon .cad R.CAD_RET_CMD ∧ (cadSave 0).activeBank.isSome = true ∧ (cadSave 0).rd F.CAD_RET_STAT_STATE = 0 ∧
    State.reset.activeBank = none ∧ State.reset.rd F.CAD_RET_STAT_STATE = 0 ∧ State.reset.MayWrite .mon .cad R.CAD_RET_CMD ∧
    (cadSave 1).rd F.CAD_RET_STAT_STATE = 1 ∧ (cadSave 2).rd F.CAD_RET_STAT_STATE = 2 := by unfold State.MayWrite State.Answers; decide +kernel
theorem wit_RetainedDataSaves_events : (cadSave 1).Live .cad ∧ (cadSave 1).cad.retNow = false ∧ (∀ n : Fin 8, (cadSave 1).taskState n ≠ 2) ∧
    (cadSave 1).noneDue (cadSave 1).saveNs = true ∧ (cadSave 2).dataBad = false ∧ (cadSave 2).Live .cad ∧
    cadWaits.cad.retSince + cadWaits.chgTimeoutNs ≤ cadWaits.nowNs ∧ cadWaits.rd F.CAD_RET_STAT_STATE = 1 := by unfold State.Live; decide +kernel

/-- cad0 with force signal 0 (its first slot's) and an ORPHAN entry at index 3. -/
def cadForce : State := { (cad0.regPut R.CAD_BANK_STAT 3) with cad := { cad0.cad with forces := [(3, some ⟨0, 5, 0, true⟩)] } }
theorem wit_ForceCommands : cadForce.MayWrite .mon .cad R.CAD_FORCE_CMD ∧ cadForce.following = false ∧ cadForce.forceLock = false ∧
    cadForce.boundSlot cadForce.forceSig = some 0 ∧ cadForce.slotType cadForce.runBank 0 = 0 ∧ cadForce.forceIdx cadForce.forceSig = some 3 ∧
    cadForce.forceAt 3 = some ⟨0, 5, 0, true⟩ ∧ cadForce.forceAt 4095 = none := by unfold State.MayWrite State.Answers; decide +kernel
theorem wit_ForceCommands_others : State.reset.boundSlot State.reset.forceSig = none ∧ State.reset.forceIdx State.reset.forceSig = none ∧
    (withRegs [(R.BLK_LOCK .cad, 4)]).forceLock = true ∧ (withRegs [(R.BLK_LOCK .cad, 4)]).MayWrite .mon .cad R.CAD_FORCE_CMD ∧
    (withRegs [(R.BLK_LOCK .cad, 4)]).following = false := by unfold State.MayWrite State.Answers; decide +kernel
theorem test_nextOrphan_finds : after (.nextOrphan .mon 2) cadForce (fun t => t.rd F.CAD_FORCE_STAT_IDX == 3 && t.rd F.CAD_FORCE_STAT_STATE == 2) = true := by
  decide +kernel

/-- A change in STATE `st`, bank 0 ACTIVE and bank 1 LOADED. -/
def cadChg (st : Word) : State := withRegs [(R.CAD_BANK_STAT, 0x23), (R.CAD_CHG_STAT, st)]
theorem wit_OnlineChange : (cadChg 0).MayWrite .mon .cad R.CAD_CHG_CMD ∧ (cadChg 0).following = false ∧ (cadChg 0).chgLock = false ∧
    (cadChg 0).chgState = 0 ∧ (cadChg 1).chgState = 1 ∧ (cadChg 1).MayWrite .mon .cad R.CAD_CHG_CMD ∧ (cadChg 1).chgCheck = 2 ∧ (cadChg 2).windowOpen = true ∧
    (cadChg 2).cad.chgRefuse = false ∧ (cadChg 2).Live .cad ∧ (cadChg 2).cad.chgArmed + (cadChg 2).chgTimeoutNs ≤ ({ cadChg 2 with tb2 := 10000000 * 1000 * unitsPerNs } : State).nowNs ∧
    (withRegs [(R.BLK_LOCK .cad, 8)]).chgLock = true := by unfold State.MayWrite State.Answers State.Live; decide +kernel
/-- A standby in step. -/
def cadStandby : State := withRegs [(R.SYS_ROLE, 0xFFFFFFFF), (R.TDM_STATE, 3)]
theorem wit_StandbyDiscards : cadStandby.Answers .cad ∧ cadStandby.following = true := by unfold State.Answers; decide +kernel

/-! ## The ring -/

/-- The same state after RESET_RELEASE; the plant's master with its ring running, on a grid instant; a pass due since long ago; a pass in flight. -/
def released (s : State) : State := { s with sys := { s.sys with boot := false } }
def ring : State := released (withRegs [(R.SYS_ROLE, 0), (R.SPK_RING_STAT, 1), (R.BLK_CTRL .spk, 1)])
/-- A plant module whose SPK is not running, and one whose ring is blocked. -/
def plantIdle : State := released (withRegs [(R.SYS_ROLE, 0)])
def plantBlocked : State := released (withRegs [(R.SYS_ROLE, 0), (R.SPK_RING_STAT, 3)])
def ringDue : State := { ring with spk := { ring.spk with due := some 0 }, tb2 := 5000 * 1000 * 1000 * unitsPerNs }
def ringPass : State := { ring with spk := { ring.spk with pass := some ⟨7, 0, 0, 1, 2, [], 0, false, false, []⟩, down := [{ idx := 3, node := 5, seq := 1, service := 1, payload := [], sends := 0, waited := 9, due := false }] } }
/-- A cyclic frame of pass 7. -/
def ringFrame7 : SpokeFrame := { da := ring.ringDa, sa := 0, etype := ring.ringEtype, body := mkHeader 0 false false true 7 0 1 0 0 }
theorem wit_RingMaster : ring.Live .spk ∧ ring.mastering = true ∧ ring.ringGridNow = true ∧ ring.cad.ringAt ≠ some ring.tb2 ∧
    ringDue.mastering = true ∧ ringDue.bit (F.CAD_TASKn_STAT_LOCKED 0) = false ∧ 0 + ringDue.latestStart ≤ ringDue.nowNs ∧
    ringDue.bit (F.BLK_CTRL_FREEZE .spk) = false ∧ State.reset.mastering = false := by unfold State.Live; decide +kernel
theorem wit_RingMaster_frames : ringPass.plant = true ∧ ringPass.ringFrame ringFrame7 = true ∧ ringFrame7.fcs = true ∧ hTagged ringFrame7.body = false ∧
    ringPass.sentTagged ringFrame7.body = false ∧ hLooped ringFrame7.body = false ∧ hKind ringFrame7.body = 0 ∧ hPass ringFrame7.body = 7 ∧
    ringPass.nowNs < ringPass.passDeadline ⟨7, 0, 0, 1, 2, [], 0, false, false, []⟩ ∧
    ({ ringPass with tb2 := 5000 * 1000 * 1000 * unitsPerNs } : State).passDeadline ⟨7, 0, 0, 1, 2, [], 0, false, false, []⟩ ≤ ({ ringPass with tb2 := 5000 * 1000 * 1000 * unitsPerNs } : State).nowNs ∧
    max 1 (ringPass.rd F.SPK_MBX_CFG_RETRY) ≤ 9 ∧ ring.spk.pass = none := by decide +kernel
theorem wit_RingMaster_commands : ring.MayWrite .h0 .spk R.SPK_TBL_CMD ∧ ring.bit F.SPK_TBL_STAT_PEND = false ∧
    (withRegs [(R.SPK_TBL_STAT, 1)]).bit F.SPK_TBL_STAT_PEND = true ∧ ring.MayWrite .h0 .spk (R.SPK_MBXq_IDX 1) ∧
    plantIdle.MayWrite .h0 .spk (R.BLK_CTRL .spk) ∧ plantIdle.plant = true ∧ plantIdle.bit (F.BLK_LOCK_CTRL_LOCK .spk) = false ∧
    plantIdle.en .spk = false ∧ plantIdle.stopping .spk = false ∧ plantIdle.mayMaster = true := by unfold State.MayWrite State.Answers; decide +kernel
/-- A running station with ring instants, its node 0's segment at offset 0 of a frame; a request held. -/
def station : State := released (withRegs [(R.SYS_ROLE, 1), (R.BLK_CTRL .spk, 1)])
def stationFrame : SpokeFrame := { da := station.ringDa, sa := 0, etype := station.ringEtype, body := mkHeader 0 false false true 7 0 1 8 0 ++ List.replicate 8 0 }
theorem wit_RingMaster_timeout : ({ station with cad := { station.cad with ringSupplied := true }, tb2 := 5000 * 1000 * 1000 * unitsPerNs } : State).stationRole = true ∧
    station.spk.lastInstant + 2000 * station.ringPeriod ≤ ({ station with tb2 := 5000 * 1000 * 1000 * unitsPerNs } : State).nowNs := by decide +kernel
/-- A copy that turned back at the port 0 side of a break, and one at port 1. -/
def looped (dir : Bool) : SpokeFrame := { ringFrame7 with body := setLooped (mkHeader 0 dir false false 7 0 1 0 0) }
theorem wit_RingMaster_looped : ring.ringFrame (looped false) = true ∧ hLooped (looped false).body = true ∧ hLooped (looped true).body = true ∧
    hDir (looped false).body = ((0 : Fin 2) == 1) ∧ hDir (looped true).body = ((1 : Fin 2) == 1) ∧ hTagged (looped true).body = false ∧
    ring.sentTagged (looped true).body = false := by decide +kernel
theorem wit_RingStations_forward : ring.takesFrame ringFrame7 = true ∧ State.reset.takesFrame { ringFrame7 with da := 0 } = false ∧ ring.tandem = false ∧
    ring.stationRole = false ∧ hVer ringFrame7.body = 1 ∧ ring.plant = true ∧ ring.ringState ≠ 3 ∧ ring.looping = false ∧ ring.mastering = true ∧
    plantIdle.mastering = false ∧ plantIdle.ringState ≠ 3 ∧ plantIdle.takesFrame ringFrame7 = true ∧ plantBlocked.ringState = 3 ∧
    ({ plantBlocked with spk := { plantBlocked.spk with loopA := true, loopB := true } } : State).looping = true := by decide +kernel
theorem wit_RingStations_segment : station.stationRole = true ∧ station.runs .spk = true ∧ station.takesFrame stationFrame = true ∧ station.tandem = false ∧
    station.looping = false ∧ hVer stationFrame.body = 1 ∧ hLooped stationFrame.body = false ∧ hTagged stationFrame.body = false ∧
    station.mySegment stationFrame.body = some 0 ∧ station.frameTagged (station.spoke station.node).cfg.tagged = false ∧
    (station.spoke station.node).st.state ≠ 6 ∧ stationFrame.fcs = true ∧ (station.clearTx.newPass stationFrame.body true).spk.stn.took = false := by decide +kernel
def asked (service : Nat) (payload : List Byte) : State :=
  { station with spk := { station.spk with stn := { station.spk.stn with req := [{ seq := 1, service := service, payload := payload }] } } }
theorem wit_RingStations_events : station.Live .spk ∧ station.forwards = true ∧ station.spk.syncA = none ∧ (station.spoke station.node).st.state ≠ 6 ∧
    station.spk.stn.takenAt + station.stationWd ≤ ({ station with tb2 := 1000000 * 1000 * 1000 * unitsPerNs } : State).nowNs ∧
    0 + 100000000 ≤ ({ station with tb2 := 1000000 * 1000 * 1000 * unitsPerNs } : State).nowNs := by unfold State.Live; decide +kernel
theorem wit_RingStations_services : (asked 1 []).spk.stn.req ≠ [] ∧ (asked 2 [0, 0, 0, 0, 0, 0]).stationRole = true ∧
    (asked 3 [0, 0, 0, 1, 0, 0, 0xFF, 0xFF]).runs .spk = true ∧ station.param 1 = some (beBytes 4 (station.rd F.SPK_STN_WD_WD_MS)) ∧ station.param 4 = none ∧
    beAt ([0, 0, 0, 1, 0, 0, 0xFF, 0xFF].drop 4) 0 4 = 65535 := by decide +kernel
/-- A blocked module forwards with HOPS + 1 (R20, R153). -/
theorem test_forward_hops : after (.ringFrameForward 0 false ringFrame7) plantBlocked
    (fun t => (t.spk.tx.map fun x => (x.1, hHops x.2.body)) == [(1, 1)]) = true := by decide +kernel
/-- Held in reset, it forwards nothing (R153). -/
theorem test_forward_in_reset : after (.ringFrameForward 0 false ringFrame7) (withRegs [(R.SYS_ROLE, 0), (R.SPK_RING_STAT, 3)])
    (fun t => t.spk.tx.isEmpty) = true := by decide +kernel
theorem test_departure_number : after .passDeparture ringDue (fun t => t.spk.next == 1 && t.spk.due.isNone) = true := by decide +kernel

/-! ## The loop engine and the output guard -/

/-- LPE running: slot 0 DISABLED, slot 1 RUN and unlocked, slot 2 ERROR with its own value on signal 9; one guard entry for signal 9. -/
def lpeRun : State :=
  let s := withRegs [(R.BLK_CTRL .lpe, 1), (R.LPE_SLOTn_STAT 1, 1), (R.LPE_SLOTn_STAT 2, 2)]
  let e : SlotEntry := { (parseEntry []) with period := 1000, outSig := 9, outMin := 0, outMax := 100, failVal := 0, locked := false }
  let g : GuardEntry := ⟨9, 3, 0, 50, 7, 0, 1, 0, false, true⟩
  let s1 := (s.setLslot 1 { (s.lslot 1) with entry := e }).setLslot 2 { (s.lslot 2) with entry := { e with outSig := 11 } }
  { s1 with lpe := { s1.lpe with bank0 := { entries := [g] }, out := [(9, some ⟨60, 0, 18⟩), (11, some ⟨1, 0, 18⟩)] }, tb2 := 5000000 * 1000 * unitsPerNs }
theorem wit_LoopSlots : lpeRun.MayWrite .h0 .lpe R.LPE_SLOT_CMD ∧ lpeRun.following = false ∧ lpeRun.lslotState 0 = 0 ∧ lpeRun.lslotState 1 = 1 ∧
    lpeRun.lslotState 2 = 2 ∧ (lpeRun.dmaRead 1 (lpeRun.loopEntryAddr 0) 1024).2 = none ∧ lpeRun.outVal (lpeRun.lslot 2).entry.outSig = some ⟨1, 0, 18⟩ := by
  unfold State.MayWrite State.Answers; decide +kernel
/-- LPE's context maps SRAM, where every entry reads 0. -/
def lpeMapped : State :=
  { (lpeRun.regPut (R.XLT_CTXn_CFG 1) 0x10000000) with xlt := { lpeRun.xlt with pins := [(8, { en := true, va := 0, pages := 16, pa := 0x1000, r := true })] } }
theorem wit_LoopSlots_enable : ((lpeMapped.dmaRead 1 (lpeMapped.loopEntryAddr 0) 1024).2.map fun b => b.length) = some 1024 ∧ lpeMapped.lslotState 0 = 0 ∧
    lpeMapped.MayWrite .h0 .lpe R.LPE_SLOT_CMD ∧ lpeMapped.following = false := by unfold State.MayWrite State.Answers; decide +kernel
theorem wit_LoopSlots_sample : lpeRun.Live .lpe ∧ lpeRun.sampleDue 1 = true ∧ (lpeRun.lslot 1).cmd = 0 ∧ i32Min ≤ (lpeRun.lslot 1).entry.outMin ∧
    (lpeRun.lslot 1).entry.outMin ≤ (lpeRun.lslot 1).entry.outMax ∧ (lpeRun.lslot 1).entry.outMax ≤ i32Max ∧
    (lpeRun.lslot 1).entry.outMin ≤ (lpeRun.lslot 1).entry.failVal ∧ (lpeRun.lslot 1).entry.failVal ≤ (lpeRun.lslot 1).entry.outMax ∧
    (lpeRun.lslot 1).entry.outMin ≤ (lpeRun.lslot 1).uFb ∧ (lpeRun.lslot 1).uFb ≤ (lpeRun.lslot 1).entry.outMax ∧
    lpeRun.en .lpe = true ∧ (lpeRun.lslot 1).served + 2 ≤ lpeRun.dueIndex (lpeRun.lslot 1).entry ∧ lpeRun.sampleDue 0 = false ∧ ((lpeRun.setLslot 0 { due := true, entry := { (parseEntry []) with locked := true } }).wr (F.LPE_SLOTn_STAT_STATE 0) 1).slotDue 0 = true := by
  unfold State.Live; decide +kernel
theorem wit_OutputGuard : lpeRun.Live .lpe ∧ lpeRun.en .lpe = true ∧ lpeRun.following = false ∧ lpeRun.passDue = true ∧
    lpeRun.bit (F.BLK_CTRL_FREEZE .lpe) = false ∧ lpeRun.shadows = [] ∧ lpeRun.bit F.LPE_GRD_STAT_PEND = false ∧
    risingSigs lpeRun.guardBank.entries = true ∧ lpeRun.bit F.LPE_GRD_CFG_SAFE_ALL = false ∧ lpeRun.lpe.sof = [] ∧ lpeRun.outVal 9 = some ⟨60, 0, 18⟩ := by
  unfold State.Live; decide +kernel
/-- A guard load in progress, with LPE's context mapped or not. -/
def lpeLoading (s : State) : State := { s with lpe := { s.lpe with loading := true } }
theorem wit_OutputGuard_load : lpeRun.MayWrite .mon .lpe R.LPE_GRD_CMD ∧ (lpeLoading lpeRun).lpe.loading = true ∧ (lpeLoading lpeRun).Live .lpe ∧
    ((lpeLoading lpeRun).dmaRead 1 0 64).2 = none ∧ (((lpeLoading lpeMapped).dmaRead 1 0 64).2.map fun b => b.length) = some 64 ∧
    ((((lpeLoading lpeMapped).dmaRead 1 0 64).1.dmaRead 1 0 64).2.map fun b => b.length) = some 64 ∧ lpeRun.MayWrite .h3 .lpe R.LPE_GRD_CFG := by
  unfold State.MayWrite State.Answers State.Live; decide +kernel
theorem test_guard_clamps : after .guardPass lpeRun (fun t => t.guardedVal 9 == some ⟨50, 0⟩) = true := by decide +kernel
theorem test_sample_fails_over : after (.slotSample 1) lpeRun (fun t => t.outVal 9 == some ⟨0, 3, 17⟩ && t.rd (F.LPE_SLOTn_STAT_WIN 1) == 4) = true := by
  decide +kernel
/-- The worked example of the chapter: slot 5 with its two loops in AUTO, the previous selected output 60 % and the previous ΔP positive. -/
def exampleEntry : SlotEntry :=
  let r (kp ki : Int) : LoopRec := { used := true, kp := kp, ki := ki, shP := 16, shI := 20 }
  { compChar := true, compStic := true, outSig := 0x200, outMin := 0, outMax := 6553600, fbSig := 1, fbEn := true, fbShift := 17, sticN := 1,
    loops := [r 131072 52429, r 262144 104858], chr := List.replicate 29 0 ++ [20132659, 21474836] ++ List.replicate 33 0,
    stic := List.replicate 64 26214 }
def exampleLoop (sp pv e1 : Int) : LoopState :=
  { mode := 1, target := sp, spEff := sp, pvf1 := pv, pvf2 := pv, e1 := e1, fresh := false, restart := false }
def exampleSlot : LpeSlot :=
  { entry := exampleEntry, loops := [exampleLoop 5611520 5545984 98304, exampleLoop 3604480 3637248 (-16384)], uFb := 3932160, uSel1 := 3932160,
    p1 := 3932160, lastSign := 1 }
theorem test_worked_sample :
    let t := (lpeRun.setLslot 5 exampleSlot).sampleWith 5 [(5545984, 0), (3637248, 0)] 3899392 0
    t.outVal 0x200 = some ⟨3819242, 0, 21⟩ ∧ t.rd (F.LPE_SLOTn_STAT_WIN 5) = 1 ∧ (t.lslot 5).uFb = 3863347 ∧ (t.lslot 5).p1 = 3845456 := by decide +kernel
theorem test_worked_guard :
    let e : GuardEntry := ⟨0x200, 3, 0, 6553600, 0, 6553600, 1, 0, true, false⟩
    let pass (st : GuardState) : GuardState := (guardOne e false (some ⟨3819242, 0, 21⟩) st 2000).2.1
    let s4 := pass (pass (pass (pass ⟨3932160, 0, 0, 0⟩)))
    let s8 := pass (pass (pass (pass s4)))
    s4.prev = 3932160 - 4 * 13107 ∧ (pass s4).prev = 3932160 - 4 * 13107 - 13108 ∧ s8.prev ≠ 3819242 ∧ (pass s8).prev = 3819242 := by decide +kernel

/-! ## The solver -/

/-- SLV running with its context (2) mapped onto SRAM at 0x1000000, and given jobs. -/
def slvWith (ws : List Job) (r : Option Job) (st : Option Stall) : State :=
  let s := withRegs [(R.BLK_CTRL .slv, 1), (R.XLT_CTXn_CFG 2, 0x10000000)]
  { s with
    xlt := { s.xlt with pins := [(16, { en := true, va := 0, pages := 16, pa := 0x1000, r := true, w := true })] },
    slv := { s.slv with waiting := ws, run := r, stall := st, tpls := [(3, { en := true, kind := 3 })] }, tb2 := 1000 * 1000 * unitsPerNs }
/-- A job of template `t`. -/
def jobT (t kind queue : Nat) : Job := { tpl := t, kind := kind, queue := queue, ord := 0, accepted := 0, deadline := 5000, started := true, phase := 1 }
theorem wit_SolverJobs_submit : (slvWith [] none none).MayWrite .h0 .slv R.SLV_SUBMIT ∧ ((slvWith [] none none).jobOf 3).isSome = false ∧
    ((slvWith [] none none).tpl 3).en = true ∧ ((slvWith [] none none).reply 0).reached (((slvWith [] none none).reply 0).stopAt 3 5000) = false ∧
    (slvWith [] none none).runs .slv = true := by unfold State.MayWrite State.Answers; decide +kernel
/-- A saved job of template 4 waits in queue 0; a job of template 5 runs in queue 2. -/
def slvTwo (phase : Nat) : State :=
  let s := slvWith [{ jobT 4 0 0 with saved := true }] (some { jobT 5 1 2 with phase := phase }) none
  { s with slv := { s.slv with next := some 4 } }
theorem wit_SolverJobs_choose : (slvTwo 1).Live .slv ∧ (slvTwo 1).bit (F.BLK_CTRL_FREEZE .slv) = false ∧ (slvTwo 1).runs .slv = true ∧
    (slvTwo 1).slv.stall = none ∧ (slvTwo 1).shed = false ∧ (slvTwo 1).choose = some { jobT 4 0 0 with saved := true } ∧
    (slvTwo 1).slv.run = some (jobT 5 1 2) := by unfold State.Live; decide +kernel
theorem wit_SolverJobs_start : (slvWith [{ jobT 4 0 0 with saved := true }] none none).choose = some { jobT 4 0 0 with saved := true } ∧
    ((slvWith [{ jobT 4 0 0 with started := false }] none none).regPut (R.XLT_CTXn_CFG 2) 0).choose = some { jobT 4 0 0 with started := false } ∧
    ((slvWith [{ jobT 4 0 0 with started := false }] none none).regPut (R.XLT_CTXn_CFG 2) 0).rd (F.XLT_CTXn_CFG_MODE 2) = 0 ∧
    (slvWith [] none none).choose = none := by decide +kernel
theorem wit_SolverJobs_restore : (slvTwo 10).Live .slv ∧ (slvTwo 10).shed = false ∧
    ((slvTwo 10).dmaRead 2 0 0).2.isSome = true ∧ (slvTwo 10).spill 0 = 0 := by unfold State.Live; decide +kernel
theorem wit_SolverJobs_save : (slvTwo 9).slv.next = some 4 ∧ (slvTwo 9).runs .slv = true ∧
    (slvTwo 9).slv.waiting.find? (fun r => r.tpl == 4) = some { jobT 4 0 0 with saved := true } ∧ ((slvTwo 9).dmaWrite 2 0 []).2 = true := by
  decide +kernel
theorem wit_SolverJobs_stop : (slvWith [] (some (jobT 5 1 2)) none).jobOf 5 = some (jobT 5 1 2) ∧
    (slvWith [] (some { jobT 5 1 2 with deadline := 1020 }) none).jobOf 5 = some { jobT 5 1 2 with deadline := 1020 } ∧
    (slvWith [] (some { jobT 5 1 2 with deadline := 1020 }) none).reached ((slvWith [] (some { jobT 5 1 2 with deadline := 1020 }) none).stopOf { jobT 5 1 2 with deadline := 1020 }) = true ∧
    (slvWith [] (some (jobT 5 1 2)) none).jobOf 6 = none ∧ (slvWith [] (some (jobT 5 1 2)) none).MayWrite .mon .slv R.SLV_CMD := by
  unfold State.MayWrite State.Answers; decide +kernel
theorem wit_SolverJobs_stall : (slvWith [] (some (jobT 5 1 2)) (some ⟨5, .iterate⟩)).MayWrite .h1 .slv R.SLV_CMD ∧
    (slvWith [] (some (jobT 5 1 2)) (some ⟨5, .outcome⟩)).jobOf 5 = some (jobT 5 1 2) ∧
    (slvWith [] (some (jobT 5 1 2)) (some ⟨5, .outcome⟩)).isHalted .slv = false ∧
    (slvWith [] (some (jobT 5 1 2)) none).jobs.any (fun q => q.started && q.slot == some 1) = false := by
  unfold State.MayWrite State.Answers; decide +kernel
theorem wit_SolverJobs_templates : (slvWith [] (some (jobT 5 1 2)) none).MayWrite .h1 .slv R.SLV_TPL_CMD ∧
    (((slvWith [] none none).reply 0).dmaRead 2 96 32).2.isSome = true ∧ (slvWith [] none none).jobOf 3 = none ∧
    ((slvWith [] none none).wr F.SLV_TPL_RES_PEND 1).bit F.SLV_TPL_RES_PEND = true ∧ ((slvWith [] none none).wr F.SLV_TPL_RES_PEND 1).Live .slv := by
  unfold State.MayWrite State.Answers State.Live; decide +kernel
/-- A range plan of one column block, one supernode and one class, every FRAC 16. -/
def planOne : List Byte :=
  List.replicate 13 0 ++ [16] ++ List.replicate 34 0 ++ [1, 0, 1, 0, 1, 0, 0, 0] ++ List.replicate 8 0 ++
    [0, 0, 1, 0, 16, 16, 16, 16, 16, 0, 0, 0, 16, 16, 16, 0, 16, 16, 16, 0]
/-- An EST job that runs, with ITER_MAX 5 in its parameter block. -/
def estJob : Job := { jobT 5 0 2 with ins := [List.replicate 0x51 0 ++ [5]] }
theorem wit_SolverIterations : (slvWith [] (some estJob) none).Live .slv ∧ (slvWith [] (some estJob) none).shed = false ∧
    ((slvWith [] (some estJob) none).dmaWrite 2 (addrAt (estJob.block 0) (offScratch 0))
      ((upto ((slvWith [] (some estJob) none).spill 0)).map (Config.slvSave estJob.ins 0))).2 = true ∧
    rangeRetry 0 (estJob.block 0) = false ∧ ({ } : IterOut).ue = none ∧
    (({ jobT 5 1 0 with ins := [List.replicate 0x4A 0 ++ [0x80]] } : Job).lsqRun 1).2 = none := by unfold State.Live; decide +kernel
/-- An EST, LSQ, DSP or FAC calculation always ends in a value or an exception. -/
theorem wit_SolverIterations_calc : (∃ r, estJob.calc (estJob.est.iterate estJob.prevCost estJob.damp) = r) ∧
    (match ({ jobT 5 2 0 with phase := 8, slot := some 1 } : Job).calc (({ jobT 5 2 0 with phase := 8, slot := some 1 } : Job).admm []) with
      | (.ok _, _, _) => true | (.error _, _, _) => false) = true ∧
    (match ({ jobT 5 3 0 with slot := some 1, phase := 7 } : Job).calc ({ jobT 5 3 0 with slot := some 1, phase := 7 } : Job).qp.factor with
      | (.ok _, _, _) => true | (.error _, _, _) => false) = true := ⟨⟨_, rfl⟩, by decide +kernel, by decide +kernel⟩
theorem wit_SolverIterations_factor : (slvWith [] (some { jobT 5 3 0 with slot := some 1, phase := 7 }) none).Live .slv := by
  unfold State.Live; decide +kernel
/-- A FAC job of template 3 whose factor is in place. -/
def facDone : State := slvWith [] (some { jobT 3 3 0 with out := some 0 }) none
theorem wit_SolverIterations_end : facDone.Live .slv ∧ facDone.bit (F.BLK_CTRL_FREEZE .slv) = false ∧ (facDone.tpl 3).rdLen = 0 ∧
    (facDone.slv.waiting.find? fun q => q.out.isSome) = none ∧ (facDone.dmaWrite 2 0 (({ jobT 3 3 0 with out := some 0 } : Job).result [] 0)).2 = true ∧
    ((facDone.regPut (R.XLT_CTXn_CFG 2) 0).dmaWrite 2 0 (({ jobT 3 3 0 with out := some 0 } : Job).result [] 0)).2 = false := by
  unfold State.Live; decide +kernel
/-- A finished LSQ job of template 3, of whose result one word is readable. -/
def lsqDone : Job := { jobT 3 1 0 with iter := 1, x := [3], out := some 0 }
def lsqWin : State := let s := slvWith [] (some lsqDone) none; { s with slv := { s.slv with tpls := [(3, { en := true, kind := 1, rdLen := 1 })] } }
theorem wit_SolverIterations_window : lsqWin.Live .slv ∧ stopState 0 (lsqDone.hasVectors 0) = 3 ∧
    (((lsqWin.dmaWrite 2 0 (lsqDone.result [] 0)).1.dmaRead 2 0 4).2.map fun b => b.length) = some 4 ∧
    ((lsqWin.dmaWrite 2 0 (lsqDone.result [] 0)).1.dmaWrite 2 (lsqWin.winAddr 3 true) [0, 0, 0, 0]).2 = true := by unfold State.Live; decide +kernel
theorem test_window : after .jobEnd lsqWin (fun t => (t.tpl 3).cur && (t.tpl 3).state == 3) = true := by decide +kernel
theorem test_writeback :
    let raw (x : Rat) : Int × Nat := match (Plan.put ⟨planOne, []⟩ 0 0 x).run.run {} with | (.ok n, _) => (n, 0) | (.error e, _) => (0, e.need)
    raw (mkRat 3 131072) = (2, 0) ∧ raw (mkRat (-3) 131072) = (-1, 0) ∧ raw 32768 = (0, 1) ∧ raw (-32768) = (-2147483648, 0) := by decide +kernel
/-- One row 2 x = 6 with weight 1, at x = 0. -/
def lsqOne : Lsq :=
  ⟨List.replicate 0x3C 0 ++ [1, 0, 0, 0, 1, 0, 0, 0, 1, 0, 0, 0, 0, 0, 0x80], [], [0, 0, 0, 0, 1, 0, 0, 0, 0, 0, 0, 0, 0, 0, 2, 0],
    [0, 0, 6, 0, 0, 0, 1, 0], ⟨planOne, []⟩, [0]⟩
theorem test_lsq_normal :
    (match lsqOne.rows.run.run {} with
      | (.ok l, _) => gram l 0 0 == 4 && descent l 0 == 12 && squares l == 36
      | (.error _, _) => false) = true := by decide +kernel
theorem test_qmul_exact : (match (qMul (3 * 2 ^ 31) (5 * 2 ^ 32)).run.run {} with | (.ok n, _) => n | (.error _, _) => 0) = 15 * 2 ^ 31 := by
  decide +kernel
theorem test_submit_queues : after (.slvSubmit .h0 3 4000) (slvWith [] none none) (fun t => t.rd F.SLV_SUB_RES_RESULT == 0 && t.slv.waiting.length == 1) = true := by
  decide +kernel
theorem test_fac_done : after .jobEnd (slvWith [] (some { jobT 3 3 0 with out := some 0 }) none) (fun t => (t.tpl 3).state == 3 && t.slv.run == none) = true := by
  decide +kernel
theorem test_est_iter_max :
    (({ estJob with iter := 4 } : Job).estNext ⟨7, [], 6, 1⟩).iter = 5 ∧ (({ estJob with iter := 4 } : Job).estNext ⟨7, [], 6, 1⟩).out = some 1 ∧
    (({ estJob with iter := 4 } : Job).estNext ⟨7, [], 6, 0⟩).out = some 0 := by decide +kernel

/-! ## Metering -/

/-- MTR running with TICK_MS 1000 and one lane, its context (7) mapped onto SRAM. -/
def mtrWith (n : Nat) (x : Lane) : State :=
  let s := withRegs [(R.BLK_CTRL .mtr, 1), (R.XLT_CTXn_CFG 7, 0x10000000)]
  { s with
    xlt := { s.xlt with pins := [(56, { en := true, va := 0, pages := 64, pa := 0x1000, r := true, w := true })] },
    mtr := { s.mtr with lanes := [(n, x)] }, tb2 := 2000000 * 1000 * unitsPerNs }
def pulseLane : Lane := { en := true, cfg := { kind := 7, pulseWt := 10, pulseDi := 2 } }
def lane2 : State := (mtrWith 2 pulseLane).regPut (R.FIO_DI_CNTn 2) 3
theorem wit_MeteringCommands_lane : lane2.MayWrite .h0 .mtr R.MTR_LANE_CMD ∧ (lane2.lane 2).en = true ∧ (lane2.lane 4).en = false ∧
    (((lane2.reply 0).dmaRead 7 128 64).2.map fun e => e.length) = some 64 ∧
    (((lane2.regPut (R.XLT_CTXn_CFG 7) 0).reply 0).dmaRead 7 128 64).2 = none ∧ lane2.MayWrite .mon .mtr R.MTR_LANE_CLR ∧
    lane2.MayWrite .h0 .mtr (R.MTR_SNAPk_CTL 3) := by unfold State.MayWrite State.Answers; decide +kernel
/-- The view table enabled, at IOVA 0. -/
def viewS : State := (lane2.wr F.MTR_VIEW_BASE_VEN 1)
theorem wit_MeteringCommands_view : viewS.Live .mtr ∧ viewS.mtrRuns = true ∧ viewS.bit F.MTR_VIEW_BASE_VEN = true ∧ viewS.mtr.viewSec ≠ viewS.nowSec ∧
    viewS.mtr.viewSeq % 2 = 0 ∧ after .viewTableWrite viewS (fun t => t.mtr.viewSeq == 2 && t.byte 0x1000000 == 2) = true := by
  unfold State.Live; decide +kernel
theorem wit_MeteringCommands_store : (({ lane2 with mtr := { lane2.mtr with built := [⟨1, [], true⟩] } } : State).Live .mtr) ∧
    lane2.nand.bill.length < billPages ∧ lane2.mtrRuns = true ∧
    lane2.mtr.chkAt + nsPerSec * max 10 (min 3600 (lane2.rd F.MTR_LANE_CFG_CHKPT)) ≤ ({ lane2 with tb2 := 4000000000 * 1000 * unitsPerNs } : State).nowNs ∧
    (lane2.setFrozen true).mtrFrozen = true ∧ lane2.mtr.committed = false ∧ lane2.pfw = false := by unfold State.Live; decide +kernel
/-- A full billing partition whose oldest block has SEQ 5 (MTR_BILL_ACK.ACK is 0 at reset, or 5). -/
theorem wit_MeteringCommands_full : billPages ≤ ((⟨5, [], true⟩ : BuiltBlk) :: List.replicate 65535 ⟨6, [], true⟩).length ∧
    State.reset.rd F.MTR_BILL_ACK_ACK < 5 ∧ (withRegs [(F.MTR_BILL_ACK_ACK.addr, 5)]).rd F.MTR_BILL_ACK_ACK = 5 := by
  refine ⟨?_, by decide +kernel, by decide +kernel⟩
  rw [List.length_cons, List.length_replicate]; decide
theorem wit_MeteringMeasurement_tick : lane2.Live .mtr ∧ lane2.en .mtr = true ∧ lane2.tickDue = true ∧ lane2.mtrFrozen = false ∧
    Sparse.wf (fun _ => ({} : Lane)) lane2.mtr.lanes = true ∧ (lane2.lane 2).en = true ∧ (lane2.lane 2).cfg.kind = 7 ∧
    (mtrWith 1 { en := true, cfg := { kind := 3, flags := 4 } }).mtrIn 0 0 = none ∧ ({ lane2 with tb2 := 0 } : State).tickDue = false := by
  unfold State.Live; decide +kernel
/-- An instant of TB2 in ms. -/
def atMs (n : Nat) : Nat := n * 1000000 * unitsPerNs
/-- Set 0 measures in 4-wire mode; phase 1 crossed at 1,980 ms, and its samples have shown a crossing at 2,000 ms; a sample of 32 kV and 5 A. -/
def elecS (since : Nat) : State :=
  let s := (mtrWith 1 { en := true, cfg := { kind := 4, src := 4 } }).wr F.MTR_ELEC_CFG_MODE0 1
  { s with mtr := { s.mtr with sets := s.mtr.sets.set 0 {
    phases := Vector.replicate 3 { last := some (atMs 1980), since := since, seen := some (atMs 2000) }, first := some 0, count := 10,
    last := atMs 1980, samples := [⟨atMs 1970, [32000, 0, 0, 0, 5, 0, 0, 0], [0, 0, 0, 0, 0, 0, 0, 0]⟩] } } }
theorem wit_MeteringMeasurement_window : (elecS 0).mtrRuns = true ∧ (elecS 0).elecMode 0 ≠ 0 ∧ (elecS 0).windowDue 0 = true ∧
    (elecS 0).bit F.MTR_HARM_BASE_HEN = false ∧ Sparse.wf (fun _ => ({} : Lane)) (elecS 0).mtr.lanes = true ∧ ((elecS 0).lane 1).en = true ∧
    ((elecS 0).lane 1).cfg.kind = 4 ∧ ((elecS 0).lane 1).cfg.src % 2 = 0 := by decide +kernel
theorem wit_MeteringMeasurement_crossing : (elecS 0).Live .mtr ∧ (phasesOf ((elecS 0).elecMode 0)).contains 1 = true ∧
    ((elecS 0).mtr.sets[(0 : Fin 2)]).phases[(1 : Fin 3)].seen = some (atMs 2000) ∧
    ((elecS 0).mtr.sets[(0 : Fin 2)]).phases[(1 : Fin 3)].last = some (atMs 1980) ∧ (elecS 0).refPhase 0 = some 0 ∧
    80 * unitsPerSec ≤ 100 * (elecS 0).nomHz * (atMs 2000 - atMs 1980) ∧ 100 * (elecS 0).nomHz * (atMs 2000 - atMs 1980) ≤ 125 * unitsPerSec ∧
    (elecS 0).bit (nozcFld 0 1) = false ∧ (elecS 0).rd F.MTR_ELEC_CFG_ZC_TMO ≤ 1000 ∧ (elecS 0).tb2 = atMs 2000 := by
  unfold State.Live; decide +kernel
theorem wit_MeteringMeasurement_sample : (elecS 0).shadows = [] ∧ (elecS 0).rd (F.MTR_CHn_PHC_PHC 0) = 0 := by decide +kernel
theorem wit_MeteringMeasurement_rtd : (withRegs [(R.BLK_CTRL .mtr, 1), (F.MTR_RTD_CFG_EN.addr, 0xFFFFFFFF)]).mtrRuns = true ∧
    ((withRegs [(R.BLK_CTRL .mtr, 1), (F.MTR_RTD_CFG_EN.addr, 0xFFFFFFFF)]).rd F.MTR_RTD_CFG_EN).testBit (5 / 2) = true := by decide +kernel
theorem test_tick_counts_pulses : after .tick lane2 (fun t => (t.lane 2).regs[(0 : Fin 4)] == 30 * 2 ^ 32) = true := by decide +kernel
theorem test_window_energy : after (.windowEnd 0) (elecS 0) (fun t => (t.lane 1).regs[(0 : Fin 4)] == 5000000 * 2 ^ 32) = true := by decide +kernel
theorem test_rtd : ptTemp 100 = some 0 ∧ ptTemp (mkRat 1385055 10000) = some 100000000 ∧ ptTemp 79 = none ∧ ptTemp 176 = none := by decide +kernel

/-! ## The switch and the time unit -/

/-- NET running, ports A and B switching and forwarding; B has learned the address 2. -/
def netS : State :=
  let s := withRegs [(R.BLK_CTRL .net, 1)]
  let s1 := ((((s.wr (F.NET_PORTn_CFG_MODE 0) 1).wr (F.NET_PORTn_CFG_STATE 0) 3).wr (F.NET_PORTn_CFG_MODE 1) 1).wr (F.NET_PORTn_CFG_STATE 1) 3)
  { s1 with net := { s1.net with addrs := [(2, 1, 0)] } }
def frameS (fcs : Bool) : EthFrame := { da := 2, sa := 4, rest := [0x90, 0, 1], fcs := fcs }
theorem wit_Switching_rx : netS.Live .net ∧ netS.runs .net = true ∧ netS.netPort 0 = true ∧ netS.portState 0 = 3 ∧ ethType (frameS true).rest ≠ 0x8808 ∧
    ethLen (frameS true) ≤ 2000 ∧ netS.netRoom (frameS true) = true ∧ linkLocal (frameS true).da = false ∧ groupAddr (frameS true).da = false ∧
    ptpAt (frameS true).rest = none ∧ netS.addrPort 2 = some 1 ∧ netS.netPort 1 = true ∧ netS.portState 1 = 3 ∧ (frameS false).fcs = false := by
  unfold State.Live; decide +kernel
theorem wit_Switching_tail : netS.MayWrite .h0 .net (R.NET_CPUq_IDX 0) ∧ netS.MayWrite .h0 .net (R.NET_CPUq_IDX 1) ∧
    netS.net.take % netS.cpuN 1 = (0 : BitVec 16).toNat % netS.cpuN 1 ∧ netS.MayWrite .h2 .net R.NET_BR_CFG := by
  unfold State.MayWrite State.Answers; decide +kernel
/-- A frame waits at port B, which has its link or not. -/
def netQ (q : QFrame) (up : Bool) : State :=
  ({ netS with net := { netS.net with queues := netS.net.queues.set 1 [{ q with prio := 0 }, q] } }).wrB (F.NET_PORTn_STAT_LINK 1) up
def plainQ : QFrame := { frame := frameS true, prio := 1, ingress := 0, stamps := [0, 0, 0, 0] }
/-- A one-step Sync of domain 0 over layer 2. -/
def syncQ : QFrame := { plainQ with frame := { frameS true with rest := [0x88, 0xF7] ++ List.replicate 44 0 }, prio := 3 }
theorem wit_Switching_tx : nextFrame (netQ plainQ true).net.queues[(1 : Fin 5)] = some (plainQ, [{ plainQ with prio := 0 }]) ∧
    (netQ plainQ true).bit (F.NET_PORTn_STAT_LINK 1) = true ∧ (netQ plainQ false).bit (F.NET_PORTn_STAT_LINK 1) = false ∧
    (netQ plainQ true).netPort 1 = true ∧ (netQ plainQ true).net.take % (netQ plainQ true).cpuN 1 = (netQ plainQ true).rd (F.NET_CPUq_IDX_TAIL 1) % (netQ plainQ true).cpuN 1 ∧
    (netQ plainQ true).net.queues[(0 : Fin 5)] = [] ∧ (netQ plainQ true).Live .net := by unfold State.Live; decide +kernel
/-- A corrects one-step Syncs of domain 0. -/
def netSync : State := ((netQ syncQ true).wr F.NET_PTP_CFG_MODE_A 1)
theorem wit_Switching_sync : ptpAt syncQ.frame.rest = some (.l2, 2) ∧ ptpType syncQ.frame.rest 2 = 0 ∧ netSync.corrTb (ptpDomain syncQ.frame.rest 2) = some 0 ∧
    nextFrame netSync.net.queues[(1 : Fin 5)] = some (syncQ, [{ syncQ with prio := 0 }]) ∧ ptpTwoStep syncQ.frame.rest 2 = false ∧ netSync.p2p = false ∧
    netSync.tb 0 = 0 ∧ (max 1 (netSync.rd F.NET_TC_CFG_MAXRES) * 1000 * unitsPerNs) < 2 ^ 70 ∧ ({ netSync with tb0 := 2 ^ 71 } : State).tb 0 = 2 ^ 71 := by
  decide +kernel
theorem test_sync_corrected : after (.frameTxDone 1) { netSync with tb0 := 1000 * unitsPerNs }
    (fun t => t.net.tx.map (fun x => ptpCorr x.2.rest 2) == [65536000]) = true := by decide +kernel

/-- The time unit with an adjustment of 3 ns set up for TB0 and TB1. -/
def tsuS : State := withRegs [(R.BLK_CTRL .tsu, 1), (R.TSU_TBn_ADJ_NS 0, 3), (R.TSU_TBn_ADJ_NS 1, 0x80000003)]
theorem wit_TimeBases_adjust : tsuS.MayWrite .h0 .tsu (R.TSU_TBn_ADJ_CMD 0) ∧ tsuS.MayWrite .h0 .tsu (R.TSU_TBn_ADJ_CMD 3) ∧
    tsuS.rd (F.TSU_TBn_ADJ_NS_NS 0) < nsPerSec ∧ tsuS.bit (F.TSU_TBn_ADJ_NS_NEG 0) = false ∧ tsuS.bit (F.TSU_TBn_ADJ_NS_NEG 1) = true ∧
    tsuS.rd (F.TSU_TBn_ADJ_SEC_SEC 0) = 0 ∧ (tsuS.regPut (R.TSU_TBn_ADJ_SEC 0) 1).rd (F.TSU_TBn_ADJ_SEC_SEC 0) ≠ 0 ∧
    nsPerSec ≤ (tsuS.regPut (R.TSU_TBn_ADJ_NS 0) 1000000000).rd (F.TSU_TBn_ADJ_NS_NS 0) ∧ tsuS.isHalted .tsu = false ∧
    tsuS.MayWrite .mon .tsu (R.TSU_TBn_STAT 0) ∧ tsuS.MayWrite .mon .tsu (R.TSU_TBn_STAT 2) ∧ tsuS.tsu.srcRtc = true := by
  unfold State.MayWrite State.Answers; decide +kernel
theorem wit_TimeBases_events : tsuS.Live .tsu ∧ (tsuS.regPut (R.TSU_TBn_STAT 0) 2).bit (F.TSU_TBn_STAT_SLEWING 0) = true ∧ tsuS.slewOf 0 = 0 ∧
    (tsuS.setSlew 0 5).slewOf 0 ≠ 0 ∧ secondNow tsuS.tb0 = true ∧ secondNow ({ tsuS with tb0 := 2 * unitsPerCycle } : State).tb0 = false ∧
    ({ tsuS with shadows := [(F.TSU_TB3_OFS_OFS, 37)] } : State).shadows = [(F.TSU_TB3_OFS_OFS, 37)] ∧
    ({ tsuS with tsu := { tsuS.tsu with srcRtc := false } } : State).tsu.srcRtc = false ∧
    (tsuS.wrB F.TSU_CFG_TB3_SRC false).bit F.TSU_CFG_TB3_SRC ≠ tsuS.tsu.srcRtc ∧ (tsuS.wr (F.TSU_TBn_STAT_HOLDOVER 3) 1).bit (F.TSU_TBn_STAT_HOLDOVER 3) = true ∧
    tsuS.tsu.holdAt + (tsuS.rd F.TSU_CFG_HOLD_S) * nsPerSec ≤ ({ tsuS with tb2 := 2 ^ 100 } : State).nowNs ∧ tsuS.Answers .tsu := by
  unfold State.Live State.Answers; decide +kernel
theorem test_step_back_wraps : after (.step .h0 1 0) tsuS (fun t => t.tb1 == 2 ^ 48 * nsPerSec * unitsPerNs - 3 * unitsPerNs) = true := by decide +kernel
/-- Output 0 enabled, periodic or one-shot, with PERIOD 1000 ns; capture 0 on rising edges. -/
def tpS (mode : Word) : State := withRegs [(R.BLK_CTRL .tsu, 1), (R.TSU_TPn_CFG 0, 1 + 2 * mode), (F.TSU_TPn_PERIOD_PERIOD 0 |>.addr, 1000), (R.TSU_TCn_CFG 0, 3)]
theorem wit_PulsesAndCaptures_start : (tpS 1).Live .tsu ∧ (tpS 1).runs .tsu = true ∧ (tpS 1).bit (F.TSU_TPn_CFG_EN 0) = true ∧
    ((tpS 1).tsu.tp[(0 : Fin 8)]).until_ = none ∧ (tpS 1).tpStart 0 ≤ (tpS 1).tb ((tpS 1).rd (F.TSU_TPn_CFG_TB 0)) ∧
    (tpS 1).bit (F.TSU_TPn_CFG_MODE 0) = true ∧ (tpS 0).bit (F.TSU_TPn_CFG_MODE 0) = false ∧
    (tpS 1).tb ((tpS 1).rd (F.TSU_TPn_CFG_TB 0)) < ((tpS 1).wr (F.TSU_TPn_START_NS_NS 0) 5).tpStart 0 := by unfold State.Live; decide +kernel
theorem wit_PulsesAndCaptures_end : (((tpS 0).setTp 0 ⟨some 0, true, none⟩).tsu.tp[(0 : Fin 8)]).until_ = some 0 ∧ 0 ≤ (tpS 0).tb2 ∧
    (((tpS 0).setTp 0 ⟨some 5, true, none⟩).tsu.tp[(0 : Fin 8)]).until_ = some 5 ∧ (tpS 0).tb2 < 5 := by decide +kernel
theorem wit_PulsesAndCaptures_capture : (tpS 0).en .tsu = true ∧ (tpS 0).bit (F.TSU_TCn_CFG_EN 0) = true ∧ (tpS 0).rd (F.TSU_TCn_CFG_EDGE 0) = 1 ∧
    ((tpS 0).tsu.tc[(0 : Fin 4)]).last = none ∧ ((tpS 0).tsu.tc[(0 : Fin 4)]).queue = [] ∧
    8 ≤ (((tpS 0).setTc 0 { queue := List.replicate 8 ⟨0, false⟩ }).tsu.tc[(0 : Fin 4)]).queue.length ∧ (tpS 0).Answers .tsu ∧
    ((tpS 0).wr (F.TSU_TCn_CFG_EDGE 1) 0).rd (F.TSU_TCn_CFG_EDGE 1) = 0 := by unfold State.Answers; decide +kernel
theorem test_capture_pop : after (.tcCapture 0 false) { tpS 0 with tb0 := 7 * unitsPerNs }
    (fun t => after (.tcPop .h0 0) t (fun u => u.resp.data == 0x80000007)) = true := by decide +kernel

/-! ## Field I/O -/

/-- FIO running with outputs 0 and 1 commanded and driven. -/
def fioS : State := withRegs [(R.BLK_CTRL .fio, 1), (R.FIO_DO_STATE, 0x00030003), (R.FIO_DI_CFGn 2, 0x660001)]
theorem wit_FieldIo_outputs : fioS.Live .fio ∧ (fioS.rd F.FIO_DO_STATE_DRIVEN).testBit 0 = true ∧ (fioS.rd F.FIO_DO_STATE_DRIVEN).testBit 2 = false ∧
    fioS.doDriven 0 = true ∧ fioS.nowNs < fioS.fio.offAt[(2 : Fin 16)] + 2000000 ∧
    ({ fioS with tb2 := 3000 * 1000 * unitsPerNs } : State).fio.offAt[(2 : Fin 16)] + 2000000 ≤ ({ fioS with tb2 := 3000 * 1000 * unitsPerNs } : State).nowNs ∧
    fioS.doDriven 2 = false := by unfold State.Live; decide +kernel
theorem wit_FieldIo_voltage : fioS.bit (statFld .fio (10 + 0)) = false ∧ (fioS.wrB (statFld .fio (10 + 0)) true).bit (statFld .fio (10 + 0)) = true ∧
    (17000 : BitVec 16).toNat = 17000 ∧ (16499 : BitVec 16).toNat < 16500 ∧
    ({ fioS with fio := { fioS.fio with uvOkAt := some 0 }, tb2 := 10000 * 1000 * unitsPerNs } : State).nowNs = 10000000 := by decide +kernel
theorem wit_FieldIo_edge : fioS.runs .fio = true ∧ fioS.unreachable .fio = false ∧ fioS.fio.sampling = true ∧ fioS.bit (F.BLK_CTRL_FREEZE .fio) = false ∧
    fioS.shadows = [] ∧ fioS.rd (F.FIO_DI_CFGn_DEB 2) = 1 ∧ fioS.rd (F.FIO_DI_CFGn_STAMP 2) = 3 ∧ fioS.rd (F.FIO_DI_CFGn_CNT_EDGE 2) = 3 ∧
    fioS.nowNs < 0 + 1000 ∧ 0 + 1000 ≤ ({ fioS with tb2 := 1000 * unitsPerNs } : State).nowNs ∧ fioS.fio.queue = [] ∧ fioS.Answers .fio := by
  unfold State.Answers; decide +kernel
/-- Output 5 has a guard entry with SAFE 1. -/
def fioSafe : State := { fioS with lpe := { fioS.lpe with bank0 := { entries := [⟨fioS.ownSig 0x1945, 1, 0, 1, 1, 0, 0, 0, false, true⟩] } } }
theorem wit_FieldIo_inhibit : fioSafe.MayWrite .h0 .fio R.FIO_DO_INHIBIT ∧ (0x20 : Word).getLsbD 5 = true ∧
    (fioSafe.rd F.FIO_DO_INHIBIT_INH).testBit 5 = false ∧ fioSafe.guardSafe (fioSafe.ownSig 0x1945) = 1 ∧ fioSafe.guardSafe (fioSafe.ownSig 0x1940) ≠ 1 ∧
    fioS.MayWrite .h0 .fio R.FIO_DO_DIAG := by unfold State.MayWrite State.Answers; decide +kernel
theorem test_edge_counts : after (.diEdge 2 0) { fioS with tb2 := 1000 * unitsPerNs }
    (fun t => t.regGet (R.FIO_DI_CNTn 2) == 1 && t.fio.queue.length == 1 && t.rd F.FIO_DI_STATE_STATE == 4) = true := by decide +kernel
theorem test_shutdown_releases : after (.thermalShutdown 1) fioS (fun t => t.rd F.FIO_DO_STATE_DRIVEN == 1) = true := by decide +kernel

/-! ## CAN -/

/-- CAN1 running with buffers 0 and 1 PENDING: identifier 0x100 and 0x080. -/
def canS : State :=
  let s := withRegs [(R.BLK_CTRL (.can 1), 1), (R.CAN_TX_STAT 1, 5)]
  s.setCan 1 { s.canPort 1 with bufs := ((s.canPort 1).bufs.set 0 { idw := 0x4000000 }).set 1 { idw := 0x2000000 } }
def canBus (b : Nat) : State := canS.setCan 1 { canS.canPort 1 with onBus := some b }
theorem wit_CanTransmission_request : canS.MayWrite .h0 (.can 1) (R.CAN_TX_CMD 1) ∧ canS.txState 1 0 = 1 ∧ canS.txState 1 2 ≠ 1 ∧
    canS.bit (F.CAN_CFG_MAP_EN 1) = false ∧ canS.bit (F.CAN_CFG_LISTEN 1) = false ∧ canFdf (canS.frameAt ((Blk.can 1).base + 0x200 + 0x50 * 2)).idw = false ∧
    (canS.regPut (R.CAN_CFG 1) 2).bit (F.CAN_CFG_LISTEN 1) = true ∧ (canBus 0).canPort 1 ≠ canS.canPort 1 ∧ ((canBus 0).canPort 1).onBus = some 0 ∧
    canS.isHalted (.can 1) = false := by unfold State.MayWrite State.Answers; decide +kernel
theorem wit_CanTransmission_attempt : canS.Live (.can 1) ∧ canS.runs (.can 1) = true ∧ canS.canState 1 ≠ 2 ∧ (canS.canPort 1).onBus = none ∧
    canS.bit (F.BLK_CTRL_FREEZE (.can 1)) = false ∧ canS.shadows = [] ∧ (canS.regPut (R.CAN_TX_STAT 1) 0).txState 1 0 ≠ 1 ∧ canS.en (.can 1) = true := by
  unfold State.Live; decide +kernel
theorem wit_CanTransmission_errors : canS.rd (F.CAN_ERR_TEC 1) + 8 ≤ 255 ∧ 255 < (canS.wr (F.CAN_ERR_TEC 1) 250).rd (F.CAN_ERR_TEC 1) + 8 ∧
    (canS.wr (F.CAN_ERR_STATE 1) 2).canState 1 = 2 ∧ (canS.setCan 1 { canS.canPort 1 with recov := true }).canPort 1 ≠ canS.canPort 1 ∧
    (canS.wr (F.CAN_CFG_LISTEN 1) 1).bit (F.CAN_CFG_LISTEN 1) = true := by decide +kernel
/-- A transmit entry and a receive entry of the map, both at 10 ms. -/
def canMap : State :=
  let s := (canS.wr (F.CAN_CFG_MAP_EN 1) 1)
  let tx : CanMapEnt := { frame := 0xC0000100, ofs := 0, fmt := 1, time := 10, dlc := 8, flags := 0 }
  let rx : CanMapEnt := { frame := 0x80000200, ofs := 0, fmt := 1, time := 10, dlc := 8, flags := 0 }
  { s.setCan 1 { s.canPort 1 with map := [tx, rx] } with tb2 := 20000 * 1000 * unitsPerNs }
theorem wit_CanTransmission_map : (canMap.canPort 1).map[0]? = some { frame := 0xC0000100, ofs := 0, fmt := 1, time := 10, dlc := 8, flags := 0 } ∧
    canMap.runs (.can 1) = true ∧ canMap.suppressed = false ∧ canMap.bit (F.CAN_CFG_MAP_EN 1) = true ∧ (0xC0000100 : Nat).testBit 31 = true ∧
    (0xC0000100 : Nat).testBit 30 = true ∧ canMap.nowMs / 10 ≠ 0 ∧ ({ canMap with tb2 := 0 } : State).nowMs / 10 = 0 ∧ canMap.txState 1 2 ≠ 1 ∧
    (canMap.canPort 1).mapDue = [] ∧ (canMap.canPort 1).mapCur ≠ some 0 ∧ canMap.bit (F.CAN_CFG_LISTEN 1) = false := by decide +kernel
theorem wit_CanReception_frame : canS.Live (.can 1) ∧ canS.en (.can 1) = true ∧ canS.canState 1 ≠ 2 ∧ canFdf 0x200 = false ∧ canS.mapHits 1 0x200 = [] ∧
    canS.rd (F.CAN_RX_IDX_HELD 1) < 64 ∧ 64 ≤ (canS.wr (F.CAN_RX_IDX_HELD 1) 64).rd (F.CAN_RX_IDX_HELD 1) ∧ canMap.mapHits 1 0x200 ≠ [] ∧ canFdf 0x80000200 = true ∧
    canS.bit (F.CAN_CFG_FD_EN 1) = false := by
  unfold State.Live; decide +kernel
theorem wit_CanReception_stale : (canMap.canPort 1).map[1]? = some { frame := 0x80000200, ofs := 0, fmt := 1, time := 10, dlc := 8, flags := 0 } ∧
    (0x80000200 : Nat).testBit 31 = true ∧ (0x80000200 : Nat).testBit 30 = false ∧ 0 + 1000000 * 10 ≤ canMap.nowNs ∧
    ({ canMap with tb2 := 0 } : State).nowNs < 0 + 1000000 * 10 := by decide +kernel
theorem wit_CanReception_ack : canS.MayWrite .h0 (.can 1) (R.CAN_RX_ACK 1) ∧ (3 : BitVec 7) ≠ 0 ∧
    (3 : BitVec 7).toNat ≤ (canS.wr (F.CAN_RX_IDX_HELD 1) 5).rd (F.CAN_RX_IDX_HELD 1) ∧ canS.rd (F.CAN_RX_IDX_HELD 1) < (3 : BitVec 7).toNat := by
  unfold State.MayWrite State.Answers; decide +kernel
theorem test_attempt_picks_lowest_id : after (.txAttempt 1) canS (fun t => (t.canPort 1).onBus == some 1) = true := by decide +kernel
/-- An FD frame is a form error while FD_EN is 0. -/
theorem test_rx_fd_form_error : after (.canRxFrame 1 { idw := 0x80000200, dlc := 15, data := [] } 0) canS
    (fun t => t.rd (F.CAN_ERR_LEC 1) == 2 && t.rd (F.CAN_ERR_REC 1) == 1) = true := by decide +kernel
theorem test_rx_fifo : after (.canRxFrame 1 { idw := 0x80000200, dlc := 15, data := List.replicate 64 1 } 0) (canS.wr (F.CAN_CFG_FD_EN 1) 1)
    (fun t => (t.regGet ((Blk.can 1).base + 0x1004) &&& 0xFF3F) == 0x400F && t.rd (F.CAN_RX_IDX_HELD 1) == 1) = true := by decide +kernel

/-! ## Tandem -/

/-- A Tandem member in a state, its unit running. -/
def tdmS (st : Nat) : State :=
  (((State.reset.regPut (R.BLK_CTRL .tdm) 1).wr F.SYS_ROLE_TANDEM 1).wr F.SYS_ROLE_DEFAULTED 0).wr F.TDM_STATE_STATE st
theorem wit_TandemMembership_commands : (tdmS 4).MayWrite .h0 .tdm R.TDM_CMD ∧ (tdmS 4).isHalted .tdm = false ∧ (tdmS 3).following = true ∧
    (tdmS 4).following = false ∧ (tdmS 4).tandem = true ∧ ((tdmS 4).wr F.SYS_ROLE_TANDEM 0).tandem = false ∧ (tdmS 5).tdmState = 5 ∧
    (tdmS 4).tdm.fails = 0 ∧ (((tdmS 4).wr F.TDM_STATE_PCODE 1).wr F.TDM_STATE_LINK_T 1).rd F.TDM_STATE_PCODE = 1 ∧ (tdmS 4).hashAt (R.CAD_AHASHk 0) = 0 ∧
    (tdmS 4).hashAt (R.LPE_GRD_HASHk 0) = 0 := by unfold State.MayWrite State.Answers; decide +kernel
theorem wit_TandemMembership_join : (tdmS 1).Live .tdm ∧ (tdmS 1).tdmRuns = true ∧ (tdmS 1).tdmState = 1 ∧ (tdmS 1).allBetween = true ∧
    (tdmS 1).noneDue (tdmS 1).joinNs = true ∧ (tdmS 2).tdmState = 2 ∧ (tdmS 2).tdm.loaded = false ∧ (tdmS 2).rd F.TDM_LAG_LAG ≤ (tdmS 2).ringPeriod / 2 ∧
    (tdmS 2).tdm.joinAt + 1000000 * max 1 ((tdmS 2).rd F.TDM_JOIN_TMO_MS) ≤ ({ tdmS 2 with tb2 := 70000000 * 1000 * unitsPerNs } : State).nowNs ∧
    (tdmS 2).nowNs < (tdmS 2).tdm.joinAt + 1000000 * max 1 ((tdmS 2).rd F.TDM_JOIN_TMO_MS) := by unfold State.Live; decide +kernel
/-- A standby in STEP, some time after the instant of a period whose replay, and a frame, are missing. -/
def tdmLate (now : Nat) : State := { tdmS 3 with tb2 := now * 1000 * unitsPerNs, tdm := { (tdmS 3).tdm with replayed := false, missing := [(7, 0)] } }
theorem wit_TandemMembership_step : (tdmLate 1000000).tdm.instantAt + 1000 * ((tdmLate 1000000).ringPeriod / 2) < (tdmLate 1000000).nowNs ∧
    (tdmLate 1000000).tdm.missing ≠ [] ∧ (tdmS 3).rd F.TDM_LAG_LAG ≤ (tdmS 3).ringPeriod / 2 ∧ (tdmS 3).tdm.replayed = true ∧
    (tdmS 3).ringPeriod / 2 < ((tdmS 3).wr F.TDM_LAG_LAG 65535).rd F.TDM_LAG_LAG ∧ (tdmS 3).tdm.linkDownAt = some 0 ∧
    (tdmS 3).bit F.TDM_STATE_LINK_T = false ∧ 0 + 100000 ≤ (tdmLate 1000000).nowNs ∧ (tdmS 3).nowNs < 0 + 100000 := by decide +kernel
theorem test_lane_t_down : after .laneTDown (tdmLate 1000000) (fun t => t.tdmState == 4 && t.rd F.TDM_STATE_REASON == 3) = true := by decide +kernel
theorem wit_TandemStream : (tdmS 3).Live .tdm ∧ (tdmS 3).tdmRuns = true ∧ (tdmS 3).following = true ∧ (tdmS 1).following = false ∧
    (((tdmS 3).wr (F.CAD_TASKn_STAT_STATE 2) 1).regPut (R.CAD_BANK_STAT) 3).taskState 2 = 1 ∧
    (((tdmS 3).wr (F.CAD_TASKn_STAT_STATE 2) 1).regPut (R.CAD_BANK_STAT) 3).activeBank.isSome = true ∧ ((tdmS 3).wr (F.LPE_SLOTn_STAT_STATE 5) 1).lslotState 5 = 1 ∧
    ((tdmS 3).lslot 5).cmd = 0 ∧ (tdmS 3).bit F.LPE_GRD_STAT_PEND = false ∧ (tdmS 3).forceIdx 9 = none ∧ (tdmS 3).freeForce = some 0 ∧
    (tdmS 3).activeBank = none ∧ (tdmS 3).shadows = [] ∧ (tdmS 3).tdm.replayed = true := by unfold State.Live; decide +kernel
/-- Bank 0 ACTIVE and bank 1 LOADED, whose image in SRAM maps from the program hash 0. -/
def tdmChg : State :=
  let s := ((tdmS 3).regPut R.CAD_BANK_STAT 0x23).regPut (R.XLT_CTXn_CFG 0) 0x10000000
  let m := [(0x58, 0x100), (0x60, 1), (0x100, 1)].foldl (fun (m : List Host.Cell) (x : Nat × Nat) => memPutList m (0x1000000 + x.1) (leBytes 4 x.2)) []
  { s with mem := m, xlt := { s.xlt with pins := [(0, { en := true, va := 0, pages := 16, pa := 0x1000, r := true })] } }
theorem wit_TandemStream_change : tdmChg.Live .tdm ∧ tdmChg.tdmRuns = true ∧ tdmChg.following = true ∧ tdmChg.activeBank = some 0 ∧
    tdmChg.bankState (1 - 0) = 2 ∧ tdmChg.bankHash (1 - 0) = (0 : BitVec 256).toNat ∧ (tdmChg.pmapOf (1 - 0) (tdmChg.bankHash 0)).isSome = true ∧
    tdmChg.shadows = [] := by unfold State.Live; decide +kernel
theorem test_stream_delivers : after (.deliv 3 0x55 1) (tdmS 3) (fun t => t.byte 0x2000018 == 0x55 && t.byte 0x200001C == 1) = true := by decide +kernel
/-- A witness: the arbitrating station. -/
def witS : State := (((State.reset.regPut (R.BLK_CTRL .tdm) 1).wr F.SYS_ROLE_ROLE 2).wr F.TDM_WIT_CFG_EN 1).wr F.TDM_WIT_STAT_CODE_B 2
theorem wit_TandemArbitration_witness : witS.Live .tdm ∧ witS.arbitrates = true ∧ (tdmS 4).arbitrates = false ∧ (tdmS 4).tdmRuns = true ∧
    witS.rd F.TDM_WIT_STAT_CODE_A = 0 ∧ (witS.wr F.TDM_WIT_STAT_GRANT 1).rd F.TDM_WIT_STAT_GRANT = 1 := by unfold State.Live; decide +kernel
theorem wit_TandemArbitration_grants : ((tdmS 1).wr F.TDM_STATE_GRANT 2).grantPartner = true ∧ (tdmS 1).grantPartner = false ∧
    ((tdmS 4).wr F.TDM_STATE_GRANT 1).granted = true ∧ (tdmS 4).granted = false ∧ (tdmS 0).tdmState = 0 ∧
    (((tdmS 0).wr F.TDM_CFG_SOLO 1).wr F.TDM_STATE_GRANT 3).bit F.TDM_CFG_SOLO = true ∧ ((tdmS 0).wr F.TDM_STATE_GRANT 3).grant = 3 ∧
    (tdmS 0).rd F.TDM_CFG_MEMBER = 0 ∧ (tdmS 0).bit F.TDM_CFG_SOLO = false ∧ (tdmS 4).en .spk = false ∧
    ((tdmS 4).regPut (R.BLK_CTRL .spk) 1).en .spk = true ∧ (tdmS 4).ringState ≠ 3 ∧ ((tdmS 4).wr F.SPK_RING_STAT_STATE 3).ringState = 3 := by decide +kernel
theorem test_grant_lost : after .grantToPartner ((tdmS 1).wr F.TDM_STATE_GRANT 2) (fun t => t.tdmState == 4) = true := by decide +kernel
theorem test_witness_moves : after .witnessDecision (witS.wr F.TDM_WIT_STAT_GRANT 1) (fun t => t.rd F.TDM_WIT_STAT_GRANT == 2) = true := by decide +kernel

/-! ## Event recorder -/

/-- A recorder that runs, with a record of a severity and SEQ in its buffer, and a full buffer. -/
def evrS : State := State.reset.regPut (R.BLK_CTRL .evr) 1
def recOf (seq sev : Nat) : LogRec := ⟨seq, sev, mkRecord 0x8001 sev 0x19 0 0 1 2 3 4 seq⟩
def evrBuf (l : List LogRec) : State := { evrS with evr := { evrS.evr with buf := l, seq := 10 } }
theorem wit_EventRecords_post : evrS.MayWrite .mon .evr (R.EVR_POSTc_CMD 3) ∧ evrS.runs .evr = true ∧ evrS.pfw = false ∧ evrS.evr.flush = none ∧
    evrS.evr.clear = none ∧ evrS.evr.buf.length < 1023 ∧ (0 : BitVec 3).toNat < (evrS.wr F.EVR_CFG_FLUSH_SEV 6).rd F.EVR_CFG_FLUSH_SEV ∧
    (evrS.wr F.EVR_CFG_FLUSH_SEV 6).rd F.EVR_CFG_FLUSH_SEV ≤ (6 : BitVec 3).toNat := by unfold State.MayWrite State.Answers; decide +kernel
theorem full_none (n : Nat) : replaceOldest 4 (List.replicate n (⟨0, 5, []⟩ : LogRec)) = none := by
  induction n with
  | zero => rfl
  | succ n ih => simp [List.replicate_succ, replaceOldest, ih]
theorem full_some (n : Nat) : replaceOldest 5 (List.replicate (n + 1) (⟨0, 5, []⟩ : LogRec)) = some (List.replicate n ⟨0, 5, []⟩) := by
  simp [List.replicate_succ, replaceOldest]
theorem wit_EventRecords_full : 4096 ≤ (List.replicate 4096 (⟨0, 5, []⟩ : LogRec)).length ∧
    replaceOldest 5 (List.replicate 4096 (⟨0, 5, []⟩ : LogRec)) = some (List.replicate 4095 ⟨0, 5, []⟩) ∧
    replaceOldest 4 (List.replicate 4096 (⟨0, 5, []⟩ : LogRec)) = none :=
  ⟨Nat.le_of_eq List.length_replicate.symm, full_some 4095, full_none 4096⟩
/-- Two events posted at one instant. -/
def evrTwo : State := { evrS with evq := [{ src := 0x19, code := 0x8001, sev := 2, at_ := 7 }, { src := 3, code := 0x1305, sev := 4, at_ := 7 }] }
theorem wit_EventRecords_accept : evrS.evq = [] ∧ (evrTwo.evq.head?).isSome = true ∧ evrTwo.coreOff = false ∧ evrTwo.inSoftRst .evr = false ∧
    evrTwo.isHalted .evr = false := by decide +kernel
theorem test_accept_lowest_src : after .eventAccept evrTwo (fun t => t.evq.map (·.src) == [0x19] && t.evr.seq == evrTwo.evr.seq + 1) = true := by decide +kernel
/-- A flush of one record, its event-log key missing. -/
def evrFlushing : State := { evrBuf [recOf 9 2] with evr := { (evrBuf [recOf 9 2]).evr with flush := some 10 } }
theorem wit_EventRecords_flush : evrS.MayWrite .h0 .evr R.EVR_CMD ∧ (evrBuf [recOf 9 2]).evr.buf ≠ [] ∧ State.reset.runs .evr = false ∧
    State.reset.evr.pf = false ∧ evrFlushing.Live .evr ∧ ((evrFlushing.evr.buf.filter fun r => r.seq < 10).take 512) ≠ [] ∧
    logCount evrFlushing.nand.log + ((evrFlushing.evr.buf.filter fun r => r.seq < 10).take 512).length ≤ logRecords ∧
    evrFlushing.evr.undropped = Vector.replicate 8 0 ∧ evrFlushing.evr.want = false := by
  unfold State.MayWrite State.Answers State.Live; decide +kernel
theorem test_flush_started : after (.evrFlush .h0) (evrBuf [recOf 9 2]) (fun t => t.evr.flush == some 10) = true := by decide +kernel
theorem test_page_commit_fails : after (.flushPageCommit false) evrFlushing (fun t => t.rd (F.BLK_ERRINFO_CODE .evr) == 0x80 && t.evr.buf.length == 1) = true := by
  decide +kernel
/-- A window load from record 9 on. -/
def evrWin : State := { evrBuf [recOf 8 2, recOf 9 2] with evr := { (evrBuf [recOf 8 2, recOf 9 2]).evr with load := some 9 } }
theorem wit_EventWindowAndClears_commands : evrS.MayWrite .h0 .evr R.EVR_CMD ∧ evrS.isHalted .evr = false ∧ (evrS.wr F.EVR_CFG_RD_OPEN 1).bit F.EVR_CFG_RD_OPEN = true ∧
    evrS.bit F.EVR_WIN_STAT_PEND = false ∧ (evrS.wr F.EVR_WIN_STAT_PEND 1).bit F.EVR_WIN_STAT_PEND = true ∧ evrS.bit F.KST_LC_ENTROPY_OK = false ∧
    (evrS.wr F.KST_LC_ENTROPY_OK 1).bit F.KST_LC_ENTROPY_OK = true := by unfold State.MayWrite State.Answers; decide +kernel
/-- A nonce issued at the start of TB2, a token under check, and a clear that waits for its commit. -/
def evrNonced (now : Nat) : State := { evrS with tb2 := now * unitsPerNs, evr := { evrS.evr with nonce := some 5, check := some (some 5), clear := some (10, recOf 10 7) } }
theorem wit_EventWindowAndClears_events : evrWin.Live .evr ∧ evrWin.evr.load = some 9 ∧ evrS.evr.load = none ∧ (evrNonced 0).evr.nonce ≠ none ∧
    (evrNonced 0).evr.nonceAt + 60000000000 ≤ (evrNonced 60000000000).nowNs ∧ (evrNonced 1).nowNs < (evrNonced 1).evr.nonceAt + 60000000000 ∧
    (evrNonced 0).evr.check = some (some 5) ∧ (evrNonced 0).evr.clear = some (10, recOf 10 7) ∧
    ((({ evrNonced 0 with evr := { (evrNonced 0).evr with check := none } } : State).dmaRead 12 0 2512).2 = none) := by unfold State.Live; decide +kernel
theorem test_win_done : after .winDone evrWin (fun t => t.rd F.EVR_WIN_STAT_COUNT == 1 && t.bit F.EVR_WIN_STAT_END && t.regGet (R.EVR_WINi 0 1) == 0 &&
    t.regGet (R.EVR_WINi 0 3) == 1) = true := by decide +kernel
theorem test_clear_disabled : after (.clear .h0) evrS (fun t => t.rd F.EVR_CLR_STAT_RESULT == 1) = true := by decide +kernel

/-! ## Key store -/

/-- A key store that runs, with an operation in service. -/
def kstS : State := (State.reset.regPut (R.BLK_CTRL .kst) 1).wr F.KST_LC_ENTROPY_OK 1
def kstJ (op : Nat) (n : Fin 32) : State := { kstS with kst := { kstS.kst with job := some ⟨op, n, 0, 0⟩ } }
theorem wit_KeyStoreCommands : kstS.MayWrite .mon .kst R.KST_CMD ∧ kstS.isHalted .kst = false ∧ kstS.bit F.KST_RES_PEND = false ∧
    (kstS.wr F.KST_RES_PEND 1).bit F.KST_RES_PEND = true ∧ kstS.Answers .kst ∧ kstS.Live .kst ∧ kstS.kst.nonce = none ∧
    ({ kstS with tb2 := 60000000000 * unitsPerNs, kst := { kstS.kst with nonce := some 1 } } : State).nowNs = 60000000000 ∧ kstS.mtr.closed = [] ∧
    kstS.kstState 1 ≠ 1 := by unfold State.MayWrite State.Answers State.Live; decide +kernel
theorem test_kst_cmd_queued : after (.verify .mon 8) kstS (fun t => t.bit F.KST_RES_PEND && t.rd F.KST_RES_SLOT == 8) = true := by decide +kernel
theorem test_kst_cmd_busy : after (.sign .mon 2) (kstS.wr F.KST_RES_PEND 1) (fun t => t.rd F.KST_RES_RESULT == 1) = true := by decide +kernel
theorem test_kst_cmd_host : after (.lc .h0 0) kstS (fun t => t.resp.err && t.rd (F.BLK_ERRINFO_CODE .kst) == 5) = true := by decide +kernel
theorem test_entropy_fail : after .entropyFail kstS (fun t => !t.bit F.KST_LC_ENTROPY_OK && t.rd (F.BLK_ERRINFO_CODE .kst) == 0x82) = true := by decide +kernel
/-- A closed block waits for its signature. -/
def kstSeal : State := { kstS with mtr := { kstS.mtr with closed := [{ entries := [], tStart := 0, tEnd := 0, flags := 0, blk := 0, nblk := 1, outage := 0 }] } }
theorem wit_KeyStoreCommands_seal : kstSeal.Live .kst ∧ (kstSeal.mtr.closed.map (·.nblk)) = [1] := by unfold State.Live; decide +kernel
theorem wit_KeyStoreOperations : (kstJ 1 0).Live .kst ∧ (kstJ 1 0).kst.job = some ⟨1, 0, 0, 0⟩ ∧ (kstJ 1 0).en .kst = true ∧
    ((kstJ 1 0).wr F.KST_LC_RESET_PEND 1).bit F.KST_LC_RESET_PEND = true ∧ (kstJ 1 0).bit F.KST_LC_RESET_PEND = false ∧
    (kstJ 1 0).bit F.KST_LC_ENTROPY_OK = true ∧ State.reset.bit F.KST_LC_ENTROPY_OK = false ∧ (kstJ 11 0).dbgAttached = false ∧
    ((kstJ 11 0).wr F.KST_LC_DBG_ATTACHED 1).dbgAttached = true ∧ (kstJ 10 9).kstState 9 = 0 ∧
    ((kstJ 10 9).wr (F.KST_SLOTn_STAT_STATE 9) 2).kstState 9 = 2 := by unfold State.Live; decide +kernel
/-- The life cycle is PROVISIONED: the ordinary channels have the OWNER root. A context pins the page of the operands in SRAM. -/
def kstProv (op : Nat) (n : Fin 32) : State :=
  let s := (((kstJ op n).wr F.KST_LC_STATE 2).regPut (R.XLT_CTXn_CFG 13) 0x10000000)
  let k := { s.kst with banks := [(4, some (5, true))], storeKey := some [7], stage := 3, rollback := 2 }
  { s with kst := k, xlt := { s.xlt with pins := [(104, { en := true, va := 0, pages := 4, pa := 0x1000, r := true, w := true })] } }
theorem wit_KeyStoreOperations_roots : ((kstProv 2 20).ordRoot).isSome = true ∧ (kstProv 2 20).kstState 20 ≠ 2 ∧ ((kstProv 2 20).dmaRead 13 0 32).2 = some (List.replicate 32 0) ∧
    (kstProv 7 20).kst.storeKey = some [7] ∧ (((kstProv 4 8).setKstNonce none).dmaRead 13 0 16).2 = some (List.replicate 16 0) ∧
    ((kstS.setKstNonce none).dmaRead 13 0 tokenSize).2 = none ∧ (kstProv 15 0).lc ≠ 4 ∧ (kstProv 14 0).lc = 2 ∧
    ((kstProv 15 0).wr F.KST_LC_STATE 4).lc = 4 ∧ (kstProv 16 0).kst.stage < 4 ∧ leNat ([3, 0, 0, 0] : List Byte) = 3 ∧ (kstProv 16 0).kst.rollback ≤ 3 ∧
    3 ≤ (kstProv 16 0).kst.stage := by decide +kernel
/-- A slot with a shadow that passed its self-test, or an active half. -/
def kstHalf (op : Nat) (n : Fin 32) (st sh : Nat) : State :=
  let s := ((kstProv op n).wr (F.KST_SLOTn_STAT_STATE n) st).wr (F.KST_SLOTn_STAT_SHADOW n) sh
  let h := mkHalf [1] [2]
  s.setKslot n { active := some h, shadow := some h, shOrigin := 2 }
theorem half_ok : (mkHalf [1] [2]).ok = true := by simp [mkHalf, KeyHalf.ok]
theorem wit_KeyStoreOperations_shadow : ((kstHalf 6 20 1 1).kslot 20).shadow = some (mkHalf [1] [2]) ∧
    ((kstHalf 6 20 1 1).rd (F.KST_SLOTn_STAT_SHADOW 20)) ≠ 3 ∧ ((kstHalf 6 20 1 1).kslot 20).shOrigin ≠ 4 ∧ (kstHalf 6 20 1 1).kstState 20 ≠ 2 ∧
    (kstHalf 7 20 1 2).rd (F.KST_SLOTn_STAT_SHADOW 20) = 2 ∧ (kstHalf 12 3 1 0).kstState 3 = 1 ∧
    ((kstHalf 12 3 1 0).kslot 3).active = some (mkHalf [1] [2]) ∧ (kstHalf 10 9 1 0).kstState 9 = 1 ∧ (kstHalf 10 9 1 0).kst.job = some ⟨10, 9, 0, 0⟩ := by
  refine ⟨rfl, ?_, ?_, ?_, ?_, ?_, rfl, ?_, ?_⟩ <;> decide +kernel
theorem wit_KeyStoreOperations_read : ((kstHalf 10 9 1 0).dmaRead 13 0 16).2 = some (List.replicate 16 0) ∧
    ((kstProv 16 0).dmaRead 13 0 4).2 = some [0, 0, 0, 0] := by decide +kernel
theorem test_advance_back_refused : after (.cmdDone none) (kstProv 16 0) (fun t => t.rd F.KST_RES_RESULT == 8 && t.kst.rollback == 2) = true := by decide +kernel
theorem test_discard : after (.cmdDone none) (kstHalf 8 20 1 1) (fun t => t.rd (F.KST_SLOTn_STAT_SHADOW 20) == 0 && t.rd F.KST_RES_RESULT == 0) = true := by
  decide +kernel
theorem test_sign_wrong_slot : after (.cmdDone none) (kstProv 9 9) (fun t => t.rd F.KST_RES_RESULT == 2) = true := by decide +kernel

/-! ## Fabric, translation, flash manager, background services -/

def rst : State := State.reset
/-- Items of a core (a write, a read, SC, an atomic swap) and of a far port, and the fabric with its channels set. -/
def coreItem (op : FabOp) : FabItem := ⟨0, 0, 0x1000004, op, false⟩
def ctxItem (op : FabOp) : FabItem := ⟨9, 0, 0, op, false⟩
def fabS (f : Fab) : State := { rst with fab := f }
def waits8 : State := fabS { waits := List.replicate 8 ⟨1, false, 0⟩ }
theorem wit_FabricAndTranslation_xlate : rst.rd (F.XLT_CTXn_CFG_MODE 7) = 0 ∧ ((rst.regPut (R.XLT_CTXn_CFG 7) 0x10000000).rd (F.XLT_CTXn_CFG_MODE 7)) = 1 ∧
    realTime 7 = true ∧ (rst.pin 7 0).en = false := by decide +kernel
theorem wit_FabricAndTranslation_issue : rst.tagFree 0 = true ∧ rst.outstanding 0 < rst.resvOf 0 ∧ waits8.tagFree 1 = false ∧
    waits8.resvOf 1 ≤ waits8.outstanding 1 ∧ opLen (.read 4) = 4 ∧ rst.posted (coreItem (.write [0x5A])) = true ∧ rst.posted (coreItem (.read 4)) = false ∧
    queueOpen rst.fab.pw 0 = true ∧ queueOpen (List.replicate 16 (ctxItem (.read 4))) 9 = false ∧ ({ rst with pfw := true } : State).flushTag 9 = true ∧
    rst.flushTag 9 = false ∧ opWrites (.write [1]) = true ∧ opWrites (.read 1) = false := by decide +kernel
theorem wit_FabricAndTranslation_serve : rst.fab.pf = [] ∧ rst.fab.rsp = [] ∧ rst.arbitrate [] = none ∧
    ((rst.arbitrate [coreItem (.read 4), ctxItem (.read 8)]).map Prod.fst) = some (ctxItem (.read 8)) ∧ isMemory 0x1000004 = true ∧
    isMemory (0x1000004 + 4 - 1) = true ∧ rst.writeBarred 0x1000004 = false ∧ rst.ueIn 0x1000004 4 = none ∧ inTiles 0x1000004 = false ∧ inRom 0x10 = true ∧
    mapped 0x30000 = false ∧ portCtx 9 0 = some 7 ∧ portCtx 0 0 = none ∧ inSram 0x1000004 = true ∧
    ({ rst with resv := [⟨0, 0, 0x1000004, 4⟩] } : State).resv = [⟨0, 0, 0x1000004, 4⟩] := by decide +kernel
/-- A transaction of port 5 that has waited 100 µs. -/
def fabLate : State := { fabS { waits := [⟨5, false, 0⟩] } with tb2 := 100000 * unitsPerNs }
theorem wit_FabricAndTranslation_timeout : fabLate.fab.waits.find? (fun w => w.port == (5 : Fin 16)) = some ⟨5, false, 0⟩ ∧ 0 + 100000 ≤ fabLate.nowNs ∧
    rst.Live .mem ∧ rst.nowNs < rst.refreshAt[(0 : Fin 2)] + 3906 ∧ rst.refreshAt[(0 : Fin 2)] + 3906 ≤ fabLate.nowNs := by
  unfold State.Live; decide +kernel
theorem wit_FabricAndTranslation_pins : rst.MayWrite .h0 .xlt R.XLT_PIN_SEL ∧ rst.MayWrite .h0 .xlt R.XLT_PIN_CFG ∧ rst.rd F.XLT_PIN_SEL_CTX ≤ 16 ∧
    (rst.wr F.XLT_PIN_SEL_CTX 12).rd F.XLT_PIN_SEL_CTX = 12 ∧ (0x80000001 : Word).getLsbD 31 = true ∧ inRom ((0 + 0) * 4096) = true ∧
    (0x00000001 : Word).getLsbD 31 = false ∧ rst.MayWrite .h0 .xlt R.XLT_CMD ∧ rst.Answers .xlt ∧ rst.xlt.log = [] := by
  unfold State.MayWrite State.Answers; decide +kernel
def served (x : FabItem) (s : State) : State := { s with fab := { s.fab with req := [x] } }
theorem test_core_write : after (.fabricTransaction (.serve [] true 9)) (fabS { pw := [coreItem (.write [0x5A])] })
    (fun t => t.byte 0x1000004 == 0x5A && t.fab.pw.isEmpty) = true := by decide +kernel
theorem test_rom_write_error : after (.fabricTransaction (.serve [] true 9)) (served ⟨1, 0, 0x10, .write [0x5A], false⟩ rst)
    (fun t => (t.fab.rsp.map fun r => r.resp.err) == [true] && t.byte 0x10 == 0) = true := by decide +kernel
/-- SC without a reservation fails; with one it stores (R36). -/
theorem test_sc_fails : after (.fabricTransaction (.serve [] true 9)) (served (coreItem (.sc [1, 2, 3, 4])) rst)
    (fun t => (t.fab.rsp.map fun r => r.resp.data) == [1] && t.mem.isEmpty) = true := by decide +kernel
theorem test_sc_stores : after (.fabricTransaction (.serve [] true 9))
    (served (coreItem (.sc [1, 2, 3, 4])) { rst with resv := [⟨0, 0, 0x1000004, 4⟩] })
    (fun t => (t.fab.rsp.map fun r => r.resp.data) == [0] && t.byte 0x1000007 == 4 && t.resv.isEmpty) = true := by decide +kernel
theorem test_fab_timeout : after (.fabTimeout 5 9) fabLate (fun t => t.fab.waits.isEmpty && t.rd (F.BLK_ERRINFO_CODE .fab) == 0x80) = true := by decide +kernel
theorem test_pin_rom_refused : after (.pinCfg .h0 0x90000001) rst (fun t => t.rd (F.BLK_ERRINFO_CODE .xlt) == 0x80 && t.xlt.pins.isEmpty) = true := by decide +kernel
theorem test_fault_pop : after (.faultPop .h0) { rst with xlt := { rst.xlt with log := [⟨9, 2, true, 0x12345678⟩] } }
    (fun t => t.resp.data == 0x80000A09 && t.regGet R.XLT_FAULT_VA_LO == 0x12345678) = true := by decide +kernel
/-- A flash manager that runs. -/
def nfmS : State := rst.regPut (R.BLK_CTRL .nfm) 1
/-- A host command in service, its buffer in SRAM. -/
def nfmJ (op part arg : Nat) : State :=
  let s := nfmS.regPut (R.XLT_CTXn_CFG 14) 0x10000000
  { s with nfm := some ⟨op, part, arg, 0⟩, xlt := { s.xlt with pins := [(112, { en := true, va := 0, pages := 4, pa := 0x1000, r := true, w := true })] } }
theorem wit_FlashAndServices_nfm : nfmS.MayWrite .h0 .nfm R.NFM_CMD ∧ nfmS.isHalted .nfm = false ∧ nfmS.Live .nfm ∧ nfmS.nfm = none ∧ nfmS.shed = false ∧
    ({ nfmS with pfw := true } : State).shed = true ∧ (nfmJ 1 0 7).nfm = some ⟨1, 0, 7, 0⟩ ∧ (nfmJ 1 0 7).shed = false ∧ (nfmJ 1 0 7).spareLow = false ∧
    Sparse.get ({ (nfmJ 1 0 7).nand with pages := [(7, some [1])] } : Nand).pages none (0 * 2 ^ 20 + 7) = some [1] ∧ (∀ b ∈ (nfmJ 4 5 1).nand.bill, b.seq ≠ 1) ∧
    ((nfmJ 2 0 7).dmaRead 14 0 16).2 = some (List.replicate 16 0) ∧
    (({ nfmS with nfm := none } : State).dmaRead 14 0 16384).2 = none := by unfold State.MayWrite State.Answers State.Live; decide +kernel
theorem test_nfm_key_refused : after (.nfmRead .h0 2) nfmS (fun t => t.rd F.NFM_RES_RESULT == 2) = true := by decide +kernel
theorem test_trim_taken : after (.trim .h0 7) nfmS (fun t => t.bit F.NFM_RES_PEND) = true := by decide +kernel
theorem test_read_uncorr : after (.nfmCmdDone .uncorr 100) (nfmJ 1 0 7) (fun t => t.rd F.NFM_RES_RESULT == 5 && t.rd (F.BLK_ERRINFO_CODE .nfm) == 0x81) = true := by
  decide +kernel
/-- Background services that run. -/
def bgsS : State := { rst.regPut (R.BLK_CTRL .bgs) 1 with tb2 := 3600 * nsPerSec * unitsPerNs }
theorem wit_FlashAndServices_bgs : bgsS.Live .bgs ∧ rst.runs .bgs = false ∧ bgsS.runs .bgs = true ∧ bgsS.shed = false ∧ bgsS.nowSec % 3600 = 0 ∧
    bgsS.cover < 1000 ∧ ({ bgsS with bgs := { bgsS.bgs with scrubs := [(0, 2 ^ 40, 3600)] } } : State).cover = 1000 ∧ bgsS.nowSec ≠ bgsS.bgs.telSec ∧
    4 ≤ (bgsS.wr F.BGS_TEL_BASE_LO_LOG2N 4).rd F.BGS_TEL_BASE_LO_LOG2N ∧ rst.nowSec = rst.bgs.telSec ∧ inDram 0x80000000 = true := by
  unfold State.Live; decide +kernel
theorem test_scrub_short : after .scrubShort bgsS (fun t => t.rd (F.BLK_ERRINFO_CODE .bgs) == 0x81) = true := by decide +kernel
theorem test_truing_limit : after (.truingStep 16 501 0) bgsS (fun t => t.bit F.BGS_TRUE_STAT_RTD && t.trueHeld == [16]) = true := by decide +kernel

/-! ## Power states -/

/-- A device in RUN whose lane A may wake it. -/
def pwrS : State := State.reset.wr F.PWR_WAKE_EN_EN 0x7FF
def pwrIn (p : PwrPhase) (tgt : Nat) : State := { pwrS with pwr := { pwrS.pwr with phase := p, tgt := tgt } }
theorem wit_PowerEntry_commands : pwrS.MayWrite .mon .pwr R.PWR_SLEEP_CMD ∧ pwrS.isHalted .pwr = false ∧ pwrS.mastering = false ∧ pwrS.tandem = false ∧
    pwrS.wakeEn 0 = true ∧ State.reset.wakeEn 0 = false ∧ pwrS.pfw = false ∧ pwrS.pwr.phase = .none ∧ pwrS.cur = 0 ∧ (pwrS.setCur 1).cur = 1 ∧
    pwrS.wakeLatch = 0 ∧ (pwrS.wr F.PWR_WAKE_LATCH_LATCH 8).wakeLatch ≠ 0 ∧ (pwrS.wr F.PWR_CFG_NAP_PNL_OFF 0).bit F.PWR_CFG_NAP_PNL_OFF = false ∧
    (pwrS.wr F.PWR_CFG_NAP_SLV_OFF 1).bit F.PWR_CFG_NAP_SLV_OFF = true ∧ (pwrS.wr F.PWR_CFG_NAP_SLV_OFF 0).bit F.PWR_CFG_NAP_SLV_OFF = false ∧ pwrS.jobs = [] ∧
    pwrS.domOff.getLsbD Domain.slv.idx = false ∧ pwrS.domOff.getLsbD Domain.pnl.idx = false := by unfold State.MayWrite State.Answers; decide +kernel
theorem test_standby_no_source : after (.standby .mon) State.reset (fun t => t.rd F.PWR_STATE_REASON == 2 && t.rd F.PWR_STATE_LAST == 3) = true := by decide +kernel
theorem test_nap : after (.nap .mon) pwrS (fun t => t.cur == 1 && t.rd F.PWR_STATE_LAST == 1) = true := by decide +kernel
theorem test_off_not_mon : after (.off .h0) pwrS (fun t => t.rd F.PWR_STATE_REASON == 5 && !t.pwr.off) = true := by decide +kernel
theorem test_hibernate : after (.hibernate .mon) pwrS (fun t => t.cur == 5 && t.pwr.phase == .quiesce && t.pwr.tgt == 3) = true := by decide +kernel
theorem wit_PowerEntry_events : pwrS.pwr.phase ≠ .quiesce ∧ (pwrIn .quiesce 2).pwr.phase = .quiesce ∧ (∀ n : Fin 8, (pwrIn .quiesce 2).taskState n ≠ 2) ∧
    (pwrIn .quiesce 2).evr.flush = none ∧ (pwrIn .quiesce 2).nfm = none ∧ (pwrIn .quiesce 2).kst.job = none ∧ (pwrIn .quiesce 2).pnlState = 0 ∧
    (pwrIn .quiesce 2).pnl.offPend = false ∧ (pwrIn .quiesce 2).en .mtr = false ∧ (pwrIn .quiesce 2).en .fio = false ∧
    (∀ p : Fin 4, (pwrIn .quiesce 2).en (.can p) = false) ∧ ((pwrIn .quiesce 2).wr (F.CAD_TASKn_STAT_STATE 1) 2).taskState 1 = 2 ∧
    ((pwrIn .quiesce 2).setPnlState 3).pnlState = 3 ∧
    (pwrIn .quiesce 2).nowNs < (pwrIn .quiesce 2).pwr.at_ + 1000000 * max 1 ((pwrIn .quiesce 2).rd F.PWR_CFG_IDLE_MS) ∧
    (pwrIn .quiesce 2).pwr.at_ + 1000000 * max 1 ((pwrIn .quiesce 2).rd F.PWR_CFG_IDLE_MS) ≤ ({ pwrIn .quiesce 2 with tb2 := 300000000 * unitsPerNs } : State).nowNs ∧
    (pwrIn .saved 2).pwr.phase = .saved ∧ pwrS.pwr.phase ≠ .saved := by decide +kernel
/-- A wake aborts an entry that began in NAP, and ends the NAP. -/
theorem test_abort_from_nap : after (.wakeLatch 3) { pwrIn .quiesce 2 with pwr := { (pwrIn .quiesce 2).pwr with from_ := 1 } }
    (fun t => t.cur == 0 && t.rd F.PWR_STATE_LAST == 2) = true := by decide +kernel
theorem test_commit_hibernate : after .commitPoint { pwrIn .saved 3 with mem := [(0x8000000, 7), (0x80000000, 9)] }
    (fun t => t.cur == 3 && t.domOff == 0x7F && t.mem == [(0x8000000, 7)]) = true := by decide +kernel
theorem wit_PowerWake_latch : pwrS.wakeEn 4 = true ∧ pwrS.pwr.off = false ∧ pwrS.cur ≠ 1 ∧ (pwrIn .asleep 3).pwr.phase = .asleep ∧ (pwrIn .asleep 3).pwr.tgt = 3 ∧
    (pwrIn .exiting 2).pwr.phase = .exiting ∧ ({ pwrS with pwr := { pwrS.pwr with off := true } } : State).pwr.off = true ∧ State.reset.wakeEn 4 = false ∧
    pwrS.wakeEn 5 = true ∧ State.reset.wakeEn 5 = false := by decide +kernel
/-- The field domain is off and CAN0 listens for a wake frame. -/
def canAsleep : State := { (pwrIn .asleep 2).wr (F.CAN_WK_CFG_EN 0) 1 with domOff := 0x7F, canRc := true }
def wakeFrame : CanFrame := { idw := 0, dlc := 0, data := [] }
theorem wit_PowerWake_matches : ((pwrIn .asleep 2).pwr.phase ≠ .none) ∧ ((pwrS.wr F.PWR_TC_WAKE_MASK 1).rd F.PWR_TC_WAKE_MASK).testBit 0 = true ∧
    (pwrS.wr F.PWR_TC_WAKE_RISE 1).bit F.PWR_TC_WAKE_RISE = true ∧ ((pwrS.wr F.PWR_DI_WAKE_MASK 1).rd F.PWR_DI_WAKE_MASK).testBit 0 = true ∧
    (pwrS.wr F.PWR_DI_WAKE_RISE 1).bit F.PWR_DI_WAKE_RISE = true ∧ pwrS.uv 0 = false ∧ (pwrS.rd64 R.PWR_PAT_MASK_LO R.PWR_PAT_MASK_HI) = 0 ∧
    canAsleep.domOff.getLsbD Domain.fld.idx = true ∧ canAsleep.bit (F.CAN_WK_CFG_EN 0) = true ∧ canAsleep.canRc = true ∧
    (canAsleep.wr (F.CAN_WK_STAT_ERRCNT 0) 31).rd (F.CAN_WK_STAT_ERRCNT 0) = 31 ∧ canFdf wakeFrame.idw = false ∧ canAsleep.canMatch wakeFrame = true ∧
    (canAsleep.regPut (R.CAN_WK_ID 0) 5 |>.regPut (R.CAN_WK_IDMASK 0) 0xFF).canMatch wakeFrame = false ∧ pwrS.isHalted .pwr = false := by decide +kernel
theorem test_can_wakes : after (.canWakeFrame (some wakeFrame)) canAsleep (fun t => t.cur == 6 && t.bit (F.CAN_WK_STAT_WOKE 0)) = true := by decide +kernel
theorem test_can_wake_start : after .canWakeStart { canAsleep with canRc := false } (fun t => t.canRc) = true := by decide +kernel
theorem test_pattern_not_in_hibernate : after (.wakeLatch 4) (pwrIn .asleep 3) (fun t => t.pwr.phase == .asleep && t.wakeLatch == 16) = true := by decide +kernel
theorem wit_PowerWake_exit : (pwrIn .exiting 3).pwr.tgt ≠ 2 ∧ (pwrIn .exiting 2).pwr.tgt = 2 ∧ pwrS.pwr.resume = false ∧
    ({ pwrS with pwr := { pwrS.pwr with resume := true } } : State).pwr.resume = true ∧ pwrS.pwr.stage = none := by decide +kernel
theorem test_exit_hibernate : after (.exitRelease 32768 true allBlks) (pwrIn .exiting 3)
    (fun t => t.tb2 == 1000000000 * unitsPerNs && t.rd F.SYS_RST_CAUSE_CAUSE == 2) = true := by decide +kernel
theorem test_resume_check_reboots : after (.resumeCheck false) { pwrS with pwr := { pwrS.pwr with resume := true } }
    (fun t => t.sys.boot && t.rd F.SYS_RST_CAUSE_CAUSE == 4) = true := by decide +kernel

/-! ## Real-time clock -/

/-- A calendar reading of the clock, counting. -/
def rtcAt (c : Cal) : State := State.reset.setCal c
def newYearsEve : Cal := { year := 99, mon := 12, day := 31, hour := 23, min := 59, sec := 59, wday := 7 }
theorem wit_RealTimeClock_cal : (rtcAt newYearsEve).cal = newYearsEve ∧ newYearsEve.day ≤ monthDays newYearsEve.year newYearsEve.mon ∧
    (rtcAt newYearsEve).rtcHalt = false ∧ (rtcAt newYearsEve).oscStop = false ∧ (rtcAt newYearsEve).isHalted .rtc = false ∧ (rtcAt newYearsEve).wakeEn 7 = false ∧
    newYearsEve.next.2 = false ∧ ({ newYearsEve with year := 199 } : Cal).next.2 = true := by decide +kernel
theorem test_feb_2100 : ({ year := 100, mon := 2, day := 28, hour := 23, min := 59, sec := 59, wday := 7 } : Cal).next.1 =
    { year := 100, mon := 3, day := 1, hour := 0, min := 0, sec := 0, wday := 1 } := by decide
theorem test_alarm_fires : after .rtcSecond ((rtcAt newYearsEve).wr F.RTC_ALM_DATE_ARM 1) (fun t => t.bit F.RTC_ALM_STAT_FIRED && t.cal.year == 100) = true := by
  decide +kernel
theorem wit_RealTimeClock : ((rtcAt newYearsEve).setHalt true).rtcHalt = true ∧ ((rtcAt newYearsEve).wrB (statFld .rtc 9) true).oscStop = true ∧
    (rtcAt newYearsEve).MayWrite .mon .rtc R.RTC_CTL ∧ (rtcAt newYearsEve).Answers .rtc ∧ monthDays 100 2 < 29 ∧ getBits 0x60 0 7 / 16 = 6 ∧
    getBits 0x59 0 7 % 16 = 9 ∧ (rtcAt newYearsEve).rtc.sets[rtcSetOf .h2] = none ∧ (rtcAt newYearsEve).rd F.RTC_PER_PER = 0 ∧
    ((rtcAt newYearsEve).wr F.RTC_PER_PER 5).rd F.RTC_PER_PER ≠ 0 ∧ (rtcAt newYearsEve).wakeEn 8 = false ∧ (rtcAt newYearsEve).pwr.off = false ∧
    (rtcAt newYearsEve).pwr.lost ≠ 3 := by unfold State.MayWrite State.Answers; decide +kernel
theorem test_sec_bad_digit : after (.rtcSecWrite .mon 0x60 0) State.reset (fun t => t.rd (F.BLK_ERRINFO_CODE .rtc) == 0x80) = true := by decide +kernel
theorem test_rtc_set_frozen : after (.rtcSecRead .h2 77) (rtcAt newYearsEve) (fun t => t.resp.data == 0xD9 && t.rtc.sets[(2 : Fin 6)].isSome) = true := by decide +kernel
theorem test_halt_release_bad : after (.haltRelease .mon) ((rtcAt { newYearsEve with mon := 2, day := 30 }).setHalt true)
    (fun t => t.rtcHalt && t.rd (F.BLK_ERRINFO_CODE .rtc) == 0x81) = true := by decide +kernel
theorem test_vbat_low : after (.vbatMeasure 2199) State.reset (fun t => t.bit (statFld .rtc 11)) = true := by decide +kernel

/-! ## Panel -/

/-- A panel of 16 × 4 pixels in a state, its driver running. -/
def pnlS (st : Nat) : State := ((((State.reset.regPut (R.BLK_CTRL .pnl) 1).wr F.PNL_CFG_WIDTH 16).wr F.PNL_CFG_HEIGHT 4).setPnlState st)
/-- Region 2 covers lines 2 and 3, its stride 64. -/
def pnlReg : State := (((((pnlS 2).wr (F.PNL_REGr_CFG_FIRST 2) 2).wr (F.PNL_REGr_CFG_NLINES 2) 2).wr (F.PNL_REGr_STRIDE_STRIDE 2) 64).wr (F.PNL_REGr_CFG_EN 2) 1)
def pnlRunning (l : List (Nat × LineSrc)) : State := { pnlReg with pnl := { pnlReg.pnl with run := some ⟨some 2, l⟩ } }
theorem wit_PanelDriver_commands : (pnlS 0).MayWrite .h0 .pnl R.PNL_PWR_CMD ∧ (pnlS 0).pnlState = 0 ∧ (pnlS 2).pnlState = 2 ∧ (pnlS 2).pnl.run = none ∧
    (pnlRunning [(2, .blank)]).pnl.run ≠ none ∧ (pnlRunning [(2, .blank)]).en .pnl = true ∧ pnlReg.MayWrite .h0 .pnl R.PNL_UPD_CMD ∧ pnlReg.isHalted .pnl = false ∧
    pnlReg.regionOk pnlReg.rdShadow 2 = true ∧ (4 : BitVec 8) = BitVec.ofNat 8 (2 ^ 2) ∧ pnlReg.MayWrite .h0 .pnl R.PNL_AON_CMD ∧ (pnlS 2).aonLines = 0 := by
  unfold State.MayWrite State.Answers; decide +kernel
/-- The always-on area has one line, whose image stands in SRAM. -/
def pnlAon : State :=
  let s := ((((pnlS 2).wr F.PNL_AON_CFG_LINES 1).wr F.PNL_AON_CFG_FIRST 1).wr F.PNL_AON_CFG_EN 1).regPut (R.XLT_CTXn_CFG 16) 0x10000000
  { s with xlt := { s.xlt with pins := [(128, { en := true, va := 0, pages := 4, pa := 0x1000, r := true })] } }
theorem wit_PanelDriver_aon : 1 ≤ pnlAon.aonLines ∧ pnlAon.aonLines ≤ 48 ∧
    (pnlAon.dmaRead 16 (pnlAon.rd64 R.PNL_AON_SRC_LO R.PNL_AON_SRC_HI) (pnlAon.aonLines * pnlAon.aonStride)).2 = some [0, 0] ∧ pnlAon.aonOk = false ∧
    ({ pnlAon with mem := memPutList [] aonBase ([0, 0] ++ leBytes 4 (crc32 [0, 0]).toNat) } : State).aonOk = true := by decide +kernel
theorem wit_PanelDriver_events : (pnlS 1).Live .pnl ∧ (pnlS 1).pnlState = 1 ∧ (pnlS 1).pnl.va = false ∧
    (pnlS 1).pnl.at_ + 1000000 * max 1 ((pnlS 1).rd F.PNL_PWR_CFG_T_VDD) ≤ ({ pnlS 1 with tb2 := 256000000 * unitsPerNs } : State).nowNs ∧
    (pnlS 3).pnlState = 3 ∧ (pnlS 3).pnl.at_ + 20000000 ≤ ({ pnlS 3 with tb2 := 20000000 * unitsPerNs } : State).nowNs ∧ (pnlS 3).pnl.napOff = false ∧
    (pnlS 2).pnl.com = false ∧ ({ pnlS 2 with shadows := [(F.PNL_COM_HZ, 30)] } : State).shadows = [(F.PNL_COM_HZ, 30)] ∧ (pnlS 2).runs .pnl = true ∧
    (pnlS 2).pnl.pend = 0 ∧ ({ pnlReg with pnl := { pnlReg.pnl with pend := 4 } } : State).nextRegion = some 2 ∧ pnlReg.shadows = [] ∧
    pnlReg.bit (F.BLK_CTRL_FREEZE .pnl) = false ∧ pnlReg.regionOk pnlReg.rd 2 = true ∧ (pnlS 2).pnl.load = none ∧ (pnlS 2).pnl.seq = false ∧
    (pnlRunning [(3, .fault)]).pnl.run = some ⟨some 2, [(3, .fault)]⟩ ∧ ((pnlS 2).wr F.PNL_AON_TIME_REFRESH_S 5).rd F.PNL_AON_TIME_REFRESH_S ≠ 0 := by
  unfold State.Live; decide +kernel
theorem test_line_words : pnlLine 3 (List.replicate 16 4) = pnlTransfer [0xA002, 0xFFFF, 0, 0] := by decide +kernel
theorem test_upd_cmd : after (.updCmd .h0 4) pnlReg (fun t => t.pnl.pend == 4 && t.rd F.PNL_UPD_STAT_PEND == 4) = true := by decide +kernel
theorem test_upd_refused : after (.updCmd .h0 1) pnlReg (fun t => t.pnl.pend == 0 && t.rd (F.BLK_ERRINFO_CODE .pnl) == 0x82) = true := by decide +kernel
theorem test_update_done : after .lineDone { pnlRunning [(3, .blank)] with tb2 := 1000000000 * unitsPerNs } (fun t => t.pnl.run == none && t.rd F.PNL_UPD_CNT_DONE == 1) = true := by decide +kernel
theorem test_pnl_off : after (.pnlOff .h0) (pnlS 2) (fun t => t.pnlState == 3 && t.pnl.dsch) = true := by decide +kernel
theorem test_common_commits : after .commonPeriodEnd { pnlS 2 with tb2 := 1000000000 * unitsPerNs, pnl := { (pnlS 2).pnl with com := true }, shadows := [(F.PNL_COM_HZ, 30)] }
    (fun t => t.rd F.PNL_COM_HZ == 30 && t.shadows.isEmpty) = true := by decide +kernel

/-! ## Performance monitor -/

/-- A window of 100 µs that port 3 used once, at its end. -/
def pfmS : State :=
  let s := (State.reset.regPut (R.BLK_CTRL .pfm) 1).wr F.PFM_CFG_WIN 100
  { (s.pfmCount 3 false 64 40) with tb2 := 100000 * unitsPerNs }
theorem wit_PerformanceMonitor : pfmS.pfmRuns = true ∧ State.reset.pfmRuns = false ∧ pfmS.Live .pfm ∧ pfmS.runs .pfm = true ∧ pfmS.nowUs % pfmS.pfmWin = 0 ∧
    pfmS.nowUs ≠ pfmS.pfm.start ∧ pfmS.shadows = [] ∧ pfmS.bit F.PFM_CFG_DUMP_EN = false ∧ (pfmS.wr F.PFM_CFG_DUMP_EN 1).bit F.PFM_CFG_DUMP_EN = true ∧
    (pfmS.wr F.PFM_RING_IDX_WR 15).pfmSlots = 16 ∧ pfmS.pfm.rec_ = none ∧ pfmS.shed = false ∧ pfmS.pfm.cnt[(3 : Fin 16)].bytes + 64 < 2 ^ 64 ∧
    (0 + 1) % pfmS.pfmSlots ≠ 0 := by unfold State.Live; decide +kernel
theorem test_window_bank : after .pfmWindowEnd pfmS (fun t => t.regGet (R.PFM_Pn_BYTES_LO 3) == 64 && t.regGet (R.PFM_Pn_HISTk 3 2) == 1 && t.rd F.PFM_WSEQ_SEQ == 1) = true := by
  decide +kernel
/-- A record waits for a ring whose context is OFF. -/
def pfmRec : State := { pfmS with pfm := { pfmS.pfm with rec_ := some [1, 2] } }
theorem wit_PerformanceMonitor_rec : pfmRec.pfm.rec_ = some [1, 2] ∧ pfmRec.Live .pfm ∧ pfmS.unreachable .pfm = false ∧ pfmS.inSoftRst .pfm = false ∧
    (pfmS.wr F.PFM_USER_CTRL_USER_OK 1).bit F.PFM_USER_CTRL_USER_OK = true := by unfold State.Live; decide +kernel
theorem test_rec_fault : after .recDone pfmRec (fun t => t.rd (F.BLK_ERRINFO_CODE .pfm) == 0x80 && t.rd F.PFM_DROP_COUNT == 1) = true := by decide +kernel
theorem test_user_write : after (.pfmUserAccess 0 0x40 true (some 1)) pfmS (fun t => t.resp.err && t.rd (F.BLK_ERRINFO_CODE .pfm) == 0x81) = true := by decide +kernel

/-! ## Start-up, feeds and power failure -/

def sysS : State := State.reset
theorem wit_ResetsAndBoot : sysS.MayWrite .mon .sys R.SYS_RST_CMD ∧ sysS.coreOn = true ∧ ({ sysS with domOff := 0x7F } : State).coreOn = false ∧
    sysS.bit F.KST_LC_DBG_EN = true ∧ (sysS.wr F.KST_LC_DBG_EN 0).bit F.KST_LC_DBG_EN = false ∧ sysS.sys.boot = true ∧ sysS.pfw = false ∧ sysS.pwr.off = false ∧
    sysS.isHalted .sys = false ∧ ({ sysS with pfw := true } : State).pfw = true ∧ sysS.MayWrite .spi .sys R.SYS_BOOT_CMD ∧
    sysS.bit F.SYS_BOOT_STAT_RECOVERY = false ∧ (sysS.wr F.SYS_BOOT_STAT_RECOVERY 1).bit F.SYS_BOOT_STAT_RECOVERY = true ∧
    imgHeaderOk (sysS.bytes 0x1000000 256) 100 = false ∧ sysS.MayWrite .mon .sys R.SYS_HOST_GO := by unfold State.MayWrite State.Answers; decide +kernel
/-- The smallest copy: a header without presets that makes a plant of node 5. -/
def cfgCopyBytes : List Byte :=
  let h := leBytes 4 0x4746435A ++ leBytes 4 1 ++ leBytes 4 9 ++ leBytes 4 64 ++ leBytes 1 1 ++ leBytes 1 0 ++ leBytes 2 5 ++ leBytes 4 0 ++ leBytes 4 0 ++
    leBytes 4 0 ++ leBytes 4 0 ++ List.replicate 24 0
  h ++ leBytes 4 (crc32 (h ++ leBytes 4 0)).toNat
def cfgA : State := { sysS with nand := { sysS.nand with pages := [(2 ^ 20, some cfgCopyBytes)] } }
def cfgB : State := { sysS with nand := { sysS.nand with pages := [(2 ^ 20 + 8, some cfgCopyBytes)] } }
theorem wit_ResetsAndBoot_cfg : cfgA.cfgCopy [] 0 = (0, cfgCopyBytes) ∧ (cfgA.cfgCopy [] 1).1 ≠ 0 ∧ leAt cfgCopyBytes 0x14 4 = 0 ∧
    cfgB.cfgCopy [] 1 = (0, cfgCopyBytes) ∧ (cfgB.cfgCopy [] 0).1 ≠ 0 := by decide +kernel
theorem test_cfg_load : (cfgA.loadCfg []).rd F.SYS_ROLE_NODE = 5 ∧ (cfgB.loadCfg []).rd F.SYS_BOOT_STAT_CFG_SRC = 1 := by decide +kernel
theorem test_device_reset_cause : after (.deviceReset 2) { sysS with pwr := { sysS.pwr with resume := true }, mem := [(0x2000000, 1), (0x8000000, 2)] }
    (fun t => t.rd F.SYS_RST_CAUSE_CAUSE == 4 && t.mem == [(0x8000000, 2)]) = true := by decide +kernel
theorem test_boot_cmd_bad_header : after (.sysBootCmd .spi) (sysS.wr F.SYS_BOOT_STAT_RECOVERY 1)
    (fun t => t.rd F.SYS_BOOT_STAT_RESULT_REC == 1 && t.rd (F.BLK_ERRINFO_CODE .sys) == 0x80) = true := by decide +kernel
theorem test_host_go : after (.sysHostGo .mon 5) sysS (fun t => t.regGet R.SYS_HOST_GO == 5) = true := by decide +kernel
/-- One feed is lost; then both, with the timeline running since the start of TB2. -/
def feedS (lost : BitVec 2) : State := { sysS with pwr := { sysS.pwr with lost := lost } }
def pfS (ret : Bool) : State := { feedS 3 with pfw := true, sys := { sysS.sys with boot := false, pf := some 0, ret := ret }, tb2 := 5000 * unitsPerNs }
theorem wit_FeedsAndPowerFail_feeds : (feedS 0).bit (feedOc 0) = false ∧
    ((feedS 0).wr (feedOc 0) 1).bit (feedOc 0) = true ∧ (feedS 1).pwr.lost.getLsbD (0 : Fin 2).val = true ∧ (feedS 2).pwr.lost.getLsbD (0 : Fin 2).val = false ∧
    setMark (feedS 2).pwr.lost (0 : Fin 2).val true = 3 ∧ setMark (feedS 0).pwr.lost (0 : Fin 2).val true ≠ 3 ∧ (feedS 2).pfw = false ∧
    (feedS 2).pwr.phase = .none ∧ (feedS 2).sys.ended = false ∧ (feedS 2).bit F.SYS_PF_CFG_RET_EN = false ∧ (feedS 0).bit (feedOk 0) = false ∧
    ((feedS 0).wr (feedOk 0) 1).bit (feedOk 0) = true ∧ (pfS false).pfw = true ∧ (pfS false).pwr.off = false := by decide +kernel
theorem test_second_feed : after (.feedLost 0 0 0) (feedS 2) (fun t => t.pfw && t.sys.pf == some 0 && t.bit F.SYS_PF_LAST_VALID) = true := by decide +kernel
theorem test_feed_back_resets : after (.feedOk 0 5000 1) { pfS false with sys := { (pfS false).sys with pf := none, ended := true } }
    (fun t => t.rd F.SYS_RST_CAUSE_CAUSE == 64) = true := by decide +kernel
theorem wit_FeedsAndPowerFail_ends : (pfS false).sys.pf ≠ none ∧ (pfS false).savesDone = true ∧ (pfS true).savesDone = false ∧ (pfS true).sys.pf = some 0 ∧
    (pfS true).sys.ret = true ∧ (∀ c : Fin 16, ((pfS true).ctxAt c).busy = false) ∧ ((pfS true).wr F.CAD_RET_STAT_STATE 1).rd F.CAD_RET_STAT_STATE = 1 ∧
    (pfS true).rd F.CAD_RET_STAT_STATE = 0 ∧ (pfS true).evr.flush = none ∧ (pfS true).evr.pf = false ∧ (pfS true).rd F.CAD_RET_STAT_RESULT = 0 ∧
    ((pfS true).wr F.CAD_RET_STAT_RESULT 1).rd F.CAD_RET_STAT_RESULT ≠ 0 ∧ sysS.sys.pf = none ∧ (pfS true).nowNs < 0 + 100000 := by decide +kernel
theorem test_holdup_end : after .holdupEnd (pfS false) (fun t => t.domOff == 0x7F && t.rd F.SYS_PF_LAST_HOLD == 5 && t.bit F.SYS_PF_LAST_PNL_OK) = true := by
  decide +kernel
/-- The set's context maps its header from SRAM. -/
def retS (size : Nat) : State :=
  let s := (pfS true).regPut (R.XLT_CTXn_CFG 0) 0x10000000
  { s with mem := memPutList [] 0x1000008 (leBytes 4 size), xlt := { s.xlt with pins := [(0, { en := true, va := 0, pages := 4, pa := 0x1000, r := true })] } }
theorem wit_FeedsAndPowerFail_set : ((({ retS 4000000 with sys := { (retS 4000000).sys with ret := false } } : State).dmaRead 0 0 64).2.map (leAt · 8 4)) = some 4000000 ∧
    ((({ retS 100 with sys := { (retS 100).sys with ret := false } } : State).dmaRead 0 0 100).2.map List.length) = some 100 := by decide +kernel
theorem test_set_too_large : after .retSetCommit (retS 4000000) (fun t => t.rd F.SYS_PF_LAST_RET == 2 && !t.sys.ret) = true := by decide +kernel

/-! ## The queue, idle cycles, reset and the canonical form -/

theorem wit_StepRunsFrontCommand : ({ State.reset with pending := [.lockstep] } : State).pending = .lockstep :: [] := rfl
theorem wit_IdleCycle : State.reset.pending = [] ∧ State.reset.domOff.getLsbD Domain.net.idx = false ∧ State.reset.tsu.slew0 = 0 ∧ State.reset.tsu.slew1 = 0 ∧
    ({ State.reset with tsu := { State.reset.tsu with srcRtc := false } } : State).tsu.srcRtc = false ∧
    ({ State.reset with domOff := 0x7F } : State).domOff.getLsbD Domain.net.idx = true := by decide +kernel
theorem test_idle_tb2 : State.reset.idle.idle.tb2 = 2 * (16 * 2 ^ 44) := by decide +kernel
theorem test_idle_rate : (State.reset.regPut (R.TSU_TBn_RATE 1) (BitVec.ofInt 32 (-3))).idle.tb1 = 16 * 2 ^ 44 - 48 := by decide +kernel
theorem wit_StepKeepsCanonicalForm : State.reset.Canonical ∧ ({ State.reset with pending := [.lockstep], mem := [(5, 1)] } : State).Canonical := by
  unfold State.Canonical; decide +kernel

/-! ## Further witnesses: Cadence programs and commands -/

/-- cad0 whose instance 1 is in HOLD, and one whose save holds every lane. -/
def cadHold : State := { cad0 with cad := { cad0.cad with hold := [1] } }
def cadRetHolds : State := { cad0 with cad := { cad0.cad with suspended := true } }
theorem wit_LoopsAndCalls_forms : ((cadW 3 0 0).ctxAt 0).r 1 ≠ 0 ∧ (((cadW 3 0 0).ctxAt 0).r 1).toNat ≤ (3 : BitVec 11).toNat ∧ ((cadW 3 0 0).ctxAt 0).r 2 = 0 ∧
    cadHold.cad.hold.contains 1 = true ∧ cadHold.Executes 0 ∧ cad0.cad.hold.contains 1 = false ∧ cad0.cad.poisoned.contains 1 = false ∧
    cadRetHolds.Executes 0 ∧ cadRetHolds.saveHolds = true ∧ (cadRetHolds.ctxAt 0).calls = [] := by
  unfold State.Executes State.Live; decide +kernel
/-- The task's cycle start found a result of four words in template 5. -/
def cadWin : State := (cadW 3 0 0).setTask 0 { (cadW 3 0 0).task 0 with wins := [(5, List.replicate 16 7)] }
theorem wit_RequestsArePosted_window : cadWin.Executes 0 ∧ 4 * ((cadWin.ctxAt 0).r 1).toNat < (Sparse.get (cadWin.task 0).wins [] 5).length ∧
    (Sparse.get (cadWin.task 0).wins [] 4).length ≤ 4 * ((cadWin.ctxAt 0).r 1).toNat := by
  unfold State.Executes State.Live; decide +kernel
/-- cad0 with the 16 calls and the 4 loops that R98 and R99 admit open. -/
def cadDeep : State := cad0.setCtx 0 { cad0.ctxAt 0 with calls := List.replicate 16 ⟨7, 0, []⟩, loops := List.replicate 4 ⟨0, 900, 0, 1⟩ }
theorem wit_ExceptionsAbort_forms : (cadW 61 0 0).nSlots (cadW 61 0 0).runBank ≤ (((cadW 61 0 0).ctxAt 0).r 1).toNat ∧
    (64 : Nat) ≤ (((cadW 61 0 0).ctxAt 0).r 1).toNat + (3 : BitVec 16).toNat ∧ (((cadW 61 0 0).ctxAt 0).r 1).toNat % 4 ≠ 0 ∧
    (((cadW 61 0 0).ctxAt 0).r 1).toNat % 2 ≠ 0 ∧ (((cadW 61 0 0).ctxAt 0).r 2).toNat = 0 ∧
    (cadW 61 0 0).slotDir (cadW 61 0 0).runBank 1 = 1 ∧ (cadW 61 0 0).slotWriter (cadW 61 0 0).runBank 1 = 0 ∧
    cad0.dataExc (cad0.ctxAt 0) 4 4 = none ∧ cad0.instCalled cad0.runBank (cad0.rdLe (cad0.dataAddr cad0.runBank (cad0.ctxAt 0).cur 4) 4) = false ∧
    cadDeep.Executes 0 ∧ 16 ≤ (cadDeep.ctxAt 0).calls.length ∧ 4 ≤ (cadDeep.ctxAt 0).loops.length ∧ cadDeep.dataExc (cadDeep.ctxAt 0) 0 4 = none ∧
    cadDeep.owns cadDeep.runBank 0 1 = true := by unfold State.Executes State.Live; decide +kernel
/-- The image says 8,192 bytes, of which one page is mapped; and a LOADED bank whose hash is that of its image. -/
def cadLong : State := { cadLoading with mem := memPutList cadLoading.mem 0x1000008 (leBytes 4 8192) }
def cadHashed : State :=
  let s := cad0.regPut R.CAD_BANK_STAT 2
  { s with cad := { s.cad with hash0 := match (s.readImage 0 256).2 with | .ok i => leNat (phashOf i) | .error _ => 0 } }
theorem wit_ProgramLoading_second : imageRead cadLong 0 256 (fun h s => (headerCheck h cadLong.cad.loadVerified).1 == 0 &&
      !imageRead s 0 (max 256 (hdImgSize h)) fun _ _ => true) = true ∧ (cad0.regPut R.CAD_BANK_STAT 3).cad.altReported = false := by decide +kernel
theorem wit_ProgramLoading_hash : imageRead cadHashed 0 (max 256 (cadHashed.img 0 8 4)) (fun i _ => leNat (phashOf i) == cadHashed.bankHash 0) = true := by
  decide +kernel
theorem wit_ProgramLoading_altered (i : List Byte) :
    leNat (phashOf i) ≠ ({ cadHashed with cad := { cadHashed.cad with hash0 := leNat (phashOf i) + 1 } } : State).bankHash 0 :=
  (Nat.succ_ne_self _).symm
/-- The cycle found a fault and a STOP waits; the POLICY of task 1 is STRETCH and an instant falls in its cycle. -/
def cadFaulted : State := cadDone.setTask 1 { cadDone.task 1 with faulted := true, stopPend := true }
def cadStretch : State :=
  let s := (cadDone.wr (F.CAD_TASKn_CFG_POLICY 1) 1).wr (F.CAD_TASKn_PERIOD_PERIOD 1) 1000
  { s with tb2 := 1000 * 1000 * 5 * unitsPerNs }
theorem wit_TaskCycles_forms : cadFaulted.cycleDone 1 = true ∧ cadFaulted.saveHolds = false ∧ (cadFaulted.task 1).faulted = true ∧
    (cadFaulted.task 1).stopPend = true ∧ cadStretch.overrunNow 1 = true ∧ cadStretch.bit (F.CAD_TASKn_CFG_POLICY 1) = true ∧
    cadStretch.ringTask 1 = false ∧ cadStretch.runs .cad = true ∧ cadStretch.following = false ∧ (cadIdle.task 1).deltaZero = true := by decide +kernel
/-- A NOW save may begin while a task is in its cycle, between instances; a set that holds an uncorrectable word is not written. -/
def cadNow : State := let s := cadSave 1; { s with cad := { s.cad with retNow := true } }
theorem wit_RetainedDataSaves_now : cadNow.rd F.CAD_RET_STAT_STATE = 1 ∧ cadNow.cad.retNow = true ∧ (∀ c : Fin 16, (cadNow.ctxAt c).busy = false) ∧
    (cadSave 2).cad.retSet = none ∧ ({ cadSave 2 with cad := { (cadSave 2).cad with retSet := some ([1], [2]) } } : State).cad.retSet = some ([1], [2]) := by
  decide +kernel
/-- A FLOAT slot and a NaN; a force table with no FREE entry; a FORCE_LOCK over an ORPHAN entry; an ORPHAN entry of an unbound signal. -/
def cadFloat : State := { (cadForce.regPut R.CAD_FORCE_VAL 0x7FC00000) with mem := memPutList cadForce.mem (0x1000000 + 0xB0) (leBytes 4 4) }
def fullTable : List (Nat × Option Force) := (upto 4096).map fun i => (i, some ⟨i + 1, 5, 0, false⟩)
def withForces (l : List (Nat × Option Force)) : State := { cadForce with cad := { cadForce.cad with forces := l } }
theorem withForces_forces (l : List (Nat × Option Force)) : (withForces l).cad.forces = l := rfl
theorem wit_ForceCommands_forms : cadForce.slotType cadForce.runBank 0 ≠ 4 ∧ nanWord (cadFloat.regGet R.CAD_FORCE_VAL) = true ∧
    (cadForce.regPut (R.BLK_LOCK .cad) 4).forceLock = true ∧ (cadForce.regPut (R.BLK_LOCK .cad) 4).forceIdx 0 = some 3 ∧
    (cadForce.boundSlot 0).isSome = true ∧ (cadForce.boundSlot 77).isNone = true ∧
    ({ cadForce with cad := { cadForce.cad with forces := [] } } : State).freeForce = some 0 ∧
    ({ cadForce with cad := { cadForce.cad with forces := [] } } : State).forceIdx 0 = none := by decide +kernel
theorem get_map_isSome (g : Nat → Force) (l : List Nat) (i : Nat) (h : i ∈ l) :
    (Sparse.get (l.map fun i => (i, some (g i))) none i).isSome = true := by
  induction l with
  | nil => cases h
  | cons a t ih =>
    simp only [List.map_cons, Sparse.get]
    split
    · rfl
    · exact ih ((List.mem_cons.mp h).resolve_left fun e => absurd e.symm ‹_›)
theorem wit_ForceCommands_full : (withForces fullTable).forceIdx 0 = none ∧ (withForces fullTable).freeForce = none ∧
    (withForces fullTable).forceSig = 0 ∧ (withForces fullTable).boundSlot 0 = some 0 := by
  refine ⟨?_, ?_, by decide +kernel, by decide +kernel⟩
  · rw [State.forceIdx, withForces_forces, fullTable, Option.map_eq_none_iff, List.find?_eq_none]
    intro e h
    obtain ⟨i, -, rfl⟩ := List.mem_map.mp h
    simp
  · rw [State.freeForce, List.find?_eq_none]
    intro i h
    have h2 := get_map_isSome (fun i => ⟨i + 1, 5, 0, false⟩) (upto 4096) i h
    rw [State.forceAt, withForces_forces, fullTable, Option.isNone_iff_eq_none, ← Option.not_isSome_iff_eq_none, h2]
    simp
/-- Changes locked, committed, abandoned; a write of the staging range that fails. -/
theorem wit_OnlineChange_forms : (withRegs [(R.BLK_LOCK .cad, 8)]).MayWrite .mon .cad R.CAD_CHG_CMD ∧ (cadChg 4).chgState = 4 ∧ (cadChg 5).chgState = 5 ∧
    (cadChg 3).chgState = 3 ∧ (cadChg 2).chgState = 2 ∧ (cadChg 2).following = false ∧ (cadChg 2).wouldOrphan 1 = false := by
  unfold State.MayWrite State.Answers; decide +kernel

/-! ## Further witnesses: the ring, the loop engine, the solver -/

/-- The first replay after a takeover still runs; T0 is locked and ready for the pass due at 0; it is not. -/
def ringHanding : State := { ring.regPut (R.CAD_TASKn_STAT 0) 2 with tdm := { ring.tdm with swFrom := some 0 } }
def ringReady : State :=
  let s := { (ring.regPut (R.CAD_TASKn_STAT 0) 9) with spk := { ring.spk with due := some 0, first := false } }
  s.setTask 0 { s.task 0 with deltaZero := false, start := 0 }
def ringEarly : State := { ring with spk := { ring.spk with due := some 0 } }
theorem wit_RingMaster_departs : ringHanding.handingOver = true ∧ ring.handingOver = false ∧ ringReady.spk.due = some 0 ∧ ringReady.mastering = true ∧
    ringReady.bit (F.CAD_TASKn_STAT_LOCKED 0) = true ∧ ringReady.spk.first = false ∧ ringReady.t0Ready 0 = true ∧ ringReady.bit (F.BLK_CTRL_FREEZE .spk) = false ∧
    ringEarly.spk.due = some 0 ∧ ringEarly.nowNs < 0 + ringEarly.latestStart ∧ ringEarly.bit (F.CAD_TASKn_STAT_LOCKED 0) = false := by decide +kernel
/-- Pass 7 was sent tagged: an untagged copy of it, with no pass in flight, is a tag failure. A copy of pass 6 is late. -/
def ringTagged : State :=
  let s := ring.wr F.SPK_CFG_TAG_EN 1
  { s with spk := { s.spk with frames := [{ tagged := true, slot := 0 }] } }
theorem wit_RingMaster_copies : ringTagged.plant = true ∧ ringTagged.ringFrame ringFrame7 = true ∧ ringTagged.sentTagged ringFrame7.body = true ∧
    ringTagged.spk.pass = none ∧ hPass ringFrame7.body ≠ 6 ∧ plantIdle.mastering = false ∧ plantIdle.MayWrite .h0 .spk R.SPK_TBL_CMD ∧
    plantIdle.bit F.SPK_TBL_STAT_PEND = false ∧ ¬(max 1 (ringPass.rd F.SPK_MBX_CFG_TRIES) ≤ 0) ∧ (max 1 ((ringPass.wr F.SPK_MBX_CFG_TRIES 1).rd F.SPK_MBX_CFG_TRIES) ≤ 1) := by
  unfold State.MayWrite State.Answers; decide +kernel
theorem wit_RingStations_forms : ((asked 2 [0, 0, 0, 1, 0, 4]).param 1).map List.length = some (beAt [0, 0, 0, 1, 0, 4] 4 2) ∧ [0, 0, 0, 1, 0, 4].length = 6 ∧
    [0, 0, 0, 1, 0, 0, 0xFF, 0xFF].length = 8 ∧ 1 ≤ beAt [0, 0, 0xFF, 0xFF] 0 4 ∧ beAt ([0, 5, 6, 0, 0, 0, 0, 9] : List Byte) 2 1 = 6 ∧
    6 < beAt ([0, 5, 7, 0, 0, 0, 0, 9] : List Byte) 2 1 ∧
    ({ stationFrame with fcs := false } : SpokeFrame).fcs = false ∧
    ({ station with spk := { station.spk with loopA := true, syncA := some 0 }, tb2 := 100000000 * unitsPerNs } : State).spk.syncA = some 0 ∧
    0 + 100000000 ≤ ({ station with spk := { station.spk with loopA := true, syncA := some 0 }, tb2 := 100000000 * unitsPerNs } : State).nowNs := by decide +kernel
/-- Loop slots 3 and 4 locked to T0, both due: the lower number is first; slot 1 waits for its sample with DISABLE. -/
def lpeTwo : State :=
  let e : SlotEntry := { (parseEntry []) with locked := true }
  ((((lpeRun.setLslot 3 { due := true, entry := e }).setLslot 4 { due := true, entry := e }).wr (F.LPE_SLOTn_STAT_STATE 3) 1).wr (F.LPE_SLOTn_STAT_STATE 4) 1)
theorem wit_LoopSlots_order : lpeTwo.slotDue 3 = true ∧ (lpeTwo.lslot 3).entry.locked = true ∧ (lpeTwo.lslot 4).entry.locked = true ∧
    (lpeTwo.lslot 4).entry.lockTask = (lpeTwo.lslot 3).entry.lockTask ∧ (lpeTwo.lslot 1).entry.locked = false ∧ lpeTwo.sampleDue 3 = true ∧
    lpeTwo.Live .lpe := by unfold State.Live; decide +kernel
/-- SAFE_ALL; a task fault's hold on signal 9; the good entry of a table of one signal. -/
theorem wit_OutputGuard_forms : (lpeRun.wr F.LPE_GRD_CFG_SAFE_ALL 1).bit F.LPE_GRD_CFG_SAFE_ALL = true ∧
    ({ lpeRun with lpe := { lpeRun.lpe with sof := [9] } } : State).lpe.sof = [9] ∧ lpeRun.outVal 12 = none ∧ lpeRun.following = false ∧
    (match (lpeLoading lpeMapped).dmaRead 1 0 64 with
      | (s, some _) => (s.dmaRead 1 0 64).2.isSome
      | (_, none) => false) = true := by decide +kernel
/-- A running job's stop point; what it may not yet reach; a burst of the solver's port that waits after a fault; the end of a stalled job. -/
def slvLate : Job := { jobT 5 1 2 with deadline := 1000 }
def slvKept : State := let s := slvWith [] none none; { s with fab := { s.fab with kept := [⟨5, 2, 0, .read 4, false⟩] } }
theorem wit_SolverJobs_instant : (slvWith [] (some slvLate) none).jobOf 5 = some slvLate ∧
    (slvWith [] (some slvLate) none).reached ((slvWith [] (some slvLate) none).stopOf slvLate) = true ∧ slvLate.out = none ∧
    (slvWith [] (some (jobT 5 1 2)) none).reached ((slvWith [] (some (jobT 5 1 2)) none).stopOf (jobT 5 1 2)) = false ∧
    (slvWith [] (some slvLate) none).Live .slv ∧ slvKept.fab.kept ≠ [] ∧ slvKept.slv.stall = none ∧ slvKept.MayWrite .h0 .slv R.SLV_CMD ∧
    (slvWith [] none none).fab.kept = [] := by unfold State.Live State.MayWrite State.Answers; decide +kernel
theorem wit_SolverJobs_forms : ((slvWith [] (some (jobT 3 3 2)) none).jobOf 3).isSome = true ∧ ((slvWith [] none none).tpl 9).en = false ∧
    ((slvWith [] none none).reply 0).reached (((slvWith [] none none).reply 0).stopAt 3 1000) = true ∧
    (slvWith [] (some { jobT 5 2 2 with slot := some 1 }) none).jobs.any (fun q => q.started && q.slot == some 1) = true := by decide +kernel
theorem wit_SolverIterations_stops : ({ estJob with stopReq := some 4 } : Job).stopReq = some 4 ∧
    ({ ue := some (2, 3) } : IterOut).ue = some (2, 3) ∧ stopState 6 (lsqDone.hasVectors 6) ≠ 3 := by decide +kernel

/-! ## Further witnesses: metering, the switch, the time unit, field I/O -/

theorem wit_MeteringCommands_forms : (viewS.regPut (R.XLT_CTXn_CFG 7) 0).mtrRuns = true ∧ (⟨5, [], true⟩ : BuiltBlk).seq ≤ 5 ∧ lane2.stopping .mtr = false ∧
    ({ lane2 with nand := { lane2.nand with totalsLast := true } } : State).nand.totalsLast = true ∧
    (lane2.lane 4).regs = Vector.replicate 4 0 := by decide +kernel
theorem wit_MeteringMeasurement_forms : (elecS 0).stopping .mtr = false ∧ (mtrWith 2 pulseLane).pulses 2 * 10 = 0 ∧
    (mtrWith 1 { en := true, cfg := { kind := 3, flags := 4 } }).tickDue = true ∧ ((mtrWith 1 { en := true, cfg := { kind := 3, flags := 4 } }).lane 1).errRun = false ∧
    ((mtrWith 1 {}).mtr.sets[(0 : Fin 2)]).phases[(0 : Fin 3)].seen = none ∧ 100 * (elecS 0).nomHz * (atMs 2000 - atMs 1985) < 80 * unitsPerSec ∧
    0 + 1000000 * unitsPerNs * max 1 ((elecS 0).rd F.MTR_ELEC_CFG_ZC_TMO) ≤ (elecS 0).tb2 ∧
    (elecS (atMs 2000)).tb2 < atMs 2000 + 1000000 * unitsPerNs * max 1 ((elecS 0).rd F.MTR_ELEC_CFG_ZC_TMO) ∧
    ptTemp 100 = some 0 ∧ ({ elecS 0 with coefNew := [(3, (5, 0))] } : State).coefNew = [(3, (5, 0))] := by decide +kernel
/-- NET is stopping, and the frame of port B that was in transmission has left. -/
def netBusy : State := (netQ plainQ true).wrB (F.BLK_STAT_STOPPING .net) true
theorem wit_Switching_wire : netBusy.mayLeave 1 = false ∧ (netQ plainQ true).mayLeave 1 = true ∧ netBusy.Live .net ∧ plainQ.ingress ≠ 5 ∧
    ({ plainQ with ingress := 5 } : QFrame).oneStep = false ∧ (0 : BitVec 16).toNat % netS.cpuN 1 = netS.net.take % netS.cpuN 1 ∧
    ({ frameS true with rest := List.replicate 1990 0 } : EthFrame).fcs = true ∧ 2000 < ethLen { frameS true with rest := List.replicate 1990 0 } := by
  unfold State.Live; decide +kernel
theorem wit_TimeBases_rtc : ({ tsuS with rtc := { tsuS.rtc with secAt := some 0 } } : State).rtcSecondNow = true ∧ tsuS.tsu.srcRtc = true ∧
    ({ tsuS.wr F.TSU_CFG_TB3_SRC 1 with tsu := { tsuS.tsu with srcRtc := false } } : State).bit F.TSU_CFG_TB3_SRC = true := by decide +kernel
/-- An output enabled when its base stood at 2,000 ns or more: the grid instants up to there are past, and so is a one-shot START. -/
def tpFrom (mode : Word) : State := (tpS mode).setTp 0 ⟨none, false, some (2000 * unitsPerNs)⟩
theorem wit_PulsesAndCaptures_passed : ((tpFrom 1).tsu.tp[(0 : Fin 8)]).from_ = some (2000 * unitsPerNs) ∧ (tpFrom 0).tpStart 0 ≤ 2000 * unitsPerNs ∧
    ((tpFrom 0).tsu.tp[(0 : Fin 8)]).fired = false ∧ (({ tpFrom 0 with tb0 := 3000 * unitsPerNs } : State).tb 0 - (tpFrom 0).tpStart 0) % (tpFrom 1).tpPeriod 0 < 2 * unitsPerCycle ∧
    (((tpS 0).setTp 0 ⟨none, true, none⟩).tsu.tp[(0 : Fin 8)]).fired = true ∧
    (((tpS 0).setTc 0 { last := some 0 }).tsu.tc[(0 : Fin 4)]).last = some 0 ∧ 0 + 20 ≤ ({ tpS 0 with tb2 := 20 * unitsPerNs } : State).nowNs := by decide +kernel
/-- An input whose last edge was accepted at 5 µs; a queue of 256 edges. -/
def fioFrom : State := { fioS with fio := { fioS.fio with runFrom := fioS.fio.runFrom.set 2 5000, queue := List.replicate 256 ⟨0, 2, false, 0, 0⟩ }, tb2 := 6000 * unitsPerNs }
theorem wit_FieldIo_runs : fioFrom.fio.runFrom[(2 : Fin 24)] = 5000 ∧ 5000 + 1000 ≤ fioFrom.nowNs ∧ ¬fioFrom.fio.queue.length < 256 ∧ fioFrom.fio.stopped = false ∧
    fioS.fio.stopped = false ∧ fioS.fio.runFrom[(2 : Fin 24)] ≤ 0 ∧ fioFrom.fio.sampling = true := by decide +kernel

/-! ## Further witnesses: CAN, Tandem, event recorder, key store -/

/-- Buffer 2 on the bus with an abort asked for; one-shot; automatic recovery; the last entry of a full map. -/
theorem wit_CanTransmission_forms : ((canS.wr (F.CAN_CFG_MAP_EN 1) 1).bit (F.CAN_CFG_MAP_EN 1)) = true ∧ (canBus 2).canPort 1 ≠ canS.canPort 1 ∧
    ((canBus 2).canPort 1).onBus = some 2 ∧ ((canBus 2).canPort 1).mapDue = [] ∧ (canS.wr (F.CAN_CFG_ONE_SHOT 1) 1).bit (F.CAN_CFG_ONE_SHOT 1) = true ∧
    (canS.wr (F.CAN_CFG_AUTO_RECOV 1) 1).bit (F.CAN_CFG_AUTO_RECOV 1) = true ∧ (canS.canPort 1).recov = false ∧ (canS.wr (F.CAN_CFG_AUTO_RECOV 1) 0).bit (F.CAN_CFG_AUTO_RECOV 1) = false ∧
    (∀ k : Fin 64, k < 0 → canMap.mapTxDue 1 k = none) ∧ canFdf 0x200 = false ∧ (canS.wr (F.CAN_CFG_FD_EN 1) 1).bit (F.CAN_CFG_FD_EN 1) = true := by decide +kernel
/-- The standby that joins: the cut seen, the copy loaded, its lag known. -/
def tdmJoin : State := { tdmS 2 with tdm := { (tdmS 2).tdm with cutSeen := true, loaded := true, lagNs := some 0 } }
def tdmReplay (l : List TdmIn) : State := { tdmS 2 with tdm := { (tdmS 2).tdm with cutSeen := true, replay := l } }
def tdmCut : State := { tdmS 2 with tdm := { (tdmS 2).tdm with cutSeen := true } }
def tdmFrame : TdmFrame := ⟨0, 5, .joinReq⟩
theorem wit_TandemMembership_forms : tdmJoin.tdmState = 2 ∧ tdmJoin.tdm.loaded = true ∧ tdmJoin.tdm.replay = [] ∧ tdmJoin.tdm.lagNs = some 0 ∧
    2 * 0 ≤ 1000 * tdmJoin.ringPeriod ∧ (tdmS 2).tdm.cutSeen = false ∧ tdmCut.tdm.cutSeen = true ∧ tdmCut.tdm.loaded = false ∧
    (({ tdmS 1 with tdm := { (tdmS 1).tdm with stream := [tdmFrame] } } : State).tdm.stream.find? fun f => f.seq == 5) = some tdmFrame ∧
    (tdmLate 0).tdm.missing = [(7, 0)] ∧ (tdmLate 0).following = true ∧ (∀ x ∈ (tdmS 3).tdm.missing, x.1 ≠ 7) ∧ tdmJoin.Live .tdm ∧ tdmJoin.tdmRuns = true ∧
    (tdmLate 1000000).Live .tdm ∧ (tdmLate 1000000).tdm.replayed = false ∧
    2 * (tdmLate 1000000).tdm.instantAt + 1000 * (tdmLate 1000000).ringPeriod * (2 * (0 - (tdmLate 1000000).tdm.pass) + 1) < 2 * (tdmLate 1000000).nowNs := by
  unfold State.Live; decide +kernel
theorem tdmReplay_follows (l : List TdmIn) : (tdmReplay l).following = (tdmReplay []).following ∧ (tdmReplay l).tdmState = (tdmReplay []).tdmState ∧
    (tdmReplay l).tdm.replay = l := ⟨rfl, rfl, rfl⟩
theorem wit_TandemMembership_room : Config.replayRoom < (tdmReplay (List.replicate (Config.replayRoom + 1) (.cmd 0 0))).tdm.replay.length ∧
    (tdmReplay []).tdm.replay.length ≤ Config.replayRoom ∧ (tdmReplay []).following = true ∧ (tdmReplay []).tdmState = 2 := by
  refine ⟨?_, Nat.zero_le _, by decide +kernel, by decide +kernel⟩
  rw [(tdmReplay_follows _).2.2, List.length_replicate]
  exact Nat.lt_succ_self _
theorem wit_TandemStream_forms : tdmCut.following = true ∧ tdmCut.tdmState = 2 ∧ tdmCut.tdm.loaded = false ∧ tdmJoin.following = true ∧
    (({ tdmS 3 with tdm := { (tdmS 3).tdm with digests := [(4, 9)] } } : State).tdm.digests.find? fun x => x.1 == (4 : BitVec 48).toNat) = some (4, 9) ∧
    (tdmS 3).tdm.replayed = true := by decide +kernel
/-- The lines 10 ms after their last edges; GOLDEN due, and not; the second of a health report; SOLO. -/
def tdmDead : State := { tdmS 4 with tb2 := 100000 * unitsPerNs }
def witDead : State := { witS with tb2 := 10000000 * unitsPerNs }
def tdmMinute : State := { (tdmS 4).regPut (R.BLK_CTRL .slv) 1 with tb2 := 60000000000 * unitsPerNs }
def tdmSolo : State := (((tdmS 0).wr F.TDM_CFG_SOLO 1).wr F.TDM_STATE_GRANT 3)
def tdmAlone : State := { tdmSolo with tb2 := 1000000000 * unitsPerNs, tdm := { tdmSolo.tdm with absentAt := some 0 } }
theorem wit_TandemArbitration_forms : tdmDead.tdm.edges[(0 : Fin 2)] + 100000 ≤ tdmDead.nowNs ∧ (tdmS 4).nowNs < (tdmS 4).tdm.edges[(1 : Fin 2)] + 100000 ∧
    witDead.tdm.edges[(0 : Fin 2)] + 1000 * max 100 (min 10000 (witDead.rd F.TDM_WIT_CFG_HB_MISS)) ≤ witDead.nowNs ∧ witDead.arbitrates = true ∧
    8 * 1 - 6 ≤ 2 ∧ 6 ≤ 8 * 5 - 2 ∧ (tdmS 4).nowNs < (tdmS 4).tdm.goldenAt + 60000000000 ∧ tdmMinute.tdm.goldenAt + 60000000000 ≤ tdmMinute.nowNs ∧
    tdmMinute.runs .slv = true ∧ tdmMinute.unreachable .slv = false ∧ (tdmS 4).runs .slv = false ∧ tdmMinute.nowSec ≠ tdmMinute.tdm.reportSec ∧
    (tdmS 4).nowSec = (tdmS 4).tdm.reportSec ∧ tdmAlone.tdmState = 0 ∧ tdmAlone.rd F.TDM_CFG_MEMBER = 0 ∧ tdmAlone.grant = 3 ∧
    tdmAlone.tdm.absentAt = some 0 ∧ 0 + 1000000000 ≤ tdmAlone.nowNs ∧ tdmAlone.bit F.TDM_CFG_SOLO = true := by decide +kernel
theorem wit_TandemArbitration_states : ((tdmS 3).wr F.TDM_STATE_GRANT 2).grantPartner = true ∧
    ({ (tdmS 3).wr F.TDM_STATE_GRANT 2 with tdm := { (tdmS 3).tdm with dispute := true } } : State).tdm.dispute = true ∧ (tdmS 3).tdm.dispute = false ∧
    ((tdmS 5).wr F.TDM_STATE_GRANT 2).grantPartner = true ∧ ((tdmS 5).wr F.TDM_STATE_GRANT 2).tdmState = 5 ∧ (tdmS 3).tdm.linkDownAt = some 0 ∧
    ((tdmS 3).wr F.TDM_STATE_GRANT 3).rd F.TDM_STATE_PCODE = 0 := by decide +kernel
/-- A PWR event waits while the core is off; a full event queue; a record that a source's earlier one precedes. -/
def evrAon : State := { evrTwo with domOff := 0x7F, evq := [{ src := 0x14, code := 0x1400, sev := 2, at_ := 7, aon := some (5, 0) }] }
theorem wit_EventRecords_forms : evrAon.coreOff = true ∧ (evrAon.evq.filter fun e => !evrAon.coreOff || e.aon.isSome) ≠ [] ∧ evrAon.inSoftRst .evr = false ∧
    evrAon.isHalted .evr = false ∧ evrS.coreOff = false ∧ (∀ e ∈ evrS.evq, e.src ≠ masterSrc .mon) ∧ evrS.evr.buf = [] ∧ evrS.evq.length < 64 ∧
    ({ evrS with evr := { evrS.evr with flush := some 3 } } : State).evr.flush ≠ none := by decide +kernel
theorem wit_EventWindowAndClears_forms : evrS.kst.reqs = [] ∧ (evrNonced 0).kstTurn .verify = true ∧
    ({ evrS with kst := { evrS.kst with reqs := [(0, .mon)] } } : State).kst.reqs ≠ [] ∧
    ({ evrNonced 0 with kst := { (evrNonced 0).kst with reqs := [(0, .mon)] } } : State).kstTurn .verify = false ∧ (evrNonced 0).evq.length < 64 ∧
    (evrS.wr F.EVR_CFG_CLR_EN 1).bit F.EVR_CFG_CLR_EN = true ∧ evrS.bit F.EVR_CLR_STAT_PEND = false ∧
    (evrS.wr F.EVR_CLR_STAT_PEND 1).bit F.EVR_CLR_STAT_PEND = true := by decide +kernel
/-- SPK, MTR and EVR requests: a seal in service keeps the monitor's operation waiting. -/
def kstBusy : State := { kstJ 1 0 with kst := { (kstJ 1 0).kst with reqs := [(0, .seal), (0, .mon)] } }
theorem wit_KeyStore_turns : kstBusy.kstTurn .mon = false ∧ kstBusy.kstTurn .seal = true ∧ (kstJ 1 0).kstTurn .mon = true ∧
    (∀ q ∈ (kstJ 1 0).kst.reqs.tail, q.2 ≠ .nonce) ∧ kstS.kst.reqs.all (fun q => decide (q.1 ≠ kstS.tb2 ∨ q.2.rank ≤ 2)) = true ∧
    (∀ r < 4, (kstProv 14 0).rootStuck r = false) ∧ kstSeal.kstTurn .seal = true ∧ kstBusy.mtr.closed = [] ∧
    ((kstHalf 6 20 1 0).wr (F.KST_SLOTn_STAT_STATE 20) 1).kstState 20 = 1 := by decide +kernel
/-- A check word that fails. -/
def badHalf : KeyHalf := { key := [1], check := (sha3 [1]).toNat + 1 }
theorem badHalf_fails : badHalf.ok = false := by
  simp [badHalf, KeyHalf.ok]
theorem wit_KeyStoreCommands_bad : (((kstHalf 6 20 1 1).setKslot 20 { active := some badHalf, shadow := some badHalf, shOrigin := 2 }).kslot 20).active = some badHalf ∧
    (kstHalf 6 20 1 1).kstState 20 = 1 := ⟨rfl, by decide +kernel⟩

/-! ## Further witnesses: fabric, flash, power, clock, panel, start-up, feeds -/

/-- Context 2 (port 5) translates through tables whose root is not pinned: its accesses make walks; eight of them are open. -/
def walkS : State := { (rst.regPut (R.XLT_CTXn_CFG 2) 0x20000000) with mem := memPutList [] 0 [] }
def walkItem : FabItem := ⟨5, 0, 0x1000, .read 4, false⟩
def walks8 : State := { walkS with fab := { walkS.fab with walks := List.replicate 8 ⟨walkItem, 1, false⟩ } }
theorem wit_FabricAndTranslation_walks : (burst 0x1000 4).map (fun p => walkS.readsFor 2 false p.1) ≠ [0] ∧ walkS.fab.walks.length < 8 ∧
    8 ≤ walks8.fab.walks.length ∧ walkS.tagFree 5 = true ∧ queueOpen walkS.fab.req 5 = true ∧ portCtx 5 0 = some 2 ∧
    ({ walkS with fab := { walkS.fab with walks := [⟨walkItem, 2, true⟩], rsp := [⟨5, ⟨0, false⟩, [], false, 0, 9, some walkItem⟩] } } : State).fab.pf = [] ∧
    ((walkS.arbitrate [walkItem]).map Prod.fst) = some walkItem ∧ walkS.arbitrate walkS.fab.pw = none := by decide +kernel
/-- Stored words, responses and reservations at the edges. -/
theorem wit_FabricAndTranslation_forms : (coreItem (.write [0x5A])).port.val ≤ 1 ∧ rst.ue = [] ∧
    ({ rst with resv := [⟨0, 0, 0x1000004, 4⟩] } : State).resv.all (fun r => !(r.port == (1 : Fin 16))) = true ∧ inSram 0x1000004 = true ∧
    (0x1000004 : Nat) % 4 = 0 ∧ rst.ueIn 0x1000004 4 = none ∧ rst.hot = false ∧ (rst.rd F.XLT_PIN_SEL_CTX ≤ 16) ∧
    (rst.wr F.XLT_PIN_SEL_CTX 13).rd F.XLT_PIN_SEL_CTX = 13 ∧ ((13 : BitVec 5).toNat = 12 ∨ (13 : BitVec 5).toNat = 13) ∧
    rst.MayWrite .h0 .xlt R.XLT_PIN_CFG ∧ ¬(rst.fab.waits.any fun w => w.port == (5 : Fin 16)) = true := by
  unfold State.MayWrite State.Answers; decide +kernel
/-- The scrub pass of DRAM starts at its first word; a word there is uncorrectable; channel 3 was trued a minute ago, or just now. -/
def bgsUe : State := { bgsS with ue := [0x80000000] }
def bgsTrued (t : Nat) : State := { bgsS with bgs := { bgsS.bgs with truedAt := [(3, some t)] } }
theorem wit_FlashAndServices_scrub : bgsS.scrubDue 0x80000000 4 = true ∧ bgsS.scrubDue 0x80000008 4 = false ∧ bgsUe.ue = [0x80000000] ∧
    bgsS.bgs.paidTo ≤ bgsS.nowNs ∧ bgsS.trueDue 3 = true ∧ (bgsTrued bgsS.nowNs).trueDue 3 = false ∧
    (bgsTrued (bgsS.nowNs - 60000000000)).trueDue 3 = true ∧ bgsS.tandem = false := by decide +kernel
theorem wit_FlashAndServices_reserve : ¬nfmS.nand.reserve < 288 ∧ ({ nfmS with nand := { nfmS.nand with reserve := 287 } } : State).nand.reserve < 288 ∧
    nfmS.nand.spare = none ∧ ({ nfmS with nand := { nfmS.nand with spare := some 0 } } : State).nand.spare = some 0 ∧ nfmS.runs .bgs = false := by decide +kernel
/-- An entry from NAP or RUN that a wake aborts; one that is saved; a sleep in HIBERNATE. -/
def pwrFrom (p : PwrPhase) (tgt from_ : Nat) : State := let s := pwrIn p tgt; { s with pwr := { s.pwr with from_ := from_ } }
theorem wit_PowerWake_forms : (pwrFrom .quiesce 2 1).pwr.from_ = 1 ∧ (pwrFrom .quiesce 2 0).pwr.from_ ≠ 1 ∧ (pwrFrom .saved 2 0).pwr.phase = .saved ∧
    (pwrS.setCur 1).pwr.phase = .none ∧ (pwrS.setCur 1).cur = 1 ∧ (pwrFrom .exiting 2 0).pwr.rtcBad = false ∧
    ({ pwrS with pwr := { pwrS.pwr with rtcBad := true } } : State).pwr.rtcBad = true ∧ canAsleep.pwr.phase = .asleep ∧ canAsleep.wakeEn 5 = true ∧
    (canAsleep.wr F.PWR_WAKE_EN_EN 0).wakeEn 5 = false ∧ canAsleep.rd (F.CAN_WK_STAT_ERRCNT 0) < 31 ∧
    32 ≤ (canAsleep.wr (F.CAN_WK_STAT_ERRCNT 0) 32).rd (F.CAN_WK_STAT_ERRCNT 0) ∧ canFdf 0x80000200 = true := by decide +kernel
/-- A measured stage 3 that is unchanged, or not; one saved measurement register. -/
def pwrMeas : State := { pwrS with pwr := { pwrS.pwr with resume := true, meas := [(R.KST_MEASr_k 0 0, 5)] } }
def pwrStage : State := { pwrS with pwr := { pwrS.pwr with resume := true, stage := some (0x1000000, 0, (sha3 []).toNat + 1) } }
theorem wit_PowerWake_resume : pwrMeas.pwr.resume = true ∧ pwrMeas.pwr.meas = [(R.KST_MEASr_k 0 0, 5)] ∧ pwrMeas.pwr.stage = none ∧
    pwrStage.pwr.stage = some (0x1000000, 0, (sha3 []).toNat + 1) ∧ (sha3 (pwrStage.bytes 0x1000000 0)).toNat ≠ (sha3 []).toNat + 1 :=
  ⟨rfl, rfl, rfl, rfl, by rw [show pwrStage.bytes 0x1000000 0 = [] from rfl]; exact (Nat.succ_ne_self _).symm⟩
/-- A second, a set's second and a period of the clock that have passed, and ones that have not. -/
def rtcTick : State := let s := rtcAt newYearsEve; { s with tb2 := 10 ^ 9 * unitsPerNs, rtc := { s.rtc with secAt := some 0, perAt := some 0, sets := s.rtc.sets.set 0 (some ⟨0, 0, 0, 0, 0, 0⟩) } }
theorem wit_RealTimeClock_pace : rtcTick.rtcLasted (rtcTick.rtc.secAt.map (· / unitsPerNs)) (10 ^ 9) = true ∧
    ({ rtcTick with tb2 := 0 } : State).rtcLasted (rtcTick.rtc.secAt.map (· / unitsPerNs)) (10 ^ 9) = false ∧
    rtcTick.rtcLasted (rtcTick.rtc.sets[(0 : Fin 6)].map (·.at_)) (10 ^ 9) = true ∧
    ({ rtcTick with tb2 := 0 } : State).rtcLasted (rtcTick.rtc.sets[(0 : Fin 6)].map (·.at_)) (10 ^ 9) = false ∧
    ((rtcTick.wr F.RTC_PER_PER 1).rtcLasted rtcTick.rtc.perAt (rtcTick.wr F.RTC_PER_PER 1).perNs) = true ∧ rtcTick.cal = newYearsEve ∧
    rtcTick.lasted rtcTick.rtc.vbatAt (60 * 10 ^ 9) = true ∧
    ({ rtcTick with rtc := { rtcTick.rtc with vbatAt := some 1 } } : State).lasted (some 1) (60 * 10 ^ 9) = false ∧
    rtcTick.rtcHalt = false ∧ rtcTick.oscStop = false ∧ rtcTick.wakeEn 7 = false ∧ rtcTick.wakeEn 8 = false := by decide +kernel
/-- The wire free for a line; the line after one that no read could fill; a replaced request; FULL_PEND; no refresh. -/
def pnlNow (l : List (Nat × LineSrc)) : State := { pnlRunning l with tb2 := 10 ^ 9 * unitsPerNs }
theorem wit_PanelDriver_paced : (pnlNow [(2, .blank), (3, .fault)]).pnl.lineAt + (pnlNow [(2, .blank)]).lineNs ≤ (pnlNow [(2, .blank)]).nowNs ∧
    (pnlRunning [(2, .blank)]).nowNs < ({ pnlRunning [(2, .blank)] with pnl := { (pnlRunning [(2, .blank)]).pnl with lineAt := 1 } } : State).pnl.lineAt +
      (pnlRunning [(2, .blank)]).lineNs ∧
    (pnlNow [(2, .blank), (3, .fault)]).pnl.run = some ⟨some 2, [(2, .blank), (3, .fault)]⟩ ∧ (pnlNow []).pnl.offPend = false ∧
    ({ pnlNow [] with pnl := { (pnlNow []).pnl with com := true } } : State).pnl.comAt + 2 * (pnlNow []).comHalf ≤ (pnlNow []).nowNs ∧
    (pnlS 1).pnlState = 1 ∧ ({ pnlS 1 with pnl := { (pnlS 1).pnl with va := true } } : State).pnl.va = true ∧
    ({ pnlReg with pnl := { pnlReg.pnl with pend := 4 } } : State).pnl.pend.getLsbD 2 = true ∧ pnlReg.rd F.PNL_AON_TIME_REFRESH_S ≠ 1 ∧
    (pnlS 2).pnl.seq = false ∧ (pnlReg.wr F.PNL_PWR_STAT_FULL_PEND 1).bit F.PNL_PWR_STAT_FULL_PEND = true := by decide +kernel
/-- A wake from HIBERNATE, a checked resume and the return of power may reset; an exit without one may not. -/
theorem wit_ResetsAndBoot_causes : (pwrIn .exiting 3).mayReset 1 = true ∧ sysS.mayReset 1 = false ∧ sysS.mayReset 2 = false ∧ sysS.mayReset 3 = true ∧
    ({ sysS with sys := { sysS.sys with ended := true } } : State).mayReset 6 = true ∧ sysS.mayReset 6 = false ∧ sysS.mayReset 0 = true ∧
    (pwrIn .exiting 3).pwr.phase = .exiting ∧ (pwrIn .exiting 3).pwr.tgt = 3 ∧ sysS.kst.staged = [] ∧
    ({ sysS with kst := { sysS.kst with staged := [7] } } : State).kst.staged = [7] := by decide +kernel
/-- Feeds below 2.55 V for 20 µs, above 2.65 V for 10 ms and above 13.0 A for 1 ms, and at the limits. -/
def feedAt (ns : Nat) : State := { feedS 0 with tb2 := ns * unitsPerNs, pwr := { (feedS 0).pwr with feedAt := Vector.replicate 2 (some 0), ocAt := Vector.replicate 2 (some 0) } }
theorem wit_FeedsAndPowerFail_limits : (feedAt 20000).lasted (feedAt 20000).pwr.feedAt[(0 : Fin 2)] 20000 = true ∧ (2549 : BitVec 16).toNat < 2550 ∧
    (feedAt 19999).lasted (feedAt 19999).pwr.feedAt[(0 : Fin 2)] 20000 = false ∧ 2650 < (2651 : BitVec 16).toNat ∧
    (feedAt 10000000).lasted (feedAt 10000000).pwr.feedAt[(1 : Fin 2)] 10000000 = true ∧ (13001 : BitVec 16).toNat > 13000 ∧
    (feedAt 1000000).lasted (feedAt 1000000).pwr.ocAt[(0 : Fin 2)] 1000000 = true ∧ (13000 : BitVec 16).toNat ≤ 13000 := by decide +kernel
theorem wit_FeedsAndPowerFail_forms : (feedS 2).pfw = false ∧ (feedS 2).pwr.off = false ∧ (pwrIn .asleep 2).pwr.phase = .asleep ∧
    ({ pwrIn .asleep 2 with pwr := { (pwrIn .asleep 2).pwr with lost := 2 } } : State).pwr.lost = 2 ∧
    ({ pfS false with sys := { (pfS false).sys with ended := true } } : State).sys.ended = true ∧ (pfS false).sys.ended = false ∧
    ((pfS true).wr F.CAD_RET_STAT_STATE 1).sys.ret = true ∧ 0 + 100000 ≤ ({ pfS true with tb2 := 100000 * unitsPerNs } : State).nowNs ∧
    ({ pfS false with pfw := false } : State).pfw = false ∧ ({ pfS false with pfw := false } : State).savesDone = true := by decide +kernel
/-- A joining standby with a replay queue. -/
theorem wit_IdleCycle_replay : (tdmReplay []).tdm.replay = [] ∧ (tdmReplay [.cmd 0 0]).tdm.replay ≠ [] ∧ (tdmReplay [.cmd 0 0]).tandem = true := by decide +kernel

end Sys2Proof.Tests
end

/-! # Every step keeps the canonical form (O59, O60)

The invariant is proved along the model: one lemma `f_tidy` for each function `f` that gives a state, in the model's order, and a
lemma cites only those of the functions that `f` calls. What remains in a lemma is `f`'s own branching, and which of its record updates
leave memory, the register map and the metering lanes alone (`State.Tidy.frame`). The only functions that write one of the three by
themselves are `regPut`, `putBytes` and `setLane`, the losses of power (a filter of the map or of memory), and the restores and
the soft reset of the lanes.

A proof forgets the value of a local state once the fact about it is known (`clear_value`): what follows rests on that fact alone, and no
comparison of two states computes what the state is. -/

section
-- One theorem after another, as for the tests: side by side, so many proofs ask for more threads than the check's memory holds.
set_option Elab.async false

namespace Sys2Proof.Machine

/-! ## The canonical form of a state -/

/-- Memory and the register map are in canonical form, and the metering lanes are where `q` holds: a restore of the totals (R309)
takes the lanes as the NAND gives them and brings them into canonical form last. -/
def State.Tidy (q : Prop) (s : State) : Prop :=
  Memory.wf s.mem = true ∧ Sparse.wf regReset s.regs = true ∧ (q → Sparse.wf (fun _ => ({} : Lane)) s.mtr.lanes = true)

/-- A state that an operation's answer holds. -/
def FstTidy (q : Prop) {α : Type} (p : State × α) : Prop := p.1.Tidy q
def SndTidy (q : Prop) {α : Type} (p : α × State) : Prop := p.2.Tidy q
/-- The state that an outcome goes on with, if any. -/
def OutTidy (q : Prop) (o : Out) : Prop := ∀ t, o = .next t → t.Tidy q
/-- The state of a register write that is a command, if it is one. -/
def OptTidy (q : Prop) (o : Option State) : Prop := ∀ t, o = some t → t.Tidy q
/-- The state that one instruction of a lane leaves; an exception's is made by `instr`. -/
def IEnd.Tidy (q : Prop) : IEnd → Prop
  | .ok s _ => s.Tidy q
  | .done s => s.Tidy q
  | .exc _ _ => True
/-- A continuation keeps the canonical form. -/
def Keeps (q : Prop) (k : State → State) : Prop := ∀ t, t.Tidy q → (k t).Tidy q
def FstKeeps (q : Prop) {α β : Type} (k : State → α → State × β) : Prop := ∀ t, t.Tidy q → ∀ x, FstTidy q (k t x)

section
variable {q : Prop} {s : State}

theorem tidy_true_iff : s.Tidy True ↔ s.Canonical := by simp [State.Tidy, State.Canonical]

/-- A state with the same memory, registers and lanes. -/
theorem State.Tidy.frame {t : State} (hm : t.mem = s.mem := by rfl) (hr : t.regs = s.regs := by rfl)
    (hl : t.mtr.lanes = s.mtr.lanes := by rfl) (hs : s.Tidy q) : t.Tidy q := by
  unfold State.Tidy; rw [hm, hr, hl]; exact hs

theorem FstTidy.tidy {α : Type} {p : State × α} (h : FstTidy q p) : p.1.Tidy q := h
theorem SndTidy.tidy {α : Type} {p : α × State} (h : SndTidy q p) : p.2.Tidy q := h
theorem fst_mk {α : Type} {x : α} (hs : s.Tidy q) : FstTidy q (s, x) := hs
theorem snd_mk {α : Type} {x : α} (hs : s.Tidy q) : SndTidy q (x, s) := hs
theorem next_tidy (hs : s.Tidy q) : OutTidy q (.next s) := fun _ e => by cases e; exact hs
theorem some_tidy (hs : s.Tidy q) : OptTidy q (some s) := fun _ e => by cases e; exact hs
theorem none_tidy : OptTidy q none := fun _ e => by cases e

theorem getD_tidy {o : Option State} (ho : OptTidy q o) (hs : s.Tidy q) : (o.getD s).Tidy q := by
  cases o with
  | none => exact hs
  | some t => exact ho t rfl

theorem ite_tidy {c : Prop} [Decidable c] {s t : State} (hs : s.Tidy q) (ht : t.Tidy q) : (if c then s else t).Tidy q := by
  split
  · exact hs
  · exact ht
theorem ite_fst_tidy {α : Type} {c : Prop} [Decidable c] {x y : State × α} (hx : FstTidy q x) (hy : FstTidy q y) :
    FstTidy q (if c then x else y) := by
  split
  · exact hx
  · exact hy
theorem ite_snd_tidy {α : Type} {c : Prop} [Decidable c] {x y : α × State} (hx : SndTidy q x) (hy : SndTidy q y) :
    SndTidy q (if c then x else y) := by
  split
  · exact hx
  · exact hy
theorem ite_opt_tidy {c : Prop} [Decidable c] {x y : Option State} (hx : OptTidy q x) (hy : OptTidy q y) :
    OptTidy q (if c then x else y) := by
  split
  · exact hx
  · exact hy
theorem map_tidy {α : Type} {o : Option α} {f : α → State} (hf : ∀ x, (f x).Tidy q) : OptTidy q (o.map f) := by
  cases o with
  | none => exact none_tidy
  | some x => exact some_tidy (hf x)
theorem ite_end_tidy {c : Prop} [Decidable c] {x y : IEnd} (hx : x.Tidy q) (hy : y.Tidy q) : IEnd.Tidy q (if c then x else y) := by
  split
  · exact hx
  · exact hy

/-- The state of an answer that is known as a pair. -/
theorem fst_tidy {α : Type} {p : State × α} {s : State} {x : α} (e : p = (s, x)) (h : FstTidy q p) : s.Tidy q := by rw [e] at h; exact h
theorem snd_tidy {α : Type} {p : α × State} {s : State} {x : α} (e : p = (x, s)) (h : SndTidy q p) : s.Tidy q := by rw [e] at h; exact h

theorem ok_tidy {i : IEnd} {s : State} {x : LaneCtx} (e : i = .ok s x) (h : i.Tidy q) : s.Tidy q := by rw [e] at h; exact h
theorem done_tidy {i : IEnd} {s : State} (e : i = .done s) (h : i.Tidy q) : s.Tidy q := by rw [e] at h; exact h

theorem foldl_tidy {α : Type} {f : State → α → State} {l : List α} (hs : s.Tidy q) (hf : ∀ t, t.Tidy q → ∀ x, (f t x).Tidy q) :
    (l.foldl f s).Tidy q := by
  induction l generalizing s with
  | nil => exact hs
  | cons x l ih => exact ih (hf s hs x)
theorem foldl_fst_tidy {α β : Type} {f : State × β → α → State × β} {l : List α} {p : State × β} (hp : FstTidy q p)
    (hf : ∀ p, FstTidy q p → ∀ x, FstTidy q (f p x)) : FstTidy q (l.foldl f p) := by
  induction l generalizing p with
  | nil => exact hp
  | cons x l ih => exact ih (hf p hp x)

theorem foldl_snd_tidy {α β : Type} {f : β × State → α → β × State} {l : List α} {p : β × State} (hp : SndTidy q p)
    (hf : ∀ p, SndTidy q p → ∀ x, SndTidy q (f p x)) : SndTidy q (l.foldl f p) := by
  induction l generalizing p with
  | nil => exact hp
  | cons x l ih => exact ih (hf p hp x)

/-! ## Writes of the register map, of memory and of the lanes -/

theorem regPut_tidy (hs : s.Tidy q) {a v} : (s.regPut a v).Tidy q := ⟨hs.1, sparse_wf_put regReset s.regs a v hs.2.1, hs.2.2⟩
theorem putBytes_tidy (hs : s.Tidy q) {a bs} : (s.putBytes a bs).Tidy q := ⟨putBytes_wf s a bs hs.1, hs.2⟩
theorem setLane_tidy (hs : s.Tidy q) {n x} : (s.setLane n x).Tidy q :=
  ⟨hs.1, hs.2.1, fun h => sparse_wf_put (fun _ => ({} : Lane)) s.mtr.lanes n x (hs.2.2 h)⟩

/-! ### Machine/Ops: The register file -/

theorem wr_tidy (hs : s.Tidy q) {f v} : (s.wr f v).Tidy q := regPut_tidy hs

theorem wrB_tidy (hs : s.Tidy q) {f v} : (s.wrB f v).Tidy q := wr_tidy hs

theorem incSat_tidy (hs : s.Tidy q) {f} : (s.incSat f).Tidy q := wr_tidy hs

theorem incWrap_tidy (hs : s.Tidy q) {f} : (s.incWrap f).Tidy q := wr_tidy hs

/-! ### Machine/Ops: Power, halt and soft-reset marks -/

theorem freezePoint_tidy (hs : s.Tidy q) {b} : (s.freezePoint b).Tidy q := ite_tidy hs.frame hs

theorem whileLive_tidy (hs : s.Tidy q) {b} {k : State → State} (hk : Keeps q k) : (s.whileLive b k).Tidy q :=
  ite_tidy hs (hk _ hs)

/-! ### Machine/Ops: Causes, errors and events -/

theorem raise_tidy (hs : s.Tidy q) {b n} : (s.raise b n).Tidy q := ite_tidy hs (regPut_tidy hs)

theorem err_tidy (hs : s.Tidy q) {b code woff} : (s.err b code woff).Tidy q := raise_tidy (incSat_tidy (wr_tidy (wr_tidy hs)))

theorem clearRaw_tidy (hs : s.Tidy q) {b v} : (s.clearRaw b v).Tidy q := ite_tidy (wr_tidy (regPut_tidy hs)) (regPut_tidy hs)

theorem evrDrop_tidy (hs : s.Tidy q) {sev} : (s.evrDrop sev).Tidy q := raise_tidy (incSat_tidy hs.frame)

theorem send_tidy (hs : s.Tidy q) {e} : (s.send e).Tidy q := ite_tidy hs.frame (evrDrop_tidy hs)

theorem event_tidy (hs : s.Tidy q) {b n sev p0 p1 p2 p3} : (s.event b n sev p0 p1 p2 p3).Tidy q := send_tidy hs

theorem raiseEv_tidy (hs : s.Tidy q) {b n} : (s.raiseEv b n).Tidy q := event_tidy (raise_tidy hs)

theorem errEv_tidy (hs : s.Tidy q) {b code woff} : (s.errEv b code woff).Tidy q := event_tidy (err_tidy hs)

theorem plainEv_tidy (hs : s.Tidy q) {b} : (s.plainEv b).Tidy q := event_tidy hs

/-! ### Machine/Ops: Responses -/

theorem reply_tidy (hs : s.Tidy q) {d} : (s.reply d).Tidy q := hs.frame

theorem replyErr_tidy (hs : s.Tidy q) : s.replyErr.Tidy q := hs.frame

/-! ### Machine/Ops: Shadows and field writes -/

theorem sumPend_tidy (hs : s.Tidy q) {b} : (s.sumPend b).Tidy q := wr_tidy hs

theorem commit_tidy (hs : s.Tidy q) {b p} : (s.commit b p).Tidy q := by
  unfold State.commit
  extract_lets mine s1
  have hs1 : s1.Tidy q := by
    unfold s1
    refine foldl_tidy hs (fun s11 hs11 x => ?_)
    split
    exact ite_tidy hs11 (sumPend_tidy (wr_tidy hs11))
  exact hs1.frame

theorem commitBlk_tidy (hs : s.Tidy q) {b} : (s.commitBlk b).Tidy q := commit_tidy hs

theorem writeField_tidy (hs : s.Tidy q) {m b a fs v} : FstTidy q (s.writeField m b a fs v) := by
  unfold State.writeField
  extract_lets f x noMon s1
  have hs1 : s1.Tidy q := hs.frame
  split
  · exact fst_mk hs
  · exact fst_mk hs
  · exact fst_mk hs
  · exact ite_fst_tidy (fst_mk hs) (ite_fst_tidy (fst_mk hs) (ite_fst_tidy (fst_mk (clearRaw_tidy hs)) (fst_mk (regPut_tidy hs))))
  · exact ite_fst_tidy (fst_mk hs) (ite_fst_tidy (fst_mk hs) (ite_fst_tidy (fst_mk hs) (ite_fst_tidy (fst_mk (regPut_tidy hs))
        (fst_mk hs))))
  · exact ite_fst_tidy (fst_mk hs) (ite_fst_tidy (fst_mk hs) (ite_fst_tidy (fst_mk hs) (ite_fst_tidy (fst_mk hs) (fst_mk (wr_tidy
        hs)))))
  · exact ite_fst_tidy (fst_mk hs) (ite_fst_tidy (fst_mk hs) (ite_fst_tidy (fst_mk hs) (ite_fst_tidy (fst_mk hs) (fst_mk
        (sumPend_tidy (wr_tidy hs))))))
  · exact ite_fst_tidy (fst_mk hs) (ite_fst_tidy (fst_mk hs) (ite_fst_tidy (fst_mk hs) (ite_fst_tidy (fst_mk hs.frame) (fst_mk
        (ite_tidy hs1 (sumPend_tidy (wr_tidy hs1)))))))

theorem writeFields_tidy (hs : s.Tidy q) {m b a v l c} : FstTidy q (s.writeFields m b a v l c) := by
  induction l generalizing s c with
  | nil => exact hs
  | cons f t ih => exact ih (writeField_tidy hs)

theorem gate_tidy (hs : s.Tidy q) {m b a} {k : State → State} (hk : Keeps q k) : (s.gate m b a k).Tidy q :=
  ite_tidy (replyErr_tidy hs) (ite_tidy (reply_tidy (err_tidy hs)) (ite_tidy (replyErr_tidy (err_tidy hs)) (hk _ (reply_tidy hs))))

theorem gateRead_tidy (hs : s.Tidy q) {b a} {k : State → State} (hk : Keeps q k) : (s.gateRead b a k).Tidy q :=
  ite_tidy (replyErr_tidy hs) (ite_tidy (reply_tidy hs) (hk _ hs))

theorem writeReg_tidy (hs : s.Tidy q) {m b a v} : (s.writeReg m b a v).Tidy q := by
  unfold State.writeReg
  refine gate_tidy hs (fun s1 hs1 => ?_)
  split
  rename_i x s11 c1 e
  have hs11 : s11.Tidy q := fst_tidy e (writeFields_tidy hs1)
  exact ite_tidy hs11 (err_tidy hs11)

/-! ### Machine/Ops: Time -/

theorem useReserve_tidy (hs : s.Tidy q) {n} : (s.useReserve n).Tidy q := ite_tidy hs.frame hs

/-! ### Machine/Ops: Free values -/

theorem draw_tidy (hs : s.Tidy q) : SndTidy q s.draw := snd_mk hs.frame

/-! ### Machine/Ops: Requests to the key store (R408) -/

theorem askKst_tidy (hs : s.Tidy q) {r} : (s.askKst r).Tidy q := hs.frame

/-! ### Machine/Mem -/

theorem wrLe_tidy (hs : s.Tidy q) {a n v} : (s.wrLe a n v).Tidy q := putBytes_tidy hs

theorem useTiles_tidy (hs : s.Tidy q) : s.useTiles.Tidy q := hs.frame

theorem memRead_tidy (hs : s.Tidy q) {a n} : SndTidy q (s.memRead a n) := by
  unfold State.memRead
  split
  · split
    rename_i x v s1 e
    exact snd_mk (snd_tidy e (draw_tidy hs))
  · exact snd_mk hs

theorem dropModel_tidy (hs : s.Tidy q) : s.dropModel.Tidy q := (foldl_tidy (wr_tidy (wr_tidy (wr_tidy hs))) fun _ h1 _ => wr_tidy h1).frame

theorem tileFault_tidy (hs : s.Tidy q) {tile slots} : (s.tileFault tile slots).Tidy q :=
  (foldl_tidy (dropModel_tidy (err_tidy (incSat_tidy hs))) fun _ h1 _ => ite_tidy (wr_tidy h1) h1).frame

theorem ueSeen_tidy (hs : s.Tidy q) {w} : (s.ueSeen w).Tidy q := by
  unfold State.ueSeen
  split
  · split
    rename_i x v s1 e
    exact tileFault_tidy (snd_tidy e (draw_tidy hs))
  · exact event_tidy (err_tidy (raise_tidy ((wr_tidy (regPut_tidy (incSat_tidy hs))).frame)))

/-! ### Machine/Mem: Translation (R442 to R447) -/

theorem cacheXlt_tidy (hs : s.Tidy q) {e} : (s.cacheXlt e).Tidy q := hs.frame

theorem xlate_tidy (hs : s.Tidy q) {ctx wr va} : FstTidy q (s.xlate ctx wr va) := by
  unfold State.xlate
  extract_lets mode vpn fin
  split
  · exact fst_mk hs
  · split
    · exact fst_mk hs
    · split
      · exact fst_mk hs
      · split
        · exact fst_mk hs
        · split
          · exact fst_mk hs
          · split
            · exact fst_mk hs
            · exact fst_mk (ueSeen_tidy hs)
            · exact fst_mk (cacheXlt_tidy hs)

theorem xltFault_tidy (hs : s.Tidy q) {ctx cause wr va} : (s.xltFault ctx cause wr va).Tidy q := by
  unfold State.xltFault
  extract_lets src s1 src1
  have hs1 : s1.Tidy q := raise_tidy (incSat_tidy hs.frame)
  exact ite_tidy hs1.frame (raise_tidy (incSat_tidy hs1))

theorem readCuts_tidy (hs : s.Tidy q) {ctx l} : FstTidy q (s.readCuts ctx l) := by
  induction l generalizing s with
  | nil => exact hs
  | cons x l ih =>
    unfold State.readCuts
    split
    · rename_i s1 c e
      exact xltFault_tidy (fst_tidy e (xlate_tidy hs))
    · rename_i s1 pa e
      have hs1 : s1.Tidy q := fst_tidy e (xlate_tidy hs)
      refine ite_fst_tidy hs1 ?_
      split
      · exact ueSeen_tidy hs1
      · exact ih (memRead_tidy hs1)

theorem dmaRead_tidy (hs : s.Tidy q) {ctx va n} : FstTidy q (s.dmaRead ctx va n) := fst_mk ((readCuts_tidy hs).tidy)

theorem store_tidy (hs : s.Tidy q) {a bs} : (s.store a bs).Tidy q := (putBytes_tidy (foldl_tidy hs fun _ h1 _ => ueSeen_tidy h1)).frame

theorem writeCuts_tidy (hs : s.Tidy q) {ctx bs l} : FstTidy q (s.writeCuts ctx bs l) := by
  induction l generalizing s bs with
  | nil => exact hs
  | cons x l ih =>
    unfold State.writeCuts
    split
    · rename_i s1 c e
      exact xltFault_tidy (fst_tidy e (xlate_tidy hs))
    · rename_i s1 pa e
      have hs1 : s1.Tidy q := fst_tidy e (xlate_tidy hs)
      exact ite_fst_tidy hs1 (ih (store_tidy hs1))

theorem dmaWrite_tidy (hs : s.Tidy q) {ctx va bs} : FstTidy q (s.dmaWrite ctx va bs) := fst_mk ((writeCuts_tidy hs).tidy)

/-! ### Machine/Operands: Instance memory (R76 to R78) -/

theorem putLive_tidy (hs : s.Tidy q) {slot v st} : (s.putLive slot v st).Tidy q := wrLe_tidy (wrLe_tidy hs)

/-! ### Machine/Operands: Contexts, tasks and lanes (R80, R83, R114) -/

theorem setCtx_tidy (hs : s.Tidy q) {c x} : (s.setCtx c x).Tidy q := hs.frame

theorem setTask_tidy (hs : s.Tidy q) {n t} : (s.setTask n t).Tidy q := hs.frame

theorem nextWave_tidy (hs : s.Tidy q) {n l} : (s.nextWave n l).Tidy q := by
  induction l with
  | nil => exact setTask_tidy hs
  | cons w l ih => exact ite_tidy ih (setTask_tidy hs)

theorem fillOne_tidy (hs : s.Tidy q) {n c} : (s.fillOne n c).Tidy q := by
  unfold State.fillOne
  split
  · exact hs
  · split
    · exact setCtx_tidy (setTask_tidy hs)
    · split
      · exact setCtx_tidy (setTask_tidy hs)
      · exact hs

theorem dispatch_tidy (hs : s.Tidy q) : s.dispatch.Tidy q := by
  unfold State.dispatch
  split
  · exact hs
  · split
    · exact hs
    · exact foldl_tidy (ite_tidy (nextWave_tidy hs) hs) fun _ h1 _ => fillOne_tidy h1

theorem preempt_tidy (hs : s.Tidy q) {n} : (s.preempt n).Tidy q := foldl_tidy hs fun _ h1 _ => ite_tidy (setCtx_tidy (setTask_tidy h1)) h1

/-! ### Machine/Operands: Running one instruction -/

theorem freeCtx_tidy (hs : s.Tidy q) {c} : (s.freeCtx c).Tidy q := dispatch_tidy (setCtx_tidy hs)

theorem abortCtx_tidy (hs : s.Tidy q) {c code arg} : (s.abortCtx c code arg).Tidy q := by
  unfold State.abortCtx
  extract_lets x pol fault t e s1 src s2 src1 s3 s4
  have hs1 : s1.Tidy q := setTask_tidy hs
  have hs2 : s2.Tidy q := ite_tidy hs1.frame hs1
  have hs3 : s3.Tidy q := ite_tidy hs2.frame hs2
  exact freeCtx_tidy (ite_tidy (err_tidy hs3) hs3)

theorem instr_tidy (hs : s.Tidy q) {c} {k : State → LaneCtx → IEnd} (hk : ∀ t : State, t.Tidy q → ∀ x, IEnd.Tidy q (k t x)) :
    (s.instr c k).Tidy q := by
  unfold State.instr
  refine whileLive_tidy hs (fun s1 hs1 => ?_)
  extract_lets x
  split
  · exact hs1
  · split
    · exact abortCtx_tidy hs1
    · split
      · exact abortCtx_tidy hs1
      · split
        · rename_i x1 s11 x11 e
          exact setCtx_tidy (ok_tidy e (hk _ hs1 _))
        · rename_i x1 s11 e
          exact freeCtx_tidy (done_tidy e (hk _ hs1 _))
        · rename_i x1 code arg e
          exact abortCtx_tidy hs1

theorem stick_tidy (hs : s.Tidy q) {x f} : (s.stick x f).Tidy q := ite_tidy hs (setTask_tidy hs)

theorem alu_tidy (hs : s.Tidy q) {c rd f} : (s.alu c rd f).Tidy q := instr_tidy hs (fun _ h1 _ => stick_tidy h1)

/-! ### Machine/Operands: Slots (R78 to R80, R88, R135) -/

theorem noteWave_tidy (hs : s.Tidy q) {n inst slot} : (s.noteWave n inst slot).Tidy q :=
  foldl_tidy hs fun _ h1 _ => ite_tidy h1 (ite_tidy (ite_tidy (setTask_tidy h1) h1) (setTask_tidy h1))

theorem writeSlot_tidy (hs : s.Tidy q) {x slot v st} : FstTidy q (s.writeSlot x slot v st) :=
  ite_fst_tidy (fst_mk hs) (fst_mk (putLive_tidy (noteWave_tidy hs)))

theorem storeSlot_tidy (hs : s.Tidy q) {x slot v q1} : IEnd.Tidy q (s.storeSlot x slot v q1) := by
  unfold State.storeSlot
  extract_lets b e
  split
  · exact trivial
  · split
    · exact trivial
    · split
      · exact trivial
      · split
        · split
          split
          rename_i x1 s1 x11 e1
          exact setTask_tidy (fst_tidy e1 (writeSlot_tidy hs))
        · split
          rename_i x1 s1 x11 e1
          exact fst_tidy e1 (writeSlot_tidy hs)

/-! ### Machine/Operands: Instance data (R89) -/

theorem loadData_tidy (hs : s.Tidy q) {c rd rs1 imm w f} : (s.loadData c rd rs1 imm w f).Tidy q := by
  unfold State.loadData
  refine instr_tidy hs (fun s1 hs1 x => ?_)
  split
  · exact trivial
  · exact hs1

theorem storeData_tidy (hs : s.Tidy q) {c rd rs1 imm w} : (s.storeData c rd rs1 imm w).Tidy q := by
  unfold State.storeData
  refine instr_tidy hs (fun s1 hs1 x => ?_)
  split
  · exact trivial
  · exact wrLe_tidy hs1

theorem branchIf_tidy (hs : s.Tidy q) {c off p} : (s.branchIf c off p).Tidy q := instr_tidy hs (fun _ h1 _ => h1)

/-! ### Machine/CadFlow -/

theorem timer_tidy (hs : s.Tidy q) {c rd rs1 off f} : (s.timer c rd rs1 off f).Tidy q :=
  instr_tidy hs (fun _ h1 _ => ite_end_tidy trivial (ite_end_tidy trivial (ite_end_tidy trivial (wrLe_tidy (wrLe_tidy h1)))))

theorem edge_tidy (hs : s.Tidy q) {c rd rs1 off f} : (s.edge c rd rs1 off f).Tidy q := by
  unfold State.edge
  refine instr_tidy hs (fun s1 hs1 x => ?_)
  split
  · exact trivial
  · exact wrLe_tidy hs1

theorem execLoop_tidy (hs : s.Tidy q) {c rs1 bound len} : OutTidy q (execLoop c rs1 bound len s) :=
  next_tidy (instr_tidy hs (fun _ h1 _ => ite_end_tidy trivial (ite_end_tidy trivial (ite_end_tidy h1 h1))))

theorem execLidx_tidy (hs : s.Tidy q) {c rd} : OutTidy q (execLidx c rd s) := next_tidy (instr_tidy hs (fun _ h1 _ => h1))

theorem execCall_tidy (hs : s.Tidy q) {c rs1 imm} : OutTidy q (execCall c rs1 imm s) := by
  unfold execCall
  refine next_tidy (instr_tidy hs fun s1 hs1 x => ?_)
  extract_lets b o i
  split
  · exact trivial
  · exact ite_end_tidy trivial (ite_end_tidy trivial (ite_end_tidy hs1 hs1))

theorem execRet_tidy (hs : s.Tidy q) {c} : OutTidy q (execRet c s) := by
  unfold execRet
  refine next_tidy (instr_tidy hs fun s1 hs1 x => ?_)
  split
  · exact hs1
  · exact hs1

theorem execTrap_tidy (hs : s.Tidy q) {c imm} : OutTidy q (execTrap c imm s) := next_tidy (instr_tidy hs (fun _ _ _ => trivial))

theorem execAssert_tidy (hs : s.Tidy q) {c rs1 imm} : OutTidy q (execAssert c rs1 imm s) :=
  next_tidy (instr_tidy hs (fun _ h1 _ => ite_end_tidy trivial h1))

theorem post_tidy (hs : s.Tidy q) {x k} : (s.post x k).Tidy q := setTask_tidy hs

theorem execEvt_tidy (hs : s.Tidy q) {c rd rs1 imm} : OutTidy q (execEvt c rd rs1 imm s) :=
  next_tidy (instr_tidy hs (fun _ h1 _ => post_tidy h1))

theorem execNop_tidy (hs : s.Tidy q) {c} : OutTidy q (execNop c s) := next_tidy (instr_tidy hs (fun _ h1 _ => h1))

theorem execIllegal_tidy (hs : s.Tidy q) {c} : OutTidy q (execIllegal c s) := next_tidy (instr_tidy hs (fun _ _ _ => trivial))

/-! ### Machine/FabItem: The fabric (R430 to R437) -/

theorem showUse_tidy (hs : s.Tidy q) : s.showUse.Tidy q := ite_tidy hs.frame (wr_tidy (wr_tidy hs.frame))

/-! ### Machine/FabItem: Items (R432, R433, R438) -/

theorem enter_tidy (hs : s.Tidy q) {x} : (s.enter x).Tidy q := ite_tidy hs.frame hs.frame

theorem issueItem_tidy (hs : s.Tidy q) {x} : (s.issueItem x).Tidy q :=
  ite_tidy hs (ite_tidy (showUse_tidy hs.frame) (ite_tidy (showUse_tidy (enter_tidy hs)) (showUse_tidy hs.frame)))

/-! ### Machine/Outputs -/

theorem faultLevel_tidy (hs : s.Tidy q) {g} : (s.faultLevel g).Tidy q := ite_tidy (raiseEv_tidy (wrB_tidy hs)) (wrB_tidy hs)

theorem driveOne_tidy (hs : s.Tidy q) {n} : (s.driveOne n).Tidy q := ite_tidy hs (ite_tidy ((wrB_tidy hs).frame) ((wrB_tidy hs).frame))

theorem drive_tidy (hs : s.Tidy q) : s.drive.Tidy q := faultLevel_tidy (faultLevel_tidy (foldl_tidy hs fun _ h1 _ => driveOne_tidy h1))

/-! ### Machine/TdmOps -/

theorem sendTdm_tidy (hs : s.Tidy q) {b} : (s.sendTdm b).Tidy q := hs.frame

theorem emit_tidy (hs : s.Tidy q) {e} : (s.emit e).Tidy q := ite_tidy (sendTdm_tidy hs) hs

theorem nextPeriod_tidy (hs : s.Tidy q) : s.nextPeriod.Tidy q := hs.frame

theorem switched_tidy (hs : s.Tidy q) : s.switched.Tidy q := by
  unfold State.switched
  split
  · exact hs
  · exact (wr_tidy hs).frame

theorem gatePair_tidy (hs : s.Tidy q) {m b a} {k : State → State} (hk : Keeps q k) : (s.gatePair m b a k).Tidy q :=
  gate_tidy hs (fun _ h1 => ite_tidy (err_tidy h1) (hk _ h1))

theorem leaveStep_tidy (hs : s.Tidy q) {reason} : (s.leaveStep reason).Tidy q := ite_tidy (raise_tidy (wr_tidy (wr_tidy hs))) hs

theorem loseInstants_tidy (hs : s.Tidy q) : s.loseInstants.Tidy q := ite_tidy (raise_tidy (wr_tidy hs.frame)) hs.frame

theorem stopMaster_tidy (hs : s.Tidy q) {st} : (s.stopMaster st).Tidy q := loseInstants_tidy (wr_tidy hs.frame)

theorem enterFault_tidy (hs : s.Tidy q) : s.enterFault.Tidy q := drive_tidy (wr_tidy (wr_tidy hs))

theorem autoFault_tidy (hs : s.Tidy q) : s.autoFault.Tidy q := ite_tidy (enterFault_tidy (ite_tidy (stopMaster_tidy hs) hs)) hs

theorem selfTestFail_tidy (hs : s.Tidy q) {n} : (s.selfTestFail n).Tidy q :=
  autoFault_tidy (ite_tidy (leaveStep_tidy (raiseEv_tidy hs.frame)) (raiseEv_tidy hs.frame))

/-! ### Machine/Slv: Templates, jobs and their marks -/

theorem setTpl_tidy (hs : s.Tidy q) {t x} : (s.setTpl t x).Tidy q := ite_tidy hs.frame (emit_tidy hs.frame)

theorem slvMarks_tidy (hs : s.Tidy q) : s.slvMarks.Tidy q := by
  unfold State.slvMarks
  extract_lets s1
  have hs1 : s1.Tidy q := by
    unfold s1
    split
    · exact wr_tidy hs
    · exact wr_tidy (wr_tidy (wr_tidy (wr_tidy hs)))
  exact foldl_tidy hs1 fun _ h1 _ => wrB_tidy (wrB_tidy h1)

theorem setRun_tidy (hs : s.Tidy q) {j} : (s.setRun j).Tidy q := slvMarks_tidy hs.frame

theorem putJob_tidy (hs : s.Tidy q) {j} : (s.putJob j).Tidy q := by
  unfold State.putJob
  exact slvMarks_tidy hs.frame

theorem dropJob_tidy (hs : s.Tidy q) {t} : (s.dropJob t).Tidy q := by
  unfold State.dropJob
  exact slvMarks_tidy hs.frame

theorem rejectJob_tidy (hs : s.Tidy q) {t reason} : (s.rejectJob t reason).Tidy q :=
  incSat_tidy (wr_tidy (wr_tidy (raise_tidy (setTpl_tidy hs))))

theorem acceptJob_tidy (hs : s.Tidy q) {t deadline} : FstTidy q (s.acceptJob t deadline) :=
  ite_fst_tidy (fst_mk hs) (ite_fst_tidy (fst_mk (rejectJob_tidy (setTpl_tidy hs))) (ite_fst_tidy (fst_mk (rejectJob_tidy (setTpl_tidy
      hs))) (ite_fst_tidy (fst_mk (rejectJob_tidy (setTpl_tidy hs))) (fst_mk (slvMarks_tidy ((setTpl_tidy (setTpl_tidy hs)).frame))))))

theorem execSlvSubmit_tidy (hs : s.Tidy q) {m tpl dlRel} : OutTidy q (execSlvSubmit m tpl dlRel s) := by
  unfold execSlvSubmit
  refine next_tidy (gate_tidy hs fun s1 hs1 => ?_)
  split
  rename_i x s11 c1 e
  exact wr_tidy (wr_tidy (wr_tidy (fst_tidy e (acceptJob_tidy hs1))))

/-! ### Machine/Slv: Stalls (R276) -/

theorem stallJob_tidy (hs : s.Tidy q) {t at_ wr va} : (s.stallJob t at_ wr va).Tidy q :=
  (raise_tidy (wr_tidy (wr_tidy (wr_tidy (wrB_tidy (wr_tidy hs)))))).frame

theorem unstall_tidy (hs : s.Tidy q) : s.unstall.Tidy q := (wr_tidy (ite_tidy (wr_tidy hs) hs)).frame

/-! ### Machine/Slv: Outcomes (R242, R243, R260, R269, R274) -/

theorem finishJob_tidy (hs : s.Tidy q) {j stop st} : (s.finishJob j stop st).Tidy q :=
  raise_tidy (ite_tidy (err_tidy (setTpl_tidy (dropJob_tidy hs))) (ite_tidy (incSat_tidy (err_tidy (setTpl_tidy (dropJob_tidy hs))))
      (ite_tidy (incSat_tidy (setTpl_tidy (dropJob_tidy hs))) (setTpl_tidy (dropJob_tidy hs)))))

theorem stallOut_tidy (hs : s.Tidy q) {j stop wr va n} : (s.stallOut j stop wr va n).Tidy q := stallJob_tidy (putJob_tidy hs)

theorem copyWindow_tidy (hs : s.Tidy q) {j out} : FstTidy q (s.copyWindow j out) := by
  unfold State.copyWindow
  extract_lets x
  split
  · exact fst_mk (setTpl_tidy hs)
  · split
    · rename_i x1 s1 e
      exact fst_mk (fst_tidy e (dmaRead_tidy hs))
    · rename_i x1 s1 bs e
      have hs1 : s1.Tidy q := fst_tidy e (dmaRead_tidy hs)
      split
      · rename_i x2 s2 e1
        exact fst_mk (fst_tidy e1 (dmaWrite_tidy hs1))
      · rename_i x2 s2 e1
        exact fst_mk (setTpl_tidy (fst_tidy e1 (dmaWrite_tidy hs1)))

theorem writeOutcome_tidy (hs : s.Tidy q) {j p stop} : (s.writeOutcome j p stop).Tidy q := by
  unfold State.writeOutcome
  extract_lets out vec fin bs m hist hlen slotA hbs doHist st
  split
  · rename_i x s2 e
    exact stallOut_tidy (fst_tidy e (dmaWrite_tidy hs))
  · rename_i x s2 e
    have hs2 : s2.Tidy q := fst_tidy e (dmaWrite_tidy hs)
    split
    · rename_i x1 s21 e1
      exact stallOut_tidy (fst_tidy e1 (ite_fst_tidy (dmaWrite_tidy hs2) (fst_mk hs2)))
    · rename_i x1 s21 e1
      have hs21 : s21.Tidy q := fst_tidy e1 (ite_fst_tidy (dmaWrite_tidy hs2) (fst_mk hs2))
      split
      · rename_i x2 s3 wr va n e2
        exact stallOut_tidy (fst_tidy e2 (ite_fst_tidy (copyWindow_tidy hs21) (fst_mk hs21)))
      · rename_i x2 s3 e2
        exact finishJob_tidy (fst_tidy e2 (ite_fst_tidy (copyWindow_tidy hs21) (fst_mk hs21)))

theorem endJob_tidy (hs : s.Tidy q) {j stop} : (s.endJob j stop).Tidy q := by
  unfold State.endJob
  split
  · exact putJob_tidy hs
  · split
    · exact writeOutcome_tidy hs
    · extract_lets x
      split
      · rename_i x1 s1 p e
        exact writeOutcome_tidy (fst_tidy e (dmaRead_tidy hs))
      · rename_i x1 s1 e
        exact stallOut_tidy (fst_tidy e (dmaRead_tidy hs))

theorem stopJob_tidy (hs : s.Tidy q) {j stop} : (s.stopJob j stop).Tidy q := ite_tidy hs (ite_tidy (putJob_tidy hs) (endJob_tidy hs))

theorem stopStalled_tidy (hs : s.Tidy q) {j stop} : (s.stopStalled j stop).Tidy q := by
  unfold State.stopStalled
  split
  · exact stopJob_tidy hs
  · exact ite_tidy (stopJob_tidy hs) (ite_tidy (endJob_tidy ((unstall_tidy hs).frame)) (stopJob_tidy (unstall_tidy hs)))

/-! ### Machine/Slv: The model (R235) -/

theorem loadModel_tidy (hs : s.Tidy q) {m} : FstTidy q (s.loadModel m) := by
  unfold State.loadModel
  split
  extract_lets s1 s2 s3 src src1
  have hs1 : s1.Tidy q := wr_tidy (wr_tidy hs)
  have hs2 : s2.Tidy q := foldl_tidy hs1 fun _ h1 _ => wr_tidy h1
  have hs3 : s3.Tidy q := wr_tidy (wr_tidy (wr_tidy hs2))
  have hsrc : src.Tidy q := useTiles_tidy hs3
  clear_value s1 s2 s3 src src1
  exact ite_fst_tidy (fst_mk (err_tidy (raise_tidy (dropModel_tidy hs1)))) (fst_mk hsrc.frame)

theorem rdBlk_tidy (hs : s.Tidy q) {va n} {k : State → List Byte → State × StartRes} (hk : FstKeeps q k) :
    FstTidy q (s.rdBlk va n k) := by
  unfold State.rdBlk
  split
  · rename_i x s1 e
    exact fst_mk (fst_tidy e (dmaRead_tidy hs))
  · rename_i x s1 bs e
    exact hk _ (fst_tidy e (dmaRead_tidy hs)) _

theorem fetchModel_tidy (hs : s.Tidy q) {va n} {k : State → List Byte → State × StartRes} (hk : FstKeeps q k) :
    FstTidy q (s.fetchModel va n k) := by
  unfold State.fetchModel
  split
  · rename_i x s1 e
    exact fst_mk (wr_tidy (dropModel_tidy (fst_tidy e (dmaRead_tidy hs))))
  · rename_i x s1 bs e
    have hs1 : s1.Tidy q := fst_tidy e (dmaRead_tidy hs)
    split
    · rename_i x1 s2 e1
      exact hk _ (fst_tidy e1 (loadModel_tidy hs1)) _
    · rename_i x1 s2 e1
      exact fst_mk (fst_tidy e1 (loadModel_tidy hs1))

theorem withModel_tidy (hs : s.Tidy q) {va} {k : State → List Byte → State × StartRes} (hk : FstKeeps q k) :
    FstTidy q (s.withModel va k) := by
  unfold State.withModel
  refine rdBlk_tidy hs (fun s1 hs1 h => ?_)
  split
  · exact ite_fst_tidy (hk _ hs1 _) (fetchModel_tidy hs1 hk)
  · exact fetchModel_tidy hs1 hk

theorem withStruct_tidy (hs : s.Tidy q) {va} {k : State → List Byte → State × StartRes} (hk : FstKeeps q k) :
    FstTidy q (s.withStruct va k) :=
  rdBlk_tidy hs (fun _ h1 _ => rdBlk_tidy h1 hk)

theorem withRplan_tidy (hs : s.Tidy q) {va} {k : State → List Byte → State × StartRes} (hk : FstKeeps q k) :
    FstTidy q (s.withRplan va k) :=
  rdBlk_tidy hs (fun _ h1 _ => rdBlk_tidy h1 hk)

theorem startEst_tidy (hs : s.Tidy q) {j p} : FstTidy q (s.startEst j p) := by
  unfold State.startEst
  refine withModel_tidy hs (fun s1 hs1 m => ?_)
  refine withRplan_tidy hs1 (fun s11 hs11 r => ?_)
  extract_lets f work
  split
  · exact fst_mk hs11
  · split
    · exact fst_mk hs11
    · exact ite_fst_tidy (fst_mk hs11) (rdBlk_tidy hs11 (fun _ h1 _ => ite_fst_tidy (fst_mk h1) (rdBlk_tidy h1 (fun _ h2 _ =>
          rdBlk_tidy h2 (fun _ h3 _ => ite_fst_tidy (fst_mk h3) (rdBlk_tidy h3 (fun _ h4 _ => rdBlk_tidy h4 (fun _ h5 _ => fst_mk
              h5))))))))

theorem startLsq_tidy (hs : s.Tidy q) {j p} : FstTidy q (s.startLsq j p) :=
  withStruct_tidy hs (fun _ h1 _ => withRplan_tidy h1 (fun _ h2 _ => ite_fst_tidy (fst_mk h2) (ite_fst_tidy (fst_mk h2) (rdBlk_tidy h2
      (fun _ h3 _ => rdBlk_tidy h3 (fun _ h4 _ => ite_fst_tidy (fst_mk h4) (fst_mk h4)))))))

theorem startQp_tidy (hs : s.Tidy q) {j p} : FstTidy q (s.startQp j p) := by
  unfold State.startQp
  extract_lets n m k
  refine withStruct_tidy hs (fun s1 hs1 st => ?_)
  refine withRplan_tidy hs1 (fun s11 hs11 r => ?_)
  refine rdBlk_tidy hs11 (fun s12 hs12 lu => ?_)
  split
  · exact fst_mk hs12
  · split
    · exact fst_mk hs12
    · refine rdBlk_tidy hs12 (fun s13 hs13 pa => ?_)
      refine rdBlk_tidy hs13 (fun s14 hs14 aa => ?_)
      extract_lets key rest
      have hrest : ∀ t : State, t.Tidy q → ∀ q1, ∀ w, FstTidy q (rest t q1 w) := fun _ h1 _ _ => ite_fst_tidy (fst_mk h1)
          (ite_fst_tidy (fst_mk h1) (ite_fst_tidy (fst_mk h1) (fst_mk h1)))
      exact ite_fst_tidy (hrest _ hs14 _ _) (rdBlk_tidy hs14 (fun _ h1 _ => ite_fst_tidy (rdBlk_tidy h1 (fun _ h2 _ => hrest _ h2 _
          _)) (hrest _ h1 _ _)))

theorem startChecks_tidy (hs : s.Tidy q) {j} : FstTidy q (s.startChecks j) :=
  rdBlk_tidy hs (fun _ h1 _ => ite_fst_tidy (fst_mk h1) (ite_fst_tidy (startEst_tidy h1) (ite_fst_tidy (startLsq_tidy h1) (startQp_tidy
      h1))))

theorem startJob_tidy (hs : s.Tidy q) {j} : (s.startJob j).Tidy q := by
  unfold State.startJob
  extract_lets src src1 s0 lat s1 j1
  have hs0 : s0.Tidy q := setTpl_tidy hs.frame
  have hs1 : s1.Tidy q := ite_tidy (wr_tidy hs0) hs0
  split
  · rename_i x s2 j2 e
    exact setRun_tidy (useTiles_tidy (fst_tidy e (startChecks_tidy hs1)))
  · rename_i x s2 r e
    exact rejectJob_tidy (setRun_tidy (fst_tidy e (startChecks_tidy hs1)))
  · rename_i x s2 va e
    exact stallJob_tidy (setRun_tidy (fst_tidy e (startChecks_tidy hs1)))

/-! ### Machine/Slv: Selection and pre-emption (R264, R270, R271) -/

theorem serveJob_tidy (hs : s.Tidy q) {j} : (s.serveJob j).Tidy q := ite_tidy (setRun_tidy hs.frame) (startJob_tidy hs)

theorem execJobStart_tidy (hs : s.Tidy q) : OutTidy q (execJobStart s) := by
  unfold execJobStart
  refine next_tidy (whileLive_tidy hs fun s1 hs1 => ?_)
  extract_lets s2
  have hs2 : s2.Tidy q := freezePoint_tidy hs1
  clear_value s2
  split
  · exact hs2
  · split
    · exact hs2
    · split
      · exact serveJob_tidy hs2
      · split
        · extract_lets s11 src
          have hs11 : s11.Tidy q := incSat_tidy (putJob_tidy hs2)
          clear_value s11 src
          exact setRun_tidy hs11.frame
        · exact hs2

/-- The function is unfolded through an equation of functions, so that its body is compared with nothing. -/
theorem saveEnd_tidy (hs : s.Tidy q) {r} : (s.saveEnd r).Tidy q := by
  generalize hf : State.saveEnd = f
  delta State.saveEnd at hf
  subst hf
  beta_reduce
  simp only []
  split
  · rename_i s1 e
    exact stallJob_tidy (fst_tidy e (dmaWrite_tidy hs))
  · rename_i s1 e
    have hs1 : s1.Tidy q := fst_tidy e (dmaWrite_tidy hs)
    split
    · split
      · exact ite_tidy (serveJob_tidy (endJob_tidy (setRun_tidy hs1.frame))) (endJob_tidy (setRun_tidy hs1.frame))
      · exact ite_tidy (serveJob_tidy (setRun_tidy hs1.frame)) (setRun_tidy hs1.frame)
    · split
      · exact endJob_tidy (setRun_tidy hs1.frame)
      · exact setRun_tidy hs1.frame

theorem execPreemptSaveEnd_tidy (hs : s.Tidy q) : OutTidy q (execPreemptSaveEnd s) := by
  unfold execPreemptSaveEnd
  refine next_tidy (whileLive_tidy hs fun s1 hs1 => ?_)
  split
  · exact ite_tidy (saveEnd_tidy hs1) hs1
  · exact hs1

theorem restoreEnd_tidy (hs : s.Tidy q) {j} : (s.restoreEnd j).Tidy q := by
  unfold State.restoreEnd
  extract_lets p back
  have hback : ∀ t : State, t.Tidy q → FstTidy q (back t) := fun _ h1 => rdBlk_tidy h1 (fun _ h2 _ => fst_mk h2)
  split
  · rename_i x s2 j2 e
    exact setRun_tidy (fst_tidy e (ite_fst_tidy (withModel_tidy hs (fun _ h1 _ => hback _ h1)) (hback _ hs)))
  · rename_i x s2 r e
    exact rejectJob_tidy (dropJob_tidy (fst_tidy e (ite_fst_tidy (withModel_tidy hs (fun _ h1 _ => hback _ h1)) (hback _ hs))))
  · rename_i x s2 va e
    exact stallJob_tidy (setRun_tidy (fst_tidy e (ite_fst_tidy (withModel_tidy hs (fun _ h1 _ => hback _ h1)) (hback _ hs))))

theorem execRestoreEnd_tidy (hs : s.Tidy q) : OutTidy q (execRestoreEnd s) := by
  unfold execRestoreEnd
  refine next_tidy (whileLive_tidy hs fun s1 hs1 => ?_)
  split
  · exact ite_tidy (restoreEnd_tidy hs1) hs1
  · exact hs1

/-! ### Machine/Slv: Iterations (R238 to R241, R245, R248, R249, R251, R258, R259) -/

theorem tileErrors_tidy (hs : s.Tidy q) {o} : FstTidy q (s.tileErrors o) := by
  unfold State.tileErrors
  extract_lets src s1
  have hs1 : s1.Tidy q := wr_tidy hs.frame
  split
  · exact fst_mk hs1
  · exact fst_mk (tileFault_tidy hs1)

theorem pivots_tidy (hs : s.Tidy q) {n} : (s.pivots n).Tidy q := wr_tidy hs

theorem rangeExc_tidy (hs : s.Tidy q) {j e} : (s.rangeExc j e).Tidy q := by
  unfold State.rangeExc
  extract_lets p low retry src
  split
  rename_i x v s1 e1
  have hs1 : s1.Tidy q := by
    refine snd_tidy e1 ?_
    split
    · split
      rename_i x1 v1 s11 e2
      exact snd_mk (snd_tidy e2 (draw_tidy hs))
    · exact snd_mk hs
  extract_lets s11 s2 s3
  have hs11 : s11.Tidy q := wr_tidy (wr_tidy (wr_tidy (wr_tidy hs1)))
  have hs2 : s2.Tidy q := incSat_tidy (wr_tidy (wr_tidy hs11))
  have hs3 : s3.Tidy q := ite_tidy (raiseEv_tidy hs2) (raise_tidy hs2)
  exact ite_tidy (putJob_tidy (incSat_tidy hs3)) (putJob_tidy hs3)

theorem iterTimes_tidy (hs : s.Tidy q) {o} : (s.iterTimes o).Tidy q := by
  unfold State.iterTimes
  extract_lets cap s1
  have hs1 : s1.Tidy q := by
    unfold s1
    refine foldl_tidy hs (fun s11 hs11 k => ?_)
    split
    · exact wr_tidy hs11
    · exact hs11
  exact wr_tidy (wr_tidy hs1)

theorem pointReached_tidy (hs : s.Tidy q) : s.pointReached.Tidy q := by
  unfold State.pointReached
  split
  · split
    · exact ite_tidy (putJob_tidy hs) hs
    · exact hs
  · exact hs

theorem working_tidy (hs : s.Tidy q) {p} {k : State → Job → State} (hk : ∀ t : State, t.Tidy q → ∀ x, (k t x).Tidy q) :
    (s.working p k).Tidy q := by
  unfold State.working
  refine whileLive_tidy hs (fun s1 hs1 => ?_)
  split
  · exact hs1
  · split
    · exact hs1
    · extract_lets a
      split
      · rename_i x s2 e
        exact stallJob_tidy (fst_tidy e (dmaWrite_tidy hs1))
      · rename_i x s2 e
        exact pointReached_tidy (hk _ (fst_tidy e (dmaWrite_tidy hs1)) _)

theorem execEstIteration_tidy (hs : s.Tidy q) {o} : OutTidy q (execEstIteration o s) := by
  unfold execEstIteration
  refine next_tidy (working_tidy hs fun s1 hs1 j => ?_)
  split
  · rename_i x s2 e
    exact fst_tidy e (tileErrors_tidy hs1)
  · rename_i x s2 e
    have hs2 : s2.Tidy q := fst_tidy e (tileErrors_tidy hs1)
    split
    · exact rangeExc_tidy (pivots_tidy hs2)
    · exact putJob_tidy (iterTimes_tidy (pivots_tidy hs2))

theorem execLsqSolve_tidy (hs : s.Tidy q) {o n} : OutTidy q (execLsqSolve o n s) := by
  unfold execLsqSolve
  refine next_tidy (working_tidy hs fun s1 hs1 j => ?_)
  split
  · rename_i x s2 e
    exact fst_tidy e (tileErrors_tidy hs1)
  · rename_i x s2 e
    have hs2 : s2.Tidy q := fst_tidy e (tileErrors_tidy hs1)
    split
    · exact rangeExc_tidy hs2
    · exact putJob_tidy (iterTimes_tidy hs2)

theorem execDspIteration_tidy (hs : s.Tidy q) {o} : OutTidy q (execDspIteration o s) := by
  unfold execDspIteration
  refine next_tidy (working_tidy hs fun s1 hs1 j => ?_)
  split
  · rename_i x s2 e
    exact fst_tidy e (tileErrors_tidy hs1)
  · rename_i x s2 e
    have hs2 : s2.Tidy q := fst_tidy e (tileErrors_tidy hs1)
    split
    · exact rangeExc_tidy hs2
    · exact putJob_tidy (iterTimes_tidy hs2)

theorem execFactorisationEnd_tidy (hs : s.Tidy q) {o} : OutTidy q (execFactorisationEnd o s) := by
  unfold execFactorisationEnd
  refine next_tidy (working_tidy hs fun s1 hs1 j => ?_)
  split
  · exact hs1
  · split
    · rename_i x s2 e
      exact fst_tidy e (tileErrors_tidy hs1)
    · rename_i x s2 e
      have hs2 : s2.Tidy q := fst_tidy e (tileErrors_tidy hs1)
      split
      · exact rangeExc_tidy (pivots_tidy hs2)
      · exact putJob_tidy ((raise_tidy (wr_tidy (wr_tidy (wr_tidy (wr_tidy (wr_tidy (pivots_tidy hs2))))))).frame)

theorem execJobEnd_tidy (hs : s.Tidy q) : OutTidy q (execJobEnd s) := by
  unfold execJobEnd
  refine next_tidy (whileLive_tidy hs fun s1 hs1 => ?_)
  extract_lets s2
  have hs2 : s2.Tidy q := freezePoint_tidy hs1
  split
  · exact hs2
  · split
    · exact endJob_tidy hs2
    · split
      · exact hs2
      · split
        · exact hs2
        · split
          · exact endJob_tidy hs2
          · exact hs2

theorem execStopInstant_tidy (hs : s.Tidy q) {tpl} : OutTidy q (execStopInstant tpl s) := by
  unfold execStopInstant
  refine next_tidy (whileLive_tidy hs fun s1 hs1 => ?_)
  split
  · exact hs1
  · exact ite_tidy hs1 (stopStalled_tidy hs1)

/-! ### Machine/Slv: Solver commands (R264, R266, R275, R276) -/

theorem execAbort_tidy (hs : s.Tidy q) {m tpl} : OutTidy q (execAbort m tpl s) := by
  unfold execAbort
  refine next_tidy (gate_tidy hs fun s1 hs1 => ?_)
  split
  · exact err_tidy hs1
  · exact stopStalled_tidy hs1

theorem resumeStall_tidy (hs : s.Tidy q) {x} : (s.resumeStall x).Tidy q := by
  unfold State.resumeStall
  extract_lets s1
  have hs1 : s1.Tidy q := unstall_tidy hs
  split
  · exact hs1
  · split
    · exact startJob_tidy hs1
    · exact hs1
    · exact saveEnd_tidy hs1
    · exact restoreEnd_tidy hs1
    · exact endJob_tidy hs1

theorem reissue_tidy (hs : s.Tidy q) : s.reissue.Tidy q := foldl_tidy hs.frame fun _ h1 _ => ite_tidy (issueItem_tidy h1) h1.frame

theorem execResume_tidy (hs : s.Tidy q) {m} : OutTidy q (execResume m s) := by
  unfold execResume
  refine next_tidy (gate_tidy hs fun s1 hs1 => ?_)
  split
  · exact ite_tidy (err_tidy hs1) (reissue_tidy hs1)
  · exact reissue_tidy (resumeStall_tidy hs1)

theorem endStalled_tidy (hs : s.Tidy q) {x} : (s.endStalled x).Tidy q := by
  unfold State.endStalled
  extract_lets s1 va p src
  have hs1 : s1.Tidy q := unstall_tidy hs
  split
  · exact hs1
  · exact ite_tidy (finishJob_tidy hs1) (endJob_tidy hs1.frame)

theorem execAbortStalled_tidy (hs : s.Tidy q) {m} : OutTidy q (execAbortStalled m s) := by
  unfold execAbortStalled
  refine next_tidy (gate_tidy hs fun s1 hs1 => ?_)
  extract_lets src s11
  have hs11 : s11.Tidy q := hs1.frame
  split
  · exact ite_tidy (err_tidy hs1) hs11
  · exact endStalled_tidy hs11

theorem execInvalidate_tidy (hs : s.Tidy q) {m slot} : OutTidy q (execInvalidate m slot s) :=
  next_tidy (gate_tidy hs (fun _ h1 => ite_tidy (err_tidy h1) (wr_tidy h1)))

theorem reloadTpl_tidy (hs : s.Tidy q) {t} : FstTidy q (s.reloadTpl t) := by
  unfold State.reloadTpl
  extract_lets x
  split
  · exact fst_mk hs
  · split
    · rename_i x1 s1 e
      exact fst_mk (setTpl_tidy (fst_tidy e (dmaRead_tidy hs)))
    · rename_i x1 s1 bs e
      have hs1 : s1.Tidy q := fst_tidy e (dmaRead_tidy hs)
      exact ite_fst_tidy (fst_mk (setTpl_tidy hs1)) (ite_fst_tidy (fst_mk (setTpl_tidy hs1)) (fst_mk (setTpl_tidy hs1)))

theorem tplShow_tidy (hs : s.Tidy q) {r t} : (s.tplShow r t).Tidy q := wr_tidy (wr_tidy (wr_tidy (wr_tidy hs)))

theorem execTplReload_tidy (hs : s.Tidy q) {m tpl} : OutTidy q (execTplReload m tpl s) := by
  unfold execTplReload
  refine next_tidy (gate_tidy hs fun s1 hs1 => ?_)
  split
  rename_i x s11 c1 e
  exact tplShow_tidy (fst_tidy e (reloadTpl_tidy hs1))

theorem execReloadAll_tidy (hs : s.Tidy q) {m} : OutTidy q (execReloadAll m s) := by
  refine next_tidy (gate_tidy hs ?_)
  intro s1 h1
  beta_reduce
  split
  rename_i s2 r t busy e
  refine tplShow_tidy (fst_tidy e (foldl_fst_tidy (fst_mk h1) fun p hp n => ?_))
  split
  split
  rename_i s4 c e4
  have h4 : s4.Tidy q := fst_tidy e4 (reloadTpl_tidy hp.tidy)
  exact ite_fst_tidy h4 (ite_fst_tidy h4 h4)

theorem execTplDone_tidy (hs : s.Tidy q) : OutTidy q (execTplDone s) :=
  next_tidy (whileLive_tidy hs (fun _ h1 => ite_tidy (raise_tidy (wr_tidy h1)) h1))

/-! ### Machine/CadReq -/

theorem execLsp_tidy (hs : s.Tidy q) {c rd rs1 slot loop} : OutTidy q (execLsp c rd rs1 slot loop s) :=
  next_tidy (instr_tidy hs (fun _ h1 _ => post_tidy h1))

theorem execLmode_tidy (hs : s.Tidy q) {c rd rs1 slot loop} : OutTidy q (execLmode c rd rs1 slot loop s) :=
  next_tidy (instr_tidy hs (fun _ h1 _ => ite_tidy (stick_tidy h1) (post_tidy h1)))

theorem execLman_tidy (hs : s.Tidy q) {c rd rs1 slot loop} : OutTidy q (execLman c rd rs1 slot loop s) :=
  next_tidy (instr_tidy hs (fun _ h1 _ => post_tidy h1))

theorem execLout_tidy (hs : s.Tidy q) {c rd slot} : OutTidy q (execLout c rd slot s) := next_tidy (instr_tidy hs (fun _ h1 _ => h1))

theorem execLwin_tidy (hs : s.Tidy q) {c rd slot} : OutTidy q (execLwin c rd slot s) := next_tidy (instr_tidy hs (fun _ h1 _ => h1))

theorem execSlvq_tidy (hs : s.Tidy q) {c rd rs1 tpl} : OutTidy q (execSlvq c rd rs1 tpl s) :=
  next_tidy (instr_tidy hs (fun _ h1 _ => post_tidy h1))

theorem execSlvst_tidy (hs : s.Tidy q) {c rd tpl} : OutTidy q (execSlvst c rd tpl s) := next_tidy (instr_tidy hs (fun _ h1 _ => h1))

theorem execSlvrd_tidy (hs : s.Tidy q) {c rd rs1 tpl} : OutTidy q (execSlvrd c rd rs1 tpl s) :=
  next_tidy (instr_tidy hs (fun _ h1 _ => ite_end_tidy trivial h1))

/-! ### Machine/CadLoad: Banks (R109) -/

theorem setBank_tidy (hs : s.Tidy q) {b st} : (s.setBank b st).Tidy q := wr_tidy hs

theorem bankResult_tidy (hs : s.Tidy q) {b r} : (s.bankResult b r).Tidy q := wr_tidy (wr_tidy hs)

theorem deliverNow_tidy (hs : s.Tidy q) {d} : (s.deliverNow d).Tidy q := by
  unfold State.deliverNow
  split
  · exact hs
  · split
    · exact hs
    · exact ite_tidy hs (emit_tidy (putLive_tidy hs))

theorem applyHeld_tidy (hs : s.Tidy q) : s.applyHeld.Tidy q := foldl_tidy hs.frame fun _ h1 _ => deliverNow_tidy h1

theorem abandonChg_tidy (hs : s.Tidy q) {r} : (s.abandonChg r).Tidy q := applyHeld_tidy (err_tidy (raise_tidy (wr_tidy (wr_tidy hs))))

theorem execLoad_tidy (hs : s.Tidy q) {m b} : OutTidy q (execLoad m b s) := by
  unfold execLoad
  refine next_tidy (gate_tidy hs fun s1 hs1 => ?_)
  split
  · exact err_tidy (bankResult_tidy hs1)
  · extract_lets s11 s2 v s3 src
    have hs11 : s11.Tidy q := ite_tidy (abandonChg_tidy hs1) hs1
    have hs2 : s2.Tidy q := commit_tidy hs11
    have hs3 : s3.Tidy q := setBank_tidy (wr_tidy hs2)
    clear_value s11 s2 v s3 src
    exact hs3.frame

theorem loadEnd_tidy (hs : s.Tidy q) {b r off hash} : (s.loadEnd b r off hash).Tidy q := by
  unfold State.loadEnd
  extract_lets s1 h src s2
  have hs1 : s1.Tidy q := wr_tidy (bankResult_tidy hs)
  have hs2 : s2.Tidy q := hs1.frame
  clear_value s1 h src s2
  exact ite_tidy (raise_tidy (setBank_tidy hs2)) (err_tidy (raise_tidy (setBank_tidy hs1)))

theorem readImage_tidy (hs : s.Tidy q) {b n} : FstTidy q (s.readImage b n) := by
  unfold State.readImage
  extract_lets a
  split
  · rename_i x s1 p e
    exact fst_mk (fst_tidy e (dmaRead_tidy hs))
  · rename_i x s1 e
    exact fst_mk (fst_tidy e (dmaRead_tidy hs))

theorem execLoadCheckEnd_tidy (hs : s.Tidy q) : OutTidy q (execLoadCheckEnd s) := by
  unfold execLoadCheckEnd
  refine next_tidy (whileLive_tidy hs fun s1 hs1 => ?_)
  split
  · exact hs1
  · extract_lets b
    split
    · rename_i x s2 o e
      exact loadEnd_tidy (fst_tidy e (readImage_tidy hs1))
    · rename_i x s2 i e
      have hs2 : s2.Tidy q := fst_tidy e (readImage_tidy hs1)
      split
      split
      · exact loadEnd_tidy hs2
      · split
        · rename_i x1 s21 o e1
          exact loadEnd_tidy (fst_tidy e1 (readImage_tidy hs2))
        · rename_i x1 s21 i1 e1
          have hs21 : s21.Tidy q := fst_tidy e1 (readImage_tidy hs2)
          split
          exact loadEnd_tidy hs21

theorem altered_tidy (hs : s.Tidy q) {b} : (s.altered b).Tidy q := ite_tidy (bankResult_tidy hs) ((errEv_tidy (bankResult_tidy hs)).frame)

theorem execBackgroundRehash_tidy (hs : s.Tidy q) {b} : OutTidy q (execBackgroundRehash b s) := by
  unfold execBackgroundRehash
  refine next_tidy (whileLive_tidy hs fun s1 hs1 => ?_)
  extract_lets st
  split
  · exact hs1
  · split
    · rename_i x s2 o e
      have hs2 : s2.Tidy q := fst_tidy e (readImage_tidy hs1)
      exact ite_tidy (altered_tidy hs2) (setBank_tidy (wr_tidy (bankResult_tidy hs2)))
    · rename_i x s2 i e
      have hs2 : s2.Tidy q := fst_tidy e (readImage_tidy hs1)
      exact ite_tidy (bankResult_tidy hs2) (ite_tidy (altered_tidy hs2) (setBank_tidy (bankResult_tidy hs2)))

/-! ### Machine/CadLoad: Instance commands and exception counts (R112) -/

theorem instCmd_tidy (hs : s.Tidy q) {m inst op} : (s.instCmd m inst op).Tidy q := gatePair_tidy hs (fun _ h1 => (emit_tidy h1).frame)

theorem execInstEnable_tidy (hs : s.Tidy q) {m inst} : OutTidy q (execInstEnable m inst s) := next_tidy (instCmd_tidy hs)

theorem execColdInit_tidy (hs : s.Tidy q) {m inst} : OutTidy q (execColdInit m inst s) := next_tidy (instCmd_tidy hs)

theorem execExcCntClr_tidy (hs : s.Tidy q) {m n v} : OutTidy q (execExcCntClr m n v s) :=
  next_tidy (gate_tidy hs (fun _ h1 => wr_tidy ((writeFields_tidy h1).tidy)))

/-! ### Machine/Guard -/

theorem putOut_tidy (hs : s.Tidy q) {sig v} : (s.putOut sig v).Tidy q := hs.frame

theorem dropOut_tidy (hs : s.Tidy q) {sig} : (s.dropOut sig).Tidy q := hs.frame

theorem holdSafe_tidy (hs : s.Tidy q) {sig} : (s.holdSafe sig).Tidy q := hs.frame

theorem freeSafe_tidy (hs : s.Tidy q) {sig} : (s.freeSafe sig).Tidy q := hs.frame

theorem setLslot_tidy (hs : s.Tidy q) {n x} : (s.setLslot n x).Tidy q := hs.frame

theorem slotError_tidy (hs : s.Tidy q) {n} : (s.slotError n).Tidy q := raiseEv_tidy (err_tidy (dropOut_tidy (wr_tidy hs)))

theorem slotErrors_tidy (hs : s.Tidy q) {p} : (s.slotErrors p).Tidy q := foldl_tidy hs fun _ h1 _ => ite_tidy (slotError_tidy h1) h1

/-! ### Machine/Guard: The guard pass (R216) -/

theorem guardEntryPass_tidy (hs : s.Tidy q) {safeAll dt e} : FstTidy q (s.guardEntryPass safeAll dt e) := by
  unfold State.guardEntryPass
  split
  extract_lets src s1 s2 s3 s4
  have hs1 : s1.Tidy q := hs.frame
  have hs2 : s2.Tidy q := ite_tidy (incSat_tidy hs1) hs1
  have hs3 : s3.Tidy q := ite_tidy (incSat_tidy hs2) hs2
  have hs4 : s4.Tidy q := ite_tidy (incSat_tidy hs3) hs3
  exact fst_mk (ite_tidy (incSat_tidy hs4) hs4)

theorem guardEntries_tidy (hs : s.Tidy q) {early dt l acted} : FstTidy q (s.guardEntries early dt l acted) := by
  induction l generalizing s acted with
  | nil => exact hs
  | cons e t ih => exact ih (guardEntryPass_tidy hs)

theorem putHash_tidy (hs : s.Tidy q) {a h} : (s.putHash a h).Tidy q := foldl_tidy hs fun _ h1 _ => regPut_tidy h1

theorem guardSwitch_tidy (hs : s.Tidy q) : s.guardSwitch.Tidy q := by
  unfold State.guardSwitch
  extract_lets nb g has s1 s2 src s3
  have hs1 : s1.Tidy q := regPut_tidy (wr_tidy (wr_tidy (wr_tidy hs)))
  have hs2 : s2.Tidy q := putHash_tidy hs1
  have hs3 : s3.Tidy q := hs2.frame
  clear_value nb g has s1 s2 src s3
  exact slotErrors_tidy hs3

theorem countUnguarded_tidy (hs : s.Tidy q) : s.countUnguarded.Tidy q := ite_tidy ((wr_tidy hs).frame) (raise_tidy ((wr_tidy hs).frame))

theorem guardPassAt_tidy (hs : s.Tidy q) {now switch} : (s.guardPassAt now switch).Tidy q := by
  unfold State.guardPassAt
  extract_lets s0 s1 dt es early
  have hs0 : s0.Tidy q := commit_tidy hs
  have hs1 : s1.Tidy q := ite_tidy (guardSwitch_tidy hs0) hs0
  clear_value s0 s1 dt es early
  split
  rename_i x s2 acted e
  have hs2 : s2.Tidy q := fst_tidy e (guardEntries_tidy hs1)
  extract_lets s3 s4 src s5
  have hs3 : s3.Tidy q := ite_tidy (raise_tidy hs2) hs2
  have hs4 : s4.Tidy q := wr_tidy (incWrap_tidy hs3)
  have hs5 : s5.Tidy q := hs4.frame
  clear_value s3 s4 src s5
  exact countUnguarded_tidy hs5

theorem guardStop_tidy (hs : s.Tidy q) : s.guardStop.Tidy q := hs.frame

theorem guardPass_tidy (hs : s.Tidy q) : s.guardPass.Tidy q := guardPassAt_tidy (emit_tidy hs)

/-! ### Machine/CadCycle: Deliveries to the live image (R26, R78, R146) -/

theorem deliver_tidy (hs : s.Tidy q) {sig value qual age} : (s.deliver sig value qual age).Tidy q :=
  ite_tidy hs (ite_tidy hs.frame (deliverNow_tidy hs))

theorem deliverIn_tidy (hs : s.Tidy q) {sig value qual age} : (s.deliverIn sig value qual age).Tidy q := by
  unfold State.deliverIn
  refine deliver_tidy ?_
  suffices h : (s).Tidy q from h.frame
  exact hs

/-! ### Machine/CadCycle: Instance commands at a cycle start (R105, R106, R112) -/

theorem putClean_tidy (hs : s.Tidy q) {a bs} : (s.putClean a bs).Tidy q := (putBytes_tidy hs).frame

theorem applyInst_tidy (hs : s.Tidy q) {n i op} : (s.applyInst n i op).Tidy q := by
  unfold State.applyInst
  extract_lets b s1 left t s2 src
  have hs1 : s1.Tidy q := ite_tidy (putClean_tidy hs) hs
  have hs2 : s2.Tidy q := setTask_tidy hs1
  exact hs2.frame

theorem applyInstCmds_tidy (hs : s.Tidy q) {n} : (s.applyInstCmds n).Tidy q := foldl_tidy hs.frame fun _ h1 _ => applyInst_tidy h1

/-! ### Machine/CadCycle: Cycle start (R78, R115, R116, R133, R134) -/

theorem emitForces_tidy (hs : s.Tidy q) : s.emitForces.Tidy q := foldl_tidy hs fun _ h1 _ => emit_tidy h1

theorem applyForces_tidy (hs : s.Tidy q) : s.applyForces.Tidy q := wr_tidy hs.frame

theorem takeSnapshot_tidy (hs : s.Tidy q) {n} : (s.takeSnapshot n).Tidy q := by
  unfold State.takeSnapshot
  extract_lets b
  refine foldl_tidy hs (fun s1 hs1 k => ?_)
  split
  · exact hs1
  · split
    exact wrLe_tidy (wrLe_tidy hs1)

theorem lockAtStart_tidy (hs : s.Tidy q) {ring was} : (s.lockAtStart ring was).Tidy q :=
  ite_tidy (ite_tidy (raise_tidy (setTask_tidy (wr_tidy hs))) (setTask_tidy (wr_tidy hs))) (ite_tidy (ite_tidy (raise_tidy (setTask_tidy
      (wr_tidy hs))) (setTask_tidy (wr_tidy hs))) (setTask_tidy hs))

theorem startCycle_tidy (hs : s.Tidy q) {n now ring} : (s.startCycle n now ring).Tidy q := by
  unfold State.startCycle
  extract_lets s1 p0 ph0 s2 t regrid at_ t1 s3 s4 s5 src s6 s7
  have hs1 : s1.Tidy q := applyForces_tidy hs
  have hs2 : s2.Tidy q := commit_tidy hs1
  have hs3 : s3.Tidy q := applyInstCmds_tidy (setTask_tidy hs2)
  have hs4 : s4.Tidy q := ite_tidy (lockAtStart_tidy hs3) hs3
  have hs5 : s5.Tidy q := wr_tidy (takeSnapshot_tidy hs4)
  have hs6 : s6.Tidy q := setTask_tidy hs5
  exact dispatch_tidy (ite_tidy (preempt_tidy hs6) hs6)

theorem execTaskCycleStart_tidy (hs : s.Tidy q) {n} : OutTidy q (execTaskCycleStart n s) :=
  next_tidy (whileLive_tidy hs (fun _ h1 => ite_tidy h1 (ite_tidy (freezePoint_tidy h1) (ite_tidy (switched_tidy (startCycle_tidy
      (emit_tidy (emitForces_tidy (freezePoint_tidy h1))))) (startCycle_tidy (emit_tidy (emitForces_tidy (freezePoint_tidy h1))))))))

/-! ### Machine/CadCycle: Publication (R101 to R108, R115, R135) -/

theorem excEvents_tidy (hs : s.Tidy q) {es} : (s.excEvents es).Tidy q :=
  foldl_tidy hs fun _ h1 _ => ite_tidy h1.frame (ite_tidy (event_tidy h1.frame) (ite_tidy (event_tidy h1.frame) h1.frame))

theorem recordExcs_tidy (hs : s.Tidy q) {n} : (s.recordExcs n).Tidy q := by
  unfold State.recordExcs
  split
  · exact hs
  · exact excEvents_tidy (ite_tidy (raise_tidy (ite_tidy (raise_tidy (wr_tidy (wr_tidy (wr_tidy (wr_tidy hs))))) (wr_tidy (wr_tidy
        (wr_tidy (wr_tidy hs)))))) (ite_tidy (raise_tidy (wr_tidy (wr_tidy (wr_tidy (wr_tidy hs))))) (wr_tidy (wr_tidy (wr_tidy
            (wr_tidy hs))))))

theorem publish_tidy (hs : s.Tidy q) {n} : (s.publish n).Tidy q := by
  unfold State.publish
  extract_lets b
  refine foldl_tidy hs (fun s1 hs1 k => ?_)
  split
  · exact hs1
  · extract_lets sig
    split
    · exact holdSafe_tidy hs1
    · split
      · exact putOut_tidy (freeSafe_tidy hs1)
      · exact putOut_tidy (freeSafe_tidy hs1)

theorem postOne_tidy (hs : s.Tidy q) {p left} : FstTidy q (s.postOne p left) := by
  unfold State.postOne
  extract_lets toSlot
  have htoSlot : ∀ slot, (toSlot slot).Tidy q := fun _ => ite_tidy (setLslot_tidy hs) hs
  split
  · exact fst_mk (htoSlot _)
  · exact fst_mk (htoSlot _)
  · exact fst_mk (htoSlot _)
  · split
    · exact fst_mk hs
    · split
      rename_i x s1 c1 e
      have hs1 : s1.Tidy q := fst_tidy e (acceptJob_tidy hs)
      exact ite_fst_tidy (fst_mk (raise_tidy (incSat_tidy hs1))) (fst_mk hs1)
  · exact ite_fst_tidy (fst_mk hs) (fst_mk (ite_tidy hs (send_tidy hs)))

theorem postAll_tidy (hs : s.Tidy q) {l left fl} : FstTidy q (s.postAll l left fl) := by
  induction l generalizing s left fl with
  | nil => exact hs
  | cons p t ih => exact ih (postOne_tidy hs)

theorem dueSlots_tidy (hs : s.Tidy q) {n} : (s.dueSlots n).Tidy q :=
  foldl_tidy hs fun _ h1 _ => ite_tidy (setLslot_tidy (ite_tidy (raise_tidy (incSat_tidy h1)) h1)) h1

theorem cycleTime_tidy (hs : s.Tidy q) {n} : (s.cycleTime n).Tidy q := wr_tidy (wr_tidy hs)

theorem laneCheck_tidy (hs : s.Tidy q) {n differs} : (s.laneCheck n differs).Tidy q :=
  ite_tidy hs (ite_tidy (selfTestFail_tidy hs.frame) hs.frame)

theorem endState_tidy (hs : s.Tidy q) {n} : (s.endState n).Tidy q :=
  ite_tidy (ite_tidy (setTask_tidy (wr_tidy hs)) (wr_tidy (setTask_tidy (wr_tidy hs)))) (wr_tidy (ite_tidy (setTask_tidy (wr_tidy hs))
      (wr_tidy (setTask_tidy (wr_tidy hs)))))

theorem execTaskPublication_tidy (hs : s.Tidy q) {n differs corr} : OutTidy q (execTaskPublication n differs corr s) := by
  refine next_tidy (whileLive_tidy hs fun s hs => ite_tidy hs ?_)
  extract_lets faulted code s0 s1
  have hs1 : s1.Tidy q := publish_tidy (recordExcs_tidy (wr_tidy hs))
  clear_value s1
  split
  rename_i s2 fl e
  have hs2 : s2.Tidy q := fst_tidy e (ite_fst_tidy (fst_mk hs1) (postAll_tidy hs1))
  extract_lets s3 s4 news src s5 s6
  have hs4 : s4.Tidy q := cycleTime_tidy (dueSlots_tidy (regPut_tidy hs2))
  clear_value s4
  have hs5 : s5.Tidy q := endState_tidy hs4.frame
  exact dispatch_tidy (laneCheck_tidy (ite_tidy (autoFault_tidy hs5) hs5))

/-! ### Machine/CadCycle: Overruns (R118 to R120) -/

theorem overrun_tidy (hs : s.Tidy q) {n} : (s.overrun n).Tidy q :=
  ite_tidy (event_tidy (setTask_tidy (raise_tidy (wr_tidy (incSat_tidy hs))))) (setTask_tidy (raise_tidy (wr_tidy (incSat_tidy hs))))

theorem execOverrun_tidy (hs : s.Tidy q) {n} : OutTidy q (execOverrun n s) :=
  next_tidy (whileLive_tidy hs (fun _ h1 => ite_tidy h1 (ite_tidy (setTask_tidy (overrun_tidy h1)) (overrun_tidy h1))))

/-! ### Machine/CadCycle: Task commands (R121, R122) -/

theorem taskCmd_tidy (hs : s.Tidy q) {m n op} {k : State → State} (hk : Keeps q k) : (s.taskCmd m n op k).Tidy q :=
  gatePair_tidy hs (fun _ h1 => hk _ (emit_tidy h1))

theorem badTaskCmd_tidy (hs : s.Tidy q) {n} : (s.badTaskCmd n).Tidy q := err_tidy hs

theorem makeIdle_tidy (hs : s.Tidy q) {n} : (s.makeIdle n).Tidy q := setTask_tidy (wr_tidy hs)

theorem doStart_tidy (hs : s.Tidy q) {n} : (s.doStart n).Tidy q := ite_tidy (makeIdle_tidy hs) (badTaskCmd_tidy hs)

theorem doStop_tidy (hs : s.Tidy q) {n} : (s.doStop n).Tidy q :=
  ite_tidy (badTaskCmd_tidy hs) (ite_tidy (setTask_tidy hs) (setTask_tidy (wr_tidy (wr_tidy hs))))

theorem doRestart_tidy (hs : s.Tidy q) {n} : (s.doRestart n).Tidy q := ite_tidy (makeIdle_tidy hs) (badTaskCmd_tidy hs)

theorem doRestartCold_tidy (hs : s.Tidy q) {n} : (s.doRestartCold n).Tidy q := ite_tidy ((makeIdle_tidy hs).frame) (badTaskCmd_tidy hs)

theorem execStart_tidy (hs : s.Tidy q) {m n} : OutTidy q (execStart m n s) := next_tidy (taskCmd_tidy hs (fun _ h1 => doStart_tidy h1))

theorem execStop_tidy (hs : s.Tidy q) {m n} : OutTidy q (execStop m n s) := next_tidy (taskCmd_tidy hs (fun _ h1 => doStop_tidy h1))

theorem execRestart_tidy (hs : s.Tidy q) {m n} : OutTidy q (execRestart m n s) :=
  next_tidy (taskCmd_tidy hs (fun _ h1 => doRestart_tidy h1))

theorem execRestartCold_tidy (hs : s.Tidy q) {m n} : OutTidy q (execRestartCold m n s) :=
  next_tidy (taskCmd_tidy hs (fun _ h1 => doRestartCold_tidy h1))

theorem execClrOvr_tidy (hs : s.Tidy q) {m n} : OutTidy q (execClrOvr m n s) := next_tidy (taskCmd_tidy hs (fun _ h1 => wr_tidy h1))

/-! ### Machine/CadStart: Programs and banks -/

theorem activate_tidy (hs : s.Tidy q) {b} : (s.activate b).Tidy q := by
  unfold State.activate
  extract_lets s1 s2 src
  have hs1 : s1.Tidy q := ite_tidy (setBank_tidy hs) hs
  have hs2 : s2.Tidy q := putHash_tidy (setBank_tidy hs1)
  clear_value s1 s2 src
  exact hs2.frame

theorem rebind_tidy (hs : s.Tidy q) : s.rebind.Tidy q := by
  unfold State.rebind
  extract_lets b lost s1 s2
  have hs1 : s1.Tidy q := by
    unfold s1
    refine foldl_tidy hs (fun s11 hs11 e => ?_)
    split
    · exact hs11.frame
    · exact hs11
  have hs2 : s2.Tidy q := raise_tidy hs1
  split
  · exact hs1
  · refine foldl_tidy hs2 (fun s11 hs11 e => ?_)
    split
    · exact event_tidy hs11
    · exact hs11

theorem dropSigs_tidy (hs : s.Tidy q) {sigs} : (s.dropSigs sigs).Tidy q :=
  ite_tidy (foldl_tidy hs fun _ h1 _ => dropOut_tidy h1) (event_tidy (foldl_tidy hs fun _ h1 _ => dropOut_tidy h1))

theorem initSlot_tidy (hs : s.Tidy q) {b k} : (s.initSlot b k).Tidy q := putLive_tidy hs

theorem startBank_tidy (hs : s.Tidy q) {b f} : (s.startBank b f).Tidy q := by
  unfold State.startBank
  extract_lets gone src s1 s2 s3 s4 held src1 s5
  have hs1 : s1.Tidy q := foldl_tidy hs.frame fun _ h1 _ => setTask_tidy (wr_tidy (wr_tidy h1))
  have hs2 : s2.Tidy q := activate_tidy hs1
  have hs3 : s3.Tidy q := foldl_tidy hs2 fun _ h1 _ => initSlot_tidy h1
  have hs4 : s4.Tidy q := foldl_tidy hs3 fun _ h1 _ => putClean_tidy h1
  have hs5 : s5.Tidy q := hs4.frame
  clear_value gone src s1 s2 s3 s4 held src1 s5
  exact rebind_tidy (dropSigs_tidy hs5)

theorem startTasks_tidy (hs : s.Tidy q) {tasks} : (s.startTasks tasks).Tidy q := foldl_tidy hs fun _ h1 _ => ite_tidy (makeIdle_tidy h1) h1

theorem startDone_tidy (hs : s.Tidy q) {r} : (s.startDone r).Tidy q :=
  ite_tidy (err_tidy (raise_tidy (wr_tidy hs))) (raise_tidy (wr_tidy hs))

theorem coldStart_tidy (hs : s.Tidy q) {tasks r} : (s.coldStart tasks r).Tidy q := startDone_tidy (startTasks_tidy (startBank_tidy hs))

theorem coldStartCmd_tidy (hs : s.Tidy q) {tasks} : (s.coldStartCmd tasks).Tidy q :=
  ite_tidy (startDone_tidy hs) (coldStart_tidy (wr_tidy hs))

theorem execColdStart_tidy (hs : s.Tidy q) {m tasks} : OutTidy q (execColdStart m tasks s) :=
  next_tidy (gatePair_tidy hs (fun _ h1 => coldStartCmd_tidy (emit_tidy h1)))

/-! ### Machine/CadStart: The retained-data set (R127, R128) -/

theorem commitRetBase_tidy (hs : s.Tidy q) : s.commitRetBase.Tidy q := commit_tidy hs

theorem readSet_tidy (hs : s.Tidy q) : FstTidy q s.readSet := by
  unfold State.readSet
  extract_lets a
  split
  · rename_i x s1 e
    exact fst_mk (fst_tidy e (dmaRead_tidy hs))
  · rename_i x s1 bs e
    have hs1 : s1.Tidy q := fst_tidy e (dmaRead_tidy hs)
    extract_lets size n
    split
    · exact fst_mk hs1
    · split
      · exact fst_mk hs1
      · split
        · exact fst_mk hs1
        · split
          · exact fst_mk hs1
          · split
            · rename_i x1 s11 e1
              exact fst_mk (fst_tidy e1 (dmaRead_tidy hs1))
            · rename_i x1 s11 bs1 e1
              have hs11 : s11.Tidy q := fst_tidy e1 (dmaRead_tidy hs1)
              exact ite_fst_tidy (fst_mk hs11) (ite_fst_tidy (fst_mk hs11) (fst_mk hs11))

theorem mismEvents_tidy (hs : s.Tidy q) {b f} : (s.mismEvents b f).Tidy q := by
  unfold State.mismEvents
  refine foldl_tidy hs (fun s1 hs1 t => ?_)
  extract_lets l
  clear_value l
  split
  · exact hs1
  · exact event_tidy hs1

theorem convFlags_tidy (hs : s.Tidy q) {b i fl} : (s.convFlags b i fl).Tidy q := by
  unfold State.convFlags
  split
  · exact hs
  · split
    · exact hs
    · exact regPut_tidy hs

theorem warmStart_tidy (hs : s.Tidy q) {tasks} : (s.warmStart tasks).Tidy q := by
  unfold State.warmStart
  extract_lets s0 b
  have hs0 : s0.Tidy q := wr_tidy (commitRetBase_tidy hs)
  split
  · rename_i x s2 o e
    exact coldStart_tidy (event_tidy (wr_tidy (wr_tidy (wr_tidy (fst_tidy e (readSet_tidy hs0))))))
  · rename_i x s2 i e
    have hs2 : s2.Tidy q := fst_tidy e (readSet_tidy hs0)
    exact startDone_tidy (startTasks_tidy (mismEvents_tidy (wr_tidy (wr_tidy (wr_tidy (foldl_tidy (startBank_tidy hs2) fun _ h1 _
        => convFlags_tidy h1))))))

theorem warmStartCmd_tidy (hs : s.Tidy q) {tasks} : (s.warmStartCmd tasks).Tidy q := ite_tidy (startDone_tidy hs) (warmStart_tidy hs)

theorem execWarmStart_tidy (hs : s.Tidy q) {m tasks} : OutTidy q (execWarmStart m tasks s) :=
  next_tidy (gatePair_tidy hs (fun _ h1 => warmStartCmd_tidy (emit_tidy h1)))

/-! ### Machine/CadStart: Saves (R129) -/

theorem retEnd_tidy (hs : s.Tidy q) {r} : (s.retEnd r).Tidy q :=
  dispatch_tidy ((ite_tidy (raise_tidy (wr_tidy (wr_tidy hs))) (err_tidy (raise_tidy (wr_tidy (wr_tidy hs))))).frame)

theorem retCmd_tidy (hs : s.Tidy q) {m now} : (s.retCmd m now).Tidy q :=
  gate_tidy hs (fun _ h1 => ite_tidy (err_tidy h1) (ite_tidy (retEnd_tidy h1) ((wr_tidy h1).frame)))

theorem execRetSaveWait_tidy (hs : s.Tidy q) {m} : OutTidy q (execRetSaveWait m s) := next_tidy (retCmd_tidy hs)

theorem execRetSaveNow_tidy (hs : s.Tidy q) {m} : OutTidy q (execRetSaveNow m s) := next_tidy (retCmd_tidy hs)

theorem execRetSaveBegin_tidy (hs : s.Tidy q) : OutTidy q (execRetSaveBegin s) :=
  next_tidy (whileLive_tidy hs (fun _ h1 => ite_tidy h1 ((wr_tidy (commitRetBase_tidy h1)).frame)))

theorem execRetSaveEnd_tidy (hs : s.Tidy q) : OutTidy q (execRetSaveEnd s) := by
  unfold execRetSaveEnd
  refine next_tidy (whileLive_tidy hs fun s1 hs1 => ?_)
  split
  · exact hs1
  · split
    · exact retEnd_tidy hs1
    · split
      · rename_i x s2 e
        exact retEnd_tidy (fst_tidy e (dmaWrite_tidy hs1))
      · rename_i x s2 e
        have hs2 : s2.Tidy q := fst_tidy e (dmaWrite_tidy hs1)
        split
        · rename_i x1 s21 e1
          exact retEnd_tidy (fst_tidy e1 (dmaWrite_tidy hs2))
        · rename_i x1 s21 e1
          exact retEnd_tidy (fst_tidy e1 (dmaWrite_tidy hs2))

theorem execRetSaveTimeout_tidy (hs : s.Tidy q) : OutTidy q (execRetSaveTimeout s) :=
  next_tidy (whileLive_tidy hs (fun _ h1 => ite_tidy h1 (retEnd_tidy h1)))

/-! ### Machine/CadForce -/

theorem putForce_tidy (hs : s.Tidy q) {i sig f} : (s.putForce i sig f).Tidy q := hs.frame

theorem forceShow_tidy (hs : s.Tidy q) {i r st pend} : (s.forceShow i r st pend).Tidy q := wrB_tidy (wr_tidy (wr_tidy (wr_tidy hs)))

theorem forceRefuse_tidy (hs : s.Tidy q) {r i} : (s.forceRefuse r i).Tidy q := by
  unfold State.forceRefuse
  split
  · exact forceShow_tidy hs
  · exact wr_tidy hs

theorem forceCmd_tidy (hs : s.Tidy q) {m} {k : State → State} (hk : Keeps q k) : (s.forceCmd m k).Tidy q :=
  gatePair_tidy hs hk

theorem forceSet_tidy (hs : s.Tidy q) {qual} : (s.forceSet qual).Tidy q := by
  unfold State.forceSet
  extract_lets sig v at_
  split
  · exact forceRefuse_tidy hs
  · split
    · exact forceRefuse_tidy hs
    · extract_lets ty f
      split
      · exact forceRefuse_tidy hs
      · split
        · exact forceRefuse_tidy hs
        · exact forceShow_tidy (putForce_tidy hs)

theorem execForceSet_tidy (hs : s.Tidy q) {m qual} : OutTidy q (execForceSet m qual s) :=
  next_tidy (forceCmd_tidy hs (fun _ h1 => ite_tidy h1 (forceSet_tidy h1)))

theorem execForceRelease_tidy (hs : s.Tidy q) {m} : OutTidy q (execForceRelease m s) := by
  unfold execForceRelease
  refine next_tidy (forceCmd_tidy hs fun s1 hs1 => ?_)
  split
  · exact forceRefuse_tidy hs1
  · exact forceShow_tidy (putForce_tidy hs1)

theorem execRearm_tidy (hs : s.Tidy q) {m} : OutTidy q (execRearm m s) := by
  unfold execRearm
  refine next_tidy (forceCmd_tidy hs fun s1 hs1 => ?_)
  split
  · exact forceRefuse_tidy hs1
  · split
    · exact forceRefuse_tidy hs1
    · exact ite_tidy (forceRefuse_tidy hs1) (ite_tidy (forceRefuse_tidy hs1) (ite_tidy (forceShow_tidy hs1) (forceShow_tidy
          (putForce_tidy hs1))))

theorem forceLoad_tidy (hs : s.Tidy q) {i} : (s.forceLoad i).Tidy q := by
  unfold State.forceLoad
  split
  exact forceShow_tidy (wr_tidy (regPut_tidy (wr_tidy hs)))

theorem execForceRead_tidy (hs : s.Tidy q) {m idx} : OutTidy q (execForceRead m idx s) :=
  next_tidy (forceCmd_tidy hs (fun _ h1 => forceLoad_tidy h1))

theorem execReleaseAll_tidy (hs : s.Tidy q) {m} : OutTidy q (execReleaseAll m s) :=
  next_tidy (forceCmd_tidy hs (fun _ h1 => ite_tidy (wr_tidy (wr_tidy (wr_tidy h1.frame))) (wr_tidy h1.frame)))

theorem execNextOrphan_tidy (hs : s.Tidy q) {m idx} : OutTidy q (execNextOrphan m idx s) := by
  unfold execNextOrphan
  refine next_tidy (forceCmd_tidy hs fun s1 hs1 => ?_)
  split
  · exact forceRefuse_tidy hs1
  · exact forceLoad_tidy hs1

/-! ### Machine/CadChange: Arming (R142, R149, R151) -/

theorem setChg_tidy (hs : s.Tidy q) {st} : (s.setChg st).Tidy q := wr_tidy hs

theorem commitStage_tidy (hs : s.Tidy q) : s.commitStage.Tidy q := commit_tidy hs

theorem execArm_tidy (hs : s.Tidy q) {m refuse} : OutTidy q (execArm m refuse s) :=
  next_tidy (gatePair_tidy hs (fun _ h1 => ite_tidy (err_tidy h1) (ite_tidy (err_tidy (wr_tidy h1)) ((wr_tidy (setChg_tidy
      (commitStage_tidy h1))).frame))))

theorem execCancel_tidy (hs : s.Tidy q) {m} : OutTidy q (execCancel m s) :=
  next_tidy (gatePair_tidy hs (fun _ h1 => ite_tidy (abandonChg_tidy h1) h1))

/-! ### Machine/CadChange: The check (R140 to R143) -/

theorem execChgCheckEnd_tidy (hs : s.Tidy q) : OutTidy q (execChgCheckEnd s) :=
  next_tidy (whileLive_tidy hs (fun _ h1 => ite_tidy h1 (ite_tidy (abandonChg_tidy h1) ((wr_tidy (setChg_tidy h1)).frame))))

/-! ### Machine/CadChange: The window (R144, R148) -/

theorem beginMigration_tidy (hs : s.Tidy q) : s.beginMigration.Tidy q := (setChg_tidy hs).frame

theorem execChangeWindow_tidy (hs : s.Tidy q) : OutTidy q (execChangeWindow s) :=
  next_tidy (whileLive_tidy hs (fun _ h1 => ite_tidy h1 (ite_tidy (abandonChg_tidy h1) (beginMigration_tidy (emit_tidy h1)))))

theorem execChgTimeout_tidy (hs : s.Tidy q) : OutTidy q (execChgTimeout s) :=
  next_tidy (whileLive_tidy hs (fun _ h1 => ite_tidy h1 (abandonChg_tidy h1)))

/-! ### Machine/CadChange: Migration (R145 to R147) -/

theorem migEvents_tidy (hs : s.Tidy q) {a b f} : (s.migEvents a b f).Tidy q := by
  unfold State.migEvents
  refine foldl_tidy hs.frame (fun s1 hs1 i => ?_)
  extract_lets x s11
  have hs11 : s11.Tidy q := by
    unfold s11
    split
    · exact hs1
    · split
      · exact ueSeen_tidy hs1
      · exact hs1
  exact ite_tidy hs11 (event_tidy hs11)

theorem commitChange_tidy (hs : s.Tidy q) {a b f} : (s.commitChange a b f).Tidy q :=
  applyHeld_tidy (slotErrors_tidy (dropSigs_tidy (raise_tidy (wr_tidy (wr_tidy (wr_tidy (setChg_tidy (rebind_tidy (activate_tidy
      ((foldl_tidy hs fun _ h1 _ => convFlags_tidy h1).frame))))))))))

theorem stageError_tidy (hs : s.Tidy q) {off} : (s.stageError off).Tidy q := by
  unfold State.stageError
  split
  · rename_i x s1 pa e
    have hs1 : s1.Tidy q := fst_tidy e (xlate_tidy hs)
    exact ueSeen_tidy hs1.frame
  · rename_i x s1 cause e
    exact fst_tidy e (xlate_tidy hs)

theorem execMigrationEnd_tidy (hs : s.Tidy q) {bad} : OutTidy q (execMigrationEnd bad s) := by
  unfold execMigrationEnd
  refine next_tidy (whileLive_tidy hs fun s1 hs1 => ?_)
  split
  · exact hs1
  · extract_lets b
    split
    · exact hs1
    · split
      · exact hs1
      · extract_lets f mem
        split
        · rename_i x s2 e
          exact abandonChg_tidy (fst_tidy e (dmaWrite_tidy (migEvents_tidy hs1)))
        · rename_i x s2 e
          have hs2 : s2.Tidy q := fst_tidy e (dmaWrite_tidy (migEvents_tidy hs1))
          split
          · exact abandonChg_tidy (stageError_tidy hs2)
          · exact commitChange_tidy (putClean_tidy hs2)

/-! ### Machine/CadSignal -/

theorem slotRead_tidy (hs : s.Tidy q) {c rd slot f} : (s.slotRead c rd slot f).Tidy q :=
  instr_tidy hs (fun _ h1 _ => ite_end_tidy trivial h1)

theorem execSts_tidy (hs : s.Tidy q) {c reg slot q1} : OutTidy q (execSts c reg slot q1 s) :=
  next_tidy (instr_tidy hs (fun _ h1 _ => storeSlot_tidy h1))

theorem execStsx_tidy (hs : s.Tidy q) {c rs1 rs2 q1} : OutTidy q (execStsx c rs1 rs2 q1 s) :=
  next_tidy (instr_tidy hs (fun _ h1 _ => storeSlot_tidy h1))

/-! ### Machine/Mtr: Numbers -/

theorem roundAmt_tidy (hs : s.Tidy q) {num den} : SndTidy q (s.roundAmt num den) := by
  unfold State.roundAmt
  split
  · exact snd_mk hs
  · split
    rename_i x v s1 e
    exact snd_mk (snd_tidy e (draw_tidy hs))

theorem deliverMtr_tidy (hs : s.Tidy q) {point v qual} : (s.deliverMtr point v qual).Tidy q := deliver_tidy hs

/-! ### Machine/Mtr: Lanes (R280 to R287) -/

theorem setFrozen_tidy (hs : s.Tidy q) {v} : (s.setFrozen v).Tidy q := wrB_tidy (wrB_tidy hs)

theorem showSealing_tidy (hs : s.Tidy q) : s.showSealing.Tidy q := wrB_tidy hs

theorem laneRes_tidy (hs : s.Tidy q) {lane r pend} : (s.laneRes lane r pend).Tidy q := wrB_tidy (wr_tidy (wr_tidy hs))

theorem readLane_tidy (hs : s.Tidy q) {lane} : FstTidy q (s.readLane lane) := dmaRead_tidy hs

theorem laneCmd_tidy (hs : s.Tidy q) {op lane} : (s.laneCmd op lane).Tidy q := by
  unfold State.laneCmd
  extract_lets x
  split
  · exact err_tidy hs
  · split
    · exact laneRes_tidy (setLane_tidy hs)
    · split
      · rename_i x1 s1 e
        exact raise_tidy (laneRes_tidy (err_tidy (fst_tidy e (readLane_tidy hs))))
      · rename_i x1 s1 bs e
        have hs1 : s1.Tidy q := fst_tidy e (readLane_tidy hs)
        exact ite_tidy (laneRes_tidy (setLane_tidy hs1)) (raise_tidy (laneRes_tidy (ite_tidy (err_tidy hs1) hs1)))

theorem execLaneEnable_tidy (hs : s.Tidy q) {m lane} : OutTidy q (execLaneEnable m lane s) :=
  next_tidy (gate_tidy hs (fun _ h1 => laneCmd_tidy h1))

theorem execLaneDisable_tidy (hs : s.Tidy q) {m lane} : OutTidy q (execLaneDisable m lane s) :=
  next_tidy (gate_tidy hs (fun _ h1 => laneCmd_tidy h1))

theorem execLaneReload_tidy (hs : s.Tidy q) {m lane} : OutTidy q (execLaneReload m lane s) :=
  next_tidy (gate_tidy hs (fun _ h1 => laneCmd_tidy h1))

theorem execLaneClr_tidy (hs : s.Tidy q) {m lane} : OutTidy q (execLaneClr m lane s) :=
  next_tidy (gate_tidy hs (fun _ h1 => ite_tidy (err_tidy h1) (plainEv_tidy (setLane_tidy h1))))

theorem applyLaneCmd_tidy (hs : s.Tidy q) {n} : (s.applyLaneCmd n).Tidy q := by
  unfold State.applyLaneCmd
  extract_lets x src
  split
  · exact hs
  · exact raise_tidy (ite_tidy (wr_tidy (ite_tidy (wr_tidy (setLane_tidy hs)) (ite_tidy (wr_tidy (setLane_tidy hs)) (setLane_tidy
        hs)))) (ite_tidy (wr_tidy (setLane_tidy hs)) (ite_tidy (wr_tidy (setLane_tidy hs)) (setLane_tidy hs))))

/-! ### Machine/Mtr: Snapshots and the view table (R282 to R284) -/

theorem showSnap_tidy (hs : s.Tidy q) {k} : (s.showSnap k).Tidy q := foldl_tidy hs fun _ h1 _ => regPut_tidy h1

theorem execSnap_tidy (hs : s.Tidy q) {m k lane reg} : OutTidy q (execSnap m k lane reg s) := by
  unfold execSnap
  refine next_tidy (gate_tidy hs fun s1 hs1 => ?_)
  extract_lets s11 src s2
  have hs11 : s11.Tidy q := wr_tidy (wr_tidy hs1)
  have hs2 : s2.Tidy q := by
    unfold s2
    suffices h : (s11).Tidy q from h.frame
    exact hs11
  exact showSnap_tidy hs2

theorem execViewTableWrite_tidy (hs : s.Tidy q) : OutTidy q (execViewTableWrite s) := by
  unfold execViewTableWrite
  refine next_tidy (whileLive_tidy hs fun s1 hs1 => ?_)
  split
  · exact hs1
  · extract_lets base odd n body src s0 bad even
    have hs0 : s0.Tidy q := by
      unfold s0
      suffices h : (s1).Tidy q from h.frame
      exact hs1
    have hbad : ∀ t : State, t.Tidy q → (bad t).Tidy q := fun _ h1 => err_tidy h1
    split
    · rename_i x s2 e
      exact hbad _ (fst_tidy e (dmaWrite_tidy hs0))
    · rename_i x s2 e
      have hs2 : s2.Tidy q := fst_tidy e (dmaWrite_tidy hs0)
      split
      · rename_i x1 s21 e1
        exact hbad _ (fst_tidy e1 (dmaWrite_tidy hs2))
      · rename_i x1 s21 e1
        have hs21 : s21.Tidy q := fst_tidy e1 (dmaWrite_tidy hs2)
        split
        · rename_i x2 s22 e2
          exact hbad _ (fst_tidy e2 (dmaWrite_tidy hs21))
        · rename_i x2 s22 e2
          have hs22 : s22.Tidy q := fst_tidy e2 (dmaWrite_tidy hs21)
          suffices h : (s22).Tidy q from h.frame
          exact hs22

/-! ### Machine/Mtr: Intervals (R302 to R304) -/

theorem closeInterval_tidy (hs : s.Tidy q) {tEnd fl outage} : (s.closeInterval tEnd fl outage).Tidy q := by
  unfold State.closeInterval
  extract_lets nums groups flags new s1 src s2
  have hs1 : s1.Tidy q := foldl_tidy hs fun _ h1 _ => setLane_tidy h1
  have hs2 : s2.Tidy q := by
    unfold s2
    refine raise_tidy ?_
    refine showSealing_tidy ?_
    suffices h : (s1).Tidy q from h.frame
    exact hs1
  exact ite_tidy (askKst_tidy hs2) hs2

theorem openInterval_tidy (hs : s.Tidy q) {t fl} : (s.openInterval t fl).Tidy q := by
  unfold State.openInterval
  suffices h : (s).Tidy q from h.frame
  exact hs

theorem atBoundary_tidy (hs : s.Tidy q) {now} : (s.atBoundary now).Tidy q := by
  unfold State.atBoundary
  split
  · exact openInterval_tidy hs
  · split
    · exact ite_tidy (openInterval_tidy (closeInterval_tidy hs)) hs
    · extract_lets l src s1
      have hs1 : s1.Tidy q := by
        unfold s1
        suffices h : (s).Tidy q from h.frame
        exact hs
      exact ite_tidy (openInterval_tidy (closeInterval_tidy hs1)) hs1

theorem stepOpen_tidy (hs : s.Tidy q) {before after} : (s.stepOpen before after).Tidy q := by
  unfold State.stepOpen
  split
  · exact hs
  · split
    · suffices h : (s).Tidy q from h.frame
      exact hs
    · exact ite_tidy (openInterval_tidy (closeInterval_tidy (ite_tidy (openInterval_tidy (closeInterval_tidy hs)) hs))) hs

theorem mtrStep_tidy (hs : s.Tidy q) {before} : (s.mtrStep before).Tidy q := by
  unfold State.mtrStep
  split
  · exact hs
  · split
    · suffices h : (s).Tidy q from h.frame
      exact hs
    · exact stepOpen_tidy hs

theorem mtrValid_tidy (hs : s.Tidy q) : s.mtrValid.Tidy q := by
  unfold State.mtrValid
  split
  · exact hs
  · exact ite_tidy hs (openInterval_tidy (closeInterval_tidy hs))

/-! ### Machine/Mtr: Heat, volume and pulses (R297 to R301) -/

theorem tickErr_tidy (hs : s.Tidy q) {n ms} : (s.tickErr n ms).Tidy q := by
  unfold State.tickErr
  extract_lets x x1 src s1
  have hs1 : s1.Tidy q := setLane_tidy hs
  split
  rename_i x2 v s11 e
  have hs11 : s11.Tidy q := snd_tidy e (draw_tidy hs1)
  exact ite_tidy (deliverMtr_tidy hs11) (raise_tidy (deliverMtr_tidy hs11))

theorem addSigned_tidy (hs : s.Tidy q) {n k num den} : (s.addSigned n k num den).Tidy q := by
  unfold State.addSigned
  split
  · exact hs
  · split
    rename_i x v s1 e
    exact setLane_tidy (snd_tidy e (roundAmt_tidy hs))

theorem tickHeat_tidy (hs : s.Tidy q) {n dt} : (s.tickHeat n dt).Tidy q := by
  unfold State.tickHeat
  extract_lets c ms pair
  split
  · exact tickErr_tidy hs
  · extract_lets s1 s2
    have hs1 : s1.Tidy q := addSigned_tidy hs
    have hs2 : s2.Tidy q := ite_tidy hs1 (setLane_tidy hs1)
    split
    · exact tickErr_tidy hs2
    · split
      exact deliverMtr_tidy (setLane_tidy (addSigned_tidy hs2))

theorem tickVol_tidy (hs : s.Tidy q) {n dt} : (s.tickVol n dt).Tidy q := by
  unfold State.tickVol
  extract_lets c
  split
  · exact tickErr_tidy hs
  · exact deliverMtr_tidy (setLane_tidy (addSigned_tidy hs))

theorem tickPulse_tidy (hs : s.Tidy q) {n dt} : (s.tickPulse n dt).Tidy q :=
  deliverMtr_tidy (ite_tidy (addSigned_tidy hs) (setLane_tidy (addSigned_tidy hs)))

theorem tickLane_tidy (hs : s.Tidy q) {dt n} : (s.tickLane dt n).Tidy q :=
  ite_tidy hs (ite_tidy (tickHeat_tidy hs) (ite_tidy (tickVol_tidy hs) (ite_tidy (tickPulse_tidy hs) hs)))

theorem applyLaneCmds_tidy (hs : s.Tidy q) {p} : (s.applyLaneCmds p).Tidy q := by
  unfold State.applyLaneCmds
  refine foldl_tidy hs (fun s1 hs1 n => ?_)
  split
  · exact ite_tidy (applyLaneCmd_tidy hs1) hs1
  · exact hs1

theorem readCounters_tidy (hs : s.Tidy q) : s.readCounters.Tidy q := by
  unfold State.readCounters
  suffices h : (s).Tidy q from h.frame
  exact hs

theorem tickAll_tidy (hs : s.Tidy q) : s.tickAll.Tidy q := by
  unfold State.tickAll
  extract_lets dt s1 src
  have hs1 : s1.Tidy q := foldl_tidy (atBoundary_tidy hs) fun _ h1 _ => tickLane_tidy h1
  refine applyLaneCmds_tidy ?_
  refine readCounters_tidy ?_
  suffices h : (s1).Tidy q from h.frame
  exact hs1

theorem mtrStopAsked_tidy (hs : s.Tidy q) : s.mtrStopAsked.Tidy q := by
  unfold State.mtrStopAsked
  suffices h : (s).Tidy q from h.frame
  exact hs

theorem addOutage_tidy (hs : s.Tidy q) {ns} : (s.addOutage ns).Tidy q := by
  unfold State.addOutage
  extract_lets ms src
  suffices h : (s).Tidy q from h.frame
  exact hs

theorem mtrResume_tidy (hs : s.Tidy q) : s.mtrResume.Tidy q := by
  unfold State.mtrResume
  extract_lets s1 s2 s3 src
  have hs1 : s1.Tidy q := setFrozen_tidy hs
  have hs2 : s2.Tidy q := foldl_tidy hs1 fun _ h1 _ => stepOpen_tidy (addOutage_tidy h1)
  have hs3 : s3.Tidy q := addOutage_tidy hs2
  refine readCounters_tidy ?_
  suffices h : (s3).Tidy q from h.frame
  exact hs3

theorem execTick_tidy (hs : s.Tidy q) : OutTidy q (execTick s) :=
  next_tidy (whileLive_tidy hs (fun _ h1 => ite_tidy h1 (ite_tidy (ite_tidy (tickAll_tidy (mtrResume_tidy h1)) h1) (tickAll_tidy h1))))

/-! ### Machine/Mtr: Electrical measurement (R289 to R295) -/

theorem showRef_tidy (hs : s.Tidy q) {set} : (s.showRef set).Tidy q := wr_tidy hs

theorem setZc_tidy (hs : s.Tidy q) {set p z} : (s.setZc set p z).Tidy q := by
  unfold State.setZc
  extract_lets e src
  suffices h : (s).Tidy q from h.frame
  exact hs

theorem setElec_tidy (hs : s.Tidy q) {set e} : (s.setElec set e).Tidy q := by
  unfold State.setElec
  suffices h : (s).Tidy q from h.frame
  exact hs

theorem countCrossing_tidy (hs : s.Tidy q) {set t changed} : (s.countCrossing set t changed).Tidy q := setElec_tidy hs

theorem execZeroCrossing_tidy (hs : s.Tidy q) {set p} : OutTidy q (execZeroCrossing set p s) := by
  unfold execZeroCrossing
  refine next_tidy (whileLive_tidy hs fun s1 hs1 => ?_)
  extract_lets z hz nozc
  split
  · exact hs1
  · split
    · exact hs1
    · exact ite_tidy (setZc_tidy hs1) (ite_tidy (countCrossing_tidy (ite_tidy (showRef_tidy (raise_tidy (wr_tidy (setZc_tidy
          (setZc_tidy hs1))))) (setZc_tidy hs1))) (ite_tidy (showRef_tidy (raise_tidy (wr_tidy (setZc_tidy (setZc_tidy hs1)))))
              (setZc_tidy hs1)))

theorem execNozcTimeout_tidy (hs : s.Tidy q) {set p} : OutTidy q (execNozcTimeout set p s) :=
  next_tidy (whileLive_tidy hs (fun _ h1 => ite_tidy h1 (ite_tidy (setElec_tidy (showRef_tidy (setElec_tidy (setZc_tidy (raise_tidy
      (wr_tidy h1)))))) (showRef_tidy (setElec_tidy (setZc_tidy (raise_tidy (wr_tidy h1))))))))

theorem windowLane_tidy (hs : s.Tidy q) {set w nozc now n} : (s.windowLane set w nozc now n).Tidy q := by
  unfold State.windowLane
  extract_lets c ph e pos amt
  split
  · exact hs
  · split
    rename_i x v s1 e1
    exact deliverMtr_tidy (setLane_tidy (snd_tidy e1 (roundAmt_tidy hs)))

theorem thdgWord_tidy (hs : s.Tidy q) {g} : SndTidy q (s.thdgWord g) := by
  unfold State.thdgWord
  split
  · exact snd_mk hs
  · split
    rename_i x v s1 e
    exact snd_mk (snd_tidy e (draw_tidy hs))

theorem deliverWindow_tidy (hs : s.Tidy q) {set w} : (s.deliverWindow set w).Tidy q := by
  unfold State.deliverWindow
  extract_lets b ch s1 s2
  have hs1 : s1.Tidy q := foldl_tidy hs fun _ h1 _ => deliverMtr_tidy h1
  have hs2 : s2.Tidy q := foldl_tidy hs1 fun _ h1 _ => deliverMtr_tidy (deliverMtr_tidy (deliverMtr_tidy h1))
  split
  extract_lets s3
  have hs3 : s3.Tidy q := deliverMtr_tidy hs2
  split
  · exact hs3
  · refine foldl_tidy hs3 (fun s11 hs11 i => ?_)
    split
    rename_i x c s4 e
    have hs4 : s4.Tidy q := snd_tidy e (thdgWord_tidy hs11)
    split
    rename_i x1 c1 s5 e1
    exact deliverMtr_tidy (deliverMtr_tidy (snd_tidy e1 (thdgWord_tidy hs4)))

theorem harmRecord_tidy (hs : s.Tidy q) {set w nozc now} : (s.harmRecord set w nozc now).Tidy q := by
  unfold State.harmRecord
  refine ite_tidy hs (ite_tidy (raise_tidy hs) ?_)
  split
  rename_i chans s1 e
  have hs1 : s1.Tidy q := snd_tidy e (foldl_snd_tidy (snd_mk hs) fun p hp c => thdgWord_tidy hp)
  extract_lets r
  clear_value r
  split
  · rename_i s2 e2
    exact wr_tidy (fst_tidy e2 (dmaWrite_tidy hs1))
  · rename_i s2 e2
    exact err_tidy (fst_tidy e2 (dmaWrite_tidy hs1))

theorem windowAll_tidy (hs : s.Tidy q) {set tEnd} : (s.windowAll set tEnd).Tidy q := by
  unfold State.windowAll
  extract_lets w nz now s1 s2 s3 e old s4 src
  have hs1 : s1.Tidy q := atBoundary_tidy hs
  have hs2 : s2.Tidy q := foldl_tidy hs1 fun _ h1 _ => windowLane_tidy h1
  have hs3 : s3.Tidy q := harmRecord_tidy (deliverWindow_tidy hs2)
  have hs4 : s4.Tidy q := setElec_tidy hs3
  refine applyLaneCmds_tidy ?_
  suffices h : (s4).Tidy q from h.frame
  exact hs4

theorem execWindowEnd_tidy (hs : s.Tidy q) {set} : OutTidy q (execWindowEnd set s) :=
  next_tidy (whileLive_tidy hs (fun _ h1 => ite_tidy h1 (windowAll_tidy h1)))

theorem execRtdConversion_tidy (hs : s.Tidy q) {c nohm} : OutTidy q (execRtdConversion c nohm s) := by
  unfold execRtdConversion
  refine next_tidy (whileLive_tidy hs fun s1 hs1 => ?_)
  split
  · exact hs1
  · extract_lets k r0 good v src s11
    have hs11 : s11.Tidy q := by
      unfold s11
      suffices h : (s1).Tidy q from h.frame
      exact hs1
    clear_value k r0 good v src s11
    split
    · exact deliverMtr_tidy hs11
    · split
      rename_i x v s12 e
      exact deliverMtr_tidy (snd_tidy e (draw_tidy hs11))

theorem takeSet_tidy (hs : s.Tidy q) {set new} : (s.takeSet set new).Tidy q := ite_tidy hs (setElec_tidy hs)

theorem takeSample_tidy (hs : s.Tidy q) {codes} : (s.takeSample codes).Tidy q := takeSet_tidy (takeSet_tidy hs)

theorem execSampleBoundary_tidy (hs : s.Tidy q) {codes} : OutTidy q (execSampleBoundary codes s) :=
  next_tidy (whileLive_tidy hs (fun _ h1 => freezePoint_tidy (ite_tidy (takeSample_tidy ((commitBlk_tidy h1).frame)) ((commitBlk_tidy
      h1).frame))))

/-! ### Machine/Mtr: Sealing and storing (R305, R306) -/

theorem buildBlock_tidy (hs : s.Tidy q) {sign : State → BitVec 256 → State × Option (List Byte)} (hsign : FstKeeps q sign) :
    (s.buildBlock sign).Tidy q := by
  unfold State.buildBlock
  split
  · exact hs
  · extract_lets seq ents serial
    split
    rename_i x s1 sig e
    have hs1 : s1.Tidy q := fst_tidy e (hsign _ hs _)
    extract_lets flags bytes s2 src
    have hs2 : s2.Tidy q := ite_tidy hs1 (event_tidy (err_tidy (raise_tidy hs1)))
    refine showSealing_tidy ?_
    refine wr_tidy ?_
    suffices h : (s2).Tidy q from h.frame
    exact hs2

theorem showFree_tidy (hs : s.Tidy q) : s.showFree.Tidy q := wr_tidy hs

theorem execBlockStore_tidy (hs : s.Tidy q) : OutTidy q (execBlockStore s) := by
  refine next_tidy (whileLive_tidy hs fun s hs => ?_)
  split
  · exact hs
  · rename_i b rest e
    extract_lets src s0 room mtr nand s2 s3 src3 s1
    have hs0 : s0.Tidy q := showSealing_tidy hs.frame
    have hs2 : s2.Tidy q := raise_tidy (incSat_tidy hs0)
    have hs3 : s3.Tidy q := ite_tidy hs2 (event_tidy hs2)
    clear_value s0 room s3
    have hs1 : s1.Tidy q := by
      unfold s1
      split
      · exact hs0.frame
      · exact hs3.frame
    exact showFree_tidy (ite_tidy (raise_tidy hs1) hs1)

/-! ### Machine/Mtr: Totals images, freeze and restart (R307 to R311) -/

theorem writeTotals_tidy (hs : s.Tidy q) {clean at_} : (s.writeTotals clean at_).Tidy q := ite_tidy hs.frame hs.frame

theorem execCheckpoint_tidy (hs : s.Tidy q) : OutTidy q (execCheckpoint s) := by
  refine next_tidy (whileLive_tidy hs fun s hs => ite_tidy hs ?_)
  obtain ⟨hm, hr, -⟩ : (s.writeTotals false s.tb3).Tidy q := writeTotals_tidy hs
  exact ⟨hm, hr, hs.2.2⟩

theorem mtrFreeze_tidy (hs : s.Tidy q) : s.mtrFreeze.Tidy q := by
  unfold State.mtrFreeze
  split
  · exact hs
  · extract_lets part s1 src src1
    have hpart : ∀ t : State, t.Tidy q → ∀ set, (part t set).Tidy q := fun _ h1 _ => ite_tidy h1 (windowAll_tidy h1)
    have hs1 : s1.Tidy q := hpart _ (hpart _ (ite_tidy (tickAll_tidy hs) hs) _) _
    have hsrc : src.Tidy q := setFrozen_tidy hs1
    suffices h : (src).Tidy q from h.frame
    exact hsrc

theorem mtrPfDone_tidy (hs : s.Tidy q) : s.mtrPfDone.Tidy q := ite_tidy (raise_tidy hs) hs

theorem execTotalsCommit_tidy (hs : s.Tidy q) : OutTidy q (execTotalsCommit s) := by
  unfold execTotalsCommit
  refine next_tidy (whileLive_tidy hs fun s1 hs1 => ?_)
  split
  · exact hs1
  · extract_lets s11 src
    have hs11 : s11.Tidy q := useReserve_tidy (writeTotals_tidy hs1)
    refine mtrPfDone_tidy ?_
    suffices h : (s11).Tidy q from h.frame
    exact hs11

theorem mtrStop_tidy (hs : s.Tidy q) : s.mtrStop.Tidy q := by
  unfold State.mtrStop
  suffices h : (s).Tidy q from h.frame
  exact hs

theorem mtrStart_tidy (hs : s.Tidy q) : s.mtrStart.Tidy q := by
  unfold State.mtrStart
  extract_lets s1 sets src s2
  have hs1 : s1.Tidy q := by
    unfold s1
    split
    · exact closeInterval_tidy hs
    · exact hs
  have hs2 : s2.Tidy q := by
    unfold s2
    refine readCounters_tidy ?_
    suffices h : (s1).Tidy q from h.frame
    exact hs1
  exact showRef_tidy (showRef_tidy hs2)

/-- Lanes put one after another into an empty table are in canonical form, whatever their order. -/
theorem lanes_foldl_put_wf {α : Type} (f : α → Nat) (g : α → Lane) (l : List α) :
    ∀ m, Sparse.wf (fun _ => ({} : Lane)) m = true →
      Sparse.wf (fun _ => ({} : Lane)) (l.foldl (fun m x => Sparse.put m {} (f x) (g x)) m) = true := by
  induction l with
  | nil => exact fun _ h => h
  | cons x l ih => exact fun m h => ih _ (sparse_wf_put (fun _ => ({} : Lane)) m (f x) (g x) h)

/-- Canonical lanes complete a state whose lanes were left out of account. -/
theorem State.Tidy.withLanes {t : State} (ht : t.Tidy False) (hl : Sparse.wf (fun _ => ({} : Lane)) t.mtr.lanes = true) : t.Tidy q :=
  ⟨ht.1, ht.2.1, fun _ => hl⟩

/-- The lanes of the totals image stand in the state until they are put one after another into an empty table. -/
theorem sealRestored_tidy (hs : s.Tidy q) {fl t} : (s.sealRestored fl t).Tidy q := by
  unfold State.sealRestored
  extract_lets lanes src s1 s2 s3 cleared src2
  have hs1 : s1.Tidy False := ⟨hs.1, hs.2.1, False.elim⟩
  have hs2 : s2.Tidy False := wr_tidy (wr_tidy hs1)
  have hs3 : s3.Tidy False := ite_tidy (closeInterval_tidy hs2) hs2
  clear_value s3
  exact showSealing_tidy (State.Tidy.withLanes ⟨hs3.1, hs3.2.1, False.elim⟩ (lanes_foldl_put_wf _ _ _ _ rfl))

theorem pfStat_tidy (hs : s.Tidy q) {src clean gap zero} : (s.pfStat src clean gap zero).Tidy q :=
  wrB_tidy (wrB_tidy (wrB_tidy (wr_tidy hs)))

theorem restoreLoss_tidy (hs : s.Tidy q) {sev} : (s.restoreLoss sev).Tidy q := by
  unfold State.restoreLoss
  extract_lets src s1
  have hs1 : s1.Tidy q := by
    unfold s1
    refine err_tidy ?_
    suffices h : (s).Tidy q from h.frame
    exact hs
  exact event_tidy hs1

theorem lanesOfBlock_wf {b} : Sparse.wf (fun _ => ({} : Lane)) (lanesOfBlock b) = true := lanes_foldl_put_wf _ _ _ _ rfl

theorem mtrRestore_tidy (hs : s.Tidy q) {fl bad} : (s.mtrRestore fl bad).Tidy q := by
  unfold State.mtrRestore
  refine showFree_tidy (raise_tidy ?_)
  split
  · exact ite_tidy (sealRestored_tidy (pfStat_tidy hs)) (sealRestored_tidy (restoreLoss_tidy (pfStat_tidy hs)))
  · split
    · have h2 : ((s.pfStat 3 false true true).restoreLoss 7).Tidy q := restoreLoss_tidy (pfStat_tidy hs)
      refine wr_tidy ?_
      exact ⟨h2.1, h2.2.1, fun _ => lanesOfBlock_wf⟩
    · exact restoreLoss_tidy (pfStat_tidy hs)

/-! ### Machine/Tsu: The four time bases (R328 to R332) -/

theorem followTb0_tidy (hs : s.Tidy q) : s.followTb0.Tidy q := ite_tidy hs hs.frame

theorem markTb_tidy (hs : s.Tidy q) {adv} : (s.markTb adv).Tidy q := hs.frame

/-! ### Machine/Tsu: Pulse outputs (R334, R335) -/

theorem setTp_tidy (hs : s.Tidy q) {n x} : (s.setTp n x).Tidy q := hs.frame

theorem tpMark_tidy (hs : s.Tidy q) {n} : (s.tpMark n).Tidy q := setTp_tidy hs

theorem tpSkips_tidy (hs : s.Tidy q) {tb before} : (s.tpSkips tb before).Tidy q :=
  foldl_tidy hs fun _ h1 _ => ite_tidy h1 (ite_tidy (raise_tidy (tpMark_tidy h1)) (tpMark_tidy h1))

theorem tsuStart_tidy (hs : s.Tidy q) : s.tsuStart.Tidy q := foldl_tidy hs fun _ h1 _ => ite_tidy (tpMark_tidy h1) h1

theorem tpFire_tidy (hs : s.Tidy q) {n} : (s.tpFire n).Tidy q := setTp_tidy hs

theorem execTpPulse_tidy (hs : s.Tidy q) {n} : OutTidy q (execTpPulse n s) :=
  next_tidy (whileLive_tidy hs (fun _ h1 => ite_tidy h1 (ite_tidy (ite_tidy (tpFire_tidy h1) h1) (ite_tidy h1 (ite_tidy (setTp_tidy h1)
      (raise_tidy (setTp_tidy h1)))))))

theorem commitTp_tidy (hs : s.Tidy q) {n} : (s.commitTp n).Tidy q := commit_tidy hs

theorem execTpPulseEnd_tidy (hs : s.Tidy q) {n} : OutTidy q (execTpPulseEnd n s) := by
  unfold execTpPulseEnd
  refine next_tidy (whileLive_tidy hs fun s1 hs1 => ?_)
  split
  · exact hs1
  · exact ite_tidy hs1 (freezePoint_tidy (commitTp_tidy (ite_tidy (setTp_tidy hs1) (raise_tidy (setTp_tidy hs1)))))

/-! ### Machine/Tsu: Steps and validity of TB3 (R332) -/

theorem tb3Step_tidy (hs : s.Tidy q) {before} : (s.tb3Step before).Tidy q := mtrStep_tidy (tpSkips_tidy (raise_tidy (incWrap_tidy hs)))

theorem setTb3Valid_tidy (hs : s.Tidy q) {v h} : (s.setTb3Valid v h).Tidy q :=
  ite_tidy hs (ite_tidy (mtrValid_tidy (ite_tidy ((raiseEv_tidy (wrB_tidy (wrB_tidy hs))).frame) (raiseEv_tidy (wrB_tidy (wrB_tidy
      hs))))) (ite_tidy ((raiseEv_tidy (wrB_tidy (wrB_tidy hs))).frame) (raiseEv_tidy (wrB_tidy (wrB_tidy hs)))))

theorem evalTb3_tidy (hs : s.Tidy q) : s.evalTb3.Tidy q :=
  ite_tidy (setTb3Valid_tidy hs) (ite_tidy (setTb3Valid_tidy hs) (ite_tidy (setTb3Valid_tidy hs) (setTb3Valid_tidy hs)))

theorem execTb3SrcChange_tidy (hs : s.Tidy q) : OutTidy q (execTb3SrcChange s) := by
  unfold execTb3SrcChange
  refine next_tidy (whileLive_tidy hs fun s1 hs1 => ?_)
  extract_lets rtc before s2 src s11 s21 ok
  have hs2 : s2.Tidy q := markTb_tidy hs1
  have hs11 : s11.Tidy q := hs2.frame
  have hs21 : s21.Tidy q := hs11.frame
  clear_value rtc before s2 src s11 s21 ok
  exact ite_tidy hs1 (setTb3Valid_tidy (tb3Step_tidy hs21))

theorem execTb3OfsCommit_tidy (hs : s.Tidy q) : OutTidy q (execTb3OfsCommit s) :=
  next_tidy (whileLive_tidy hs (fun _ h1 => ite_tidy h1 (ite_tidy (followTb0_tidy (commit_tidy (markTb_tidy h1))) (tb3Step_tidy
      (followTb0_tidy (commit_tidy (markTb_tidy h1)))))))

theorem execHoldoverExpiry_tidy (hs : s.Tidy q) : OutTidy q (execHoldoverExpiry s) :=
  next_tidy (whileLive_tidy hs (fun _ h1 => ite_tidy (setTb3Valid_tidy h1) h1))

theorem execSyncedWrite_tidy (hs : s.Tidy q) {m n v} : OutTidy q (execSyncedWrite m n v s) :=
  next_tidy (gate_tidy hs (fun _ h1 => ite_tidy h1 (ite_tidy (evalTb3_tidy (wrB_tidy h1)) (wrB_tidy h1))))

/-! ### Machine/Tsu: Adjustments (R329) -/

theorem setSlew_tidy (hs : s.Tidy q) {n o} : (s.setSlew n o).Tidy q := ite_tidy hs.frame hs.frame

theorem setTb_tidy (hs : s.Tidy q) {n u} : (s.setTb n u).Tidy q := ite_tidy hs.frame hs.frame

theorem adjust_tidy (hs : s.Tidy q) {m n bad} {k : State → State} (hk : Keeps q k) : (s.adjust m n bad k).Tidy q :=
  gate_tidy hs (fun _ h1 => ite_tidy h1 (ite_tidy (err_tidy h1) (hk _ (markTb_tidy h1))))

theorem stepTb_tidy (hs : s.Tidy q) {n u} : (s.stepTb n u).Tidy q :=
  ite_tidy (tb3Step_tidy (followTb0_tidy (tpSkips_tidy (raise_tidy (incWrap_tidy (wr_tidy (setSlew_tidy (setTb_tidy hs))))))))
      (tpSkips_tidy (raise_tidy (incWrap_tidy (wr_tidy (setSlew_tidy (setTb_tidy hs))))))

theorem execStep_tidy (hs : s.Tidy q) {m n secHi} : OutTidy q (execStep m n secHi s) :=
  next_tidy (adjust_tidy hs (fun _ h1 => stepTb_tidy h1))

theorem execSet_tidy (hs : s.Tidy q) {m n secHi} : OutTidy q (execSet m n secHi s) :=
  next_tidy (adjust_tidy hs (fun _ h1 => stepTb_tidy h1))

theorem execSlew_tidy (hs : s.Tidy q) {m n secHi} : OutTidy q (execSlew m n secHi s) :=
  next_tidy (adjust_tidy hs (fun _ h1 => ite_tidy (raise_tidy (wr_tidy (setSlew_tidy h1))) (wr_tidy (setSlew_tidy h1))))

theorem execSlewDone_tidy (hs : s.Tidy q) {n} : OutTidy q (execSlewDone n s) :=
  next_tidy (whileLive_tidy hs (fun _ h1 => ite_tidy (raise_tidy (wr_tidy h1)) h1))

theorem execTbReadLatch_tidy (hs : s.Tidy q) {m n} : OutTidy q (execTbReadLatch m n s) :=
  next_tidy (gateRead_tidy hs (fun _ h1 => reply_tidy (wr_tidy (regPut_tidy h1))))

theorem tsuSoftReset_tidy (hs : s.Tidy q) : s.tsuSoftReset.Tidy q := by
  unfold State.tsuSoftReset
  extract_lets s1 src
  have hs1 : s1.Tidy q := markTb_tidy hs
  exact hs1.frame

theorem tsuRestart_tidy (hs : s.Tidy q) : s.tsuRestart.Tidy q :=
  evalTb3_tidy (ite_tidy (followTb0_tidy hs) (tb3Step_tidy (followTb0_tidy hs)))

/-! ### Machine/Tsu: Capture inputs (R336) -/

theorem setTc_tidy (hs : s.Tidy q) {n x} : (s.setTc n x).Tidy q := wr_tidy hs.frame

theorem execTcCapture_tidy (hs : s.Tidy q) {n falling} : OutTidy q (execTcCapture n falling s) :=
  next_tidy (whileLive_tidy hs (fun _ h1 => ite_tidy (setTc_tidy h1) (ite_tidy (raise_tidy (incSat_tidy (setTc_tidy h1))) (raise_tidy
      (setTc_tidy (setTc_tidy h1))))))

theorem execTcPop_tidy (hs : s.Tidy q) {m n} : OutTidy q (execTcPop m n s) := by
  unfold execTcPop
  refine next_tidy (gateRead_tidy hs fun s1 hs1 => ?_)
  extract_lets x
  split
  · exact reply_tidy hs1
  · exact reply_tidy (regPut_tidy (setTc_tidy hs1))

/-! ### Machine/Fio -/

theorem fioSample_tidy (hs : s.Tidy q) : s.fioSample.Tidy q := ite_tidy (freezePoint_tidy (commitBlk_tidy hs)) hs

/-! ### Machine/Fio: Outputs (R345 to R349) -/

theorem execDoUpdate_tidy (hs : s.Tidy q) : OutTidy q (execDoUpdate s) :=
  next_tidy (whileLive_tidy hs (fun _ h1 => drive_tidy (wr_tidy h1)))

theorem execDoCurrentLimit_tidy (hs : s.Tidy q) {n} : OutTidy q (execDoCurrentLimit n s) :=
  next_tidy (whileLive_tidy hs (fun _ h1 => ite_tidy (drive_tidy h1.frame) h1))

theorem execThermalShutdown_tidy (hs : s.Tidy q) {n} : OutTidy q (execThermalShutdown n s) :=
  next_tidy (whileLive_tidy hs (fun _ h1 => ite_tidy (drive_tidy h1.frame) h1))

theorem execThermalRestart_tidy (hs : s.Tidy q) {n} : OutTidy q (execThermalRestart n s) :=
  next_tidy (whileLive_tidy hs (fun _ h1 => drive_tidy h1.frame))

theorem execOffStateFault_tidy (hs : s.Tidy q) {n} : OutTidy q (execOffStateFault n s) :=
  next_tidy (whileLive_tidy hs (fun _ h1 => ite_tidy h1 (drive_tidy h1.frame)))

theorem execDoFaultEnd_tidy (hs : s.Tidy q) {n} : OutTidy q (execDoFaultEnd n s) :=
  next_tidy (whileLive_tidy hs (fun _ h1 => drive_tidy h1.frame))

theorem execDoInhibit_tidy (hs : s.Tidy q) {m v} : OutTidy q (execDoInhibit m v s) := by
  unfold execDoInhibit
  refine next_tidy (gate_tidy hs fun s1 hs1 => ?_)
  extract_lets old held new s11
  have hs11 : s11.Tidy q := drive_tidy (wr_tidy hs1)
  split
  · exact err_tidy hs11
  · exact hs11

theorem execDoDiag_tidy (hs : s.Tidy q) {m v} : OutTidy q (execDoDiag m v s) :=
  next_tidy (gate_tidy hs (fun _ h1 => drive_tidy (wr_tidy h1)))

/-! ### Machine/Fio: Inputs (R339 to R344) -/

theorem diDeliver_tidy (hs : s.Tidy q) {n qual} : (s.diDeliver n qual).Tidy q := deliverIn_tidy hs

theorem cntDeliver_tidy (hs : s.Tidy q) {n qual} : (s.cntDeliver n qual).Tidy q := deliverIn_tidy hs

theorem diAll_tidy (hs : s.Tidy q) {qual} : (s.diAll qual).Tidy q := foldl_tidy hs fun _ h1 _ => cntDeliver_tidy (diDeliver_tidy h1)

theorem setEdges_tidy (hs : s.Tidy q) {q1} : (s.setEdges q1).Tidy q := wr_tidy hs.frame

theorem queueEdge_tidy (hs : s.Tidy q) {e} : (s.queueEdge e).Tidy q :=
  ite_tidy (raise_tidy (incSat_tidy hs)) (ite_tidy (raise_tidy (setEdges_tidy hs)) (setEdges_tidy hs))

theorem execDiEdge_tidy (hs : s.Tidy q) {n start} : OutTidy q (execDiEdge n start s) := by
  unfold execDiEdge
  refine next_tidy (whileLive_tidy hs fun s1 hs1 => ?_)
  extract_lets s2 falling src s0 s11 s21 src1 s3 s31 tb
  have hs2 : s2.Tidy q := fioSample_tidy hs1
  have hs0 : s0.Tidy q := hs2.frame
  have hs11 : s11.Tidy q := wrB_tidy (wrB_tidy hs0)
  have hs21 : s21.Tidy q := diDeliver_tidy hs11
  have hs3 : s3.Tidy q := incWrap_tidy hs21.frame
  have hs31 : s31.Tidy q := ite_tidy (cntDeliver_tidy hs3) hs21
  exact ite_tidy hs2 (ite_tidy (queueEdge_tidy hs31) hs31)

theorem execEdgePop_tidy (hs : s.Tidy q) {m} : OutTidy q (execEdgePop m s) := by
  unfold execEdgePop
  refine next_tidy (gateRead_tidy hs fun s1 hs1 => ?_)
  split
  · exact reply_tidy hs1
  · exact reply_tidy (regPut_tidy (setEdges_tidy hs1))

theorem execVfldMeasure_tidy (hs : s.Tidy q) {v1 v2} : OutTidy q (execVfldMeasure v1 v2 s) :=
  next_tidy (whileLive_tidy hs (fun _ h1 => ite_tidy (deliverIn_tidy (deliverIn_tidy (wr_tidy (wr_tidy h1)))) (wr_tidy (wr_tidy h1))))

theorem execUvChg_tidy (hs : s.Tidy q) {g mv} : OutTidy q (execUvChg g mv s) := by
  refine next_tidy (whileLive_tidy hs fun s hs => ite_tidy hs ?_)
  obtain ⟨s1, e, hs1⟩ : ∃ t, ((s.wrB (statFld .fio (10 + g)) !s.uv g).raise .fio 6).drive = t ∧ t.Tidy q :=
    ⟨_, rfl, drive_tidy (raise_tidy (wrB_tidy hs))⟩
  rw [e]
  exact ite_tidy hs1 (ite_tidy hs1.frame (ite_tidy (diAll_tidy hs1.frame) hs1.frame))

theorem execDiRestart_tidy (hs : s.Tidy q) {raw} : OutTidy q (execDiRestart raw s) := by
  unfold execDiRestart
  refine next_tidy (whileLive_tidy hs fun s1 hs1 => ?_)
  split
  · exact hs1
  · exact ite_tidy hs1 (ite_tidy (diAll_tidy (wr_tidy (wr_tidy hs1.frame))) (wr_tidy (wr_tidy hs1.frame)))

theorem fioStart_tidy (hs : s.Tidy q) : s.fioStart.Tidy q := drive_tidy (diAll_tidy hs.frame)

theorem fioStop_tidy (hs : s.Tidy q) : s.fioStop.Tidy q := by
  unfold State.fioStop
  refine drive_tidy ?_
  extract_lets src src1
  have hsrc : src.Tidy q := diAll_tidy hs
  clear_value src src1
  exact hsrc.frame

/-! ### Machine/SpkData: Keys for ring tags (R190, R193, R418, R420) -/

theorem setKslot_tidy (hs : s.Tidy q) {n x} : (s.setKslot n x).Tidy q := hs.frame

theorem markBad_tidy (hs : s.Tidy q) {n} : (s.markBad n).Tidy q := err_tidy (raise_tidy (wr_tidy hs))

theorem checkSlot_tidy (hs : s.Tidy q) {n} : (s.checkSlot n).Tidy q := by
  unfold State.checkSlot
  split
  · exact ite_tidy (markBad_tidy hs) hs
  · exact hs

theorem checkTag_tidy (hs : s.Tidy q) {n} : (s.checkTag n).Tidy q := ite_tidy hs (checkSlot_tidy hs)

/-! ### Machine/SpkData: The spoke table (R173, R174, R176) -/

theorem setSpoke_tidy (hs : s.Tidy q) {node e} : (s.setSpoke node e).Tidy q := hs.frame

theorem readSpoke_tidy (hs : s.Tidy q) {node} : FstTidy q (s.readSpoke node) := by
  unfold State.readSpoke
  split
  · rename_i x s1 e
    exact fst_mk (fst_tidy e (dmaRead_tidy hs))
  · rename_i x s1 bs e
    have hs1 : s1.Tidy q := fst_tidy e (dmaRead_tidy hs)
    split
    · rename_i x1 s11 e1
      exact fst_mk (fst_tidy e1 (dmaRead_tidy hs1))
    · rename_i x1 s11 bs1 e1
      exact fst_mk (fst_tidy e1 (dmaRead_tidy hs1))

theorem spokeBad_tidy (hs : s.Tidy q) {node fault} : (s.spokeBad node fault).Tidy q := err_tidy (raise_tidy (setSpoke_tidy hs))

theorem spokeGood_tidy (hs : s.Tidy q) {node c} : (s.spokeGood node c).Tidy q := setSpoke_tidy hs

theorem writeBack_tidy (hs : s.Tidy q) {node} : (s.writeBack node).Tidy q := by
  unfold State.writeBack
  extract_lets e s1
  have hs1 : s1.Tidy q := setSpoke_tidy hs
  split
  · rename_i x s2 e1
    exact fst_tidy e1 (dmaWrite_tidy hs1)
  · rename_i x s2 e1
    exact err_tidy (fst_tidy e1 (dmaWrite_tidy hs1))

theorem showCached_tidy (hs : s.Tidy q) : s.showCached.Tidy q := wr_tidy hs

theorem markCached_tidy (hs : s.Tidy q) {node v} : (s.markCached node v).Tidy q := setSpoke_tidy hs

theorem cacheSpoke_tidy (hs : s.Tidy q) {node} : (s.cacheSpoke node).Tidy q := by
  unfold State.cacheSpoke
  extract_lets l s1
  have hs1 : s1.Tidy q := by
    unfold s1
    split
    · exact hs
    · split
      rename_i x v s11 e
      exact writeBack_tidy (markCached_tidy (snd_tidy e (draw_tidy hs)))
  exact markCached_tidy hs1

theorem useSpoke_tidy (hs : s.Tidy q) {node} : (s.useSpoke node).Tidy q := by
  unfold State.useSpoke
  split
  · exact hs
  · extract_lets s2
    have hs2 : s2.Tidy q := by
      unfold s2
      split
      · rename_i x s1 e
        exact spokeBad_tidy (fst_tidy e (readSpoke_tidy hs))
      · rename_i x s1 c e
        have hs1 : s1.Tidy q := fst_tidy e (readSpoke_tidy hs)
        exact ite_tidy (spokeBad_tidy hs1) (spokeGood_tidy hs1)
    exact cacheSpoke_tidy hs2

/-! ### Machine/SpkData: Packing (R162) -/

theorem readAll_tidy (hs : s.Tidy q) : FstTidy q s.readAll := by
  unfold State.readAll
  refine foldl_fst_tidy (fst_mk hs) (fun s1 hs1 n => ?_)
  split
  rename_i x s11 c e
  exact fst_mk (fst_tidy e (readSpoke_tidy hs1.tidy))

/-- The function is unfolded through an equation of functions, so that its body is compared with nothing. -/
theorem repack_tidy (hs : s.Tidy q) : FstTidy q s.repack := by
  generalize hf : State.repack = f
  delta State.repack at hf
  subst hf
  beta_reduce
  split
  rename_i s1 l r e
  have hs1 : s1.Tidy q := fst_tidy e (readAll_tidy hs)
  extract_lets cfgs on fs s2 s3 src s4 s5
  have hs2 : s2.Tidy q := foldl_tidy hs1 fun _ h1 _ => setSpoke_tidy h1
  have hs3 : s3.Tidy q := by
    refine foldl_tidy hs2 fun t ht x => ?_
    split
    · exact spokeBad_tidy ht
    · exact ite_tidy (spokeBad_tidy ht) ht
  have hs4 : s4.Tidy q := wr_tidy hs3.frame
  have hs5 : s5.Tidy q := showCached_tidy (foldl_tidy hs4 fun _ h1 _ => markCached_tidy h1)
  clear_value s5
  exact ite_fst_tidy (fst_mk hs1) (fst_mk (foldl_tidy hs5 fun _ h1 _ => writeBack_tidy h1))

theorem countSpokes_tidy (hs : s.Tidy q) : s.countSpokes.Tidy q := wr_tidy (wr_tidy hs)

theorem reload_tidy (hs : s.Tidy q) {node} : FstTidy q (s.reload node) := by
  unfold State.reload
  split
  · rename_i x s1 e
    exact fst_mk (err_tidy (fst_tidy e (readSpoke_tidy hs)))
  · rename_i x s1 c e
    have hs1 : s1.Tidy q := fst_tidy e (readSpoke_tidy hs)
    exact ite_fst_tidy (fst_mk (spokeBad_tidy hs1)) (ite_fst_tidy (fst_mk hs1) (ite_fst_tidy (fst_mk hs1) (fst_mk (showCached_tidy
        (cacheSpoke_tidy (spokeGood_tidy hs1))))))

theorem tblEnd_tidy (hs : s.Tidy q) {r} : (s.tblEnd r).Tidy q := raise_tidy (wr_tidy (wr_tidy hs))

theorem tblRun_tidy (hs : s.Tidy q) {op node} : (s.tblRun op node).Tidy q := by
  unfold State.tblRun
  split
  rename_i x s1 c1 e
  exact tblEnd_tidy (countSpokes_tidy (fst_tidy e (ite_fst_tidy (repack_tidy hs) (reload_tidy hs))))

/-! ### Machine/Spk: Role and ring state (R18 to R24, R153) -/

theorem sendRing_tidy (hs : s.Tidy q) {port f} : (s.sendRing port f).Tidy q := ite_tidy hs.frame hs

theorem clearTx_tidy (hs : s.Tidy q) : s.clearTx.Tidy q := hs.frame

/-! ### Machine/Spk: Ring instants (R116, R117, R155, R156) -/

theorem supplyInstant_tidy (hs : s.Tidy q) : s.supplyInstant.Tidy q := hs.frame

theorem streamPeriod_tidy (hs : s.Tidy q) : s.streamPeriod.Tidy q := ite_tidy (emit_tidy (nextPeriod_tidy hs)) hs

theorem execRingInstant_tidy (hs : s.Tidy q) : OutTidy q (execRingInstant s) :=
  next_tidy (whileLive_tidy hs (fun _ h1 => ite_tidy h1 ((streamPeriod_tidy (supplyInstant_tidy h1)).frame)))

theorem execRingInstantTimeout_tidy (hs : s.Tidy q) : OutTidy q (execRingInstantTimeout s) :=
  next_tidy (whileLive_tidy hs (fun _ h1 => ite_tidy h1 (loseInstants_tidy h1)))

/-! ### Machine/Spk: Departure (R27, R28, R155, R158 to R160, R175, R181, R190, R193, R194) -/

theorem commitSpk_tidy (hs : s.Tidy q) : s.commitSpk.Tidy q := ite_tidy (err_tidy (commitBlk_tidy hs.frame)) (commitBlk_tidy hs)

theorem sendBoth_tidy (hs : s.Tidy q) {mk key} : (s.sendBoth mk key).Tidy q := sendRing_tidy (sendRing_tidy hs)

theorem tagBad_tidy (hs : s.Tidy q) {slot} : (s.tagBad slot).Tidy q := ite_tidy (raise_tidy hs) ((raiseEv_tidy hs).frame)

theorem sendTagged_tidy (hs : s.Tidy q) {tagged slot mk} : (s.sendTagged tagged slot mk).Tidy q := by
  unfold State.sendTagged
  extract_lets s1 src s11
  have hs1 : s1.Tidy q := ite_tidy (checkTag_tidy hs) hs
  have hs11 : s11.Tidy q := hs1.frame
  split
  · exact sendBoth_tidy hs1
  · split
    · exact tagBad_tidy hs1
    · exact sendBoth_tidy hs11

theorem sendCyclic_tidy (hs : s.Tidy q) {num fresh stopping} : (s.sendCyclic num fresh stopping).Tidy q :=
  foldl_tidy hs fun _ h1 _ => sendTagged_tidy (foldl_tidy h1 fun _ h2 _ => useSpoke_tidy h2)

/-! ### Machine/Spk: Mailbox frames (R185 to R187, R189) -/

theorem mbxDesc_tidy (hs : s.Tidy q) {q1 i} : FstTidy q (s.mbxDesc q1 i) := dmaRead_tidy hs

theorem mbxDone_tidy (hs : s.Tidy q) {i node r} : (s.mbxDone i node r).Tidy q := by
  unfold State.mbxDone
  extract_lets s1 src
  have hs1 : s1.Tidy q := by
    unfold s1
    split
    · rename_i x s2 e
      exact fst_tidy e (dmaWrite_tidy hs)
    · rename_i x s2 e
      exact err_tidy (fst_tidy e (dmaWrite_tidy hs))
  split
  exact ite_tidy (raise_tidy (raise_tidy (wr_tidy hs1.frame))) (raise_tidy (wr_tidy hs1.frame))

theorem sendMbx_tidy (hs : s.Tidy q) {num frame kind node area} : (s.sendMbx num frame kind node area).Tidy q := by
  unfold State.sendMbx
  exact sendTagged_tidy (useSpoke_tidy hs)

theorem sendDown_tidy (hs : s.Tidy q) {num frame x} : (s.sendDown num frame x).Tidy q := (sendMbx_tidy hs).frame

theorem mbxTake_tidy (hs : s.Tidy q) : FstTidy q s.mbxTake := by
  unfold State.mbxTake
  extract_lets i
  split
  · exact fst_mk hs
  · split
    · rename_i x s1 e
      exact fst_mk (err_tidy (fst_tidy e (mbxDesc_tidy hs)))
    · rename_i x s1 bs e
      have hs1 : s1.Tidy q := fst_tidy e (mbxDesc_tidy hs)
      extract_lets len node e1
      split
      · exact fst_mk hs1
      · split
        · exact fst_mk hs1
        · split
          · exact fst_mk hs1
          · split
            · exact fst_mk hs1
            · split
              · exact fst_mk hs1
              · split
                · rename_i x1 s11 e2
                  exact fst_mk (err_tidy (fst_tidy e2 (dmaRead_tidy hs1)))
                · rename_i x1 s11 bs1 e2
                  exact fst_mk (fst_tidy e2 (dmaRead_tidy hs1))

theorem takeDown_tidy (hs : s.Tidy q) {num n left} : FstTidy q (s.takeDown num n left) := by
  induction n generalizing s left with
  | zero => exact hs
  | succ n ih =>
    unfold State.takeDown
    refine ite_fst_tidy hs ?_
    extract_lets i next
    have hnext : ∀ t : State, t.Tidy q → (next t).Tidy q := fun _ h => h.frame
    clear_value i next
    split
    · rename_i s1 e
      exact fst_tidy e (mbxTake_tidy hs)
    · rename_i s1 node r bad e
      have hs1 : s1.Tidy q := fst_tidy e (mbxTake_tidy hs)
      exact ih (hnext _ (mbxDone_tidy (ite_tidy (err_tidy hs1) hs1)))
    · rename_i s1 m e
      have hs1 : s1.Tidy q := fst_tidy e (mbxTake_tidy hs)
      extract_lets sp st s2 s3 fr
      have hs2 : s2.Tidy q := setSpoke_tidy hs1
      exact ih (sendDown_tidy (hnext _ hs2.frame))

theorem sendMailbox_tidy (hs : s.Tidy q) {num} : (s.sendMailbox num).Tidy q := by
  unfold State.sendMailbox
  extract_lets k base again s1
  have hs1 : s1.Tidy q := foldl_tidy hs fun _ h1 _ => sendDown_tidy h1
  split
  rename_i x s11 c1 e
  have hs11 : s11.Tidy q := fst_tidy e (takeDown_tidy hs1)
  extract_lets polls s3 src
  have hs3 : s3.Tidy q := foldl_tidy hs11 fun _ h1 _ => sendMbx_tidy h1
  split
  · exact hs3.frame
  · exact hs3

/-! ### Machine/Spk: The pass -/

theorem recordDigest_tidy (hs : s.Tidy q) {num} : (s.recordDigest num).Tidy q :=
  ite_tidy hs (ite_tidy (sendTdm_tidy hs.frame) (emit_tidy hs.frame))

theorem depart_tidy (hs : s.Tidy q) {inst late} : (s.depart inst late).Tidy q := by
  unfold State.depart
  extract_lets s1 spk1 s2 stopping fresh num s3 eps left p spk3 lpe3 s4 s5
  have hs2 : s2.Tidy q := by
    have hs1 : s1.Tidy q := commitSpk_tidy (clearTx_tidy hs)
    unfold s2
    split
    · exact tblRun_tidy hs1.frame
    · exact hs1
  have hs3 : s3.Tidy q := sendMailbox_tidy (sendCyclic_tidy hs2)
  clear_value s3
  exact wr_tidy (wr_tidy (wrB_tidy (recordDigest_tidy (hs3.frame))))

theorem execPassDeparture_tidy (hs : s.Tidy q) : OutTidy q (execPassDeparture s) := by
  unfold execPassDeparture
  refine next_tidy (whileLive_tidy hs fun s1 hs1 => ?_)
  split
  · exact hs1
  · exact ite_tidy hs1 (ite_tidy (freezePoint_tidy hs1) (depart_tidy (ite_tidy (overrun_tidy (freezePoint_tidy hs1))
        (freezePoint_tidy hs1))))

/-! ### Machine/Spk: Returns (R154, R169, R178, R183, R187, R193) -/

theorem acceptUp_tidy (hs : s.Tidy q) {node a} : (s.acceptUp node a).Tidy q := by
  unfold State.acceptUp
  extract_lets e seq i len pay
  split
  · exact hs
  · split
    · rename_i x s1 e1
      exact err_tidy (fst_tidy e1 (mbxDesc_tidy hs))
    · rename_i x s1 bs e1
      have hs1 : s1.Tidy q := fst_tidy e1 (mbxDesc_tidy hs)
      split
      · exact hs1
      · extract_lets buf
        split
        rename_i x1 s11 c1 e2
        have hs11 : s11.Tidy q := by
          refine fst_tidy e2 ?_
          split
          · exact fst_mk hs1
          · split
            · rename_i x2 s2 e3
              exact fst_mk (fst_tidy e3 (dmaWrite_tidy hs1))
            · rename_i x2 s2 e3
              exact fst_mk (err_tidy (fst_tidy e3 (dmaWrite_tidy hs1)))
        extract_lets tail s3 e3 src s4 s5
        have hs3 : s3.Tidy q := by
          unfold s3
          split
          · rename_i x2 s2 e4
            exact fst_tidy e4 (dmaWrite_tidy hs11)
          · rename_i x2 s2 e4
            exact err_tidy (fst_tidy e4 (dmaWrite_tidy hs11))
        have hs4 : s4.Tidy q := setSpoke_tidy hs3
        have hs5 : s5.Tidy q := raise_tidy (wr_tidy hs4)
        exact ite_tidy (raise_tidy hs5) hs5

theorem ringBreak_tidy (hs : s.Tidy q) {b} : (s.ringBreak b).Tidy q := raiseEv_tidy (wr_tidy (wr_tidy hs))

theorem execFrameReturn_tidy (hs : s.Tidy q) {port f} : OutTidy q (execFrameReturn port f s) := by
  unfold execFrameReturn
  refine next_tidy (whileLive_tidy hs fun s1 hs1 => ?_)
  split
  · exact hs1
  · extract_lets b s0 s11 tagGood s2 own s3 src c a
    have hs0 : s0.Tidy q := ite_tidy (checkTag_tidy hs1) hs1
    have hs11 : s11.Tidy q := ite_tidy hs0 (incSat_tidy hs0)
    have hs2 : s2.Tidy q := ite_tidy hs11 (raise_tidy (incSat_tidy hs11))
    have hs3 : s3.Tidy q := ite_tidy (ringBreak_tidy hs2) hs2
    split
    · exact raise_tidy hs3
    · exact ite_tidy (raise_tidy hs3.frame) (ite_tidy (raise_tidy (wr_tidy (ite_tidy (acceptUp_tidy hs3.frame) hs3.frame))) (ite_tidy
          (acceptUp_tidy hs3.frame) hs3.frame))

/-! ### Machine/Spk: Input commit (R161, R169, R170, R175, R178 to R181) -/

theorem deliverSpoke_tidy (hs : s.Tidy q) {node} : (s.deliverSpoke node).Tidy q :=
  ite_tidy hs (foldl_tidy hs fun _ h1 _ => ite_tidy h1 (deliverIn_tidy h1))

theorem writeChanged_tidy (hs : s.Tidy q) {node} : (s.writeChanged node).Tidy q := ite_tidy hs (writeBack_tidy hs)

theorem commitSpoke_tidy (hs : s.Tidy q) {p node} : (s.commitSpoke p node).Tidy q := by
  unfold State.commitSpoke
  extract_lets s1 e
  have hs1 : s1.Tidy q := ite_tidy (useSpoke_tidy hs) hs
  split
  · exact writeChanged_tidy (deliverSpoke_tidy hs1)
  · split
    extract_lets s11 s2 s3
    have hs11 : s11.Tidy q := setSpoke_tidy hs1
    have hs2 : s2.Tidy q := ite_tidy (raise_tidy hs11) hs11
    have hs3 : s3.Tidy q := ite_tidy (raiseEv_tidy hs2) hs2
    exact writeChanged_tidy (deliverSpoke_tidy (ite_tidy (raiseEv_tidy hs3) hs3))

theorem commitDown_tidy (hs : s.Tidy q) : s.commitDown.Tidy q :=
  foldl_tidy hs fun _ h1 _ => ite_tidy (mbxDone_tidy h1.frame) (ite_tidy (mbxDone_tidy h1.frame) h1.frame)

theorem dropRetired_tidy (hs : s.Tidy q) {eps} : (s.dropRetired eps).Tidy q :=
  foldl_tidy hs fun _ h1 _ => ite_tidy (wr_tidy (setKslot_tidy h1)) h1

theorem execInputCommit_tidy (hs : s.Tidy q) : OutTidy q (execInputCommit s) := by
  unfold execInputCommit
  refine next_tidy (whileLive_tidy hs fun s1 hs1 => ?_)
  split
  · exact hs1
  · split
    · exact hs1
    · extract_lets ret s11 s2 s3 src s4 src1
      have hs11 : s11.Tidy q := wr_tidy (wr_tidy hs1)
      have hs2 : s2.Tidy q := foldl_tidy hs11 fun _ h1 _ => commitSpoke_tidy h1
      have hs3 : s3.Tidy q := raise_tidy (dropRetired_tidy (showCached_tidy (countSpokes_tidy (commitDown_tidy hs2))))
      have hs4 : s4.Tidy q := hs3.frame
      exact ite_tidy (loseInstants_tidy (wr_tidy hs4.frame)) hs4

/-! ### Machine/Spk: Commands (R177, R186, R189, R194) -/

theorem tblCmd_tidy (hs : s.Tidy q) {m op node} : (s.tblCmd m op node).Tidy q :=
  gate_tidy hs (fun _ h1 => ite_tidy (raise_tidy (wr_tidy h1)) (ite_tidy ((wr_tidy h1).frame) (tblRun_tidy h1)))

theorem execTblReload_tidy (hs : s.Tidy q) {m node} : OutTidy q (execTblReload m node s) := next_tidy (tblCmd_tidy hs)

theorem execRepack_tidy (hs : s.Tidy q) {m} : OutTidy q (execRepack m s) := next_tidy (tblCmd_tidy hs)

theorem execMbxTail_tidy (hs : s.Tidy q) {m q1 tail} : OutTidy q (execMbxTail m q1 tail s) :=
  next_tidy (gate_tidy hs (fun _ h1 => wr_tidy h1))

theorem execMbxRetry_tidy (hs : s.Tidy q) {node} : OutTidy q (execMbxRetry node s) := by
  unfold execMbxRetry
  refine next_tidy (whileLive_tidy hs fun s1 hs1 => ?_)
  extract_lets retry tries src
  split
  · exact hs1
  · exact ite_tidy hs1 (ite_tidy (mbxDone_tidy hs1.frame) hs1.frame)

theorem ringStart_tidy (hs : s.Tidy q) : s.ringStart.Tidy q := by
  rw [State.ringStart]
  split
  rename_i s1 r e
  have hs1 : s1.Tidy q := fst_tidy e (repack_tidy hs.frame)
  have hs2 : ((if r = 5 then (upto 1024).foldl State.writeBack s1 else s1).countSpokes.tblEnd r).Tidy q :=
    tblEnd_tidy (countSpokes_tidy (ite_tidy (foldl_tidy hs1 fun _ ht _ => writeBack_tidy ht) hs1))
  exact ite_tidy (wr_tidy hs2) hs2

theorem deliverOutputs_tidy (hs : s.Tidy q) : s.deliverOutputs.Tidy q :=
  foldl_tidy hs fun _ h1 _ => ite_tidy h1 (ite_tidy (deliverIn_tidy h1) (deliverIn_tidy h1))

theorem stationStart_tidy (hs : s.Tidy q) : s.stationStart.Tidy q := by
  unfold State.stationStart
  extract_lets n src s1
  have hs1 : s1.Tidy q := hs.frame
  split
  · rename_i x s11 e
    exact spokeBad_tidy (fst_tidy e (readSpoke_tidy hs1))
  · rename_i x s11 c e
    have hs11 : s11.Tidy q := fst_tidy e (readSpoke_tidy hs1)
    exact ite_tidy (spokeBad_tidy hs11) (deliverOutputs_tidy (setSpoke_tidy hs11))

theorem spkStart_tidy (hs : s.Tidy q) : s.spkStart.Tidy q := ite_tidy (ringStart_tidy hs) (ite_tidy (stationStart_tidy hs) hs)

theorem spkStop_tidy (hs : s.Tidy q) : s.spkStop.Tidy q := ite_tidy ((wr_tidy hs).frame) hs

theorem execSpkRingStart_tidy (hs : s.Tidy q) {m} : OutTidy q (execSpkRingStart m s) :=
  next_tidy (gate_tidy hs (fun _ h1 => ite_tidy (err_tidy h1) (ite_tidy h1 (ite_tidy (err_tidy h1) (spkStart_tidy (wr_tidy h1))))))

/-! ### Machine/Can -/

theorem setCan_tidy (hs : s.Tidy q) {p x} : (s.setCan p x).Tidy q := hs.frame

/-! ### Machine/Can: Fault confinement (R362) -/

theorem setCanState_tidy (hs : s.Tidy q) {p st} : (s.setCanState p st).Tidy q :=
  ite_tidy hs (ite_tidy (raiseEv_tidy (incSat_tidy (wr_tidy (wr_tidy hs)))) (raise_tidy (wr_tidy (wr_tidy hs))))

theorem confine_tidy (hs : s.Tidy q) {p} : (s.confine p).Tidy q := setCanState_tidy hs

/-! ### Machine/Can: Transmission (R357, R358) -/

theorem setTxState_tidy (hs : s.Tidy q) {p b st} : (s.setTxState p b st).Tidy q := wrB_tidy (wr_tidy hs)

theorem txRequest_tidy (hs : s.Tidy q) {p b x} : (s.txRequest p b x).Tidy q := ite_tidy (err_tidy hs) (setTxState_tidy (setCan_tidy hs))

theorem mapGo_tidy (hs : s.Tidy q) {p l} : (s.mapGo p l).Tidy q := by
  induction l generalizing s with
  | nil => exact setCan_tidy hs
  | cons x l ih =>
    have h1 : ((s.setCan p { s.canPort p with mapDue := l, mapCur := some x.1 }).txRequest p 2 x.2).Tidy q :=
      txRequest_tidy (setCan_tidy hs)
    exact ite_tidy h1 (ih h1)

theorem mapNext_tidy (hs : s.Tidy q) {p} : (s.mapNext p).Tidy q := ite_tidy hs (mapGo_tidy hs)

theorem txEnd_tidy (hs : s.Tidy q) {p b st} : (s.txEnd p b st).Tidy q :=
  ite_tidy (mapNext_tidy (raise_tidy (setTxState_tidy hs))) (raise_tidy (setTxState_tidy hs))

theorem abortAll_tidy (hs : s.Tidy q) {p} : (s.abortAll p).Tidy q :=
  foldl_tidy (setCan_tidy hs) fun _ h1 _ => ite_tidy (raise_tidy (setTxState_tidy h1)) h1

theorem execTxReq_tidy (hs : s.Tidy q) {m p b} : OutTidy q (execTxReq m p b s) :=
  next_tidy (gate_tidy hs (fun _ h1 => ite_tidy h1 (ite_tidy (err_tidy h1) (txRequest_tidy h1))))

theorem execTxAbort_tidy (hs : s.Tidy q) {m p b} : OutTidy q (execTxAbort m p b s) :=
  next_tidy (gate_tidy hs (fun _ h1 => ite_tidy h1 (ite_tidy (setCan_tidy h1) (txEnd_tidy h1))))

theorem execTxAttempt_tidy (hs : s.Tidy q) {p} : OutTidy q (execTxAttempt p s) := by
  unfold execTxAttempt
  refine next_tidy (whileLive_tidy hs fun s1 hs1 => ?_)
  split
  · exact hs1
  · split
    · exact hs1
    · extract_lets s11 src
      have hs11 : s11.Tidy q := freezePoint_tidy (commitBlk_tidy hs1)
      split
      · exact hs11
      · split
        · exact hs11
        · exact setCan_tidy hs11

theorem execTxFrameEnd_tidy (hs : s.Tidy q) {p ok tdcv} : OutTidy q (execTxFrameEnd p ok tdcv s) := by
  unfold execTxFrameEnd
  refine next_tidy (whileLive_tidy hs fun s1 hs1 => ?_)
  split
  · exact hs1
  · extract_lets x ab src s11
    have hs11 : s11.Tidy q := setCan_tidy hs1
    split
    rename_i x1 v s12 e
    have hs12 : s12.Tidy q := snd_tidy e (ite_snd_tidy (snd_mk hs11) (draw_tidy hs11))
    exact ite_tidy (txEnd_tidy (confine_tidy (wr_tidy (ite_tidy (wr_tidy hs12) hs12)))) (ite_tidy (txEnd_tidy (ite_tidy (wr_tidy
        hs12) hs12)) (ite_tidy (wr_tidy hs12) hs12))

/-! ### Machine/Can: Errors (R361, R362) -/

theorem busOff_tidy (hs : s.Tidy q) {p} : (s.busOff p).Tidy q := setCanState_tidy (wr_tidy (abortAll_tidy hs))

theorem busError_tidy (hs : s.Tidy q) {p lec kind} : (s.busError p lec kind).Tidy q := by
  unfold State.busError
  extract_lets s1 rec_
  have hs1 : s1.Tidy q := wr_tidy hs
  have hrec_ : ∀ k, (rec_ k).Tidy q := fun _ => confine_tidy (wr_tidy hs1)
  split
  · exact hs1
  · split
    · exact hs1
    · exact hrec_ _
    · exact hrec_ _
    · exact ite_tidy (busOff_tidy hs1) (confine_tidy (wr_tidy hs1))

theorem execCanBusError_tidy (hs : s.Tidy q) {p lec kind} : OutTidy q (execCanBusError p lec kind s) :=
  next_tidy (whileLive_tidy hs (fun _ h1 => ite_tidy h1 (busError_tidy h1)))

theorem execBusOffRecovery_tidy (hs : s.Tidy q) {p} : OutTidy q (execBusOffRecovery p s) :=
  next_tidy (whileLive_tidy hs (fun _ h1 => ite_tidy h1 (setCanState_tidy (wr_tidy (wr_tidy (setCan_tidy h1))))))

/-! ### Machine/Can: The signal map (R363 to R365) -/

theorem mapEntry_tidy (hs : s.Tidy q) {p e} : FstTidy q (s.mapEntry p e) := by
  unfold State.mapEntry
  split
  · rename_i x s1 e1
    exact fst_mk (fst_tidy e1 (dmaRead_tidy hs))
  · rename_i x s1 bs e1
    have hs1 : s1.Tidy q := fst_tidy e1 (dmaRead_tidy hs)
    exact ite_fst_tidy (fst_mk hs1) (fst_mk hs1)

theorem readMap_tidy (hs : s.Tidy q) {p} : FstTidy q (s.readMap p) := by
  unfold State.readMap
  refine foldl_fst_tidy (fst_mk hs) (fun s1 hs1 e => ?_)
  split
  · exact hs1
  · split
    · rename_i x s11 x1 e1
      exact fst_mk (fst_tidy e1 (mapEntry_tidy hs1.tidy))
    · rename_i x s11 e1
      exact fst_mk (fst_tidy e1 (mapEntry_tidy hs1.tidy))

theorem canEnable_tidy (hs : s.Tidy q) {p} : FstTidy q (s.canEnable p) := by
  unfold State.canEnable
  split
  · exact fst_mk (err_tidy hs)
  · extract_lets go
    have hgo : ∀ t : State, t.Tidy q → ∀ l, FstTidy q (go t l) := fun _ h1 _ => fst_mk (setCan_tidy h1)
    split
    · exact hgo _ hs _
    · split
      · rename_i x s1 l e
        exact hgo _ (fst_tidy e (readMap_tidy hs)) _
      · rename_i x s1 e e1
        exact fst_mk (err_tidy (fst_tidy e1 (readMap_tidy hs)))

theorem setEnt_tidy (hs : s.Tidy q) {p e f} : (s.setEnt p e f).Tidy q := setCan_tidy hs

theorem mapTake_tidy (hs : s.Tidy q) {p e x data} : (s.mapTake p e x data).Tidy q := by
  unfold State.mapTake
  extract_lets s1
  have hs1 : s1.Tidy q := setEnt_tidy hs
  split
  · exact hs1
  · split
    · split
      rename_i x1 v s11 e1
      exact deliverIn_tidy (setEnt_tidy (snd_tidy e1 (draw_tidy hs1)))
    · exact deliverIn_tidy (setEnt_tidy hs1)

theorem execMapStale_tidy (hs : s.Tidy q) {p e} : OutTidy q (execMapStale p e s) := by
  unfold execMapStale
  refine next_tidy (whileLive_tidy hs fun s1 hs1 => ?_)
  split
  · exact hs1
  · exact ite_tidy hs1 (raise_tidy (deliverIn_tidy (setEnt_tidy hs1)))

theorem mapQueue_tidy (hs : s.Tidy q) {p e} : (s.mapQueue p e).Tidy q := by
  unfold State.mapQueue
  split
  · exact hs
  · exact ite_tidy (setEnt_tidy hs) (setCan_tidy (setEnt_tidy hs))

theorem execMapTxPeriod_tidy (hs : s.Tidy q) {p e} : OutTidy q (execMapTxPeriod p e s) :=
  next_tidy (whileLive_tidy hs (fun _ h1 => ite_tidy h1 (mapNext_tidy (foldl_tidy h1 fun _ h2 _ => mapQueue_tidy h2))))

/-! ### Machine/Can: Reception (R359 to R361) -/

theorem putRx_tidy (hs : s.Tidy q) {p i f stamp} : (s.putRx p i f stamp).Tidy q := by
  unfold State.putRx
  extract_lets a
  split
  rename_i x v s1 e
  exact foldl_tidy (regPut_tidy (regPut_tidy (regPut_tidy (snd_tidy e (draw_tidy hs))))) fun _ h1 _ => regPut_tidy h1

theorem rxGood_tidy (hs : s.Tidy q) {p} : (s.rxGood p).Tidy q := by
  unfold State.rxGood
  extract_lets r
  split
  · exact hs
  · split
    · split
      rename_i x v s1 e
      exact confine_tidy (wr_tidy (snd_tidy e (draw_tidy hs)))
    · exact confine_tidy (wr_tidy hs)

theorem execCanRxFrame_tidy (hs : s.Tidy q) {p f age} : OutTidy q (execCanRxFrame p f age s) := by
  unfold execCanRxFrame
  refine next_tidy (whileLive_tidy hs fun s1 hs1 => ?_)
  split
  · exact hs1
  · split
    · exact busError_tidy hs1
    · extract_lets n f1 s11 hits held stamp s2 s3
      have hs11 : s11.Tidy q := rxGood_tidy hs1
      have hs2 : s2.Tidy q := incWrap_tidy (putRx_tidy hs11)
      have hs3 : s3.Tidy q := wr_tidy hs2
      split
      · refine foldl_tidy hs11 (fun s12 hs12 x => ?_)
        split
        exact mapTake_tidy hs12
      · exact ite_tidy (raise_tidy (incSat_tidy hs11)) (ite_tidy (raise_tidy hs3) hs3)

theorem execRxAck_tidy (hs : s.Tidy q) {m p k} : OutTidy q (execRxAck m p k s) :=
  next_tidy (gate_tidy hs (fun _ h1 => ite_tidy (err_tidy h1) (wr_tidy (wr_tidy h1))))

theorem canStop_tidy (hs : s.Tidy q) {p} : (s.canStop p).Tidy q := abortAll_tidy hs

/-! ### Machine/Kst: Roots and derivation (R410, R414) -/

theorem setBankOtp_tidy (hs : s.Tidy q) {r b v} : (s.setBankOtp r b v).Tidy q := hs.frame

/-! ### Machine/Kst: The engine's requests (R408) -/

theorem setEvrNonce_tidy (hs : s.Tidy q) {v} : (s.setEvrNonce v).Tidy q := foldl_tidy hs.frame fun _ h1 _ => regPut_tidy h1

theorem random_tidy (hs : s.Tidy q) : SndTidy q s.random := by
  unfold State.random
  split
  rename_i x v s1 e
  exact snd_mk (snd_tidy e (draw_tidy hs))

theorem serveNonce_tidy (hs : s.Tidy q) : s.serveNonce.Tidy q := by
  unfold State.serveNonce
  split
  · exact hs
  · split
    rename_i x v s1 e
    exact setEvrNonce_tidy (snd_tidy e (random_tidy hs))

theorem endKst_tidy (hs : s.Tidy q) {r} : (s.endKst r).Tidy q := by
  unfold State.endKst
  split
  · exact hs
  · exact ite_tidy hs (foldl_tidy hs.frame fun _ h1 _ => serveNonce_tidy h1)

theorem deriveOrd_tidy (hs : s.Tidy q) : s.deriveOrd.Tidy q := hs.frame

/-! ### Machine/Kst: Slots (R417 to R421) -/

theorem setSlotStat_tidy (hs : s.Tidy q) {n st origin} : (s.setSlotStat n st origin).Tidy q := wr_tidy (wr_tidy hs)

theorem useSlot_tidy (hs : s.Tidy q) {n} : FstTidy q (s.useSlot n) := by
  unfold State.useSlot
  split
  · exact fst_mk hs
  · split
    · exact ite_fst_tidy (fst_mk hs) (fst_mk (markBad_tidy hs))
    · exact fst_mk hs

theorem loadShadow_tidy (hs : s.Tidy q) {n h origin proof} : (s.loadShadow n h origin proof).Tidy q := wr_tidy (setKslot_tidy hs)

theorem dropShadow_tidy (hs : s.Tidy q) {n} : (s.dropShadow n).Tidy q := wr_tidy (setKslot_tidy hs)

theorem zeroSlot_tidy (hs : s.Tidy q) {n} : (s.zeroSlot n).Tidy q := setSlotStat_tidy (wr_tidy (setKslot_tidy hs))

theorem storeKeys_tidy (hs : s.Tidy q) {key l} : (s.storeKeys key l).Tidy q := ite_tidy hs.frame hs.frame

theorem persist_tidy (hs : s.Tidy q) : s.persist.Tidy q := by
  unfold State.persist
  split
  · exact hs
  · exact storeKeys_tidy hs

theorem deriveFixed_tidy (hs : s.Tidy q) {n} : (s.deriveFixed n).Tidy q := by
  unfold State.deriveFixed
  split
  · exact zeroSlot_tidy hs
  · exact setSlotStat_tidy (setKslot_tidy hs)

theorem showSerial_tidy (hs : s.Tidy q) : s.showSerial.Tidy q := foldl_tidy hs fun _ h1 _ => regPut_tidy h1

/-! ### Machine/Kst: Nonces and tokens (R424) -/

theorem setKstNonce_tidy (hs : s.Tidy q) {v} : (s.setKstNonce v).Tidy q := foldl_tidy hs.frame fun _ h1 _ => regPut_tidy h1

theorem checkToken_tidy (hs : s.Tidy q) {j target len} {signer : State → List Byte → State × Except ℕ (List Byte)}
    (hsigner : FstKeeps q signer) :
    FstTidy q (s.checkToken j target len signer) := by
  unfold State.checkToken
  extract_lets n
  split
  · rename_i x s1 e
    exact fst_mk (fst_tidy e (dmaRead_tidy (setKstNonce_tidy hs)))
  · rename_i x s1 bs e
    have hs1 : s1.Tidy q := fst_tidy e (dmaRead_tidy (setKstNonce_tidy hs))
    split
    · exact fst_mk hs1
    · split
      · exact fst_mk hs1
      · split
        · rename_i x1 s2 o e1
          exact fst_mk (fst_tidy e1 (hsigner _ hs1 _))
        · rename_i x1 s2 i e1
          have hs2 : s2.Tidy q := fst_tidy e1 (hsigner _ hs1 _)
          exact ite_fst_tidy (fst_mk hs2) (fst_mk hs2)

theorem ownerKey_tidy (hs : s.Tidy q) {t} : FstTidy q (s.ownerKey t) := by
  unfold State.ownerKey
  split
  · rename_i x s1 h e
    exact fst_mk (fst_tidy e (useSlot_tidy hs))
  · rename_i x s1 e e1
    exact fst_mk (fst_tidy e1 (useSlot_tidy hs))

/-! ### Machine/Kst: The commands (R409 to R427) -/

theorem kstCmd_tidy (hs : s.Tidy q) {m op slot} : (s.kstCmd m op slot).Tidy q :=
  gate_tidy hs (fun _ h1 => ite_tidy (err_tidy (raise_tidy (wr_tidy (wr_tidy h1)))) (wr_tidy (wr_tidy (askKst_tidy h1.frame))))

theorem kstRead_tidy (hs : s.Tidy q) {j n} {k : State → List Byte → State × ℕ} (hk : FstKeeps q k) :
    FstTidy q (s.kstRead j n k) := by
  unfold State.kstRead
  split
  · rename_i x s1 e
    exact fst_mk (fst_tidy e (dmaRead_tidy hs))
  · rename_i x s1 bs e
    exact hk _ (fst_tidy e (dmaRead_tidy hs)) _

theorem kstWrite_tidy (hs : s.Tidy q) {j bs} : FstTidy q (s.kstWrite j bs) := by
  unfold State.kstWrite
  split
  · rename_i x s2 e
    exact fst_mk (fst_tidy e (dmaWrite_tidy hs))
  · rename_i x s2 e
    exact fst_mk (fst_tidy e (dmaWrite_tidy hs))

theorem doNonce_tidy (hs : s.Tidy q) : FstTidy q s.doNonce := by
  unfold State.doNonce
  split
  · exact fst_mk hs
  · split
    rename_i x v s1 e
    exact fst_mk (setKstNonce_tidy (snd_tidy e (random_tidy hs)))

theorem doDerive_tidy (hs : s.Tidy q) {j} : FstTidy q (s.doDerive j) := by
  unfold State.doDerive
  extract_lets n
  split
  · exact ite_fst_tidy (fst_mk hs) (fst_mk (showSerial_tidy (deriveFixed_tidy hs)))
  · split
    · exact fst_mk hs
    · split
      · exact fst_mk hs
      · split
        · exact fst_mk hs
        · exact kstRead_tidy hs (fun _ h1 _ => fst_mk (loadShadow_tidy h1))

theorem doGenerate_tidy (hs : s.Tidy q) {j} : FstTidy q (s.doGenerate j) := by
  unfold State.doGenerate
  extract_lets n
  split
  · exact fst_mk hs
  · split
    · exact fst_mk hs
    · split
      · exact fst_mk hs
      · split
        · exact fst_mk hs
        · split
          rename_i x v s1 e
          exact fst_mk (loadShadow_tidy (snd_tidy e (random_tidy hs)))

theorem doLoadPub_tidy (hs : s.Tidy q) {j} : FstTidy q (s.doLoadPub j) := by
  unfold State.doLoadPub
  extract_lets n
  split
  · exact fst_mk hs
  · split
    · exact fst_mk hs
    · split
      · exact fst_mk hs
      · split
        · rename_i x s2 o e
          exact fst_mk (fst_tidy e (checkToken_tidy hs (fun _ h1 _ => ownerKey_tidy h1)))
        · rename_i x s2 i e
          exact fst_mk (loadShadow_tidy (fst_tidy e (checkToken_tidy hs (fun _ h1 _ => ownerKey_tidy h1))))

theorem doImport_tidy (hs : s.Tidy q) {j} : FstTidy q (s.doImport j) := by
  unfold State.doImport
  extract_lets n
  split
  · exact fst_mk hs
  · split
    · exact fst_mk hs
    · split
      · exact fst_mk hs
      · split
        · rename_i x s2 o e
          exact fst_mk (fst_tidy e (checkToken_tidy hs (fun _ h1 _ => ownerKey_tidy h1)))
        · rename_i x s2 i e
          have hs2 : s2.Tidy q := fst_tidy e (checkToken_tidy hs (fun _ h1 _ => ownerKey_tidy h1))
          split
          · rename_i x1 s21 e1 e2
            exact fst_mk (fst_tidy e2 (useSlot_tidy hs2))
          · rename_i x1 s21 kek e1
            have hs21 : s21.Tidy q := fst_tidy e1 (useSlot_tidy hs2)
            extract_lets iv ct
            split
            · split
              rename_i x2 v s1 e2
              exact fst_mk (snd_tidy e2 (draw_tidy hs21))
            · exact fst_mk (loadShadow_tidy hs21)

theorem shadowPasses_tidy (hs : s.Tidy q) {n h} : SndTidy q (s.shadowPasses n h) := by
  unfold State.shadowPasses
  extract_lets x
  split
  · split
    rename_i x1 v s1 e
    have hs1 : s1.Tidy q := snd_tidy e (random_tidy hs)
    split
    rename_i x2 v1 s11 e1
    exact snd_mk (snd_tidy e1 (draw_tidy hs1))
  · exact ite_snd_tidy (snd_mk hs) (ite_snd_tidy (snd_mk hs) (snd_mk hs))

theorem doSelftest_tidy (hs : s.Tidy q) {j} : FstTidy q (s.doSelftest j) := by
  unfold State.doSelftest
  extract_lets n
  split
  · exact fst_mk hs
  · split
    · exact fst_mk hs
    · split
      · exact fst_mk hs
      · split
        · exact fst_mk hs
        · split
          · exact fst_mk (dropShadow_tidy hs)
          · split
            rename_i x good s1 e
            have hs1 : s1.Tidy q := snd_tidy e (shadowPasses_tidy hs)
            exact ite_fst_tidy (fst_mk (wr_tidy hs1)) (fst_mk (dropShadow_tidy hs1))

theorem doCommit_tidy (hs : s.Tidy q) {j} : FstTidy q (s.doCommit j) := by
  unfold State.doCommit
  extract_lets n x ep retire
  split
  · exact fst_mk hs
  · split
    · exact fst_mk hs
    · split
      · exact fst_mk hs
      · exact ite_fst_tidy (fst_mk hs) (ite_fst_tidy (fst_mk (dropShadow_tidy hs)) (fst_mk (send_tidy (persist_tidy (wr_tidy (wr_tidy
            (setSlotStat_tidy (setKslot_tidy hs))))))))

theorem doDiscard_tidy (hs : s.Tidy q) {j} : FstTidy q (s.doDiscard j) :=
  ite_fst_tidy (fst_mk hs) (ite_fst_tidy (fst_mk hs) (fst_mk (dropShadow_tidy hs)))

theorem doSign_tidy (hs : s.Tidy q) {j} : FstTidy q (s.doSign j) := by
  unfold State.doSign
  split
  · exact fst_mk hs
  · split
    · exact fst_mk hs
    · split
      · rename_i x s2 e e1
        exact fst_mk (fst_tidy e1 (useSlot_tidy hs))
      · rename_i x s2 kek e
        have hs2 : s2.Tidy q := fst_tidy e (useSlot_tidy hs)
        refine kstRead_tidy hs2 (fun s1 hs1 b => ?_)
        split
        rename_i x1 v s11 e1
        exact kstWrite_tidy (snd_tidy e1 (draw_tidy hs1))

theorem doVerify_tidy (hs : s.Tidy q) {j} : FstTidy q (s.doVerify j) := by
  unfold State.doVerify
  split
  · exact fst_mk hs
  · split
    · rename_i x s2 e e1
      exact fst_mk (fst_tidy e1 (useSlot_tidy hs))
    · rename_i x s2 kek e
      have hs2 : s2.Tidy q := fst_tidy e (useSlot_tidy hs)
      exact kstRead_tidy hs2 (fun _ h1 _ => ite_fst_tidy (fst_mk h1) (ite_fst_tidy (fst_mk h1.frame) (fst_mk h1)))

theorem doAttest_tidy (hs : s.Tidy q) {j} : FstTidy q (s.doAttest j) := by
  unfold State.doAttest
  split
  · exact fst_mk hs
  · split
    · exact fst_mk hs
    · split
      · exact fst_mk hs
      · split
        · rename_i x s2 e e1
          exact fst_mk (fst_tidy e1 (useSlot_tidy hs))
        · rename_i x s2 kek e
          have hs2 : s2.Tidy q := fst_tidy e (useSlot_tidy hs)
          refine kstRead_tidy hs2 (fun s1 hs1 b => ?_)
          split
          rename_i x1 v s11 e1
          exact kstWrite_tidy (snd_tidy e1 (draw_tidy hs1))

theorem doExport_tidy (hs : s.Tidy q) {j} : FstTidy q (s.doExport j) := by
  unfold State.doExport
  split
  · exact fst_mk hs
  · split
    · exact fst_mk hs
    · split
      · rename_i x s2 e e1
        exact fst_mk (fst_tidy e1 (useSlot_tidy hs))
      · rename_i x s2 kek e
        exact kstWrite_tidy (fst_tidy e (useSlot_tidy hs))

theorem extend_tidy (hs : s.Tidy q) {r v} : (s.extend r v).Tidy q := foldl_tidy hs fun _ h1 _ => regPut_tidy h1

theorem doExtend_tidy (hs : s.Tidy q) {j} : FstTidy q (s.doExtend j) := kstRead_tidy hs (fun _ h1 _ => fst_mk (extend_tidy h1))

/-! ### Machine/Kst: The life cycle (R410 to R413) -/

theorem burn_tidy (hs : s.Tidy q) {a} : (s.burn a).Tidy q := by
  unfold State.burn
  split
  · exact setBankOtp_tidy hs
  · exact setBankOtp_tidy hs
  · exact hs.frame
  · exact storeKeys_tidy hs
  · exact setBankOtp_tidy (setBankOtp_tidy hs)
  · exact (foldl_tidy hs fun _ h1 _ => zeroSlot_tidy h1).frame
  · exact hs.frame

theorem burnFails_tidy (hs : s.Tidy q) {a} : (s.burnFails a).Tidy q := by
  unfold State.burnFails
  split
  · split
    rename_i x v s1 e
    exact setBankOtp_tidy (snd_tidy e (random_tidy hs))
  · split
    rename_i x v s1 e
    have hs1 : s1.Tidy q := snd_tidy e (random_tidy hs)
    exact hs1.frame
  · split
    rename_i x v s1 e
    exact setBankOtp_tidy (snd_tidy e (random_tidy hs))
  · split
    rename_i x v s1 e
    have hs1 : s1.Tidy q := snd_tidy e (random_tidy hs)
    exact hs1.frame
  · exact hs

theorem newRoots_tidy (hs : s.Tidy q) {l} : FstTidy q (s.newRoots l) := by
  unfold State.newRoots
  refine foldl_fst_tidy (fst_mk hs) (fun s1 hs1 r => ?_)
  split
  rename_i x v s11 e
  exact fst_mk (snd_tidy e (random_tidy hs1.tidy))

theorem runBurns_tidy (hs : s.Tidy q) {l fail} : FstTidy q (s.runBurns l fail) := by
  unfold State.runBurns
  split
  · exact fst_mk (foldl_tidy hs fun _ h1 _ => burn_tidy h1)
  · split
    · exact fst_mk (foldl_tidy hs fun _ h1 _ => burn_tidy h1)
    · exact fst_mk (burnFails_tidy (foldl_tidy hs fun _ h1 _ => burn_tidy h1))

theorem doLc_tidy (hs : s.Tidy q) {j fail} : FstTidy q (s.doLc j fail) := by
  unfold State.doLc
  split
  · exact fst_mk hs
  · extract_lets signer
    have hsigner : ∀ t : State, t.Tidy q → ∀ t1, FstTidy q (signer t t1) := by
      intro t ht t1
      unfold signer
      split
      · exact fst_mk ht
      · exact ite_fst_tidy (fst_mk ht) (ite_fst_tidy (ownerKey_tidy ht) (fst_mk ht))
    split
    · rename_i x s2 o e
      exact fst_mk (fst_tidy e (checkToken_tidy hs hsigner))
    · rename_i x s2 i e
      have hs2 : s2.Tidy q := fst_tidy e (checkToken_tidy hs hsigner)
      extract_lets new
      split
      · exact fst_mk hs2
      · split
        rename_i x1 s21 rs e1
        have hs21 : s21.Tidy q := fst_tidy e1 (newRoots_tidy hs2)
        split
        · rename_i x2 s22 e2
          exact fst_mk (err_tidy (fst_tidy e2 (runBurns_tidy hs21)))
        · rename_i x2 s22 e2
          exact fst_mk (raise_tidy (wr_tidy (fst_tidy e2 (runBurns_tidy hs21))))

theorem doUnlock_tidy (hs : s.Tidy q) {j} : FstTidy q (s.doUnlock j) := by
  unfold State.doUnlock
  split
  · exact fst_mk hs
  · split
    · rename_i x s2 o e
      exact fst_mk (fst_tidy e (checkToken_tidy hs (fun _ h1 _ => fst_mk h1)))
    · rename_i x s2 i e
      exact fst_mk (deriveOrd_tidy ((wr_tidy (fst_tidy e (checkToken_tidy hs (fun _ h1 _ => fst_mk h1)))).frame))

theorem doAdvance_tidy (hs : s.Tidy q) {j fail} : FstTidy q (s.doAdvance j fail) := by
  unfold State.doAdvance
  refine kstRead_tidy hs (fun s1 hs1 b => ?_)
  extract_lets v src
  split
  · exact fst_mk hs1
  · split
    · split
      rename_i x v1 s11 e
      have hs11 : s11.Tidy q := snd_tidy e (draw_tidy hs1)
      exact fst_mk (err_tidy (wr_tidy hs11.frame))
    · exact fst_mk (wr_tidy hs1.frame)

theorem doZeroise_tidy (hs : s.Tidy q) {j} : FstTidy q (s.doZeroise j) :=
  ite_fst_tidy (fst_mk hs) (ite_fst_tidy (fst_mk hs) (fst_mk (persist_tidy (zeroSlot_tidy hs))))

theorem kstOp_tidy (hs : s.Tidy q) {j burn} : FstTidy q (s.kstOp j burn) := by
  unfold State.kstOp
  split
  · exact fst_mk hs
  · split
    · exact doNonce_tidy hs
    · exact doDerive_tidy hs
    · exact doGenerate_tidy hs
    · exact doLoadPub_tidy hs
    · exact doImport_tidy hs
    · exact doSelftest_tidy hs
    · exact doCommit_tidy hs
    · exact doDiscard_tidy hs
    · exact doSign_tidy hs
    · exact doVerify_tidy hs
    · exact doAttest_tidy hs
    · exact doExport_tidy hs
    · exact doExtend_tidy hs
    · exact doLc_tidy hs
    · exact doUnlock_tidy hs
    · exact doAdvance_tidy hs
    · exact doZeroise_tidy hs

theorem kstRun_tidy (hs : s.Tidy q) {j burn} : FstTidy q (s.kstRun j burn) := by
  unfold State.kstRun
  split
  rename_i x s1 c1 e
  have hs1 : s1.Tidy q := fst_tidy e (kstOp_tidy hs)
  exact fst_mk (ite_tidy (setKstNonce_tidy hs1) hs1)

theorem lcTarget_tidy (hs : s.Tidy q) {j} : SndTidy q (s.lcTarget j) := by
  unfold State.lcTarget
  split
  · exact snd_mk hs
  · split
    rename_i x v s1 e
    exact snd_mk (snd_tidy e (draw_tidy hs))

theorem monEvent_tidy (hs : s.Tidy q) {code sev p0 p1 p2} : (s.monEvent code sev p0 p1 p2).Tidy q := send_tidy hs

theorem monPost_tidy (hs : s.Tidy q) {j old target r} : (s.monPost j old target r).Tidy q :=
  ite_tidy (ite_tidy (monEvent_tidy hs) (monEvent_tidy hs)) (ite_tidy (monEvent_tidy hs) (ite_tidy hs (ite_tidy (ite_tidy (monEvent_tidy
      hs) (ite_tidy (monEvent_tidy hs) (ite_tidy (monEvent_tidy hs) (ite_tidy (monEvent_tidy hs) hs)))) (ite_tidy (monEvent_tidy hs)
          hs))))

theorem execCmdDone_tidy (hs : s.Tidy q) {burn} : OutTidy q (execCmdDone burn s) := by
  unfold execCmdDone
  refine next_tidy (whileLive_tidy hs fun s1 hs1 => ?_)
  split
  · exact hs1
  · split
    · exact hs1
    · split
      rename_i x v s11 e
      have hs11 : s11.Tidy q := snd_tidy e (ite_snd_tidy (lcTarget_tidy hs1) (snd_mk hs1))
      split
      rename_i x1 s12 c1 e1
      have hs12 : s12.Tidy q := fst_tidy e1 (kstRun_tidy hs11)
      exact freezePoint_tidy (endKst_tidy (monPost_tidy (ite_tidy (raise_tidy (wr_tidy (wr_tidy (wr_tidy hs12.frame)))) (err_tidy
          (raise_tidy (wr_tidy (wr_tidy (wr_tidy hs12.frame))))))))

theorem execKstNonceExpiry_tidy (hs : s.Tidy q) : OutTidy q (execKstNonceExpiry s) :=
  next_tidy (whileLive_tidy hs (fun _ h1 => ite_tidy (setKstNonce_tidy h1) h1))

theorem execSealSign_tidy (hs : s.Tidy q) : OutTidy q (execSealSign s) := by
  unfold execSealSign
  refine next_tidy (whileLive_tidy hs fun s1 hs1 => ?_)
  split
  · exact hs1
  · extract_lets s11 s2
    have hs11 : s11.Tidy q := by
      unfold s11
      refine buildBlock_tidy hs1 (fun s12 hs12 h => ?_)
      split
      · exact fst_mk hs12
      · split
        · rename_i x s21 e e1
          exact fst_mk (fst_tidy e1 (useSlot_tidy hs12))
        · rename_i x s21 kek e
          have hs21 : s21.Tidy q := fst_tidy e (useSlot_tidy hs12)
          split
          rename_i x1 v s13 e1
          exact fst_mk (snd_tidy e1 (draw_tidy hs21))
    have hs2 : s2.Tidy q := endKst_tidy hs11
    exact ite_tidy hs2 (askKst_tidy hs2)

theorem execSlotCheck_tidy (hs : s.Tidy q) : OutTidy q (execSlotCheck s) :=
  next_tidy (whileLive_tidy hs (fun _ h1 => foldl_tidy h1 fun _ h2 _ => checkSlot_tidy h2))

theorem execEntropyFail_tidy (hs : s.Tidy q) : OutTidy q (execEntropyFail s) :=
  next_tidy (whileLive_tidy hs (fun _ h1 => err_tidy (raise_tidy (wr_tidy h1))))

theorem execDbgAttach_tidy (hs : s.Tidy q) {attached} : OutTidy q (execDbgAttach attached s) :=
  next_tidy (whileLive_tidy hs (fun _ h1 => wrB_tidy h1))

/-! ### Machine/Kst: Start (R410, R412, R415, R421) -/

theorem fixBanks_tidy (hs : s.Tidy q) : s.fixBanks.Tidy q := by
  unfold State.fixBanks
  refine foldl_tidy hs (fun s1 hs1 r => ?_)
  refine foldl_tidy hs1 (fun s11 hs11 b => ?_)
  split
  · exact setBankOtp_tidy hs11
  · exact hs11

theorem loadKey_tidy (hs : s.Tidy q) {x} : (s.loadKey x).Tidy q := by
  unfold State.loadKey
  extract_lets n s1
  have hs1 : s1.Tidy q := setSlotStat_tidy (wr_tidy (setKslot_tidy hs))
  split
  · exact ite_tidy hs1 (markBad_tidy hs1)
  · exact hs1

theorem loadStore_tidy (hs : s.Tidy q) : s.loadStore.Tidy q := by
  unfold State.loadStore
  split
  · exact hs
  · extract_lets l
    split
    · exact foldl_tidy hs fun _ h1 _ => loadKey_tidy h1
    · exact err_tidy (raise_tidy hs)

theorem kstStart_tidy (hs : s.Tidy q) {entropy} : (s.kstStart entropy).Tidy q :=
  loadStore_tidy (showSerial_tidy (deriveFixed_tidy (deriveFixed_tidy (deriveOrd_tidy (ite_tidy (wr_tidy (wr_tidy (wr_tidy (wrB_tidy
      (wrB_tidy (wr_tidy (fixBanks_tidy hs))))))) (err_tidy (raise_tidy (wr_tidy (wr_tidy (wr_tidy (wrB_tidy (wrB_tidy (wr_tidy
          (fixBanks_tidy hs))))))))))))))

/-! ### Machine/Evr: Records (R391, R394, R399) -/

theorem setSeq_tidy (hs : s.Tidy q) {n} : (s.setSeq n).Tidy q := regPut_tidy hs.frame

theorem setBuf_tidy (hs : s.Tidy q) {l} : (s.setBuf l).Tidy q := wr_tidy hs.frame

theorem bufPut_tidy (hs : s.Tidy q) {r} : FstTidy q (s.bufPut r) := by
  unfold State.bufPut
  split
  · exact fst_mk (setBuf_tidy hs)
  · split
    · exact fst_mk (setBuf_tidy hs)
    · exact fst_mk (evrDrop_tidy hs)

/-! ### Machine/Evr: Flushes (R398, R405) -/

theorem showEvr_tidy (hs : s.Tidy q) : s.showEvr.Tidy q := wrB_tidy (wrB_tidy hs)

theorem postDropped_tidy (hs : s.Tidy q) : s.postDropped.Tidy q := ite_tidy (send_tidy hs) hs

theorem startFlush_tidy (hs : s.Tidy q) : s.startFlush.Tidy q :=
  ite_tidy hs.frame (ite_tidy (postDropped_tidy hs.frame) (showEvr_tidy hs.frame))

theorem accept_tidy (hs : s.Tidy q) {e fl} : (s.accept e fl).Tidy q := by
  unfold State.accept
  extract_lets n dropped p0 p1 seq
  split
  extract_lets r
  split
  rename_i x s2 acted e1
  have hs2 : s2.Tidy q := fst_tidy e1 (bufPut_tidy (setSeq_tidy hs))
  exact ite_tidy (startFlush_tidy (ite_tidy hs2.frame hs2)) (ite_tidy hs2.frame hs2)

theorem acceptThose_tidy (hs : s.Tidy q) {p} : (s.acceptThose p).Tidy q := foldl_tidy hs fun _ h1 _ => accept_tidy h1.frame

theorem acceptNext_tidy (hs : s.Tidy q) : s.acceptNext.Tidy q := by
  unfold State.acceptNext
  split
  · exact hs
  · exact ite_tidy hs (accept_tidy hs.frame)

theorem acceptAll_tidy (hs : s.Tidy q) : s.acceptAll.Tidy q := foldl_tidy hs fun _ h1 _ => acceptNext_tidy h1

theorem endFlush_tidy (hs : s.Tidy q) : s.endFlush.Tidy q :=
  ite_tidy (startFlush_tidy (postDropped_tidy (showEvr_tidy hs.frame))) (postDropped_tidy (showEvr_tidy hs.frame))

theorem evrPf_tidy (hs : s.Tidy q) : s.evrPf.Tidy q := startFlush_tidy hs.frame

/-! ### Machine/Evr: The log (R397, R400) -/

theorem logAdd_tidy (hs : s.Tidy q) {recs} : (s.logAdd recs).Tidy q := by
  unfold State.logAdd
  split
  extract_lets prev log n src s1 s2 src1
  have hs1 : s1.Tidy q := wrB_tidy (wr_tidy hs.frame)
  have hs2 : s2.Tidy q := foldl_tidy hs1 fun _ h1 _ => evrDrop_tidy h1
  exact ite_tidy (raise_tidy hs2.frame) hs2

theorem execFlushPageCommit_tidy (hs : s.Tidy q) {ok} : OutTidy q (execFlushPageCommit ok s) := by
  unfold execFlushPageCommit
  refine next_tidy (whileLive_tidy hs fun s1 hs1 => ?_)
  split
  · exact hs1
  · split
    · exact err_tidy hs1
    · exact ite_tidy (ite_tidy (logAdd_tidy (setBuf_tidy hs1)) (raise_tidy (useReserve_tidy (logAdd_tidy (setBuf_tidy hs1)))))
          (endFlush_tidy (ite_tidy (logAdd_tidy (setBuf_tidy hs1)) (raise_tidy (useReserve_tidy (logAdd_tidy (setBuf_tidy hs1))))))

theorem execEventAccept_tidy (hs : s.Tidy q) : OutTidy q (execEventAccept s) := next_tidy (acceptNext_tidy hs)

theorem execEvrFlush_tidy (hs : s.Tidy q) {m} : OutTidy q (execEvrFlush m s) := next_tidy (gate_tidy hs (fun _ h1 => startFlush_tidy h1))

theorem execPost_tidy (hs : s.Tidy q) {m c code sev cont} : OutTidy q (execPost m c code sev cont s) :=
  next_tidy (gate_tidy hs (fun _ h1 => ite_tidy (err_tidy h1) (accept_tidy (acceptThose_tidy h1))))

/-! ### Machine/Evr: The read window (R401, R402) -/

theorem winCmd_tidy (hs : s.Tidy q) {m op start} : (s.winCmd m op start).Tidy q :=
  gate_tidy hs (fun _ h1 => ite_tidy (err_tidy h1) (ite_tidy (err_tidy h1) (wr_tidy h1.frame)))

theorem execSeek_tidy (hs : s.Tidy q) {m} : OutTidy q (execSeek m s) := next_tidy (winCmd_tidy hs)

theorem execNext_tidy (hs : s.Tidy q) {m} : OutTidy q (execNext m s) := next_tidy (winCmd_tidy hs)

theorem tagFail_tidy (hs : s.Tidy q) {p} : (s.tagFail p).Tidy q := ite_tidy hs (send_tidy hs.frame)

theorem execWinDone_tidy (hs : s.Tidy q) : OutTidy q (execWinDone s) := by
  refine next_tidy (whileLive_tidy hs fun s hs => ?_)
  split
  · exact hs
  · rename_i st e
    extract_lets l w bad s1 noroot s2 evr s3 s4 evr5 s5
    have hs1 : s1.Tidy q := foldl_tidy hs fun _ h1 _ => foldl_tidy h1 fun _ h2 _ => regPut_tidy h2
    have hs2 : s2.Tidy q := wrB_tidy (wr_tidy (wrB_tidy (wr_tidy (wr_tidy hs1))))
    clear_value s2
    have hs3 : s3.Tidy q := by
      unfold s3
      split
      · exact wr_tidy (regPut_tidy hs2.frame)
      · exact hs2
    clear_value s3
    have hs4 : s4.Tidy q := by
      refine foldl_tidy hs3 fun t ht x => ?_
      split
      · exact tagFail_tidy ht
      · exact ht
    have hs5 : s5.Tidy q := raise_tidy hs4.frame
    clear_value bad s5
    split
    · exact err_tidy hs5
    · exact hs5

/-! ### Machine/Evr: Clears (R403, R404) -/

theorem execEvrNonce_tidy (hs : s.Tidy q) {m} : OutTidy q (execEvrNonce m s) :=
  next_tidy (gate_tidy hs (fun _ h1 => ite_tidy (serveNonce_tidy h1) (askKst_tidy h1)))

theorem execEvrNonceExpiry_tidy (hs : s.Tidy q) : OutTidy q (execEvrNonceExpiry s) :=
  next_tidy (whileLive_tidy hs (fun _ h1 => ite_tidy (setEvrNonce_tidy h1) h1))

theorem clrRefuse_tidy (hs : s.Tidy q) {r code} : (s.clrRefuse r code).Tidy q := err_tidy (raise_tidy (wr_tidy hs))

theorem execClear_tidy (hs : s.Tidy q) {m} : OutTidy q (execClear m s) := by
  unfold execClear
  refine next_tidy (gate_tidy hs fun s1 hs1 => ?_)
  extract_lets s11 nonce src
  have hs11 : s11.Tidy q := setEvrNonce_tidy hs1
  clear_value s11 nonce src
  exact ite_tidy (clrRefuse_tidy hs11) (ite_tidy (clrRefuse_tidy hs11) (showEvr_tidy (wr_tidy (askKst_tidy hs11.frame))))

theorem clrCheck_tidy (hs : s.Tidy q) {t nonce} : FstTidy q (s.clrCheck t nonce) := by
  unfold State.clrCheck
  extract_lets zero
  split
  · exact fst_mk hs
  · split
    · exact fst_mk hs
    · split
      · rename_i x s2 e e1
        exact fst_mk (fst_tidy e1 (useSlot_tidy hs))
      · rename_i x s2 kek e
        exact fst_mk (fst_tidy e (useSlot_tidy hs))

theorem execClearVerifyEnd_tidy (hs : s.Tidy q) : OutTidy q (execClearVerifyEnd s) := by
  unfold execClearVerifyEnd
  refine next_tidy (whileLive_tidy hs fun s1 hs1 => ?_)
  split
  · exact hs1
  · split
    · exact hs1
    · extract_lets src s0 done
      have hs0 : s0.Tidy q := endKst_tidy hs1.frame
      have hdone : ∀ t : State, t.Tidy q → ∀ r, ∀ code, (done t r code).Tidy q := fun _ h1 _ _ => showEvr_tidy (clrRefuse_tidy
          (wr_tidy h1))
      split
      · rename_i x s11 e
        exact hdone _ (fst_tidy e (dmaRead_tidy hs0)) _ _
      · rename_i x s11 bs e
        have hs11 : s11.Tidy q := fst_tidy e (dmaRead_tidy hs0)
        split
        · rename_i x1 s2 r e1
          exact hdone _ (fst_tidy e1 (clrCheck_tidy hs11)) _ _
        · rename_i x1 s2 e1
          have hs2 : s2.Tidy q := fst_tidy e1 (clrCheck_tidy hs11)
          extract_lets cut drops src1 src2
          have hsrc1 : src1.Tidy q := setSeq_tidy hs2
          split
          exact showEvr_tidy (incSat_tidy hsrc1.frame)

theorem execClearCommit_tidy (hs : s.Tidy q) : OutTidy q (execClearCommit s) := by
  unfold execClearCommit
  refine next_tidy (whileLive_tidy hs fun s1 hs1 => ?_)
  split
  · exact hs1
  · extract_lets page src src1 s11 s2 s3 s4 s5
    have hs11 : s11.Tidy q := hs1.frame
    have hs2 : s2.Tidy q := wrB_tidy (wr_tidy (setBuf_tidy hs11))
    have hs3 : s3.Tidy q := foldl_tidy hs2 fun _ h1 _ => wr_tidy h1
    have hs4 : s4.Tidy q := raise_tidy (wr_tidy (wr_tidy hs3))
    have hs5 : s5.Tidy q := ite_tidy (postDropped_tidy (showEvr_tidy hs4)) (showEvr_tidy hs4)
    exact ite_tidy (startFlush_tidy hs5) hs5

/-! ### Machine/Evr: Start, enable, soft reset (R398, R405) -/

theorem evrStart_tidy (hs : s.Tidy q) : s.evrStart.Tidy q := by
  unfold State.evrStart
  extract_lets l good pages src s1 s2 n s3
  have hs1 : s1.Tidy q := hs.frame
  have hs2 : s2.Tidy q := foldl_tidy (setBuf_tidy hs1) fun _ h1 _ => ite_tidy h1 (raise_tidy (logAdd_tidy h1))
  have hs3 : s3.Tidy q := ite_tidy hs2 (accept_tidy hs2)
  exact ite_tidy hs3 (postDropped_tidy hs3)

theorem evrEnable_tidy (hs : s.Tidy q) : s.evrEnable.Tidy q := ite_tidy (startFlush_tidy hs) hs

theorem evrSoftReset_tidy (hs : s.Tidy q) : s.evrSoftReset.Tidy q := hs.frame

/-! ### Machine/Pfm: Counting (R510, R511) -/

theorem pfmCount_tidy (hs : s.Tidy q) {port wr bytes lat} : (s.pfmCount port wr bytes lat).Tidy q := by
  unfold State.pfmCount
  split
  · exact hs
  · extract_lets c k src
    split
    split
    split
    split
    exact hs.frame

/-! ### Machine/Pfm: Windows (R512, R513, R515) -/

theorem pfmStart_tidy (hs : s.Tidy q) {part} : (s.pfmStart part).Tidy q := hs.frame

theorem pfmBank_tidy (hs : s.Tidy q) : s.pfmBank.Tidy q :=
  foldl_tidy hs fun _ h1 _ => foldl_tidy (regPut_tidy (regPut_tidy (regPut_tidy (regPut_tidy h1)))) fun _ h2 _ => regPut_tidy h2

theorem pfmDrop_tidy (hs : s.Tidy q) : s.pfmDrop.Tidy q := raise_tidy (incSat_tidy hs.frame)

theorem pfmEnd_tidy (hs : s.Tidy q) {part} : (s.pfmEnd part).Tidy q := by
  unfold State.pfmEnd
  extract_lets seq t src s0 s1 full pfm s2
  have hs1 : s1.Tidy q := wr_tidy (wr_tidy (wr_tidy (pfmBank_tidy hs.frame)))
  clear_value s1
  exact freezePoint_tidy (commitBlk_tidy (ite_tidy hs1 (ite_tidy (pfmDrop_tidy hs1) hs1.frame)))

theorem execPfmWindowEnd_tidy (hs : s.Tidy q) : OutTidy q (execPfmWindowEnd s) :=
  next_tidy (whileLive_tidy hs (fun _ h1 => ite_tidy h1 (pfmStart_tidy (pfmEnd_tidy h1))))

theorem execRecDone_tidy (hs : s.Tidy q) : OutTidy q (execRecDone s) := by
  unfold execRecDone
  refine next_tidy (whileLive_tidy hs fun s1 hs1 => ?_)
  split
  · exact hs1
  · extract_lets w base src
    split
    · rename_i x s2 e
      exact raise_tidy (wr_tidy (fst_tidy e (dmaWrite_tidy hs1.frame)))
    · rename_i x s2 e
      exact err_tidy (raise_tidy (pfmDrop_tidy (fst_tidy e (dmaWrite_tidy hs1.frame))))

/-! ### Machine/Pfm: User-mode access (R516) -/

theorem execPfmUserAccess_tidy (hs : s.Tidy q) {core off mapped wr} : OutTidy q (execPfmUserAccess core off mapped wr s) := by
  unfold execPfmUserAccess
  refine next_tidy ?_
  split
  · split
    · exact replyErr_tidy (err_tidy hs)
    · exact ite_tidy (ite_tidy (reply_tidy hs) (reply_tidy hs)) (replyErr_tidy hs)
  · exact replyErr_tidy hs

/-! ### Machine/FabMem: Errors and quotas -/

theorem ceSeen_tidy (hs : s.Tidy q) {a} : (s.ceSeen a).Tidy q := by
  unfold State.ceSeen
  extract_lets src s1 src1
  have hs1 : s1.Tidy q := ite_tidy hs.frame hs
  exact ite_tidy (incSat_tidy hs1.frame) (ite_tidy (incSat_tidy hs1) (ite_tidy (incSat_tidy hs1) (ite_tidy (incSat_tidy hs1)
      hs1)))

theorem markUe_tidy (hs : s.Tidy q) {a} : (s.markUe a).Tidy q := ite_tidy hs hs.frame

theorem writeQuota_tidy (hs : s.Tidy q) {n v} : (s.writeQuota n v).Tidy q := ite_tidy (err_tidy hs) (wr_tidy (wr_tidy (wr_tidy hs)))

/-! ### Machine/FabMem: Memory (R439) -/

theorem execDramRefresh_tidy (hs : s.Tidy q) {ch} : OutTidy q (execDramRefresh ch s) :=
  next_tidy (whileLive_tidy hs (fun _ h1 => ite_tidy h1 h1.frame))

theorem execHotChg_tidy (hs : s.Tidy q) {hot} : OutTidy q (execHotChg hot s) :=
  next_tidy (whileLive_tidy hs (fun _ h1 => ite_tidy h1 (raise_tidy (wrB_tidy h1))))

/-! ### Machine/FabMem: Translation commands (R447, R456) -/

theorem execPinCfg_tidy (hs : s.Tidy q) {m v} : OutTidy q (execPinCfg m v s) :=
  next_tidy (gate_tidy hs (fun _ h1 => ite_tidy h1 (ite_tidy (err_tidy h1) (ite_tidy (err_tidy h1) (regPut_tidy h1.frame)))))

theorem execPinSel_tidy (hs : s.Tidy q) {m v} : OutTidy q (execPinSel m v s) :=
  next_tidy (gate_tidy hs (fun _ h1 => regPut_tidy (wr_tidy (wr_tidy (wr_tidy (wr_tidy h1))))))

theorem execInval_tidy (hs : s.Tidy q) {m ctx} : OutTidy q (execInval m ctx s) :=
  next_tidy (gate_tidy hs (fun _ h1 => ite_tidy (err_tidy h1) h1.frame))

theorem execFaultPop_tidy (hs : s.Tidy q) {m} : OutTidy q (execFaultPop m s) := by
  unfold execFaultPop
  refine next_tidy (gateRead_tidy hs fun s1 hs1 => ?_)
  split
  · exact reply_tidy hs1
  · exact reply_tidy (wr_tidy (regPut_tidy hs1.frame))

theorem xltSoftReset_tidy (hs : s.Tidy q) : s.xltSoftReset.Tidy q := hs.frame

/-! ### Machine/FabMem: The flash manager (R448 to R450, R458) -/

theorem nfmEnd_tidy (hs : s.Tidy q) {r} : (s.nfmEnd r).Tidy q :=
  ite_tidy (raise_tidy (wr_tidy hs)) (ite_tidy (err_tidy (raise_tidy (raise_tidy (wr_tidy hs)))) (ite_tidy (err_tidy (raise_tidy (wr_tidy
      hs))) (err_tidy (raise_tidy (wr_tidy hs)))))

theorem nfmCmd_tidy (hs : s.Tidy q) {m op part} : (s.nfmCmd m op part).Tidy q :=
  gate_tidy hs (fun _ h1 => ite_tidy (nfmEnd_tidy h1) (wr_tidy h1.frame))

theorem nandPage_tidy (hs : s.Tidy q) {part page} : SndTidy q (s.nandPage part page) := by
  unfold State.nandPage
  split
  · exact snd_mk hs
  · split
    rename_i x v s1 e
    exact snd_mk (snd_tidy e (draw_tidy hs))

theorem setPage_tidy (hs : s.Tidy q) {part page b} : (s.setPage part page b).Tidy q := hs.frame

theorem readPage_tidy (hs : s.Tidy q) {part page} : (s.readPage part page).Tidy q := hs.frame

theorem setSpare_tidy (hs : s.Tidy q) {count} : (s.setSpare count).Tidy q :=
  ite_tidy (event_tidy (raise_tidy (wr_tidy hs.frame))) (wr_tidy hs.frame)

theorem toBuf_tidy (hs : s.Tidy q) {j b} : FstTidy q (s.toBuf j b) := by
  unfold State.toBuf
  split
  · rename_i x s2 e
    exact fst_mk (fst_tidy e (dmaWrite_tidy hs))
  · rename_i x s2 e
    exact fst_mk (fst_tidy e (dmaWrite_tidy hs))

theorem nfmRun_tidy (hs : s.Tidy q) {j fate spare} : FstTidy q (s.nfmRun j fate spare) := by
  unfold State.nfmRun
  split
  · extract_lets s1
    have hs1 : s1.Tidy q := readPage_tidy hs
    split
    · exact fst_mk hs1
    · split
      rename_i x chans s2 e
      exact toBuf_tidy (snd_tidy e (nandPage_tidy hs1))
  · split
    · split
      · exact fst_mk hs
      · split
        · exact fst_mk hs
        · split
          · rename_i x s1 p e
            exact fst_mk (setPage_tidy (fst_tidy e (dmaRead_tidy hs)))
          · rename_i x s1 e
            exact fst_mk (fst_tidy e (dmaRead_tidy hs))
    · split
      · exact fst_mk (setPage_tidy hs)
      · split
        · exact fst_mk hs
        · split
          · exact fst_mk hs
          · split
            rename_i x v s1 e
            exact toBuf_tidy (snd_tidy e (draw_tidy hs))

theorem execNfmCmdDone_tidy (hs : s.Tidy q) {fate spare} : OutTidy q (execNfmCmdDone fate spare s) := by
  unfold execNfmCmdDone
  refine next_tidy (whileLive_tidy hs fun s1 hs1 => ?_)
  split
  · exact hs1
  · split
    · exact hs1
    · split
      rename_i x s11 c1 e
      exact freezePoint_tidy (setSpare_tidy (nfmEnd_tidy (wr_tidy (fst_tidy e (nfmRun_tidy hs1.frame)))))

theorem execNandCare_tidy (hs : s.Tidy q) {spare wear} : OutTidy q (execNandCare spare wear s) :=
  next_tidy (whileLive_tidy hs (fun _ h1 => ite_tidy h1 (ite_tidy h1.frame (wr_tidy (setSpare_tidy h1.frame)))))

/-! ### Machine/FabMem: Background services (R451 to R454) -/

theorem scrubTest_tidy (hs : s.Tidy q) {bad} : (s.scrubTest bad).Tidy q :=
  ite_tidy hs (ite_tidy (selfTestFail_tidy hs) (ite_tidy hs.frame hs))

theorem scrubbed_tidy (hs : s.Tidy q) {b words} : (s.scrubbed b words).Tidy q := hs.frame

theorem execScrubBurst_tidy (hs : s.Tidy q) {a words ce ue} : OutTidy q (execScrubBurst a words ce ue s) :=
  next_tidy (whileLive_tidy hs (fun _ h1 => ite_tidy h1 (freezePoint_tidy (wr_tidy (scrubTest_tidy (scrubbed_tidy (foldl_tidy (foldl_tidy
      (foldl_tidy h1 fun _ h2 _ => markUe_tidy h2) fun _ h2 _ => ceSeen_tidy h2) fun _ h2 _ => ueSeen_tidy h2)))))))

theorem execScrubShort_tidy (hs : s.Tidy q) : OutTidy q (execScrubShort s) :=
  next_tidy (whileLive_tidy hs (fun _ h1 => ite_tidy h1 (scrubTest_tidy (ite_tidy h1 (err_tidy (raise_tidy h1))))))

theorem showTrue_tidy (hs : s.Tidy q) : s.showTrue.Tidy q := wrB_tidy (wrB_tidy (wrB_tidy hs))

theorem execTruingStep_tidy (hs : s.Tidy q) {ch off gain} : OutTidy q (execTruingStep ch off gain s) := by
  unfold execTruingStep
  refine next_tidy (whileLive_tidy hs fun s1 hs1 => ?_)
  split
  · exact hs1
  · extract_lets src s2 t src1 s0 c s11
    have hs2 : s2.Tidy q := hs1.frame
    have hs0 : s0.Tidy q := ite_tidy hs2.frame hs2.frame
    exact ite_tidy (freezePoint_tidy (showTrue_tidy hs0.frame)) (freezePoint_tidy (err_tidy (raise_tidy (showTrue_tidy hs0.frame))))

theorem execTelemetry_tidy (hs : s.Tidy q) {temp util} : OutTidy q (execTelemetry temp util s) := by
  unfold execTelemetry
  refine next_tidy (whileLive_tidy hs fun s1 hs1 => ?_)
  split
  · exact hs1
  · extract_lets seq n n1 base frame src src1 s0
    have hs0 : s0.Tidy q := hs1.frame
    split
    · rename_i x s2 e
      exact freezePoint_tidy (raise_tidy (wr_tidy (fst_tidy e (dmaWrite_tidy hs0))))
    · rename_i x s2 e
      exact fst_tidy e (dmaWrite_tidy hs0)

/-! ### Machine/Lpe: The loop table entry (R196 to R198) -/

theorem slotDone_tidy (hs : s.Tidy q) {n result} : (s.slotDone n result).Tidy q := raise_tidy (ite_tidy (wr_tidy (wr_tidy hs)) hs)

theorem slotTaken_tidy (hs : s.Tidy q) {n pend} : (s.slotTaken n pend).Tidy q := wrB_tidy (wr_tidy hs)

theorem doEnable_tidy (hs : s.Tidy q) {n} : (s.doEnable n).Tidy q := by
  unfold State.doEnable
  split
  · rename_i x s1 e
    exact slotDone_tidy (err_tidy (fst_tidy e (dmaRead_tidy hs)))
  · rename_i x s1 bs e
    have hs1 : s1.Tidy q := fst_tidy e (dmaRead_tidy hs)
    exact ite_tidy (slotDone_tidy (err_tidy hs1)) (slotDone_tidy (wr_tidy (wr_tidy (setLslot_tidy hs1))))

theorem doDisable_tidy (hs : s.Tidy q) {n} : (s.doDisable n).Tidy q := by
  unfold State.doDisable
  extract_lets x s1 s2
  have hs1 : s1.Tidy q := wr_tidy (setLslot_tidy hs)
  have hs2 : s2.Tidy q := by
    unfold s2
    split
    · exact ite_tidy (dropOut_tidy hs1) hs1
    · exact hs1
  exact slotDone_tidy hs2

theorem doReload_tidy (hs : s.Tidy q) {n} : (s.doReload n).Tidy q := by
  unfold State.doReload
  extract_lets x
  split
  · rename_i x1 s1 e
    exact slotDone_tidy (err_tidy (fst_tidy e (dmaRead_tidy hs)))
  · rename_i x1 s1 bs e
    have hs1 : s1.Tidy q := fst_tidy e (dmaRead_tidy hs)
    exact ite_tidy (slotDone_tidy (err_tidy hs1)) (ite_tidy (slotDone_tidy (err_tidy hs1)) (slotDone_tidy (setLslot_tidy hs1)))

theorem slotCmdNow_tidy (hs : s.Tidy q) {n} : (s.slotCmdNow n).Tidy q :=
  ite_tidy (doDisable_tidy (setLslot_tidy hs)) (ite_tidy (doReload_tidy (setLslot_tidy hs)) (setLslot_tidy hs))

theorem slotCommandHere_tidy (hs : s.Tidy q) {n op} : (s.slotCommandHere n op).Tidy q :=
  ite_tidy (doEnable_tidy (slotTaken_tidy hs)) (ite_tidy (doDisable_tidy (slotTaken_tidy hs)) (ite_tidy (slotTaken_tidy (setLslot_tidy
      hs)) (err_tidy hs)))

theorem slotCommand_tidy (hs : s.Tidy q) {m n op} : (s.slotCommand m n op).Tidy q :=
  gatePair_tidy hs (fun _ h1 => slotCommandHere_tidy (emit_tidy h1))

theorem execSlotEnable_tidy (hs : s.Tidy q) {m n} : OutTidy q (execSlotEnable m n s) := next_tidy (slotCommand_tidy hs)

theorem execSlotDisable_tidy (hs : s.Tidy q) {m n} : OutTidy q (execSlotDisable m n s) := next_tidy (slotCommand_tidy hs)

theorem execSlotReload_tidy (hs : s.Tidy q) {m n} : OutTidy q (execSlotReload m n s) := next_tidy (slotCommand_tidy hs)

/-! ### Machine/Lpe: Evaluating a slot (R200 to R212) -/

theorem countEvals_tidy (hs : s.Tidy q) {n} : (s.countEvals n).Tidy q := ite_tidy hs.frame ((wr_tidy hs).frame)

theorem sampleWith_tidy (hs : s.Tidy q) {n pvs fb fq} : (s.sampleWith n pvs fb fq).Tidy q := by
  unfold State.sampleWith
  extract_lets x0 e ls0 comp hist
  split
  extract_lets x1 s1 s2 v s3 s4
  have hs1 : s1.Tidy q := countEvals_tidy (wrB_tidy (wr_tidy hs))
  have hs2 : s2.Tidy q := ite_tidy (wr_tidy hs1) hs1
  have hs3 : s3.Tidy q := setLslot_tidy hs2
  have hs4 : s4.Tidy q := ite_tidy hs3 (raise_tidy hs3)
  split
  · split
    exact putOut_tidy (wr_tidy (wr_tidy (setLslot_tidy hs2)))
  · exact putOut_tidy (wr_tidy (wr_tidy hs4))

theorem sampleNow_tidy (hs : s.Tidy q) {n} : (s.sampleNow n).Tidy q := by
  unfold State.sampleNow
  extract_lets e pvs
  split
  exact sampleWith_tidy (ite_tidy hs (emit_tidy hs))

theorem execSlotSample_tidy (hs : s.Tidy q) {n} : OutTidy q (execSlotSample n s) :=
  next_tidy (whileLive_tidy hs (fun _ h1 => ite_tidy h1 (ite_tidy (sampleNow_tidy (slotCmdNow_tidy h1)) (slotCmdNow_tidy h1))))

theorem execSlotOverrun_tidy (hs : s.Tidy q) {n} : OutTidy q (execSlotOverrun n s) :=
  next_tidy (whileLive_tidy hs (fun _ h1 => ite_tidy h1 (raise_tidy (incSat_tidy (setLslot_tidy h1)))))

/-! ### Machine/Lpe: Guard commands (R215 to R218) -/

theorem execGuardPass_tidy (hs : s.Tidy q) : OutTidy q (execGuardPass s) :=
  next_tidy (whileLive_tidy hs (fun _ h1 => ite_tidy (freezePoint_tidy h1) (guardPass_tidy (freezePoint_tidy h1))))

theorem execGrdLoad_tidy (hs : s.Tidy q) {m} : OutTidy q (execGrdLoad m s) := next_tidy (gate_tidy hs (fun _ h1 => (wr_tidy h1).frame))

theorem grdEnd_tidy (hs : s.Tidy q) {r} : (s.grdEnd r).Tidy q := (raise_tidy (ite_tidy (wr_tidy hs) (err_tidy (wr_tidy hs)))).frame

theorem execGrdCheckEnd_tidy (hs : s.Tidy q) : OutTidy q (execGrdCheckEnd s) := by
  unfold execGrdCheckEnd
  refine next_tidy (whileLive_tidy hs fun s1 hs1 => ?_)
  split
  · exact hs1
  · extract_lets a
    split
    · rename_i x s11 e
      exact grdEnd_tidy (fst_tidy e (dmaRead_tidy hs1))
    · rename_i x s11 bs e
      have hs11 : s11.Tidy q := fst_tidy e (dmaRead_tidy hs1)
      extract_lets n n1
      split
      · rename_i x1 s12 e1
        exact grdEnd_tidy (fst_tidy e1 (dmaRead_tidy hs11))
      · rename_i x1 s12 bs1 e1
        have hs12 : s12.Tidy q := fst_tidy e1 (dmaRead_tidy hs11)
        exact ite_tidy (grdEnd_tidy hs12) (grdEnd_tidy (wr_tidy (ite_tidy hs12.frame hs12.frame)))

theorem execSafeAll_tidy (hs : s.Tidy q) {m on} : OutTidy q (execSafeAll m on s) :=
  next_tidy (gatePair_tidy hs (fun _ h1 => wrB_tidy (emit_tidy h1)))

/-! ### Machine/Net: Ports -/

theorem netDrop_tidy (hs : s.Tidy q) {p} : (s.netDrop p).Tidy q := incSat_tidy hs

/-! ### Machine/Net: Address learning (R316) -/

theorem learn_tidy (hs : s.Tidy q) {a p} : (s.learn a p).Tidy q := ite_tidy hs (ite_tidy hs hs.frame)

/-! ### Machine/Net: The CPU port (R319 to R321) -/

theorem cpuFault_tidy (hs : s.Tidy q) {q1} : (s.cpuFault q1).Tidy q := err_tidy hs

theorem rxDone_tidy (hs : s.Tidy q) {i len tb result port ts} : (s.rxDone i len tb result port ts).Tidy q := by
  unfold State.rxDone
  extract_lets d s1
  have hs1 : s1.Tidy q := by
    unfold s1
    split
    · rename_i x s2 e
      exact fst_tidy e (dmaWrite_tidy hs)
    · rename_i x s2 e
      exact cpuFault_tidy (fst_tidy e (dmaWrite_tidy hs))
  exact raise_tidy (wr_tidy hs1)

theorem toCpu_tidy (hs : s.Tidy q) {f port} : (s.toCpu f port).Tidy q := by
  unfold State.toCpu
  extract_lets i drop tb
  have hdrop : ∀ t : State, t.Tidy q → (drop t).Tidy q := fun _ h1 => raise_tidy (netDrop_tidy h1)
  split
  · exact hdrop _ hs
  · split
    · rename_i x s1 e
      exact raise_tidy (wr_tidy (cpuFault_tidy (fst_tidy e (dmaRead_tidy hs))))
    · rename_i x s1 bs e
      have hs1 : s1.Tidy q := fst_tidy e (dmaRead_tidy hs)
      split
      · exact hdrop _ hs1
      · split
        · exact rxDone_tidy hs1
        · split
          · rename_i x1 s2 e1
            exact rxDone_tidy (fst_tidy e1 (dmaWrite_tidy hs1))
          · rename_i x1 s2 e1
            exact rxDone_tidy (cpuFault_tidy (fst_tidy e1 (dmaWrite_tidy hs1)))

theorem txPass_tidy (hs : s.Tidy q) {i} : (s.txPass i).Tidy q := by
  unfold State.txPass
  split
  exact raise_tidy (wr_tidy hs.frame)

theorem txDone_tidy (hs : s.Tidy q) {i flags result ts} : (s.txDone i flags result ts).Tidy q := by
  unfold State.txDone
  extract_lets s1
  have hs1 : s1.Tidy q := by
    unfold s1
    split
    · rename_i x s2 e
      have hs2 : s2.Tidy q := fst_tidy e (dmaWrite_tidy hs)
      split
      · exact (dmaWrite_tidy hs2).tidy
      · exact hs2
    · rename_i x s2 e
      exact cpuFault_tidy (fst_tidy e (dmaWrite_tidy hs))
  exact txPass_tidy hs1

/-! ### Machine/Net: Queues (R317) -/

theorem pushQ_tidy (hs : s.Tidy q) {p q1} : (s.pushQ p q1).Tidy q := hs.frame

theorem sendTo_tidy (hs : s.Tidy q) {q1 ports} : (s.sendTo q1 ports).Tidy q :=
  foldl_tidy hs fun _ h1 _ => ite_tidy (toCpu_tidy h1) (ite_tidy (netDrop_tidy h1) (pushQ_tidy h1))

theorem execSwitchFrameRx_tidy (hs : s.Tidy q) {port f} : OutTidy q (execSwitchFrameRx port f s) := by
  unfold execSwitchFrameRx
  refine next_tidy (whileLive_tidy hs fun s1 hs1 => ?_)
  extract_lets src s2 p st s11 q1
  have hs2 : s2.Tidy q := hs1.frame
  have hs11 : s11.Tidy q := ite_tidy (learn_tidy hs2) hs2
  split
  · exact hs2
  · split
    · exact netDrop_tidy hs2
    · split
      · exact toCpu_tidy hs11
      · split
        · exact hs11
        · split
          · exact ite_tidy hs11 (ite_tidy (toCpu_tidy hs11) (sendTo_tidy hs11))
          · exact sendTo_tidy hs11

theorem txTake_tidy (hs : s.Tidy q) {i} : FstTidy q (s.txTake i) := by
  unfold State.txTake
  split
  · rename_i x s1 e
    exact fst_mk (txPass_tidy (cpuFault_tidy (fst_tidy e (dmaRead_tidy hs))))
  · rename_i x s1 bs e
    have hs1 : s1.Tidy q := fst_tidy e (dmaRead_tidy hs)
    extract_lets fl len port
    clear_value fl len port
    split
    · exact fst_mk hs1
    · split
      · exact fst_mk (txDone_tidy (netDrop_tidy hs1))
      · split
        · rename_i x1 s11 e1
          exact fst_mk (txDone_tidy (cpuFault_tidy (fst_tidy e1 (dmaRead_tidy hs1))))
        · rename_i x1 s11 bs1 e1
          have hs11 : s11.Tidy q := fst_tidy e1 (dmaRead_tidy hs1)
          extract_lets f s3 ports q1
          have hs3 : s3.Tidy q := learn_tidy hs11
          clear_value f s3 ports q1
          split
          · exact fst_mk (txDone_tidy hs3)
          · exact ite_fst_tidy (fst_mk (txDone_tidy (toCpu_tidy hs3))) (ite_fst_tidy (fst_mk (txDone_tidy (netDrop_tidy hs3)))
                (ite_fst_tidy (fst_mk (txDone_tidy (netDrop_tidy hs3))) (fst_mk (sendTo_tidy (pushQ_tidy hs3)))))

theorem txTakeAll_tidy (hs : s.Tidy q) {n} : (s.txTakeAll n).Tidy q := by
  induction n generalizing s with
  | zero => exact hs
  | succ n ih =>
    unfold State.txTakeAll
    refine ite_tidy hs ?_
    split
    · rename_i s1 e
      exact fst_tidy e (txTake_tidy hs)
    · rename_i s1 e
      exact ih (fst_tidy e (txTake_tidy hs)).frame

theorem serveTx_tidy (hs : s.Tidy q) : s.serveTx.Tidy q := ite_tidy (txTakeAll_tidy hs) hs

theorem execCpuTail_tidy (hs : s.Tidy q) {m q1 tail} : OutTidy q (execCpuTail m q1 tail s) :=
  next_tidy (gate_tidy hs (fun _ h1 => ite_tidy (serveTx_tidy (wr_tidy h1)) (wr_tidy h1)))

/-! ### Machine/Net: Transmission (R321, R325 to R327) -/

theorem correct_tidy (hs : s.Tidy q) {port q1} : FstTidy q (s.correct port q1) := by
  unfold State.correct
  split
  · exact fst_mk hs
  · extract_lets b d ty pd src send drop src1
    have hdrop : ∀ t : State, t.Tidy q → (drop t).Tidy q := fun _ h1 => raise_tidy (incSat_tidy h1)
    split
    · exact fst_mk hs
    · extract_lets res late e l0 l
      split
      · exact ite_fst_tidy (fst_mk (hdrop _ hs)) (ite_fst_tidy (fst_mk hs) (fst_mk hs.frame))
      · split
        · exact ite_fst_tidy (fst_mk (hdrop _ hs)) (fst_mk hs)
        · split
          · split
            · exact fst_mk hs.frame
            · exact fst_mk (incSat_tidy hs)
          · exact fst_mk hs

theorem netStopAsked_tidy (hs : s.Tidy q) : s.netStopAsked.Tidy q := hs.frame

theorem execFrameTxDone_tidy (hs : s.Tidy q) {port} : OutTidy q (execFrameTxDone port s) := by
  unfold execFrameTxDone
  refine next_tidy (whileLive_tidy hs fun s1 hs1 => ?_)
  extract_lets src s2 src1
  have hs2 : s2.Tidy q := hs1.frame
  split
  · exact hs2
  · extract_lets s11 fl finish f src2 sent
    have hs11 : s11.Tidy q := hs2.frame
    have hfinish : ∀ t : State, t.Tidy q → ∀ r, ∀ ts, (finish t r ts).Tidy q := by
      intro t ht r ts
      unfold finish
      split
      · exact txDone_tidy ht
      · exact ht
    have hsent : sent.Tidy q := by
      unfold sent
      split
      · exact hfinish _ hs11 _ _
      · split
        · exact hfinish _ hs11.frame _ _
        · split
          · rename_i x s21 f1 e
            have hs21 : s21.Tidy q := fst_tidy e (correct_tidy hs11)
            exact hs21.frame
          · rename_i x s21 e
            exact fst_tidy e (correct_tidy hs11)
    exact serveTx_tidy hsent

/-! ### Machine/Net: Tables and links -/

theorem execAddressAgeing_tidy (hs : s.Tidy q) : OutTidy q (execAddressAgeing s) :=
  next_tidy (whileLive_tidy hs (fun _ h1 => ite_tidy h1 h1.frame))

theorem execBrFlush_tidy (hs : s.Tidy q) {m} : OutTidy q (execBrFlush m s) := next_tidy (gate_tidy hs (fun _ h1 => h1.frame))

theorem execFollowupExpiry_tidy (hs : s.Tidy q) : OutTidy q (execFollowupExpiry s) := next_tidy (whileLive_tidy hs (fun _ h1 => h1.frame))

theorem execPortLinkChange_tidy (hs : s.Tidy q) {port up an} : OutTidy q (execPortLinkChange port up an s) := by
  unfold execPortLinkChange
  refine next_tidy (whileLive_tidy hs fun s1 hs1 => ?_)
  extract_lets p s11 s2 since src src1 src2 src3 src4
  have hs11 : s11.Tidy q := wrB_tidy (wrB_tidy hs1)
  have hs2 : s2.Tidy q := raise_tidy hs11
  have hsrc : src.Tidy q := wrB_tidy hs2
  have hsrc2 : src2.Tidy q := wrB_tidy hs2
  have hsrc3 : src3.Tidy q := raise_tidy (wrB_tidy hs2)
  exact ite_tidy hs11 (ite_tidy hsrc.frame (ite_tidy hsrc2.frame (ite_tidy hsrc3.frame hs2)))

/-! ### Machine/Save -/

theorem clearBlks_tidy (hs : s.Tidy q) {p} : (s.clearBlks p).Tidy q :=
  ⟨hs.1, sparse_wfFrom_filter regReset _ s.regs 0 hs.2.1, hs.2.2⟩

theorem restoreRec_tidy (hs : s.Tidy q) {en r} : (s.restoreRec en r).Tidy q :=
  ite_tidy ((ite_tidy (foldl_tidy hs fun _ h1 _ => regPut_tidy h1) (wr_tidy (foldl_tidy hs fun _ h1 _ => regPut_tidy h1))).frame)
      (sumPend_tidy ((ite_tidy (foldl_tidy hs fun _ h1 _ => regPut_tidy h1) (wr_tidy (foldl_tidy hs fun _ h1 _ => regPut_tidy
          h1))).frame))

theorem putSave_tidy (hs : s.Tidy q) {r} : (s.putSave r).Tidy q := hs.frame

theorem loseMem_tidy (hs : s.Tidy q) {p} : (s.loseMem p).Tidy q := ⟨memory_wf_filter s.mem _ hs.1, hs.2⟩

theorem setDom_tidy (hs : s.Tidy q) {d off} : (s.setDom d off).Tidy q := hs.frame

theorem slvOff_tidy (hs : s.Tidy q) : s.slvOff.Tidy q := setDom_tidy (loseMem_tidy ((clearBlks_tidy (putSave_tidy hs)).frame))

theorem pnlOff_tidy (hs : s.Tidy q) : s.pnlOff.Tidy q := setDom_tidy ((clearBlks_tidy (putSave_tidy hs)).frame)

theorem domOn_tidy (hs : s.Tidy q) {d} : (s.domOn d).Tidy q := ite_tidy hs (foldl_tidy (setDom_tidy hs) fun _ h1 _ => restoreRec_tidy h1)

/-! ### Machine/Pnl: Pixels (R499 to R501, R505) -/

theorem loadUnif_tidy (hs : s.Tidy q) {bad} : (s.loadUnif bad).Tidy q :=
  ite_tidy (wr_tidy hs.frame) (err_tidy (raise_tidy (wr_tidy hs.frame)))

/-! ### Machine/Pnl: Power sequences (R497, R498, R507) -/

theorem setPnlState_tidy (hs : s.Tidy q) {v} : (s.setPnlState v).Tidy q := wr_tidy (wr_tidy hs)

theorem showUpd_tidy (hs : s.Tidy q) : s.showUpd.Tidy q := by
  unfold State.showUpd
  extract_lets s1
  have hs1 : s1.Tidy q := wr_tidy hs
  split
  · exact wr_tidy (wr_tidy (wr_tidy hs1))
  · exact wr_tidy (wr_tidy hs1)

theorem updEnd_tidy (hs : s.Tidy q) : s.updEnd.Tidy q := by
  unfold State.updEnd
  split
  · exact hs
  · exact ite_tidy (showUpd_tidy (raise_tidy (incSat_tidy hs.frame))) hs.frame

theorem discharge_tidy (hs : s.Tidy q) : s.discharge.Tidy q := showUpd_tidy (setPnlState_tidy ((updEnd_tidy hs).frame))

theorem pnlPowerOff_tidy (hs : s.Tidy q) : s.pnlPowerOff.Tidy q := ite_tidy hs (ite_tidy hs.frame (discharge_tidy hs))

theorem execPnlOn_tidy (hs : s.Tidy q) {m} : OutTidy q (execPnlOn m s) :=
  next_tidy (gate_tidy hs (fun _ h1 => ite_tidy (err_tidy h1) (setPnlState_tidy h1.frame)))

theorem execPnlVddTimer_tidy (hs : s.Tidy q) : OutTidy q (execPnlVddTimer s) :=
  next_tidy (whileLive_tidy hs (fun _ h1 => ite_tidy h1.frame h1))

theorem execPnlVaTimer_tidy (hs : s.Tidy q) {bad} : OutTidy q (execPnlVaTimer bad s) :=
  next_tidy (whileLive_tidy hs (fun _ h1 => ite_tidy (loadUnif_tidy (raise_tidy (wr_tidy (setPnlState_tidy h1.frame)))) h1))

theorem execPnlOff_tidy (hs : s.Tidy q) {m} : OutTidy q (execPnlOff m s) :=
  next_tidy (gate_tidy hs (fun _ h1 => ite_tidy (err_tidy h1) (pnlPowerOff_tidy h1)))

theorem execPnlDischargeEnd_tidy (hs : s.Tidy q) : OutTidy q (execPnlDischargeEnd s) :=
  next_tidy (whileLive_tidy hs (fun _ h1 => ite_tidy (ite_tidy (pnlOff_tidy (raise_tidy (setPnlState_tidy h1.frame))) (raise_tidy
      (setPnlState_tidy h1.frame))) h1))

theorem execCommonPeriodEnd_tidy (hs : s.Tidy q) : OutTidy q (execCommonPeriodEnd s) :=
  next_tidy (whileLive_tidy hs (fun _ h1 => ite_tidy (freezePoint_tidy (commit_tidy h1.frame)) h1))

/-! ### Machine/Pnl: Updates (R502 to R504) -/

theorem updRequest_tidy (hs : s.Tidy q) {r} : (s.updRequest r).Tidy q :=
  ite_tidy (err_tidy hs) (ite_tidy (raise_tidy (incSat_tidy hs)) hs.frame)

theorem execUpdCmd_tidy (hs : s.Tidy q) {m regions} : OutTidy q (execUpdCmd m regions s) :=
  next_tidy (gate_tidy hs (fun _ h1 => showUpd_tidy (foldl_tidy h1 fun _ h2 _ => updRequest_tidy h2)))

theorem readLines_tidy (hs : s.Tidy q) {r first n l} : FstTidy q (s.readLines r first n l) := by
  induction l generalizing s with
  | nil => exact hs
  | cons y t ih =>
    unfold State.readLines
    refine ite_fst_tidy ?_ (ih hs)
    extract_lets base
    split
    · rename_i s1 e
      exact fst_tidy e (dmaRead_tidy hs)
    · rename_i s1 p e
      exact ih (fst_tidy e (dmaRead_tidy hs))

theorem nextLine_tidy (hs : s.Tidy q) : s.nextLine.Tidy q := by
  unfold State.nextLine
  split
  · exact hs
  · split
    · exact updEnd_tidy hs
    · exact updEnd_tidy (raise_tidy (err_tidy hs))
    · exact showUpd_tidy hs

theorem execUpdateStart_tidy (hs : s.Tidy q) : OutTidy q (execUpdateStart s) := by
  unfold execUpdateStart
  refine next_tidy (whileLive_tidy hs fun s1 hs1 => ?_)
  split
  · exact hs1
  · split
    · exact hs1.frame
    · split
      · exact hs1
      · extract_lets s0 src s11 first n full ys
        have hs0 : s0.Tidy q := freezePoint_tidy (commit_tidy hs1)
        have hs11 : s11.Tidy q := hs0.frame
        split
        · exact hs0
        · split
          · exact updEnd_tidy (err_tidy hs11)
          · split
            rename_i x s2 l e
            have hs2 : s2.Tidy q := fst_tidy e (readLines_tidy (wr_tidy hs11))
            exact nextLine_tidy hs2.frame

theorem execLineDone_tidy (hs : s.Tidy q) : OutTidy q (execLineDone s) := by
  unfold execLineDone
  refine next_tidy (whileLive_tidy hs fun s1 hs1 => ?_)
  split
  · split
    · exact hs1
    · extract_lets src s2 words src1 s11 s21 src2
      have hs2 : s2.Tidy q := hs1.frame
      have hs11 : s11.Tidy q := hs2.frame
      have hs21 : s21.Tidy q := ite_tidy (discharge_tidy hs11) (nextLine_tidy hs11)
      exact hs21.frame
  · exact hs1

/-! ### Machine/Pnl: The always-on area (R505, R506) -/

theorem execAonLoad_tidy (hs : s.Tidy q) {m} : OutTidy q (execAonLoad m s) := by
  unfold execAonLoad
  refine next_tidy (gate_tidy hs fun s1 hs1 => ?_)
  split
  · exact err_tidy hs1
  · split
    · rename_i x s11 e
      exact err_tidy (fst_tidy e (dmaRead_tidy hs1))
    · rename_i x s11 bs e
      have hs11 : s11.Tidy q := fst_tidy e (dmaRead_tidy hs1)
      exact hs11.frame

theorem execAonLoadDone_tidy (hs : s.Tidy q) : OutTidy q (execAonLoadDone s) := by
  unfold execAonLoadDone
  refine next_tidy (whileLive_tidy hs fun s1 hs1 => ?_)
  split
  · exact hs1
  · exact raise_tidy (wr_tidy ((putBytes_tidy hs1).frame))

theorem execAonRefresh_tidy (hs : s.Tidy q) : OutTidy q (execAonRefresh s) := next_tidy (ite_tidy hs (ite_tidy (wr_tidy hs.frame) hs.frame))

/-! ### Machine/SpkStation: Forwarding and loop-back (R163, R164, R167) -/

theorem passOn_tidy (hs : s.Tidy q) {port f} : (s.passOn port f).Tidy q := ite_tidy (sendRing_tidy hs) (sendRing_tidy hs)

theorem seePassing_tidy (hs : s.Tidy q) {f} : (s.seePassing f).Tidy q :=
  ite_tidy (setSpoke_tidy hs.frame) (ite_tidy (setSpoke_tidy hs.frame) hs.frame)

theorem followCyclic_tidy (hs : s.Tidy q) {f} : (s.followCyclic f).Tidy q := by
  unfold State.followCyclic
  extract_lets c
  split
  · exact hs
  · refine foldl_tidy hs (fun s1 hs1 n => ?_)
    extract_lets e
    split
    · exact setSpoke_tidy hs1
    · exact hs1

theorem masterConflict_tidy (hs : s.Tidy q) : s.masterConflict.Tidy q :=
  ite_tidy hs (raiseEv_tidy (err_tidy (ite_tidy (stopMaster_tidy hs) (wr_tidy hs))))

theorem roleOut_tidy (hs : s.Tidy q) : s.roleOut.Tidy q := raise_tidy (drive_tidy (wr_tidy (wr_tidy (ite_tidy (stopMaster_tidy hs) hs))))

/-! ### Machine/SpkStation: The segment (R160, R161, R165, R166, R168) -/

theorem setSubst_tidy (hs : s.Tidy q) {v} : (s.setSubst v).Tidy q := hs.frame

theorem newPass_tidy (hs : s.Tidy q) {b fcs} : (s.newPass b fcs).Tidy q := ite_tidy hs (ite_tidy hs.frame ((supplyInstant_tidy hs).frame))

theorem stationPass_tidy (hs : s.Tidy q) {f} : FstTidy q (s.stationPass f) := fst_mk (ite_tidy (tagBad_tidy hs) hs)

theorem tagHeld_tidy (hs : s.Tidy q) {key} : (s.tagHeld key).Tidy q := ite_tidy hs.frame hs

theorem takeOutputs_tidy (hs : s.Tidy q) {b o intact} : (s.takeOutputs b o intact).Tidy q := ite_tidy hs (deliverOutputs_tidy hs.frame)

theorem processSegment_tidy (hs : s.Tidy q) {f o} : FstTidy q (s.processSegment f o) := by
  unfold State.processSegment
  extract_lets b c
  split
  · exact stationPass_tidy hs
  · extract_lets intact
    split
    exact fst_mk (takeOutputs_tidy (tagHeld_tidy hs))

/-! ### Machine/SpkStation: The mailbox at a station (R185 to R187) -/

theorem stationDown_tidy (hs : s.Tidy q) {a intact} : (s.stationDown a intact).Tidy q := ite_tidy hs (ite_tidy hs.frame hs.frame)

theorem stationMail_tidy (hs : s.Tidy q) {f} : FstTidy q (s.stationMail f) := by
  unfold State.stationMail
  extract_lets b
  split
  · exact stationPass_tidy hs
  · exact ite_fst_tidy (fst_mk (stationDown_tidy (tagHeld_tidy hs))) (fst_mk (tagHeld_tidy hs))

theorem stationProcess_tidy (hs : s.Tidy q) {f} : FstTidy q (s.stationProcess f) := by
  unfold State.stationProcess
  extract_lets b s0
  have hs0 : s0.Tidy q := newPass_tidy (ite_tidy (checkTag_tidy hs) hs)
  split
  · exact fst_mk hs
  · split
    · exact fst_mk hs0
    · split
      · exact processSegment_tidy hs0
      · exact ite_fst_tidy (stationMail_tidy hs0) (fst_mk hs0)

theorem ringArrive_tidy (hs : s.Tidy q) {port partner f} : (s.ringArrive port partner f).Tidy q := by
  unfold State.ringArrive
  extract_lets s0 s1 s11
  have hs0 : s0.Tidy q := clearTx_tidy hs
  have hs1 : s1.Tidy q := seePassing_tidy hs0
  have hs11 : s11.Tidy q := ite_tidy hs0 (ite_tidy (masterConflict_tidy hs0) (ite_tidy (ite_tidy (followCyclic_tidy hs1)
      (ite_tidy (roleOut_tidy hs1) hs1)) hs0))
  split
  · exact hs0
  · split
    · exact hs0
    · split
      · exact roleOut_tidy hs0
      · split
        rename_i x s2 g e
        exact passOn_tidy (fst_tidy e (ite_fst_tidy (stationProcess_tidy hs11) (fst_mk hs11)))

theorem execRingFrameForward_tidy (hs : s.Tidy q) {port partner f} : OutTidy q (execRingFrameForward port partner f s) :=
  next_tidy (ringArrive_tidy hs)

theorem execStationSegment_tidy (hs : s.Tidy q) {port f} : OutTidy q (execStationSegment port f s) :=
  next_tidy (ite_tidy (ringArrive_tidy hs) hs)

theorem execLoopbackEngage_tidy (hs : s.Tidy q) {port} : OutTidy q (execLoopbackEngage port s) :=
  next_tidy (whileLive_tidy hs (fun _ h1 => ite_tidy h1 (ite_tidy h1.frame h1.frame)))

theorem execLoopbackExit_tidy (hs : s.Tidy q) {port} : OutTidy q (execLoopbackExit port s) :=
  next_tidy (whileLive_tidy hs (fun _ h1 => ite_tidy (ite_tidy h1.frame h1) (ite_tidy h1.frame h1)))

theorem execStationWatchdog_tidy (hs : s.Tidy q) : OutTidy q (execStationWatchdog s) :=
  next_tidy (whileLive_tidy hs (fun _ h1 => ite_tidy h1 (deliverOutputs_tidy (setSubst_tidy h1))))

/-! ### Machine/SpkStation: Mailbox services (R188) -/

theorem answer_tidy (hs : s.Tidy q) {service} {k : MbxMsg → State → State × Option (ℕ × List Byte)}
    (hk : ∀ x, ∀ t : State, t.Tidy q → FstTidy q (k x t)) :
    (s.answer service k).Tidy q := by
  unfold State.answer
  refine whileLive_tidy hs (fun s1 hs1 => ?_)
  extract_lets x
  split
  · exact hs1
  · split
    · exact hs1
    · split
      rename_i x1 s11 r e
      have hs11 : s11.Tidy q := fst_tidy e (hk _ _ hs1)
      exact hs11.frame

theorem execIdent_tidy (hs : s.Tidy q) : OutTidy q (execIdent s) := next_tidy (answer_tidy hs (fun _ _ h1 => fst_mk h1))

theorem execParamRead_tidy (hs : s.Tidy q) : OutTidy q (execParamRead s) := by
  unfold execParamRead
  refine next_tidy (answer_tidy hs fun m s1 hs1 => ?_)
  split
  · exact fst_mk hs1
  · split
    · exact fst_mk hs1
    · exact ite_fst_tidy (fst_mk hs1) (fst_mk hs1)

theorem setParam_tidy (hs : s.Tidy q) {idx v} : (s.setParam idx v).Tidy q :=
  ite_tidy (sumPend_tidy (wr_tidy hs)) (ite_tidy hs.frame hs.frame)

theorem execParamWrite_tidy (hs : s.Tidy q) : OutTidy q (execParamWrite s) := by
  unfold execParamWrite
  refine next_tidy (answer_tidy hs fun m s1 hs1 => ?_)
  extract_lets idx v
  split
  · exact fst_mk hs1
  · split
    · exact fst_mk hs1
    · exact ite_fst_tidy (fst_mk (setParam_tidy hs1)) (fst_mk hs1)

theorem execPointBulk_tidy (hs : s.Tidy q) : OutTidy q (execPointBulk s) :=
  next_tidy (answer_tidy hs (fun _ _ h1 => fst_mk (foldl_tidy h1 fun _ h2 _ => ite_tidy h2 (deliverIn_tidy h2))))

/-! ### Machine/Tandem -/

theorem tdmEvent_tidy (hs : s.Tidy q) {k : State → State} (hk : Keeps q k) : (s.tdmEvent k).Tidy q :=
  whileLive_tidy hs (fun _ h1 => ite_tidy (hk _ h1) h1)

theorem entry_tidy (hs : s.Tidy q) {e} {k : State → State} (hk : Keeps q k) : (s.entry e k).Tidy q :=
  tdmEvent_tidy hs (fun _ h1 => ite_tidy h1 (ite_tidy (hk _ h1) (ite_tidy h1.frame h1)))

/-! ### Machine/Tandem: Commands (R371, R376, R377, R379) -/

theorem joinRefuse_tidy (hs : s.Tidy q) {r} : (s.joinRefuse r).Tidy q := err_tidy (raise_tidy (wr_tidy hs))

theorem execJoin_tidy (hs : s.Tidy q) {m ahash ghash cadSum lpeSum} : OutTidy q (execJoin m ahash ghash cadSum lpeSum s) :=
  next_tidy (gate_tidy hs (fun _ h1 => ite_tidy (joinRefuse_tidy h1) (sendTdm_tidy ((wr_tidy h1).frame))))

theorem execLeave_tidy (hs : s.Tidy q) {m} : OutTidy q (execLeave m s) :=
  next_tidy (gate_tidy hs (fun _ h1 => ite_tidy (leaveStep_tidy h1) (err_tidy h1)))

theorem declareFault_tidy (hs : s.Tidy q) : s.declareFault.Tidy q := enterFault_tidy (ite_tidy (stopMaster_tidy hs) hs)

theorem execTdmFault_tidy (hs : s.Tidy q) {m} : OutTidy q (execTdmFault m s) :=
  next_tidy (gate_tidy hs (fun _ h1 => ite_tidy (declareFault_tidy h1) (err_tidy h1)))

theorem execClrFault_tidy (hs : s.Tidy q) {m} : OutTidy q (execClrFault m s) :=
  next_tidy (gate_tidy hs (fun _ h1 => ite_tidy (wr_tidy h1) (err_tidy h1)))

/-! ### Machine/Tandem: Joining (R378) -/

theorem copyBank_tidy (hs : s.Tidy q) {b st} : (s.copyBank b st).Tidy q := ite_tidy (wr_tidy hs) hs

theorem loadCopy_tidy (hs : s.Tidy q) {x} : (s.loadCopy x).Tidy q :=
  foldl_tidy (foldl_tidy ((foldl_tidy (putClean_tidy hs) fun _ h1 _ => setTask_tidy (wr_tidy h1)).frame) fun _ h1 _ => copyBank_tidy h1)
      fun _ h1 _ => setLslot_tidy (wr_tidy h1)

theorem putCopy_tidy (hs : s.Tidy q) : FstTidy q s.putCopy := dmaWrite_tidy hs.frame

theorem execJoinCut_tidy (hs : s.Tidy q) {copy} : OutTidy q (execJoinCut copy s) := by
  unfold execJoinCut
  refine next_tidy (tdmEvent_tidy hs fun s1 hs1 => ?_)
  split
  · split
    · split
      · rename_i x s2 e
        exact sendTdm_tidy (sendTdm_tidy (fst_tidy e (putCopy_tidy hs1)))
      · rename_i x s2 e
        exact err_tidy (fst_tidy e (putCopy_tidy hs1))
    · exact hs1
  · split
    · exact hs1
    · split
      · exact ite_tidy (loadCopy_tidy hs1) hs1
      · exact hs1.frame

theorem execJoinCaughtUp_tidy (hs : s.Tidy q) : OutTidy q (execJoinCaughtUp s) :=
  next_tidy (tdmEvent_tidy hs (fun _ h1 => ite_tidy (raise_tidy (wr_tidy h1)) h1))

theorem execJoinTimeout_tidy (hs : s.Tidy q) {overflow} : OutTidy q (execJoinTimeout overflow s) :=
  next_tidy (tdmEvent_tidy hs (fun _ h1 => ite_tidy h1 (joinRefuse_tidy (wr_tidy h1))))

/-! ### Machine/Tandem: Entries of the stream (R372, R373) -/

theorem applyInstant_tidy (hs : s.Tidy q) {pass ring cadSum lpeSum ofs} : (s.applyInstant pass ring cadSum lpeSum ofs).Tidy q :=
  ite_tidy (leaveStep_tidy ((nextPeriod_tidy (regPut_tidy hs)).frame)) ((nextPeriod_tidy (regPut_tidy hs)).frame)

theorem execInstant_tidy (hs : s.Tidy q) {pass ring cadSum lpeSum ofs} : OutTidy q (execInstant pass ring cadSum lpeSum ofs s) :=
  next_tidy (entry_tidy hs (fun _ h1 => applyInstant_tidy h1))

theorem execDeliv_tidy (hs : s.Tidy q) {slot value status} : OutTidy q (execDeliv slot value status s) :=
  next_tidy (entry_tidy hs (fun _ h1 => putLive_tidy h1))

theorem applyStart_tidy (hs : s.Tidy q) {n time} : (s.applyStart n time).Tidy q := ite_tidy hs (startCycle_tidy hs)

theorem execStartEntry_tidy (hs : s.Tidy q) {n time} : OutTidy q (execStartEntry n time s) :=
  next_tidy (entry_tidy hs (fun _ h1 => applyStart_tidy h1))

theorem applySample_tidy (hs : s.Tidy q) {n vals} : (s.applySample n vals).Tidy q :=
  ite_tidy (slotCmdNow_tidy hs) (sampleWith_tidy (slotCmdNow_tidy hs))

theorem execLsample_tidy (hs : s.Tidy q) {n vals} : OutTidy q (execLsample n vals s) :=
  next_tidy (entry_tidy hs (fun _ h1 => applySample_tidy h1))

theorem takeLag_tidy (hs : s.Tidy q) : s.takeLag.Tidy q := ite_tidy hs ((wr_tidy (wr_tidy hs)).frame)

theorem applyPass_tidy (hs : s.Tidy q) {time switch hash} : (s.applyPass time switch hash).Tidy q :=
  ite_tidy (leaveStep_tidy hs) (recordDigest_tidy (takeLag_tidy (guardPassAt_tidy hs)))

theorem execGpass_tidy (hs : s.Tidy q) {time switch hash} : OutTidy q (execGpass time switch hash s) :=
  next_tidy (entry_tidy hs (fun _ h1 => applyPass_tidy h1))

theorem applyForce_tidy (hs : s.Tidy q) {sig value qual st} : (s.applyForce sig value qual st).Tidy q := by
  unfold State.applyForce
  split
  · exact hs
  · exact putForce_tidy hs

theorem execForceEntry_tidy (hs : s.Tidy q) {sig value qual st} : OutTidy q (execForceEntry sig value qual st s) :=
  next_tidy (entry_tidy hs (fun _ h1 => applyForce_tidy h1))

theorem applySolver_tidy (hs : s.Tidy q) {t status half data} : (s.applySolver t status half data).Tidy q := hs.frame

theorem execSolverEntry_tidy (hs : s.Tidy q) {t status half data} : OutTidy q (execSolverEntry t status half data s) :=
  next_tidy (entry_tidy hs (fun _ h1 => applySolver_tidy h1))

theorem taskCmdHere_tidy (hs : s.Tidy q) {v} : (s.taskCmdHere v).Tidy q :=
  ite_tidy (doStart_tidy hs) (ite_tidy (doStop_tidy hs) (ite_tidy (doRestart_tidy hs) (ite_tidy (doRestartCold_tidy hs) (ite_tidy
      (wr_tidy hs) hs))))

theorem applyCmd_tidy (hs : s.Tidy q) {reg v} : (s.applyCmd reg v).Tidy q :=
  ite_tidy hs.frame (ite_tidy (taskCmdHere_tidy hs) (ite_tidy (ite_tidy (warmStartCmd_tidy hs) (coldStartCmd_tidy hs)) (ite_tidy
      (slotCommandHere_tidy hs) (ite_tidy (wrB_tidy hs) hs))))

theorem execCmdEntry_tidy (hs : s.Tidy q) {reg v} : OutTidy q (execCmdEntry reg v s) :=
  next_tidy (entry_tidy hs (fun _ h1 => applyCmd_tidy h1))

theorem applyChange_tidy (hs : s.Tidy q) {hash} : (s.applyChange hash).Tidy q := by
  unfold State.applyChange
  split
  · exact leaveStep_tidy hs
  · exact ite_tidy (leaveStep_tidy hs) (beginMigration_tidy (commitStage_tidy hs))

theorem execChangeEntry_tidy (hs : s.Tidy q) {hash} : OutTidy q (execChangeEntry hash s) :=
  next_tidy (entry_tidy hs (fun _ h1 => applyChange_tidy h1))

theorem applyEntry_tidy (hs : s.Tidy q) {a} : (s.applyEntry a).Tidy q := by
  unfold State.applyEntry
  split
  · exact applyInstant_tidy hs
  · exact putLive_tidy hs
  · exact applyStart_tidy hs
  · exact applySample_tidy hs
  · exact applyPass_tidy hs
  · exact applyForce_tidy hs
  · exact applySolver_tidy hs
  · exact applyCmd_tidy hs
  · exact applyChange_tidy hs

theorem replayNext_tidy (hs : s.Tidy q) : s.replayNext.Tidy q := by
  unfold State.replayNext
  refine tdmEvent_tidy hs (fun s1 hs1 => ?_)
  split
  · exact hs1
  · split
    · exact hs1
    · exact ite_tidy (applyEntry_tidy hs1.frame) hs1

theorem noteCond_tidy (hs : s.Tidy q) : s.noteCond.Tidy q := hs.frame

theorem execDigest_tidy (hs : s.Tidy q) {pass d} : OutTidy q (execDigest pass d s) := by
  unfold execDigest
  refine next_tidy (tdmEvent_tidy hs fun s1 hs1 => ?_)
  split
  · exact hs1
  · exact ite_tidy (incSat_tidy hs1) (noteCond_tidy ((event_tidy (raise_tidy (incSat_tidy hs1))).frame))

theorem execTdmFrameResend_tidy (hs : s.Tidy q) {seq} : OutTidy q (execTdmFrameResend seq s) := by
  unfold execTdmFrameResend
  refine next_tidy (tdmEvent_tidy hs fun s1 hs1 => ?_)
  split
  · split
    · exact hs1.frame
    · exact hs1
  · exact ite_tidy (sendTdm_tidy hs1.frame) hs1

theorem execStepLag_tidy (hs : s.Tidy q) : OutTidy q (execStepLag s) :=
  next_tidy (tdmEvent_tidy hs (fun _ h1 => ite_tidy h1 (ite_tidy (leaveStep_tidy h1) (ite_tidy (leaveStep_tidy h1) h1))))

theorem execLaneTDown_tidy (hs : s.Tidy q) : OutTidy q (execLaneTDown s) :=
  next_tidy (tdmEvent_tidy hs (fun _ h1 => ite_tidy (leaveStep_tidy h1) h1))

/-! ### Machine/Tandem: Arbitration (R369, R370, R380 to R383) -/

theorem setGrant_tidy (hs : s.Tidy q) {g} : (s.setGrant g).Tidy q := ite_tidy hs (raise_tidy (wr_tidy hs))

theorem markEdge_tidy (hs : s.Tidy q) {line} : (s.markEdge line).Tidy q := hs.frame

theorem setPcode_tidy (hs : s.Tidy q) {c} : (s.setPcode c).Tidy q := noteCond_tidy ((wr_tidy hs).frame)

theorem execArbCode_tidy (hs : s.Tidy q) {line high} : OutTidy q (execArbCode line high s) := by
  unfold execArbCode
  refine next_tidy (whileLive_tidy hs fun s1 hs1 => ?_)
  split
  · split
    · exact wr_tidy (markEdge_tidy hs1)
    · exact markEdge_tidy hs1
  · split
    · exact hs1
    · split
      · split
        · exact (setGrant_tidy (markEdge_tidy hs1)).frame
        · exact markEdge_tidy hs1
      · split
        · exact setPcode_tidy (markEdge_tidy hs1)
        · exact markEdge_tidy hs1

theorem execArbDead_tidy (hs : s.Tidy q) {line} : OutTidy q (execArbDead line s) :=
  next_tidy (whileLive_tidy hs (fun _ h1 => ite_tidy h1 (ite_tidy (wr_tidy h1) (ite_tidy h1 (ite_tidy ((setGrant_tidy h1).frame)
      (noteCond_tidy ((wr_tidy h1).frame)))))))

theorem execWitnessDecision_tidy (hs : s.Tidy q) : OutTidy q (execWitnessDecision s) :=
  next_tidy (whileLive_tidy hs (fun _ h1 => ite_tidy h1 (ite_tidy h1 (incSat_tidy (wr_tidy h1)))))

theorem execGrantToPartner_tidy (hs : s.Tidy q) : OutTidy q (execGrantToPartner s) :=
  next_tidy (tdmEvent_tidy hs (fun _ h1 => ite_tidy h1 ((ite_tidy (roleOut_tidy h1) (ite_tidy (raise_tidy h1) (ite_tidy (leaveStep_tidy
      h1) h1))).frame)))

theorem takeOver_tidy (hs : s.Tidy q) : s.takeOver.Tidy q :=
  ite_tidy ((incSat_tidy (raiseEv_tidy (drive_tidy (wr_tidy (wr_tidy hs))))).frame) (wr_tidy (((incSat_tidy (raiseEv_tidy (drive_tidy
      (wr_tidy (wr_tidy hs))))).frame).frame))

theorem execTakeover_tidy (hs : s.Tidy q) : OutTidy q (execTakeover s) :=
  next_tidy (tdmEvent_tidy hs (fun _ h1 => ite_tidy (takeOver_tidy h1) h1))

theorem execSoloTimeout_tidy (hs : s.Tidy q) : OutTidy q (execSoloTimeout s) :=
  next_tidy (tdmEvent_tidy hs (fun _ h1 => ite_tidy (takeOver_tidy h1) h1))

/-! ### Machine/Tandem: Self-tests and health reports (R385, R386) -/

theorem execGolden_tidy (hs : s.Tidy q) {result} : OutTidy q (execGolden result s) := by
  unfold execGolden
  refine next_tidy (tdmEvent_tidy hs fun s1 hs1 => ?_)
  split
  · exact hs1
  · extract_lets src s2 src1
    have hs2 : s2.Tidy q := hs1.frame
    split
    · exact hs2
    · exact ite_tidy hs2.frame (selfTestFail_tidy hs2.frame)

theorem execLinkTest_tidy (hs : s.Tidy q) {errs} : OutTidy q (execLinkTest errs s) :=
  next_tidy (tdmEvent_tidy hs (fun _ h1 => ite_tidy h1.frame (selfTestFail_tidy h1.frame)))

theorem putReport_tidy (hs : s.Tidy q) {o bs} : (s.putReport o bs).Tidy q := by
  unfold State.putReport
  split
  · rename_i x s2 e
    exact fst_tidy e (dmaWrite_tidy hs)
  · rename_i x s2 e
    exact err_tidy (fst_tidy e (dmaWrite_tidy hs))

theorem execHealthReport_tidy (hs : s.Tidy q) : OutTidy q (execHealthReport s) := by
  unfold execHealthReport
  refine next_tidy (tdmEvent_tidy hs fun s1 hs1 => ?_)
  split
  · exact hs1
  · extract_lets s11 src
    have hs11 : s11.Tidy q := sendTdm_tidy (putReport_tidy hs1)
    clear_value s11 src
    exact hs11.frame

theorem execHealthReportRx_tidy (hs : s.Tidy q) {report} : OutTidy q (execHealthReportRx report s) :=
  next_tidy (tdmEvent_tidy hs (fun _ h1 => putReport_tidy h1))

/-! ### Machine/Pwr: The power state (R460, R478, R479) -/

theorem setCur_tidy (hs : s.Tidy q) {v} : (s.setCur v).Tidy q := wr_tidy (wr_tidy hs)

theorem account_tidy (hs : s.Tidy q) : s.account.Tidy q := hs.frame

theorem entryEnd_tidy (hs : s.Tidy q) {last} : (s.entryEnd last).Tidy q := raise_tidy (wr_tidy hs)

/-! ### Machine/Pwr: What a loss of power and a device reset leave (R470, R471, R519) -/

theorem sumPanel_tidy (hs : s.Tidy q) : s.sumPanel.Tidy q := ite_tidy hs (regPut_tidy hs)

theorem bare_tidy (hs : s.Tidy q) : s.bare.Tidy q := by
  unfold State.bare
  extract_lets src s1
  have hs1 : s1.Tidy q := ⟨hs.1, sparse_wfFrom_filter regReset _ s.regs 0 hs.2.1, fun _ => rfl⟩
  exact sumPanel_tidy (wr_tidy (wrB_tidy (wrB_tidy (wrB_tidy hs1))))

theorem deviceReset_tidy (hs : s.Tidy q) {cause} : (s.deviceReset cause).Tidy q := by
  unfold State.deviceReset
  extract_lets s1 src
  have hs1 : s1.Tidy q := setCur_tidy (loseMem_tidy (bare_tidy (account_tidy (acceptThose_tidy hs))))
  clear_value s1 src
  exact wr_tidy hs1.frame

theorem losePower_tidy (hs : s.Tidy q) {keepDram} : (s.losePower keepDram).Tidy q := by
  unfold State.losePower
  extract_lets s1 src s2
  have hs1 : s1.Tidy q := loseMem_tidy (bare_tidy (acceptAll_tidy hs))
  have hs2 : s2.Tidy q := ite_tidy hs1.frame hs1
  exact hs2.frame

theorem loseRetention_tidy (hs : s.Tidy q) {lost} : (s.loseRetention lost).Tidy q := by
  unfold State.loseRetention
  extract_lets s1 ev cad src src1 src2
  have hs1 : s1.Tidy q := loseMem_tidy hs
  exact hs1.frame

theorem loseAllRetention_tidy (hs : s.Tidy q) : s.loseAllRetention.Tidy q := loseRetention_tidy hs

/-! ### Machine/Pwr: NAP (R460, R462) -/

theorem abortJobs_tidy (hs : s.Tidy q) : s.abortJobs.Tidy q := by
  unfold State.abortJobs
  extract_lets s0
  have hs0 : s0.Tidy q := by
    unfold s0
    split
    · exact endStalled_tidy hs
    · exact hs
  refine foldl_tidy hs0 (fun s1 hs1 j => ?_)
  extract_lets s11
  have hs11 : s11.Tidy q := endJob_tidy hs1
  split
  · exact hs11
  · exact finishJob_tidy (unstall_tidy hs11)

theorem endJobs_tidy (hs : s.Tidy q) : s.endJobs.Tidy q := ite_tidy hs (abortJobs_tidy hs)

theorem leaveNap_tidy (hs : s.Tidy q) {wake} : (s.leaveNap wake).Tidy q :=
  ite_tidy (raise_tidy (wr_tidy (setCur_tidy (ite_tidy (wrB_tidy ((domOn_tidy (domOn_tidy (account_tidy hs))).frame)) ((domOn_tidy
      (domOn_tidy (account_tidy hs))).frame))))) (wr_tidy (setCur_tidy (ite_tidy (wrB_tidy ((domOn_tidy (domOn_tidy (account_tidy
          hs))).frame)) ((domOn_tidy (domOn_tidy (account_tidy hs))).frame))))

theorem enterNap_tidy (hs : s.Tidy q) : s.enterNap.Tidy q := by
  unfold State.enterNap
  split
  · exact entryEnd_tidy hs
  · extract_lets s1 s2 src
    have hs1 : s1.Tidy q := entryEnd_tidy (setCur_tidy (account_tidy hs))
    have hs2 : s2.Tidy q := ite_tidy (slvOff_tidy (abortJobs_tidy hs1)) hs1
    exact ite_tidy hs2 (ite_tidy (pnlOff_tidy hs2) (pnlPowerOff_tidy hs2.frame))

/-! ### Machine/Pwr: Entry (R461, R463 to R466) -/

theorem enterDeep_tidy (hs : s.Tidy q) {tgt} : (s.enterDeep tgt).Tidy q :=
  ite_tidy (entryEnd_tidy hs) (evrPf_tidy (ite_tidy (endJobs_tidy (setCur_tidy ((account_tidy hs).frame))) (pnlPowerOff_tidy
      (endJobs_tidy (setCur_tidy ((account_tidy hs).frame))))))

theorem enterOff_tidy (hs : s.Tidy q) : s.enterOff.Tidy q :=
  (ite_tidy (losePower_tidy (account_tidy (endJobs_tidy hs))) (loseAllRetention_tidy (losePower_tidy (account_tidy (endJobs_tidy
      hs))))).frame

theorem sleepCmd_tidy (hs : s.Tidy q) {m tgt} : (s.sleepCmd m tgt).Tidy q :=
  gate_tidy hs (fun _ h1 => ite_tidy (err_tidy (entryEnd_tidy (wr_tidy h1))) (ite_tidy (leaveNap_tidy h1) (ite_tidy (enterNap_tidy h1)
      (ite_tidy (enterOff_tidy h1) (enterDeep_tidy h1)))))

theorem abortEntry_tidy (hs : s.Tidy q) {last} : (s.abortEntry last).Tidy q := by
  unfold State.abortEntry
  extract_lets src src1 src2 s1 s2 resumed src3 s11
  have hs1 : s1.Tidy q := hs.frame
  have hs2 : s2.Tidy q := ite_tidy (mtrStart_tidy hs1) hs1
  have hresumed : resumed.Tidy q := ite_tidy (ite_tidy (fioStart_tidy hs2) hs2) hs
  have hs11 : s11.Tidy q := entryEnd_tidy (setCur_tidy (account_tidy hresumed.frame))
  exact ite_tidy (leaveNap_tidy hs11) hs11

theorem quiesceBlks_tidy (hs : s.Tidy q) : s.quiesceBlks.Tidy q := by
  unfold State.quiesceBlks
  extract_lets s1 s2 s3 src s4
  have hs1 : s1.Tidy q := ite_tidy (writeTotals_tidy (mtrStop_tidy hs)) hs
  have hs2 : s2.Tidy q := ite_tidy (fioStop_tidy hs1) hs1
  have hs3 : s3.Tidy q := foldl_tidy hs2 fun _ h1 _ => ite_tidy (canStop_tidy h1) h1
  clear_value s3
  have hs4 : s4.Tidy q := hs3.frame
  exact ite_tidy (showUpd_tidy hs4.frame) hs4

theorem saveAll_tidy (hs : s.Tidy q) : s.saveAll.Tidy q := (foldl_tidy hs fun _ h1 _ => putSave_tidy h1).frame

theorem execQuiesceEnd_tidy (hs : s.Tidy q) : OutTidy q (execQuiesceEnd s) :=
  next_tidy (ite_tidy hs ((saveAll_tidy (quiesceBlks_tidy (endJobs_tidy hs))).frame))

theorem execIdleTimeout_tidy (hs : s.Tidy q) : OutTidy q (execIdleTimeout s) := next_tidy (ite_tidy (abortEntry_tidy hs) hs)

theorem execCommitPoint_tidy (hs : s.Tidy q) : OutTidy q (execCommitPoint s) :=
  next_tidy (ite_tidy hs (setCur_tidy ((losePower_tidy (account_tidy (endJobs_tidy hs))).frame)))

/-! ### Machine/Pwr: Wake sources (R366, R466 to R468) -/

theorem wake_tidy (hs : s.Tidy q) {n} : (s.wake n).Tidy q := by
  unfold State.wake
  split
  · exact hs
  · extract_lets s1 src
    have hs1 : s1.Tidy q := wrB_tidy hs
    split
    · exact ite_tidy (leaveNap_tidy hs1) hs1
    · exact abortEntry_tidy hs1
    · exact abortEntry_tidy hs1
    · exact ite_tidy (setCur_tidy hs1.frame) hs1
    · exact hs1

theorem execPatternA_tidy (hs : s.Tidy q) {f} : OutTidy q (execPatternA f s) := next_tidy (ite_tidy (wake_tidy hs) hs)

theorem execWakeDi_tidy (hs : s.Tidy q) {n rise} : OutTidy q (execWakeDi n rise s) := next_tidy (ite_tidy (wake_tidy hs) hs)

theorem execWakeTc_tidy (hs : s.Tidy q) {n rise} : OutTidy q (execWakeTc n rise s) := next_tidy (ite_tidy (wake_tidy hs) hs)

theorem execCanWakeStart_tidy (hs : s.Tidy q) : OutTidy q (execCanWakeStart s) := next_tidy (ite_tidy hs.frame hs)

theorem execCanWakeFrame_tidy (hs : s.Tidy q) {f} : OutTidy q (execCanWakeFrame f s) := by
  unfold execCanWakeFrame
  refine next_tidy ?_
  split
  · exact hs
  · extract_lets n s1 s11
    have hs1 : s1.Tidy q := wr_tidy hs
    have hs11 : s11.Tidy q := wr_tidy hs
    split
    · exact ite_tidy (wake_tidy (wrB_tidy (wrB_tidy hs1))) hs1
    · exact ite_tidy hs (ite_tidy (wake_tidy (wrB_tidy (wrB_tidy hs11))) hs11)

theorem execCanWakeIdle_tidy (hs : s.Tidy q) : OutTidy q (execCanWakeIdle s) := next_tidy hs.frame

/-! ### Machine/Pwr: Exit (R471 to R478) -/

theorem freewheel_tidy (hs : s.Tidy q) {latch ticks k} : (s.freewheel latch ticks k).Tidy q :=
  ite_tidy (event_tidy (raise_tidy (incSat_tidy (wrB_tidy (wr_tidy hs.frame.frame))))) (wrB_tidy (wr_tidy hs.frame.frame))

theorem badRecord_tidy (hs : s.Tidy q) {b} : (s.badRecord b).Tidy q := event_tidy (err_tidy hs)

theorem restoreAll_tidy (hs : s.Tidy q) {en bad} : (s.restoreAll en bad).Tidy q := by
  unfold State.restoreAll
  extract_lets bs failed s1 src s2 src1
  have hs1 : s1.Tidy q := foldl_tidy hs fun _ h1 _ => ite_tidy (badRecord_tidy h1) (foldl_tidy h1 fun _ h2 _ => restoreRec_tidy
      h2)
  have hs2 : s2.Tidy q := ite_tidy hs1 hs1.frame
  exact ite_tidy hs2 hs2.frame

theorem resumeBlks_tidy (hs : s.Tidy q) {entropy} : (s.resumeBlks entropy).Tidy q := by
  unfold State.resumeBlks
  extract_lets s0 src s1 s2 s4 s5 s6 s7 s8 s9 src2 s10
  have hs0 : s0.Tidy q := kstStart_tidy hs
  have hs1 : s1.Tidy q := mtrRestore_tidy (evalTb3_tidy (followTb0_tidy hs0.frame))
  clear_value s1
  have hs2 : s2.Tidy q := foldl_tidy hs1 fun _ h1 _ => ite_tidy (wr_tidy h1).frame (wr_tidy h1).frame
  have hs4 : s4.Tidy q := ite_tidy (mtrStart_tidy hs2) hs2
  have hs5 : s5.Tidy q := ite_tidy (fioStart_tidy hs4) hs4
  have hs6 : s6.Tidy q := foldl_tidy hs5 fun _ h1 _ => ite_tidy (ite_tidy (canEnable_tidy h1).tidy (wr_tidy (canEnable_tidy h1).tidy)) h1
  have hs7 : s7.Tidy q := ite_tidy (spkStart_tidy hs6) hs6
  have hs8 : s8.Tidy q := ite_tidy (evrEnable_tidy hs7) hs7
  have hs9 : s9.Tidy q := ite_tidy (pfmStart_tidy hs8) hs8
  clear_value s9
  exact ite_tidy (loadUnif_tidy (wrB_tidy (setPnlState_tidy hs9.frame))) (ite_tidy (wrB_tidy hs9) hs9)

theorem execExitRelease_tidy (hs : s.Tidy q) {ticks entropy bad} : OutTidy q (execExitRelease ticks entropy bad s) := by
  unfold execExitRelease
  refine next_tidy ?_
  split
  · exact hs
  · extract_lets tgt src s0 s1 s2 s3 src1 s31 src2 s32 src3
    have hs0 : s0.Tidy q := hs.frame
    have hs1 : s1.Tidy q := freewheel_tidy hs0
    have hs2 : s2.Tidy q := raise_tidy (entryEnd_tidy (setCur_tidy (wr_tidy hs1)))
    have hs3 : s3.Tidy q := resumeBlks_tidy (restoreAll_tidy hs2)
    have hs31 : s31.Tidy q := restoreAll_tidy hs2
    have hs32 : s32.Tidy q := hs31.frame
    clear_value tgt src s0 s1 s2 s3 src1 s31 src2 s32 src3
    exact ite_tidy hs3.frame (wr_tidy hs32.frame)

theorem execResumeCheck_tidy (hs : s.Tidy q) {others} : OutTidy q (execResumeCheck others s) :=
  next_tidy (ite_tidy hs (ite_tidy ((foldl_tidy hs fun _ h1 _ => regPut_tidy h1).frame) (event_tidy (deviceReset_tidy hs))))

/-! ### Machine/Feed: Feeds (R387) -/

theorem measureFeed_tidy (hs : s.Tidy q) {f mv ma} : (s.measureFeed f mv ma).Tidy q := wr_tidy (wr_tidy hs)

theorem markFeed_tidy (hs : s.Tidy q) {f} : (s.markFeed f).Tidy q := hs.frame

theorem markOc_tidy (hs : s.Tidy q) {f} : (s.markOc f).Tidy q := hs.frame

theorem execFeedOvercurrent_tidy (hs : s.Tidy q) {f mv ma} : OutTidy q (execFeedOvercurrent f mv ma s) :=
  next_tidy (ite_tidy (measureFeed_tidy hs) (raiseEv_tidy (markOc_tidy (wr_tidy (measureFeed_tidy hs)))))

theorem execFeedOvercurrentEnd_tidy (hs : s.Tidy q) {f mv ma} : OutTidy q (execFeedOvercurrentEnd f mv ma s) :=
  next_tidy (ite_tidy (raiseEv_tidy (markOc_tidy (wr_tidy (measureFeed_tidy hs)))) (measureFeed_tidy hs))

/-! ### Machine/Feed: PFW (R388, R475, R528, R530) -/

theorem sleepPowerLost_tidy (hs : s.Tidy q) : s.sleepPowerLost.Tidy q :=
  ite_tidy ((loseMem_tidy hs).frame) (loseAllRetention_tidy ((loseMem_tidy hs).frame))

theorem tandemPf_tidy (hs : s.Tidy q) : s.tandemPf.Tidy q := ite_tidy hs (ite_tidy (declareFault_tidy hs) (ite_tidy (leaveStep_tidy hs) hs))

theorem retainedPf_tidy (hs : s.Tidy q) : s.retainedPf.Tidy q :=
  ite_tidy (ite_tidy (wr_tidy hs.frame) (wr_tidy ((wr_tidy hs.frame).frame))) hs

theorem timeline_tidy (hs : s.Tidy q) : s.timeline.Tidy q := by
  unfold State.timeline
  extract_lets s1 s2 src s3 src1 s4
  have hs1 : s1.Tidy q := raise_tidy hs
  have hs2 : s2.Tidy q := acceptAll_tidy (send_tidy (acceptAll_tidy hs1))
  have hs3 : s3.Tidy q := regPut_tidy hs2.frame
  exact retainedPf_tidy (evrPf_tidy (mtrFreeze_tidy (pnlPowerOff_tidy (tandemPf_tidy (hs3.frame)))))

theorem pfwAssert_tidy (hs : s.Tidy q) : s.pfwAssert.Tidy q := by
  unfold State.pfwAssert
  extract_lets s1
  have hs1 : s1.Tidy q := hs.frame
  split
  · exact hs1
  · split
    · exact sleepPowerLost_tidy hs1
    · exact sleepPowerLost_tidy hs1
    · exact timeline_tidy (abortEntry_tidy (wrB_tidy hs1))
    · exact timeline_tidy (abortEntry_tidy (wrB_tidy hs1))
    · exact timeline_tidy (wrB_tidy hs1)

theorem execFeedLost_tidy (hs : s.Tidy q) {f mv ma} : OutTidy q (execFeedLost f mv ma s) := by
  unfold execFeedLost
  refine next_tidy ?_
  extract_lets s1 src src1 s2
  have hs1 : s1.Tidy q := measureFeed_tidy hs
  have hsrc : src.Tidy q := markFeed_tidy hs1
  have hs2 : s2.Tidy q := raiseEv_tidy (incSat_tidy (wr_tidy hsrc.frame))
  clear_value s1 src src1 s2
  exact ite_tidy hs1 (ite_tidy (pfwAssert_tidy hs2) hs2)

/-! ### Machine/Feed: The end of the timeline (R530 to R533) -/

theorem endHoldup_tidy (hs : s.Tidy q) {cut} : (s.endHoldup cut).Tidy q :=
  ite_tidy ((losePower_tidy (account_tidy (wr_tidy (wrB_tidy (wrB_tidy (wrB_tidy (wrB_tidy hs))))))).frame) (loseAllRetention_tidy
      ((losePower_tidy (account_tidy (wr_tidy (wrB_tidy (wrB_tidy (wrB_tidy (wrB_tidy hs))))))).frame))

theorem pfRecover_tidy (hs : s.Tidy q) : s.pfRecover.Tidy q := (raise_tidy (wr_tidy hs)).frame

theorem execHoldupEnd_tidy (hs : s.Tidy q) : OutTidy q (execHoldupEnd s) :=
  next_tidy (ite_tidy hs (ite_tidy (endHoldup_tidy hs) (pfRecover_tidy hs)))

theorem execVholdCut_tidy (hs : s.Tidy q) : OutTidy q (execVholdCut s) := next_tidy (ite_tidy (endHoldup_tidy hs) hs)

theorem pfwDeassert_tidy (hs : s.Tidy q) : s.pfwDeassert.Tidy q :=
  ite_tidy hs.frame (ite_tidy (deviceReset_tidy hs.frame) (ite_tidy (pfRecover_tidy (mtrPfDone_tidy (raise_tidy (wrB_tidy hs.frame))))
      (mtrPfDone_tidy (raise_tidy (wrB_tidy hs.frame)))))

theorem execFeedOk_tidy (hs : s.Tidy q) {f mv ma} : OutTidy q (execFeedOk f mv ma s) := by
  unfold execFeedOk
  refine next_tidy ?_
  extract_lets s1 src src1 s2
  have hs1 : s1.Tidy q := measureFeed_tidy hs
  have hsrc : src.Tidy q := markFeed_tidy hs1
  have hs2 : s2.Tidy q := raiseEv_tidy (wr_tidy hsrc.frame)
  clear_value s1 src src1 s2
  exact ite_tidy hs1 (ite_tidy (pfwDeassert_tidy hs2) hs2)

/-! ### Machine/Feed: The retained set (R529) -/

theorem execPfRetSaveStart_tidy (hs : s.Tidy q) : OutTidy q (execPfRetSaveStart s) := by
  unfold execPfRetSaveStart
  refine next_tidy ?_
  split
  · exact hs
  · extract_lets idle s1 s2 src
    have hs1 : s1.Tidy q := by
      unfold s1
      refine foldl_tidy hs (fun s11 hs11 c => ?_)
      split
      · split
        rename_i x v s12 e
        exact abortCtx_tidy (snd_tidy e (draw_tidy hs11))
      · exact hs11
    have hs2 : s2.Tidy q := wr_tidy (commitRetBase_tidy hs1)
    clear_value idle s1 s2 src
    exact ite_tidy hs hs2.frame

theorem putRetPages_tidy (hs : s.Tidy q) {b} : (s.putRetPages b).Tidy q := (useReserve_tidy hs).frame

theorem execRetSetCommit_tidy (hs : s.Tidy q) : OutTidy q (execRetSetCommit s) := by
  unfold execRetSetCommit
  refine next_tidy ?_
  split
  · exact hs
  · extract_lets src s0
    have hs0 : s0.Tidy q := hs.frame
    split
    · exact hs0
    · split
      · rename_i x s1 e
        exact fst_tidy e (dmaRead_tidy hs0)
      · rename_i x s1 bs e
        have hs1 : s1.Tidy q := fst_tidy e (dmaRead_tidy hs0)
        extract_lets size
        split
        · exact wr_tidy hs1
        · split
          · rename_i x1 s11 e1
            exact fst_tidy e1 (dmaRead_tidy hs1)
          · rename_i x1 s11 bs1 e1
            exact wr_tidy (putRetPages_tidy (fst_tidy e1 (dmaRead_tidy hs1)))

/-! ### Machine/Idle -/

theorem tbCycle_tidy (hs : s.Tidy q) : s.tbCycle.Tidy q :=
  ite_tidy (ite_tidy hs.frame.frame (followTb0_tidy hs.frame)) (markTb_tidy (ite_tidy hs.frame.frame (followTb0_tidy hs.frame)))

theorem idle_tidy (hs : s.Tidy q) : s.idle.Tidy q :=
  ite_tidy hs.frame (replayNext_tidy (ite_tidy (tbCycle_tidy hs.frame) (fioSample_tidy (tbCycle_tidy hs.frame))))

/-! ### Machine/Int: Targets (R61 to R66) -/

theorem execClaim_tidy (hs : s.Tidy q) {m t} : OutTidy q (execClaim m t s) := by
  unfold execClaim
  refine next_tidy (gateRead_tidy hs fun s1 hs1 => ?_)
  split
  · exact reply_tidy hs1
  · split
    · exact reply_tidy hs1
    · exact reply_tidy hs1.frame

theorem execComplete_tidy (hs : s.Tidy q) {m t src} : OutTidy q (execComplete m t src s) :=
  next_tidy (gate_tidy hs (fun _ h1 => ite_tidy h1.frame (err_tidy h1)))

theorem execDbSet_tidy (hs : s.Tidy q) {m v} : OutTidy q (execDbSet m v s) := next_tidy (gate_tidy hs (fun _ h1 => h1.frame))

theorem execDbClr_tidy (hs : s.Tidy q) {m v} : OutTidy q (execDbClr m v s) := next_tidy (gate_tidy hs (fun _ h1 => h1.frame))

theorem writeSrcCfg_tidy (hs : s.Tidy q) {m n v} : (s.writeSrcCfg m n v).Tidy q :=
  ite_tidy (replyErr_tidy hs) (ite_tidy (reply_tidy (err_tidy hs)) (reply_tidy ((writeFields_tidy hs).tidy)))

theorem execIntSrcCfg_tidy (hs : s.Tidy q) {m n v} : OutTidy q (execIntSrcCfg m n v s) := next_tidy (writeSrcCfg_tidy hs)

/-! ### Machine/Rtc -/

theorem setCal_tidy (hs : s.Tidy q) {c} : (s.setCal c).Tidy q :=
  wr_tidy (wr_tidy (wr_tidy (wr_tidy (wr_tidy (wr_tidy (wr_tidy (wr_tidy hs)))))))

/-! ### Machine/Rtc: Validity (R332, R481) -/

theorem timeInv_tidy (hs : s.Tidy q) : s.timeInv.Tidy q := ite_tidy (evalTb3_tidy (raise_tidy (wrB_tidy hs))) (raise_tidy (wrB_tidy hs))

theorem timeSet_tidy (hs : s.Tidy q) : s.timeSet.Tidy q := ite_tidy (evalTb3_tidy (wrB_tidy (wrB_tidy hs))) (wrB_tidy (wrB_tidy hs))

theorem setHalt_tidy (hs : s.Tidy q) {v} : (s.setHalt v).Tidy q := wrB_tidy (wrB_tidy hs)

theorem execOscStop_tidy (hs : s.Tidy q) : OutTidy q (execOscStop s) := next_tidy (ite_tidy hs (timeInv_tidy (wrB_tidy hs.frame)))

theorem execBrownOut_tidy (hs : s.Tidy q) {lost} : OutTidy q (execBrownOut lost s) := by
  unfold execBrownOut
  refine next_tidy ?_
  extract_lets src src1 s1
  have hs1 : s1.Tidy q := timeInv_tidy hs.frame
  split
  · split
    rename_i x v s11 e
    exact loseRetention_tidy (snd_tidy e (draw_tidy hs1))
  · exact hs1

/-! ### Machine/Rtc: Alarm (R487, R488) -/

theorem fireAlarm_tidy (hs : s.Tidy q) {skip} : (s.fireAlarm skip).Tidy q :=
  wake_tidy (ite_tidy (wr_tidy (raise_tidy (wr_tidy hs))) (raise_tidy (wr_tidy hs)))

theorem adjustRtc_tidy (hs : s.Tidy q) {old} : (s.adjustRtc old).Tidy q := by
  unfold State.adjustRtc
  extract_lets new before s1 src s11 src1 src2 s2 held lo src3
  have hs1 : s1.Tidy q := ite_tidy (markTb_tidy hs) hs
  have hs11 : s11.Tidy q := ite_tidy (tb3Step_tidy hs1.frame) hs1
  have hsrc1 : src1.Tidy q := timeSet_tidy hs11
  have hs2 : s2.Tidy q := hsrc1.frame
  exact ite_tidy (ite_tidy (fireAlarm_tidy hs2) hs2) (ite_tidy hs2.frame hs2)

/-! ### Machine/Rtc: Counting (R331, R480, R481) -/

theorem execRtcSecond_tidy (hs : s.Tidy q) : OutTidy q (execRtcSecond s) := by
  unfold execRtcSecond
  refine next_tidy ?_
  split
  · exact hs
  · split
    extract_lets s1 src src1 s11 s2 target src2 s3 free src3 s4
    have hs1 : s1.Tidy q := ite_tidy (markTb_tidy hs) hs
    have hsrc : src.Tidy q := setCal_tidy hs1
    have hs11 : s11.Tidy q := hsrc.frame
    have hs2 : s2.Tidy q := ite_tidy (timeInv_tidy hs11) hs11
    have hs3 : s3.Tidy q := ite_tidy hs2 (ite_tidy hs2.frame hs2.frame)
    have hs4 : s4.Tidy q := ite_tidy hs3.frame hs3
    exact ite_tidy (fireAlarm_tidy hs4) hs4

/-! ### Machine/Rtc: Setting (R482 to R485) -/

theorem execHalt_tidy (hs : s.Tidy q) {m sub} : OutTidy q (execHalt m sub s) := by
  unfold execHalt
  refine next_tidy (gate_tidy hs fun s1 hs1 => ?_)
  split
  · exact hs1
  · extract_lets src src1
    have hsrc : src.Tidy q := wr_tidy (setHalt_tidy hs1)
    clear_value src src1
    exact hsrc.frame

theorem execHaltRelease_tidy (hs : s.Tidy q) {m} : OutTidy q (execHaltRelease m s) :=
  next_tidy (gate_tidy hs (fun _ h1 => ite_tidy h1 (ite_tidy (err_tidy h1) (adjustRtc_tidy (wr_tidy (setHalt_tidy h1))))))

theorem execRtcSecWrite_tidy (hs : s.Tidy q) {m v sub} : OutTidy q (execRtcSecWrite m v sub s) :=
  next_tidy (gate_tidy hs (fun _ h1 => ite_tidy (err_tidy h1) (ite_tidy (err_tidy h1) (ite_tidy (wr_tidy h1) (adjustRtc_tidy (wr_tidy
      (wr_tidy h1)))))))

theorem calWrite_tidy (hs : s.Tidy q) {m a v} : (s.calWrite m a v).Tidy q := by
  refine gate_tidy hs fun s hs => ite_tidy (err_tidy hs) (ite_tidy (err_tidy hs) ?_)
  extract_lets put r
  have hput {x f ok} (hx : FstTidy q x) : FstTidy q (put x f ok) := ite_fst_tidy (fst_mk (wr_tidy hx.tidy)) (fst_mk hx.tidy)
  clear_value put
  have h0 : FstTidy q (s, false) := fst_mk hs
  have h3 {f g h a b c} : FstTidy q (put (put (put (s, false) f a) g b) h c) := hput (hput (hput h0))
  have hr : FstTidy q r := ite_fst_tidy (ite_fst_tidy h3 (fst_mk h3.tidy)) (ite_fst_tidy h3 (hput h0))
  exact ite_tidy (err_tidy hr.tidy) hr.tidy

/-! ### Machine/Rtc: Reading (R486) -/

theorem execRtcSecRead_tidy (hs : s.Tidy q) {m sub} : OutTidy q (execRtcSecRead m sub s) := by
  unfold execRtcSecRead
  refine next_tidy (gateRead_tidy hs fun s1 hs1 => ?_)
  extract_lets r x src
  split
  · exact reply_tidy hs1
  · exact reply_tidy hs1.frame

theorem releaseSet_tidy (hs : s.Tidy q) {m} : (s.releaseSet m).Tidy q := hs.frame

theorem execRtcYearRead_tidy (hs : s.Tidy q) {m} : OutTidy q (execRtcYearRead m s) :=
  next_tidy (gateRead_tidy hs (fun _ h1 => reply_tidy (releaseSet_tidy h1)))

theorem execRtcSetRelease_tidy (hs : s.Tidy q) {m} : OutTidy q (execRtcSetRelease m s) := next_tidy (ite_tidy (releaseSet_tidy hs) hs)

/-! ### Machine/Rtc: Periodic wake, supply, start (R489 to R492) -/

theorem markPer_tidy (hs : s.Tidy q) : s.markPer.Tidy q := hs.frame

theorem execPeriodic_tidy (hs : s.Tidy q) : OutTidy q (execPeriodic s) :=
  next_tidy (ite_tidy hs (wake_tidy (raise_tidy (wr_tidy (markPer_tidy hs)))))

theorem execRtcPerWrite_tidy (hs : s.Tidy q) {m v} : OutTidy q (execRtcPerWrite m v s) :=
  next_tidy (gate_tidy hs (fun _ h1 => wr_tidy (markPer_tidy h1)))

theorem execVbatMeasure_tidy (hs : s.Tidy q) {mv} : OutTidy q (execVbatMeasure mv s) :=
  next_tidy (ite_tidy hs (wrB_tidy (wr_tidy hs.frame)))

theorem rtcStart_tidy (hs : s.Tidy q) : s.rtcStart.Tidy q :=
  ite_tidy hs (event_tidy (timeInv_tidy (wrB_tidy (regPut_tidy (wr_tidy (wr_tidy (wr_tidy (setHalt_tidy (setCal_tidy hs.frame)))))))))

/-! ### Machine/Regs: Running and stopping (R46) -/

theorem stopNow_tidy (hs : s.Tidy q) {b} : (s.stopNow b).Tidy q := by
  unfold State.stopNow
  extract_lets s0 s1
  have hs0 : s0.Tidy q := ite_tidy (pfmEnd_tidy hs) hs
  have hs1 : s1.Tidy q := wr_tidy (wr_tidy hs0)
  split
  · exact mtrStop_tidy hs1
  · exact fioStop_tidy hs1
  · exact canStop_tidy hs1
  · exact ite_tidy (loseInstants_tidy hs1) hs1
  · exact foldl_tidy hs1 fun _ h1 _ => setTask_tidy h1
  · exact guardStop_tidy hs1
  · exact hs1

theorem canBusy_tidy (hs : s.Tidy q) {b} : SndTidy q (s.canBusy b) := by
  unfold State.canBusy
  split
  · split
    rename_i x v s1 e
    exact snd_mk (snd_tidy e (draw_tidy hs))
  · exact snd_mk hs

theorem requestStop_tidy (hs : s.Tidy q) {b} : (s.requestStop b).Tidy q := by
  unfold State.requestStop
  extract_lets s1
  have hs1 : s1.Tidy q := by
    unfold s1
    split
    · exact ite_tidy (declareFault_tidy hs) hs
    · exact spkStop_tidy hs
    · split
      · exact stopStalled_tidy hs
      · exact hs
    · exact mtrStopAsked_tidy hs
    · exact netStopAsked_tidy hs
    · exact hs
  split
  rename_i x good s11 e
  have hs11 : s11.Tidy q := snd_tidy e (canBusy_tidy hs1)
  exact ite_tidy (stopNow_tidy hs11) (wr_tidy hs11)

theorem enableBlk_tidy (hs : s.Tidy q) {b} : (s.enableBlk b).Tidy q := by
  unfold State.enableBlk
  extract_lets s1
  have hs1 : s1.Tidy q := wr_tidy hs
  split
  · exact spkStart_tidy hs1
  · exact mtrStart_tidy hs1
  · exact fioStart_tidy hs1
  · exact evrEnable_tidy hs1
  · exact serveTx_tidy hs1
  · exact tsuStart_tidy hs1
  · exact pfmStart_tidy hs1
  · split
    rename_i x s2 acted e
    have hs2 : s2.Tidy q := fst_tidy e (canEnable_tidy hs)
    exact ite_tidy (wr_tidy hs2) hs2
  · exact hs1

theorem execStopBoundary_tidy (hs : s.Tidy q) {b} : OutTidy q (execStopBoundary b s) :=
  next_tidy (whileLive_tidy hs (fun _ h1 => ite_tidy (stopNow_tidy h1) h1))

/-! ### Machine/Regs: Soft reset (R47) -/

theorem emptyBlk_tidy (hs : s.Tidy q) {a} : (s.emptyBlk a).Tidy q := by
  cases a with
  | xlt => exact xltSoftReset_tidy hs
  | spk => exact State.Tidy.frame rfl rfl rfl (ite_tidy (loseInstants_tidy hs) hs)
  | tsu => exact tsuSoftReset_tidy hs
  | mtr => exact mtrStop_tidy ⟨hs.1, hs.2.1, fun _ => lanes_foldl_put_wf _ _ _ _ rfl⟩
  | can p => exact setCan_tidy hs
  | tdm => exact State.Tidy.frame rfl rfl rfl (ite_tidy (declareFault_tidy hs) hs)
  | evr => exact evrSoftReset_tidy hs
  | pwr =>
    have h1 : (if s.cur = 1 then s.leaveNap false else s).Tidy q := ite_tidy (leaveNap_tidy hs) hs
    exact ite_tidy (abortEntry_tidy h1) h1
  | sys | mem => exact hs
  | cad | lpe | slv => exact ⟨hs.1, hs.2.1, hs.2.2⟩
  | _ => exact hs.frame

theorem softReset_tidy (hs : s.Tidy q) {b} : (s.softReset b).Tidy q := by
  unfold State.softReset
  extract_lets s1 mine s2 s3 s4 src
  have hs1 : s1.Tidy q := emptyBlk_tidy hs
  have hs2 : s2.Tidy q := foldl_tidy hs1 fun _ h1 _ => regPut_tidy h1
  have hs3 : s3.Tidy q := ite_tidy hs2 hs2.frame
  have hs4 : s4.Tidy q := ite_tidy (tsuRestart_tidy hs3) hs3
  have hsrc : src.Tidy q := regPut_tidy hs4
  exact hsrc.frame

/-! ### Machine/Regs: BLK_CTRL (R46 to R50) -/

theorem writeCtrl_tidy (hs : s.Tidy q) {m b v} : (s.writeCtrl m b v).Tidy q := by
  unfold State.writeCtrl
  refine gate_tidy hs (fun s1 hs1 => ?_)
  extract_lets en frz locked cRst enWrite cEn frzWrite cFrz s0 s11 s2 codes
  have hs0 : s0.Tidy q := wrB_tidy hs1
  have hs11 : s11.Tidy q := ite_tidy (ite_tidy hs0 hs0.frame) hs1
  have hs2 : s2.Tidy q := ite_tidy hs11 (ite_tidy (enableBlk_tidy hs11) (ite_tidy hs11 (requestStop_tidy hs11)))
  clear_value en frz locked cRst enWrite cEn frzWrite cFrz s0 s11 s2 codes
  split
  · exact softReset_tidy hs1
  · split
    · exact hs2
    · exact err_tidy hs2

theorem ctrlBit_tidy (hs : s.Tidy q) {m b n v} : (s.ctrlBit m b n v).Tidy q := writeCtrl_tidy hs

theorem execCfgsumUpdate_tidy (hs : s.Tidy q) {b} : OutTidy q (execCfgsumUpdate b s) := next_tidy (ite_tidy (wr_tidy (regPut_tidy hs)) hs)

/-! ### Machine/Regs: Register writes (R52) -/

theorem writeSome_tidy (hs : s.Tidy q) {m b a v p c woff} : (s.writeSome m b a v p c woff).Tidy q := by
  unfold State.writeSome
  refine gate_tidy hs (fun s1 hs1 => ?_)
  split
  rename_i x s11 c1 e
  have hs11 : s11.Tidy q := fst_tidy e (writeFields_tidy hs1)
  exact ite_tidy (ite_tidy hs11 (err_tidy hs11)) (err_tidy (ite_tidy hs11 (err_tidy hs11)))

theorem writeTp_tidy (hs : s.Tidy q) {m n a v} : (s.writeTp m n a v).Tidy q :=
  ite_tidy (tpMark_tidy (setTp_tidy (ite_tidy (commitTp_tidy (writeSome_tidy hs)) (writeSome_tidy hs)))) (ite_tidy (commitTp_tidy
      (writeSome_tidy hs)) (writeSome_tidy hs))

theorem writeTsu_tidy (hs : s.Tidy q) {m a v} : (s.writeTsu m a v).Tidy q := by
  refine ite_tidy (writeTp_tidy hs) (ite_tidy ?_ ?_)
  · extract_lets n
    split
    · rename_i t e
      exact execSyncedWrite_tidy hs t e
    · exact hs
  · split
    · exact ite_tidy (writeSome_tidy hs) (writeReg_tidy hs)
    · exact writeReg_tidy (ite_tidy (markTb_tidy hs) hs)

theorem writeCad_tidy (hs : s.Tidy q) {m a v} : (s.writeCad m a v).Tidy q :=
  ite_tidy (writeSome_tidy hs) (ite_tidy (writeReg_tidy hs) (writeReg_tidy hs))

theorem writeMtr_tidy (hs : s.Tidy q) {m a v} : (s.writeMtr m a v).Tidy q := by
  refine ite_tidy (ite_tidy (gate_tidy hs fun _ h1 => h1) (showFree_tidy (writeReg_tidy hs))) ?_
  extract_lets s1
  have hs1 : s1.Tidy q := writeReg_tidy hs
  split
  · exact showSnap_tidy hs1
  · exact hs1

theorem writeNet_tidy (hs : s.Tidy q) {m a v} : (s.writeNet m a v).Tidy q := by
  unfold State.writeNet
  split
  · exact writeSome_tidy hs
  · exact writeReg_tidy hs

theorem writePage_tidy (hs : s.Tidy q) {m b a v} : (s.writePage m b a v).Tidy q := by
  unfold State.writePage
  split
  · exact writeCtrl_tidy hs
  · split
    · exact writeCad_tidy hs
    · exact writeTsu_tidy hs
    · exact writeMtr_tidy hs
    · exact writeNet_tidy hs
    · exact writeSome_tidy hs
    · exact writeSome_tidy hs
    · split
      · exact gate_tidy hs (fun _ h1 => writeQuota_tidy h1)
      · exact writeReg_tidy hs
    · exact ite_tidy (calWrite_tidy hs) (writeReg_tidy hs)
    · exact ite_tidy (sleepCmd_tidy hs) (writeReg_tidy hs)
    · exact ite_tidy (writeSrcCfg_tidy hs) (writeReg_tidy hs)
    · exact writeReg_tidy hs

/-! ### Machine/Regs: Register reads (R42, R54, R57, R58) -/

theorem latchHi_tidy (hs : s.Tidy q) {a} : (s.latchHi a).Tidy q := by
  unfold State.latchHi
  split
  · exact regPut_tidy hs
  · split
    · exact regPut_tidy hs
    · split
      · exact regPut_tidy hs
      · split
        · exact regPut_tidy hs
        · split
          · exact regPut_tidy hs
          · exact hs

theorem clearRc_tidy (hs : s.Tidy q) {a} : (s.clearRc a).Tidy q := foldl_tidy hs fun _ h1 _ => ite_tidy (wr_tidy h1) h1

theorem regRead_tidy (hs : s.Tidy q) {m a} : (s.regRead m a).Tidy q := by
  unfold State.regRead
  split
  · exact ite_tidy (reply_tidy hs) (replyErr_tidy hs)
  · split
    · exact replyErr_tidy hs
    · split
      · exact reply_tidy hs
      · split
        · split
          rename_i x v s1 e
          have hs1 : s1.Tidy q := snd_tidy e (draw_tidy hs)
          split
          rename_i x1 v1 s11 e1
          exact reply_tidy (snd_tidy e1 (draw_tidy hs1))
        · split
          · split
            rename_i x v s1 e
            exact reply_tidy (snd_tidy e (draw_tidy hs))
          · split
            · split
              rename_i x v s1 e
              exact reply_tidy (snd_tidy e (draw_tidy hs))
            · exact reply_tidy (latchHi_tidy (clearRc_tidy hs))

/-! ### Machine/Regs: Accesses that reach no register (R37, R40, R41) -/

theorem execUnmappedAccess_tidy (hs : s.Tidy q) {m a k} : OutTidy q (execUnmappedAccess m a k s) :=
  next_tidy (ite_tidy hs (replyErr_tidy hs))

theorem execRegBadWidth_tidy (hs : s.Tidy q) {m a width k} : OutTidy q (execRegBadWidth m a width k s) :=
  next_tidy (ite_tidy (replyErr_tidy hs) hs)

theorem execRegAccessPoweredOff_tidy (hs : s.Tidy q) {m a k} : OutTidy q (execRegAccessPoweredOff m a k s) := by
  unfold execRegAccessPoweredOff
  refine next_tidy ?_
  split
  · exact ite_tidy (replyErr_tidy hs) hs
  · exact hs

/-! ### Machine/RegCmd -/

theorem run_tidy (hs : s.Tidy q) {k : State → Out} (hk : ∀ t : State, t.Tidy q → OutTidy q (k t)) : (s.run k).Tidy q := by
  unfold State.run
  split
  · rename_i t e
    exact hk s hs t e
  · exact hs

theorem cadCommand_tidy (hs : s.Tidy q) {m a v} : OptTidy q (s.cadCommand m a v) := by
  have hrun {k : State → Out} (hk : ∀ t : State, t.Tidy q → OutTidy q (k t)) : OptTidy q (some (s.run k)) :=
    some_tidy (run_tidy hs hk)
  unfold State.cadCommand
  extract_lets op t
  clear_value op
  refine ite_opt_tidy none_tidy (ite_opt_tidy (hrun fun _ h1 => execLoad_tidy h1) (ite_opt_tidy ?_ (ite_opt_tidy ?_ (ite_opt_tidy (hrun ?_)
    (ite_opt_tidy (hrun ?_) (ite_opt_tidy ?_ (ite_opt_tidy ?_ (map_tidy fun n => run_tidy hs fun _ h1 => execExcCntClr_tidy h1))))))))
  · split
    · exact hrun fun _ h1 => execInstEnable_tidy h1
    · exact hrun fun _ h1 => execColdInit_tidy h1
    · exact none_tidy
  · split
    · exact hrun fun _ h1 => execStart_tidy h1
    · exact hrun fun _ h1 => execStop_tidy h1
    · exact hrun fun _ h1 => execRestart_tidy h1
    · exact hrun fun _ h1 => execRestartCold_tidy h1
    · exact hrun fun _ h1 => execClrOvr_tidy h1
    · exact none_tidy
  · split
    · exact fun _ h1 => execWarmStart_tidy h1
    · exact fun _ h1 => execColdStart_tidy h1
  · split
    · exact fun _ h1 => execRetSaveNow_tidy h1
    · exact fun _ h1 => execRetSaveWait_tidy h1
  · split
    · exact hrun fun _ h1 => execForceSet_tidy h1
    · exact hrun fun _ h1 => execForceRelease_tidy h1
    · exact hrun fun _ h1 => execRearm_tidy h1
    · exact hrun fun _ h1 => execForceRead_tidy h1
    · exact hrun fun _ h1 => execReleaseAll_tidy h1
    · exact hrun fun _ h1 => execNextOrphan_tidy h1
    · exact none_tidy
  · split
    · exact hrun fun _ h1 => execArm_tidy h1
    · exact hrun fun _ h1 => execCancel_tidy h1
    · exact none_tidy

theorem slvCommand_tidy (hs : s.Tidy q) {m a v} : OptTidy q (s.slvCommand m a v) := by
  unfold State.slvCommand
  split
  · exact none_tidy
  · split
    · split
      · exact some_tidy (run_tidy hs (fun _ h1 => execTplReload_tidy h1))
      · exact some_tidy (run_tidy hs (fun _ h1 => execReloadAll_tidy h1))
      · exact none_tidy
    · split
      · exact some_tidy (run_tidy hs (fun _ h1 => execSlvSubmit_tidy h1))
      · split
        · split
          · exact some_tidy (run_tidy hs (fun _ h1 => execAbort_tidy h1))
          · exact some_tidy (run_tidy hs (fun _ h1 => execResume_tidy h1))
          · exact some_tidy (run_tidy hs (fun _ h1 => execAbortStalled_tidy h1))
          · exact some_tidy (run_tidy hs (fun _ h1 => execInvalidate_tidy h1))
          · exact none_tidy
        · exact none_tidy

theorem loopCommand_tidy (hs : s.Tidy q) {m a v} : OptTidy q (s.loopCommand m a v) := by
  unfold State.loopCommand
  extract_lets n s1
  have hs1 : s1.Tidy q := run_tidy hs (fun _ h1 => execSafeAll_tidy h1)
  split
  · split
    · exact none_tidy
    · exact some_tidy (writePage_tidy hs1)
  · split
    · exact none_tidy
    · split
      · split
        · exact some_tidy (run_tidy hs (fun _ h1 => execTblReload_tidy h1))
        · exact some_tidy (run_tidy hs (fun _ h1 => execRepack_tidy h1))
        · exact none_tidy
      · split
        · split
          · exact some_tidy (run_tidy hs (fun _ h1 => execSlotEnable_tidy h1))
          · exact some_tidy (run_tidy hs (fun _ h1 => execSlotDisable_tidy h1))
          · exact some_tidy (run_tidy hs (fun _ h1 => execSlotReload_tidy h1))
          · exact none_tidy
        · split
          · exact some_tidy (run_tidy hs (fun _ h1 => execGrdLoad_tidy h1))
          · exact none_tidy

theorem mtrCommand_tidy (hs : s.Tidy q) {m a v} : OptTidy q (s.mtrCommand m a v) := by
  unfold State.mtrCommand
  extract_lets lane
  refine ite_opt_tidy none_tidy (ite_opt_tidy ?_ (ite_opt_tidy (some_tidy (run_tidy hs fun _ h1 => execLaneClr_tidy h1))
    (map_tidy fun k => run_tidy hs fun _ h1 => execSnap_tidy h1)))
  split
  · exact some_tidy (run_tidy hs fun _ h1 => execLaneEnable_tidy h1)
  · exact some_tidy (run_tidy hs fun _ h1 => execLaneDisable_tidy h1)
  · exact some_tidy (run_tidy hs fun _ h1 => execLaneReload_tidy h1)
  · exact none_tidy

theorem netCommand_tidy (hs : s.Tidy q) {m a v} : OptTidy q (s.netCommand m a v) := by
  unfold State.netCommand
  split
  · exact some_tidy (run_tidy hs (fun _ h1 => execCpuTail_tidy h1))
  · split
    · exact none_tidy
    · split
      · exact some_tidy (run_tidy (writePage_tidy hs) (fun _ h1 => execBrFlush_tidy h1))
      · split
        · exact none_tidy
        · split
          · exact some_tidy (run_tidy hs (fun _ h1 => execStep_tidy h1))
          · exact some_tidy (run_tidy hs (fun _ h1 => execSet_tidy h1))
          · exact some_tidy (run_tidy hs (fun _ h1 => execSlew_tidy h1))
          · exact none_tidy

theorem canCommand_tidy (hs : s.Tidy q) {m p a v} : OptTidy q (s.canCommand m p a v) := by
  unfold State.canCommand
  extract_lets one
  have hone {k lo} {t : State} (ht : t.Tidy q) (hk : ∀ b, ∀ t : State, t.Tidy q → OutTidy q (k b t)) : (one k lo t).Tidy q :=
    foldl_tidy ht fun _ h1 b => ite_tidy (run_tidy h1 (hk b)) h1
  refine ite_opt_tidy (ite_opt_tidy none_tidy (some_tidy ?_))
    (ite_opt_tidy (some_tidy (run_tidy hs fun _ h1 => execRxAck_tidy h1)) none_tidy)
  exact hone (hone hs fun _ _ h1 => execTxReq_tidy h1) fun _ _ h1 => execTxAbort_tidy h1

theorem tdmCommand_tidy (hs : s.Tidy q) {m a v} : OptTidy q (s.tdmCommand m a v) := by
  unfold State.tdmCommand
  split
  · exact none_tidy
  · split
    · split
      rename_i x v1 s1 e
      have hs1 : s1.Tidy q := snd_tidy e (draw_tidy hs)
      split
      rename_i x1 v2 s11 e1
      have hs11 : s11.Tidy q := snd_tidy e1 (draw_tidy hs1)
      split
      rename_i x2 v3 s12 e2
      exact some_tidy (run_tidy (snd_tidy e2 (draw_tidy hs11)) (fun _ h1 => execJoin_tidy h1))
    · exact some_tidy (run_tidy hs (fun _ h1 => execLeave_tidy h1))
    · exact some_tidy (run_tidy hs (fun _ h1 => execTdmFault_tidy h1))
    · exact some_tidy (run_tidy hs (fun _ h1 => execClrFault_tidy h1))
    · exact none_tidy

theorem storeCommand_tidy (hs : s.Tidy q) {m a v} : OptTidy q (s.storeCommand m a v) := by
  have hrun {k : State → Out} (hk : ∀ t : State, t.Tidy q → OutTidy q (k t)) : OptTidy q (some (s.run k)) :=
    some_tidy (run_tidy hs hk)
  refine ite_opt_tidy (hrun fun _ h1 => execPinCfg_tidy h1) (ite_opt_tidy (hrun fun _ h1 => execPinSel_tidy h1) (ite_opt_tidy none_tidy
    (ite_opt_tidy ?_ (ite_opt_tidy (ite_opt_tidy (some_tidy (kstCmd_tidy hs)) none_tidy) (ite_opt_tidy (hrun fun _ h1 => execInval_tidy h1)
      (ite_opt_tidy (ite_opt_tidy (some_tidy (nfmCmd_tidy hs)) none_tidy) (map_tidy fun c => run_tidy hs fun _ h1 => execPost_tidy h1)))))))
  split
  · exact hrun fun _ h1 => execEvrFlush_tidy h1
  · exact hrun fun _ h1 => execSeek_tidy h1
  · exact hrun fun _ h1 => execNext_tidy h1
  · exact hrun fun _ h1 => execEvrNonce_tidy h1
  · exact hrun fun _ h1 => execClear_tidy h1
  · exact none_tidy

theorem fieldCommand_tidy (hs : s.Tidy q) {m a v} : OptTidy q (s.fieldCommand m a v) := by
  unfold State.fieldCommand
  split
  · exact some_tidy (run_tidy hs (fun _ h1 => execDoInhibit_tidy h1))
  · split
    · exact some_tidy (run_tidy hs (fun _ h1 => execDoDiag_tidy h1))
    · split
      · split
        · split
          rename_i x v1 s1 e
          exact some_tidy (run_tidy (snd_tidy e (draw_tidy hs)) (fun _ h1 => execHalt_tidy h1))
        · exact some_tidy (run_tidy hs (fun _ h1 => execHaltRelease_tidy h1))
      · split
        · split
          rename_i x v1 s1 e
          exact some_tidy (run_tidy (snd_tidy e (draw_tidy hs)) (fun _ h1 => execRtcSecWrite_tidy h1))
        · split
          · exact some_tidy (run_tidy hs (fun _ h1 => execRtcPerWrite_tidy h1))
          · split
            · exact none_tidy
            · split
              · split
                · exact some_tidy (run_tidy hs (fun _ h1 => execPnlOn_tidy h1))
                · exact some_tidy (run_tidy hs (fun _ h1 => execPnlOff_tidy h1))
                · exact none_tidy
              · split
                · exact some_tidy (run_tidy hs (fun _ h1 => execUpdCmd_tidy h1))
                · split
                  · exact some_tidy (run_tidy hs (fun _ h1 => execAonLoad_tidy h1))
                  · exact none_tidy

theorem intCommand_tidy (hs : s.Tidy q) {m a v} : OptTidy q (s.intCommand m a v) :=
  ite_opt_tidy (some_tidy (run_tidy hs fun _ h1 => execDbSet_tidy h1)) (ite_opt_tidy (some_tidy (run_tidy hs fun _ h1 => execDbClr_tidy h1))
    (map_tidy fun _ => run_tidy hs fun _ h1 => execComplete_tidy h1))

theorem wordCommand_tidy (hs : s.Tidy q) {m b a v} : OptTidy q (s.wordCommand m b a v) := by
  unfold State.wordCommand
  split
  · exact cadCommand_tidy hs
  · exact slvCommand_tidy hs
  · exact loopCommand_tidy hs
  · exact loopCommand_tidy hs
  · exact mtrCommand_tidy hs
  · exact netCommand_tidy hs
  · exact netCommand_tidy hs
  · exact canCommand_tidy hs
  · exact tdmCommand_tidy hs
  · exact storeCommand_tidy hs
  · exact storeCommand_tidy hs
  · exact storeCommand_tidy hs
  · exact storeCommand_tidy hs
  · exact fieldCommand_tidy hs
  · exact fieldCommand_tidy hs
  · exact fieldCommand_tidy hs
  · exact intCommand_tidy hs
  · exact none_tidy

theorem regWrite_tidy (hs : s.Tidy q) {m a v} : (s.regWrite m a v).Tidy q := by
  refine ite_tidy (replyErr_tidy hs) ?_
  split
  · exact ite_tidy (reply_tidy hs) (replyErr_tidy hs)
  · exact ite_tidy (gate_tidy hs fun _ h1 => h1) (getD_tidy (wordCommand_tidy hs) (writePage_tidy hs))

theorem readCommand_tidy (hs : s.Tidy q) {m a} : OptTidy q (s.readCommand m a) := by
  have hrun {k : State → Out} (hk : ∀ t : State, t.Tidy q → OutTidy q (k t)) : OptTidy q (some (s.run k)) :=
    some_tidy (run_tidy hs hk)
  refine ite_opt_tidy (hrun fun _ h1 => execFaultPop_tidy h1) (ite_opt_tidy (hrun fun _ h1 => execEdgePop_tidy h1)
    (ite_opt_tidy ?_ (ite_opt_tidy (hrun fun _ h1 => execRtcYearRead_tidy h1) ?_)))
  · split
    rename_i x s1 e
    exact some_tidy (run_tidy (snd_tidy e (draw_tidy hs)) fun _ h1 => execRtcSecRead_tidy h1)
  · split
    · exact hrun fun _ h1 => execClaim_tidy h1
    · split
      · exact hrun fun _ h1 => execTbReadLatch_tidy h1
      · exact map_tidy fun n => run_tidy hs fun _ h1 => execTcPop_tidy h1

theorem execRcRead_tidy (hs : s.Tidy q) {m a} : OutTidy q (execRcRead m a s) :=
  next_tidy (getD_tidy (readCommand_tidy hs) (regRead_tidy hs))

/-! ### Machine/Sys: Device resets (R518, R519) -/

theorem powerUp_tidy (hs : s.Tidy q) : s.powerUp.Tidy q := by
  unfold State.powerUp
  extract_lets s1 s2 s3
  have hs1 : s1.Tidy q := deviceReset_tidy hs
  have hs2 : s2.Tidy q := ite_tidy ⟨hs1.1, sparse_wfFrom_filter regReset _ s1.regs 0 hs1.2.1, hs1.2.2⟩ hs1
  have hs3 : s3.Tidy q := regPut_tidy (wr_tidy hs2)
  exact hs3.frame

theorem execDeviceReset_tidy (hs : s.Tidy q) {cause} : OutTidy q (execDeviceReset cause s) :=
  next_tidy (ite_tidy hs (ite_tidy (powerUp_tidy hs) (ite_tidy (restoreAll_tidy (deviceReset_tidy hs)) (deviceReset_tidy hs))))

theorem execPowerOn_tidy (hs : s.Tidy q) : OutTidy q (execPowerOn s) := next_tidy (powerUp_tidy hs)

theorem execSysRstCmd_tidy (hs : s.Tidy q) {m} : OutTidy q (execSysRstCmd m s) := next_tidy (gate_tidy hs (fun _ h1 => deviceReset_tidy h1))

theorem execLockstep_tidy (hs : s.Tidy q) : OutTidy q (execLockstep s) := next_tidy (ite_tidy (deviceReset_tidy hs) hs)

theorem execTapReset_tidy (hs : s.Tidy q) : OutTidy q (execTapReset s) := next_tidy (ite_tidy (deviceReset_tidy hs) hs)

/-! ### Machine/Sys: Configuration copies (R524 to R527) -/

theorem preset_tidy (hs : s.Tidy q) {k a v} : (s.preset k a v).Tidy q := by
  unfold State.preset
  split
  · exact hs
  · exact ite_tidy (err_tidy hs) ((regWrite_tidy hs).frame)

theorem loadCfgCopy_tidy (hs : s.Tidy q) {x b} : (s.loadCfgCopy x b).Tidy q :=
  foldl_tidy (wr_tidy (wr_tidy (ite_tidy (wr_tidy (wr_tidy (wr_tidy hs))) (sumPend_tidy (wr_tidy (wr_tidy (wr_tidy (wr_tidy hs))))))))
      fun _ h1 _ => preset_tidy h1

theorem cfgDefaults_tidy (hs : s.Tidy q) : s.cfgDefaults.Tidy q := event_tidy (raise_tidy (wrB_tidy (wr_tidy (wr_tidy hs))))

theorem cfgResult_tidy (hs : s.Tidy q) {x r} : (s.cfgResult x r).Tidy q := ite_tidy (wr_tidy hs) (err_tidy (wr_tidy hs))

theorem loadCfg_tidy (hs : s.Tidy q) {bad} : (s.loadCfg bad).Tidy q := by
  unfold State.loadCfg
  split
  split
  extract_lets s1
  have hs1 : s1.Tidy q := cfgResult_tidy (cfgResult_tidy hs)
  exact ite_tidy (ite_tidy (loadCfgCopy_tidy hs1) (loadCfgCopy_tidy hs1)) (ite_tidy (loadCfgCopy_tidy hs1) (ite_tidy
      (loadCfgCopy_tidy hs1) (cfgDefaults_tidy hs1)))

/-! ### Machine/Sys: Firmware images (R425, R426, R521, R522) -/

theorem slotPages_tidy (hs : s.Tidy q) {x n} : SndTidy q (s.slotPages x n) := by
  refine foldl_snd_tidy (snd_mk hs) fun p hp k => ?_
  split
  rename_i b s1 e
  exact snd_mk (snd_tidy e (nandPage_tidy hp.tidy))

/-- The state of an answer that tries an image slot. -/
def SlotTidy (q : Prop) (r : Nat × List Byte × List Byte × State) : Prop := r.2.2.2.Tidy q

theorem slot_tidy {p : Nat × List Byte × List Byte × State} {r h l} (e : p = (r, h, l, s)) (hp : SlotTidy q p) : s.Tidy q := by
  rw [e] at hp
  exact hp

theorem trySlot_tidy (hs : s.Tidy q) {bad x} : SlotTidy q (s.trySlot bad x) := by
  have h0 {r} : SlotTidy q (r, [], [], s) := hs
  unfold State.trySlot
  split
  · exact h0
  · split
    · exact h0
    · split
      · exact h0
      · split
        · exact h0
        · split
          rename_i b s1 e
          exact snd_tidy e (slotPages_tidy hs)

theorem refuseImage_tidy (hs : s.Tidy q) {r} : (s.refuseImage r).Tidy q := send_tidy (err_tidy hs)

theorem runImage_tidy (hs : s.Tidy q) {h payload} : (s.runImage h payload).Tidy q := by
  unfold State.runImage
  extract_lets a src s1 s2 src1 src2
  have hsrc : src.Tidy q := putBytes_tidy hs
  have hs1 : s1.Tidy q := ite_tidy hsrc.frame hs
  have hs2 : s2.Tidy q := extend_tidy hs1
  clear_value a src s1 s2 src1 src2
  exact hs2.frame

theorem bootImage_tidy (hs : s.Tidy q) {bad} : (s.bootImage bad).Tidy q := by
  unfold State.bootImage
  extract_lets x y
  split
  · rename_i h p s1 e
    exact runImage_tidy (wr_tidy (wr_tidy (slot_tidy e (trySlot_tidy hs))))
  · rename_i r h p s1 hr e
    extract_lets s2
    have hs2 : s2.Tidy q := refuseImage_tidy (wr_tidy (slot_tidy e (trySlot_tidy hs)))
    split
    · rename_i h3 p3 s3 e3
      exact runImage_tidy (wr_tidy (wr_tidy (slot_tidy e3 (trySlot_tidy hs2))))
    · rename_i r3 h3 p3 s3 hr3 e3
      exact wrB_tidy (wr_tidy (refuseImage_tidy (wr_tidy (slot_tidy e3 (trySlot_tidy hs2)))))

theorem execResetRelease_tidy (hs : s.Tidy q) {ticks entropy bad} : OutTidy q (execResetRelease ticks entropy bad s) := by
  unfold execResetRelease
  refine next_tidy ?_
  split
  · exact hs
  · extract_lets src s0 s1 s2 s3 s4
    have hs0 : s0.Tidy q := hs.frame
    have hs1 : s1.Tidy q := by
      unfold s1
      split
      · exact freewheel_tidy hs0
      · exact hs0
    have hs2 : s2.Tidy q := evrStart_tidy (kstStart_tidy (rtcStart_tidy hs1))
    have hs3 : s3.Tidy q := evalTb3_tidy (event_tidy hs2)
    exact bootImage_tidy (wrB_tidy (loadCfg_tidy (mtrRestore_tidy hs3)))

theorem execSysBootCmd_tidy (hs : s.Tidy q) {m} : OutTidy q (execSysBootCmd m s) :=
  next_tidy (gate_tidy hs (fun _ h1 => ite_tidy h1 (ite_tidy (runImage_tidy (wrB_tidy (wr_tidy (wr_tidy h1)))) (refuseImage_tidy (wr_tidy
      h1)))))

theorem measureStages_tidy (hs : s.Tidy q) : s.measureStages.Tidy q := by
  unfold State.measureStages
  refine foldl_tidy hs.frame (fun s1 hs1 h => ?_)
  split
  rename_i x v s11 e
  exact extend_tidy (snd_tidy e (draw_tidy hs1))

theorem execSysHostGo_tidy (hs : s.Tidy q) {m v} : OutTidy q (execSysHostGo m v s) :=
  next_tidy (gate_tidy hs (fun _ h1 => measureStages_tidy (regPut_tidy h1)))

theorem execRegWrite_tidy (hs : s.Tidy q) {m a v} : OutTidy q (execRegWrite m a v s) :=
  next_tidy (ite_tidy (run_tidy hs (fun _ h1 => execSysRstCmd_tidy h1)) (ite_tidy (run_tidy hs (fun _ h1 => execSysBootCmd_tidy h1))
      (ite_tidy (run_tidy hs (fun _ h1 => execSysHostGo_tidy h1)) (regWrite_tidy hs))))

/-! ### Machine/Fabric: Accesses by physical address (R36, R37, R430) -/

theorem pageAccess_tidy (hs : s.Tidy q) {m a op} : FstTidy q (s.pageAccess m a op) := by
  unfold State.pageAccess
  extract_lets answer
  have hanswer : ∀ t : State, t.Tidy q → FstTidy q (answer t) := fun _ h1 => fst_mk h1.frame
  split
  · exact ite_fst_tidy (hanswer _ (run_tidy hs (fun _ h1 => execRcRead_tidy h1))) (fst_mk hs)
  · exact ite_fst_tidy (hanswer _ (run_tidy hs (fun _ h1 => execRegWrite_tidy h1))) (fst_mk hs)
  · exact fst_mk hs

theorem readAt_tidy (hs : s.Tidy q) {a n} : FstTidy q (s.readAt a n) := by
  unfold State.readAt
  split
  · exact fst_mk (ueSeen_tidy hs)
  · split
    rename_i x chans s1 e
    exact fst_mk (snd_tidy e (memRead_tidy hs))

theorem atomic_tidy (hs : s.Tidy q) {port sub a op} : FstTidy q (s.atomic port sub a op) := by
  unfold State.atomic
  extract_lets n mine held s1
  have hs1 : s1.Tidy q := hs.frame
  split
  · exact fst_mk hs
  · split
    · exact ite_fst_tidy (fst_mk (store_tidy hs1)) (fst_mk hs1)
    · split
      · rename_i x s11 p e
        have hs11 : s11.Tidy q := fst_tidy e (readAt_tidy hs)
        exact fst_mk hs11.frame
      · rename_i x s11 e
        exact fst_mk (fst_tidy e (readAt_tidy hs))
    · split
      · rename_i x s11 p e
        exact fst_mk (store_tidy (fst_tidy e (readAt_tidy hs)))
      · rename_i x s11 e
        exact fst_mk (fst_tidy e (readAt_tidy hs))
    · exact fst_mk hs

theorem coreAccess_tidy (hs : s.Tidy q) {port sub a op} : FstTidy q (s.coreAccess port sub a op) := by
  unfold State.coreAccess
  extract_lets n spiOk
  split
  · exact pageAccess_tidy hs
  · split
    · exact ite_fst_tidy (readAt_tidy hs) (fst_mk hs)
    · exact ite_fst_tidy (readAt_tidy hs) (fst_mk hs)
    · exact ite_fst_tidy (fst_mk (store_tidy hs)) (fst_mk hs)
    · exact atomic_tidy hs

theorem ctxAccess_tidy (hs : s.Tidy q) {ctx x} : FstTidy q (s.ctxAccess ctx x) := by
  unfold State.ctxAccess
  split
  · exact fst_mk ((readCuts_tidy hs).tidy)
  · exact fst_mk ((writeCuts_tidy hs).tidy)
  · exact fst_mk hs

theorem access_tidy (hs : s.Tidy q) {x} : FstTidy q (s.access x) := by
  unfold State.access
  split
  · split
    rename_i x1 s1 sig e
    exact fst_mk (fst_tidy e (coreAccess_tidy hs))
  · exact ctxAccess_tidy hs

theorem meets_tidy (hs : s.Tidy q) {x ecc} : (s.meets x ecc).Tidy q := by
  unfold State.meets
  extract_lets n a0
  split
  · exact hs
  · refine foldl_tidy hs (fun s1 hs1 k => ?_)
    extract_lets w
    split
    · exact hs1
    · exact hs1
    · exact ite_tidy hs1 (ceSeen_tidy hs1)
    · exact ite_tidy (markUe_tidy hs1) hs1

/-! ### Machine/Fabric: Service (R31, R432, R434) -/

theorem keep_tidy (hs : s.Tidy q) {r} : (s.keep r).Tidy q := by
  unfold State.keep
  split
  · exact hs
  · extract_lets src s1
    have hs1 : s1.Tidy q := hs.frame
    split
    · exact stallJob_tidy hs1
    · exact hs1

theorem acceptWrite_tidy (hs : s.Tidy q) {x ecc lat} : (s.acceptWrite x ecc lat).Tidy q := by
  unfold State.acceptWrite
  split
  rename_i x1 s1 r e
  exact showUse_tidy (pfmCount_tidy ((keep_tidy (fst_tidy e (access_tidy (meets_tidy hs)))).frame))

theorem serveReq_tidy (hs : s.Tidy q) {x ecc lat} : (s.serveReq x ecc lat).Tidy q := by
  unfold State.serveReq
  split
  rename_i x1 s1 r e
  exact (keep_tidy (fst_tidy e (access_tidy (meets_tidy hs)))).frame

theorem serveWalk_tidy (hs : s.Tidy q) {x lat} : (s.serveWalk x lat).Tidy q := hs.frame

theorem walked_tidy (hs : s.Tidy q) {x} : (s.walked x).Tidy q := ite_tidy (enter_tidy hs.frame) hs.frame

theorem deliverRsp_tidy (hs : s.Tidy q) {r} : (s.deliverRsp r).Tidy q := by
  unfold State.deliverRsp
  refine showUse_tidy ?_
  split
  · exact walked_tidy (pfmCount_tidy hs)
  · exact pfmCount_tidy hs.frame

theorem serveNext_tidy (hs : s.Tidy q) {ecc answered lat} : (s.serveNext ecc answered lat).Tidy q := by
  unfold State.serveNext
  split
  · exact acceptWrite_tidy hs.frame
  · exact deliverRsp_tidy hs.frame
  · split
    · exact acceptWrite_tidy hs.frame
    · split
      · exact hs
      · exact ite_tidy (serveWalk_tidy hs.frame) (ite_tidy (serveReq_tidy hs.frame) hs.frame.frame)

theorem execFabricTransaction_tidy (hs : s.Tidy q) {x} : OutTidy q (execFabricTransaction x s) := by
  unfold execFabricTransaction
  refine next_tidy ?_
  split
  · exact issueItem_tidy hs
  · exact serveNext_tidy hs

theorem execFabTimeout_tidy (hs : s.Tidy q) {port lat} : OutTidy q (execFabTimeout port lat s) := by
  unfold execFabTimeout
  refine next_tidy ?_
  split
  · exact hs
  · exact ite_tidy hs (replyErr_tidy (err_tidy (raise_tidy (showUse_tidy (pfmCount_tidy hs.frame)))))

/-! ### The step -/

/-- Every command keeps the canonical form: the arms of `exec`, in its order. -/
theorem exec_tidy (hs : s.Tidy q) (c : Instr) : OutTidy q (exec c s) := by
  unfold exec
  split
  · exact execRegWrite_tidy hs
  · exact execRcRead_tidy hs
  · exact execUnmappedAccess_tidy hs
  · exact execRegBadWidth_tidy hs
  · exact execRegAccessPoweredOff_tidy hs
  iterate 2 · exact next_tidy (ctrlBit_tidy hs)
  · exact execStopBoundary_tidy hs
  iterate 2 · exact next_tidy (ctrlBit_tidy hs)
  iterate 4 · exact next_tidy (writeReg_tidy hs)
  · exact execCfgsumUpdate_tidy hs
  · exact execClaim_tidy hs
  · exact execComplete_tidy hs
  · exact execDbSet_tidy hs
  · exact execDbClr_tidy hs
  · exact execIntSrcCfg_tidy hs
  iterate 2 · exact next_tidy (slotRead_tidy hs)
  · exact execSts_tidy hs
  iterate 4 · exact next_tidy (slotRead_tidy hs)
  · exact execStsx_tidy hs
  iterate 3 · exact next_tidy (loadData_tidy hs)
  iterate 3 · exact next_tidy (storeData_tidy hs)
  iterate 67 · exact next_tidy (alu_tidy hs)
  iterate 3 · exact next_tidy (timer_tidy hs)
  iterate 2 · exact next_tidy (edge_tidy hs)
  iterate 5 · exact next_tidy (branchIf_tidy hs)
  · exact execLoop_tidy hs
  · exact execLidx_tidy hs
  · exact execCall_tidy hs
  · exact execRet_tidy hs
  · exact execLsp_tidy hs
  · exact execLmode_tidy hs
  · exact execLman_tidy hs
  · exact execLout_tidy hs
  · exact execLwin_tidy hs
  · exact execSlvq_tidy hs
  · exact execSlvst_tidy hs
  · exact execSlvrd_tidy hs
  · exact execTrap_tidy hs
  · exact execAssert_tidy hs
  · exact execEvt_tidy hs
  · exact execNop_tidy hs
  · exact execIllegal_tidy hs
  · exact execLoad_tidy hs
  · exact execLoadCheckEnd_tidy hs
  · exact execBackgroundRehash_tidy hs
  · exact execInstEnable_tidy hs
  · exact execColdInit_tidy hs
  · exact execExcCntClr_tidy hs
  · exact execTaskCycleStart_tidy hs
  · exact execTaskPublication_tidy hs
  · exact execOverrun_tidy hs
  · exact execStart_tidy hs
  · exact execStop_tidy hs
  · exact execRestart_tidy hs
  · exact execRestartCold_tidy hs
  · exact execClrOvr_tidy hs
  · exact execColdStart_tidy hs
  · exact execWarmStart_tidy hs
  · exact execRetSaveWait_tidy hs
  · exact execRetSaveNow_tidy hs
  · exact execRetSaveBegin_tidy hs
  · exact execRetSaveEnd_tidy hs
  · exact execRetSaveTimeout_tidy hs
  · exact execForceSet_tidy hs
  · exact execForceRelease_tidy hs
  · exact execRearm_tidy hs
  · exact execForceRead_tidy hs
  · exact execReleaseAll_tidy hs
  · exact execNextOrphan_tidy hs
  · exact execArm_tidy hs
  · exact execCancel_tidy hs
  · exact execChgCheckEnd_tidy hs
  · exact execChangeWindow_tidy hs
  · exact execChgTimeout_tidy hs
  · exact execMigrationEnd_tidy hs
  · exact execRingInstant_tidy hs
  · exact execPassDeparture_tidy hs
  · exact execRingFrameForward_tidy hs
  · exact execFrameReturn_tidy hs
  · exact execInputCommit_tidy hs
  · exact execStationSegment_tidy hs
  · exact execRingInstantTimeout_tidy hs
  · exact execLoopbackEngage_tidy hs
  · exact execLoopbackExit_tidy hs
  · exact execStationWatchdog_tidy hs
  · exact execTblReload_tidy hs
  · exact execRepack_tidy hs
  · exact execMbxTail_tidy hs
  · exact execMbxRetry_tidy hs
  · exact execIdent_tidy hs
  · exact execParamRead_tidy hs
  · exact execParamWrite_tidy hs
  · exact execPointBulk_tidy hs
  · exact execSpkRingStart_tidy hs
  · exact execSlotEnable_tidy hs
  · exact execSlotDisable_tidy hs
  · exact execSlotReload_tidy hs
  · exact execSlotSample_tidy hs
  · exact execSlotOverrun_tidy hs
  · exact execGuardPass_tidy hs
  · exact execGrdLoad_tidy hs
  · exact execGrdCheckEnd_tidy hs
  · exact execSafeAll_tidy hs
  · exact execSlvSubmit_tidy hs
  · exact execJobStart_tidy hs
  · exact execEstIteration_tidy hs
  · exact execLsqSolve_tidy hs
  · exact execDspIteration_tidy hs
  · exact execFactorisationEnd_tidy hs
  · exact execPreemptSaveEnd_tidy hs
  · exact execRestoreEnd_tidy hs
  · exact execJobEnd_tidy hs
  · exact execStopInstant_tidy hs
  · exact execAbort_tidy hs
  · exact execResume_tidy hs
  · exact execAbortStalled_tidy hs
  · exact execInvalidate_tidy hs
  · exact execTplReload_tidy hs
  · exact execReloadAll_tidy hs
  · exact execTplDone_tidy hs
  · exact execTick_tidy hs
  · exact execWindowEnd_tidy hs
  · exact execZeroCrossing_tidy hs
  · exact execNozcTimeout_tidy hs
  · exact execRtdConversion_tidy hs
  · exact execViewTableWrite_tidy hs
  · exact execBlockStore_tidy hs
  · exact execCheckpoint_tidy hs
  · exact execLaneEnable_tidy hs
  · exact execLaneDisable_tidy hs
  · exact execLaneReload_tidy hs
  · exact execLaneClr_tidy hs
  · exact execSnap_tidy hs
  · exact execTotalsCommit_tidy hs
  · exact execSwitchFrameRx_tidy hs
  · exact execCpuTail_tidy hs
  · exact execFrameTxDone_tidy hs
  · exact execAddressAgeing_tidy hs
  · exact execBrFlush_tidy hs
  · exact execFollowupExpiry_tidy hs
  · exact execPortLinkChange_tidy hs
  · exact execStep_tidy hs
  · exact execSet_tidy hs
  · exact execSlew_tidy hs
  · exact execSlewDone_tidy hs
  · exact execTbReadLatch_tidy hs
  · exact execSyncedWrite_tidy hs
  · exact execTb3OfsCommit_tidy hs
  · exact execTb3SrcChange_tidy hs
  · exact execHoldoverExpiry_tidy hs
  · exact execTpPulse_tidy hs
  · exact execTpPulseEnd_tidy hs
  · exact execTcCapture_tidy hs
  · exact execTcPop_tidy hs
  · exact execDiEdge_tidy hs
  · exact execEdgePop_tidy hs
  · exact execVfldMeasure_tidy hs
  · exact execUvChg_tidy hs
  · exact execDiRestart_tidy hs
  · exact execDoUpdate_tidy hs
  · exact execDoCurrentLimit_tidy hs
  · exact execThermalShutdown_tidy hs
  · exact execThermalRestart_tidy hs
  · exact execOffStateFault_tidy hs
  · exact execDoInhibit_tidy hs
  · exact execDoDiag_tidy hs
  · exact execTxReq_tidy hs
  · exact execTxAbort_tidy hs
  · exact execTxAttempt_tidy hs
  · exact execTxFrameEnd_tidy hs
  · exact execCanRxFrame_tidy hs
  · exact execRxAck_tidy hs
  · exact execCanBusError_tidy hs
  · exact execBusOffRecovery_tidy hs
  · exact execMapStale_tidy hs
  · exact execMapTxPeriod_tidy hs
  · exact execCanWakeStart_tidy hs
  · exact execCanWakeFrame_tidy hs
  · exact execCanWakeIdle_tidy hs
  · exact execJoin_tidy hs
  · exact execLeave_tidy hs
  · exact execTdmFault_tidy hs
  · exact execClrFault_tidy hs
  · exact execJoinCut_tidy hs
  · exact execJoinCaughtUp_tidy hs
  · exact execJoinTimeout_tidy hs
  · exact execInstant_tidy hs
  · exact execDeliv_tidy hs
  · exact execStartEntry_tidy hs
  · exact execLsample_tidy hs
  · exact execGpass_tidy hs
  · exact execForceEntry_tidy hs
  · exact execSolverEntry_tidy hs
  · exact execCmdEntry_tidy hs
  · exact execChangeEntry_tidy hs
  · exact execDigest_tidy hs
  · exact execTdmFrameResend_tidy hs
  · exact execStepLag_tidy hs
  · exact execLaneTDown_tidy hs
  · exact execArbCode_tidy hs
  · exact execArbDead_tidy hs
  · exact execWitnessDecision_tidy hs
  · exact execGrantToPartner_tidy hs
  · exact execTakeover_tidy hs
  · exact execSoloTimeout_tidy hs
  · exact execGolden_tidy hs
  · exact execLinkTest_tidy hs
  · exact execHealthReport_tidy hs
  · exact execHealthReportRx_tidy hs
  · exact execFeedLost_tidy hs
  · exact execFeedOk_tidy hs
  · exact execFeedOvercurrent_tidy hs
  · exact execPost_tidy hs
  · exact execEventAccept_tidy hs
  · exact execEvrFlush_tidy hs
  · exact execFlushPageCommit_tidy hs
  · exact execSeek_tidy hs
  · exact execNext_tidy hs
  · exact execWinDone_tidy hs
  · exact execEvrNonce_tidy hs
  · exact execEvrNonceExpiry_tidy hs
  · exact execClear_tidy hs
  · exact execClearVerifyEnd_tidy hs
  · exact execClearCommit_tidy hs
  iterate 17 · exact next_tidy (kstCmd_tidy hs)
  · exact execCmdDone_tidy hs
  · exact execKstNonceExpiry_tidy hs
  · exact execSealSign_tidy hs
  · exact execSlotCheck_tidy hs
  · exact execEntropyFail_tidy hs
  · exact execDbgAttach_tidy hs
  · exact execFabricTransaction_tidy hs
  · exact execFabTimeout_tidy hs
  · exact execDramRefresh_tidy hs
  · exact execHotChg_tidy hs
  · exact execPinCfg_tidy hs
  · exact execPinSel_tidy hs
  · exact execInval_tidy hs
  · exact execFaultPop_tidy hs
  iterate 4 · exact next_tidy (nfmCmd_tidy hs)
  · exact execNfmCmdDone_tidy hs
  · exact execScrubBurst_tidy hs
  · exact execScrubShort_tidy hs
  · exact execTruingStep_tidy hs
  · exact execNandCare_tidy hs
  · exact execTelemetry_tidy hs
  iterate 5 · exact next_tidy (sleepCmd_tidy hs)
  · exact execQuiesceEnd_tidy hs
  · exact execIdleTimeout_tidy hs
  · exact execCommitPoint_tidy hs
  · exact next_tidy (wake_tidy hs)
  · exact execPatternA_tidy hs
  · exact execWakeDi_tidy hs
  · exact execWakeTc_tidy hs
  iterate 2 · exact next_tidy (wake_tidy hs)
  · exact execExitRelease_tidy hs
  · exact execResumeCheck_tidy hs
  · exact execRtcSecond_tidy hs
  · exact execOscStop_tidy hs
  · exact execBrownOut_tidy hs
  · exact execHalt_tidy hs
  · exact execHaltRelease_tidy hs
  · exact execRtcSecWrite_tidy hs
  · exact execRtcSecRead_tidy hs
  · exact execRtcYearRead_tidy hs
  · exact execRtcSetRelease_tidy hs
  · exact execPeriodic_tidy hs
  · exact execRtcPerWrite_tidy hs
  · exact execVbatMeasure_tidy hs
  · exact execPnlOn_tidy hs
  · exact execPnlVddTimer_tidy hs
  · exact execPnlVaTimer_tidy hs
  · exact execPnlOff_tidy hs
  · exact execPnlDischargeEnd_tidy hs
  · exact execUpdCmd_tidy hs
  · exact execUpdateStart_tidy hs
  · exact execLineDone_tidy hs
  · exact execAonLoad_tidy hs
  · exact execAonLoadDone_tidy hs
  · exact execAonRefresh_tidy hs
  · exact execPfmWindowEnd_tidy hs
  · exact execRecDone_tidy hs
  · exact execPfmUserAccess_tidy hs
  · exact execPowerOn_tidy hs
  · exact execDeviceReset_tidy hs
  · exact execSysRstCmd_tidy hs
  · exact execLockstep_tidy hs
  · exact execTapReset_tidy hs
  · exact execResetRelease_tidy hs
  · exact execSysBootCmd_tidy hs
  · exact execSysHostGo_tidy hs
  · exact execPfRetSaveStart_tidy hs
  · exact execRetSetCommit_tidy hs
  · exact execHoldupEnd_tidy hs
  · exact execVholdCut_tidy hs
  · exact next_tidy (wrB_tidy hs)
  · exact execSampleBoundary_tidy hs
  · exact execCommonPeriodEnd_tidy hs
  · exact execDoFaultEnd_tidy hs
  · exact execFeedOvercurrentEnd_tidy hs
  · exact next_tidy (wrB_tidy hs)

theorem step_tidy (hs : s.Tidy q) : OutTidy q (step s) := by
  unfold step
  split
  · exact next_tidy (idle_tidy hs)
  · exact exec_tidy hs.frame _

end

/-- Settles O60: `Canonical` is `Tidy` with the lanes counted in, which every command and the idle cycle keep. -/
theorem stepKeepsCanonicalForm : Obligations.StepKeepsCanonicalForm := by
  intro s t hs hst
  exact tidy_true_iff.mp (step_tidy (tidy_true_iff.mpr hs) t hst)

/-- Settles O59: reset lists no memory, no register and no lane. -/
theorem resetIsCanonical : Obligations.ResetIsCanonical := ⟨memory_wf_reset, rfl, rfl⟩

end Sys2Proof.Machine
end

/-! # Ring stations (O27)

First what the shared operations do to the register map, then the parts of an arriving frame's way through the module: a conflict with
another master, the station's own segment, and the port it leaves by; then the mailbox services, each as one reply to the first request
held. The clauses of O27 are these facts on its commands. -/

section
namespace Sys2Proof.Machine

variable {s : State}

/-! ## Registers that the shared operations write -/

theorem rd_of_regGet {s t : State} {g : Fld} (h : t.regGet g.addr = s.regGet g.addr) : t.rd g = s.rd g := by
  unfold State.rd; rw [h]

/-- A cause is a bit of IRQ_RAW, and no other register changes. -/
theorem regGet_raise_ne {b : Blk} {n a : Nat} (h : a ≠ R.BLK_IRQ_RAW b) : (s.raise b n).regGet a = s.regGet a := by
  unfold State.raise
  split
  · rfl
  · exact regGet_regPut_ne s _ h

theorem frozen_raise {b c : Blk} {n : Nat} (h : R.BLK_CTRL b ≠ R.BLK_IRQ_RAW c) : (s.raise c n).frozen b = s.frozen b := by
  unfold State.frozen State.bit; rw [rd_of_regGet (regGet_raise_ne h)]

/-- A cause just raised is set, unless the block is frozen. -/
theorem raise_caused {b : Blk} {n : Nat} (hn : n < 32) : (s.raise b n).Caused b n := by
  intro hf
  rw [frozen_raise (Nat.ne_of_lt (Nat.add_lt_add_left (by decide) b.base))] at hf
  unfold State.raise
  rw [if_neg (by rw [hf]; exact Bool.false_ne_true), regGet_regPut_same, BitVec.getLsbD_or, BitVec.getLsbD_ofNat, Nat.testBit_two_pow_self]
  simp [hn]

theorem regGet_err_ne {b : Blk} {code woff a : Nat} (hi : a ≠ R.BLK_ERRINFO b) (hr : a ≠ R.BLK_IRQ_RAW b) :
    (s.err b code woff).regGet a = s.regGet a := by
  unfold State.err State.incSat
  rw [regGet_raise_ne hr, regGet_wr_ne _ _ hi, regGet_wr_ne _ _ hi, regGet_wr_ne _ _ hi]

/-- ERRINFO shows the error just recorded. -/
theorem err_erred {b : Blk} {code woff : Nat} (hc : code < 2 ^ 8) (hw : woff < 2 ^ 14) : (s.err b code woff).Erred b code woff := by
  have hr : R.BLK_ERRINFO b ≠ R.BLK_IRQ_RAW b := (Nat.ne_of_lt (Nat.add_lt_add_left (by decide) b.base)).symm
  unfold State.Erred State.err State.incSat
  constructor
  · rw [rd_of_regGet (regGet_raise_ne hr), rd_wr_disjoint _ _ (by norm_num) (by norm_num) (.inl (by norm_num)),
      rd_wr_disjoint _ _ (by norm_num) (by norm_num) (.inl (by norm_num)), rd_wr_same _ _ _ (by norm_num)]
    exact Nat.mod_eq_of_lt hc
  · rw [rd_of_regGet (regGet_raise_ne hr), rd_wr_disjoint _ _ (by norm_num) (by norm_num) (.inr (by norm_num)),
      rd_wr_same _ _ _ (by norm_num)]
    exact Nat.mod_eq_of_lt hw

/-- A dropped record counts in EVR's page. -/
theorem regGet_evrDrop {sev a : Nat} (h : blkAt a ≠ some .evr) : (s.evrDrop sev).regGet a = s.regGet a := by
  have hc : ∀ n : Fin 8, blkAt (R.EVR_DROPs n) = some .evr := by decide
  have hcnt : ∀ n : Fin 8, a ≠ R.EVR_DROPs n := fun n e => h (e ▸ hc n)
  have hraw : a ≠ R.BLK_IRQ_RAW .evr := fun e => h (e ▸ by decide)
  unfold State.evrDrop State.incSat
  simp only
  rw [regGet_raise_ne hraw, regGet_wr_ne _ _ (hcnt _)]
  rfl

/-- A record sent changes no register outside EVR's page. -/
theorem regGet_event {b : Blk} {n sev p0 p1 p2 p3 a : Nat} (h : blkAt a ≠ some .evr) :
    (s.event b n sev p0 p1 p2 p3).regGet a = s.regGet a := by
  unfold State.event State.send
  simp only
  split
  · rfl
  · exact regGet_evrDrop h

theorem regGet_raiseEv_ne {b : Blk} {n a : Nat} (hr : a ≠ R.BLK_IRQ_RAW b) (h : blkAt a ≠ some .evr) :
    (s.raiseEv b n).regGet a = s.regGet a := by
  unfold State.raiseEv; rw [regGet_event h, regGet_raise_ne hr]

/-! ## A master that stops (R20, R117, R382) -/

@[simp] theorem loseInstants_spk : s.loseInstants.spk = s.spk := by
  unfold State.loseInstants; simp only; split <;> simp

/-- No more instants are supplied. -/
@[simp] theorem loseInstants_ringSupplied : s.loseInstants.cad.ringSupplied = false := by
  unfold State.loseInstants; simp only; split <;> simp

theorem regGet_loseInstants {a : Nat} (h : blkAt a ≠ some .cad) : s.loseInstants.regGet a = s.regGet a := by
  have hl : a ≠ R.CAD_TASKn_STAT 0 := fun e => h (e ▸ by decide)
  have hr : a ≠ R.BLK_IRQ_RAW .cad := fun e => h (e ▸ by decide)
  unfold State.loseInstants
  simp only
  split
  · rw [regGet_raise_ne hr, regGet_wr_ne _ _ hl]; rfl
  · rfl

@[simp] theorem stopMaster_spk {st : Nat} : (s.stopMaster st).spk = { s.spk with due := none, pass := none, stopLeft := none } := by
  unfold State.stopMaster; rw [loseInstants_spk]; rfl

@[simp] theorem stopMaster_ringSupplied {st : Nat} : (s.stopMaster st).cad.ringSupplied = false := loseInstants_ringSupplied

theorem stopMaster_ringState {st : Nat} (h : st < 4) : (s.stopMaster st).ringState = st := by
  unfold State.ringState State.stopMaster
  rw [rd_of_regGet (regGet_loseInstants (by decide)), rd_wr_same _ _ _ (by decide)]
  exact Nat.mod_eq_of_lt h

theorem regGet_stopMaster {st a : Nat} (hc : blkAt a ≠ some .cad) (hr : a ≠ R.SPK_RING_STAT) : (s.stopMaster st).regGet a = s.regGet a := by
  unfold State.stopMaster; rw [regGet_loseInstants hc, regGet_wr_ne _ _ hr]; rfl

/-! ## Another master's frame (R20) -/

/-- A module that is BLOCKED stays as it is. -/
theorem masterConflict_blocked (h : s.ringState = 3) : s.masterConflict = s := if_pos h

theorem masterConflict_ringState : s.masterConflict.ringState = 3 := by
  by_cases h : s.ringState = 3
  · rw [masterConflict_blocked h, h]
  unfold State.masterConflict
  rw [if_neg h]
  unfold State.ringState
  rw [rd_of_regGet (regGet_raiseEv_ne (by decide) (by decide)), rd_of_regGet (regGet_err_ne (by decide) (by decide))]
  split
  · exact stopMaster_ringState (by decide)
  · exact rd_wr_same _ _ _ (by decide)

theorem masterConflict_erred (h : s.ringState ≠ 3) : s.masterConflict.Erred .spk 0x82 (woffOf .spk R.SPK_RING_STAT) := by
  have he := err_erred (s := if s.mastering then s.stopMaster 3 else s.wr F.SPK_RING_STAT_STATE 3) (b := .spk) (code := 0x82)
    (woff := woffOf .spk R.SPK_RING_STAT) (by decide) (by decide)
  unfold State.masterConflict
  rw [if_neg h]
  unfold State.Erred
  rw [rd_of_regGet (regGet_raiseEv_ne (by decide) (by decide)), rd_of_regGet (regGet_raiseEv_ne (by decide) (by decide))]
  exact he

/-- A cause raised with its event is set. -/
theorem raiseEv_caused {b : Blk} {n : Nat} (hn : n < 32) (hc : blkAt (R.BLK_CTRL b) ≠ some .evr) (hr : blkAt (R.BLK_IRQ_RAW b) ≠ some .evr) :
    (s.raiseEv b n).Caused b n := by
  intro hf
  unfold State.raiseEv at hf ⊢
  rw [regGet_event hr]
  refine raise_caused hn ?_
  rw [← hf]
  unfold State.frozen State.bit
  rw [rd_of_regGet (regGet_event hc)]

theorem masterConflict_caused (h : s.ringState ≠ 3) : s.masterConflict.Caused .spk 13 := by
  unfold State.masterConflict
  rw [if_neg h]
  exact raiseEv_caused (by decide) (by decide) (by decide)

/-- A conflict touches the pages of SPK, CAD and EVR alone. -/
theorem regGet_masterConflict {a : Nat} (hs : blkAt a ≠ some .spk) (hc : blkAt a ≠ some .cad) (he : blkAt a ≠ some .evr) :
    s.masterConflict.regGet a = s.regGet a := by
  have hst : a ≠ R.SPK_RING_STAT := fun e => hs (e ▸ by decide)
  have hraw : a ≠ R.BLK_IRQ_RAW .spk := fun e => hs (e ▸ by decide)
  have hinfo : a ≠ R.BLK_ERRINFO .spk := fun e => hs (e ▸ by decide)
  unfold State.masterConflict
  split
  · rfl
  rw [regGet_raiseEv_ne hraw he, regGet_err_ne hinfo hraw]
  split
  · exact regGet_stopMaster hc hst
  · exact regGet_wr_ne _ _ hst

theorem masterConflict_spk_of_mastering (h : s.ringState ≠ 3) (hm : s.mastering = true) :
    s.masterConflict.spk = { s.spk with due := none, pass := none, stopLeft := none } := by
  unfold State.masterConflict
  rw [if_neg h, if_pos hm, raiseEv_spk, err_spk, stopMaster_spk]

theorem masterConflict_ringSupplied_of_mastering (h : s.ringState ≠ 3) (hm : s.mastering = true) :
    s.masterConflict.cad.ringSupplied = false := by
  unfold State.masterConflict
  rw [if_neg h, if_pos hm, raiseEv_cad, err_cad, stopMaster_ringSupplied]

theorem masterConflict_spk_of_idle (hm : s.mastering = false) : s.masterConflict.spk = s.spk := by
  unfold State.masterConflict
  split
  · rfl
  · rw [hm, if_neg Bool.false_ne_true, raiseEv_spk, err_spk, wr_spk]

/-! ## Deliveries change neither registers nor SPK -/

@[simp] theorem emit_regs {e : TdmEntry} : (s.emit e).regs = s.regs := by unfold State.emit; split <;> rfl
@[simp] theorem emit_spk {e : TdmEntry} : (s.emit e).spk = s.spk := by unfold State.emit; split <;> rfl
@[simp] theorem emit_mtr {e : TdmEntry} : (s.emit e).mtr = s.mtr := by unfold State.emit; split <;> rfl

/-- Everything a delivery to the live image can do: nothing, or a slot is written and the partner is told. -/
theorem deliverNow_cases (d : Delivery) : s.deliverNow d = s ∨ ∃ k v st e, s.deliverNow d = (s.putLive k v st).emit e := by
  unfold State.deliverNow
  split
  · exact .inl rfl
  split
  · exact .inl rfl
  split
  · exact .inl rfl
  · exact .inr ⟨_, _, _, _, rfl⟩

/-- A delivery leaves registers, SPK and what MTR received. -/
theorem deliver_frame {sig qual age : Nat} {v : Word} :
    (s.deliver sig v qual age).regs = s.regs ∧ (s.deliver sig v qual age).spk = s.spk ∧ (s.deliver sig v qual age).mtr = s.mtr := by
  unfold State.deliver
  split
  · exact ⟨rfl, rfl, rfl⟩
  split
  · exact ⟨rfl, rfl, rfl⟩
  obtain h | ⟨k, w, st, e, h⟩ := deliverNow_cases (s := s) ⟨sig, v, qual, age⟩ <;> rw [h]
  · exact ⟨rfl, rfl, rfl⟩
  · exact ⟨emit_regs, emit_spk, emit_mtr⟩

@[simp] theorem deliverIn_regs {sig qual age : Nat} {v : Word} : (s.deliverIn sig v qual age).regs = s.regs := deliver_frame.1
@[simp] theorem deliverIn_spk {sig qual age : Nat} {v : Word} : (s.deliverIn sig v qual age).spk = s.spk := deliver_frame.2.1

/-- MTR receives what is delivered (R288). -/
theorem deliverIn_received {sig qual age : Nat} {v : Word} :
    Sparse.get (s.deliverIn sig v qual age).mtr.inputs none sig = some (v, qual) := by
  unfold State.deliverIn
  rw [deliver_frame.2.2]
  exact sparse_get_put_same s.mtr.inputs none sig (some (v, qual))

theorem deliverOutputs_frame : s.deliverOutputs.regs = s.regs ∧ s.deliverOutputs.spk = s.spk := by
  unfold State.deliverOutputs
  refine List.foldlRecOn (motive := fun t : State => t.regs = s.regs ∧ t.spk = s.spk) _ _ ⟨rfl, rfl⟩ fun t ⟨hr, hs⟩ w _ => ?_
  dsimp only
  split
  · exact ⟨hr, hs⟩
  split
  · exact ⟨deliverIn_regs.trans hr, deliverIn_spk.trans hs⟩
  · exact ⟨deliverIn_regs.trans hr, deliverIn_spk.trans hs⟩

@[simp] theorem deliverOutputs_regs : s.deliverOutputs.regs = s.regs := deliverOutputs_frame.1
@[simp] theorem deliverOutputs_spk : s.deliverOutputs.spk = s.spk := deliverOutputs_frame.2

/-! ## Frames that leave (R163, R164, R167) -/

/-- Both ring ports are in MODE RING (R153). -/
def State.RingPorts (s : State) : Prop := ∀ p : Nat, p < 2 → s.rd (F.NET_PORTn_CFG_MODE p) = 0

theorem ringPorts_of_takesFrame {f : SpokeFrame} (h : s.takesFrame f = true) : s.RingPorts := by
  simp only [State.takesFrame, State.forwards, Bool.and_eq_true, beq_iff_eq] at h
  obtain ⟨⟨⟨⟨⟨-, hA⟩, hB⟩, -⟩, -⟩, -⟩ := h
  intro p hp
  obtain rfl | rfl : p = 0 ∨ p = 1 := by omega
  · exact hA
  · exact hB

theorem ringPorts_congr {s t : State} (h : ∀ p : Nat, p < 2 → t.regGet (R.NET_PORTn_CFG p) = s.regGet (R.NET_PORTn_CFG p)) (hs : s.RingPorts) :
    t.RingPorts := fun p hp => (rd_of_regGet (h p hp)).trans (hs p hp)

/-- How a processed frame leaves: the port, and the frame with HOPS + 1, in loop-back with LOOPED. -/
def State.leaving (s : State) (port : Fin 2) (f : SpokeFrame) : Nat × SpokeFrame :=
  if s.looping then (port.val, { f with body := setLooped (incHops f.body) }) else (1 - port.val, { f with body := incHops f.body })

theorem passOn_eq {port : Fin 2} {f : SpokeFrame} (h : s.RingPorts) :
    s.passOn port f = { s with spk := { s.spk with tx := s.spk.tx ++ [s.leaving port f] } } := by
  unfold State.passOn State.leaving State.sendRing
  simp only
  split
  · rw [if_pos (h _ port.isLt)]
  · rw [if_pos (h _ (by omega))]

/-! ## Arrival of a frame while the module is single -/

theorem ringArrive_drop {port : Fin 2} {partner : Bool} {f : SpokeFrame} (h : s.takesFrame f = false) :
    s.ringArrive port partner f = s.clearTx := by
  have h0 : s.clearTx.takesFrame f = false := h
  simp [State.ringArrive, h0]

/-- A single module that has judged a frame of its ring: another master's frame of VER 1 is a conflict in plant role (R20). -/
def State.judged (s : State) (partner : Bool) (f : SpokeFrame) : State :=
  if hVer f.body = 1 ∧ s.plant = true ∧ partner = false then s.clearTx.masterConflict else s.clearTx

theorem judged_calm {partner : Bool} {f : SpokeFrame} (h : s.plant = false ∨ partner = true ∨ hVer f.body ≠ 1 ∨ s.ringState = 3) :
    s.judged partner f = s.clearTx := by
  unfold State.judged
  split
  · rename_i hx
    obtain ⟨hv, hp, hq⟩ := hx
    obtain h | h | h | h := h
    · exact absurd (hp.symm.trans h) (by decide)
    · exact absurd (hq.symm.trans h) (by decide)
    · exact absurd hv h
    · exact masterConflict_blocked h
  · rfl

/-- What a single module does with a frame: it is judged, then processed where segment processing runs, then passed on. -/
theorem ringArrive_single {port : Fin 2} {partner : Bool} {f : SpokeFrame} (h : s.takesFrame f = true) (ht : s.tandem = false) :
    s.ringArrive port partner f =
      let s1 := s.judged partner f
      let r := if s1.stationRole && s1.runs .spk then s1.stationProcess f else (s1, f)
      r.1.passOn port r.2 := by
  have h0 : s.clearTx.takesFrame f = true := h
  have ht0 : s.clearTx.tandem = false := ht
  have hp0 : s.clearTx.plant = s.plant := rfl
  unfold State.ringArrive State.judged
  simp only [h0, ht0, hp0]
  by_cases hv : hVer f.body = 1 <;> cases s.plant <;> cases partner <;> simp [hv]

/-- A frame that is not processed is passed on as it came. -/
theorem ringArrive_unprocessed {port : Fin 2} {partner : Bool} {f : SpokeFrame} (h : s.takesFrame f = true) (ht : s.tandem = false)
    (hr : (s.judged partner f).stationRole = false ∨ (s.judged partner f).runs .spk = false) :
    s.ringArrive port partner f = (s.judged partner f).passOn port f := by
  have hno : ¬ ((s.judged partner f).stationRole && (s.judged partner f).runs .spk) = true := by
    obtain hr | hr := hr <;> simp [hr]
  rw [ringArrive_single h ht]
  simp only [if_neg hno]

/-- ROLE plant is no station or witness role. -/
theorem stationRole_of_plant (h : s.plant = true) : s.stationRole = false := by
  simp only [State.plant, Bool.and_eq_true, beq_iff_eq] at h
  simp [State.stationRole, h.1]

theorem plant_of_stationRole (h : s.stationRole = true) : s.plant = false := by
  cases hp : s.plant
  · rfl
  · rw [stationRole_of_plant hp] at h; cases h

theorem masterConflict_stationRole : s.masterConflict.stationRole = s.stationRole := by
  have h : s.masterConflict.regGet R.SYS_ROLE = s.regGet R.SYS_ROLE := regGet_masterConflict (by decide) (by decide) (by decide)
  unfold State.stationRole State.role State.bit
  rw [rd_of_regGet (g := F.SYS_ROLE_ROLE) h, rd_of_regGet (g := F.SYS_ROLE_DEFAULTED) h]

theorem masterConflict_ringPorts (h : s.RingPorts) : s.masterConflict.RingPorts := by
  refine ringPorts_congr (fun p hp => ?_) h
  obtain rfl | rfl : p = 0 ∨ p = 1 := by omega
  · exact regGet_masterConflict (by decide) (by decide) (by decide)
  · exact regGet_masterConflict (by decide) (by decide) (by decide)

/-- A conflict sends nothing and leaves loop-back as it is. -/
theorem masterConflict_tx : s.masterConflict.spk.tx = s.spk.tx ∧ s.masterConflict.looping = s.looping := by
  unfold State.looping
  by_cases h : s.ringState = 3
  · rw [masterConflict_blocked h]; exact ⟨rfl, rfl⟩
  cases hm : s.mastering
  · rw [masterConflict_spk_of_idle hm]; exact ⟨rfl, rfl⟩
  · rw [masterConflict_spk_of_mastering h hm]; exact ⟨rfl, rfl⟩

/-- A frame that is no conflict and not processed leaves, and nothing else changes (R163, R164, R167). -/
theorem ringArrive_forward {port : Fin 2} {partner : Bool} {f : SpokeFrame} (h : s.takesFrame f = true) (ht : s.tandem = false)
    (hr : s.stationRole = false ∨ s.runs .spk = false) (hc : s.plant = false ∨ partner = true ∨ hVer f.body ≠ 1 ∨ s.ringState = 3) :
    s.ringArrive port partner f = { s with spk := { s.spk with tx := [s.leaving port f] } } := by
  have hj := judged_calm hc
  have hp : s.clearTx.RingPorts := ringPorts_of_takesFrame (s := s) h
  rw [ringArrive_unprocessed h ht (by rw [hj]; exact hr), hj, passOn_eq hp]
  rfl

/-- Another master's frame is a conflict for a plant-role module, and is passed on (R20, R153). -/
theorem ringArrive_conflict {port : Fin 2} {f : SpokeFrame} (h : s.takesFrame f = true) (ht : s.tandem = false) (hp : s.plant = true)
    (hv : hVer f.body = 1) :
    s.ringArrive port false f =
      let t := s.clearTx.masterConflict
      { t with spk := { t.spk with tx := [s.leaving port f] } } := by
  have hj : s.judged false f = s.clearTx.masterConflict := if_pos ⟨hv, hp, rfl⟩
  have hrole : s.clearTx.masterConflict.stationRole = false := masterConflict_stationRole.trans (stationRole_of_plant hp)
  have hports : s.clearTx.masterConflict.RingPorts := masterConflict_ringPorts (ringPorts_of_takesFrame (s := s) h)
  obtain ⟨htx, hloop⟩ := masterConflict_tx (s := s.clearTx)
  have hl : s.clearTx.masterConflict.leaving port f = s.leaving port f := by unfold State.leaving; rw [hloop]; rfl
  rw [ringArrive_unprocessed h ht (by rw [hj]; exact .inl hrole), hj, passOn_eq hports, htx, hl]
  rfl

/-! ## A running station and its segment (R161, R165, R166) -/

/-- A copy seen begins its pass at most: the station's own data and the instant change (R156, R161). -/
theorem newPass_frame (b : List Byte) (fcs : Bool) :
    (s.newPass b fcs).regs = s.regs ∧ (s.newPass b fcs).tb2 = s.tb2 ∧
    (s.newPass b fcs).spk = { s.spk with stn := (s.newPass b fcs).spk.stn, lastInstant := (s.newPass b fcs).spk.lastInstant } := by
  unfold State.newPass
  simp only
  split
  · exact ⟨rfl, rfl, rfl⟩
  split <;> exact ⟨rfl, rfl, rfl⟩

/-- Seeing a copy neither starts nor ends substitution. -/
theorem newPass_subst (b : List Byte) (fcs : Bool) : (s.newPass b fcs).spk.stn.subst = s.spk.stn.subst := by
  unfold State.newPass
  simp only
  repeat' split
  all_goals rfl

/-- The station's own entry is the one before the copy. -/
theorem newPass_own (b : List Byte) (fcs : Bool) :
    (s.newPass b fcs).node = s.node ∧ (s.newPass b fcs).spoke (s.newPass b fcs).node = s.spoke s.node := by
  obtain ⟨hr, -, hs⟩ := newPass_frame (s := s) b fcs
  have hn : (s.newPass b fcs).node = s.node := rd_congr hr F.SYS_ROLE_NODE
  refine ⟨hn, ?_⟩
  unfold State.spoke
  rw [hn, hs]

/-- Nothing is taken from a copy that is not intact, and nothing more in a pass that was taken from. -/
theorem takeOutputs_skip {b : List Byte} {o : Nat} {intact : Bool} (h : intact = false ∨ s.spk.stn.took = true) :
    s.takeOutputs b o intact = s := by
  unfold State.takeOutputs
  obtain h | h := h <;> simp [h]

/-- Everything taking outputs can do: nothing, or the station's own data change and the outputs are delivered. -/
theorem takeOutputs_cases (b : List Byte) (o : Nat) (intact : Bool) :
    s.takeOutputs b o intact = s ∨ ∃ x, s.takeOutputs b o intact = ({ s with spk := { s.spk with stn := x } } : State).deliverOutputs := by
  unfold State.takeOutputs
  exact (Classical.em _).imp (fun h => if_pos h) fun h => ⟨_, if_neg h⟩

theorem takeOutputs_frame (b : List Byte) (o : Nat) (intact : Bool) :
    (s.takeOutputs b o intact).regs = s.regs ∧
    (s.takeOutputs b o intact).spk = { s.spk with stn := (s.takeOutputs b o intact).spk.stn } := by
  obtain h | ⟨x, h⟩ := takeOutputs_cases (s := s) b o intact <;> rw [h]
  · exact ⟨rfl, rfl⟩
  · rw [deliverOutputs_regs, deliverOutputs_spk]
    exact ⟨rfl, rfl⟩

/-- What a station holds after it took an untagged intact copy (R165, R166). -/
theorem takeOutputs_stn {b : List Byte} {o : Nat} {intact : Bool} (hi : intact = true) (ht : hTagged b = false) (h : s.spk.stn.took = false) :
    let x := (s.takeOutputs b o intact).spk.stn
    x.took = true ∧ x.takenAt = s.nowNs ∧ x.out = ((areaOf b).drop (o + 4)).take (s.spoke s.node).cfg.outLen ∧
      x.subst = ((beAt (areaOf b) o 4).testBit 8 || (!(beAt (areaOf b) o 4).testBit 9 && s.spk.stn.subst)) := by
  unfold State.takeOutputs
  simp only [hi, h, ht, Bool.not_true, Bool.false_and, Bool.or_false, Bool.false_eq_true, if_false, deliverOutputs_spk, true_and]
  cases (beAt (areaOf b) o 4).testBit 8 <;> cases (beAt (areaOf b) o 4).testBit 9 <;> rfl

/-- A running station out of loop-back meets an untagged copy that carries its segment at offset `o`, needs no tag there, and its entry
is not in ERROR (R153, R163, R165, R167). -/
structure State.OwnSegment (s : State) (f : SpokeFrame) (o : Nat) : Prop where
  role : s.stationRole = true
  runs : s.runs .spk = true
  takes : s.takesFrame f = true
  single : s.tandem = false
  straight : s.looping = false
  ver : hVer f.body = 1
  unlooped : hLooped f.body = false
  untagged : hTagged f.body = false
  found : s.mySegment f.body = some o
  noTag : s.frameTagged (s.spoke s.node).cfg.tagged = false
  usable : (s.spoke s.node).st.state ≠ 6

theorem State.OwnSegment.clearTx {f : SpokeFrame} {o : Nat} (h : s.OwnSegment f o) : s.clearTx.OwnSegment f o :=
  ⟨h.role, h.runs, h.takes, h.single, h.straight, h.ver, h.unlooped, h.untagged, h.found, h.noTag, h.usable⟩

/-- The copy that a station sends on: its status and its inputs, as it stands, written into its segment (R161, R165). -/
def State.written (s : State) (f : SpokeFrame) (o : Nat) : SpokeFrame :=
  { f with body := patch f.body (16 + o + 4 + (s.spoke s.node).cfg.outLen) (beBytes 4 (s.stationStatus s.stationInputs.2) ++ s.stationInputs.1) }

/-- A station writes its own segment as it stood, and takes the outputs (R161, R165). -/
theorem stationProcess_segment {f : SpokeFrame} {o : Nat} (h : s.OwnSegment f o) :
    s.stationProcess f = ((s.newPass f.body f.fcs).takeOutputs f.body o f.fcs, (s.newPass f.body f.fcs).written f o) := by
  obtain ⟨hr, -, -⟩ := newPass_frame (s := s) f.body f.fcs
  obtain ⟨hn, hown⟩ := newPass_own (s := s) f.body f.fcs
  have hm : (s.newPass f.body f.fcs).mySegment f.body = some o := by
    rw [← h.found]
    unfold State.mySegment
    rw [hn]
  have hkey : (s.newPass f.body f.fcs).stationKey f.body = some none := by
    have hk : (s.newPass f.body f.fcs).frameTagged (s.spoke s.node).cfg.tagged = false := by
      rw [← h.noTag]
      unfold State.frameTagged State.bit
      rw [rd_congr hr]
    unfold State.stationKey
    simp only [h.untagged, hown, hk, Bool.false_eq_true, if_false]
  unfold State.stationProcess
  simp only [h.ver, h.untagged, h.unlooped, h.usable, hown, hm, ne_eq, not_true, if_false, Bool.false_eq_true, Bool.false_or, beq_iff_eq]
  unfold State.processSegment State.tagHeld State.written
  simp only [hkey, Option.isSome_none, Bool.false_eq_true, if_false, Bool.and_true]

/-- A frame with the station's segment arrives: it leaves as written, and the station took what there was to take. -/
theorem ringArrive_segment {port : Fin 2} {f : SpokeFrame} {o : Nat} (h : s.OwnSegment f o) :
    let s1 := s.clearTx.newPass f.body f.fcs
    let t := s1.takeOutputs f.body o f.fcs
    s.ringArrive port false f =
      { t with spk := { t.spk with tx := [(1 - port.val, { f with body := incHops (s1.written f o).body })] } } := by
  intro s1 t
  have hj : s.judged false f = s.clearTx := judged_calm (.inl (plant_of_stationRole h.role))
  have hp : (s.clearTx.stationRole && s.clearTx.runs .spk) = true := by rw [h.clearTx.role, h.clearTx.runs]; rfl
  have hproc : s.clearTx.stationProcess f = (t, s1.written f o) := stationProcess_segment h.clearTx
  obtain ⟨hregs1, -, hspk1⟩ := newPass_frame (s := s.clearTx) f.body f.fcs
  obtain ⟨hregs2, hspk2⟩ := takeOutputs_frame (s := s1) f.body o f.fcs
  have hports : t.RingPorts := ringPorts_congr (s := s) (fun p _ => regGet_congr (hregs2.trans hregs1) _) (ringPorts_of_takesFrame h.takes)
  have htx : t.spk.tx = [] := by rw [hspk2, hspk1]; rfl
  have hloop : t.looping = false := by unfold State.looping; rw [hspk2, hspk1]; exact h.straight
  rw [ringArrive_single h.takes h.single, hj]
  simp only [if_pos hp, hproc]
  rw [passOn_eq hports, htx]
  unfold State.leaving
  rw [hloop]
  rfl

/-! ## Mailbox services (R187, R188) -/

/-- A running station on a live engine holds request `q` first. -/
def State.Asked (s : State) (q : MbxMsg) (rest : List MbxMsg) : Prop :=
  s.Live .spk ∧ s.spk.stn.req = q :: rest ∧ s.stationRole = true ∧ s.runs .spk = true

/-- A request was answered: it leaves, and the reply is the last up message. -/
def State.Replied (s : State) (q : MbxMsg) (rest : List MbxMsg) (st : Nat) (data : List Byte) (t : State) : Prop :=
  t.spk.stn.req = rest ∧ t.mem = s.mem ∧ t.spk.stn.upSeq = seqAfter s.spk.stn.upSeq ∧
    t.spk.stn.up = s.spk.stn.up ++ [{ seq := s.spk.stn.upSeq, service := q.service, status := st, payload := data }]

section
variable {q : MbxMsg} {rest : List MbxMsg}

/-- The station's own data once its first request was answered: the requests left, and the reply, if there is one, as the last up message. -/
def Stn.answered (x : Stn) (rest : List MbxMsg) (service : Nat) : Option (Nat × List Byte) → Stn
  | none => { x with req := rest }
  | some (st, p) =>
    { x with req := rest, up := x.up ++ [{ seq := x.upSeq, service := service, status := st, payload := p }], upSeq := seqAfter x.upSeq }

/-- The first request is answered by its service. -/
theorem answer_first {n : Nat} {k : MbxMsg → State → State × Option (Nat × List Byte)} (h : s.Asked q rest) (hq : q.service = n) :
    s.answer n k = { (k q s).1 with spk := { (k q s).1.spk with stn := (k q s).1.spk.stn.answered rest n (k q s).2 } } := by
  obtain ⟨hlive, hreq, hrole, hrun⟩ := h
  unfold State.answer
  rw [whileLive_live hlive]
  simp only [hreq, hrole, hrun, hq, ne_eq, not_true, decide_false, Bool.not_true, Bool.or_self, Bool.false_eq_true, if_false]
  obtain ⟨s1, _ | ⟨st, p⟩⟩ := k q s <;> rfl

/-- A service that replies and leaves memory and the station's own data; it may have set registers. -/
theorem answer_replied {n : Nat} {k : MbxMsg → State → State × Option (Nat × List Byte)} (h : s.Asked q rest) (hq : q.service = n)
    {s1 : State} {st : Nat} {data : List Byte} (hk : k q s = (s1, some (st, data))) (hm : s1.mem = s.mem) (hs : s1.spk = s.spk) :
    s.Replied q rest st data (s.answer n k) ∧ (s.answer n k).regs = s1.regs := by
  rw [answer_first h hq, hk]
  refine ⟨?_, rfl⟩
  unfold State.Replied
  simpa only [Stn.answered, hs, hq, true_and, and_true] using hm

theorem ident_replied (h : s.Asked q rest) (hq : q.service = 1) (hp : q.payload = []) : s.Yields .ident (s.Replied q rest 0 s.identReply) :=
  ⟨_, rfl, (answer_replied h hq (congrArg (fun r => (s, some r)) (if_pos hp)) rfl rfl).1⟩

theorem ident_refused (h : s.Asked q rest) (hq : q.service = 1) (hp : q.payload ≠ []) : s.Yields .ident (s.Replied q rest 5 []) :=
  ⟨_, rfl, (answer_replied h hq (congrArg (fun r => (s, some r)) (if_neg hp)) rfl rfl).1⟩

theorem paramRead_bad_length (h : s.Asked q rest) (hq : q.service = 2) (hl : q.payload.length ≠ 6) :
    s.Yields .paramRead (s.Replied q rest 5 []) :=
  ⟨_, rfl, (answer_replied h hq (if_pos hl) rfl rfl).1⟩

theorem paramRead_unknown (h : s.Asked q rest) (hq : q.service = 2) (hl : q.payload.length = 6) (hp : s.param (beAt q.payload 0 4) = none) :
    s.Yields .paramRead (s.Replied q rest 2 []) := by
  refine ⟨_, rfl, (answer_replied h hq (s1 := s) ?_ rfl rfl).1⟩
  simp only [hl, hp, ne_eq, not_true, if_false]

theorem paramRead_known (h : s.Asked q rest) (hq : q.service = 2) {p : List Byte} (hl : q.payload.length = 6)
    (hp : s.param (beAt q.payload 0 4) = some p) (hn : p.length = beAt q.payload 4 2) :
    s.Yields .paramRead (s.Replied q rest 0 p) := by
  refine ⟨_, rfl, (answer_replied h hq (s1 := s) ?_ rfl rfl).1⟩
  simp only [hl, hp, hn, ne_eq, not_true, if_false, if_true]

/-- The watchdog time is set and read back (R168, R188). -/
theorem setParam_watchdog {v : List Byte} (h : beAt v 0 4 ≤ 65535) : (s.setParam 1 v).rd F.SPK_STN_WD_WD_MS = beAt v 0 4 := by
  have hne : F.SPK_STN_WD_WD_MS.addr ≠ (F.BLK_STAT_SUM_PEND .spk).addr := by decide
  unfold State.setParam
  rw [if_pos rfl]
  unfold State.sumPend
  rw [rd_wr_ne _ _ hne, rd_wr_same _ _ _ (by decide)]
  exact Nat.mod_eq_of_lt (Nat.lt_succ_of_le h)

theorem paramWrite_watchdog (h : s.Asked q rest) (hq : q.service = 3) (hl : q.payload.length = 8) (hi : beAt q.payload 0 4 = 1)
    (hlo : 1 ≤ beAt (q.payload.drop 4) 0 4) (hhi : beAt (q.payload.drop 4) 0 4 ≤ 65535) :
    s.Yields .paramWrite fun t => s.Replied q rest 0 [] t ∧ t.rd F.SPK_STN_WD_WD_MS = beAt (q.payload.drop 4) 0 4 := by
  have hlen : (beBytes 4 (s.rd F.SPK_STN_WD_WD_MS)).length = (q.payload.drop 4).length := by
    rw [List.length_drop, hl]; rfl
  refine ⟨_, rfl, And.imp_right (fun hr => (rd_congr hr _).trans (setParam_watchdog hhi))
    (answer_replied h hq (s1 := s.setParam 1 (q.payload.drop 4)) ?_ rfl rfl)⟩
  simp [hl, hi, State.param, hlen, hlo, hhi]

/-- One record of 8 bytes: it is delivered by signal ID, or not at all for a reserved quality. -/
theorem pointBulk_one (h : s.Asked q rest) (hq : q.service = 4) (hl : q.payload.length = 8) :
    s.Yields .pointBulk fun t =>
      let s1 := if 6 < beAt q.payload 2 1 then s
        else s.deliverIn (s.node * 2 ^ 13 + beAt q.payload 0 2 % 2 ^ 13) (BitVec.ofNat 32 (beAt q.payload 4 4)) (beAt q.payload 2 1) 0
      t = { s1 with spk := { s1.spk with stn := { s1.spk.stn with req := rest } } } := by
  refine ⟨_, rfl, ?_⟩
  rw [answer_first h hq]
  simp [hl, upto, Stn.answered]

end

/-! ## The clauses of O27 -/

theorem ringFrame_dropped {port : Fin 2} {partner : Bool} {f : SpokeFrame} (h : s.takesFrame f = false) :
    s.Yields (.ringFrameForward port partner f) fun t => t.spk.tx = [] ∧ t.regs = s.regs ∧ s.Spares t := by
  refine ⟨_, rfl, ?_⟩
  rw [ringArrive_drop h]
  exact ⟨rfl, rfl, rfl, rfl, rfl⟩

theorem ringFrame_forwarded {port : Fin 2} {partner : Bool} {f : SpokeFrame} (h : s.takesFrame f = true) (ht : s.tandem = false)
    (hr : s.stationRole = false ∨ s.runs .spk = false) (hc : s.plant = false ∨ partner = true ∨ hVer f.body ≠ 1 ∨ s.ringState = 3) :
    s.Yields (.ringFrameForward port partner f) fun t => t.regs = s.regs ∧ s.Spares t ∧ t.spk.tx = [s.leaving port f] := by
  refine ⟨_, rfl, ?_⟩
  rw [ringArrive_forward h ht hr hc]
  exact ⟨rfl, ⟨rfl, rfl, rfl⟩, rfl⟩

theorem ringFrame_blocks {port : Fin 2} {f : SpokeFrame} (h : s.takesFrame f = true) (ht : s.tandem = false) (hp : s.plant = true)
    (hv : hVer f.body = 1) (hst : s.ringState ≠ 3) (hl : s.looping = false) :
    s.Yields (.ringFrameForward port false f) fun t => t.ringState = 3 ∧
      (s.mastering = true → t.cad.ringSupplied = false ∧ t.spk.pass = none) ∧
      t.Erred .spk 0x82 (woffOf .spk R.SPK_RING_STAT) ∧ t.Caused .spk 13 ∧ t.spk.tx = [(1 - port.val, { f with body := incHops f.body })] := by
  have hst0 : s.clearTx.ringState ≠ 3 := hst
  refine ⟨_, rfl, ?_⟩
  rw [ringArrive_conflict h ht hp hv]
  refine ⟨masterConflict_ringState, fun hm => ⟨masterConflict_ringSupplied_of_mastering hst0 hm, ?_⟩, masterConflict_erred hst0,
    masterConflict_caused hst0, ?_⟩
  · exact congrArg Spk.pass (masterConflict_spk_of_mastering hst0 hm)
  · change [s.leaving port f] = _
    rw [State.leaving, hl]
    rfl

theorem stationSegment_written {port : Fin 2} {f : SpokeFrame} {o : Nat} (h : s.OwnSegment f o) :
    let s1 := s.clearTx.newPass f.body f.fcs
    let len := (s.spoke s.node).cfg.outLen
    let w := beAt (areaOf f.body) o 4
    s.Yields (.stationSegment port f) fun t => t.regs = s.regs ∧
      t.spk.tx = [(1 - port.val, { f with body := incHops (patch f.body (16 + o + 4 + len)
        (beBytes 4 (s1.stationStatus s1.stationInputs.2) ++ s1.stationInputs.1)) })] ∧
      (f.fcs = false ∨ s1.spk.stn.took = true → t.spk.stn = s1.spk.stn) ∧
      (f.fcs = true → s1.spk.stn.took = false → t.spk.stn.took = true ∧ t.spk.stn.takenAt = s.nowNs ∧
        t.spk.stn.out = ((areaOf f.body).drop (o + 4)).take len ∧
        t.spk.stn.subst = (w.testBit 8 || (!w.testBit 9 && s.spk.stn.subst))) := by
  intro s1 len w
  have hmine : (s.stationRole && (s.mySegment f.body).isSome) = true := by rw [h.role, h.found]; rfl
  obtain ⟨hregs, htb, -⟩ := newPass_frame (s := s.clearTx) f.body f.fcs
  obtain ⟨-, hown⟩ := newPass_own (s := s.clearTx) f.body f.fcs
  have hlen : (s1.spoke s1.node).cfg.outLen = len := by rw [hown]; rfl
  refine ⟨_, congrArg Host.Outcome.next (if_pos hmine), ?_⟩
  rw [ringArrive_segment h]
  refine ⟨(takeOutputs_frame (s := s1) f.body o f.fcs).1.trans hregs, ?_, fun hskip => ?_, fun hf htook => ?_⟩
  · rw [← hlen]; rfl
  · exact congrArg (·.spk.stn) (takeOutputs_skip (s := s1) hskip)
  · obtain ⟨h1, h2, h3, h4⟩ := takeOutputs_stn (s := s1) (o := o) hf h.untagged htook
    refine ⟨h1, h2.trans (congrArg tbNs htb), h3.trans ?_, h4.trans ?_⟩
    · rw [hlen]
    · rw [newPass_subst]; rfl

/-- A failed link puts the module in loop-back (R167). -/
theorem loopbackEngage_eq (hlive : s.Live .spk) (hf : s.forwards = true) (port : Fin 2) :
    exec (.loopbackEngage port) s = .next { s with spk := if port = 0 then { s.spk with loopA := true, syncA := none }
      else { s.spk with loopB := true, syncB := none } } := by
  change Host.Outcome.next _ = _
  rw [whileLive_live hlive, hf]
  simp only [Bool.not_true, Bool.false_eq_true, if_false]
  by_cases hp : port = 0
  · simp only [if_pos hp]
  · simp only [if_neg hp]

/-- Loop-back is left where the failed port has held synchronisation for 100 ms (R167). -/
theorem loopbackExit_eq (hlive : s.Live .spk) (port : Fin 2) :
    exec (.loopbackExit port) s = .next (if (if port = 0 then s.spk.loopA else s.spk.loopB) = true ∧
        ∃ n, (if port = 0 then s.spk.syncA else s.spk.syncB) = some n ∧ n + 100000000 ≤ s.nowNs then
      { s with spk := if port = 0 then { s.spk with loopA := false } else { s.spk with loopB := false } } else s) := by
  change Host.Outcome.next _ = _
  rw [whileLive_live hlive]
  by_cases hp : port = 0
  · simp only [if_pos hp]
    cases s.spk.syncA <;> simp
  · simp only [if_neg hp]
    cases s.spk.syncB <;> simp

theorem stationWatchdog_substitutes (hlive : s.Live .spk) (hs : s.stationRole = true) (hr : s.runs .spk = true)
    (he : (s.spoke s.node).st.state ≠ 6) (hw : s.spk.stn.takenAt + s.stationWd ≤ s.nowNs) :
    s.Yields .stationWatchdog fun t => t.spk.stn = { s.spk.stn with subst := true } ∧ t.regs = s.regs := by
  have hexec : exec .stationWatchdog s = .next (s.setSubst true).deliverOutputs := by
    change Host.Outcome.next _ = _
    rw [whileLive_live hlive]
    simp [hs, hr, he, Nat.not_lt.mpr hw]
  exact ⟨_, hexec, congrArg Spk.stn deliverOutputs_spk, deliverOutputs_regs⟩

theorem pointBulk_delivers {q : MbxMsg} {rest : List MbxMsg} (h : s.Asked q rest) (hq : q.service = 4) (hl : q.payload.length = 8) :
    s.Yields .pointBulk fun t => t.spk.stn = { s.spk.stn with req := rest } ∧ t.regs = s.regs ∧
      (beAt q.payload 2 1 ≤ 6 → Sparse.get t.mtr.inputs none (s.node * 2 ^ 13 + beAt q.payload 0 2 % 2 ^ 13) =
        some (BitVec.ofNat 32 (beAt q.payload 4 4), beAt q.payload 2 1)) ∧
      (6 < beAt q.payload 2 1 → t.mtr = s.mtr ∧ t.mem = s.mem) := by
  obtain ⟨t, ht, he⟩ := pointBulk_one h hq hl
  refine ⟨t, ht, ?_⟩
  by_cases hqual : 6 < beAt q.payload 2 1
  · simp only [if_pos hqual] at he
    subst he
    exact ⟨rfl, rfl, fun hle => absurd hqual (Nat.not_lt.mpr hle), fun _ => ⟨rfl, rfl⟩⟩
  · simp only [if_neg hqual] at he
    subst he
    exact ⟨congrArg (fun x : Spk => { x.stn with req := rest }) deliverIn_spk, deliverIn_regs, fun _ => deliverIn_received,
      fun hlt => absurd hlt hqual⟩

/-- Settles O27: each clause is the lemma above on its command. -/
theorem ringStations : Obligations.RingStations := by
  intro port f s leaves
  refine ⟨fun partner => ringFrame_dropped, fun partner h ht hr => ⟨ringFrame_forwarded h ht hr, ?_⟩, ?_, fun hlive => ?_⟩
  · rintro hp rfl hv hst hl
    exact ringFrame_blocks h ht hp hv hst hl
  · intro o hs hr h hT hloop hv hl ht hm hk he
    exact stationSegment_written ⟨hs, hr, h, hT, hloop, hv, hl, ht, hm, hk, he⟩
  refine ⟨fun hf => ⟨loopbackEngage_eq hlive hf 0, loopbackEngage_eq hlive hf 1⟩, fun n hn => ⟨fun hA hs => ?_, fun hB hs => ?_⟩,
    fun hs => ?_, fun hs hr he hw => stationWatchdog_substitutes hlive hs hr he hw, fun q rest hreq hrole hrun => ?_⟩
  · exact (loopbackExit_eq hlive 0).trans (congrArg _ (if_pos ⟨hA, n, hs, hn⟩))
  · exact (loopbackExit_eq hlive 1).trans (congrArg _ (if_pos ⟨hB, n, hs, hn⟩))
  · exact (loopbackExit_eq hlive 0).trans (congrArg _ (if_neg fun ⟨_, n, hn, _⟩ => nomatch hs.symm.trans hn))
  have ha : s.Asked q rest := ⟨hlive, hreq, hrole, hrun⟩
  refine ⟨fun hq => ⟨ident_replied ha hq, ident_refused ha hq⟩,
    fun hq => ⟨paramRead_bad_length ha hq, paramRead_unknown ha hq, fun p => paramRead_known ha hq⟩,
    fun hq hl hi hlo hhi => ?_, pointBulk_delivers ha⟩
  obtain ⟨t, ht, hrep, hwd⟩ := paramWrite_watchdog ha hq hl hi hlo hhi
  exact ⟨⟨t, ht, hrep⟩, t, ht, hwd⟩

end Sys2Proof.Machine
end

/-! # Register pages (O1 to O6, O57, O58)

First where the common registers of a page lie and which fields they have; then what a plain write and a plain read of a register do. The
clauses of O1 are these facts on its registers. -/

section
namespace Sys2Proof.Machine

variable {s : State} {m : Master} {b : Blk} {a : Nat} {v : Word}

/-! ## The pages of the blocks (R39, R45) -/

theorem mem_allBlks (b : Blk) : b ∈ allBlks := by
  cases b
  case can p => revert p; decide
  all_goals decide

/-- What holds of the blocks in the list holds of every block: a closed fact about pages is then decided block by block. -/
theorem forall_blk {P : Blk → Prop} (h : ∀ b ∈ allBlks, P b) (b : Blk) : P b := h b (mem_allBlks b)

theorem code_lt (b : Blk) : b.code < 0x18 := by revert b; exact forall_blk (by decide)
theorem inst_lt (b : Blk) : b.inst < 4 := by revert b; exact forall_blk (by decide)

/-- A page holds 16 KiB from its base on. -/
theorem blkAt_page (b : Blk) {o : Nat} (ho : o < 0x4000) : blkAt (b.base + o) = some b := by
  have hc := code_lt b
  have hi := inst_lt b
  have hin : ¬ (b.base + o < 0x10000000 ∨ 0x10180000 ≤ b.base + o) := by unfold Blk.base; omega
  have hpage : (b.base + o - 0x10000000) / 0x10000 = b.code := by unfold Blk.base; omega
  have hport : (b.base + o) % 0x10000 / 0x4000 = b.inst := by unfold Blk.base; omega
  unfold blkAt
  simp only [Bool.or_eq_true, decide_eq_true_eq, if_neg hin, hpage, hport]
  cases b <;> simp [Blk.code, Blk.inst]

theorem page_lt (b : Blk) {o : Nat} (ho : o < 0x4000) : b.base + o < 2 ^ 40 := by
  have hc := code_lt b
  have hi := inst_lt b
  unfold Blk.base; omega

theorem page_mod_four (b : Blk) {o : Nat} (ho : o % 4 = 0) : (b.base + o) % 4 = 0 := by unfold Blk.base; omega

theorem fieldsAt_irqEn (b : Blk) : fieldsAt (R.BLK_IRQ_EN b) = [⟨31, 0, .rw, decide (b = .kst), 0⟩] := by
  revert b; exact forall_blk (by decide)

/-- IRQ_EN of KST alone is monitor only (R429). -/
theorem monOnlyReg_irqEn (b : Blk) : monOnlyReg (R.BLK_IRQ_EN b) = decide (b = .kst) := by
  revert b; exact forall_blk (by decide)

/-! ## A write or read of a register that is no command (R40, R52, R57) -/

theorem exec_regWrite (ha : a < 2 ^ 40) (hrst : a ≠ R.SYS_RST_CMD) (hboot : a ≠ R.SYS_BOOT_CMD) (hgo : a ≠ R.SYS_HOST_GO) :
    exec (.regWrite m (BitVec.ofNat 40 a) v) s = .next (s.regWrite m a v) := by
  change execRegWrite m (BitVec.ofNat 40 a) v s = _
  unfold execRegWrite
  simp only [BitVec.toNat_ofNat, Nat.mod_eq_of_lt ha, hrst, hboot, hgo, decide_false, Bool.false_and, Bool.false_eq_true, if_false]

theorem regWrite_plain (ha : a % 4 = 0) (hb : blkAt a = some b) (hr : s.inSoftRst b = false) (hw : s.wordCommand m b a v = none) :
    s.regWrite m a v = s.writePage m b a v := by
  unfold State.regWrite
  simp only [ha, hb, hr, hw, ne_eq, not_true, Bool.false_eq_true, if_false, Option.getD_none]

theorem exec_rcRead (ha : a < 2 ^ 40) (hr : s.readCommand m a = none) :
    exec (.rcRead m (BitVec.ofNat 40 a)) s = .next (s.regRead m a) := by
  change execRcRead m (BitVec.ofNat 40 a) s = _
  unfold execRcRead
  simp only [BitVec.toNat_ofNat, Nat.mod_eq_of_lt ha, hr, Option.getD_none]

/-- The registers whose reads take free values: no rule fixes what they show at an instant. -/
def drawnReg (a : Nat) : Bool := a == R.SLV_TILE_STAT || a == R.FIO_DI_RAW || a == R.SLV_RUN

theorem regRead_plain (ha : a % 4 = 0) (hb : blkAt a = some b) (h : s.Answers b) (hd : drawnReg a = false) :
    s.regRead m a = ((s.clearRc a).latchHi a).reply ((s.mirror m b a).getD (s.fieldsWord a)) := by
  simp only [drawnReg, Bool.or_eq_false_iff, beq_eq_false_iff_ne] at hd
  obtain ⟨⟨htile, hdi⟩, hrun⟩ := hd
  unfold State.regRead
  simp only [ha, hb, h.1, h.2, htile, hdi, hrun, ne_eq, not_true, decide_false, Bool.false_or, Bool.false_and, Bool.false_eq_true, if_false]

/-- The LO registers whose read latches another register. -/
def latchesHi (a : Nat) : Bool :=
  [R.EVR_SEQ_LO, R.SPK_PASS_LO, R.TDM_OFS_LO, R.PWR_FW_TICKS_LO, R.PWR_RESs_LO 0, R.PWR_RESs_LO 1, R.PWR_RESs_LO 2, R.PWR_RESs_LO 3].contains a

theorem latchHi_other (h : latchesHi a = false) : s.latchHi a = s := by
  simp only [latchesHi, List.contains_cons, List.contains_nil, Bool.or_false, Bool.or_eq_false_iff, beq_eq_false_iff_ne] at h
  obtain ⟨h1, h2, h3, h4, h5, h6, h7, h8⟩ := h
  have hf : ([0, 1, 2, 3] : List (Fin 4)).find? (fun k : Fin 4 => R.PWR_RESs_LO k == a) = none := by
    rw [List.find?_eq_none]
    intro k hk
    fin_cases k <;> simp [Ne.symm h5, Ne.symm h6, Ne.symm h7, Ne.symm h8]
  unfold State.latchHi
  simp only [if_neg h1, if_neg h2, if_neg h3, if_neg h4, hf]

/-! ## Fields of class RW -/

/-- A write of an RW field that the master may write (R52). -/
theorem writeField_rw {hi lo : Nat} {mon : Bool} {r : Nat} (hm : mon = true → m = .mon) (ha : a ≠ R.BLK_CTRL b) :
    s.writeField m b a ⟨hi, lo, .rw, mon, r⟩ v =
      (if s.rd ⟨a, lo, hi - lo + 1⟩ = getBits v lo (hi - lo + 1) then s else s.wr ⟨a, lo, hi - lo + 1⟩ (getBits v lo (hi - lo + 1)), 0) := by
  have hmon : (mon && m != .mon) = false := by
    cases hx : mon
    · rfl
    · rw [hm hx]; rfl
  have hlock : s.lockedField b ⟨a, lo, hi - lo + 1⟩ .rw = false := by
    simp [State.lockedField, ha]
  unfold State.writeField
  simp only [hmon, hlock, ha, Bool.false_eq_true, if_false]
  split <;> rfl

/-- A field that is set, or that had the value already, reads the value, and no other field changes. -/
theorem rd_setField {f : Fld} (hf : f.lo + f.w ≤ 32) {x : Nat} (hx : x < 2 ^ f.w) : (if s.rd f = x then s else s.wr f x).rd f = x := by
  split
  · assumption
  · rw [rd_wr_same _ _ _ hf, Nat.mod_eq_of_lt hx]

theorem regGet_setField_ne {f : Fld} {x c : Nat} (hc : c ≠ f.addr) : (if s.rd f = x then s else s.wr f x).regGet c = s.regGet c := by
  split
  · rfl
  · exact regGet_wr_ne _ _ hc

theorem setField_keeps {f : Fld} {x : Nat} : s.Spares (if s.rd f = x then s else s.wr f x) ∧ (if s.rd f = x then s else s.wr f x).resp = s.resp := by
  split <;> exact ⟨⟨rfl, rfl, rfl⟩, rfl⟩

theorem getBits_whole (x : Word) : getBits x 0 32 = x.toNat := by
  simp [getBits, Nat.mod_eq_of_lt x.isLt]

theorem regGet_of_rd_whole {t : State} (h : t.rd ⟨a, 0, 32⟩ = v.toNat) : t.regGet a = v := by
  unfold State.rd at h
  rw [getBits_whole] at h
  exact BitVec.eq_of_toNat_eq h

end Sys2Proof.Machine
end

section
namespace Sys2Proof.Machine

variable {s : State} {m : Master} {b : Blk} {a : Nat} {v : Word}

/-! ## IRQ_EN of a page -/

/-- No command is spelt by a write of IRQ_EN: every block's commands have registers of their own (R52). -/
theorem wordCommand_irqEn (m : Master) (b : Blk) (v : Word) : s.wordCommand m b (R.BLK_IRQ_EN b) v = none := by
  have hexc : idxAt (fun n : Fin 8 => R.CAD_EXC_FLAGSn n) (R.BLK_IRQ_EN .cad) = none := by decide
  have hsnap : idxAt (fun k : Fin 8 => R.MTR_SNAPk_CTL k) (R.BLK_IRQ_EN .mtr) = none := by decide
  have hcompl : idxAt (fun t : Fin 5 => R.INT_TGT_COMPLETEt t) (R.BLK_IRQ_EN .int) = none := by decide
  have hcpu : ∀ c, idxAt (fun q : Fin 2 => R.NET_CPUq_IDX q) (R.BLK_IRQ_EN c) = none := forall_blk (by decide)
  have hadj : ∀ c, idxAt (fun n : Fin 4 => R.TSU_TBn_ADJ_CMD n) (R.BLK_IRQ_EN c) = none := forall_blk (by decide)
  have hpost : ∀ c, idxAt (fun c : Fin 8 => R.EVR_POSTc_CMD c) (R.BLK_IRQ_EN c) = none := forall_blk (by decide)
  have htx (p : Fin 4) : R.BLK_IRQ_EN (.can p) ≠ R.CAN_TX_CMD p := by revert p; decide
  have hack (p : Fin 4) : R.BLK_IRQ_EN (.can p) ≠ R.CAN_RX_ACK p := by revert p; decide
  unfold State.wordCommand
  cases b with
  | cad => simp +decide only [State.cadCommand, hexc, if_false, Option.map_none, ite_self]
  | slv => simp +decide only [State.slvCommand, if_false, ite_self]
  | spk | lpe => simp +decide only [State.loopCommand, if_false, ite_self, Bool.false_and, decide_false]
  | mtr => simp +decide only [State.mtrCommand, hsnap, if_false, Option.map_none, ite_self]
  | net | tsu => simp only [State.netCommand, hcpu, hadj]; simp +decide only [if_false, ite_self]
  | can p => simp only [State.canCommand, if_neg (htx p), if_neg (hack p)]
  | tdm => simp +decide only [State.tdmCommand, if_true, decide_true, Bool.true_or]
  | evr | kst | xlt | nfm => simp only [State.storeCommand, hpost]; simp +decide only [if_false, Option.map_none, ite_self]
  | pnl | rtc | fio => simp +decide only [State.fieldCommand, if_false, ite_self]
  | int => simp +decide only [State.intCommand, hcompl, if_false, Option.map_none]
  | _ => simp only

/-- Where every field is kept and nothing is refused, it is a plain write. -/
theorem writeSome_plain {p : FieldSpec → Bool} {w : Nat} (hp : ∀ f ∈ fieldsAt a, p f = true) :
    s.writeSome m b a v p 0 w = s.writeReg m b a v := by
  unfold State.writeSome State.writeReg
  rw [List.filter_eq_self.mpr hp]
  simp only [if_true]

theorem writeCad_plain (hp : ∀ n < 8, a ≠ R.CAD_TASKn_PERIOD n) (ht : a ≠ R.CAD_CHG_TIMEOUT) : s.writeCad m a v = s.writeReg m .cad a v := by
  have hany : (upto 8).any (fun n => a == R.CAD_TASKn_PERIOD n) = false := by
    rw [List.any_eq_false]
    intro n hn
    simpa using hp n (List.mem_range.mp hn)
  unfold State.writeCad
  simp only [hany, ht, Bool.false_eq_true, if_false, decide_false, Bool.false_and]

/-- No chapter checks a write of IRQ_EN: it is a plain write in every page. -/
theorem writePage_irqEn (m : Master) (b : Blk) (v : Word) : s.writePage m b (R.BLK_IRQ_EN b) v = s.writeReg m b (R.BLK_IRQ_EN b) v := by
  have hctrl : R.BLK_IRQ_EN b ≠ R.BLK_CTRL b := by simp
  unfold State.writePage
  rw [if_neg hctrl]
  cases b with
  | cad => exact writeCad_plain (by decide) (by decide)
  | tsu =>
    have hf : (upto 2).find? (fun n => R.TSU_TBn_ADJ_NS n == R.BLK_IRQ_EN .tsu) = none := by decide
    simp +decide only [State.writeTsu, hf, if_false]
  | mtr =>
    have hf : (List.finRange 8).find? (fun k : Fin 8 => R.MTR_SNAPk_CTL k == R.BLK_IRQ_EN .mtr) = none := by decide
    simp +decide only [State.writeMtr, hf, if_false]
  | net =>
    have hf : (upto 4).find? (fun n => R.NET_PORTn_CFG n == R.BLK_IRQ_EN .net) = none := by decide
    simp only [State.writeNet, hf]
  | fab =>
    have hf : (List.finRange 16).find? (fun n : Fin 16 => R.FAB_QUOTAn n == R.BLK_IRQ_EN .fab) = none := by decide
    simp only [hf]
  | spk =>
    have hperiod : (R.BLK_IRQ_EN .spk == R.SPK_PERIOD) = false := by decide
    have htiming : (R.BLK_IRQ_EN .spk == R.SPK_TIMING) = false := by decide
    simp only [hperiod, htiming, Bool.false_and, Bool.or_self, Bool.not_false, Bool.false_eq_true, if_false]
    exact writeSome_plain fun _ _ => rfl
  | tdm =>
    have hwit : (R.BLK_IRQ_EN .tdm == R.TDM_WIT_CFG) = false := by decide
    exact writeSome_plain fun _ _ => by simp only [hwit, Bool.false_and, Bool.not_false]
  | rtc | int => simp +decide only [if_false]
  | pwr => simp +decide only [if_false, Bool.false_and, decide_false]
  | _ => simp only

theorem exec_regWrite_irqEn : exec (.regWrite m (BitVec.ofNat 40 (R.BLK_IRQ_EN b)) v) s = .next (s.regWrite m (R.BLK_IRQ_EN b) v) := by
  have hne : ∀ b, R.BLK_IRQ_EN b ≠ R.SYS_RST_CMD ∧ R.BLK_IRQ_EN b ≠ R.SYS_BOOT_CMD ∧ R.BLK_IRQ_EN b ≠ R.SYS_HOST_GO := forall_blk (by decide)
  obtain ⟨hrst, hboot, hgo⟩ := hne b
  exact exec_regWrite (page_lt b (by decide)) hrst hboot hgo

theorem readCommand_irqEn (m : Master) (b : Blk) : s.readCommand m (R.BLK_IRQ_EN b) = none := by
  have hclaim : ∀ b, idxAt (fun t : Fin 5 => R.INT_TGT_CLAIMt t) (R.BLK_IRQ_EN b) = none := forall_blk (by decide)
  have htb : ∀ b, idxAt (fun n : Fin 4 => R.TSU_TBn_NS n) (R.BLK_IRQ_EN b) = none := forall_blk (by decide)
  have htc : ∀ b, idxAt (fun n : Fin 4 => R.TSU_TCn_NS n) (R.BLK_IRQ_EN b) = none := forall_blk (by decide)
  have hne : ∀ b, R.BLK_IRQ_EN b ≠ R.XLT_FAULT ∧ R.BLK_IRQ_EN b ≠ R.FIO_EDGE_POP ∧ R.BLK_IRQ_EN b ≠ R.RTC_SEC ∧
      R.BLK_IRQ_EN b ≠ R.RTC_YEAR := forall_blk (by decide)
  obtain ⟨hxlt, hfio, hsec, hyear⟩ := hne b
  simp only [State.readCommand, if_neg hxlt, if_neg hfio, if_neg hsec, if_neg hyear, hclaim, htb, htc, Option.map_none]

theorem exec_rcRead_irqEn : exec (.rcRead m (BitVec.ofNat 40 (R.BLK_IRQ_EN b))) s = .next (s.regRead m (R.BLK_IRQ_EN b)) :=
  exec_rcRead (page_lt b (by decide)) (readCommand_irqEn m b)

/-- IRQ_EN shows no state held elsewhere. -/
theorem mirror_irqEn (m : Master) (b : Blk) : s.mirror m b (R.BLK_IRQ_EN b) = none := by
  have hstat : R.BLK_IRQ_EN b ≠ R.BLK_STAT b := by simp
  have hpend : R.BLK_IRQ_EN b ≠ R.BLK_IRQ_PEND b := by simp
  unfold State.mirror
  rw [if_neg hstat, if_neg hpend]
  cases b with
  | pwr =>
    have hf : ([0, 1, 2, 3] : List (Fin 4)).find? (fun k : Fin 4 => R.PWR_RESs_LO k == R.BLK_IRQ_EN .pwr) = none := by decide
    simp only [hf]
  | slv => simp +decide only [State.tplRegs, if_false]
  | int | cad | rtc | lpe | bgs => simp +decide only [if_false]
  | _ => simp only

/-- The read of a register with one field of a whole word, whose read clears nothing. -/
theorem fieldsWord_whole {mon : Bool} {c : Cls} {r : Nat} (hf : fieldsAt a = [⟨31, 0, c, mon, r⟩]) (hc : c ≠ .wo) (hs : s.shadows = []) :
    s.fieldsWord a = s.regGet a := by
  have hrd : s.rdShadow ⟨a, 0, 32⟩ = (s.regGet a).toNat := by
    simp [State.rdShadow, hs, shadowOf, State.rd, getBits_whole]
  have h := getBits_putBits_same (0 : Word) 0 32 (s.regGet a).toNat (by decide)
  rw [getBits_whole, Nat.mod_eq_of_lt (s.regGet a).isLt] at h
  simp only [State.fieldsWord, hf, List.foldl_cons, List.foldl_nil, if_neg hc]
  exact (congrArg (putBits 0 0 32) hrd).trans (BitVec.eq_of_toNat_eq h)

theorem regRead_irqEn (h : s.Answers b) (hs : s.shadows = []) :
    s.regRead m (R.BLK_IRQ_EN b) = { s with resp := ⟨s.regGet (R.BLK_IRQ_EN b), false⟩ } := by
  have hlatch : ∀ b, latchesHi (R.BLK_IRQ_EN b) = false := forall_blk (by decide)
  have hdrawn : ∀ b, drawnReg (R.BLK_IRQ_EN b) = false := forall_blk (by decide)
  have hclear : s.clearRc (R.BLK_IRQ_EN b) = s := by simp [State.clearRc, fieldsAt_irqEn]
  rw [regRead_plain (page_mod_four b (by decide)) (blkAt_page b (by decide)) h (hdrawn b), hclear, latchHi_other (hlatch b), mirror_irqEn, Option.getD_none,
    fieldsWord_whole (fieldsAt_irqEn b) (by decide) hs]
  rfl

/-! ## The clauses of O1 -/

theorem irqEn_written (h : s.MayWrite m b (R.BLK_IRQ_EN b)) :
    s.Yields (.regWrite m (BitVec.ofNat 40 (R.BLK_IRQ_EN b)) v) fun t => t.regGet (R.BLK_IRQ_EN b) = v ∧ s.Spares t ∧ t.resp = ⟨0, false⟩ ∧
      ∀ a, a ≠ R.BLK_IRQ_EN b → t.regGet a = s.regGet a := by
  obtain ⟨hans, hmon⟩ := h
  have hm : decide (b = .kst) = true → m = .mon := fun hb => hmon ((monOnlyReg_irqEn b).trans hb)
  have hctrl : R.BLK_IRQ_EN b ≠ R.BLK_CTRL b := by simp
  refine ⟨_, exec_regWrite_irqEn, ?_⟩
  rw [regWrite_plain (page_mod_four b (by decide)) (blkAt_page b (by decide)) hans.2 (wordCommand_irqEn m b v), writePage_irqEn]
  unfold State.writeReg
  rw [gate_open hans _ hmon, fieldsAt_irqEn]
  simp only [State.writeFields, writeField_rw hm hctrl, if_true]
  obtain ⟨hspares, hresp⟩ := setField_keeps (s := s.reply 0) (f := ⟨R.BLK_IRQ_EN b, 0, 32⟩) (x := getBits v 0 32)
  refine ⟨regGet_of_rd_whole ?_, hspares, hresp, fun a ha => (regGet_setField_ne ha).trans rfl⟩
  rw [← getBits_whole]
  exact rd_setField (s := s.reply 0) (f := ⟨R.BLK_IRQ_EN b, 0, 32⟩) (Nat.le_refl 32) (getBits_lt v 0 32)

theorem portStat_read {n : Fin 6} (h : s.Answers .net) (hs : s.shadows = []) :
    s.Yields (.rcRead m (BitVec.ofNat 40 (R.NET_PORTn_STAT n))) fun t => getBits t.resp.data 16 16 = s.rd (F.NET_PORTn_STAT_DROP n) ∧
      t.rd (F.NET_PORTn_STAT_DROP n) = 0 ∧ t.bit (F.NET_PORTn_STAT_LINK n) = s.bit (F.NET_PORTn_STAT_LINK n) ∧ s.Spares t ∧
      ∀ a, a ≠ R.NET_PORTn_STAT n → t.regGet a = s.regGet a := by
  have hfields : ∀ n : Fin 6, fieldsAt (R.NET_PORTn_STAT n) =
      [⟨0, 0, .ro, false, if n.val = 5 then 1 else 0⟩, ⟨1, 1, .ro, false, 0⟩, ⟨31, 16, .rc, false, 0⟩] := by decide
  have hcmd : ∀ n : Fin 6, idxAt (fun t : Fin 5 => R.INT_TGT_CLAIMt t) (R.NET_PORTn_STAT n) = none ∧
      idxAt (fun k : Fin 4 => R.TSU_TBn_NS k) (R.NET_PORTn_STAT n) = none ∧
      idxAt (fun k : Fin 4 => R.TSU_TCn_NS k) (R.NET_PORTn_STAT n) = none ∧ R.NET_PORTn_STAT n ≠ R.XLT_FAULT ∧
      R.NET_PORTn_STAT n ≠ R.FIO_EDGE_POP ∧ R.NET_PORTn_STAT n ≠ R.RTC_SEC ∧ R.NET_PORTn_STAT n ≠ R.RTC_YEAR := by decide
  have hreg : ∀ n : Fin 6, R.NET_PORTn_STAT n < 2 ^ 40 ∧ R.NET_PORTn_STAT n % 4 = 0 ∧ blkAt (R.NET_PORTn_STAT n) = some .net ∧
      drawnReg (R.NET_PORTn_STAT n) = false ∧ latchesHi (R.NET_PORTn_STAT n) = false ∧ R.NET_PORTn_STAT n ≠ R.BLK_STAT .net ∧
      R.NET_PORTn_STAT n ≠ R.BLK_IRQ_PEND .net := by decide
  obtain ⟨hclaim, htb, htc, hxlt, hfio, hsec, hyear⟩ := hcmd n
  obtain ⟨hlt, hmod, hblk, hdrawn, hlatch, hstat, hpend⟩ := hreg n
  have hread : s.readCommand m (R.NET_PORTn_STAT n) = none := by
    simp only [State.readCommand, if_neg hxlt, if_neg hfio, if_neg hsec, if_neg hyear, hclaim, htb, htc, Option.map_none]
  have hmirror : s.mirror m .net (R.NET_PORTn_STAT n) = none := by
    simp only [State.mirror, if_neg hstat, if_neg hpend]
  have hclear : s.clearRc (R.NET_PORTn_STAT n) = s.wr (F.NET_PORTn_STAT_DROP n) 0 := by
    simp [State.clearRc, hfields n]
  have hdata : getBits (s.fieldsWord (R.NET_PORTn_STAT n)) 16 16 = s.rd (F.NET_PORTn_STAT_DROP n) := by
    have hshadow (f : Fld) : s.rdShadow f = s.rd f := by simp [State.rdShadow, hs, shadowOf]
    simp only [State.fieldsWord, hfields n, List.foldl_cons, List.foldl_nil, reduceCtorEq, if_false, hshadow]
    exact (getBits_putBits_same _ 16 16 _ (by decide)).trans (Nat.mod_eq_of_lt (getBits_lt _ 16 16))
  refine ⟨_, exec_rcRead hlt hread, ?_⟩
  rw [regRead_plain hmod hblk h hdrawn, latchHi_other hlatch, hmirror, hclear, Option.getD_none]
  refine ⟨hdata, ?_, ?_, ⟨rfl, rfl, rfl⟩, fun a ha => regGet_wr_ne s 0 ha⟩
  · exact rd_wr_same s (F.NET_PORTn_STAT_DROP n) 0 (by norm_num)
  · exact congrArg (· != 0) (rd_wr_disjoint s (f := F.NET_PORTn_STAT_DROP n) (g := F.NET_PORTn_STAT_LINK n) 0 (by norm_num) (by norm_num)
      (.inl (by norm_num)))

/-- A write of another master to a monitor-only register (R43). -/
theorem gate_monOnly (h : s.Answers b) (ha : monOnlyReg a = true) (hm : m ≠ .mon) (k : State → State) :
    s.gate m b a k = (s.err b 5 (woffOf b a)).replyErr := by
  have hno : (monOnlyReg a && m != .mon) = true := by simp [ha, hm]
  unfold State.gate
  simp only [h.1, h.2, hno, Bool.false_eq_true, if_false, if_true]

theorem fabQuota_refused {n : Fin 16} (hm : m ≠ .mon) (h : s.Answers .fab) :
    s.Yields (.regWrite m (BitVec.ofNat 40 (R.FAB_QUOTAn n)) v) fun t => t.resp = ⟨0, true⟩ ∧ t.regGet (R.FAB_QUOTAn n) = s.regGet (R.FAB_QUOTAn n) ∧
      t.Erred .fab 5 (woffOf .fab (R.FAB_QUOTAn n)) ∧ s.Spares t := by
  have hreg : ∀ n : Fin 16, R.FAB_QUOTAn n < 2 ^ 40 ∧ R.FAB_QUOTAn n % 4 = 0 ∧ blkAt (R.FAB_QUOTAn n) = some .fab ∧
      R.FAB_QUOTAn n ≠ R.SYS_RST_CMD ∧ R.FAB_QUOTAn n ≠ R.SYS_BOOT_CMD ∧ R.FAB_QUOTAn n ≠ R.SYS_HOST_GO ∧
      woffOf .fab (R.FAB_QUOTAn n) < 2 ^ 14 := by decide
  have hpage : ∀ n : Fin 16, R.FAB_QUOTAn n ≠ R.BLK_CTRL .fab ∧ R.FAB_QUOTAn n ≠ R.BLK_ERRINFO .fab ∧ R.FAB_QUOTAn n ≠ R.BLK_IRQ_RAW .fab ∧
      monOnlyReg (R.FAB_QUOTAn n) = true ∧ (List.finRange 16).find? (fun k : Fin 16 => R.FAB_QUOTAn k == R.FAB_QUOTAn n) = some n := by decide
  obtain ⟨hlt, hmod, hblk, hrst, hboot, hgo, hwoff⟩ := hreg n
  obtain ⟨hctrl, hinfo, hraw, hmon, hfind⟩ := hpage n
  have hwrite : s.writePage m .fab (R.FAB_QUOTAn n) v = (s.err .fab 5 (woffOf .fab (R.FAB_QUOTAn n))).replyErr := by
    simp only [State.writePage, if_neg hctrl, hfind]
    exact gate_monOnly h hmon hm _
  refine ⟨_, exec_regWrite hlt hrst hboot hgo, ?_⟩
  rw [regWrite_plain hmod hblk h.2 (by simp only [State.wordCommand]), hwrite]
  exact ⟨rfl, regGet_err_ne hinfo hraw, err_erred (by decide) hwoff, err_mem .., err_cad .., err_pending ..⟩

theorem unmappedAccess_refused {x : BitVec 40} {k : Access} (h : mapped x.toNat = false ∨ (x.toNat < 0x20000 ∧ k = .write)) :
    exec (.unmappedAccess m x k) s = .next { s with resp := ⟨0, true⟩ } := by
  have hno : accessOk x.toNat k = false := by
    obtain h | ⟨hrom, rfl⟩ := h
    · simp only [mapped, Bool.or_eq_false_iff] at h
      obtain ⟨⟨⟨⟨⟨⟨hrom, hsram⟩, hcad⟩, htiles⟩, haon⟩, hpages⟩, hdram⟩ := h
      have hbelow : ¬ x.toNat < 0x20000 := by simpa [inRom] using hrom
      have hno : (decide (0x10000000 ≤ x.toNat) && decide (x.toNat < 0x10180000)) = false := hpages
      simp only [accessOk, hbelow, hsram, hcad, htiles, haon, hno, hdram, Bool.or_self, Bool.false_eq_true, if_false]
    · simp [accessOk, hrom]
  change execUnmappedAccess m x k s = _
  unfold execUnmappedAccess
  rw [hno]
  rfl

theorem regBadWidth_refused {x : BitVec 40} {w : Nat} {k : Access} (hlo : 0x10000000 ≤ x.toNat) (hhi : x.toNat < 0x10180000)
    (hbad : w ≠ 4 ∨ x.toNat % 4 ≠ 0) : exec (.regBadWidth m x w k) s = .next { s with resp := ⟨0, true⟩ } := by
  have hw : (w == 4 && x.toNat % 4 == 0) = false := by
    rw [Bool.and_eq_false_iff, beq_eq_false_iff_ne, beq_eq_false_iff_ne]
    exact hbad
  change execRegBadWidth m x w k s = _
  unfold execRegBadWidth
  simp only [hlo, hhi, hw, decide_true, Bool.not_false, Bool.and_self, if_true]
  rfl

theorem poweredOff_refused {x : BitVec 40} {k : Access} (hb : blkAt x.toNat = some b) (hoff : s.unreachable b = true) :
    exec (.regAccessPoweredOff m x k) s = .next { s with resp := ⟨0, true⟩ } := by
  change execRegAccessPoweredOff m x k s = _
  unfold execRegAccessPoweredOff
  simp only [hb, hoff, if_true]
  rfl

/-- Settles O1: each clause is the lemma above on its command. -/
theorem registerAccesses : Obligations.RegisterAccesses := by
  intro m s
  refine ⟨fun b v => irqEn_written, fun b h hs => ?_, fun n => portStat_read, fun a k => unmappedAccess_refused, fun a w k hlo hhi hbad => ?_,
    fun a b k hb hoff => ?_, fun v n => fabQuota_refused⟩
  · rw [exec_rcRead_irqEn, regRead_irqEn h hs]
  · exact regBadWidth_refused hlo hhi hbad
  · exact poweredOff_refused hb hoff
end Sys2Proof.Machine
end

/-! # Reset and the idle cycle (O57, O58) -/

section
namespace Sys2Proof.Machine

variable {s : State}

/-- Settles O58: the state after reset lists no register, so each reads its reset value, and the tables give those. -/
theorem resetState : Obligations.ResetState := by
  refine ⟨fun a => rfl, ?_, ?_, ?_, ?_, ?_, rfl, rfl, rfl, rfl, rfl, rfl, rfl, rfl, rfl⟩
  · decide +kernel
  · decide +kernel
  · decide +kernel
  · decide +kernel
  · decide +kernel

/-! ## The time bases over one cycle (R328 to R331) -/

theorem slewPart_zero (ppm : Nat) : slewPart ppm 0 = 0 := by
  have hm : (0 : Int) ≤ unitsPerCycle * ppm / 1000000 := by positivity
  simp [slewPart, hm]

theorem tbWrapI_cast (u : Int) : (tbWrapI u : Int) = u % (2 ^ 48 * nsPerSec * unitsPerNs : Nat) := by
  have hpos : ((2 ^ 48 * nsPerSec * unitsPerNs : Nat) : Int) ≠ 0 := by decide
  exact Int.toNat_of_nonneg (Int.emod_nonneg u hpos)

/-- What a cycle leaves of the state: everything but the time bases and TSU's own data. -/
theorem tbCycle_cases (s : State) : ∃ t0 t1 t2 t3 x, s.tbCycle = { s with tb0 := t0, tb1 := t1, tb2 := t2, tb3 := t3, tsu := x } ∧
    x.srcRtc = s.tsu.srcRtc ∧ t2 = tbWrap (s.tb2 + unitsPerCycle) ∧ t0 = tbWrapI (s.tb0 + s.tbAdvance 0) ∧ t1 = tbWrapI (s.tb1 + s.tbAdvance 1) ∧
    (s.tsu.srcRtc = false → t3 = tbWrapI ((t0 : Int) - (s.rd F.TSU_TB3_OFS_OFS * nsPerSec * unitsPerNs : Nat))) := by
  unfold State.tbCycle
  extract_lets p3 x s1 s2
  have hs2 : ∃ t3, s2 = { s1 with tb3 := t3 } ∧ (s.tsu.srcRtc = false → t3 = s1.tb3OfTb0) := by
    unfold s2
    by_cases h : s1.tsu.srcRtc = true
    · have h' : s.tsu.srcRtc = true := h
      rw [if_pos h]
      exact ⟨_, rfl, fun h0 => absurd (h'.symm.trans h0) (by decide)⟩
    · rw [if_neg h, State.followTb0, if_neg h]
      exact ⟨_, rfl, fun _ => rfl⟩
  obtain ⟨t3, hs2, h3⟩ := hs2
  by_cases hadv : s2.tbAdv = s.tbAdv
  · rw [if_pos hadv, hs2]
    exact ⟨_, _, _, t3, _, rfl, rfl, rfl, rfl, rfl, h3⟩
  · rw [if_neg hadv, State.markTb, hs2]
    exact ⟨_, _, _, t3, _, rfl, rfl, rfl, rfl, rfl, h3⟩

/-! ## A sample of FIO touches its page only (R351) -/

/-- Of the state at most registers of one page, shadows and the marks of halted blocks change. -/
def State.OnlyPage (s t : State) (b : Blk) : Prop :=
  (∃ r sh h, t = { s with regs := r, shadows := sh, halted := h }) ∧ s.Within t b

theorem onlyPage_refl (s : State) (b : Blk) : s.OnlyPage s b := ⟨⟨_, _, _, rfl⟩, fun _ _ => rfl⟩

theorem onlyPage_trans {t u : State} (h : s.OnlyPage t b) (h' : t.OnlyPage u b) : s.OnlyPage u b := by
  obtain ⟨⟨_, _, _, rfl⟩, hr⟩ := h
  obtain ⟨⟨_, _, _, rfl⟩, hr'⟩ := h'
  exact ⟨⟨_, _, _, rfl⟩, fun a ha => (hr' a ha).trans (hr a ha)⟩

theorem wr_onlyPage {f : Fld} (hf : blkAt f.addr = some b) (x : Nat) : s.OnlyPage (s.wr f x) b :=
  ⟨⟨_, _, _, rfl⟩, fun _ ha => regGet_wr_ne s x fun e => ha (e ▸ hf)⟩

theorem sumPend_onlyPage (s : State) (b : Blk) : s.OnlyPage (s.sumPend b) b := wr_onlyPage (blkAt_page b (by decide)) 1

theorem freezePoint_onlyPage (s : State) (b : Blk) : s.OnlyPage (s.freezePoint b) b := by
  unfold State.freezePoint
  split
  · exact ⟨⟨_, _, _, rfl⟩, fun _ _ => rfl⟩
  · exact onlyPage_refl s b

theorem foldl_onlyPage {α : Type} {f : State → α → State} {l : List α} (hf : ∀ t : State, ∀ x ∈ l, t.OnlyPage (f t x) b) :
    s.OnlyPage (l.foldl f s) b := by
  induction l generalizing s with
  | nil => exact onlyPage_refl s b
  | cons x l ih => exact onlyPage_trans (hf s x (by simp)) (ih fun t y hy => hf t y (List.mem_cons_of_mem x hy))

theorem commitBlk_onlyPage (s : State) (b : Blk) : s.OnlyPage (s.commitBlk b) b := by
  unfold State.commitBlk State.commit
  extract_lets mine s1
  have h1 : s.OnlyPage s1 b := foldl_onlyPage fun t x hx => by
    have hpage : blkAt x.1.addr = some b := by simpa using (List.mem_filter.mp hx).2
    dsimp only
    split
    · exact onlyPage_refl t b
    · exact onlyPage_trans (wr_onlyPage hpage _) (sumPend_onlyPage _ b)
  exact onlyPage_trans h1 ⟨⟨_, _, _, rfl⟩, fun _ _ => rfl⟩

theorem fioSample_onlyPage (s : State) : s.OnlyPage s.fioSample .fio := by
  unfold State.fioSample
  split
  · exact onlyPage_trans (commitBlk_onlyPage s .fio) (freezePoint_onlyPage _ .fio)
  · exact onlyPage_refl s .fio

/-- Nothing is replayed where nothing waits, or where this is no member that joins with a loaded copy. -/
theorem replayNext_idle (h : s.tdm.replay = [] ∨ s.tandem = false ∨ s.tdmState ≠ 2 ∨ s.tdm.loaded = false) : s.replayNext = s := by
  have hdone : (if s.tdmRuns then
      (if s.tdmState ≠ 2 || !s.tdm.loaded then s else match s.tdm.replay with
        | [] => s
        | e :: rest => if s.replayTurn e then { s with tdm := { s.tdm with replay := rest } }.applyEntry e else s) else s) = s := by
    obtain h | h | h | h := h
    · simp [h]
    · simp [State.tdmRuns, h]
    · simp [h]
    · simp [h]
  unfold State.replayNext State.tdmEvent State.whileLive
  split
  · rfl
  · exact hdone

/-- The registers that say whether a member joins lie outside the page of FIO. -/
theorem onlyPage_fio_joins {t : State} (h : s.OnlyPage t .fio) : t.tandem = s.tandem ∧ t.tdmState = s.tdmState := by
  have htandem : t.regGet F.SYS_ROLE_TANDEM.addr = s.regGet F.SYS_ROLE_TANDEM.addr := h.2 _ (by decide)
  have hstate : t.regGet F.TDM_STATE_STATE.addr = s.regGet F.TDM_STATE_STATE.addr := h.2 _ (by decide)
  simp only [State.tandem, State.tdmState, State.bit, State.rd, htandem, hstate, and_self]

/-! ## The idle cycle (R47, R328 to R331, R378) -/

/-- The cycle before a joining standby replays: the time bases go on, and FIO samples when its 10 ns instant passes. -/
def State.cycled (s : State) : State :=
  let t := { s with softRst := 0 }.tbCycle
  if s.nowNs / 10 = t.nowNs / 10 then t else t.fioSample

theorem idle_netOff (h : s.domOff.getLsbD Domain.net.idx = true) : s.idle = { s with softRst := 0 } := by
  unfold State.idle
  exact if_pos h

theorem idle_netOn (h : s.domOff.getLsbD Domain.net.idx = false) : s.idle = s.cycled.replayNext := by
  unfold State.idle
  exact if_neg (by rw [h]; decide)

theorem cycled_onlyPage (s : State) : { s with softRst := 0 }.tbCycle.OnlyPage s.cycled .fio := by
  unfold State.cycled
  extract_lets t
  split
  · exact onlyPage_refl t .fio
  · exact fioSample_onlyPage t

/-- TB2 goes on by 16/5 ns. -/
theorem five_mul_tbWrap (u : Nat) : 5 * (tbWrap (u + unitsPerCycle) : Int) = (5 * u + 16 * unitsPerNs) % (5 * (2 ^ 48 * nsPerSec * unitsPerNs)) := by
  have hcycle : 5 * (u + unitsPerCycle) = 5 * u + 16 * unitsPerNs := by unfold unitsPerCycle unitsPerNs; omega
  have h : 5 * tbWrap (u + unitsPerCycle) = (5 * u + 16 * unitsPerNs) % (5 * (2 ^ 48 * nsPerSec * unitsPerNs)) := by
    rw [← hcycle, Nat.mul_mod_mul_left, tbWrap]
  exact_mod_cast h

/-- TB0 and TB1 go on by 3.2 ns times 1 + RATE × 2⁻⁴⁴ while no slew is in progress. -/
theorem tbAdvanced_noSlew {n : Nat} (h : (if n = 0 then s.tsu.slew0 else s.tsu.slew1) = 0) (u : Nat) :
    (tbWrapI (u + s.tbAdvance n) : Int) = (u + 16 * 2 ^ 44 + 16 * (s.regGet (R.TSU_TBn_RATE n)).toInt) % (2 ^ 48 * nsPerSec * unitsPerNs : Nat) := by
  rw [tbWrapI_cast, State.tbAdvance, h, slewPart_zero, Int.add_zero, ← Int.add_assoc]

/-- Settles O57: off the NET domain a cycle only ends soft resets; else it is a cycle of the time bases, a sample of FIO and a replay. -/
theorem idleCycle : Obligations.IdleCycle := by
  intro s hpending
  have hstep : step s = .next s.idle := by rw [step, hpending]
  by_cases hoff : s.domOff.getLsbD Domain.net.idx = true
  · refine ⟨{ s with softRst := 0 }, rfl, ⟨rfl, rfl, rfl⟩, fun _ _ => rfl, rfl, rfl, fun _ => ⟨rfl, ?_⟩, fun hon => ?_⟩
    · rw [hstep, idle_netOff hoff]
    · rw [hoff] at hon; cases hon
  · have hon := Bool.eq_false_iff.mpr hoff
    have hpage := cycled_onlyPage s
    obtain ⟨t0, t1, t2, t3, x, hcycle, hsrc, h2, h0, h1, h3⟩ := tbCycle_cases { s with softRst := 0 }
    rw [hcycle] at hpage
    obtain ⟨htandem, hstate⟩ := onlyPage_fio_joins hpage
    obtain ⟨⟨r, sh, hl, hu⟩, hregs⟩ := hpage
    have htdm : s.cycled.tdm = s.tdm := by rw [hu]
    have htb0 : s.cycled.tb0 = t0 := by rw [hu]
    have htb1 : s.cycled.tb1 = t1 := by rw [hu]
    have htb2 : s.cycled.tb2 = t2 := by rw [hu]
    have htb3 : s.cycled.tb3 = t3 := by rw [hu]
    refine ⟨s.cycled, by rw [hu], by rw [hu]; exact ⟨rfl, rfl, rfl⟩, hregs, by rw [hu]; exact hsrc, htdm, fun h => absurd h hoff,
      fun _ => ⟨?_, fun h => ?_, ?_, fun h => ?_, fun h => ?_, fun h => ?_⟩⟩
    · rw [hstep, idle_netOn hon]
    · refine replayNext_idle ?_
      rw [htdm, htandem, hstate]
      exact h
    · rw [htb2, h2, five_mul_tbWrap]
    · rw [htb0, h0]
      exact tbAdvanced_noSlew (s := { s with softRst := 0 }) (n := 0) h s.tb0
    · rw [htb1, h1]
      exact tbAdvanced_noSlew (s := { s with softRst := 0 }) (n := 1) h s.tb1
    · rw [htb3, htb0, h3 h, tbWrapI_cast, Nat.mul_assoc, Nat.cast_mul]
      rfl

end Sys2Proof.Machine
end

/-! # The interrupt router (O5, O6) -/

section
namespace Sys2Proof.Machine

variable {s : State} {m : Master} {b : Blk} {a : Nat} {v : Word}

/-! ## Completion (R64) -/

/-- The end of one service. -/
theorem mem_endService {l : List (Nat × Nat)} {p x : Nat × Nat} : x ∈ l.filter (fun y => y != p) ↔ x ∈ l ∧ x ≠ p := by
  rw [List.mem_filter, bne_iff_ne]

theorem inService_ended {t : State} {n k : Nat} (ht : t.inserv = s.inserv.filter fun x => x != (n, k)) (h : ∀ j, (n, j) ∈ s.inserv → j = k) :
    t.inService n = false := by
  rw [State.inService, ht, List.any_eq_false]
  intro x hx
  obtain ⟨hmem, hne⟩ := mem_endService.mp hx
  have hn : x.1 ≠ n := by
    rintro rfl
    exact hne (Prod.ext rfl (h x.2 hmem))
  simpa using hn

/-- Settles O6: a completion filters the list of services in progress, or is an error. -/
theorem completionEndsService : Obligations.CompletionEndsService := by
  intro m t src s hmay
  obtain ⟨hans, hmon⟩ := hmay
  have hexec : exec (.complete m t src) s = .next (s.gate m .int (R.INT_TGT_COMPLETEt t) fun s =>
      if s.inserv.contains (src.toNat, t.val) then { s with inserv := s.inserv.filter fun x => x != (src.toNat, t.val) }
      else s.err .int 0x80 src.toNat) := by
    change execComplete m t src s = _
    rfl
  rw [gate_open hans _ hmon, reply_inserv] at hexec
  refine ⟨fun hmem => ?_, fun hmem => ?_⟩
  · rw [if_pos (List.contains_iff_mem.mpr hmem)] at hexec
    refine ⟨_, hexec, fun h => (mem_endService.mp h).2 rfl, fun x hx => ?_, rfl, ⟨rfl, rfl, rfl⟩, fun hone k => ?_⟩
    · exact mem_endService.trans (and_iff_left hx)
    · rw [State.srcEligible, inService_ended rfl hone, Bool.not_false, Bool.and_true]
      rfl
  · rw [if_neg fun h => hmem (List.contains_iff_mem.mp h)] at hexec
    have hsrc := src.isLt
    exact ⟨_, hexec, err_inserv .., err_erred (by decide) (by omega), err_mem .., err_cad .., err_pending ..⟩

/-! ## Claims (R63) -/

/-- One step of the search for the source to claim. -/
def State.sourceStep (s : State) (t : Nat) (best : Option Nat) (n : Nat) : Option Nat :=
  if s.srcEligible t n then
    match best with
    | none => some n
    | some k => if s.rd (F.INT_SRC_CFGn_PRIO k) < s.rd (F.INT_SRC_CFGn_PRIO n) then some n else some k
  else best

theorem bestSource_eq (s : State) (t : Nat) : s.bestSource t = (List.range 128).foldl (s.sourceStep t) none := rfl

theorem sourceStep_ineligible {t n : Nat} (h : s.srcEligible t n = false) (best : Option Nat) : s.sourceStep t best n = best := by
  simp [State.sourceStep, h]
theorem sourceStep_first {t n : Nat} (h : s.srcEligible t n = true) : s.sourceStep t none n = some n := by
  simp [State.sourceStep, h]
theorem sourceStep_next {t n k : Nat} (h : s.srcEligible t n = true) :
    s.sourceStep t (some k) n = if s.rd (F.INT_SRC_CFGn_PRIO k) < s.rd (F.INT_SRC_CFGn_PRIO n) then some n else some k := by
  simp [State.sourceStep, h]

/-- `n` is eligible and is claimed before every other eligible source below `N`: it has the higher PRIO, or the same and the lower number. -/
def State.Precedes (s : State) (t N n : Nat) : Prop :=
  n < N ∧ s.srcEligible t n = true ∧ ∀ k, k < N → s.srcEligible t k = true →
    s.rd (F.INT_SRC_CFGn_PRIO k) < s.rd (F.INT_SRC_CFGn_PRIO n) ∨ s.rd (F.INT_SRC_CFGn_PRIO k) = s.rd (F.INT_SRC_CFGn_PRIO n) ∧ n ≤ k

/-- The search below `N` has found the source to claim, or none is eligible. -/
def State.Searched (s : State) (t N : Nat) : Option Nat → Prop
  | none => ∀ n, n < N → s.srcEligible t n = false
  | some n => s.Precedes t N n

theorem searched_step {t N : Nat} {best : Option Nat} (h : s.Searched t N best) : s.Searched t (N + 1) (s.sourceStep t best N) := by
  cases hN : s.srcEligible t N with
  | false =>
    rw [sourceStep_ineligible hN]
    have hlt {k : Nat} (hk : k < N + 1) (he : s.srcEligible t k = true) : k < N := by
      have hne : k ≠ N := by rintro rfl; rw [hN] at he; cases he
      omega
    cases best with
    | none => exact fun n hn => Bool.eq_false_iff.mpr fun he => by rw [h n (hlt hn he)] at he; cases he
    | some n => exact ⟨Nat.lt_succ_of_lt h.1, h.2.1, fun k hk he => h.2.2 k (hlt hk he) he⟩
  | true =>
    cases best with
    | none =>
      rw [sourceStep_first hN]
      refine ⟨Nat.lt_succ_self N, hN, fun k hk he => ?_⟩
      obtain hlt | rfl := Nat.lt_succ_iff_lt_or_eq.mp hk
      · rw [h k hlt] at he; cases he
      · exact .inr ⟨rfl, Nat.le_refl k⟩
    | some n =>
      obtain ⟨hn, helig, hbest⟩ := h
      rw [sourceStep_next hN]
      split
      · next hlow =>
        refine ⟨Nat.lt_succ_self N, hN, fun k hk he => ?_⟩
        obtain hlt | rfl := Nat.lt_succ_iff_lt_or_eq.mp hk
        · have := hbest k hlt he
          omega
        · exact .inr ⟨rfl, Nat.le_refl k⟩
      · next hhigh =>
        refine ⟨Nat.lt_succ_of_lt hn, helig, fun k hk he => ?_⟩
        obtain hlt | rfl := Nat.lt_succ_iff_lt_or_eq.mp hk
        · exact hbest k hlt he
        · omega

theorem searched_range (s : State) (t N : Nat) : s.Searched t N ((List.range N).foldl (s.sourceStep t) none) := by
  induction N with
  | zero => exact fun n hn => absurd hn (Nat.not_lt_zero n)
  | succ N ih =>
    rw [List.range_succ, List.foldl_append]
    exact searched_step ih

theorem bestSource_searched (s : State) (t : Nat) : s.Searched t 128 (s.bestSource t) := searched_range s t 128

/-- What a claim that is allowed does. -/
def State.claimed (s : State) (t : Nat) : Option Nat → State
  | none => s.reply 0
  | some n => { s with inserv := s.inserv ++ [(n, t)] }.reply (BitVec.ofNat 32 (2 ^ 31 + n))

theorem exec_claim (h : s.Answers .int) {t : Fin 5} (ht : t = 4 → m = .mon) : exec (.claim m t) s = .next (s.claimed t (s.bestSource t)) := by
  have hno : ¬ (decide (t = 4) && decide (m ≠ .mon)) = true := by simpa using ht
  change execClaim m t s = _
  unfold execClaim
  rw [gateRead_open h]
  exact congrArg _ (if_neg hno)

theorem exec_claim_foreign (h : s.Answers .int) (hm : m ≠ .mon) : exec (.claim m 4) s = .next (s.reply 0) := by
  have hyes : (decide ((4 : Fin 5) = 4) && decide (m ≠ .mon)) = true := by simpa using hm
  change execClaim m 4 s = _
  unfold execClaim
  rw [gateRead_open h, if_pos hyes]

/-! ## Writes of several fields of class RW and RO (R52) -/

/-- A bit field of a register that a specification names. -/
def FieldSpec.fld (f : FieldSpec) (a : Nat) : Fld := ⟨a, f.lo, f.hi - f.lo + 1⟩

/-- The master may write the field under class RW, or the field takes no writes. -/
def FieldSpec.Plain (m : Master) (f : FieldSpec) : Prop := f.cls = .ro ∨ (f.cls = .rw ∧ (f.mon = true → m = .mon))

theorem writeField_plain {f : FieldSpec} (hf : f.Plain m) (ha : a ≠ R.BLK_CTRL b) : s.writeField m b a f v =
    (if f.cls = .ro ∨ s.rd (f.fld a) = getBits v f.lo (f.hi - f.lo + 1) then s else s.wr (f.fld a) (getBits v f.lo (f.hi - f.lo + 1)), 0) := by
  obtain ⟨hi, lo, cls, mon, r⟩ := f
  obtain hro | ⟨hrw, hm⟩ := hf
  · cases hro
    simp [State.writeField]
  · cases hrw
    exact (writeField_rw hm ha).trans (by simp [FieldSpec.fld])

/-- Writes of plain fields change nothing but their register, and of it no bits but those of the RW fields. -/
theorem writeFields_keeps {l : List FieldSpec} (hl : ∀ f ∈ l, f.Plain m) (ha : a ≠ R.BLK_CTRL b) :
    s.Spares (s.writeFields m b a v l 0).1 ∧ (s.writeFields m b a v l 0).1.resp = s.resp ∧
      (∀ c, c ≠ a → (s.writeFields m b a v l 0).1.regGet c = s.regGet c) := by
  induction l generalizing s with
  | nil => exact ⟨⟨rfl, rfl, rfl⟩, rfl, fun _ _ => rfl⟩
  | cons f l ih =>
    rw [State.writeFields, writeField_plain (hl f (by simp)) ha]
    simp only [if_true]
    split
    · exact ih fun g hg => hl g (List.mem_cons_of_mem f hg)
    · obtain ⟨hspares, hresp, hregs⟩ := ih (s := s.wr (f.fld a) (getBits v f.lo (f.hi - f.lo + 1))) fun g hg => hl g (List.mem_cons_of_mem f hg)
      exact ⟨hspares, hresp, fun c hc => (hregs c hc).trans (regGet_wr_ne s _ hc)⟩

/-- Two bit fields of one register share no bit. -/
def Fld.Apart (g f : Fld) : Prop := g.lo + g.w ≤ f.lo ∨ f.lo + f.w ≤ g.lo

/-- The field lies within the word. -/
def FieldSpec.Fits (f : FieldSpec) : Prop := f.lo + (f.hi - f.lo + 1) ≤ 32

theorem writeFields_apart {l : List FieldSpec} (hl : ∀ f ∈ l, f.Plain m ∧ f.Fits) (ha : a ≠ R.BLK_CTRL b) {g : Fld} (hg : g.lo + g.w ≤ 32)
    (hap : ∀ f ∈ l, f.cls = .ro ∨ g.Apart (f.fld a)) : (s.writeFields m b a v l 0).1.rd g = s.rd g := by
  induction l generalizing s with
  | nil => rfl
  | cons f l ih =>
    obtain ⟨hplain, hfits⟩ := hl f (by simp)
    have ih' (t : State) := ih (s := t) (fun g hg => hl g (List.mem_cons_of_mem f hg)) fun g hg => hap g (List.mem_cons_of_mem f hg)
    rw [State.writeFields, writeField_plain hplain ha]
    simp only [if_true]
    split
    · exact ih' s
    · next hw =>
      have hne := (hap f (by simp)).resolve_left fun h => hw (.inl h)
      exact (ih' _).trans (rd_wr_disjoint s _ hfits hg hne)

theorem writeFields_sets {l : List FieldSpec} (hl : ∀ f ∈ l, f.Plain m ∧ f.Fits) (ha : a ≠ R.BLK_CTRL b)
    (hap : l.Pairwise fun f g => g.cls = .ro ∨ (f.fld a).Apart (g.fld a)) {f : FieldSpec} (hf : f ∈ l) (hrw : f.cls = .rw) :
    (s.writeFields m b a v l 0).1.rd (f.fld a) = getBits v f.lo (f.hi - f.lo + 1) := by
  induction l generalizing s with
  | nil => cases hf
  | cons g l ih =>
    obtain ⟨hplain, hfits⟩ := hl g (by simp)
    have htail : ∀ g ∈ l, g.Plain m ∧ g.Fits := fun g hg => hl g (List.mem_cons_of_mem _ hg)
    obtain ⟨hhead, hap⟩ := List.pairwise_cons.mp hap
    rw [State.writeFields, writeField_plain hplain ha]
    simp only [if_true]
    obtain rfl | hf := List.mem_cons.mp hf
    · rw [writeFields_apart htail ha (g := f.fld a) hfits hhead]
      have hro : f.cls ≠ .ro := by rw [hrw]; decide
      simp only [hro, false_or]
      exact rd_setField (f := f.fld a) hfits (getBits_lt _ _ _)
    · exact ih htail hap hf

/-! ## Routing and priority (R66) -/

/-- A source of KST: its routing is fixed, and its PRIO is the monitor's. -/
def kstSource (n : Nat) : Bool := decide (108 ≤ n) && decide (n ≤ 111)

/-- The fields of INT_SRC_CFGn. -/
def srcCfgFields (n : Nat) : List FieldSpec :=
  let own := kstSource n
  [⟨3, 0, .rw, own, 0⟩, ⟨11, 8, if own then .ro else .rw, false, 0⟩, ⟨12, 12, if own then .ro else .rw, true, b2n own⟩]

theorem fieldsAt_srcCfg (n : BitVec 7) : fieldsAt (R.INT_SRC_CFGn n.toNat) = srcCfgFields n.toNat := by
  have h : ∀ n : Fin 128, fieldsAt (R.INT_SRC_CFGn n.val) = srcCfgFields n.val := by decide +kernel
  exact h ⟨n.toNat, n.isLt⟩

/-- The fields that a master's write of INT_SRC_CFGn reaches. -/
def srcCfgWritten (m : Master) (n : Nat) : List FieldSpec := (srcCfgFields n).filter fun f => !f.mon || m == .mon

theorem srcCfgFields_apart (n : Nat) : (srcCfgFields n).Pairwise fun f g => g.cls = .ro ∨ (f.fld a).Apart (g.fld a) := by
  simp [srcCfgFields, Fld.Apart, FieldSpec.fld]

theorem srcCfgWritten_plain {n : Nat} : ∀ f ∈ srcCfgWritten m n, f.Plain m ∧ f.Fits := by
  intro f hf
  obtain ⟨hmem, hmon⟩ := List.mem_filter.mp hf
  have hm : f.mon = true → m = .mon := fun h => by simpa [h] using hmon
  have hcls : f.cls = .ro ∨ f.cls = .rw := by
    simp only [srcCfgFields, List.mem_cons, List.not_mem_nil, or_false] at hmem
    obtain rfl | rfl | rfl := hmem
    · exact .inr rfl
    all_goals dsimp only; split <;> simp
  have hfits : f.Fits := by
    simp only [srcCfgFields, List.mem_cons, List.not_mem_nil, or_false] at hmem
    obtain rfl | rfl | rfl := hmem
    all_goals simp [FieldSpec.Fits]
  exact ⟨hcls.imp_right fun h => ⟨h, hm⟩, hfits⟩

/-- A field that the write reaches. -/
theorem srcCfg_sets {n : Nat} (ha : a ≠ R.BLK_CTRL b) {f : FieldSpec} (hf : f ∈ srcCfgFields n) (hm : f.mon = true → m = .mon) (hrw : f.cls = .rw) :
    (s.writeFields m b a v (srcCfgWritten m n) 0).1.rd (f.fld a) = getBits v f.lo (f.hi - f.lo + 1) := by
  refine writeFields_sets srcCfgWritten_plain ha ((srcCfgFields_apart n).filter _) (List.mem_filter.mpr ⟨hf, ?_⟩) hrw
  cases h : f.mon with
  | false => rfl
  | true => simp [hm h]

/-- A field that it does not reach. -/
theorem srcCfg_keeps {n : Nat} (ha : a ≠ R.BLK_CTRL b) {g : Fld} (hg : g.lo + g.w ≤ 32)
    (h : ∀ f ∈ srcCfgFields n, f.cls = .ro ∨ g.Apart (f.fld a) ∨ (f.mon = true ∧ m ≠ .mon)) :
    (s.writeFields m b a v (srcCfgWritten m n) 0).1.rd g = s.rd g := by
  refine writeFields_apart srcCfgWritten_plain ha hg fun f hf => ?_
  obtain ⟨hmem, hmon⟩ := List.mem_filter.mp hf
  obtain hro | hap | ⟨hon, hm⟩ := h f hmem
  · exact .inl hro
  · exact .inr hap
  · simp [hon, hm] at hmon

theorem srcCfg_prio {n : Nat} (ha : a ≠ R.BLK_CTRL b) : (s.writeFields m b a v (srcCfgWritten m n) 0).1.rd ⟨a, 0, 4⟩ =
    if kstSource n && m != .mon then s.rd ⟨a, 0, 4⟩ else getBits v 0 4 := by
  split
  · next h => exact srcCfg_keeps ha (by norm_num) (by simpa [srcCfgFields, Fld.Apart, FieldSpec.fld] using h)
  · next h => exact srcCfg_sets (f := ⟨3, 0, .rw, kstSource n, 0⟩) ha (by simp [srcCfgFields]) (by simpa using h) rfl

theorem srcCfg_tgtH {n : Nat} (ha : a ≠ R.BLK_CTRL b) : (s.writeFields m b a v (srcCfgWritten m n) 0).1.rd ⟨a, 8, 4⟩ =
    if kstSource n then s.rd ⟨a, 8, 4⟩ else getBits v 8 4 := by
  split
  · next h => exact srcCfg_keeps ha (by norm_num) (by simp [srcCfgFields, Fld.Apart, FieldSpec.fld, h])
  · next h => exact srcCfg_sets (f := ⟨11, 8, .rw, false, 0⟩) ha (by simp [srcCfgFields, h]) (by simp) rfl

theorem srcCfg_tgtM {n : Nat} (ha : a ≠ R.BLK_CTRL b) : (s.writeFields m b a v (srcCfgWritten m n) 0).1.rd ⟨a, 12, 1⟩ =
    if kstSource n || m != .mon then s.rd ⟨a, 12, 1⟩ else getBits v 12 1 := by
  split
  · next h => exact srcCfg_keeps ha (by norm_num) (by simpa [srcCfgFields, Fld.Apart, FieldSpec.fld] using h)
  · next h =>
    obtain ⟨hn, hm⟩ : kstSource n = false ∧ m = .mon := by simpa using h
    exact srcCfg_sets (f := ⟨12, 12, .rw, true, 0⟩) ha (by simp [srcCfgFields, hn, b2n]) (fun _ => hm) rfl

theorem exec_intSrcCfg (h : s.Answers .int) (n : BitVec 7) : exec (.intSrcCfg m n v) s =
    .next ((s.writeFields m .int (R.INT_SRC_CFGn n.toNat) v (srcCfgWritten m n.toNat) 0).1.reply 0) := by
  change execIntSrcCfg m n v s = _
  simp only [execIntSrcCfg, State.writeSrcCfg, h.1, h.2, Bool.false_eq_true, if_false, fieldsAt_srcCfg]
  rfl

/-- Settles O5: the search for the source to claim, the doorbells' gate, and the fields of INT_SRC_CFGn that a master writes. -/
theorem claimsAndDoorbells : Obligations.ClaimsAndDoorbells := by
  intro m s h
  refine ⟨fun t ht => ⟨fun hnone => ?_, fun ⟨n, hn, helig⟩ => ?_⟩, exec_claim_foreign h, fun v => ⟨?_, ?_⟩, fun n v => ?_⟩
  · have hs := bestSource_searched s t
    rw [exec_claim h ht]
    cases hbest : s.bestSource t with
    | none => rfl
    | some n =>
      rw [hbest] at hs
      obtain ⟨hlt, helig, -⟩ := hs
      rw [hnone n hlt] at helig
      cases helig
  · have hs := bestSource_searched s t
    rw [exec_claim h ht]
    cases hbest : s.bestSource t with
    | none =>
      rw [hbest] at hs
      rw [hs n hn] at helig
      cases helig
    | some k =>
      rw [hbest] at hs
      obtain ⟨hlt, hk, hmax⟩ := hs
      exact ⟨k, hlt, hk, hmax, rfl⟩
  · change execDbSet m v s = _
    unfold execDbSet
    rw [gate_open h _ fun hm => absurd hm (by decide)]
    rfl
  · change execDbClr m v s = _
    unfold execDbClr
    rw [gate_open h _ fun hm => absurd hm (by decide)]
    rfl
  · have ha : R.INT_SRC_CFGn n.toNat ≠ R.BLK_CTRL .int := by
      have hctrl : R.BLK_CTRL .int < 0x10010100 := by decide
      exact (Nat.lt_of_lt_of_le hctrl (Nat.le_add_right _ _)).ne'
    obtain ⟨hspares, -, hregs⟩ := writeFields_keeps (s := s) (v := v) (fun f hf => (srcCfgWritten_plain (m := m) (n := n.toNat) f hf).1) ha
    exact ⟨_, exec_intSrcCfg h n, hspares, rfl, hregs, srcCfg_prio ha, srcCfg_tgtH ha, srcCfg_tgtM ha⟩

end Sys2Proof.Machine
end

/-! # Locks and shadows (O4) -/

section
namespace Sys2Proof.Machine

variable {s : State} {m : Master} {b : Blk} {a : Nat} {v : Word}

/-! ## BLK_LOCK (R50, R133, R151) -/

/-- The lock bits of a page: CFG_LOCK and CTRL_LOCK, and in CAD FORCE_LOCK and CHG_LOCK. -/
def lockFields (b : Blk) : List FieldSpec :=
  [⟨0, 0, .w1s, decide (b = .kst), 0⟩, ⟨1, 1, .w1s, decide (b = .kst), 0⟩] ++
    if b = .cad then [⟨2, 2, .w1s, false, 0⟩, ⟨3, 3, .w1s, false, 0⟩] else []

theorem fieldsAt_lock (b : Blk) : fieldsAt (R.BLK_LOCK b) = lockFields b := by
  revert b; exact forall_blk (by decide)

theorem monOnlyReg_lock (b : Blk) : monOnlyReg (R.BLK_LOCK b) = decide (b = .kst) := by
  revert b; exact forall_blk (by decide)

/-- A 1 written to a lock bit sets it; a 0 is no write (R50). -/
theorem writeField_lock {k r : Nat} {mon : Bool} (hm : mon = true → m = .mon) : s.writeField m b (R.BLK_LOCK b) ⟨k, k, .w1s, mon, r⟩ v =
    (if getBits v k 1 = 0 then s else s.regPut (R.BLK_LOCK b) (s.regGet (R.BLK_LOCK b) ||| (v &&& maskBits k 1)), 0) := by
  have hmon : (mon && m != .mon) = false := by
    cases hx : mon with
    | false => rfl
    | true => rw [hm hx]; rfl
  have hlock : s.lockedField b ⟨R.BLK_LOCK b, k, 1⟩ .w1s = false := by simp [State.lockedField]
  unfold State.writeField
  simp only [hmon, hlock, Nat.sub_self, Nat.zero_add, Bool.false_eq_true, if_false, if_true]
  split <;> rfl

/-- A write of one lock bit of the page. -/
theorem writeReg_lock (h : s.MayWrite m b (R.BLK_LOCK b)) (hv : v ∈ [(1 : Word), 2] ∨ b = .cad ∧ v ∈ [(4 : Word), 8]) :
    s.writeReg m b (R.BLK_LOCK b) v = (s.reply 0).regPut (R.BLK_LOCK b) (s.regGet (R.BLK_LOCK b) ||| v) := by
  obtain ⟨hans, hmon⟩ := h
  have hm : decide (b = .kst) = true → m = .mon := fun hb => hmon ((monOnlyReg_lock b).trans hb)
  have hno : false = true → m = .mon := fun h => by cases h
  unfold State.writeReg
  rw [gate_open hans _ hmon, fieldsAt_lock, lockFields]
  simp only [List.mem_cons, List.not_mem_nil, or_false] at hv
  by_cases hcad : b = .cad
  · rw [if_pos hcad]
    have hv' : v = 1 ∨ v = 2 ∨ v = 4 ∨ v = 8 := by tauto
    obtain rfl | rfl | rfl | rfl := hv'
    all_goals
      simp +decide only [List.cons_append, List.nil_append, State.writeFields, writeField_lock hm, writeField_lock hno, if_true, if_false]
      rfl
  · rw [if_neg hcad]
    have hv' : v = 1 ∨ v = 2 := by tauto
    obtain rfl | rfl := hv'
    all_goals
      simp +decide only [List.cons_append, List.nil_append, State.writeFields, writeField_lock hm, if_true, if_false]
      rfl

/-- What a lock command does: it sets its bit alone. -/
theorem lock_set {i : Instr} (hi : exec i s = .next (s.writeReg m b (R.BLK_LOCK b) v)) (h : s.MayWrite m b (R.BLK_LOCK b))
    (hv : v ∈ [(1 : Word), 2] ∨ b = .cad ∧ v ∈ [(4 : Word), 8]) :
    s.Yields i fun t => t.regGet (R.BLK_LOCK b) = s.regGet (R.BLK_LOCK b) ||| v ∧ s.Spares t ∧ ∀ a, a ≠ R.BLK_LOCK b → t.regGet a = s.regGet a := by
  rw [writeReg_lock h hv] at hi
  exact ⟨_, hi, regGet_regPut_same .., ⟨rfl, rfl, rfl⟩, fun a ha => regGet_regPut_ne _ _ ha⟩

/-! ## A register with one RWL field (R53) -/

section
variable {hi lo r : Nat}

/-- The field is refused under code 1 while EN is 1. -/
theorem writeField_rwl_running (hen : s.en b = true) (hx : s.rd ⟨a, lo, hi - lo + 1⟩ ≠ getBits v lo (hi - lo + 1)) :
    s.writeField m b a ⟨hi, lo, .rwl, false, r⟩ v = (s, 1) := by
  simp [State.writeField, hen, hx]

theorem lockedField_cfg {f : Fld} (hf : f.addr ≠ R.BLK_CTRL b) {c : Cls} (hc : c = .rwl ∨ c = .rws) :
    s.lockedField b f c = s.bit (F.BLK_LOCK_CFG_LOCK b) := by
  obtain rfl | rfl := hc <;> simp [State.lockedField, hf]

/-- It is refused under code 2 under CFG_LOCK. -/
theorem writeField_rwl_locked (hen : s.en b = false) (hlock : s.bit (F.BLK_LOCK_CFG_LOCK b) = true) (ha : a ≠ R.BLK_CTRL b)
    (hx : s.rd ⟨a, lo, hi - lo + 1⟩ ≠ getBits v lo (hi - lo + 1)) : s.writeField m b a ⟨hi, lo, .rwl, false, r⟩ v = (s, 2) := by
  simp [State.writeField, hen, hx, lockedField_cfg (s := s) (f := ⟨a, lo, hi - lo + 1⟩) ha (.inl rfl), hlock]

/-- Else it takes the value, and the sum is to be recomputed (R51). -/
theorem writeField_rwl_open (hen : s.en b = false) (hlock : s.bit (F.BLK_LOCK_CFG_LOCK b) = false) (ha : a ≠ R.BLK_CTRL b)
    (hx : s.rd ⟨a, lo, hi - lo + 1⟩ ≠ getBits v lo (hi - lo + 1)) :
    s.writeField m b a ⟨hi, lo, .rwl, false, r⟩ v = ((s.wr ⟨a, lo, hi - lo + 1⟩ (getBits v lo (hi - lo + 1))).sumPend b, 0) := by
  simp [State.writeField, hen, hx, lockedField_cfg (s := s) (f := ⟨a, lo, hi - lo + 1⟩) ha (.inl rfl), hlock]

end

/-! ## The table base of LPE -/

theorem fieldsAt_lpeBase : fieldsAt R.LPE_TBL_BASE_HI = [⟨7, 0, .rwl, false, 0⟩] := by decide

theorem loopCommand_lpeBase : s.loopCommand m R.LPE_TBL_BASE_HI v = none := by
  simp +decide only [State.loopCommand, if_false, Bool.false_and, decide_false, ite_self]

theorem exec_regWrite_lpeBase (h : s.Answers .lpe) : exec (.regWrite m (BitVec.ofNat 40 R.LPE_TBL_BASE_HI) v) s =
    .next (s.writeReg m .lpe R.LPE_TBL_BASE_HI v) := by
  have hctrl : R.LPE_TBL_BASE_HI ≠ R.BLK_CTRL .lpe := by decide
  have hpage : s.writePage m .lpe R.LPE_TBL_BASE_HI v = s.writeReg m .lpe R.LPE_TBL_BASE_HI v := by
    simp only [State.writePage, if_neg hctrl]
  rw [exec_regWrite (by decide) (by decide) (by decide) (by decide),
    regWrite_plain (b := .lpe) (by decide) (by decide) h.2 (by simp only [State.wordCommand, loopCommand_lpeBase]), hpage]

/-- A register with one field: its write is the field's. -/
theorem writeReg_single {f : FieldSpec} (h : s.Answers b) (ha : monOnlyReg a = false) (hf : fieldsAt a = [f]) {t : State} {c : Nat}
    (hw : (s.reply 0).writeField m b a f v = (t, c)) : s.writeReg m b a v = if c = 0 then t else t.err b c (woffOf b a) := by
  unfold State.writeReg
  rw [gate_open h _ fun hm => absurd (ha.symm.trans hm) (by decide), hf]
  simp only [State.writeFields, hw, if_true]
  by_cases hc : c = 0 <;> simp [hc]

theorem lpeBase_refused {c : Nat} (h : s.Answers .lpe) (hc : c ≠ 0) (hc' : c < 2 ^ 8)
    (hw : (s.reply 0).writeField m .lpe R.LPE_TBL_BASE_HI ⟨7, 0, .rwl, false, 0⟩ v = (s.reply 0, c)) :
    s.Yields (.regWrite m (BitVec.ofNat 40 R.LPE_TBL_BASE_HI) v) fun t =>
      (t.regGet R.LPE_TBL_BASE_HI = s.regGet R.LPE_TBL_BASE_HI ∧ t.Erred .lpe c 0x11) ∧ s.Spares t := by
  have hwoff : woffOf .lpe R.LPE_TBL_BASE_HI = 0x11 := by decide
  refine ⟨_, exec_regWrite_lpeBase h, ?_⟩
  rw [writeReg_single h (by decide) fieldsAt_lpeBase hw, if_neg hc, hwoff]
  exact ⟨⟨regGet_err_ne (by decide) (by decide), err_erred hc' (by decide)⟩, err_mem .., err_cad .., err_pending ..⟩

theorem rd_sumPend {f : Fld} (hf : f.addr ≠ R.BLK_STAT b) : (s.sumPend b).rd f = s.rd f := rd_wr_ne s 1 hf

theorem sumPend_set (s : State) (b : Blk) : (s.sumPend b).bit (F.BLK_STAT_SUM_PEND b) = true :=
  congrArg (· != 0) (rd_wr_same s (F.BLK_STAT_SUM_PEND b) 1 (by norm_num))

theorem lpeBase_written (h : s.Answers .lpe) (hen : s.en .lpe = false) (hlock : s.bit (F.BLK_LOCK_CFG_LOCK .lpe) = false)
    (hx : getBits v 0 8 ≠ s.rd F.LPE_TBL_BASE_HI_BASE_HI) : s.Yields (.regWrite m (BitVec.ofNat 40 R.LPE_TBL_BASE_HI) v) fun t =>
      (t.rd F.LPE_TBL_BASE_HI_BASE_HI = getBits v 0 8 ∧ t.bit (F.BLK_STAT_SUM_PEND .lpe) = true) ∧ s.Spares t := by
  refine ⟨_, exec_regWrite_lpeBase h, ?_⟩
  rw [writeReg_single h (by decide) fieldsAt_lpeBase (writeField_rwl_open (s := s.reply 0) hen hlock (by decide) (Ne.symm hx)), if_pos rfl]
  refine ⟨⟨?_, sumPend_set _ _⟩, ⟨rfl, rfl, rfl⟩⟩
  rw [rd_sumPend (by decide), rd_wr_same _ _ _ (by norm_num)]
  exact Nat.mod_eq_of_lt (getBits_lt v 0 8)

/-! ## Shadows (R54) -/

theorem shadowOf_put_same (l : List (Fld × Nat)) (f : Fld) (x : Nat) : shadowOf (shadowPut l f x) f = some x := by
  induction l with
  | nil => simp [shadowPut, shadowOf]
  | cons p l ih =>
    obtain ⟨g, u⟩ := p
    by_cases h : g = f
    · simp [shadowPut, shadowOf, h]
    · simp [shadowPut, shadowOf, h, ih]

theorem mem_shadowPut (l : List (Fld × Nat)) (f : Fld) (x : Nat) : (f, x) ∈ shadowPut l f x := by
  induction l with
  | nil => simp [shadowPut]
  | cons p l ih =>
    obtain ⟨g, u⟩ := p
    by_cases h : g = f
    · simp [shadowPut, h]
    · simp [shadowPut, h, ih]

theorem shadowOf_filter_ne (l : List (Fld × Nat)) (f : Fld) : shadowOf (l.filter fun x => x.1 != f) f = none := by
  induction l with
  | nil => rfl
  | cons p l ih =>
    obtain ⟨g, u⟩ := p
    by_cases h : g = f
    · simp [h, ih]
    · simp [h, shadowOf, ih]

section
variable {hi lo r : Nat}

/-- An RWS field written while EN is 1 goes to its shadow. -/
theorem writeField_rws_running (hen : s.en b = true) (hlock : s.bit (F.BLK_LOCK_CFG_LOCK b) = false) (ha : a ≠ R.BLK_CTRL b)
    (hx : s.rdShadow ⟨a, lo, hi - lo + 1⟩ ≠ getBits v lo (hi - lo + 1)) :
    s.writeField m b a ⟨hi, lo, .rws, false, r⟩ v =
      ({ s with shadows := shadowPut s.shadows ⟨a, lo, hi - lo + 1⟩ (getBits v lo (hi - lo + 1)) }, 0) := by
  simp [State.writeField, hen, hx, lockedField_cfg (s := s) (f := ⟨a, lo, hi - lo + 1⟩) ha (.inr rfl), hlock]

/-- Written while EN is 0 it is active at once. -/
theorem writeField_rws_stopped (hen : s.en b = false) (hlock : s.bit (F.BLK_LOCK_CFG_LOCK b) = false) (ha : a ≠ R.BLK_CTRL b)
    (hofs : a ≠ R.TSU_TB3_OFS) (hx : s.rdShadow ⟨a, lo, hi - lo + 1⟩ ≠ getBits v lo (hi - lo + 1))
    (hx' : s.rd ⟨a, lo, hi - lo + 1⟩ ≠ getBits v lo (hi - lo + 1)) :
    s.writeField m b a ⟨hi, lo, .rws, false, r⟩ v =
      (({ s with shadows := s.shadows.filter fun x => x.1 != (⟨a, lo, hi - lo + 1⟩ : Fld) }.wr ⟨a, lo, hi - lo + 1⟩
        (getBits v lo (hi - lo + 1))).sumPend b, 0) := by
  simp [State.writeField, hen, hx, hx', hofs, lockedField_cfg (s := s) (f := ⟨a, lo, hi - lo + 1⟩) ha (.inr rfl), hlock]

end

/-! ## The phase of a task of CAD -/

theorem fieldsAt_cadPhase (n : Fin 8) : fieldsAt (R.CAD_TASKn_PHASE n) = [⟨23, 0, .rws, false, 0⟩] := by revert n; decide

theorem cadCommand_cadPhase (n : Fin 8) : s.cadCommand m (R.CAD_TASKn_PHASE n) v = none := by
  have hexc : idxAt (fun n : Fin 8 => R.CAD_EXC_FLAGSn n) (R.CAD_TASKn_PHASE n) = none := by revert n; decide
  have hne : R.CAD_TASKn_PHASE n ∉ [R.CAD_LOADCMD, R.CAD_INST_CMD, R.CAD_TASK_CMD, R.CAD_START, R.CAD_RET_CMD, R.CAD_FORCE_CMD, R.CAD_CHG_CMD] := by
    revert n; decide
  simp only [List.mem_cons, List.not_mem_nil, or_false, not_or] at hne
  obtain ⟨h1, h2, h3, h4, h5, h6, h7⟩ := hne
  simp only [State.cadCommand, if_neg h1, if_neg h2, if_neg h3, if_neg h4, if_neg h5, if_neg h6, if_neg h7, hexc, Option.map_none, ite_self]

theorem exec_regWrite_cadPhase (h : s.Answers .cad) (n : Fin 8) : exec (.regWrite m (BitVec.ofNat 40 (R.CAD_TASKn_PHASE n)) v) s =
    .next (s.writeReg m .cad (R.CAD_TASKn_PHASE n) v) := by
  have hreg : ∀ n : Fin 8, R.CAD_TASKn_PHASE n < 2 ^ 40 ∧ R.CAD_TASKn_PHASE n % 4 = 0 ∧ blkAt (R.CAD_TASKn_PHASE n) = some .cad ∧
      R.CAD_TASKn_PHASE n ≠ R.SYS_RST_CMD ∧ R.CAD_TASKn_PHASE n ≠ R.SYS_BOOT_CMD ∧ R.CAD_TASKn_PHASE n ≠ R.SYS_HOST_GO := by decide
  have hpage : ∀ n : Fin 8, R.CAD_TASKn_PHASE n ≠ R.BLK_CTRL .cad ∧ (∀ k < 8, R.CAD_TASKn_PHASE n ≠ R.CAD_TASKn_PERIOD k) ∧
      R.CAD_TASKn_PHASE n ≠ R.CAD_CHG_TIMEOUT := by decide
  obtain ⟨hlt, hmod, hblk, hrst, hboot, hgo⟩ := hreg n
  obtain ⟨hctrl, hperiod, htimeout⟩ := hpage n
  have hwrite : s.writePage m .cad (R.CAD_TASKn_PHASE n) v = s.writeReg m .cad (R.CAD_TASKn_PHASE n) v := by
    simp only [State.writePage, if_neg hctrl, writeCad_plain hperiod htimeout]
  rw [exec_regWrite hlt hrst hboot hgo, regWrite_plain hmod hblk h.2 (by simp only [State.wordCommand, cadCommand_cadPhase]), hwrite]

theorem cadPhase_written {n : Fin 8} (h : s.Answers .cad) (hlock : s.bit (F.BLK_LOCK_CFG_LOCK .cad) = false)
    (hsh : shadowOf s.shadows (F.CAD_TASKn_PHASE_PHASE n) = none) (hx : getBits v 0 24 ≠ s.rd (F.CAD_TASKn_PHASE_PHASE n)) :
    s.Yields (.regWrite m (BitVec.ofNat 40 (F.CAD_TASKn_PHASE_PHASE n).addr) v) fun t => s.Spares t ∧
      (if s.en .cad then t.rd (F.CAD_TASKn_PHASE_PHASE n) = s.rd (F.CAD_TASKn_PHASE_PHASE n) ∧
        t.rdShadow (F.CAD_TASKn_PHASE_PHASE n) = getBits v 0 24 ∧ t.shadowPend .cad = true
       else t.rd (F.CAD_TASKn_PHASE_PHASE n) = getBits v 0 24 ∧ shadowOf t.shadows (F.CAD_TASKn_PHASE_PHASE n) = none ∧
        t.bit (F.BLK_STAT_SUM_PEND .cad) = true) := by
  have hreg : ∀ n : Fin 8, monOnlyReg (R.CAD_TASKn_PHASE n) = false ∧ blkAt (R.CAD_TASKn_PHASE n) = some .cad ∧
      R.CAD_TASKn_PHASE n ≠ R.BLK_CTRL .cad ∧ R.CAD_TASKn_PHASE n ≠ R.BLK_STAT .cad ∧ R.CAD_TASKn_PHASE n ≠ R.TSU_TB3_OFS := by decide
  obtain ⟨hmon, hblk, hctrl, hstat, hofs⟩ := hreg n
  have hshadow : s.rdShadow (F.CAD_TASKn_PHASE_PHASE n) = s.rd (F.CAD_TASKn_PHASE_PHASE n) := by rw [State.rdShadow, hsh, Option.getD_none]
  have hx' : (s.reply 0).rdShadow (F.CAD_TASKn_PHASE_PHASE n) ≠ getBits v 0 24 := fun e => hx (e.symm.trans hshadow)
  refine ⟨_, exec_regWrite_cadPhase h n, ?_⟩
  cases hen : s.en .cad with
  | true =>
    rw [writeReg_single h hmon (fieldsAt_cadPhase n) (writeField_rws_running (s := s.reply 0) hen hlock hctrl hx'), if_pos rfl, if_pos rfl]
    refine ⟨⟨rfl, rfl, rfl⟩, rfl, ?_, ?_⟩
    · rw [State.rdShadow, shadowOf_put_same, Option.getD_some]
    · rw [State.shadowPend, List.any_eq_true]
      exact ⟨_, mem_shadowPut .., by simp [hblk]⟩
  | false =>
    rw [writeReg_single h hmon (fieldsAt_cadPhase n) (writeField_rws_stopped (s := s.reply 0) hen hlock hctrl hofs hx' (Ne.symm hx)), if_pos rfl,
      if_neg (by decide)]
    refine ⟨⟨rfl, rfl, rfl⟩, ?_, shadowOf_filter_ne _ _, sumPend_set _ _⟩
    rw [rd_sumPend hstat, rd_wr_same _ _ _ (by norm_num)]
    exact Nat.mod_eq_of_lt (getBits_lt v 0 24)

/-! ## The configuration sum (R51) -/

theorem cfgsum_updated (hpend : s.bit (F.BLK_STAT_SUM_PEND b) = true) (hon : s.domOff.getLsbD b.domain.idx = false) :
    s.Yields (.cfgsumUpdate b) fun t => t.regGet (R.BLK_CFGSUM b) = cfgSumOf s.regGet b ∧ t.bit (F.BLK_STAT_SUM_PEND b) = false ∧ s.Spares t ∧
      ∀ a, a ≠ R.BLK_CFGSUM b → a ≠ R.BLK_STAT b → t.regGet a = s.regGet a := by
  have hexec : exec (.cfgsumUpdate b) s = .next ((s.regPut (R.BLK_CFGSUM b) (cfgSumOf s.regGet b)).wr (F.BLK_STAT_SUM_PEND b) 0) := by
    change execCfgsumUpdate b s = _
    unfold execCfgsumUpdate
    rw [hpend, hon]
    rfl
  have hne : R.BLK_CFGSUM b ≠ R.BLK_STAT b := by simp
  refine ⟨_, hexec, ?_, ?_, ⟨rfl, rfl, rfl⟩, fun a hsum hstat => ?_⟩
  · rw [regGet_wr_ne _ _ hne, regGet_regPut_same]
  · exact congrArg (· != 0) (rd_wr_same _ (F.BLK_STAT_SUM_PEND b) 0 (by norm_num))
  · rw [regGet_wr_ne _ _ hstat, regGet_regPut_ne _ _ hsum]

/-- Settles O4: each clause is the lemma above on its register. -/
theorem locksAndShadows : Obligations.LocksAndShadows := by
  intro m s
  refine ⟨fun b h => ⟨lock_set rfl h (.inl (by simp)), lock_set rfl h (.inl (by simp)), fun hb => ?_⟩, fun h v hx => ⟨fun hen => ?_, fun hen hlock => ?_,
    fun hen hlock => ?_⟩, fun n h hlock v hsh hx => cadPhase_written h hlock hsh hx, fun b => cfgsum_updated⟩
  · subst hb
    exact ⟨lock_set rfl h (.inr ⟨rfl, by simp⟩), lock_set rfl h (.inr ⟨rfl, by simp⟩)⟩
  · exact lpeBase_refused h (by decide) (by decide) (writeField_rwl_running (s := s.reply 0) hen (Ne.symm hx))
  · exact lpeBase_refused h (by decide) (by decide) (writeField_rwl_locked (s := s.reply 0) hen hlock (by decide) (Ne.symm hx))
  · exact lpeBase_written h hen hlock hx

end Sys2Proof.Machine
end

/-! # Running and stopping (O2) -/

section
namespace Sys2Proof.Machine

variable {s : State} {m : Master} {b : Blk} {a : Nat} {v : Word}

/-! ## A write of one bit of BLK_CTRL (R46) -/

theorem woffOf_ctrl (b : Blk) : woffOf b (R.BLK_CTRL b) = 2 := by
  revert b; exact forall_blk (by decide)

theorem bitAt_eq (x : Word) (n : Nat) : bitAt x n = (getBits x n 1 != 0) := by
  have h : getBits x n 1 = (bitAt x n).toNat := by
    rw [bitAt, BitVec.getLsbD, Nat.testBit_eq_decide_div_mod_eq, getBits, Nat.shiftRight_eq_div_pow]
    obtain h | h := Nat.mod_two_eq_zero_or_one (x.toNat / 2 ^ n) <;> simp [h]
  rw [h]
  cases bitAt x n <;> rfl

/-- The word that a write of bit `n` of BLK_CTRL writes: EN and FREEZE repeat, SOFT_RST is 0, but for bit `n` itself. -/
def State.ctrlWord (s : State) (b : Blk) (n : Nat) (x : Bool) : Word := putBits (s.regGet (R.BLK_CTRL b) &&& 5) n 1 (b2n x)

theorem ctrlWord_same {n : Nat} (hn : n < 3) (x : Bool) : bitAt (s.ctrlWord b n x) n = x := by
  rw [bitAt_eq, State.ctrlWord, getBits_putBits_same _ _ _ _ (by omega)]
  cases x <;> rfl

theorem ctrlWord_ne {n k : Nat} (hn : n < 3) (hk : k < 3) (h : k ≠ n) (x : Bool) :
    bitAt (s.ctrlWord b n x) k = (bitAt (s.regGet (R.BLK_CTRL b)) k && bitAt 5 k) := by
  rw [bitAt_eq, State.ctrlWord, getBits_putBits_ne _ _ _ _ _ _ (by omega) (by omega) (by omega), ← bitAt_eq]
  simp [bitAt]

theorem bitAt_ctrl_en : bitAt (s.regGet (R.BLK_CTRL b)) 0 = s.en b := bitAt_eq _ 0
theorem bitAt_ctrl_freeze : bitAt (s.regGet (R.BLK_CTRL b)) 2 = s.bit (F.BLK_CTRL_FREEZE b) := bitAt_eq _ 2

theorem ctrlWord_en {n : Nat} (hn : n < 3) (h0 : 0 ≠ n) (x : Bool) : bitAt (s.ctrlWord b n x) 0 = s.en b := by
  rw [ctrlWord_ne hn (by omega) h0, bitAt_ctrl_en]
  exact Bool.and_true _

theorem ctrlWord_freeze {n : Nat} (hn : n < 3) (h2 : 2 ≠ n) (x : Bool) : bitAt (s.ctrlWord b n x) 2 = s.bit (F.BLK_CTRL_FREEZE b) := by
  rw [ctrlWord_ne hn (by omega) h2, bitAt_ctrl_freeze]
  exact Bool.and_true _

/-- SOFT_RST is written 0 with another bit. -/
theorem ctrlWord_rst {n : Nat} (hn : n < 3) (h1 : 1 ≠ n) (x : Bool) : bitAt (s.ctrlWord b n x) 1 = false := by
  rw [ctrlWord_ne hn (by omega) h1]
  exact Bool.and_false _

@[simp] theorem reply_bit (d : Word) (f : Fld) : (s.reply d).bit f = s.bit f := rfl
@[simp] theorem reply_en (d : Word) : (s.reply d).en b = s.en b := rfl
@[simp] theorem reply_stopping (d : Word) : (s.reply d).stopping b = s.stopping b := rfl

/-- A write of EN, which repeats FREEZE: the change it asks for, and the code of one that is refused. -/
theorem ctrlBit_en (h : s.MayWrite m b (R.BLK_CTRL b)) (x : Bool) : s.ctrlBit m b 0 x =
    (let r := s.reply 0
     let locked := s.bit (F.BLK_LOCK_CTRL_LOCK b)
     let t := if x = s.en b ∨ locked = true then r else if x then r.enableBlk b else if s.stopping b then r else r.requestStop b
     let c := if x && s.stopping b then 4 else if x ≠ s.en b ∧ locked = true then 2 else 0
     if c = 0 then t else t.err b c 2) := by
  have h0 : bitAt (s.ctrlWord b 0 x) 0 = x := ctrlWord_same (by omega) x
  have h1 : bitAt (s.ctrlWord b 0 x) 1 = false := ctrlWord_rst (by omega) (by omega) x
  have h2 : bitAt (s.ctrlWord b 0 x) 2 = s.bit (F.BLK_CTRL_FREEZE b) := ctrlWord_freeze (by omega) (by omega) x
  change s.writeCtrl m b (s.ctrlWord b 0 x) = _
  unfold State.writeCtrl
  rw [gate_open h.1 _ h.2]
  simp only [h0, h1, h2, woffOf_ctrl, reply_bit, reply_en, reply_stopping, Bool.false_and, Bool.false_eq_true, if_false, bne_self_eq_false]
  cases x <;> cases s.en b <;> cases s.stopping b <;> cases s.bit (F.BLK_LOCK_CTRL_LOCK b) <;> rfl

/-! ## The commands on EN -/

/-- EN = 1 of a block whose EN is locked. -/
theorem blkEnable_locked (h : s.MayWrite m b (R.BLK_CTRL b)) (hen : s.en b = false) (hlock : s.bit (F.BLK_LOCK_CTRL_LOCK b) = true)
    (hstop : s.stopping b = false) : exec (.blkEnable m b) s = .next ((s.reply 0).err b 2 2) := by
  change execBlkEnable m b s = _
  simp [execBlkEnable, ctrlBit_en h, hen, hlock, hstop]

/-- EN = 1 of a block that is stopping. -/
theorem blkEnable_stopping (h : s.MayWrite m b (R.BLK_CTRL b)) (hen : s.en b = true) (hstop : s.stopping b = true) :
    exec (.blkEnable m b) s = .next ((s.reply 0).err b 4 2) := by
  change execBlkEnable m b s = _
  simp [execBlkEnable, ctrlBit_en h, hen, hstop]

theorem blkEnable_open (h : s.MayWrite m b (R.BLK_CTRL b)) (hlock : s.bit (F.BLK_LOCK_CTRL_LOCK b) = false) (hstop : s.stopping b = false) :
    exec (.blkEnable m b) s = .next (if s.en b then s.reply 0 else (s.reply 0).enableBlk b) := by
  change execBlkEnable m b s = _
  cases hen : s.en b <;> simp [execBlkEnable, ctrlBit_en h, hen, hlock, hstop]

theorem blkStop_open (h : s.MayWrite m b (R.BLK_CTRL b)) (hlock : s.bit (F.BLK_LOCK_CTRL_LOCK b) = false) (hen : s.en b = true)
    (hstop : s.stopping b = false) : exec (.blkStop m b) s = .next ((s.reply 0).requestStop b) := by
  change execBlkStop m b s = _
  simp [execBlkStop, ctrlBit_en h, hen, hlock, hstop]

/-! ## What changes with EN -/

/-- EN and STOPPING alone change: no other register, no memory, and of the engine at most, in CAD, the tasks' instants owed. -/
def State.OnlyCtrl (s t : State) (b : Blk) : Prop :=
  t.mem = s.mem ∧ t.pending = s.pending ∧ (b ≠ .cad → t.cad = s.cad) ∧
    (b = .cad → t.cad = { s.cad with tasks := t.cad.tasks } ∧ ∀ n, t.task n = { s.task n with owed := (t.task n).owed }) ∧
    ∀ a, a ≠ R.BLK_CTRL b → a ≠ R.BLK_STAT b → t.regGet a = s.regGet a

theorem onlyCtrl_of_spares {t : State} (h : s.Spares t) (hr : ∀ a, a ≠ R.BLK_CTRL b → a ≠ R.BLK_STAT b → t.regGet a = s.regGet a) : s.OnlyCtrl t b := by
  obtain ⟨hmem, hcad, hpend⟩ := h
  refine ⟨hmem, hpend, fun _ => hcad, fun _ => ⟨by rw [hcad], fun n => ?_⟩, hr⟩
  rw [State.task, hcad]
  rfl

/-- The registers just after EN is set. -/
theorem en_set (s : State) (b : Blk) : (s.wr (F.BLK_CTRL_EN b) 1).en b = true :=
  congrArg (· != 0) (rd_wr_same s (F.BLK_CTRL_EN b) 1 (by norm_num))

/-- TSU's start marks its outputs, and nothing else. -/
theorem tsuStart_frame (s : State) : ∃ x, s.tsuStart = { s with tsu := x } := by
  have h (l : List (Fin 8)) : ∀ s : State, ∃ x,
      l.foldl (fun (s : State) (n : Fin 8) => if s.bit (F.TSU_TPn_CFG_EN n) then s.tpMark n else s) s = { s with tsu := x } := by
    induction l with
    | nil => exact fun s => ⟨_, rfl⟩
    | cons n l ih =>
      intro s
      rw [List.foldl_cons]
      split
      · obtain ⟨x, hx⟩ := ih (s.tpMark n)
        exact ⟨x, hx⟩
      · exact ih s
  exact h _ s

/-- The blocks whose start is EN and at most the marks of TSU's outputs. -/
def plainStart : List Blk := [.sys, .int, .fab, .xlt, .mem, .nfm, .cad, .lpe, .slv, .tsu, .tdm, .kst, .pwr, .rtc, .pnl, .bgs]

theorem enableBlk_plain (hb : b ∈ plainStart) : ∃ x, s.enableBlk b = { s.wr (F.BLK_CTRL_EN b) 1 with tsu := x } := by
  cases b with
  | spk | mtr | fio | evr | net | pfm | can p => simp [plainStart] at hb
  | tsu => exact tsuStart_frame _
  | _ => exact ⟨s.tsu, rfl⟩

theorem enableBlk_runs (hb : b ∈ plainStart) : (s.enableBlk b).en b = true ∧ s.OnlyCtrl (s.enableBlk b) b := by
  obtain ⟨x, hx⟩ := enableBlk_plain (s := s) hb
  rw [hx]
  exact ⟨en_set s b, onlyCtrl_of_spares ⟨rfl, rfl, rfl⟩ fun a ha _ => regGet_wr_ne s 1 ha⟩

/-! ## A stop (R46) -/

theorem notStopping_of_clear (s : State) (b : Blk) : (s.wr (F.BLK_STAT_STOPPING b) 0).stopping b = false :=
  congrArg (· != 0) (rd_wr_same s (F.BLK_STAT_STOPPING b) 0 (by norm_num))

theorem stopping_of_set (s : State) (b : Blk) : (s.wr (F.BLK_STAT_STOPPING b) 1).stopping b = true :=
  congrArg (· != 0) (rd_wr_same s (F.BLK_STAT_STOPPING b) 1 (by norm_num))

theorem en_wr_stat (s : State) (b : Blk) (x : Nat) : (s.wr (F.BLK_STAT_STOPPING b) x).en b = s.en b :=
  congrArg (· != 0) (rd_wr_ne s x (by simp))

theorem notEn_of_clear (s : State) (b : Blk) : (s.wr (F.BLK_CTRL_EN b) 0).en b = false :=
  congrArg (· != 0) (rd_wr_same s (F.BLK_CTRL_EN b) 0 (by norm_num))

theorem bit_congr {t : State} (h : t.regs = s.regs) (f : Fld) : t.bit f = s.bit f := congrArg (· != 0) (rd_congr h f)

/-- The registers after a stop: EN and STOPPING are 0. -/
def State.stopMarks (s : State) (b : Blk) : State := (s.wr (F.BLK_CTRL_EN b) 0).wr (F.BLK_STAT_STOPPING b) 0

theorem stopMarks_stopped (s : State) (b : Blk) : (s.stopMarks b).en b = false ∧ (s.stopMarks b).stopping b = false :=
  ⟨(en_wr_stat _ b 0).trans (notEn_of_clear s b), notStopping_of_clear _ b⟩

theorem stopMarks_regs {b : Blk} (hc : a ≠ R.BLK_CTRL b) (hs : a ≠ R.BLK_STAT b) : (s.stopMarks b).regGet a = s.regGet a :=
  (regGet_wr_ne _ _ hs).trans (regGet_wr_ne s _ hc)

/-- The tasks of the list owe no instant; nothing else changes. -/
theorem foldl_owed (l : List (Fin 8)) (s : State) : ∃ ts, l.foldl (fun s n => s.setTask n { s.task n with owed := false }) s =
    { s with cad := { s.cad with tasks := ts } } ∧ ∀ n : Fin 8, ts[n] = if n ∈ l then { s.task n with owed := false } else s.task n := by
  induction l generalizing s with
  | nil => exact ⟨s.cad.tasks, rfl, fun n => by simp [State.task]⟩
  | cons k l ih =>
    obtain ⟨ts, hts, htask⟩ := ih (s.setTask k { s.task k with owed := false })
    refine ⟨ts, hts, fun n => ?_⟩
    rw [htask]
    by_cases hn : n = k
    · subst hn
      simp [State.task, State.setTask]
    · have hval : k.val ≠ n.val := fun e => hn (Fin.ext e.symm)
      simp [State.task, State.setTask, hn, hval]

/-- The blocks whose stop ends with EN and STOPPING, but for the instants that CAD's tasks are owed and the guards' state. -/
theorem stopNow_plain (h1 : b ≠ .pfm) (h2 : b ≠ .mtr) (h3 : b ≠ .fio) (h4 : ∀ p, b ≠ .can p) (h5 : b ≠ .spk) (h6 : b ≠ .cad) :
    ∃ x, s.stopNow b = { s.stopMarks b with lpe := x } := by
  unfold State.stopNow
  rw [if_neg h1]
  cases b with
  | pfm | mtr | fio | spk | cad => contradiction
  | can p => exact absurd rfl (h4 p)
  | lpe => exact ⟨_, rfl⟩
  | _ => exact ⟨s.lpe, rfl⟩

theorem stopNow_stops (h1 : b ≠ .pfm) (h2 : b ≠ .mtr) (h3 : b ≠ .fio) (h4 : ∀ p, b ≠ .can p) (h5 : b ≠ .spk) (h6 : b ≠ .cad) :
    (s.stopNow b).en b = false ∧ (s.stopNow b).stopping b = false ∧ s.OnlyCtrl (s.stopNow b) b := by
  obtain ⟨x, hx⟩ := stopNow_plain (s := s) h1 h2 h3 h4 h5 h6
  obtain ⟨hen, hstop⟩ := stopMarks_stopped s b
  have hregs : (s.stopNow b).regs = (s.stopMarks b).regs := by rw [hx]
  refine ⟨(bit_congr hregs _).trans hen, (bit_congr hregs _).trans hstop, onlyCtrl_of_spares (by rw [hx]; exact ⟨rfl, rfl, rfl⟩) fun a hc hs => ?_⟩
  exact (regGet_congr hregs a).trans (stopMarks_regs hc hs)

theorem mem_allTasks (n : Fin 8) : n ∈ allTasks := by revert n; decide

/-- CAD's stop also cancels the instants that its tasks are owed (R112). -/
theorem stopNow_cad (s : State) : (s.stopNow .cad).en .cad = false ∧ (s.stopNow .cad).stopping .cad = false ∧ s.OnlyCtrl (s.stopNow .cad) .cad ∧
    ∀ n, ((s.stopNow .cad).task n).owed = false := by
  obtain ⟨ts, hts, htask⟩ := foldl_owed allTasks (s.stopMarks .cad)
  have hx : s.stopNow .cad = { s.stopMarks .cad with cad := { s.cad with tasks := ts } } := hts
  have howed (n : Fin 8) : (s.stopNow .cad).task n = { s.task n with owed := false } := by
    rw [hx]
    exact (htask n).trans (if_pos (mem_allTasks n))
  obtain ⟨hen, hstop⟩ := stopMarks_stopped s .cad
  have hcad : (s.stopNow .cad).cad = { s.cad with tasks := (s.stopNow .cad).cad.tasks } := by rw [hx]
  have hregs : (s.stopNow .cad).regs = (s.stopMarks .cad).regs := by rw [hx]
  refine ⟨(bit_congr hregs _).trans hen, (bit_congr hregs _).trans hstop, ⟨by rw [hx]; rfl, by rw [hx]; rfl, fun h => absurd rfl h,
    fun _ => ⟨hcad, fun n => by rw [howed]⟩, fun a hc hs => ?_⟩, fun n => by rw [howed]⟩
  exact (regGet_congr hregs a).trans (stopMarks_regs hc hs)

/-- The blocks that have no work that a stop waits for. -/
def idleBlks : List Blk := [.sys, .int, .fab, .xlt, .mem, .lpe, .pwr, .rtc, .bgs]

theorem requestStop_idle (hb : b ∈ idleBlks) : s.requestStop b = s.stopNow b := by
  cases b with
  | sys | int | fab | xlt | mem | lpe | pwr | rtc | bgs => rfl
  | _ => simp [idleBlks] at hb

/-- The blocks of the stop boundary's clause. -/
def boundaryBlks : List Blk := [.cad, .kst, .nfm, .evr, .tsu, .slv, .net, .pnl, .tdm]

theorem stopNow_idle (hb : b ∈ idleBlks ++ boundaryBlks) : (s.stopNow b).en b = false ∧ (s.stopNow b).stopping b = false ∧ s.OnlyCtrl (s.stopNow b) b := by
  by_cases hcad : b = .cad
  · subst hcad
    obtain ⟨hen, hstop, honly, -⟩ := stopNow_cad s
    exact ⟨hen, hstop, honly⟩
  · have hcan (p : Fin 4) : b ≠ .can p := by rintro rfl; simp [idleBlks, boundaryBlks] at hb
    refine stopNow_stops ?_ ?_ ?_ hcan ?_ hcad <;> rintro rfl <;> simp [idleBlks, boundaryBlks] at hb

theorem cad_atRest : s.atRest .cad = true ↔ ∀ n, s.taskState n ≠ 2 := by
  simp [State.atRest, mem_allTasks]

theorem requestStop_cad_rest (h : s.atRest .cad = true) : s.requestStop .cad = s.stopNow .cad := by
  simp [State.requestStop, State.canBusy, State.boundaryAhead, h]

theorem requestStop_cad_work (h : s.atRest .cad = false) : s.requestStop .cad = s.wr (F.BLK_STAT_STOPPING .cad) 1 := by
  simp [State.requestStop, State.canBusy, State.boundaryAhead, h]

/-- BLK_CTRL and BLK_STAT of a page stay at an error. -/
theorem bit_err_ctrl {c w : Nat} {n : Nat} : (s.err b c w).bit ⟨R.BLK_CTRL b, n, 1⟩ = s.bit ⟨R.BLK_CTRL b, n, 1⟩ :=
  congrArg (· != 0) (rd_of_regGet (regGet_err_ne (by simp) (by simp)))
theorem bit_err_stat {c w : Nat} {n : Nat} : (s.err b c w).bit ⟨R.BLK_STAT b, n, 1⟩ = s.bit ⟨R.BLK_STAT b, n, 1⟩ :=
  congrArg (· != 0) (rd_of_regGet (regGet_err_ne (by simp) (by simp)))

theorem err_spares {c w : Nat} : s.Spares ((s.reply 0).err b c w) := ⟨err_mem .., err_cad .., err_pending ..⟩

/-- Settles O2: by what a write of EN does, and what a stop changes. -/
theorem runningAndStopping : Obligations.RunningAndStopping := by
  intro m b s only
  have honly {t : State} (h : (s.reply 0).OnlyCtrl t b) : only t := h
  refine ⟨fun hmay => ⟨fun hen hlock hstop => ?_, fun hen hstop => ?_, fun hb hlock hstop => ?_, fun hb hlock hen hstop => ?_, ?_⟩,
    fun hb hlive hstop hrest => ?_, fun hlive hstop hrest => ?_⟩
  · exact ⟨_, blkEnable_locked hmay hen hlock hstop, bit_err_ctrl.trans hen, err_erred (by decide) (by decide), err_spares⟩
  · exact ⟨_, blkEnable_stopping hmay hen hstop, bit_err_stat.trans hstop, err_erred (by decide) (by decide), err_spares⟩
  · refine ⟨_, blkEnable_open hmay hlock hstop, ?_⟩
    cases hen : s.en b with
    | true =>
      rw [if_pos rfl]
      exact ⟨hen, honly (onlyCtrl_of_spares ⟨rfl, rfl, rfl⟩ fun _ _ _ => rfl)⟩
    | false =>
      rw [if_neg (by decide)]
      obtain ⟨hruns, h⟩ := enableBlk_runs (s := s.reply 0) hb
      exact ⟨hruns, honly h⟩
  · have h := stopNow_idle (s := s.reply 0) (List.mem_append_left boundaryBlks hb)
    rw [← requestStop_idle hb] at h
    exact ⟨_, blkStop_open hmay hlock hen hstop, h.1, h.2.1, honly h.2.2⟩
  · rintro rfl hlock hen hstop
    have hexec := blkStop_open hmay hlock hen hstop
    refine ⟨fun hrest => ?_, fun ⟨n, hn⟩ => ?_⟩
    · rw [requestStop_cad_rest (s := s.reply 0) (cad_atRest.mpr hrest)] at hexec
      obtain ⟨hoff, hdone, h, howed⟩ := stopNow_cad (s.reply 0)
      exact ⟨_, hexec, hoff, hdone, honly h, howed⟩
    · have hwork : (s.reply 0).atRest .cad = false := Bool.eq_false_iff.mpr fun h => cad_atRest.mp h n hn
      rw [requestStop_cad_work (s := s.reply 0) hwork] at hexec
      exact ⟨_, hexec, (en_wr_stat _ _ 1).trans hen, stopping_of_set _ _,
        honly (onlyCtrl_of_spares ⟨rfl, rfl, rfl⟩ fun a _ ha => regGet_wr_ne _ 1 ha)⟩
  · have hexec : exec (.stopBoundary b) s = .next (s.stopNow b) := by
      change execStopBoundary b s = _
      rw [execStopBoundary, whileLive_live hlive, hstop, hrest]
      rfl
    obtain ⟨hoff, hdone, h⟩ := stopNow_idle (s := s) (List.mem_append_right idleBlks hb)
    exact ⟨_, hexec, hoff, hdone, h⟩
  · change execStopBoundary b s = _
    rw [execStopBoundary, whileLive_live hlive, hstop, hrest]
    rfl

end Sys2Proof.Machine
end

/-! # A soft reset is over one idle cycle later (O3)

An idle cycle ends every soft reset and has no command to start another; what a joining standby replays in it (R378) starts none either. -/

section
-- One theorem after another: side by side, so many proofs ask for more threads than the check's memory holds.
set_option Elab.async false

namespace Sys2Proof.Machine

/-- No soft reset runs and no command waits. -/
def State.Settled (s : State) : Prop := s.softRst = 0 ∧ s.pending = []

variable {s : State}

theorem State.Settled.frame {t : State} (hr : t.softRst = s.softRst := by rfl) (hp : t.pending = s.pending := by rfl) (hs : s.Settled) : t.Settled :=
  ⟨hr.trans hs.1, hp.trans hs.2⟩

/-! ## Branches, folds and the shared operations -/

theorem ite_settled {c : Prop} [Decidable c] {s t : State} (hs : s.Settled) (ht : t.Settled) : (if c then s else t).Settled := by
  split
  · exact hs
  · exact ht

theorem ite_fst_settled {α : Type} {c : Prop} [Decidable c] {x y : State × α} (hx : x.1.Settled) (hy : y.1.Settled) :
    (if c then x else y).1.Settled := by
  split
  · exact hx
  · exact hy

theorem fst_settled {α : Type} {p : State × α} {s : State} {x : α} (e : p = (s, x)) (h : p.1.Settled) : s.Settled := by rw [e] at h; exact h
theorem snd_settled {α : Type} {p : α × State} {s : State} {x : α} (e : p = (x, s)) (h : p.2.Settled) : s.Settled := by rw [e] at h; exact h

theorem foldl_settled {α : Type} {f : State → α → State} {l : List α} (hs : s.Settled) (hf : ∀ t, t.Settled → ∀ x, (f t x).Settled) :
    (l.foldl f s).Settled := by
  induction l generalizing s with
  | nil => exact hs
  | cons x l ih => exact ih (hf s hs x)

theorem raise_settled (hs : s.Settled) {b n} : (s.raise b n).Settled := .frame (raise_softRst ..) (raise_pending ..) hs
theorem err_settled (hs : s.Settled) {b code woff} : (s.err b code woff).Settled := .frame (err_softRst ..) (err_pending ..) hs
theorem event_settled (hs : s.Settled) {b n sev p0 p1 p2 p3} : (s.event b n sev p0 p1 p2 p3).Settled := .frame (event_softRst ..) (event_pending ..) hs
theorem raiseEv_settled (hs : s.Settled) {b n} : (s.raiseEv b n).Settled := .frame (raiseEv_softRst ..) (raiseEv_pending ..) hs

/-! ## Memory, translation and what reads meet -/

theorem commit_settled (hs : s.Settled) {b p} : (s.commit b p).Settled := by
  unfold State.commit
  extract_lets mine s1
  have hs1 : s1.Settled := by
    unfold s1
    refine foldl_settled hs (fun s2 hs2 x => ?_)
    split
    exact ite_settled hs2 hs2.frame
  exact hs1.frame

theorem memRead_settled (hs : s.Settled) {a n} : (s.memRead a n).2.Settled := by
  unfold State.memRead
  split
  · split
    rename_i x v s1 e
    exact snd_settled e hs.frame
  · exact hs

theorem dropModel_settled (hs : s.Settled) : s.dropModel.Settled := by
  unfold State.dropModel
  extract_lets s1
  have hs1 : s1.Settled := foldl_settled hs.frame fun _ h1 _ => h1.frame
  exact hs1.frame

theorem tileFault_settled (hs : s.Settled) {tile slots} : (s.tileFault tile slots).Settled := by
  unfold State.tileFault
  extract_lets s1 s2
  have hs1 : s1.Settled := dropModel_settled (err_settled hs.frame)
  have hs2 : s2.Settled := foldl_settled hs1 fun _ h1 _ => ite_settled h1.frame h1
  exact hs2.frame

theorem ueSeen_settled (hs : s.Settled) {w} : (s.ueSeen w).Settled := by
  unfold State.ueSeen
  split
  · split
    rename_i x v s1 e
    exact tileFault_settled (snd_settled e hs.frame)
  · exact event_settled (err_settled (raise_settled hs.frame))

theorem xlate_settled (hs : s.Settled) {ctx wr va} : (s.xlate ctx wr va).1.Settled := by
  unfold State.xlate
  extract_lets mode vpn fin
  split
  · exact hs
  · split
    · exact hs
    · split
      · exact hs
      · split
        · exact hs
        · split
          · exact hs
          · split
            · exact hs
            · exact ueSeen_settled hs
            · exact hs.frame

theorem xltFault_settled (hs : s.Settled) {ctx cause wr va} : (s.xltFault ctx cause wr va).Settled := by
  unfold State.xltFault
  extract_lets src s1 src1
  have hs1 : s1.Settled := raise_settled hs.frame
  exact ite_settled hs1.frame (raise_settled hs1.frame)

theorem readCuts_settled (hs : s.Settled) {ctx l} : (s.readCuts ctx l).1.Settled := by
  induction l generalizing s with
  | nil => exact hs
  | cons x l ih =>
    unfold State.readCuts
    split
    · rename_i s1 c e
      exact xltFault_settled (fst_settled e (xlate_settled hs))
    · rename_i s1 pa e
      have hs1 : s1.Settled := fst_settled e (xlate_settled hs)
      refine ite_fst_settled hs1 ?_
      split
      · exact ueSeen_settled hs1
      · exact ih (memRead_settled hs1)

theorem dmaRead_settled (hs : s.Settled) {ctx va n} : (s.dmaRead ctx va n).1.Settled := readCuts_settled hs

/-! ## The lanes' dispatch and the stream -/

theorem nextWave_settled (hs : s.Settled) {n l} : (s.nextWave n l).Settled := by
  induction l with
  | nil => exact hs.frame
  | cons w l ih => exact ite_settled ih hs.frame

theorem fillOne_settled (hs : s.Settled) {n c} : (s.fillOne n c).Settled := by
  unfold State.fillOne
  split
  · exact hs
  · split
    · exact hs.frame
    · split
      · exact hs.frame
      · exact hs

theorem dispatch_settled (hs : s.Settled) : s.dispatch.Settled := by
  unfold State.dispatch
  split
  · exact hs
  · split
    · exact hs
    · exact foldl_settled (ite_settled (nextWave_settled hs) hs) fun _ h1 _ => fillOne_settled h1

theorem preempt_settled (hs : s.Settled) {n} : (s.preempt n).Settled := foldl_settled hs fun _ h1 _ => ite_settled h1.frame h1
theorem emit_settled (hs : s.Settled) {e} : (s.emit e).Settled := ite_settled hs.frame hs
theorem leaveStep_settled (hs : s.Settled) {reason} : (s.leaveStep reason).Settled := ite_settled (raise_settled hs.frame) hs

/-! ## A guard pass of LPE -/

theorem slotError_settled (hs : s.Settled) {n} : (s.slotError n).Settled := raiseEv_settled (err_settled hs.frame)
theorem slotErrors_settled (hs : s.Settled) {p} : (s.slotErrors p).Settled := foldl_settled hs fun _ h1 _ => ite_settled (slotError_settled h1) h1

theorem guardEntryPass_settled (hs : s.Settled) {safeAll dt e} : (s.guardEntryPass safeAll dt e).1.Settled := by
  unfold State.guardEntryPass
  split
  extract_lets src s1 s2 s3 s4
  have hs1 : s1.Settled := hs.frame
  have hs2 : s2.Settled := ite_settled hs1.frame hs1
  have hs3 : s3.Settled := ite_settled hs2.frame hs2
  have hs4 : s4.Settled := ite_settled hs3.frame hs3
  exact ite_settled hs4.frame hs4

theorem guardEntries_settled (hs : s.Settled) {early dt l acted} : (s.guardEntries early dt l acted).1.Settled := by
  induction l generalizing s acted with
  | nil => exact hs
  | cons e t ih => exact ih (guardEntryPass_settled hs)

theorem putHash_settled (hs : s.Settled) {a h} : (s.putHash a h).Settled := foldl_settled hs fun _ h1 _ => h1.frame

theorem guardSwitch_settled (hs : s.Settled) : s.guardSwitch.Settled := by
  unfold State.guardSwitch
  extract_lets nb g has s1 s2 src s3
  have hs1 : s1.Settled := hs.frame
  have hs2 : s2.Settled := putHash_settled hs1
  have hs3 : s3.Settled := hs2.frame
  clear_value nb g has s1 s2 src s3
  exact slotErrors_settled hs3

theorem countUnguarded_settled (hs : s.Settled) : s.countUnguarded.Settled := ite_settled hs.frame (raise_settled hs.frame)

theorem guardPassAt_settled (hs : s.Settled) {now switch} : (s.guardPassAt now switch).Settled := by
  unfold State.guardPassAt
  extract_lets s0 s1 dt es early
  have hs0 : s0.Settled := commit_settled hs
  have hs1 : s1.Settled := ite_settled (guardSwitch_settled hs0) hs0
  clear_value s0 s1 dt es early
  split
  rename_i x s2 acted e
  have hs2 : s2.Settled := fst_settled e (guardEntries_settled hs1)
  extract_lets s3 s4 src s5
  have hs3 : s3.Settled := ite_settled (raise_settled hs2) hs2
  have hs4 : s4.Settled := hs3.frame
  have hs5 : s5.Settled := hs4.frame
  clear_value s3 s4 src s5
  exact countUnguarded_settled hs5

/-! ## The start of a cycle -/

theorem applyInst_settled (hs : s.Settled) {n i op} : (s.applyInst n i op).Settled := by
  unfold State.applyInst
  extract_lets b s1 left t s2 src
  have hs1 : s1.Settled := ite_settled hs.frame hs
  have hs2 : s2.Settled := hs1.frame
  exact hs2.frame

theorem applyInstCmds_settled (hs : s.Settled) {n} : (s.applyInstCmds n).Settled := foldl_settled hs.frame fun _ h1 _ => applyInst_settled h1

theorem takeSnapshot_settled (hs : s.Settled) {n} : (s.takeSnapshot n).Settled := by
  unfold State.takeSnapshot
  extract_lets b
  refine foldl_settled hs (fun s1 hs1 k => ?_)
  split
  · exact hs1
  · split
    exact hs1.frame

theorem lockAtStart_settled (hs : s.Settled) {ring was} : (s.lockAtStart ring was).Settled :=
  ite_settled (ite_settled (raise_settled hs.frame) hs.frame) (ite_settled (ite_settled (raise_settled hs.frame) hs.frame) hs.frame)

theorem startCycle_settled (hs : s.Settled) {n now ring} : (s.startCycle n now ring).Settled := by
  unfold State.startCycle
  extract_lets s1 p0 ph0 s2 t regrid at_ t1 s3 s4 s5 src s6 s7
  have hs1 : s1.Settled := hs.frame
  have hs2 : s2.Settled := commit_settled hs1
  have hs3 : s3.Settled := applyInstCmds_settled hs2.frame
  have hs4 : s4.Settled := ite_settled (lockAtStart_settled hs3) hs3
  have hs5 : s5.Settled := (takeSnapshot_settled hs4).frame
  have hs6 : s6.Settled := hs5.frame
  exact dispatch_settled (ite_settled (preempt_settled hs6) hs6)

/-! ## Task commands and starts of a program -/

theorem doStart_settled (hs : s.Settled) {n} : (s.doStart n).Settled := ite_settled hs.frame (err_settled hs)

theorem doStop_settled (hs : s.Settled) {n} : (s.doStop n).Settled :=
  ite_settled (err_settled hs) (ite_settled hs.frame hs.frame)

theorem doRestart_settled (hs : s.Settled) {n} : (s.doRestart n).Settled := ite_settled hs.frame (err_settled hs)
theorem doRestartCold_settled (hs : s.Settled) {n} : (s.doRestartCold n).Settled := ite_settled hs.frame (err_settled hs)

theorem activate_settled (hs : s.Settled) {b} : (s.activate b).Settled := by
  unfold State.activate
  extract_lets s1 s2 src
  have hs1 : s1.Settled := ite_settled hs.frame hs
  have hs2 : s2.Settled := putHash_settled hs1.frame
  clear_value s1 s2 src
  exact hs2.frame

theorem rebind_settled (hs : s.Settled) : s.rebind.Settled := by
  unfold State.rebind
  extract_lets b lost s1 s2
  have hs1 : s1.Settled := by
    unfold s1
    refine foldl_settled hs (fun s11 hs11 e => ?_)
    split
    · exact hs11.frame
    · exact hs11
  have hs2 : s2.Settled := raise_settled hs1
  split
  · exact hs1
  · refine foldl_settled hs2 (fun s11 hs11 e => ?_)
    split
    · exact event_settled hs11
    · exact hs11

theorem dropSigs_settled (hs : s.Settled) {sigs} : (s.dropSigs sigs).Settled :=
  ite_settled (foldl_settled hs fun _ h1 _ => h1.frame) (event_settled (foldl_settled hs fun _ h1 _ => h1.frame))

theorem startBank_settled (hs : s.Settled) {b f} : (s.startBank b f).Settled := by
  unfold State.startBank
  extract_lets gone src s1 s2 s3 s4 held src1 s5
  have hs1 : s1.Settled := foldl_settled hs.frame fun _ h1 _ => h1.frame
  have hs2 : s2.Settled := activate_settled hs1
  have hs3 : s3.Settled := foldl_settled hs2 fun _ h1 _ => h1.frame
  have hs4 : s4.Settled := foldl_settled hs3 fun _ h1 _ => h1.frame
  have hs5 : s5.Settled := hs4.frame
  clear_value gone src s1 s2 s3 s4 held src1 s5
  exact rebind_settled (dropSigs_settled hs5)

theorem startTasks_settled (hs : s.Settled) {tasks} : (s.startTasks tasks).Settled := foldl_settled hs fun _ h1 _ => ite_settled h1.frame h1

theorem startDone_settled (hs : s.Settled) {r} : (s.startDone r).Settled :=
  ite_settled (err_settled (raise_settled hs.frame)) (raise_settled hs.frame)

theorem coldStart_settled (hs : s.Settled) {tasks r} : (s.coldStart tasks r).Settled := startDone_settled (startTasks_settled (startBank_settled hs))

theorem coldStartCmd_settled (hs : s.Settled) {tasks} : (s.coldStartCmd tasks).Settled :=
  ite_settled (startDone_settled hs) (coldStart_settled hs.frame)

theorem commitRetBase_settled (hs : s.Settled) : s.commitRetBase.Settled := commit_settled hs

theorem readSet_settled (hs : s.Settled) : s.readSet.1.Settled := by
  unfold State.readSet
  extract_lets a
  split
  · rename_i x s1 e
    exact fst_settled e (dmaRead_settled hs)
  · rename_i x s1 bs e
    have hs1 : s1.Settled := fst_settled e (dmaRead_settled hs)
    extract_lets size n
    split
    · exact hs1
    · split
      · exact hs1
      · split
        · exact hs1
        · split
          · exact hs1
          · split
            · rename_i x1 s11 e1
              exact fst_settled e1 (dmaRead_settled hs1)
            · rename_i x1 s11 bs1 e1
              have hs11 : s11.Settled := fst_settled e1 (dmaRead_settled hs1)
              exact ite_fst_settled hs11 (ite_fst_settled hs11 hs11)

theorem mismEvents_settled (hs : s.Settled) {b f} : (s.mismEvents b f).Settled := by
  unfold State.mismEvents
  refine foldl_settled hs (fun s1 hs1 t => ?_)
  extract_lets l
  clear_value l
  split
  · exact hs1
  · exact event_settled hs1

theorem convFlags_settled (hs : s.Settled) {b i fl} : (s.convFlags b i fl).Settled := by
  unfold State.convFlags
  split
  · exact hs
  · split
    · exact hs
    · exact hs.frame

theorem warmStart_settled (hs : s.Settled) {tasks} : (s.warmStart tasks).Settled := by
  unfold State.warmStart
  extract_lets s0 b
  have hs0 : s0.Settled := (commitRetBase_settled hs).frame
  split
  · rename_i x s2 o e
    exact coldStart_settled (event_settled (fst_settled e (readSet_settled hs0)).frame)
  · rename_i x s2 i e
    have hs2 : s2.Settled := fst_settled e (readSet_settled hs0)
    exact startDone_settled (startTasks_settled (mismEvents_settled (foldl_settled (startBank_settled hs2) fun _ h1 _ =>
      convFlags_settled h1).frame))

theorem warmStartCmd_settled (hs : s.Settled) {tasks} : (s.warmStartCmd tasks).Settled := ite_settled (startDone_settled hs) (warmStart_settled hs)
theorem commitStage_settled (hs : s.Settled) : s.commitStage.Settled := commit_settled hs

/-! ## Slot commands and samples of LPE -/

theorem recordDigest_settled (hs : s.Settled) {num} : (s.recordDigest num).Settled :=
  ite_settled hs (ite_settled hs.frame (emit_settled hs.frame))

theorem slotDone_settled (hs : s.Settled) {n result} : (s.slotDone n result).Settled := raise_settled (ite_settled hs.frame hs)

theorem doEnable_settled (hs : s.Settled) {n} : (s.doEnable n).Settled := by
  unfold State.doEnable
  split
  · rename_i x s1 e
    exact slotDone_settled (err_settled (fst_settled e (dmaRead_settled hs)))
  · rename_i x s1 bs e
    have hs1 : s1.Settled := fst_settled e (dmaRead_settled hs)
    exact ite_settled (slotDone_settled (err_settled hs1)) (slotDone_settled hs1.frame)

theorem doDisable_settled (hs : s.Settled) {n} : (s.doDisable n).Settled := by
  unfold State.doDisable
  extract_lets x s1 s2
  have hs1 : s1.Settled := hs.frame
  have hs2 : s2.Settled := by
    unfold s2
    split
    · exact ite_settled hs1.frame hs1
    · exact hs1
  exact slotDone_settled hs2

theorem doReload_settled (hs : s.Settled) {n} : (s.doReload n).Settled := by
  unfold State.doReload
  extract_lets x
  split
  · rename_i x1 s1 e
    exact slotDone_settled (err_settled (fst_settled e (dmaRead_settled hs)))
  · rename_i x1 s1 bs e
    have hs1 : s1.Settled := fst_settled e (dmaRead_settled hs)
    exact ite_settled (slotDone_settled (err_settled hs1)) (ite_settled (slotDone_settled (err_settled hs1)) (slotDone_settled hs1.frame))

theorem slotCmdNow_settled (hs : s.Settled) {n} : (s.slotCmdNow n).Settled :=
  ite_settled (doDisable_settled hs.frame) (ite_settled (doReload_settled hs.frame) hs.frame)

theorem slotCommandHere_settled (hs : s.Settled) {n op} : (s.slotCommandHere n op).Settled :=
  ite_settled (doEnable_settled hs.frame) (ite_settled (doDisable_settled hs.frame) (ite_settled hs.frame (err_settled hs)))

theorem countEvals_settled (hs : s.Settled) {n} : (s.countEvals n).Settled := ite_settled hs.frame hs.frame

theorem sampleWith_settled (hs : s.Settled) {n pvs fb fq} : (s.sampleWith n pvs fb fq).Settled := by
  unfold State.sampleWith
  extract_lets x0 e ls0 comp hist
  split
  extract_lets x1 s1 s2 v s3 s4
  have hs1 : s1.Settled := countEvals_settled hs.frame
  have hs2 : s2.Settled := ite_settled hs1.frame hs1
  have hs3 : s3.Settled := hs2.frame
  have hs4 : s4.Settled := ite_settled hs3 (raise_settled hs3)
  split
  · split
    exact hs2.frame
  · exact hs4.frame

/-! ## Entries of the stream (R372, R378) -/

theorem tdmEvent_settled (hs : s.Settled) {k : State → State} (hk : ∀ t, t.Settled → (k t).Settled) : (s.tdmEvent k).Settled :=
  ite_settled hs (ite_settled (hk _ hs) hs)

theorem applyInstant_settled (hs : s.Settled) {pass ring cadSum lpeSum ofs} : (s.applyInstant pass ring cadSum lpeSum ofs).Settled :=
  ite_settled (leaveStep_settled hs.frame) hs.frame

theorem applyStart_settled (hs : s.Settled) {n time} : (s.applyStart n time).Settled := ite_settled hs (startCycle_settled hs)

theorem applySample_settled (hs : s.Settled) {n vals} : (s.applySample n vals).Settled :=
  ite_settled (slotCmdNow_settled hs) (sampleWith_settled (slotCmdNow_settled hs))

theorem takeLag_settled (hs : s.Settled) : s.takeLag.Settled := ite_settled hs hs.frame

theorem applyPass_settled (hs : s.Settled) {time switch hash} : (s.applyPass time switch hash).Settled :=
  ite_settled (leaveStep_settled hs) (recordDigest_settled (takeLag_settled (guardPassAt_settled hs)))

theorem applyForce_settled (hs : s.Settled) {sig value qual st} : (s.applyForce sig value qual st).Settled := by
  unfold State.applyForce
  split
  · exact hs
  · exact hs.frame

theorem taskCmdHere_settled (hs : s.Settled) {v} : (s.taskCmdHere v).Settled :=
  ite_settled (doStart_settled hs) (ite_settled (doStop_settled hs) (ite_settled (doRestart_settled hs) (ite_settled (doRestartCold_settled hs)
    (ite_settled hs.frame hs))))

theorem applyCmd_settled (hs : s.Settled) {reg v} : (s.applyCmd reg v).Settled :=
  ite_settled hs.frame (ite_settled (taskCmdHere_settled hs) (ite_settled (ite_settled (warmStartCmd_settled hs) (coldStartCmd_settled hs))
    (ite_settled (slotCommandHere_settled hs) (ite_settled hs.frame hs))))

theorem applyChange_settled (hs : s.Settled) {hash} : (s.applyChange hash).Settled := by
  unfold State.applyChange
  split
  · exact leaveStep_settled hs
  · exact ite_settled (leaveStep_settled hs) (commitStage_settled hs).frame

theorem applyEntry_settled (hs : s.Settled) {a} : (s.applyEntry a).Settled := by
  unfold State.applyEntry
  split
  · exact applyInstant_settled hs
  · exact hs.frame
  · exact applyStart_settled hs
  · exact applySample_settled hs
  · exact applyPass_settled hs
  · exact applyForce_settled hs
  · exact hs.frame
  · exact applyCmd_settled hs
  · exact applyChange_settled hs

theorem replayNext_settled (hs : s.Settled) : s.replayNext.Settled := by
  unfold State.replayNext
  refine tdmEvent_settled hs (fun s1 hs1 => ?_)
  split
  · exact hs1
  · split
    · exact hs1
    · exact ite_settled (applyEntry_settled hs1.frame) hs1

/-! ## The idle cycle (R47) -/

theorem cycled_settled (h : s.pending = []) : s.cycled.Settled := by
  obtain ⟨⟨r, sh, hl, hu⟩, -⟩ := cycled_onlyPage s
  obtain ⟨t0, t1, t2, t3, x, hcycle, -⟩ := tbCycle_cases { s with softRst := 0 }
  rw [hu, hcycle]
  exact ⟨rfl, h⟩

theorem step_idle_settled (h : s.pending = []) : ∃ t, step s = .next t ∧ t.Settled := by
  refine ⟨s.idle, by rw [step, h], ?_⟩
  cases hnet : s.domOff.getLsbD Domain.net.idx with
  | true =>
    rw [idle_netOff hnet]
    exact ⟨rfl, h⟩
  | false =>
    rw [idle_netOn hnet]
    exact replayNext_settled (cycled_settled h)

end Sys2Proof.Machine
end

/-! # SOFT_RST and FREEZE of a page (O3) -/

section
namespace Sys2Proof.Machine

variable {s : State} {m : Master} {b : Blk} {a : Nat} {v : Word}

/-! ## Marks of blocks -/

theorem idx_lt (b : Blk) : b.idx < 32 := by revert b; exact forall_blk (by decide)

theorem getLsbD_setMark {w n : Nat} (x : BitVec w) (hn : n < w) (v : Bool) : (setMark x n v).getLsbD n = v := by
  have hbit : (BitVec.ofNat w (2 ^ n)).getLsbD n = true := by rw [BitVec.getLsbD_ofNat, Nat.testBit_two_pow_self]; simp [hn]
  cases v with
  | true => rw [setMark, if_pos rfl, BitVec.getLsbD_or, hbit, Bool.or_true]
  | false =>
    rw [setMark, if_neg (by decide), BitVec.getLsbD_and, BitVec.getLsbD_not, hbit]
    simp

/-! ## A write of SOFT_RST, which repeats EN and FREEZE (R47, R50) -/

theorem exec_softRst_open (h : s.MayWrite m b (R.BLK_CTRL b)) (hlock : s.bit (F.BLK_LOCK_CTRL_LOCK b) = false) :
    exec (.softRst m b) s = .next ((s.reply 0).softReset b) := by
  have h1 : bitAt (s.ctrlWord b 1 true) 1 = true := ctrlWord_same (by omega) true
  change Host.Outcome.next (s.writeCtrl m b (s.ctrlWord b 1 true)) = _
  unfold State.writeCtrl
  rw [gate_open h.1 _ h.2]
  simp only [h1, reply_bit, hlock, Bool.not_false, Bool.and_self, if_true]

theorem exec_softRst_locked (h : s.MayWrite m b (R.BLK_CTRL b)) (hlock : s.bit (F.BLK_LOCK_CTRL_LOCK b) = true) :
    exec (.softRst m b) s = .next ((s.reply 0).err b 2 2) := by
  have h0 : bitAt (s.ctrlWord b 1 true) 0 = s.en b := ctrlWord_en (by omega) (by omega) true
  have h1 : bitAt (s.ctrlWord b 1 true) 1 = true := ctrlWord_same (by omega) true
  have h2 : bitAt (s.ctrlWord b 1 true) 2 = s.bit (F.BLK_CTRL_FREEZE b) := ctrlWord_freeze (by omega) (by omega) true
  change Host.Outcome.next (s.writeCtrl m b (s.ctrlWord b 1 true)) = _
  unfold State.writeCtrl
  rw [gate_open h.1 _ h.2]
  simp only [h0, h1, h2, woffOf_ctrl, reply_bit, reply_en, reply_stopping, hlock, Bool.not_true, Bool.and_false, Bool.false_eq_true, if_false,
    Bool.and_self, if_true, bne_self_eq_false, Bool.not_false, Bool.or_true, Bool.false_and]
  cases s.en b <;> cases s.stopping b <;> rfl

theorem softRst_locked (h : s.MayWrite m b (R.BLK_CTRL b)) (hlock : s.bit (F.BLK_LOCK_CTRL_LOCK b) = true) :
    s.Yields (.softRst m b) fun t => t.inSoftRst b = false ∧ t.Erred b 2 2 ∧ s.Spares t ∧ t.en b = s.en b := by
  refine ⟨_, exec_softRst_locked h hlock, ?_, err_erred (by decide) (by decide), err_spares, bit_err_ctrl⟩
  rw [State.inSoftRst, err_softRst]
  exact h.1.2

/-! ## A write of FREEZE, which repeats EN (R48) -/

@[simp] theorem reply_dbgEn (d : Word) : (s.reply d).dbgEn = s.dbgEn := rfl

/-- What a change of FREEZE leaves while debug is open: a block that is no longer frozen goes on. -/
def State.setFreeze (s : State) (b : Blk) (on : Bool) : State :=
  let t := s.wrB (F.BLK_CTRL_FREEZE b) on
  if on then t else { t with halted := setMark t.halted b.idx false }

theorem ctrlBit_freeze (h : s.MayWrite m b (R.BLK_CTRL b)) {on : Bool} (hon : s.bit (F.BLK_CTRL_FREEZE b) ≠ on) : s.ctrlBit m b 2 on =
    (let t := if s.dbgEn then (s.reply 0).setFreeze b on else s.reply 0
     let c := if !s.dbgEn then 3 else if s.en b && s.stopping b then 4 else 0
     if c = 0 then t else t.err b c 2) := by
  have h0 : bitAt (s.ctrlWord b 2 on) 0 = s.en b := ctrlWord_en (by omega) (by omega) on
  have h1 : bitAt (s.ctrlWord b 2 on) 1 = false := ctrlWord_rst (by omega) (by omega) on
  have h2 : bitAt (s.ctrlWord b 2 on) 2 = on := ctrlWord_same (by omega) on
  have hfrz : (on != s.bit (F.BLK_CTRL_FREEZE b)) = true := bne_iff_ne.mpr hon.symm
  change s.writeCtrl m b (s.ctrlWord b 2 on) = _
  unfold State.writeCtrl
  rw [gate_open h.1 _ h.2]
  simp only [h0, h1, h2, hfrz, woffOf_ctrl, reply_bit, reply_en, reply_stopping, reply_dbgEn, Bool.false_and, Bool.false_eq_true, if_false, bne_self_eq_false,
    Bool.not_false, Bool.true_or, if_true, Bool.true_and]
  cases s.dbgEn <;> cases s.en b <;> cases s.stopping b <;> rfl

theorem setFreeze_spares (s : State) (b : Blk) (on : Bool) : s.Spares (s.setFreeze b on) := by cases on <;> exact ⟨rfl, rfl, rfl⟩

theorem setFreeze_regs (s : State) (b : Blk) (on : Bool) : (s.setFreeze b on).regs = (s.wrB (F.BLK_CTRL_FREEZE b) on).regs := by cases on <;> rfl

theorem setFreeze_bit (s : State) (b : Blk) (on : Bool) : (s.setFreeze b on).bit (F.BLK_CTRL_FREEZE b) = on :=
  (bit_congr (setFreeze_regs s b on) _).trans (bit_wrB_same s (F.BLK_CTRL_FREEZE b) on (by norm_num) (by norm_num))

theorem setFreeze_en (s : State) (b : Blk) (on : Bool) : (s.setFreeze b on).en b = s.en b :=
  (bit_congr (setFreeze_regs s b on) _).trans
    (congrArg (· != 0) (rd_wr_disjoint s (f := F.BLK_CTRL_FREEZE b) (g := F.BLK_CTRL_EN b) _ (by norm_num) (by norm_num) (.inl (by norm_num))))

theorem setFreeze_off (s : State) (b : Blk) : (s.setFreeze b false).isHalted b = false := getLsbD_setMark s.halted (idx_lt b) false

/-- A change of FREEZE with debug open; EN = 1, repeated while the block is stopping, leaves code 4. -/
theorem exec_freeze_open (h : s.MayWrite m b (R.BLK_CTRL b)) {on : Bool} (hon : s.bit (F.BLK_CTRL_FREEZE b) ≠ on) (hdbg : s.dbgEn = true) :
    ∃ t, exec (.freeze m b on) s = .next t ∧ (t = (s.reply 0).setFreeze b on ∨ t = ((s.reply 0).setFreeze b on).err b 4 2) := by
  refine ⟨_, rfl, ?_⟩
  rw [ctrlBit_freeze h hon, hdbg]
  cases s.en b && s.stopping b
  · exact .inl rfl
  · exact .inr rfl

theorem freeze_open (h : s.MayWrite m b (R.BLK_CTRL b)) {on : Bool} (hon : s.bit (F.BLK_CTRL_FREEZE b) ≠ on) (hdbg : s.dbgEn = true) :
    s.Yields (.freeze m b on) fun t => t.bit (F.BLK_CTRL_FREEZE b) = on ∧ t.en b = s.en b ∧ (on = false → t.isHalted b = false) ∧ s.Spares t := by
  obtain ⟨t, hexec, ht⟩ := exec_freeze_open h hon hdbg
  have hbit := setFreeze_bit (s.reply 0) b on
  have hen := setFreeze_en (s.reply 0) b on
  have hoff : on = false → ((s.reply 0).setFreeze b on).isHalted b = false := by
    rintro rfl
    exact setFreeze_off (s.reply 0) b
  obtain ⟨hmem, hcad, hpend⟩ := setFreeze_spares (s.reply 0) b on
  refine ⟨t, hexec, ?_⟩
  obtain rfl | rfl := ht
  · exact ⟨hbit, hen, hoff, hmem, hcad, hpend⟩
  · refine ⟨bit_err_ctrl.trans hbit, bit_err_ctrl.trans hen, fun hno => ?_, (err_mem ..).trans hmem, (err_cad ..).trans hcad,
      (err_pending ..).trans hpend⟩
    rw [State.isHalted, err_halted]
    exact hoff hno

theorem exec_freeze_closed (h : s.MayWrite m b (R.BLK_CTRL b)) {on : Bool} (hon : s.bit (F.BLK_CTRL_FREEZE b) ≠ on) (hdbg : s.dbgEn = false) :
    exec (.freeze m b on) s = .next ((s.reply 0).err b 3 2) := by
  have hexec : exec (.freeze m b on) s = .next (s.ctrlBit m b 2 on) := rfl
  rw [hexec, ctrlBit_freeze h hon, hdbg]
  rfl

theorem freeze_closed (h : s.MayWrite m b (R.BLK_CTRL b)) {on : Bool} (hon : s.bit (F.BLK_CTRL_FREEZE b) ≠ on) (hdbg : s.dbgEn = false) :
    s.Yields (.freeze m b on) fun t => t.bit (F.BLK_CTRL_FREEZE b) = s.bit (F.BLK_CTRL_FREEZE b) ∧ t.Erred b 3 2 ∧ s.Spares t :=
  ⟨_, exec_freeze_closed h hon hdbg, bit_err_ctrl, err_erred (by decide) (by decide), err_spares⟩

/-! ## Accesses while a soft reset runs (R47) -/

theorem irqEn_discarded (hr : s.unreachable b = false) (hrst : s.inSoftRst b = true) :
    s.Yields (.regWrite m (BitVec.ofNat 40 (R.BLK_IRQ_EN b)) v) fun t => t.regGet (R.BLK_IRQ_EN b) = s.regGet (R.BLK_IRQ_EN b) ∧
      t.Erred b 6 5 ∧ t.resp = ⟨0, false⟩ ∧ s.Spares t := by
  have hwoff : ∀ b, woffOf b (R.BLK_IRQ_EN b) = 5 := forall_blk (by decide)
  have hwrite : s.regWrite m (R.BLK_IRQ_EN b) v = (s.err b 6 5).reply 0 := by
    have hmod : R.BLK_IRQ_EN b % 4 = 0 := page_mod_four b (by decide)
    have hblk : blkAt (R.BLK_IRQ_EN b) = some b := blkAt_page b (by decide)
    unfold State.regWrite
    simp only [hmod, hblk, hrst, ne_eq, not_true, if_false, if_true]
    unfold State.gate
    simp only [hr, hrst, hwoff, Bool.false_eq_true, if_false, if_true]
  refine ⟨_, exec_regWrite_irqEn, ?_⟩
  rw [hwrite]
  exact ⟨regGet_err_ne (by simp) (by simp), err_erred (by decide) (by decide), rfl, err_mem .., err_cad .., err_pending ..⟩

theorem irqEn_inReset (hr : s.unreachable b = false) (hrst : s.inSoftRst b = true) :
    exec (.rcRead m (BitVec.ofNat 40 (R.BLK_IRQ_EN b))) s = .next { s with resp := ⟨0, false⟩ } := by
  have hreset : ∀ b, regReset (R.BLK_IRQ_EN b) = 0 := forall_blk (by decide +kernel)
  have hctrl : R.BLK_IRQ_EN b ≠ R.BLK_CTRL b := by simp
  have hstat : R.BLK_IRQ_EN b ≠ R.BLK_STAT b := by simp
  have hmod : R.BLK_IRQ_EN b % 4 = 0 := page_mod_four b (by decide)
  have hblk : blkAt (R.BLK_IRQ_EN b) = some b := blkAt_page b (by decide)
  rw [exec_rcRead_irqEn]
  unfold State.regRead
  simp only [hmod, hblk, hr, hrst, hreset, hctrl, hstat, ne_eq, not_true,
    decide_false, Bool.or_self, Bool.false_eq_true, if_false, if_true]
  rfl

end Sys2Proof.Machine
end

/-! # What emptying a block leaves of the registers (O3)

Emptying a block ends what it has in progress, and that of the blocks it works for; after a soft reset TSU judges TB3 anew. Both write
registers, but not those of `steadyRegs`, from which the soft reset's result is read. -/

section
-- One theorem after another: side by side, so many proofs ask for more threads than the check's memory holds.
set_option Elab.async false

namespace Sys2Proof.Machine

/-- The locks of the blocks whose emptying writes registers, and of TSU what sets the rates of the time bases and its outputs. -/
def steadyRegs : List Nat :=
  [R.BLK_LOCK .spk, R.BLK_LOCK .tdm, R.BLK_LOCK .pwr, R.TSU_TBn_RATE 0, R.TSU_TBn_RATE 1, R.TSU_TBn_RATE 2] ++
    (List.finRange 8).map fun n => R.TSU_TPn_CFG n

/-- The steady registers hold what `g` says. -/
def State.Steady (g : Nat → Word) (s : State) : Prop := ∀ a ∈ steadyRegs, s.regGet a = g a

variable {s : State} {g : Nat → Word}

/-! ## Branches, folds and the shared operations -/

theorem State.Steady.frame {t : State} (hr : t.regs = s.regs := by rfl) (hs : s.Steady g) : t.Steady g :=
  fun a ha => (regGet_congr hr a).trans (hs a ha)

theorem ite_steady {c : Prop} [Decidable c] {s t : State} (hs : s.Steady g) (ht : t.Steady g) : (if c then s else t).Steady g := by
  split
  · exact hs
  · exact ht

theorem foldl_steady {α : Type} {f : State → α → State} {l : List α} (hs : s.Steady g) (hf : ∀ t, t.Steady g → ∀ x ∈ l, (f t x).Steady g) :
    (l.foldl f s).Steady g := by
  induction l generalizing s with
  | nil => exact hs
  | cons x l ih => exact ih (hf s hs x (by simp)) fun t ht y hy => hf t ht y (List.mem_cons_of_mem x hy)

theorem regPut_steady (hs : s.Steady g) {c : Nat} {v : Word} (hc : c ∉ steadyRegs := by decide) : (s.regPut c v).Steady g :=
  fun a ha => (regGet_regPut_ne s v (ne_of_mem_of_not_mem ha hc)).trans (hs a ha)

theorem wr_steady (hs : s.Steady g) {f : Fld} {x : Nat} (hf : f.addr ∉ steadyRegs := by decide) : (s.wr f x).Steady g := regPut_steady hs hf

theorem raise_steady (hs : s.Steady g) {b n} : (s.raise b n).Steady g := by
  have hraw : ∀ b, R.BLK_IRQ_RAW b ∉ steadyRegs := forall_blk (by decide)
  exact ite_steady hs (regPut_steady hs (hraw b))

theorem evrDrop_steady (hs : s.Steady g) {sev} : (s.evrDrop sev).Steady g := by
  have hdrop : ∀ n : Fin 8, R.EVR_DROPs n ∉ steadyRegs := by decide
  exact raise_steady (wr_steady hs.frame (hdrop (Fin.ofNat 8 sev)))

theorem send_steady (hs : s.Steady g) {e} : (s.send e).Steady g := ite_steady hs.frame (evrDrop_steady hs)

theorem raiseEv_steady (hs : s.Steady g) {b n} : (s.raiseEv b n).Steady g := send_steady (raise_steady hs)

theorem emit_steady (hs : s.Steady g) {e} : (s.emit e).Steady g := ite_steady hs.frame hs

/-! ## Outputs of FIO, mastering of the ring, a fault of the pair (R345, R371, R379) -/

theorem driveOne_steady (hs : s.Steady g) {n} : (s.driveOne n).Steady g := by
  unfold State.driveOne
  extract_lets old new s1 src
  have hs1 : s1.Steady g := wr_steady hs (show R.FIO_DO_STATE ∉ steadyRegs by decide)
  exact ite_steady hs (ite_steady hs1.frame hs1.frame)

theorem drive_steady (hs : s.Steady g) : s.drive.Steady g := by
  have hstat : R.BLK_STAT .fio ∉ steadyRegs := by decide
  have hlevel {t : State} (ht : t.Steady g) {k : Nat} : (t.faultLevel k).Steady g :=
    ite_steady (raiseEv_steady (wr_steady ht hstat)) (wr_steady ht hstat)
  exact hlevel (hlevel (foldl_steady hs fun _ h _ _ => driveOne_steady h))

theorem loseInstants_steady (hs : s.Steady g) : s.loseInstants.Steady g := ite_steady (raise_steady (wr_steady hs.frame)) hs.frame

theorem declareFault_steady (hs : s.Steady g) : s.declareFault.Steady g :=
  drive_steady (wr_steady (wr_steady (ite_steady (loseInstants_steady (wr_steady hs.frame)) hs)))

/-! ## Intervals of MTR (R302 to R311) -/

theorem closeInterval_steady (hs : s.Steady g) {tEnd fl outage} : (s.closeInterval tEnd fl outage).Steady g := by
  unfold State.closeInterval
  extract_lets nums groups flags new s1 src s2
  have hs1 : s1.Steady g := foldl_steady hs fun _ h _ _ => h.frame
  have hs2 : s2.Steady g := raise_steady (wr_steady hs1.frame)
  exact ite_steady hs2.frame hs2

theorem reopen_steady (hs : s.Steady g) {t fl outage u fl'} : ((s.closeInterval t fl outage).openInterval u fl').Steady g :=
  (closeInterval_steady hs).frame

theorem stepOpen_steady (hs : s.Steady g) {before after} : (s.stepOpen before after).Steady g := by
  unfold State.stepOpen
  split
  · exact hs
  · split
    · exact hs.frame
    · exact ite_steady (reopen_steady (ite_steady (reopen_steady hs) hs)) hs

theorem mtrStep_steady (hs : s.Steady g) {before} : (s.mtrStep before).Steady g :=
  ite_steady hs (ite_steady hs.frame (stepOpen_steady hs))

theorem mtrValid_steady (hs : s.Steady g) : s.mtrValid.Steady g := by
  unfold State.mtrValid
  split
  · exact hs
  · exact ite_steady hs (reopen_steady hs)

theorem mtrStart_steady (hs : s.Steady g) : s.mtrStart.Steady g := by
  unfold State.mtrStart
  extract_lets s1 sets src s2
  have hs1 : s1.Steady g := by
    unfold s1
    split
    · exact closeInterval_steady hs
    · exact hs
  have hs2 : s2.Steady g := hs1.frame
  have hset : ∀ k, (refFld k).addr ∉ steadyRegs := by decide
  exact wr_steady (wr_steady hs2 (hset 0)) (hset 1)

/-! ## TB3 after a reset (R331, R332) -/

theorem tpSkips_steady (hs : s.Steady g) {tb before} : (s.tpSkips tb before).Steady g :=
  foldl_steady hs fun _ h _ _ => ite_steady h (ite_steady (raise_steady h.frame) h.frame)

theorem tb3Step_steady (hs : s.Steady g) {before} : (s.tb3Step before).Steady g := mtrStep_steady (tpSkips_steady (raise_steady (wr_steady hs)))

theorem setTb3Valid_steady (hs : s.Steady g) {v h} : (s.setTb3Valid v h).Steady g := by
  unfold State.setTb3Valid
  extract_lets v0 s1 src s2
  have hs1 : s1.Steady g := raiseEv_steady (wr_steady (wr_steady hs))
  have hs2 : s2.Steady g := ite_steady hs1.frame hs1
  exact ite_steady hs (ite_steady (mtrValid_steady hs2) hs2)

theorem evalTb3_steady (hs : s.Steady g) : s.evalTb3.Steady g :=
  ite_steady (setTb3Valid_steady hs) (ite_steady (setTb3Valid_steady hs) (ite_steady (setTb3Valid_steady hs) (setTb3Valid_steady hs)))

theorem tsuRestart_steady (hs : s.Steady g) : s.tsuRestart.Steady g := by
  have hfollow : s.followTb0.Steady g := ite_steady hs hs.frame
  exact evalTb3_steady (ite_steady hfollow (tb3Step_steady hfollow))

/-! ## A power-state entry given up (R465, R468) -/

theorem deliverNow_steady (hs : s.Steady g) {d} : (s.deliverNow d).Steady g := by
  unfold State.deliverNow
  split
  · exact hs
  · split
    · exact hs
    · exact ite_steady hs (emit_steady hs.frame)

theorem deliverIn_steady (hs : s.Steady g) {sig value qual age} : (s.deliverIn sig value qual age).Steady g :=
  ite_steady hs.frame (ite_steady hs.frame (deliverNow_steady hs.frame))

theorem fioStart_steady (hs : s.Steady g) : s.fioStart.Steady g :=
  drive_steady (foldl_steady hs.frame fun _ h _ _ => deliverIn_steady (deliverIn_steady h))

/-- The pages of SLV and PNL, whose power a nap takes, hold none of them. -/
theorem nap_not_steady {b : Blk} (hb : b.domain = .slv ∨ b.domain = .pnl) {a : Nat} (ha : blkAt a = some b) : a ∉ steadyRegs := by
  intro hmem
  have hpages : ∀ a ∈ steadyRegs, ∀ b ∈ blkAt a, ¬ (b.domain = .slv ∨ b.domain = .pnl) := by decide
  exact hpages a hmem b ha hb

theorem restoreRec_steady (hs : s.Steady g) {r : SaveRec} (hb : r.blk.domain = .slv ∨ r.blk.domain = .pnl) : (s.restoreRec true r).Steady g := by
  unfold State.restoreRec
  extract_lets own s1 s2 s3
  have hs1 : s1.Steady g := foldl_steady hs fun t h x hx => by
    have hown : blkAt x.1 = some r.blk := by simpa [own] using (List.mem_filter.mp hx).2
    exact regPut_steady h (nap_not_steady hb hown)
  have hs3 : s3.Steady g := hs1.frame
  exact ite_steady hs3 (wr_steady hs3 (nap_not_steady hb (blkAt_page r.blk (by decide))))

theorem domOn_steady (hs : s.Steady g) {d : Domain} (hd : d = .slv ∨ d = .pnl) : (s.domOn d).Steady g := by
  refine ite_steady hs (foldl_steady hs.frame fun t h r hr => restoreRec_steady h ?_)
  have hdom : r.blk.domain = d := by simpa using (List.mem_filter.mp hr).2
  rw [hdom]
  exact hd

theorem setCur_steady (hs : s.Steady g) {v} : (s.setCur v).Steady g := wr_steady (wr_steady hs)

theorem leaveNap_steady (hs : s.Steady g) {wake} : (s.leaveNap wake).Steady g := by
  unfold State.leaveNap
  extract_lets s1 src s2 s3 s4
  have hs1 : s1.Steady g := domOn_steady (domOn_steady hs.frame (.inl rfl)) (.inr rfl)
  have hs2 : s2.Steady g := hs1.frame
  have hs3 : s3.Steady g := ite_steady (wr_steady hs2) hs2
  have hs4 : s4.Steady g := wr_steady (setCur_steady hs3)
  exact ite_steady (raise_steady hs4) hs4

theorem abortEntry_steady (hs : s.Steady g) {last} : (s.abortEntry last).Steady g := by
  unfold State.abortEntry
  extract_lets src src1 src2 s1 s2 resumed src3 s3
  have hs1 : s1.Steady g := hs.frame
  have hs2 : s2.Steady g := ite_steady (mtrStart_steady hs1) hs1
  have hresumed : resumed.Steady g := ite_steady (ite_steady (fioStart_steady hs2) hs2) hs
  have hs3 : s3.Steady g := raise_steady (wr_steady (setCur_steady hresumed.frame))
  exact ite_steady (leaveNap_steady hs3) hs3

end Sys2Proof.Machine
end

/-! # The state after a soft reset (O3) -/

section
namespace Sys2Proof.Machine

variable {s : State} {m : Master} {b : Blk} {a : Nat} {v w : Word}

/-! ## Entries of the register map -/

theorem sparse_get_unlisted {β : Type} {l : List (Nat × β)} {d : β} {k : Nat} (h : k ∉ l.map Prod.fst) : Sparse.get l d k = d := by
  induction l with
  | nil => rfl
  | cons x l ih =>
    rw [List.map_cons, List.mem_cons, not_or] at h
    rw [Sparse.get, if_neg (Ne.symm h.1), ih h.2]

theorem sparse_wfFrom_le {β : Type} [DecidableEq β] {d : Nat → β} {lo : Nat} {l : List (Nat × β)} (h : Sparse.wfFrom d lo l = true)
    {x : Nat × β} (hx : x ∈ l) : lo ≤ x.1 := by
  induction l generalizing lo with
  | nil => cases hx
  | cons y l ih =>
    simp only [Sparse.wfFrom, Bool.and_eq_true, decide_eq_true_eq] at h
    obtain ⟨⟨hlo, -⟩, htail⟩ := h
    obtain rfl | hx := List.mem_cons.mp hx
    · exact hlo
    · have := ih htail hx
      omega

/-- In canonical form an entry is what its key reads. -/
theorem sparse_get_of_mem {β : Type} [DecidableEq β] {d : Nat → β} {lo : Nat} {l : List (Nat × β)} (h : Sparse.wfFrom d lo l = true)
    {x : Nat × β} (hx : x ∈ l) (e : β) : Sparse.get l e x.1 = x.2 := by
  induction l generalizing lo with
  | nil => cases hx
  | cons y l ih =>
    simp only [Sparse.wfFrom, Bool.and_eq_true] at h
    obtain ⟨-, htail⟩ := h
    obtain rfl | hx := List.mem_cons.mp hx
    · exact if_pos rfl
    · have hlt := sparse_wfFrom_le htail hx
      exact (if_neg (by omega)).trans (ih htail hx)

/-! ## Every register of a page to its reset value -/

/-- The registers of a page that are listed take their reset values, but for the bits that are kept. -/
def State.resetPage (s : State) (b : Blk) : State :=
  (s.regs.filter fun x => blkAt x.1 == some b).foldl (fun (t : State) x =>
    t.regPut x.1 ((regReset x.1 &&& ~~~s.softKeep b x.1) ||| (x.2 &&& s.softKeep b x.1))) s

/-- A register after writes from a list, all of which, if any, give it the same value. -/
theorem regGet_foldl_regPut {f : Nat × Word → Word} {l : List (Nat × Word)} (h : ∀ x ∈ l, x.1 = a → f x = w)
    (h0 : a ∉ l.map Prod.fst → s.regGet a = w) : (l.foldl (fun (t : State) x => t.regPut x.1 (f x)) s).regGet a = w := by
  induction l generalizing s with
  | nil => exact h0 (by simp)
  | cons x l ih =>
    refine ih (fun y hy => h y (List.mem_cons_of_mem x hy)) fun hl => ?_
    by_cases hx : x.1 = a
    · rw [← hx, regGet_regPut_same]
      exact h x (by simp) hx
    · rw [regGet_regPut_ne _ _ (Ne.symm hx)]
      exact h0 fun hmem => (List.mem_cons.mp hmem).elim (fun e => hx e.symm) hl

theorem foldl_regPut_frame {f : Nat × Word → Word} (l : List (Nat × Word)) (s : State) :
    ∃ r, l.foldl (fun (t : State) x => t.regPut x.1 (f x)) s = { s with regs := r } := by
  induction l generalizing s with
  | nil => exact ⟨_, rfl⟩
  | cons x l ih =>
    obtain ⟨r, hr⟩ := ih (s.regPut x.1 (f x))
    exact ⟨r, hr⟩

theorem resetPage_frame (s : State) (b : Blk) : ∃ r, s.resetPage b = { s with regs := r } := foldl_regPut_frame _ s

theorem resetPage_reset (ha : blkAt a = some b) (hk : s.softKeep b a = 0) : (s.resetPage b).regGet a = regReset a := by
  refine regGet_foldl_regPut (fun x _ hx => ?_) fun hno => ?_
  · rw [hx, hk]
    change (regReset a &&& ~~~0#32) ||| (x.2 &&& 0#32) = _
    rw [BitVec.not_zero, BitVec.and_allOnes, BitVec.and_zero, BitVec.or_zero]
  · refine sparse_get_unlisted fun hmem => hno ?_
    obtain ⟨x, hx, hxa⟩ := List.mem_map.mp hmem
    exact List.mem_map.mpr ⟨x, List.mem_filter.mpr ⟨hx, by simp [hxa, ha]⟩, hxa⟩

theorem resetPage_other (ha : blkAt a ≠ some b) : (s.resetPage b).regGet a = s.regGet a := by
  refine regGet_foldl_regPut (fun x hx hxa => ?_) fun _ => rfl
  have hpage : blkAt x.1 = some b := by simpa using (List.mem_filter.mp hx).2
  exact absurd (hxa ▸ hpage) ha

theorem resetPage_lock (hwf : Sparse.wf regReset s.regs = true) : (s.resetPage b).regGet (R.BLK_LOCK b) = s.regGet (R.BLK_LOCK b) := by
  refine regGet_foldl_regPut (fun x hx hxa => ?_) fun _ => rfl
  have hget : s.regGet x.1 = x.2 := sparse_get_of_mem hwf (List.mem_filter.mp hx).1 _
  have hkeep : s.softKeep b x.1 = BitVec.allOnes 32 := if_pos hxa
  rw [hkeep, ← hxa, hget, BitVec.not_allOnes, BitVec.and_zero, BitVec.zero_or, BitVec.and_allOnes]

/-! ## The block's state emptied -/

theorem emptyBlk_steady {g : Nat → Word} (hs : s.Steady g) : (s.emptyBlk b).Steady g := by
  cases b with
  | spk => exact State.Steady.frame (s := if s.cad.ringSupplied then s.loseInstants else s) (hs := ite_steady (loseInstants_steady hs) hs)
  | tdm => exact State.Steady.frame (s := if s.tandem && s.tdmState == 1 then s.declareFault else s) (hs := ite_steady (declareFault_steady hs) hs)
  | pwr =>
    have hnap : (if s.cur = 1 then s.leaveNap false else s).Steady g := ite_steady (leaveNap_steady hs) hs
    exact ite_steady (abortEntry_steady hnap) hnap
  | _ => exact hs.frame

/-- Of most blocks no register is written. -/
theorem emptyBlk_regs (h1 : b ≠ .spk) (h2 : b ≠ .tdm) (h3 : b ≠ .pwr) : (s.emptyBlk b).regs = s.regs := by
  cases b with
  | spk | tdm | pwr => contradiction
  | _ => rfl

theorem emptyBlk_unlocked (h : s.bit (F.BLK_LOCK_CFG_LOCK b) = false) : (s.emptyBlk b).bit (F.BLK_LOCK_CFG_LOCK b) = false := by
  by_cases hb : b = .spk ∨ b = .tdm ∨ b = .pwr
  · have hlock : R.BLK_LOCK b ∈ steadyRegs := by obtain rfl | rfl | rfl := hb <;> decide
    have hsteady : (s.emptyBlk b).Steady s.regGet := emptyBlk_steady fun _ _ => rfl
    exact (congrArg (· != 0) (rd_of_regGet (hsteady _ hlock))).trans h
  · rw [not_or, not_or] at hb
    obtain ⟨h1, h2, h3⟩ := hb
    exact (bit_congr (emptyBlk_regs h1 h2 h3) _).trans h

theorem softKeep_none (hlock : s.bit (F.BLK_LOCK_CFG_LOCK b) = false) (hk : resetKeep a = 0) (ha : a ≠ R.BLK_LOCK b) : s.softKeep b a = 0 := by
  simp [State.softKeep, ha, hk, hlock]

/-! ## The whole soft reset -/

/-- The registers before the sum is recomputed: those of the emptied block with its page reset; TSU then judges TB3 anew. -/
theorem softReset_cases (s : State) (b : Blk) : ∃ t u : State, t.regs = ((s.emptyBlk b).resetPage b).regs ∧ t.mem = ((s.emptyBlk b).resetPage b).mem ∧
    t.pending = ((s.emptyBlk b).resetPage b).pending ∧ u = (if b = .tsu then t.tsuRestart else t) ∧
      (s.softReset b).regs = (u.regPut (R.BLK_CFGSUM b) (cfgSumOf u.regGet b)).regs ∧ (s.softReset b).mem = u.mem ∧
      (s.softReset b).pending = u.pending ∧ (s.softReset b).softRst = setMark u.softRst b.idx true ∧
      (s.softReset b).halted = setMark u.halted b.idx false := by
  unfold State.softReset
  extract_lets s1 mine s2 s3 s4 src
  have hs3 : s3.regs = s2.regs ∧ s3.mem = s2.mem ∧ s3.pending = s2.pending := by
    unfold s3
    split <;> exact ⟨rfl, rfl, rfl⟩
  obtain ⟨hregs, hmem, hpend⟩ := hs3
  exact ⟨s3, s4, hregs, hmem, hpend, rfl, rfl, rfl, rfl, rfl, rfl⟩

/-- A register other than the sum, as the reset of the page and, in TSU, the look at TB3 leave it. -/
theorem softReset_regGet (s : State) (b : Blk) : ∃ t : State, t.regs = ((s.emptyBlk b).resetPage b).regs ∧
    ∀ a, a ≠ R.BLK_CFGSUM b → (s.softReset b).regGet a = (if b = .tsu then t.tsuRestart else t).regGet a := by
  obtain ⟨t, u, hregs, -, -, rfl, hreset, -, -, -, -⟩ := softReset_cases s b
  exact ⟨t, hregs, fun a ha => (regGet_congr hreset a).trans (regGet_regPut_ne _ _ ha)⟩

section
variable (hlock : s.bit (F.BLK_LOCK_CFG_LOCK b) = false)
include hlock

theorem resetPage_emptied (ha : blkAt a = some b) (hk : resetKeep a = 0) (hne : a ≠ R.BLK_LOCK b) :
    ((s.emptyBlk b).resetPage b).regGet a = regReset a :=
  resetPage_reset ha (softKeep_none (emptyBlk_unlocked hlock) hk hne)

theorem softReset_regs (htsu : b ≠ .tsu) (ha : blkAt a = some b) (hk : resetKeep a = 0) (hne : a ≠ R.BLK_LOCK b) (hsum : a ≠ R.BLK_CFGSUM b) :
    (s.softReset b).regGet a = regReset a := by
  obtain ⟨t, hregs, hget⟩ := softReset_regGet s b
  rw [hget a hsum, if_neg htsu, regGet_congr hregs]
  exact resetPage_emptied hlock ha hk hne

theorem softReset_steady (hb : b = .tsu) (ha : blkAt a = some b) (hk : resetKeep a = 0) (hsteady : a ∈ steadyRegs) (hne : a ≠ R.BLK_LOCK b)
    (hsum : a ≠ R.BLK_CFGSUM b) : (s.softReset b).regGet a = regReset a := by
  obtain ⟨t, hregs, hget⟩ := softReset_regGet s b
  have hrestart : t.tsuRestart.Steady t.regGet := tsuRestart_steady fun _ _ => rfl
  rw [hget a hsum, if_pos hb, hrestart a hsteady, regGet_congr hregs]
  exact resetPage_emptied hlock ha hk hne

end

theorem softReset_marks (s : State) (b : Blk) : (s.softReset b).inSoftRst b = true ∧ (s.softReset b).isHalted b = false := by
  obtain ⟨t, u, -, -, -, -, -, -, -, hrst, hhalt⟩ := softReset_cases s b
  rw [State.inSoftRst, hrst, State.isHalted, hhalt]
  exact ⟨getLsbD_setMark _ (idx_lt b) true, getLsbD_setMark _ (idx_lt b) false⟩

/-- The blocks whose own state is all that a soft reset empties besides their page. -/
def ownStateBlks : List Blk := [.int, .fab, .nfm, .pfm, .cad, .lpe, .slv, .rtc, .pnl, .bgs]

theorem emptyBlk_own (hb : b ∈ ownStateBlks) : (s.emptyBlk b).regs = s.regs ∧ (s.emptyBlk b).mem = s.mem ∧ (s.emptyBlk b).pending = s.pending := by
  cases b with
  | int | fab | nfm | pfm | cad | lpe | slv | rtc | pnl | bgs => exact ⟨rfl, rfl, rfl⟩
  | _ => simp [ownStateBlks] at hb

theorem softReset_own (hb : b ∈ ownStateBlks) : (s.softReset b).mem = s.mem ∧ (s.softReset b).pending = s.pending ∧
    (Sparse.wf regReset s.regs = true → (s.softReset b).regGet (R.BLK_LOCK b) = s.regGet (R.BLK_LOCK b)) ∧
    ∀ a, blkAt a ≠ some b → (s.softReset b).regGet a = s.regGet a := by
  have htsu : b ≠ .tsu := by rintro rfl; simp [ownStateBlks] at hb
  obtain ⟨hregs, hmem, hpend⟩ := emptyBlk_own (s := s) hb
  obtain ⟨t, u, -, htmem, htpend, hu, -, humem, hupend, -, -⟩ := softReset_cases s b
  obtain ⟨r, hr⟩ := resetPage_frame (s.emptyBlk b) b
  rw [if_neg htsu] at hu
  have hget (a : Nat) (ha : a ≠ R.BLK_CFGSUM b) : (s.softReset b).regGet a = ((s.emptyBlk b).resetPage b).regGet a := by
    obtain ⟨t, hregs, hget⟩ := softReset_regGet s b
    rw [hget a ha, if_neg htsu, regGet_congr hregs]
  refine ⟨?_, ?_, fun hwf => ?_, fun a ha => ?_⟩
  · rw [humem, hu, htmem, hr]
    exact hmem
  · rw [hupend, hu, htpend, hr]
    exact hpend
  · rw [← hregs] at hwf
    rw [hget _ (by simp), resetPage_lock hwf, regGet_congr hregs]
  · have hsum : blkAt (R.BLK_CFGSUM b) = some b := blkAt_page b (by decide)
    rw [hget a fun e => ha (e ▸ hsum), resetPage_other ha, regGet_congr hregs]

theorem resetKeep_tsu : ∀ a ∈ steadyRegs, blkAt a = some .tsu → resetKeep a = 0 ∧ a ≠ R.BLK_LOCK .tsu ∧ a ≠ R.BLK_CFGSUM .tsu := by decide

/-- The rates of the time bases and the outputs' configuration after a soft reset of TSU. -/
theorem softReset_tsu (hlock : s.bit (F.BLK_LOCK_CFG_LOCK .tsu) = false) (n : Fin 3) : (s.softReset .tsu).regGet (R.TSU_TBn_RATE n) = 0 ∧
    ∀ k : Fin 8, (s.softReset .tsu).regGet (R.TSU_TPn_CFG k) = regReset (R.TSU_TPn_CFG k) := by
  have hreset {a : Nat} (hsteady : a ∈ steadyRegs) (ha : blkAt a = some .tsu) : (s.softReset .tsu).regGet a = regReset a := by
    obtain ⟨hk, hne, hsum⟩ := resetKeep_tsu a hsteady ha
    exact softReset_steady hlock rfl ha hk hsteady hne hsum
  have hrate : ∀ n : Fin 3, R.TSU_TBn_RATE n ∈ steadyRegs ∧ blkAt (R.TSU_TBn_RATE n) = some .tsu := by decide
  have hzero : ∀ n : Fin 3, regReset (R.TSU_TBn_RATE n) = 0 := by decide +kernel
  have hcfg : ∀ k : Fin 8, R.TSU_TPn_CFG k ∈ steadyRegs ∧ blkAt (R.TSU_TPn_CFG k) = some .tsu := by decide
  obtain ⟨hmem, hpage⟩ := hrate n
  refine ⟨(hreset hmem hpage).trans (hzero n), fun k => ?_⟩
  obtain ⟨hmem, hpage⟩ := hcfg k
  exact hreset hmem hpage

theorem softRst_open (h : s.MayWrite m b (R.BLK_CTRL b)) (hctrl : s.bit (F.BLK_LOCK_CTRL_LOCK b) = false)
    (hlock : s.bit (F.BLK_LOCK_CFG_LOCK b) = false) : s.Yields (.softRst m b) fun t => t.inSoftRst b = true ∧ t.isHalted b = false ∧
      (b ≠ .tsu → ∀ a, blkAt a = some b → resetKeep a = 0 → a ≠ R.BLK_LOCK b → a ≠ R.BLK_CFGSUM b → t.regGet a = regReset a) ∧
      (b = .tsu → ∀ n : Fin 3, t.regGet (R.TSU_TBn_RATE n) = 0 ∧ ∀ k : Fin 8, t.regGet (R.TSU_TPn_CFG k) = regReset (R.TSU_TPn_CFG k)) ∧
      (b ∈ ownStateBlks → t.mem = s.mem ∧ t.pending = s.pending ∧
        (Sparse.wf regReset s.regs = true → t.regGet (R.BLK_LOCK b) = s.regGet (R.BLK_LOCK b)) ∧ ∀ a, blkAt a ≠ some b → t.regGet a = s.regGet a) := by
  obtain ⟨hrst, hhalt⟩ := softReset_marks (s.reply 0) b
  refine ⟨_, exec_softRst_open h hctrl, hrst, hhalt, fun htsu a => softReset_regs (s := s.reply 0) hlock htsu, ?_, fun hb => softReset_own hb⟩
  rintro rfl
  exact softReset_tsu (s := s.reply 0) hlock

/-- Settles O3: a write of SOFT_RST or FREEZE by its lock, accesses while a soft reset runs, and the idle cycle that ends it. -/
theorem softResetAndFreeze : Obligations.SoftResetAndFreeze := by
  intro m b s
  refine ⟨fun h => ⟨softRst_open h, softRst_locked h, fun on hon => ⟨freeze_open h hon, freeze_closed h hon⟩⟩,
    fun hr hrst v => ⟨irqEn_discarded hr hrst, irqEn_inReset hr hrst⟩, fun hpend => ?_⟩
  obtain ⟨t, hstep, hrst, hpend⟩ := step_idle_settled hpend
  exact ⟨t, hstep, by rw [State.inSoftRst, hrst]; exact BitVec.getLsbD_zero, hpend⟩

end Sys2Proof.Machine
end

/-! # Instructions of the Cadence engine (O7 to O17)

First how one instruction ends on an executing context: it completes, frees the context, or aborts. Then a group of instructions after
the other, each as what its continuation answers. -/

section
namespace Sys2Proof.Machine

variable {s : State} {c : Fin 16}

/-! ## How an instruction ends (R83, R98, R99, R104) -/

/-- The context that an instruction sees: one more instruction counted, the program counter past it. -/
def State.stepped (s : State) (c : Fin 16) : LaneCtx := { s.ctxAt c with count := (s.ctxAt c).count + 1, pc := (s.ctxAt c).pc + 1 }

@[simp] theorem stepped_r {r : BitVec 5} : (s.stepped c).r r = (s.ctxAt c).r r := rfl
@[simp] theorem stepped_busy : (s.stepped c).busy = (s.ctxAt c).busy := rfl
@[simp] theorem stepped_task : (s.stepped c).task = (s.ctxAt c).task := rfl
@[simp] theorem stepped_inst : (s.stepped c).inst = (s.ctxAt c).inst := rfl
@[simp] theorem stepped_cur : (s.stepped c).cur = (s.ctxAt c).cur := rfl
@[simp] theorem stepped_pc : (s.stepped c).pc = (s.ctxAt c).pc + 1 := rfl
@[simp] theorem stepped_loops : (s.stepped c).loops = (s.ctxAt c).loops := rfl
@[simp] theorem stepped_calls : (s.stepped c).calls = (s.ctxAt c).calls := rfl

theorem instr_ok (h : s.Executes c) {k : State → LaneCtx → IEnd} {t : State} {x : LaneCtx} (hk : k s (s.stepped c) = .ok t x) :
    s.instr c k = t.setCtx c x.advance := by
  rw [instr_executes h]
  change (match k s (s.stepped c) with | .ok s1 x1 => _ | .done s1 => _ | .exc code arg => _) = _
  rw [hk]

theorem instr_done (h : s.Executes c) {k : State → LaneCtx → IEnd} {t : State} (hk : k s (s.stepped c) = .done t) :
    s.instr c k = t.freeCtx c := by
  rw [instr_executes h]
  change (match k s (s.stepped c) with | .ok s1 x1 => _ | .done s1 => _ | .exc code arg => _) = _
  rw [hk]

theorem instr_exc (h : s.Executes c) {k : State → LaneCtx → IEnd} {code arg : Nat} (hk : k s (s.stepped c) = .exc code arg) :
    s.instr c k = s.abortCtx c code arg := by
  rw [instr_executes h]
  change (match k s (s.stepped c) with | .ok s1 x1 => _ | .done s1 => _ | .exc code arg => _) = _
  rw [hk]

@[simp] theorem setR_busy (x : LaneCtx) (i : BitVec 5) (v : Word) : (x.setR i v).busy = x.busy := by unfold LaneCtx.setR; split <;> rfl
@[simp] theorem setR_pc (x : LaneCtx) (i : BitVec 5) (v : Word) : (x.setR i v).pc = x.pc := by unfold LaneCtx.setR; split <;> rfl
@[simp] theorem setR_loops (x : LaneCtx) (i : BitVec 5) (v : Word) : (x.setR i v).loops = x.loops := by unfold LaneCtx.setR; split <;> rfl
@[simp] theorem advance_busy (x : LaneCtx) : x.advance.busy = x.busy := rfl
@[simp] theorem advance_pc (x : LaneCtx) : x.advance.pc = (closeLoops x.pc x.loops).1 := rfl
@[simp] theorem advance_loops (x : LaneCtx) : x.advance.loops = (closeLoops x.pc x.loops).2 := rfl

/-- A context goes on with a value in rd, in a state that has the same contexts and registers. -/
theorem computes_setR {t : State} {rd : BitVec 5} {v : Word} (hctx : ∀ d, t.ctxAt d = s.ctxAt d) (hregs : t.regs = s.regs) :
    s.Computes (t.setCtx c ((s.stepped c).setR rd v).advance) c rd v := by
  refine ⟨?_, fun r hr => ?_, fun d hd => ?_, hregs⟩
  · simp [laneCtx_r_setR]
  · simp [laneCtx_r_setR, hr]
  · rw [ctxAt_setCtx_ne _ _ hd, hctx]

/-- An instruction that gives a value in rd and changes nothing else. -/
theorem instr_gives (h : s.Executes c) {k : State → LaneCtx → IEnd} {rd : BitVec 5} {v : Word}
    (hk : k s (s.stepped c) = .ok s ((s.stepped c).setR rd v)) :
    s.Computes (s.instr c k) c rd v ∧ (s.instr c k).cad.tasks = s.cad.tasks ∧ (s.instr c k).mem = s.mem := by
  rw [instr_ok h hk]
  exact ⟨computes_setR (fun _ => rfl) rfl, rfl, rfl⟩

theorem instr_gives_pc (h : s.Executes c) {k : State → LaneCtx → IEnd} {rd : BitVec 5} {v : Word}
    (hk : k s (s.stepped c) = .ok s ((s.stepped c).setR rd v)) :
    ((s.instr c k).ctxAt c).pc = (closeLoops ((s.ctxAt c).pc + 1) (s.ctxAt c).loops).1 := by
  rw [instr_ok h hk, ctxAt_setCtx_same, advance_pc, setR_pc, setR_loops, stepped_pc, stepped_loops]

/-! ## Exact results of R89 to R94 -/

theorem ofInt_toInt_add (a b : Word) : BitVec.ofInt 32 (a.toInt + b.toInt) = a + b := by
  rw [BitVec.ofInt_add, BitVec.ofInt_toInt, BitVec.ofInt_toInt]
theorem ofInt_toInt_sub (a b : Word) : BitVec.ofInt 32 (a.toInt - b.toInt) = a - b := by
  apply BitVec.eq_of_toInt_eq; simp
theorem ofInt_toInt_mul (a b : Word) : BitVec.ofInt 32 (a.toInt * b.toInt) = a * b := by
  rw [BitVec.ofInt_mul, BitVec.ofInt_toInt, BitVec.ofInt_toInt]

theorem ofNat_shiftLeft (a : Word) (n : Nat) : BitVec.ofNat 32 (a.toNat * 2 ^ n) = a <<< n := by
  apply BitVec.eq_of_toNat_eq; simp [Nat.shiftLeft_eq]
theorem ofNat_shiftRight (a : Word) (n : Nat) : BitVec.ofNat 32 (a.toNat / 2 ^ n) = a >>> n := by
  rw [← Nat.shiftRight_eq_div_pow, ← BitVec.toNat_ushiftRight, BitVec.ofNat_toNat, BitVec.setWidth_eq]
theorem ofInt_sshiftRight (a : Word) (n : Nat) : BitVec.ofInt 32 (a.toInt / 2 ^ n) = a.sshiftRight n := by
  rw [BitVec.sshiftRight, Int.shiftRight_eq_div_pow]; rfl

theorem ofInt_ite (p : Prop) [Decidable p] (a b : Word) : BitVec.ofInt 32 (if p then a.toInt else b.toInt) = if p then a else b := by
  split <;> exact BitVec.ofInt_toInt
theorem ofNat_ite (p : Prop) [Decidable p] (a b : Word) : BitVec.ofNat 32 (if p then a.toNat else b.toNat) = if p then a else b := by
  split <;> rw [BitVec.ofNat_toNat, BitVec.setWidth_eq]

theorem satI_eq (z : Int) : satI z = satExact z := rfl

theorem divTrunc_eq (z : Int) (b : Word) : divTrunc z b = quotExact z b := by
  unfold divTrunc quotExact
  split
  · split <;> rfl
  · rfl

theorem divU_eq (a b : Word) : divU a b = if b = 0 then (0xFFFFFFFF, 0x2) else (BitVec.ofNat 32 (a.toNat / b.toNat), 0) := rfl

/-- Half a unit is added before the shift: none where nothing is shifted out (R92). -/
theorem shrRound_eq (x : Int) (n : Nat) : shrRound x n = (x + 2 ^ n / 2) / 2 ^ n := by
  unfold shrRound
  cases n with
  | zero => simp
  | succ n => simp [pow_succ]

theorem satI_shrRound (x : Int) (n : Nat) : satI (shrRound x n) = satExact ((x + 2 ^ n / 2) / 2 ^ n) := by rw [shrRound_eq, satI_eq]

theorem qmac_eq (d a b : Word) (n : Nat) : qmac d a b n = satExact (d.toInt + (a.toInt * b.toInt + 2 ^ n / 2) / 2 ^ n) := by
  unfold qmac qmulExact; rw [shrRound_eq, satI_eq]

theorem satI_abs (z : Int) : satI (if z < 0 then -z else z) = satExact z.natAbs := by
  rw [satI_eq, Int.natCast_natAbs]
  congr 1
  split
  · exact (abs_of_neg ‹_›).symm
  · exact (abs_of_nonneg (by omega)).symm

theorem min_toInt (a b : Word) : BitVec.ofInt 32 (min a.toInt b.toInt) = if a.toInt ≤ b.toInt then a else b := by
  rw [min_def, ofInt_ite]
theorem max_toInt (a b : Word) : BitVec.ofInt 32 (max a.toInt b.toInt) = if a.toInt ≤ b.toInt then b else a := by
  rw [max_def, ofInt_ite]
theorem min_toNat (a b : Word) : BitVec.ofNat 32 (min a.toNat b.toNat) = if a.toNat ≤ b.toNat then a else b := by
  rw [min_def, ofNat_ite]
theorem max_toNat (a b : Word) : BitVec.ofNat 32 (max a.toNat b.toNat) = if a.toNat ≤ b.toNat then b else a := by
  rw [max_def, ofNat_ite]

theorem qlim_eq (d a b : Word) : qlim d a b = plain (BitVec.ofInt 32 (min (max d.toInt a.toInt) b.toInt)) := by
  have hmax : max d.toInt a.toInt = (if d.toInt < a.toInt then a else d).toInt := by
    split
    · exact max_eq_right (by omega)
    · exact max_eq_left (by omega)
  unfold qlim
  rw [hmax]
  generalize (if d.toInt < a.toInt then a else d) = m
  simp only [min_def, ofInt_ite]
  by_cases h : b.toInt < m.toInt
  · rw [if_pos h, if_neg (by omega)]
  · rw [if_neg h, if_pos (by omega)]

theorem ldkh_eq (imm : BitVec 16) (a : Word) :
    (imm.setWidth 32 <<< 16) ||| (a &&& 0xFFFF) = BitVec.ofNat 32 (imm.toNat * 65536 + a.toNat % 65536) := by
  apply BitVec.eq_of_toNat_eq
  have himm := imm.isLt
  have hlow : a.toNat &&& 65535 = a.toNat % 65536 := Nat.and_two_pow_sub_one_eq_mod _ 16
  have hor := Nat.shiftLeft_add_eq_or_of_lt (Nat.mod_lt a.toNat (y := 2 ^ 16) (by norm_num)) imm.toNat
  have hi : imm.toNat % 2 ^ 32 = imm.toNat := by omega
  have hsh : imm.toNat * 2 ^ 16 % 2 ^ 32 = imm.toNat * 2 ^ 16 := by omega
  rw [Nat.shiftLeft_eq] at hor
  rw [BitVec.toNat_or, BitVec.toNat_shiftLeft, BitVec.toNat_setWidth, BitVec.toNat_and, BitVec.toNat_ofNat, Nat.shiftLeft_eq, hi, hsh,
    show BitVec.toNat (65535 : Word) = 65535 from rfl, hlow, ← hor]
  omega

theorem fabs_eq (a : Word) : fabs a = BitVec.ofNat 32 (a.toNat % 2 ^ 31) := by
  apply BitVec.eq_of_toNat_eq
  have hlow : a.toNat &&& 2147483647 = a.toNat % 2 ^ 31 := Nat.and_two_pow_sub_one_eq_mod _ 31
  rw [fabs, BitVec.toNat_and, BitVec.toNat_ofNat, show BitVec.toNat (0x7FFFFFFF : Word) = 2147483647 by decide, hlow]
  omega

/-- Inverting the top bit adds it, modulo 2³². -/
theorem fneg_eq (a : Word) : fneg a = BitVec.ofNat 32 (a.toNat + 2 ^ 31) := by
  apply BitVec.eq_of_toNat_eq
  have hlt := a.isLt
  have hmod : (a.toNat ^^^ 2 ^ 31) % 2 ^ 31 = a.toNat % 2 ^ 31 := by rw [Nat.xor_mod_two_pow]; simp
  have hdiv : (a.toNat ^^^ 2 ^ 31) / 2 ^ 31 = a.toNat / 2 ^ 31 ^^^ 1 := by rw [Nat.xor_div_two_pow]; norm_num
  have htop : a.toNat / 2 ^ 31 = 0 ∨ a.toNat / 2 ^ 31 = 1 := by omega
  have h31 : BitVec.toNat (0x80000000 : Word) = 2 ^ 31 := by decide
  rw [fneg, BitVec.toNat_xor, h31, BitVec.toNat_ofNat]
  generalize a.toNat ^^^ 2 ^ 31 = x at hmod hdiv
  obtain h | h := htop <;> rw [h] at hdiv <;> norm_num at hdiv hmod ⊢ <;> omega

theorem plain_bool32 {b : Bool} {p : Prop} [Decidable p] (h : b = true ↔ p) : plain (bool32 b) = truth p := by
  unfold plain bool32 truth
  by_cases hp : p
  · rw [h.mpr hp, if_pos rfl, if_pos hp]
  · rw [if_neg hp, if_neg fun hb => hp (h.mp hb)]

theorem xor_ne_zero (a b : Word) : ((a != 0) != (b != 0)) = true ↔ ¬(a ≠ 0 ↔ b ≠ 0) := by
  rw [bne_iff_ne]
  exact not_congr (by rw [Bool.eq_iff_iff, bne_iff_ne, bne_iff_ne])

/-! ## Arithmetic instructions (R89 to R94) -/

theorem exec_alu {i : Instr} {rd : BitVec 5} {f g : LaneCtx → Res} (h : exec i s = .next (s.alu c rd g)) (hg : ∀ x, g x = f x) :
    exec i s = .next (s.alu c rd f) := by
  rw [h, funext hg]

/-- Every instruction of the tables computes its result from the registers. -/
theorem exec_of_aluOf {i : Instr} {rd : BitVec 5} {f : LaneCtx → Res} (h : aluOf i = some (c, rd, f)) : exec i s = .next (s.alu c rd f) := by
  unfold aluOf at h
  split at h
  all_goals cases h
  -- LDK, LDKH
  · exact exec_alu rfl fun _ => rfl
  · exact exec_alu rfl fun _ => congrArg plain (ldkh_eq ..)
  -- ADD to MAXU
  · exact exec_alu rfl fun _ => congrArg plain (ofInt_toInt_add ..).symm
  · exact exec_alu rfl fun _ => congrArg plain (ofInt_toInt_sub ..).symm
  · exact exec_alu rfl fun _ => satI_eq _
  · exact exec_alu rfl fun _ => satI_eq _
  · exact exec_alu rfl fun _ => rfl
  · exact exec_alu rfl fun _ => rfl
  · exact exec_alu rfl fun _ => rfl
  · exact exec_alu rfl fun _ => congrArg plain (ofNat_shiftLeft ..).symm
  · exact exec_alu rfl fun _ => congrArg plain (ofNat_shiftRight ..).symm
  · exact exec_alu rfl fun _ => congrArg plain (ofInt_sshiftRight ..).symm
  · exact exec_alu rfl fun _ => congrArg plain (ofInt_toInt_mul ..).symm
  · exact exec_alu rfl fun _ => rfl
  · exact exec_alu rfl fun _ => rfl
  · exact exec_alu rfl fun _ => divTrunc_eq ..
  · exact exec_alu rfl fun _ => divU_eq ..
  · exact exec_alu rfl fun _ => rfl
  · exact exec_alu rfl fun _ => rfl
  · exact exec_alu rfl fun _ => congrArg plain (min_toInt ..).symm
  · exact exec_alu rfl fun _ => congrArg plain (max_toInt ..).symm
  · exact exec_alu rfl fun _ => congrArg plain (min_toNat ..).symm
  · exact exec_alu rfl fun _ => congrArg plain (max_toNat ..).symm
  -- ABS, NEG and the immediate forms
  · exact exec_alu rfl fun _ => satI_abs _
  · exact exec_alu rfl fun _ => satI_eq _
  · exact exec_alu rfl fun x => congrArg plain (by rw [BitVec.ofInt_add, BitVec.ofInt_toInt]; rfl)
  · exact exec_alu rfl fun _ => congrArg (fun v => plain (_ &&& v)) (BitVec.ofNat_toNat ..).symm
  · exact exec_alu rfl fun _ => congrArg (fun v => plain (_ ||| v)) (BitVec.ofNat_toNat ..).symm
  · exact exec_alu rfl fun _ => congrArg (fun v => plain (_ ^^^ v)) (BitVec.ofNat_toNat ..).symm
  · exact exec_alu rfl fun _ => plain_bool32 decide_eq_true_iff
  · exact exec_alu rfl fun _ => congrArg plain (ofNat_shiftLeft ..).symm
  · exact exec_alu rfl fun _ => congrArg plain (ofNat_shiftRight ..).symm
  · exact exec_alu rfl fun _ => congrArg plain (ofInt_sshiftRight ..).symm
  -- QMUL to QLIM
  · exact exec_alu rfl fun _ => satI_shrRound ..
  · exact exec_alu rfl fun _ => divTrunc_eq ..
  · exact exec_alu rfl fun _ => satI_eq _
  · exact exec_alu rfl fun _ => satI_shrRound ..
  · exact exec_alu rfl fun _ => qmac_eq ..
  · exact exec_alu rfl fun _ => qlim_eq ..
  -- FADD to FCVT_Q_S
  · exact exec_alu rfl fun _ => rfl
  · exact exec_alu rfl fun _ => rfl
  · exact exec_alu rfl fun _ => rfl
  · exact exec_alu rfl fun _ => rfl
  · exact exec_alu rfl fun _ => rfl
  · exact exec_alu rfl fun _ => rfl
  · exact exec_alu rfl fun _ => rfl
  · exact exec_alu rfl fun _ => congrArg plain (fabs_eq _)
  · exact exec_alu rfl fun _ => congrArg plain (fneg_eq _)
  · exact exec_alu rfl fun _ => rfl
  · exact exec_alu rfl fun _ => rfl
  · exact exec_alu rfl fun _ => rfl
  · exact exec_alu rfl fun _ => rfl
  -- EQ to SEL
  · exact exec_alu rfl fun _ => plain_bool32 beq_iff_eq
  · exact exec_alu rfl fun _ => plain_bool32 bne_iff_ne
  · exact exec_alu rfl fun _ => plain_bool32 decide_eq_true_iff
  · exact exec_alu rfl fun _ => plain_bool32 decide_eq_true_iff
  · exact exec_alu rfl fun _ => plain_bool32 decide_eq_true_iff
  · exact exec_alu rfl fun _ => plain_bool32 decide_eq_true_iff
  · exact exec_alu rfl fun _ => rfl
  · exact exec_alu rfl fun _ => rfl
  · exact exec_alu rfl fun _ => rfl
  · exact exec_alu rfl fun _ => rfl
  · exact exec_alu rfl fun _ => plain_bool32 (by simp)
  · exact exec_alu rfl fun _ => plain_bool32 (by simp)
  · exact exec_alu rfl fun _ => plain_bool32 (xor_ne_zero ..)
  · exact exec_alu rfl fun _ => plain_bool32 beq_iff_eq
  · exact exec_alu rfl fun _ => congrArg plain (by simp [ite_not])

/-- A result depends on the registers alone. -/
theorem aluOf_reads {i : Instr} {rd : BitVec 5} {f : LaneCtx → Res} (h : aluOf i = some (c, rd, f)) : f (s.stepped c) = f (s.ctxAt c) := by
  unfold aluOf at h
  split at h
  all_goals cases h
  all_goals rfl

/-- What an arithmetic instruction does on an executing context. -/
theorem exec_aluOf {i : Instr} {rd : BitVec 5} {f : LaneCtx → Res} (hi : aluOf i = some (c, rd, f)) (h : s.Executes c) :
    exec i s = .next ((s.stick (s.ctxAt c) (f (s.ctxAt c)).2).setCtx c ((s.stepped c).setR rd (f (s.ctxAt c)).1).advance) := by
  rw [exec_of_aluOf hi, alu_executes h, ← aluOf_reads hi]
  rfl

theorem stick_other {x : LaneCtx} {w : Word} {n : Fin 8} (h : n ≠ x.task) : (s.stick x w).task n = s.task n := by
  unfold State.stick
  split
  · rfl
  · exact task_setTask_ne _ _ h

/-- Settles O7: by the result of each instruction, and by the rd and the flags that `alu` writes. -/
theorem arithmeticResult : Obligations.ArithmeticResult := by
  intro i c rd f s hi h
  exact ⟨_, exec_aluOf hi h, computes_setR (fun _ => stick_ctxAt ..) (stick_regs ..), stick_flags .., fun n hn => stick_other hn, stick_mem ..⟩

/-! ## Division and saturation (R91) -/

theorem stick_excs {x : LaneCtx} {w : Word} {n : Fin 8} : ((s.stick x w).task n).excs = (s.task n).excs := by
  unfold State.stick
  split
  · rfl
  · by_cases hn : n = x.task
    · subst hn; simp
    · rw [task_setTask_ne _ _ hn]

/-- An arithmetic instruction on an executing context: it still runs, no exception is raised, and rd and the flags hold the result. -/
theorem aluOf_completes {i : Instr} {rd : BitVec 5} {f : LaneCtx → Res} (hi : aluOf i = some (c, rd, f)) (h : s.Executes c) :
    ∃ t, exec i s = .next t ∧ (t.ctxAt c).busy = true ∧ (t.task (s.ctxAt c).task).excs = (s.task (s.ctxAt c).task).excs ∧
      (t.ctxAt c).r rd = (if rd = 0 then 0 else (f (s.ctxAt c)).1) ∧
      (t.task (s.ctxAt c).task).flags = (s.task (s.ctxAt c).task).flags ||| (f (s.ctxAt c)).2 := by
  refine ⟨_, exec_aluOf hi h, ?_, stick_excs, ?_, stick_flags ..⟩
  · simpa using h.2.1
  · simp [laneCtx_r_setR]

/-- The same where the result and a flag of it are known. -/
theorem aluOf_gives {i : Instr} {rd : BitVec 5} {f : LaneCtx → Res} (hi : aluOf i = some (c, rd, f)) (h : s.Executes c) {v w : Word} {k : Nat}
    (hf : f (s.ctxAt c) = (v, w)) (hk : w.getLsbD k = true) :
    ∃ t, exec i s = .next t ∧ (t.ctxAt c).busy = true ∧ (t.task (s.ctxAt c).task).excs = (s.task (s.ctxAt c).task).excs ∧
      (t.ctxAt c).r rd = (if rd = 0 then 0 else v) ∧ ∀ n, some k = some n → (t.task (s.ctxAt c).task).flags.getLsbD n = true := by
  obtain ⟨t, he, hb, hx, hr, hfl⟩ := aluOf_completes hi h
  rw [hf] at hr hfl
  refine ⟨t, he, hb, hx, hr, fun n hn => ?_⟩
  cases hn
  rw [hfl, BitVec.getLsbD_or, hk, Bool.or_true]

/-- An exact result outside the range sets SAT. -/
theorem satExact_clips {z : Int} (h : 2147483647 < z ∨ z < -2147483648) : ∃ v, satExact z = (v, 0x1) := by
  unfold satExact
  obtain h | h := h
  · exact ⟨_, by rw [if_neg (by omega), if_pos h]⟩
  · exact ⟨_, by rw [if_pos h]⟩

theorem quotExact_zero (z : Int) : quotExact z 0 = (if 0 ≤ z then 0x7FFFFFFF else 0x80000000, 0x2) := if_pos rfl

/-- Settles O8: the corners of R91 in the results of `aluOf`. -/
theorem divisionNeverTraps : Obligations.DivisionNeverTraps := by
  intro c rd p q s h x a b gives
  refine ⟨fun i hi => ?_, fun (hb : (s.ctxAt c).r q = 0) => ?_,
    fun (ha : (s.ctxAt c).r p = 0x80000000) (hb : (s.ctxAt c).r q = 0xFFFFFFFF) => ⟨?_, ?_⟩, fun hz => ?_, fun hz => ?_,
    fun (ha : (s.ctxAt c).r p = 0x80000000) => ?_⟩
  · simp only [List.mem_cons, List.not_mem_nil, or_false] at hi
    have hf : ∃ f, aluOf i = some (c, rd, f) := by obtain rfl | rfl | rfl | rfl := hi <;> exact ⟨_, rfl⟩
    obtain ⟨f, hf⟩ := hf
    obtain ⟨t, he, hb, hx, -⟩ := aluOf_completes hf h
    exact ⟨t, he, hb, hx⟩
  · have hdz : (0x2 : Word).getLsbD 1 = true := rfl
    exact ⟨aluOf_gives rfl h ((congrArg (quotExact _) hb).trans (quotExact_zero _)) hdz, aluOf_gives rfl h (if_pos hb) hdz,
      aluOf_gives rfl h (if_pos hb) hdz, aluOf_gives rfl h (if_pos hb) hdz⟩
  · refine aluOf_gives rfl h (w := 0x1) ?_ rfl
    simp only [ha, hb]
    decide
  · obtain ⟨t, he, hb', hx, hr, -⟩ := aluOf_completes (i := .rem c rd p q) rfl h
    simp only [ha, hb] at hr
    exact ⟨t, he, hb', hx, hr.trans rfl, fun n hn => by cases hn⟩
  · obtain ⟨v, hv⟩ := satExact_clips hz
    exact ⟨v, aluOf_gives rfl h hv rfl⟩
  · obtain ⟨v, hv⟩ := satExact_clips hz
    exact ⟨v, aluOf_gives rfl h hv rfl⟩
  · constructor
    all_goals
      refine aluOf_gives rfl h (w := 0x1) ?_ rfl
      simp only [ha]
      decide

end Sys2Proof.Machine
end

/-! # Slots and instance data (O9 to O13) -/

section
namespace Sys2Proof.Machine

variable {s : State} {c : Fin 16}

/-! ## Numbers in memory: little-endian bytes -/

@[simp] theorem length_leBytes (n v : Nat) : (leBytes n v).length = n := by
  induction n generalizing v with
  | zero => rfl
  | succ n ih => simp [leBytes, ih]

theorem leBytes_getElem {n v k : Nat} (hk : k < (leBytes n v).length) : (leBytes n v)[k] = BitVec.ofNat 8 (v / 256 ^ k) := by
  induction n generalizing v k with
  | zero => simp at hk
  | succ n ih =>
    cases k with
    | zero => simp [leBytes]
    | succ k => simp only [leBytes, List.getElem_cons_succ, ih, Nat.div_div_eq_div_mul, pow_succ']

theorem leNat_leBytes (n v : Nat) : leNat (leBytes n v) = v % 256 ^ n := by
  induction n generalizing v with
  | zero => simp [leBytes, leNat, Nat.mod_one]
  | succ n ih =>
    rw [leBytes, leNat, ih, BitVec.toNat_ofNat, pow_succ' 256 n]
    exact Nat.mod_mul.symm

theorem byte_wrLe_out {a n v j : Nat} (h : j < a ∨ a + n ≤ j) : (s.wrLe a n v).byte j = s.byte j :=
  byte_putBytes_out s a _ (by simpa using h)

theorem byte_wrLe_in {a n v k : Nat} (h : k < n) : (s.wrLe a n v).byte (a + k) = BitVec.ofNat 8 (v / 256 ^ k) := by
  unfold State.wrLe
  rw [byte_putBytes_in s a _ (by simpa using h), leBytes_getElem]

/-- A number reads back, cut to its bytes. -/
theorem rdLe_wrLe_same {a n v : Nat} : (s.wrLe a n v).rdLe a n = v % 256 ^ n := by
  have hbytes : (s.wrLe a n v).bytes a n = leBytes n v := by
    refine List.ext_getElem (by simp [State.bytes, upto]) fun k hk hk' => ?_
    simp only [State.bytes, upto, List.getElem_map, List.getElem_range]
    rw [byte_wrLe_in (by simpa using hk'), leBytes_getElem]
  rw [State.rdLe, hbytes, leNat_leBytes]

theorem rdLe_wrLe_four {a v : Nat} : (s.wrLe a 4 v).rdLe a 4 = v % 2 ^ 32 := rdLe_wrLe_same

theorem rdLe_congr {t : State} {a n : Nat} (h : ∀ k, k < n → t.byte (a + k) = s.byte (a + k)) : t.rdLe a n = s.rdLe a n := by
  unfold State.rdLe State.bytes upto
  rw [List.map_congr_left fun k hk => h k (List.mem_range.mp hk)]

theorem rdLe_wrLe_apart {a n v b m : Nat} (h : b + m ≤ a ∨ a + n ≤ b) : (s.wrLe a n v).rdLe b m = s.rdLe b m :=
  rdLe_congr fun k hk => byte_wrLe_out (by omega)

theorem toNat_append_byte {n : Nat} (x : BitVec n) (y : Byte) : (x ++ y).toNat = 256 * x.toNat + y.toNat := by
  rw [BitVec.toNat_append, ← Nat.shiftLeft_add_eq_or_of_lt y.isLt, Nat.shiftLeft_eq]
  omega

theorem rdLe_one (s : State) (a : Nat) : s.rdLe a 1 = (s.byte a).toNat := by
  simp [State.rdLe, State.bytes, upto, leNat]
theorem rdLe_two (s : State) (a : Nat) : s.rdLe a 2 = (s.byte a).toNat + 256 * (s.byte (a + 1)).toNat := by
  simp [State.rdLe, State.bytes, upto, leNat, List.range_succ]
theorem rdLe_four (s : State) (a : Nat) :
    s.rdLe a 4 = (s.byte a).toNat + 256 * ((s.byte (a + 1)).toNat + 256 * ((s.byte (a + 2)).toNat + 256 * (s.byte (a + 3)).toNat)) := by
  simp [State.rdLe, State.bytes, upto, leNat, List.range_succ]

theorem word_rdLe_four (s : State) (a : Nat) :
    BitVec.ofNat 32 (s.rdLe a 4) = s.byte (a + 3) ++ s.byte (a + 2) ++ s.byte (a + 1) ++ s.byte a := by
  apply BitVec.eq_of_toNat_eq
  have h0 := (s.byte a).isLt
  have h1 := (s.byte (a + 1)).isLt
  have h2 := (s.byte (a + 2)).isLt
  have h3 := (s.byte (a + 3)).isLt
  simp only [toNat_append_byte]
  rw [rdLe_four, BitVec.toNat_ofNat]
  omega

theorem half_rdLe_two (s : State) (a : Nat) : BitVec.ofNat 16 (s.rdLe a 2) = s.byte (a + 1) ++ s.byte a := by
  apply BitVec.eq_of_toNat_eq
  have h0 := (s.byte a).isLt
  have h1 := (s.byte (a + 1)).isLt
  simp only [toNat_append_byte]
  rw [rdLe_two, BitVec.toNat_ofNat]
  omega

theorem word_rdLe_one (s : State) (a : Nat) : BitVec.ofNat 32 (s.rdLe a 1) = (s.byte a).setWidth 32 := by
  rw [rdLe_one]; exact BitVec.ofNat_toNat ..

/-! ## Reads of slots (R78, R79, R88) -/

theorem readSlot_stepped {k : Nat} : s.readSlot (s.stepped c) k = s.readSlot (s.ctxAt c) k := rfl

theorem slotRead_gives (h : s.Executes c) {rd : BitVec 5} {slot : LaneCtx → Nat} {f : Word × Word → Word} {k : Nat} {v : Word}
    (hk : slot (s.stepped c) = k) (hlt : k < s.nSlots s.runBank) (hv : f (s.readSlot (s.ctxAt c) k) = v) :
    s.Computes (s.slotRead c rd slot f) c rd v ∧ (s.slotRead c rd slot f).cad.tasks = s.cad.tasks ∧ (s.slotRead c rd slot f).mem = s.mem := by
  refine instr_gives h ?_
  rw [hk, if_neg (by omega), readSlot_stepped, hv]

theorem bool32_decide (p : Prop) [Decidable p] : bool32 (decide p) = if p then 1 else 0 := by
  unfold bool32; by_cases h : p <;> simp [h]

/-- Settles O9: each form is a read of a slot with its own part of what the slot shows. -/
theorem slotReads : Obligations.SlotReads := by
  intro c rd s h x gives
  exact ⟨fun slot l hlt => ⟨⟨_, rfl, slotRead_gives h rfl hlt rfl⟩, ⟨_, rfl, slotRead_gives h rfl hlt rfl⟩,
      ⟨_, rfl, slotRead_gives h rfl hlt (bool32_decide _)⟩, ⟨_, rfl, slotRead_gives h rfl hlt rfl⟩⟩,
    fun rs1 hlt => ⟨⟨_, rfl, slotRead_gives h rfl hlt rfl⟩, ⟨_, rfl, slotRead_gives h rfl hlt rfl⟩⟩⟩

/-! ## Stores to slots (R79, R80, R88) -/

/-- The mark of a slot's value at the start of the waves in progress changes tasks alone. -/
theorem noteWave_frame {n : Fin 8} {inst slot : Nat} :
    (s.noteWave n inst slot).mem = s.mem ∧ (s.noteWave n inst slot).regs = s.regs ∧ ∀ d, (s.noteWave n inst slot).ctxAt d = s.ctxAt d := by
  unfold State.noteWave
  refine List.foldlRecOn (motive := fun t : State => t.mem = s.mem ∧ t.regs = s.regs ∧ ∀ d, t.ctxAt d = s.ctxAt d) _ _
    ⟨rfl, rfl, fun _ => rfl⟩ fun t ht m _ => ?_
  dsimp only
  split
  · exact ht
  split
  · split <;> exact ht
  · exact ht

theorem liveVal_putLive {k : Nat} {v st : Word} : (s.putLive k v st).liveVal k = v := by
  unfold State.liveVal State.putLive
  rw [rdLe_wrLe_apart (.inl le_rfl), rdLe_wrLe_four, Nat.mod_eq_of_lt v.isLt, BitVec.ofNat_toNat, BitVec.setWidth_eq]

theorem liveSt_putLive {k : Nat} {v st : Word} : (s.putLive k v st).liveSt k = st := by
  unfold State.liveSt State.putLive
  rw [rdLe_wrLe_four, Nat.mod_eq_of_lt st.isLt, BitVec.ofNat_toNat, BitVec.setWidth_eq]

theorem byte_putLive_out {k a : Nat} {v st : Word} (h : a < liveAddr k ∨ liveAddr k + 8 ≤ a) : (s.putLive k v st).byte a = s.byte a := by
  unfold State.putLive
  rw [byte_wrLe_out (by omega), byte_wrLe_out (by omega)]

theorem byte_congr {t : State} (h : t.mem = s.mem) (a : Nat) : t.byte a = s.byte a := by unfold State.byte; rw [h]

/-- A store without an exception: the task may write the slot, and no NaN is suppressed. -/
theorem storeSlot_ok {slot : Nat} {v : Word} {q : BitVec 3} (h : s.MayStore c slot v q) : s.storeSlot (s.stepped c) slot v q =
    .ok (s.writeSlot (s.stepped c) slot (storeVal (s.slotType s.runBank slot) v) (q.setWidth 32)).1
      (s.writeSlot (s.stepped c) slot (storeVal (s.slotType s.runBank slot) v) (q.setWidth 32)).2 := by
  obtain ⟨hq, hlt, hdir, hwr, hnan⟩ := h
  have hmay : (!((s.slotDir s.runBank slot == 1 || s.slotDir s.runBank slot == 2) &&
      s.slotWriter s.runBank slot == (s.stepped c).task.val)) = false := by
    obtain h1 | h1 := hdir <;> simp [h1, hwr]
  unfold State.storeSlot
  dsimp only
  rw [if_neg hq, if_neg (Nat.not_le.mpr hlt), hmay, if_neg Bool.false_ne_true, if_neg (by simpa using hnan)]

@[simp] theorem putLive_regs {k : Nat} {v st : Word} : (s.putLive k v st).regs = s.regs := rfl

/-- Everything a write of a slot does: a higher-numbered instance's value stays, or the live image takes it. -/
theorem writeSlot_effect {x : LaneCtx} {slot : Nat} {v st : Word} :
    (∀ r, (s.writeSlot x slot v st).2.r r = x.r r) ∧ (s.writeSlot x slot v st).1.regs = s.regs ∧
      (if s.outranked x.task x.inst slot then (s.writeSlot x slot v st).1.mem = s.mem
       else (s.writeSlot x slot v st).1.liveVal slot = v ∧ (s.writeSlot x slot v st).1.liveSt slot = st ∧
        ∀ a, (a < liveAddr slot ∨ liveAddr slot + 8 ≤ a) → (s.writeSlot x slot v st).1.byte a = s.byte a) := by
  unfold State.writeSlot
  dsimp only
  split
  · exact ⟨fun _ => rfl, rfl, rfl⟩
  · obtain ⟨hm, hr, -⟩ := noteWave_frame (s := s) (n := x.task) (inst := x.inst) (slot := slot)
    exact ⟨fun _ => rfl, putLive_regs.trans hr, liveVal_putLive, liveSt_putLive, fun a ha => (byte_putLive_out ha).trans (byte_congr hm a)⟩

theorem storeVal_eq (typ : Nat) (v : Word) : storeVal typ v = if typ = 0 then (if v = 0 then 0 else 1) else v := by
  unfold storeVal bool32
  by_cases hv : v = 0 <;> simp [hv]

theorem storeSlot_effect {slot : Nat} {v : Word} {q : BitVec 3} (h : s.Executes c) (hm : s.MayStore c slot v q)
    {k : State → LaneCtx → IEnd} (hk : k s (s.stepped c) = s.storeSlot (s.stepped c) slot v q) :
    (∀ r, ((s.instr c k).ctxAt c).r r = (s.ctxAt c).r r) ∧ (s.instr c k).regs = s.regs ∧
      (if s.outranked (s.ctxAt c).task (s.ctxAt c).inst slot then (s.instr c k).mem = s.mem
       else (s.instr c k).liveVal slot = (if s.slotType s.runBank slot = 0 then (if v = 0 then 0 else 1) else v) ∧
        (s.instr c k).liveSt slot = BitVec.ofNat 32 q.toNat ∧
        ∀ a, (a < liveAddr slot ∨ liveAddr slot + 8 ≤ a) → (s.instr c k).byte a = s.byte a) := by
  obtain ⟨hr, hregs, hmem⟩ := writeSlot_effect (s := s) (x := s.stepped c) (slot := slot) (v := storeVal (s.slotType s.runBank slot) v)
    (st := q.setWidth 32)
  rw [instr_ok h (hk.trans (storeSlot_ok hm)), ← storeVal_eq, BitVec.ofNat_toNat]
  exact ⟨fun r => by rw [ctxAt_setCtx_same, advance_r, hr, stepped_r], hregs, hmem⟩

/-- Settles O10: both forms store a register's value into a slot. -/
theorem slotStores : Obligations.SlotStores := by
  intro c slot v q i s h hi hm
  obtain ⟨r, k, rfl, rfl, rfl⟩ | ⟨r1, r2, rfl, rfl, rfl⟩ := hi
  · exact ⟨_, rfl, storeSlot_effect h hm rfl⟩
  · exact ⟨_, rfl, storeSlot_effect h hm rfl⟩

/-! ## Instance data (R89) -/

theorem loadData_gives (h : s.Executes c) {rd rs1 : BitVec 5} {imm : BitVec 16} {w : Nat} {f : Nat → Word} {v : Word}
    (he : s.dataExc (s.ctxAt c) (((s.ctxAt c).r rs1).toNat + imm.toNat) w = none)
    (hv : f (s.rdLe (s.dataAddr s.runBank (s.ctxAt c).cur (((s.ctxAt c).r rs1).toNat + imm.toNat)) w) = v) :
    s.Computes (s.loadData c rd rs1 imm w f) c rd v ∧ (s.loadData c rd rs1 imm w f).cad.tasks = s.cad.tasks ∧
      (s.loadData c rd rs1 imm w f).mem = s.mem := by
  refine instr_gives h ?_
  change (match s.dataExc (s.ctxAt c) (((s.ctxAt c).r rs1).toNat + imm.toNat) w with | some e => _ | none => _) = _
  rw [he]
  exact congrArg (fun v => IEnd.ok s ((s.stepped c).setR rd v)) hv

/-- Settles O11: a load gives the bytes at the offset under its own extension. -/
theorem instanceDataLoads : Obligations.InstanceDataLoads := by
  intro c rd rs1 imm s h x o a gives
  exact ⟨fun he => ⟨_, rfl, loadData_gives h he (word_rdLe_four ..)⟩,
    fun he => ⟨_, rfl, loadData_gives h he (congrArg (BitVec.signExtend 32) (half_rdLe_two ..))⟩,
    fun he => ⟨_, rfl, loadData_gives h he (word_rdLe_one ..)⟩⟩

theorem storeData_stores (h : s.Executes c) {rd rs1 : BitVec 5} {imm : BitVec 16} {w : Nat}
    (he : s.dataExc (s.ctxAt c) (((s.ctxAt c).r rs1).toNat + imm.toNat) w = none) : s.storeData c rd rs1 imm w =
      (s.wrLe (s.dataAddr s.runBank (s.ctxAt c).cur (((s.ctxAt c).r rs1).toNat + imm.toNat)) w ((s.ctxAt c).r rd).toNat).setCtx c
        (s.stepped c).advance := by
  refine instr_ok h ?_
  change (match s.dataExc (s.ctxAt c) (((s.ctxAt c).r rs1).toNat + imm.toNat) w with | some e => _ | none => _) = _
  rw [he]
  rfl

/-- Settles O12: the three forms store as many bytes of rd. -/
theorem instanceDataStores : Obligations.InstanceDataStores := by
  intro c rd rs1 imm s h x o a stores
  have hst (i : Instr) (w : Nat) (hi : exec i s = .next (s.storeData c rd rs1 imm w)) (he : s.dataExc x o w = none) : stores i w := by
    refine ⟨_, hi, ?_⟩
    rw [storeData_stores h he]
    exact ⟨fun k hk => byte_wrLe_in hk, fun b hb => byte_wrLe_out hb, fun r => by simp [x], fun d hd => ctxAt_setCtx_ne _ _ hd, rfl, rfl⟩
  exact ⟨hst _ 4 rfl, hst _ 2 rfl, hst _ 1 rfl⟩

/-! ## Timers and edges (R95, R96) -/

theorem testBit_timerWord {st : Nat} (hst : st < 2 ^ 32) (q p : Bool) :
    ((st - st % 4 + b2n q + 2 * b2n p) % 256 ^ 4).testBit 0 = q ∧ ((st - st % 4 + b2n q + 2 * b2n p) % 256 ^ 4).testBit 1 = p := by
  have hq : b2n q = q.toNat := by cases q <;> rfl
  have hp : b2n p = p.toNat := by cases p <;> rfl
  have hq1 := Bool.toNat_le q
  have hp1 := Bool.toNat_le p
  have hbit (b : Bool) (n : Nat) (h : n = b.toNat) : (decide (n = 1)) = b := by cases b <;> simp [h]
  constructor
  · rw [Nat.testBit_zero]
    exact hbit _ _ (by omega)
  · rw [Nat.testBit_succ, Nat.testBit_zero]
    exact hbit _ _ (by omega)

theorem rdLe_four_lt (s : State) (a : Nat) : s.rdLe a 4 < 2 ^ 32 := by
  have h0 := (s.byte a).isLt
  have h1 := (s.byte (a + 1)).isLt
  have h2 := (s.byte (a + 2)).isLt
  have h3 := (s.byte (a + 3)).isLt
  rw [rdLe_four]
  omega

/-- The timer block at an address (R95). -/
def State.timerAt (s : State) (a : Nat) : Timer := ⟨s.rdLe a 4, s.rdLe (a + 4) 4, (s.rdLe (a + 8) 4).testBit 0, (s.rdLe (a + 8) 4).testBit 1⟩

/-- The block with ET, Q and PREV_IN stored. -/
def State.storeTimer (s : State) (a : Nat) (t : Timer) : State :=
  (s.wrLe (a + 4) 4 t.et).wrLe (a + 8) 4 (s.rdLe (a + 8) 4 - s.rdLe (a + 8) 4 % 4 + b2n t.q + 2 * b2n t.prev)

theorem storeTimer_effect (a : Nat) (t : Timer) : (s.storeTimer a t).rdLe a 4 = s.rdLe a 4 ∧ (s.storeTimer a t).rdLe (a + 4) 4 = t.et % 2 ^ 32 ∧
    ((s.storeTimer a t).rdLe (a + 8) 4).testBit 0 = t.q ∧ ((s.storeTimer a t).rdLe (a + 8) 4).testBit 1 = t.prev ∧
    ∀ b, (b < a ∨ a + 12 ≤ b) → (s.storeTimer a t).byte b = s.byte b := by
  unfold State.storeTimer
  obtain ⟨hq, hp⟩ := testBit_timerWord (rdLe_four_lt s (a + 8)) t.q t.prev
  refine ⟨?_, ?_, ?_, ?_, fun b hb => ?_⟩
  · rw [rdLe_wrLe_apart (.inl (by omega)), rdLe_wrLe_apart (.inl (by omega))]
  · rw [rdLe_wrLe_apart (.inl (by omega)), rdLe_wrLe_four]
  · rw [rdLe_wrLe_same, hq]
  · rw [rdLe_wrLe_same, hp]
  · rw [byte_wrLe_out (by omega), byte_wrLe_out (by omega)]

theorem timer_stores (h : s.Executes c) {rd rs1 : BitVec 5} {off : BitVec 14} {f : Timer → Bool → Nat → Timer} {a : Nat}
    (ha : s.dataAddr s.runBank (s.ctxAt c).cur off.toNat = a) (hend : off.toNat + 12 ≤ 16384)
    (hsize : off.toNat + 12 ≤ s.instDsize s.runBank (s.ctxAt c).cur) (hal : off.toNat % 4 = 0) (hue : s.ueIn a 12 = none) :
    s.timer c rd rs1 off f = (s.storeTimer a (f (s.timerAt a) ((s.ctxAt c).r rs1 != 0) (s.deltaOf (s.ctxAt c)))).setCtx c
      ((s.stepped c).setR rd (bool32 (f (s.timerAt a) ((s.ctxAt c).r rs1 != 0) (s.deltaOf (s.ctxAt c))).q)).advance := by
  subst ha
  refine instr_ok h ?_
  have hb : ¬(decide (2 ^ 14 < off.toNat + 12) || decide (s.instDsize s.runBank (s.ctxAt c).cur < off.toNat + 12)) = true := by
    simp; omega
  dsimp only
  rw [stepped_cur, if_neg hb, if_neg (not_not.mpr hal), if_neg (by simp [hue])]
  rfl

theorem timer_effect (h : s.Executes c) {rd rs1 : BitVec 5} {off : BitVec 14} {f : Timer → Bool → Nat → Timer}
    (hf : ∀ t i d, (f t i d).prev = i) (hend : off.toNat + 12 ≤ 16384)
    (hsize : off.toNat + 12 ≤ s.instDsize s.runBank (s.ctxAt c).cur) (hal : off.toNat % 4 = 0) {a : Nat}
    (ha : s.dataAddr s.runBank (s.ctxAt c).cur off.toNat = a) (hue : s.ueIn a 12 = none) {t1 : Timer}
    (ht1 : f (s.timerAt a) (decide ((s.ctxAt c).r rs1 ≠ 0)) (s.deltaOf (s.ctxAt c)) = t1) :
    ((s.timer c rd rs1 off f).ctxAt c).r rd = (if rd = 0 then 0 else if t1.q then 1 else 0) ∧ (s.timer c rd rs1 off f).rdLe a 4 = s.rdLe a 4 ∧
      (s.timer c rd rs1 off f).rdLe (a + 4) 4 = t1.et % 2 ^ 32 ∧ ((s.timer c rd rs1 off f).rdLe (a + 8) 4).testBit 0 = t1.q ∧
      ((s.timer c rd rs1 off f).rdLe (a + 8) 4).testBit 1 = decide ((s.ctxAt c).r rs1 ≠ 0) ∧
      ∀ b, (b < a ∨ a + 12 ≤ b) → (s.timer c rd rs1 off f).byte b = s.byte b := by
  have hin : ((s.ctxAt c).r rs1 != 0) = decide ((s.ctxAt c).r rs1 ≠ 0) := by rw [Bool.eq_iff_iff]; simp
  rw [timer_stores h ha hend hsize hal hue, hin, ht1, show decide ((s.ctxAt c).r rs1 ≠ 0) = t1.prev by rw [← ht1, hf]]
  exact ⟨by simp [laneCtx_r_setR, bool32], storeTimer_effect a t1⟩

theorem tonNext_prev (t : Timer) (i : Bool) (d : Nat) : (tonNext t i d).prev = i := rfl
theorem tofNext_prev (t : Timer) (i : Bool) (d : Nat) : (tofNext t i d).prev = i := by
  unfold tofNext; split
  · rfl
  · split <;> rfl
theorem tpNext_prev (t : Timer) (i : Bool) (d : Nat) : (tpNext t i d).prev = i := by
  unfold tpNext; split
  · rfl
  · split <;> rfl

theorem edge_effect (h : s.Executes c) {rd rs1 : BitVec 5} {off : BitVec 15} {f : Bool → Bool → Bool} {a : Nat}
    (he : s.dataExc (s.ctxAt c) off.toNat 1 = none) (ha : s.dataAddr s.runBank (s.ctxAt c).cur off.toNat = a) :
    ((s.edge c rd rs1 off f).ctxAt c).r rd =
        (if rd = 0 then 0 else if f (decide ((s.ctxAt c).r rs1 ≠ 0)) ((s.byte a).getLsbD 0) then 1 else 0) ∧
      ((s.edge c rd rs1 off f).byte a).getLsbD 0 = decide ((s.ctxAt c).r rs1 ≠ 0) ∧
      ∀ b, b ≠ a → (s.edge c rd rs1 off f).byte b = s.byte b := by
  subst ha
  have hin : ((s.ctxAt c).r rs1 != 0) = decide ((s.ctxAt c).r rs1 ≠ 0) := by rw [Bool.eq_iff_iff]; simp
  have hrun : s.edge c rd rs1 off f = _ := instr_ok h (by
    change (match s.dataExc (s.ctxAt c) off.toNat 1 with | some e => _ | none => _) = _
    rw [he])
  simp only [stepped_cur, stepped_r, hin, rdLe_one] at hrun
  rw [hrun]
  generalize s.dataAddr s.runBank (s.ctxAt c).cur off.toNat = a
  generalize decide ((s.ctxAt c).r rs1 ≠ 0) = inp
  refine ⟨?_, ?_, fun b hb => byte_wrLe_out (by omega)⟩
  · simp [laneCtx_r_setR, bool32, BitVec.getLsbD]
  · have hbyte := byte_wrLe_in (s := s) (a := a) (n := 1) (v := (s.byte a).toNat - (s.byte a).toNat % 2 + b2n inp) (k := 0) (by omega)
    rw [Nat.add_zero] at hbyte
    change (BitVec.getLsbD ((s.wrLe a 1 _).byte a) 0) = inp
    rw [hbyte, BitVec.getLsbD_ofNat, pow_zero, Nat.div_one, Nat.testBit_zero]
    cases inp <;> simp [b2n] <;> omega

/-- Settles O13: the three timers keep PREV_IN and store ET and Q of their rule; an edge stores IN. -/
theorem timersAndEdges : Obligations.TimersAndEdges := by
  intro c rd rs1 s h x inp
  refine ⟨?_, fun off he => ⟨⟨_, rfl, edge_effect h he rfl⟩, ⟨_, rfl, edge_effect h he rfl⟩⟩⟩
  intro off i f hi hend hsize hal a hue t1
  simp only [List.mem_cons, List.not_mem_nil, or_false, Prod.mk.injEq] at hi
  obtain ⟨rfl, rfl⟩ | ⟨rfl, rfl⟩ | ⟨rfl, rfl⟩ := hi
  · exact ⟨_, rfl, timer_effect h tonNext_prev hend hsize hal rfl hue rfl⟩
  · exact ⟨_, rfl, timer_effect h tofNext_prev hend hsize hal rfl hue rfl⟩
  · exact ⟨_, rfl, timer_effect h tpNext_prev hend hsize hal rfl hue rfl⟩

end Sys2Proof.Machine
end

/-! # The lanes, and instructions that branch, call, post or abort (O14 to O17) -/

section
namespace Sys2Proof.Machine

variable {s : State} {c : Fin 16}

/-! ## Serving the lanes (R80, R114) -/

/-- Serving the lanes changes contexts, and of a task its waves and its saved contexts. -/
def State.Serves (s t : State) : Prop :=
  (∃ ctx tasks, t = { s with cad := { s.cad with ctx := ctx, tasks := tasks } }) ∧
    ∀ n, ∃ wave todo waves writes saved,
      t.task n = { s.task n with wave := wave, todo := todo, waves := waves, waveWrites := writes, saved := saved }

theorem serves_refl (s : State) : s.Serves s := ⟨⟨_, _, rfl⟩, fun _ => ⟨_, _, _, _, _, rfl⟩⟩

theorem State.Serves.trans {s t u : State} (h : s.Serves t) (h' : t.Serves u) : s.Serves u := by
  obtain ⟨⟨_, _, ht⟩, htask⟩ := h
  obtain ⟨⟨ctx, tasks, hu⟩, hutask⟩ := h'
  refine ⟨⟨ctx, tasks, by rw [hu, ht]⟩, fun n => ?_⟩
  obtain ⟨_, _, _, _, _, h1⟩ := htask n
  obtain ⟨w, td, ws, ww, sv, h2⟩ := hutask n
  exact ⟨w, td, ws, ww, sv, by rw [h2, h1]⟩

theorem setCtx_serves {x : LaneCtx} : s.Serves (s.setCtx c x) := ⟨⟨_, _, rfl⟩, fun _ => ⟨_, _, _, _, _, rfl⟩⟩

theorem setTask_serves {n : Fin 8} {w : Nat} {td ws : List Nat} {ww : List WaveWrite} {sv : List (Nat × LaneCtx)} :
    s.Serves (s.setTask n { s.task n with wave := w, todo := td, waves := ws, waveWrites := ww, saved := sv }) := by
  refine ⟨⟨_, _, rfl⟩, fun m => ?_⟩
  by_cases h : m = n
  · subst h; exact ⟨w, td, ws, ww, sv, task_setTask_same ..⟩
  · exact ⟨_, _, _, _, _, task_setTask_ne _ _ h⟩

theorem nextWave_serves {n : Fin 8} {l : List Nat} : s.Serves (s.nextWave n l) := by
  induction l with
  | nil => exact setTask_serves
  | cons w l ih =>
    rw [State.nextWave]
    dsimp only
    split
    · exact ih
    · exact setTask_serves

theorem fillOne_serves {n : Fin 8} : s.Serves (s.fillOne n c) := by
  unfold State.fillOne
  split
  · exact serves_refl s
  split
  · exact setTask_serves.trans setCtx_serves
  split
  · exact setTask_serves.trans setCtx_serves
  · exact serves_refl s

theorem dispatch_serves : s.Serves s.dispatch := by
  unfold State.dispatch
  split
  · exact serves_refl s
  split
  · exact serves_refl s
  · refine List.foldlRecOn (motive := fun t : State => s.Serves t) _ _ ?_ fun t ht m _ => ht.trans fillOne_serves
    split
    · exact nextWave_serves
    · exact serves_refl s

theorem freeCtx_serves : s.Serves (s.freeCtx c) := setCtx_serves.trans dispatch_serves

theorem State.Serves.mem {t : State} (h : s.Serves t) : t.mem = s.mem := by obtain ⟨⟨_, _, rfl⟩, -⟩ := h; rfl
theorem State.Serves.regs {t : State} (h : s.Serves t) : t.regs = s.regs := by obtain ⟨⟨_, _, rfl⟩, -⟩ := h; rfl
theorem State.Serves.hold {t : State} (h : s.Serves t) : t.cad.hold = s.cad.hold := by obtain ⟨⟨_, _, rfl⟩, -⟩ := h; rfl
theorem State.Serves.excs {t : State} (h : s.Serves t) (n : Fin 8) : (t.task n).excs = (s.task n).excs := by
  obtain ⟨_, _, _, _, _, hn⟩ := h.2 n; rw [hn]
theorem State.Serves.posts {t : State} (h : s.Serves t) (n : Fin 8) : (t.task n).posts = (s.task n).posts := by
  obtain ⟨_, _, _, _, _, hn⟩ := h.2 n; rw [hn]
theorem State.Serves.faulted {t : State} (h : s.Serves t) (n : Fin 8) : (t.task n).faulted = (s.task n).faulted := by
  obtain ⟨_, _, _, _, _, hn⟩ := h.2 n; rw [hn]

/-! ## Aborts (R104 to R107) -/

theorem mem_insNat {l : List Nat} {a b : Nat} : a ∈ insNat l b ↔ a = b ∨ a ∈ l := by
  induction l with
  | nil => simp [insNat]
  | cons x l ih =>
    unfold insNat
    split
    · simp
    split
    · next h => subst h; simp
    · simp only [List.mem_cons, ih]; tauto

/-- The context's instance is aborted with an exception: its task lists it, and the type's FAULT_POL faults the task or holds the
instance; requests, memory and the register pages stay. -/
def State.AbortedWith (s : State) (c : Fin 16) (code arg : Nat) (t : State) (e : Exc) : Prop :=
  let x := s.ctxAt c
  let pol := s.typePol s.runBank (s.instType s.runBank x.inst)
  (t.task x.task).excs = (s.task x.task).excs ++ [e] ∧ e.inst = x.inst ∧ e.code = code ∧ e.pc = x.pc ∧ e.arg = arg ∧
    (t.task x.task).faulted = ((s.task x.task).faulted || decide (pol = 2)) ∧ (pol = 1 → x.inst ∈ t.cad.hold) ∧
    (pol ≠ 1 → t.cad.hold = s.cad.hold) ∧ (∀ n, (t.task n).posts = (s.task n).posts) ∧ t.mem = s.mem ∧ t.regs = s.regs

/-- A command aborts the instance in a context. -/
def State.Aborts (s : State) (c : Fin 16) (i : Instr) (code arg : Nat) : Prop := ∃ t e, exec i s = .next t ∧ s.AbortedWith c code arg t e

theorem abortCtx_aborts {code arg : Nat} (hcode : code ≠ excECC_CODE) : ∃ e, s.AbortedWith c code arg (s.abortCtx c code arg) e := by
  unfold State.abortCtx
  extract_lets x pol fault t e s1 src2 s2 src3 s3 s4
  have hs2 : s2.mem = s.mem ∧ s2.regs = s.regs ∧ s2.cad.hold = s.cad.hold ∧ ∀ n, s2.task n = s1.task n := by
    unfold s2; split <;> exact ⟨rfl, rfl, rfl, fun _ => rfl⟩
  have hs3 : s3.mem = s.mem ∧ s3.regs = s.regs ∧ (pol = 1 → x.inst ∈ s3.cad.hold) ∧ (pol ≠ 1 → s3.cad.hold = s.cad.hold) ∧
      ∀ n, s3.task n = s1.task n := by
    obtain ⟨hm, hr, hh, ht⟩ := hs2
    by_cases hp : pol = 1
    · have he : s3 = { s2 with cad := { s2.cad with hold := insNat (insNat s2.cad.hold x.inst) x.cur } } := if_pos (by simp [hp, hcode])
      rw [he]
      exact ⟨hm, hr, fun _ => mem_insNat.mpr (.inr (mem_insNat.mpr (.inl rfl))), fun h => absurd hp h, ht⟩
    · have he : s3 = s2 := if_neg (by simp [hp])
      rw [he]
      exact ⟨hm, hr, fun h => absurd h hp, fun _ => hh, ht⟩
  have hs4 : s4 = s3 := if_neg hcode
  obtain ⟨hm, hr, hheld, hh, ht⟩ := hs3
  have hfree : s4.Serves (s4.freeCtx c) := freeCtx_serves
  rw [hs4] at hfree ⊢
  have hx : s1.task x.task = { t with excs := t.excs ++ [e], faulted := t.faulted || fault } := task_setTask_same ..
  refine ⟨e, ?_, rfl, rfl, rfl, rfl, ?_, fun hp => ?_, fun hp => ?_, fun n => ?_, hfree.mem.trans hm, hfree.regs.trans hr⟩
  · rw [hfree.excs, ht, hx]
  · rw [hfree.faulted, ht, hx]
    change (t.faulted || (code == excECC_CODE || pol == 2)) = (t.faulted || decide (pol = 2))
    rw [beq_eq_false_iff_ne.mpr hcode, Bool.false_or]
    rfl
  · rw [hfree.hold]; exact hheld hp
  · rw [hfree.hold]; exact hh hp
  · rw [hfree.posts, ht]
    by_cases hn : n = x.task
    · rw [hn, hx]
    · exact congrArg Task.posts (task_setTask_ne _ _ hn)

theorem aborts_of (h : s.Executes c) {i : Instr} {k : State → LaneCtx → IEnd} {code arg : Nat} (hi : exec i s = .next (s.instr c k))
    (hk : k s (s.stepped c) = .exc code arg) (hcode : code ≠ excECC_CODE) : s.Aborts c i code arg := by
  obtain ⟨e, he⟩ := abortCtx_aborts (s := s) (c := c) (arg := arg) hcode
  exact ⟨_, e, hi, by rwa [instr_exc h hk]⟩

/-- A context that has used up its budget executes nothing (R99). -/
theorem aborts_of_budget (hl : s.Live .cad) (hb : (s.ctxAt c).busy = true) (hn : s.budgetOf (s.ctxAt c) < (s.ctxAt c).count + 1)
    {i : Instr} {k : State → LaneCtx → IEnd} (hi : exec i s = .next (s.instr c k)) : s.Aborts c i excBUDGET 0 := by
  obtain ⟨e, he⟩ := abortCtx_aborts (s := s) (c := c) (code := excBUDGET) (arg := 0) (by decide)
  refine ⟨_, e, hi, ?_⟩
  unfold State.instr
  rw [whileLive_live hl]
  dsimp only
  rwa [hb, if_neg (by decide), if_pos hn]

/-! ## Branches, loops and calls (R97 to R99) -/

/-- An instruction that changes the flow of a context alone. -/
theorem instr_goes (h : s.Executes c) {k : State → LaneCtx → IEnd} {cur pc : Nat} {loops : List LoopFrame} {calls : List CallFrame}
    (hk : k s (s.stepped c) = .ok s { s.stepped c with cur := cur, pc := pc, loops := loops, calls := calls }) :
    ((s.instr c k).ctxAt c).busy = true ∧ ((s.instr c k).ctxAt c).inst = (s.ctxAt c).inst ∧ ((s.instr c k).ctxAt c).task = (s.ctxAt c).task ∧
      ((s.instr c k).ctxAt c).count = (s.ctxAt c).count + 1 ∧ ((s.instr c k).ctxAt c).cur = cur ∧
      ((s.instr c k).ctxAt c).pc = (closeLoops pc loops).1 ∧ ((s.instr c k).ctxAt c).loops = (closeLoops pc loops).2 ∧
      ((s.instr c k).ctxAt c).calls = calls ∧ (∀ r, ((s.instr c k).ctxAt c).r r = (s.ctxAt c).r r) ∧
      (∀ d, d ≠ c → (s.instr c k).ctxAt d = s.ctxAt d) ∧ (s.instr c k).cad.tasks = s.cad.tasks ∧ (s.instr c k).mem = s.mem ∧
      (s.instr c k).regs = s.regs := by
  rw [instr_ok h hk]
  simp only [ctxAt_setCtx_same]
  exact ⟨h.2.1, rfl, rfl, rfl, rfl, rfl, rfl, rfl, fun _ => rfl, fun d hd => ctxAt_setCtx_ne _ _ hd, rfl, rfl, rfl⟩

theorem branchIf_goes (h : s.Executes c) {off pc : Nat} {p : LaneCtx → Bool} (hpc : (s.ctxAt c).pc + 1 + (if p (s.stepped c) then off else 0) = pc) :
    ((s.branchIf c off p).ctxAt c).pc = (closeLoops pc (s.ctxAt c).loops).1 ∧ (∀ r, ((s.branchIf c off p).ctxAt c).r r = (s.ctxAt c).r r) ∧
      (∀ d, d ≠ c → (s.branchIf c off p).ctxAt d = s.ctxAt d) ∧ (s.branchIf c off p).cad.tasks = s.cad.tasks ∧
      (s.branchIf c off p).mem = s.mem ∧ (s.branchIf c off p).regs = s.regs := by
  obtain ⟨-, -, -, -, -, hp, -, -, hr, hd, ht, hm, hg⟩ := instr_goes (cur := (s.ctxAt c).cur) (pc := pc) (loops := (s.ctxAt c).loops)
    (calls := (s.ctxAt c).calls) (k := fun s x => .ok s (if p x then { x with pc := x.pc + off } else x)) h (by
      subst hpc
      split <;> rfl)
  exact ⟨hp, hr, hd, ht, hm, hg⟩

theorem ite_decide {p : Prop} [Decidable p] {a b : Nat} : (if decide p then a else b) = if p then a else b := by
  by_cases h : p <;> simp [h]

/-- Settles O14: each branch is `branchIf` with its own condition; NOP goes on. -/
theorem branchesGoForward : Obligations.BranchesGoForward := by
  intro c s h x goes
  refine ⟨fun p q off => ⟨⟨_, rfl, branchIf_goes h ?_⟩, ⟨_, rfl, branchIf_goes h ?_⟩, ⟨_, rfl, branchIf_goes h ?_⟩, ⟨_, rfl, branchIf_goes h ?_⟩⟩,
    fun off => ⟨_, rfl, branchIf_goes h rfl⟩, ?_⟩
  · simp [x]
  · simp [x]
  · exact congrArg (x.pc + 1 + ·) ite_decide
  · exact congrArg (x.pc + 1 + ·) ite_decide
  · obtain ⟨-, -, -, -, -, hp, -, -, hr, hd, ht, hm, hg⟩ := instr_goes (k := fun s x => .ok s x) h rfl
    exact ⟨_, rfl, hp, hr, hd, ht, hm, hg⟩

/-- What CALL does with the instance number that it reads. -/
theorem call_reads {rs1 : BitVec 5} {imm : BitVec 16} (he : s.dataExc (s.ctxAt c) (((s.ctxAt c).r rs1).toNat + imm.toNat) 4 = none)
    {i : Nat} (hi : s.rdLe (s.dataAddr s.runBank (s.ctxAt c).cur (((s.ctxAt c).r rs1).toNat + imm.toNat)) 4 = i) :
    ∃ k, exec (.call c rs1 imm) s = .next (s.instr c k) ∧ k s (s.stepped c) =
      if !(decide (i < s.nInst s.runBank) && s.instCalled s.runBank i && s.owns s.runBank (s.ctxAt c).cur i) then .exc excINST_REF 0
      else if 16 ≤ (s.ctxAt c).calls.length then .exc excSTACK 0
      else if s.cad.hold.contains i || s.cad.poisoned.contains i then .ok s (s.stepped c)
      else .ok s { s.stepped c with
        calls := ⟨(s.ctxAt c).pc + 1, (s.ctxAt c).cur, (s.ctxAt c).loops⟩ :: (s.ctxAt c).calls, cur := i, loops := []
        pc := s.typeEntry s.runBank (s.instType s.runBank i) } := by
  refine ⟨_, rfl, ?_⟩
  change (match s.dataExc (s.ctxAt c) (((s.ctxAt c).r rs1).toNat + imm.toNat) 4 with | some e => _ | none => _) = _
  rw [he]
  subst hi
  rfl

/-- Settles O15: each instruction is a change of the context's flow (`instr_goes`), LIDX's apart, and of RET at depth 0, which frees it. -/
theorem loopsAndCalls : Obligations.LoopsAndCalls := by
  intro c s h x goes
  refine ⟨fun rs1 bound len hb hl hdepth hn => ?_, fun rd => ?_, ?_, fun f l hf => ?_, fun hf => ?_⟩
  · have hleg : ¬(decide (bound = 0) || decide (len = 0) || decide (4 ≤ (s.ctxAt c).loops.length)) = true := by
      rw [decide_eq_false hb, decide_eq_false hl]
      simpa [x] using hdepth
    have hzero : ((s.ctxAt c).r rs1).toNat = 0 ↔ x.r rs1 = 0 := ⟨fun e => BitVec.eq_of_toNat_eq e, fun e => congrArg BitVec.toNat e⟩
    refine ⟨fun h0 => ⟨_, rfl, instr_goes h ?_⟩, fun h0 => ⟨_, rfl, instr_goes h ?_⟩⟩
    · dsimp only
      rw [stepped_loops, if_neg hleg, stepped_r, if_neg (Nat.not_lt.mpr hn), if_pos (hzero.mpr h0)]
      rfl
    · dsimp only
      rw [stepped_loops, if_neg hleg, stepped_r, if_neg (Nat.not_lt.mpr hn), if_neg fun e => h0 (hzero.mp e)]
      rfl
  · obtain ⟨hc, ht, hm⟩ := instr_gives (k := fun s x => .ok s (x.setR rd (BitVec.ofNat 32 (match x.loops with | [] => 0 | f :: _ => f.idx)))) h rfl
    exact ⟨_, rfl, hc, hm, ht, instr_gives_pc h rfl⟩
  · intro rs1 imm o i he hlt hcalled howns hdepth
    obtain ⟨k, hrun, hk⟩ := call_reads (rs1 := rs1) (imm := imm) he rfl
    have href : ¬(!(decide (i < s.nInst s.runBank) && s.instCalled s.runBank i && s.owns s.runBank (s.ctxAt c).cur i)) = true := by
      rw [decide_eq_true hlt, hcalled, howns]
      decide
    rw [if_neg href, if_neg (Nat.not_le.mpr hdepth)] at hk
    refine ⟨fun hheld => ⟨_, hrun, instr_goes h ?_⟩, fun hhold hpois => ⟨_, hrun, instr_goes h ?_⟩⟩
    · rw [if_pos (by simpa using hheld)] at hk
      exact hk
    · rw [if_neg (by rw [hhold, hpois]; decide)] at hk
      exact hk
  · exact ⟨_, rfl, instr_goes h (by rw [stepped_calls, show (s.ctxAt c).calls = f :: l from hf])⟩
  · have hrun : exec (.ret c) s = .next ((s.setCtx c {}).dispatch) :=
      congrArg Host.Outcome.next (instr_done h (by rw [stepped_calls, show (s.ctxAt c).calls = [] from hf]))
    have hserve : s.Serves ((s.setCtx c {}).dispatch) := freeCtx_serves
    refine ⟨_, hrun, rfl, hserve.mem, hserve.regs, fun hsave => ?_⟩
    have hstand : (s.setCtx c {}).dispatch = s.setCtx c {} := if_pos hsave
    rw [hstand]
    exact ⟨by rw [ctxAt_setCtx_same], fun d hd => ctxAt_setCtx_ne _ _ hd⟩

/-! ## Requests and program events (R100 to R103) -/

/-- A completed instruction that posts a request. -/
theorem instr_posts (h : s.Executes c) {k : State → LaneCtx → IEnd} {p : PostKind} {y : LaneCtx}
    (hk : k s (s.stepped c) = .ok (s.post (s.stepped c) p) y) :
    ((s.instr c k).task (s.ctxAt c).task).posts = (s.task (s.ctxAt c).task).posts ++ [⟨(s.ctxAt c).inst, p⟩] ∧
      (∀ n, n ≠ (s.ctxAt c).task → (s.instr c k).task n = s.task n) ∧ (s.instr c k).mem = s.mem ∧ (s.instr c k).regs = s.regs := by
  rw [instr_ok h hk]
  unfold State.post
  refine ⟨?_, fun n hn => ?_, rfl, rfl⟩
  · simp
  · rw [task_setCtx]; exact task_setTask_ne _ _ hn

/-- Settles O16: each request is posted under the scheduled instance, and each answer is the task's of its cycle start. -/
theorem requestsArePosted : Obligations.RequestsArePosted := by
  intro c rd rs1 s h x tk v posts gives
  refine ⟨fun slot loop => ⟨⟨_, rfl, instr_posts h rfl⟩, ⟨_, rfl, instr_posts h rfl⟩, fun hm => ⟨_, rfl, instr_posts (y := (s.stepped c).setR rd 0) h ?_⟩, fun hm => ⟨_, rfl, ?_⟩,
    ⟨_, rfl, instr_gives h rfl⟩, ⟨_, rfl, instr_gives h rfl⟩⟩, ?_, fun imm => ⟨_, rfl, instr_posts h rfl⟩⟩
  · dsimp only
    rw [stepped_r, if_neg hm]
  · have hk : (fun (s : State) (x : LaneCtx) => IEnd.ok (if (x.r rs1).toNat % 4 = 3 then s.stick x flagREQ else
        s.post x (.lmode slot.toNat loop.toNat ((x.r rs1).toNat % 4))) (x.setR rd 0)) s (s.stepped c) =
        .ok (s.stick (s.stepped c) flagREQ) ((s.stepped c).setR rd 0) := by
      dsimp only
      rw [stepped_r, if_pos hm]
    rw [instr_ok h hk, task_setCtx]
    exact ⟨by simp [State.stick, flagREQ, x, tk], stick_flags s (s.stepped c) flagREQ⟩
  · intro tpl
    refine ⟨⟨_, rfl, instr_posts h rfl⟩, ⟨_, rfl, instr_gives h rfl⟩, ?_⟩
    intro res
    refine ⟨fun hlt => ⟨_, rfl, instr_gives h ?_⟩, fun hle => ?_⟩
    · dsimp only
      rw [stepped_r, stepped_task, if_neg (Nat.not_le.mpr hlt)]
    · obtain ⟨t, e, hrun, hex, hinst, hcode, hpc, -, -, -, -, -, hm, -⟩ := aborts_of (i := .slvrd c rd rs1 tpl) (code := excBOUNDS) (arg := 0) h rfl
        (if_pos hle) (by decide)
      exact ⟨t, e, hrun, hex, hinst, hcode, hpc, hm⟩

/-! ## The aborting exceptions (R104) -/

theorem slotRead_bounds {rd : BitVec 5} {slot : LaneCtx → Nat} {f : Word × Word → Word} {i : Instr} (h : s.Executes c)
    (hi : exec i s = .next (s.slotRead c rd slot f)) (hlt : s.nSlots s.runBank ≤ slot (s.stepped c)) : s.Aborts c i excBOUNDS 0 :=
  aborts_of h hi (if_pos hlt) (by decide)

theorem storeSlot_bounds {slot : Nat} {v : Word} {q : BitVec 3} (hq : q ≠ 7) (hlt : s.nSlots s.runBank ≤ slot) :
    s.storeSlot (s.stepped c) slot v q = .exc excBOUNDS 0 := by
  unfold State.storeSlot
  dsimp only
  rw [if_neg hq, if_pos hlt]

theorem storeSlot_writer {slot : Nat} {v : Word} {q : BitVec 3} (hq : q ≠ 7) (hlt : slot < s.nSlots s.runBank)
    (hw : (s.slotDir s.runBank slot ≠ 1 ∧ s.slotDir s.runBank slot ≠ 2) ∨ s.slotWriter s.runBank slot ≠ (s.ctxAt c).task.val) :
    s.storeSlot (s.stepped c) slot v q = .exc excWRITER 0 := by
  have hmay : (!((s.slotDir s.runBank slot == 1 || s.slotDir s.runBank slot == 2) &&
      s.slotWriter s.runBank slot == (s.stepped c).task.val)) = true := by
    obtain ⟨h1, h2⟩ | hw := hw
    · simp [h1, h2]
    · simp [hw]
  unfold State.storeSlot
  dsimp only
  rw [if_neg hq, if_neg (Nat.not_le.mpr hlt), if_pos hmay]

theorem dataExc_bounds {x : LaneCtx} {o w : Nat} (h : s.instDsize s.runBank x.cur ≤ o) : s.dataExc x o w = some excBOUNDS := if_pos h

theorem dataExc_align {x : LaneCtx} {o w : Nat} (h : o < s.instDsize s.runBank x.cur) (hw : o % w ≠ 0) : s.dataExc x o w = some excALIGN := by
  unfold State.dataExc
  dsimp only
  rw [if_neg (Nat.not_le.mpr h), if_pos hw]

theorem loadData_aborts (h : s.Executes c) {i : Instr} {rd rs1 : BitVec 5} {imm : BitVec 16} {w code : Nat} {f : Nat → Word}
    (hi : exec i s = .next (s.loadData c rd rs1 imm w f)) (he : s.dataExc (s.ctxAt c) (((s.ctxAt c).r rs1).toNat + imm.toNat) w = some code)
    (hcode : code ≠ excECC_CODE) : s.Aborts c i code 0 := by
  refine aborts_of h hi ?_ hcode
  change (match s.dataExc (s.ctxAt c) (((s.ctxAt c).r rs1).toNat + imm.toNat) w with | some e => _ | none => _) = _
  rw [he]

theorem storeData_aborts (h : s.Executes c) {i : Instr} {rd rs1 : BitVec 5} {imm : BitVec 16} {w code : Nat}
    (hi : exec i s = .next (s.storeData c rd rs1 imm w)) (he : s.dataExc (s.ctxAt c) (((s.ctxAt c).r rs1).toNat + imm.toNat) w = some code)
    (hcode : code ≠ excECC_CODE) : s.Aborts c i code 0 := by
  refine aborts_of h hi ?_ hcode
  change (match s.dataExc (s.ctxAt c) (((s.ctxAt c).r rs1).toNat + imm.toNat) w with | some e => _ | none => _) = _
  rw [he]

theorem call_data_aborts (h : s.Executes c) {rs1 : BitVec 5} {imm : BitVec 16} {code : Nat}
    (he : s.dataExc (s.ctxAt c) (((s.ctxAt c).r rs1).toNat + imm.toNat) 4 = some code) (hcode : code ≠ excECC_CODE) :
    s.Aborts c (.call c rs1 imm) code 0 := by
  refine aborts_of h rfl ?_ hcode
  change (match s.dataExc (s.ctxAt c) (((s.ctxAt c).r rs1).toNat + imm.toNat) 4 with | some e => _ | none => _) = _
  rw [he]

/-- CALL of an instance that is not CALLED or that the caller does not own. -/
theorem call_foreign_aborts (h : s.Executes c) {rs1 : BitVec 5} {imm : BitVec 16}
    (he : s.dataExc (s.ctxAt c) (((s.ctxAt c).r rs1).toNat + imm.toNat) 4 = none) {i : Nat}
    (hi : s.rdLe (s.dataAddr s.runBank (s.ctxAt c).cur (((s.ctxAt c).r rs1).toNat + imm.toNat)) 4 = i)
    (hno : s.nInst s.runBank ≤ i ∨ s.instCalled s.runBank i = false ∨ s.owns s.runBank (s.ctxAt c).cur i = false) :
    s.Aborts c (.call c rs1 imm) excINST_REF 0 := by
  obtain ⟨k, hrun, hk⟩ := call_reads he hi
  have href : (!(decide (i < s.nInst s.runBank) && s.instCalled s.runBank i && s.owns s.runBank (s.ctxAt c).cur i)) = true := by
    obtain hno | hno | hno := hno
    · rw [decide_eq_false (Nat.not_lt.mpr hno)]; rfl
    · rw [hno, Bool.and_false]; rfl
    · rw [hno, Bool.and_false]; rfl
  rw [if_pos href] at hk
  exact aborts_of h hrun hk (by decide)

theorem call_deep_aborts (h : s.Executes c) {rs1 : BitVec 5} {imm : BitVec 16}
    (he : s.dataExc (s.ctxAt c) (((s.ctxAt c).r rs1).toNat + imm.toNat) 4 = none) {i : Nat}
    (hi : s.rdLe (s.dataAddr s.runBank (s.ctxAt c).cur (((s.ctxAt c).r rs1).toNat + imm.toNat)) 4 = i) (hlt : i < s.nInst s.runBank)
    (hcalled : s.instCalled s.runBank i = true) (howns : s.owns s.runBank (s.ctxAt c).cur i = true) (hdeep : 16 ≤ (s.ctxAt c).calls.length) :
    s.Aborts c (.call c rs1 imm) excSTACK 0 := by
  obtain ⟨k, hrun, hk⟩ := call_reads he hi
  have href : ¬(!(decide (i < s.nInst s.runBank) && s.instCalled s.runBank i && s.owns s.runBank (s.ctxAt c).cur i)) = true := by
    rw [decide_eq_true hlt, hcalled, howns]
    decide
  rw [if_neg href, if_pos hdeep] at hk
  exact aborts_of h hrun hk (by decide)

theorem timer_bounds (h : s.Executes c) {i : Instr} {rd rs1 : BitVec 5} {off : BitVec 14} {f : Timer → Bool → Nat → Timer}
    (hi : exec i s = .next (s.timer c rd rs1 off f))
    (ho : 16384 < off.toNat + 12 ∨ s.instDsize s.runBank (s.ctxAt c).cur < off.toNat + 12) : s.Aborts c i excBOUNDS 0 := by
  refine aborts_of h hi (if_pos ?_) (by decide)
  rw [Bool.or_eq_true, decide_eq_true_eq, decide_eq_true_eq]
  exact ho

theorem edge_bounds (h : s.Executes c) {i : Instr} {rd rs1 : BitVec 5} {off : BitVec 15} {f : Bool → Bool → Bool}
    (hi : exec i s = .next (s.edge c rd rs1 off f)) (ho : s.instDsize s.runBank (s.ctxAt c).cur ≤ off.toNat) : s.Aborts c i excBOUNDS 0 := by
  refine aborts_of h hi ?_ (by decide)
  change (match s.dataExc (s.ctxAt c) off.toNat 1 with | some e => _ | none => _) = _
  rw [dataExc_bounds ho]

theorem loop_aborts (h : s.Executes c) {rs1 : BitVec 5} {bound : BitVec 11} {len : BitVec 10} :
    (bound ≠ 0 → len ≠ 0 → (s.ctxAt c).loops.length < 4 → bound.toNat < ((s.ctxAt c).r rs1).toNat →
      s.Aborts c (.loop c rs1 bound len) excLOOP_BOUND 0) ∧
    (bound = 0 ∨ len = 0 ∨ 4 ≤ (s.ctxAt c).loops.length → s.Aborts c (.loop c rs1 bound len) excILLEGAL 0) := by
  constructor
  · intro hb hl hdepth hn
    refine aborts_of h rfl ?_ (by decide)
    dsimp only
    rw [stepped_loops, decide_eq_false hb, decide_eq_false hl, decide_eq_false (Nat.not_le.mpr hdepth), if_neg (by decide), stepped_r, if_pos hn]
  · intro hill
    refine aborts_of h rfl (if_pos ?_) (by decide)
    rw [Bool.or_eq_true, Bool.or_eq_true, decide_eq_true_eq, decide_eq_true_eq, decide_eq_true_eq, or_assoc]
    exact hill

theorem assert_passes (h : s.Executes c) {rs1 : BitVec 5} {imm : BitVec 16} (hr : (s.ctxAt c).r rs1 ≠ 0) :
    s.Yields (.assert c rs1 imm) fun t => t.cad.tasks = s.cad.tasks ∧ t.mem = s.mem ∧ t.regs = s.regs ∧
      (t.ctxAt c).pc = (closeLoops ((s.ctxAt c).pc + 1) (s.ctxAt c).loops).1 ∧ (∀ r, (t.ctxAt c).r r = (s.ctxAt c).r r) ∧
      ∀ d, d ≠ c → t.ctxAt d = s.ctxAt d := by
  obtain ⟨-, -, -, -, -, hp, -, -, hregs, hd, ht, hm, hg⟩ :=
    instr_goes (k := fun s x => if x.r rs1 = 0 then .exc excASSERT imm.toNat else .ok s x) h (if_neg hr)
  exact ⟨_, rfl, ht, hm, hg, hp, hregs, hd⟩

/-- Settles O17: each exception is the end of its instruction's continuation (`aborts_of`), or is found before it (`aborts_of_budget`). -/
theorem exceptionsAbortTheInstance : Obligations.ExceptionsAbortTheInstance := by
  intro c s hl hb x pol aborts
  refine ⟨fun h => ⟨fun imm => aborts_of h rfl rfl (by decide), aborts_of h rfl rfl (by decide),
    fun rs1 imm hr => aborts_of h rfl (if_pos hr) (by decide), fun rs1 imm hr => assert_passes h hr, fun rd slot l hs => ?_, fun rd rs1 hs => ?_,
    fun slot hs hw => ?_, ?_, fun rd rs1 off ho => ⟨timer_bounds h rfl ho, timer_bounds h rfl ho, timer_bounds h rfl ho⟩,
    fun rd rs1 off ho => ⟨edge_bounds h rfl ho, edge_bounds h rfl ho⟩, fun rs1 bound len => loop_aborts h |>.1,
    fun rs1 bound len => loop_aborts h |>.2⟩, fun hn imm => ?_⟩
  · exact ⟨slotRead_bounds h rfl hs, slotRead_bounds h rfl hs, slotRead_bounds h rfl hs, slotRead_bounds h rfl hs,
      fun q hq => aborts_of h rfl (storeSlot_bounds hq hs) (by decide)⟩
  · exact ⟨slotRead_bounds h rfl hs, slotRead_bounds h rfl hs, fun q hq => aborts_of h rfl (storeSlot_bounds hq hs) (by decide)⟩
  · refine ⟨fun rd k q hk hq => ?_, fun rs1 rs2 q hk hq => ?_⟩
    · subst hk; exact aborts_of h rfl (storeSlot_writer hq hs hw) (by decide)
    · subst hk; exact aborts_of h rfl (storeSlot_writer hq hs hw) (by decide)
  · intro rd rs1 imm o
    refine ⟨fun ho => ?_, fun ho hal => ?_, fun ho hal => ?_, fun he => ?_⟩
    · have hexc (w : Nat) : s.dataExc (s.ctxAt c) (((s.ctxAt c).r rs1).toNat + imm.toNat) w = some excBOUNDS := dataExc_bounds ho
      exact ⟨loadData_aborts h rfl (hexc 4) (by decide), loadData_aborts h rfl (hexc 2) (by decide), loadData_aborts h rfl (hexc 1) (by decide),
        storeData_aborts h rfl (hexc 4) (by decide), storeData_aborts h rfl (hexc 2) (by decide), storeData_aborts h rfl (hexc 1) (by decide),
        call_data_aborts h (hexc 4) (by decide)⟩
    · have hexc : s.dataExc (s.ctxAt c) (((s.ctxAt c).r rs1).toNat + imm.toNat) 4 = some excALIGN := dataExc_align ho hal
      exact ⟨loadData_aborts h rfl hexc (by decide), storeData_aborts h rfl hexc (by decide), call_data_aborts h hexc (by decide)⟩
    · have hexc : s.dataExc (s.ctxAt c) (((s.ctxAt c).r rs1).toNat + imm.toNat) 2 = some excALIGN := dataExc_align ho hal
      exact ⟨loadData_aborts h rfl hexc (by decide), storeData_aborts h rfl hexc (by decide)⟩
    · exact ⟨fun hno => call_foreign_aborts h he rfl hno, fun hlt hcalled howns hdeep => call_deep_aborts h he rfl hlt hcalled howns hdeep⟩
  · exact ⟨aborts_of_budget hl hb hn rfl, aborts_of_budget hl hb hn rfl, aborts_of_budget hl hb hn rfl⟩

end Sys2Proof.Machine
end

/-! # What the shared operations leave, and the output guard (O29) -/

section
namespace Sys2Proof.Machine

variable {s t u : State} {A : Nat → Prop} {b : Blk}

/-- A fold of steps that each stand in a relation, one that composes, stands in it as a whole. -/
theorem foldl_relates {α : Type} {r : State → State → Prop} (hrefl : ∀ s, r s s) (htrans : ∀ {s t u : State}, r s t → r t u → r s u)
    {f : State → α → State} {l : List α} (hf : ∀ t : State, ∀ x ∈ l, r t (f t x)) : r s (l.foldl f s) := by
  induction l generalizing s with
  | nil => exact hrefl s
  | cons x l ih => exact htrans (hf s x List.mem_cons_self) (ih fun t y hy => hf t y (List.mem_cons_of_mem x hy))

/-! ## Registers that an operation leaves -/

/-- From `s` to `t`, memory, the Cadence engine, the waiting commands, the loop processor and the registers at `A` stay. -/
def State.Leaves (A : Nat → Prop) (s t : State) : Prop := s.Spares t ∧ t.lpe = s.lpe ∧ ∀ a, A a → t.regGet a = s.regGet a

theorem leaves_refl (s : State) : s.Leaves A s := ⟨⟨rfl, rfl, rfl⟩, rfl, fun _ _ => rfl⟩

theorem State.Spares.trans (h : s.Spares t) (h' : t.Spares u) : s.Spares u :=
  ⟨h'.1.trans h.1, h'.2.1.trans h.2.1, h'.2.2.trans h.2.2⟩

theorem State.Leaves.trans (h : s.Leaves A t) (h' : t.Leaves A u) : s.Leaves A u := by
  obtain ⟨hsp, hl, hr⟩ := h
  obtain ⟨hsp', hl', hr'⟩ := h'
  exact ⟨hsp.trans hsp', hl'.trans hl, fun a ha => (hr' a ha).trans (hr a ha)⟩

theorem State.Leaves.spares (h : s.Leaves A t) : s.Spares t := h.1
theorem State.Leaves.lpe (h : s.Leaves A t) : t.lpe = s.lpe := h.2.1
theorem State.Leaves.cad (h : s.Leaves A t) : t.cad = s.cad := h.1.2.1
theorem State.Leaves.mem (h : s.Leaves A t) : t.mem = s.mem := h.1.1
theorem State.Leaves.regGet (h : s.Leaves A t) {a : Nat} (ha : A a) : t.regGet a = s.regGet a := h.2.2 a ha
theorem State.Leaves.rd (h : s.Leaves A t) {f : Fld} (hf : A f.addr) : t.rd f = s.rd f := rd_of_regGet (h.regGet hf)
theorem State.Leaves.bit (h : s.Leaves A t) {f : Fld} (hf : A f.addr) : t.bit f = s.bit f := congrArg (· != 0) (h.rd hf)

theorem State.Leaves.mono {B : Nat → Prop} (h : s.Leaves A t) (hB : ∀ a, B a → A a) : s.Leaves B t :=
  ⟨h.spares, h.lpe, fun a ha => h.regGet (hB a ha)⟩

/-- A change of other parts of the state leaves all of this. -/
theorem State.Leaves.frame (h : s.Leaves A t) (hr : u.regs = t.regs) (hm : u.mem = t.mem) (hc : u.cad = t.cad) (hp : u.pending = t.pending)
    (hl : u.lpe = t.lpe) : s.Leaves A u := h.trans ⟨⟨hm, hc, hp⟩, hl, fun a _ => regGet_congr hr a⟩

theorem regPut_leaves {a : Nat} {v : Word} (ha : ¬A a) : s.Leaves A (s.regPut a v) :=
  ⟨⟨rfl, rfl, rfl⟩, rfl, fun _ hc => regGet_regPut_ne s v fun e => ha (e ▸ hc)⟩

theorem wr_leaves {f : Fld} {x : Nat} (hf : ¬A f.addr) : s.Leaves A (s.wr f x) := regPut_leaves hf

theorem ite_leaves {c : Prop} [Decidable c] (ht : s.Leaves A t) (hu : s.Leaves A u) : s.Leaves A (if c then t else u) := by
  split
  · exact ht
  · exact hu

theorem raise_leaves {n : Nat} (hr : ¬A (R.BLK_IRQ_RAW b)) : s.Leaves A (s.raise b n) := ite_leaves (leaves_refl s) (regPut_leaves hr)

theorem err_leaves {code woff : Nat} (hi : ¬A (R.BLK_ERRINFO b)) (hr : ¬A (R.BLK_IRQ_RAW b)) : s.Leaves A (s.err b code woff) :=
  (((wr_leaves (x := code) hi).trans (wr_leaves (f := F.BLK_ERRINFO_WOFF b) hi)).trans (wr_leaves (f := F.BLK_ERRINFO_COUNT b) hi)).trans
    (raise_leaves hr)

theorem event_leaves {n sev p0 p1 p2 p3 : Nat} (hA : ∀ a, A a → blkAt a ≠ some .evr) : s.Leaves A (s.event b n sev p0 p1 p2 p3) :=
  ⟨⟨event_mem .., event_cad .., event_pending ..⟩, event_lpe .., fun a ha => regGet_event (hA a ha)⟩

theorem emit_leaves {e : TdmEntry} : s.Leaves A (s.emit e) := ite_leaves ((leaves_refl s).frame rfl rfl rfl rfl rfl) (leaves_refl s)

theorem draw_leaves : s.Leaves A s.draw.2 := (leaves_refl s).frame rfl rfl rfl rfl rfl

theorem foldl_leaves {α : Type} {f : State → α → State} {l : List α} (hf : ∀ t : State, ∀ x ∈ l, t.Leaves A (f t x)) :
    s.Leaves A (l.foldl f s) :=
  foldl_relates leaves_refl State.Leaves.trans hf

/-- A commit writes the committed fields and the mark of its block's sum. -/
theorem commit_leaves {p : Fld → Bool} (hp : ∀ f, p f = true → ¬A f.addr) (hs : ¬A (R.BLK_STAT b)) : s.Leaves A (s.commit b p) := by
  have hfold : s.Leaves A ((s.shadows.filter fun (f, _) => p f).foldl (fun s (f, v) => if s.rd f = v then s else (s.wr f v).sumPend b) s) :=
    foldl_leaves fun t x hx => ite_leaves (leaves_refl t) ((wr_leaves (hp x.1 (by simpa using (List.mem_filter.mp hx).2))).trans (wr_leaves hs))
  exact hfold.frame rfl rfl rfl rfl rfl

/-! ## A burst read through a context (R445) -/

/-- Outside the pages that a read of memory may change: XLT's, MEM's, SLV's and EVR's. -/
def OffBurst (a : Nat) : Prop := blkAt a ≠ some .xlt ∧ blkAt a ≠ some .mem ∧ blkAt a ≠ some .slv ∧ blkAt a ≠ some .evr

/-- A register of a page of these four blocks may change. -/
theorem notOff {a : Nat} (h : blkAt a = some .xlt ∨ blkAt a = some .mem ∨ blkAt a = some .slv ∨ blkAt a = some .evr) : ¬OffBurst a := by
  rintro ⟨h1, h2, h3, h4⟩
  rcases h with h | h | h | h <;> contradiction

theorem offBurst_of {a : Nat} (h : blkAt a = some .cad ∨ blkAt a = some .lpe ∨ blkAt a = some .tdm) : OffBurst a := by
  rcases h with h | h | h <;> exact ⟨by simp [h], by simp [h], by simp [h], by simp [h]⟩

theorem dropModel_leaves : s.Leaves OffBurst s.dropModel := by
  have hslv : ∀ k ∈ upto 8, blkAt (R.SLV_MODEL_HASHk k) = some .slv := by decide
  have hfold (t : State) : t.Leaves OffBurst ((upto 8).foldl (fun s k => s.wr (F.SLV_MODEL_HASHk_HASH k) 0) t) :=
    foldl_leaves fun t k hk => wr_leaves (notOff (by simp [hslv k hk]))
  have hstat : ¬OffBurst R.SLV_MODEL_STAT := notOff (by decide)
  exact ((((wr_leaves hstat).trans (wr_leaves (f := F.SLV_MODEL_STAT_RES_KIB) hstat)).trans (wr_leaves (notOff (by decide)))).trans
    (hfold _)).frame rfl rfl rfl rfl rfl

theorem tileFault_leaves {tile slots : Nat} : s.Leaves OffBurst (s.tileFault tile slots) := by
  have hslv : ∀ k ∈ upto 4, blkAt (R.SLV_FACk_STAT k) = some .slv := by decide
  have hfold (t : State) : t.Leaves OffBurst
      ((upto 4).foldl (fun s k => if slots.testBit k then s.wr (F.SLV_FACk_STAT_VALID k) 0 else s) t) :=
    foldl_leaves fun t k hk => ite_leaves (wr_leaves (notOff (by simp [hslv k hk]))) (leaves_refl t)
  exact ((((wr_leaves (notOff (by decide))).trans (err_leaves (notOff (by decide)) (notOff (by decide)))).trans dropModel_leaves).trans
    (hfold _)).frame rfl rfl rfl rfl rfl

theorem ueSeen_leaves {w : Nat} : s.Leaves OffBurst (s.ueSeen w) := by
  unfold State.ueSeen
  split
  · exact draw_leaves.trans tileFault_leaves
  · extract_lets cnt s1 _ _ s2
    have hcnt : ¬OffBurst cnt.addr := by
      unfold cnt
      split <;> exact notOff (by decide)
    have hraw : ¬OffBurst (R.BLK_IRQ_RAW .mem) := notOff (by decide)
    have h1 : s.Leaves OffBurst s1 := ((wr_leaves hcnt).trans (regPut_leaves (notOff (by decide)))).trans (wr_leaves (notOff (by decide)))
    have hbgs (x : Bgs) (y : Tdm) : s.Leaves OffBurst { s1 with bgs := x, tdm := y } := h1.frame rfl rfl rfl rfl rfl
    have h2 : s.Leaves OffBurst s2 := ((hbgs _ _).trans (raise_leaves (n := 2) hraw)).trans (err_leaves (notOff (by decide)) hraw)
    exact h2.trans (event_leaves fun a ha => ha.2.2.2)

theorem xlate_leaves {ctx va : Nat} {wr : Bool} : s.Leaves OffBurst (s.xlate ctx wr va).1 := by
  fun_cases State.xlate s ctx wr va
  case case7 => exact ueSeen_leaves
  all_goals exact (leaves_refl s).frame rfl rfl rfl rfl rfl

theorem xlate_eq_leaves {ctx va : Nat} {wr : Bool} {x : Xlated} (h : s.xlate ctx wr va = (t, x)) : s.Leaves OffBurst t := by
  have hx : s.Leaves OffBurst (s.xlate ctx wr va).1 := xlate_leaves
  rwa [h] at hx

theorem xltFault_leaves {ctx cause va : Nat} {wr : Bool} : s.Leaves OffBurst (s.xltFault ctx cause wr va) := by
  have hraw : ¬OffBurst (R.BLK_IRQ_RAW .xlt) := notOff (by decide)
  have hcnt : ¬OffBurst R.XLT_FAULT_CNT := notOff (by decide)
  have h1 : s.Leaves OffBurst ((({ s with bgs := { s.bgs with faults := s.bgs.faults + 1 } } : State).incSat F.XLT_FAULT_CNT_TOTAL).raise .xlt 2) :=
    (((leaves_refl s).frame rfl rfl rfl rfl rfl).trans (wr_leaves hcnt)).trans (raise_leaves hraw)
  exact ite_leaves (h1.frame rfl rfl rfl rfl rfl) ((h1.trans (wr_leaves hcnt)).trans (raise_leaves hraw))

theorem memRead_leaves {a n : Nat} : s.Leaves OffBurst (s.memRead a n).2 := by
  unfold State.memRead
  split
  · exact draw_leaves
  · exact leaves_refl s

theorem readCuts_leaves {ctx : Nat} {l : List (Nat × Nat)} : s.Leaves OffBurst (s.readCuts ctx l).1 := by
  fun_induction State.readCuts s ctx l with
  | case1 => exact leaves_refl _
  | case2 s va k t s1 c hx => exact (xlate_eq_leaves hx).trans xltFault_leaves
  | case3 s va k t s1 pa hx => exact xlate_eq_leaves hx
  | case4 s va k t s1 pa hx => exact (xlate_eq_leaves hx).trans ueSeen_leaves
  | case5 s va k t s1 pa hx _ _ r ih => exact ((xlate_eq_leaves hx).trans memRead_leaves).trans ih

theorem dmaRead_leaves {ctx va n : Nat} : s.Leaves OffBurst (s.dmaRead ctx va n).1 := readCuts_leaves

theorem dmaRead_eq_leaves {ctx va n : Nat} {x : Option (List Byte)} (h : s.dmaRead ctx va n = (t, x)) : s.Leaves OffBurst t := by
  have hx : s.Leaves OffBurst (s.dmaRead ctx va n).1 := dmaRead_leaves
  rwa [h] at hx


/-! ## The output guard (O29) -/

/-- Rising signal IDs are in order pairwise. -/
theorem risingSigs_pairwise {l : List GuardEntry} (h : risingSigs l = true) : l.Pairwise fun a b => a.sig < b.sig := by
  rw [← List.isChain_iff_pairwise]
  fun_induction risingSigs l with
  | case1 a b t ih =>
    simp only [Bool.and_eq_true, decide_eq_true_eq] at h
    exact .cons_cons h.1 (ih h.2)
  | case2 l hl =>
    match l, hl with
    | [], _ => exact .nil
    | [a], _ => exact .singleton a
    | a :: b :: t, hl => exact absurd rfl (hl a b t)

/-- In a table of distinct signals, an entry is the one that its signal names. -/
theorem guardEntry_of_mem (h : risingSigs s.guardBank.entries = true) {e : GuardEntry} (he : e ∈ s.guardBank.entries) :
    s.guardEntry e.sig = some e := by
  have hp := risingSigs_pairwise h
  unfold State.guardEntry
  generalize s.guardBank.entries = l at hp he
  induction l with
  | nil => cases he
  | cons a t ih =>
    obtain ⟨ha, ht⟩ := List.pairwise_cons.mp hp
    rcases List.mem_cons.mp he with rfl | hmem
    · simp
    · have hne : a.sig ≠ e.sig := Nat.ne_of_lt (ha e hmem)
      simpa [hne] using ih ht hmem

/-- Outside the counters of a guard pass over its entries. -/
def OffCounts (a : Nat) : Prop := a ≠ R.LPE_GRD_CNT0 ∧ a ≠ R.LPE_GRD_CNT1

/-- From `s` to `t` a guard pass went over entries: of the loop processor the guarded image and the guard's state changed. -/
def State.Passes (s t : State) : Prop :=
  s.Spares t ∧ (∃ g st, t.lpe = { s.lpe with guarded := g, state := st }) ∧ ∀ a, OffCounts a → t.regGet a = s.regGet a

theorem passes_refl (s : State) : s.Passes s := ⟨⟨rfl, rfl, rfl⟩, ⟨_, _, rfl⟩, fun _ _ => rfl⟩

theorem State.Passes.trans (h : s.Passes t) (h' : t.Passes u) : s.Passes u := by
  obtain ⟨hsp, ⟨_, _, hl⟩, hr⟩ := h
  obtain ⟨hsp', ⟨g, st, hl'⟩, hr'⟩ := h'
  exact ⟨hsp.trans hsp', ⟨g, st, by rw [hl', hl]⟩, fun a ha => (hr' a ha).trans (hr a ha)⟩

theorem State.Passes.bank (h : s.Passes t) : t.guardBank = s.guardBank := by
  obtain ⟨-, ⟨_, _, hl⟩, hr⟩ := h
  unfold State.guardBank
  rw [rd_of_regGet (hr _ ⟨by decide, by decide⟩), hl]

/-- Slots, their states, the output image and the held signals stay, and so does what the guard takes for a signal. -/
theorem State.Passes.input (h : s.Passes t) (sig : Nat) : t.guardInput sig = s.guardInput sig := by
  obtain ⟨-, ⟨_, _, hl⟩, hr⟩ := h
  have hstat (n : Fin 64) : t.lslotState n = s.lslotState n := by
    have hoff : ∀ n : Fin 64, R.LPE_SLOTn_STAT n ≠ R.LPE_GRD_CNT0 ∧ R.LPE_SLOTn_STAT n ≠ R.LPE_GRD_CNT1 := by decide
    exact rd_of_regGet (hr _ (hoff n))
  unfold State.guardInput State.lslot State.outVal
  simp only [hstat, hl]

/-- The outcome of a pass for an entry: its guarded value and its new state. -/
def State.guardOut (s : State) (safeAll : Bool) (dt : Nat) (e : GuardEntry) : Guarded × GuardState × GuardAct :=
  guardOne e safeAll (s.guardInput e.sig) (s.guardState e) dt

/-- The guarded value and the state of a signal after a pass. -/
def State.putGuarded (s : State) (sig : Nat) (g : Guarded) (st : GuardState) : State :=
  { s with lpe := { s.lpe with guarded := Sparse.put s.lpe.guarded none sig (some g), state := Sparse.put s.lpe.state none sig (some st) } }

/-- One entry: its guarded value and state are put under its signal, and nothing but counters changes beside. -/
theorem guardEntryPass_passes (s : State) (safeAll : Bool) (dt : Nat) (e : GuardEntry) :
    s.Passes (s.guardEntryPass safeAll dt e).1 ∧
      (s.guardEntryPass safeAll dt e).1.lpe.guarded = Sparse.put s.lpe.guarded none e.sig (some (s.guardOut safeAll dt e).1) ∧
      (s.guardEntryPass safeAll dt e).1.lpe.state = Sparse.put s.lpe.state none e.sig (some (s.guardOut safeAll dt e).2.1) := by
  have h0 : ¬OffCounts R.LPE_GRD_CNT0 := fun h => h.1 rfl
  have h1 : ¬OffCounts R.LPE_GRD_CNT1 := fun h => h.2 rfl
  have hinc {c : Prop} [Decidable c] {t u : State} {f : Fld} (hf : ¬OffCounts f.addr) (h : t.Leaves OffCounts u) :
      t.Leaves OffCounts (if c then u.incSat f else u) := ite_leaves (h.trans (wr_leaves hf)) h
  have hout : (s.putGuarded e.sig (s.guardOut safeAll dt e).1 (s.guardOut safeAll dt e).2.1).Leaves OffCounts
      (s.guardEntryPass safeAll dt e).1 := hinc h1 (hinc h1 (hinc h0 (hinc h0 (leaves_refl _))))
  exact ⟨⟨hout.spares, ⟨_, _, hout.lpe⟩, hout.2.2⟩, congrArg Lpe.guarded hout.lpe, congrArg Lpe.state hout.lpe⟩

/-- An entry's outcome depends on the guard's state of its own signal only. -/
theorem State.Passes.out (h : s.Passes t) {e : GuardEntry} (hst : Sparse.get t.lpe.state none e.sig = Sparse.get s.lpe.state none e.sig)
    (safeAll : Bool) (dt : Nat) : t.guardOut safeAll dt e = s.guardOut safeAll dt e := by
  unfold State.guardOut State.guardState
  rw [h.input, hst]

/-- A pass over entries of distinct signals gives each of them its outcome, and leaves every other signal. -/
theorem guardEntries_passes {l : List GuardEntry} (hl : l.Pairwise fun a b => a.sig < b.sig) (s : State) (safeAll : Bool) (dt : Nat) (acted : Bool) :
    s.Passes (s.guardEntries safeAll dt l acted).1 ∧
      (∀ e ∈ l, Sparse.get (s.guardEntries safeAll dt l acted).1.lpe.guarded none e.sig = some (s.guardOut safeAll dt e).1) ∧
      ∀ k, (∀ e ∈ l, e.sig ≠ k) →
        Sparse.get (s.guardEntries safeAll dt l acted).1.lpe.guarded none k = Sparse.get s.lpe.guarded none k := by
  induction l generalizing s acted with
  | nil => exact ⟨passes_refl s, by simp, fun _ _ => rfl⟩
  | cons e l ih =>
    obtain ⟨hlt, hl⟩ := List.pairwise_cons.mp hl
    obtain ⟨hpass, hg, hst⟩ := guardEntryPass_passes s safeAll dt e
    unfold State.guardEntries
    generalize s.guardEntryPass safeAll dt e = r at hpass hg hst
    obtain ⟨t, act⟩ := r
    obtain ⟨hrest, hin, hother⟩ := ih hl t (acted || act.clipped || act.slewed || act.held)
    refine ⟨hpass.trans hrest, fun d hd => ?_, fun k hk => ?_⟩
    · rcases List.mem_cons.mp hd with rfl | hd
      · exact (hother _ fun x hx => (Nat.ne_of_lt (hlt x hx)).symm).trans (by rw [hg, sparse_get_put_same])
      · have hne : d.sig ≠ e.sig := (Nat.ne_of_lt (hlt d hd)).symm
        exact (hin d hd).trans (congrArg (fun r => some r.1) (hpass.out (by rw [hst, sparse_get_put_ne _ _ _ _ hne]) safeAll dt))
    · exact (hother k fun x hx => hk x (List.mem_cons_of_mem e hx)).trans
        (by rw [hg, sparse_get_put_ne _ _ _ _ (hk e List.mem_cons_self).symm])

/-- SAFE is sent for a signal without a writer and under SAFE_ALL. -/
theorem guardOne_safe {e : GuardEntry} {safeAll : Bool} {v : Option OutVal} {st : GuardState} {dt : Nat} (h : safeAll = true ∨ v = none) :
    (guardOne e safeAll v st dt).1 = ⟨e.safe, 2⟩ := by
  unfold guardOne
  cases v with
  | none => rfl
  | some o =>
    have hall : safeAll = true := by simpa using h
    subst hall
    rfl

/-- A value of INT32, UINT32 or Q without a slew limit is clamped and keeps its quality. -/
theorem guardOne_clamps {e : GuardEntry} {o : OutVal} {st : GuardState} {dt : Nat} (htyp : e.typ = 1 ∨ e.typ = 2 ∨ e.typ = 3)
    (hslew : e.slewEn = false) (hbad : e.safeOnBad = false ∨ o.qual < 5) :
    (guardOne e false (some o) st dt).1 = ⟨guardClamp e o.value, o.qual⟩ := by
  have h0 : e.typ ≠ 0 := by omega
  have h4 : (e.typ == 4) = false := by rw [beq_eq_false_iff_ne]; omega
  have hb : (e.safeOnBad && decide (5 ≤ o.qual)) = false := by
    rcases hbad with h | h
    · simp [h]
    · simp [Nat.not_le.mpr h]
  simp [guardOne, h0, h4, hb, hslew]


theorem commit_nothing {b : Blk} {p : Fld → Bool} (h : s.shadows = []) : s.commit b p = s := by
  obtain ⟨⟩ := s
  simp only at h
  subst h
  rfl

/-- Outside the registers that a whole guard pass writes. -/
def OffPass (a : Nat) : Prop := OffCounts a ∧ a ≠ R.LPE_GRD_PASS ∧ a ≠ R.LPE_GRD_UNG ∧ a ≠ R.BLK_IRQ_RAW .lpe

/-- Outside the registers that counting unguarded signals writes. -/
def OffUnguarded (a : Nat) : Prop := a ≠ R.LPE_GRD_UNG ∧ a ≠ R.BLK_IRQ_RAW .lpe

/-- Counting unguarded signals keeps their list and touches UNG and a cause. -/
theorem countUnguarded_leaves (s : State) :
    ∃ l, ({ s with lpe := { s.lpe with ungRaised := l } } : State).Leaves OffUnguarded s.countUnguarded := by
  have hung {t : State} {x : Nat} : t.Leaves OffUnguarded (t.wr F.LPE_GRD_UNG_COUNT x) := wr_leaves fun h => h.1 rfl
  exact ⟨_, ite_leaves hung (State.Leaves.trans hung (raise_leaves fun h => h.2 rfl))⟩

/-- The entries of the pass that starts at `now`. -/
def State.passedAt (s : State) (now : Nat) : State :=
  (s.guardEntries (s.bit F.LPE_GRD_CFG_SAFE_ALL) ((now - s.lpe.lastPass) / 1000) s.guardBank.entries false).1

/-- A pass's entries counted: ACTED with its cause, and the pass counters. -/
def State.passCounted (s : State) (acted : Bool) (n : Nat) : State :=
  ((if acted then s.raise .lpe 7 else s).incWrap F.LPE_GRD_PASS_COUNT).wr F.LPE_GRD_PASS_DUR (min 0xFFFF (n * 5 / 10))

/-- The marks of a pass that started at `now`. -/
def State.passMarked (s : State) (now : Nat) (early : Bool) : State :=
  { s with lpe := { s.lpe with
    lastPass := now, t0Pending := early, fresh := s.lpe.fresh || (s.lpe.pubNew && !early), pubNew := s.lpe.pubNew && early } }

/-- A pass with no table to take and no shadow to commit. -/
theorem guardPassAt_eq (hs : s.shadows = []) (now : Nat) : ∃ acted, s.guardPassAt now false =
    (((s.passedAt now).passCounted acted s.guardBank.entries.length).passMarked now s.passEarly).countUnguarded := by
  unfold State.guardPassAt
  rw [commit_nothing hs]
  exact ⟨_, rfl⟩

theorem passCounted_leaves (s : State) (acted : Bool) (n : Nat) :
    s.Leaves (fun a => a ≠ R.LPE_GRD_PASS ∧ a ≠ R.BLK_IRQ_RAW .lpe) (s.passCounted acted n) :=
  ((ite_leaves (raise_leaves fun h => h.2 rfl) (leaves_refl _)).trans (wr_leaves fun h => h.1 rfl)).trans (wr_leaves fun h => h.1 rfl)

theorem passCounted_count (s : State) (acted : Bool) (n : Nat) :
    (s.passCounted acted n).rd F.LPE_GRD_PASS_COUNT = (s.rd F.LPE_GRD_PASS_COUNT + 1) % 2 ^ F.LPE_GRD_PASS_COUNT.w := by
  have hraise : (if acted then s.raise .lpe 7 else s).rd F.LPE_GRD_PASS_COUNT = s.rd F.LPE_GRD_PASS_COUNT :=
    (ite_leaves (raise_leaves fun h => h rfl) (leaves_refl s) : s.Leaves (· ≠ R.BLK_IRQ_RAW .lpe) _).rd (by decide)
  unfold State.passCounted State.incWrap
  rw [rd_wr_disjoint _ _ (by decide) (by decide) (.inr (by decide)), rd_wr_same _ _ _ (by decide), Nat.mod_mod, hraise]

/-- What a pass leaves of the state, its count, and its marks. -/
theorem guardPassAt_plain (hs : s.shadows = []) (hr : risingSigs s.guardBank.entries = true) (now : Nat) :
    s.Spares (s.guardPassAt now false) ∧ (∀ a, OffPass a → (s.guardPassAt now false).regGet a = s.regGet a) ∧
      (s.guardPassAt now false).rd F.LPE_GRD_PASS_COUNT = (s.rd F.LPE_GRD_PASS_COUNT + 1) % 2 ^ F.LPE_GRD_PASS_COUNT.w ∧
      ∃ fresh pubNew ung, (s.guardPassAt now false).lpe = { (s.passedAt now).lpe with
        lastPass := now, t0Pending := s.passEarly, fresh := fresh, pubNew := pubNew, ungRaised := ung } := by
  obtain ⟨hspares, -, hregs⟩ : s.Passes (s.passedAt now) := (guardEntries_passes (risingSigs_pairwise hr) s _ _ false).1
  obtain ⟨acted, heq⟩ := guardPassAt_eq hs now
  have hcount := passCounted_leaves (s.passedAt now) acted s.guardBank.entries.length
  have hcnt := passCounted_count (s.passedAt now) acted s.guardBank.entries.length
  obtain ⟨ung, hung⟩ := countUnguarded_leaves (((s.passedAt now).passCounted acted s.guardBank.entries.length).passMarked now s.passEarly)
  rw [← heq] at hung
  refine ⟨hspares.trans (hcount.spares.trans hung.spares), fun a ha => ?_, ?_,
    (s.passedAt now).lpe.fresh || ((s.passedAt now).lpe.pubNew && !s.passEarly), (s.passedAt now).lpe.pubNew && s.passEarly, ung, ?_⟩
  · obtain ⟨hoff, hp, hu, hraw⟩ := ha
    exact (hung.regGet ⟨hu, hraw⟩).trans ((hcount.regGet ⟨hp, hraw⟩).trans (hregs a hoff))
  · refine (hung.rd (f := F.LPE_GRD_PASS_COUNT) ⟨by decide, by decide⟩).trans (hcnt.trans ?_)
    rw [rd_of_regGet (hregs F.LPE_GRD_PASS_COUNT.addr ⟨by decide, by decide⟩)]
  · rw [hung.lpe]
    simp only [State.passMarked, hcount.lpe]

/-- What the pass sends for an entry of the active table. -/
theorem guardPassAt_sends (hs : s.shadows = []) (hr : risingSigs s.guardBank.entries = true) (hen : s.en .lpe = true) (now : Nat) :
    (s.guardPassAt now false).guardBank = s.guardBank ∧ (s.guardPassAt now false).lpe.out = s.lpe.out ∧
      ∀ e ∈ s.guardBank.entries, (s.guardPassAt now false).guardedVal e.sig =
        some (s.guardOut (s.bit F.LPE_GRD_CFG_SAFE_ALL) ((now - s.lpe.lastPass) / 1000) e).1 := by
  obtain ⟨-, hregs, -, fresh, pubNew, ung, hlpe⟩ := guardPassAt_plain hs hr now
  obtain ⟨⟨-, ⟨g, st, hpass⟩, -⟩, hsent, -⟩ := guardEntries_passes (risingSigs_pairwise hr) s (s.bit F.LPE_GRD_CFG_SAFE_ALL)
    ((now - s.lpe.lastPass) / 1000) false
  have hbank : (s.guardPassAt now false).guardBank = s.guardBank := by
    unfold State.guardBank
    rw [rd_of_regGet (hregs F.LPE_GRD_STAT_BANK.addr ⟨⟨by decide, by decide⟩, by decide, by decide, by decide⟩), hlpe]
    unfold State.passedAt
    rw [hpass]
  have hon : (s.guardPassAt now false).en .lpe = true := by
    rw [← hen]
    exact congrArg (· != 0) (rd_of_regGet (hregs (R.BLK_CTRL .lpe) ⟨⟨by decide, by decide⟩, by decide, by decide, by decide⟩))
  refine ⟨hbank, ?_, fun e he => ?_⟩
  · rw [hlpe]
    unfold State.passedAt
    rw [hpass]
  · have hentry : (s.guardPassAt now false).guardEntry e.sig = some e := guardEntry_of_mem (hbank ▸ hr) (hbank ▸ he)
    have hkept : (s.guardPassAt now false).lpe.guarded = (s.passedAt now).lpe.guarded := by rw [hlpe]
    have hval := (congrArg (Sparse.get · none e.sig) hkept).trans (hsent e he)
    unfold State.guardedVal
    rw [hentry, hon, hval]
    rfl

theorem mem_allSlots (n : Fin 64) : n ∈ allSlots :=
  List.mem_map.mpr ⟨n, List.mem_range.mpr n.isLt, Fin.ofNat_val_eq_self n⟩

/-- A signal held by a task fault or by a slot in ERROR, or without a writer, gives the guard no value. -/
theorem guardInput_none {sig : Nat} (h : s.outVal sig = none ∨ sig ∈ s.lpe.sof ∨ ∃ n, s.lslotState n = 2 ∧ (s.lslot n).entry.outSig = sig) :
    s.guardInput sig = none := by
  unfold State.guardInput
  rcases h with h | h | ⟨n, hn, hsig⟩
  · rw [h]
    split <;> rfl
  · simp [h]
  · rw [if_pos]
    simp only [Bool.or_eq_true, List.any_eq_true, Bool.and_eq_true, beq_iff_eq]
    exact .inr ⟨n, mem_allSlots n, hn, hsig⟩

theorem guardInput_some {sig : Nat} {o : OutVal} (h : s.outVal sig = some o) (hsof : sig ∉ s.lpe.sof)
    (herr : ∀ n, s.lslotState n = 2 → (s.lslot n).entry.outSig ≠ sig) : s.guardInput sig = some o := by
  unfold State.guardInput
  rw [if_neg, h]
  simp only [Bool.or_eq_true, List.any_eq_true, Bool.and_eq_true, beq_iff_eq, List.contains_iff_mem]
  rintro (h | ⟨n, -, hn, hsig⟩)
  · exact hsof h
  · exact herr n hn hsig

/-- The state in which a guard load's result is known: RESULT, and the error of a refused table. -/
def State.grdShown (s : State) (r : Nat) : State :=
  (if r = 0 then s.wr F.LPE_GRD_STAT_RESULT r else (s.wr F.LPE_GRD_STAT_RESULT r).err .lpe 0x82 r).raise .lpe 6

theorem grdEnd_eq (s : State) (r : Nat) : s.grdEnd r = { s.grdShown r with lpe := { (s.grdShown r).lpe with loading := false } } := rfl

theorem grdShown_leaves (s : State) (r : Nat) :
    (s.wr F.LPE_GRD_STAT_RESULT r).Leaves (fun a => a ≠ R.BLK_ERRINFO .lpe ∧ a ≠ R.BLK_IRQ_RAW .lpe) (s.grdShown r) :=
  (ite_leaves (leaves_refl _) (err_leaves (fun h => h.1 rfl) fun h => h.2 rfl)).trans (raise_leaves fun h => h.2 rfl)

/-- A guard load ended: its result, the error of a refused one, and GRD_DONE. -/
theorem grdEnd_shows (s : State) {r : Nat} (hr : r < 16) :
    (s.grdEnd r).rd F.LPE_GRD_STAT_RESULT = r ∧ (s.grdEnd r).rd F.LPE_GRD_STAT_BANK = s.rd F.LPE_GRD_STAT_BANK ∧
      (s.grdEnd r).bit F.LPE_GRD_STAT_PEND = s.bit F.LPE_GRD_STAT_PEND ∧ (s.grdEnd r).Caused .lpe 6 ∧
      (r ≠ 0 → (s.grdEnd r).Erred .lpe 0x82 r) := by
  have hshown := grdShown_leaves s r
  have hstat {f : Fld} (hf : f.addr = R.LPE_GRD_STAT) : (s.grdEnd r).rd f = (s.wr F.LPE_GRD_STAT_RESULT r).rd f :=
    hshown.rd (hf ▸ ⟨by decide, by decide⟩)
  refine ⟨?_, ?_, congrArg (· != 0) ?_, ?_, fun h0 => ?_⟩
  · exact (hstat rfl).trans ((rd_wr_same _ _ _ (by decide)).trans (Nat.mod_eq_of_lt hr))
  · exact (hstat rfl).trans (rd_wr_disjoint _ _ (by decide) (by decide) (.inl (by decide)))
  · exact (hstat rfl).trans (rd_wr_disjoint _ _ (by decide) (by decide) (.inl (by decide)))
  · exact raise_caused (by decide)
  · have herr : ((s.wr F.LPE_GRD_STAT_RESULT r).err .lpe 0x82 r).Erred .lpe 0x82 r := err_erred (by decide) (by omega)
    have hraise {f : Fld} (hf : f.addr = R.BLK_ERRINFO .lpe) :
        (s.grdEnd r).rd f = ((s.wr F.LPE_GRD_STAT_RESULT r).err .lpe 0x82 r).rd f := by
      rw [grdEnd_eq, State.grdShown, if_neg h0]
      exact rd_of_regGet (regGet_raise_ne (hf ▸ by decide))
    exact ⟨(hraise rfl).trans herr.1, (hraise rfl).trans herr.2⟩

theorem grdEnd_spares (s : State) (r : Nat) : s.Spares (s.grdEnd r) ∧ (s.grdEnd r).lpe = { s.lpe with loading := false } := by
  have hshown := grdShown_leaves s r
  exact ⟨hshown.spares, congrArg (fun l : Lpe => { l with loading := false }) hshown.lpe⟩

/-- RESULT of a guard table check is below 6. -/
theorem guardResult_lt (bs : List Byte) (n v : Nat) : guardResult bs n v < 16 := by
  unfold guardResult
  split_ifs <;> decide

/-- The guard table of an image whose header and entries are `bs`, with `n` entries (R214). -/
def guardTable (bs : List Byte) (n : Nat) : GuardBank := ⟨(upto n).map (parseGuard bs), leAt bs 0xC 4, (sha3 bs).toNat⟩

/-- The table that a load puts into the inactive bank waits for the next pass. -/
def State.putGuardBank (s : State) (bank : GuardBank) : State :=
  (if s.rd F.LPE_GRD_STAT_BANK = 0 then { s with lpe := { s.lpe with bank1 := bank } }
    else { s with lpe := { s.lpe with bank0 := bank } }).wr F.LPE_GRD_STAT_PEND 1

theorem putGuardBank_effect (s : State) (bank : GuardBank) :
    s.Spares (s.putGuardBank bank) ∧ (s.putGuardBank bank).rd F.LPE_GRD_STAT_BANK = s.rd F.LPE_GRD_STAT_BANK ∧
      (s.putGuardBank bank).bit F.LPE_GRD_STAT_PEND = true ∧ (s.putGuardBank bank).guardBank = s.guardBank ∧
      (if s.rd F.LPE_GRD_STAT_BANK = 0 then (s.putGuardBank bank).lpe.bank1 else (s.putGuardBank bank).lpe.bank0) = bank := by
  have hbank (t : State) : (t.wr F.LPE_GRD_STAT_PEND 1).rd F.LPE_GRD_STAT_BANK = t.rd F.LPE_GRD_STAT_BANK :=
    rd_wr_disjoint _ _ (by decide) (by decide) (.inl (by decide))
  have hpend (t : State) : (t.wr F.LPE_GRD_STAT_PEND 1).bit F.LPE_GRD_STAT_PEND = true :=
    congrArg (· != 0) (rd_wr_same _ _ _ (by decide))
  unfold State.putGuardBank State.guardBank
  rw [hbank, hpend]
  by_cases h : s.rd F.LPE_GRD_STAT_BANK = 0
  · simp only [if_pos h]
    exact ⟨⟨rfl, rfl, rfl⟩, rfl, trivial, if_pos h, rfl⟩
  · simp only [if_neg h]
    exact ⟨⟨rfl, rfl, rfl⟩, rfl, trivial, if_neg h, rfl⟩

/-! ## The guard's commands -/

theorem guardPass_exec (hlive : s.Live .lpe) (hen : s.en .lpe = true) (hf : s.following = false) (hdue : s.passDue = true)
    (hfrz : s.bit (F.BLK_CTRL_FREEZE .lpe) = false) (hpend : s.bit F.LPE_GRD_STAT_PEND = false) :
    exec .guardPass s = .next ((s.emit (.gpass s.nowNs false)).guardPassAt s.nowNs false) := by
  change execGuardPass s = _
  have hpoint : s.freezePoint .lpe = s := if_neg (by rw [hfrz]; exact Bool.false_ne_true)
  rw [execGuardPass, whileLive_live hlive]
  simp only [hpoint, hlive.1, hen, hf, hdue, Bool.not_true, Bool.or_false, Bool.false_eq_true, if_false, State.guardPass, hpend]

/-- The image of the table that a load copies. -/
def State.guardBase (s : State) : Nat := s.rd F.LPE_GRD_BASE_LO_BASE_LO * 64 + s.rd F.LPE_GRD_BASE_HI_BASE_HI * 2 ^ 32

theorem grdCheckEnd_unread (hlive : s.Live .lpe) (hload : s.lpe.loading = true) (h : s.dmaRead 1 s.guardBase 64 = (t, none)) :
    exec .grdCheckEnd s = .next (t.grdEnd 6) := by
  change execGrdCheckEnd s = _
  unfold State.guardBase at h
  rw [execGrdCheckEnd, whileLive_live hlive]
  simp only [hload, h, Bool.not_true, Bool.false_eq_true, if_false]

/-- A table that was read is checked, and a good one put into the inactive bank. -/
theorem grdCheckEnd_read (hlive : s.Live .lpe) (hload : s.lpe.loading = true) {hd bs : List Byte} (hx : s.dmaRead 1 s.guardBase 64 = (t, some hd))
    (hy : t.dmaRead 1 s.guardBase (64 + 32 * min (leAt hd 8 4) 8192) = (u, some bs)) :
    exec .grdCheckEnd s = .next (if guardResult bs (leAt hd 8 4) (u.regGet R.LPE_GRD_VER).toNat ≠ 0
      then u.grdEnd (guardResult bs (leAt hd 8 4) (u.regGet R.LPE_GRD_VER).toNat)
      else (u.putGuardBank (guardTable bs (leAt hd 8 4))).grdEnd 0) := by
  change execGrdCheckEnd s = _
  unfold State.guardBase at hx hy
  rw [execGrdCheckEnd, whileLive_live hlive]
  simp only [hload, hx, hy, Bool.not_true, Bool.false_eq_true, if_false]
  rfl

/-- A refused table leaves both banks, and shows and records why. -/
theorem grdEnd_refuses (h : s.Leaves OffBurst u) {r : Nat} (hr : r < 16) (h0 : r ≠ 0) :
    (u.grdEnd r).guardBank = s.guardBank ∧ (u.grdEnd r).lpe = { s.lpe with loading := false } ∧ (u.grdEnd r).rd F.LPE_GRD_STAT_RESULT = r ∧
      (u.grdEnd r).Caused .lpe 6 ∧ s.Spares (u.grdEnd r) ∧ (u.grdEnd r).Erred .lpe 0x82 r := by
  obtain ⟨hres, hsel, -, hdone, herr⟩ := grdEnd_shows u hr
  obtain ⟨hsp, hlpe⟩ := grdEnd_spares u r
  rw [h.lpe] at hlpe
  refine ⟨?_, hlpe, hres, hdone, h.spares.trans hsp, herr h0⟩
  unfold State.guardBank
  rw [hsel, h.rd (offBurst_of (.inr (.inl (by decide)))), hlpe]

/-- A good table waits in the inactive bank. -/
theorem grdEnd_accepts (h : s.Leaves OffBurst u) (bank : GuardBank) :
    ((u.putGuardBank bank).grdEnd 0).guardBank = s.guardBank ∧ ((u.putGuardBank bank).grdEnd 0).lpe.loading = false ∧
      ((u.putGuardBank bank).grdEnd 0).rd F.LPE_GRD_STAT_RESULT = 0 ∧ ((u.putGuardBank bank).grdEnd 0).Caused .lpe 6 ∧
      s.Spares ((u.putGuardBank bank).grdEnd 0) ∧ ((u.putGuardBank bank).grdEnd 0).bit F.LPE_GRD_STAT_PEND = true ∧
      (if s.rd F.LPE_GRD_STAT_BANK = 0 then ((u.putGuardBank bank).grdEnd 0).lpe.bank1 else ((u.putGuardBank bank).grdEnd 0).lpe.bank0) = bank := by
  have hsel : u.rd F.LPE_GRD_STAT_BANK = s.rd F.LPE_GRD_STAT_BANK := h.rd (offBurst_of (.inr (.inl (by decide))))
  have hbank : u.guardBank = s.guardBank := by
    unfold State.guardBank
    rw [hsel, h.lpe]
  obtain ⟨hput, -, hpend, hactive, hin⟩ := putGuardBank_effect u bank
  obtain ⟨hres, hsel', hpend', hdone, -⟩ := grdEnd_shows (u.putGuardBank bank) (r := 0) (by decide)
  obtain ⟨hsp, hlpe⟩ := grdEnd_spares (u.putGuardBank bank) 0
  rw [hsel] at hin
  refine ⟨?_, by rw [hlpe], hres, hdone, h.spares.trans (hput.trans hsp), hpend'.trans hpend, by rw [hlpe]; exact hin⟩
  rw [← hbank, ← hactive]
  unfold State.guardBank
  rw [hsel', hlpe]

/-- Emitting an entry of the Tandem stream changes TDM's state alone. -/
theorem emit_eq (s : State) (e : TdmEntry) : ∃ x, s.emit e = { s with tdm := x } := by
  unfold State.emit
  split
  · exact ⟨_, rfl⟩
  · exact ⟨_, rfl⟩

/-- A paired register's write reaches its fields on a module that does not follow (R373). -/
theorem gatePair_open {m : Master} {b : Blk} {a : Nat} (h : s.MayWrite m b a) (hf : s.following = false) (k : State → State) :
    s.gatePair m b a k = k (s.reply 0) := by
  obtain ⟨hans, hmon⟩ := h
  unfold State.gatePair
  rw [gate_open hans _ hmon, if_neg (by rw [show (s.reply 0).following = false from hf]; exact Bool.false_ne_true)]

/-- Settles O29: by what a pass sends for each entry, and what each guard command does. -/
theorem outputGuard : Obligations.OutputGuard := by
  intro m s
  refine ⟨fun hlive hen hf hdue hfrz hsh hpend hrise => ?_, fun hmay => ?_, fun hlive hload => ⟨fun hnone => ?_, fun hd bs hhd hbs => ?_⟩,
    fun on hmay hf => ?_⟩
  · obtain ⟨x, hemit⟩ := emit_eq s (.gpass s.nowNs false)
    have hexec := guardPass_exec hlive hen hf hdue hfrz hpend
    rw [hemit] at hexec
    obtain ⟨hspares, -, hcount, fresh, pubNew, ung, hlpe⟩ := guardPassAt_plain (s := { s with tdm := x }) hsh hrise s.nowNs
    obtain ⟨hbank, hout, hsent⟩ := guardPassAt_sends (s := { s with tdm := x }) hsh hrise hen s.nowNs
    refine ⟨_, hexec, by rw [hlpe], by rw [hlpe]; rfl, hspares, hbank, hout, hcount,
      fun e he => ⟨fun hsafe => ?_, fun o hall ho hsof herr htyp hslew hbad => ?_⟩⟩
    · refine (hsent e he).trans (congrArg some (guardOne_safe ?_))
      exact hsafe.imp_right guardInput_none
    · refine (hsent e he).trans (congrArg some ?_)
      have hin : s.guardInput e.sig = some o := guardInput_some ho hsof herr
      have hoff : ({ s with tdm := x } : State).bit F.LPE_GRD_CFG_SAFE_ALL = false := hall
      have hin' : ({ s with tdm := x } : State).guardInput e.sig = some o := hin
      rw [State.guardOut, hoff, hin']
      exact guardOne_clamps htyp hslew hbad
  · refine ⟨_, congrArg Host.Outcome.next (gate_open hmay.1 _ hmay.2), rfl, ?_, rfl, rfl, rfl⟩
    exact congrArg (· != 0) (rd_wr_same (s.reply 0) F.LPE_GRD_STAT_PEND 0 (by decide))
  · obtain ⟨-, hlpe, hres, -, hsp, herr⟩ := grdEnd_refuses (dmaRead_leaves (s := s) (ctx := 1) (va := s.guardBase) (n := 64)) (r := 6)
      (by decide) (by decide)
    exact ⟨_, grdCheckEnd_unread hlive hload (Prod.ext rfl hnone), hlpe, hres, herr, hsp⟩
  · obtain ⟨t, ht⟩ : ∃ t, s.dmaRead 1 s.guardBase 64 = (t, some hd) := ⟨_, Prod.ext rfl hhd⟩
    obtain ⟨u, hu⟩ : ∃ u, t.dmaRead 1 s.guardBase (64 + 32 * min (leAt hd 8 4) 8192) = (u, some bs) := by
      have hbs' : ((s.dmaRead 1 s.guardBase 64).1.dmaRead 1 s.guardBase (64 + 32 * min (leAt hd 8 4) 8192)).2 = some bs := hbs
      rw [ht] at hbs'
      exact ⟨_, Prod.ext rfl hbs'⟩
    have hleaves : s.Leaves OffBurst u := (dmaRead_eq_leaves ht).trans (dmaRead_eq_leaves hu)
    have hexec := grdCheckEnd_read hlive hload ht hu
    rw [hleaves.regGet (offBurst_of (.inr (.inl (by decide))))] at hexec
    intro r
    by_cases h0 : r = 0
    · rw [if_neg (not_not.mpr h0)] at hexec
      obtain ⟨hbank, hload', hres, hdone, hsp, hpend, hin⟩ := grdEnd_accepts hleaves (guardTable bs (leAt hd 8 4))
      exact ⟨_, hexec, hbank, hload', hres.trans h0.symm, hdone, hsp, fun h => absurd h0 h, fun _ => ⟨hpend, congrArg GuardBank.entries hin⟩⟩
    · rw [if_pos h0] at hexec
      obtain ⟨hbank, hlpe, hres, hdone, hsp, herr⟩ := grdEnd_refuses hleaves (guardResult_lt bs _ _) h0
      exact ⟨_, hexec, hbank, by rw [hlpe], hres, hdone, hsp, fun _ => ⟨herr, by rw [hlpe], by rw [hlpe]⟩, fun h => absurd h h0⟩
  · obtain ⟨x, hemit⟩ := emit_eq (s.reply 0) (.cmd R.LPE_GRD_CFG (if on then 0x80000000 else 0))
    have hk : exec (.safeAll m on) s = .next (((s.reply 0).emit _).wrB F.LPE_GRD_CFG_SAFE_ALL on) :=
      congrArg Host.Outcome.next (gatePair_open hmay hf _)
    rw [hemit] at hk
    exact ⟨_, hk, bit_wrB_same _ _ _ (by decide) (by decide), rfl, ⟨rfl, rfl, rfl⟩, fun a ha => regGet_wr_ne _ _ ha⟩

end Sys2Proof.Machine
end

/-! # Loading a program (O18) -/

section
namespace Sys2Proof.Machine

variable {s t u : State} {A : Nat → Prop} {m : Master}

/-! ## The banks' states and the load result (R109, R110) -/

theorem bankFld_cases (b : Nat) : b = 0 ∧ bankFld b = F.CAD_BANK_STAT_STATE0 ∨ b ≠ 0 ∧ bankFld b = F.CAD_BANK_STAT_STATE1 := by
  unfold bankFld
  split
  · exact .inl ⟨‹_›, rfl⟩
  · exact .inr ⟨‹_›, rfl⟩

theorem bankFld_addr (b : Nat) : (bankFld b).addr = R.CAD_BANK_STAT := by
  obtain ⟨-, h⟩ | ⟨-, h⟩ := bankFld_cases b <;> rw [h]

theorem State.Leaves.bankState (h : s.Leaves A t) (hA : A R.CAD_BANK_STAT) (k : Nat) : t.bankState k = s.bankState k :=
  h.rd (bankFld_addr k ▸ hA)

theorem bankState_setBank_same (b : Nat) {st : Nat} (hst : st < 8) : (s.setBank b st).bankState b = st := by
  unfold State.setBank State.bankState
  obtain ⟨-, h⟩ | ⟨-, h⟩ := bankFld_cases b <;> rw [h, rd_wr_same _ _ _ (by decide)] <;> exact Nat.mod_eq_of_lt hst

theorem bankState_setBank_other (b : Fin 2) {st : Nat} : (s.setBank b st).bankState (1 - b.val) = s.bankState (1 - b.val) := by
  unfold State.setBank State.bankState
  match b with
  | 0 => exact rd_wr_disjoint _ _ (by decide) (by decide) (.inr (by decide))
  | 1 => exact rd_wr_disjoint _ _ (by decide) (by decide) (.inl (by decide))

/-- RESULT and RBANK lie above the banks' states. -/
theorem rd_setBank {f : Fld} (b st : Nat) (hlo : 8 ≤ f.lo) (hf : f.lo + f.w ≤ 32) : (s.setBank b st).rd f = s.rd f := by
  unfold State.setBank
  obtain ⟨-, h⟩ | ⟨-, h⟩ := bankFld_cases b <;> rw [h] <;>
    exact rd_wr_disjoint _ _ (by decide) hf (.inr (Nat.le_trans (by decide) hlo))

theorem bankState_bankResult (b r k : Nat) : (s.bankResult b r).bankState k = s.bankState k := by
  unfold State.bankResult State.bankState
  obtain ⟨-, h⟩ | ⟨-, h⟩ := bankFld_cases k <;> rw [h] <;>
    exact (rd_wr_disjoint _ _ (by decide) (by decide) (.inl (by decide))).trans (rd_wr_disjoint _ _ (by decide) (by decide) (.inl (by decide)))

theorem bankResult_shows (b : Fin 2) {r : Nat} (hr : r < 256) :
    (s.bankResult b r).rd F.CAD_BANK_STAT_RESULT = r ∧ (s.bankResult b r).rd F.CAD_BANK_STAT_RBANK = b := by
  unfold State.bankResult
  exact ⟨(rd_wr_disjoint _ _ (by decide) (by decide) (.inl (by decide))).trans ((rd_wr_same _ _ _ (by decide)).trans (Nat.mod_eq_of_lt hr)),
    (rd_wr_same _ _ _ (by decide)).trans (Nat.mod_eq_of_lt b.isLt)⟩

theorem bankResult_leaves {b r : Nat} (hA : ¬A R.CAD_BANK_STAT) : s.Leaves A (s.bankResult b r) := (wr_leaves hA).trans (wr_leaves hA)

theorem setBank_leaves {b st : Nat} (hA : ¬A R.CAD_BANK_STAT) : s.Leaves A (s.setBank b st) := wr_leaves (bankFld_addr b ▸ hA)

/-! ## LOAD -/

/-- A delivery applied changes memory and the Tandem stream only. -/
theorem deliverNow_keeps (d : Delivery) : (s.deliverNow d).regs = s.regs ∧ (s.deliverNow d).cad = s.cad := by
  obtain h | ⟨k, v, st, e, h⟩ := deliverNow_cases (s := s) d
  · rw [h]
    exact ⟨rfl, rfl⟩
  · obtain ⟨x, hx⟩ := emit_eq (s.putLive k v st) e
    rw [h, hx]
    exact ⟨rfl, rfl⟩

theorem applyHeld_keeps (s : State) : s.applyHeld.regs = s.regs ∧ s.applyHeld.cad = { s.cad with held := [] } ∧
    (s.cad.held = [] → s.applyHeld.mem = s.mem) := by
  unfold State.applyHeld
  refine ⟨?_, ?_, fun h => by rw [h]; rfl⟩
  · exact List.foldlRecOn (motive := fun t : State => t.regs = s.regs) _ _ rfl fun t h d _ => (deliverNow_keeps d).1.trans h
  · exact List.foldlRecOn (motive := fun t : State => t.cad = { s.cad with held := [] }) _ _ rfl fun t h d _ => (deliverNow_keeps d).2.trans h

/-- The bank's state and its verification mark, which a change abandoned and a commit leave. -/
def LoadReg (a : Nat) : Prop := a ∈ [R.CAD_BANK_STAT, R.CAD_VERIFY]

/-- An abandoned change shows its result; the deliveries held go, and only CHG_STAT, causes and errors change beside. -/
theorem abandonChg_effect (s : State) {r : Nat} (hr : r < 256) :
    (s.abandonChg r).chgState = 5 ∧ (s.abandonChg r).rd F.CAD_CHG_STAT_RESULT = r ∧
      (∀ a, LoadReg a → (s.abandonChg r).regGet a = s.regGet a) ∧
      (s.abandonChg r).cad = { s.cad with held := [] } ∧ (s.cad.held = [] → (s.abandonChg r).mem = s.mem) := by
  have hset : s.Leaves LoadReg ((s.wr F.CAD_CHG_STAT_STATE 5).wr F.CAD_CHG_STAT_RESULT r) :=
    (wr_leaves (by unfold LoadReg; decide)).trans (wr_leaves (by unfold LoadReg; decide))
  have herr {B : Nat → Prop} (h1 : ¬B (R.BLK_IRQ_RAW .cad)) (h2 : ¬B (R.BLK_ERRINFO .cad)) :
      ((s.wr F.CAD_CHG_STAT_STATE 5).wr F.CAD_CHG_STAT_RESULT r).Leaves B
        ((((s.wr F.CAD_CHG_STAT_STATE 5).wr F.CAD_CHG_STAT_RESULT r).raise .cad 11).err .cad 0x89 r) :=
    (raise_leaves h1).trans (err_leaves h2 h1)
  obtain ⟨hregs, hcad, hmem⟩ := applyHeld_keeps ((((s.wr F.CAD_CHG_STAT_STATE 5).wr F.CAD_CHG_STAT_RESULT r).raise .cad 11).err .cad 0x89 r)
  have hshow := herr (B := (· = R.CAD_CHG_STAT)) (by decide) (by decide)
  have hkeep := hset.trans (herr (B := LoadReg) (by unfold LoadReg; decide) (by unfold LoadReg; decide))
  refine ⟨?_, ?_, fun a ha => (regGet_congr hregs a).trans (hkeep.regGet ha), by rw [← hkeep.cad]; exact hcad, fun h => ?_⟩
  · exact (rd_congr hregs _).trans ((hshow.rd rfl).trans ((rd_wr_disjoint _ _ (by decide) (by decide) (.inl (by decide))).trans
      (rd_wr_same _ _ _ (by decide))))
  · exact (rd_congr hregs _).trans ((hshow.rd rfl).trans ((rd_wr_same _ _ _ (by decide)).trans (Nat.mod_eq_of_lt hr)))
  · exact (hmem (by rw [hkeep.cad]; exact h)).trans hkeep.mem

/-- The change that LOAD abandons, if one is in progress. -/
def State.dropChg (s : State) : State := if 1 ≤ s.chgState && s.chgState ≤ 3 then s.abandonChg 7 else s

theorem dropChg_effect (s : State) :
    (1 ≤ s.chgState → s.chgState ≤ 3 → s.dropChg.chgState = 5 ∧ s.dropChg.rd F.CAD_CHG_STAT_RESULT = 7) ∧
      (∀ a, LoadReg a → s.dropChg.regGet a = s.regGet a) ∧ s.dropChg.cad.ctx = s.cad.ctx ∧ (s.cad.held = [] → s.dropChg.mem = s.mem) := by
  obtain ⟨hst, hres, hregs, hcad, hmem⟩ := abandonChg_effect s (r := 7) (by decide)
  unfold State.dropChg
  split
  · exact ⟨fun _ _ => ⟨hst, hres⟩, hregs, by rw [hcad], hmem⟩
  next h =>
    refine ⟨fun h1 h3 => absurd ?_ h, fun _ _ => rfl, rfl, fun _ => rfl⟩
    simp [h1, h3]

/-- The commit of a bank's base address at LOAD. -/
def State.commitBase (s : State) (b : Nat) : State :=
  s.commit .cad fun f => f.addr == R.CAD_BANKb_BASE_LO b || f.addr == R.CAD_BANKb_BASE_HI b

theorem commitBase_leaves (s : State) (b : Fin 2) : s.Leaves (fun a => LoadReg a ∨ a = R.CAD_CHG_STAT) (s.commitBase b) := by
  have hoff : ∀ b : Fin 2, ∀ a ∈ [R.CAD_BANKb_BASE_LO b, R.CAD_BANKb_BASE_HI b],
      ¬(a ∈ [R.CAD_BANK_STAT, R.CAD_VERIFY] ∨ a = R.CAD_CHG_STAT) := by
    decide
  exact commit_leaves (fun f hf => hoff b f.addr (by simpa using hf)) (by unfold LoadReg; decide)

/-- Loading of a bank starts: its verification mark is taken and cleared. -/
def State.loadStarted (s : State) (b : Nat) : State :=
  let s1 := (s.wr (verifyFld b) 0).setBank b 1
  { s1 with cad := { s1.cad with loadVerified := s.bit (verifyFld b) } }

theorem loadStarted_effect (s : State) (b : Fin 2) :
    (s.loadStarted b).bankState b = 1 ∧ (s.loadStarted b).bankState (1 - b.val) = s.bankState (1 - b.val) ∧
      (s.loadStarted b).bit (verifyFld b) = false ∧ (∀ f : Fld, f.addr = R.CAD_CHG_STAT → (s.loadStarted b).rd f = s.rd f) ∧
      (s.loadStarted b).cad = { s.cad with loadVerified := s.bit (verifyFld b) } ∧ (s.loadStarted b).mem = s.mem := by
  have hverify : ∀ b : Fin 2, (verifyFld b).addr = R.CAD_VERIFY ∧ (verifyFld b).lo + (verifyFld b).w ≤ 32 := by decide
  obtain ⟨haddr, hfit⟩ := hverify b
  have hmark : s.Leaves (· ≠ R.CAD_VERIFY) (s.wr (verifyFld b) 0) := wr_leaves fun h => h haddr
  have hset : (s.wr (verifyFld b) 0).Leaves (· ≠ R.CAD_BANK_STAT) ((s.wr (verifyFld b) 0).setBank b 1) := setBank_leaves fun h => h rfl
  refine ⟨bankState_setBank_same b (by decide), (bankState_setBank_other b).trans (hmark.bankState (by decide) _), ?_, fun f hf => ?_, rfl, rfl⟩
  · have hclear : ((s.wr (verifyFld b) 0).setBank b 1).rd (verifyFld b) = 0 :=
      (hset.rd (by rw [haddr]; decide)).trans ((rd_wr_same s _ 0 hfit).trans (Nat.zero_mod _))
    exact congrArg (· != 0) hclear
  · exact (hset.rd (by rw [hf]; decide)).trans (hmark.rd (by rw [hf]; decide))

theorem load_exec (h : s.MayWrite m .cad R.CAD_LOADCMD) (b : Fin 2) (h3 : s.bankState b ≠ 3) (h0 : s.bankState 0 ≠ 1) (h1 : s.bankState 1 ≠ 1) :
    exec (.load m b) s = .next (((s.reply 0).dropChg.commitBase b).loadStarted b) := by
  refine congrArg Host.Outcome.next ((gate_open h.1 _ h.2).trans (if_neg ?_))
  simp only [Bool.or_eq_true, decide_eq_true_eq, not_or]
  exact ⟨⟨h3, h0⟩, h1⟩

theorem load_refused_exec (h : s.MayWrite m .cad R.CAD_LOADCMD) (b : Fin 2)
    (hb : s.bankState b = 3 ∨ s.bankState 0 = 1 ∨ s.bankState 1 = 1) :
    exec (.load m b) s = .next (((s.reply 0).bankResult b 0x0D).err .cad 0x84 (woffOf .cad R.CAD_LOADCMD)) := by
  refine congrArg Host.Outcome.next ((gate_open h.1 _ h.2).trans (if_pos ?_))
  simp only [Bool.or_eq_true, decide_eq_true_eq, or_assoc]
  exact hb

theorem load_accepted (h : s.MayWrite m .cad R.CAD_LOADCMD) (b : Fin 2) (h3 : s.bankState b ≠ 3) (h0 : s.bankState 0 ≠ 1)
    (h1 : s.bankState 1 ≠ 1) : s.Yields (.load m b) fun t => t.bankState b = 1 ∧ t.bankState (1 - b.val) = s.bankState (1 - b.val) ∧
      t.bit (verifyFld b) = false ∧ t.cad.loadVerified = s.bit (verifyFld b) ∧
      (1 ≤ s.chgState → s.chgState ≤ 3 → t.chgState = 5 ∧ t.rd F.CAD_CHG_STAT_RESULT = 7) ∧ (s.cad.held = [] → t.mem = s.mem) ∧
      t.cad.ctx = s.cad.ctx := by
  obtain ⟨hchg, hregs, hctx, hmem⟩ := dropChg_effect (s.reply 0)
  have hbase := commitBase_leaves (s.reply 0).dropChg b
  obtain ⟨hst, hother, hclear, hstat, hcad, hsame⟩ := loadStarted_effect ((s.reply 0).dropChg.commitBase b) b
  have hkeep {f : Fld} (hf : LoadReg f.addr) : ((s.reply 0).dropChg.commitBase b).rd f = s.rd f :=
    (hbase.rd (.inl hf)).trans (rd_of_regGet (hregs _ hf))
  have hmark : ∀ b : Fin 2, (verifyFld b).addr ∈ [R.CAD_BANK_STAT, R.CAD_VERIFY] := by decide
  refine ⟨_, load_exec h b h3 h0 h1, hst, hother.trans (hkeep ?_), hclear, ?_, fun hl hu => ?_, fun hheld => ?_, ?_⟩
  · exact bankFld_addr _ ▸ List.mem_cons_self
  · rw [hcad]
    exact congrArg (· != 0) (hkeep (hmark b))
  · obtain ⟨h5, h7⟩ := hchg hl hu
    exact ⟨(hstat _ rfl).trans ((hbase.rd (.inr rfl)).trans h5), (hstat _ rfl).trans ((hbase.rd (.inr rfl)).trans h7)⟩
  · exact hsame.trans (hbase.mem.trans (hmem hheld))
  · rw [hcad]
    exact (congrArg Cad.ctx hbase.cad).trans hctx

/-- A refused LOAD shows result 0x0D. -/
theorem load_refused (h : s.MayWrite m .cad R.CAD_LOADCMD) (b : Fin 2) (hb : s.bankState b = 3 ∨ s.bankState 0 = 1 ∨ s.bankState 1 = 1) :
    s.Yields (.load m b) fun t => t.bankState 0 = s.bankState 0 ∧ t.bankState 1 = s.bankState 1 ∧ t.rd F.CAD_BANK_STAT_RESULT = 0x0D ∧
      t.Erred .cad 0x84 (woffOf .cad R.CAD_LOADCMD) ∧ s.Spares t := by
  have herr : ((s.reply 0).bankResult b 0x0D).Leaves (· = R.CAD_BANK_STAT)
      (((s.reply 0).bankResult b 0x0D).err .cad 0x84 (woffOf .cad R.CAD_LOADCMD)) := err_leaves (by decide) (by decide)
  have hset : (s.reply 0).Leaves (fun _ => False) ((s.reply 0).bankResult b 0x0D) := bankResult_leaves id
  exact ⟨_, load_refused_exec h b hb, (herr.bankState rfl 0).trans (bankState_bankResult _ _ _),
    (herr.bankState rfl 1).trans (bankState_bankResult _ _ _), (herr.rd rfl).trans (bankResult_shows b (by decide)).1,
    err_erred (by decide) (by decide), hset.spares.trans herr.spares⟩

/-! ## The load check and the background re-hash -/

/-- What a bank shows after its check: its state, the other's, and the result with its bank. -/
def State.Shows (s t : State) (b : Fin 2) (st r : Nat) : Prop :=
  t.bankState b = st ∧ t.bankState (1 - b.val) = s.bankState (1 - b.val) ∧ t.rd F.CAD_BANK_STAT_RESULT = r ∧ t.rd F.CAD_BANK_STAT_RBANK = b ∧
    t.mem = s.mem ∧ t.cad.ctx = s.cad.ctx

/-- What leaves BANK_STAT shows what stood before it. -/
theorem State.Shows.leaves {b : Fin 2} {st r : Nat} (h : s.Shows t b st r) (ht : t.Leaves (· = R.CAD_BANK_STAT) u) : s.Shows u b st r := by
  obtain ⟨hst, hother, hres, hbank, hmem, hctx⟩ := h
  exact ⟨(ht.bankState rfl _).trans hst, (ht.bankState rfl _).trans hother, (ht.rd rfl).trans hres, (ht.rd rfl).trans hbank, ht.mem.trans hmem,
    (congrArg Cad.ctx ht.cad).trans hctx⟩

theorem State.Shows.of_eq {b : Fin 2} {st st' r : Nat} (h : s.Shows t b st r) (he : st = st') : s.Shows t b st' r := he ▸ h

/-- A result shown without a change of state. -/
theorem bankResult_showsAll (h : s.Leaves (· = R.CAD_BANK_STAT) t) (b : Fin 2) {r : Nat} (hr : r < 256) :
    s.Shows (t.bankResult b r) b (s.bankState b) r := by
  obtain ⟨hres, hbank⟩ := bankResult_shows (s := t) b hr
  exact ⟨(bankState_bankResult _ _ _).trans (h.bankState rfl _), (bankState_bankResult _ _ _).trans (h.bankState rfl _), hres, hbank, h.mem,
    congrArg Cad.ctx h.cad⟩

/-- A state set beside a result shown. -/
theorem State.Shows.setBank {b : Fin 2} {st r : Nat} (h : s.Shows t b st r) {st' : Nat} (hst : st' < 8) : s.Shows (t.setBank b st') b st' r := by
  obtain ⟨-, hother, hres, hbank, hmem, hctx⟩ := h
  exact ⟨bankState_setBank_same b hst, (bankState_setBank_other b).trans hother, (rd_setBank b st' (by decide) (by decide)).trans hres,
    (rd_setBank b st' (by decide) (by decide)).trans hbank, hmem, hctx⟩

/-- A load ends with its result: LOADED for 0, FAILED otherwise. -/
theorem loadEnd_shows (h : s.Leaves (· = R.CAD_BANK_STAT) t) (b : Fin 2) {r : Nat} (hr : r < 256) (off : Nat) (hash : List Byte) :
    s.Shows (t.loadEnd b r off hash) b (if r = 0 then 2 else 4) r := by
  have hres : s.Shows ((t.bankResult b r).wr F.CAD_LOADOFF_OFFSET off) b (s.bankState b) r :=
    (bankResult_showsAll h b hr).leaves (wr_leaves (by decide))
  unfold State.loadEnd
  by_cases h0 : r = 0
  · simp only [if_pos h0]
    have hhash (c : Cad) (hc : c.ctx = t.cad.ctx) : s.Shows { (t.bankResult b r).wr F.CAD_LOADOFF_OFFSET off with cad := c } b (s.bankState b) r := by
      obtain ⟨hst, hother, hresult, hbank, hmem, hctx⟩ := hres
      exact ⟨hst, hother, hresult, hbank, hmem, hc.trans hctx⟩
    exact ((hhash _ (by split <;> rfl)).setBank (by decide)).leaves (raise_leaves (by decide))
  · simp only [if_neg h0]
    exact (hres.setBank (by decide)).leaves ((raise_leaves (by decide)).trans (err_leaves (by decide) (by decide)))

/-- The first failing code is 0 or one of the list's. -/
theorem firstFail_code (l : List (Nat × Option Nat)) : (firstFail l).1 = 0 ∨ (firstFail l).1 ∈ l.map Prod.fst := by
  fun_induction firstFail l with
  | case1 => exact .inl rfl
  | case2 c o => exact .inr List.mem_cons_self
  | case3 c t ih => exact ih.imp_right (List.mem_cons_of_mem c)

theorem headerCheck_lt (i : List Byte) (v : Bool) : (headerCheck i v).1 < 256 := by
  unfold headerCheck
  rcases firstFail_code _ with h | h
  · rw [h]
    decide
  · simp only [List.map_cons, List.map_nil, List.mem_cons, List.not_mem_nil, or_false] at h
    omega

theorem imageCheck_lt (i e : List Byte) : (imageCheck i e).1 < 256 := by
  unfold imageCheck
  rcases firstFail_code _ with h | h
  · rw [h]
    decide
  · simp only [List.map_cons, List.map_nil, List.mem_cons, List.not_mem_nil, or_false] at h
    omega

theorem readImage_leaves (s : State) (b n : Nat) : s.Leaves OffBurst (s.readImage b n).1 := by
  unfold State.readImage
  dsimp only
  split <;> exact dmaRead_eq_leaves ‹_›

theorem readImage_eq_leaves {b n : Nat} {x : Except Nat (List Byte)} (h : s.readImage b n = (t, x)) : s.Leaves OffBurst t := by
  have hx := readImage_leaves s b n
  rwa [h] at hx

theorem bankStat_off : OffBurst R.CAD_BANK_STAT := offBurst_of (.inl (by decide))

theorem State.Leaves.bankStat (h : s.Leaves OffBurst t) : s.Leaves (· = R.CAD_BANK_STAT) t := h.mono fun _ ha => ha ▸ bankStat_off

/-- A read of the image leaves the hash that the image is checked against. -/
theorem State.Leaves.phashReg (h : s.Leaves OffBurst t) (b : Fin 2) : t.phashReg b = s.phashReg b := by
  have hcad : ∀ b : Fin 2, ∀ k ∈ upto 8, blkAt (R.CAD_PHASHb_k b k) = some .cad := by decide
  unfold State.phashReg
  exact List.flatMap_congr fun k hk => by rw [h.regGet (offBurst_of (.inl (hcad b k hk)))]

/-- The bank that is LOADING. -/
def State.loadingBank (s : State) : Fin 2 := if s.bankState 0 = 1 then 0 else 1

theorem loadingBank_val (s : State) : (s.loadingBank : Nat) = if s.bankState 0 = 1 then 0 else 1 := apply_ite Fin.val _ _ _

/-- The load check of bank `b`: its header, then its image. -/
def State.checkLoad (s : State) (b : Nat) : State :=
  match s.readImage b 256 with
  | (s1, .error o) => s1.loadEnd b 0x0F o []
  | (s1, .ok h) =>
    if (headerCheck h s1.cad.loadVerified).1 ≠ 0 then
      s1.loadEnd b (headerCheck h s1.cad.loadVerified).1 (headerCheck h s1.cad.loadVerified).2 []
    else match s1.readImage b (max 256 (hdImgSize h)) with
      | (s2, .error o) => s2.loadEnd b 0x0F o []
      | (s2, .ok i) => s2.loadEnd b (imageCheck i (s2.phashReg b)).1 (imageCheck i (s2.phashReg b)).2 (phashOf i)

theorem loadCheckEnd_exec (hlive : s.Live .cad) (h1 : s.bankState 0 = 1 ∨ s.bankState 1 = 1) :
    exec .loadCheckEnd s = .next (s.checkLoad s.loadingBank) := by
  change execLoadCheckEnd s = _
  rw [execLoadCheckEnd, whileLive_live hlive, if_neg (by simpa [imp_iff_not_or] using h1), loadingBank_val]
  rfl

theorem loadCheckEnd_shows (hlive : s.Live .cad) (h1 : s.bankState 0 = 1 ∨ s.bankState 1 = 1) :
    (∀ o, (s.readImage s.loadingBank 256).2 = .error o → s.Yields .loadCheckEnd fun t => s.Shows t s.loadingBank 4 0x0F) ∧
    (∀ h, (s.readImage s.loadingBank 256).2 = .ok h →
      ((headerCheck h s.cad.loadVerified).1 ≠ 0 →
        s.Yields .loadCheckEnd fun t => s.Shows t s.loadingBank 4 (headerCheck h s.cad.loadVerified).1) ∧
      ((headerCheck h s.cad.loadVerified).1 = 0 →
        (∀ o, ((s.readImage s.loadingBank 256).1.readImage s.loadingBank (max 256 (hdImgSize h))).2 = .error o →
          s.Yields .loadCheckEnd fun t => s.Shows t s.loadingBank 4 0x0F) ∧
        (∀ i, ((s.readImage s.loadingBank 256).1.readImage s.loadingBank (max 256 (hdImgSize h))).2 = .ok i →
          s.Yields .loadCheckEnd fun t => s.Shows t s.loadingBank (if (imageCheck i (s.phashReg s.loadingBank)).1 = 0 then 2 else 4)
            (imageCheck i (s.phashReg s.loadingBank)).1))) := by
  have hexec := loadCheckEnd_exec hlive h1
  unfold State.checkLoad at hexec
  rcases hr : s.readImage s.loadingBank 256 with ⟨t, x⟩
  have ht := (readImage_eq_leaves hr).bankStat
  rw [hr] at hexec
  refine ⟨fun o ho => ?_, fun h hh => ?_⟩
  · obtain rfl : x = .error o := ho
    exact ⟨_, hexec, loadEnd_shows ht _ (by decide) _ _⟩
  obtain rfl : x = .ok h := hh
  have hcheck : headerCheck h t.cad.loadVerified = headerCheck h s.cad.loadVerified := by rw [ht.cad]
  simp only [hcheck] at hexec
  refine ⟨fun hbad => ?_, fun hgood => ?_⟩
  · rw [if_pos hbad] at hexec
    exact ⟨_, hexec, (loadEnd_shows ht _ (headerCheck_lt _ _) _ _).of_eq (if_neg hbad)⟩
  rw [if_neg (not_not.mpr hgood)] at hexec
  rcases hr' : t.readImage s.loadingBank (max 256 (hdImgSize h)) with ⟨u, y⟩
  have hu := (readImage_eq_leaves hr).trans (readImage_eq_leaves hr')
  rw [hr'] at hexec
  refine ⟨fun o ho => ?_, fun i hi => ?_⟩
  · obtain rfl : y = .error o := ho
    exact ⟨_, hexec, loadEnd_shows hu.bankStat _ (by decide) _ _⟩
  · obtain rfl : y = .ok i := hi
    rw [← hu.phashReg]
    exact ⟨_, hexec, loadEnd_shows hu.bankStat _ (imageCheck_lt _ _) _ _⟩

/-! ## Background re-hash -/

theorem altered_shows (h : s.Leaves (· = R.CAD_BANK_STAT) t) (b : Fin 2) : s.Shows (t.altered b) b (s.bankState b) 4 ∧
    (t.cad.altReported = false → (t.altered b).Erred .cad 0x82 0 ∧ (t.altered b).cad.altReported = true) := by
  have hres := bankResult_showsAll h b (r := 4) (by decide)
  unfold State.altered
  dsimp only
  cases hrep : (t.bankResult b 4).cad.altReported with
  | true =>
    rw [if_pos rfl]
    exact ⟨hres, fun h => absurd (hrep.symm.trans h) (by decide)⟩
  | false =>
    rw [if_neg (by decide)]
    have herr : (t.bankResult b 4).Leaves (· = R.CAD_BANK_STAT) ((t.bankResult b 4).errEv .cad 0x82 0) :=
      (err_leaves (by decide) (by decide)).trans (event_leaves fun a ha => ha ▸ by decide)
    have hshown := hres.leaves herr
    have hcode : ((t.bankResult b 4).errEv .cad 0x82 0).Erred .cad 0x82 0 := by
      have hev {f : Fld} (hf : f.addr = R.BLK_ERRINFO .cad) : ((t.bankResult b 4).errEv .cad 0x82 0).rd f =
          ((t.bankResult b 4).err .cad 0x82 0).rd f :=
        rd_of_regGet (regGet_event (hf ▸ by decide))
      obtain ⟨h1, h2⟩ := err_erred (s := t.bankResult b 4) (b := .cad) (code := 0x82) (woff := 0) (by decide) (by decide)
      exact ⟨(hev rfl).trans h1, (hev rfl).trans h2⟩
    exact ⟨hshown, fun _ => ⟨hcode, rfl⟩⟩

theorem backgroundRehash_exec (hlive : s.Live .cad) (b : Fin 2) (hst : s.bankState b = 2 ∨ s.bankState b = 3) {i : List Byte}
    (h : s.readImage b (max 256 (s.img b 8 4)) = (t, .ok i)) :
    exec (.backgroundRehash b) s = .next (if leNat (phashOf i) = t.bankHash b then t.bankResult b 0
      else if s.bankState b = 3 then t.altered b else (t.bankResult b 4).setBank b 4) := by
  have hact : ¬(decide (s.bankState b ≠ 2) && decide (s.bankState b ≠ 3)) = true := by
    rcases hst with h | h <;> simp [h]
  have hhash : t.bankHash b = if b = 0 then t.cad.hash0 else t.cad.hash1 := by
    unfold State.bankHash
    simp only [Fin.val_eq_zero_iff]
  change execBackgroundRehash b s = _
  rw [execBackgroundRehash, whileLive_live hlive, hhash]
  simp only [h, if_neg hact]

/-- Settles O18: LOAD's two ends, what the load check shows, and what a re-hash finds. -/
theorem programLoading : Obligations.ProgramLoading := by
  intro m b s
  refine ⟨fun hmay => ⟨load_accepted hmay b, load_refused hmay b⟩, fun hlive h1 => ?_, fun hlive hst i hi => ?_⟩
  · intro k ends
    have hk : k = s.loadingBank := (loadingBank_val s).symm
    have hends {st r : Nat} (h : s.Yields .loadCheckEnd fun t => s.Shows t s.loadingBank st r) : ends st r := by
      obtain ⟨t, he, hs⟩ := h
      refine ⟨t, he, ?_⟩
      rw [hk]
      exact hs
    obtain ⟨hunread, hread⟩ := loadCheckEnd_shows hlive h1
    rw [hk]
    refine ⟨fun o ho => hends (hunread o ho), fun h hh => ⟨fun hbad => hends ((hread h hh).1 hbad), fun hgood => ?_⟩⟩
    obtain ⟨hunread', hread'⟩ := (hread h hh).2 hgood
    exact ⟨fun o ho => hends (hunread' o ho), fun i hi => hends (hread' i hi)⟩
  · rcases hr : s.readImage b (max 256 (s.img b 8 4)) with ⟨t, x⟩
    obtain rfl : x = .ok i := by rwa [hr] at hi
    have ht := (readImage_eq_leaves hr).bankStat
    have hexec := backgroundRehash_exec hlive b hst hr
    rw [show t.bankHash b = s.bankHash b by unfold State.bankHash; rw [ht.cad]] at hexec
    by_cases hhash : leNat (phashOf i) = s.bankHash b
    · rw [if_pos hhash] at hexec
      obtain ⟨hstate, hother, hres, hbank, hmem, hctx⟩ := bankResult_showsAll ht b (r := 0) (by decide)
      exact ⟨_, hexec, hmem, hctx, hother, fun _ => ⟨hstate, hres, hbank⟩, fun h => absurd hhash h, fun h => absurd hhash h⟩
    rw [if_neg hhash] at hexec
    by_cases h3 : s.bankState b = 3
    · rw [if_pos h3] at hexec
      obtain ⟨⟨hstate, hother, hres, -, hmem, hctx⟩, hrep⟩ := altered_shows ht b
      exact ⟨_, hexec, hmem, hctx, hother, fun h => absurd h hhash, fun _ h2 => by omega,
        fun _ _ => ⟨hstate.trans h3, hres, fun h => hrep (by rw [ht.cad]; exact h)⟩⟩
    · rw [if_neg h3] at hexec
      obtain ⟨hstate, hother, hres, -, hmem, hctx⟩ := (bankResult_showsAll ht b (r := 4) (by decide)).setBank (st' := 4) (by decide)
      exact ⟨_, hexec, hmem, hctx, hother, fun h => absurd h hhash, fun _ _ => ⟨hstate, hres⟩, fun _ h => absurd h h3⟩

end Sys2Proof.Machine
end

/-! # Starting a program; instance commands; exception counts (O21) -/

section
namespace Sys2Proof.Machine

variable {s t u : State} {A : Nat → Prop} {m : Master}

/-! ## Registers that an operation leaves, whatever else it changes -/

/-- From `s` to `t` the registers at `A` stay. -/
def State.KeepsAt (A : Nat → Prop) (s t : State) : Prop := ∀ a, A a → t.regGet a = s.regGet a

theorem keepsAt_refl (s : State) : s.KeepsAt A s := fun _ _ => rfl

theorem keepsAt_of_regs (h : t.regs = s.regs) : s.KeepsAt A t := fun a _ => regGet_congr h a

theorem State.Leaves.keepsAt (h : s.Leaves A t) : s.KeepsAt A t := h.2.2

theorem State.KeepsAt.trans (h : s.KeepsAt A t) (h' : t.KeepsAt A u) : s.KeepsAt A u := fun a ha => (h' a ha).trans (h a ha)

theorem State.KeepsAt.rd (h : s.KeepsAt A t) {f : Fld} (hf : A f.addr) : t.rd f = s.rd f := rd_of_regGet (h _ hf)

theorem State.KeepsAt.bankState (h : s.KeepsAt A t) (hA : A R.CAD_BANK_STAT) (k : Nat) : t.bankState k = s.bankState k :=
  h.rd (bankFld_addr k ▸ hA)

/-! ## What a start keeps once it is under way -/

/-- The registers that show a start: the banks' states, its own status, and the tasks' states. -/
abbrev StartReg (a : Nat) : Prop := a ∈ R.CAD_BANK_STAT :: R.CAD_START_STAT :: allTasks.map fun n => R.CAD_TASKn_STAT n.val

theorem startReg_task (n : Fin 8) : StartReg (R.CAD_TASKn_STAT n) := by revert n; decide

theorem startReg_notEvr {a : Nat} (h : StartReg a) : blkAt a ≠ some .evr := by
  have hcad : ∀ a ∈ R.CAD_BANK_STAT :: R.CAD_START_STAT :: allTasks.map fun n => R.CAD_TASKn_STAT n.val, blkAt a ≠ some .evr := by decide
  exact hcad a h

/-- The registers that show a start stay, and no instance becomes or ceases to be POISONED. -/
def State.StartKeeps (s t : State) : Prop := s.KeepsAt StartReg t ∧ t.cad.poisoned = s.cad.poisoned

theorem startKeeps_refl (s : State) : s.StartKeeps s := ⟨keepsAt_refl s, rfl⟩

theorem State.StartKeeps.trans (h : s.StartKeeps t) (h' : t.StartKeeps u) : s.StartKeeps u := ⟨h.1.trans h'.1, h'.2.trans h.2⟩

theorem State.Leaves.startKeeps (h : s.Leaves StartReg t) : s.StartKeeps t := ⟨h.keepsAt, by rw [h.cad]⟩

theorem startKeeps_of (hr : t.regs = s.regs) (hp : t.cad.poisoned = s.cad.poisoned) : s.StartKeeps t := ⟨keepsAt_of_regs hr, hp⟩

theorem ite_startKeeps {c : Prop} [Decidable c] (ht : s.StartKeeps t) (hu : s.StartKeeps u) : s.StartKeeps (if c then t else u) := by
  split
  · exact ht
  · exact hu

theorem foldl_startKeeps {α : Type} {f : State → α → State} {l : List α} (hf : ∀ t : State, ∀ x ∈ l, t.StartKeeps (f t x)) :
    s.StartKeeps (l.foldl f s) :=
  foldl_relates startKeeps_refl State.StartKeeps.trans hf

theorem event_startKeeps {b : Blk} {n sev p0 p1 p2 p3 : Nat} : s.StartKeeps (s.event b n sev p0 p1 p2 p3) :=
  (event_leaves fun _ => startReg_notEvr).startKeeps

theorem raise_startKeeps {n : Nat} : s.StartKeeps (s.raise .cad n) := (raise_leaves (by decide)).startKeeps

/-- The parts of a start after the bank is ACTIVE. -/
theorem dropSigs_startKeeps {sigs : List Nat} : s.StartKeeps (s.dropSigs sigs) := by
  have hfold : s.StartKeeps (sigs.foldl State.dropOut s) := foldl_startKeeps fun t x _ => startKeeps_of rfl rfl
  exact ite_startKeeps hfold (hfold.trans event_startKeeps)

theorem rebind_startKeeps : s.StartKeeps s.rebind := by
  unfold State.rebind
  extract_lets b lost s1 s2
  have h1 : s.StartKeeps s1 := foldl_startKeeps fun t x _ => by
    dsimp only
    split
    · exact startKeeps_of rfl rfl
    · exact startKeeps_refl t
  refine ite_startKeeps h1 ((h1.trans raise_startKeeps).trans (foldl_startKeeps fun t x _ => ?_))
  split
  · exact event_startKeeps
  · exact startKeeps_refl t

theorem putHash_startKeeps {h : Nat} : s.StartKeeps (s.putHash (R.CAD_AHASHk 0) h) := by
  have hoff : ∀ k ∈ upto 8, ¬StartReg (R.CAD_AHASHk 0 + 4 * k) := by decide
  exact (foldl_leaves fun t k hk => regPut_leaves (hoff k hk) : s.Leaves StartReg _).startKeeps

theorem activate_active (s : State) (b : Fin 2) : (s.activate b).bankState b = 3 := by
  unfold State.activate
  extract_lets s1 s2
  have hhash : (s1.setBank b 3).StartKeeps s2 := putHash_startKeeps
  exact (hhash.1.bankState (by decide) b).trans (bankState_setBank_same b (by decide))

theorem activate_keeps (s : State) (b : Nat) : s.KeepsAt (fun a => StartReg a ∧ a ≠ R.CAD_BANK_STAT) (s.activate b) := by
  unfold State.activate
  extract_lets s1 s2
  have h1 : s.Leaves (fun a => StartReg a ∧ a ≠ R.CAD_BANK_STAT) s1 := ite_leaves (setBank_leaves fun h => h.2 rfl) (leaves_refl s)
  have hhash : (s1.setBank b 3).StartKeeps s2 := putHash_startKeeps
  have h2 : s1.Leaves (fun a => StartReg a ∧ a ≠ R.CAD_BANK_STAT) (s1.setBank b 3) := setBank_leaves fun h => h.2 rfl
  exact (h1.trans h2).keepsAt.trans fun a ha => hhash.1 a ha.1

/-! ## The tasks' states -/

theorem taskStat_inj {n k : Fin 8} (h : k ≠ n) : R.CAD_TASKn_STAT k ≠ R.CAD_TASKn_STAT n := by
  have hv : k.val ≠ n.val := fun e => h (Fin.ext e)
  simp only [R.CAD_TASKn_STAT]
  omega

/-- One task's STATE after a write of it, and another's. -/
theorem taskState_set (s : State) (n k : Fin 8) {st : Nat} (hst : st < 8) :
    (s.wr (F.CAD_TASKn_STAT_STATE n) st).taskState k = if k = n then st else s.taskState k := by
  unfold State.taskState
  split
  · next h => rw [h, rd_wr_same _ _ _ (by norm_num)]; exact Nat.mod_eq_of_lt hst
  · next h => exact rd_wr_ne s st (taskStat_inj h)

/-- A write of another field of TASKn_STAT. -/
theorem taskState_wr_other (s : State) (k : Fin 8) {f : Fld} {x : Nat} (hlo : 3 ≤ f.lo) (hf : f.lo + f.w ≤ 32) :
    (s.wr f x).taskState k = s.taskState k := by
  unfold State.taskState
  exact rd_wr_disjoint s x hf (by norm_num) (.inl (Nat.le_trans (by norm_num) hlo))

theorem regGet_setTask (s : State) (n : Fin 8) (x : Task) (a : Nat) : (s.setTask n x).regGet a = s.regGet a := regGet_congr rfl a

theorem taskState_setTask (s : State) (n k : Fin 8) (x : Task) : (s.setTask n x).taskState k = s.taskState k := rd_congr rfl _

/-- START of the tasks that `p` names. -/
theorem startEach_taskState (p : Fin 8 → Bool) (l : List (Fin 8)) (s : State) (k : Fin 8) :
    (l.foldl (fun (s : State) (n : Fin 8) => if p n then s.makeIdle n else s) s).taskState k =
      if k ∈ l ∧ p k = true then 1 else s.taskState k := by
  induction l generalizing s with
  | nil => simp
  | cons n l ih =>
    have hidle : (s.makeIdle n).taskState k = if k = n then 1 else s.taskState k :=
      (taskState_setTask _ n k _).trans (taskState_set s n k (by decide))
    rw [List.foldl_cons, ih]
    by_cases hp : p n = true
    · rw [if_pos hp, hidle]
      by_cases hk : k = n
      · simp [hk, hp]
      · simp [hk]
    · rw [if_neg hp]
      by_cases hk : k = n
      · simp [hk, hp]
      · simp [hk]

theorem startTasks_taskState (tasks : BitVec 8) (h : ∀ k, s.taskState k = 0) (k : Fin 8) :
    (s.startTasks tasks).taskState k = if tasks.getLsbD k.val then 1 else 0 := by
  refine (startEach_taskState (fun n => tasks.getLsbD n.val) allTasks s k).trans ?_
  simp [mem_allTasks, h]

/-- Starting tasks changes the tasks and their states only. -/
theorem startTasks_keeps (s : State) (tasks : BitVec 8) :
    s.KeepsAt (fun a => a = R.CAD_BANK_STAT ∨ a = R.CAD_START_STAT) (s.startTasks tasks) ∧
      (s.startTasks tasks).cad.poisoned = s.cad.poisoned := by
  have hoff : ∀ n : Fin 8, ¬(R.CAD_TASKn_STAT n = R.CAD_BANK_STAT ∨ R.CAD_TASKn_STAT n = R.CAD_START_STAT) := by decide
  refine List.foldlRecOn (motive := fun t : State => s.KeepsAt (fun a => a = R.CAD_BANK_STAT ∨ a = R.CAD_START_STAT) t ∧
    t.cad.poisoned = s.cad.poisoned) _ _ ⟨keepsAt_refl s, rfl⟩ fun t ⟨hr, hp⟩ n _ => ?_
  split
  · exact ⟨hr.trans (wr_leaves (f := F.CAD_TASKn_STAT_STATE n) (x := 1) (hoff n)).keepsAt, hp⟩
  · exact ⟨hr, hp⟩

/-- A start stops every task first. -/
def State.stopTasks (s : State) : State :=
  allTasks.foldl (fun (s : State) (n : Fin 8) =>
    (((s.wr (F.CAD_TASKn_STAT_STATE n) 0).wr (F.CAD_TASKn_STAT_LOCKED n) 0)).setTask n { ovrSince := (s.task n).ovrSince }) s

theorem stopEach_taskState (l : List (Fin 8)) (s : State) (k : Fin 8) :
    (l.foldl (fun (s : State) (n : Fin 8) =>
      (((s.wr (F.CAD_TASKn_STAT_STATE n) 0).wr (F.CAD_TASKn_STAT_LOCKED n) 0)).setTask n { ovrSince := (s.task n).ovrSince }) s).taskState k =
      if k ∈ l then 0 else s.taskState k := by
  induction l generalizing s with
  | nil => simp
  | cons n l ih =>
    have hstop (t : Task) : (((s.wr (F.CAD_TASKn_STAT_STATE n) 0).wr (F.CAD_TASKn_STAT_LOCKED n) 0).setTask n t).taskState k =
        if k = n then 0 else s.taskState k :=
      (taskState_setTask _ n k _).trans
        ((taskState_wr_other (s.wr (F.CAD_TASKn_STAT_STATE n) 0) k (f := F.CAD_TASKn_STAT_LOCKED n) (by norm_num) (by norm_num)).trans
          (taskState_set s n k (by decide)))
    rw [List.foldl_cons, ih, hstop]
    by_cases hk : k = n
    · simp [hk]
    · simp [hk]

theorem stopTasks_effect (s : State) : (∀ k, s.stopTasks.taskState k = 0) ∧ s.stopTasks.regGet R.CAD_START_STAT = s.regGet R.CAD_START_STAT := by
  unfold State.stopTasks
  refine ⟨fun k => by rw [stopEach_taskState, if_pos (mem_allTasks k)], ?_⟩
  have hoff : ∀ n : Fin 8, R.CAD_START_STAT ≠ R.CAD_TASKn_STAT n := by decide
  have hstop (t : State) (n : Fin 8) (x : Task) :
      (((t.wr (F.CAD_TASKn_STAT_STATE n) 0).wr (F.CAD_TASKn_STAT_LOCKED n) 0).setTask n x).regGet R.CAD_START_STAT = t.regGet R.CAD_START_STAT := by
    rw [regGet_setTask, regGet_wr_ne _ _ (hoff n), regGet_wr_ne _ _ (hoff n)]
  exact List.foldlRecOn (motive := fun t : State => t.regGet R.CAD_START_STAT = s.regGet R.CAD_START_STAT) _ _ rfl
    fun t h n _ => (hstop t n _).trans h

/-- A start of a bank: it is ACTIVE, no instance is POISONED, every task is STOPPED. -/
theorem startBank_effect (s : State) (b : Fin 2) (f : Nat → InstStart) :
    (s.startBank b f).bankState b = 3 ∧ (s.startBank b f).cad.poisoned = [] ∧ (∀ k, (s.startBank b f).taskState k = 0) ∧
      (s.startBank b f).regGet R.CAD_START_STAT = s.regGet R.CAD_START_STAT := by
  unfold State.startBank
  extract_lets gone lpe s1 s2 s3 s4 held cad s5
  obtain ⟨hstop, hstat⟩ : (∀ k, s1.taskState k = 0) ∧ s1.regGet R.CAD_START_STAT = s.regGet R.CAD_START_STAT := stopTasks_effect _
  have h4 : s2.KeepsAt StartReg s4 := by
    have h3 : s2.StartKeeps s3 := foldl_startKeeps fun t k _ => startKeeps_of rfl rfl
    have h34 : s3.StartKeeps s4 := foldl_startKeeps fun t i _ => startKeeps_of rfl rfl
    exact h3.1.trans h34.1
  have hend : s5.StartKeeps (s5.dropSigs gone).rebind := dropSigs_startKeeps.trans rebind_startKeeps
  have hall : s2.KeepsAt StartReg (s5.dropSigs gone).rebind := (h4.trans (keepsAt_of_regs (t := s5) rfl)).trans hend.1
  have hact := (activate_keeps s1 b).trans fun a ha => hall a ha.1
  refine ⟨(hall.bankState (by decide) b).trans (activate_active s1 b), hend.2, fun k => ?_, (hact _ ⟨by decide, by decide⟩).trans hstat⟩
  have hne : ∀ n : Fin 8, R.CAD_TASKn_STAT n ≠ R.CAD_BANK_STAT := by decide
  exact (hact.rd ⟨startReg_task k, hne k⟩).trans (hstop k)

/-! ## The two starts (R125 to R128) -/

theorem startDone_leaves (s : State) (r : Nat) : (s.wr F.CAD_START_STAT_RESULT r).Leaves StartReg (s.startDone r) :=
  have hraise : (s.wr F.CAD_START_STAT_RESULT r).Leaves StartReg ((s.wr F.CAD_START_STAT_RESULT r).raise .cad 9) := raise_leaves (by decide)
  ite_leaves (hraise.trans (err_leaves (by decide) (by decide))) hraise

theorem startDone_shows (s : State) {r : Nat} (hr : r < 16) :
    (s.startDone r).rd F.CAD_START_STAT_RESULT = r ∧ (s.startDone r).rd F.CAD_START_STAT_WARM = s.rd F.CAD_START_STAT_WARM ∧
      (∀ k, (s.startDone r).bankState k = s.bankState k) ∧ (∀ n, (s.startDone r).taskState n = s.taskState n) ∧ s.Spares (s.startDone r) := by
  have hdone := startDone_leaves s r
  have hset : s.Leaves (· ≠ R.CAD_START_STAT) (s.wr F.CAD_START_STAT_RESULT r) := wr_leaves fun h => h rfl
  have hne : ∀ n : Fin 8, R.CAD_TASKn_STAT n ≠ R.CAD_START_STAT := by decide
  refine ⟨?_, ?_, fun k => ?_, fun n => ?_, hset.spares.trans hdone.spares⟩
  · exact (hdone.rd (f := F.CAD_START_STAT_RESULT) (by decide)).trans ((rd_wr_same s _ r (by decide)).trans (Nat.mod_eq_of_lt hr))
  · exact (hdone.rd (f := F.CAD_START_STAT_WARM) (by decide)).trans (rd_wr_disjoint s r (by decide) (by decide) (.inr (by decide)))
  · exact (hdone.bankState (by decide) k).trans (hset.bankState (by decide) k)
  · exact (hdone.rd (f := F.CAD_TASKn_STAT_STATE n) (startReg_task n)).trans (hset.rd (f := F.CAD_TASKn_STAT_STATE n) (hne n))

theorem startDone_refused (s : State) {r : Nat} (h3 : 3 ≤ r) (hr : r < 16) : (s.startDone r).Erred .cad 0x87 r := by
  unfold State.startDone
  rw [if_pos h3]
  exact err_erred (by decide) (by omega)

/-- The tasks start after the bank: what a start then shows. -/
theorem start_shows (b : Nat) (tasks : BitVec 8) {r : Nat} (hr : r < 16) (hbank : s.bankState b = 3) (hpois : s.cad.poisoned = [])
    (htasks : ∀ k, s.taskState k = 0) :
    ((s.startTasks tasks).startDone r).bankState b = 3 ∧ ((s.startTasks tasks).startDone r).cad.poisoned = [] ∧
      ((s.startTasks tasks).startDone r).rd F.CAD_START_STAT_WARM = s.rd F.CAD_START_STAT_WARM ∧
      ((s.startTasks tasks).startDone r).rd F.CAD_START_STAT_RESULT = r ∧
      ∀ n : Fin 8, ((s.startTasks tasks).startDone r).taskState n = if tasks.getLsbD n.val then 1 else 0 := by
  obtain ⟨hkeep, hp⟩ := startTasks_keeps s tasks
  obtain ⟨hres, hwarm, hb, ht, hsp⟩ := startDone_shows (s.startTasks tasks) hr
  exact ⟨(hb b).trans ((hkeep.bankState (.inl rfl) b).trans hbank), (congrArg Cad.poisoned hsp.2.1).trans (hp.trans hpois),
    hwarm.trans (hkeep.rd (.inr rfl)), hres, fun n => (ht n).trans (startTasks_taskState tasks htasks n)⟩

/-- START_BANK names a bank. -/
theorem startBankNo_lt (s : State) : s.startBankNo < 2 := getBits_lt _ _ _

theorem coldStart_shows (s : State) (tasks : BitVec 8) {r : Nat} (hr : r < 16) :
    (s.coldStart tasks r).bankState s.startBankNo = 3 ∧ (s.coldStart tasks r).cad.poisoned = [] ∧
      (s.coldStart tasks r).rd F.CAD_START_STAT_WARM = s.rd F.CAD_START_STAT_WARM ∧ (s.coldStart tasks r).rd F.CAD_START_STAT_RESULT = r ∧
      ∀ n : Fin 8, (s.coldStart tasks r).taskState n = if tasks.getLsbD n.val then 1 else 0 := by
  obtain ⟨hbank, hpois, htasks, hstat⟩ := startBank_effect s ⟨s.startBankNo, startBankNo_lt s⟩
    fun i => { data := s.coldBytes s.startBankNo i }
  obtain ⟨h1, h2, h3, h4, h5⟩ := start_shows s.startBankNo tasks hr hbank hpois htasks
  exact ⟨h1, h2, h3.trans (rd_of_regGet hstat), h4, h5⟩

/-! ### A warm start -/

theorem taskOf_lt (s : State) (b fuel i : Nat) {n : Nat} (h : s.taskOf b fuel i = some n) : n < 8 := by
  induction fuel generalizing i with
  | zero => cases h
  | succ fuel ih =>
    unfold State.taskOf at h
    split at h
    · cases h
      exact Nat.mod_lt _ (by decide)
    · split at h
      · cases h
      · exact ih _ h

theorem convFlags_startKeeps {b i : Nat} {fl : Word} : s.StartKeeps (s.convFlags b i fl) := by
  have hoff : ∀ n : Fin 8, ¬StartReg (R.CAD_EXC_FLAGSn n) := by decide
  unfold State.convFlags
  split
  · exact startKeeps_refl s
  split
  · exact startKeeps_refl s
  · next n h => exact (regPut_leaves (hoff ⟨n, taskOf_lt s b _ i h⟩)).startKeeps

theorem mismEvents_startKeeps {b : Nat} {f : Nat → InstStart} : s.StartKeeps (s.mismEvents b f) := by
  refine foldl_startKeeps fun t x _ => ?_
  dsimp only
  split
  · exact startKeeps_refl t
  · exact event_startKeeps

/-- Reading the retained-data set touches no register of CAD. -/
theorem readSet_leaves (s : State) : s.Leaves OffBurst s.readSet.1 := by
  unfold State.readSet
  dsimp only
  split
  · next h => exact dmaRead_eq_leaves h
  next s1 hd h =>
  have h1 := dmaRead_eq_leaves h
  split_ifs
  · exact h1
  · exact h1
  · exact h1
  · exact h1
  split
  · next h2 => exact h1.trans (dmaRead_eq_leaves h2)
  next s2 x h2 =>
  have h12 := h1.trans (dmaRead_eq_leaves h2)
  split_ifs
  · exact h12
  · exact h12
  · exact h12

/-- The counts of a warm start. -/
def State.countStart (s : State) (cold kept conv : Nat) : State :=
  ((s.wr F.CAD_START_STAT_NCOLD cold).wr F.CAD_START_CNT_NKEEP kept).wr F.CAD_START_CNT_NCONV conv

theorem countStart_leaves (s : State) (cold kept conv : Nat) :
    s.Leaves (fun a => a ≠ R.CAD_START_STAT ∧ a ≠ R.CAD_START_CNT) (s.countStart cold kept conv) :=
  ((wr_leaves fun h => h.1 rfl).trans (wr_leaves fun h => h.2 rfl)).trans (wr_leaves fun h => h.2 rfl)

theorem countStart_warm (s : State) (cold kept conv : Nat) : (s.countStart cold kept conv).rd F.CAD_START_STAT_WARM = s.rd F.CAD_START_STAT_WARM :=
  ((rd_wr_ne _ _ (by decide)).trans (rd_wr_ne _ _ (by decide))).trans (rd_wr_disjoint s cold (by decide) (by decide) (.inl (by decide)))

/-- A warm start's mark is set before the set is read, which leaves it and START_BANK. -/
theorem warmSet_keeps (s : State) (h : (s.commitRetBase.wr F.CAD_START_STAT_WARM 1).Leaves OffBurst t) :
    t.startBankNo = s.startBankNo ∧ t.rd F.CAD_START_STAT_WARM = 1 := by
  have hcommit : s.Leaves (· = R.CAD_CFG) s.commitRetBase :=
    commit_leaves (fun f hf ha => by simp [ha] at hf) (by decide)
  have hmark : s.commitRetBase.Leaves (· = R.CAD_CFG) (s.commitRetBase.wr F.CAD_START_STAT_WARM 1) := wr_leaves (by decide)
  exact ⟨(h.rd (f := F.CAD_CFG_START_BANK) (offBurst_of (.inl (by decide)))).trans ((hcommit.trans hmark).rd rfl),
    (h.rd (f := F.CAD_START_STAT_WARM) (offBurst_of (.inl (by decide)))).trans (rd_wr_same _ _ _ (by decide))⟩

/-- A set that cannot be read or is damaged gives a cold start. -/
theorem warmStart_bad (s : State) (tasks : BitVec 8) {w : Nat} (h : (s.commitRetBase.wr F.CAD_START_STAT_WARM 1).readSet = (t, .error w)) :
    s.warmStart tasks = ((t.countStart 0 0 0).event .cad 0x20 5 (if w = 7 then 2 else 1) w 0 0).coldStart tasks (if w = 7 then 2 else 1) := by
  unfold State.warmStart
  simp only [h]
  rfl

/-- A start from the set `x`: the bank's instances, their conversions' flags, the counts and events. -/
def State.warmBank (s : State) (b : Nat) (x : List Byte) : State :=
  let f (i : Nat) : InstStart := s.warmInst b x i
  let is := upto (s.nInst b)
  ((is.foldl (fun s i => s.convFlags b i (f i).flags) (s.startBank b f)).countStart
    (min 0xFFFF (is.filter fun i => (f i).mism.isSome).length) (min 0xFFFF (is.filter fun i => (f i).kept).length)
    (min 0xFFFF (is.filter fun i => (f i).conv).length)).mismEvents b f

theorem warmStart_good (s : State) (tasks : BitVec 8) {x : List Byte} (h : (s.commitRetBase.wr F.CAD_START_STAT_WARM 1).readSet = (t, .ok x)) :
    s.warmStart tasks = ((t.warmBank (s.commitRetBase.wr F.CAD_START_STAT_WARM 1).startBankNo x).startTasks tasks).startDone 0 := by
  unfold State.warmStart
  simp only [h]
  rfl

theorem warmBank_effect (s : State) (b : Fin 2) (x : List Byte) :
    (s.warmBank b x).bankState b = 3 ∧ (s.warmBank b x).cad.poisoned = [] ∧ (∀ k, (s.warmBank b x).taskState k = 0) ∧
      (s.warmBank b x).rd F.CAD_START_STAT_WARM = s.rd F.CAD_START_STAT_WARM := by
  unfold State.warmBank
  extract_lets f is
  obtain ⟨hbank, hpois, htasks, hstat⟩ := startBank_effect s b f
  have hconv : (s.startBank b f).StartKeeps (is.foldl (fun s i => s.convFlags b i (f i).flags) (s.startBank b f)) :=
    foldl_startKeeps fun t i _ => convFlags_startKeeps
  generalize is.foldl (fun s i => s.convFlags b i (f i).flags) (s.startBank b f) = s3 at hconv ⊢
  generalize min 0xFFFF (is.filter fun i => (f i).mism.isSome).length = cold
  generalize min 0xFFFF (is.filter fun i => (f i).kept).length = kept
  generalize min 0xFFFF (is.filter fun i => (f i).conv).length = conv
  have hcount := countStart_leaves s3 cold kept conv
  have hev : (s3.countStart cold kept conv).StartKeeps ((s3.countStart cold kept conv).mismEvents b f) := mismEvents_startKeeps
  have hne : ∀ n : Fin 8, R.CAD_TASKn_STAT n ≠ R.CAD_START_STAT ∧ R.CAD_TASKn_STAT n ≠ R.CAD_START_CNT := by decide
  refine ⟨?_, hev.2.trans ((congrArg Cad.poisoned hcount.cad).trans (hconv.2.trans hpois)), fun k => ?_, ?_⟩
  · exact (hev.1.bankState (by decide) b).trans ((hcount.bankState (by decide) b).trans ((hconv.1.bankState (by decide) b).trans hbank))
  · exact (hev.1.rd (f := F.CAD_TASKn_STAT_STATE k) (startReg_task k)).trans
      ((hcount.rd (f := F.CAD_TASKn_STAT_STATE k) (hne k)).trans ((hconv.1.rd (f := F.CAD_TASKn_STAT_STATE k) (startReg_task k)).trans (htasks k)))
  · exact (hev.1.rd (f := F.CAD_START_STAT_WARM) (by decide)).trans
      ((countStart_warm s3 cold kept conv).trans ((hconv.1.rd (f := F.CAD_START_STAT_WARM) (by decide)).trans (rd_of_regGet hstat)))

theorem warmStart_shows (s : State) (tasks : BitVec 8) :
    (s.warmStart tasks).bankState s.startBankNo = 3 ∧ (s.warmStart tasks).cad.poisoned = [] ∧
      (s.warmStart tasks).rd F.CAD_START_STAT_WARM = 1 ∧ (s.warmStart tasks).rd F.CAD_START_STAT_RESULT ≤ 2 ∧
      ∀ n : Fin 8, (s.warmStart tasks).taskState n = if tasks.getLsbD n.val then 1 else 0 := by
  have hread := readSet_leaves (s.commitRetBase.wr F.CAD_START_STAT_WARM 1)
  rcases h : (s.commitRetBase.wr F.CAD_START_STAT_WARM 1).readSet with ⟨t, w | x⟩
  · rw [h] at hread
    obtain ⟨hno, hwarm⟩ := warmSet_keeps s hread
    have hcount := countStart_leaves t 0 0 0
    have hev (r : Nat) : (t.countStart 0 0 0).Leaves (fun a => blkAt a ≠ some .evr) ((t.countStart 0 0 0).event .cad 0x20 5 r w 0 0) :=
      event_leaves fun _ ha => ha
    have hr : (if w = 7 then 2 else 1) ≤ 2 := by split <;> decide
    rw [warmStart_bad s tasks h]
    obtain ⟨hbank, hpois, hw, hres, htasks⟩ := coldStart_shows ((t.countStart 0 0 0).event .cad 0x20 5 (if w = 7 then 2 else 1) w 0 0) tasks
      (r := if w = 7 then 2 else 1) (by omega)
    have hno' : ((t.countStart 0 0 0).event .cad 0x20 5 (if w = 7 then 2 else 1) w 0 0).startBankNo = s.startBankNo :=
      ((hev _).rd (f := F.CAD_CFG_START_BANK) (by decide)).trans ((hcount.rd (f := F.CAD_CFG_START_BANK) (by decide)).trans hno)
    rw [hno'] at hbank
    exact ⟨hbank, hpois, hw.trans (((hev _).rd (f := F.CAD_START_STAT_WARM) (by decide)).trans ((countStart_warm t 0 0 0).trans hwarm)),
      hres.trans_le hr, htasks⟩
  · rw [h] at hread
    obtain ⟨-, hwarm⟩ := warmSet_keeps s hread
    obtain ⟨hno, -⟩ := warmSet_keeps s (leaves_refl (s.commitRetBase.wr F.CAD_START_STAT_WARM 1))
    rw [warmStart_good s tasks h, hno]
    obtain ⟨hbank, hpois, htasks, hw⟩ := warmBank_effect t ⟨s.startBankNo, startBankNo_lt s⟩ x
    obtain ⟨h1, h2, h3, h4, h5⟩ := start_shows s.startBankNo tasks (r := 0) (by decide) hbank hpois htasks
    exact ⟨h1, h2, h3.trans (hw.trans hwarm), by rw [h4]; decide, h5⟩

/-! ### The commands -/

/-- A command recorded for the partner: of the state the reply and TDM's differ. -/
theorem paired_state (s : State) (e : TdmEntry) : ∃ x, (s.reply 0).emit e = { s.reply 0 with tdm := x } := emit_eq (s.reply 0) e

theorem startRefusal_range (s : State) (h : s.startRefusal ≠ 0) : 3 ≤ s.startRefusal ∧ s.startRefusal < 16 := by
  unfold State.startRefusal at h ⊢
  split_ifs at h ⊢
  · decide
  · decide
  · decide
  · exact absurd rfl h

theorem coldStart_exec (h : s.MayWrite m .cad R.CAD_START) (hf : s.following = false) (tasks : BitVec 8) :
    ∃ x, exec (.coldStart m tasks) s = .next (({ s.reply 0 with tdm := x } : State).coldStartCmd tasks) := by
  obtain ⟨x, hx⟩ := paired_state s (.cmd R.CAD_START (BitVec.ofNat 32 (256 * tasks.toNat + 2 ^ 31)))
  exact ⟨x, congrArg Host.Outcome.next ((gatePair_open h hf _).trans (congrArg (State.coldStartCmd · tasks) hx))⟩

theorem warmStart_exec (h : s.MayWrite m .cad R.CAD_START) (hf : s.following = false) (tasks : BitVec 8) :
    ∃ x, exec (.warmStart m tasks) s = .next (({ s.reply 0 with tdm := x } : State).warmStartCmd tasks) := by
  obtain ⟨x, hx⟩ := paired_state s (.cmd R.CAD_START (BitVec.ofNat 32 (1 + 256 * tasks.toNat + 2 ^ 31)))
  exact ⟨x, congrArg Host.Outcome.next ((gatePair_open h hf _).trans (congrArg (State.warmStartCmd · tasks) hx))⟩

/-- A refused start on a state that shows the same as `s`. -/
theorem start_refused (hspares : s.Spares t) (hregs : t.regs = s.regs) (hr : t.startRefusal = s.startRefusal) (h0 : s.startRefusal ≠ 0) :
    s.Spares (t.startDone t.startRefusal) ∧ (t.startDone t.startRefusal).rd F.CAD_START_STAT_RESULT = s.startRefusal ∧
      (t.startDone t.startRefusal).Erred .cad 0x87 s.startRefusal ∧ ∀ n, (t.startDone t.startRefusal).taskState n = s.taskState n := by
  obtain ⟨h3, hlt⟩ := startRefusal_range s h0
  rw [hr]
  obtain ⟨hres, -, -, htasks, hsp⟩ := startDone_shows t hlt
  exact ⟨hspares.trans hsp, hres, startDone_refused t h3 hlt, fun n => (htasks n).trans (rd_congr hregs _)⟩

theorem instCmd_exec (h : s.MayWrite m .cad R.CAD_INST_CMD) (hf : s.following = false) (inst : BitVec 16) (op : Nat) :
    (s.instCmd m inst op).cad = { s.cad with instCmds := s.cad.instCmds ++ [(inst.toNat, op)] } ∧ (s.instCmd m inst op).mem = s.mem ∧
      (s.instCmd m inst op).regs = s.regs := by
  obtain ⟨x, hx⟩ := paired_state s (.cmd R.CAD_INST_CMD (BitVec.ofNat 32 (inst.toNat + 2 ^ 16 * op + 2 ^ 31)))
  unfold State.instCmd
  rw [gatePair_open h hf]
  dsimp only
  rw [hx]
  exact ⟨rfl, rfl, rfl⟩

/-! ## Exception counts and flags (R112) -/

/-- A field of the flags register: a bit that a write of 1 clears, or one that only commands. -/
def FlagField (f : FieldSpec) : Prop := ∃ k < 32, f = ⟨k, k, .w1c, false, 0⟩ ∨ f = ⟨k, k, .wo, false, 0⟩

/-- Bit `k` is the one that a write of 1 to the field clears. -/
def clears (f : FieldSpec) (k : Nat) : Bool := f.cls == .w1c && f.lo == k

theorem getLsbD_andNot_mask (x v : Word) {lo k : Nat} (hlo : lo < 32) (hk : k < 32) :
    (x &&& ~~~(v &&& maskBits lo 1)).getLsbD k = (x.getLsbD k && !(decide (lo = k) && v.getLsbD k)) := by
  rw [BitVec.getLsbD_and, BitVec.getLsbD_not, BitVec.getLsbD_and, maskBits_getLsbD lo 1 k (by omega)]
  have hbit : (decide (lo ≤ k) && decide (k < lo + 1)) = decide (lo = k) := by
    rw [← Bool.decide_and, decide_eq_decide]
    omega
  rw [hbit, decide_eq_true hk, Bool.true_and, Bool.and_comm (v.getLsbD k)]

/-- A flag written: its bit goes where the word has a 1. -/
theorem writeField_flag (s : State) {a : Nat} {f : FieldSpec} (hf : FlagField f) (ha : a ≠ R.BLK_IRQ_RAW .cad) (v : Word) :
    s.Leaves (· ≠ a) (s.writeField m .cad a f v).1 ∧
      ∀ k < 32, ((s.writeField m .cad a f v).1.regGet a).getLsbD k = ((s.regGet a).getLsbD k && !(clears f k && v.getLsbD k)) := by
  obtain ⟨lo, hlo, rfl | rfl⟩ := hf
  · by_cases hx : getBits v lo 1 = 0
    · have hsame : s.writeField m .cad a ⟨lo, lo, .w1c, false, 0⟩ v = (s, 0) := by simp [State.writeField, hx]
      have hbit : v.getLsbD lo = false := by
        have hz := getBits_testBit v lo 1 0
        rw [hx] at hz
        simpa using hz.symm
      rw [hsame]
      refine ⟨leaves_refl s, fun k _ => ?_⟩
      by_cases hk : lo = k
      · simp [clears, ← hk, hbit]
      · simp [clears, hk]
    · have hput : s.writeField m .cad a ⟨lo, lo, .w1c, false, 0⟩ v = (s.regPut a (s.regGet a &&& ~~~(v &&& maskBits lo 1)), 0) := by
        simp [State.writeField, hx, ha]
      rw [hput]
      refine ⟨regPut_leaves fun h => h rfl, fun k hk => ?_⟩
      rw [regGet_regPut_same, getLsbD_andNot_mask _ _ hlo hk]
      rfl
  · exact ⟨leaves_refl s, fun k _ => by simp [State.writeField, clears]⟩

/-- A word written to a register of flags. -/
theorem writeFields_flags (s : State) {a : Nat} {fs : List FieldSpec} (hf : ∀ f ∈ fs, FlagField f) (ha : a ≠ R.BLK_IRQ_RAW .cad) (v : Word)
    (c : Nat) :
    s.Leaves (· ≠ a) (s.writeFields m .cad a v fs c).1 ∧ ∀ k < 32,
      ((s.writeFields m .cad a v fs c).1.regGet a).getLsbD k = ((s.regGet a).getLsbD k && !(fs.any (clears · k) && v.getLsbD k)) := by
  induction fs generalizing s c with
  | nil => exact ⟨leaves_refl s, fun k _ => by simp [State.writeFields]⟩
  | cons f fs ih =>
    obtain ⟨hone, hbit⟩ := writeField_flag (m := m) s (hf f List.mem_cons_self) ha v
    obtain ⟨hrest, hbits⟩ := ih (s.writeField m .cad a f v).1 (fun g hg => hf g (List.mem_cons_of_mem f hg)) _
    refine ⟨hone.trans hrest, fun k hk => (hbits k hk).trans ?_⟩
    rw [hbit k hk, List.any_cons]
    cases clears f k <;> cases fs.any (clears · k) <;> cases v.getLsbD k <;> simp

theorem fieldsAt_excFlags (n : Fin 8) : fieldsAt (R.CAD_EXC_FLAGSn n) =
    [0, 1, 2, 3, 4, 5, 8, 9, 10].map (fun k => (⟨k, k, .w1c, false, 0⟩ : FieldSpec)) ++ [⟨31, 31, .wo, false, 0⟩] := by
  revert n; decide

/-- A write of the flags with CNT_CLR. -/
theorem excCntClr_yields (n : Fin 8) (v : BitVec 31) (h : s.MayWrite m .cad (R.CAD_EXC_FLAGSn n)) :
    s.Yields (.excCntClr m n v) fun t => s.Spares t ∧ t.rd (F.CAD_EXC_CNTn_COUNT n) = 0 ∧
      ∀ k ∈ [0, 1, 2, 3, 4, 5, 8, 9, 10],
        (t.regGet (R.CAD_EXC_FLAGSn n)).getLsbD k = ((s.regGet (R.CAD_EXC_FLAGSn n)).getLsbD k && !v.getLsbD k) := by
  have hraw : ∀ n : Fin 8, R.CAD_EXC_FLAGSn n ≠ R.BLK_IRQ_RAW .cad ∧ R.CAD_EXC_FLAGSn n ≠ R.CAD_EXC_CNTn n := by decide
  have hall : ∀ f ∈ fieldsAt (R.CAD_EXC_FLAGSn n), FlagField f := by
    rw [fieldsAt_excFlags]
    intro f hf
    rcases List.mem_append.mp hf with hf | hf
    · obtain ⟨k, hk, rfl⟩ := List.mem_map.mp hf
      have hlt : ∀ k ∈ [0, 1, 2, 3, 4, 5, 8, 9, 10], k < 32 := by decide
      exact ⟨k, hlt k hk, .inl rfl⟩
    · obtain rfl := List.mem_singleton.mp hf
      exact ⟨31, by decide, .inr rfl⟩
  obtain ⟨hleaves, hbits⟩ := writeFields_flags (m := m) (s.reply 0) hall (hraw n).1 (v.setWidth 32) 0
  refine ⟨_, congrArg Host.Outcome.next (gate_open h.1 _ h.2), ?_, ?_, fun k hk => ?_⟩
  · exact hleaves.spares.trans ⟨rfl, rfl, rfl⟩
  · exact (rd_wr_same _ _ 0 (by norm_num)).trans (Nat.zero_mod _)
  · have hk32 : ∀ k ∈ [0, 1, 2, 3, 4, 5, 8, 9, 10], k < 32 := by decide
    have hclear : (fieldsAt (R.CAD_EXC_FLAGSn n)).any (clears · k) = true := by
      rw [fieldsAt_excFlags]
      revert k
      decide
    refine (congrArg (BitVec.getLsbD · k) (regGet_wr_ne _ (f := F.CAD_EXC_CNTn_COUNT n) 0 (hraw n).2)).trans ?_
    refine (hbits k (hk32 k hk)).trans ?_
    rw [hclear, Bool.true_and, BitVec.getLsbD_setWidth, decide_eq_true (hk32 k hk), Bool.true_and]
    rfl

/-- Settles O21: by what the two starts show, and by the commands that wait and the counts that are cleared. -/
theorem startsAndInstanceCommands : Obligations.StartsAndInstanceCommands := by
  intro m s
  refine ⟨fun hmay hf tasks => ?_, fun hmay hf inst => ⟨?_, ?_⟩, fun n v hmay => excCntClr_yields n v hmay⟩
  · intro started refused
    obtain ⟨x, hcold⟩ := coldStart_exec hmay hf tasks
    obtain ⟨y, hwarm⟩ := warmStart_exec hmay hf tasks
    refine ⟨fun h0 => ⟨?_, ?_⟩, fun h0 => ⟨?_, ?_⟩⟩
    · have hgo : ({ s.reply 0 with tdm := x } : State).coldStartCmd tasks =
          (({ s.reply 0 with tdm := x } : State).wr F.CAD_START_STAT_WARM 0).coldStart tasks 0 := if_neg (not_not.mpr h0)
      rw [hgo] at hcold
      obtain ⟨hbank, hpois, hw, hres, htasks⟩ := coldStart_shows (({ s.reply 0 with tdm := x } : State).wr F.CAD_START_STAT_WARM 0) tasks
        (r := 0) (by decide)
      have hno : (({ s.reply 0 with tdm := x } : State).wr F.CAD_START_STAT_WARM 0).startBankNo = s.startBankNo :=
        (rd_wr_ne _ _ (by decide)).trans (rd_congr rfl _)
      rw [hno] at hbank
      exact ⟨_, hcold, hbank, hpois, hw.trans (rd_wr_same _ _ _ (by decide)), hres, htasks⟩
    · have hgo : ({ s.reply 0 with tdm := y } : State).warmStartCmd tasks = ({ s.reply 0 with tdm := y } : State).warmStart tasks :=
        if_neg (not_not.mpr h0)
      rw [hgo] at hwarm
      exact ⟨_, hwarm, warmStart_shows ({ s.reply 0 with tdm := y } : State) tasks⟩
    · have hgo : ({ s.reply 0 with tdm := x } : State).coldStartCmd tasks = ({ s.reply 0 with tdm := x } : State).startDone s.startRefusal :=
        if_pos h0
      rw [hgo] at hcold
      exact ⟨_, hcold, start_refused (t := { s.reply 0 with tdm := x }) ⟨rfl, rfl, rfl⟩ rfl rfl h0⟩
    · have hgo : ({ s.reply 0 with tdm := y } : State).warmStartCmd tasks = ({ s.reply 0 with tdm := y } : State).startDone s.startRefusal :=
        if_pos h0
      rw [hgo] at hwarm
      exact ⟨_, hwarm, start_refused (t := { s.reply 0 with tdm := y }) ⟨rfl, rfl, rfl⟩ rfl rfl h0⟩
  · exact ⟨_, rfl, instCmd_exec hmay hf inst 1⟩
  · exact ⟨_, rfl, instCmd_exec hmay hf inst 2⟩

end Sys2Proof.Machine
end

/-! # Task cycles: overrun, start, publication (O19) -/

section
namespace Sys2Proof.Machine

variable {s t u : State} {n k : Fin 8}

theorem taskState_congr (h : t.regs = s.regs) (k : Fin 8) : t.taskState k = s.taskState k := rd_congr h _

theorem task_congr (h : t.cad.tasks = s.cad.tasks) (n : Fin 8) : t.task n = s.task n := by
  unfold State.task
  rw [h]

theorem taskStat_notEvr (k : Fin 8) : blkAt (R.CAD_TASKn_STAT k) ≠ some .evr := by revert k; decide

/-! ## Overruns (R118 to R120) -/

/-- The marks of an overrun in the task's registers. -/
def State.overrunMarks (s : State) (n : Fin 8) : State := ((s.incSat (F.CAD_TASKn_STAT_OVR n)).wr (F.CAD_TASKn_STAT_LATE n) 1).raise .cad 7

theorem overrunMarks_effect (s : State) (n : Fin 8) :
    s.Leaves (fun a => a ≠ R.CAD_TASKn_STAT n ∧ a ≠ R.BLK_IRQ_RAW .cad) (s.overrunMarks n) ∧
      (s.overrunMarks n).rd (F.CAD_TASKn_STAT_OVR n) = satInc 0xFFFF (s.rd (F.CAD_TASKn_STAT_OVR n)) ∧
      (s.overrunMarks n).bit (F.CAD_TASKn_STAT_LATE n) = true ∧ (s.overrunMarks n).Caused .cad 7 ∧
      ∀ k, (s.overrunMarks n).taskState k = s.taskState k := by
  have hraw : ∀ n : Fin 8, R.CAD_TASKn_STAT n ≠ R.BLK_IRQ_RAW .cad := by decide
  have hraise {f : Fld} (hf : f.addr = R.CAD_TASKn_STAT n) : (s.overrunMarks n).rd f =
      ((s.incSat (F.CAD_TASKn_STAT_OVR n)).wr (F.CAD_TASKn_STAT_LATE n) 1).rd f := rd_of_regGet (regGet_raise_ne (hf ▸ hraw n))
  have hsat : satInc 0xFFFF (s.rd (F.CAD_TASKn_STAT_OVR n)) < 2 ^ 16 := by
    unfold satInc
    split <;> omega
  refine ⟨((wr_leaves fun h => h.1 rfl).trans (wr_leaves fun h => h.1 rfl)).trans (raise_leaves fun h => h.2 rfl), ?_, ?_,
    raise_caused (by decide), fun k => ?_⟩
  · exact (hraise rfl).trans ((rd_wr_disjoint _ _ (by norm_num) (by norm_num) (.inr (by norm_num))).trans
      ((rd_wr_same s _ _ (by norm_num)).trans (Nat.mod_eq_of_lt hsat)))
  · have hlate : (s.overrunMarks n).rd (F.CAD_TASKn_STAT_LATE n) = 1 % 2 ^ 1 := (hraise rfl).trans (rd_wr_same _ _ _ (by norm_num))
    exact congrArg (· != 0) hlate
  · have hovr : (s.incSat (F.CAD_TASKn_STAT_OVR n)).taskState k = s.taskState k := taskState_wr_other s k (by norm_num) (by norm_num)
    have hlate : ((s.incSat (F.CAD_TASKn_STAT_OVR n)).wr (F.CAD_TASKn_STAT_LATE n) 1).taskState k = (s.incSat (F.CAD_TASKn_STAT_OVR n)).taskState k :=
      taskState_wr_other _ k (by norm_num) (by norm_num)
    exact (rd_of_regGet (regGet_raise_ne (hraw k))).trans (hlate.trans hovr)

/-- Beside its marks an overrun changes the task's own record and may send an event. -/
theorem overrun_tail (s : State) (n : Fin 8) :
    (s.overrunMarks n).KeepsAt (blkAt · ≠ some .evr) (s.overrun n) ∧ (s.overrun n).mem = s.mem ∧
      (s.overrun n).cad.ringSupplied = s.cad.ringSupplied ∧ ∀ k, k ≠ n → (s.overrun n).task k = s.task k := by
  obtain ⟨hmarks, -⟩ := overrunMarks_effect s n
  have hset (x : Task) : (s.overrunMarks n).KeepsAt (blkAt · ≠ some .evr) ((s.overrunMarks n).setTask n x) ∧
      ((s.overrunMarks n).setTask n x).mem = s.mem ∧ ((s.overrunMarks n).setTask n x).cad.ringSupplied = s.cad.ringSupplied ∧
      ∀ k, k ≠ n → ((s.overrunMarks n).setTask n x).task k = s.task k :=
    ⟨keepsAt_of_regs rfl, hmarks.mem, (congrArg Cad.ringSupplied hmarks.cad : (s.overrunMarks n).cad.ringSupplied = _),
      fun k hk => (task_setTask_ne _ x hk).trans (task_congr (congrArg Cad.tasks hmarks.cad) k)⟩
  unfold State.overrun
  dsimp only
  split
  · next =>
    obtain ⟨hr, hm, hring, htask⟩ := hset _
    exact ⟨hr.trans (event_leaves fun _ h => h).keepsAt, (event_mem ..).trans hm, (congrArg Cad.ringSupplied (event_cad ..)).trans hring,
      fun k hk => (task_congr (congrArg Cad.tasks (event_cad ..)) k).trans (htask k hk)⟩
  · exact hset _

/-- A cause set is set in what keeps the block's page. -/
theorem State.KeepsAt.caused {A : Nat → Prop} {b : Blk} {i : Nat} (h : s.KeepsAt A t) (hc : A (R.BLK_CTRL b)) (hr : A (R.BLK_IRQ_RAW b))
    (hs : s.Caused b i) : t.Caused b i := by
  intro hf
  rw [h _ hr]
  refine hs ?_
  unfold State.frozen State.bit at hf ⊢
  rwa [h.rd hc] at hf

/-- An overrun counted, with the start that STRETCH owes. -/
theorem overrun_yields (hlive : s.Live .cad) (hruns : s.runs .cad = true) (hf : s.following = false) (hnow : s.overrunNow n = true) :
    s.Yields (.overrun n) fun t => t.rd (F.CAD_TASKn_STAT_OVR n) = satInc 0xFFFF (s.rd (F.CAD_TASKn_STAT_OVR n)) ∧
      t.bit (F.CAD_TASKn_STAT_LATE n) = true ∧ t.Caused .cad 7 ∧
      (s.bit (F.CAD_TASKn_CFG_POLICY n) = true → s.ringTask n = false → (t.task n).owed = true) ∧ t.mem = s.mem ∧
      (∀ k, t.taskState k = s.taskState k) ∧ ∀ k, k ≠ n → t.task k = s.task k := by
  obtain ⟨hmarks, hovr, hlate, hcaused, hstates⟩ := overrunMarks_effect s n
  obtain ⟨htail, hmem, hring, htasks⟩ := overrun_tail s n
  have hexec : exec (.overrun n) s = .next (if (s.overrun n).bit (F.CAD_TASKn_CFG_POLICY n) && !(s.overrun n).ringTask n
      then (s.overrun n).setTask n { (s.overrun n).task n with owed := true } else s.overrun n) := by
    change execOverrun n s = _
    rw [execOverrun, whileLive_live hlive, if_neg (by simp [hruns, hf, hnow])]
  have hoff : ∀ n : Fin 8, ∀ a ∈ [R.CAD_TASKn_CFG n, R.CAD_TASKn_CFG 0], ∀ k : Fin 8, blkAt a ≠ some .evr ∧ a ≠ R.CAD_TASKn_STAT k ∧
      a ≠ R.BLK_IRQ_RAW .cad := by decide
  have hcfg {f : Fld} (hfld : f.addr ∈ [R.CAD_TASKn_CFG n, R.CAD_TASKn_CFG 0]) : (s.overrun n).bit f = s.bit f := by
    obtain ⟨he, hs, hr⟩ := hoff n f.addr hfld n
    exact congrArg (· != 0) ((htail.rd he).trans (hmarks.rd ⟨hs, hr⟩))
  have hringTask : (s.overrun n).ringTask n = s.ringTask n := by
    unfold State.ringTask
    rw [hcfg (by simp), hring]
  rw [hcfg (by simp), hringTask] at hexec
  have hshown {v : State} (hv : (s.overrun n).KeepsAt (fun _ => True) v) :
      v.rd (F.CAD_TASKn_STAT_OVR n) = satInc 0xFFFF (s.rd (F.CAD_TASKn_STAT_OVR n)) ∧ v.bit (F.CAD_TASKn_STAT_LATE n) = true ∧ v.Caused .cad 7 ∧ ∀ k, v.taskState k = s.taskState k := by
    have hall : (s.overrunMarks n).KeepsAt (blkAt · ≠ some .evr) v := htail.trans fun a _ => hv a trivial
    exact ⟨(hall.rd (taskStat_notEvr n)).trans hovr, (congrArg (· != 0) (hall.rd (taskStat_notEvr n))).trans hlate,
      hall.caused (by decide) (by decide) hcaused, fun k => (hall.rd (taskStat_notEvr k)).trans (hstates k)⟩
  refine ⟨_, hexec, ?_⟩
  split
  · obtain ⟨h1, h2, h3, h4⟩ := hshown (v := (s.overrun n).setTask n { (s.overrun n).task n with owed := true }) (keepsAt_of_regs rfl)
    exact ⟨h1, h2, h3, fun _ _ => by rw [task_setTask_same], hmem, h4, fun k hk => (task_setTask_ne _ _ hk).trans (htasks k hk)⟩
  · next hc =>
    obtain ⟨h1, h2, h3, h4⟩ := hshown (keepsAt_refl (s.overrun n))
    exact ⟨h1, h2, h3, fun hp hr => absurd (by simp [hp, hr]) hc, hmem, h4, htasks⟩

/-! ## The start of a cycle (R115) -/

/-- What a task's record holds of the cycle it begins: start, Δ, sticky flags, fault, posts and exceptions. -/
def Task.cycle (x : Task) : Nat × Nat × Word × Bool × List Post × List Exc := (x.start, x.delta, x.flags, x.faulted, x.posts, x.excs)

/-- A step of the start of task `n`'s cycle keeps every task's state, what `n` holds of its cycle, and the forces as applied. -/
def State.StartStep (n : Fin 8) (s t : State) : Prop :=
  (∀ k, t.taskState k = s.taskState k) ∧ (t.task n).cycle = (s.task n).cycle ∧ t.cad.applied = s.cad.applied ∧ t.cad.forceChg = s.cad.forceChg

theorem startStep_refl (s : State) : s.StartStep n s := ⟨fun _ => rfl, rfl, rfl, rfl⟩

theorem State.StartStep.trans (h : s.StartStep n t) (h' : t.StartStep n u) : s.StartStep n u := by
  obtain ⟨hst, hcyc, happ, hchg⟩ := h
  obtain ⟨hst', hcyc', happ', hchg'⟩ := h'
  exact ⟨fun k => (hst' k).trans (hst k), hcyc'.trans hcyc, happ'.trans happ, hchg'.trans hchg⟩

theorem startStep_of (hr : ∀ k, t.taskState k = s.taskState k) (hc : t.cad = s.cad) : s.StartStep n t :=
  ⟨hr, by unfold State.task; rw [hc], by rw [hc], by rw [hc]⟩

theorem foldl_startStep {α : Type} {f : State → α → State} {l : List α} (hf : ∀ t : State, ∀ x ∈ l, t.StartStep n (f t x)) :
    s.StartStep n (l.foldl f s) :=
  foldl_relates startStep_refl State.StartStep.trans hf

/-- A task's record replaced by one of the same cycle. -/
theorem setTask_startStep {m : Fin 8} {x : Task} (h : x.cycle = (s.task m).cycle) : s.StartStep n (s.setTask m x) := by
  refine ⟨taskState_congr rfl, ?_, rfl, rfl⟩
  by_cases hm : n = m
  · subst hm
    rw [task_setTask_same, h]
  · rw [task_setTask_ne _ _ hm]

theorem serves_startStep (h : s.Serves t) : s.StartStep n t := by
  obtain ⟨⟨ctx, tasks, rfl⟩, htask⟩ := h
  obtain ⟨_, _, _, _, _, ht⟩ := htask n
  exact ⟨taskState_congr rfl, by rw [ht]; rfl, rfl, rfl⟩

theorem raise_taskState {i : Nat} (k : Fin 8) : (s.raise .cad i).taskState k = s.taskState k := by
  have hne : ∀ k : Fin 8, R.CAD_TASKn_STAT k ≠ R.BLK_IRQ_RAW .cad := by decide
  exact rd_of_regGet (regGet_raise_ne (hne k))

theorem raise_startStep {i : Nat} : s.StartStep n (s.raise .cad i) := startStep_of raise_taskState (raise_cad ..)

theorem preempt_serves (s : State) (n : Fin 8) : s.Serves (s.preempt n) := by
  refine List.foldlRecOn (motive := fun t : State => s.Serves t) _ _ (serves_refl s) fun t ht c _ => ?_
  dsimp only
  split
  · exact ht.trans (setTask_serves.trans setCtx_serves)
  · exact ht

theorem applyInst_startStep {i op : Nat} : s.StartStep n (s.applyInst n i op) := by
  unfold State.applyInst
  extract_lets b s1 left x s2
  have h1 : s.StartStep n s1 := by
    unfold s1
    split
    · exact startStep_of (taskState_congr rfl) rfl
    · exact startStep_refl s
  have h2 : s1.StartStep n s2 := setTask_startStep rfl
  exact (h1.trans h2).trans ⟨taskState_congr rfl, rfl, rfl, rfl⟩

theorem applyInstCmds_startStep : s.StartStep n (s.applyInstCmds n) := by
  have hdrop (c : List (Nat × Nat)) : s.StartStep n { s with cad := { s.cad with instCmds := c } } := ⟨taskState_congr rfl, rfl, rfl, rfl⟩
  exact (hdrop _).trans (foldl_startStep fun t c _ => applyInst_startStep)

theorem lockAtStart_startStep {ring was : Bool} : s.StartStep n (s.lockAtStart ring was) := by
  have hlocked (x : Nat) : s.StartStep n (s.wr (F.CAD_TASKn_STAT_LOCKED 0) x) :=
    startStep_of (fun k => taskState_wr_other s k (by norm_num) (by norm_num)) rfl
  have hraise {c : Bool} {v : State} (h : s.StartStep n v) : s.StartStep n (if c then v.raise .cad 8 else v) := by
    split
    · exact h.trans raise_startStep
    · exact h
  unfold State.lockAtStart
  dsimp only
  split
  · exact hraise ((hlocked 1).trans (setTask_startStep rfl))
  split
  · exact hraise ((hlocked 0).trans (setTask_startStep rfl))
  · exact setTask_startStep rfl

theorem takeSnapshot_startStep : s.StartStep n (s.takeSnapshot n) := by
  refine foldl_startStep fun t k _ => ?_
  dsimp only
  split
  · exact startStep_refl t
  · exact startStep_of (taskState_congr rfl) rfl

/-- Forces take effect and the task's RWS fields are committed: no task changes. -/
theorem commitStart_effect (s : State) (n : Fin 8) :
    (∀ k, (s.applyForces.commit .cad (taskFld n)).taskState k = s.taskState k) ∧
      (s.applyForces.commit .cad (taskFld n)).cad = { s.cad with applied := s.cad.forces.filterMap Prod.snd, forceChg := [], forcePend := [] } := by
  have hoff : ∀ n k : Fin 8, R.CAD_TASKn_STAT k ≠ R.CAD_FORCE_STAT ∧ R.CAD_TASKn_STAT k ≠ R.BLK_STAT .cad ∧
      R.CAD_TASKn_STAT k ≠ R.CAD_TASKn_PERIOD n ∧ R.CAD_TASKn_STAT k ≠ R.CAD_TASKn_PHASE n ∧
      R.CAD_TASKn_STAT k ≠ R.CAD_TASKn_CFG n := by decide
  have hcommit : s.applyForces.Leaves (fun a => ∃ k : Fin 8, a = R.CAD_TASKn_STAT k) (s.applyForces.commit .cad (taskFld n)) := by
    refine commit_leaves (fun f hf ⟨k, hk⟩ => ?_) fun ⟨k, hk⟩ => (hoff n k).2.1 hk.symm
    obtain ⟨-, -, h1, h2, h3⟩ := hoff n k
    simp only [taskFld, hk, Bool.or_eq_true, beq_iff_eq] at hf
    rcases hf with (hf | hf) | hf
    · exact h1 hf
    · exact h2 hf
    · exact h3 hf
  refine ⟨fun k => (hcommit.rd (f := F.CAD_TASKn_STAT_STATE k) ⟨k, rfl⟩).trans ?_, hcommit.cad⟩
  exact (rd_wr_ne _ _ (hoff n k).1).trans (rd_congr rfl _)

/-- Δ of a cycle that starts at `now` (R95). -/
def Task.deltaAt (x : Task) (now : Nat) : Nat := if x.deltaZero then 0 else now / 1000 - x.start / 1000

/-- A cycle started: the task is RUNNING with a fresh record, and the forces are applied. -/
theorem startCycle_effect (s : State) (n : Fin 8) (now : Nat) (ring : Bool) :
    (s.startCycle n now ring).taskState n = 2 ∧ (∀ k, k ≠ n → (s.startCycle n now ring).taskState k = s.taskState k) ∧
      ((s.startCycle n now ring).task n).cycle = (now, (s.task n).deltaAt now, 0, false, [], []) ∧ (s.startCycle n now ring).cad.forceChg = [] ∧
      (s.startCycle n now ring).cad.applied = s.cad.forces.filterMap Prod.snd := by
  obtain ⟨hstates, hcad⟩ := commitStart_effect s n
  have htask : (s.applyForces.commit .cad (taskFld n)).task n = s.task n := by
    unfold State.task
    rw [hcad]
  unfold State.startCycle
  extract_lets s1 p0 ph0 s2 x regrid at_ x1 s3 s4 s5 _ s6 s7
  have hx1 : x1.cycle = (now, (s.task n).deltaAt now, 0, false, [], []) := by
    rw [← htask]
    rfl
  have hset : (s2.setTask n x1).StartStep n s3 := applyInstCmds_startStep
  have h4 : s3.StartStep n s4 := by
    unfold s4
    split
    · exact lockAtStart_startStep
    · exact startStep_refl s3
  have hsnap : s4.StartStep n (s4.takeSnapshot n) := takeSnapshot_startStep
  have h6 : s5.StartStep n s6 := setTask_startStep rfl
  have h7 : s6.StartStep n s7.dispatch := by
    have hpre : s6.StartStep n s7 := by
      unfold s7
      split
      · exact serves_startStep (preempt_serves s6 n)
      · exact startStep_refl s6
    exact hpre.trans (serves_startStep dispatch_serves)
  obtain ⟨hst, hcyc, happ, hchg⟩ := (hset.trans h4).trans hsnap
  obtain ⟨hst', hcyc', happ', hchg'⟩ := h6.trans h7
  have hrun (k : Fin 8) : s5.taskState k = if k = n then 2 else (s4.takeSnapshot n).taskState k := taskState_set _ n k (by decide)
  refine ⟨(hst' n).trans ((hrun n).trans (if_pos rfl)), fun k hk => ?_, ?_, ?_, ?_⟩
  · exact (hst' k).trans ((hrun k).trans ((if_neg hk).trans ((hst k).trans ((taskState_setTask s2 n k x1).trans (hstates k)))))
  · exact hcyc'.trans (hcyc.trans ((congrArg Task.cycle (task_setTask_same s2 n x1)).trans hx1))
  · exact hchg'.trans (hchg.trans (congrArg Cad.forceChg hcad))
  · exact happ'.trans (happ.trans (congrArg Cad.applied hcad))

theorem switched_startStep : s.StartStep n s.switched := by
  have hne : ∀ k : Fin 8, R.CAD_TASKn_STAT k ≠ R.TDM_SW := by decide
  unfold State.switched
  split
  · exact startStep_refl s
  · exact startStep_of (fun k => (rd_congr rfl _).trans (rd_wr_ne s (f := F.TDM_SW_LAST) _ (hne k))) rfl

/-- Force changes recorded for the partner change TDM's state alone. -/
theorem emitForces_eq (s : State) : ∃ x, s.emitForces = { s with tdm := x } := by
  unfold State.emitForces
  refine List.foldlRecOn (motive := fun t : State => ∃ x, t = { s with tdm := x }) _ _ ⟨s.tdm, rfl⟩ fun t ht sig _ => ?_
  obtain ⟨x, rfl⟩ := ht
  obtain ⟨y, hy⟩ := emit_eq { s with tdm := x } _
  exact ⟨y, hy⟩

theorem taskCycleStart_yields (hlive : s.Live .cad) (hruns : s.runs .cad = true) (hidle : s.taskState n = 1) (hact : s.activeBank.isSome = true)
    (hsave : s.saveHolds = false) (hchg : s.chgState ≠ 3) (hf : s.following = false) (hshed : s.shed = false) (hdue : s.startDue n = true)
    (hfrz : s.bit (F.BLK_CTRL_FREEZE .cad) = false) :
    s.Yields (.taskCycleStart n) fun t => t.taskState n = 2 ∧ (t.task n).cycle = (s.nowNs, (s.task n).deltaAt s.nowNs, 0, false, [], []) ∧
      t.cad.forceChg = [] ∧ t.cad.applied = s.cad.forces.filterMap Prod.snd ∧ ∀ k, k ≠ n → t.taskState k = s.taskState k := by
  have hpoint : s.freezePoint .cad = s := if_neg (by rw [hfrz]; exact Bool.false_ne_true)
  have hnone : s.activeBank.isNone = false := by rw [Option.isNone_eq_false_iff, hact]
  obtain ⟨x, hx⟩ := emitForces_eq s
  obtain ⟨y, hy⟩ := emit_eq { s with tdm := x } (.start n.val s.nowNs)
  have hexec : exec (.taskCycleStart n) s = .next (if n = 0 then
      (({ s with tdm := y } : State).startCycle n s.nowNs (s.ringTask n && s.ringNow)).switched
      else ({ s with tdm := y } : State).startCycle n s.nowNs (s.ringTask n && s.ringNow)) := by
    change execTaskCycleStart n s = _
    rw [execTaskCycleStart, whileLive_live hlive, if_neg (by simp [hruns, hidle, hnone, hsave, hchg, hf, hshed, hdue])]
    simp only [hpoint, hlive.1, hx, hy, Bool.false_eq_true, if_false]
  obtain ⟨hrun, hothers, hcyc, hforce, happ⟩ := startCycle_effect { s with tdm := y } n s.nowNs (s.ringTask n && s.ringNow)
  refine ⟨_, hexec, ?_⟩
  split
  · obtain ⟨hst, hcyc', happ', hforce'⟩ := switched_startStep (n := n)
      (s := ({ s with tdm := y } : State).startCycle n s.nowNs (s.ringTask n && s.ringNow))
    exact ⟨(hst n).trans hrun, hcyc'.trans hcyc, hforce'.trans hforce, happ'.trans happ, fun k hk => (hst k).trans (hothers k hk)⟩
  · exact ⟨hrun, hcyc, hforce, happ, hothers⟩

/-! ## Publication (R107, R108, R115) -/

/-- The registers that a publication shows: the count of corrected errors and the tasks' states. -/
abbrev PubReg (a : Nat) : Prop := a ∈ R.CAD_ECC_CNT :: allTasks.map fun n => R.CAD_TASKn_STAT n.val

theorem pubReg_task (k : Fin 8) : PubReg (R.CAD_TASKn_STAT k) := by revert k; decide

theorem pubReg_cad {a : Nat} (h : PubReg a) : blkAt a = some .cad := by
  have hcad : ∀ a ∈ R.CAD_ECC_CNT :: allTasks.map fun n => R.CAD_TASKn_STAT n.val, blkAt a = some .cad := by decide
  exact hcad a h

/-- A register of another page is none of them. -/
theorem notPub {a : Nat} (h : blkAt a ≠ some .cad) : ¬PubReg a := fun ha => h (pubReg_cad ha)

/-- A step of a publication keeps the tasks' states and records, the count of corrected errors, memory and the mark of T0. -/
def State.PubStep (s t : State) : Prop :=
  (∀ k, t.taskState k = s.taskState k) ∧ t.rd F.CAD_ECC_CNT_CORR = s.rd F.CAD_ECC_CNT_CORR ∧ t.mem = s.mem ∧ t.cad.tasks = s.cad.tasks ∧
    t.lpe.t0Pending = s.lpe.t0Pending

theorem pubStep_refl (s : State) : s.PubStep s := ⟨fun _ => rfl, rfl, rfl, rfl, rfl⟩

theorem State.PubStep.trans (h : s.PubStep t) (h' : t.PubStep u) : s.PubStep u := by
  obtain ⟨hst, hcorr, hmem, htasks, ht0⟩ := h
  obtain ⟨hst', hcorr', hmem', htasks', ht0'⟩ := h'
  exact ⟨fun k => (hst' k).trans (hst k), hcorr'.trans hcorr, hmem'.trans hmem, htasks'.trans htasks, ht0'.trans ht0⟩

/-- A change of other parts of the state. -/
theorem State.PubStep.frame (h : s.PubStep t) (hr : u.regs = t.regs) (hm : u.mem = t.mem) (hc : u.cad.tasks = t.cad.tasks)
    (hl : u.lpe.t0Pending = t.lpe.t0Pending) : s.PubStep u :=
  h.trans ⟨taskState_congr hr, rd_congr hr _, hm, hc, hl⟩

theorem State.Leaves.pubStep (h : s.Leaves PubReg t) : s.PubStep t :=
  ⟨fun k => h.rd (f := F.CAD_TASKn_STAT_STATE k) (pubReg_task k), h.rd (f := F.CAD_ECC_CNT_CORR) (by decide), h.mem,
    congrArg Cad.tasks h.cad, congrArg Lpe.t0Pending h.lpe⟩

theorem ite_pubStep {c : Prop} [Decidable c] (ht : s.PubStep t) (hu : s.PubStep u) : s.PubStep (if c then t else u) := by
  split
  · exact ht
  · exact hu

theorem foldl_pubStep {α : Type} {f : State → α → State} {l : List α} (hf : ∀ t : State, ∀ x ∈ l, t.PubStep (f t x)) :
    s.PubStep (l.foldl f s) :=
  foldl_relates pubStep_refl State.PubStep.trans hf

theorem wr_pubStep {f : Fld} {x : Nat} (hf : ¬PubReg f.addr) : s.PubStep (s.wr f x) := (wr_leaves hf).pubStep

theorem raise_pubStep {b : Blk} {i : Nat} (h : ¬PubReg (R.BLK_IRQ_RAW b)) : s.PubStep (s.raise b i) := (raise_leaves h).pubStep

theorem pub_notEvr {a : Nat} (h : PubReg a) : blkAt a ≠ some .evr := by rw [pubReg_cad h]; decide

theorem event_pubStep {b : Blk} {i sev p0 p1 p2 p3 : Nat} : s.PubStep (s.event b i sev p0 p1 p2 p3) := (event_leaves fun _ => pub_notEvr).pubStep

/-! ### What a cycle publishes -/

theorem excEvents_pubStep {es : List Exc} : s.PubStep (s.excEvents es) := by
  refine foldl_pubStep fun t e _ => ?_
  dsimp only
  have hseen (l : List (Nat × Nat)) : t.PubStep { t with cad := { t.cad with evOnce := l } } := (pubStep_refl t).frame rfl rfl rfl rfl
  split
  · exact hseen _
  split
  · exact (hseen _).trans event_pubStep
  split
  · exact (hseen _).trans event_pubStep
  · exact hseen _

theorem recordExcs_pubStep : s.PubStep (s.recordExcs n) := by
  have hoff : ∀ n : Fin 8, ¬PubReg (R.CAD_EXC_INFOn n) ∧ ¬PubReg (R.CAD_EXC_PCn n) ∧ ¬PubReg (R.CAD_EXC_CNTn n) := by decide
  obtain ⟨hinfo, hpc, hcnt⟩ := hoff n
  have hraw : ¬PubReg (R.BLK_IRQ_RAW .cad) := by decide
  unfold State.recordExcs
  split
  · exact pubStep_refl s
  next e l _ =>
  extract_lets es s1 s2 s3 s4
  have h2 : s.PubStep s2 := (((wr_pubStep hinfo).trans (wr_pubStep hinfo)).trans (wr_pubStep hpc)).trans (wr_pubStep hcnt)
  have h3 : s.PubStep s3 := ite_pubStep (h2.trans (raise_pubStep hraw)) h2
  have h4 : s.PubStep s4 := ite_pubStep (h3.trans (raise_pubStep hraw)) h3
  exact h4.trans excEvents_pubStep

theorem publish_pubStep : s.PubStep (s.publish n) := by
  refine foldl_pubStep fun t k _ => ?_
  dsimp only
  split
  · exact pubStep_refl t
  split
  · exact (pubStep_refl t).frame rfl rfl rfl rfl
  split
  · exact (pubStep_refl t).frame rfl rfl rfl rfl
  · exact (pubStep_refl t).frame rfl rfl rfl rfl

theorem send_leaves {A : Nat → Prop} {e : Event} (hA : ∀ a, A a → blkAt a ≠ some .evr) : s.Leaves A (s.send e) := by
  unfold State.send
  dsimp only
  split
  · exact (leaves_refl s).frame rfl rfl rfl rfl rfl
  · exact ⟨⟨evrDrop_mem .., evrDrop_cad .., evrDrop_pending ..⟩, evrDrop_lpe .., fun a ha => regGet_evrDrop (hA a ha)⟩

theorem slvMarks_leaves : s.Leaves (blkAt · = some .cad) s.slvMarks := by
  have hrun : ¬blkAt R.SLV_RUN = some .cad := by decide
  have hfac : ∀ k ∈ upto 4, ¬blkAt (R.SLV_FACk_STAT k) = some .cad := by decide
  have hfold {t : State} : t.Leaves (blkAt · = some .cad) ((upto 4).foldl (fun s k =>
      let mine := s.jobs.filter fun j => j.started && j.slot == some k
      (s.wrB (F.SLV_FACk_STAT_HELD k) (!mine.isEmpty)).wrB (F.SLV_FACk_STAT_BUILDING k) (mine.any fun j => j.writes && !j.refactored)) t) :=
    foldl_leaves fun t k hk => (wr_leaves (hfac k hk)).trans (wr_leaves (hfac k hk))
  unfold State.slvMarks
  dsimp only
  split
  · exact (wr_leaves hrun).trans hfold
  · exact ((((wr_leaves hrun).trans (wr_leaves hrun)).trans (wr_leaves hrun)).trans (wr_leaves hrun)).trans hfold

theorem setTpl_leaves {A : Nat → Prop} {i : Nat} {x : Tpl} : s.Leaves A (s.setTpl i x) := by
  have hput (l : Slv) : s.Leaves A { s with slv := l } := (leaves_refl s).frame rfl rfl rfl rfl rfl
  exact ite_leaves (hput _) ((hput _).trans emit_leaves)

theorem rejectJob_leaves {i reason : Nat} : s.Leaves (blkAt · = some .cad) (s.rejectJob i reason) := by
  have hrej : ¬blkAt R.SLV_REJ = some .cad := by decide
  exact ((((setTpl_leaves.trans (raise_leaves (by decide))).trans (wr_leaves hrej)).trans (wr_leaves hrej))).trans (wr_leaves (by decide))

/-- A job request touches the solver and its page only. -/
theorem acceptJob_leaves {i deadline : Nat} : s.Leaves (blkAt · = some .cad) (s.acceptJob i deadline).1 := by
  unfold State.acceptJob
  split
  · exact leaves_refl s
  extract_lets x dl s1 j _ s2
  have h1 : s.Leaves (blkAt · = some .cad) s1 := setTpl_leaves
  have h2 : s.Leaves (blkAt · = some .cad) s2 := h1.trans setTpl_leaves
  have hqueue (l : Slv) : s.Leaves (blkAt · = some .cad) { s2 with slv := l } := h2.frame rfl rfl rfl rfl rfl
  split
  · exact h1.trans rejectJob_leaves
  split
  · exact h1.trans rejectJob_leaves
  split
  · exact h1.trans rejectJob_leaves
  · exact (hqueue _).trans slvMarks_leaves

theorem postOne_pubStep {p : Post} {left : Nat} : s.PubStep (s.postOne p left).1 := by
  have hslot {i : Nat} : s.PubStep (if s.lslotState (Fin.ofNat 64 i) = 1 then
      s.setLslot (Fin.ofNat 64 i) { s.lslot (Fin.ofNat 64 i) with posts := (s.lslot (Fin.ofNat 64 i)).posts ++ [p.kind] } else s) :=
    ite_pubStep ((pubStep_refl s).frame rfl rfl rfl rfl) (pubStep_refl s)
  have hjob {i d : Nat} : s.PubStep (s.acceptJob i d).1 := (acceptJob_leaves.mono fun a => pubReg_cad).pubStep
  unfold State.postOne
  extract_lets toSlot
  split
  · exact hslot
  · exact hslot
  · exact hslot
  · split
    · exact pubStep_refl s
    dsimp only
    split
    · exact (hjob.trans (wr_pubStep (by decide))).trans (raise_pubStep (by decide))
    · exact hjob
  · split
    · exact pubStep_refl s
    · exact ite_pubStep (pubStep_refl s) (send_leaves fun _ => pub_notEvr).pubStep

theorem postAll_pubStep {l : List Post} {left : Nat} {fl : Word} : s.PubStep (s.postAll l left fl).1 := by
  induction l generalizing s left fl with
  | nil => exact pubStep_refl s
  | cons p l ih => exact postOne_pubStep.trans ih

theorem dueSlots_pubStep : s.PubStep (s.dueSlots n) := by
  have hoff : ∀ k : Fin 64, blkAt (R.LPE_SLOTn_STAT k) ≠ some .cad := by decide
  refine foldl_pubStep fun t k _ => ?_
  extract_lets x s1
  have h1 : t.PubStep s1 := ite_pubStep ((wr_pubStep (notPub (hoff k))).trans (raise_pubStep (by decide))) (pubStep_refl t)
  exact ite_pubStep (h1.frame rfl rfl rfl rfl) (pubStep_refl t)

theorem cycleTime_pubStep : s.PubStep (s.cycleTime n) := by
  have hoff : ∀ n : Fin 8, ¬PubReg (R.CAD_TASKn_LAST n) ∧ ¬PubReg (R.CAD_TASKn_MAX n) := by decide
  exact (wr_pubStep (hoff n).1).trans (wr_pubStep (hoff n).2)

/-! ### Faults that a publication may bring (R379, R385) -/

theorem raiseEv_pubStep {b : Blk} {i : Nat} (h : ¬PubReg (R.BLK_IRQ_RAW b)) : s.PubStep (s.raiseEv b i) := (raise_pubStep h).trans event_pubStep

theorem loseInstants_pubStep : s.PubStep s.loseInstants := by
  unfold State.loseInstants
  extract_lets c s1
  have h1 : s.PubStep s1 := (pubStep_refl s).frame rfl rfl rfl rfl
  have hlocked : s1.PubStep (s1.wr (F.CAD_TASKn_STAT_LOCKED 0) 0) :=
    ⟨fun k => taskState_wr_other s1 k (by norm_num) (by norm_num), rd_wr_ne s1 0 (by decide), rfl, rfl, rfl⟩
  exact ite_pubStep ((h1.trans hlocked).trans (raise_pubStep (by decide))) h1

theorem stopMaster_pubStep {st : Nat} : s.PubStep (s.stopMaster st) := by
  have hspk : s.PubStep { s with spk := { s.spk with due := none, pass := none, stopLeft := none } } := (pubStep_refl s).frame rfl rfl rfl rfl
  exact (hspk.trans (wr_pubStep (by decide))).trans loseInstants_pubStep

theorem drive_pubStep : s.PubStep s.drive := by
  have hstat : ¬PubReg (R.BLK_STAT .fio) := by decide
  have hlevel {t : State} {g : Nat} : t.PubStep (t.faultLevel g) :=
    ite_pubStep ((wr_pubStep (f := statFld .fio (8 + g)) hstat).trans (raiseEv_pubStep (by decide))) (wr_pubStep (f := statFld .fio (8 + g)) hstat)
  have hone {t : State} {i : Fin 16} : t.PubStep (t.driveOne i) := by
    unfold State.driveOne
    extract_lets old new s1
    have h1 : t.PubStep s1 := wr_pubStep (f := ⟨R.FIO_DO_STATE, 16 + i, 1⟩) (show ¬PubReg R.FIO_DO_STATE by decide)
    exact ite_pubStep (pubStep_refl t) (ite_pubStep (h1.frame rfl rfl rfl rfl) (h1.frame rfl rfl rfl rfl))
  exact ((foldl_pubStep fun t i _ => hone).trans hlevel).trans hlevel

theorem autoFault_pubStep : s.PubStep s.autoFault := by
  have hfault {t : State} : t.PubStep t.enterFault := ((wr_pubStep (by decide)).trans (wr_pubStep (by decide))).trans drive_pubStep
  exact ite_pubStep ((ite_pubStep stopMaster_pubStep (pubStep_refl s)).trans hfault) (pubStep_refl s)

theorem selfTestFail_pubStep {i : Nat} : s.PubStep (s.selfTestFail i) := by
  have hleave {t : State} {r : Nat} : t.PubStep (t.leaveStep r) :=
    ite_pubStep (((wr_pubStep (by decide)).trans (wr_pubStep (by decide))).trans (raise_pubStep (by decide))) (pubStep_refl t)
  unfold State.selfTestFail
  extract_lets x s1
  have hmark : s.PubStep { s with tdm := x } := (pubStep_refl s).frame rfl rfl rfl rfl
  have h1 : s.PubStep s1 := hmark.trans (raiseEv_pubStep (by decide))
  exact (ite_pubStep (h1.trans hleave) h1).trans autoFault_pubStep

theorem laneCheck_pubStep {differs : Bool} : s.PubStep (s.laneCheck n differs) := by
  unfold State.laneCheck
  split
  · exact pubStep_refl s
  extract_lets x s1
  have h1 : s.PubStep s1 := (pubStep_refl s).frame rfl rfl rfl rfl
  exact ite_pubStep (h1.trans selfTestFail_pubStep) h1

/-! ### The publication -/

/-- What a cycle publishes: exceptions, outputs, posts, flags, loop slots to evaluate, and its time. -/
def State.publishCycle (s : State) (n : Fin 8) (faulted : Bool) : State :=
  let s1 := (s.recordExcs n).publish n
  let r := if faulted then (s1, 0) else s1.postAll (sortPosts (s1.task n).posts) (s1.rd F.CAD_CFG_EVT_LIMIT) 0
  ((r.1.regPut (R.CAD_EXC_FLAGSn n) (r.1.regGet (R.CAD_EXC_FLAGSn n) ||| (r.1.task n).flags ||| r.2)).dueSlots n).cycleTime n

theorem publishCycle_pubStep {faulted : Bool} : s.PubStep (s.publishCycle n faulted) := by
  have hflags : ∀ n : Fin 8, ¬PubReg (R.CAD_EXC_FLAGSn n) := by decide
  unfold State.publishCycle
  extract_lets s1 r
  have h1 : s.PubStep s1 := recordExcs_pubStep.trans publish_pubStep
  have hr : s.PubStep r.1 := by
    unfold r
    split
    · exact h1
    · exact h1.trans postAll_pubStep
  exact ((hr.trans (regPut_leaves (hflags n)).pubStep).trans dueSlots_pubStep).trans cycleTime_pubStep

/-- The mark that a T0 publication waits for its guard pass, and that a publication awaits one. -/
def State.markPub (s : State) (n : Fin 8) : State :=
  { s with lpe := { s.lpe with
    t0Pending := s.lpe.t0Pending || n == 0, pubNew := s.lpe.pubNew || (n == 0 || !s.bit (F.CAD_TASKn_STAT_LOCKED 0)) } }

/-- The end of a cycle, with the faults it brings. -/
def State.publishEnd (s : State) (n : Fin 8) (fault differs : Bool) : State :=
  ((if fault then ((s.markPub n).endState n).autoFault else (s.markPub n).endState n).laneCheck n differs).dispatch

theorem taskPublication_exec (hlive : s.Live .cad) (hdone : s.cycleDone n = true) (hsave : s.saveHolds = false) (differs : Bool) (corr : Nat) :
    exec (.taskPublication n differs corr) s = .next
      (((s.wr F.CAD_ECC_CNT_CORR (satAdd 0xFFFF (s.rd F.CAD_ECC_CNT_CORR) corr)).publishCycle n (s.task n).faulted).publishEnd n
        (((s.task n).faulted && n == 0) || (s.task n).excs.any fun e => e.code == excECC_CODE) differs) := by
  change execTaskPublication n differs corr s = _
  rw [execTaskPublication, whileLive_live hlive, if_neg (by simp [hdone, hsave])]
  unfold State.publishEnd State.publishCycle State.markPub
  dsimp only

/-- The state that a task takes at the end of its cycle (R107, R118, R121). -/
def Task.endState (x : Task) : Nat := if x.faulted then 3 else if x.stopPend then 0 else 1

/-- The end of a cycle: the task's state and its record, and nothing else of what a publication keeps. -/
theorem endState_effect (s : State) (n : Fin 8) :
    (∀ k, (s.endState n).taskState k = if k = n then (s.task n).endState else s.taskState k) ∧
      (s.endState n).rd F.CAD_ECC_CNT_CORR = s.rd F.CAD_ECC_CNT_CORR ∧ (s.endState n).mem = s.mem ∧
      (s.endState n).lpe.t0Pending = s.lpe.t0Pending ∧
      ((s.endState n).task n).posts = [] ∧ ((s.endState n).task n).excs = [] ∧ ((s.endState n).task n).stopPend = false := by
  have hcorr : ∀ n : Fin 8, F.CAD_ECC_CNT_CORR.addr ≠ R.CAD_TASKn_STAT n := by decide
  unfold State.endState
  extract_lets x st s1 s2
  have hst : st < 8 := by
    unfold st
    split_ifs <;> decide
  have h1 (k : Fin 8) : s1.taskState k = if k = n then (s.task n).endState else s.taskState k :=
    (taskState_setTask _ n k _).trans (taskState_set s n k hst)
  have hrec : (s1.task n).posts = [] ∧ (s1.task n).excs = [] ∧ (s1.task n).stopPend = false := by
    unfold s1
    rw [task_setTask_same]
    exact ⟨rfl, rfl, rfl⟩
  have hbit {v : State} {f : Fld} (ha : f.addr = R.CAD_TASKn_STAT n) (hlo : 3 ≤ f.lo) (hfit : f.lo + f.w ≤ 32) : v.PubStep (v.wr f 0) :=
    ⟨fun k => taskState_wr_other v k hlo hfit, rd_wr_ne v 0 (ha ▸ hcorr n), rfl, rfl, rfl⟩
  have h2 : s1.PubStep s2 := ite_pubStep (pubStep_refl s1) (hbit rfl (by norm_num) (by norm_num))
  obtain ⟨hstates, hcnt, hmem, htasks, ht0⟩ : s1.PubStep (if st = 1 then s2 else s2.wr (F.CAD_TASKn_STAT_LOCKED n) 0) :=
    ite_pubStep h2 (h2.trans (hbit rfl (by norm_num) (by norm_num)))
  generalize (if st = 1 then s2 else s2.wr (F.CAD_TASKn_STAT_LOCKED n) 0) = v at hstates hcnt hmem htasks ht0
  rw [task_congr htasks]
  exact ⟨fun k => (hstates k).trans (h1 k), hcnt.trans ((rd_congr rfl _).trans (rd_wr_ne s _ (hcorr n))), hmem, ht0, hrec⟩

theorem State.Serves.stopPend (h : s.Serves t) (n : Fin 8) : (t.task n).stopPend = (s.task n).stopPend := by
  obtain ⟨-, htask⟩ := h
  obtain ⟨_, _, _, _, _, ht⟩ := htask n
  rw [ht]

/-- The end of a publication. -/
theorem publishEnd_effect (s : State) (n : Fin 8) (fault differs : Bool) :
    (∀ k, (s.publishEnd n fault differs).taskState k = if k = n then (s.task n).endState else s.taskState k) ∧
      (s.publishEnd n fault differs).rd F.CAD_ECC_CNT_CORR = s.rd F.CAD_ECC_CNT_CORR ∧ (s.publishEnd n fault differs).mem = s.mem ∧
      ((s.publishEnd n fault differs).lpe.t0Pending = (s.lpe.t0Pending || n == 0)) ∧ ((s.publishEnd n fault differs).task n).posts = [] ∧
      ((s.publishEnd n fault differs).task n).excs = [] ∧ ((s.publishEnd n fault differs).task n).stopPend = false := by
  obtain ⟨hstates, hcnt, hmem, ht0, hposts, hexcs, hstop⟩ := endState_effect (s.markPub n) n
  unfold State.publishEnd
  have hfault : ((s.markPub n).endState n).PubStep
      ((if fault then ((s.markPub n).endState n).autoFault else (s.markPub n).endState n).laneCheck n differs) :=
    (ite_pubStep autoFault_pubStep (pubStep_refl _)).trans laneCheck_pubStep
  generalize (if fault then ((s.markPub n).endState n).autoFault else (s.markPub n).endState n).laneCheck n differs = v at hfault ⊢
  obtain ⟨hst, hc, hm, htasks, ht⟩ := hfault
  have hserve : v.Serves v.dispatch := dispatch_serves
  have hlpe : v.dispatch.lpe = v.lpe := by
    obtain ⟨⟨_, _, h⟩, -⟩ := hserve
    rw [h]
  have htask : v.task n = ((s.markPub n).endState n).task n := task_congr htasks n
  refine ⟨fun k => (taskState_congr hserve.regs k).trans ((hst k).trans ((hstates k).trans ?_)), ?_,
    hserve.mem.trans (hm.trans hmem), ?_, ?_, ?_, ?_⟩
  · rw [taskState_congr (t := s.markPub n) (s := s) rfl k]
    rfl
  · exact (rd_congr hserve.regs _).trans (hc.trans (hcnt.trans (rd_congr rfl _)))
  · rw [hlpe, ht, ht0]
    rfl
  · rw [hserve.posts, htask, hposts]
  · rw [hserve.excs, htask, hexcs]
  · rw [hserve.stopPend, htask, hstop]

theorem satAdd_le {max a b : Nat} : satAdd max a b ≤ max := by
  unfold satAdd
  exact Nat.min_le_left _ _

theorem taskPublication_yields (hlive : s.Live .cad) (hdone : s.cycleDone n = true) (hsave : s.saveHolds = false) (differs : Bool) (corr : Nat) :
    s.Yields (.taskPublication n differs corr) fun t => t.rd F.CAD_ECC_CNT_CORR = satAdd 0xFFFF (s.rd F.CAD_ECC_CNT_CORR) corr ∧
      t.taskState n = (s.task n).endState ∧ (t.task n).posts = [] ∧ (t.task n).excs = [] ∧ (t.task n).stopPend = false ∧
      (n = 0 → t.lpe.t0Pending = true) ∧ t.mem = s.mem ∧ ∀ k, k ≠ n → t.taskState k = s.taskState k := by
  have hexec := taskPublication_exec hlive hdone hsave differs corr
  generalize (((s.task n).faulted && n == 0) || (s.task n).excs.any fun e => e.code == excECC_CODE) = fault at hexec
  generalize (s.task n).faulted = faulted at hexec
  have hcount : s.Leaves (· ≠ R.CAD_ECC_CNT) (s.wr F.CAD_ECC_CNT_CORR (satAdd 0xFFFF (s.rd F.CAD_ECC_CNT_CORR) corr)) := wr_leaves fun h => h rfl
  have hcorr : (s.wr F.CAD_ECC_CNT_CORR (satAdd 0xFFFF (s.rd F.CAD_ECC_CNT_CORR) corr)).rd F.CAD_ECC_CNT_CORR =
      satAdd 0xFFFF (s.rd F.CAD_ECC_CNT_CORR) corr :=
    (rd_wr_same s _ _ (by decide)).trans (Nat.mod_eq_of_lt (Nat.lt_succ_of_le satAdd_le))
  generalize s.wr F.CAD_ECC_CNT_CORR (satAdd 0xFFFF (s.rd F.CAD_ECC_CNT_CORR) corr) = s0 at hexec hcount hcorr
  obtain ⟨hst, hc, hm, htasks, -⟩ := publishCycle_pubStep (s := s0) (n := n) (faulted := faulted)
  obtain ⟨hst', hc', hm', ht0, hposts, hexcs, hstop⟩ := publishEnd_effect (s0.publishCycle n faulted) n fault differs
  have htask : (s0.publishCycle n faulted).task n = s.task n := task_congr (htasks.trans (congrArg Cad.tasks hcount.cad)) n
  have hne : ∀ k : Fin 8, R.CAD_TASKn_STAT k ≠ R.CAD_ECC_CNT := by decide
  refine ⟨_, hexec, hc'.trans (hc.trans hcorr), ?_, hposts, hexcs, hstop, fun h0 => ?_, hm'.trans (hm.trans hcount.mem), fun k hk => ?_⟩
  · rw [hst' n, if_pos rfl, htask]
  · rw [ht0, h0]
    simp
  · rw [hst' k, if_neg hk, hst k]
    exact hcount.rd (f := F.CAD_TASKn_STAT_STATE k) (hne k)

/-- Settles O19: by what a cycle's start, its publication and an overrun do. -/
theorem taskCycles : Obligations.TaskCycles := by
  intro n s hlive
  refine ⟨fun hruns hidle hact hsave hchg hf hshed hdue hfrz => ?_, fun differs corr hdone hsave => ?_, overrun_yields hlive⟩
  · obtain ⟨t, hexec, hrun, hcyc, hforce, happ, hothers⟩ := taskCycleStart_yields hlive hruns hidle hact hsave hchg hf hshed hdue hfrz
    simp only [Task.cycle, Prod.mk.injEq] at hcyc
    obtain ⟨hstart, hdelta, hflags, hfaulted, hposts, hexcs⟩ := hcyc
    exact ⟨t, hexec, hrun, hstart, hdelta, hflags, hfaulted, hposts, hexcs, hforce, happ, hothers⟩
  · exact taskPublication_yields hlive hdone hsave differs corr

end Sys2Proof.Machine
end

/-! # Task commands (O20) -/

section
namespace Sys2Proof.Machine

variable {s t u : State} {n : Fin 8} {m : Master}

/-- At most task `n` and the commands that wait for a cycle start change: not memory, a context, a force or another task. -/
def State.OnlyTask (s t : State) (n : Fin 8) : Prop :=
  t.mem = s.mem ∧ t.cad.ctx = s.cad.ctx ∧ t.cad.forces = s.cad.forces ∧ ∀ k, k ≠ n → t.task k = s.task k ∧ t.taskState k = s.taskState k

theorem State.OnlyTask.trans (h : s.OnlyTask t n) (h' : t.OnlyTask u n) : s.OnlyTask u n := by
  obtain ⟨hm, hc, hf, ho⟩ := h
  obtain ⟨hm', hc', hf', ho'⟩ := h'
  exact ⟨hm'.trans hm, hc'.trans hc, hf'.trans hf, fun k hk => ⟨(ho' k hk).1.trans (ho k hk).1, (ho' k hk).2.trans (ho k hk).2⟩⟩

/-- A write of the task's own status. -/
theorem wr_onlyTask {f : Fld} (hf : f.addr = R.CAD_TASKn_STAT n) (x : Nat) : s.OnlyTask (s.wr f x) n :=
  ⟨rfl, rfl, rfl, fun _ hk => ⟨rfl, rd_wr_ne s x (by rw [hf]; exact taskStat_inj hk)⟩⟩

theorem setTask_onlyTask (x : Task) : s.OnlyTask (s.setTask n x) n :=
  ⟨rfl, rfl, rfl, fun k hk => ⟨task_setTask_ne s x hk, taskState_setTask s n k x⟩⟩

theorem bit_setTask (s : State) (n : Fin 8) (x : Task) (f : Fld) : (s.setTask n x).bit f = s.bit f := bit_congr rfl f

/-- A task brought to IDLE (R121, R122). -/
theorem makeIdle_effect (s : State) (n : Fin 8) : s.OnlyTask (s.makeIdle n) n ∧ (s.makeIdle n).taskState n = 1 ∧
    ((s.makeIdle n).task n).deltaZero = true ∧ (s.makeIdle n).cad.instCmds = s.cad.instCmds := by
  refine ⟨(wr_onlyTask rfl 1).trans (setTask_onlyTask _), ?_, ?_, rfl⟩
  · exact (taskState_setTask _ n n _).trans ((taskState_set s n n (by decide)).trans (if_pos rfl))
  · unfold State.makeIdle
    rw [task_setTask_same]

/-- A task command that does not apply (R121). -/
theorem badTaskCmd_effect (s : State) (n : Fin 8) : s.OnlyTask (s.badTaskCmd n) n ∧ (s.badTaskCmd n).taskState n = s.taskState n ∧
    (s.badTaskCmd n).task n = s.task n ∧ (s.badTaskCmd n).Erred .cad 0x86 n.val := by
  have hoff : ∀ k : Fin 8, R.CAD_TASKn_STAT k ≠ R.BLK_ERRINFO .cad ∧ R.CAD_TASKn_STAT k ≠ R.BLK_IRQ_RAW .cad := by decide
  have hcad : (s.badTaskCmd n).cad = s.cad := err_cad ..
  have hstate (k : Fin 8) : (s.badTaskCmd n).taskState k = s.taskState k := rd_of_regGet (regGet_err_ne (hoff k).1 (hoff k).2)
  have htask (k : Fin 8) : (s.badTaskCmd n).task k = s.task k := task_congr (congrArg Cad.tasks hcad) k
  exact ⟨⟨err_mem .., congrArg Cad.ctx hcad, congrArg Cad.forces hcad, fun k _ => ⟨htask k, hstate k⟩⟩, hstate n, htask n,
    err_erred (by decide) (by omega)⟩

/-- STOP of a task that is not in a cycle: at once (R121). -/
theorem doStop_now (h0 : s.taskState n ≠ 0) (h2 : s.taskState n ≠ 2) :
    s.OnlyTask (s.doStop n) n ∧ (s.doStop n).taskState n = 0 ∧ (s.doStop n).bit (F.CAD_TASKn_STAT_LOCKED n) = false := by
  have hstop : s.doStop n =
      ((s.wr (F.CAD_TASKn_STAT_STATE n) 0).wr (F.CAD_TASKn_STAT_LOCKED n) 0).setTask n { s.task n with owed := false } :=
    (if_neg h0).trans (if_neg h2)
  rw [hstop]
  refine ⟨((wr_onlyTask rfl 0).trans (wr_onlyTask rfl 0)).trans (setTask_onlyTask _), ?_, ?_⟩
  · exact (taskState_setTask _ n n _).trans ((taskState_wr_other _ n (by norm_num) (by norm_num)).trans
      ((taskState_set s n n (by decide)).trans (if_pos rfl)))
  · have hlocked : ((s.wr (F.CAD_TASKn_STAT_STATE n) 0).wr (F.CAD_TASKn_STAT_LOCKED n) 0).rd (F.CAD_TASKn_STAT_LOCKED n) = 0 % 2 ^ 1 :=
      rd_wr_same _ _ 0 (by norm_num)
    exact (bit_setTask _ n _ _).trans (congrArg (· != 0) hlocked)

/-- STOP of a RUNNING task waits for the end of the cycle (R121). -/
theorem doStop_running (h2 : s.taskState n = 2) :
    s.OnlyTask (s.doStop n) n ∧ (s.doStop n).taskState n = 2 ∧ ((s.doStop n).task n).stopPend = true := by
  unfold State.doStop
  simp only [h2, OfNat.ofNat_ne_zero, if_false, if_true]
  exact ⟨setTask_onlyTask _, (taskState_setTask s n n _).trans h2, by rw [task_setTask_same]⟩

/-- What a command recorded for the partner works on: of the state the reply and TDM's own differ. -/
def State.paired (s : State) (x : Tdm) : State := { s.reply 0 with tdm := x }

/-- What a task command does is what it does on the state with the reply and the Tandem entry. -/
theorem taskCmd_yields (h : s.MayWrite m .cad R.CAD_TASK_CMD) (hf : s.following = false) {i : Instr} {op : Nat} (k : State → State)
    (hi : exec i s = .next (s.taskCmd m n op k)) {p : State → Prop} (hp : ∀ x, p (k (s.paired x))) : s.Yields i p := by
  obtain ⟨x, hx⟩ := paired_state s (.cmd R.CAD_TASK_CMD (BitVec.ofNat 32 (n.val + 16 * op + 2 ^ 31)))
  have hcmd : s.taskCmd m n op k = k (s.paired x) := (gatePair_open h hf _).trans (congrArg k hx)
  exact ⟨_, hi.trans (congrArg _ hcmd), hp x⟩

/-- Settles O20: each command by the state that it finds its task in. -/
theorem taskCommands : Obligations.TaskCommands := by
  intro m n s h hf frame toIdle refused
  have hrefused {i : Instr} {op : Nat} (k : State → State) (hi : exec i s = .next (s.taskCmd m n op k))
      (hk : ∀ x, k (s.paired x) = (s.paired x).badTaskCmd n) : refused i :=
    taskCmd_yields h hf k hi fun x => by rw [hk]; exact badTaskCmd_effect (s.paired x) n
  have hidle {i : Instr} {op : Nat} (k : State → State) (hi : exec i s = .next (s.taskCmd m n op k))
      (hk : ∀ x, k (s.paired x) = (s.paired x).makeIdle n) : toIdle i [] :=
    taskCmd_yields h hf k hi fun x => by
      obtain ⟨honly, hst, hzero, hcmds⟩ := makeIdle_effect (s.paired x) n
      rw [hk]
      exact ⟨honly, hst, hzero, hcmds.trans (List.append_nil _).symm⟩
  have hactive (x : Tdm) : (s.paired x).activeBank = s.activeBank := rfl
  have hstate (x : Tdm) : (s.paired x).taskState n = s.taskState n := rfl
  refine ⟨fun h0 ha => hidle (·.doStart n) rfl fun x => if_pos (by simp [hstate, hactive, h0, ha]),
    fun h0 => hrefused (·.doStart n) rfl fun x => if_neg (by simp [hstate, h0]),
    fun h3 => ⟨hidle (·.doRestart n) rfl fun x => if_pos h3, taskCmd_yields h hf (·.doRestartCold n) rfl fun x => ?_⟩,
    fun h3 => ⟨hrefused (·.doRestart n) rfl fun x => if_neg h3, hrefused (·.doRestartCold n) rfl fun x => if_neg h3⟩,
    fun h0 => hrefused (·.doStop n) rfl fun x => if_pos h0,
    fun hst => taskCmd_yields h hf (·.doStop n) rfl fun x => doStop_now (by rw [hstate]; omega) (by rw [hstate]; omega),
    fun h2 => taskCmd_yields h hf (·.doStop n) rfl fun x => doStop_running h2,
    taskCmd_yields h hf (·.wr (F.CAD_TASKn_STAT_OVR n) 0) rfl fun x => ⟨wr_onlyTask rfl 0, ?_, ?_, rfl⟩⟩
  · have hcold : (s.paired x).doRestartCold n = _ := if_pos h3
    obtain ⟨honly, hst, hzero, hcmds⟩ := makeIdle_effect (s.paired x) n
    rw [hcold]
    exact ⟨honly, hst, hzero, congrArg (· ++ _) hcmds⟩
  · exact (rd_wr_same _ _ 0 (by norm_num)).trans (Nat.zero_mod _)
  · exact taskState_wr_other (s.paired x) n (by norm_num) (by norm_num)

end Sys2Proof.Machine
end

/-! # Saving the retained data (O22) -/

section
namespace Sys2Proof.Machine

variable {s t : State} {m : Master}

/-! ## The end of a save (R129, R130) -/

/-- A cause that is set stays set where another is raised, and at an error. -/
theorem raise_keeps_set {b : Blk} {n k : Nat} (h : (s.regGet (R.BLK_IRQ_RAW b)).getLsbD n = true) :
    ((s.raise b k).regGet (R.BLK_IRQ_RAW b)).getLsbD n = true := by
  unfold State.raise
  split
  · exact h
  · rw [regGet_regPut_same, BitVec.getLsbD_or, h, Bool.true_or]

theorem err_keeps_caused {b : Blk} {n code woff : Nat} (h : s.Caused b n) : (s.err b code woff).Caused b n := by
  intro hf
  have hraw : R.BLK_ERRINFO b ≠ R.BLK_IRQ_RAW b := (Nat.ne_of_lt (Nat.add_lt_add_left (by decide) b.base)).symm
  have hinfo : s.Leaves (· = R.BLK_IRQ_RAW b)
      (((s.wr (F.BLK_ERRINFO_CODE b) code).wr (F.BLK_ERRINFO_WOFF b) woff).incSat (F.BLK_ERRINFO_COUNT b)) :=
    ((wr_leaves (f := F.BLK_ERRINFO_CODE b) hraw).trans (wr_leaves (f := F.BLK_ERRINFO_WOFF b) hraw)).trans
      (wr_leaves (f := F.BLK_ERRINFO_COUNT b) hraw)
  exact raise_keeps_set (by rw [hinfo.regGet rfl]; exact h (bit_err_ctrl.symm.trans hf))

/-- What the registers show of a save that ended: STATE 0, RESULT, RET_DONE, and code 0x88 where it failed. -/
def State.retShown (s : State) (r : Nat) : State :=
  let s1 := ((s.wr F.CAD_RET_STAT_STATE 0).wr F.CAD_RET_STAT_RESULT r).raise .cad 13
  if r = 0 then s1 else s1.err .cad 0x88 r

theorem retShown_leaves (s : State) (r : Nat) :
    ((s.wr F.CAD_RET_STAT_STATE 0).wr F.CAD_RET_STAT_RESULT r).Leaves (fun a => a ≠ R.BLK_ERRINFO .cad ∧ a ≠ R.BLK_IRQ_RAW .cad)
      (s.retShown r) := by
  have hraise : ((s.wr F.CAD_RET_STAT_STATE 0).wr F.CAD_RET_STAT_RESULT r).Leaves (fun a => a ≠ R.BLK_ERRINFO .cad ∧ a ≠ R.BLK_IRQ_RAW .cad)
      (((s.wr F.CAD_RET_STAT_STATE 0).wr F.CAD_RET_STAT_RESULT r).raise .cad 13) := raise_leaves fun h => h.2 rfl
  exact ite_leaves hraise (hraise.trans (err_leaves (fun h => h.1 rfl) fun h => h.2 rfl))

theorem retShown_effect (s : State) {r : Nat} (hr : r < 16) :
    (s.retShown r).rd F.CAD_RET_STAT_STATE = 0 ∧ (s.retShown r).rd F.CAD_RET_STAT_RESULT = r ∧ (s.retShown r).Caused .cad 13 ∧
      (r ≠ 0 → (s.retShown r).Erred .cad 0x88 r) := by
  have hstat {f : Fld} (hf : f.addr = R.CAD_RET_STAT) :
      (s.retShown r).rd f = ((s.wr F.CAD_RET_STAT_STATE 0).wr F.CAD_RET_STAT_RESULT r).rd f :=
    (retShown_leaves s r).rd (by rw [hf]; decide)
  refine ⟨?_, ?_, ?_, fun h0 => ?_⟩
  · exact (hstat rfl).trans ((rd_wr_disjoint _ _ (by decide) (by decide) (.inl (by decide))).trans (rd_wr_same s _ 0 (by decide)))
  · exact (hstat rfl).trans ((rd_wr_same _ _ _ (by decide)).trans (Nat.mod_eq_of_lt hr))
  · unfold State.retShown
    dsimp only
    split
    · exact raise_caused (by decide)
    · exact err_keeps_caused (raise_caused (by decide))
  · unfold State.retShown
    rw [if_neg h0]
    exact err_erred (by decide) (by omega)

/-- A save ended: beside what the registers show, the suspension ends and the lanes are served again. -/
theorem retEnd_serves (s : State) (r : Nat) :
    ({ s.retShown r with cad := { (s.retShown r).cad with suspended := false, retNow := false, retSet := none } } : State).Serves (s.retEnd r) :=
  dispatch_serves

theorem State.Serves.suspended (h : s.Serves t) : t.cad.suspended = s.cad.suspended ∧ t.cad.retNow = s.cad.retNow := by
  obtain ⟨⟨_, _, rfl⟩, -⟩ := h
  exact ⟨rfl, rfl⟩

theorem retEnd_effect (s : State) {r : Nat} (hr : r < 16) :
    (s.retEnd r).rd F.CAD_RET_STAT_STATE = 0 ∧ (s.retEnd r).rd F.CAD_RET_STAT_RESULT = r ∧ (s.retEnd r).mem = s.mem ∧
      (s.retEnd r).cad.suspended = false ∧ (s.retEnd r).cad.retNow = false ∧ (s.retEnd r).Caused .cad 13 ∧
      (r ≠ 0 → (s.retEnd r).Erred .cad 0x88 r) := by
  have hserves := retEnd_serves s r
  have hregs : (s.retEnd r).regs = (s.retShown r).regs := hserves.regs
  obtain ⟨hstate, hresult, hcaused, herred⟩ := retShown_effect s hr
  obtain ⟨hsusp, hnow⟩ := hserves.suspended
  have hkeeps : (s.retShown r).KeepsAt (fun _ => True) (s.retEnd r) := keepsAt_of_regs hregs
  refine ⟨(rd_congr hregs _).trans hstate, (rd_congr hregs _).trans hresult, hserves.mem.trans (retShown_leaves s r).mem, hsusp, hnow,
    hkeeps.caused trivial trivial hcaused, fun h0 => ?_⟩
  obtain ⟨hcode, hwoff⟩ := herred h0
  exact ⟨(rd_congr hregs _).trans hcode, (rd_congr hregs _).trans hwoff⟩

/-! ## The commands -/

/-- Each way that a save command ends; `i` is RET_SAVE_WAIT or RET_SAVE_NOW. -/
theorem retCmd_yields (h : s.MayWrite m .cad R.CAD_RET_CMD) {i : Instr} {now : Bool} (hi : exec i s = .next (s.retCmd m now)) :
    (s.rd F.CAD_RET_STAT_STATE = 0 → s.activeBank.isSome = true → s.Yields i fun t => t.rd F.CAD_RET_STAT_STATE = 1 ∧ t.mem = s.mem ∧
      t.cad = { s.cad with retNow := now, retSince := s.nowNs }) ∧
    (s.rd F.CAD_RET_STAT_STATE = 0 → s.activeBank = none → s.Yields i fun t => t.rd F.CAD_RET_STAT_STATE = 0 ∧
      t.rd F.CAD_RET_STAT_RESULT = 3 ∧ t.Erred .cad 0x88 3 ∧ t.mem = s.mem) ∧
    (s.rd F.CAD_RET_STAT_STATE ≠ 0 → s.Yields i fun t => t.rd F.CAD_RET_STAT_STATE = s.rd F.CAD_RET_STAT_STATE ∧ s.Spares t ∧
      t.Erred .cad 0x8A (woffOf .cad R.CAD_RET_CMD)) := by
  have hcmd := hi.trans (congrArg Host.Outcome.next (gate_open h.1 _ h.2))
  have hstate : (s.reply 0).rd F.CAD_RET_STAT_STATE = s.rd F.CAD_RET_STAT_STATE := rfl
  have hactive : (s.reply 0).activeBank = s.activeBank := rfl
  simp only [hstate, hactive] at hcmd
  refine ⟨fun h0 ha => ?_, fun h0 ha => ?_, fun h0 => ?_⟩
  · have hn : s.activeBank.isNone = false := by rw [← Option.not_isSome, ha]; rfl
    simp only [h0, hn, ne_eq, not_true, if_false, Bool.false_eq_true] at hcmd
    exact ⟨_, hcmd, rd_wr_same (s.reply 0) _ 1 (by decide), rfl, rfl⟩
  · simp only [h0, ha, Option.isNone_none, ne_eq, not_true, if_false, if_true] at hcmd
    obtain ⟨hst, hres, hmem, -, -, -, herr⟩ := retEnd_effect (s.reply 0) (r := 3) (by decide)
    exact ⟨_, hcmd, hst, hres, herr (by decide), hmem⟩
  · simp only [ne_eq, h0, not_false_eq_true, if_true] at hcmd
    exact ⟨_, hcmd, rd_of_regGet (regGet_err_ne (by decide) (by decide)), err_spares, err_erred (by decide) (by decide)⟩

/-! ## What an image holds depends neither on the engine's own data nor on a response -/

section
variable (s : State) (c : Cad) (r : Resp)

/-- The state with other data of the Cadence engine and another response. -/
def State.withCad : State := { s with cad := c, resp := r }

theorem rd_withCad (f : Fld) : (s.withCad c r).rd f = s.rd f := rfl
theorem rdLe_withCad (a n : Nat) : (s.withCad c r).rdLe a n = s.rdLe a n := rfl
theorem bytes_withCad (a n : Nat) : (s.withCad c r).bytes a n = s.bytes a n := rfl
theorem ueIn_withCad (a n : Nat) : (s.withCad c r).ueIn a n = s.ueIn a n := rfl
theorem pinHit_withCad (ctx vpn : Nat) : (s.withCad c r).pinHit ctx vpn = s.pinHit ctx vpn := rfl
theorem runBank_withCad : (s.withCad c r).runBank = s.runBank := rfl

theorem walkAt_withCad (ctx : Nat) (wr : Bool) (vpn lvl table : Nat) :
    (s.withCad c r).walkAt ctx wr vpn lvl table = s.walkAt ctx wr vpn lvl table := by
  induction lvl generalizing table with
  | zero => rfl
  | succ lvl ih =>
    unfold State.walkAt
    dsimp only
    rw [ueIn_withCad, rdLe_withCad, ih]

theorem xlate_withCad (ctx : Nat) (wr : Bool) (va : Nat) : ((s.withCad c r).xlate ctx wr va).2 = (s.xlate ctx wr va).2 := by
  have hcache : (s.withCad c r).xlt = s.xlt := rfl
  unfold State.xlate
  dsimp only
  rw [rd_withCad, pinHit_withCad, hcache, rd_withCad, walkAt_withCad]
  split
  · rfl
  split
  · rfl
  split
  · rfl
  split
  · rfl
  split
  · rfl
  split <;> rfl

theorem img_withCad (b off n : Nat) : (s.withCad c r).img b off n = s.img b off n := by
  simp only [State.img, State.peek, State.bankBase, rd_withCad, xlate_withCad, rdLe_withCad]

theorem instDsize_withCad (b i : Nat) : (s.withCad c r).instDsize b i = s.instDsize b i := by
  simp only [State.instDsize, State.typeDsize, State.offType, State.instType, State.offInst, img_withCad]

theorem dataAddr_withCad (b i o : Nat) : (s.withCad c r).dataAddr b i o = s.dataAddr b i o := by
  simp only [State.dataAddr, State.instDoff, State.offInst, img_withCad]

theorem nInst_withCad (b : Nat) : (s.withCad c r).nInst b = s.nInst b := img_withCad s c r ..

theorem slotType_withCad (b k : Nat) : (s.withCad c r).slotType b k = s.slotType b k := by
  simp only [State.slotType, State.slotWord0, State.offSmap, img_withCad]

theorem slotOfSig_withCad (b sig : Nat) : (s.withCad c r).slotOfSig b sig = s.slotOfSig b sig := by
  simp only [State.slotOfSig, State.nSlots, State.slotSig, State.slotWord0, State.offSmap, img_withCad]

theorem boundSlot_withCad (sig : Nat) : (s.withCad c r).boundSlot sig = s.boundSlot sig :=
  congrArg (Option.bind s.activeBank) (funext fun b => slotOfSig_withCad s c r b sig)

theorem dataBad_withCad : (s.withCad c r).dataBad = s.dataBad := by
  simp only [State.dataBad, runBank_withCad, nInst_withCad, dataAddr_withCad, instDsize_withCad, ueIn_withCad]

theorem retainedSet_withCad (h0 : c.hash0 = s.cad.hash0) (h1 : c.hash1 = s.cad.hash1) : (s.withCad c r).retainedSet = s.retainedSet := by
  have hhash (b : Nat) : (s.withCad c r).bankHash b = s.bankHash b := by
    unfold State.bankHash
    split
    · exact h0
    · exact h1
  have hlayout (b i : Nat) : (s.withCad c r).typeLhash b ((s.withCad c r).instType b i) = s.typeLhash b (s.instType b i) := by
    simp only [State.typeLhash, State.offType, State.instType, State.offInst, img_withCad]
  simp only [State.retainedSet, runBank_withCad, nInst_withCad, dataAddr_withCad, instDsize_withCad, bytes_withCad, hhash, hlayout]

end

/-! ## The window, the write and the time limit (R129) -/

/-- A save may begin: its window is there, or, with NOW = 1, every lane stands at an instance boundary. -/
def State.saveReady (s : State) : Bool :=
  if s.cad.retNow then allCtx.all fun c => !(s.ctxAt c).busy else s.allBetween && s.noneDue s.saveNs

theorem saveReady_of (h : if s.cad.retNow then ∀ c : Fin 16, (s.ctxAt c).busy = false
    else (∀ n : Fin 8, s.taskState n ≠ 2) ∧ s.noneDue s.saveNs = true) : s.saveReady = true := by
  unfold State.saveReady
  by_cases hnow : s.cad.retNow = true
  · rw [if_pos hnow] at h ⊢
    exact List.all_eq_true.mpr fun c _ => by rw [h c]; rfl
  · rw [if_neg hnow] at h ⊢
    obtain ⟨hbetween, hdue⟩ := h
    rw [hdue, Bool.and_true]
    exact List.all_eq_true.mpr fun n _ => bne_iff_ne.mpr (hbetween n)

/-- The save begun: its address is committed, execution is suspended and the set is taken. -/
def State.saveBegun (s : State) : State :=
  let s1 := s.commitRetBase.wr F.CAD_RET_STAT_STATE 2
  { s1 with cad := { s1.cad with
    suspended := true, retSince := s1.nowNs, retSet := if s1.dataBad then none else some s1.retainedSet } }

theorem commitRetBase_leaves (s : State) : s.Leaves (fun _ => False) s.commitRetBase := commit_leaves (fun _ _ => id) id

theorem retSaveBegin_yields (hlive : s.Live .cad) (h1 : s.rd F.CAD_RET_STAT_STATE = 1) (hready : s.saveReady = true) :
    s.Yields .retSaveBegin fun t => t.rd F.CAD_RET_STAT_STATE = 2 ∧ t.cad.suspended = true ∧ t.saveHolds = true ∧ t.mem = s.mem ∧
      t.cad.ctx = s.cad.ctx ∧ t.cad.retSet = (if t.dataBad then none else some t.retainedSet) := by
  have hexec : exec .retSaveBegin s = .next s.saveBegun :=
    congrArg Host.Outcome.next ((whileLive_live hlive _).trans (if_neg (by
      change ¬(decide (s.rd F.CAD_RET_STAT_STATE ≠ 1) || !s.saveReady) = true
      rw [h1, hready]
      decide)))
  have hbase := commitRetBase_leaves s
  have hbad : s.saveBegun.dataBad = (s.commitRetBase.wr F.CAD_RET_STAT_STATE 2).dataBad := dataBad_withCad _ _ _
  have hset : s.saveBegun.retainedSet = (s.commitRetBase.wr F.CAD_RET_STAT_STATE 2).retainedSet := retainedSet_withCad _ _ _ rfl rfl
  refine ⟨_, hexec, rd_wr_same s.commitRetBase _ 2 (by decide), rfl, rfl, hbase.mem, (congrArg Cad.ctx hbase.cad :), ?_⟩
  rw [hbad, hset]
  rfl

/-- A save ends with the first of its two writes that fails, or once both are done: the records and data, then the header. -/
theorem retSaveEnd_exec (hlive : s.Live .cad) (h2 : s.rd F.CAD_RET_STAT_STATE = 2) {body head : List Byte}
    (hset : s.cad.retSet = some (body, head)) {s1 s2 : State} {ok1 ok2 : Bool} (hw1 : s.dmaWrite 0 (s.retBase + 64) body = (s1, ok1))
    (hw2 : s1.dmaWrite 0 s1.retBase head = (s2, ok2)) :
    exec .retSaveEnd s = .next ((if ok1 then s2 else s1).retEnd (if ok1 && ok2 then 0 else 2)) := by
  refine congrArg Host.Outcome.next ((whileLive_live hlive _).trans ((if_neg (not_not.mpr h2)).trans ?_))
  cases ok1
  · simp only [hset, hw1, Bool.false_and, Bool.false_eq_true, if_false]
  · cases ok2
    · simp only [hset, hw1, hw2, Bool.and_false, Bool.false_eq_true, if_false, if_true]
    · simp only [hset, hw1, hw2, Bool.and_true, if_true]

theorem retSaveEnd_yields (hlive : s.Live .cad) (h2 : s.rd F.CAD_RET_STAT_STATE = 2) :
    s.Yields .retSaveEnd fun t => t.rd F.CAD_RET_STAT_STATE = 0 ∧ t.cad.suspended = false ∧ t.cad.retNow = false ∧ t.Caused .cad 13 ∧
      (s.cad.retSet = none → t.rd F.CAD_RET_STAT_RESULT = 2 ∧ t.mem = s.mem) ∧
      (∀ body head, s.cad.retSet = some (body, head) →
        let (s1, ok1) := s.dmaWrite 0 (s.retBase + 64) body
        let (s2, ok2) := s1.dmaWrite 0 s1.retBase head
        t.rd F.CAD_RET_STAT_RESULT = (if ok1 && ok2 then 0 else 2) ∧ t.mem = (if ok1 then s2.mem else s1.mem)) := by
  cases hset : s.cad.retSet with
  | none =>
    have hexec : exec .retSaveEnd s = .next (s.retEnd 2) := by
      refine congrArg Host.Outcome.next ((whileLive_live hlive _).trans ((if_neg (not_not.mpr h2)).trans ?_))
      simp only [hset]
    obtain ⟨hst, hres, hmem, hsusp, hnow, hcaused, -⟩ := retEnd_effect s (r := 2) (by decide)
    exact ⟨_, hexec, hst, hsusp, hnow, hcaused, fun _ => ⟨hres, hmem⟩, fun _ _ h => nomatch h⟩
  | some set =>
    obtain ⟨body, head⟩ := set
    rcases hw1 : s.dmaWrite 0 (s.retBase + 64) body with ⟨s1, ok1⟩
    rcases hw2 : s1.dmaWrite 0 s1.retBase head with ⟨s2, ok2⟩
    have hr : (if ok1 && ok2 then 0 else 2) < 16 := by split <;> decide
    obtain ⟨hst, hres, hmem, hsusp, hnow, hcaused, -⟩ := retEnd_effect (if ok1 then s2 else s1) hr
    refine ⟨_, retSaveEnd_exec hlive h2 hset hw1 hw2, hst, hsusp, hnow, hcaused, fun h => (nomatch h), fun body' head' h => ?_⟩
    cases h
    simp only [hw1, hw2]
    exact ⟨hres, hmem.trans (apply_ite State.mem _ _ _)⟩

theorem retSaveTimeout_yields (hlive : s.Live .cad) (h1 : s.rd F.CAD_RET_STAT_STATE = 1) (hnow : s.cad.retNow = false)
    (hlate : s.cad.retSince + s.chgTimeoutNs ≤ s.nowNs) :
    s.Yields .retSaveTimeout fun t => t.rd F.CAD_RET_STAT_STATE = 0 ∧ t.rd F.CAD_RET_STAT_RESULT = 1 ∧ t.Erred .cad 0x88 1 ∧ t.mem = s.mem := by
  have hexec : exec .retSaveTimeout s = .next (s.retEnd 1) :=
    congrArg Host.Outcome.next ((whileLive_live hlive _).trans (if_neg (by simp [h1, hnow, hlate])))
  obtain ⟨hst, hres, hmem, -, -, -, herr⟩ := retEnd_effect s (r := 1) (by decide)
  exact ⟨_, hexec, hst, hres, herr (by decide), hmem⟩

/-- Settles O22: the two commands, and the window, the end and the time limit of a save. -/
theorem retainedDataSaves : Obligations.RetainedDataSaves := fun _ _ =>
  ⟨fun h => ⟨retCmd_yields h rfl, retCmd_yields h rfl⟩,
    fun hlive => ⟨fun h1 hready => retSaveBegin_yields hlive h1 (saveReady_of hready), retSaveEnd_yields hlive, retSaveTimeout_yields hlive⟩⟩

end Sys2Proof.Machine
end

/-! # Force commands (O23) -/

section
namespace Sys2Proof.Machine

variable {s t : State} {m : Master}

/-! ## What the force registers show (R131, R133) -/

theorem forceShow_leaves (s : State) (i r st : Nat) (pend : Bool) : s.Leaves (· ≠ R.CAD_FORCE_STAT) (s.forceShow i r st pend) :=
  (((wr_leaves fun h => h rfl).trans (wr_leaves fun h => h rfl)).trans (wr_leaves fun h => h rfl)).trans (wr_leaves fun h => h rfl)

/-- IDX, RESULT, STATE and PEND show what is given; QUAL stays. -/
theorem forceShow_shows (s : State) {i r st : Nat} (hr : r < 16) (hst : st < 8) (pend : Bool) :
    (s.forceShow i r st pend).rd F.CAD_FORCE_STAT_IDX = i % 4096 ∧ (s.forceShow i r st pend).rd F.CAD_FORCE_STAT_RESULT = r ∧
      (s.forceShow i r st pend).rd F.CAD_FORCE_STAT_STATE = st ∧ (s.forceShow i r st pend).bit F.CAD_FORCE_STAT_PEND = pend ∧
      (s.forceShow i r st pend).rd F.CAD_FORCE_STAT_QUAL = s.rd F.CAD_FORCE_STAT_QUAL := by
  have hbelow {u : State} {f g : Fld} {v : Nat} (hf : f.lo + f.w ≤ 32) (hg : g.lo + g.w ≤ f.lo) : (u.wr f v).rd g = u.rd g :=
    rd_wr_disjoint u v hf (hg.trans (by omega)) (.inl hg)
  have habove {u : State} {f g : Fld} {v : Nat} (hg : g.lo + g.w ≤ 32) (hf : f.lo + f.w ≤ g.lo) : (u.wr f v).rd g = u.rd g :=
    rd_wr_disjoint u v (hf.trans (by omega)) hg (.inr hf)
  unfold State.forceShow State.wrB
  refine ⟨?_, ?_, ?_, bit_wrB_same _ _ pend (by decide) (by decide), ?_⟩
  · exact (hbelow (by decide) (by decide)).trans ((hbelow (by decide) (by decide)).trans ((hbelow (by decide) (by decide)).trans
      (rd_wr_same s _ i (by decide))))
  · exact (hbelow (by decide) (by decide)).trans ((hbelow (by decide) (by decide)).trans
      ((rd_wr_same _ _ r (by decide)).trans (Nat.mod_eq_of_lt hr)))
  · exact (hbelow (by decide) (by decide)).trans ((rd_wr_same _ _ st (by decide)).trans (Nat.mod_eq_of_lt hst))
  · exact (habove (by decide) (by decide)).trans ((habove (by decide) (by decide)).trans ((habove (by decide) (by decide)).trans
      (habove (by decide) (by decide))))

theorem forceState_lt (s : State) (i : Nat) : s.forceState i < 8 := by
  unfold State.forceState
  split
  · decide
  · split <;> decide

/-- A refused command shows why, and changes no entry. -/
theorem forceRefuse_effect (s : State) {r : Nat} (hr : r < 16) (i : Option Nat) :
    s.Spares (s.forceRefuse r i) ∧ (s.forceRefuse r i).rd F.CAD_FORCE_STAT_RESULT = r := by
  cases i with
  | none => exact ⟨⟨rfl, rfl, rfl⟩, (rd_wr_same s _ r (by decide)).trans (Nat.mod_eq_of_lt hr)⟩
  | some i => exact ⟨(forceShow_leaves s i r _ _).spares, (forceShow_shows s hr (forceState_lt s i) _).2.1⟩

/-! ## Entries -/

/-- Of the engine at most the force table and what of it waits for a cycle start change; memory stays. -/
def State.OnlyForces (s t : State) : Prop :=
  t.cad.applied = s.cad.applied ∧ t.mem = s.mem ∧ t.cad.ctx = s.cad.ctx ∧ t.cad.tasks = s.cad.tasks

/-- An entry put and shown, with its change pending. -/
theorem putForce_shown (s : State) {i sig st : Nat} (hi : i < 4096) (hst : st < 8) (f : Option Force) (pend : Bool) :
    let t := (s.putForce i sig f).forceShow i 0 st pend
    s.OnlyForces t ∧ t.forceAt i = f ∧ (∀ j, j ≠ i → t.forceAt j = s.forceAt j) ∧ t.rd F.CAD_FORCE_STAT_RESULT = 0 ∧
      t.rd F.CAD_FORCE_STAT_IDX = i ∧ t.bit F.CAD_FORCE_STAT_PEND = pend := by
  intro t
  obtain ⟨hidx, hres, -, hpend, -⟩ := forceShow_shows (s.putForce i sig f) (i := i) (r := 0) (by decide) hst pend
  have hcad : t.cad.forces = Sparse.put s.cad.forces none i f := rfl
  refine ⟨⟨rfl, rfl, rfl, rfl⟩, ?_, fun j hj => ?_, hres, hidx.trans (Nat.mod_eq_of_lt hi), hpend⟩
  · unfold State.forceAt
    rw [hcad]
    exact sparse_get_put_same _ none i f
  · unfold State.forceAt
    rw [hcad]
    exact sparse_get_put_ne _ none none f hj

/-- What the registers show of entry `i`, which holds `f`. -/
def State.ShowsForce (t : State) (i : Nat) (f : Force) : Prop :=
  t.rd F.CAD_FORCE_STAT_RESULT = 0 ∧ t.rd F.CAD_FORCE_STAT_IDX = i ∧
    t.rd F.CAD_FORCE_SIG_SIGID = f.sig % 2 ^ 23 ∧ t.regGet R.CAD_FORCE_VAL = f.value ∧
    t.rd F.CAD_FORCE_STAT_STATE = (if f.orphan then 2 else 1) ∧ t.rd F.CAD_FORCE_STAT_QUAL = f.qual % 8

/-- The signal, value and quality of an entry in the registers. -/
def State.loadRegs (s : State) (sig : Nat) (v : Word) (q : Nat) : State :=
  ((s.wr F.CAD_FORCE_SIG_SIGID sig).regPut R.CAD_FORCE_VAL v).wr F.CAD_FORCE_STAT_QUAL q

theorem loadRegs_shows (s : State) (sig : Nat) (v : Word) (q i st : Nat) (hst : st < 8) (pend : Bool) :
    let t := (s.loadRegs sig v q).forceShow i 0 st pend
    s.Spares t ∧ t.rd F.CAD_FORCE_STAT_RESULT = 0 ∧ t.rd F.CAD_FORCE_STAT_IDX = i % 4096 ∧ t.rd F.CAD_FORCE_SIG_SIGID = sig % 2 ^ 23 ∧
      t.regGet R.CAD_FORCE_VAL = v ∧ t.rd F.CAD_FORCE_STAT_STATE = st ∧ t.rd F.CAD_FORCE_STAT_QUAL = q % 8 := by
  intro t
  have hshow := forceShow_leaves (s.loadRegs sig v q) i 0 st pend
  obtain ⟨hidx, hres, hstate, -, hqual⟩ := forceShow_shows (s.loadRegs sig v q) (i := i) (r := 0) (by decide) hst pend
  refine ⟨⟨rfl, rfl, rfl⟩, hres, hidx, ?_, ?_, hstate, hqual.trans (rd_wr_same _ _ q (by decide))⟩
  · exact (hshow.rd (by decide)).trans ((rd_wr_ne _ q (by decide)).trans ((rd_regPut_ne _ v (by decide)).trans (rd_wr_same s _ sig (by decide))))
  · exact (hshow.regGet (by decide)).trans ((regGet_wr_ne _ q (by decide)).trans (regGet_regPut_same _ _ v))

theorem forceLoad_some {i : Nat} {f : Force} (hi : i < 4096) (h : s.forceAt i = some f) :
    s.Spares (s.forceLoad i) ∧ (s.forceLoad i).ShowsForce i f := by
  have hstate : s.forceState i = if f.orphan then 2 else 1 := by
    unfold State.forceState
    rw [h]
  have hload : s.forceLoad i = (s.loadRegs f.sig f.value f.qual).forceShow i 0 (s.forceState i) (s.forcePending i) := by
    unfold State.forceLoad
    rw [h]
    rfl
  obtain ⟨hsp, hres, hidx, hsig, hval, hst, hqual⟩ := loadRegs_shows s f.sig f.value f.qual i _ (forceState_lt s i) (s.forcePending i)
  rw [hload]
  exact ⟨hsp, hres, hidx.trans (Nat.mod_eq_of_lt hi), hsig, hval, hst.trans hstate, hqual⟩

/-- A FREE entry reads as zeros. -/
theorem forceLoad_none {i : Nat} (h : s.forceAt i = none) :
    s.Spares (s.forceLoad i) ∧ (s.forceLoad i).rd F.CAD_FORCE_STAT_STATE = 0 ∧ (s.forceLoad i).regGet R.CAD_FORCE_VAL = 0 := by
  have hstate : s.forceState i = 0 := by
    unfold State.forceState
    rw [h]
  have hload : s.forceLoad i = (s.loadRegs 0 0 0).forceShow i 0 (s.forceState i) (s.forcePending i) := by
    unfold State.forceLoad
    rw [h]
    rfl
  obtain ⟨hsp, -, -, -, hval, hst, -⟩ := loadRegs_shows s 0 0 0 i _ (forceState_lt s i) (s.forcePending i)
  rw [hload]
  exact ⟨hsp, hst.trans hstate, hval⟩

/-! ## The commands (R133) -/

theorem boundSlot_reply (d : Word) (sig : Nat) : (s.reply d).boundSlot sig = s.boundSlot sig := boundSlot_withCad s s.cad _ sig

theorem slotType_reply (d : Word) (b k : Nat) : (s.reply d).slotType b k = s.slotType b k := slotType_withCad s s.cad _ b k

/-- What a force command does is what it does on the state with the reply. -/
theorem forceCmd_yields (h : s.MayWrite m .cad R.CAD_FORCE_CMD) (hf : s.following = false) {i : Instr} (k : State → State)
    (hi : exec i s = .next (s.forceCmd m k)) {p : State → Prop} (hp : p (k (s.reply 0))) : s.Yields i p :=
  ⟨_, hi.trans (congrArg _ (gatePair_open h hf k)), hp⟩

/-- FORCE_SET's refusals, in their order. -/
theorem forceSet_refuses (s : State) (q : Nat) :
    (s.forceLock = true → s.forceSet q = s.forceRefuse 3 (s.forceIdx s.forceSig)) ∧
      (s.forceLock = false → s.boundSlot s.forceSig = none → s.forceSet q = s.forceRefuse 2 (s.forceIdx s.forceSig)) ∧
      ∀ k, s.forceLock = false → s.boundSlot s.forceSig = some k →
        (s.slotType s.runBank k = 4 → nanWord (s.regGet R.CAD_FORCE_VAL) = true → s.forceSet q = s.forceRefuse 4 (s.forceIdx s.forceSig)) ∧
        (s.slotType s.runBank k ≠ 4 ∨ nanWord (s.regGet R.CAD_FORCE_VAL) = false → s.forceIdx s.forceSig = none → s.freeForce = none →
          s.forceSet q = s.forceRefuse 1 none) := by
  unfold State.forceSet
  refine ⟨fun hl => ?_, fun hl hb => ?_, fun k hl hb => ⟨fun ht hn => ?_, fun hok hi hfree => ?_⟩⟩
  · simp only [hl, if_true]
  · simp only [hl, hb, Bool.false_eq_true, if_false]
  · simp only [hl, hb, ht, hn, decide_true, Bool.and_true, Bool.false_eq_true, if_false, if_true]
  · have hval : (decide (s.slotType s.runBank k = 4) && nanWord (s.regGet R.CAD_FORCE_VAL)) = false := by
      rcases hok with h | h <;> simp [h]
    simp only [hl, hb, hval, hi, hfree, Option.orElse_none, Bool.false_eq_true, if_false]

/-- FORCE_SET puts its entry at the signal's index, or at the lowest FREE one. -/
theorem forceSet_puts {q k i : Nat} (hl : s.forceLock = false) (hb : s.boundSlot s.forceSig = some k)
    (hok : s.slotType s.runBank k ≠ 4 ∨ nanWord (s.regGet R.CAD_FORCE_VAL) = false)
    (hi : s.forceIdx s.forceSig = some i ∨ s.forceIdx s.forceSig = none ∧ s.freeForce = some i) :
    s.forceSet q = (s.putForce i s.forceSig (some ⟨s.forceSig, storeVal (s.slotType s.runBank k) (s.regGet R.CAD_FORCE_VAL), q, false⟩)).forceShow
      i 0 1 true := by
  have hval : (decide (s.slotType s.runBank k = 4) && nanWord (s.regGet R.CAD_FORCE_VAL)) = false := by
    rcases hok with h | h <;> simp [h]
  have hidx : ((s.forceIdx s.forceSig).orElse fun _ => s.freeForce) = some i := by
    rcases hi with h | ⟨h, hfree⟩
    · rw [h]; rfl
    · rw [h, hfree]; rfl
  unfold State.forceSet
  simp only [hl, hb, hval, hidx, Bool.false_eq_true, if_false]

theorem forceRelease_missing (h : s.MayWrite m .cad R.CAD_FORCE_CMD) (hf : s.following = false) (hi : s.forceIdx s.forceSig = none) :
    exec (.forceRelease m) s = .next ((s.reply 0).forceRefuse 5 none) := by
  have h0 : (s.reply 0).forceIdx (s.reply 0).forceSig = none := hi
  refine congrArg Host.Outcome.next ((gatePair_open h hf _).trans ?_)
  simp only [h0]

theorem forceRelease_found (h : s.MayWrite m .cad R.CAD_FORCE_CMD) (hf : s.following = false) {i : Nat}
    (hi : s.forceIdx s.forceSig = some i) :
    exec (.forceRelease m) s = .next (((s.reply 0).putForce i s.forceSig none).forceShow i 0 0 true) := by
  have h0 : (s.reply 0).forceIdx (s.reply 0).forceSig = some i := hi
  refine congrArg Host.Outcome.next ((gatePair_open h hf _).trans ?_)
  simp only [h0]
  rfl

theorem rearm_missing (h : s.MayWrite m .cad R.CAD_FORCE_CMD) (hf : s.following = false) (hi : s.forceIdx s.forceSig = none) :
    exec (.rearm m) s = .next ((s.reply 0).forceRefuse 5 none) := by
  have h0 : (s.reply 0).forceIdx (s.reply 0).forceSig = none := hi
  refine congrArg Host.Outcome.next ((gatePair_open h hf _).trans ?_)
  simp only [h0]

/-- REARM of an ORPHAN entry. -/
theorem rearm_orphan (h : s.MayWrite m .cad R.CAD_FORCE_CMD) (hf : s.following = false) {i : Nat} {f : Force}
    (hi : s.forceIdx s.forceSig = some i) (hat : s.forceAt i = some f) (horphan : f.orphan = true) :
    exec (.rearm m) s = .next (if s.forceLock then (s.reply 0).forceRefuse 3 (some i)
      else if (s.boundSlot f.sig).isNone then (s.reply 0).forceRefuse 2 (some i)
      else ((s.reply 0).putForce i f.sig (some { f with orphan := false })).forceShow i 0 1 true) := by
  have h0 : (s.reply 0).forceIdx (s.reply 0).forceSig = some i := hi
  have h1 : (s.reply 0).forceAt i = some f := hat
  refine congrArg Host.Outcome.next ((gatePair_open h hf _).trans ?_)
  have hlock : (s.reply 0).forceLock = s.forceLock := rfl
  simp only [h0, h1, hlock, boundSlot_reply, horphan, Bool.not_true, Bool.false_eq_true, if_false]

/-- An ORPHAN entry at or above `n`. -/
def orphanFrom (n : Nat) (e : Nat × Option Force) : Bool := decide (n ≤ e.1) && (match e.2 with | some f => f.orphan | none => false)

theorem orphanFrom_none {l : List (Nat × Option Force)} {n : Nat} (h : ∀ e ∈ l, n ≤ e.1 → ∀ f, e.2 = some f → f.orphan = false) :
    l.find? (orphanFrom n) = none := by
  refine List.find?_eq_none.mpr fun e he => ?_
  unfold orphanFrom
  obtain ⟨k, _ | f⟩ := e
  · simp
  · simpa using fun hle => h _ he hle f rfl

theorem nextOrphan_found (h : s.MayWrite m .cad R.CAD_FORCE_CMD) (hf : s.following = false) {idx : BitVec 12} {e : Nat × Option Force}
    (hfind : s.cad.forces.find? (orphanFrom idx.toNat) = some e) : exec (.nextOrphan m idx) s = .next ((s.reply 0).forceLoad e.1) := by
  refine congrArg Host.Outcome.next ((gatePair_open h hf _).trans ?_)
  split
  next hnone => exact nomatch hfind.symm.trans hnone
  next e' he' =>
    cases hfind.symm.trans he'
    rfl

theorem nextOrphan_missing (h : s.MayWrite m .cad R.CAD_FORCE_CMD) (hf : s.following = false) {idx : BitVec 12}
    (hfind : s.cad.forces.find? (orphanFrom idx.toNat) = none) : exec (.nextOrphan m idx) s = .next ((s.reply 0).forceRefuse 5 none) := by
  refine congrArg Host.Outcome.next ((gatePair_open h hf _).trans ?_)
  split
  next => rfl
  next e' he' => exact nomatch hfind.symm.trans he'

/-- RELEASE_ALL leaves no entry. -/
theorem releaseAll_yields (h : s.MayWrite m .cad R.CAD_FORCE_CMD) (hf : s.following = false) :
    s.Yields (.releaseAll m) fun t => s.OnlyForces t ∧ t.cad.forces = [] ∧ t.rd F.CAD_FORCE_STAT_RESULT = 0 := by
  refine forceCmd_yields h hf _ rfl ?_
  extract_lets all c s1 s2
  have hres : s2.rd F.CAD_FORCE_STAT_RESULT = 0 := rd_wr_same s1 _ 0 (by decide)
  split
  · refine ⟨⟨rfl, rfl, rfl, rfl⟩, rfl, ?_⟩
    exact (rd_wr_disjoint _ _ (by decide) (by decide) (.inl (by decide))).trans
      ((rd_wr_disjoint _ _ (by decide) (by decide) (.inl (by decide))).trans hres)
  · exact ⟨⟨rfl, rfl, rfl, rfl⟩, rfl, hres⟩

/-- Settles O23: each command by what its entry is and what the table holds. -/
theorem forceCommands : Obligations.ForceCommands := by
  intro m s h hf applied refused shows
  have hrefused {i : Instr} {r : Nat} {at_ : Option Nat} (hr : r < 16) (hi : exec i s = .next ((s.reply 0).forceRefuse r at_)) : refused i r :=
    ⟨_, hi, forceRefuse_effect (s.reply 0) hr at_⟩
  have hset {q : BitVec 3} (hq : q ≠ 7) : exec (.forceSet m q) s = .next ((s.reply 0).forceSet q.toNat) :=
    congrArg Host.Outcome.next ((gatePair_open h hf _).trans (if_neg hq))
  have hputs {i : Instr} {k sig st : Nat} (hk : k < 4096) (hst : st < 8) {f : Option Force}
      (hi : exec i s = .next (((s.reply 0).putForce k sig f).forceShow k 0 st true)) : s.Yields i fun t => applied t ∧ t.forceAt k = f ∧
        (∀ j, j ≠ k → t.forceAt j = s.forceAt j) ∧ t.rd F.CAD_FORCE_STAT_RESULT = 0 ∧ t.rd F.CAD_FORCE_STAT_IDX = k ∧
        t.bit F.CAD_FORCE_STAT_PEND = true := ⟨_, hi, putForce_shown (s.reply 0) hk hst f true⟩
  refine ⟨fun q hq => ?_, fun hi => ⟨hrefused (by decide) (forceRelease_missing h hf hi), hrefused (by decide) (rearm_missing h hf hi)⟩,
    fun i hlt hi => ⟨?_, fun f hat horphan => ?_⟩,
    fun idx f hat => forceCmd_yields h hf (fun s => s.forceLoad idx.toNat) rfl (forceLoad_some idx.isLt hat),
    fun idx hat => forceCmd_yields h hf (fun s => s.forceLoad idx.toNat) rfl (forceLoad_none hat), releaseAll_yields h hf,
    fun idx i f hlt hat hfind => ⟨_, nextOrphan_found h hf hfind, forceLoad_some hlt hat⟩,
    fun idx hno => hrefused (by decide) (nextOrphan_missing h hf (orphanFrom_none hno))⟩
  · obtain ⟨hlocked, hunbound, hvalue⟩ := forceSet_refuses (s.reply 0) q.toNat
    refine ⟨fun hl => hrefused (by decide) ((hset hq).trans (congrArg _ (hlocked hl))),
      fun hl hb => hrefused (by decide) ((hset hq).trans (congrArg _ (hunbound hl ((boundSlot_reply 0 _).trans hb)))), fun k hl hb => ?_⟩
    have hb' : (s.reply 0).boundSlot s.forceSig = some k := (boundSlot_reply 0 _).trans hb
    obtain ⟨hnan, hfull⟩ := hvalue k hl hb'
    have htype : (s.reply 0).slotType (s.reply 0).runBank k = s.slotType s.runBank k := slotType_reply 0 s.runBank k
    rw [htype] at hnan hfull
    refine ⟨fun ht hn => hrefused (by decide) ((hset hq).trans (congrArg _ (hnan ht hn))),
      fun hok => ⟨fun hi hfree => hrefused (by decide) ((hset hq).trans (congrArg _ (hfull hok hi hfree))), fun i hlt hi => ?_⟩⟩
    have hput := forceSet_puts (q := q.toNat) (s := s.reply 0) hl hb' (htype ▸ hok) hi
    rw [htype] at hput
    exact hputs hlt (by decide) ((hset hq).trans (congrArg _ hput))
  · obtain ⟨t, ht, happlied, hat, hother, hres, hidx, -⟩ := hputs hlt (by decide) (forceRelease_found h hf hi)
    exact ⟨t, ht, happlied, hat, hother, hres, hidx⟩
  · have hrearm := rearm_orphan h hf hi hat horphan
    refine ⟨fun hl => hrefused (by decide) (hrearm.trans (congrArg _ (if_pos hl))),
      fun hl hb => hrefused (by decide) (hrearm.trans (congrArg _ ((if_neg (by simp [hl])).trans (if_pos hb)))), fun hl hb => ?_⟩
    rw [if_neg (by simp [hl]), if_neg (Bool.not_eq_true _ ▸ Option.isNone_eq_false_iff.mpr hb)] at hrearm
    obtain ⟨t, ht, happlied, hat, -, hres, -, -⟩ := hputs hlt (by decide) hrearm
    exact ⟨t, ht, happlied, hat, hres⟩

end Sys2Proof.Machine
end

/-! # Online program change (O24) -/

section
namespace Sys2Proof.Machine

variable {s t u : State} {A : Nat → Prop} {m : Master}

/-! ## A change that is abandoned (R149) -/

/-- CAD_BANK_STAT is the one register that the banks' states need. -/
def BankStat (a : Nat) : Prop := a = R.CAD_BANK_STAT

theorem State.KeepsAt.banks (h : s.KeepsAt BankStat t) : t.bankState 0 = s.bankState 0 ∧ t.bankState 1 = s.bankState 1 :=
  ⟨h.bankState rfl 0, h.bankState rfl 1⟩

theorem State.KeepsAt.offBank (h : s.KeepsAt OffBurst t) : s.KeepsAt BankStat t := fun a ha => h a (ha ▸ bankStat_off)

theorem abandonChg_erred (s : State) {r : Nat} (hr : r < 2 ^ 14) : (s.abandonChg r).Erred .cad 0x89 r := by
  have hregs := (applyHeld_keeps ((((s.wr F.CAD_CHG_STAT_STATE 5).wr F.CAD_CHG_STAT_RESULT r).raise .cad 11).err .cad 0x89 r)).1
  obtain ⟨hcode, hwoff⟩ : ((((s.wr F.CAD_CHG_STAT_STATE 5).wr F.CAD_CHG_STAT_RESULT r).raise .cad 11).err .cad 0x89 r).Erred .cad 0x89 r :=
    err_erred (by decide) hr
  exact ⟨(rd_congr hregs _).trans hcode, (rd_congr hregs _).trans hwoff⟩

theorem abandonChg_keepsAt (s : State) {r : Nat} (hr : r < 256) : s.KeepsAt BankStat (s.abandonChg r) := by
  obtain ⟨-, -, hregs, -⟩ := abandonChg_effect s hr
  exact fun a ha => hregs a (by rw [ha]; unfold LoadReg; decide)

/-- An instruction that abandons the change with result `r`, from a state `u` that it has so far only passed through. -/
theorem abandons_yields {i : Instr} {r : Nat} (hr : r < 256) (hi : exec i s = .next (u.abandonChg r)) (hk : s.KeepsAt BankStat u)
    (hheld : u.cad.held = s.cad.held) (hm : u.mem = s.mem) :
    s.Yields i fun t => t.chgState = 5 ∧ t.rd F.CAD_CHG_STAT_RESULT = r ∧ (t.bankState 0 = s.bankState 0 ∧ t.bankState 1 = s.bankState 1) ∧
      (s.cad.held = [] → t.mem = s.mem) ∧ t.Erred .cad 0x89 r ∧ t.cad.held = [] := by
  obtain ⟨hst, hres, -, hcad, hmem⟩ := abandonChg_effect u hr
  exact ⟨_, hi, hst, hres, (hk.trans (abandonChg_keepsAt u hr)).banks, fun h => (hmem (hheld.trans h)).trans hm,
    abandonChg_erred u (by omega), by rw [hcad]⟩

/-! ## ARM and CANCEL (R142, R149, R151) -/

theorem arm_exec (h : s.MayWrite m .cad R.CAD_CHG_CMD) (hf : s.following = false) (refuse : Bool) :
    exec (.arm m refuse) s = .next (
      if s.chgLock then (s.reply 0).err .cad 2 (woffOf .cad R.CAD_CHG_CMD)
      else if 1 ≤ s.chgState && s.chgState ≤ 3 then ((s.reply 0).wr F.CAD_CHG_STAT_RESULT 9).err .cad 0x8B s.chgState
      else
        let s1 := ((s.reply 0).commitStage.setChg 1).wr F.CAD_CHG_STAT_RESULT 0
        { s1 with cad := { s1.cad with chgRefuse := refuse } }) :=
  congrArg Host.Outcome.next (gatePair_open h hf _)

theorem cancel_exec (h : s.MayWrite m .cad R.CAD_CHG_CMD) (hf : s.following = false) :
    exec (.cancel m) s = .next (if s.chgState = 1 || s.chgState = 2 then (s.reply 0).abandonChg 7 else s.reply 0) :=
  congrArg Host.Outcome.next (gatePair_open h hf _)

/-- The commit of the staging address at ARM. -/
theorem commitStage_leaves (s : State) :
    s.Leaves (fun a => a ≠ R.CAD_CHG_STAGE_LO ∧ a ≠ R.CAD_CHG_STAGE_HI ∧ a ≠ R.BLK_STAT .cad) s.commitStage :=
  commit_leaves (fun f hf => by
    obtain hf | hf : f.addr = R.CAD_CHG_STAGE_LO ∨ f.addr = R.CAD_CHG_STAGE_HI := by simpa using hf
    · exact fun h => h.1 hf
    · exact fun h => h.2.1 hf) fun h => h.2.2 rfl

theorem arm_locked (h : s.MayWrite m .cad R.CAD_CHG_CMD) (hf : s.following = false) (refuse : Bool) (hl : s.chgLock = true) :
    s.Yields (.arm m refuse) fun t => t.chgState = s.chgState ∧ s.Spares t ∧ t.Erred .cad 2 (woffOf .cad R.CAD_CHG_CMD) :=
  ⟨_, (arm_exec h hf refuse).trans (congrArg _ (if_pos hl)), rd_of_regGet (regGet_err_ne (s := s.reply 0) (by decide) (by decide)), err_spares,
    err_erred (by decide) (by decide)⟩

theorem arm_busy (h : s.MayWrite m .cad R.CAD_CHG_CMD) (hf : s.following = false) (refuse : Bool) (hl : s.chgLock = false)
    (h1 : 1 ≤ s.chgState) (h3 : s.chgState ≤ 3) : s.Yields (.arm m refuse) fun t => t.chgState = s.chgState ∧ s.Spares t ∧
      t.rd F.CAD_CHG_STAT_RESULT = 9 ∧ t.Erred .cad 0x8B s.chgState := by
  have herr {f : Fld} (hf : f.addr = R.CAD_CHG_STAT) :
      (((s.reply 0).wr F.CAD_CHG_STAT_RESULT 9).err .cad 0x8B s.chgState).rd f = ((s.reply 0).wr F.CAD_CHG_STAT_RESULT 9).rd f :=
    rd_of_regGet (regGet_err_ne (by rw [hf]; decide) (by rw [hf]; decide))
  refine ⟨_, (arm_exec h hf refuse).trans (congrArg _ ((if_neg (by simp [hl])).trans (if_pos (by simp [h1, h3])))), ?_, ?_, ?_,
    err_erred (by decide) (h3.trans_lt (by decide))⟩
  · exact (herr rfl).trans (rd_wr_disjoint (s.reply 0) 9 (by decide) (by decide) (.inl (by decide)))
  · exact (err_leaves (A := fun _ => False) id id : State.Leaves _ ((s.reply 0).wr F.CAD_CHG_STAT_RESULT 9) _).spares
  · exact (herr rfl).trans (rd_wr_same _ _ 9 (by decide))

theorem arm_starts (h : s.MayWrite m .cad R.CAD_CHG_CMD) (hf : s.following = false) (refuse : Bool) (hl : s.chgLock = false)
    (hst : s.chgState = 0 ∨ s.chgState = 4 ∨ s.chgState = 5) : s.Yields (.arm m refuse) fun t => t.chgState = 1 ∧
      t.rd F.CAD_CHG_STAT_RESULT = 0 ∧ t.cad = { s.cad with chgRefuse := refuse } ∧ t.mem = s.mem ∧
      t.bankState 0 = s.bankState 0 ∧ t.bankState 1 = s.bankState 1 := by
  have hidle : (1 ≤ s.chgState && s.chgState ≤ 3) ≠ true := by
    rcases hst with h | h | h <;> rw [h] <;> decide
  have hcommit := commitStage_leaves (s.reply 0)
  have hbank : (s.reply 0).KeepsAt BankStat (((s.reply 0).commitStage.setChg 1).wr F.CAD_CHG_STAT_RESULT 0) :=
    ((hcommit.mono (B := BankStat) fun a ha => by rw [ha]; decide).trans
      ((wr_leaves (by unfold BankStat; decide)).trans (wr_leaves (by unfold BankStat; decide)))).keepsAt
  refine ⟨_, (arm_exec h hf refuse).trans (congrArg _ ((if_neg (by simp [hl])).trans (if_neg hidle))), ?_, ?_, ?_, hcommit.mem, hbank.banks⟩
  · exact (rd_wr_disjoint ((s.reply 0).commitStage.setChg 1) 0 (by decide) (by decide) (.inl (by decide))).trans (rd_wr_same _ _ 1 (by decide))
  · exact rd_wr_same ((s.reply 0).commitStage.setChg 1) _ 0 (by decide)
  · exact congrArg (fun c : Cad => { c with chgRefuse := refuse }) hcommit.cad

/-! ## The check, the window and the time limit (R142 to R144, R148) -/

theorem chgCheck_le (s : State) : s.chgCheck ≤ 4 := by
  fun_cases State.chgCheck s <;> decide

theorem chgCheckEnd_exec (hlive : s.Live .cad) (h1 : s.chgState = 1) :
    exec .chgCheckEnd s = .next (if s.chgCheck ≠ 0 then s.abandonChg s.chgCheck
      else
        let s1 := (s.setChg 2).wr F.CAD_CHG_DUR_D (min 0xFFFFFF (migrUs (s.memSize (1 - s.runBank))))
        { s1 with cad := { s1.cad with chgArmed := s1.nowNs } }) :=
  congrArg Host.Outcome.next ((whileLive_live hlive _).trans (if_neg (not_not.mpr h1)))

theorem chgCheckEnd_armed (hlive : s.Live .cad) (h1 : s.chgState = 1) (hok : s.chgCheck = 0) :
    s.Yields .chgCheckEnd fun t => t.chgState = 2 ∧ t.cad = { s.cad with chgArmed := s.nowNs } ∧
      (t.bankState 0 = s.bankState 0 ∧ t.bankState 1 = s.bankState 1) ∧ t.mem = s.mem := by
  have hbank (d : Nat) : s.KeepsAt BankStat ((s.setChg 2).wr F.CAD_CHG_DUR_D d) :=
    ((wr_leaves (by unfold BankStat; decide)).trans (wr_leaves (by unfold BankStat; decide)) : s.Leaves BankStat _).keepsAt
  refine ⟨_, (chgCheckEnd_exec hlive h1).trans (congrArg _ (if_neg (not_not.mpr hok))), ?_, rfl, (hbank _).banks, rfl⟩
  exact (rd_wr_ne (s.setChg 2) _ (by decide)).trans (rd_wr_same s _ 2 (by decide))

theorem changeWindow_exec (hlive : s.Live .cad) (h2 : s.chgState = 2) (hf : s.following = false) (hw : s.windowOpen = true) :
    exec .changeWindow s = .next (if s.cad.chgRefuse && s.wouldOrphan (1 - s.runBank) then s.abandonChg 6 else (s.emit .change).beginMigration) :=
  congrArg Host.Outcome.next ((whileLive_live hlive _).trans (if_neg (by simp [h2, hf, hw])))

theorem changeWindow_migrates (hlive : s.Live .cad) (h2 : s.chgState = 2) (hf : s.following = false) (hw : s.windowOpen = true)
    (hok : s.cad.chgRefuse = false ∨ s.wouldOrphan (1 - s.runBank) = false) :
    s.Yields .changeWindow fun t => t.chgState = 3 ∧ t.cad = { s.cad with held := [] } ∧
      (t.bankState 0 = s.bankState 0 ∧ t.bankState 1 = s.bankState 1) ∧ t.mem = s.mem := by
  have hno : (s.cad.chgRefuse && s.wouldOrphan (1 - s.runBank)) ≠ true := by
    rcases hok with h | h <;> simp [h]
  obtain ⟨x, hx⟩ := emit_eq s .change
  have hexec := (changeWindow_exec hlive h2 hf hw).trans (congrArg _ (if_neg hno))
  rw [hx] at hexec
  have hbank : s.KeepsAt BankStat (s.setChg 3) := (wr_leaves (by unfold BankStat; decide) : s.Leaves BankStat _).keepsAt
  exact ⟨_, hexec, rd_wr_same s _ 3 (by decide), rfl, hbank.banks, rfl⟩

theorem chgTimeout_exec (hlive : s.Live .cad) (h2 : s.chgState = 2) (hlate : s.cad.chgArmed + s.chgTimeoutNs ≤ s.nowNs) :
    exec .chgTimeout s = .next (s.abandonChg 5) :=
  congrArg Host.Outcome.next ((whileLive_live hlive _).trans (if_neg (by simp [h2, hlate])))

/-! ## A burst written through a context (R445) -/

theorem store_keepsAt (s : State) (a : Nat) (bs : List Byte) : s.KeepsAt OffBurst (s.store a bs) := by
  have hseen (l : List Nat) : s.Leaves OffBurst (l.foldl State.ueSeen s) := foldl_leaves fun t w _ => ueSeen_leaves
  unfold State.store
  extract_lets n part s1
  exact (hseen (s.ue.filter part)).keepsAt.trans (keepsAt_of_regs rfl)

theorem writeCuts_keepsAt {ctx : Nat} {bs : List Byte} {l : List (Nat × Nat)} : s.KeepsAt OffBurst (s.writeCuts ctx bs l).1 := by
  fun_induction State.writeCuts s ctx bs l with
  | case1 => exact keepsAt_refl _
  | case2 s bs va k t s1 c hx => exact ((xlate_eq_leaves hx).trans xltFault_leaves).keepsAt
  | case3 s bs va k t s1 pa hx => exact (xlate_eq_leaves hx).keepsAt
  | case4 s bs va k t s1 pa hx _ ih => exact ((xlate_eq_leaves hx).keepsAt.trans (store_keepsAt _ _ _)).trans ih

theorem dmaWrite_keepsAt (s : State) (ctx va : Nat) (bs : List Byte) : s.KeepsAt OffBurst (s.dmaWrite ctx va bs).1 := writeCuts_keepsAt

theorem stageError_keepsAt (s : State) (off : Nat) : s.KeepsAt OffBurst (s.stageError off) := by
  have hmark (u : State) (l : List Nat) : u.Leaves OffBurst { u with ue := l } := (leaves_refl u).frame rfl rfl rfl rfl rfl
  unfold State.stageError
  split
  · next hx => exact State.Leaves.keepsAt (((xlate_eq_leaves hx).trans (hmark _ _)).trans ueSeen_leaves)
  · next hx => exact (xlate_eq_leaves hx).keepsAt

theorem migEvents_keepsAt (s : State) (a b : Nat) (f : Nat → MigInst) : s.KeepsAt OffBurst (s.migEvents a b f) := by
  have hstart : s.Leaves OffBurst { s with draws := s.draws + 65536 } := (leaves_refl s).frame rfl rfl rfl rfl rfl
  refine (hstart.trans (foldl_leaves fun t i _ => ?_)).keepsAt
  extract_lets x s1
  have h1 : t.Leaves OffBurst s1 := by
    refine ite_leaves (leaves_refl t) ?_
    split
    · exact ueSeen_leaves
    · exact leaves_refl t
  exact ite_leaves h1 (h1.trans (event_leaves fun a ha => ha.2.2.2))

/-! ## The commit of a change (R145 to R147) -/

theorem activate_other (s : State) (b : Fin 2) (h : s.bankState (1 - b.val) = 3) : (s.activate b).bankState (1 - b.val) = 2 := by
  unfold State.activate
  extract_lets s1 s2
  have hhash : (s1.setBank b 3).StartKeeps s2 := putHash_startKeeps
  have hloaded : s1.bankState (1 - b.val) = 2 := by
    unfold s1
    rw [if_pos h]
    exact bankState_setBank_same _ (by decide)
  exact (hhash.1.bankState (by decide) _).trans ((bankState_setBank_other b).trans hloaded)

theorem activate_poisoned (s : State) (b : Nat) : (s.activate b).cad.poisoned = s.cad.poisoned := by
  unfold State.activate
  extract_lets s1 s2
  have hhash : (s1.setBank b 3).StartKeeps s2 := putHash_startKeeps
  have h1 : s1.cad.poisoned = s.cad.poisoned := by
    unfold s1
    split <;> rfl
  exact hhash.2.trans h1

/-! ### Its end: what leaves the pages of CAD and the engine alone -/

/-- The registers of CAD's pages and the engine's own data stay. -/
def State.EngineKeeps (s t : State) : Prop := s.KeepsAt (fun a => blkAt a = some .cad) t ∧ t.cad = s.cad

theorem engineKeeps_refl (s : State) : s.EngineKeeps s := ⟨keepsAt_refl s, rfl⟩

theorem State.EngineKeeps.trans (h : s.EngineKeeps t) (h' : t.EngineKeeps u) : s.EngineKeeps u := ⟨h.1.trans h'.1, h'.2.trans h.2⟩

theorem event_engineKeeps {b : Blk} {n sev p0 p1 p2 p3 : Nat} : s.EngineKeeps (s.event b n sev p0 p1 p2 p3) := by
  have h : s.Leaves (fun a => blkAt a = some .cad) (s.event b n sev p0 p1 p2 p3) := event_leaves fun a ha => by rw [ha]; decide
  exact ⟨h.keepsAt, h.cad⟩

theorem dropSigs_engineKeeps {sigs : List Nat} : s.EngineKeeps (s.dropSigs sigs) := by
  have hfold : s.EngineKeeps (sigs.foldl State.dropOut s) :=
    foldl_relates engineKeeps_refl State.EngineKeeps.trans fun t x _ => ⟨keepsAt_of_regs rfl, rfl⟩
  unfold State.dropSigs
  dsimp only
  split
  · exact hfold
  · exact hfold.trans event_engineKeeps

/-- A slot in ERROR shows in the loop processor's page and the event record only. -/
theorem slotError_engineKeeps (s : State) (n : Fin 64) : s.EngineKeeps (s.slotError n) := by
  have hslot : blkAt (R.LPE_SLOTn_STAT n) ≠ some .cad := by revert n; decide
  have hwr : s.Leaves (fun a => blkAt a = some .cad) (s.wr (F.LPE_SLOTn_STAT_STATE n) 2) := wr_leaves hslot
  have herr (u : State) (sig : Nat) : (u.dropOut sig).Leaves (fun a => blkAt a = some .cad) ((u.dropOut sig).err .lpe 0x83 n.val) :=
    err_leaves (by decide) (by decide)
  have hraise (u : State) : u.Leaves (fun a => blkAt a = some .cad) (u.raise .lpe 4) := raise_leaves (by decide)
  have hout (u : State) (sig : Nat) : u.EngineKeeps (u.dropOut sig) := ⟨keepsAt_of_regs rfl, rfl⟩
  have hall (u : State) (sig : Nat) : u.EngineKeeps (((u.dropOut sig).err .lpe 0x83 n.val).raise .lpe 4) :=
    (hout u sig).trans ⟨((herr u sig).trans (hraise _)).keepsAt, ((herr u sig).trans (hraise _)).cad⟩
  exact (State.EngineKeeps.trans ⟨hwr.keepsAt, hwr.cad⟩ (hall _ _)).trans event_engineKeeps

theorem slotErrors_engineKeeps {p : Nat → Bool} : s.EngineKeeps (s.slotErrors p) := by
  refine foldl_relates engineKeeps_refl State.EngineKeeps.trans fun t n _ => ?_
  split
  · exact slotError_engineKeeps t n
  · exact engineKeeps_refl t

/-- The STATE of the change, its counts and its result, with the cause. -/
def State.chgDone (s : State) (nconv ninit : Nat) : State :=
  ((((s.setChg 4).wr F.CAD_CHG_CNT_NCONV nconv).wr F.CAD_CHG_CNT_NINIT ninit).wr F.CAD_CHG_STAT_RESULT 0).raise .cad 10

theorem chgDone_effect (s : State) (nconv ninit : Nat) : s.StartKeeps (s.chgDone nconv ninit) ∧ (s.chgDone nconv ninit).chgState = 4 ∧
    (s.chgDone nconv ninit).rd F.CAD_CHG_STAT_RESULT = 0 := by
  have hraise {f : Fld} (hf : f.addr = R.CAD_CHG_STAT) : (s.chgDone nconv ninit).rd f =
      ((((s.setChg 4).wr F.CAD_CHG_CNT_NCONV nconv).wr F.CAD_CHG_CNT_NINIT ninit).wr F.CAD_CHG_STAT_RESULT 0).rd f :=
    rd_of_regGet (regGet_raise_ne (by rw [hf]; decide))
  have hset : s.Leaves StartReg ((((s.setChg 4).wr F.CAD_CHG_CNT_NCONV nconv).wr F.CAD_CHG_CNT_NINIT ninit).wr F.CAD_CHG_STAT_RESULT 0) :=
    (((wr_leaves (by decide)).trans (wr_leaves (by decide))).trans (wr_leaves (by decide))).trans (wr_leaves (by decide))
  refine ⟨hset.startKeeps.trans raise_startKeeps, ?_, (hraise rfl).trans (rd_wr_same _ _ 0 (by decide))⟩
  exact (hraise rfl).trans ((rd_wr_disjoint _ 0 (by decide) (by decide) (.inl (by decide))).trans
    ((rd_wr_ne _ ninit (by decide)).trans ((rd_wr_ne _ nconv (by decide)).trans (rd_wr_same s _ 4 (by decide)))))

theorem State.KeepsAt.taskState {n : Fin 8} (h : s.KeepsAt A t) (hA : A (R.CAD_TASKn_STAT n)) : t.taskState n = s.taskState n := h.rd hA

theorem applyHeld_poisoned (s : State) : s.applyHeld.cad.poisoned = s.cad.poisoned := by rw [(applyHeld_keeps s).2.1]

/-- The change committed: its bank is ACTIVE and the other LOADED, and nothing is held or POISONED. -/
theorem commitChange_effect (s : State) (a : Nat) (b : Fin 2) (f : Nat → MigInst) (h : s.bankState (1 - b.val) = 3) :
    (s.commitChange a b f).chgState = 4 ∧ (s.commitChange a b f).rd F.CAD_CHG_STAT_RESULT = 0 ∧ (s.commitChange a b f).bankState b = 3 ∧
      (s.commitChange a b f).bankState (1 - b.val) = 2 ∧ (s.commitChange a b f).cad.held = [] ∧ (s.commitChange a b f).cad.poisoned = [] ∧
      ∀ n, (s.commitChange a b f).taskState n = s.taskState n := by
  unfold State.commitChange
  extract_lets is gone s1 c s2 s3 s4 s5 driven
  have h1 : s.StartKeeps s1 := foldl_startKeeps fun t i _ => convFlags_startKeeps
  have h2 : s.KeepsAt StartReg s2 := h1.1.trans (keepsAt_of_regs rfl)
  have hloaded := activate_other s2 b ((h2.bankState (by decide) _).trans h)
  obtain ⟨nconv, ninit, hs5⟩ : ∃ nconv ninit, s5 = ((s2.activate b).rebind.chgDone nconv ninit).dropSigs gone := ⟨_, _, rfl⟩
  obtain ⟨hdone, hst, hres⟩ := chgDone_effect (s2.activate b).rebind nconv ninit
  have hstart := rebind_startKeeps.trans hdone
  have hpois : s2.cad.poisoned = [] := rfl
  obtain ⟨htail, htailCad⟩ : ((s2.activate b).rebind.chgDone nconv ninit).EngineKeeps (s5.slotErrors driven) := by
    rw [hs5]
    exact dropSigs_engineKeeps.trans slotErrors_engineKeeps
  have hclear : (s5.slotErrors driven).cad.poisoned = [] := by rw [htailCad, hstart.2, activate_poisoned, hpois]
  obtain ⟨hregs, hcad, -⟩ := applyHeld_keeps (s5.slotErrors driven)
  have hend := htail.trans (keepsAt_of_regs hregs)
  have hpage : ∀ n : Fin 8, blkAt (R.CAD_TASKn_STAT n) = some .cad ∧ R.CAD_TASKn_STAT n ≠ R.CAD_BANK_STAT := by decide
  refine ⟨(hend.rd (by decide)).trans hst, (hend.rd (by decide)).trans hres, ?_, ?_, by rw [hcad], ?_, fun n => ?_⟩
  · exact (hend.bankState (by decide) b).trans ((hstart.1.bankState (by decide) b).trans (activate_active s2 b))
  · exact (hend.bankState (by decide) _).trans ((hstart.1.bankState (by decide) _).trans hloaded)
  · exact (applyHeld_poisoned _).trans hclear
  · exact (hend.taskState (hpage n).1).trans ((hstart.1.taskState (startReg_task n)).trans
      (((activate_keeps s2 b).taskState ⟨startReg_task n, (hpage n).2⟩).trans (h2.taskState (startReg_task n))))

/-! ## The end of a migration (R145 to R147) -/

/-- The ACTIVE bank and the other one. -/
theorem activeBank_other {a : Nat} (h : s.activeBank = some a) : ∃ b : Fin 2, a = 1 - b.val ∧ 1 - a = b.val ∧ s.bankState (1 - b.val) = 3 := by
  unfold State.activeBank at h
  split_ifs at h with h0 h1
  · cases h
    exact ⟨1, rfl, rfl, h0⟩
  · cases h
    exact ⟨0, rfl, rfl, h1⟩

/-- The new instance memory at the end of a migration from bank `a`, by the map at `off`. -/
def State.migBytes (s : State) (a off : Nat) : List Byte := s.newMemory a (1 - a) (s.migInst a (1 - a) off)

/-- The write of the new instance memory in the staging range. -/
def State.migBuild (s : State) (a off : Nat) : State × Bool :=
  (s.migEvents a (1 - a) (s.migInst a (1 - a) off)).dmaWrite 0 s.stageAddr (s.migBytes a off)

theorem migBuild_keepsAt {a off : Nat} {ok : Bool} (hw : s.migBuild a off = (u, ok)) : s.KeepsAt OffBurst u := by
  have h : s.KeepsAt OffBurst (s.migBuild a off).1 := (migEvents_keepsAt s a (1 - a) (s.migInst a (1 - a) off)).trans (dmaWrite_keepsAt _ _ _ _)
  rwa [hw] at h

section
variable {a off n : Nat} (hlive : s.Live .cad) (ha : s.activeBank = some a)
  (hmap : s.pmapOf (1 - a) (s.bankHash a) = some (off, n)) (h3 : s.chgState = 3) {ok : Bool} (hw : s.migBuild a off = (u, ok))
include hlive ha hmap h3 hw

/-- What follows the build, by how its write ended and what was found in the staging range. -/
theorem migrationEnd_exec (bad : Option Nat) : exec (.migrationEnd bad) s = .next (
    if ok then bad.elim ((u.putClean cadMemBase (s.migBytes a off)).commitChange a (1 - a) (s.migInst a (1 - a) off))
      fun o => (u.stageError (o % max 1 (s.migBytes a off).length)).abandonChg 8
    else u.abandonChg 8) := by
  have hst : ¬s.chgState ≠ 3 := not_not.mpr h3
  refine congrArg Host.Outcome.next ((whileLive_live hlive _).trans ?_)
  unfold State.migBuild State.migBytes at hw
  simp only [ha, hmap, if_neg hst, hw, State.migBytes]
  cases ok
  · rfl
  · cases bad
    · simp only [if_true, Option.elim_none]
    · simp only [if_true, Option.elim_some]

/-- A fault of the build, or an uncorrectable word met in it, abandons the change. -/
theorem migrationEnd_fails {bad : Option Nat} (hbad : ok = false ∨ bad.isSome = true) :
    s.Yields (.migrationEnd bad) fun t => t.chgState = 5 ∧ t.rd F.CAD_CHG_STAT_RESULT = 8 ∧
      (t.bankState 0 = s.bankState 0 ∧ t.bankState 1 = s.bankState 1) ∧ t.cad.held = [] := by
  have hbuild := migBuild_keepsAt hw
  have hexec := migrationEnd_exec hlive ha hmap h3 hw bad
  have hshow {v : State} (hv : s.KeepsAt OffBurst v) (hi : exec (.migrationEnd bad) s = .next (v.abandonChg 8)) :
      s.Yields (.migrationEnd bad) fun t => t.chgState = 5 ∧ t.rd F.CAD_CHG_STAT_RESULT = 8 ∧
        (t.bankState 0 = s.bankState 0 ∧ t.bankState 1 = s.bankState 1) ∧ t.cad.held = [] := by
    obtain ⟨hst, hres, -, hcad, -⟩ := abandonChg_effect v (r := 8) (by decide)
    exact ⟨_, hi, hst, hres, (hv.offBank.trans (abandonChg_keepsAt v (by decide))).banks, by rw [hcad]⟩
  cases hok : ok with
  | false =>
    rw [hok] at hexec
    exact hshow hbuild hexec
  | true =>
    obtain ⟨o, rfl⟩ := Option.isSome_iff_exists.mp (hbad.resolve_left (by simp [hok]))
    rw [hok] at hexec
    exact hshow (hbuild.trans (stageError_keepsAt _ _)) hexec

/-- A migration that ends well commits the change. -/
theorem migrationEnd_commits (hok : ok = true) : s.Yields (.migrationEnd none) fun t => t.chgState = 4 ∧ t.rd F.CAD_CHG_STAT_RESULT = 0 ∧
    t.bankState (1 - a) = 3 ∧ t.bankState a = 2 ∧ t.cad.held = [] ∧ t.cad.poisoned = [] ∧ ∀ n, t.taskState n = s.taskState n := by
  have hbuild := migBuild_keepsAt hw
  have hexec := migrationEnd_exec hlive ha hmap h3 hw none
  rw [hok, if_pos rfl, Option.elim_none] at hexec
  obtain ⟨b, hab, hba, hactive⟩ := activeBank_other ha
  have hclean : s.KeepsAt OffBurst (u.putClean cadMemBase (s.migBytes a off)) :=
    hbuild.trans (keepsAt_of_regs rfl)
  obtain ⟨hst, hres, hnew, hold, hheld, hpois, htask⟩ := commitChange_effect (u.putClean cadMemBase (s.migBytes a off)) a b
    (s.migInst a (1 - a) off) ((hclean.bankState bankStat_off _).trans hactive)
  rw [← hba] at hst hres hnew hold hheld hpois htask
  rw [Nat.sub_sub_self (by omega : a ≤ 1)] at hold
  have hoff (n : Fin 8) : OffBurst (R.CAD_TASKn_STAT n) := offBurst_of (.inl (by revert n; decide))
  exact ⟨_, hexec, hst, hres, hnew, hold, hheld, hpois, fun n => (htask n).trans (hclean.taskState (hoff n))⟩

end

/-- Settles O24: each command and event by the state of the change. -/
theorem onlineChange : Obligations.OnlineChange := by
  intro m s banks abandons
  have habandons {i : Instr} {r : Nat} (hr : r < 256) (hi : exec i s = .next (s.abandonChg r)) : abandons i r :=
    abandons_yields hr hi (keepsAt_refl s) rfl rfl
  refine ⟨fun h hf => ⟨fun refuse => ⟨arm_locked h hf refuse, arm_busy h hf refuse, arm_starts h hf refuse⟩,
      fun hst => ?_, fun h1 h2 => ?_⟩,
    fun hlive => ⟨chgCheckEnd_armed hlive, fun h1 hbad => ?_, fun h2 hf hw => ⟨fun hrefuse horphan => ?_, changeWindow_migrates hlive h2 hf hw⟩,
      fun h2 hlate => habandons (by decide) (chgTimeout_exec hlive h2 hlate), fun a off n ha hmap h3 => ?_⟩⟩
  · exact abandons_yields (by decide) ((cancel_exec h hf).trans (congrArg _ (if_pos (by simpa using hst)))) (keepsAt_of_regs rfl) rfl rfl
  · exact ⟨_, (cancel_exec h hf).trans (congrArg _ (if_neg (by simp [h1, h2]))), rfl, rfl, rfl, rfl⟩
  · exact habandons ((chgCheck_le s).trans_lt (by decide)) ((chgCheckEnd_exec hlive h1).trans (congrArg _ (if_pos hbad)))
  · exact habandons (by decide) ((changeWindow_exec hlive h2 hf hw).trans (congrArg _ (if_pos (by simp [hrefuse, horphan]))))
  · exact ⟨fun bad hbad => migrationEnd_fails hlive ha hmap h3 rfl hbad, fun hok => migrationEnd_commits hlive ha hmap h3 rfl hok⟩

end Sys2Proof.Machine
end

/-! # The ring master (O26)

R183's count of devices stands in the 11 bits of SPK_BREAK.SIDE_A, while HOPS has 12: the copy that comes back with HOPS 4095 counts 2,048
devices, of which the register keeps the low 11 bits. The statement claims the whole count for every HOPS. -/

section
namespace Sys2Proof.Machine

variable {s : State} {f : SpokeFrame}

/-- Of a break on the A side SPK_BREAK shows the low 11 bits of R183's count. -/
theorem ringBreak_sideA {b : List Byte} (hd : hDir b = false) : (s.ringBreak b).rd F.SPK_BREAK_SIDE_A = (hHops b + 1) / 2 % 2 ^ 11 := by
  unfold State.ringBreak
  simp only [hd, Bool.false_eq_true, if_false]
  rw [rd_of_regGet (regGet_raiseEv_ne (by decide) (by decide)), rd_wr_ne _ _ (by decide), rd_wr_same _ _ _ (by decide)]

/-- An intact untagged copy that comes back looped at port 0, where it left, while no pass is in flight (R154, R183): a break and LATE. -/
theorem frameReturn_looped_exec (hlive : s.Live .spk) (hplant : s.plant = true) (hring : s.ringFrame f = true) (hfcs : f.fcs = true)
    (htag : hTagged f.body = false) (hsent : s.sentTagged f.body = false) (hloop : hLooped f.body = true) (hd : hDir f.body = false)
    (hpass : s.spk.pass = none) : exec (.frameReturn 0 f) s = .next ((s.ringBreak f.body).raise .spk 7) := by
  have hnone : (s.ringBreak f.body).spk.pass = none := by rw [State.ringBreak, raiseEv_spk]; exact hpass
  have hport : ((0 : Fin 2) == 1) = false := by decide
  refine congrArg Host.Outcome.next ((whileLive_live hlive _).trans ?_)
  simp [hplant, hring, hfcs, htag, hsent, hloop, hd, hport, hnone]

/-- A plant-role master whose ring runs, with no pass in flight. -/
def quietMaster : State :=
  { ((State.reset.regPut R.SYS_ROLE 0).regPut R.SPK_RING_STAT 1).regPut (R.BLK_CTRL .spk) 1 with sys := { State.reset.sys with boot := false } }

/-- A frame of its ring that left by port A and comes back looped with HOPS 4095. -/
def farBreak : SpokeFrame :=
  { da := quietMaster.ringDa, sa := 0, etype := quietMaster.ringEtype, body := patch (mkHeader 0 false false true 7 0 1 0 0) 2 [0x8F, 0xFF] }

theorem quietMaster_ready : quietMaster.Live .spk ∧ quietMaster.plant = true ∧ quietMaster.spk.pass = none ∧
    quietMaster.ringFrame farBreak = true ∧ quietMaster.sentTagged farBreak.body = false := by
  unfold State.Live
  decide +kernel

theorem farBreak_header : farBreak.fcs = true ∧ hTagged farBreak.body = false ∧ hLooped farBreak.body = true ∧ hDir farBreak.body = false ∧
    hHops farBreak.body = 4095 := by
  decide +kernel

/-- The model shows no device on the A side, where R183's count is 2,048. -/
theorem farBreak_sideA : quietMaster.Yields (.frameReturn 0 farBreak) fun t => t.rd F.SPK_BREAK_SIDE_A = 0 := by
  obtain ⟨hlive, hplant, hpass, hring, hsent⟩ := quietMaster_ready
  obtain ⟨hfcs, htag, hloop, hd, hhops⟩ := farBreak_header
  exact ⟨_, frameReturn_looped_exec hlive hplant hring hfcs htag hsent hloop hd hpass,
    (rd_of_regGet (regGet_raise_ne (by decide))).trans ((ringBreak_sideA hd).trans (by norm_num [hhops]))⟩

/-- Refutes O26: a copy that comes back looped at port 0 with HOPS 4095 leaves SIDE_A at 0, not at (4095 + 1) / 2 = 2,048. -/
theorem not_ringMaster : ¬ Obligations.RingMaster := by
  unfold Obligations.RingMaster
  intro h
  obtain ⟨hlive, hplant, hpass, hring, hsent⟩ := quietMaster_ready
  obtain ⟨-, htag, hloop, hd, hhops⟩ := farBreak_header
  obtain ⟨-, -, -, -, -, -, -, -, hcopies, -⟩ := (h .mon quietMaster).1 hlive
  obtain ⟨t, ht, -, -, -, -, hbreak⟩ := (hcopies 0 farBreak hplant hring htag hsent).1 hpass
  obtain ⟨-, -, hside, -⟩ := hbreak hloop hd
  obtain ⟨u, hu, hzero⟩ := farBreak_sideA
  cases ht.symm.trans hu
  have hclaim : (0 : Nat) = (4095 + 1) / 2 := hzero.symm.trans ((hside rfl).trans (by rw [hhops]))
  exact absurd hclaim (by decide)

end Sys2Proof.Machine
end

/-! # Loop slots (O28)

A slot's entry is read through LPE's context, which translates by pinned ranges alone (R444): a burst that is read whole leaves everything but
the count of free values as it was, and gives the same bytes whatever stands in LPE's page. So the checks of R198 give the same result where
the command has taken LPE_SLOT_RES as they give before it. A sample's output lies between OUT_MIN and OUT_MAX because every loop's offer does
(R205, R207), and so does every value that compensation makes of one (R210 to R212). -/

section
namespace Sys2Proof.Machine

variable {s t u : State} {m : Master} {n : Fin 64}

/-! ## A burst through a context of pinned ranges (R444, R445) -/

/-- From `s` to `t` stays what a burst takes of the state besides its context's mode. -/
structure State.SameStore (s t : State) : Prop where
  mem : t.mem = s.mem
  ue : t.ue = s.ue
  draws : t.draws = s.draws
  tileUsed : t.tileUsed = s.tileUsed
  tileKnown : t.tileKnown = s.tileKnown
  xlt : t.xlt = s.xlt

theorem xlate_realTime_state (s : State) {ctx : Nat} (h : realTime ctx = true) (wr : Bool) (va : Nat) : (s.xlate ctx wr va).1 = s := by
  fun_cases State.xlate s ctx wr va
  case case7 hnot _ _ _ => exact absurd (by simp [h]) hnot
  case case8 hnot _ _ _ => exact absurd (by simp [h]) hnot
  all_goals rfl

theorem pinHit_congr (h : t.xlt = s.xlt) (ctx vpn : Nat) : t.pinHit ctx vpn = s.pinHit ctx vpn := by
  have hpin : t.pin ctx = s.pin ctx := by
    unfold State.pin
    rw [h]
  unfold State.pinHit
  rw [hpin]

theorem xlate_realTime_congr {ctx : Nat} (h : realTime ctx = true) (hx : t.xlt = s.xlt)
    (hm : t.rd (F.XLT_CTXn_CFG_MODE ctx) = s.rd (F.XLT_CTXn_CFG_MODE ctx)) (wr : Bool) (va : Nat) :
    (t.xlate ctx wr va).2 = (s.xlate ctx wr va).2 := by
  unfold State.xlate
  simp only [hm, pinHit_congr hx, h, Bool.or_true, if_true]
  split_ifs
  · rfl
  · rfl
  · cases s.pinHit ctx (va / 4096) <;> rfl

theorem memRead_draws (s : State) (a k : Nat) : ∃ d, (s.memRead a k).2 = { s with draws := d } := by
  unfold State.memRead
  split
  · exact ⟨_, rfl⟩
  · exact ⟨_, rfl⟩

theorem State.SameStore.memRead (h : s.SameStore t) (a k : Nat) :
    (t.memRead a k).1 = (s.memRead a k).1 ∧ (s.memRead a k).2.SameStore (t.memRead a k).2 := by
  obtain ⟨hmem, hue, hdraws, hused, hknown, hxlt⟩ := h
  have hbyte (i : Nat) : t.byte i = s.byte i := by unfold State.byte; rw [hmem]
  unfold State.memRead State.draw State.bytes
  simp only [hused, hknown, hdraws, hbyte]
  split
  · exact ⟨rfl, hmem, hue, rfl, rfl, rfl, hxlt⟩
  · exact ⟨rfl, hmem, hue, hdraws, hused, hknown, hxlt⟩

theorem readCuts_done {ctx : Nat} (h : realTime ctx = true) {l : List (Nat × Nat)} (hd : (s.readCuts ctx l).2.2 = .done) :
    ∃ d, (s.readCuts ctx l).1 = { s with draws := d } := by
  fun_induction State.readCuts s ctx l with
  | case1 => exact ⟨_, rfl⟩
  | case2 => cases hd
  | case3 => cases hd
  | case4 => cases hd
  | case5 s va k l s1 pa hx _ _ r ih =>
    obtain rfl : s = s1 := (xlate_realTime_state s h false va).symm.trans (congrArg Prod.fst hx)
    obtain ⟨d, hread⟩ := memRead_draws s pa k
    obtain ⟨d', hrest⟩ := ih hd
    exact ⟨d', by rw [show r.1 = _ from hrest, hread]⟩

theorem readCuts_congr {ctx : Nat} (h : realTime ctx = true) (hst : s.SameStore t)
    (hm : t.rd (F.XLT_CTXn_CFG_MODE ctx) = s.rd (F.XLT_CTXn_CFG_MODE ctx)) (l : List (Nat × Nat)) :
    (t.readCuts ctx l).2 = (s.readCuts ctx l).2 := by
  induction l generalizing s t with
  | nil => rfl
  | cons c l ih =>
    obtain ⟨va, k⟩ := c
    have hx := xlate_realTime_congr h hst.xlt hm false va
    have hs : s.xlate ctx false va = (s, (s.xlate ctx false va).2) := Prod.ext (xlate_realTime_state s h false va) rfl
    have ht : t.xlate ctx false va = (t, (s.xlate ctx false va).2) := Prod.ext (xlate_realTime_state t h false va) hx
    unfold State.readCuts
    rw [hs, ht]
    match (s.xlate ctx false va).2 with
    | .bad c => rfl
    | .ok pa =>
      have hue : t.ueIn pa k = s.ueIn pa k := by unfold State.ueIn; rw [hst.ue]
      obtain ⟨hbytes, hnext⟩ := hst.memRead pa k
      have hrest := ih hnext (by
        obtain ⟨d, hd⟩ := memRead_draws s pa k
        obtain ⟨d', hd'⟩ := memRead_draws t pa k
        rw [hd, hd']
        exact hm)
      dsimp only
      rw [hue, hbytes, hrest]
      split
      · rfl
      · cases s.ueIn pa k <;> rfl

theorem dmaRead_congr {ctx : Nat} (h : realTime ctx = true) (hst : s.SameStore t)
    (hm : t.rd (F.XLT_CTXn_CFG_MODE ctx) = s.rd (F.XLT_CTXn_CFG_MODE ctx)) (va k : Nat) : (t.dmaRead ctx va k).2 = (s.dmaRead ctx va k).2 := by
  unfold State.dmaRead
  dsimp only
  rw [readCuts_congr h hst hm]

/-- A burst read whole takes free values at most. -/
theorem dmaRead_some {ctx : Nat} (h : realTime ctx = true) {va k : Nat} {bs : List Byte} (hr : (s.dmaRead ctx va k).2 = some bs) :
    ∃ d, s.dmaRead ctx va k = ({ s with draws := d }, some bs) := by
  have hdone : (s.readCuts ctx (burst va k)).2.2 = .done := by
    by_contra hne
    exact absurd hr (by simp [State.dmaRead, hne])
  obtain ⟨d, hd⟩ := readCuts_done h hdone
  exact ⟨d, Prod.ext hd hr⟩

/-! ## The checks of R198 -/

theorem State.Leaves.lslot {A : Nat → Prop} (h : s.Leaves A t) (k : Fin 64) : t.lslot k = s.lslot k := by
  unfold State.lslot
  rw [h.lpe]

theorem State.Leaves.outVal {A : Nat → Prop} (h : s.Leaves A t) (sig : Nat) : t.outVal sig = s.outVal sig := by
  unfold State.outVal
  rw [h.lpe]

/-- LPE_SLOT_RES does not take part in locating or reading a program image. -/
theorem img_congr (h : s.Leaves (· ≠ R.LPE_SLOT_RES) t) (hx : t.xlt = s.xlt) (b : Fin 2) (off k : Nat) : t.img b off k = s.img b off k := by
  have hoff : ∀ b : Fin 2, R.CAD_BANKb_BASE_LO b ≠ R.LPE_SLOT_RES ∧ R.CAD_BANKb_BASE_HI b ≠ R.LPE_SLOT_RES := by decide
  have hbase : t.bankBase b = s.bankBase b := by
    unfold State.bankBase
    rw [h.rd (hoff b).1, h.rd (hoff b).2]
  have hle (a : Nat) : t.rdLe a k = s.rdLe a k := by unfold State.rdLe State.bytes State.byte; rw [h.mem]
  unfold State.img State.peek
  rw [hbase, xlate_realTime_congr (by decide) hx (h.rd (by decide))]
  simp only [hle]

theorem entryCheck_congr (h : s.Leaves (· ≠ R.LPE_SLOT_RES) t) (hx : t.xlt = s.xlt) (n : Fin 64) (bs : List Byte) :
    t.entryCheck n bs = s.entryCheck n bs := by
  have himg := img_congr h hx
  have hactive : t.activeBank = s.activeBank := by
    unfold State.activeBank
    rw [h.bankState (by decide), h.bankState (by decide)]
  have hstat : ∀ k : Fin 64, R.LPE_SLOTn_STAT k ≠ R.LPE_SLOT_RES := by decide
  have hstate (k : Fin 64) : t.lslotState k = s.lslotState k := h.rd (hstat k)
  have hguard (sig : Nat) : t.guardEntry sig = s.guardEntry sig := by
    unfold State.guardEntry State.guardBank
    rw [h.rd (by decide), h.lpe]
  unfold State.entryCheck
  simp only [hactive, hstate, h.lslot, hguard]
  have hprogram (b : Nat) (hb : b < 2) : (∀ sig, t.slotOfSig b sig = s.slotOfSig b sig) ∧ ∀ k, t.slotDir b k = s.slotDir b k := by
    have himgb := himg ⟨b, hb⟩
    dsimp only at himgb
    constructor
    · intro sig
      simp only [State.slotOfSig, State.nSlots, State.slotSig, State.slotWord0, State.offSmap, himgb]
    · intro k
      simp only [State.slotDir, State.slotWord0, State.offSmap, himgb]
  cases ha : s.activeBank with
  | none => rfl
  | some b =>
    have hb : b < 2 := by
      unfold State.activeBank at ha
      split_ifs at ha <;> cases ha <;> decide
    simp only [(hprogram b hb).1, (hprogram b hb).2]

/-! ## The slots' registers and LPE_SLOT_RES (R220) -/

/-- The status registers of the slots. -/
def SlotStat (a : Nat) : Prop := ∃ k : Fin 64, a = R.LPE_SLOTn_STAT k

theorem slotStat_off {a : Nat} (h : SlotStat a) : OffBurst a := by
  have hlpe : ∀ k : Fin 64, blkAt (R.LPE_SLOTn_STAT k) = some .lpe := by decide
  obtain ⟨k, rfl⟩ := h
  exact offBurst_of (.inr (.inl (hlpe k)))

theorem not_slotStat {a : Nat} (h : a ∈ [R.LPE_SLOT_RES, R.LPE_LOAD, R.BLK_ERRINFO .lpe, R.BLK_IRQ_RAW .lpe]) : ¬SlotStat a := by
  have hne : ∀ a ∈ [R.LPE_SLOT_RES, R.LPE_LOAD, R.BLK_ERRINFO .lpe, R.BLK_IRQ_RAW .lpe], ∀ k : Fin 64, a ≠ R.LPE_SLOTn_STAT k := by decide
  exact fun ⟨k, hk⟩ => hne a h k hk

theorem State.Leaves.lslotState (h : s.Leaves SlotStat t) (k : Fin 64) : t.lslotState k = s.lslotState k := h.rd ⟨k, rfl⟩

/-- What leaves all registers but LPE_SLOT_RES leaves the slots' status. -/
theorem State.Leaves.slotStat (h : s.Leaves (· ≠ R.LPE_SLOT_RES) t) : s.Leaves SlotStat t :=
  h.mono fun _ ha e => not_slotStat (by simp [e]) ha

/-- A field above STATE leaves the slots' states. -/
theorem lslotState_wr {f : Fld} (hfit : f.lo + f.w ≤ 32) (hlo : 2 ≤ f.lo) (x : Nat) (k : Fin 64) : (s.wr f x).lslotState k = s.lslotState k :=
  rd_wr_disjoint s x hfit (Nat.le_of_ble_eq_true rfl) (.inl hlo)

theorem lslotState_wr_other {k : Fin 64} (h : k ≠ n) (x : Nat) :
    (s.wr (F.LPE_SLOTn_STAT_STATE n) x).lslotState k = s.lslotState k := by
  have hne : k.val ≠ n.val := fun e => h (Fin.ext e)
  refine rd_wr_ne s x ?_
  simp only [R.LPE_SLOTn_STAT]
  omega

theorem lslotState_wr_same {x : Nat} (hx : x < 4) : (s.wr (F.LPE_SLOTn_STAT_STATE n) x).lslotState n = x :=
  (rd_wr_same s (F.LPE_SLOTn_STAT_STATE n) x (Nat.le_of_ble_eq_true rfl)).trans (Nat.mod_eq_of_lt hx)

@[simp] theorem lslot_setLslot_same (s : State) (n : Fin 64) (x : LpeSlot) : (s.setLslot n x).lslot n = x := Vector.getElem_set_self _

theorem lslot_setLslot_other {k : Fin 64} (h : k ≠ n) (x : LpeSlot) : (s.setLslot n x).lslot k = s.lslot k :=
  Vector.getElem_set_ne n.isLt k.isLt fun e => h (Fin.ext e.symm)

theorem slotTaken_leaves (s : State) (n : Fin 64) (pend : Bool) : s.Leaves (· ≠ R.LPE_SLOT_RES) (s.slotTaken n pend) :=
  (wr_leaves fun h => h rfl).trans (wr_leaves fun h => h rfl)

theorem slotTaken_shows (s : State) (n : Fin 64) (pend : Bool) :
    (s.slotTaken n pend).bit F.LPE_SLOT_RES_PEND = pend ∧ (s.slotTaken n pend).rd F.LPE_SLOT_RES_SLOT = n.val := by
  refine ⟨bit_wrB_same _ _ _ (by decide) (by decide), (rd_wr_disjoint _ _ (by decide) (by decide) (.inr (by decide))).trans ?_⟩
  exact (rd_wr_same _ _ _ (by decide)).trans (Nat.mod_eq_of_lt n.isLt)

theorem slotDone_leaves (s : State) (n : Fin 64) (r : Nat) :
    s.Leaves (fun a => a ≠ R.LPE_SLOT_RES ∧ a ≠ R.BLK_IRQ_RAW .lpe) (s.slotDone n r) :=
  (ite_leaves ((wr_leaves fun h => h.1 rfl).trans (wr_leaves fun h => h.1 rfl)) (leaves_refl s)).trans (raise_leaves fun h => h.2 rfl)

theorem slotDone_slotStat (s : State) (n : Fin 64) (r : Nat) : s.Leaves SlotStat (s.slotDone n r) :=
  (slotDone_leaves s n r).mono fun _ ha => ⟨fun e => not_slotStat (by simp [e]) ha, fun e => not_slotStat (by simp [e]) ha⟩

theorem slotRes_ne (n : Fin 64) : R.LPE_SLOT_RES ≠ R.LPE_SLOTn_STAT n := fun e => not_slotStat (by simp) ⟨n, e⟩

/-- The last slot command ended: LPE_SLOT_RES shows its outcome. -/
theorem slotDone_shows (h : s.rd F.LPE_SLOT_RES_SLOT = n.val) {r : Nat} (hr : r < 16) :
    (s.slotDone n r).rd F.LPE_SLOT_RES_RESULT = r ∧ (s.slotDone n r).bit F.LPE_SLOT_RES_PEND = false := by
  have hraise {u : State} : u.Leaves (· = R.LPE_SLOT_RES) (u.raise .lpe 5) := raise_leaves (by decide)
  unfold State.slotDone
  rw [if_pos h]
  have hpend : ((s.wr F.LPE_SLOT_RES_PEND 0).wr F.LPE_SLOT_RES_RESULT r).rd F.LPE_SLOT_RES_PEND = 0 :=
    (rd_wr_disjoint _ _ (by decide) (by decide) (.inl (by decide))).trans (rd_wr_same _ _ _ (by decide))
  refine ⟨(hraise.rd rfl).trans ((rd_wr_same _ _ _ (by decide)).trans (Nat.mod_eq_of_lt hr)), ?_⟩
  exact congrArg (· != 0) ((hraise.rd rfl).trans hpend)

/-- A slot command that failed with an error code and a result. -/
def State.slotFailed (s : State) (n : Fin 64) (code r : Nat) : State := (s.err .lpe code n.val).slotDone n r

theorem slotFailed_effect (h : s.rd F.LPE_SLOT_RES_SLOT = n.val) {code r : Nat} (hc : code < 2 ^ 8) (hr : r < 16) :
    s.Leaves SlotStat (s.slotFailed n code r) ∧ (s.slotFailed n code r).rd F.LPE_SLOT_RES_RESULT = r ∧
      (s.slotFailed n code r).bit F.LPE_SLOT_RES_PEND = false ∧ (s.slotFailed n code r).Erred .lpe code n.val := by
  have hdone := slotDone_leaves (s.err .lpe code n.val) n r
  have hslots : s.Leaves SlotStat (s.err .lpe code n.val) := err_leaves (not_slotStat (by simp)) (not_slotStat (by simp))
  have hres : s.Leaves (· = R.LPE_SLOT_RES) (s.err .lpe code n.val) := err_leaves (by decide) (by decide)
  obtain ⟨hresult, hpend⟩ := slotDone_shows ((hres.rd rfl).trans h) hr
  obtain ⟨hcode, hwoff⟩ : (s.err .lpe code n.val).Erred .lpe code n.val := err_erred hc (by omega)
  exact ⟨hslots.trans (slotDone_slotStat _ n r), hresult, hpend, (hdone.rd ⟨by decide, by decide⟩).trans hcode,
    (hdone.rd ⟨by decide, by decide⟩).trans hwoff⟩

/-! ## A command on the module's own slots (R199) -/

/-- The states in which a slot takes a command: ENABLE in DISABLED, DISABLE in RUN and ERROR, RELOAD in RUN. -/
def slotTakes (op st : Nat) : Bool := (op == 1 && st == 0) || (op == 2 && (st == 1 || st == 2)) || (op == 3 && st == 1)

theorem slotCommandHere_refused {op : Nat} (h : slotTakes op (s.lslotState n) = false) : s.slotCommandHere n op = s.err .lpe 0x84 n.val := by
  have hno : ¬(op = 1 ∧ s.lslotState n = 0) ∧ ¬(op = 2 ∧ s.lslotState n = 2) ∧ ¬((op = 2 ∨ op = 3) ∧ s.lslotState n = 1) := by
    simp only [slotTakes, Bool.or_eq_false_iff, Bool.and_eq_false_iff, beq_eq_false_iff_ne] at h
    omega
  unfold State.slotCommandHere
  simp [hno]

/-- From `s` to `u` stays all that a slot command acts on: what a burst takes of the state, the slots and the registers. -/
structure State.Receives (s u : State) : Prop where
  store : s.SameStore u
  leaves : s.Leaves (fun _ => True) u

theorem State.Receives.lslotState (h : s.Receives u) (k : Fin 64) : u.lslotState k = s.lslotState k := h.leaves.rd trivial

/-- The command as the module takes it: the reply and the entry of the Tandem stream come first. -/
theorem slotCommand_yields {i : Instr} {op : Nat} (hi : exec i s = .next (s.slotCommand m n op)) (h : s.MayWrite m .lpe R.LPE_SLOT_CMD)
    (hf : s.following = false) {p : State → Prop} (hp : ∀ u, s.Receives u → p (u.slotCommandHere n op)) : s.Yields i p := by
  obtain ⟨x, hx⟩ := paired_state s (.cmd R.LPE_SLOT_CMD (BitVec.ofNat 32 (n.val + 2 ^ 8 * op + 2 ^ 31)))
  have hreceives : s.Receives { s.reply 0 with tdm := x } := ⟨⟨rfl, rfl, rfl, rfl, rfl, rfl⟩, (leaves_refl s).frame rfl rfl rfl rfl rfl⟩
  have htaken : s.slotCommand m n op = ({ s.reply 0 with tdm := x } : State).slotCommandHere n op :=
    (gatePair_open h hf _).trans (congrArg (State.slotCommandHere · n op) hx)
  exact ⟨_, hi.trans (congrArg Host.Outcome.next htaken), hp _ hreceives⟩

/-- A command that the slot's state does not take is discarded with code 0x84. -/
theorem slotCommand_refused {i : Instr} {op : Nat} (hi : exec i s = .next (s.slotCommand m n op)) (h : s.MayWrite m .lpe R.LPE_SLOT_CMD)
    (hf : s.following = false) (hno : slotTakes op (s.lslotState n) = false) :
    s.Yields i fun t => t.lslotState n = s.lslotState n ∧ t.lpe = s.lpe ∧ t.Erred .lpe 0x84 n.val ∧ s.Spares t := by
  refine slotCommand_yields hi h hf fun u hu => ?_
  rw [slotCommandHere_refused (by rw [hu.lslotState]; exact hno)]
  have herr : s.Leaves SlotStat (u.err .lpe 0x84 n.val) :=
    (hu.leaves.mono fun _ _ => trivial).trans (err_leaves (not_slotStat (by simp)) (not_slotStat (by simp)))
  exact ⟨herr.lslotState n, herr.lpe, err_erred (by decide) (by omega), herr.spares⟩

/-- DISABLE and RELOAD of a running slot wait for its sample. -/
theorem slotCommand_waits {i : Instr} {op : Nat} (hi : exec i s = .next (s.slotCommand m n op)) (h : s.MayWrite m .lpe R.LPE_SLOT_CMD)
    (hf : s.following = false) (hop : op = 2 ∨ op = 3) (hst : s.lslotState n = 1) :
    s.Yields i fun t => t.lslotState n = 1 ∧ t.lslot n = { s.lslot n with cmd := op } ∧ t.bit F.LPE_SLOT_RES_PEND = true ∧
      t.rd F.LPE_SLOT_RES_SLOT = n.val ∧ s.Spares t := by
  refine slotCommand_yields hi h hf fun u hu => ?_
  have hrun : u.lslotState n = 1 := (hu.lslotState n).trans hst
  have htaken : u.slotCommandHere n op = (u.setLslot n { u.lslot n with cmd := op }).slotTaken n true := by
    unfold State.slotCommandHere
    rcases hop with rfl | rfl <;> simp [hrun]
  rw [htaken, hu.leaves.lslot]
  have hleaves := slotTaken_leaves (u.setLslot n { s.lslot n with cmd := op }) n true
  obtain ⟨hpend, hslot⟩ := slotTaken_shows (u.setLslot n { s.lslot n with cmd := op }) n true
  refine ⟨(hleaves.slotStat.lslotState n).trans hrun, ?_, hpend, hslot, hu.leaves.spares.trans hleaves.spares⟩
  exact (hleaves.lslot n).trans (lslot_setLslot_same u n _)

/-! ## ENABLE of a DISABLED slot (R198, R199) -/

/-- The slot runs on a good entry. -/
def State.slotStarted (s : State) (n : Fin 64) (e : SlotEntry) : State :=
  let u : Int := ((s.guardedVal e.outSig).map (·.value.toInt)).getD 0
  let ls := e.loops.map initLoop
  ((s.setLslot n { entry := e, loops := ls, uFb := u, uSel1 := u, p1 := u, served := s.dueIndex e, lout := (s.lslot n).lout }).wr
    (F.LPE_SLOTn_STAT_STATE n) 1).wr (F.LPE_SLOTn_STAT_MODES n) (modesOf ls)

theorem slotStarted_effect (s : State) (n : Fin 64) (e : SlotEntry) :
    (s.slotStarted n e).lslotState n = 1 ∧ ((s.slotStarted n e).lslot n).entry = e ∧ ((s.slotStarted n e).lslot n).posts = [] ∧
      (∀ k, k ≠ n → (s.slotStarted n e).lslotState k = s.lslotState k ∧ (s.slotStarted n e).lslot k = s.lslot k) ∧
      s.Spares (s.slotStarted n e) ∧ (s.slotStarted n e).rd F.LPE_SLOT_RES_SLOT = s.rd F.LPE_SLOT_RES_SLOT := by
  have hmodes (t : State) (x : Nat) (k : Fin 64) : (t.wr (F.LPE_SLOTn_STAT_MODES n) x).lslotState k = t.lslotState k :=
    lslotState_wr (by norm_num) (by norm_num) x k
  have hslot (x : LpeSlot) (k : Fin 64) : (((s.setLslot n x).wr (F.LPE_SLOTn_STAT_STATE n) 1).wr (F.LPE_SLOTn_STAT_MODES n)
    (modesOf (e.loops.map initLoop))).lslot k = (s.setLslot n x).lslot k := rfl
  unfold State.slotStarted
  dsimp only
  simp only [hslot, hmodes, lslot_setLslot_same]
  exact ⟨lslotState_wr_same (by decide), trivial, trivial, fun k hk => ⟨lslotState_wr_other hk 1, lslot_setLslot_other hk _⟩, ⟨rfl, rfl, rfl⟩,
    (rd_wr_ne _ _ (slotRes_ne n)).trans (rd_wr_ne _ _ (slotRes_ne n))⟩

theorem entryCheck_lt (s : State) (n : Fin 64) (bs : List Byte) : s.entryCheck n bs < 16 := by
  unfold State.entryCheck
  dsimp only
  split_ifs <;> decide

theorem doEnable_unread (h : (s.dmaRead 1 (s.loopEntryAddr n) 1024).2 = none) :
    s.doEnable n = (s.dmaRead 1 (s.loopEntryAddr n) 1024).1.slotFailed n 0x80 6 := by
  unfold State.doEnable
  rw [show s.dmaRead 1 (s.loopEntryAddr n) 1024 = ((s.dmaRead 1 (s.loopEntryAddr n) 1024).1, none) from Prod.ext rfl h]
  rfl

theorem doEnable_read {bs : List Byte} (h : (s.dmaRead 1 (s.loopEntryAddr n) 1024).2 = some bs) :
    ∃ d, s.doEnable n = if ({ s with draws := d } : State).entryCheck n bs ≠ 0
      then ({ s with draws := d } : State).slotFailed n 0x81 (({ s with draws := d } : State).entryCheck n bs)
      else (({ s with draws := d } : State).slotStarted n (parseEntry bs)).slotDone n 0 := by
  obtain ⟨d, hd⟩ := dmaRead_some (by decide) h
  refine ⟨d, ?_⟩
  unfold State.doEnable
  rw [hd]
  rfl

/-- Taking the command changes LPE_SLOT_RES alone of the registers. -/
theorem State.Receives.taken (h : s.Receives u) (n : Fin 64) : s.Leaves (· ≠ R.LPE_SLOT_RES) (u.slotTaken n false) :=
  (h.leaves.mono fun _ _ => trivial).trans (slotTaken_leaves u n false)

/-- The command taken, a burst reads the same entry. -/
theorem State.Receives.entry (h : s.Receives u) (n : Fin 64) :
    ((u.slotTaken n false).dmaRead 1 ((u.slotTaken n false).loopEntryAddr n) 1024).2 = (s.dmaRead 1 (s.loopEntryAddr n) 1024).2 := by
  have hleaves := h.taken n
  have haddr : (u.slotTaken n false).loopEntryAddr n = s.loopEntryAddr n := by
    unfold State.loopEntryAddr
    rw [hleaves.rd (by decide), hleaves.rd (by decide)]
  obtain ⟨hmem, hue, hdraws, hused, hknown, hxlt⟩ := h.store
  have hstore : s.SameStore (u.slotTaken n false) := ⟨hmem, hue, hdraws, hused, hknown, hxlt⟩
  rw [haddr]
  exact dmaRead_congr (by decide) hstore (hleaves.rd (by decide)) _ _

theorem slotEnable_here (h : u.lslotState n = 0) : u.slotCommandHere n 1 = (u.slotTaken n false).doEnable n := if_pos (by simp [h])

theorem slotEnable_unread (h : s.MayWrite m .lpe R.LPE_SLOT_CMD) (hf : s.following = false) (hst : s.lslotState n = 0)
    (hr : (s.dmaRead 1 (s.loopEntryAddr n) 1024).2 = none) : s.Yields (.slotEnable m n) fun t => t.lslotState n = 0 ∧
      t.rd F.LPE_SLOT_RES_RESULT = 6 ∧ t.Erred .lpe 0x80 n.val ∧ t.mem = s.mem := by
  refine slotCommand_yields (op := 1) rfl h hf fun u hu => ?_
  have htaken := hu.taken n
  have hslot : (u.slotTaken n false).rd F.LPE_SLOT_RES_SLOT = n.val := (slotTaken_shows u n false).2
  rw [slotEnable_here ((hu.lslotState n).trans hst), doEnable_unread ((hu.entry n).trans hr)]
  generalize u.slotTaken n false = v at htaken hslot
  have hread : v.Leaves OffBurst (v.dmaRead 1 (v.loopEntryAddr n) 1024).1 := dmaRead_leaves
  obtain ⟨hfail, hres, -, herr⟩ := slotFailed_effect ((hread.rd (offBurst_of (.inr (.inl (by decide))))).trans hslot) (code := 0x80) (r := 6)
    (by decide) (by decide)
  have hslots : s.Leaves SlotStat _ := htaken.slotStat.trans ((hread.mono fun _ => slotStat_off).trans hfail)
  exact ⟨(hslots.lslotState n).trans hst, hres, herr, hslots.mem⟩

theorem slotEnable_read (h : s.MayWrite m .lpe R.LPE_SLOT_CMD) (hf : s.following = false) (hst : s.lslotState n = 0) {bs : List Byte}
    (hr : (s.dmaRead 1 (s.loopEntryAddr n) 1024).2 = some bs) : s.Yields (.slotEnable m n) fun t =>
      t.rd F.LPE_SLOT_RES_RESULT = s.entryCheck n bs ∧ t.bit F.LPE_SLOT_RES_PEND = false ∧ s.Spares t ∧
      (∀ k, k ≠ n → t.lslotState k = s.lslotState k ∧ t.lslot k = s.lslot k) ∧
      (if s.entryCheck n bs = 0 then t.lslotState n = 1 ∧ (t.lslot n).entry = parseEntry bs ∧ (t.lslot n).posts = []
       else t.lslotState n = 0 ∧ t.lslot n = s.lslot n ∧ t.Erred .lpe 0x81 n.val) := by
  refine slotCommand_yields (op := 1) rfl h hf fun u hu => ?_
  obtain ⟨d, hd⟩ := doEnable_read ((hu.entry n).trans hr)
  rw [slotEnable_here ((hu.lslotState n).trans hst), hd]
  have hleaves : s.Leaves (· ≠ R.LPE_SLOT_RES) { u.slotTaken n false with draws := d } := (hu.taken n).frame rfl rfl rfl rfl rfl
  have hslots := hleaves.slotStat
  have hslot : ({ u.slotTaken n false with draws := d } : State).rd F.LPE_SLOT_RES_SLOT = n.val := (slotTaken_shows u n false).2
  rw [entryCheck_congr (t := { u.slotTaken n false with draws := d }) hleaves hu.store.xlt n bs]
  generalize ({ u.slotTaken n false with draws := d } : State) = v at hslots hslot
  by_cases h0 : s.entryCheck n bs = 0
  · rw [if_neg (not_not.mpr h0), if_pos h0, h0]
    obtain ⟨hrun, hentry, hposts, hother, hsp, hres⟩ := slotStarted_effect v n (parseEntry bs)
    have hdone := slotDone_slotStat (v.slotStarted n (parseEntry bs)) n 0
    obtain ⟨hresult, hpend⟩ := slotDone_shows (hres.trans hslot) (r := 0) (by decide)
    refine ⟨hresult, hpend, hslots.spares.trans (hsp.trans hdone.spares), fun k hk => ?_, ?_⟩
    · obtain ⟨hstate, hsame⟩ := hother k hk
      exact ⟨(hdone.lslotState k).trans (hstate.trans (hslots.lslotState k)), (hdone.lslot k).trans (hsame.trans (hslots.lslot k))⟩
    · rw [hdone.lslot]
      exact ⟨(hdone.lslotState n).trans hrun, hentry, hposts⟩
  · rw [if_pos h0, if_neg h0]
    obtain ⟨hfail, hresult, hpend, herr⟩ := slotFailed_effect hslot (code := 0x81) (by decide) (entryCheck_lt s n bs)
    have hstay := hslots.trans hfail
    exact ⟨hresult, hpend, hstay.spares, fun k _ => ⟨hstay.lslotState k, hstay.lslot k⟩, (hstay.lslotState n).trans hst, hstay.lslot n, herr⟩

/-! ## DISABLE of an ERROR slot (R199) -/

/-- The slot is DISABLED; an ERROR slot's signal is left without a writer. -/
def State.slotStopped (s : State) (n : Fin 64) : State :=
  let x := s.lslot n
  let s1 := (s.setLslot n { x with cmd := 0, due := false, posts := [] }).wr (F.LPE_SLOTn_STAT_STATE n) 0
  match s1.outVal x.entry.outSig with
  | some o => if o.writer = 16 + n.val || s.lslotState n = 2 then s1.dropOut x.entry.outSig else s1
  | none => s1

theorem doDisable_eq (s : State) (n : Fin 64) : s.doDisable n = (s.slotStopped n).slotDone n 0 := rfl

theorem outVal_dropOut (s : State) (sig : Nat) : (s.dropOut sig).outVal sig = none := by
  unfold State.outVal State.dropOut
  exact sparse_get_put_same s.lpe.out none sig none

theorem slotStopped_effect (hst : s.lslotState n = 2) :
    (s.slotStopped n).lslotState n = 0 ∧ ((s.slotStopped n).lslot n).posts = [] ∧ (s.slotStopped n).outVal (s.lslot n).entry.outSig = none ∧
      s.Spares (s.slotStopped n) ∧ (s.slotStopped n).rd F.LPE_SLOT_RES_SLOT = s.rd F.LPE_SLOT_RES_SLOT := by
  generalize hv : (s.setLslot n { s.lslot n with cmd := 0, due := false, posts := [] }).wr (F.LPE_SLOTn_STAT_STATE n) 0 = v
  have hstate : v.lslotState n = 0 := hv ▸ lslotState_wr_same (by decide)
  have hposts : (v.lslot n).posts = [] := by
    subst hv
    exact congrArg LpeSlot.posts (lslot_setLslot_same s n _)
  have hsp : s.Spares v := hv ▸ ⟨rfl, rfl, rfl⟩
  have hres : v.rd F.LPE_SLOT_RES_SLOT = s.rd F.LPE_SLOT_RES_SLOT := by
    subst hv
    exact rd_wr_ne _ _ (slotRes_ne n)
  unfold State.slotStopped
  dsimp only
  rw [hv]
  cases hout : v.outVal (s.lslot n).entry.outSig with
  | none => exact ⟨hstate, hposts, hout, hsp, hres⟩
  | some o =>
    simp only [hst, decide_true, Bool.or_true, if_true]
    exact ⟨hstate, hposts, outVal_dropOut v _, hsp, hres⟩

theorem slotDisable_error (h : s.MayWrite m .lpe R.LPE_SLOT_CMD) (hf : s.following = false) (hst : s.lslotState n = 2) :
    s.Yields (.slotDisable m n) fun t => t.lslotState n = 0 ∧ t.rd F.LPE_SLOT_RES_RESULT = 0 ∧ (t.lslot n).posts = [] ∧ s.Spares t ∧
      t.outVal (s.lslot n).entry.outSig = none := by
  refine slotCommand_yields (op := 2) rfl h hf fun u hu => ?_
  have htaken := (hu.taken n).slotStat
  have hslot : (u.slotTaken n false).rd F.LPE_SLOT_RES_SLOT = n.val := (slotTaken_shows u n false).2
  have hhere : u.slotCommandHere n 2 = ((u.slotTaken n false).slotStopped n).slotDone n 0 := by
    simp [State.slotCommandHere, (hu.lslotState n).trans hst, doDisable_eq]
  rw [hhere, ← htaken.lslot n]
  generalize u.slotTaken n false = v at htaken hslot
  obtain ⟨hstate, hposts, hout, hsp, hres⟩ := slotStopped_effect ((htaken.lslotState n).trans hst)
  have hdone := slotDone_slotStat (v.slotStopped n) n 0
  obtain ⟨hresult, -⟩ := slotDone_shows (hres.trans hslot) (r := 0) (by decide)
  exact ⟨(hdone.lslotState n).trans hstate, hresult, (congrArg LpeSlot.posts (hdone.lslot n)).trans hposts,
    htaken.spares.trans (hsp.trans hdone.spares), (hdone.outVal _).trans hout⟩

/-! ## The output of a sample (R205, R207, R210 to R212) -/

/-- A value within OUT_MIN and OUT_MAX of an entry. -/
def InOutRange (e : SlotEntry) (v : Int) : Prop := e.outMin ≤ v ∧ v ≤ e.outMax

theorem clampI_within {e : SlotEntry} (h : e.outMin ≤ e.outMax) (v : Int) : InOutRange e (clampI e.outMin e.outMax v) := by
  unfold InOutRange clampI
  split_ifs <;> omega

/-- A loop offers a clamped value or none. -/
theorem evalLoop_within {e : SlotEntry} (h : e.outMin ≤ e.outMax) {r : LoopRec} {st : LoopState} {pv : Int} {q : Nat} {uFb v : Int}
    (hv : (evalLoop e r st pv q uFb).2.1 = some v) : InOutRange e v := by
  have hclamp {x : Int} (hx : some (clampI e.outMin e.outMax x) = some v) : InOutRange e v := Option.some.inj hx ▸ clampI_within h x
  unfold evalLoop at hv
  split at hv
  · cases hv
  split at hv
  · split at hv
    · exact hclamp hv
    · cases hv
  extract_lets at hv
  split at hv
  · exact hclamp hv
  · exact hclamp hv

theorem evalLoops_within {e : SlotEntry} (h : e.outMin ≤ e.outMax) {pvs : List (Int × Nat)} {uFb : Int} {rs : List LoopRec}
    {ss : List LoopState} {j : Nat} : ∀ x ∈ (evalLoops e pvs uFb rs ss j).2.1, InOutRange e x.2 := by
  induction rs generalizing ss j with
  | nil => simp [evalLoops]
  | cons r rs ih =>
    cases ss with
    | nil => simp [evalLoops]
    | cons st ss =>
      intro x hx
      have hrest := ih (ss := ss) (j := j + 1) x
      simp only [evalLoops] at hx
      cases hu : (evalLoop e r st (pvs.getD j (0, 5)).1 (pvs.getD j (0, 5)).2 uFb).2.1 with
      | none =>
        rw [hu] at hx
        exact hrest hx
      | some v =>
        rw [hu] at hx
        rcases List.mem_cons.mp hx with rfl | hx
        · exact evalLoop_within h hu
        · exact hrest hx

/-- The winner is one of the outputs offered. -/
theorem winner_mem {l : List (Nat × Int)} {x : Nat × Int} (h : winner l = some x) : x ∈ l := by
  induction l generalizing x with
  | nil => cases h
  | cons a l ih =>
    simp only [winner] at h
    cases hw : winner l with
    | none =>
      rw [hw] at h
      cases h
      exact List.mem_cons_self
    | some b =>
      rw [hw] at h
      simp only at h
      split_ifs at h <;> cases h
      · exact List.mem_cons_of_mem _ (ih hw)
      · exact List.mem_cons_self

/-- Compensation clamps what it changes, and of the slot it writes the compensation's history only. -/
theorem compensate_within {e : SlotEntry} (h : e.outMin ≤ e.outMax) (x : LpeSlot) {u : Int} (hu : InOutRange e u) (fb : Int) (active : Bool) :
    InOutRange e (compensate e x u fb active).2 ∧
      ∃ p us sg, (compensate e x u fb active).1 = { x with p1 := p, uSel1 := us, lastSign := sg } := by
  unfold compensate
  extract_lets p dp sg hist moved stuck kick y
  have hp : InOutRange e p := by
    unfold p
    split
    · split
      · exact hu
      · exact clampI_within h _
    · exact hu
  refine ⟨?_, _, _, _, rfl⟩
  change InOutRange e y
  unfold y
  split
  · exact clampI_within h _
  · exact hp

/-- A sample's outcome shown and put into the output image. -/
def State.slotWrites (s : State) (n : Fin 64) (sig win : Nat) (y : Int) (q : Nat) : State :=
  ((s.wr (F.LPE_SLOTn_STAT_WIN n) win).wr (F.LPE_SLOTn_OUT_OUT n) (ofI y).toNat).putOut sig ⟨ofI y, q, 16 + n.val⟩

/-- From `s` to `u` the slot's evaluation is over, its output still to be written. -/
def State.Evaluates (s u : State) (n : Fin 64) : Prop :=
  s.Spares u ∧ u.lpe.out = s.lpe.out ∧ u.lslotState n = s.lslotState n ∧ (u.lslot n).due = false ∧ (u.lslot n).posts = []

theorem countEvals_keeps (s : State) (k : Nat) :
    s.Spares (s.countEvals k) ∧ (s.countEvals k).lpe.out = s.lpe.out ∧ (s.countEvals k).lslotState n = s.lslotState n := by
  unfold State.countEvals
  split
  · exact ⟨⟨rfl, rfl, rfl⟩, rfl, rfl⟩
  · refine ⟨⟨rfl, rfl, rfl⟩, rfl, ?_⟩
    have hload : s.Leaves SlotStat (s.wr F.LPE_LOAD_EVALS s.lastEvals) := wr_leaves (not_slotStat (by simp))
    exact hload.lslotState n

/-- What a sample shows and counts before its output. -/
def State.sampleCounted (s : State) (n : Fin 64) (modes : Nat) (comp : Bool) (cnt : Nat) (sat : Bool) : State :=
  let s1 := ((s.wr (F.LPE_SLOTn_STAT_MODES n) modes).wrB (F.LPE_SLOTn_STAT_COMP_OFF n) (!comp)).countEvals cnt
  if sat then s1.wr (F.LPE_SLOTn_STAT_SAT n) 1 else s1

theorem sampleCounted_keeps (s : State) (n : Fin 64) (modes : Nat) (comp : Bool) (cnt : Nat) (sat : Bool) :
    s.Spares (s.sampleCounted n modes comp cnt sat) ∧ (s.sampleCounted n modes comp cnt sat).lpe.out = s.lpe.out ∧
      (s.sampleCounted n modes comp cnt sat).lslotState n = s.lslotState n := by
  have hstat {t : State} {f : Fld} (hfit : f.lo + f.w ≤ 32) (hlo : 2 ≤ f.lo) (x : Nat) : (t.wr f x).lslotState n = t.lslotState n :=
    lslotState_wr hfit hlo x n
  obtain ⟨hsp, hout, hst⟩ := countEvals_keeps (n := n) ((s.wr (F.LPE_SLOTn_STAT_MODES n) modes).wrB (F.LPE_SLOTn_STAT_COMP_OFF n) (!comp)) cnt
  have hshown : ((s.wr (F.LPE_SLOTn_STAT_MODES n) modes).wrB (F.LPE_SLOTn_STAT_COMP_OFF n) (!comp)).lslotState n = s.lslotState n :=
    (hstat (by norm_num) (by norm_num) _).trans (hstat (by norm_num) (by norm_num) _)
  unfold State.sampleCounted
  dsimp only
  split
  · exact ⟨hsp, hout, (hstat (by norm_num) (by norm_num) 1).trans (hst.trans hshown)⟩
  · exact ⟨hsp, hout, hst.trans hshown⟩

/-- The slot as the evaluation leaves it is put into a state that shows and counts the sample. -/
theorem evaluates_of {v : State} (h : s.Spares v ∧ v.lpe.out = s.lpe.out ∧ v.lslotState n = s.lslotState n) {x : LpeSlot}
    (hdue : x.due = false) (hposts : x.posts = []) : s.Evaluates (v.setLslot n x) n := by
  obtain ⟨hsp, hout, hst⟩ := h
  refine ⟨hsp, hout, hst, ?_, ?_⟩
  · rw [lslot_setLslot_same]
    exact hdue
  · rw [lslot_setLslot_same]
    exact hposts

theorem State.Evaluates.raise {b : Blk} {i : Nat} (h : s.Evaluates u n) (hb : ¬SlotStat (R.BLK_IRQ_RAW b)) : s.Evaluates (u.raise b i) n := by
  obtain ⟨hsp, hout, hst, hdue, hposts⟩ := h
  have hraise : u.Leaves SlotStat (u.raise b i) := raise_leaves hb
  have hslot := hraise.lslot n
  exact ⟨hsp.trans hraise.spares, (congrArg Lpe.out hraise.lpe).trans hout, (hraise.lslotState n).trans hst,
    (congrArg LpeSlot.due hslot).trans hdue, (congrArg LpeSlot.posts hslot).trans hposts⟩

/-- A sample writes a value between OUT_MIN and OUT_MAX. -/
theorem sampleWith_writes (s : State) (n : Fin 64) (pvs : List (Int × Nat)) (fb : Int) (fq : Nat)
    (hrange : (s.lslot n).entry.outMin ≤ (s.lslot n).entry.outMax) (hfail : InOutRange (s.lslot n).entry (s.lslot n).entry.failVal)
    (hlast : InOutRange (s.lslot n).entry (s.lslot n).uFb) :
    ∃ u win y q, s.sampleWith n pvs fb fq = u.slotWrites n (s.lslot n).entry.outSig win y q ∧ s.Evaluates u n ∧
      InOutRange (s.lslot n).entry y := by
  unfold State.sampleWith
  extract_lets x0 e ls0 comp hist
  have hoffers := evalLoops_within (rs := e.loops) (ss := ls0) (j := 0) (pvs := pvs) (uFb := x0.uFb) hrange
  generalize evalLoops e pvs x0.uFb e.loops ls0 0 = r at hoffers
  obtain ⟨ls, us, sat, cnt⟩ := r
  have hcounted := sampleCounted_keeps s n (modesOf ls) comp cnt sat
  dsimp only at hoffers ⊢
  cases hw : winner us with
  | some x =>
    obtain ⟨j, v⟩ := x
    obtain ⟨hy, p, us', sg, hx2⟩ := compensate_within hrange { x0 with loops := ls, posts := [], due := false, served := s.dueIndex e }
      (hoffers _ (winner_mem hw)) fb comp
    refine ⟨_, _, _, _, rfl, evaluates_of hcounted ?_ ?_, hy⟩
    · rw [hx2]
    · rw [hx2]
  | none =>
    refine ⟨_, _, _, _, rfl, ?_, ?_⟩
    · split
      · exact evaluates_of hcounted rfl rfl
      · exact (evaluates_of hcounted rfl rfl).raise (not_slotStat (by simp))
    · split
      · exact hfail
      · exact hlast

theorem ofI_toInt {y : Int} (hlo : i32Min ≤ y) (hhi : y ≤ i32Max) : (ofI y).toInt = y := by
  unfold i32Min at hlo
  unfold i32Max at hhi
  exact BitVec.toInt_ofInt_eq_self (by decide) (by norm_num; omega) (by norm_num; omega)

theorem lslot_putOut (s : State) (sig : Nat) (o : OutVal) (n : Fin 64) : (s.putOut sig o).lslot n = s.lslot n := rfl

theorem regGet_putOut (s : State) (sig : Nat) (o : OutVal) (a : Nat) : (s.putOut sig o).regGet a = s.regGet a := rfl

theorem lslotState_putOut (s : State) (sig : Nat) (o : OutVal) (n : Fin 64) : (s.putOut sig o).lslotState n = s.lslotState n :=
  rd_of_regGet (regGet_putOut s sig o _)

theorem putOut_spares (s : State) (sig : Nat) (o : OutVal) : s.Spares (s.putOut sig o) := ⟨rfl, rfl, rfl⟩

theorem outVal_putOut_same (s : State) (sig : Nat) (o : OutVal) : (s.putOut sig o).outVal sig = some o := by
  unfold State.outVal State.putOut
  exact sparse_get_put_same s.lpe.out none sig (some o)

theorem outVal_putOut_ne (s : State) {sig k : Nat} (o : OutVal) (h : k ≠ sig) : (s.putOut sig o).outVal k = s.outVal k := by
  unfold State.outVal State.putOut
  exact sparse_get_put_ne s.lpe.out none none (some o) h

/-- The output register and the output image show the value written. -/
theorem slotWrites_effect (h : s.Evaluates u n) (sig win : Nat) (y : Int) (q : Nat) :
    s.Spares (u.slotWrites n sig win y q) ∧ (u.slotWrites n sig win y q).lslotState n = s.lslotState n ∧
      ((u.slotWrites n sig win y q).lslot n).due = false ∧ ((u.slotWrites n sig win y q).lslot n).posts = [] ∧
      (∀ k, k ≠ sig → (u.slotWrites n sig win y q).outVal k = s.outVal k) ∧
      (u.slotWrites n sig win y q).outVal sig = some ⟨ofI y, q, 16 + n.val⟩ ∧ (u.slotWrites n sig win y q).regGet (R.LPE_SLOTn_OUT n) = ofI y := by
  obtain ⟨hsp, hout, hst, hdue, hposts⟩ := h
  have hne : R.LPE_SLOTn_STAT n ≠ R.LPE_SLOTn_OUT n := by
    simp only [R.LPE_SLOTn_STAT, R.LPE_SLOTn_OUT]
    omega
  unfold State.slotWrites
  generalize hv : (u.wr (F.LPE_SLOTn_STAT_WIN n) win).wr (F.LPE_SLOTn_OUT_OUT n) (ofI y).toNat = v
  have hstate : v.lslotState n = u.lslotState n := by
    subst hv
    exact (rd_wr_ne _ _ hne).trans (lslotState_wr (by norm_num) (by norm_num) win n)
  have hshown : v.regGet (R.LPE_SLOTn_OUT n) = ofI y := by
    subst hv
    exact regGet_of_rd_whole ((rd_wr_same _ _ _ (by norm_num)).trans (Nat.mod_eq_of_lt (ofI y).isLt))
  have hlpe : v.lpe = u.lpe := by
    subst hv
    rfl
  have hspares : s.Spares v := by
    subst hv
    exact hsp
  have hslot : v.lslot n = u.lslot n := by rw [State.lslot, State.lslot, hlpe]
  have hkept (k : Nat) : v.outVal k = s.outVal k := by rw [State.outVal, State.outVal, hlpe, hout]
  rw [lslot_putOut, lslotState_putOut, hslot]
  exact ⟨hspares.trans (putOut_spares v sig _), hstate.trans hst, hdue, hposts, fun k hk => (outVal_putOut_ne v _ hk).trans (hkept k),
    outVal_putOut_same v sig _, (regGet_putOut v sig _ _).trans hshown⟩

/-! ## The order of samples and overruns (R200, R201, R203) -/

theorem setLslot_self (s : State) (n : Fin 64) : s.setLslot n (s.lslot n) = s := by
  have hslots : s.lpe.slots.set n s.lpe.slots[n] = s.lpe.slots := Vector.set_getElem_self n.isLt
  unfold State.setLslot State.lslot
  rw [hslots]

theorem sampleDue_runs (h : s.sampleDue n = true) : s.lslotState n = 1 := by
  simp only [State.sampleDue, State.slotDue, Bool.and_eq_true, beq_iff_eq] at h
  obtain ⟨⟨⟨-, hrun, -⟩, -⟩, -⟩ := h
  exact hrun

/-- A due sample without a waiting command is an evaluation. -/
theorem slotSample_exec (hlive : s.Live .lpe) (hdue : s.sampleDue n = true) (hcmd : (s.lslot n).cmd = 0) :
    exec (.slotSample n) s = .next (s.sampleNow n) := by
  change execSlotSample n s = _
  have hslot : ({ s.lslot n with cmd := 0 } : LpeSlot) = s.lslot n := by rw [← hcmd]
  have hcmdNow : s.slotCmdNow n = s := by
    unfold State.slotCmdNow
    rw [hslot, setLslot_self, hcmd]
    rfl
  rw [execSlotSample, whileLive_live hlive, hcmdNow, hdue]
  exact congrArg Host.Outcome.next (if_pos (sampleDue_runs hdue))

theorem slotSample_idle (hlive : s.Live .lpe) (hdue : s.sampleDue n = false) : exec (.slotSample n) s = .next s := by
  change execSlotSample n s = _
  rw [execSlotSample, whileLive_live hlive, hdue]
  rfl

/-- A locked slot that is due goes before every unlocked slot, and before the slots of its task with a higher number. -/
theorem sampleDue_after_locked {k : Fin 64} (hk : s.slotDue k = true) (hlock : (s.lslot k).entry.locked = true)
    (h : (s.lslot n).entry.locked = false ∨ ((s.lslot n).entry.lockTask = (s.lslot k).entry.lockTask ∧ k < n)) : s.sampleDue n = false := by
  have hbefore : s.goesBefore k n = true := by
    unfold State.goesBefore
    rcases h with h | ⟨htask, hlt⟩
    · simp [hlock, h]
    · simp [hlock, htask, hlt]
  have hany : (allSlots.any fun k => s.slotDue k && s.goesBefore k n) = true :=
    List.any_eq_true.mpr ⟨k, mem_allSlots k, by rw [hk, hbefore]; rfl⟩
  rw [State.sampleDue, hany, Bool.not_true, Bool.and_false]

/-- The evaluation runs on the slot itself and on the inputs, which the Tandem stream may record first. -/
theorem sampleNow_eq (s : State) (n : Fin 64) : ∃ x pvs fb fq, s.sampleNow n = ({ s with tdm := x } : State).sampleWith n pvs fb fq := by
  unfold State.sampleNow
  extract_lets e pvs
  dsimp only
  split
  · exact ⟨s.tdm, _, _, _, rfl⟩
  · obtain ⟨x, hx⟩ := emit_eq s (.lsample n.val ((pvs ++ [s.slotInput e e.fbSig]).map fun v => (ofI v.1, BitVec.ofNat 32 v.2)))
    exact ⟨x, _, _, _, congrArg (State.sampleWith · n pvs _ _) hx⟩

theorem slotSample_yields (hlive : s.Live .lpe) (hdue : s.sampleDue n = true) (hcmd : (s.lslot n).cmd = 0)
    (hlo : i32Min ≤ (s.lslot n).entry.outMin) (hrange : (s.lslot n).entry.outMin ≤ (s.lslot n).entry.outMax)
    (hhi : (s.lslot n).entry.outMax ≤ i32Max) (hfail : InOutRange (s.lslot n).entry (s.lslot n).entry.failVal)
    (hlast : InOutRange (s.lslot n).entry (s.lslot n).uFb) :
    s.Yields (.slotSample n) fun t => (t.lslot n).due = false ∧ (t.lslot n).posts = [] ∧ t.lslotState n = 1 ∧ s.Spares t ∧
      (∀ sig, sig ≠ (s.lslot n).entry.outSig → t.outVal sig = s.outVal sig) ∧
      ∃ o, t.outVal (s.lslot n).entry.outSig = some o ∧ o.writer = 16 + n.val ∧ t.regGet (R.LPE_SLOTn_OUT n) = o.value ∧
        (s.lslot n).entry.outMin ≤ o.value.toInt ∧ o.value.toInt ≤ (s.lslot n).entry.outMax := by
  obtain ⟨x, pvs, fb, fq, hnow⟩ := sampleNow_eq s n
  obtain ⟨u, win, y, q, hwrites, heval, hmin, hmax⟩ := sampleWith_writes { s with tdm := x } n pvs fb fq hrange hfail hlast
  obtain ⟨hsp, hst, hdue', hposts, hother, hout, hreg⟩ := slotWrites_effect heval (s.lslot n).entry.outSig win y q
  have hy : (ofI y).toInt = y := ofI_toInt (hlo.trans hmin) (hmax.trans hhi)
  refine ⟨_, (slotSample_exec hlive hdue hcmd).trans (congrArg _ (hnow.trans hwrites)), hdue', hposts, hst.trans (sampleDue_runs hdue), hsp,
    hother, _, hout, rfl, hreg, ?_, ?_⟩
  · rw [hy]
    exact hmin
  · rw [hy]
    exact hmax

theorem satInc_le (k i : Nat) : satInc k i ≤ k := by
  unfold satInc
  split <;> omega

theorem slotOverrun_yields (hlive : s.Live .lpe) (hen : s.en .lpe = true) (hst : s.lslotState n = 1) (hfree : (s.lslot n).entry.locked = false)
    (hlate : (s.lslot n).served + 2 ≤ s.dueIndex (s.lslot n).entry) :
    s.Yields (.slotOverrun n) fun t => t.lslot n = { s.lslot n with served := s.dueIndex (s.lslot n).entry - 1 } ∧ t.Caused .lpe 2 ∧
      t.rd (F.LPE_SLOTn_STAT_OVR n) = satInc 0xFFFF (s.rd (F.LPE_SLOTn_STAT_OVR n)) ∧ s.Spares t := by
  generalize hx : ({ s.lslot n with served := s.dueIndex (s.lslot n).entry - 1 } : LpeSlot) = x
  have hexec : exec (.slotOverrun n) s = .next (((s.setLslot n x).incSat (F.LPE_SLOTn_STAT_OVR n)).raise .lpe 2) := by
    change execSlotOverrun n s = _
    rw [execSlotOverrun, whileLive_live hlive]
    simp [hen, hst, hfree, Nat.not_lt.mpr hlate, hx]
  have hraise : ((s.setLslot n x).incSat (F.LPE_SLOTn_STAT_OVR n)).Leaves SlotStat _ :=
    raise_leaves (b := .lpe) (n := 2) (not_slotStat (by simp))
  refine ⟨_, hexec, (hraise.lslot n).trans (lslot_setLslot_same s n x), raise_caused (by decide), (hraise.rd ⟨n, rfl⟩).trans ?_,
    hraise.spares⟩
  exact (rd_wr_same _ _ _ (by norm_num)).trans (Nat.mod_eq_of_lt (Nat.lt_succ_of_le (satInc_le 0xFFFF _)))

/-! ## The obligation -/

/-- Settles O28: each command by the slot's state, and samples and overruns by what is due. -/
theorem loopSlots : Obligations.LoopSlots := by
  intro m n s
  refine ⟨fun h hf => ?_, fun hlive => ⟨fun hdue hcmd => ?_, slotSample_idle hlive, fun k hk hlock horder => ?_, slotOverrun_yields hlive⟩⟩
  · intro refused waits
    refine ⟨fun h0 => ⟨?_, ?_, slotEnable_unread h hf h0, fun bs => slotEnable_read h hf h0⟩, fun h1 => ⟨?_, ?_, ?_⟩, fun h2 => ⟨?_, ?_, ?_⟩⟩
    · exact slotCommand_refused (op := 2) rfl h hf (by rw [h0]; decide)
    · exact slotCommand_refused (op := 3) rfl h hf (by rw [h0]; decide)
    · exact slotCommand_refused (op := 1) rfl h hf (by rw [h1]; decide)
    · exact slotCommand_waits rfl h hf (.inl rfl) h1
    · exact slotCommand_waits rfl h hf (.inr rfl) h1
    · exact slotCommand_refused (op := 1) rfl h hf (by rw [h2]; decide)
    · exact slotCommand_refused (op := 3) rfl h hf (by rw [h2]; decide)
    · obtain ⟨t, ht, hst, hres, hposts, hsp, hout⟩ := slotDisable_error h hf h2
      exact ⟨t, ht, hst, hres, hposts, hsp, fun _ _ _ => hout⟩
  · intro e hlo hrange hhi hfail hfail' hlast hlast'
    exact slotSample_yields hlive hdue hcmd hlo hrange hhi ⟨hfail, hfail'⟩ ⟨hlast, hlast'⟩
  · exact slotSample_idle hlive (sampleDue_after_locked hk hlock horder)

end Sys2Proof.Machine
end
